-- ==== Sys2Proof/Word.lean ====
section
/-! DEFINITION. The words of the machine: 32-bit registers (R48), bytes, and bit fields of a register (R9). -/

namespace Sys2Proof

/-- A register word (R48). -/
abbrev Word := BitVec 32

/-- A byte of memory. -/
abbrev Byte := BitVec 8

namespace Machine

/-- A field of a register: the BAR0 offset of its register, its lowest bit and its width (R9). -/
structure Fld where
  off : Nat
  lsb : Nat
  width : Nat
deriving DecidableEq, Repr

end Machine

end Sys2Proof
end

