-- ==== Sys2Proof/Syntax.lean ====
section
/-! DEFINITION. The commands that reach the block, and the data they carry. -/

namespace Sys2Proof

/-- Requesters of register space (R53). -/
inductive Requester where
  | host | cc0 | cc1 | dma
deriving DecidableEq, Repr

/-- One 32-bit register write as it reaches register space: who sends it, the data, the byte enables and whether the data
carry poison (R50, R53, R718). -/
structure RegWrite where
  req : Requester
  val : BitVec 32
  be : BitVec 4
  poison : Bool
deriving DecidableEq, Repr

/-- A host access through BAR2 or BAR4: a read of a number of bytes, or a write of bytes (none: not enabled) whose TLP may carry
the EP bit (R51, R60, R61, R718). -/
inductive HostAcc where
  | read (len : Nat)
  | write (data : List (Option Byte)) (ep : Bool)
deriving DecidableEq, Repr

/-- A frame that reaches a port of a network: its bytes from the first byte of the header to the last before the check
sequence, and whether the check sequence is good. -/
structure RxFrame where
  bytes : List Byte
  good : Bool
deriving DecidableEq, Repr

/-- What the SPD hub of a DIMM tells (R514 to R517, R522): capacity in GiB, ranks, device width, density in Gb, highest data
rate (0 4800, 1 5600, 2 6400), tRFCsb and tRC in ns, directed refresh management, serial number. -/
structure Spd where
  gib : Nat
  ranks : Nat
  x8 : Bool
  density : Nat
  rate : Nat
  /-- A registered DIMM with an RCD, a PMIC and an SPD hub, and the bits of one of its subchannels (R514). -/
  registered : Bool
  subBits : Nat
  tRfc1 : Nat
  tRfcSb : Nat
  tRc : Nat
  drfm : Bool
  /-- Refresh management parameters, as the SPD codes them. -/
  rfm : Nat
  serial : Nat
deriving DecidableEq, Repr

/-- How a DRAM read returns (R547, R549): intact; with one device in error, and the syndrome; uncorrectable, with the data as read, two failing
devices (31 for none), the syndrome, and whether the partner's copy is good. -/
inductive DdrQuality where
  | clean
  | oneDevice (d : Nat) (syndrome : Nat)
  | uncorrectable (data : List Byte) (d1 d2 : Nat) (syndrome : Nat) (partnerGood : Bool)
deriving DecidableEq, Repr

/-- A request at the DDR5 controllers: real-time port or best-effort requester, and what it asks (R531, R532). -/
inductive DdrOp where
  | read (len : Nat)
  | write (data : List Byte) (poison : Bool)
deriving DecidableEq, Repr

/-- Four conversions of HOLDUP_SENSE by the 12-bit ADC (R653). -/
structure Adc where
  a : BitVec 12
  b : BitVec 12
  c : BitVec 12
  d : BitVec 12
deriving DecidableEq, Repr

/-- Why a ring port faults (R409). -/
inductive RingFault where
  /-- Lock or alignment has been lost for longer than HOLDOFF. -/
  | lock
  /-- The port has counted an uncorrectable codeword; the eighth within 1 ms is a fault. -/
  | codeword
  /-- The Remote Fault sequence arrives. -/
  | remote
deriving DecidableEq, Repr

/-- A ring port and what it has met (R409). -/
structure PortFault where
  port : Fin 2
  why : RingFault
deriving DecidableEq, Repr

/-- Who writes Densum: a requester of the region table (R480) and, where it is one, the control core (R98). -/
structure DsmWriter where
  req : Fin 9
  core : Option (Fin 2)
deriving DecidableEq, Repr

/-- The commands of the block: one constructor per row of the table of operations and events. -/
inductive Instr where
  -- Registers and the host port
  /-- REGISTER_WRITE (R13). -/
  | registerWrite (off : Nat) (w : RegWrite)
  /-- RC_READ (R49). -/
  | rcRead (off : Nat) (req : Requester)
  /-- CAPTURE_READ (R245). -/
  | captureRead (off : Nat) (req : Requester)
  /-- QUOIN_WRITE (R53). -/
  | quoinWrite (w : RegWrite)
  /-- SWITCH (R103). -/
  | switch (w : RegWrite)
  /-- RESTART (R101). -/
  | restart (w : RegWrite)
  /-- CAUSE_CLEAR (R93). -/
  | causeClear (off : Nat) (w : RegWrite)
  /-- MSIX_UNMASK (R94). -/
  | msixUnmask (v : Fin 64)
  /-- WINDOW_ACCESS (R61). -/
  | windowAccess (off : Nat) (a : HostAcc)
  /-- BAR2_ACCESS (R60). -/
  | bar2Access (off : Nat) (a : HostAcc)
  /-- FUNCTION_LEVEL_RESET (R64). -/
  | functionLevelReset
  /-- PERST_N (R64). -/
  | perstN
  /-- MBX_DOORBELL (R68). -/
  | mbxDoorbell (bits : BitVec 16)
  /-- RING_DOORBELL (R86). -/
  | ringDoorbell (bits : BitVec 4)
  /-- DONE_CLEAR (R73). -/
  | doneClear (w : RegWrite)
  -- Mailbox: system commands; control cores
  /-- DEVICE_INFO (R78). -/
  | deviceInfo
  /-- ECHO (R716). -/
  | echo
  /-- CORE_SWITCH (R79). -/
  | coreSwitch
  /-- CORE_RESTART (R101). -/
  | coreRestart
  /-- HEARTBEAT (R96). -/
  | heartbeat
  /-- HB_TIMEOUT (R97). -/
  | hbTimeout
  /-- CORE_FAULT (R97). -/
  | coreFault
  /-- FIRMWARE_RESUME (R99). -/
  | firmwareResume
  /-- HANDOVER (R103). -/
  | handover
  /-- STANDBY_SELFTEST_DONE (R101). -/
  | standbySelftestDone (pass : Bool)
  /-- STANDBY_READY (R101). -/
  | standbyReady
  /-- RING_MBX_TIMEOUT (R89). -/
  | ringMbxTimeout (m : Fin 4)
  -- Layers, the Forme and heads: mailbox commands
  /-- LAYER_DEFINE (R110). -/
  | layerDefine
  /-- LAYER_COLOUR (R185). -/
  | layerColour
  /-- LAYER_SCALER (R186). -/
  | layerScaler
  /-- LAYER_LUT (R210). -/
  | layerLut
  /-- LAYER_KEY (R212). -/
  | layerKey
  /-- LAYER_FLIP (R115). -/
  | layerFlip
  /-- FORME_COMMIT (R118). -/
  | formeCommit
  /-- FORME_GROUP_COMMIT (R123). -/
  | formeGroupCommit
  /-- HEAD_LUT (R215). -/
  | headLut
  /-- SET_TIMING (R255). -/
  | setTiming
  /-- HEAD_RUN (R269). -/
  | headRun
  /-- HEAD_REEF (R263). -/
  | headReef
  /-- HEAD_WRITEBACK (R278). -/
  | headWriteback
  -- Heads: registers, timing, scan-out
  /-- COMMIT (R235). -/
  | commit (h : Fin 4) (w : RegWrite)
  /-- COMMIT_GROUP (R239). -/
  | commitGroup (h : Fin 4) (w : RegWrite)
  /-- HEAD_CTRL_EN (R270). -/
  | headCtrlEn (h : Fin 4) (w : RegWrite)
  /-- HEAD_CTRL_REEF (R268). -/
  | headCtrlReef (h : Fin 4) (w : RegWrite)
  /-- HEAD_CTRL_HOLD (R253). -/
  | headCtrlHold (h : Fin 4) (w : RegWrite)
  /-- STATS_CLR (R226). -/
  | statsClr (h : Fin 4) (w : RegWrite)
  /-- LATCH (R233). -/
  | latch (h : Fin 4)
  /-- LINE_WINDOW_START (R218). -/
  | lineWindowStart (h : Fin 4)
  /-- LINE_COMPLETE (R225). -/
  | lineComplete (h : Fin 4)
  /-- LINE_DEADLINE (R230). -/
  | lineDeadline (h : Fin 4)
  /-- SLUG_QUEUE (R296). -/
  | slugQueue (h : Fin 4)
  /-- HEAD_STOP (R250). -/
  | headStop (h : Fin 4)
  /-- HEAD_RESTART (R251). -/
  | headRestart (h : Fin 4)
  /-- RELEASE (R252). -/
  | release (h : Fin 4)
  /-- WAIT_LINES_EXPIRE (R133). -/
  | waitLinesExpire (l : Fin 64)
  /-- WB_FRAME_COMPLETE (R275). -/
  | wbFrameComplete (h : Fin 4)
  -- Wall map and Sheet ports
  /-- CABINET_MAP_LOAD (R327). -/
  | cabinetMapLoad
  /-- SHEET_PORT_SET (R330). -/
  | sheetPortSet
  /-- SHEET_PING (R332). -/
  | sheetPing
  /-- PING_TIMEOUT (R332). -/
  | pingTimeout (p : Fin 16)
  /-- PAIR_MODE_WRITE (R325). -/
  | pairModeWrite (k : Fin 8) (w : RegWrite)
  /-- SHEET_TRANSMIT (R459). -/
  | sheetTransmit (p : Fin 16)
  /-- SHEET_RECEIVE (R316). -/
  | sheetReceive (p : Fin 16) (f : RxFrame)
  /-- STATUS_HANDOFF (R316). -/
  | statusHandoff (p : Fin 16)
  /-- LOOP_PROBE (R321). -/
  | loopProbe (p : Fin 16)
  /-- PROBE_MISSING (R321). -/
  | probeMissing (p : Fin 16)
  /-- SHEET_LINK_DOWN (R322). -/
  | sheetLinkDown (p : Fin 16)
  /-- SHEET_LINK_UP (R314). -/
  | sheetLinkUp (p : Fin 16)
  -- Ingest
  /-- INGEST_PORT_SET (R372). -/
  | ingestPortSet
  /-- STREAM_DEFINE (R373). -/
  | streamDefine
  /-- INGEST_RECEIVE (R337). -/
  | ingestReceive (p : Fin 4) (f : RxFrame)
  /-- STREAM_LOST (R364). -/
  | streamLost (h : Fin 48)
  /-- LINE_CUTOFF (R356). -/
  | lineCutoff (l : Fin 64)
  /-- FIRMWARE_NET_PACKET (R371). -/
  | firmwareNetPacket (p : Fin 4)
  /-- PTP_SYNC_TIMEOUT (R629). -/
  | ptpSyncTimeout
  -- Ring mailbox commands
  /-- RING_JOIN (R423). -/
  | ringJoin
  /-- RING_LEAVE (R425). -/
  | ringLeave
  /-- RING_MEMBERS (R426). -/
  | ringMembers
  /-- RING_COPY (R427). -/
  | ringCopy
  /-- RING_WB_RELAY (R430). -/
  | ringWbRelay
  /-- RING_SCHED_SET (R462). -/
  | ringSchedSet
  /-- RING_GATE_SET (R464). -/
  | ringGateSet
  /-- RING_POLICE_SET (R466). -/
  | ringPoliceSet
  -- Ring frames and ports
  /-- RING_RECEIVE (R388). -/
  | ringReceive (p : Fin 2) (frame : List Byte)
  /-- BEACON (R395). -/
  | beacon (p : Fin 2)
  /-- BEACON_SEND (R394). -/
  | beaconSend
  /-- BEACON_LOSS (R395). -/
  | beaconLoss (rid : BitVec 16)
  /-- PDELAY_SEND (R397). -/
  | pdelaySend (p : Fin 2)
  /-- PDELAY_REQ (R397). -/
  | pdelayReq (p : Fin 2)
  /-- PDELAY_RESP (R398). -/
  | pdelayResp (p : Fin 2)
  /-- SYNC_SEND (R401). -/
  | syncSend
  /-- SYNC (R403). -/
  | sync (p : Fin 2)
  /-- MBX_CMD (R88). -/
  | mbxCmd (p : Fin 2)
  /-- MBX_RESP (R89). -/
  | mbxResp (p : Fin 2)
  /-- WRAP_NOTICE (R413). -/
  | wrapNotice (p : Fin 2)
  /-- BULK (R387). -/
  | bulk (p : Fin 2)
  /-- BULK_DONE (R428). -/
  | bulkDone (p : Fin 2)
  /-- BULK_ACK (R428). -/
  | bulkAck (p : Fin 2)
  /-- BULK_ACK_TIMEOUT (R428). -/
  | bulkAckTimeout
  /-- PIXEL (R367). -/
  | pixel (p : Fin 2)
  /-- RING_LOCK_LOSS (R409). -/
  | ringLockLoss (p : Fin 2)
  /-- RING_LOCK_REGAIN (R398). -/
  | ringLockRegain (p : Fin 2)
  /-- RING_FAULT (R409). -/
  | ringFault (p : PortFault)
  /-- PORT_CLEAN (R412). -/
  | portClean (p : Fin 2)
  /-- UNWRAP (R412). -/
  | unwrap (p : Fin 2)
  -- Traffic
  /-- RING_EGRESS (R440). -/
  | ringEgress (p : Fin 2)
  /-- INSTALL (R449). -/
  | install (p : Fin 2) (w : RegWrite)
  /-- GATE_LIST_START (R449). -/
  | gateListStart (p : Fin 2)
  /-- GATE_ENTRY_ADVANCE (R446). -/
  | gateEntryAdvance (p : Fin 2)
  -- Shroud
  /-- SHROUD_HEARTBEAT (R416). -/
  | shroudHeartbeat
  /-- SHROUD_HB_TIMEOUT (R416). -/
  | shroudHbTimeout
  /-- TAKEOVER (R416). -/
  | takeover (w : RegWrite)
  /-- BYPASS (R419). -/
  | bypass (w : RegWrite)
  /-- SHROUD_FAULT (R419). -/
  | shroudFault
  /-- SHROUD_POR_END (R419). -/
  | shroudPorEnd
  /-- AUX_RAIL_CHANGE (R638). -/
  | auxRailChange (vaux : Bool) (vaux18 : Bool)
  /-- HANDBACK_LOCK (R421). -/
  | handbackLock
  /-- HANDBACK_LISTEN_END (R421). -/
  | handbackListenEnd
  /-- HANDBACK_CHECK_END (R421). -/
  | handbackCheckEnd (clean : Bool)
  /-- HANDBACK_MATCH_END (R421). -/
  | handbackMatchEnd (p : Fin 2)
  /-- HANDBACK_SWITCH (R421). -/
  | handbackSwitch (p : Fin 2)
  /-- JOIN_COMPLETE (R421). -/
  | joinComplete
  /-- LEAVE_SWITCH (R422). -/
  | leaveSwitch
  -- Densum
  /-- DSM_READ (R487). -/
  | dsmRead (req : Fin 9) (line : BitVec 21) (upsets : List (Nat × Nat))
  /-- DSM_WRITE (R480). -/
  | dsmWrite (req : DsmWriter) (addr : BitVec 27) (data : List (Option Byte)) (poison : Bool)
  /-- SEAL (R483). -/
  | sealPage (page : BitVec 15)
  /-- REGION_REGISTER_WRITE (R475). -/
  | regionRegisterWrite (k : Fin 64) (r : Fin 4) (w : RegWrite)
  /-- RECUR_CLR (R493). -/
  | recurClr (w : RegWrite)
  /-- OVERRIDE (R509). -/
  | override (w : RegWrite)
  -- Memory commands, scrub and repair
  /-- MEM_CONFIG (R564). -/
  | memConfig
  /-- DSM_OVERRIDE (R509). -/
  | dsmOverride
  /-- DSM_REGION_ALLOC (R511). -/
  | dsmRegionAlloc
  /-- DSM_REGION_FREE (R512). -/
  | dsmRegionFree
  /-- SCRUB (R494). -/
  | scrub
  /-- SCRUB_READ (R494). -/
  | scrubRead
  /-- DSM_REPAIR (R503). -/
  | dsmRepair (adc : Adc)
  /-- REPAIR_COPY (R500). -/
  | repairCopy
  /-- REPAIR_SWITCH (R500). -/
  | repairSwitch
  /-- DDR_SCRUB (R562). -/
  | ddrScrub
  /-- DDR_SCRUB_READ (R563). -/
  | ddrScrubRead (q : DdrQuality)
  /-- MEM_SLOT_RETIRE (R558). -/
  | memSlotRetire
  /-- RETIRE_DRAINED (R558). -/
  | retireDrained (c : Fin 4)
  /-- MEM_SLOT_RESTORE (R559). -/
  | memSlotRestore
  /-- RESILVER_COPY (R560). -/
  | resilverCopy (c : Fin 4) (q : DdrQuality)
  -- DDR5
  /-- DDR_REQUEST (R532). -/
  | ddrRequest (realTime : Bool) (r : Nat) (addr : Nat) (op : DdrOp)
  /-- DDR_COMMAND_SLOT (R536). -/
  | ddrCommandSlot (c : Fin 4)
  /-- DDR_READ_RETURN (R549). -/
  | ddrReadReturn (c : Fin 4) (q : DdrQuality)
  /-- REFRESH_DUE (R539). -/
  | refreshDue (c : Fin 4) (rank : Fin 2)
  /-- HAMMER_WINDOW (R543). -/
  | hammerWindow
  /-- REFRESH_STATUS_POLL (R542). -/
  | refreshStatusPoll (c : Fin 4) (hot : Bool)
  /-- SELF_REFRESH_ENTRY (R553). -/
  | selfRefreshEntry (c : Fin 4)
  /-- CA_PARITY_REPORT (R550). -/
  | caParityReport (c : Fin 4) (recurring : List Nat)
  /-- DQS_OSC_READ (R523). -/
  | dqsOscRead (c : Fin 4) (drifts : List (Nat × Int))
  /-- TRAIN_GO (R521). -/
  | trainGo (c : Fin 4) (w : RegWrite)
  /-- TRAIN_DONE (R521). -/
  | trainDone (c : Fin 4) (pass : BitVec 40) (errs : BitVec 32)
  /-- PMIC_WAIT_END (R519). -/
  | pmicWaitEnd (c : Fin 4) (spd : Option Spd)
  /-- SLOT_PWR (R518). -/
  | slotPwr (c : Fin 4) (w : RegWrite)
  /-- INIT_START (R530). -/
  | initStart (w : RegWrite)
  /-- FILL_GRANULE (R525). -/
  | fillGranule
  -- DMA and raster operations
  /-- DMA_CHANNEL_SET (R603). -/
  | dmaChannelSet
  /-- DMA_CHANNEL_CTRL (R604). -/
  | dmaChannelCtrl
  /-- BLT_QUEUE_SET (R605). -/
  | bltQueueSet
  /-- DMA_DOORBELL (R579). -/
  | dmaDoorbell (c : Fin 16)
  /-- DMA_CH_EN (R582). -/
  | dmaChEn (c : Fin 16) (w : RegWrite)
  /-- DMA_RESUME (R585). -/
  | dmaResume (c : Fin 16) (w : RegWrite)
  /-- DMA_ABORT (R585). -/
  | dmaAbort (c : Fin 16) (w : RegWrite)
  /-- DMA_HEAD_WRITE (R582). -/
  | dmaHeadWrite (c : Fin 16) (w : RegWrite)
  /-- DMA_DESCRIPTOR_READ (R574). -/
  | dmaDescriptorRead (c : Fin 16)
  /-- DMA_BURST (R589). -/
  | dmaBurst
  /-- DMA_RESPONSE (R584). -/
  | dmaResponse (c : Fin 16)
  /-- DMA_RESP_TIMEOUT (R583). -/
  | dmaRespTimeout (c : Fin 16)
  /-- DMA_DESCRIPTOR_DONE (R575). -/
  | dmaDescriptorDone (c : Fin 16)
  /-- DREQ (R588). -/
  | dreq (n : Fin 4)
  /-- SWREQ (R587). -/
  | swreq (w : RegWrite)
  /-- BLT_DOORBELL (R590). -/
  | bltDoorbell (w : RegWrite)
  /-- BLT_COMMAND_READ (R599). -/
  | bltCommandRead
  /-- BLT_ROW_DONE (R602). -/
  | bltRowDone
  /-- BLT_COMMAND_DONE (R590). -/
  | bltCommandDone
  /-- BLT_ABORT (R600). -/
  | bltAbort (w : RegWrite)
  -- Clocks and time
  /-- TIME_CONFIG (R633). -/
  | timeConfig
  /-- TIME_GET (R634). -/
  | timeGet
  /-- GENLOCK_SET (R635). -/
  | genlockSet
  /-- CLOCK_OUT_SET (R636). -/
  | clockOutSet
  /-- HPLL_FB_WRITE (R614). -/
  | hpllFbWrite (n : Fin 4) (frac : Bool) (w : RegWrite)
  /-- PLL_LOCK (R614). -/
  | pllLock (n : Fin 4)
  /-- PLL_UNLOCK (R615). -/
  | pllUnlock (n : Fin 4)
  /-- RAMP_GO (R617). -/
  | rampGo (n : Fin 4) (w : RegWrite)
  /-- RAMP_SEGMENT_END (R618). -/
  | rampSegmentEnd (n : Fin 4)
  /-- SYNC_EDGE (R621). -/
  | syncEdge
  /-- GENLOCK_EDGE (R624). -/
  | genlockEdge
  /-- GENLOCK_LOSS (R626). -/
  | genlockLoss
  /-- SET_GO (R630). -/
  | setGo (w : RegWrite)
  /-- TIME_DISCIPLINE (R630). -/
  | timeDiscipline
  /-- HOLDOVER_EXPIRE (R628). -/
  | holdoverExpire
  -- Power, boot and the non-volatile store
  /-- HOLDUP_SET (R667). -/
  | holdupSet (adc : Adc)
  /-- FW_STAGE (R658). -/
  | fwStage
  /-- FW_SWAP (R660). -/
  | fwSwap
  /-- SWAP_TIMEOUT (R661). -/
  | swapTimeout
  /-- THERMAL_SET (R668). -/
  | thermalSet
  /-- DEVICE_RESET (R669). -/
  | deviceReset
  /-- DEVICE_RESET_DELAY (R669). -/
  | deviceResetDelay
  /-- RESET_CTRL_MAIN (R642). -/
  | resetCtrlMain (w : RegWrite)
  /-- NV_COMMIT_START (R653). -/
  | nvCommitStart (adc : Adc)
  /-- NV_COMMIT_DONE (R655). -/
  | nvCommitDone
  /-- COMMIT_RETRY (R654). -/
  | commitRetry (adc : Adc)
  /-- FLASH_ERASE (R647). -/
  | flashErase
  /-- PWR_FAIL_N_FALL (R656). -/
  | pwrFailNFall
  /-- PWR_FAIL_N_RISE (R656). -/
  | pwrFailNRise (adc : Adc)
  /-- PORST_N_ASSERT (R642). -/
  | porstNAssert
  /-- PORST_N_RELEASE (R650). -/
  | porstNRelease (straps : BitVec 2)
  /-- BOOT_STAGE_COMPLETE (R650). -/
  | bootStageComplete (fail : Option (Nat × Nat))
  /-- MAIN_RAIL_FAULT (R694). -/
  | mainRailFault
  /-- TEMP_SAMPLE (R664). -/
  | tempSample (q : BitVec 11)
  /-- THERMAL_TRIP (R666). -/
  | thermalTrip
  -- Event log
  /-- EVENT_REPORT (R671). -/
  | eventReport
  /-- RD_SEQ_WRITE (R675). -/
  | rdSeqWrite (w : RegWrite)
  /-- FEC_CLR (R678). -/
  | fecClr (w : RegWrite)
  /-- PERSIST_FLUSH (R681). -/
  | persistFlush
  /-- LOG_CONFIG (R683). -/
  | logConfig
  /-- LOG_FLUSH (R683). -/
  | logFlush
  /-- LOG_READ_PERSISTED (R683). -/
  | logReadPersisted
  -- Timers and board events named beside the chapters
  /-- LUT_SYNC_DONE (R208). -/
  | lutSyncDone (t : Fin 20)
  /-- TIME_VALID_LOSS (R628). -/
  | timeValidLoss
  /-- LEG_LOST (R363). -/
  | legLost (h : Fin 48) (leg : Fin 2)
  /-- MAIN_RAIL_GOOD (R694). -/
  | mainRailGood
  /-- BOUNDARY_SCAN (R419). -/
  | boundaryScan (on : Bool)
deriving DecidableEq, Repr

end Sys2Proof
end

