-- ==== Sys2Proof/Config.lean ====
section
/-! DEFINITION. What an implementation fixes and the free values: values that the spec leaves open while the machine goes on.
None has a body that a proof could see. -/

namespace Sys2Proof.Config

/-- A number that the spec leaves open, by the value of `State.freeCtr` when it is taken (log 6). -/
opaque freeNat : Nat → Nat

/-- Link delay in ns of a ring link between two other members, by the ring ID at its west end: the firmware uses it for L_RING
and L_WRAP, but the spec names no way in which it learns it (R407). -/
opaque farLink : Nat → Nat

/-- SHA-384 of bytes, as a number; the spec names the function and does not define it (R648). -/
opaque sha384 : List Byte → Nat

/-- Whether an ECDSA P-384 signature verifies: public key, signature, message (R648). -/
opaque ecdsaP384 : List Byte → List Byte → List Byte → Bool

/-- Byte of the line that training bursts write, by pattern mode, seed, inverted lanes, number of bursts and place in the line: R521 gives
no layout of the pattern on lanes and beats. -/
opaque trainByte : Nat → Nat → Nat → Nat → Nat → Byte

end Sys2Proof.Config
end

