-- ==== Sys2Proof/Machine/Fields.lean ====
section
/-! DEFINITION. The register fields of BAR0, from the register tables of the chapters (R48, R69, R127, R279, R333, R376, R432, R443, R513, R565,
R606, R637, R670, R684, R712): one `Fld` per field, named PAGE_REGISTER_FIELD, and the page tables that give every field's access
type (R13) and reset value. `n` is the page's instance, `k`, `i`, `j` the indices of a register that repeats.
The fields of the VLn and GLn pages share one name, LAY_..., whose argument is the layer number (0 to 15 VL, 16 to 63 GL). -/

namespace Sys2Proof.Machine

/-- First BAR0 offset of a layer's page: VLn at 0x08_0000 + n × 0x4000, GLn at 0x0C_0000 + n × 0x1000 (R712). -/
def layerPage (l : Nat) : Nat := if l < 16 then 0x80000 + l * 0x4000 else 0xC0000 + (l - 16) * 0x1000

def GLB_FEATURES_HEADS : Fld := ⟨0x0 + 0x4, 0, 3⟩
def GLB_FEATURES_VIDEO_LAYERS : Fld := ⟨0x0 + 0x4, 3, 5⟩
def GLB_FEATURES_GRAPHIC_LAYERS : Fld := ⟨0x0 + 0x4, 8, 6⟩
def GLB_FEATURES_SHEET_PORTS : Fld := ⟨0x0 + 0x4, 14, 5⟩
def GLB_FEATURES_DDR_CHANNELS : Fld := ⟨0x0 + 0x4, 19, 3⟩
def GLB_QUOIN_KEY : Fld := ⟨0x0 + 0x10, 0, 16⟩
def GLB_QUOIN_ARMED : Fld := ⟨0x0 + 0x10, 16, 4⟩
def GLB_QUOIN_MISS_COUNT : Fld := ⟨0x0 + 0x14, 0, 16⟩
def GLB_ACCESS_ERR_PARTIAL_WRITES : Fld := ⟨0x0 + 0x18, 0, 16⟩
def GLB_ACCESS_ERR_POISON_WRITES : Fld := ⟨0x0 + 0x18, 16, 16⟩
def GLB_WIN_BASE_LO_BASE_LO : Fld := ⟨0x0 + 0x20, 20, 12⟩
def GLB_WIN_BASE_HI_BASE_HI : Fld := ⟨0x0 + 0x24, 0, 16⟩
def GLB_CORE_STATUS_ACTIVE : Fld := ⟨0x0 + 0x30, 0, 1⟩
def GLB_CORE_STATUS_DUPLEX : Fld := ⟨0x0 + 0x30, 1, 1⟩
def GLB_CORE_STATUS_STANDBY_STATE : Fld := ⟨0x0 + 0x30, 2, 2⟩
def GLB_CORE_STATUS_FAILOVERS : Fld := ⟨0x0 + 0x30, 16, 16⟩
def GLB_CORE_CTRL_SWITCH : Fld := ⟨0x0 + 0x34, 0, 1⟩
def GLB_CORE_CTRL_RESTART : Fld := ⟨0x0 + 0x34, 1, 1⟩
def GLB_CORE_HB_HB_TIMEOUT : Fld := ⟨0x0 + 0x38, 0, 16⟩
def GLB_CORE_INT_STATUS_CAUSE : Fld := ⟨0x0 + 0x58, 0, 3⟩
def GLB_CORE_INT_EN_EN : Fld := ⟨0x0 + 0x5c, 0, 3⟩
def GLB_IRQ_STATUS0_VEC : Fld := ⟨0x0 + 0x40, 0, 32⟩
def GLB_IRQ_STATUS1_VEC : Fld := ⟨0x0 + 0x44, 0, 32⟩
def MBX_BUSY_HOST : Fld := ⟨0x10000, 0, 16⟩
def MBX_BUSY_RING : Fld := ⟨0x10000, 16, 4⟩
def MBX_DONE_HOST : Fld := ⟨0x10000 + 0x4, 0, 16⟩
def MBX_DONE_RING : Fld := ⟨0x10000 + 0x4, 16, 4⟩
def MBX_IRQ_EN_EN : Fld := ⟨0x10000 + 0x8, 0, 20⟩
def MBX_DB_IGNORED_COUNT : Fld := ⟨0x10000 + 0xc, 0, 16⟩
def MBX_REPLAYS_COUNT : Fld := ⟨0x10000 + 0x10, 0, 16⟩
def MBX_RING_LATE_COUNT : Fld := ⟨0x10000 + 0x14, 0, 16⟩
def LAY_CTRL_FORMAT (n : Nat) : Fld := ⟨layerPage n, 0, 8⟩
def LAY_CTRL_SOURCE (n : Nat) : Fld := ⟨layerPage n, 8, 2⟩
def LAY_CTRL_OPAQUE (n : Nat) : Fld := ⟨layerPage n, 10, 1⟩
def LAY_CTRL_ALPHA_ONE (n : Nat) : Fld := ⟨layerPage n, 11, 1⟩
def LAY_CTRL_READY_POLICY (n : Nat) : Fld := ⟨layerPage n, 12, 2⟩
def LAY_CTRL_WAIT_LINES (n : Nat) : Fld := ⟨layerPage n, 14, 6⟩
def LAY_CTRL_STREAM (n : Nat) : Fld := ⟨layerPage n, 20, 8⟩
def LAY_ROUTE_HEAD (n : Nat) : Fld := ⟨layerPage n + 0x4, 0, 2⟩
def LAY_ROUTE_EN (n : Nat) : Fld := ⟨layerPage n + 0x4, 2, 1⟩
def LAY_PLANE0_LO_ADDR (n : Nat) : Fld := ⟨layerPage n + 0x8, 6, 26⟩
def LAY_PLANE0_HI_ADDR (n : Nat) : Fld := ⟨layerPage n + 0xc, 0, 16⟩
def LAY_PLANE1_LO_ADDR (n : Nat) : Fld := ⟨layerPage n + 0x10, 6, 26⟩
def LAY_PLANE1_HI_ADDR (n : Nat) : Fld := ⟨layerPage n + 0x14, 0, 16⟩
def LAY_PITCH0_PITCH (n : Nat) : Fld := ⟨layerPage n + 0x18, 6, 14⟩
def LAY_PITCH1_PITCH (n : Nat) : Fld := ⟨layerPage n + 0x1c, 6, 14⟩
def LAY_SRC_SIZE_W (n : Nat) : Fld := ⟨layerPage n + 0x20, 0, 15⟩
def LAY_SRC_SIZE_H (n : Nat) : Fld := ⟨layerPage n + 0x20, 16, 15⟩
def LAY_CROP_POS_X (n : Nat) : Fld := ⟨layerPage n + 0x24, 0, 15⟩
def LAY_CROP_POS_Y (n : Nat) : Fld := ⟨layerPage n + 0x24, 16, 15⟩
def LAY_CROP_SIZE_W (n : Nat) : Fld := ⟨layerPage n + 0x28, 0, 15⟩
def LAY_CROP_SIZE_H (n : Nat) : Fld := ⟨layerPage n + 0x28, 16, 15⟩
def LAY_POISON_LO_B (n : Nat) : Fld := ⟨layerPage n + 0x30, 0, 16⟩
def LAY_POISON_LO_G (n : Nat) : Fld := ⟨layerPage n + 0x30, 16, 16⟩
def LAY_POISON_HI_R (n : Nat) : Fld := ⟨layerPage n + 0x34, 0, 16⟩
def LAY_POISON_HI_A (n : Nat) : Fld := ⟨layerPage n + 0x34, 16, 16⟩
def LAY_CONST_LO_B (n : Nat) : Fld := ⟨layerPage n + 0x38, 0, 16⟩
def LAY_CONST_LO_G (n : Nat) : Fld := ⟨layerPage n + 0x38, 16, 16⟩
def LAY_CONST_HI_R (n : Nat) : Fld := ⟨layerPage n + 0x3c, 0, 16⟩
def LAY_GALLEY_LO_ADDR (n : Nat) : Fld := ⟨layerPage n + 0x40, 6, 26⟩
def LAY_GALLEY_HI_ADDR (n : Nat) : Fld := ⟨layerPage n + 0x44, 0, 16⟩
def LAY_GALLEY_W_W (n : Nat) : Fld := ⟨layerPage n + 0x48, 0, 15⟩
def LAY_STATUS_READY (n : Nat) : Fld := ⟨layerPage n + 0x50, 0, 1⟩
def LAY_STATUS_GALLEY_SHORT (n : Nat) : Fld := ⟨layerPage n + 0x50, 1, 1⟩
def LAY_STATUS_BOUND (n : Nat) : Fld := ⟨layerPage n + 0x50, 2, 1⟩
def LAY_STATUS_PARAM_ERR (n : Nat) : Fld := ⟨layerPage n + 0x50, 3, 1⟩
def LAY_STATUS_REPEATING (n : Nat) : Fld := ⟨layerPage n + 0x50, 4, 1⟩
def LAY_STATUS_DROPPED (n : Nat) : Fld := ⟨layerPage n + 0x50, 5, 1⟩
def LAY_STATUS_NOT_ROUTED (n : Nat) : Fld := ⟨layerPage n + 0x50, 6, 1⟩
def LAY_NOT_READY_COUNT (n : Nat) : Fld := ⟨layerPage n + 0x54, 0, 32⟩
def LAY_POISON_PX_COUNT (n : Nat) : Fld := ⟨layerPage n + 0x58, 0, 32⟩
def LAY_CULLED_TILES_COUNT (n : Nat) : Fld := ⟨layerPage n + 0x5c, 0, 32⟩
def HEAD_FORME_CTRL_ENTRIES (n : Nat) : Fld := ⟨0x20000 + n * 0x10000 + 0x400, 0, 5⟩
def HEAD_BG_LO_B (n : Nat) : Fld := ⟨0x20000 + n * 0x10000 + 0x404, 0, 16⟩
def HEAD_BG_LO_G (n : Nat) : Fld := ⟨0x20000 + n * 0x10000 + 0x404, 16, 16⟩
def HEAD_BG_HI_R (n : Nat) : Fld := ⟨0x20000 + n * 0x10000 + 0x408, 0, 16⟩
def HEAD_ADMIT_BYTES_BYTES (n : Nat) : Fld := ⟨0x20000 + n * 0x10000 + 0x40c, 0, 32⟩
def HEAD_FE_LAYER_LAYER (n i : Nat) : Fld := ⟨0x20000 + n * 0x10000 + 0x500 + i * 16, 0, 6⟩
def HEAD_FE_LAYER_BLEND (n i : Nat) : Fld := ⟨0x20000 + n * 0x10000 + 0x500 + i * 16, 8, 2⟩
def HEAD_FE_LAYER_ALPHA (n i : Nat) : Fld := ⟨0x20000 + n * 0x10000 + 0x500 + i * 16, 16, 16⟩
def HEAD_FE_POS_X (n i : Nat) : Fld := ⟨0x20000 + n * 0x10000 + 0x504 + i * 16, 0, 14⟩
def HEAD_FE_POS_Y (n i : Nat) : Fld := ⟨0x20000 + n * 0x10000 + 0x504 + i * 16, 16, 14⟩
def HEAD_FE_SIZE_W (n i : Nat) : Fld := ⟨0x20000 + n * 0x10000 + 0x508 + i * 16, 0, 15⟩
def HEAD_FE_SIZE_H (n i : Nat) : Fld := ⟨0x20000 + n * 0x10000 + 0x508 + i * 16, 16, 15⟩
def LAY_COLOUR_CTRL_MATRIX_EN (n : Nat) : Fld := ⟨layerPage n + 0x100, 0, 1⟩
def LAY_COLOUR_CTRL_CHROMA_H (n : Nat) : Fld := ⟨layerPage n + 0x100, 1, 1⟩
def LAY_COLOUR_CTRL_CHROMA_V (n : Nat) : Fld := ⟨layerPage n + 0x100, 2, 1⟩
def LAY_MTX_C_COEF (n i : Nat) : Fld := ⟨layerPage n + 0x110 + i * 4, 0, 16⟩
def LAY_MTX_OFF_OFF (n i : Nat) : Fld := ⟨layerPage n + 0x140 + i * 4, 0, 17⟩
def LAY_SCALE_CTRL_DECIM_H (n : Nat) : Fld := ⟨layerPage n + 0x180, 0, 2⟩
def LAY_SCALE_CTRL_DECIM_V (n : Nat) : Fld := ⟨layerPage n + 0x180, 2, 2⟩
def LAY_H_INIT_INIT (n : Nat) : Fld := ⟨layerPage n + 0x184, 0, 24⟩
def LAY_V_INIT_INIT (n : Nat) : Fld := ⟨layerPage n + 0x188, 0, 24⟩
def LAY_H_STEP_STEP (n : Nat) : Fld := ⟨layerPage n + 0x190, 0, 23⟩
def LAY_V_STEP_STEP (n : Nat) : Fld := ⟨layerPage n + 0x194, 0, 23⟩
def LAY_SCALE_STATUS_SCALED (n : Nat) : Fld := ⟨layerPage n + 0x198, 0, 1⟩
def LAY_SCALE_STATUS_H_BYPASS (n : Nat) : Fld := ⟨layerPage n + 0x198, 1, 1⟩
def LAY_SCALE_STATUS_V_BYPASS (n : Nat) : Fld := ⟨layerPage n + 0x198, 2, 1⟩
def LAY_SCALE_STATUS_W_G (n : Nat) : Fld := ⟨layerPage n + 0x198, 16, 15⟩
def LAY_HCOEF_TAP_EVEN (n i j : Nat) : Fld := ⟨layerPage n + 0x1000 + i * 16 + j * 4, 0, 12⟩
def LAY_HCOEF_TAP_ODD (n i j : Nat) : Fld := ⟨layerPage n + 0x1000 + i * 16 + j * 4, 16, 12⟩
def LAY_VCOEF_TAP_EVEN (n i j : Nat) : Fld := ⟨layerPage n + 0x1400 + i * 16 + j * 4, 0, 12⟩
def LAY_VCOEF_TAP_ODD (n i j : Nat) : Fld := ⟨layerPage n + 0x1400 + i * 16 + j * 4, 16, 12⟩
def LAY_KEY_CTRL_EN (n : Nat) : Fld := ⟨layerPage n + 0x60, 0, 1⟩
def LAY_KEY_R_MIN (n : Nat) : Fld := ⟨layerPage n + 0x64, 0, 16⟩
def LAY_KEY_R_MAX (n : Nat) : Fld := ⟨layerPage n + 0x64, 16, 16⟩
def LAY_KEY_G_MIN (n : Nat) : Fld := ⟨layerPage n + 0x68, 0, 16⟩
def LAY_KEY_G_MAX (n : Nat) : Fld := ⟨layerPage n + 0x68, 16, 16⟩
def LAY_KEY_B_MIN (n : Nat) : Fld := ⟨layerPage n + 0x6c, 0, 16⟩
def LAY_KEY_B_MAX (n : Nat) : Fld := ⟨layerPage n + 0x6c, 16, 16⟩
def LAY_KEY_PX_COUNT (n : Nat) : Fld := ⟨layerPage n + 0x70, 0, 32⟩
def LAY_LUT_CTRL_EN (n : Nat) : Fld := ⟨layerPage n + 0x1a0, 0, 1⟩
def LAY_LUT_CTRL_SYNC (n : Nat) : Fld := ⟨layerPage n + 0x1a0, 1, 1⟩
def LAY_PRE_LUT_ENTRY_EVEN (n i j : Nat) : Fld := ⟨layerPage n + 0x2000 + i * 0xa00 + j * 4, 0, 16⟩
def LAY_PRE_LUT_ENTRY_ODD (n i j : Nat) : Fld := ⟨layerPage n + 0x2000 + i * 0xa00 + j * 4, 16, 16⟩
def HEAD_POST_LUT_CTRL_EN (n : Nat) : Fld := ⟨0x20000 + n * 0x10000 + 0x410, 0, 1⟩
def HEAD_POST_LUT_CTRL_SYNC (n : Nat) : Fld := ⟨0x20000 + n * 0x10000 + 0x410, 1, 1⟩
def HEAD_POST_LUT_ENTRY_EVEN (n i j : Nat) : Fld := ⟨0x20000 + n * 0x10000 + 0x4000 + i * 0x3000 + j * 4, 0, 16⟩
def HEAD_POST_LUT_ENTRY_ODD (n i j : Nat) : Fld := ⟨0x20000 + n * 0x10000 + 0x4000 + i * 0x3000 + j * 4, 16, 16⟩
def HEAD_CTRL_EN (n : Nat) : Fld := ⟨0x20000 + n * 0x10000, 0, 1⟩
def HEAD_CTRL_REEF (n : Nat) : Fld := ⟨0x20000 + n * 0x10000, 1, 1⟩
def HEAD_CTRL_DEEP (n : Nat) : Fld := ⟨0x20000 + n * 0x10000, 2, 1⟩
def HEAD_CTRL_HOLD (n : Nat) : Fld := ⟨0x20000 + n * 0x10000, 3, 1⟩
def HEAD_STATUS_RUNNING (n : Nat) : Fld := ⟨0x20000 + n * 0x10000 + 0x4, 0, 1⟩
def HEAD_STATUS_EXPERT (n : Nat) : Fld := ⟨0x20000 + n * 0x10000 + 0x4, 1, 1⟩
def HEAD_STATUS_COMMIT_PENDING (n : Nat) : Fld := ⟨0x20000 + n * 0x10000 + 0x4, 2, 1⟩
def HEAD_STATUS_COMMIT_LATE (n : Nat) : Fld := ⟨0x20000 + n * 0x10000 + 0x4, 3, 1⟩
def HEAD_STATUS_HOLDING (n : Nat) : Fld := ⟨0x20000 + n * 0x10000 + 0x4, 4, 1⟩
def HEAD_STATUS_REEF (n : Nat) : Fld := ⟨0x20000 + n * 0x10000 + 0x4, 5, 1⟩
def HEAD_STATUS_RAMPING (n : Nat) : Fld := ⟨0x20000 + n * 0x10000 + 0x4, 6, 1⟩
def HEAD_STATUS_ALIGNED (n : Nat) : Fld := ⟨0x20000 + n * 0x10000 + 0x4, 7, 1⟩
def HEAD_STATUS_UNDERRUN (n : Nat) : Fld := ⟨0x20000 + n * 0x10000 + 0x4, 8, 1⟩
def HEAD_STATUS_DSM_BLOCK (n : Nat) : Fld := ⟨0x20000 + n * 0x10000 + 0x4, 9, 1⟩
def HEAD_STATUS_GROUP_REFUSED (n : Nat) : Fld := ⟨0x20000 + n * 0x10000 + 0x4, 10, 1⟩
def HEAD_STATUS_TIMING_ERR (n : Nat) : Fld := ⟨0x20000 + n * 0x10000 + 0x4, 11, 1⟩
def HEAD_COMMIT_GO (n : Nat) : Fld := ⟨0x20000 + n * 0x10000 + 0x8, 0, 1⟩
def HEAD_COMMIT_GROUP (n : Nat) : Fld := ⟨0x20000 + n * 0x10000 + 0x8, 4, 4⟩
def HEAD_TIMING_H_H_ACTIVE (n : Nat) : Fld := ⟨0x20000 + n * 0x10000 + 0x10, 0, 15⟩
def HEAD_TIMING_H_H_TOTAL (n : Nat) : Fld := ⟨0x20000 + n * 0x10000 + 0x10, 16, 15⟩
def HEAD_TIMING_V_V_ACTIVE (n : Nat) : Fld := ⟨0x20000 + n * 0x10000 + 0x14, 0, 15⟩
def HEAD_TIMING_V_V_TOTAL (n : Nat) : Fld := ⟨0x20000 + n * 0x10000 + 0x14, 16, 15⟩
def HEAD_LEAD_FETCH_LEAD (n : Nat) : Fld := ⟨0x20000 + n * 0x10000 + 0x18, 0, 7⟩
def HEAD_LEAD_LATCH_LINE (n : Nat) : Fld := ⟨0x20000 + n * 0x10000 + 0x18, 16, 15⟩
def HEAD_RATE_NUM_NUM (n : Nat) : Fld := ⟨0x20000 + n * 0x10000 + 0x1c, 0, 32⟩
def HEAD_RATE_DEN_DEN (n : Nat) : Fld := ⟨0x20000 + n * 0x10000 + 0x20, 0, 32⟩
def HEAD_ALIGN_SRC (n : Nat) : Fld := ⟨0x20000 + n * 0x10000 + 0x28, 0, 2⟩
def HEAD_ALIGN_AUTO_REPHASE (n : Nat) : Fld := ⟨0x20000 + n * 0x10000 + 0x28, 2, 1⟩
def HEAD_ALIGN_STREAM (n : Nat) : Fld := ⟨0x20000 + n * 0x10000 + 0x28, 8, 8⟩
def HEAD_ALIGN_TOL (n : Nat) : Fld := ⟨0x20000 + n * 0x10000 + 0x28, 16, 16⟩
def HEAD_ALIGN_OFFSET_OFFSET (n : Nat) : Fld := ⟨0x20000 + n * 0x10000 + 0x2c, 0, 32⟩
def HEAD_T0_SEC_LO_SEC (n : Nat) : Fld := ⟨0x20000 + n * 0x10000 + 0x30, 0, 32⟩
def HEAD_T0_SEC_HI_SEC (n : Nat) : Fld := ⟨0x20000 + n * 0x10000 + 0x34, 0, 16⟩
def HEAD_T0_NS_NS (n : Nat) : Fld := ⟨0x20000 + n * 0x10000 + 0x38, 0, 30⟩
def HEAD_FRAME0_LO_FRAME0 (n : Nat) : Fld := ⟨0x20000 + n * 0x10000 + 0x3c, 0, 32⟩
def HEAD_FRAME0_HI_FRAME0 (n : Nat) : Fld := ⟨0x20000 + n * 0x10000 + 0x40, 0, 16⟩
def HEAD_PULL_PPM (n : Nat) : Fld := ⟨0x20000 + n * 0x10000 + 0x44, 0, 16⟩
def HEAD_ALIGN_ERR_ERR (n : Nat) : Fld := ⟨0x20000 + n * 0x10000 + 0x48, 0, 32⟩
def HEAD_RAMP_RATE (n : Nat) : Fld := ⟨0x20000 + n * 0x10000 + 0x4c, 0, 16⟩
def HEAD_FRAME_LO_FRAME (n : Nat) : Fld := ⟨0x20000 + n * 0x10000 + 0x50, 0, 32⟩
def HEAD_FRAME_HI_FRAME (n : Nat) : Fld := ⟨0x20000 + n * 0x10000 + 0x54, 0, 16⟩
def HEAD_POSITION_LINE (n : Nat) : Fld := ⟨0x20000 + n * 0x10000 + 0x58, 0, 15⟩
def HEAD_POSITION_PAIR (n : Nat) : Fld := ⟨0x20000 + n * 0x10000 + 0x58, 16, 14⟩
def HEAD_LINE_MATCH_LINE (n : Nat) : Fld := ⟨0x20000 + n * 0x10000 + 0x5c, 0, 15⟩
def HEAD_FSYNC_EN (n : Nat) : Fld := ⟨0x20000 + n * 0x10000 + 0x60, 0, 1⟩
def HEAD_FSYNC_POL (n : Nat) : Fld := ⟨0x20000 + n * 0x10000 + 0x60, 1, 1⟩
def HEAD_FSYNC_LINE (n : Nat) : Fld := ⟨0x20000 + n * 0x10000 + 0x60, 2, 15⟩
def HEAD_FSYNC_WIDTH (n : Nat) : Fld := ⟨0x20000 + n * 0x10000 + 0x60, 24, 8⟩
def HEAD_SLACK_LAST_SLACK (n : Nat) : Fld := ⟨0x20000 + n * 0x10000 + 0x70, 0, 16⟩
def HEAD_SLACK_FRAME_MIN (n : Nat) : Fld := ⟨0x20000 + n * 0x10000 + 0x74, 0, 16⟩
def HEAD_SLACK_FRAME_LINE (n : Nat) : Fld := ⟨0x20000 + n * 0x10000 + 0x74, 16, 15⟩
def HEAD_SLACK_MIN_MIN (n : Nat) : Fld := ⟨0x20000 + n * 0x10000 + 0x78, 0, 16⟩
def HEAD_STAGE_FRAME_MARGIN (n : Nat) : Fld := ⟨0x20000 + n * 0x10000 + 0x7c, 0, 24⟩
def HEAD_SLACK_THRESH_THRESH (n : Nat) : Fld := ⟨0x20000 + n * 0x10000 + 0x80, 0, 16⟩
def HEAD_BYTES_FRAME_BYTES (n : Nat) : Fld := ⟨0x20000 + n * 0x10000 + 0x84, 0, 32⟩
def HEAD_BYTES_PEAK_BYTES (n : Nat) : Fld := ⟨0x20000 + n * 0x10000 + 0x88, 0, 32⟩
def HEAD_STATS_CLR_CLR (n : Nat) : Fld := ⟨0x20000 + n * 0x10000 + 0x8c, 0, 1⟩
def HEAD_UNDERRUN_LINES_COUNT (n : Nat) : Fld := ⟨0x20000 + n * 0x10000 + 0x90, 0, 32⟩
def HEAD_UNDERRUN_PX_COUNT (n : Nat) : Fld := ⟨0x20000 + n * 0x10000 + 0x94, 0, 32⟩
def HEAD_COMMIT_LATE_CNT_COUNT (n : Nat) : Fld := ⟨0x20000 + n * 0x10000 + 0x98, 0, 16⟩
def HEAD_INT_STATUS_FRAME (n : Nat) : Fld := ⟨0x20000 + n * 0x10000 + 0xa0, 0, 5⟩
def HEAD_INT_STATUS_LINE (n : Nat) : Fld := ⟨0x20000 + n * 0x10000 + 0xa0, 8, 5⟩
def HEAD_INT_EN_EN (n : Nat) : Fld := ⟨0x20000 + n * 0x10000 + 0xa4, 0, 13⟩
def HEAD_WB_CTRL_FORMAT (n : Nat) : Fld := ⟨0x20000 + n * 0x10000 + 0xb0, 0, 8⟩
def HEAD_WB_CTRL_POINT (n : Nat) : Fld := ⟨0x20000 + n * 0x10000 + 0xb0, 8, 1⟩
def HEAD_WB_CTRL_BUFFERS (n : Nat) : Fld := ⟨0x20000 + n * 0x10000 + 0xb0, 10, 2⟩
def HEAD_WB_BASE_LO_ADDR (n : Nat) : Fld := ⟨0x20000 + n * 0x10000 + 0xb4, 6, 26⟩
def HEAD_WB_BASE_HI_ADDR (n : Nat) : Fld := ⟨0x20000 + n * 0x10000 + 0xb8, 0, 16⟩
def HEAD_WB_PITCH_PITCH (n : Nat) : Fld := ⟨0x20000 + n * 0x10000 + 0xbc, 6, 14⟩
def HEAD_WB_STRIDE_STRIDE (n : Nat) : Fld := ⟨0x20000 + n * 0x10000 + 0xc0, 6, 26⟩
def HEAD_WB_STATUS_LAST (n : Nat) : Fld := ⟨0x20000 + n * 0x10000 + 0xc4, 0, 2⟩
def HEAD_WB_STATUS_VALID (n : Nat) : Fld := ⟨0x20000 + n * 0x10000 + 0xc4, 2, 1⟩
def HEAD_WB_STATUS_BOUND (n : Nat) : Fld := ⟨0x20000 + n * 0x10000 + 0xc4, 3, 1⟩
def HEAD_WB_STATUS_INCOMPLETE (n : Nat) : Fld := ⟨0x20000 + n * 0x10000 + 0xc4, 4, 1⟩
def HEAD_WB_STATUS_LAST_FRAME (n : Nat) : Fld := ⟨0x20000 + n * 0x10000 + 0xc4, 16, 16⟩
def HEAD_WB_DROPPED_COUNT (n : Nat) : Fld := ⟨0x20000 + n * 0x10000 + 0xc8, 0, 32⟩
def HEAD_CAB_MAP_LO_ADDR (n : Nat) : Fld := ⟨0x20000 + n * 0x10000 + 0x100, 6, 26⟩
def HEAD_CAB_MAP_HI_ADDR (n : Nat) : Fld := ⟨0x20000 + n * 0x10000 + 0x104, 0, 16⟩
def HEAD_CAB_COUNT_COUNT (n : Nat) : Fld := ⟨0x20000 + n * 0x10000 + 0x108, 0, 13⟩
def HEAD_OUT_CTRL_DEPTH (n : Nat) : Fld := ⟨0x20000 + n * 0x10000 + 0x10c, 0, 5⟩
def HEAD_OUT_CTRL_DITHER_EN (n : Nat) : Fld := ⟨0x20000 + n * 0x10000 + 0x10c, 8, 1⟩
def HEAD_CAB_STATUS_MAP_BOUND (n : Nat) : Fld := ⟨0x20000 + n * 0x10000 + 0x110, 0, 1⟩
def HEAD_CAB_STATUS_ENTRY_ERR (n : Nat) : Fld := ⟨0x20000 + n * 0x10000 + 0x110, 1, 1⟩
def HEAD_CAB_STATUS_ERR_ENTRY (n : Nat) : Fld := ⟨0x20000 + n * 0x10000 + 0x110, 16, 13⟩
def HEAD_CAL_POISON_COUNT (n : Nat) : Fld := ⟨0x20000 + n * 0x10000 + 0x114, 0, 32⟩
def HEAD_MAP_POISON_COUNT (n : Nat) : Fld := ⟨0x20000 + n * 0x10000 + 0x118, 0, 32⟩
def HEAD_DEAD_LAMPS_COUNT (n : Nat) : Fld := ⟨0x20000 + n * 0x10000 + 0x11c, 0, 32⟩
def HEAD_SLUGS_FRAME_COUNT (n : Nat) : Fld := ⟨0x20000 + n * 0x10000 + 0x120, 0, 32⟩
def SP_CTRL_EN (n : Nat) : Fld := ⟨0x140000 + n * 0x1000, 0, 1⟩
def SP_CTRL_RATE (n : Nat) : Fld := ⟨0x140000 + n * 0x1000, 1, 1⟩
def SP_CTRL_FEC (n : Nat) : Fld := ⟨0x140000 + n * 0x1000, 2, 1⟩
def SP_PAIR_MODE (n : Nat) : Fld := ⟨0x140000 + n * 0x1000 + 0x4, 0, 2⟩
def SP_ETHERTYPE_TYPE (n : Nat) : Fld := ⟨0x140000 + n * 0x1000 + 0x8, 0, 16⟩
def SP_MAC_LO_ADDR (n : Nat) : Fld := ⟨0x140000 + n * 0x1000 + 0xc, 0, 32⟩
def SP_MAC_HI_ADDR (n : Nat) : Fld := ⟨0x140000 + n * 0x1000 + 0x10, 0, 16⟩
def SP_GROUP_LO_ADDR (n : Nat) : Fld := ⟨0x140000 + n * 0x1000 + 0x14, 0, 32⟩
def SP_GROUP_HI_ADDR (n : Nat) : Fld := ⟨0x140000 + n * 0x1000 + 0x18, 0, 16⟩
def SP_SHOW_DELAY_NS (n : Nat) : Fld := ⟨0x140000 + n * 0x1000 + 0x1c, 0, 24⟩
def SP_LOOP_PERIOD (n : Nat) : Fld := ⟨0x140000 + n * 0x1000 + 0x20, 0, 16⟩
def SP_LOOP_MISS (n : Nat) : Fld := ⟨0x140000 + n * 0x1000 + 0x20, 16, 8⟩
def SP_STATUS_LINK (n : Nat) : Fld := ⟨0x140000 + n * 0x1000 + 0x30, 0, 1⟩
def SP_STATUS_FEC_LOCK (n : Nat) : Fld := ⟨0x140000 + n * 0x1000 + 0x30, 1, 1⟩
def SP_STATUS_LOOP_OK (n : Nat) : Fld := ⟨0x140000 + n * 0x1000 + 0x30, 2, 1⟩
def SP_STATUS_FAILED_OVER (n : Nat) : Fld := ⟨0x140000 + n * 0x1000 + 0x30, 3, 1⟩
def SP_STATUS_MODULE (n : Nat) : Fld := ⟨0x140000 + n * 0x1000 + 0x30, 4, 1⟩
def SP_INT_STATUS_CAUSE (n : Nat) : Fld := ⟨0x140000 + n * 0x1000 + 0x34, 0, 7⟩
def SP_INT_EN_EN (n : Nat) : Fld := ⟨0x140000 + n * 0x1000 + 0x38, 0, 7⟩
def SP_SLUGS_TX_COUNT (n : Nat) : Fld := ⟨0x140000 + n * 0x1000 + 0x40, 0, 32⟩
def SP_CTRL_TX_COUNT (n : Nat) : Fld := ⟨0x140000 + n * 0x1000 + 0x44, 0, 32⟩
def SP_TX_DISCARDED_COUNT (n : Nat) : Fld := ⟨0x140000 + n * 0x1000 + 0x48, 0, 32⟩
def SP_SLUG_POISON_COUNT (n : Nat) : Fld := ⟨0x140000 + n * 0x1000 + 0x4c, 0, 32⟩
def SP_RX_STATUS_COUNT (n : Nat) : Fld := ⟨0x140000 + n * 0x1000 + 0x50, 0, 32⟩
def SP_RX_DROPPED_COUNT (n : Nat) : Fld := ⟨0x140000 + n * 0x1000 + 0x54, 0, 32⟩
def SP_RX_OVERFLOW_COUNT (n : Nat) : Fld := ⟨0x140000 + n * 0x1000 + 0x58, 0, 32⟩
def SP_LOOP_RX_COUNT (n : Nat) : Fld := ⟨0x140000 + n * 0x1000 + 0x5c, 0, 32⟩
def SP_LOOP_MISS_COUNT (n : Nat) : Fld := ⟨0x140000 + n * 0x1000 + 0x60, 0, 32⟩
def SP_FAILOVERS_COUNT (n : Nat) : Fld := ⟨0x140000 + n * 0x1000 + 0x64, 0, 16⟩
def SP_FCS_ERR_COUNT (n : Nat) : Fld := ⟨0x140000 + n * 0x1000 + 0x68, 0, 32⟩
def INGP_PORT_CTRL_EN (n : Nat) : Fld := ⟨0x150000 + n * 0x100, 0, 1⟩
def INGP_PORT_CTRL_FEC (n : Nat) : Fld := ⟨0x150000 + n * 0x100, 1, 1⟩
def INGP_PORT_CTRL_PTP_EN (n : Nat) : Fld := ⟨0x150000 + n * 0x100, 2, 1⟩
def INGP_PORT_CTRL_PTP_DOMAIN (n : Nat) : Fld := ⟨0x150000 + n * 0x100, 8, 8⟩
def INGP_PORT_IP_ADDR (n : Nat) : Fld := ⟨0x150000 + n * 0x100 + 0x4, 0, 32⟩
def INGP_PORT_MAC_LO_ADDR (n : Nat) : Fld := ⟨0x150000 + n * 0x100 + 0x8, 0, 32⟩
def INGP_PORT_MAC_HI_ADDR (n : Nat) : Fld := ⟨0x150000 + n * 0x100 + 0xc, 0, 16⟩
def INGP_PORT_STATUS_LINK (n : Nat) : Fld := ⟨0x150000 + n * 0x100 + 0x10, 0, 1⟩
def INGP_PORT_STATUS_FEC_LOCK (n : Nat) : Fld := ⟨0x150000 + n * 0x100 + 0x10, 1, 1⟩
def INGP_PORT_STATUS_MODULE (n : Nat) : Fld := ⟨0x150000 + n * 0x100 + 0x10, 2, 1⟩
def INGP_RX_FRAMES_COUNT (n : Nat) : Fld := ⟨0x150000 + n * 0x100 + 0x20, 0, 32⟩
def INGP_FCS_ERR_COUNT (n : Nat) : Fld := ⟨0x150000 + n * 0x100 + 0x24, 0, 32⟩
def INGP_UNMATCHED_COUNT (n : Nat) : Fld := ⟨0x150000 + n * 0x100 + 0x28, 0, 32⟩
def INGP_RX_OVERFLOW_COUNT (n : Nat) : Fld := ⟨0x150000 + n * 0x100 + 0x2c, 0, 32⟩
def INGP_PTP_RX_COUNT (n : Nat) : Fld := ⟨0x150000 + n * 0x100 + 0x30, 0, 32⟩
def ING_PTP_STATUS_STATE : Fld := ⟨0x150000 + 0x400, 0, 2⟩
def ING_PTP_STATUS_PORT : Fld := ⟨0x150000 + 0x400, 4, 2⟩
def ING_PTP_OFFSET_NS : Fld := ⟨0x150000 + 0x404, 0, 32⟩
def ING_PTP_DELAY_NS : Fld := ⟨0x150000 + 0x408, 0, 32⟩
def ING_PTP_GM_LO_ID : Fld := ⟨0x150000 + 0x40c, 0, 32⟩
def ING_PTP_GM_HI_ID : Fld := ⟨0x150000 + 0x410, 0, 32⟩
def ING_INT_STATUS_CAUSE : Fld := ⟨0x150000 + 0x500, 0, 4⟩
def ING_INT_STATUS_PTP : Fld := ⟨0x150000 + 0x500, 8, 2⟩
def ING_INT_EN_EN : Fld := ⟨0x150000 + 0x504, 0, 10⟩
def ING_EVT_STREAM_HANDLE : Fld := ⟨0x150000 + 0x508, 0, 6⟩
def INGS_S_CTRL_FLAGS (n : Nat) : Fld := ⟨0x151000 + n * 0x100, 0, 7⟩
def INGS_S_CTRL_PORT (n : Nat) : Fld := ⟨0x151000 + n * 0x100, 8, 2⟩
def INGS_S_CTRL_PORT2 (n : Nat) : Fld := ⟨0x151000 + n * 0x100, 10, 2⟩
def INGS_S_CTRL_PT (n : Nat) : Fld := ⟨0x151000 + n * 0x100, 16, 7⟩
def INGS_S_DST_IP_ADDR (n : Nat) : Fld := ⟨0x151000 + n * 0x100 + 0x4, 0, 32⟩
def INGS_S_SRC_IP_ADDR (n : Nat) : Fld := ⟨0x151000 + n * 0x100 + 0x8, 0, 32⟩
def INGS_S_DST_IP2_ADDR (n : Nat) : Fld := ⟨0x151000 + n * 0x100 + 0xc, 0, 32⟩
def INGS_S_SRC_IP2_ADDR (n : Nat) : Fld := ⟨0x151000 + n * 0x100 + 0x10, 0, 32⟩
def INGS_S_UDP_UDP (n : Nat) : Fld := ⟨0x151000 + n * 0x100 + 0x14, 0, 16⟩
def INGS_S_UDP_UDP2 (n : Nat) : Fld := ⟨0x151000 + n * 0x100 + 0x14, 16, 16⟩
def INGS_S_RING_ID (n : Nat) : Fld := ⟨0x151000 + n * 0x100 + 0x18, 0, 12⟩
def INGS_S_GEOM_W (n : Nat) : Fld := ⟨0x151000 + n * 0x100 + 0x1c, 0, 14⟩
def INGS_S_GEOM_H (n : Nat) : Fld := ⟨0x151000 + n * 0x100 + 0x1c, 16, 15⟩
def INGS_S_FMT_SAMPLING (n : Nat) : Fld := ⟨0x151000 + n * 0x100 + 0x20, 0, 2⟩
def INGS_S_FMT_DEPTH (n : Nat) : Fld := ⟨0x151000 + n * 0x100 + 0x20, 4, 2⟩
def INGS_S_FMT_STORE (n : Nat) : Fld := ⟨0x151000 + n * 0x100 + 0x20, 8, 8⟩
def INGS_S_FMT_PITCH (n : Nat) : Fld := ⟨0x151000 + n * 0x100 + 0x20, 16, 16⟩
def INGS_S_RATE_NUM_NUM (n : Nat) : Fld := ⟨0x151000 + n * 0x100 + 0x24, 0, 32⟩
def INGS_S_RATE_DEN_DEN (n : Nat) : Fld := ⟨0x151000 + n * 0x100 + 0x28, 0, 32⟩
def INGS_S_FS_LO_ADDR (n : Nat) : Fld := ⟨0x151000 + n * 0x100 + 0x2c, 6, 26⟩
def INGS_S_FS_HI_ADDR (n : Nat) : Fld := ⟨0x151000 + n * 0x100 + 0x30, 0, 16⟩
def INGS_S_FS_STRIDE_STRIDE (n : Nat) : Fld := ⟨0x151000 + n * 0x100 + 0x34, 6, 26⟩
def INGS_S_BUF_BUFFERS (n : Nat) : Fld := ⟨0x151000 + n * 0x100 + 0x38, 0, 3⟩
def INGS_S_BUF_RING_LINES (n : Nat) : Fld := ⟨0x151000 + n * 0x100 + 0x38, 16, 11⟩
def INGS_S_LR_LO_ADDR (n : Nat) : Fld := ⟨0x151000 + n * 0x100 + 0x3c, 6, 26⟩
def INGS_S_LR_HI_ADDR (n : Nat) : Fld := ⟨0x151000 + n * 0x100 + 0x40, 0, 16⟩
def INGS_S_POLICE_RATE (n : Nat) : Fld := ⟨0x151000 + n * 0x100 + 0x44, 0, 20⟩
def INGS_S_BURST_BURST (n : Nat) : Fld := ⟨0x151000 + n * 0x100 + 0x48, 0, 16⟩
def INGS_S_LOSS_MS (n : Nat) : Fld := ⟨0x151000 + n * 0x100 + 0x4c, 0, 16⟩
def INGS_S_STATUS_RECEIVING (n : Nat) : Fld := ⟨0x151000 + n * 0x100 + 0x50, 0, 1⟩
def INGS_S_STATUS_LEG1_OK (n : Nat) : Fld := ⟨0x151000 + n * 0x100 + 0x50, 1, 1⟩
def INGS_S_STATUS_LEG2_OK (n : Nat) : Fld := ⟨0x151000 + n * 0x100 + 0x50, 2, 1⟩
def INGS_S_STATUS_DAMAGED (n : Nat) : Fld := ⟨0x151000 + n * 0x100 + 0x50, 3, 1⟩
def INGS_S_STATUS_NEWEST (n : Nat) : Fld := ⟨0x151000 + n * 0x100 + 0x50, 8, 3⟩
def INGS_S_RTP_TS (n : Nat) : Fld := ⟨0x151000 + n * 0x100 + 0x54, 0, 32⟩
def INGS_S_ARRIVAL_NS (n : Nat) : Fld := ⟨0x151000 + n * 0x100 + 0x58, 0, 32⟩
def INGS_S_ARRIVAL_MAX_NS (n : Nat) : Fld := ⟨0x151000 + n * 0x100 + 0x5c, 0, 32⟩
def INGS_PKTS_COUNT (n : Nat) : Fld := ⟨0x151000 + n * 0x100 + 0x80, 0, 32⟩
def INGS_SEQ_LOST_COUNT (n : Nat) : Fld := ⟨0x151000 + n * 0x100 + 0x84, 0, 32⟩
def INGS_DUPLICATES_COUNT (n : Nat) : Fld := ⟨0x151000 + n * 0x100 + 0x88, 0, 32⟩
def INGS_LATE_PKTS_COUNT (n : Nat) : Fld := ⟨0x151000 + n * 0x100 + 0x8c, 0, 32⟩
def INGS_POLICED_COUNT (n : Nat) : Fld := ⟨0x151000 + n * 0x100 + 0x90, 0, 32⟩
def INGS_FORMAT_ERR_COUNT (n : Nat) : Fld := ⟨0x151000 + n * 0x100 + 0x94, 0, 32⟩
def INGS_FRAMES_COUNT (n : Nat) : Fld := ⟨0x151000 + n * 0x100 + 0x98, 0, 32⟩
def INGS_FRAMES_DAMAGED_COUNT (n : Nat) : Fld := ⟨0x151000 + n * 0x100 + 0x9c, 0, 32⟩
def INGS_FRAMES_SKIPPED_COUNT (n : Nat) : Fld := ⟨0x151000 + n * 0x100 + 0xa0, 0, 32⟩
def INGS_FRAMES_DISCARDED_COUNT (n : Nat) : Fld := ⟨0x151000 + n * 0x100 + 0xa4, 0, 32⟩
def INGS_LATE_LINES_COUNT (n : Nat) : Fld := ⟨0x151000 + n * 0x100 + 0xa8, 0, 32⟩
def INGS_RING_LAP_COUNT (n : Nat) : Fld := ⟨0x151000 + n * 0x100 + 0xac, 0, 32⟩
def HLY_CTRL_HW_EN : Fld := ⟨0x160000, 0, 1⟩
def HLY_CTRL_HE_EN : Fld := ⟨0x160000, 1, 1⟩
def HLY_RING_ID_ID : Fld := ⟨0x160000 + 0x4, 0, 16⟩
def HLY_STATUS_JOINED : Fld := ⟨0x160000 + 0x8, 0, 1⟩
def HLY_STATUS_HW_LINK : Fld := ⟨0x160000 + 0x8, 1, 1⟩
def HLY_STATUS_HE_LINK : Fld := ⟨0x160000 + 0x8, 2, 1⟩
def HLY_STATUS_HW_WRAP : Fld := ⟨0x160000 + 0x8, 3, 1⟩
def HLY_STATUS_HE_WRAP : Fld := ⟨0x160000 + 0x8, 4, 1⟩
def HLY_STATUS_SPLIT : Fld := ⟨0x160000 + 0x8, 5, 1⟩
def HLY_STATUS_HORIZON_EXCEEDED : Fld := ⟨0x160000 + 0x8, 6, 1⟩
def HLY_STATUS_WRAP_UNSAFE : Fld := ⟨0x160000 + 0x8, 7, 1⟩
def HLY_STATUS_TIME_VALID : Fld := ⟨0x160000 + 0x8, 8, 1⟩
def HLY_MEMBERS_COUNT : Fld := ⟨0x160000 + 0xc, 0, 16⟩
def HLY_BEACON_PERIOD : Fld := ⟨0x160000 + 0x10, 0, 16⟩
def HLY_BEACON_LOSS : Fld := ⟨0x160000 + 0x10, 16, 16⟩
def HLY_WRAP_CFG_HOLDOFF : Fld := ⟨0x160000 + 0x14, 0, 8⟩
def HLY_WRAP_CFG_RESTORE : Fld := ⟨0x160000 + 0x14, 16, 16⟩
def HLY_HORIZON_NS : Fld := ⟨0x160000 + 0x18, 0, 22⟩
def HLY_L_RING_NS : Fld := ⟨0x160000 + 0x1c, 0, 23⟩
def HLY_L_WRAP_NS : Fld := ⟨0x160000 + 0x20, 0, 23⟩
def HLY_TIME_CFG_PRIORITY : Fld := ⟨0x160000 + 0x24, 0, 8⟩
def HLY_TIME_CFG_SYNC_PERIOD : Fld := ⟨0x160000 + 0x24, 8, 16⟩
def HLY_TIME_MASTER_ID : Fld := ⟨0x160000 + 0x28, 0, 16⟩
def HLY_TIME_MASTER_HOPS : Fld := ⟨0x160000 + 0x28, 16, 8⟩
def HLY_TIME_MASTER_PATH : Fld := ⟨0x160000 + 0x28, 24, 1⟩
def HLY_TIME_OFFSET_NS : Fld := ⟨0x160000 + 0x2c, 0, 32⟩
def HLY_LINK_DELAY_HW : Fld := ⟨0x160000 + 0x30, 0, 16⟩
def HLY_LINK_DELAY_HE : Fld := ⟨0x160000 + 0x30, 16, 16⟩
def HLY_GATE_WAIT_NS : Fld := ⟨0x160000 + 0x34, 0, 24⟩
def HLY_WIN_LO_ADDR : Fld := ⟨0x160000 + 0x40, 16, 16⟩
def HLY_WIN_HI_ADDR : Fld := ⟨0x160000 + 0x44, 0, 16⟩
def HLY_WIN_SIZE_SIZE : Fld := ⟨0x160000 + 0x48, 0, 16⟩
def HLY_INT_STATUS_CAUSE : Fld := ⟨0x160000 + 0x60, 0, 11⟩
def HLY_INT_EN_EN : Fld := ⟨0x160000 + 0x64, 0, 11⟩
def HLY_RELAY_OVERSIZE_COUNT : Fld := ⟨0x160000 + 0x68, 0, 32⟩
def HLY_WB_RELAY_SKIP_COUNT : Fld := ⟨0x160000 + 0x6c, 0, 32⟩
def HLYP_RX_FRAMES_COUNT (n : Nat) : Fld := ⟨0x160100 + n * 0x40, 0, 32⟩
def HLYP_RX_CRC_ERR_COUNT (n : Nat) : Fld := ⟨0x160100 + n * 0x40 + 0x4, 0, 32⟩
def HLYP_RX_STOMPED_COUNT (n : Nat) : Fld := ⟨0x160100 + n * 0x40 + 0x8, 0, 32⟩
def HLYP_TX_FRAMES_COUNT (n : Nat) : Fld := ⟨0x160100 + n * 0x40 + 0xc, 0, 32⟩
def HLYP_TX_POISON_COUNT (n : Nat) : Fld := ⟨0x160100 + n * 0x40 + 0x10, 0, 32⟩
def HLYP_STRIPPED_OWN_COUNT (n : Nat) : Fld := ⟨0x160100 + n * 0x40 + 0x14, 0, 32⟩
def HLYP_STRIPPED_STALE_COUNT (n : Nat) : Fld := ⟨0x160100 + n * 0x40 + 0x18, 0, 32⟩
def HLYP_UNDELIVERED_COUNT (n : Nat) : Fld := ⟨0x160100 + n * 0x40 + 0x1c, 0, 32⟩
def HLYP_LOCK_LOSS_COUNT (n : Nat) : Fld := ⟨0x160100 + n * 0x40 + 0x20, 0, 32⟩
def HLYP_WRAP_DISCARD_COUNT (n : Nat) : Fld := ⟨0x160100 + n * 0x40 + 0x24, 0, 32⟩
def HLYP_FEC_CORR_COUNT (n : Nat) : Fld := ⟨0x160100 + n * 0x40 + 0x28, 0, 32⟩
def HLYP_FEC_UNCORR_COUNT (n : Nat) : Fld := ⟨0x160100 + n * 0x40 + 0x2c, 0, 32⟩
def HLYP_RX_OVERFLOW_COUNT (n : Nat) : Fld := ⟨0x160100 + n * 0x40 + 0x30, 0, 32⟩
def HLYP_WIN_BOUND_COUNT (n : Nat) : Fld := ⟨0x160100 + n * 0x40 + 0x34, 0, 32⟩
def HLYP_RX_DROPPED_TYPE_COUNT (n : Nat) : Fld := ⟨0x160100 + n * 0x40 + 0x38, 0, 32⟩
def SHD_STATE_STATE : Fld := ⟨0x1a0000, 0, 3⟩
def SHD_STATE_OK_PIN : Fld := ⟨0x1a0000, 4, 1⟩
def SHD_STATE_LANE_LOCK : Fld := ⟨0x1a0000, 8, 8⟩
def SHD_CTRL_TAKEOVER : Fld := ⟨0x1a0000 + 0x4, 0, 1⟩
def SHD_CTRL_BYPASS : Fld := ⟨0x1a0000 + 0x4, 1, 1⟩
def SHD_HB_TIMEOUT : Fld := ⟨0x1a0000 + 0x8, 0, 8⟩
def SHD_CAUSE_CAUSE : Fld := ⟨0x1a0000 + 0xc, 0, 3⟩
def SHD_TAKEOVERS_COUNT : Fld := ⟨0x1a0000 + 0x10, 0, 16⟩
def SHD_OUT_GAP_NS : Fld := ⟨0x1a0000 + 0x14, 0, 16⟩
def HLYQ_WEIGHT_Q0 (n : Nat) : Fld := ⟨0x160800 + n * 0x800, 0, 8⟩
def HLYQ_WEIGHT_Q1 (n : Nat) : Fld := ⟨0x160800 + n * 0x800, 8, 8⟩
def HLYQ_WEIGHT_Q2 (n : Nat) : Fld := ⟨0x160800 + n * 0x800, 16, 8⟩
def HLYQ_WEIGHT_Q3 (n : Nat) : Fld := ⟨0x160800 + n * 0x800, 24, 8⟩
def HLYQ_WEIGHT4_Q4 (n : Nat) : Fld := ⟨0x160800 + n * 0x800 + 0x4, 0, 8⟩
def HLYQ_SHAPE_RATE_RATE (n i : Nat) : Fld := ⟨0x160800 + n * 0x800 + 0x40 + i * 8, 0, 20⟩
def HLYQ_SHAPE_BURST_BURST (n i : Nat) : Fld := ⟨0x160800 + n * 0x800 + 0x44 + i * 8, 0, 16⟩
def HLYQ_Q_FILL_BYTES (n i : Nat) : Fld := ⟨0x160800 + n * 0x800 + 0x80 + i * 4, 0, 24⟩
def HLYQ_GATE_CTRL_EN (n : Nat) : Fld := ⟨0x160800 + n * 0x800 + 0x100, 0, 1⟩
def HLYQ_GATE_CTRL_INSTALL (n : Nat) : Fld := ⟨0x160800 + n * 0x800 + 0x100, 1, 1⟩
def HLYQ_GATE_ENTRIES_COUNT (n : Nat) : Fld := ⟨0x160800 + n * 0x800 + 0x104, 0, 8⟩
def HLYQ_GATE_CYCLE_NS (n : Nat) : Fld := ⟨0x160800 + n * 0x800 + 0x108, 0, 24⟩
def HLYQ_GATE_BASE_SEC_LO_SEC (n : Nat) : Fld := ⟨0x160800 + n * 0x800 + 0x10c, 0, 32⟩
def HLYQ_GATE_BASE_SEC_HI_SEC (n : Nat) : Fld := ⟨0x160800 + n * 0x800 + 0x110, 0, 16⟩
def HLYQ_GATE_BASE_NS_NS (n : Nat) : Fld := ⟨0x160800 + n * 0x800 + 0x114, 0, 30⟩
def HLYQ_GATE_SETUP_NS (n : Nat) : Fld := ⟨0x160800 + n * 0x800 + 0x118, 0, 20⟩
def HLYQ_GATE_STATUS_PENDING (n : Nat) : Fld := ⟨0x160800 + n * 0x800 + 0x11c, 0, 1⟩
def HLYQ_GATE_STATUS_BASE_LATE (n : Nat) : Fld := ⟨0x160800 + n * 0x800 + 0x11c, 1, 1⟩
def HLYQ_GATE_STATUS_GATE_ERR (n : Nat) : Fld := ⟨0x160800 + n * 0x800 + 0x11c, 2, 1⟩
def HLYQ_GATE_STATUS_RUNNING (n : Nat) : Fld := ⟨0x160800 + n * 0x800 + 0x11c, 3, 1⟩
def HLYQ_GATE_STATUS_ENTRY (n : Nat) : Fld := ⟨0x160800 + n * 0x800 + 0x11c, 8, 7⟩
def HLYQ_GATE_START_SEC_LO_SEC (n : Nat) : Fld := ⟨0x160800 + n * 0x800 + 0x120, 0, 32⟩
def HLYQ_GATE_START_SEC_HI_SEC (n : Nat) : Fld := ⟨0x160800 + n * 0x800 + 0x124, 0, 16⟩
def HLYQ_GATE_START_NS_NS (n : Nat) : Fld := ⟨0x160800 + n * 0x800 + 0x128, 0, 30⟩
def HLYQ_GATE_ADMIN_MASK (n i : Nat) : Fld := ⟨0x160800 + n * 0x800 + 0x200 + i * 4, 0, 8⟩
def HLYQ_GATE_ADMIN_DURATION (n i : Nat) : Fld := ⟨0x160800 + n * 0x800 + 0x200 + i * 4, 8, 24⟩
def HLYQ_GATE_OPER_ENTRY (n i : Nat) : Fld := ⟨0x160800 + n * 0x800 + 0x400 + i * 4, 0, 32⟩
def HLYQ_TX_FRAMES_COUNT (n i : Nat) : Fld := ⟨0x160800 + n * 0x800 + 0x600 + i * 0x20, 0, 32⟩
def HLYQ_TX_BYTES_LO_BYTES (n i : Nat) : Fld := ⟨0x160800 + n * 0x800 + 0x604 + i * 0x20, 0, 32⟩
def HLYQ_TX_BYTES_HI_BYTES (n i : Nat) : Fld := ⟨0x160800 + n * 0x800 + 0x608 + i * 0x20, 0, 32⟩
def HLYQ_DROP_FRAMES_COUNT (n i : Nat) : Fld := ⟨0x160800 + n * 0x800 + 0x60c + i * 0x20, 0, 32⟩
def HLYQ_DROP_BYTES_LO_BYTES (n i : Nat) : Fld := ⟨0x160800 + n * 0x800 + 0x610 + i * 0x20, 0, 32⟩
def HLYQ_DROP_BYTES_HI_BYTES (n i : Nat) : Fld := ⟨0x160800 + n * 0x800 + 0x614 + i * 0x20, 0, 32⟩
def HLYQ_RX_DROP_BYTES_LO_BYTES (n : Nat) : Fld := ⟨0x160800 + n * 0x800 + 0x700, 0, 32⟩
def HLYQ_RX_DROP_BYTES_HI_BYTES (n : Nat) : Fld := ⟨0x160800 + n * 0x800 + 0x704, 0, 32⟩
def POL_CTRL_EN (n : Nat) : Fld := ⟨0x161800 + n * 0x20, 0, 1⟩
def POL_CTRL_POINT (n : Nat) : Fld := ⟨0x161800 + n * 0x20, 1, 1⟩
def POL_CTRL_ANY_STREAM (n : Nat) : Fld := ⟨0x161800 + n * 0x20, 2, 1⟩
def POL_CTRL_CLASS (n : Nat) : Fld := ⟨0x161800 + n * 0x20, 4, 3⟩
def POL_CTRL_STREAM (n : Nat) : Fld := ⟨0x161800 + n * 0x20, 16, 12⟩
def POL_RATE_RATE (n : Nat) : Fld := ⟨0x161800 + n * 0x20 + 0x4, 0, 20⟩
def POL_BURST_BURST (n : Nat) : Fld := ⟨0x161800 + n * 0x20 + 0x8, 0, 16⟩
def POL_PASS_COUNT (n : Nat) : Fld := ⟨0x161800 + n * 0x20 + 0xc, 0, 32⟩
def POL_DROP_COUNT (n : Nat) : Fld := ⟨0x161800 + n * 0x20 + 0x10, 0, 32⟩
def POL_DROP_BYTES_LO_BYTES (n : Nat) : Fld := ⟨0x161800 + n * 0x20 + 0x14, 0, 32⟩
def POL_DROP_BYTES_HI_BYTES (n : Nat) : Fld := ⟨0x161800 + n * 0x20 + 0x18, 0, 32⟩
def SP_DROP_BYTES_LO_BYTES (n : Nat) : Fld := ⟨0x140000 + n * 0x1000 + 0x70, 0, 32⟩
def SP_DROP_BYTES_HI_BYTES (n : Nat) : Fld := ⟨0x140000 + n * 0x1000 + 0x74, 0, 32⟩
def DSM_STATUS_INIT_DONE : Fld := ⟨0x100000, 0, 1⟩
def DSM_STATUS_SELFTEST_PASS : Fld := ⟨0x100000, 1, 1⟩
def DSM_STATUS_SELFTEST_FAIL : Fld := ⟨0x100000, 2, 1⟩
def DSM_STATUS_OVERRIDDEN : Fld := ⟨0x100000, 3, 1⟩
def DSM_STATUS_SCRUB_BUSY : Fld := ⟨0x100000, 4, 1⟩
def DSM_STATUS_REPAIR_BUSY : Fld := ⟨0x100000, 5, 1⟩
def DSM_SELFTEST_OVERRIDE : Fld := ⟨0x100000 + 0x4, 0, 1⟩
def DSM_SELFTEST_FAIL_BANK : Fld := ⟨0x100000 + 0x4, 16, 7⟩
def DSM_SELFTEST_FAIL_STEP : Fld := ⟨0x100000 + 0x4, 24, 4⟩
def DSM_SEAL_CTRL_QUIET : Fld := ⟨0x100000 + 0x8, 0, 16⟩
def DSM_RECUR_CTRL_THRESH : Fld := ⟨0x100000 + 0xc, 0, 8⟩
def DSM_CE_LINES_COUNT : Fld := ⟨0x100000 + 0x10, 0, 32⟩
def DSM_UE_LINES_COUNT : Fld := ⟨0x100000 + 0x14, 0, 32⟩
def DSM_REBUILT_COUNT : Fld := ⟨0x100000 + 0x18, 0, 32⟩
def DSM_SEAL_FAIL_COUNT : Fld := ⟨0x100000 + 0x1c, 0, 32⟩
def DSM_PERM_ERR_COUNT : Fld := ⟨0x100000 + 0x20, 0, 32⟩
def DSM_POISON_RD_COUNT : Fld := ⟨0x100000 + 0x24, 0, 32⟩
def DSM_DIRTY_PAGES_COUNT : Fld := ⟨0x100000 + 0x28, 0, 15⟩
def DSM_REGION_MISS_COUNT : Fld := ⟨0x100000 + 0x2c, 0, 16⟩
def DSM_RECUR_FULL_COUNT : Fld := ⟨0x100000 + 0x30, 0, 32⟩
def DSM_RECUR_CLR_ENTRY : Fld := ⟨0x100000 + 0x34, 0, 6⟩
def DSM_RECUR_CLR_ALL : Fld := ⟨0x100000 + 0x34, 8, 1⟩
def DSM_INT_STATUS_CAUSE : Fld := ⟨0x100000 + 0x40, 0, 7⟩
def DSM_INT_EN_EN : Fld := ⟨0x100000 + 0x44, 0, 7⟩
def DSM_INJECT_ADDR_LINE : Fld := ⟨0x100000 + 0x50, 6, 21⟩
def DSM_INJECT_CTRL_MODE : Fld := ⟨0x100000 + 0x54, 0, 2⟩
def DSM_INJECT_CTRL_BYTE : Fld := ⟨0x100000 + 0x54, 8, 6⟩
def DSM_INJECT_CTRL_BIT : Fld := ⟨0x100000 + 0x54, 16, 3⟩
def DSM_INJECT_CTRL_ARM : Fld := ⟨0x100000 + 0x54, 31, 1⟩
def DSM_REG_BASE_BASE (i : Nat) : Fld := ⟨0x100000 + 0x400 + i * 16, 16, 11⟩
def DSM_REG_SIZE_SIZE (i : Nat) : Fld := ⟨0x100000 + 0x404 + i * 16, 0, 12⟩
def DSM_REG_PERM_READ (i : Nat) : Fld := ⟨0x100000 + 0x408 + i * 16, 0, 9⟩
def DSM_REG_PERM_WRITE (i : Nat) : Fld := ⟨0x100000 + 0x408 + i * 16, 16, 9⟩
def DSM_REG_CTRL_EN (i : Nat) : Fld := ⟨0x100000 + 0x40c + i * 16, 0, 1⟩
def DSM_REG_CTRL_CLASS (i : Nat) : Fld := ⟨0x100000 + 0x40c + i * 16, 1, 1⟩
def DSM_REG_CTRL_OWNER (i : Nat) : Fld := ⟨0x100000 + 0x40c + i * 16, 2, 1⟩
def DSM_RECUR_ADDR_LINE (i : Nat) : Fld := ⟨0x100000 + 0x800 + i * 8, 6, 21⟩
def DSM_RECUR_CNT_COUNT (i : Nat) : Fld := ⟨0x100000 + 0x804 + i * 8, 0, 8⟩
def DSM_RECUR_CNT_RAISED (i : Nat) : Fld := ⟨0x100000 + 0x804 + i * 8, 8, 1⟩
def DSM_RECUR_CNT_VALID (i : Nat) : Fld := ⟨0x100000 + 0x804 + i * 8, 9, 1⟩
def DSM_SPARE_USE_ROWS (i : Nat) : Fld := ⟨0x100000 + 0xc00 + i * 4, 0, 7⟩
def DSM_SPARE_USE_COLS (i : Nat) : Fld := ⟨0x100000 + 0xc00 + i * 4, 8, 4⟩
def DSM_SOFT_MAP_COUNT : Fld := ⟨0x100000 + 0xd00, 0, 9⟩
def DMC_CTRL_EN (n : Nat) : Fld := ⟨0x110000 + n * 0x4000, 0, 1⟩
def DMC_CTRL_RATE (n : Nat) : Fld := ⟨0x110000 + n * 0x4000, 1, 2⟩
def DMC_CTRL_SR_EN (n : Nat) : Fld := ⟨0x110000 + n * 0x4000, 3, 1⟩
def DMC_STATUS_TRAINED (n : Nat) : Fld := ⟨0x110000 + n * 0x4000 + 0x4, 0, 1⟩
def DMC_STATUS_SELF_REFRESH (n : Nat) : Fld := ⟨0x110000 + n * 0x4000 + 0x4, 1, 1⟩
def DMC_STATUS_RETIRED (n : Nat) : Fld := ⟨0x110000 + n * 0x4000 + 0x4, 2, 1⟩
def DMC_STATUS_RESILVER (n : Nat) : Fld := ⟨0x110000 + n * 0x4000 + 0x4, 3, 1⟩
def DMC_STATUS_POWERED (n : Nat) : Fld := ⟨0x110000 + n * 0x4000 + 0x4, 4, 1⟩
def DMC_STATUS_HOT (n : Nat) : Fld := ⟨0x110000 + n * 0x4000 + 0x4, 5, 1⟩
def DMC_DIMM_RANKS (n : Nat) : Fld := ⟨0x110000 + n * 0x4000 + 0x8, 0, 2⟩
def DMC_DIMM_X8 (n : Nat) : Fld := ⟨0x110000 + n * 0x4000 + 0x8, 2, 1⟩
def DMC_DIMM_GIB (n : Nat) : Fld := ⟨0x110000 + n * 0x4000 + 0x8, 4, 3⟩
def DMC_DIMM_DRFM (n : Nat) : Fld := ⟨0x110000 + n * 0x4000 + 0x8, 8, 1⟩
def DMC_SLOT_PWR_EN (n : Nat) : Fld := ⟨0x110000 + n * 0x4000 + 0xc, 0, 1⟩
def DMC_SR_IDLE_US (n : Nat) : Fld := ⟨0x110000 + n * 0x4000 + 0x10, 0, 16⟩
def DMC_SR_ENTRIES_COUNT (n : Nat) : Fld := ⟨0x110000 + n * 0x4000 + 0x14, 0, 32⟩
def DMC_REFRESH_TREFI (n : Nat) : Fld := ⟨0x110000 + n * 0x4000 + 0x20, 0, 16⟩
def DMC_REFRESH_TRFCSB (n : Nat) : Fld := ⟨0x110000 + n * 0x4000 + 0x20, 16, 16⟩
def DMC_TRC_NS (n : Nat) : Fld := ⟨0x110000 + n * 0x4000 + 0x24, 0, 8⟩
def DMC_REF_AB_COUNT (n : Nat) : Fld := ⟨0x110000 + n * 0x4000 + 0x28, 0, 32⟩
def DMC_REF_POSTPONED_COUNT (n : Nat) : Fld := ⟨0x110000 + n * 0x4000 + 0x2c, 0, 32⟩
def DMC_HAMMER_TH (n : Nat) : Fld := ⟨0x110000 + n * 0x4000 + 0x30, 0, 16⟩
def DMC_MITIGATIONS_COUNT (n : Nat) : Fld := ⟨0x110000 + n * 0x4000 + 0x34, 0, 32⟩
def DMC_BE_HAMMER_TH (n : Nat) : Fld := ⟨0x110000 + n * 0x4000 + 0x38, 0, 16⟩
def DMC_BE_CUTS_COUNT (n : Nat) : Fld := ⟨0x110000 + n * 0x4000 + 0x3c, 0, 32⟩
def DMC_QUEUES_READS (n : Nat) : Fld := ⟨0x110000 + n * 0x4000 + 0x40, 0, 7⟩
def DMC_QUEUES_WRITES (n : Nat) : Fld := ⟨0x110000 + n * 0x4000 + 0x40, 16, 7⟩
def DMC_FORWARDED_COUNT (n : Nat) : Fld := ⟨0x110000 + n * 0x4000 + 0x44, 0, 32⟩
def DMC_MERGES_COUNT (n : Nat) : Fld := ⟨0x110000 + n * 0x4000 + 0x48, 0, 32⟩
def DMC_FILL_STALL_COUNT (n : Nat) : Fld := ⟨0x110000 + n * 0x4000 + 0x4c, 0, 32⟩
def DMC_CE_LINES_COUNT (n : Nat) : Fld := ⟨0x110000 + n * 0x4000 + 0x100, 0, 32⟩
def DMC_UE_LINES_COUNT (n : Nat) : Fld := ⟨0x110000 + n * 0x4000 + 0x104, 0, 32⟩
def DMC_CA_RETRY_COUNT (n : Nat) : Fld := ⟨0x110000 + n * 0x4000 + 0x108, 0, 32⟩
def DMC_CA_FAIL_COUNT (n : Nat) : Fld := ⟨0x110000 + n * 0x4000 + 0x10c, 0, 32⟩
def DMC_POISON_RD_COUNT (n : Nat) : Fld := ⟨0x110000 + n * 0x4000 + 0x110, 0, 32⟩
def DMC_MIRROR_FIX_COUNT (n : Nat) : Fld := ⟨0x110000 + n * 0x4000 + 0x114, 0, 32⟩
def DMC_FILL_RD_COUNT (n : Nat) : Fld := ⟨0x110000 + n * 0x4000 + 0x118, 0, 32⟩
def DMC_DEV_THRESH_COUNT (n : Nat) : Fld := ⟨0x110000 + n * 0x4000 + 0x11c, 0, 16⟩
def DMC_CE_DEV_COUNT (n i : Nat) : Fld := ⟨0x110000 + n * 0x4000 + 0x120 + i * 4, 0, 32⟩
def DMC_INT_STATUS_CAUSE (n : Nat) : Fld := ⟨0x110000 + n * 0x4000 + 0x180, 0, 8⟩
def DMC_INT_EN_EN (n : Nat) : Fld := ⟨0x110000 + n * 0x4000 + 0x184, 0, 8⟩
def DMC_TRAIN_CTRL_GO (n : Nat) : Fld := ⟨0x110000 + n * 0x4000 + 0x200, 0, 1⟩
def DMC_TRAIN_CTRL_OP (n : Nat) : Fld := ⟨0x110000 + n * 0x4000 + 0x200, 1, 3⟩
def DMC_TRAIN_CTRL_SUB (n : Nat) : Fld := ⟨0x110000 + n * 0x4000 + 0x200, 4, 1⟩
def DMC_TRAIN_CTRL_RANK (n : Nat) : Fld := ⟨0x110000 + n * 0x4000 + 0x200, 5, 1⟩
def DMC_TRAIN_CTRL_BUSY (n : Nat) : Fld := ⟨0x110000 + n * 0x4000 + 0x200, 6, 1⟩
def DMC_TRAIN_CTRL_BURSTS (n : Nat) : Fld := ⟨0x110000 + n * 0x4000 + 0x200, 16, 16⟩
def DMC_TRAIN_ADDR_BG (n : Nat) : Fld := ⟨0x110000 + n * 0x4000 + 0x204, 0, 3⟩
def DMC_TRAIN_ADDR_BA (n : Nat) : Fld := ⟨0x110000 + n * 0x4000 + 0x204, 3, 2⟩
def DMC_TRAIN_ADDR_ROW (n : Nat) : Fld := ⟨0x110000 + n * 0x4000 + 0x204, 5, 17⟩
def DMC_TRAIN_ADDR_COL (n : Nat) : Fld := ⟨0x110000 + n * 0x4000 + 0x204, 22, 6⟩
def DMC_TRAIN_PAT_MODE (n : Nat) : Fld := ⟨0x110000 + n * 0x4000 + 0x208, 0, 2⟩
def DMC_TRAIN_SEED_SEED (n : Nat) : Fld := ⟨0x110000 + n * 0x4000 + 0x20c, 0, 32⟩
def DMC_TRAIN_INV_LO_LANES (n : Nat) : Fld := ⟨0x110000 + n * 0x4000 + 0x210, 0, 32⟩
def DMC_TRAIN_INV_HI_LANES (n : Nat) : Fld := ⟨0x110000 + n * 0x4000 + 0x214, 0, 8⟩
def DMC_TRAIN_PASS_LO_LANES (n : Nat) : Fld := ⟨0x110000 + n * 0x4000 + 0x218, 0, 32⟩
def DMC_TRAIN_PASS_HI_LANES (n : Nat) : Fld := ⟨0x110000 + n * 0x4000 + 0x21c, 0, 8⟩
def DMC_TRAIN_ERRS_COUNT (n : Nat) : Fld := ⟨0x110000 + n * 0x4000 + 0x220, 0, 32⟩
def DMC_LANE_DLY_WR (n i : Nat) : Fld := ⟨0x110000 + n * 0x4000 + 0x400 + i * 4, 0, 8⟩
def DMC_LANE_DLY_RD (n i : Nat) : Fld := ⟨0x110000 + n * 0x4000 + 0x400 + i * 4, 8, 8⟩
def DMC_LANE_DLY_VREF (n i : Nat) : Fld := ⟨0x110000 + n * 0x4000 + 0x400 + i * 4, 16, 8⟩
def DMC0_MAP_MODE_MODE : Fld := ⟨0x110000 + 0x300, 0, 1⟩
def DMC0_MAP_MODE_GRAIN : Fld := ⟨0x110000 + 0x300, 8, 4⟩
def DMC0_MAP_MODE_MIRROR : Fld := ⟨0x110000 + 0x300, 16, 1⟩
def DMC0_MAP_LO_MASK (i : Nat) : Fld := ⟨0x110000 + 0x310 + i * 8, 0, 32⟩
def DMC0_MAP_HI_MASK (i : Nat) : Fld := ⟨0x110000 + 0x314 + i * 8, 0, 8⟩
def DMC0_INIT_CTRL_START : Fld := ⟨0x110000 + 0x360, 0, 1⟩
def DMC0_INIT_CTRL_FAST : Fld := ⟨0x110000 + 0x360, 1, 1⟩
def DMC0_INIT_STATUS_DONE : Fld := ⟨0x110000 + 0x364, 0, 1⟩
def DMC0_INIT_STATUS_FILL_DONE : Fld := ⟨0x110000 + 0x364, 1, 1⟩
def DMC0_INIT_STATUS_MAP_ERR : Fld := ⟨0x110000 + 0x364, 2, 1⟩
def DMC0_INIT_STATUS_PROGRESS : Fld := ⟨0x110000 + 0x364, 16, 16⟩
def DMC0_BE_WEIGHT_HST : Fld := ⟨0x110000 + 0x370, 0, 4⟩
def DMC0_BE_WEIGHT_CTL : Fld := ⟨0x110000 + 0x370, 4, 4⟩
def DMC0_BE_WEIGHT_DXB : Fld := ⟨0x110000 + 0x370, 8, 4⟩
def DMC0_BE_WEIGHT_HLY : Fld := ⟨0x110000 + 0x370, 12, 4⟩
def DMC0_RESILVER_RATE : Fld := ⟨0x110000 + 0x374, 0, 16⟩
def DMC0_PANIC_LOW_LINES (i : Nat) : Fld := ⟨0x110000 + 0x380 + i * 8, 0, 16⟩
def DMC0_PANIC_HIGH_LINES (i : Nat) : Fld := ⟨0x110000 + 0x384 + i * 8, 0, 16⟩
def DMC0_PANIC_STATUS_PORTS : Fld := ⟨0x110000 + 0x3d0, 0, 9⟩
def DMC0_PANIC_ENTRIES_COUNT : Fld := ⟨0x110000 + 0x3d4, 0, 32⟩
def DMACH_CH_CTRL_EN (n : Nat) : Fld := ⟨0x120000 + n * 0x80, 0, 1⟩
def DMACH_CH_CTRL_RESUME (n : Nat) : Fld := ⟨0x120000 + n * 0x80, 1, 1⟩
def DMACH_CH_CTRL_ABORT (n : Nat) : Fld := ⟨0x120000 + n * 0x80, 2, 1⟩
def DMACH_CH_CTRL_PRIO (n : Nat) : Fld := ⟨0x120000 + n * 0x80, 4, 2⟩
def DMACH_CH_STATUS_STATE (n : Nat) : Fld := ⟨0x120000 + n * 0x80 + 0x4, 0, 2⟩
def DMACH_CH_STATUS_ERR (n : Nat) : Fld := ⟨0x120000 + n * 0x80 + 0x4, 4, 4⟩
def DMACH_CH_STATUS_REQ_OVF (n : Nat) : Fld := ⟨0x120000 + n * 0x80 + 0x4, 8, 1⟩
def DMACH_RING_LO_ADDR (n : Nat) : Fld := ⟨0x120000 + n * 0x80 + 0x8, 6, 26⟩
def DMACH_RING_HI_ADDR (n : Nat) : Fld := ⟨0x120000 + n * 0x80 + 0xc, 0, 16⟩
def DMACH_RING_SIZE_SIZE (n : Nat) : Fld := ⟨0x120000 + n * 0x80 + 0x10, 0, 13⟩
def DMACH_HEAD_INDEX (n : Nat) : Fld := ⟨0x120000 + n * 0x80 + 0x14, 0, 12⟩
def DMACH_BUDGET_COUNT (n : Nat) : Fld := ⟨0x120000 + n * 0x80 + 0x18, 0, 16⟩
def DMACH_ERR_ADDR_LO_ADDR (n : Nat) : Fld := ⟨0x120000 + n * 0x80 + 0x20, 0, 32⟩
def DMACH_ERR_ADDR_HI_ADDR (n : Nat) : Fld := ⟨0x120000 + n * 0x80 + 0x24, 0, 16⟩
def DMACH_ERR_INFO_DIR (n : Nat) : Fld := ⟨0x120000 + n * 0x80 + 0x28, 0, 2⟩
def DMACH_ERR_INFO_TIMEOUT (n : Nat) : Fld := ⟨0x120000 + n * 0x80 + 0x28, 2, 1⟩
def DMACH_ERR_INFO_POISON (n : Nat) : Fld := ⟨0x120000 + n * 0x80 + 0x28, 3, 1⟩
def DMACH_ERR_INFO_INDEX (n : Nat) : Fld := ⟨0x120000 + n * 0x80 + 0x28, 16, 12⟩
def DMACH_REQ_PEND_COUNT (n : Nat) : Fld := ⟨0x120000 + n * 0x80 + 0x2c, 0, 8⟩
def DMACH_DESC_DONE_COUNT (n : Nat) : Fld := ⟨0x120000 + n * 0x80 + 0x30, 0, 32⟩
def DMACH_BYTES_LO_BYTES (n : Nat) : Fld := ⟨0x120000 + n * 0x80 + 0x34, 0, 32⟩
def DMACH_BYTES_HI_BYTES (n : Nat) : Fld := ⟨0x120000 + n * 0x80 + 0x38, 0, 32⟩
def DMACH_INT_STATUS_CAUSE (n : Nat) : Fld := ⟨0x120000 + n * 0x80 + 0x3c, 0, 5⟩
def DMACH_INT_EN_EN (n : Nat) : Fld := ⟨0x120000 + n * 0x80 + 0x40, 0, 5⟩
def DMA_RESP_TIMEOUT_CYCLES : Fld := ⟨0x120000 + 0x800, 0, 24⟩
def DMA_SWREQ_REQ : Fld := ⟨0x120000 + 0x804, 0, 15⟩
def DMA_DOORBELL_CH : Fld := ⟨0x120000 + 0x808, 0, 16⟩
def BLT_CTRL_EN : Fld := ⟨0x130000, 0, 1⟩
def BLT_CTRL_ABORT : Fld := ⟨0x130000, 1, 1⟩
def BLT_STATUS_STATE : Fld := ⟨0x130000 + 0x4, 0, 2⟩
def BLT_STATUS_ERR : Fld := ⟨0x130000 + 0x4, 4, 4⟩
def BLT_Q_LO_ADDR : Fld := ⟨0x130000 + 0x8, 6, 26⟩
def BLT_Q_HI_ADDR : Fld := ⟨0x130000 + 0xc, 0, 16⟩
def BLT_Q_SIZE_SIZE : Fld := ⟨0x130000 + 0x10, 0, 11⟩
def BLT_Q_HEAD_INDEX : Fld := ⟨0x130000 + 0x14, 0, 10⟩
def BLT_DOORBELL_RING : Fld := ⟨0x130000 + 0x18, 0, 1⟩
def BLT_WATERMARK_ROWS : Fld := ⟨0x130000 + 0x20, 0, 15⟩
def BLT_ROWS_DONE_ROWS : Fld := ⟨0x130000 + 0x24, 0, 15⟩
def BLT_CMDS_DONE_COUNT : Fld := ⟨0x130000 + 0x28, 0, 32⟩
def BLT_ERR_ADDR_LO_ADDR : Fld := ⟨0x130000 + 0x30, 0, 32⟩
def BLT_ERR_ADDR_HI_ADDR : Fld := ⟨0x130000 + 0x34, 0, 16⟩
def BLT_INT_STATUS_CAUSE : Fld := ⟨0x130000 + 0x40, 0, 4⟩
def BLT_INT_EN_EN : Fld := ⟨0x130000 + 0x44, 0, 4⟩
def TSY_SYS_STATUS_SYS_LOCK : Fld := ⟨0x170000, 0, 1⟩
def TSY_SYS_STATUS_DDR_LOCK : Fld := ⟨0x170000, 1, 1⟩
def TSY_SYS_STATUS_SERDES_LOCK : Fld := ⟨0x170000, 2, 1⟩
def HPLL_CTRL_EN (n : Nat) : Fld := ⟨0x170100 + n * 0x100, 0, 1⟩
def HPLL_CTRL_MODE (n : Nat) : Fld := ⟨0x170100 + n * 0x100, 1, 1⟩
def HPLL_CTRL_SYNC_ARM (n : Nat) : Fld := ⟨0x170100 + n * 0x100, 2, 1⟩
def HPLL_FB_FB_INT (n : Nat) : Fld := ⟨0x170100 + n * 0x100 + 0x4, 0, 8⟩
def HPLL_FRAC_FB_FRAC (n : Nat) : Fld := ⟨0x170100 + n * 0x100 + 0x8, 0, 24⟩
def HPLL_STATUS_LOCKED (n : Nat) : Fld := ⟨0x170100 + n * 0x100 + 0xc, 0, 1⟩
def HPLL_STATUS_RAMPING (n : Nat) : Fld := ⟨0x170100 + n * 0x100 + 0xc, 1, 1⟩
def HPLL_STATUS_SYNCED (n : Nat) : Fld := ⟨0x170100 + n * 0x100 + 0xc, 2, 1⟩
def HPLL_OUT_DIV (n i : Nat) : Fld := ⟨0x170100 + n * 0x100 + 0x10 + i * 4, 0, 10⟩
def HPLL_OUT_DELAY (n i : Nat) : Fld := ⟨0x170100 + n * 0x100 + 0x10 + i * 4, 16, 8⟩
def HPLL_OUT_EN (n i : Nat) : Fld := ⟨0x170100 + n * 0x100 + 0x10 + i * 4, 31, 1⟩
def HPLL_STEER_PPB (n : Nat) : Fld := ⟨0x170100 + n * 0x100 + 0x20, 0, 32⟩
def HPLL_RAMP_CTRL_GO (n : Nat) : Fld := ⟨0x170100 + n * 0x100 + 0x24, 0, 1⟩
def HPLL_RAMP_CTRL_SEGS (n : Nat) : Fld := ⟨0x170100 + n * 0x100 + 0x24, 8, 4⟩
def HPLL_FB_NEXT_INT_INT (n : Nat) : Fld := ⟨0x170100 + n * 0x100 + 0x28, 0, 8⟩
def HPLL_FB_NEXT_FRAC_FRAC (n : Nat) : Fld := ⟨0x170100 + n * 0x100 + 0x2c, 0, 24⟩
def HPLL_RAMP_RATE_RATE (n i : Nat) : Fld := ⟨0x170100 + n * 0x100 + 0x40 + i * 8, 0, 16⟩
def HPLL_RAMP_DUR_US (n i : Nat) : Fld := ⟨0x170100 + n * 0x100 + 0x44 + i * 8, 0, 24⟩
def TSY_TIME_CTRL_MODE : Fld := ⟨0x170000 + 0x600, 0, 2⟩
def TSY_TIME_STATUS_SOURCE : Fld := ⟨0x170000 + 0x604, 0, 2⟩
def TSY_TIME_SEC_LO_SEC : Fld := ⟨0x170000 + 0x608, 0, 32⟩
def TSY_TIME_SEC_HI_SEC : Fld := ⟨0x170000 + 0x60c, 0, 16⟩
def TSY_TIME_NS_NS : Fld := ⟨0x170000 + 0x610, 0, 30⟩
def TSY_FREQ_ADJ_PPB : Fld := ⟨0x170000 + 0x614, 0, 32⟩
def TSY_SET_SEC_LO_SEC : Fld := ⟨0x170000 + 0x620, 0, 32⟩
def TSY_SET_SEC_HI_SEC : Fld := ⟨0x170000 + 0x624, 0, 16⟩
def TSY_SET_NS_NS : Fld := ⟨0x170000 + 0x628, 0, 30⟩
def TSY_SET_GO_GO : Fld := ⟨0x170000 + 0x62c, 0, 1⟩
def TSY_GENLOCK_EN : Fld := ⟨0x170000 + 0x700, 0, 1⟩
def TSY_GENLOCK_POL : Fld := ⟨0x170000 + 0x700, 1, 1⟩
def TSY_GENLOCK_PERIOD_NS : Fld := ⟨0x170000 + 0x704, 0, 32⟩
def TSY_GENLOCK_STATUS_PRESENT : Fld := ⟨0x170000 + 0x708, 0, 1⟩
def TSY_GENLOCK_LAST_NS_NS : Fld := ⟨0x170000 + 0x70c, 0, 30⟩
def TSY_GLITCHES_COUNT : Fld := ⟨0x170000 + 0x710, 0, 32⟩
def TSY_GL_MULT_MULT : Fld := ⟨0x170000 + 0x714, 0, 16⟩
def TSY_SYNC_EDGES_COUNT : Fld := ⟨0x170000 + 0x720, 0, 32⟩
def TSY_CLKOUT_EN : Fld := ⟨0x170000 + 0x740, 0, 8⟩
def TSY_INT_STATUS_CAUSE : Fld := ⟨0x170000 + 0x780, 0, 9⟩
def TSY_INT_EN_EN : Fld := ⟨0x170000 + 0x784, 0, 9⟩
def PWR_STATUS_PWR_FAIL : Fld := ⟨0x190000, 0, 1⟩
def PWR_STATUS_COMMIT_BUSY : Fld := ⟨0x190000, 1, 1⟩
def PWR_STATUS_THERM_WARN : Fld := ⟨0x190000, 2, 1⟩
def PWR_STATUS_FALLBACK : Fld := ⟨0x190000, 3, 1⟩
def PWR_STATUS_RUNNING_SLOT : Fld := ⟨0x190000, 4, 1⟩
def PWR_BOOT_STATUS_STAGE : Fld := ⟨0x190000 + 0x4, 0, 3⟩
def PWR_BOOT_STATUS_BOOT_MS : Fld := ⟨0x190000 + 0x4, 16, 16⟩
def PWR_STRAPS_VALUE : Fld := ⟨0x190000 + 0x8, 0, 2⟩
def PWR_SVN_MIN_SVN : Fld := ⟨0x190000 + 0xc, 0, 32⟩
def PWR_RESET_CTRL_MAIN : Fld := ⟨0x190000 + 0x10, 0, 1⟩
def PWR_HOLDUP_C_MF : Fld := ⟨0x190000 + 0x20, 0, 16⟩
def PWR_HOLDUP_VMIN_MV : Fld := ⟨0x190000 + 0x24, 0, 16⟩
def PWR_HOLDUP_RATIO_RATIO : Fld := ⟨0x190000 + 0x28, 0, 16⟩
def PWR_HOLDUP_MARGIN_MARGIN : Fld := ⟨0x190000 + 0x2c, 0, 7⟩
def PWR_HOLDUP_P_W : Fld := ⟨0x190000 + 0x30, 0, 10⟩
def PWR_HOLDUP_ADC_CODE : Fld := ⟨0x190000 + 0x34, 0, 12⟩
def PWR_HOLDUP_MV_MV : Fld := ⟨0x190000 + 0x38, 0, 16⟩
def PWR_HOLDUP_MJ_MJ : Fld := ⟨0x190000 + 0x3c, 0, 32⟩
def PWR_LAST_COMMIT_CLASS : Fld := ⟨0x190000 + 0x40, 0, 3⟩
def PWR_LAST_COMMIT_DEFERRED : Fld := ⟨0x190000 + 0x40, 8, 1⟩
def PWR_COMMITS_COUNT : Fld := ⟨0x190000 + 0x44, 0, 32⟩
def PWR_DEFERRED_COUNT : Fld := ⟨0x190000 + 0x48, 0, 32⟩
def PWR_TEMP_QC : Fld := ⟨0x190000 + 0x60, 0, 11⟩
def PWR_TEMP_MAX_QC : Fld := ⟨0x190000 + 0x64, 0, 11⟩
def PWR_THERM_WARN : Fld := ⟨0x190000 + 0x68, 0, 11⟩
def PWR_INT_STATUS_POWER : Fld := ⟨0x190000 + 0x80, 0, 4⟩
def PWR_INT_STATUS_THERMAL : Fld := ⟨0x190000 + 0x80, 8, 2⟩
def PWR_INT_EN_EN : Fld := ⟨0x190000 + 0x84, 0, 10⟩
def EVT_CTRL_AER_CORR : Fld := ⟨0x180000, 0, 1⟩
def EVT_CTRL_AER_UNC : Fld := ⟨0x180000, 1, 1⟩
def EVT_CTRL_PERSIST : Fld := ⟨0x180000, 4, 4⟩
def EVT_WR_SEQ_SEQ : Fld := ⟨0x180000 + 0x4, 0, 32⟩
def EVT_RD_SEQ_SEQ : Fld := ⟨0x180000 + 0x8, 0, 32⟩
def EVT_PENDING_COUNT : Fld := ⟨0x180000 + 0xc, 0, 13⟩
def EVT_DROPPED_COUNT (i : Nat) : Fld := ⟨0x180000 + 0x10 + i * 4, 0, 32⟩
def EVT_COALESCED_COUNT : Fld := ⟨0x180000 + 0x20, 0, 32⟩
def EVT_PERSIST_LOST_COUNT : Fld := ⟨0x180000 + 0x24, 0, 32⟩
def EVT_INT_STATUS_NEW : Fld := ⟨0x180000 + 0x40, 0, 1⟩
def EVT_INT_STATUS_ERR : Fld := ⟨0x180000 + 0x40, 8, 3⟩
def EVT_INT_EN_EN : Fld := ⟨0x180000 + 0x44, 0, 11⟩
def EVT_FEC_CLR_CLASS : Fld := ⟨0x180000 + 0x48, 0, 4⟩
def EVT_FEC_CODE_CODE (i : Nat) : Fld := ⟨0x180000 + 0x100 + i * 0x20, 0, 16⟩
def EVT_FEC_CODE_SOURCE (i : Nat) : Fld := ⟨0x180000 + 0x100 + i * 0x20, 16, 16⟩
def EVT_FEC_SEC_LO_SEC (i : Nat) : Fld := ⟨0x180000 + 0x104 + i * 0x20, 0, 32⟩
def EVT_FEC_SEC_HI_SEC (i : Nat) : Fld := ⟨0x180000 + 0x108 + i * 0x20, 0, 16⟩
def EVT_FEC_NS_NS (i : Nat) : Fld := ⟨0x180000 + 0x10c + i * 0x20, 0, 30⟩
def EVT_FEC_DET_LO_DETAIL (i : Nat) : Fld := ⟨0x180000 + 0x110 + i * 0x20, 0, 32⟩
def EVT_FEC_DET_HI_DETAIL (i : Nat) : Fld := ⟨0x180000 + 0x114 + i * 0x20, 0, 32⟩
def EVT_FEC_VALID_VALID (i : Nat) : Fld := ⟨0x180000 + 0x118 + i * 0x20, 0, 1⟩
def EVT_FEC_VALID_MORE (i : Nat) : Fld := ⟨0x180000 + 0x118 + i * 0x20, 1, 1⟩
def GLB_DEVICE_ID_ID : Fld := ⟨0x0, 0, 32⟩
def GLB_FW_VERSION_VERSION : Fld := ⟨0x0 + 0x8, 0, 32⟩
def GLB_SCRATCH_VALUE : Fld := ⟨0x0 + 0x50, 0, 32⟩

/-- Access types of R13. -/
inductive Acc where
  | ro | rw | wo | w1c | rc | wm | kg
deriving DecidableEq, Repr

/-- One field of a register table: position, width, access type, reset value. -/
structure FldRow where
  lsb : Nat
  width : Nat
  acc : Acc
  reset : Nat
deriving DecidableEq, Repr

/-- One register of a page: its offset, how it repeats (count and step of each index), its fields. -/
structure RegRow where
  off : Nat
  dims : List (Nat × Nat)
  fields : List FldRow
deriving DecidableEq, Repr

/-- One page of BAR0 (R712): base, number and step of its instances, registers. -/
structure PageRow where
  base : Nat
  count : Nat
  step : Nat
  regs : List RegRow
deriving DecidableEq, Repr

/-- Registers of the GLB page. -/
def pageGLBRegs : List RegRow := [
  ⟨0x4, [], [⟨0, 3, .ro, 0⟩, ⟨3, 5, .ro, 0⟩, ⟨8, 6, .ro, 0⟩, ⟨14, 5, .ro, 0⟩, ⟨19, 3, .ro, 0⟩]⟩,  -- FEATURES
  ⟨0x10, [], [⟨0, 16, .wo, 0⟩, ⟨16, 4, .ro, 0⟩]⟩,  -- QUOIN
  ⟨0x14, [], [⟨0, 16, .rc, 0⟩]⟩,  -- QUOIN_MISS
  ⟨0x18, [], [⟨0, 16, .rc, 0⟩, ⟨16, 16, .rc, 0⟩]⟩,  -- ACCESS_ERR
  ⟨0x20, [], [⟨20, 12, .rw, 0⟩]⟩,  -- WIN_BASE_LO
  ⟨0x24, [], [⟨0, 16, .rw, 0⟩]⟩,  -- WIN_BASE_HI
  ⟨0x30, [], [⟨0, 1, .ro, 0⟩, ⟨1, 1, .ro, 0⟩, ⟨2, 2, .ro, 0⟩, ⟨16, 16, .ro, 0⟩]⟩,  -- CORE_STATUS
  ⟨0x34, [], [⟨0, 1, .kg, 0⟩, ⟨1, 1, .kg, 0⟩]⟩,  -- CORE_CTRL
  ⟨0x38, [], [⟨0, 16, .kg, 50⟩]⟩,  -- CORE_HB
  ⟨0x58, [], [⟨0, 3, .w1c, 0⟩]⟩,  -- CORE_INT_STATUS
  ⟨0x5c, [], [⟨0, 3, .rw, 0⟩]⟩,  -- CORE_INT_EN
  ⟨0x40, [], [⟨0, 32, .ro, 0⟩]⟩,  -- IRQ_STATUS0
  ⟨0x44, [], [⟨0, 32, .ro, 0⟩]⟩,  -- IRQ_STATUS1
  ⟨0x0, [], [⟨0, 32, .ro, 0⟩]⟩,  -- DEVICE_ID
  ⟨0x8, [], [⟨0, 32, .ro, 0⟩]⟩,  -- FW_VERSION
  ⟨0x50, [], [⟨0, 32, .rw, 0⟩]⟩  -- SCRATCH
  ]
/-- Registers of the MBX page. -/
def pageMBXRegs : List RegRow := [
  ⟨0x0, [], [⟨0, 16, .ro, 0⟩, ⟨16, 4, .ro, 0⟩]⟩,  -- BUSY
  ⟨0x4, [], [⟨0, 16, .w1c, 0⟩, ⟨16, 4, .w1c, 0⟩]⟩,  -- DONE
  ⟨0x8, [], [⟨0, 20, .rw, 1048575⟩]⟩,  -- IRQ_EN
  ⟨0xc, [], [⟨0, 16, .rc, 0⟩]⟩,  -- DB_IGNORED
  ⟨0x10, [], [⟨0, 16, .rc, 0⟩]⟩,  -- REPLAYS
  ⟨0x14, [], [⟨0, 16, .rc, 0⟩]⟩  -- RING_LATE
  ]
/-- Registers of the HEAD page. -/
def pageHEADRegsA : List RegRow := [
  ⟨0x400, [], [⟨0, 5, .rw, 0⟩]⟩,  -- FORME_CTRL
  ⟨0x404, [], [⟨0, 16, .rw, 0⟩, ⟨16, 16, .rw, 0⟩]⟩,  -- BG_LO
  ⟨0x408, [], [⟨0, 16, .rw, 0⟩]⟩,  -- BG_HI
  ⟨0x40c, [], [⟨0, 32, .ro, 0⟩]⟩,  -- ADMIT_BYTES
  ⟨0x500, [(24, 16)], [⟨0, 6, .rw, 0⟩, ⟨8, 2, .rw, 0⟩, ⟨16, 16, .rw, 65535⟩]⟩,  -- FE_LAYERk
  ⟨0x504, [(24, 16)], [⟨0, 14, .rw, 0⟩, ⟨16, 14, .rw, 0⟩]⟩,  -- FE_POSk
  ⟨0x508, [(24, 16)], [⟨0, 15, .rw, 0⟩, ⟨16, 15, .rw, 0⟩]⟩,  -- FE_SIZEk
  ⟨0x410, [], [⟨0, 1, .rw, 0⟩, ⟨1, 1, .ro, 0⟩]⟩,  -- POST_LUT_CTRL
  ⟨0x4000, [(3, 12288), (2049, 4)], [⟨0, 16, .rw, 0⟩, ⟨16, 16, .rw, 0⟩]⟩,  -- POST_LUT
  ⟨0x0, [], [⟨0, 1, .rw, 0⟩, ⟨1, 1, .rw, 0⟩, ⟨2, 1, .rw, 0⟩, ⟨3, 1, .rw, 0⟩]⟩,  -- CTRL
  ⟨0x4, [], [⟨0, 1, .ro, 0⟩, ⟨1, 1, .ro, 0⟩, ⟨2, 1, .ro, 0⟩, ⟨3, 1, .w1c, 0⟩, ⟨4, 1, .ro, 0⟩, ⟨5, 1, .ro, 0⟩, ⟨6, 1, .ro, 0⟩, ⟨7, 1, .ro, 0⟩, ⟨8, 1, .w1c, 0⟩, ⟨9, 1, .ro, 0⟩, ⟨10, 1, .w1c, 0⟩, ⟨11, 1, .w1c, 0⟩]⟩,  -- STATUS
  ⟨0x8, [], [⟨0, 1, .wo, 0⟩, ⟨4, 4, .wo, 0⟩]⟩,  -- COMMIT
  ⟨0x10, [], [⟨0, 15, .rw, 1920⟩, ⟨16, 15, .rw, 2200⟩]⟩,  -- TIMING_H
  ⟨0x14, [], [⟨0, 15, .rw, 1080⟩, ⟨16, 15, .rw, 1125⟩]⟩,  -- TIMING_V
  ⟨0x18, [], [⟨0, 7, .rw, 8⟩, ⟨16, 15, .rw, 0⟩]⟩,  -- LEAD
  ⟨0x1c, [], [⟨0, 32, .rw, 60⟩]⟩,  -- RATE_NUM
  ⟨0x20, [], [⟨0, 32, .rw, 1⟩]⟩,  -- RATE_DEN
  ⟨0x28, [], [⟨0, 2, .rw, 0⟩, ⟨2, 1, .rw, 1⟩, ⟨8, 8, .rw, 0⟩, ⟨16, 16, .rw, 100⟩]⟩,  -- ALIGN
  ⟨0x2c, [], [⟨0, 32, .rw, 0⟩]⟩,  -- ALIGN_OFFSET
  ⟨0x30, [], [⟨0, 32, .rw, 0⟩]⟩,  -- T0_SEC_LO
  ⟨0x34, [], [⟨0, 16, .rw, 0⟩]⟩,  -- T0_SEC_HI
  ⟨0x38, [], [⟨0, 30, .rw, 0⟩]⟩,  -- T0_NS
  ⟨0x3c, [], [⟨0, 32, .rw, 0⟩]⟩,  -- FRAME0_LO
  ⟨0x40, [], [⟨0, 16, .rw, 0⟩]⟩,  -- FRAME0_HI
  ⟨0x44, [], [⟨0, 16, .rw, 50⟩]⟩,  -- PULL
  ⟨0x48, [], [⟨0, 32, .ro, 0⟩]⟩,  -- ALIGN_ERR
  ⟨0x4c, [], [⟨0, 16, .rw, 500⟩]⟩,  -- RAMP
  ⟨0x50, [], [⟨0, 32, .ro, 0⟩]⟩,  -- FRAME_LO
  ⟨0x54, [], [⟨0, 16, .ro, 0⟩]⟩,  -- FRAME_HI
  ⟨0x58, [], [⟨0, 15, .ro, 0⟩, ⟨16, 14, .ro, 0⟩]⟩  -- POSITION
  ]
/-- Registers of the HEAD page, continued. -/
def pageHEADRegsB : List RegRow := [
  ⟨0x5c, [], [⟨0, 15, .rw, 0⟩]⟩,  -- LINE_MATCH
  ⟨0x60, [], [⟨0, 1, .rw, 0⟩, ⟨1, 1, .rw, 0⟩, ⟨2, 15, .rw, 0⟩, ⟨24, 8, .rw, 1⟩]⟩,  -- FSYNC
  ⟨0x70, [], [⟨0, 16, .ro, 0⟩]⟩,  -- SLACK_LAST
  ⟨0x74, [], [⟨0, 16, .ro, 0⟩, ⟨16, 15, .ro, 0⟩]⟩,  -- SLACK_FRAME
  ⟨0x78, [], [⟨0, 16, .ro, 65535⟩]⟩,  -- SLACK_MIN
  ⟨0x7c, [], [⟨0, 24, .ro, 0⟩]⟩,  -- STAGE_FRAME
  ⟨0x80, [], [⟨0, 16, .rw, 0⟩]⟩,  -- SLACK_THRESH
  ⟨0x84, [], [⟨0, 32, .ro, 0⟩]⟩,  -- BYTES_FRAME
  ⟨0x88, [], [⟨0, 32, .ro, 0⟩]⟩,  -- BYTES_PEAK
  ⟨0x8c, [], [⟨0, 1, .wo, 0⟩]⟩,  -- STATS_CLR
  ⟨0x90, [], [⟨0, 32, .rc, 0⟩]⟩,  -- UNDERRUN_LINES
  ⟨0x94, [], [⟨0, 32, .rc, 0⟩]⟩,  -- UNDERRUN_PX
  ⟨0x98, [], [⟨0, 16, .rc, 0⟩]⟩,  -- COMMIT_LATE_CNT
  ⟨0xa0, [], [⟨0, 5, .w1c, 0⟩, ⟨8, 5, .w1c, 0⟩]⟩,  -- INT_STATUS
  ⟨0xa4, [], [⟨0, 13, .rw, 0⟩]⟩,  -- INT_EN
  ⟨0xb0, [], [⟨0, 8, .rw, 0⟩, ⟨8, 1, .rw, 0⟩, ⟨10, 2, .rw, 0⟩]⟩,  -- WB_CTRL
  ⟨0xb4, [], [⟨6, 26, .rw, 0⟩]⟩,  -- WB_BASE_LO
  ⟨0xb8, [], [⟨0, 16, .rw, 0⟩]⟩,  -- WB_BASE_HI
  ⟨0xbc, [], [⟨6, 14, .rw, 0⟩]⟩,  -- WB_PITCH
  ⟨0xc0, [], [⟨6, 26, .rw, 0⟩]⟩,  -- WB_STRIDE
  ⟨0xc4, [], [⟨0, 2, .ro, 0⟩, ⟨2, 1, .ro, 0⟩, ⟨3, 1, .w1c, 0⟩, ⟨4, 1, .ro, 0⟩, ⟨16, 16, .ro, 0⟩]⟩,  -- WB_STATUS
  ⟨0xc8, [], [⟨0, 32, .rc, 0⟩]⟩,  -- WB_DROPPED
  ⟨0x100, [], [⟨6, 26, .rw, 0⟩]⟩,  -- CAB_MAP_LO
  ⟨0x104, [], [⟨0, 16, .rw, 0⟩]⟩,  -- CAB_MAP_HI
  ⟨0x108, [], [⟨0, 13, .rw, 0⟩]⟩,  -- CAB_COUNT
  ⟨0x10c, [], [⟨0, 5, .rw, 16⟩, ⟨8, 1, .rw, 1⟩]⟩,  -- OUT_CTRL
  ⟨0x110, [], [⟨0, 1, .w1c, 0⟩, ⟨1, 1, .w1c, 0⟩, ⟨16, 13, .ro, 0⟩]⟩,  -- CAB_STATUS
  ⟨0x114, [], [⟨0, 32, .rc, 0⟩]⟩,  -- CAL_POISON
  ⟨0x118, [], [⟨0, 32, .rc, 0⟩]⟩,  -- MAP_POISON
  ⟨0x11c, [], [⟨0, 32, .ro, 0⟩]⟩  -- DEAD_LAMPS
  ]
/-- Registers of the HEAD page, continued. -/
def pageHEADRegsC : List RegRow := [
  ⟨0x120, [], [⟨0, 32, .ro, 0⟩]⟩  -- SLUGS_FRAME
  ]
/-- Registers of the HEAD page, all. -/
def pageHEADRegs : List RegRow := pageHEADRegsA ++ pageHEADRegsB ++ pageHEADRegsC
/-- Registers of the VL page. -/
def pageVLRegsA : List RegRow := [
  ⟨0x0, [], [⟨0, 8, .rw, 1⟩, ⟨8, 2, .rw, 0⟩, ⟨10, 1, .rw, 0⟩, ⟨11, 1, .rw, 0⟩, ⟨12, 2, .rw, 0⟩, ⟨14, 6, .rw, 0⟩, ⟨20, 8, .rw, 0⟩]⟩,  -- CTRL
  ⟨0x4, [], [⟨0, 2, .rw, 0⟩, ⟨2, 1, .rw, 0⟩]⟩,  -- ROUTE
  ⟨0x8, [], [⟨6, 26, .rw, 0⟩]⟩,  -- PLANE0_LO
  ⟨0xc, [], [⟨0, 16, .rw, 0⟩]⟩,  -- PLANE0_HI
  ⟨0x10, [], [⟨6, 26, .rw, 0⟩]⟩,  -- PLANE1_LO
  ⟨0x14, [], [⟨0, 16, .rw, 0⟩]⟩,  -- PLANE1_HI
  ⟨0x18, [], [⟨6, 14, .rw, 0⟩]⟩,  -- PITCH0
  ⟨0x1c, [], [⟨6, 14, .rw, 0⟩]⟩,  -- PITCH1
  ⟨0x20, [], [⟨0, 15, .rw, 0⟩, ⟨16, 15, .rw, 0⟩]⟩,  -- SRC_SIZE
  ⟨0x24, [], [⟨0, 15, .rw, 0⟩, ⟨16, 15, .rw, 0⟩]⟩,  -- CROP_POS
  ⟨0x28, [], [⟨0, 15, .rw, 0⟩, ⟨16, 15, .rw, 0⟩]⟩,  -- CROP_SIZE
  ⟨0x30, [], [⟨0, 16, .rw, 0⟩, ⟨16, 16, .rw, 0⟩]⟩,  -- POISON_LO
  ⟨0x34, [], [⟨0, 16, .rw, 0⟩, ⟨16, 16, .rw, 0⟩]⟩,  -- POISON_HI
  ⟨0x38, [], [⟨0, 16, .rw, 0⟩, ⟨16, 16, .rw, 0⟩]⟩,  -- CONST_LO
  ⟨0x3c, [], [⟨0, 16, .rw, 0⟩]⟩,  -- CONST_HI
  ⟨0x40, [], [⟨6, 26, .rw, 0⟩]⟩,  -- GALLEY_LO
  ⟨0x44, [], [⟨0, 16, .rw, 0⟩]⟩,  -- GALLEY_HI
  ⟨0x48, [], [⟨0, 15, .rw, 0⟩]⟩,  -- GALLEY_W
  ⟨0x50, [], [⟨0, 1, .ro, 0⟩, ⟨1, 1, .w1c, 0⟩, ⟨2, 1, .w1c, 0⟩, ⟨3, 1, .w1c, 0⟩, ⟨4, 1, .ro, 0⟩, ⟨5, 1, .ro, 0⟩, ⟨6, 1, .w1c, 0⟩]⟩,  -- STATUS
  ⟨0x54, [], [⟨0, 32, .rc, 0⟩]⟩,  -- NOT_READY
  ⟨0x58, [], [⟨0, 32, .rc, 0⟩]⟩,  -- POISON_PX
  ⟨0x5c, [], [⟨0, 32, .rc, 0⟩]⟩,  -- CULLED_TILES
  ⟨0x100, [], [⟨0, 1, .rw, 0⟩, ⟨1, 1, .rw, 0⟩, ⟨2, 1, .rw, 0⟩]⟩,  -- COLOUR_CTRL
  ⟨0x110, [(9, 4)], [⟨0, 16, .rw, 0⟩]⟩,  -- MTX_Ck
  ⟨0x140, [(3, 4)], [⟨0, 17, .rw, 0⟩]⟩,  -- MTX_OFFk
  ⟨0x180, [], [⟨0, 2, .rw, 0⟩, ⟨2, 2, .rw, 0⟩]⟩,  -- SCALE_CTRL
  ⟨0x184, [], [⟨0, 24, .rw, 0⟩]⟩,  -- H_INIT
  ⟨0x188, [], [⟨0, 24, .rw, 0⟩]⟩,  -- V_INIT
  ⟨0x190, [], [⟨0, 23, .ro, 0⟩]⟩,  -- H_STEP
  ⟨0x194, [], [⟨0, 23, .ro, 0⟩]⟩  -- V_STEP
  ]
/-- Registers of the VL page, continued. -/
def pageVLRegsB : List RegRow := [
  ⟨0x198, [], [⟨0, 1, .ro, 0⟩, ⟨1, 1, .ro, 0⟩, ⟨2, 1, .ro, 0⟩, ⟨16, 15, .ro, 0⟩]⟩,  -- SCALE_STATUS
  ⟨0x1000, [(64, 16), (4, 4)], [⟨0, 12, .rw, 0⟩, ⟨16, 12, .rw, 0⟩]⟩,  -- HCOEF
  ⟨0x1400, [(64, 16), (3, 4)], [⟨0, 12, .rw, 0⟩, ⟨16, 12, .rw, 0⟩]⟩,  -- VCOEF
  ⟨0x60, [], [⟨0, 1, .rw, 0⟩]⟩,  -- KEY_CTRL
  ⟨0x64, [], [⟨0, 16, .rw, 0⟩, ⟨16, 16, .rw, 0⟩]⟩,  -- KEY_R
  ⟨0x68, [], [⟨0, 16, .rw, 0⟩, ⟨16, 16, .rw, 0⟩]⟩,  -- KEY_G
  ⟨0x6c, [], [⟨0, 16, .rw, 0⟩, ⟨16, 16, .rw, 0⟩]⟩,  -- KEY_B
  ⟨0x70, [], [⟨0, 32, .rc, 0⟩]⟩,  -- KEY_PX
  ⟨0x1a0, [], [⟨0, 1, .rw, 0⟩, ⟨1, 1, .ro, 0⟩]⟩,  -- LUT_CTRL
  ⟨0x2000, [(3, 2560), (513, 4)], [⟨0, 16, .rw, 0⟩, ⟨16, 16, .rw, 0⟩]⟩  -- PRE_LUT
  ]
/-- Registers of the VL page, all. -/
def pageVLRegs : List RegRow := pageVLRegsA ++ pageVLRegsB
/-- Registers of the GL page. -/
def pageGLRegs : List RegRow := [
  ⟨0x0, [], [⟨0, 8, .rw, 1⟩, ⟨8, 2, .rw, 0⟩, ⟨10, 1, .rw, 0⟩, ⟨11, 1, .rw, 0⟩, ⟨12, 2, .rw, 0⟩, ⟨14, 6, .rw, 0⟩, ⟨20, 8, .rw, 0⟩]⟩,  -- CTRL
  ⟨0x4, [], [⟨0, 2, .rw, 0⟩, ⟨2, 1, .rw, 0⟩]⟩,  -- ROUTE
  ⟨0x8, [], [⟨6, 26, .rw, 0⟩]⟩,  -- PLANE0_LO
  ⟨0xc, [], [⟨0, 16, .rw, 0⟩]⟩,  -- PLANE0_HI
  ⟨0x10, [], [⟨6, 26, .rw, 0⟩]⟩,  -- PLANE1_LO
  ⟨0x14, [], [⟨0, 16, .rw, 0⟩]⟩,  -- PLANE1_HI
  ⟨0x18, [], [⟨6, 14, .rw, 0⟩]⟩,  -- PITCH0
  ⟨0x1c, [], [⟨6, 14, .rw, 0⟩]⟩,  -- PITCH1
  ⟨0x20, [], [⟨0, 15, .rw, 0⟩, ⟨16, 15, .rw, 0⟩]⟩,  -- SRC_SIZE
  ⟨0x24, [], [⟨0, 15, .rw, 0⟩, ⟨16, 15, .rw, 0⟩]⟩,  -- CROP_POS
  ⟨0x28, [], [⟨0, 15, .rw, 0⟩, ⟨16, 15, .rw, 0⟩]⟩,  -- CROP_SIZE
  ⟨0x30, [], [⟨0, 16, .rw, 0⟩, ⟨16, 16, .rw, 0⟩]⟩,  -- POISON_LO
  ⟨0x34, [], [⟨0, 16, .rw, 0⟩, ⟨16, 16, .rw, 0⟩]⟩,  -- POISON_HI
  ⟨0x38, [], [⟨0, 16, .rw, 0⟩, ⟨16, 16, .rw, 0⟩]⟩,  -- CONST_LO
  ⟨0x3c, [], [⟨0, 16, .rw, 0⟩]⟩,  -- CONST_HI
  ⟨0x50, [], [⟨0, 1, .ro, 0⟩, ⟨1, 1, .w1c, 0⟩, ⟨2, 1, .w1c, 0⟩, ⟨3, 1, .w1c, 0⟩, ⟨4, 1, .ro, 0⟩, ⟨5, 1, .ro, 0⟩, ⟨6, 1, .w1c, 0⟩]⟩,  -- STATUS
  ⟨0x54, [], [⟨0, 32, .rc, 0⟩]⟩,  -- NOT_READY
  ⟨0x58, [], [⟨0, 32, .rc, 0⟩]⟩,  -- POISON_PX
  ⟨0x5c, [], [⟨0, 32, .rc, 0⟩]⟩,  -- CULLED_TILES
  ⟨0x60, [], [⟨0, 1, .rw, 0⟩]⟩,  -- KEY_CTRL
  ⟨0x64, [], [⟨0, 16, .rw, 0⟩, ⟨16, 16, .rw, 0⟩]⟩,  -- KEY_R
  ⟨0x68, [], [⟨0, 16, .rw, 0⟩, ⟨16, 16, .rw, 0⟩]⟩,  -- KEY_G
  ⟨0x6c, [], [⟨0, 16, .rw, 0⟩, ⟨16, 16, .rw, 0⟩]⟩,  -- KEY_B
  ⟨0x70, [], [⟨0, 32, .rc, 0⟩]⟩  -- KEY_PX
  ]
/-- Registers of the DSM page. -/
def pageDSMRegs : List RegRow := [
  ⟨0x0, [], [⟨0, 1, .ro, 0⟩, ⟨1, 1, .ro, 0⟩, ⟨2, 1, .ro, 0⟩, ⟨3, 1, .ro, 0⟩, ⟨4, 1, .ro, 0⟩, ⟨5, 1, .ro, 0⟩]⟩,  -- STATUS
  ⟨0x4, [], [⟨0, 1, .kg, 0⟩, ⟨16, 7, .ro, 0⟩, ⟨24, 4, .ro, 0⟩]⟩,  -- SELFTEST
  ⟨0x8, [], [⟨0, 16, .rw, 1000⟩]⟩,  -- SEAL_CTRL
  ⟨0xc, [], [⟨0, 8, .rw, 16⟩]⟩,  -- RECUR_CTRL
  ⟨0x10, [], [⟨0, 32, .rc, 0⟩]⟩,  -- CE_LINES
  ⟨0x14, [], [⟨0, 32, .rc, 0⟩]⟩,  -- UE_LINES
  ⟨0x18, [], [⟨0, 32, .rc, 0⟩]⟩,  -- REBUILT
  ⟨0x1c, [], [⟨0, 32, .rc, 0⟩]⟩,  -- SEAL_FAIL
  ⟨0x20, [], [⟨0, 32, .rc, 0⟩]⟩,  -- PERM_ERR
  ⟨0x24, [], [⟨0, 32, .rc, 0⟩]⟩,  -- POISON_RD
  ⟨0x28, [], [⟨0, 15, .ro, 0⟩]⟩,  -- DIRTY_PAGES
  ⟨0x2c, [], [⟨0, 16, .rc, 0⟩]⟩,  -- REGION_MISS
  ⟨0x30, [], [⟨0, 32, .rc, 0⟩]⟩,  -- RECUR_FULL
  ⟨0x34, [], [⟨0, 6, .wo, 0⟩, ⟨8, 1, .wo, 0⟩]⟩,  -- RECUR_CLR
  ⟨0x40, [], [⟨0, 7, .w1c, 0⟩]⟩,  -- INT_STATUS
  ⟨0x44, [], [⟨0, 7, .rw, 0⟩]⟩,  -- INT_EN
  ⟨0x50, [], [⟨6, 21, .kg, 0⟩]⟩,  -- INJECT_ADDR
  ⟨0x54, [], [⟨0, 2, .kg, 0⟩, ⟨8, 6, .kg, 0⟩, ⟨16, 3, .kg, 0⟩, ⟨31, 1, .kg, 0⟩]⟩,  -- INJECT_CTRL
  ⟨0x400, [(64, 16)], [⟨16, 11, .rw, 0⟩]⟩,  -- REG_BASEk
  ⟨0x404, [(64, 16)], [⟨0, 12, .rw, 0⟩]⟩,  -- REG_SIZEk
  ⟨0x408, [(64, 16)], [⟨0, 9, .rw, 0⟩, ⟨16, 9, .rw, 0⟩]⟩,  -- REG_PERMk
  ⟨0x40c, [(64, 16)], [⟨0, 1, .rw, 0⟩, ⟨1, 1, .rw, 0⟩, ⟨2, 1, .rw, 0⟩]⟩,  -- REG_CTRLk
  ⟨0x800, [(64, 8)], [⟨6, 21, .ro, 0⟩]⟩,  -- RECUR_ADDRe
  ⟨0x804, [(64, 8)], [⟨0, 8, .ro, 0⟩, ⟨8, 1, .ro, 0⟩, ⟨9, 1, .ro, 0⟩]⟩,  -- RECUR_CNTe
  ⟨0xc00, [(66, 4)], [⟨0, 7, .ro, 0⟩, ⟨8, 4, .ro, 0⟩]⟩,  -- SPARE_USEk
  ⟨0xd00, [], [⟨0, 9, .ro, 0⟩]⟩  -- SOFT_MAP
  ]
/-- Registers of the DMC0 page. -/
def pageDMC0Regs : List RegRow := [
  ⟨0x300, [], [⟨0, 1, .rw, 0⟩, ⟨8, 4, .rw, 8⟩, ⟨16, 1, .rw, 0⟩]⟩,  -- MAP_MODE
  ⟨0x310, [(9, 8)], [⟨0, 32, .rw, 0⟩]⟩,  -- MAP_LOo
  ⟨0x314, [(9, 8)], [⟨0, 8, .rw, 0⟩]⟩,  -- MAP_HIo
  ⟨0x360, [], [⟨0, 1, .wo, 0⟩, ⟨1, 1, .rw, 0⟩]⟩,  -- INIT_CTRL
  ⟨0x364, [], [⟨0, 1, .ro, 0⟩, ⟨1, 1, .ro, 0⟩, ⟨2, 1, .ro, 0⟩, ⟨16, 16, .ro, 0⟩]⟩,  -- INIT_STATUS
  ⟨0x370, [], [⟨0, 4, .rw, 8⟩, ⟨4, 4, .rw, 8⟩, ⟨8, 4, .rw, 8⟩, ⟨12, 4, .rw, 8⟩]⟩,  -- BE_WEIGHT
  ⟨0x374, [], [⟨0, 16, .rw, 8000⟩]⟩,  -- RESILVER
  ⟨0x380, [(9, 8)], [⟨0, 16, .rw, 0⟩]⟩,  -- PANIC_LOWp
  ⟨0x384, [(9, 8)], [⟨0, 16, .rw, 0⟩]⟩,  -- PANIC_HIGHp
  ⟨0x3d0, [], [⟨0, 9, .ro, 0⟩]⟩,  -- PANIC_STATUS
  ⟨0x3d4, [], [⟨0, 32, .rc, 0⟩]⟩  -- PANIC_ENTRIES
  ]
/-- Registers of the DMC page. -/
def pageDMCRegsA : List RegRow := [
  ⟨0x0, [], [⟨0, 1, .rw, 0⟩, ⟨1, 2, .rw, 2⟩, ⟨3, 1, .rw, 1⟩]⟩,  -- CTRL
  ⟨0x4, [], [⟨0, 1, .ro, 0⟩, ⟨1, 1, .ro, 0⟩, ⟨2, 1, .ro, 0⟩, ⟨3, 1, .ro, 0⟩, ⟨4, 1, .ro, 0⟩, ⟨5, 1, .ro, 0⟩]⟩,  -- STATUS
  ⟨0x8, [], [⟨0, 2, .ro, 0⟩, ⟨2, 1, .ro, 0⟩, ⟨4, 3, .ro, 0⟩, ⟨8, 1, .ro, 0⟩]⟩,  -- DIMM
  ⟨0xc, [], [⟨0, 1, .kg, 0⟩]⟩,  -- SLOT_PWR
  ⟨0x10, [], [⟨0, 16, .rw, 100⟩]⟩,  -- SR_IDLE
  ⟨0x14, [], [⟨0, 32, .rc, 0⟩]⟩,  -- SR_ENTRIES
  ⟨0x20, [], [⟨0, 16, .rw, 3900⟩, ⟨16, 16, .rw, 115⟩]⟩,  -- REFRESH
  ⟨0x24, [], [⟨0, 8, .rw, 48⟩]⟩,  -- TRC
  ⟨0x28, [], [⟨0, 32, .rc, 0⟩]⟩,  -- REF_AB
  ⟨0x2c, [], [⟨0, 32, .rc, 0⟩]⟩,  -- REF_POSTPONED
  ⟨0x30, [], [⟨0, 16, .rw, 4096⟩]⟩,  -- HAMMER
  ⟨0x34, [], [⟨0, 32, .rc, 0⟩]⟩,  -- MITIGATIONS
  ⟨0x38, [], [⟨0, 16, .rw, 1024⟩]⟩,  -- BE_HAMMER
  ⟨0x3c, [], [⟨0, 32, .rc, 0⟩]⟩,  -- BE_CUTS
  ⟨0x40, [], [⟨0, 7, .ro, 0⟩, ⟨16, 7, .ro, 0⟩]⟩,  -- QUEUES
  ⟨0x44, [], [⟨0, 32, .rc, 0⟩]⟩,  -- FORWARDED
  ⟨0x48, [], [⟨0, 32, .rc, 0⟩]⟩,  -- MERGES
  ⟨0x4c, [], [⟨0, 32, .rc, 0⟩]⟩,  -- FILL_STALL
  ⟨0x100, [], [⟨0, 32, .rc, 0⟩]⟩,  -- CE_LINES
  ⟨0x104, [], [⟨0, 32, .rc, 0⟩]⟩,  -- UE_LINES
  ⟨0x108, [], [⟨0, 32, .rc, 0⟩]⟩,  -- CA_RETRY
  ⟨0x10c, [], [⟨0, 32, .rc, 0⟩]⟩,  -- CA_FAIL
  ⟨0x110, [], [⟨0, 32, .rc, 0⟩]⟩,  -- POISON_RD
  ⟨0x114, [], [⟨0, 32, .rc, 0⟩]⟩,  -- MIRROR_FIX
  ⟨0x118, [], [⟨0, 32, .rc, 0⟩]⟩,  -- FILL_RD
  ⟨0x11c, [], [⟨0, 16, .rw, 256⟩]⟩,  -- DEV_THRESH
  ⟨0x120, [(20, 4)], [⟨0, 32, .rc, 0⟩]⟩,  -- CE_DEVd
  ⟨0x180, [], [⟨0, 8, .w1c, 0⟩]⟩,  -- INT_STATUS
  ⟨0x184, [], [⟨0, 8, .rw, 0⟩]⟩,  -- INT_EN
  ⟨0x200, [], [⟨0, 1, .wo, 0⟩, ⟨1, 3, .rw, 0⟩, ⟨4, 1, .rw, 0⟩, ⟨5, 1, .rw, 0⟩, ⟨6, 1, .ro, 0⟩, ⟨16, 16, .rw, 1⟩]⟩  -- TRAIN_CTRL
  ]
/-- Registers of the DMC page, continued. -/
def pageDMCRegsB : List RegRow := [
  ⟨0x204, [], [⟨0, 3, .rw, 0⟩, ⟨3, 2, .rw, 0⟩, ⟨5, 17, .rw, 0⟩, ⟨22, 6, .rw, 0⟩]⟩,  -- TRAIN_ADDR
  ⟨0x208, [], [⟨0, 2, .rw, 1⟩]⟩,  -- TRAIN_PAT
  ⟨0x20c, [], [⟨0, 32, .rw, 1515890085⟩]⟩,  -- TRAIN_SEED
  ⟨0x210, [], [⟨0, 32, .rw, 0⟩]⟩,  -- TRAIN_INV_LO
  ⟨0x214, [], [⟨0, 8, .rw, 0⟩]⟩,  -- TRAIN_INV_HI
  ⟨0x218, [], [⟨0, 32, .ro, 0⟩]⟩,  -- TRAIN_PASS_LO
  ⟨0x21c, [], [⟨0, 8, .ro, 0⟩]⟩,  -- TRAIN_PASS_HI
  ⟨0x220, [], [⟨0, 32, .ro, 0⟩]⟩,  -- TRAIN_ERRS
  ⟨0x400, [(80, 4)], [⟨0, 8, .rw, 64⟩, ⟨8, 8, .rw, 64⟩, ⟨16, 8, .rw, 128⟩]⟩  -- LANE_DLYl
  ]
/-- Registers of the DMC page, all. -/
def pageDMCRegs : List RegRow := pageDMCRegsA ++ pageDMCRegsB
/-- Registers of the DMACH page. -/
def pageDMACHRegs : List RegRow := [
  ⟨0x0, [], [⟨0, 1, .rw, 0⟩, ⟨1, 1, .wo, 0⟩, ⟨2, 1, .wo, 0⟩, ⟨4, 2, .rw, 0⟩]⟩,  -- CH_CTRLn
  ⟨0x4, [], [⟨0, 2, .ro, 0⟩, ⟨4, 4, .ro, 0⟩, ⟨8, 1, .w1c, 0⟩]⟩,  -- CH_STATUSn
  ⟨0x8, [], [⟨6, 26, .rw, 0⟩]⟩,  -- RING_LOn
  ⟨0xc, [], [⟨0, 16, .rw, 0⟩]⟩,  -- RING_HIn
  ⟨0x10, [], [⟨0, 13, .rw, 1⟩]⟩,  -- RING_SIZEn
  ⟨0x14, [], [⟨0, 12, .rw, 0⟩]⟩,  -- HEADn
  ⟨0x18, [], [⟨0, 16, .rw, 4096⟩]⟩,  -- BUDGETn
  ⟨0x20, [], [⟨0, 32, .ro, 0⟩]⟩,  -- ERR_ADDR_LOn
  ⟨0x24, [], [⟨0, 16, .ro, 0⟩]⟩,  -- ERR_ADDR_HIn
  ⟨0x28, [], [⟨0, 2, .ro, 0⟩, ⟨2, 1, .ro, 0⟩, ⟨3, 1, .ro, 0⟩, ⟨16, 12, .ro, 0⟩]⟩,  -- ERR_INFOn
  ⟨0x2c, [], [⟨0, 8, .ro, 0⟩]⟩,  -- REQ_PENDn
  ⟨0x30, [], [⟨0, 32, .rc, 0⟩]⟩,  -- DESC_DONEn
  ⟨0x34, [], [⟨0, 32, .ro, 0⟩]⟩,  -- BYTES_LOn
  ⟨0x38, [], [⟨0, 32, .ro, 0⟩]⟩,  -- BYTES_HIn
  ⟨0x3c, [], [⟨0, 5, .w1c, 0⟩]⟩,  -- INT_STATUSn
  ⟨0x40, [], [⟨0, 5, .rw, 0⟩]⟩  -- INT_ENn
  ]
/-- Registers of the DMA page. -/
def pageDMARegs : List RegRow := [
  ⟨0x800, [], [⟨0, 24, .rw, 80000⟩]⟩,  -- RESP_TIMEOUT
  ⟨0x804, [], [⟨0, 15, .wo, 0⟩]⟩,  -- SWREQ
  ⟨0x808, [], [⟨0, 16, .wo, 0⟩]⟩  -- DOORBELL
  ]
/-- Registers of the BLT page. -/
def pageBLTRegs : List RegRow := [
  ⟨0x0, [], [⟨0, 1, .rw, 0⟩, ⟨1, 1, .wo, 0⟩]⟩,  -- CTRL
  ⟨0x4, [], [⟨0, 2, .ro, 0⟩, ⟨4, 4, .ro, 0⟩]⟩,  -- STATUS
  ⟨0x8, [], [⟨6, 26, .rw, 0⟩]⟩,  -- Q_LO
  ⟨0xc, [], [⟨0, 16, .rw, 0⟩]⟩,  -- Q_HI
  ⟨0x10, [], [⟨0, 11, .rw, 1⟩]⟩,  -- Q_SIZE
  ⟨0x14, [], [⟨0, 10, .rw, 0⟩]⟩,  -- Q_HEAD
  ⟨0x18, [], [⟨0, 1, .wo, 0⟩]⟩,  -- DOORBELL
  ⟨0x20, [], [⟨0, 15, .rw, 0⟩]⟩,  -- WATERMARK
  ⟨0x24, [], [⟨0, 15, .ro, 0⟩]⟩,  -- ROWS_DONE
  ⟨0x28, [], [⟨0, 32, .rc, 0⟩]⟩,  -- CMDS_DONE
  ⟨0x30, [], [⟨0, 32, .ro, 0⟩]⟩,  -- ERR_ADDR_LO
  ⟨0x34, [], [⟨0, 16, .ro, 0⟩]⟩,  -- ERR_ADDR_HI
  ⟨0x40, [], [⟨0, 4, .w1c, 0⟩]⟩,  -- INT_STATUS
  ⟨0x44, [], [⟨0, 4, .rw, 0⟩]⟩  -- INT_EN
  ]
/-- Registers of the SP page. -/
def pageSPRegs : List RegRow := [
  ⟨0x0, [], [⟨0, 1, .rw, 0⟩, ⟨1, 1, .rw, 0⟩, ⟨2, 1, .rw, 1⟩]⟩,  -- CTRL
  ⟨0x4, [], [⟨0, 2, .rw, 0⟩]⟩,  -- PAIR
  ⟨0x8, [], [⟨0, 16, .rw, 34997⟩]⟩,  -- ETHERTYPE
  ⟨0xc, [], [⟨0, 32, .rw, 0⟩]⟩,  -- MAC_LO
  ⟨0x10, [], [⟨0, 16, .rw, 0⟩]⟩,  -- MAC_HI
  ⟨0x14, [], [⟨0, 32, .rw, 4294967295⟩]⟩,  -- GROUP_LO
  ⟨0x18, [], [⟨0, 16, .rw, 65535⟩]⟩,  -- GROUP_HI
  ⟨0x1c, [], [⟨0, 24, .rw, 0⟩]⟩,  -- SHOW_DELAY
  ⟨0x20, [], [⟨0, 16, .rw, 50⟩, ⟨16, 8, .rw, 2⟩]⟩,  -- LOOP
  ⟨0x30, [], [⟨0, 1, .ro, 0⟩, ⟨1, 1, .ro, 0⟩, ⟨2, 1, .ro, 0⟩, ⟨3, 1, .ro, 0⟩, ⟨4, 1, .ro, 0⟩]⟩,  -- STATUS
  ⟨0x34, [], [⟨0, 7, .w1c, 0⟩]⟩,  -- INT_STATUS
  ⟨0x38, [], [⟨0, 7, .rw, 0⟩]⟩,  -- INT_EN
  ⟨0x40, [], [⟨0, 32, .rc, 0⟩]⟩,  -- SLUGS_TX
  ⟨0x44, [], [⟨0, 32, .rc, 0⟩]⟩,  -- CTRL_TX
  ⟨0x48, [], [⟨0, 32, .rc, 0⟩]⟩,  -- TX_DISCARDED
  ⟨0x4c, [], [⟨0, 32, .rc, 0⟩]⟩,  -- SLUG_POISON
  ⟨0x50, [], [⟨0, 32, .rc, 0⟩]⟩,  -- RX_STATUS
  ⟨0x54, [], [⟨0, 32, .rc, 0⟩]⟩,  -- RX_DROPPED
  ⟨0x58, [], [⟨0, 32, .rc, 0⟩]⟩,  -- RX_OVERFLOW
  ⟨0x5c, [], [⟨0, 32, .rc, 0⟩]⟩,  -- LOOP_RX
  ⟨0x60, [], [⟨0, 32, .rc, 0⟩]⟩,  -- LOOP_MISS
  ⟨0x64, [], [⟨0, 16, .rc, 0⟩]⟩,  -- FAILOVERS
  ⟨0x68, [], [⟨0, 32, .rc, 0⟩]⟩,  -- FCS_ERR
  ⟨0x70, [], [⟨0, 32, .ro, 0⟩]⟩,  -- DROP_BYTES_LO
  ⟨0x74, [], [⟨0, 32, .ro, 0⟩]⟩  -- DROP_BYTES_HI
  ]
/-- Registers of the INGP page. -/
def pageINGPRegs : List RegRow := [
  ⟨0x0, [], [⟨0, 1, .rw, 0⟩, ⟨1, 1, .rw, 0⟩, ⟨2, 1, .rw, 0⟩, ⟨8, 8, .rw, 127⟩]⟩,  -- PORT_CTRLp
  ⟨0x4, [], [⟨0, 32, .rw, 0⟩]⟩,  -- PORT_IPp
  ⟨0x8, [], [⟨0, 32, .rw, 0⟩]⟩,  -- PORT_MAC_LOp
  ⟨0xc, [], [⟨0, 16, .rw, 0⟩]⟩,  -- PORT_MAC_HIp
  ⟨0x10, [], [⟨0, 1, .ro, 0⟩, ⟨1, 1, .ro, 0⟩, ⟨2, 1, .ro, 0⟩]⟩,  -- PORT_STATUSp
  ⟨0x20, [], [⟨0, 32, .rc, 0⟩]⟩,  -- RX_FRAMESp
  ⟨0x24, [], [⟨0, 32, .rc, 0⟩]⟩,  -- FCS_ERRp
  ⟨0x28, [], [⟨0, 32, .rc, 0⟩]⟩,  -- UNMATCHEDp
  ⟨0x2c, [], [⟨0, 32, .rc, 0⟩]⟩,  -- RX_OVERFLOWp
  ⟨0x30, [], [⟨0, 32, .rc, 0⟩]⟩  -- PTP_RXp
  ]
/-- Registers of the ING page. -/
def pageINGRegs : List RegRow := [
  ⟨0x400, [], [⟨0, 2, .ro, 0⟩, ⟨4, 2, .ro, 0⟩]⟩,  -- PTP_STATUS
  ⟨0x404, [], [⟨0, 32, .ro, 0⟩]⟩,  -- PTP_OFFSET
  ⟨0x408, [], [⟨0, 32, .ro, 0⟩]⟩,  -- PTP_DELAY
  ⟨0x40c, [], [⟨0, 32, .ro, 0⟩]⟩,  -- PTP_GM_LO
  ⟨0x410, [], [⟨0, 32, .ro, 0⟩]⟩,  -- PTP_GM_HI
  ⟨0x500, [], [⟨0, 4, .w1c, 0⟩, ⟨8, 2, .w1c, 0⟩]⟩,  -- INT_STATUS
  ⟨0x504, [], [⟨0, 10, .rw, 0⟩]⟩,  -- INT_EN
  ⟨0x508, [], [⟨0, 6, .ro, 0⟩]⟩  -- EVT_STREAM
  ]
/-- Registers of the INGS page. -/
def pageINGSRegsA : List RegRow := [
  ⟨0x0, [], [⟨0, 7, .rw, 0⟩, ⟨8, 2, .rw, 0⟩, ⟨10, 2, .rw, 0⟩, ⟨16, 7, .rw, 96⟩]⟩,  -- S_CTRL
  ⟨0x4, [], [⟨0, 32, .rw, 0⟩]⟩,  -- S_DST_IP
  ⟨0x8, [], [⟨0, 32, .rw, 0⟩]⟩,  -- S_SRC_IP
  ⟨0xc, [], [⟨0, 32, .rw, 0⟩]⟩,  -- S_DST_IP2
  ⟨0x10, [], [⟨0, 32, .rw, 0⟩]⟩,  -- S_SRC_IP2
  ⟨0x14, [], [⟨0, 16, .rw, 0⟩, ⟨16, 16, .rw, 0⟩]⟩,  -- S_UDP
  ⟨0x18, [], [⟨0, 12, .rw, 0⟩]⟩,  -- S_RING
  ⟨0x1c, [], [⟨0, 14, .rw, 0⟩, ⟨16, 15, .rw, 0⟩]⟩,  -- S_GEOM
  ⟨0x20, [], [⟨0, 2, .rw, 0⟩, ⟨4, 2, .rw, 1⟩, ⟨8, 8, .ro, 17⟩, ⟨16, 16, .ro, 0⟩]⟩,  -- S_FMT
  ⟨0x24, [], [⟨0, 32, .rw, 60⟩]⟩,  -- S_RATE_NUM
  ⟨0x28, [], [⟨0, 32, .rw, 1⟩]⟩,  -- S_RATE_DEN
  ⟨0x2c, [], [⟨6, 26, .rw, 0⟩]⟩,  -- S_FS_LO
  ⟨0x30, [], [⟨0, 16, .rw, 0⟩]⟩,  -- S_FS_HI
  ⟨0x34, [], [⟨6, 26, .rw, 0⟩]⟩,  -- S_FS_STRIDE
  ⟨0x38, [], [⟨0, 3, .rw, 3⟩, ⟨16, 11, .rw, 16⟩]⟩,  -- S_BUF
  ⟨0x3c, [], [⟨6, 26, .rw, 0⟩]⟩,  -- S_LR_LO
  ⟨0x40, [], [⟨0, 16, .rw, 0⟩]⟩,  -- S_LR_HI
  ⟨0x44, [], [⟨0, 20, .rw, 0⟩]⟩,  -- S_POLICE
  ⟨0x48, [], [⟨0, 16, .rw, 16⟩]⟩,  -- S_BURST
  ⟨0x4c, [], [⟨0, 16, .rw, 100⟩]⟩,  -- S_LOSS
  ⟨0x50, [], [⟨0, 1, .ro, 0⟩, ⟨1, 1, .ro, 0⟩, ⟨2, 1, .ro, 0⟩, ⟨3, 1, .w1c, 0⟩, ⟨8, 3, .ro, 0⟩]⟩,  -- S_STATUS
  ⟨0x54, [], [⟨0, 32, .ro, 0⟩]⟩,  -- S_RTP
  ⟨0x58, [], [⟨0, 32, .ro, 0⟩]⟩,  -- S_ARRIVAL
  ⟨0x5c, [], [⟨0, 32, .rc, 0⟩]⟩,  -- S_ARRIVAL_MAX
  ⟨0x80, [], [⟨0, 32, .rc, 0⟩]⟩,  -- PKTS
  ⟨0x84, [], [⟨0, 32, .rc, 0⟩]⟩,  -- SEQ_LOST
  ⟨0x88, [], [⟨0, 32, .rc, 0⟩]⟩,  -- DUPLICATES
  ⟨0x8c, [], [⟨0, 32, .rc, 0⟩]⟩,  -- LATE_PKTS
  ⟨0x90, [], [⟨0, 32, .rc, 0⟩]⟩,  -- POLICED
  ⟨0x94, [], [⟨0, 32, .rc, 0⟩]⟩  -- FORMAT_ERR
  ]
/-- Registers of the INGS page, continued. -/
def pageINGSRegsB : List RegRow := [
  ⟨0x98, [], [⟨0, 32, .rc, 0⟩]⟩,  -- FRAMES
  ⟨0x9c, [], [⟨0, 32, .rc, 0⟩]⟩,  -- FRAMES_DAMAGED
  ⟨0xa0, [], [⟨0, 32, .rc, 0⟩]⟩,  -- FRAMES_SKIPPED
  ⟨0xa4, [], [⟨0, 32, .rc, 0⟩]⟩,  -- FRAMES_DISCARDED
  ⟨0xa8, [], [⟨0, 32, .rc, 0⟩]⟩,  -- LATE_LINES
  ⟨0xac, [], [⟨0, 32, .rc, 0⟩]⟩  -- RING_LAP
  ]
/-- Registers of the INGS page, all. -/
def pageINGSRegs : List RegRow := pageINGSRegsA ++ pageINGSRegsB
/-- Registers of the HLYP page. -/
def pageHLYPRegs : List RegRow := [
  ⟨0x0, [], [⟨0, 32, .rc, 0⟩]⟩,  -- RX_FRAMES
  ⟨0x4, [], [⟨0, 32, .rc, 0⟩]⟩,  -- RX_CRC_ERR
  ⟨0x8, [], [⟨0, 32, .rc, 0⟩]⟩,  -- RX_STOMPED
  ⟨0xc, [], [⟨0, 32, .rc, 0⟩]⟩,  -- TX_FRAMES
  ⟨0x10, [], [⟨0, 32, .rc, 0⟩]⟩,  -- TX_POISON
  ⟨0x14, [], [⟨0, 32, .rc, 0⟩]⟩,  -- STRIPPED_OWN
  ⟨0x18, [], [⟨0, 32, .rc, 0⟩]⟩,  -- STRIPPED_STALE
  ⟨0x1c, [], [⟨0, 32, .rc, 0⟩]⟩,  -- UNDELIVERED
  ⟨0x20, [], [⟨0, 32, .rc, 0⟩]⟩,  -- LOCK_LOSS
  ⟨0x24, [], [⟨0, 32, .rc, 0⟩]⟩,  -- WRAP_DISCARD
  ⟨0x28, [], [⟨0, 32, .rc, 0⟩]⟩,  -- FEC_CORR
  ⟨0x2c, [], [⟨0, 32, .rc, 0⟩]⟩,  -- FEC_UNCORR
  ⟨0x30, [], [⟨0, 32, .rc, 0⟩]⟩,  -- RX_OVERFLOW
  ⟨0x34, [], [⟨0, 32, .rc, 0⟩]⟩,  -- WIN_BOUND
  ⟨0x38, [], [⟨0, 32, .rc, 0⟩]⟩  -- RX_DROPPED_TYPE
  ]
/-- Registers of the HLYQ page. -/
def pageHLYQRegs : List RegRow := [
  ⟨0x0, [], [⟨0, 8, .rw, 1⟩, ⟨8, 8, .rw, 1⟩, ⟨16, 8, .rw, 1⟩, ⟨24, 8, .rw, 1⟩]⟩,  -- WEIGHT
  ⟨0x4, [], [⟨0, 8, .rw, 1⟩]⟩,  -- WEIGHT4
  ⟨0x40, [(7, 8)], [⟨0, 20, .rw, 0⟩]⟩,  -- SHAPE_RATEq
  ⟨0x44, [(7, 8)], [⟨0, 16, .rw, 33⟩]⟩,  -- SHAPE_BURSTq
  ⟨0x80, [(8, 4)], [⟨0, 24, .ro, 0⟩]⟩,  -- Q_FILLq
  ⟨0x100, [], [⟨0, 1, .rw, 0⟩, ⟨1, 1, .wo, 0⟩]⟩,  -- GATE_CTRL
  ⟨0x104, [], [⟨0, 8, .rw, 1⟩]⟩,  -- GATE_ENTRIES
  ⟨0x108, [], [⟨0, 24, .rw, 0⟩]⟩,  -- GATE_CYCLE
  ⟨0x10c, [], [⟨0, 32, .rw, 0⟩]⟩,  -- GATE_BASE_SEC_LO
  ⟨0x110, [], [⟨0, 16, .rw, 0⟩]⟩,  -- GATE_BASE_SEC_HI
  ⟨0x114, [], [⟨0, 30, .rw, 0⟩]⟩,  -- GATE_BASE_NS
  ⟨0x118, [], [⟨0, 20, .rw, 10000⟩]⟩,  -- GATE_SETUP
  ⟨0x11c, [], [⟨0, 1, .ro, 0⟩, ⟨1, 1, .w1c, 0⟩, ⟨2, 1, .w1c, 0⟩, ⟨3, 1, .ro, 0⟩, ⟨8, 7, .ro, 0⟩]⟩,  -- GATE_STATUS
  ⟨0x120, [], [⟨0, 32, .ro, 0⟩]⟩,  -- GATE_START_SEC_LO
  ⟨0x124, [], [⟨0, 16, .ro, 0⟩]⟩,  -- GATE_START_SEC_HI
  ⟨0x128, [], [⟨0, 30, .ro, 0⟩]⟩,  -- GATE_START_NS
  ⟨0x200, [(128, 4)], [⟨0, 8, .rw, 255⟩, ⟨8, 24, .rw, 0⟩]⟩,  -- GATE_ADMINe
  ⟨0x400, [(128, 4)], [⟨0, 32, .ro, 0⟩]⟩,  -- GATE_OPERe
  ⟨0x600, [(8, 32)], [⟨0, 32, .rc, 0⟩]⟩,  -- TX_FRAMESq
  ⟨0x604, [(8, 32)], [⟨0, 32, .ro, 0⟩]⟩,  -- TX_BYTES_LOq
  ⟨0x608, [(8, 32)], [⟨0, 32, .ro, 0⟩]⟩,  -- TX_BYTES_HIq
  ⟨0x60c, [(8, 32)], [⟨0, 32, .rc, 0⟩]⟩,  -- DROP_FRAMESq
  ⟨0x610, [(8, 32)], [⟨0, 32, .ro, 0⟩]⟩,  -- DROP_BYTES_LOq
  ⟨0x614, [(8, 32)], [⟨0, 32, .ro, 0⟩]⟩,  -- DROP_BYTES_HIq
  ⟨0x700, [], [⟨0, 32, .ro, 0⟩]⟩,  -- RX_DROP_BYTES_LO
  ⟨0x704, [], [⟨0, 32, .ro, 0⟩]⟩  -- RX_DROP_BYTES_HI
  ]
/-- Registers of the POL page. -/
def pagePOLRegs : List RegRow := [
  ⟨0x0, [], [⟨0, 1, .rw, 0⟩, ⟨1, 1, .rw, 0⟩, ⟨2, 1, .rw, 0⟩, ⟨4, 3, .rw, 6⟩, ⟨16, 12, .rw, 0⟩]⟩,  -- POL_CTRL
  ⟨0x4, [], [⟨0, 20, .rw, 0⟩]⟩,  -- POL_RATE
  ⟨0x8, [], [⟨0, 16, .rw, 16⟩]⟩,  -- POL_BURST
  ⟨0xc, [], [⟨0, 32, .rc, 0⟩]⟩,  -- POL_PASS
  ⟨0x10, [], [⟨0, 32, .rc, 0⟩]⟩,  -- POL_DROP
  ⟨0x14, [], [⟨0, 32, .ro, 0⟩]⟩,  -- POL_DROP_BYTES_LO
  ⟨0x18, [], [⟨0, 32, .ro, 0⟩]⟩  -- POL_DROP_BYTES_HI
  ]
/-- Registers of the HLY page. -/
def pageHLYRegs : List RegRow := [
  ⟨0x0, [], [⟨0, 1, .rw, 0⟩, ⟨1, 1, .rw, 0⟩]⟩,  -- CTRL
  ⟨0x4, [], [⟨0, 16, .rw, 0⟩]⟩,  -- RING_ID
  ⟨0x8, [], [⟨0, 1, .ro, 0⟩, ⟨1, 1, .ro, 0⟩, ⟨2, 1, .ro, 0⟩, ⟨3, 1, .ro, 0⟩, ⟨4, 1, .ro, 0⟩, ⟨5, 1, .ro, 0⟩, ⟨6, 1, .ro, 0⟩, ⟨7, 1, .ro, 0⟩, ⟨8, 1, .ro, 0⟩]⟩,  -- STATUS
  ⟨0xc, [], [⟨0, 16, .ro, 0⟩]⟩,  -- MEMBERS
  ⟨0x10, [], [⟨0, 16, .rw, 100⟩, ⟨16, 16, .rw, 500⟩]⟩,  -- BEACON
  ⟨0x14, [], [⟨0, 8, .rw, 8⟩, ⟨16, 16, .rw, 10⟩]⟩,  -- WRAP_CFG
  ⟨0x18, [], [⟨0, 22, .rw, 4000000⟩]⟩,  -- HORIZON
  ⟨0x1c, [], [⟨0, 23, .ro, 0⟩]⟩,  -- L_RING
  ⟨0x20, [], [⟨0, 23, .ro, 0⟩]⟩,  -- L_WRAP
  ⟨0x24, [], [⟨0, 8, .rw, 255⟩, ⟨8, 16, .rw, 125⟩]⟩,  -- TIME_CFG
  ⟨0x28, [], [⟨0, 16, .ro, 0⟩, ⟨16, 8, .ro, 0⟩, ⟨24, 1, .ro, 0⟩]⟩,  -- TIME_MASTER
  ⟨0x2c, [], [⟨0, 32, .ro, 0⟩]⟩,  -- TIME_OFFSET
  ⟨0x30, [], [⟨0, 16, .ro, 0⟩, ⟨16, 16, .ro, 0⟩]⟩,  -- LINK_DELAY
  ⟨0x34, [], [⟨0, 24, .ro, 0⟩]⟩,  -- GATE_WAIT
  ⟨0x40, [], [⟨16, 16, .rw, 0⟩]⟩,  -- WIN_LO
  ⟨0x44, [], [⟨0, 16, .rw, 0⟩]⟩,  -- WIN_HI
  ⟨0x48, [], [⟨0, 16, .rw, 0⟩]⟩,  -- WIN_SIZE
  ⟨0x60, [], [⟨0, 11, .w1c, 0⟩]⟩,  -- INT_STATUS
  ⟨0x64, [], [⟨0, 11, .rw, 0⟩]⟩,  -- INT_EN
  ⟨0x68, [], [⟨0, 32, .rc, 0⟩]⟩,  -- RELAY_OVERSIZE
  ⟨0x6c, [], [⟨0, 32, .rc, 0⟩]⟩  -- WB_RELAY_SKIP
  ]
/-- Registers of the HPLL page. -/
def pageHPLLRegs : List RegRow := [
  ⟨0x0, [], [⟨0, 1, .rw, 0⟩, ⟨1, 1, .rw, 0⟩, ⟨2, 1, .rw, 0⟩]⟩,  -- HPLL_CTRLn
  ⟨0x4, [], [⟨0, 8, .rw, 38⟩]⟩,  -- HPLL_FBn
  ⟨0x8, [], [⟨0, 24, .rw, 268435⟩]⟩,  -- HPLL_FRACn
  ⟨0xc, [], [⟨0, 1, .ro, 0⟩, ⟨1, 1, .ro, 0⟩, ⟨2, 1, .w1c, 0⟩]⟩,  -- HPLL_STATUSn
  ⟨0x10, [(4, 4)], [⟨0, 10, .rw, 0⟩, ⟨16, 8, .rw, 0⟩, ⟨31, 1, .rw, 0⟩]⟩,  -- HPLL_OUTkn
  ⟨0x20, [], [⟨0, 32, .ro, 0⟩]⟩,  -- HPLL_STEERn
  ⟨0x24, [], [⟨0, 1, .wo, 0⟩, ⟨8, 4, .rw, 0⟩]⟩,  -- RAMP_CTRLn
  ⟨0x28, [], [⟨0, 8, .rw, 38⟩]⟩,  -- FB_NEXT_INTn
  ⟨0x2c, [], [⟨0, 24, .rw, 268435⟩]⟩,  -- FB_NEXT_FRACn
  ⟨0x40, [(16, 8)], [⟨0, 16, .rw, 0⟩]⟩,  -- RAMP_RATEjn
  ⟨0x44, [(16, 8)], [⟨0, 24, .rw, 1⟩]⟩  -- RAMP_DURjn
  ]
/-- Registers of the TSY page. -/
def pageTSYRegs : List RegRow := [
  ⟨0x0, [], [⟨0, 1, .ro, 0⟩, ⟨1, 1, .ro, 0⟩, ⟨2, 1, .ro, 0⟩]⟩,  -- SYS_STATUS
  ⟨0x600, [], [⟨0, 2, .rw, 0⟩]⟩,  -- TIME_CTRL
  ⟨0x604, [], [⟨0, 2, .ro, 3⟩]⟩,  -- TIME_STATUS
  ⟨0x608, [], [⟨0, 32, .ro, 0⟩]⟩,  -- TIME_SEC_LO
  ⟨0x60c, [], [⟨0, 16, .ro, 0⟩]⟩,  -- TIME_SEC_HI
  ⟨0x610, [], [⟨0, 30, .ro, 0⟩]⟩,  -- TIME_NS
  ⟨0x614, [], [⟨0, 32, .rw, 0⟩]⟩,  -- FREQ_ADJ
  ⟨0x620, [], [⟨0, 32, .kg, 0⟩]⟩,  -- SET_SEC_LO
  ⟨0x624, [], [⟨0, 16, .kg, 0⟩]⟩,  -- SET_SEC_HI
  ⟨0x628, [], [⟨0, 30, .kg, 0⟩]⟩,  -- SET_NS
  ⟨0x62c, [], [⟨0, 1, .kg, 0⟩]⟩,  -- SET_GO
  ⟨0x700, [], [⟨0, 1, .rw, 0⟩, ⟨1, 1, .rw, 0⟩]⟩,  -- GENLOCK
  ⟨0x704, [], [⟨0, 32, .rw, 16666666⟩]⟩,  -- GENLOCK_PERIOD
  ⟨0x708, [], [⟨0, 1, .ro, 0⟩]⟩,  -- GENLOCK_STATUS
  ⟨0x70c, [], [⟨0, 30, .ro, 0⟩]⟩,  -- GENLOCK_LAST_NS
  ⟨0x710, [], [⟨0, 32, .rc, 0⟩]⟩,  -- GLITCHES
  ⟨0x714, [], [⟨0, 16, .rw, 4369⟩]⟩,  -- GL_MULT
  ⟨0x720, [], [⟨0, 32, .rc, 0⟩]⟩,  -- SYNC_EDGES
  ⟨0x740, [], [⟨0, 8, .rw, 0⟩]⟩,  -- CLKOUT
  ⟨0x780, [], [⟨0, 9, .w1c, 0⟩]⟩,  -- INT_STATUS
  ⟨0x784, [], [⟨0, 9, .rw, 0⟩]⟩  -- INT_EN
  ]
/-- Registers of the EVT page. -/
def pageEVTRegs : List RegRow := [
  ⟨0x0, [], [⟨0, 1, .rw, 1⟩, ⟨1, 1, .rw, 1⟩, ⟨4, 4, .rw, 10⟩]⟩,  -- CTRL
  ⟨0x4, [], [⟨0, 32, .ro, 0⟩]⟩,  -- WR_SEQ
  ⟨0x8, [], [⟨0, 32, .rw, 0⟩]⟩,  -- RD_SEQ
  ⟨0xc, [], [⟨0, 13, .ro, 0⟩]⟩,  -- PENDING
  ⟨0x10, [(4, 4)], [⟨0, 32, .rc, 0⟩]⟩,  -- DROPPEDc
  ⟨0x20, [], [⟨0, 32, .rc, 0⟩]⟩,  -- COALESCED
  ⟨0x24, [], [⟨0, 32, .rc, 0⟩]⟩,  -- PERSIST_LOST
  ⟨0x40, [], [⟨0, 1, .w1c, 0⟩, ⟨8, 3, .w1c, 0⟩]⟩,  -- INT_STATUS
  ⟨0x44, [], [⟨0, 11, .rw, 0⟩]⟩,  -- INT_EN
  ⟨0x48, [], [⟨0, 4, .wo, 0⟩]⟩,  -- FEC_CLR
  ⟨0x100, [(4, 32)], [⟨0, 16, .ro, 0⟩, ⟨16, 16, .ro, 0⟩]⟩,  -- FEC_CODEc
  ⟨0x104, [(4, 32)], [⟨0, 32, .ro, 0⟩]⟩,  -- FEC_SEC_LOc
  ⟨0x108, [(4, 32)], [⟨0, 16, .ro, 0⟩]⟩,  -- FEC_SEC_HIc
  ⟨0x10c, [(4, 32)], [⟨0, 30, .ro, 0⟩]⟩,  -- FEC_NSc
  ⟨0x110, [(4, 32)], [⟨0, 32, .ro, 0⟩]⟩,  -- FEC_DET_LOc
  ⟨0x114, [(4, 32)], [⟨0, 32, .ro, 0⟩]⟩,  -- FEC_DET_HIc
  ⟨0x118, [(4, 32)], [⟨0, 1, .ro, 0⟩, ⟨1, 1, .ro, 0⟩]⟩  -- FEC_VALIDc
  ]
/-- Registers of the PWR page. -/
def pagePWRRegs : List RegRow := [
  ⟨0x0, [], [⟨0, 1, .ro, 0⟩, ⟨1, 1, .ro, 0⟩, ⟨2, 1, .ro, 0⟩, ⟨3, 1, .ro, 0⟩, ⟨4, 1, .ro, 0⟩]⟩,  -- STATUS
  ⟨0x4, [], [⟨0, 3, .ro, 0⟩, ⟨16, 16, .ro, 0⟩]⟩,  -- BOOT_STATUS
  ⟨0x8, [], [⟨0, 2, .ro, 0⟩]⟩,  -- STRAPS
  ⟨0xc, [], [⟨0, 32, .ro, 0⟩]⟩,  -- SVN_MIN
  ⟨0x10, [], [⟨0, 1, .kg, 0⟩]⟩,  -- RESET_CTRL
  ⟨0x20, [], [⟨0, 16, .rw, 0⟩]⟩,  -- HOLDUP_C
  ⟨0x24, [], [⟨0, 16, .rw, 0⟩]⟩,  -- HOLDUP_VMIN
  ⟨0x28, [], [⟨0, 16, .rw, 256⟩]⟩,  -- HOLDUP_RATIO
  ⟨0x2c, [], [⟨0, 7, .rw, 24⟩]⟩,  -- HOLDUP_MARGIN
  ⟨0x30, [], [⟨0, 10, .rw, 130⟩]⟩,  -- HOLDUP_P
  ⟨0x34, [], [⟨0, 12, .ro, 0⟩]⟩,  -- HOLDUP_ADC
  ⟨0x38, [], [⟨0, 16, .ro, 0⟩]⟩,  -- HOLDUP_MV
  ⟨0x3c, [], [⟨0, 32, .ro, 0⟩]⟩,  -- HOLDUP_MJ
  ⟨0x40, [], [⟨0, 3, .ro, 0⟩, ⟨8, 1, .ro, 0⟩]⟩,  -- LAST_COMMIT
  ⟨0x44, [], [⟨0, 32, .rc, 0⟩]⟩,  -- COMMITS
  ⟨0x48, [], [⟨0, 32, .rc, 0⟩]⟩,  -- DEFERRED
  ⟨0x60, [], [⟨0, 11, .ro, 0⟩]⟩,  -- TEMP
  ⟨0x64, [], [⟨0, 11, .rc, 0⟩]⟩,  -- TEMP_MAX
  ⟨0x68, [], [⟨0, 11, .rw, 400⟩]⟩,  -- THERM
  ⟨0x80, [], [⟨0, 4, .w1c, 0⟩, ⟨8, 2, .w1c, 0⟩]⟩,  -- INT_STATUS
  ⟨0x84, [], [⟨0, 10, .rw, 0⟩]⟩  -- INT_EN
  ]
/-- Registers of the SHD page. -/
def pageSHDRegs : List RegRow := [
  ⟨0x0, [], [⟨0, 3, .ro, 0⟩, ⟨4, 1, .ro, 0⟩, ⟨8, 8, .ro, 0⟩]⟩,  -- STATE
  ⟨0x4, [], [⟨0, 1, .kg, 0⟩, ⟨1, 1, .kg, 0⟩]⟩,  -- CTRL
  ⟨0x8, [], [⟨0, 8, .kg, 10⟩]⟩,  -- HB
  ⟨0xc, [], [⟨0, 3, .ro, 0⟩]⟩,  -- CAUSE
  ⟨0x10, [], [⟨0, 16, .rc, 0⟩]⟩,  -- TAKEOVERS
  ⟨0x14, [], [⟨0, 16, .ro, 0⟩]⟩  -- OUT_GAP
  ]

/-- The pages of BAR0. Where two tables share a page (DMCn and the device-wide DMC0 registers, DMA channels and engine,
ING ports, HLY blocks), the blocks are rows of their own. -/
def pageTable : List PageRow := [
  ⟨0x0, 1, 0x10000, pageGLBRegs⟩,
  ⟨0x10000, 1, 0x10000, pageMBXRegs⟩,
  ⟨0x20000, 4, 0x10000, pageHEADRegs⟩,
  ⟨0x80000, 16, 0x4000, pageVLRegs⟩,
  ⟨0xc0000, 48, 0x1000, pageGLRegs⟩,
  ⟨0x100000, 1, 0x10000, pageDSMRegs⟩,
  ⟨0x110000, 1, 0x4000, pageDMC0Regs⟩,
  ⟨0x110000, 4, 0x4000, pageDMCRegs⟩,
  ⟨0x120000, 16, 0x80, pageDMACHRegs⟩,
  ⟨0x120000, 1, 0x10000, pageDMARegs⟩,
  ⟨0x130000, 1, 0x10000, pageBLTRegs⟩,
  ⟨0x140000, 16, 0x1000, pageSPRegs⟩,
  ⟨0x150000, 4, 0x100, pageINGPRegs⟩,
  ⟨0x150000, 1, 0x1000, pageINGRegs⟩,
  ⟨0x151000, 48, 0x100, pageINGSRegs⟩,
  ⟨0x160100, 2, 0x40, pageHLYPRegs⟩,
  ⟨0x160800, 2, 0x800, pageHLYQRegs⟩,
  ⟨0x161800, 64, 0x20, pagePOLRegs⟩,
  ⟨0x160000, 1, 0x100, pageHLYRegs⟩,
  ⟨0x170100, 4, 0x100, pageHPLLRegs⟩,
  ⟨0x170000, 1, 0x10000, pageTSYRegs⟩,
  ⟨0x180000, 1, 0x10000, pageEVTRegs⟩,
  ⟨0x190000, 1, 0x10000, pagePWRRegs⟩,
  ⟨0x1a0000, 1, 0x10000, pageSHDRegs⟩ ]

/-- Indices of a repeating register from the distance to its first word; none where the distance meets no instance. -/
def dimIdx : List (Nat × Nat) → Nat → Option (List Nat)
  | [], d => if d = 0 then some [] else none
  | (n, st) :: t, d =>
    if d / st < n then (dimIdx t (d % st)).map (d / st :: ·) else none

/-- The row of a page that holds the word at a page offset, with its indices. -/
def findReg : List RegRow → Nat → Option (RegRow × List Nat)
  | [], _ => none
  | r :: t, rel =>
    if r.off ≤ rel then
      match dimIdx r.dims (rel - r.off) with
      | some ix => some (r, ix)
      | none => findReg t rel
    else findReg t rel

/-- A register found by its BAR0 offset: page base, instance, offset in the page, row and indices. -/
structure RegAt where
  base : Nat
  inst : Nat
  rel : Nat
  row : RegRow
  idx : List Nat
deriving DecidableEq, Repr

/-- The register at a BAR0 offset; none for an offset in no page and for a reserved location (R52, R13). -/
def findIn : List PageRow → Nat → Option RegAt
  | [], _ => none
  | p :: t, off =>
    if p.base ≤ off ∧ off < p.base + p.count * p.step then
      match findReg p.regs ((off - p.base) % p.step) with
      | some (r, ix) => some ⟨p.base, (off - p.base) / p.step, (off - p.base) % p.step, r, ix⟩
      | none => findIn t off
    else findIn t off

/-- The register at a word-aligned BAR0 offset. -/
def regAt (off : Nat) : Option RegAt := findIn pageTable off

/-- The word that a list of fields gives at reset. -/
def rowReset (fs : List FldRow) : Nat := fs.foldl (fun a f => a + f.reset * 2 ^ f.lsb) 0

/-- Reset word of the register at an offset: the reset column of its table, and the formulas of the registers whose reset
value depends on an index (MTX_Ck, HCOEF, VCOEF, PRE_LUT, POST_LUT, HPLL_OUTk). Factory values stand as 0 (log 2). Region 63 of Densum reads as
R473 states. -/
def resetWord (off : Nat) : Word :=
  match regAt off with
  | none => 0
  | some a =>
    let k := a.idx.getD 0 0
    let j := a.idx.getD 1 0
    BitVec.ofNat 32 <|
      if a.base = 0x80000 then
        if a.row.off = 0x110 then (if k % 4 = 0 then 0x1000 else 0)
        else if a.row.off = 0x1000 ∨ a.row.off = 0x1400 then (if j = 1 then 1024 else 0)
        else if a.row.off = 0x2000 then min (128 * j) 65535 + (if j = 512 then 0 else min (128 * j + 64) 65535) * 65536
        else rowReset a.row.fields
      else if a.base = 0x20000 ∧ a.row.off = 0x4000 then min (32 * j) 65535 + (if j = 2048 then 0 else min (32 * j + 16) 65535) * 65536
      else if a.base = 0x170100 ∧ a.row.off = 0x10 then
        (if k = 0 then 5 else if k = 1 then 79 else 0) + (if k < 2 then 0x80000000 else 0)
      else if a.base = 0x100000 ∧ k = 63 ∧ a.row.off = 0x400 then 0x7800000
      else if a.base = 0x100000 ∧ k = 63 ∧ a.row.off = 0x404 then 128
      else if a.base = 0x100000 ∧ k = 63 ∧ a.row.off = 0x408 then 0x20002
      else if a.base = 0x100000 ∧ k = 63 ∧ a.row.off = 0x40C then 3
      else rowReset a.row.fields

end Sys2Proof.Machine
end

