-- ==== Sys2Proof/Machine/State.lean ====
section
/-! DEFINITION. The state of the block as plain data, why a step can stop, and the state after reset. -/

namespace Sys2Proof.Machine

/-- Faults: no command of this block faults. The one constructor is raised by nobody (safe). -/
inductive Fault where
  /-- Raised by no meaning: the device answers every access, with an error response where the spec says so. Safe. -/
  | none
deriving DecidableEq, Repr

/-- Refusals. -/
inductive Refusal where
  /-- Raised by an arm of `exec` whose command has no meaning yet, with the command's mnemonic. Safe. -/
  | notModelled (mnemonic : String)
deriving DecidableEq, Repr

/-- The two parts of the family (R1). -/
inductive Part where
  | sgn7240 | sgn7220
deriving DecidableEq, Repr

/-- A spare in use: bank, column or row, index, spare (R499 to R502). -/
structure SpareUse where
  bank : Nat
  column : Bool
  index : Nat
  spare : Nat
deriving DecidableEq, Repr

/-- What fuses and factory records fix for one device (R5, R78, R333, R376, R648). -/
structure Fuses where
  serial : Nat
  stepping : Nat
  svnMin : Nat
  keyHash : Nat
  spMac : Vector Nat 16
  ipMac : Vector Nat 4
  /-- The factory fuse map of Densum's spares (R499). -/
  spareMap : List SpareUse
deriving DecidableEq, Repr

/-- One entry of the MSI-X table (R58, R94). -/
structure MsixEntry where
  addr : Nat
  data : Word
  masked : Bool
deriving DecidableEq, Repr

/-- The host port: MSI-X table and pending bits, and whether the port is held in a fundamental reset (R58, R64, R94). -/
structure HostPort where
  msix : Vector MsixEntry 64
  pba : Vector Bool 64
  /-- The AER capability enables correctable, and uncorrectable, internal errors (R680). -/
  aerCorr : Bool
  aerUnc : Bool
deriving DecidableEq, Repr

/-- Why the new active core is about to resume service (R99, R100, R103). -/
inductive Resume where
  | takeover | simplex | handover | boot
deriving DecidableEq, Repr

/-- The duplex of control cores, beside GLB.CORE_STATUS and GLB.CORE_CTRL (R96 to R104). -/
structure Duplex where
  /-- Firmware service runs. -/
  fwUp : Bool
  /-- Time of the last heartbeat at the monitor. -/
  lastHb : Nat
  /-- Service is due to resume, and why. -/
  resume : Option Resume
  /-- A voluntary handover has been requested and not yet performed. -/
  handoverReq : Bool
  /-- The SYNCING core's self-test has passed. -/
  selftestOk : Bool
deriving DecidableEq, Repr

/-- Where a Jicor command came from: a host mailbox, a ring mailbox of this device, or a ring mailbox of another device
(its ring ID, its mailbox, whether the command was broadcast) (R68, R86, R88, R90). -/
inductive CmdSrc where
  | host (n : Fin 16)
  | ring (n : Fin 4)
  | remote (rid : Nat) (n : Nat) (bcast : Bool)
deriving DecidableEq, Repr

/-- One copied command in the firmware's command queue (R66, R68, R86). -/
structure FwCmd where
  src : CmdSrc
  cmd : Nat
  seq : Nat
  len : Nat
  dest : Nat
  timeout : Nat
  payload : List Byte
  /-- A line of the payload's copy is poisoned (R385). -/
  poison : Bool
deriving DecidableEq, Repr

/-- The sequence record of one mailbox (R81, R85): `done` is none while STARTED, else the status and response;
`took` is what the command took; `unheard` says that it went to other devices and ended as none answered in time (R90). -/
structure SeqRec where
  cmd : Nat
  seq : Nat
  done : Option (Nat × List Byte)
  took : List Nat
  unheard : Bool
deriving DecidableEq, Repr

/-- What a command whose completion lies ahead waits for (R72). -/
inductive WaitKind where
  /-- CORE_SWITCH: the handover (R79). -/
  | coreSwitch
  /-- CORE_RESTART: READY or FAILED (R101). -/
  | coreRestart
  /-- A commit of these heads to come live; `late` holds the heads whose commit was late; `resp` is the response to give (R120). -/
  | commit (heads : List Nat) (late : Bool) (resp : List Byte)
  /-- A commit that waits until earlier ones for its heads are live (R121), with what its checks read from its buffer. -/
  | queued (heads : List Nat) (resp data : List Byte)
  /-- SET_TIMING with a mode change, until its new timing is live (R255 to R262). -/
  | timing (head : Nat) (resp : List Byte)
  /-- HEAD_RUN or HEAD_REEF until the head has stopped or restarted (R263, R269). -/
  | headStopped (head : Nat)
  | headReleased (head : Nat)
  /-- HEAD_REEF ENTER that waits for a mode change of its head to end (R270). -/
  | reef (head : Nat) (deep : Bool)
  /-- SET_TIMING that waits until its head has entered Reef mode (R270). -/
  | afterReef (head : Nat) (resp : List Byte)
  /-- LAYER_LUT or HEAD_LUT whose table write waits for the synchronisation of a window (R208): the window, the heads to commit then (none
  without COMMIT), whether it had waited in the queue of R121, its response and its table. -/
  | lut (t : Nat) (heads : List Nat) (force : Bool) (resp data : List Byte)
  /-- SHEET_PING until a STATUS with this token comes (R332). -/
  | ping (port : Nat) (token : Nat) (deadline : Nat) (sent : Option Nat)
  /-- RING_JOIN, RING_LEAVE (R423, R425). -/
  | join
  | leave
  /-- RING_COPY (R427, R428). -/
  | ringCopy (xfer : Nat)
  /-- RING_SCHED_SET until the resized queues are empty (R462). -/
  | sched (deadline : Nat)
  /-- SCRUB, DSM_REPAIR, DDR_SCRUB (R494, R503, R562). -/
  | scrub
  | repair
  | ddrScrub
  /-- MEM_SLOT_RETIRE, MEM_SLOT_RESTORE (R558, R559). -/
  | retire (ch : Nat)
  | restore (ch : Nat)
  /-- A flash commit with this ticket (R655). -/
  | nv (ticket : Nat) (resp : List Byte)
  /-- FW_SWAP (R660). -/
  | swap
deriving DecidableEq, Repr

/-- A command waiting for a later event. -/
structure Waiting where
  cmd : FwCmd
  kind : WaitKind
deriving DecidableEq, Repr

/-- A ring mailbox command on its way to other devices (R89, R90): answers come as (ring ID, status). -/
structure RingWait where
  cmd : FwCmd
  mbx : Nat
  deadline : Nat
  bcast : Bool
  answers : List (Nat × Nat)
deriving DecidableEq, Repr

/-- The firmware's queues and records (R68, R71, R81, R88); the commands that are not complete, in the order in which they were copied, and
those that a new active core has yet to execute again (R71, R99). -/
structure Fw where
  queue : List FwCmd
  records : List (CmdSrc × SeqRec)
  waiting : List Waiting
  ringWaits : List RingWait
  copied : List FwCmd
  again : List FwCmd
deriving DecidableEq, Repr

/-- A report on its way to the event logger (R671). -/
structure Report where
  code : Nat
  source : Nat
  detail : Nat
deriving DecidableEq, Repr

/-- A log entry (R672), with the model's time of its first report. -/
structure LogEntry where
  seq : Nat
  code : Nat
  cls : Nat
  source : Nat
  count : Nat
  sec : Nat
  ns : Nat
  lastUs : Nat
  detail : Nat
  first : Nat
deriving DecidableEq, Repr

/-- The event logger: report queue, pending entries (RD_SEQ to WR_SEQ − 1), persist queue with the time of its oldest entry
(R671, R674, R681). -/
structure EventLog where
  reports : List Report
  entries : List LogEntry
  persistQ : List LogEntry
  persistSince : Nat
deriving DecidableEq, Repr

/-- Seal state of a page of a SEALED region (R483 to R485). -/
structure PageSeal where
  isSealed : Bool
  lastWrite : Nat
  failed : Bool
deriving DecidableEq, Repr

/-- A scrub of Densum in progress (R494 to R498). -/
structure ScrubJob where
  next : Nat
  stop : Nat
  first : Nat
  rewrite : Bool
  corrected : Nat
  uncorrectable : Nat
  rebuilt : Nat
  stale : Nat
  dirty : Nat
  worstBytes : Nat
  worstAddr : Nat
  /-- Write-backs of the page being read, which the end of the page performs: address, data, poison (R497, R498). -/
  backs : List (Nat × List Byte × Bool)
  /-- A write-back of the page has been dropped for a write (R498). -/
  dropped : Bool
  /-- Uncorrectable lines found in the page being read. -/
  pageBad : Nat
deriving DecidableEq, Repr

/-- A live repair in progress (R500): lines still to copy and what the spare holds already, by byte address. -/
structure RepairJob where
  bank : Nat
  column : Bool
  index : Nat
  spare : Nat
  persist : Bool
  toCopy : List Nat
  spareBytes : List (Nat × Byte)
  /-- Errors of the spare's stored check bits, as `cerr` holds them for the live copy (R510). -/
  spareErr : List (Nat × Nat)
  sparePoison : List (Nat × Nat)
  switched : Bool
deriving DecidableEq, Repr

/-- The Densum controller beside its registers: check-bit deltas of stored bytes (R477; 0 where the stored check bits are
those of the stored byte), poison copies (R479), seal state (R483), scrub and repair. P and Q lines stand in `mem` (R470). -/
structure Densum where
  cerr : List (Nat × Nat)
  poison : List (Nat × Nat)
  pages : List (Nat × PageSeal)
  since : Vector Nat 64
  spares : List SpareUse
  softMap : List SpareUse
  scrub : Option ScrubJob
  repair : Option RepairJob
deriving DecidableEq, Repr

/-- Requesters of DDR5 (R531): real-time ports 0 to 8, best-effort HST, CTL, DXB and HLY (0 to 3). -/
inductive DdrWho where
  | rt (p : Nat)
  | be (r : Nat)
deriving DecidableEq, Repr

/-- Kinds of queued DDR5 access; a merge is a write of less than a line (R535). -/
inductive DdrKind where
  | read | write | merge
deriving DecidableEq, Repr

/-- One queued line access (R532 to R535). A read holds the data it is to return, since accesses to one line complete in
order of arrival; `applied` marks a write that has been performed before its turn, with what it replaced. -/
structure DdrEntry where
  id : Nat
  who : DdrWho
  kind : DdrKind
  line : Nat
  data : List (Option Byte)
  poison : Bool
  applied : Option (List Byte × Bool)
deriving DecidableEq, Repr

/-- One of the last 64 commands of a channel, with what a write replaced (R550). -/
structure DdrDone where
  entry : DdrEntry
  oldData : List Byte
  oldPoison : Bool
deriving DecidableEq, Repr

/-- Activate count of one row (R543, R546). -/
structure ActCount where
  row : Nat
  count : Nat
deriving DecidableEq, Repr

/-- Progress of a channel's bring-up or restore (R519, R520, R522, R559). -/
inductive TrainPhase where
  | none
  /-- The PMIC wait, since a time. -/
  | pmic (since : Nat)
  /-- Verification of stored results, at a place of `verifySteps` (R522). -/
  | verify (i : Nat)
  /-- The full sequence, at a place of `trainSteps` (R520). -/
  | full (i : Nat)
  | done
deriving DecidableEq, Repr

/-- One DDR5 channel beside its registers. -/
structure DdrChan where
  rdQ : List DdrEntry
  wrQ : List DdrEntry
  /-- Requests that found their queue full (R533). -/
  stalled : List DdrEntry
  /-- Reads and merges whose data are on their way. -/
  flight : List DdrEntry
  recent : List DdrDone
  /-- Refreshes due and postponed, by rank × 4 + bank index (R539, R540). -/
  due : Vector Nat 8
  postponed : Vector Nat 8
  /-- When the running tREFI of each rank began (R539). -/
  refAt : Vector Nat 2
  /-- Activate tables of the real-time class, by rank × 32 + bank (R543). -/
  acts : List (Nat × List ActCount)
  /-- Tables of the best-effort class, by requester: rows of banks, each with the times of its activates of the last 1 ms (R546). -/
  beActs : List (Nat × List (Nat × List Nat))
  /-- Weight cuts: requester and end (R546). -/
  cuts : List (Nat × Nat)
  /-- Slots since the last best-effort access (R536), and round robin: requester and slots left. -/
  beWait : Nat
  rr : Nat
  rrLeft : Nat
  lastAccess : Nat
  spd : Option Spd
  phase : TrainPhase
  /-- Drift awaiting the next refresh of the rank: 20 × rank + device position, 1/64 UI, since; none once it has been logged as late
  (R523). -/
  drift : List (Nat × Int × Option Nat)
  /-- The baseline of each device's oscillator, by 20 × rank + device position, in 1/64 UI from that of training; absent: 0 (R520,
  R523). -/
  oscBase : List (Nat × Int)
  /-- When the firmware last read the oscillators (R523). -/
  oscAt : Nat
  /-- When the DIMM's refresh rate status was last read (R542). -/
  polledAt : Nat
  /-- Mitigations not yet issued: bank (rank × 32 + bank) and row (R543, R544). -/
  mitigate : List (Nat × Nat)
  /-- Banks that a mitigation occupies for 2 × tRC, or an access for tRC, each until a time (R544, R545). -/
  taken : List (Nat × Nat)
  /-- Lines of the channel that returned with devices in error and have not been written since (R549, R552; log 62). -/
  bad : List (Nat × DdrQuality)
  /-- Lines whose copy on this channel of a mirrored pair differs from the line as `mem` holds it (R555, R560; log 32). -/
  own : List (Nat × List Byte × Bool)
  /-- tRFC1 and the refresh management parameters that the firmware has programmed from the SPD; R565 names no register for them (R517). -/
  tRfc1 : Nat
  rfm : Nat
  /-- Device positions reported as weak since their counter was read (R551). -/
  weak : List Nat
  /-- EV_DDR_UE or EV_DDR_CA_PARITY logged since device reset (R558). -/
  badSince : Bool
  /-- Resilver: next line (channel-local pair line), and start time (R559). -/
  resilver : Option (Nat × Nat)
  /-- The channel is being drained for retirement (R558). -/
  retiring : Bool
deriving DecidableEq, Repr

/-- The mapping that the init engine has applied (R530). -/
structure DdrMap where
  mode : Nat
  grain : Nat
  mirror : Bool
  masks : List Nat
  channels : Nat
  gib : Nat
  ranks : Nat
deriving DecidableEq, Repr

/-- A scrub of DDR5 in progress (R562). -/
structure DdrScrubJob where
  next : Nat
  stop : Nat
  rewrite : Bool
  corrected : Nat
  uncorrectable : Nat
  mirrorFixed : Nat
  poisoned : Nat
  /-- Corrections by channel × 20 + device position. -/
  devs : List (Nat × Nat)
deriving DecidableEq, Repr

/-- The DDR5 subsystem beside its registers. -/
structure Ddr where
  chans : Vector DdrChan 4
  nextId : Nat
  /-- Channels of the set in use: 0, 1, 2 or 4 (R515). -/
  set : Nat
  map : Option DdrMap
  /-- Fill in progress: next granule; fast boot; granules filled ahead (R524, R525). -/
  fill : Option Nat
  fast : Bool
  filled : List Nat
  /-- The Densum region that holds the fill map (R525). -/
  fillRegion : Option Nat
  scrub : Option DdrScrubJob
  /-- Lines that each real-time port has staged in Densum (R537). -/
  staged : Vector Nat 9
  /-- What they had staged when their panic state was last brought up to date (R537). -/
  stagedWas : Vector Nat 9
  /-- HIGH marks that the firmware has set and no register write has replaced (R538, log 19). -/
  highMark : Vector (Option Nat) 9
  /-- Number of the 32 ms window of device time whose start has cleared the activate tables (R543). -/
  window : Nat
deriving DecidableEq, Repr

/-- A Halyard frame: header fields of R382 and payload. -/
structure HFrame where
  cls : Nat
  src : Nat
  dst : Nat
  stream : Nat
  seq : Nat
  payload : List Byte
deriving DecidableEq, Repr

/-- A frame at an egress: `stomp` where it is to end in a complemented CRC (R384, R385); for a transit frame the port and the
device time of its arrival (R402); for a local frame in Q0 to Q6 where its payload stands in Densum, once RING_SCHED_SET has placed
the queues' region (R22, R435). -/
structure TxItem where
  frame : HFrame
  stomp : Bool
  arrived : Option (Nat × Nat)
  at_ : Option Nat
deriving DecidableEq, Repr

/-- A frame in a local receive queue, with the device time and the `now` of its arrival (R389, R395, R399). -/
structure RxItem where
  frame : HFrame
  at_ : Nat
  rxNow : Nat
deriving DecidableEq, Repr

/-- A gate list: entries of MASK and DURATION, CYCLE, and S in device time (R445, R446). -/
structure GateList where
  entries : List (Nat × Nat)
  cycle : Nat
  start : Nat
deriving DecidableEq, Repr

/-- A token bucket: bytes held, in units of 1/8000 byte so that RATE Mb/s adds RATE units each nanosecond; time of the last
update (R442, R455). -/
structure Bucket where
  tokens : Nat
  at_ : Nat
deriving DecidableEq, Repr

/-- One ring port beside its registers. Port 0 is HW, port 1 HE. -/
structure RingPort where
  lostAt : Option Nat
  fault : Bool
  /-- Remote Fault is being sent, and is being received (R409, R410). -/
  sendsRf : Bool
  hearsRf : Bool
  /-- Times of the uncorrectable codewords of the last millisecond (R409). -/
  uncorr : List Nat
  cleanSince : Option Nat
  /-- Both facing ports clean: T_u chosen or heard, in device time (R412). -/
  unwrapAt : Option Nat
  /-- Peer delay: last 8 exchanges in half nanoseconds, exchange under way (ID, t1), next ID, time of the last request
  (R397, R398). -/
  pdHist : List Int
  pdOpen : Option (Nat × Nat)
  pdId : Nat
  pdLast : Nat
  transit : List TxItem
  queues : Vector (List TxItem) 8
  qKib : Vector Nat 7
  shapers : Vector Bucket 7
  deficit : Vector Nat 5
  visit : Nat
  inVisit : Bool
  oper : Option GateList
  pend : Option GateList
  rx : List RxItem
  rxKib : Nat
  /-- Densum regions of the transmit queues, once RING_SCHED_SET has placed them: queue, region (R435, R463). -/
  qRegions : List (Nat × Nat)
  /-- When the port last received an uncorrectable codeword or a bad CRC (R421). -/
  badAt : Option Nat
deriving DecidableEq, Repr

/-- An entry of the membership table (R395). -/
structure Member where
  rid : Nat
  serial : Nat
  state : Nat
  rank : Nat
  prio : Nat
  hops : Nat
  at_ : Nat
deriving DecidableEq, Repr

/-- A bulk transfer being sent (R427, R428). -/
structure BulkTx where
  xfer : Nat
  dest : Nat
  queue : Nat
  srcAddr : Nat
  dstOff : Nat
  bytes : Nat
  timeout : Nat
  attempts : Nat
  /-- End of the wait for BULK_ACK, once BULK_DONE has left. -/
  deadline : Option Nat
  /-- BULK_DONE has been queued. -/
  doneSent : Bool
deriving DecidableEq, Repr

/-- Progress of the return to service (R421). -/
inductive JoinStep where
  /-- 1: waiting for lock. -/
  | lock
  /-- 2 and 3: listening and checking since a time; which of the two has ended. -/
  | listen (since : Nat) (heard : Bool) (clean : Bool)
  /-- 4: matching; ports that have matched. -/
  | matching (hw he : Bool)
  /-- 5: switching; ports switched. -/
  | switching (hw he : Bool)
  /-- 6: member, waiting for the link delays. -/
  | member
  /-- 6: another member of higher right holds the ring ID: the device leaves, and the command then ends (R396). -/
  | clash
deriving DecidableEq, Repr

/-- A join in progress. -/
structure Join where
  step : JoinStep
  tries : Nat
  rid : Nat
  /-- The registers as they stood before the command, written back when it fails (R78). -/
  saved : List (Nat × Word)
deriving DecidableEq, Repr

/-- Relay of a head's write-back (R430). -/
structure Relay where
  queue : Nat
  dest : Nat
  buffers : Nat
  dstOff : Nat
  stride : Nat
  /-- Transfer ID of the frame relayed last; whether the relay is on: one that is turned off may still be sending. -/
  xfer : Option Nat
  on : Bool
deriving DecidableEq, Repr

/-- The ring beside its registers. -/
structure Ring where
  ports : Vector RingPort 2
  members : List Member
  /-- Ring IDs whose BEACON has been received, with the time (R388 rule 3). -/
  heard : List (Nat × Nat)
  /-- Known wrapped link ends: ring ID, side (0 HW, 1 HE) (R413). -/
  wrapEnds : List (Nat × Nat)
  /-- Ring IDs eastward from this device as they stood while no wrapped end was known: while one is, HOPS counts a wrapped way (R395, R414). -/
  eastOrder : List Nat
  /-- UNWRAP_AT notices: ring ID, side, T_u, time heard (R412, R413). -/
  unwraps : List (Nat × Nat × Nat × Nat)
  /-- SEQ of the next frame by DST, CLASS, STREAM (R382). -/
  seqTx : List ((Nat × Nat × Nat) × Nat)
  /-- Port by which a frame of this device first left: CLASS, STREAM, DST, SEQ; port (R388 rule 2). -/
  firstPort : List ((Nat × Nat × Nat × Nat) × Nat)
  lastBeacon : Nat
  lastSync : Nat
  /-- The SYNC last used: SEQ, HOPS; time of use (R403, R628). -/
  syncUsed : Option (Nat × Nat)
  syncUsedAt : Nat
  join : Option Join
  leaving : Bool
  bulkTx : List BulkTx
  /-- Frames received of a transfer: source, transfer, count (R428). -/
  bulkRx : List ((Nat × Nat) × Nat)
  nextXfer : Nat
  relays : Vector (Option Relay) 4
  /-- Link delays with which the horizon was last computed (R407). -/
  hzDelays : Vector Nat 2
  policers : Vector Bucket 64
deriving DecidableEq, Repr

/-- The Shroud beside its registers; it keeps its state while the main die is in reset (R415 to R422). -/
structure Shroud where
  vaux : Bool
  vaux18 : Bool
  /-- Time since when both rails are good (R419). -/
  goodSince : Nat
  /-- Through-path: 0 none, 1 Shroud, 2 main die. -/
  path : Nat
  lastHb : Nat
  scan : Bool
  faulted : Bool
  /-- A takeover is still to be reported when the main die runs (R420). -/
  unreported : Bool
  /-- The cycle of the last takeover (R711). -/
  takenAt : Option Nat
deriving DecidableEq, Repr

/-- One copy of a record in flash, or one slot of the persisted log: erased, written in part, so that its marker page gives no good CRC,
or whole, with the SEQ that its marker page bears (R646, R682). -/
inductive NvCopy (α : Type) where
  | erased
  | part
  | whole (seq : Nat) (val : α)
deriving DecidableEq, Repr

/-- One record class of the flash, in two copies with their SEQ; none for a copy that is absent (R646, R647). -/
structure NvRec (α : Type) where
  a : NvCopy α
  b : NvCopy α
deriving DecidableEq, Repr

/-- The DDR5 part of the configuration record (R564). -/
structure MemCfg where
  mode : Nat
  grain : Nat
  mirror : Bool
  fast : Bool
  rate : Nat
  masks : List Nat
deriving DecidableEq, Repr

/-- Stored training results of a channel (R522): serial number of the DIMM and the lane registers. -/
structure TrainRec where
  serial : Nat
  lanes : List Word
deriving DecidableEq, Repr

/-- What an image slot holds (R648, R659): header fields, the hash, how many of its 4 KiB blocks are written, and whether
signature, key and hash check (`authentic`). -/
structure Image where
  version : Nat
  svn : Nat
  bootSize : Nat
  imageSize : Nat
  schema : Nat
  hash : Nat
  blocks : Nat
  written : Nat
  authentic : Bool
deriving DecidableEq, Repr

/-- What a commit writes (R652). -/
inductive NvWrite where
  /-- The next block of an image, which stands in the slot from here on as far as it has been written (R657, R659). -/
  | imageBlock (slot : Nat) (i : Image)
  | boot (slot : Nat)
  | svnMin (v : Nat)
  /-- One more entry of the soft repair map (R504). -/
  | softAdd (u : SpareUse)
  | training (ch : Nat) (r : TrainRec)
  | config (c : MemCfg)
  | log (es : List LogEntry)
deriving DecidableEq, Repr

/-- A commit: class (R652), ticket by which a command waits for it, what it writes; `own` when the firmware started it on its
own and retries it (R654). -/
structure Commit where
  cls : Nat
  ticket : Nat
  what : NvWrite
  own : Bool
  /-- Its hold-up check has passed already (R504). -/
  checked : Bool
deriving DecidableEq, Repr

/-- The non-volatile store (R645 to R655). -/
structure Nv where
  boot : NvRec Nat
  config : NvRec MemCfg
  /-- The configuration record as it stood at power-up (R564). -/
  inForce : MemCfg
  softMap : NvRec (List SpareUse)
  training : Vector (NvRec TrainRec) 4
  images : Vector (Option Image) 2
  /-- Slots of the persisted log, the oldest first (R682). -/
  logSlots : List (NvCopy (List LogEntry))
  /-- Flash size in Mbit, 256 or 512 (R645). -/
  mbit : Nat
  queue : List Commit
  busy : Option Commit
  /-- Deferred commits of the firmware's own, and since when (R654). -/
  deferred : List Commit
  deferredAt : Nat
  nextTicket : Nat
deriving DecidableEq, Repr

/-- A firmware swap in progress (R660). -/
structure Swap where
  /-- 1 standby restarting, 2 waiting for the latch, 3 handover due or performed, 4 boot record commit. -/
  step : Nat
  head : Nat
  raiseSvn : Bool
  since : Nat
  oldVersion : Nat
  slot : Nat
  /-- Version and SVN of the image that the swap brings in. -/
  version : Nat
  svn : Nat
  /-- Start of the service pause, and its length in µs once it is over (R662). -/
  pauseAt : Nat
  pauseUs : Nat
deriving DecidableEq, Repr

/-- Power, reset and boot beside the PWR page (R638 to R669, R694). -/
structure Power where
  porstHigh : Bool
  railsGood : Bool
  tripped : Bool
  /-- The cycles in which PORST_N was last asserted and in which the last thermal trip came (coincidences at the supplies). -/
  porstAt : Option Nat
  tripAt : Option Nat
  /-- DEVICE_RESET is due at this time (R669). -/
  resetDue : Option Nat
  /-- PORST_N rose, or the main die was released, at this time (BOOT_MS). -/
  bootAt : Nat
  /-- Slot of the image that is loaded in the staged code area, and that image's version and SVN (R658). -/
  staged : Option Nat
  stagedIs : Nat × Nat
  swap : Option Swap
  fallback : Bool
  /-- TEMP_MAX holds a reading that was taken since it was last read (R664). -/
  tempSeen : Bool
deriving DecidableEq, Repr

/-- Device time (R627): nanoseconds since the epoch, and the fraction of a nanosecond in units of 10⁻⁹ ns that FREQ_ADJ has
accumulated. -/
structure DevTime where
  ns : Nat
  frac : Int
deriving DecidableEq, Repr

/-- A head's timing as it runs: it takes effect at a frame start (R218, R234). `latch` is the effective LATCH_LINE (R220). -/
structure Timing where
  hActive : Nat
  hTotal : Nat
  vActive : Nat
  vTotal : Nat
  lead : Nat
  latch : Nat
  num : Nat
  den : Nat
deriving DecidableEq, Repr

/-- A Forme entry of the frame that a latch has prepared (R129, R149): its layer, destination, blend mode and global alpha, whether
it is transparent by a check at the latch, and whether it counts as opaque. -/
structure HeadEntry where
  layer : Nat
  x : Nat
  y : Nat
  w : Nat
  h : Nat
  blend : Nat
  alpha : Nat
  hidden : Bool
  solid : Bool
  /-- The layer still composes in another head (R126). -/
  away : Bool
  /-- The layer's ROUTE names this head (R149). -/
  routed : Bool
deriving DecidableEq, Repr

/-- A pixel: A and three components of 16 bits, and the mark of R136. -/
structure Px where
  a : Nat
  c0 : Nat
  c1 : Nat
  c2 : Nat
  bad : Bool
deriving DecidableEq, Repr

/-- A 64 B line that a fetcher has staged (R222): the tag of its frame, the layer that reads it (64 for gain words), its address, its bytes
and whether it was poisoned, and where in the head's staging region it stands (none where the region has no room or is not placed, log 40). -/
structure StagedLine where
  tag : Nat
  layer : Nat
  addr : Nat
  data : List Byte
  poison : Bool
  at_ : Option Nat
deriving DecidableEq, Repr

/-- A line whose fetch has been made: tag of its frame, line, DDR5 bytes (R228), staging margin in pair cycles where it read DDR5 (R227). -/
structure FetchedLine where
  tag : Nat
  line : Nat
  bytes : Nat
  margin : Option Int
deriving DecidableEq, Repr

/-- FSYNC_OUTn as it acts in the current frame (R234, R248). -/
structure FsyncSet where
  en : Bool
  pol : Bool
  line : Nat
  width : Nat
deriving DecidableEq, Repr

/-- Write-back as it acts on the frame being composed (R234, R271 to R273). -/
structure WbSet where
  format : Nat
  point : Bool
  buffers : Nat
  base : Nat
  pitch : Nat
  stride : Nat
deriving DecidableEq, Repr

/-- A mode change of a running head (R259, R719): the latch has made it live; start of the hold and of the ramp; whether the
status is APPLIED_LATE; whether the head rests in Reef mode; the SET_TIMING that asked for it, and its response so far. -/
structure ModeChange where
  live : Bool
  holdAt : Nat
  rampUs : Nat
  late : Bool
  reef : Bool
  /-- CMP_KHZ of the command as it acts (R612). -/
  khz : Nat
  /-- Step 4 has been performed. -/
  ramped : Bool
  /-- Frame number of step 6, once it is known. -/
  frame : Nat
  cmd : FwCmd
  resp : List Byte
deriving DecidableEq, Repr

/-- A head beside its registers. -/
structure HeadState where
  /-- The timing generator runs. -/
  gen : Bool
  /-- The current frame is composed. -/
  composing : Bool
  tim : Timing
  /-- Timing of the frame whose lines are composed, and whether that frame has been prepared but not started (R223). -/
  ctim : Timing
  early : Bool
  line : Nat
  winAt : Nat
  /-- Device time of the frame start, and the number of the frame whose lines are composed. -/
  frameNs : Nat
  frame : Nat
  /-- A frame has been counted since device reset; number of the last one. -/
  counted : Bool
  lastCounted : Nat
  /-- FRAME0 written since the last latch; a latch has made such a value live (R245). -/
  frame0New : Bool
  frame0Live : Bool
  /-- The firmware is to choose FRAME0 for the timing that comes live (R257). -/
  frame0Auto : Bool
  /-- A latch is due; whether it takes a commit. -/
  latchDue : Bool
  latchTakes : Bool
  /-- Latches of its own that pass before a pending commit becomes live (R239). -/
  skip : Nat
  /-- The head stops at the end of its frame; a restart is requested, since a time. -/
  stopDue : Bool
  restart : Option Nat
  /-- The first frame after a restart is being composed. -/
  firstFrame : Bool
  /-- A re-phase holds the head (R244). -/
  rephase : Bool
  mode : Option ModeChange
  entries : List HeadEntry
  /-- The map has failed its check (R334), and the ports that serve the head (R721). -/
  mapBad : Bool
  ports : List Nat
  /-- Line being composed, next map entry for it, columns composed of it, lines whose fetch has been made and what stands staged, the
  newest first (R222, R224, R228, R230, R294); FETCH_LEAD of the frame before (R234). -/
  nextLine : Nat
  mapIdx : Nat
  doneX : Nat
  fetched : List FetchedLine
  staged : List StagedLine
  leadWas : Nat
  /-- Last composed pixel (R230). -/
  lastPx : Option (Nat × Nat × Nat × Nat)
  /-- Number of the last completed frame (HOLD and RELEASE bodies). -/
  lastDone : Nat
  /-- Counts composed frames; a slug carries it, so that it waits for its FRAME_START (R299). -/
  tag : Nat
  /-- Slugs of each CAB_ID in this frame (R304), dead lamps, slugs, smallest slack and its line, largest bytes of a line. -/
  slugIdx : List (Nat × Nat)
  dead : Nat
  slugs : Nat
  slackMin : Nat
  slackLine : Nat
  bytesMax : Nat
  /-- Smallest staging margin of the frame (R227). -/
  stageMin : Option Int
  /-- FSYNC as it acts, and the line windows that its pulse still lasts (R248). -/
  fs : FsyncSet
  pulse : Nat
  /-- Write-back of this frame: on, complete so far, lines in the queue, lines written (R274, R275). -/
  wbOn : Bool
  wbWhole : Bool
  wbQueued : List (Nat × List Byte)
  wbDone : Nat
  wbFrame : Nat
  wb : WbSet
  /-- Reef mode was entered with DEEP (R268); the generator stops with the frame (R253). -/
  deepIn : Bool
  genDue : Bool
  /-- B_h of the live admitted plan and of the pending one (R141). -/
  admLive : Nat
  admPend : Option Nat
  /-- Densum regions: staging and output queue, those that the next latch takes up (R720), and the two map areas (R329). -/
  stage : Option Nat
  out : Option Nat
  stageNew : Option (Option Nat)
  outNew : Option (Option Nat)
  /-- A new output queue waits for the slugs of the frame before (R720). -/
  outWait : Bool
  mapAreas : Option (Nat × Nat)
deriving DecidableEq, Repr

/-- A layer beside its registers: frame of its stream that it has latched last, or reads from a line ring (its number there; R132,
R358), buffer held (R351), source kind and stream of both, windows left under WAIT with the head (R133), Galley regions: the one in the
shadow, the live one kept to the latch, and that of a pending commit behind which the shadow one was defined (R113, R184). -/
structure LayerState where
  shown : Option Nat
  held : Option Nat
  source : Option (Nat × Nat)
  waiting : Option (Nat × Nat)
  /-- Line of its head whose cut-off has passed (R356). -/
  cut : Option Nat
  galley : Option Nat
  oldGalley : Option Nat
  midGalley : Option Nat
  /-- Whether LAYER_DEFINE has given the layer a Galley behind a pending commit, which takes the one of `midGalley` (R114, R184). -/
  galleyBehind : Bool
  /-- Rows in the Galley, the newest first, 8 at most: number and pixels (R181). -/
  rows : List (Nat × List Px)
  /-- Due rows read from a line ring, the newest first, with the row read for each (R135, R356). -/
  ringMap : List (Nat × Nat)
deriving DecidableEq, Repr

/-- An access to a LUT window that is held (R208); `behind` marks a write of a command that a pending commit is not to take (R114). -/
inductive LutAccess where
  | read (req : Requester) (off : Nat)
  /-- A host read through BAR4 of so many bytes, of which a word lies in the window. -/
  | window (off len : Nat)
  | write (off : Nat) (val : Word) (behind : Bool)
deriving DecidableEq, Repr

/-- A LUT window of which the second copy is being brought up to date (R208): end of the time, and the accesses held. -/
structure LutSync where
  until_ : Option Nat
  held : List LutAccess
deriving DecidableEq, Repr

/-- A slug in an output queue (R294 to R306): its head, the frame's tag, destination address, header and payload, whether it is
fed by the pair, the entry's PORT, and where its payload stands in Densum (none where the head has no room or no region). -/
structure Slug where
  head : Nat
  tag : Nat
  dst : List Byte
  body : List Byte
  pair : Bool
  port : Nat
  at_ : Option Nat
deriving DecidableEq, Repr

/-- A control frame in Q7 of a Sheet port: 1 FRAME_START, 2 HOLD, 3 RELEASE (table of R306); `time` and `depth` are those of a
FRAME_START. -/
structure CtrlFrame where
  type : Nat
  head : Nat
  tag : Nat
  frame : Nat
  time : Nat
  depth : Nat
deriving DecidableEq, Repr

/-- A PING in Q6: its token, destination, and whether it is a continuity probe. -/
structure PingFrame where
  token : Nat
  dst : List Byte
  probe : Bool
deriving DecidableEq, Repr

/-- A Sheet port beside its registers. -/
structure SheetPort where
  q7 : List CtrlFrame
  q6 : List PingFrame
  qh : Vector (List Slug) 4
  /-- Head served last (R459). -/
  served : Nat
  /-- Tag of the last FRAME_START sent, by head. -/
  started : Vector Nat 4
  /-- STATUS frames received, with their device time (R316). -/
  rx : List (List Byte × Nat)
  /-- The probes that await their arrival, the oldest first: token, time sent; missing probes in a row; probe received since the break
  (R321, R322). -/
  probes : List (Nat × Nat)
  missing : Nat
  heard : Bool
  lastProbe : Nat
  /-- When the pair declared the break that stands, on its even port (R322). -/
  broken : Option Nat
  nextToken : Nat
deriving DecidableEq, Repr

/-- One byte of a pixel on its way to memory: address, value, and the bits of it that count. -/
structure PixWrite where
  addr : Nat
  val : Nat
  mask : Nat
deriving DecidableEq, Repr

/-- The frame that a stream is receiving (R347, R352): its number among the stream's frames, RTP timestamp, buffer (none when it is discarded or not
stored), lowest and highest sequence number accepted and how many, device time of the last packet of row 0 (R360). -/
structure RxVideo where
  num : Nat
  ts : Nat
  buf : Option Nat
  firstSeq : Nat
  lastSeq : Nat
  got : Nat
  arrival : Option Nat
deriving DecidableEq, Repr

/-- The newest complete frame of a stream: its number, buffer, whether a layer has latched it (R351, R352). -/
structure DoneVideo where
  num : Nat
  buf : Option Nat
  latched : Bool
  damaged : Bool
deriving DecidableEq, Repr

/-- A stream beside its registers (R341 to R365). -/
structure Stream where
  cur : Option RxVideo
  newest : Option DoneVideo
  nextNum : Nat
  /-- RTP timestamp of the frame completed last; buffers that hold complete frames which no layer has latched (R352). -/
  lastTs : Option Nat
  stale : List Nat
  /-- Rows that are being received for the line ring, the oldest first: number of the frame, row, bytes (R354). -/
  row : List (Nat × Nat × List PixWrite)
  /-- Newest sequence number accepted, those accepted within 4,096 behind it, and how many numbers since the first one accepted
  lie in that window (R362, R363). -/
  seqTop : Option Nat
  seqs : List Nat
  span : Nat
  lastPkt : Nat
  legAt : Vector Nat 2
  bucket : Bucket
  /-- Line ring, the row written last first: slot, number of the frame (which stands for its RTP timestamp) and row (R354). -/
  slots : List (Nat × Nat × Nat)
  region : Option Nat
  staging : Option Nat
deriving DecidableEq, Repr

/-- A packet that a port has passed to the firmware, with its device time (R337, R369). -/
structure NetPacket where
  bytes : List Byte
  at_ : Nat
deriving DecidableEq, Repr

/-- A foreign master as a port hears it (R369): port identity (ten bytes), data set for the comparison, ingest port, interval of its
Announces in ns, and the times of its latest two, the newer first. -/
structure Foreign where
  id : List Byte
  domain : Nat
  dataset : List Byte
  port : Nat
  interval : Nat
  heard : Nat × Option Nat
deriving DecidableEq, Repr

/-- The slave clock (R368, R369, R629): master chosen (port identity, ten bytes), its data set for the comparison, exchange under
way, exchanges in a row below and at or above the limits, time of the last exchange. -/
structure Ptp where
  master : Option (List Byte)
  dataset : List Byte
  foreign : List Foreign
  syncSeq : Option Nat
  t1 : Option Nat
  t2 : Nat
  corr : Int
  t3 : Option (Nat × Nat)
  good : Nat
  poor : Nat
  lastAt : Nat
  /-- Interval of the master's Sync messages in ns. -/
  interval : Nat
  reqSeq : Nat
deriving DecidableEq, Repr

/-- Ingest beside its registers. -/
structure Ingest where
  streams : Vector Stream 48
  net : Vector (List NetPacket) 4
  ptp : Ptp
  /-- Receive buffers ahead of parsing (R339). -/
  rx : Vector (List RxFrame) 4
deriving DecidableEq, Repr

/-- A head PLL beside its registers (R614 to R618, R621): start of lock acquisition; ramp under way: segment, its start, the offset at its
start in 2⁻⁴ ppb; the steering in ppb to which that of HPLLn.STEER moves, and since when; the moment at which outputs that SYNC has stopped
restart. -/
structure Pll where
  lockSince : Option Nat
  ramp : Option (Nat × Nat × Int)
  started : Nat
  steerTo : Int
  steerSince : Nat
  syncAt : Option Nat
deriving DecidableEq, Repr

/-- Clocks beside the TSY page: head PLLs; the last genlock edge accepted (its number, device time, `now`), the device times of up
to eight edges accepted before it, latest first (R625), and whether the next edge is accepted without a test; when a source was last in use and the FREQ_ADJ at which one was last tracked; settings of TIME_CONFIG; the last
offset of the selected source, those of PTP and of the ring, and a measured one that the firmware has not used yet, with its source (R624, R628 to R634). -/
structure Clocks where
  plls : Vector Pll 4
  edge : Option (Nat × Nat × Nat)
  edges : List Nat
  first : Bool
  trackedAt : Option Nat
  trackedPpb : Int
  holdover : Nat
  slewMax : Nat
  stepThresh : Nat
  lastOffset : Int
  ptpOffset : Int
  ringOffset : Int
  fresh : Option (Nat × Int)
deriving DecidableEq, Repr

/-- What a DMA channel is doing while it is ACTIVE or HALTED (R574, R583, R586): its descriptor read is under way since a time;
its next burst may start; a burst is under way since a time; its descriptor is to be written back. -/
inductive DmaPhase where
  | none
  | fetch (since : Nat)
  | ready
  | burst (since : Nat)
  | again
  | done (since : Nat)
deriving DecidableEq, Repr

/-- A DMA channel beside its registers: the descriptor it executes, bursts done of it, doorbell latch (R579), descriptors completed
without INT in a row (R580), mismatch offset and poison met (R572, R573). -/
structure DmaChan where
  phase : DmaPhase
  desc : List Byte
  bursts : Nat
  latch : Bool
  unint : Nat
  mismatch : Option Nat
  poison : Bool
deriving DecidableEq, Repr

/-- What the raster engine is doing (R590, R600, R601): its command read is under way; rows are drawn; it waits for a line of a head;
its command is to be written back with an error code. -/
inductive BltPhase where
  | none
  | fetch (since : Nat)
  | rows (since : Nat)
  | wait (head : Nat) (line : Nat)
  | done (err : Nat)
deriving DecidableEq, Repr

/-- The raster operation engine beside its registers: its command, the pattern read at its start and which of its lines were poisoned,
the source pixels copied at its start where rows share bytes (R596), doorbell latch, abort requested, poison met, NOT_RUNNING. -/
structure Blt where
  phase : BltPhase
  cmd : List Byte
  pat : List Byte
  patPoison : List Bool
  snap : List (Nat × Bool)
  latch : Bool
  abort : Bool
  poison : Bool
  notRunning : Bool
deriving DecidableEq, Repr

/-- What the device sends and answers, in order: the model's record of its outputs (log 7). -/
inductive Output where
  /-- An MSI-X message of a vector (R93). -/
  | msix (vec : Nat) (addr : Nat) (data : Word)
  /-- A PCIe internal error message: correctable or non-fatal uncorrectable (R680). -/
  | aer (uncorrectable : Bool)
  /-- The answer to a register read (R49). -/
  | regRead (req : Requester) (off : Nat) (val : Word)
  /-- The pin THERMTRIP_N is asserted or released (R666). -/
  | thermTrip (asserted : Bool)
  /-- The pin DIMM_PWR_ENn changes its level (R518). -/
  | dimmPower (slot : Nat) (on : Bool)
  /-- A DDR5 channel mitigates a row: a DRFM command for the row, or a refresh management command to the bank (R544). -/
  | ddrMitigate (c bank row : Nat) (drfm : Bool)
  /-- The completion of a host read through BAR2 or BAR4: data and EP bit (R47, R62). -/
  | hostRead (data : List Byte) (ep : Bool)
  /-- The answer to a Densum read: data, poison, error response (R487). -/
  | dsmRead (req : Nat) (data : List Byte) (poison : Bool) (err : Bool)
  /-- The error response to a refused Densum write (R474). -/
  | dsmWriteErr (req : Nat) (addr : Nat)
  /-- The answer to a DDR5 line access: its number, data, poison, error response (R549). -/
  | ddrAnswer (id : Nat) (data : List Byte) (poison : Bool) (err : Bool)
  /-- A Halyard frame, with its CRC, sent by a ring port (R381). -/
  | ringTx (port : Nat) (frame : List Byte)
  /-- An Ethernet frame, with its FCS, sent by a Sheet port (R302). -/
  | sheetTx (port : Nat) (frame : List Byte)
  /-- An Ethernet frame sent by an ingest port for the firmware (R368 to R371), without FCS. -/
  | ingestTx (port : Nat) (frame : List Byte)
  /-- A ring port starts or stops sending Remote Fault (R410). -/
  | remoteFault (port : Nat) (on : Bool)
  /-- ZQ calibration of a slot's DRAM devices and initialisation of its RCD through its control words (R520, step 1). -/
  | dimmInit (slot : Nat)
  /-- The level of FSYNC_OUTn (R248). -/
  | fsync (n : Nat) (high : Bool)
deriving DecidableEq, Repr

/-- The whole machine. -/
structure State where
  /-- The model's queue of waiting commands, first in, first out. -/
  pending : List Instr
  part : Part
  fuses : Fuses
  /-- Nanoseconds since reset, on a clock that never steps (log 1). -/
  now : Nat
  /-- How many free values have been taken (log 6). -/
  freeCtr : Nat
  /-- Registers by BAR0 offset; no entry where the register holds its reset word (R48). -/
  regs : List (Nat × Word)
  /-- Live copies of shadowed registers by BAR0 offset (R127, R233). -/
  live : List (Nat × Word)
  /-- Shadow words by BAR0 offset that a pending commit still takes, though a command has written the register since (R114). -/
  back : List (Nat × Word)
  /-- Registers, by BAR0 offset, that the host has written at expert level, of those that the firmware rewrites of its own accord, until
  a command covers them (R33). -/
  hostRegs : List Nat
  /-- Words captured for the next read of the matching HI register (R245, R468, R627). -/
  capture : List (Nat × Word)
  /-- Memory by device address (R19); P and Q lines of Densum beyond the address space (R470). -/
  mem : List Host.Cell
  /-- Poisoned lines of DDR5 and of the host window, by line address (R45). -/
  poisoned : List (Nat × Bool)
  out : List Output
  host : HostPort
  duplex : Duplex
  fw : Fw
  log : EventLog
  dsm : Densum
  ddr : Ddr
  ring : Ring
  shroud : Shroud
  nv : Nv
  power : Power
  time : DevTime
  heads : Vector HeadState 4
  layers : Vector LayerState 64
  /-- Pre-blend LUTs of VL0 to VL15, then the post-blend LUTs of HD0 to HD3. -/
  luts : Vector LutSync 20
  sheet : Vector SheetPort 16
  ingest : Ingest
  clocks : Clocks
  dma : Vector DmaChan 16
  dmaServed : Vector (Fin 16) 4
  blt : Blt
  /-- The main die is out of reset (R642). -/
  mainUp : Bool
deriving DecidableEq, Repr

/-! ### Reset (log 10) -/

/-- A bucket full for the largest BURST. -/
def bucketFull (kib : Nat) : Bucket := ⟨kib * 64 * 8000, 0⟩

/-- A DDR5 channel at reset. -/
def chanReset : DdrChan where
  rdQ := []
  wrQ := []
  stalled := []
  flight := []
  recent := []
  due := Vector.replicate 8 0
  postponed := Vector.replicate 8 0
  refAt := Vector.replicate 2 0
  acts := []
  beActs := []
  cuts := []
  beWait := 0
  rr := 0
  rrLeft := 0
  lastAccess := 0
  spd := none
  phase := .none
  drift := []
  weak := []
  badSince := false
  oscBase := []
  oscAt := 0
  polledAt := 0
  mitigate := []
  taken := []
  bad := []
  own := []
  tRfc1 := 0
  rfm := 0
  resilver := none
  retiring := false

/-- A ring port at reset. -/
def ringPortReset : RingPort where
  lostAt := none
  fault := false
  sendsRf := false
  hearsRf := false
  uncorr := []
  cleanSince := none
  unwrapAt := none
  pdHist := []
  pdOpen := none
  pdId := 0
  pdLast := 0
  transit := []
  queues := Vector.replicate 8 []
  qKib := Vector.replicate 7 64
  shapers := Vector.replicate 7 (bucketFull 33)
  deficit := Vector.replicate 5 0
  visit := 0
  inVisit := false
  oper := none
  pend := none
  rx := []
  rxKib := 64
  qRegions := []
  badAt := none

/-- Timing that no frame start has loaded yet. -/
def timingReset : Timing := ⟨0, 0, 0, 0, 0, 0, 0, 1⟩

/-- A head at reset. -/
def headReset : HeadState where
  gen := false
  composing := false
  tim := timingReset
  ctim := timingReset
  early := false
  line := 0
  winAt := 0
  frameNs := 0
  frame := 0
  counted := false
  lastCounted := 0
  frame0New := false
  frame0Live := false
  frame0Auto := false
  latchDue := false
  latchTakes := false
  skip := 0
  stopDue := false
  restart := none
  firstFrame := false
  rephase := false
  mode := none
  entries := []
  mapBad := false
  ports := []
  nextLine := 0
  mapIdx := 0
  doneX := 0
  fetched := []
  staged := []
  leadWas := 0
  lastPx := none
  lastDone := 0
  tag := 0
  slugIdx := []
  dead := 0
  slugs := 0
  slackMin := 65535
  slackLine := 0
  bytesMax := 0
  stageMin := none
  fs := ⟨false, false, 0, 1⟩
  pulse := 0
  wbOn := false
  wbWhole := false
  wbQueued := []
  wbDone := 0
  wbFrame := 0
  wb := ⟨0, false, 1, 0, 0, 0⟩
  deepIn := false
  genDue := false
  admLive := 0
  admPend := none
  stage := none
  out := none
  stageNew := none
  outNew := none
  outWait := false
  mapAreas := none

/-- A Sheet port at reset. -/
def sheetReset : SheetPort where
  q7 := []
  q6 := []
  qh := Vector.replicate 4 []
  served := 0
  started := Vector.replicate 4 0
  rx := []
  probes := []
  missing := 0
  heard := false
  lastProbe := 0
  broken := none
  nextToken := 0

/-- A stream at reset. -/
def streamReset0 : Stream where
  cur := none
  newest := none
  nextNum := 0
  lastTs := none
  stale := []
  row := []
  seqTop := none
  seqs := []
  span := 0
  lastPkt := 0
  legAt := Vector.replicate 2 0
  bucket := ⟨0, 0⟩
  slots := []
  region := none
  staging := none

/-- The machine right after reset: the main die has just been released, nothing has run, no memory is written, every register
holds its reset word (log 10). -/
def State.reset : State where
  pending := []
  part := .sgn7240
  fuses := ⟨0, 0xB0, 0, 0, Vector.replicate 16 0, Vector.replicate 4 0, []⟩
  now := 0
  freeCtr := 0
  regs := []
  live := []
  back := []
  hostRegs := []
  capture := []
  mem := []
  poisoned := []
  out := []
  host := ⟨Vector.replicate 64 ⟨0, 0, true⟩, Vector.replicate 64 false, true, true⟩
  duplex := ⟨false, 0, none, false, false⟩
  fw := ⟨[], [], [], [], [], []⟩
  log := ⟨[], [], [], 0⟩
  dsm := ⟨[], [], [], Vector.replicate 64 0, [], [], none, none⟩
  ddr := ⟨Vector.replicate 4 chanReset, 0, 0, none, none, false, [], none, none, Vector.replicate 9 0, Vector.replicate 9 0, Vector.replicate 9 none, 0⟩
  ring := {
    ports := Vector.replicate 2 ringPortReset
    members := []
    heard := []
    wrapEnds := []
    unwraps := []
    seqTx := []
    firstPort := []
    eastOrder := []
    lastBeacon := 0
    lastSync := 0
    syncUsed := none
    syncUsedAt := 0
    join := none
    leaving := false
    bulkTx := []
    bulkRx := []
    nextXfer := 0
    relays := Vector.replicate 4 none
    hzDelays := Vector.replicate 2 0
    policers := Vector.replicate 64 (bucketFull 16) }
  shroud := ⟨false, false, 0, 0, 0, false, false, false, none⟩
  nv := {
    boot := ⟨.erased, .erased⟩
    config := ⟨.erased, .erased⟩
    inForce := ⟨1, 8, false, false, 2, List.replicate 9 0⟩
    softMap := ⟨.erased, .erased⟩
    training := Vector.replicate 4 ⟨.erased, .erased⟩
    images := #v[some ⟨1, 0, 0x40000, 0x300000, 1, 0, 769, 769, true⟩, none]
    logSlots := []
    mbit := 256
    queue := []
    busy := none
    deferred := []
    deferredAt := 0
    nextTicket := 0 }
  power := ⟨true, true, false, none, none, none, 0, none, (0, 0), none, false, false⟩
  time := ⟨0, 0⟩
  heads := Vector.replicate 4 headReset
  layers := Vector.replicate 64 ⟨none, none, none, none, none, none, none, none, false, [], []⟩
  luts := Vector.replicate 20 ⟨none, []⟩
  sheet := Vector.replicate 16 sheetReset
  ingest := ⟨Vector.replicate 48 streamReset0, Vector.replicate 4 [], ⟨none, [], [], none, none, 0, 0, none, 0, 0, 0, 0, 0⟩, Vector.replicate 4 []⟩
  clocks := ⟨Vector.replicate 4 ⟨none, none, 0, 0, 0, none⟩, none, [], true, none, 0, 1, 20, 1, 0, 0, 0, none⟩
  dma := Vector.replicate 16 ⟨.none, [], 0, false, 0, none, false⟩
  dmaServed := .replicate 4 15
  blt := ⟨.none, [], [], [], [], false, false, false, false⟩
  mainUp := true

end Sys2Proof.Machine
end

