-- ==== Sys2Proof/Machine/Ops.lean ====
section
/-! DEFINITION. The named operations every command shares: sparse maps in canonical form, registers and their fields, interrupt
causes, event reports, memory bytes, byte order. -/

namespace Sys2Proof.Machine

/-! ### Sparse maps: keys strictly rising, no entry equal to the default -/

/-- The value at a key. -/
def Sparse.get {α : Type} (d : Nat → α) : List (Nat × α) → Nat → α
  | [], k => d k
  | (a, v) :: t, k => if k < a then d k else if k = a then v else Sparse.get d t k

/-- The map with a value at a key; an entry equal to the default is dropped. -/
def Sparse.put {α : Type} [DecidableEq α] (d : Nat → α) : List (Nat × α) → Nat → α → List (Nat × α)
  | [], k, v => if v = d k then [] else [(k, v)]
  | (a, w) :: t, k, v =>
    if k < a then (if v = d k then (a, w) :: t else (k, v) :: (a, w) :: t)
    else if k = a then (if v = d k then t else (k, v) :: t)
    else (a, w) :: Sparse.put d t k v

/-- The canonical form: every key above a bound, strictly rising, no entry equal to the default. -/
def Sparse.wfFrom {α : Type} [DecidableEq α] (d : Nat → α) : Nat → List (Nat × α) → Bool
  | _, [] => true
  | lo, (a, v) :: t => decide (lo ≤ a) && decide (v ≠ d a) && Sparse.wfFrom d (a + 1) t

/-- The canonical form of a whole map. -/
def Sparse.wf {α : Type} [DecidableEq α] (d : Nat → α) (l : List (Nat × α)) : Bool := Sparse.wfFrom d 0 l

/-! ### Byte order (R11) -/

/-- A number of `n` bytes, least significant byte first. -/
def leBytes : Nat → Nat → List Byte
  | 0, _ => []
  | n + 1, v => BitVec.ofNat 8 v :: leBytes n (v / 256)

/-- The number that bytes spell, least significant byte first. -/
def leNat : List Byte → Nat
  | [] => 0
  | b :: t => b.toNat + 256 * leNat t

/-- A number of `n` bytes, most significant byte first. -/
def beBytes (n v : Nat) : List Byte := (leBytes n v).reverse

/-- The number that bytes spell, most significant byte first. -/
def beNat (l : List Byte) : Nat := leNat l.reverse

/-- `n` bytes at an offset, zeros beyond the end. -/
def slice (l : List Byte) (off n : Nat) : List Byte :=
  let t := (l.drop off).take n
  t ++ List.replicate (n - t.length) 0

/-- Field of a little-endian structure at an offset (R11). -/
def leAt (l : List Byte) (off n : Nat) : Nat := leNat (slice l off n)

/-- Field of a frame on the wire at an offset (R11). -/
def beAt (l : List Byte) (off n : Nat) : Nat := beNat (slice l off n)

/-- Bits [hi:lo] of a number (R9). -/
def bits (v hi lo : Nat) : Nat := (v / 2 ^ lo) % 2 ^ (hi - lo + 1)

/-- Bit `i` of a number. -/
def bitAt (v i : Nat) : Bool := v.testBit i

/-- The signed number that `w` bits spell in two's complement. -/
def sext (w v : Nat) : Int := let u := v % 2 ^ w; if u < 2 ^ (w - 1) then (u : Int) else (u : Int) - (2 ^ w : Nat)

/-- `w` bits of a signed number in two's complement. -/
def wrap (w : Nat) (v : Int) : Nat := (v % (2 ^ w : Nat)).toNat

/-- ⌈a / b⌉. -/
def ceilDiv (a b : Nat) : Nat := (a + b - 1) / b

/-- 1 for true. -/
def b2n (b : Bool) : Nat := if b then 1 else 0

/-! ### Fields of a word -/

/-- The value of a field in a word. -/
def Fld.get (f : Fld) (w : Word) : Nat := (w.toNat >>> f.lsb) % 2 ^ f.width

/-- The mask of a field. -/
def Fld.mask (f : Fld) : Word := BitVec.ofNat 32 (2 ^ f.width - 1) <<< f.lsb

/-- The word with a field set. -/
def Fld.put (f : Fld) (w : Word) (v : Nat) : Word :=
  (w &&& ~~~ f.mask) ||| ((BitVec.ofNat 32 v <<< f.lsb) &&& f.mask)

/-! ### Registers -/

/-- The word a register holds (its shadow copy, where it is shadowed). -/
def State.reg (s : State) (off : Nat) : Word := Sparse.get resetWord s.regs off

/-- Set a register. -/
def State.setReg (s : State) (off : Nat) (w : Word) : State := { s with regs := Sparse.put resetWord s.regs off w }

/-- The registers of the host's that the firmware rewrites of its own accord: FREQ_ADJ (R627), the registers of a join (R423) and the lane
delays (R523). -/
def ownReg (off : Nat) : Bool :=
  decide (off ∈ [TSY_FREQ_ADJ_PPB.off, HLY_TIME_CFG_PRIORITY.off, HLY_WRAP_CFG_HOLDOFF.off, HLY_BEACON_PERIOD.off, HLY_HORIZON_NS.off,
    HLY_CTRL_HW_EN.off]) ||
  (List.range 4).any fun c => decide ((DMC_LANE_DLY_WR c 0).off ≤ off ∧ off ≤ (DMC_LANE_DLY_WR c 79).off)

/-- The host has written a register at expert level (R33). -/
def State.hostTakes (s : State) (off : Nat) : State :=
  if ownReg off && !s.hostRegs.contains off then { s with hostRegs := off :: s.hostRegs } else s

/-- A command covers registers, which the firmware may rewrite again from then on (R33). -/
def State.commandCovers (s : State) (offs : List Nat) : State := { s with hostRegs := s.hostRegs.filter fun o => !offs.contains o }

/-- The firmware rewrites a register of its own accord, unless the host has written it at expert level (R33). -/
def State.setRegOwn (s : State) (off : Nat) (w : Word) : State := if s.hostRegs.contains off then s else s.setReg off w

/-- The live copy of a shadowed register. -/
def State.lreg (s : State) (off : Nat) : Word := Sparse.get resetWord s.live off

/-- Set a live copy. -/
def State.setLive (s : State) (off : Nat) (w : Word) : State := { s with live := Sparse.put resetWord s.live off w }

/-- A field of a register. -/
def State.rd (s : State) (f : Fld) : Nat := f.get (s.reg f.off)

/-- Set a field of a register. -/
def State.wr (s : State) (f : Fld) (v : Nat) : State := s.setReg f.off (f.put (s.reg f.off) v)

/-- The same for a write of the firmware's own (R33). -/
def State.wrOwn (s : State) (f : Fld) (v : Nat) : State := if s.hostRegs.contains f.off then s else s.wr f v

/-- A field of a live copy. -/
def State.lrd (s : State) (f : Fld) : Nat := f.get (s.lreg f.off)

/-- A one-bit field as a flag. -/
def State.flag (s : State) (f : Fld) : Bool := s.rd f != 0

/-- A one-bit field of a live copy as a flag. -/
def State.lflag (s : State) (f : Fld) : Bool := s.lrd f != 0

/-- A counter field that stops at its highest value (R57, R69, R226, R513). -/
def State.count (s : State) (f : Fld) (n : Nat) : State := s.wr f (min (s.rd f + n) (2 ^ f.width - 1))

/-- Make every register of a range of offsets live. -/
def State.latchRange (s : State) (lo hi : Nat) : State :=
  let ks := ((s.live.map Prod.fst) ++ (s.regs.map Prod.fst)).filter fun k => decide (lo ≤ k ∧ k < hi)
  ks.foldl (fun t k => t.setLive k (s.reg k)) s

/-- A latch makes the shadow words of a range live; a word that a command wrote behind the pending commit stays in the shadow, and the
word before it becomes live (R114). -/
def State.latchLive (s : State) (lo hi : Nat) : State :=
  let ks := ((s.live.map Prod.fst) ++ (s.regs.map Prod.fst) ++ (s.back.map Prod.fst)).filter fun k => decide (lo ≤ k ∧ k < hi)
  let t := ks.foldl (fun t k => t.setLive k ((s.back.lookup k).getD (s.reg k))) s
  { t with back := s.back.filter fun e => !decide (lo ≤ e.1 ∧ e.1 < hi) }

/-- Apply a function when a condition holds. -/
def State.when (s : State) (c : Bool) (f : State → State) : State := if c then f s else s

/-- Record an output. -/
def State.emit (s : State) (o : Output) : State := { s with out := s.out ++ [o] }

/-- Take one free value (log 6). -/
def State.freeNat (s : State) : Nat × State := (Config.freeNat s.freeCtr, { s with freeCtr := s.freeCtr + 1 })

/-- The data of a line that an error response returns: the spec says that it is poisoned and states no bytes (R20, log 6). -/
def State.freeLine (s : State) : List Byte × State := (leBytes 64 s.freeNat.1, s.freeNat.2)

/-! ### The two parts (R1, R2, R714) -/

/-- Heads present. -/
def State.nHeads (s : State) : Nat := if s.part = .sgn7240 then 4 else 2
/-- Video layers present. -/
def State.nVideo (s : State) : Nat := if s.part = .sgn7240 then 16 else 8
/-- Graphic layers present. -/
def State.nGraphic (s : State) : Nat := if s.part = .sgn7240 then 48 else 24
/-- Sheet ports present. -/
def State.nSheet (s : State) : Nat := if s.part = .sgn7240 then 16 else 8
/-- DDR5 channels present. -/
def State.nDdr (s : State) : Nat := if s.part = .sgn7240 then 4 else 2

/-- Whether a layer number (0 to 15 VL, 16 to 63 GL) is present. -/
def State.hasLayer (s : State) (l : Nat) : Bool :=
  if l < 16 then decide (l < s.nVideo) else decide (l < 64 ∧ l - 16 < s.nGraphic)

/-! ### Device time (R627) -/

/-- Seconds of device time. -/
def State.timeSec (s : State) : Nat := s.time.ns / 1000000000
/-- Nanoseconds of device time. -/
def State.timeNs (s : State) : Nat := s.time.ns % 1000000000

/-! ### Interrupts (R91 to R94) -/

/-- A cause bit and the vector it belongs to: offset of the status register, bit, vector. -/
structure Cause where
  off : Nat
  bit : Nat
  vec : Nat
deriving DecidableEq, Repr

/-- The causes of each vector: offset of the status register, offset of the enable register, mask of the bits (R91, R92). -/
def vecSrc (v : Nat) : List (Nat × Nat × Nat) :=
  if v = 0 then [(0x10004, 0x10008, 0xFFFF)]
  else if v = 1 then [(0x10004, 0x10008, 0xF0000)]
  else if v = 2 then [(0x180040, 0x180044, 0x1)]
  else if v = 3 then [(0x180040, 0x180044, 0x700)]
  else if v = 4 then [(0x58, 0x5C, 0x7)]
  else if v = 5 then [(0x190080, 0x190084, 0xF)]
  else if v = 6 then [(0x190080, 0x190084, 0x300)]
  else if 8 ≤ v ∧ v ≤ 11 then [(0x200A0 + (v - 8) * 0x10000, 0x200A4 + (v - 8) * 0x10000, 0x1F)]
  else if 12 ≤ v ∧ v ≤ 15 then [(0x200A0 + (v - 12) * 0x10000, 0x200A4 + (v - 12) * 0x10000, 0x1F00)]
  else if 16 ≤ v ∧ v ≤ 31 then [(0x12003C + (v - 16) * 0x80, 0x120040 + (v - 16) * 0x80, 0x1F)]
  else if v = 32 then [(0x130040, 0x130044, 0xF)]
  else if v = 33 then [(0x150500, 0x150504, 0xF)]
  else if v = 34 then [(0x150500, 0x150504, 0x300), (0x170780, 0x170784, 0x1FF)]
  else if v = 35 then [(0x160060, 0x160064, 0x7FF)]
  else if 36 ≤ v ∧ v ≤ 51 then [(0x140034 + (v - 36) * 0x1000, 0x140038 + (v - 36) * 0x1000, 0x7F)]
  else if v = 52 then [(0x110180, 0x110184, 0xFF), (0x114180, 0x114184, 0xFF), (0x118180, 0x118184, 0xFF), (0x11C180, 0x11C184, 0xFF)]
  else if v = 53 then [(0x100040, 0x100044, 0x7F)]
  else []

/-- The vectors whose causes stand in the register pair of an offset. -/
def vecsOf (off : Nat) : List Nat :=
  (List.range 64).filter fun v => (vecSrc v).any fun x => decide (x.1 = off ∨ x.2.1 = off)

/-- A vector's GLB.IRQ_STATUS bit: a cause both set and enabled (R92). -/
def State.irq (s : State) (v : Nat) : Bool :=
  (vecSrc v).any fun x => (s.reg x.1 &&& s.reg x.2.1 &&& BitVec.ofNat 32 x.2.2) != 0

/-- Send a vector's message, or set its pending bit while it is masked (R93, R94). -/
def State.sendVec (s : State) (v : Nat) : State :=
  if h : v < 64 then
    let e := s.host.msix[v]
    if e.masked then { s with host := { s.host with pba := s.host.pba.set v true } }
    else s.emit (.msix v e.addr e.data)
  else s

/-- A vector with no cause left drops its pending bit, as PCI Express asks of a masked vector (R94, log 14). -/
def State.settleVec (s : State) (v : Nat) : State :=
  if h : v < 64 then (if s.irq v then s else { s with host := { s.host with pba := s.host.pba.set v false } }) else s

/-- Set a register that holds causes or enables, and send the message of a vector whose status bit rises (R93). -/
def State.setIrqReg (s : State) (off : Nat) (w : Word) : State :=
  (vecsOf off).foldl (fun t v => if !s.irq v && t.irq v then t.sendVec v else t.settleVec v) (s.setReg off w)

/-- Set a cause (R92, R93). -/
def State.setCause (s : State) (c : Cause) : State :=
  let t := s.setReg c.off (s.reg c.off ||| BitVec.ofNat 32 (2 ^ c.bit))
  if !s.irq c.vec && t.irq c.vec then t.sendVec c.vec else t

/-- Clear causes by a write of ones; a vector one of whose causes the write clears sends its message again when its status
bit is still 1 (R93). -/
def State.clearCauses (s : State) (off : Nat) (ones : Word) : State :=
  let old := s.reg off
  let t := s.setReg off (old &&& ~~~ ones)
  (vecsOf off).foldl (fun u v =>
    if ((vecSrc v).any fun x => decide (x.1 = off) && ((old &&& ones &&& BitVec.ofNat 32 x.2.2) != 0)) && t.irq v
    then u.sendVec v else u.settleVec v) t

/-- Host mailbox completion, bit `n` (R73, R91). -/
def causeMbx (n : Nat) : Cause := ⟨0x10004, n, 0⟩
/-- Ring mailbox completion. -/
def causeRingMbx (n : Nat) : Cause := ⟨0x10004, 16 + n, 1⟩
/-- Causes of the event log: 0 NEW, 8 UE, 9 FEC, 10 DROP (R679). -/
def causeEvt (b : Nat) : Cause := ⟨0x180040, b, if b = 0 then 2 else 3⟩
/-- Causes of the control cores: 0 TAKEOVER, 1 HANDOVER, 2 STANDBY_CHANGE. -/
def causeCore (b : Nat) : Cause := ⟨0x58, b, 4⟩
/-- Causes of PWR: 0 PWR_FAIL, 1 HOLDUP_DEFER, 2 BOOT_DONE, 3 NV_DEFAULT, 8 THERM_WARN, 9 THERM_OK. -/
def causePwr (b : Nat) : Cause := ⟨0x190080, b, if b < 8 then 5 else 6⟩
/-- Causes of a head: 0 to 4 frame, 8 to 12 line. -/
def causeHead (h b : Nat) : Cause := ⟨0x200A0 + h * 0x10000, b, if b < 8 then 8 + h else 12 + h⟩
/-- Causes of a DMA channel. -/
def causeDma (c b : Nat) : Cause := ⟨0x12003C + c * 0x80, b, 16 + c⟩
/-- Causes of the raster engine. -/
def causeBlt (b : Nat) : Cause := ⟨0x130040, b, 32⟩
/-- Causes of ingest and PTP: 0 to 3 ingest, 8 and 9 PTP. -/
def causeIng (b : Nat) : Cause := ⟨0x150500, b, if b < 8 then 33 else 34⟩
/-- Causes of TSY. -/
def causeTsy (b : Nat) : Cause := ⟨0x170780, b, 34⟩
/-- Causes of the ring and the Shroud. -/
def causeHly (b : Nat) : Cause := ⟨0x160060, b, 35⟩
/-- Causes of a Sheet port. -/
def causeSp (p b : Nat) : Cause := ⟨0x140034 + p * 0x1000, b, 36 + p⟩
/-- Causes of a DDR5 channel. -/
def causeDmc (c b : Nat) : Cause := ⟨0x110180 + c * 0x4000, b, 52⟩
/-- Causes of Densum. -/
def causeDsm (b : Nat) : Cause := ⟨0x100040, b, 53⟩

/-! ### Event reports (R671, R677) -/

/-- Class of an event code: 0 INFO, 1 WARNING, 2 CORRECTED, 3 UNCORRECTABLE (R677). -/
def evClass (code : Nat) : Nat :=
  if code ∈ [0x0304, 0x0502, 0x0601, 0x0605, 0x0608, 0x0706, 0x0729, 0x0903, 0x0A04] then 0
  else if code ∈ [0x0702, 0x0705, 0x0725, 0x0728] then 2
  else if code ∈ [0x0102, 0x0302, 0x0703, 0x0704, 0x0707, 0x0726, 0x0727] then 3
  else 1

def EV_FAILOVER : Nat := 0x0101
def EV_SIMPLEX_RESTART : Nat := 0x0102
def EV_PROT_BOUND : Nat := 0x0110
def EV_WINDOW_ERR : Nat := 0x0111
def EV_UNDERRUN : Nat := 0x0301
def EV_UNDERRUN_ADMITTED : Nat := 0x0302
def EV_ALIGN_LOST : Nat := 0x0303
def EV_REPHASE : Nat := 0x0304
def EV_HEAD_PLL_UNLOCK : Nat := 0x0305
def EV_SHEET_FAILOVER : Nat := 0x0401
def EV_SHEET_LOOP_LOST : Nat := 0x0402
def EV_STREAM_LOST : Nat := 0x0501
def EV_STREAM_UP : Nat := 0x0502
def EV_RING_MEMBER : Nat := 0x0601
def EV_RING_ID_CLASH : Nat := 0x0602
def EV_RING_HORIZON : Nat := 0x0603
def EV_RING_WRAP : Nat := 0x0604
def EV_RING_UNWRAP : Nat := 0x0605
def EV_RING_SPLIT : Nat := 0x0606
def EV_SHROUD_TAKEOVER : Nat := 0x0607
def EV_GATE_BASE_LATE : Nat := 0x0608
def EV_RING_POLICED : Nat := 0x0609
def EV_DSM_PERM : Nat := 0x0701
def EV_DSM_REBUILT : Nat := 0x0702
def EV_DSM_UE : Nat := 0x0703
def EV_SEAL_FAIL : Nat := 0x0704
def EV_LINE_WEAK : Nat := 0x0705
def EV_DSM_REPAIR : Nat := 0x0706
def EV_DSM_SELFTEST : Nat := 0x0707
def EV_DSM_OVERRIDE : Nat := 0x0708
def EV_DDR_POPULATION : Nat := 0x0721
def EV_DDR_DRIFT : Nat := 0x0722
def EV_DDR_HOT : Nat := 0x0723
def EV_DDR_HAMMER_BE : Nat := 0x0724
def EV_DDR_MIRROR_FIX : Nat := 0x0725
def EV_DDR_UE : Nat := 0x0726
def EV_DDR_CA_PARITY : Nat := 0x0727
def EV_DDR_DEVICE_WEAK : Nat := 0x0728
def EV_DDR_SLOT_RESTORED : Nat := 0x0729
def EV_GENLOCK_LOST : Nat := 0x0901
def EV_TIME_STEP : Nat := 0x0902
def EV_TIME_SOURCE : Nat := 0x0903
def EV_NV_DEFAULT : Nat := 0x0A01
def EV_BOOT_FALLBACK : Nat := 0x0A02
def EV_PWR_FAIL : Nat := 0x0A03
def EV_FW_SWAP : Nat := 0x0A04
def EV_FW_SWAP_FAIL : Nat := 0x0A05
def EV_THERMAL_WARN : Nat := 0x0A06

/-- SOURCE of a report: island number and index (R672). -/
def src (island index : Nat) : Nat := island * 256 + index

/-- Report an event: it enters the report queue of 64, or is dropped and counted in its class (R671); the drop sets cause DROP
(R676, log 41). -/
def State.report (s : State) (code source detail : Nat) : State :=
  if s.log.reports.length < 64 then
    { s with log := { s.log with reports := s.log.reports ++ [⟨code, source, detail⟩] } }
  else (s.count (EVT_DROPPED_COUNT (evClass code)) 1).setCause (causeEvt 10)

/-- DETAIL of the events that carry a device address and a requester bit (R672). -/
def detailAddr (addr reqBit cnt : Nat) : Nat := addr % 2 ^ 48 + (reqBit % 256) * 2 ^ 48 + (cnt % 256) * 2 ^ 56

/-! ### Memory bytes (R19) -/

/-- What an address that nothing has written reads as (log 4). -/
def memReset (_ : Nat) : Byte := 0

/-- One byte of memory. -/
def State.byte (s : State) (a : Nat) : Byte := Sparse.get memReset s.mem a

/-- Set one byte of memory. -/
def State.setByte (s : State) (a : Nat) (v : Byte) : State := { s with mem := Sparse.put memReset s.mem a v }

/-- The canonical form of memory. -/
def Memory.wf (m : List Host.Cell) : Bool := Sparse.wf memReset m

/-- `n` bytes from an address, as stored. -/
def State.bytes (s : State) (a n : Nat) : List Byte := (List.range n).map fun i => s.byte (a + i)

/-- Store bytes from an address on. -/
def State.setBytes : State → Nat → List Byte → State
  | s, _, [] => s
  | s, a, b :: t => (s.setByte a b).setBytes (a + 1) t

/-- Whether the line of an address in DDR5 or the host window carries poison. -/
def State.linePoison (s : State) (line : Nat) : Bool := Sparse.get (fun _ => false) s.poisoned line

/-- Set the poison of such a line. -/
def State.setLinePoison (s : State) (line : Nat) (p : Bool) : State :=
  { s with poisoned := Sparse.put (fun _ => false) s.poisoned line p }

end Sys2Proof.Machine
end

