-- ==== Sys2Proof/Machine/Densum.lean ====
section
/-! DEFINITION. The Densum controller (chapter "The Densum central store"): placement, regions, inner and outer code, poison,
recurrence, injection, live repair. -/

namespace Sys2Proof.Machine

/-- First device address of Densum (R19). -/
def dsmBase : Nat := 0x10000000000
/-- Bytes of Densum (R19). -/
def dsmSize : Nat := 0x8000000
/-- Where the model keeps the P line of a page, beyond the 48-bit address space (R470); the Q line stands 64 bytes on. -/
def parityBase : Nat := 0x1000000000000
/-- Whether a device address lies in Densum. -/
def inDsm (a : Nat) : Bool := decide (dsmBase ≤ a ∧ a < dsmBase + dsmSize)

/-! ### Placement (R469) -/

/-- Page of an offset within Densum. -/
def dsmPage (a : Nat) : Nat := bits a 26 12
/-- Line within its page. -/
def dsmLineOf (a : Nat) : Nat := bits a 11 6
/-- Data bank. -/
def dsmBank (a : Nat) : Nat := (dsmLineOf a + dsmPage a) % 64
/-- Bank row. -/
def dsmRow (a : Nat) : Nat := bits (dsmPage a) 14 4
/-- Column of the byte. -/
def dsmCol (a : Nat) : Nat := 8 * bits (dsmPage a) 3 0 + bits a 5 3

/-- Key in memory of line `i` of page `p`: i = 64 names the P line and 65 the Q line. -/
def lineKey (p i : Nat) : Nat := if i < 64 then dsmBase + p * 4096 + i * 64 else parityBase + p * 128 + (i - 64) * 64

/-- The lines (page, line index 0 to 65) that a row of a bank holds (R469, R470). -/
def rowLines (bank row : Nat) : List (Nat × Nat) :=
  (List.range 16).map fun sl =>
    let p := row * 16 + sl
    (p, if bank < 64 then (bank + 64 - p % 64) % 64 else bank)

/-- The byte keys that a row, or a column of a bank, covers (R469, R499). -/
def repairLines (bank : Nat) (column : Bool) (index : Nat) : List (Nat × Nat) :=
  if column then (List.range 2048).map fun r =>
      let p := r * 16 + index / 8
      (p, if bank < 64 then (bank + 64 - p % 64) % 64 else bank)
  else rowLines bank index

/-- Whether a byte key lies in the row or column under repair. -/
def repairHas (column : Bool) (index : Nat) (key : Nat) : Bool := !column || decide (key % 64 / 8 = index % 8)

/-! ### The inner code (R477 to R479) -/

/-- The 5 check bits of a byte. -/
def checkBits (d : Byte) : Nat :=
  let b := fun i => d.toNat.testBit i
  let c0 := (b 0).xor ((b 1).xor ((b 3).xor ((b 4).xor (b 6))))
  let c1 := (b 0).xor ((b 2).xor ((b 3).xor ((b 5).xor (b 6))))
  let c2 := (b 1).xor ((b 2).xor ((b 3).xor (b 7)))
  let c3 := (b 4).xor ((b 5).xor ((b 6).xor (b 7)))
  let par := (b 0).xor ((b 1).xor ((b 2).xor ((b 3).xor ((b 4).xor ((b 5).xor ((b 6).xor (b 7)))))))
  let c4 := par.xor (c3.xor (c2.xor (c1.xor c0)))
  b2n c0 + 2 * b2n c1 + 4 * b2n c2 + 8 * b2n c3 + 16 * b2n c4

/-- Parity of the lowest five bits. -/
def parity5 (v : Nat) : Nat := ((List.range 5).foldl (fun a i => a + b2n (v.testBit i)) 0) % 2

/-- Outcome of the inner code for one byte. -/
inductive ByteOut where
  | clean | corrected | bad
deriving DecidableEq, Repr

/-- Data bit at a Hamming position, none for a check bit (R477). -/
def hammingBit (pos : Nat) : Option Nat :=
  if pos = 3 then some 0 else if pos = 5 then some 1 else if pos = 6 then some 2 else if pos = 7 then some 3
  else if pos = 9 then some 4 else if pos = 10 then some 5 else if pos = 11 then some 6 else if pos = 12 then some 7 else none

/-- Decode one byte. `delta` is the XOR of the stored check bits with those of the stored byte, so that S is its low four bits;
the parity q of all 13 stored bits is the parity of `delta`, since a byte and its own check bits have even parity. -/
def decodeByte (d : Byte) (delta : Nat) : Byte × ByteOut :=
  let sy := delta % 16
  let q := parity5 delta
  if sy = 0 ∧ q = 0 then (d, .clean)
  else if sy = 0 then (d, .corrected)
  else if q = 1 ∧ sy ≤ 12 then
    (match hammingBit sy with | some i => d ^^^ BitVec.ofNat 8 (2 ^ i) | none => d, .corrected)
  else (d, .bad)

/-- A line as the inner code and the poison majority deliver it. -/
structure LineRead where
  data : List Byte
  corrected : Nat
  bad : Bool
  /-- First failing byte: its index, S and q. -/
  first : Option (Nat × Nat × Nat)
  poison : Bool
  poisonFix : Bool
deriving DecidableEq, Repr

/-- Stored check delta of a byte key. -/
def State.cerrAt (s : State) (k : Nat) : Nat := Sparse.get (fun _ => 0) s.dsm.cerr k

/-- Poison copies of a line key, three bits. -/
def State.poisonAt (s : State) (k : Nat) : Nat := Sparse.get (fun _ => 0) s.dsm.poison k

/-- Majority of three copies (R479). -/
def majority (c : Nat) : Bool := decide (2 ≤ b2n (c.testBit 0) + b2n (c.testBit 1) + b2n (c.testBit 2))

/-- Steps 1 of R477 to R479 for a line key. -/
def State.innerRead (s : State) (key : Nat) : LineRead :=
  let idx := List.range 64
  let dec := idx.map fun i => decodeByte (s.byte (key + i)) (s.cerrAt (key + i))
  let out := fun i => (dec.getD i (0, .clean)).2
  let c := s.poisonAt key
  { data := dec.map Prod.fst
    corrected := (idx.filter fun i => out i == .corrected).length
    bad := idx.any fun i => out i == .bad
    first := (idx.find? fun i => out i == .bad).map fun i =>
      (i, s.cerrAt (key + i) % 16, parity5 (s.cerrAt (key + i)))
    poison := majority c
    poisonFix := decide (c ≠ 0 ∧ c ≠ 7) }

/-! ### The outer code (R481, R482) -/

/-- Multiplication by g in GF(2⁸). -/
def gfX (a : Byte) : Byte := if a.toNat ≥ 128 then (a <<< 1) ^^^ 0x1D else a <<< 1

/-- gⁱ·a. -/
def gfShift : Nat → Byte → Byte
  | 0, a => a
  | i + 1, a => gfShift i (gfX a)

/-- Product in GF(2⁸). -/
def gfMul (a b : Byte) : Byte :=
  (List.range 8).foldl (fun acc i => if b.toNat.testBit i then acc ^^^ gfShift i a else acc) 0

/-- Inverse in GF(2⁸): a^254. -/
def gfInv (a : Byte) : Byte :=
  ((List.range 7).foldl (fun (p : Byte × Byte) _ => let q := gfMul p.1 p.1; (q, gfMul p.2 q)) (a, 1)).2

/-- Bytewise XOR of two lines. -/
def lineXor (x y : List Byte) : List Byte := List.zipWith (· ^^^ ·) x y

/-- gⁱ times a line. -/
def lineScale (i : Nat) (x : List Byte) : List Byte := x.map (gfShift i)

/-- A line of zeros. -/
def zeroLine : List Byte := List.replicate 64 0

/-- P over lines given with their index (R481). -/
def pLine (ls : List (Nat × List Byte)) : List Byte := ls.foldl (fun a l => lineXor a l.2) zeroLine

/-- Q over lines given with their index (R481). -/
def qLine (ls : List (Nat × List Byte)) : List Byte := ls.foldl (fun a l => lineXor a (lineScale l.1 l.2)) zeroLine

/-- Indices (0 to 65) of a page's lines that are inner-uncorrectable. -/
def State.lostLines (s : State) (p : Nat) : List Nat := (List.range 66).filter fun i => (s.innerRead (lineKey p i)).bad

/-- Line `x` of a page rebuilt by the outer code; none when more than two lines are lost (R482). -/
def State.rebuild (s : State) (p x : Nat) : Option (List Byte) :=
  let lost := s.lostLines p
  if 2 < lost.length then none
  else
    let good := ((List.range 64).filter fun i => !lost.contains i).map fun i => (i, (s.innerRead (lineKey p i)).data)
    let P := (s.innerRead (lineKey p 64)).data
    let Q := (s.innerRead (lineKey p 65)).data
    let P' := lineXor P (pLine good)
    let Q' := lineXor Q (qLine good)
    match (lost.filter fun i => decide (i ≠ x ∧ i < 64)) with
    | [] =>
      if lost.contains 64 then
        let inv := gfInv (gfShift x 1)
        some (Q'.map (gfMul inv))
      else some P'
    | y :: _ =>
      -- two data lines lost: solve for the higher of them, then the other
      let lo := min x y
      let hi := max x y
      let den := gfInv (gfShift lo 1 ^^^ gfShift hi 1)
      let dHi := (lineXor Q' (lineScale lo P')).map (gfMul den)
      some (if x = hi then dHi else lineXor P' dHi)

/-! ### Regions (R472 to R476) -/

/-- The lowest-numbered enabled region that contains an offset within Densum. -/
def State.dsmRegion (s : State) (a : Nat) : Option Nat :=
  (List.range 64).find? fun k =>
    s.flag (DSM_REG_CTRL_EN k) &&
      decide (s.rd (DSM_REG_BASE_BASE k) * 65536 ≤ a ∧
        a < s.rd (DSM_REG_BASE_BASE k) * 65536 + s.rd (DSM_REG_SIZE_SIZE k) * 65536)

/-- First offset and first offset beyond region `k`. -/
def State.regionSpan (s : State) (k : Nat) : Nat × Nat :=
  (s.rd (DSM_REG_BASE_BASE k) * 65536, s.rd (DSM_REG_BASE_BASE k) * 65536 + s.rd (DSM_REG_SIZE_SIZE k) * 65536)

/-- Whether a requester (bit number of R472) may read or write an offset within Densum (R474). -/
def State.dsmAllowed (s : State) (req : Nat) (a : Nat) (write : Bool) : Bool :=
  match s.dsmRegion a with
  | none => false
  | some k => (s.rd (if write then DSM_REG_PERM_WRITE k else DSM_REG_PERM_READ k)).testBit req

/-- An access without permission: counted, cause PERM, logged (R474). -/
def State.dsmPermErr (s : State) (req : Nat) (addr : Nat) : State :=
  ((s.count DSM_PERM_ERR_COUNT 1).setCause (causeDsm 4)).report EV_DSM_PERM (src 2 0) (detailAddr addr req 0)

/-- The lowest place in Densum, in units of 64 KiB, with room for so many units that no enabled region holds (R511, R720). -/
def State.dsmPlace (s : State) (units : Nat) : Option Nat :=
  (List.range (2049 - units)).find? fun b =>
    (List.range 64).all fun k =>
      !s.flag (DSM_REG_CTRL_EN k) || decide (s.rd (DSM_REG_SIZE_SIZE k) = 0) ||
        decide (b + units ≤ s.rd (DSM_REG_BASE_BASE k) ∨ s.rd (DSM_REG_BASE_BASE k) + s.rd (DSM_REG_SIZE_SIZE k) ≤ b)

/-- The lowest-numbered region whose EN is 0. -/
def State.dsmSlot (s : State) : Option Nat := (List.range 64).find? fun k => !s.flag (DSM_REG_CTRL_EN k)

/-- Set the registers of a region; a SEALED one takes seal state from now on (R486). -/
def State.dsmSetRegion (s : State) (k base units rd wr : Nat) (isSealed host : Bool) : State :=
  let s := ((s.wr (DSM_REG_BASE_BASE k) base).wr (DSM_REG_SIZE_SIZE k) units).wr (DSM_REG_PERM_READ k) rd
  let s := ((s.wr (DSM_REG_PERM_WRITE k) wr).wr (DSM_REG_CTRL_CLASS k) (b2n isSealed)).wr (DSM_REG_CTRL_OWNER k) (b2n host)
  let pages := s.dsm.pages.filter fun e => !decide (base * 16 ≤ e.1 ∧ e.1 < (base + units) * 16)
  { s.wr (DSM_REG_CTRL_EN k) 1 with dsm := { s.dsm with pages := pages, since := s.dsm.since.set (Fin.ofNat 64 k) s.now } }

/-- Place a region at the lowest free address: its number. -/
def State.dsmNewRegion (s : State) (units rd wr : Nat) (isSealed host : Bool) : Option (Nat × State) :=
  match s.dsmPlace units, s.dsmSlot with
  | some b, some k => some (k, s.dsmSetRegion k b units rd wr isSealed host)
  | _, _ => none

/-- Change Densum's state. -/
def State.setDsm (s : State) (f : Densum → Densum) : State := { s with dsm := f s.dsm }

/-- Pages of the range that a region leaves, except those of the range it keeps, are dirty from now on: nothing of them stays known
as sealed, and region 63's pages, which start sealed, are listed as dirty (R486, log 3). -/
def State.uncover (s : State) (span keep : Nat × Nat) : State :=
  let gone := fun (p : Nat) => decide (span.1 ≤ p * 4096 ∧ p * 4096 < span.2) && !decide (keep.1 ≤ p * 4096 ∧ p * 4096 < keep.2)
  let last := ((List.range (span.2 / 4096 - 0x7800)).map fun i => 0x7800 + i).filter gone
  s.setDsm fun d => { d with pages := last.map (fun p => (p, ⟨false, s.now, false⟩)) ++ d.pages.filter fun e => !gone e.1 }

/-- Release a region; its range is then no region's, or falls to one of a higher number. -/
def State.dsmFreeRegion (s : State) (k : Nat) : State := (s.uncover (s.regionSpan k) (0, 0)).wr (DSM_REG_CTRL_EN k) 0

/-! ### Seal state (R483 to R486) -/

/-- Seal state of a page: none for pages of TRANSIENT regions and of free Densum. A page that nothing has written since its
region became SEALED is dirty from that time on; the pages of region 63 start sealed (R486, R507). -/
def State.pageSeal (s : State) (p : Nat) : Option PageSeal :=
  match s.dsmRegion (p * 4096) with
  | none => none
  | some k =>
    if s.flag (DSM_REG_CTRL_CLASS k) then
      match s.dsm.pages.lookup p with
      | some x => some x
      | none => some (if k = 63 then ⟨true, 0, false⟩ else ⟨false, s.dsm.since.toList.getD k 0, false⟩)
    else none

/-- Set the seal state of a page. -/
def State.setPage (s : State) (p : Nat) (x : PageSeal) : State :=
  { s with dsm := { s.dsm with pages := (p, x) :: s.dsm.pages.filter fun e => e.1 ≠ p } }

/-- A write reaches a page: it is dirty and its quiet time starts again (R483, R484); a page that no SEALED region holds keeps no seal
state (R486). -/
def State.dirtyPage (s : State) (p : Nat) : State :=
  match s.pageSeal p with
  | some _ => s.setPage p ⟨false, s.now, false⟩
  | none => { s with dsm := { s.dsm with pages := s.dsm.pages.filter fun e => e.1 ≠ p } }

/-- Dirty pages of SEALED regions (DSM.DIRTY_PAGES). -/
def State.dirtyPages (s : State) : Nat :=
  (List.range 32768).countP fun p => match s.pageSeal p with | some x => !x.isSealed | none => false

/-! ### The recurrence table (R490 to R493) -/

/-- The entry that holds a line (a[26:6]). -/
def State.recurFind (s : State) (line : Nat) : Option Nat :=
  (List.range 64).find? fun e => s.flag (DSM_RECUR_CNT_VALID e) && decide (s.rd (DSM_RECUR_ADDR_LINE e) = line)

/-- The entry that a new line takes: a free one, else the lowest count among those not RAISED (R491). -/
def State.recurTake (s : State) : Option Nat :=
  match (List.range 64).find? fun e => !s.flag (DSM_RECUR_CNT_VALID e) with
  | some e => some e
  | none =>
    ((List.range 64).filter fun e => !s.flag (DSM_RECUR_CNT_RAISED e)).foldl
      (fun b e => match b with
        | none => some e
        | some x => if s.rd (DSM_RECUR_CNT_COUNT e) < s.rd (DSM_RECUR_CNT_COUNT x) then some e else some x) none

/-- A corrected or rebuilt read of a line (R490 to R492). -/
def State.recurHit (s : State) (addr : Nat) : State :=
  let line := bits addr 26 6
  let bump := fun (s : State) (e n : Nat) =>
    let s := s.wr (DSM_RECUR_CNT_COUNT e) (min n 255)
    if decide (max 1 (s.rd DSM_RECUR_CTRL_THRESH) ≤ min n 255) && !s.flag (DSM_RECUR_CNT_RAISED e) then
      ((s.wr (DSM_RECUR_CNT_RAISED e) 1).setCause (causeDsm 2)).report EV_LINE_WEAK (src 2 0)
        (detailAddr (dsmBase + addr) 0xFF (min n 255))
    else s
  match s.recurFind line with
  | some e => bump s e (s.rd (DSM_RECUR_CNT_COUNT e) + 1)
  | none =>
    match s.recurTake with
    | some e => bump (((s.wr (DSM_RECUR_ADDR_LINE e) line).wr (DSM_RECUR_CNT_VALID e) 1).wr (DSM_RECUR_CNT_RAISED e) 0) e 1
    | none => s.count DSM_RECUR_FULL_COUNT 1

/-- Clear one entry. -/
def State.recurClear (s : State) (e : Nat) : State :=
  (s.setReg (DSM_RECUR_ADDR_LINE e).off 0).setReg (DSM_RECUR_CNT_COUNT e).off 0

/-- A whole-line write clears the line's entry (R493). -/
def State.recurClearLine (s : State) (addr : Nat) : State :=
  match s.recurFind (bits addr 26 6) with
  | some e => s.recurClear e
  | none => s

/-! ### Reading and writing lines (R480, R487) -/

/-- What a read of a line delivers: data, poison, error response, and the outcome row of R487 (5 for a clean line). -/
structure LineAns where
  data : List Byte
  poison : Bool
  err : Bool
  row : Nat
  /-- Corrected bytes. -/
  fixed : Nat
deriving DecidableEq, Repr

/-- DETAIL of EV_DSM_UE and EV_DSM_REBUILT (R672). -/
def dsmDetail (addr : Nat) (l : LineRead) (row : Nat) : Nat :=
  let f := l.first.getD (0, 0, 0)
  bits addr 26 6 + dsmBank addr * 2 ^ 21 + dsmRow addr * 2 ^ 28 + dsmCol (addr / 64 * 64 + f.1) * 2 ^ 39
    + f.2.1 * 2 ^ 46 + f.2.2 * 2 ^ 50 + row * 2 ^ 51

/-- Steps 2 to 5 of R487 for the line at an aligned device address. -/
def State.dsmRawRead (s : State) (la : Nat) : LineAns × State :=
  let a := la - dsmBase
  let l := s.innerRead la
  if l.bad then
    let sealedPage := match s.pageSeal (dsmPage a) with | some x => x.isSealed | none => false
    match (if sealedPage then s.rebuild (dsmPage a) (dsmLineOf a) else none) with
    | some d =>
      (⟨d, l.poison, false, 3, 0⟩,
        (((s.count DSM_REBUILT_COUNT 1).setCause (causeDsm 1)).report EV_DSM_REBUILT (src 2 0) (dsmDetail a l 3)).recurHit a)
    | none =>
      (⟨l.data, true, false, 4, 0⟩,
        ((s.count DSM_UE_LINES_COUNT 1).setCause (causeDsm 0)).report EV_DSM_UE (src 2 0) (dsmDetail a l 4))
  else if decide (0 < l.corrected) || l.poisonFix then
    (⟨l.data, l.poison, false, 2, l.corrected⟩, (s.count DSM_CE_LINES_COUNT 1).recurHit a)
  else if l.poison then (⟨l.data, true, false, 1, 0⟩, s.count DSM_POISON_RD_COUNT 1)
  else (⟨l.data, false, false, 5, 0⟩, s)

/-- A Densum read of the line at an aligned device address by a requester (R487). -/
def State.dsmReadLine (s : State) (req : Nat) (la : Nat) : LineAns × State :=
  if s.dsmAllowed req (la - dsmBase) false then s.dsmRawRead la
  else let r := (s.dsmPermErr req la).freeLine; (⟨r.1, true, true, 0, 0⟩, r.2)

/-- Store one byte with fresh check bits, and in the spare as well while its row or column is copied (R480, R500). -/
def State.dsmStore (s : State) (key : Nat) (v : Byte) : State :=
  let s := s.setByte key v
  let d := { s.dsm with
    cerr := Sparse.put (fun _ => 0) s.dsm.cerr key 0
    repair := s.dsm.repair.map fun r =>
      if (repairLines r.bank r.column r.index).any (fun x => decide (lineKey x.1 x.2 = key / 64 * 64)) && repairHas r.column r.index key
      then { r with
        spareBytes := (key, v) :: r.spareBytes.filter fun e => e.1 ≠ key
        spareErr := r.spareErr.filter fun e => e.1 ≠ key } else r }
  { s with dsm := d }

/-- Set the poison of a line, in the spare as well while it is copied: to that of a whole write, else to the OR with what stands there
(R480, R500). -/
def State.dsmSetPoison (s : State) (key : Nat) (p whole : Bool) : State :=
  let put := fun (old : Nat) => if p || (!whole && majority old) then 7 else 0
  let both := fun (r : RepairJob) =>
    { r with sparePoison := r.sparePoison.map fun e => if e.1 = key then (key, put e.2) else e }
  { s with dsm := { s.dsm with
    poison := Sparse.put (fun _ => 0) s.dsm.poison key (put (s.poisonAt key))
    repair := s.dsm.repair.map both } }

/-- Flip a stored data bit without touching the stored check bits (R510). -/
def State.flipStored (s : State) (key bit : Nat) : State :=
  let d := s.byte key
  let d' := d ^^^ BitVec.ofNat 8 (2 ^ bit)
  let delta := s.cerrAt key ^^^ checkBits d ^^^ checkBits d'
  { s.setByte key d' with dsm := { s.dsm with cerr := Sparse.put (fun _ => 0) s.dsm.cerr key delta } }

/-- Flip a stored data bit of a byte that the spare holds too, in the spare (R510). -/
def RepairJob.flipSpare (r : RepairJob) (key bit : Nat) : RepairJob :=
  match r.spareBytes.lookup key with
  | none => r
  | some d =>
    let d' := d ^^^ BitVec.ofNat 8 (2 ^ bit)
    let delta := (r.spareErr.lookup key).getD 0 ^^^ checkBits d ^^^ checkBits d'
    { r with
      spareBytes := (key, d') :: r.spareBytes.filter fun e => e.1 ≠ key
      spareErr := (key, delta) :: r.spareErr.filter fun e => e.1 ≠ key }

/-- Flip a data bit in every copy that a write has just stored (R500, R510). -/
def State.flipWritten (s : State) (key bit : Nat) : State :=
  let s := s.flipStored key bit
  { s with dsm := { s.dsm with repair := s.dsm.repair.map fun r => r.flipSpare key bit } }

/-- Flip a stored check bit. -/
def State.flipCheck (s : State) (key bit : Nat) : State :=
  { s with dsm := { s.dsm with cerr := Sparse.put (fun _ => 0) s.dsm.cerr key (s.cerrAt key ^^^ 2 ^ bit) } }

/-- Physical upsets of the stored copy of a line: bits 0 to 7 of a byte are data bits, 8 to 12 its check bits; byte 64 names
the three poison copies (log 16). -/
def State.upset (s : State) (la : Nat) : List (Nat × Nat) → State
  | [] => s
  | (b, i) :: t =>
    State.upset (if b < 64 then (if i < 8 then s.flipStored (la + b) i else s.flipCheck (la + b) ((i - 8) % 5))
      else { s with dsm := { s.dsm with poison := Sparse.put (fun _ => 0) s.dsm.poison la (s.poisonAt la ^^^ 2 ^ (i % 3)) } }) la t

/-- An armed injection at a write of a line (R510). -/
def State.inject (s : State) (la : Nat) (enabled : Nat → Bool) : State :=
  let b := s.rd DSM_INJECT_CTRL_BYTE
  let i := s.rd DSM_INJECT_CTRL_BIT
  let mode := s.rd DSM_INJECT_CTRL_MODE
  if s.flag DSM_INJECT_CTRL_ARM && decide (s.rd DSM_INJECT_ADDR_LINE = bits (la - dsmBase) 26 6) then
    if decide (mode = 1) && enabled b then (s.flipWritten (la + b) i).wr DSM_INJECT_CTRL_ARM 0
    else if decide (mode = 2) && enabled b then
      ((s.flipWritten (la + b) i).flipWritten (la + b) ((i + 1) % 8)).wr DSM_INJECT_CTRL_ARM 0
    else if mode = 3 then (s.dsmSetPoison la true true).wr DSM_INJECT_CTRL_ARM 0
    else s
  else s

/-- Store enabled bytes from a device address on (R480). -/
def State.dsmStoreAll : State → Nat → List (Option Byte) → State
  | s, _, [] => s
  | s, a, some b :: t => (s.dsmStore a b).dsmStoreAll (a + 1) t
  | s, a, none :: t => s.dsmStoreAll (a + 1) t

/-- A write that reaches a line of the page being scrubbed overtakes the scrubber's write-back of it (R498). -/
def State.dropBack (s : State) (la : Nat) : State :=
  let hit := fun (j : ScrubJob) =>
    if j.backs.any fun b => decide (b.1 = la) then { j with backs := j.backs.filter fun b => b.1 ≠ la, dropped := true } else j
  { s with dsm := { s.dsm with scrub := s.dsm.scrub.map hit } }

/-- A write of bytes within one line, past the region check (R480, R483, R493, R510). -/
def State.dsmRawWrite (s : State) (addr : Nat) (data : List (Option Byte)) (poison : Bool) : State :=
  let la := addr / 64 * 64
  let whole := decide (addr = la ∧ data.length = 64) && data.all Option.isSome
  let s := ((s.dsmStoreAll addr data).dsmSetPoison la poison whole).dropBack la
  let s := s.dirtyPage (dsmPage (la - dsmBase))
  let s := if whole then s.recurClearLine (la - dsmBase) else s
  s.inject la fun b => (data.getD (la + b - addr) none).isSome && decide (addr ≤ la + b)

/-- A Densum write of bytes within one line by a requester: error response and state (R474, R480). -/
def State.dsmWriteLine (s : State) (req : Nat) (addr : Nat) (data : List (Option Byte)) (poison : Bool) : Bool × State :=
  if s.dsmAllowed req (addr - dsmBase) true then (false, s.dsmRawWrite addr data poison)
  else (true, s.dsmPermErr req (addr / 64 * 64))

/-- Compute and write P and Q of a page over given lines (R481). -/
def State.writeParity (s : State) (p : Nat) (ls : List (Nat × List Byte)) : State :=
  let put := fun (s : State) (i : Nat) (d : List Byte) =>
    (s.dsmStoreAll (lineKey p i) (d.map some)).dsmSetPoison (lineKey p i) false true
  put (put s 64 (pLine ls)) 65 (qLine ls)

/-- The seal engine's read of one line: it counts like any other read of it (R487, R490). -/
def State.sealRead (s : State) (key : Nat) : State := (s.dsmRawRead key).2

/-! ### Meanings -/

/-- DSM_READ (R487): one line read by a requester, after the physical upsets that have hit its stored copy. -/
def execDsmRead (req : Fin 9) (line : BitVec 21) (upsets : List (Nat × Nat)) (s : State) : Host.Outcome State Fault Refusal :=
  .next (s.when s.mainUp fun s =>
    let la := dsmBase + line.toNat * 64
    let r := (s.upset la upsets).dsmReadLine req.val la
    r.2.emit (.dsmRead req.val r.1.data r.1.poison r.1.err))

/-- Whether a control core is held in reset: its writes to registers and to Densum are blocked (R98). -/
def State.coreHeld (s : State) (k : Fin 2) : Bool :=
  decide (s.rd GLB_CORE_STATUS_STANDBY_STATE = 0 ∧ s.rd GLB_CORE_STATUS_ACTIVE ≠ k.val)

/-- DSM_WRITE (R98, R480): bytes written within one line by a requester, which may be a control core. Bytes beyond the line belong to
another write. -/
def execDsmWrite (by_ : DsmWriter) (addr : BitVec 27) (data : List (Option Byte)) (poison : Bool) (s : State) :
    Host.Outcome State Fault Refusal :=
  .next (s.when (s.mainUp && !by_.core.any s.coreHeld) fun s =>
    let r := s.dsmWriteLine by_.req.val (dsmBase + addr.toNat) (data.take (64 - addr.toNat % 64)) poison
    if r.1 then r.2.emit (.dsmWriteErr by_.req.val addr.toNat) else r.2)

/-- SEAL (R483 to R485): a dirty page whose quiet time has run out, with no write in that same moment (R39), is read and sealed; an uncorrectable line leaves it dirty. -/
def execSealPage (page : BitVec 15) (s : State) : Host.Outcome State Fault Refusal :=
  let p := page.toNat
  match s.pageSeal p with
  | none => .next s
  | some x =>
    if x.isSealed || x.failed || decide (s.now ≤ x.lastWrite + 1000 * max 16 (s.rd DSM_SEAL_CTRL_QUIET)) then .next s
    else
      match (List.range 64).find? fun i => (s.innerRead (lineKey p i)).bad with
      | some i =>
        let s := (List.range (i + 1)).foldl (fun t j => t.sealRead (lineKey p j)) s
        .next ((((s.setPage p { x with failed := true }).count DSM_SEAL_FAIL_COUNT 1).setCause (causeDsm 3)).report
          EV_SEAL_FAIL (src 2 0) (detailAddr (lineKey p i) 0xFF 0))
      | none =>
        let ls := (List.range 64).map fun i => (i, (s.innerRead (lineKey p i)).data)
        let s := (List.range 64).foldl (fun t j => t.sealRead (lineKey p j)) s
        .next ((s.writeParity p ls).setPage p ⟨true, x.lastWrite, false⟩)

end Sys2Proof.Machine
end

