-- ==== Sys2Proof/Machine/Ddr.lean ====
section
/-! DEFINITION. The DDR5 controllers (chapter "DDR5 memory subsystem"): mapping, queues, scheduling, refresh, row hammer, the
controller code, self-refresh, mirroring, training and fill. -/

namespace Sys2Proof.Machine

/-- A channel's state. -/
def State.chan (s : State) (c : Nat) : DdrChan := s.ddr.chans[Fin.ofNat 4 c]

/-- Change a channel's state. -/
def State.setChan (s : State) (c : Nat) (f : DdrChan → DdrChan) : State :=
  { s with ddr := { s.ddr with chans := s.ddr.chans.set (Fin.ofNat 4 c) (f (s.chan c)) } }

/-! ### Capacity and mapping (R515, R527 to R530, R555) -/

/-- Installed capacity in bytes: 0 until INIT_STATUS.DONE (R519, R555). -/
def State.ddrBytes (s : State) : Nat :=
  match s.ddr.map with
  | some m =>
    if s.flag DMC0_INIT_STATUS_DONE then m.channels * m.gib * 2 ^ 30 / (if m.mirror then 2 else 1) else 0
  | none => 0

/-- Whether an address lies in installed DDR5. -/
def State.inDdr (s : State) (a : Nat) : Bool := decide (a < s.ddrBytes)

/-- Where a line lies: channel, subchannel, rank, bank group, bank, row, C[9:4]. -/
structure DdrPlace where
  ch : Nat
  sub : Nat
  rank : Nat
  bg : Nat
  ba : Nat
  row : Nat
  col : Nat
deriving DecidableEq, Repr

/-- XOR of the address bits that a mask selects: bit j of the mask stands for address bit j + 6 (R527). -/
def maskBit (mask a : Nat) : Nat :=
  ((List.range 40).foldl (fun x j => if mask.testBit j && a.testBit (j + 6) then x + 1 else x) 0) % 2

/-- The pivot of a mask: the address bit of its lowest set bit (R528). -/
def maskPivot (mask : Nat) : Option Nat := ((List.range 40).find? fun j => mask.testBit j).map (· + 6)

/-- The number that a list of bits spells, lowest first. -/
def ofBits (l : List Bool) : Nat := l.foldr (fun b a => b2n b + 2 * a) 0

/-- The place of a line under a mapping (R527 to R529). -/
def DdrMap.place (m : DdrMap) (a : Nat) : DdrPlace :=
  if m.mode = 0 then
    let sel := fun o => maskBit (m.masks.getD o 0) a
    let pivots := m.masks.filterMap maskPivot
    let rest := ((List.range 32).map (· + 6)).filter fun b => !pivots.contains b
    let v := ofBits (rest.map fun b => a.testBit b)
    { ch := sel 0 + 2 * sel 1, sub := sel 2, rank := sel 3, bg := sel 4 + 2 * sel 5 + 4 * sel 6, ba := sel 7 + 2 * sel 8
      row := v / 64, col := v % 64 }
  else
    let g := m.grain
    let k := if m.channels = 4 then 2 else if m.channels = 2 then 1 else 0
    let b := a / 2 ^ (g + k) * 2 ^ g + a % 2 ^ g
    { ch := a / 2 ^ g % 2 ^ k, sub := bits b 6 6, bg := bits b 9 7, ba := bits b 11 10, col := bits b 17 12
      rank := if m.ranks = 2 then bits b 18 18 else 0
      row := if m.ranks = 2 then b / 2 ^ 19 else b / 2 ^ 18 }

/-- log2 of 1, 2 or 4. -/
def log2c (n : Nat) : Nat := if n = 4 then 2 else if n = 2 then 1 else 0

/-- log2 of the bytes of a capacity of 2^k GiB, as a bound on address bits. -/
def addrBits (bytes : Nat) : Nat := Nat.log2 bytes

/-- The mask set is valid (R528). -/
def DdrMap.valid (m : DdrMap) : Bool :=
  if m.mode = 0 then
    let nz := m.masks.filter fun x => x ≠ 0
    let piv := nz.filterMap maskPivot
    let cap := m.channels * m.gib * 2 ^ 30 / (if m.mirror then 2 else 1)
    decide (piv.Nodup) &&
    nz.all (fun x => piv.all fun p => decide (maskPivot x = some p) || !x.testBit (p - 6)) &&
    nz.all (fun x => (List.range 40).all fun j => !x.testBit j || decide (2 ^ (j + 6) < cap)) &&
    decide (nz.length = log2c (if m.mirror then m.channels / 2 else m.channels) + 1 + log2c m.ranks + 5)
  else true

/-- Mirroring is possible under the mapping (R530, R555). -/
def DdrMap.mirrorOk (m : DdrMap) : Bool :=
  !m.mirror || (decide (m.mode = 0) && decide (2 ≤ m.channels) && decide (m.masks.getD 0 0 = 0) &&
    (decide (m.channels = 4) || decide (m.masks.getD 1 0 = 0)))

/-- The mapping that the DMC0 registers describe for the channel set in use (R530, R566). GRAIN holds 16 as 0 (log 17). -/
def State.mapRegs (s : State) : DdrMap :=
  let d := (List.range 4).findSome? fun c => (s.chan c).spd
  { mode := s.rd DMC0_MAP_MODE_MODE
    grain := if s.rd DMC0_MAP_MODE_GRAIN = 0 then 16 else s.rd DMC0_MAP_MODE_GRAIN
    mirror := s.flag DMC0_MAP_MODE_MIRROR
    masks := (List.range 9).map fun o => s.rd (DMC0_MAP_LO_MASK o) + 2 ^ 32 * s.rd (DMC0_MAP_HI_MASK o)
    channels := s.ddr.set
    gib := (d.map Spd.gib).getD 0
    ranks := (d.map Spd.ranks).getD 1 }

/-- The partner of a channel in its mirroring pair. -/
def partner (c : Nat) : Nat := if c % 2 = 0 then c + 1 else c - 1

/-- A channel serves neither reads nor writes: retired, or drained for retirement (R558). -/
def State.chanOut (s : State) (c : Nat) : Bool := s.flag (DMC_STATUS_RETIRED c) || (s.chan c).retiring

/-- Channels that a write of a line goes to: both of a mirrored pair, but for one out of service that is not resilvering
(R555, R558, R559). -/
def State.writeChans (s : State) (m : DdrMap) (ch : Nat) : List Nat :=
  if m.mirror then
    let base := ch / 2 * 2
    [base, base + 1].filter fun c => !s.chanOut c || s.flag (DMC_STATUS_RESILVER c)
  else [ch]

/-- The channel that serves a read of a line (R556, R558). -/
def State.readChan (s : State) (m : DdrMap) (ch : Nat) : Nat :=
  if m.mirror then
    let a := ch / 2 * 2
    if s.chanOut a then a + 1
    else if s.chanOut (a + 1) then a
    else if (s.chan (a + 1)).rdQ.length < (s.chan a).rdQ.length then a + 1 else a
  else ch

/-- Device position of device `i` of a place's subchannel; 31 stands for none (R551, R672). -/
def devPos (p : DdrPlace) (i : Nat) : Nat := if i < 10 then 10 * p.sub + i else 31

/-- DETAIL of the DDR5 events (R672). -/
def ddrDetail (c : Nat) (p : DdrPlace) (d1 d2 synd : Nat) : Nat :=
  c % 4 + p.sub * 2 ^ 2 + p.rank * 2 ^ 3 + p.bg * 2 ^ 4 + p.ba * 2 ^ 7 + (p.row % 2 ^ 17) * 2 ^ 9 + p.col * 2 ^ 26
    + (d1 % 32) * 2 ^ 32 + (d2 % 32) * 2 ^ 37 + (synd % 2 ^ 22) * 2 ^ 42

/-- The place of a line under the mapping in force. -/
def State.placeOf (s : State) (line : Nat) : DdrPlace :=
  match s.ddr.map with
  | some m => m.place line
  | none => ⟨0, 0, 0, 0, 0, 0, 0⟩

/-! ### The copies of a mirrored pair (R555, R560) and standing errors (R549, R552) -/

/-- A line as a channel holds it: data and poison. -/
def State.chanLine (s : State) (c line : Nat) : List Byte × Bool :=
  ((s.chan c).own.lookup line).getD (s.bytes line 64, s.linePoison line)

/-- The mapping in force; before any is, one channel in SGN5100 mode. -/
def State.ddrMap (s : State) : DdrMap := s.ddr.map.getD ⟨0, 8, false, [], 1, 16, 1⟩

/-- A line is written on a channel: it stands in `mem` once every other channel that the pair writes holds the same, and until then on the
channel alone (R555, R560). -/
def State.lineStore (s : State) (c line : Nat) (d : List Byte) (p : Bool) : State :=
  let without := fun (l : List (Nat × List Byte × Bool)) => l.filter fun e => decide (e.1 ≠ line)
  let s := s.setChan c fun x => { x with bad := x.bad.filter fun e => decide (e.1 ≠ line) }
  let rest := (s.writeChans s.ddrMap (s.placeOf line).ch).filter fun o => decide (o ≠ c % 4)
  if rest.all fun o => decide (s.chanLine o line = (d, p)) then
    (List.range 4).foldl (fun t o => t.setChan o fun x => { x with own := without x.own }) ((s.setBytes line d).setLinePoison line p)
  else s.setChan c fun x => { x with own := (line, d, p) :: without x.own }

/-- A range of lines has been written on every channel: one copy stands, without errors. -/
def State.copiesMeet (s : State) (lo hi : Nat) : State :=
  (List.range 4).foldl (fun t c => t.setChan c fun x =>
    { x with
      own := x.own.filter fun e => !decide (lo ≤ e.1 ∧ e.1 < hi)
      bad := x.bad.filter fun e => !decide (lo ≤ e.1 ∧ e.1 < hi) }) s

/-- How a line returns on a channel: as it last did, where it has not been written since (R552; log 62). -/
def State.quality (s : State) (c line : Nat) : DdrQuality := ((s.chan c).bad.lookup line).getD .clean

/-- A line has returned on a channel as `q` says. -/
def State.noteQuality (s : State) (c line : Nat) (q : DdrQuality) : State :=
  s.setChan c fun x =>
    let rest := x.bad.filter fun e => decide (e.1 ≠ line)
    { x with bad := if q = .clean then rest else (line, q) :: rest }

/-! ### Fill map (R525, R526) -/

/-- Whether a granule of 64 KiB is unfilled under fast boot. -/
def State.unfilled (s : State) (g : Nat) : Bool :=
  match s.ddr.fill with
  | some n => s.ddr.fast && decide (n ≤ g) && !s.ddr.filled.contains g
  | none => false

/-- Fill a granule with poisoned lines of zeros (R525). -/
def State.poisonGranule (s : State) (g : Nat) : State :=
  let s := { s with mem := s.mem.filter fun e => !decide (g * 65536 ≤ e.1 ∧ e.1 < (g + 1) * 65536) }
  let s := ((List.range 1024).foldl (fun t i => t.setLinePoison (g * 65536 + i * 64) true) s).copiesMeet (g * 65536) ((g + 1) * 65536)
  { s with ddr := { s.ddr with filled := g :: s.ddr.filled } }

/-- Fill a granule with zeros (R524). -/
def State.zeroGranule (s : State) (g : Nat) : State :=
  { s with
    mem := s.mem.filter fun e => !decide (g * 65536 ≤ e.1 ∧ e.1 < (g + 1) * 65536)
    poisoned := s.poisoned.filter fun e => !decide (g * 65536 ≤ e.1 ∧ e.1 < (g + 1) * 65536) : State }.copiesMeet (g * 65536) ((g + 1) * 65536)

/-- Fill every unfilled granule that a range touches (R526). -/
def State.fillRange (s : State) (lo hi : Nat) : State :=
  ((List.range (hi / 65536 + 1 - lo / 65536)).map (· + lo / 65536)).foldl
    (fun t g => if t.unfilled g then t.poisonGranule g else t) s

/-! ### Activates: row hammer and weights (R536, R543 to R546) -/

/-- Add an activate to a table of `n` entries: the table, and the row's count (R543). Entries that hold no row stand after the others
with count 0. -/
def actHit (n : Nat) (t : List ActCount) (row : Nat) : List ActCount × Nat :=
  match t.find? fun x => x.row = row with
  | some x => (t.map fun y => if y.row = row then { y with count := y.count + 1 } else y, x.count + 1)
  | none =>
    if t.length < n ∧ t.all (fun x => x.count ≠ 0) then (t ++ [⟨row, 1⟩], 1)
    else
      let low := t.foldl (fun (m : Nat) x => min m x.count) (t.headD ⟨0, 0⟩).count
      let i := (t.findIdx? fun x => x.count = low).getD 0
      (t.set i ⟨row, low + 1⟩, low + 1)

/-- Bank of a place in a channel: rank × 32 + bank group × 4 + bank. -/
def DdrPlace.bank (p : DdrPlace) : Nat := p.rank * 32 + p.bg * 4 + p.ba

/-- Issue the mitigation of a row: by directed refresh management where the DIMM declares it, else by refresh management; it occupies
the bank for 2 × tRC (R544). -/
def State.mitigate (s : State) (c bank row : Nat) : State :=
  let s := s.setChan c fun x => { x with
    mitigate := x.mitigate.filter fun m => m.1 ≠ bank
    taken := (bank, s.now + 2 * s.rd (DMC_TRC_NS c)) :: x.taken.filter fun e => e.1 ≠ bank }
  (s.count (DMC_MITIGATIONS_COUNT c) 1).emit (.ddrMitigate c bank row (s.flag (DMC_DIMM_DRFM c)))

/-- Issue the mitigation that a bank still owes (R545). -/
def State.mitigateOwed (s : State) (c bank : Nat) : State :=
  match (s.chan c).mitigate.lookup bank with
  | some row => s.mitigate c bank row
  | none => s

/-- A real-time activate of a row; at HAMMER.TH, a count that 0 never fulfils (R42), the row is to be mitigated (R543, R544). -/
def State.rtActivate (s : State) (c : Nat) (p : DdrPlace) : State :=
  let b := p.bank
  let a := actHit 32 (((s.chan c).acts.lookup b).getD []) p.row
  let t := a.1
  let n := a.2
  let hit := decide (0 < s.rd (DMC_HAMMER_TH c) ∧ s.rd (DMC_HAMMER_TH c) ≤ n)
  let t := if hit then t.map fun x => if x.row = p.row then { x with count := 0 } else x else t
  s.setChan c fun x => { x with
    acts := (b, t) :: x.acts.filter fun e => e.1 ≠ b
    mitigate := if hit then x.mitigate ++ [(b, p.row)] else x.mitigate }

/-- Weight of a best-effort requester on a channel (R536, R546, R566). -/
def State.beWeight (s : State) (c r : Nat) : Nat :=
  let w := max 1 (if r = 0 then s.rd DMC0_BE_WEIGHT_HST else if r = 1 then s.rd DMC0_BE_WEIGHT_CTL
    else if r = 2 then s.rd DMC0_BE_WEIGHT_DXB else s.rd DMC0_BE_WEIGHT_HLY)
  if (s.chan c).cuts.any fun x => decide (x.1 = r ∧ s.now < x.2) then max 1 (w / 8) else w

/-- Add an activate at `now` to a requester's table of 16 rows: the table, and the row's activates within the last 1 ms, this one
among them (R546). A new row takes the place of the one with the fewest, the lowest-numbered among equals (log 26). -/
def beHit (now : Nat) (t : List (Nat × List Nat)) (key : Nat) : List (Nat × List Nat) × Nat :=
  let t := (t.map fun e => (e.1, e.2.filter fun a => decide (now < a + 1000000))).filter fun e => !e.2.isEmpty
  let mine := now :: (t.lookup key).getD []
  let rest := t.filter fun e => decide (e.1 ≠ key)
  let low := rest.foldl (fun (m : Nat) e => min m e.2.length) (mine.length + (rest.map fun e => e.2.length).sum)
  let rest := if rest.length < 16 then rest else rest.eraseP fun e => e.2.length == low
  (rest ++ [(key, mine)], mine.length)

/-- A best-effort activate (R546): more than BE_HAMMER.TH in 1 ms cuts the requester's weight for 1 ms, and the row is counted afresh
(log 26); a TH of 0 is no count (R42). DETAIL holds the requester in bits 7 to 0 and the row in bits 24 to 8 (log 26). -/
def State.beActivate (s : State) (c r : Nat) (p : DdrPlace) : State :=
  let key := p.row + 2 ^ 20 * p.bank
  let a := beHit s.now (((s.chan c).beActs.lookup r).getD []) key
  let hit := decide (s.rd (DMC_BE_HAMMER_TH c) ≠ 0 ∧ s.rd (DMC_BE_HAMMER_TH c) < a.2)
  let t := if hit then a.1.filter fun e => decide (e.1 ≠ key) else a.1
  let s := s.setChan c fun x => { x with beActs := (r, t) :: x.beActs.filter fun e => e.1 ≠ r }
  if hit then
    (((s.setChan c fun x => { x with cuts := (r, s.now + 1000000) :: x.cuts.filter fun e => e.1 ≠ r }).count
      (DMC_BE_CUTS_COUNT c) 1).setCause (causeDmc c 3)).report EV_DDR_HAMMER_BE (src 5 c) (r + p.row % 2 ^ 17 * 2 ^ 8)
  else s

/-- An access of a class activates its row on a channel, after a mitigation that the row's bank still owes; the bank is occupied for tRC
(R532, R543, R545, R546). -/
def State.activate (s : State) (c : Nat) (who : DdrWho) (line : Nat) : State :=
  let p := s.placeOf line
  let s := s.mitigateOwed c p.bank
  let s := s.setChan c fun x => { x with
    taken := (p.bank, max (s.now + s.rd (DMC_TRC_NS c)) ((x.taken.lookup p.bank).getD 0)) :: x.taken.filter fun e => e.1 ≠ p.bank }
  match who with
  | .rt _ => s.rtActivate c p
  | .be r => s.beActivate c r p

/-! ### Read returns (R547 to R551) -/

/-- An access reaches a channel: it leaves self-refresh and its idle time starts again (R553, R554). -/
def State.ddrTouch (s : State) (c : Nat) : State :=
  (s.wr (DMC_STATUS_SELF_REFRESH c) 0).setChan c fun x => { x with lastAccess := s.now }

/-- A correction at a device position (R551); a DEV_THRESH of 0 is no count (R42). -/
def State.ceDev (s : State) (c : Nat) (p : DdrPlace) (i synd : Nat) : State :=
  let d := devPos p (i % 10)
  let s := ((s.count (DMC_CE_LINES_COUNT c) 1).count (DMC_CE_DEV_COUNT c d) 1).setCause (causeDmc c 0)
  let th := s.rd (DMC_DEV_THRESH_COUNT c)
  if decide (0 < th ∧ th ≤ s.rd (DMC_CE_DEV_COUNT c d)) && !(s.chan c).weak.contains d then
    ((s.setChan c fun x => { x with weak := d :: x.weak }).setCause (causeDmc c 4)).report EV_DDR_DEVICE_WEAK (src 5 c)
      (ddrDetail c p d 31 synd)
  else s

/-- What the code check of a line makes of a read (R549): data, poison, whether it was uncorrectable, class 0 clean, 1 poisoned,
2 corrected, 3 from the partner, 4 uncorrectable. -/
structure DdrAns where
  data : List Byte
  poison : Bool
  cls : Nat
deriving DecidableEq, Repr

/-- Steps 3 to 5 of R549 for stored data and stored poison, with the way the read returned. -/
def State.ddrCheck (s : State) (c : Nat) (line : Nat) (data : List Byte) (poison : Bool) (q : DdrQuality) : DdrAns × State :=
  let p := s.placeOf line
  match q with
  | .uncorrectable bad d1 d2 synd partnerGood =>
    let mir := (match s.ddr.map with | some m => m.mirror && !s.chanOut (partner c) | none => false)
    if mir && partnerGood then
      let there := s.chanLine (partner c) line
      (⟨there.1, there.2, 3⟩,
        ((s.ddrTouch (partner c)).count (DMC_MIRROR_FIX_COUNT c) 1).report EV_DDR_MIRROR_FIX (src 5 c) (ddrDetail c p (devPos p d1) (devPos p d2) synd))
    else
      (⟨slice bad 0 64, true, 4⟩,
        (((s.count (DMC_UE_LINES_COUNT c) 1).setCause (causeDmc c 1)).setChan c fun x => { x with badSince := true }).report
          EV_DDR_UE (src 5 c) (ddrDetail c p (devPos p d1) (devPos p d2) synd))
  | .oneDevice i synd =>
    if poison then (⟨data, true, 1⟩, s.count (DMC_POISON_RD_COUNT c) 1) else (⟨data, false, 2⟩, s.ceDev c p i synd)
  | .clean =>
    if poison then (⟨data, true, 1⟩, s.count (DMC_POISON_RD_COUNT c) 1) else (⟨data, false, 0⟩, s)

/-! ### Accesses performed at once by the engines of the model (log 18) -/

/-- The line that a write or a merge makes of an old one. -/
def DdrEntry.over (e : DdrEntry) (old : List Byte) : List Byte := (List.range 64).map fun i => (e.data.getD i none).getD (old.getD i 0)

/-- The poison that a write or a merge leaves (R535). -/
def DdrEntry.marks (e : DdrEntry) (old : Bool) : Bool := if e.kind = .merge then old || e.poison else e.poison

/-- Perform a write or a merge on a channel (R534, R535). -/
def State.ddrApply (s : State) (c : Nat) (e : DdrEntry) : State :=
  let old := s.chanLine c e.line
  s.lineStore c e.line (e.over old.1) (e.marks old.2)

/-- Serve an access before its turn: a read takes its data, a write or a merge is performed and keeps what it replaced. -/
def State.ddrAhead (s : State) (c : Nat) (e : DdrEntry) : State :=
  let old := s.chanLine c e.line
  if e.kind = .read then
    s.setChan c fun x =>
      let take := fun (o : DdrEntry) => if o.id = e.id && o.data.isEmpty then { o with data := old.1.map some, poison := old.2 } else o
      { x with rdQ := x.rdQ.map take, stalled := x.stalled.map take }
  else if e.applied.isSome then s
  else
    (s.ddrApply c e).setChan c fun x =>
      let mark := fun (o : DdrEntry) => if o.id = e.id then { o with applied := some old } else o
      { x with wrQ := x.wrQ.map mark, stalled := x.stalled.map mark, flight := x.flight.map mark }

/-- Serve every access to a line that a channel has yet to make, in the order of their arrival, so that an access after them sees
their writes and they see none of its (R534). -/
def State.ddrFlush (s : State) (line : Nat) : State :=
  (List.range 4).foldl (fun t c =>
    let x := t.chan c
    let here := (x.rdQ ++ x.wrQ ++ x.stalled ++ x.flight.filter fun e => decide (e.kind = .merge)).filter fun e => decide (e.line = line)
    (here.mergeSort fun a b => decide (a.id ≤ b.id)).foldl (fun u e => u.ddrAhead c e) t) s

/-- The youngest write of a line that a channel has yet to make, whether it stands in the queue or waits for room in it. -/
def State.ddrPeek (s : State) (c line : Nat) : Option DdrEntry :=
  (((s.chan c).wrQ ++ (s.chan c).stalled.filter fun e => e.kind ≠ .read).filter fun e => e.line = line).getLast?

/-- A read of one DDR5 line by a unit of the device: data, poison, error response (R531, R549, log 18). -/
def State.ddrReadLine (s : State) (who : DdrWho) (line : Nat) : (List Byte × Bool × Bool) × State :=
  if !s.inDdr line then let r := s.freeLine; ((r.1, true, true), r.2)
  else
    let c := s.readChan s.ddrMap (s.placeOf line).ch
    let forwarded : Bool := match s.ddrPeek c line with | some w => decide (w.kind = .write) | none => false
    let s := (s.ddrFlush line).ddrTouch c
    let l := s.chanLine c line
    if s.unfilled (line / 65536) then ((List.replicate 64 0, true, false), s.count (DMC_FILL_RD_COUNT c) 1)
    else if forwarded then ((l.1, l.2, false), s.count (DMC_FORWARDED_COUNT c) 1)
    else
      let k := (s.activate c who line).ddrCheck c line l.1 l.2 (s.quality c line)
      ((k.1.data, k.1.poison, false), k.2)

/-- A write reaches an unfilled granule, which is filled first; a real-time write so delayed counts in FILL_STALL (R525, R526). -/
def State.fillFor (s : State) (who : DdrWho) (cs : List Nat) (line : Nat) : State :=
  if s.unfilled (line / 65536) then
    let s := s.poisonGranule (line / 65536)
    match who with
    | .rt _ => cs.foldl (fun t c => t.count (DMC_FILL_STALL_COUNT c) 1) s
    | .be _ => s
  else s

/-- The class in which a merge runs: best effort, whatever its requester; a real-time port's runs as CTL's (R535, log 19). -/
def mergeWho (who : DdrWho) : DdrWho := match who with | .rt _ => .be 1 | .be r => .be r

/-- A merge on one channel: a read and a write of the best-effort class (R535). -/
def State.ddrMerge (s : State) (c : Nat) (e : DdrEntry) : State :=
  let s := (s.count (DMC_MERGES_COUNT c) 1).activate c (mergeWho e.who) e.line
  let l := s.chanLine c e.line
  let k := s.ddrCheck c e.line l.1 l.2 (s.quality c e.line)
  (k.2.activate c (mergeWho e.who) e.line).lineStore c e.line (e.over k.1.data) (k.1.poison || e.poison)

/-- A write of bytes within one DDR5 line by a unit of the device: error response. A write of less than a line merges (R531, R535,
log 18). -/
def State.ddrWriteLine (s : State) (who : DdrWho) (addr : Nat) (data : List (Option Byte)) (poison : Bool) : Bool × State :=
  let line := addr / 64 * 64
  if !s.inDdr line then (true, s)
  else
    let cs := s.writeChans s.ddrMap (s.placeOf line).ch
    let s := (cs.foldl State.ddrTouch (s.ddrFlush line)).fillFor who cs line
    let whole := decide (addr = line ∧ data.length = 64) && data.all Option.isSome
    let e : DdrEntry := ⟨0, who, if whole then .write else .merge, line, List.replicate (addr - line) none ++ data, poison, none⟩
    (false, cs.foldl (fun t c => if whole then (t.activate c who line).ddrApply c e else t.ddrMerge c e) s)

/-! ### Queued requests (R532 to R535) -/

/-- Deliver an answer. -/
def State.ddrDeliver (s : State) (e : DdrEntry) (data : List Byte) (poison err : Bool) : State :=
  let s := s.emit (.ddrAnswer e.id data poison err)
  match e.who with
  | .rt p => if p < 8 then { s with ddr := { s.ddr with staged := s.ddr.staged.set (Fin.ofNat 9 p) (s.ddr.staged[Fin.ofNat 9 p] + 1) } } else s
  | .be _ => s

/-- HIGH mark of a port in lines: as the firmware has set it, or as the register holds it (R537, R538). -/
def State.panicHigh (s : State) (p : Nat) : Nat :=
  match s.ddr.highMark[Fin.ofNat 9 p] with
  | some n => n
  | none => s.rd (DMC0_PANIC_HIGH_LINES p)

/-- Lines of a real-time port that the channels have yet to write. -/
def State.portWrites (s : State) (p : Nat) : Nat :=
  (((List.range 4).flatMap fun c => (((s.chan c).wrQ ++ (s.chan c).stalled).filter fun e => decide (e.kind ≠ .read ∧ e.who = .rt p)).map
    fun e => e.id).eraseDups).length

/-- Lines that a real-time port has staged: those that its requests have brought and those of its head's fetchers, layers on ports 0 to 3
and gain words on ports 4 to 7; of port 8, the lines that it waits to write (R531, R537, log 19). -/
def State.portStaged (s : State) (p : Nat) : Nat :=
  if p = 8 then s.portWrites 8
  else s.ddr.staged[Fin.ofNat 9 p] +
    s.heads[Fin.ofNat 4 (p % 4)].staged.countP fun m => s.inDdr m.addr && (decide (m.layer = 64) == decide (4 ≤ p))

/-- Whether a real-time port has staged lines or waits for some. -/
def State.portActive (s : State) (p : Nat) : Bool :=
  decide (s.portStaged p ≠ 0) || (List.range 4).any fun c =>
    let x := s.chan c
    (x.rdQ ++ x.stalled ++ x.flight).any fun e => decide (e.who = .rt p)

/-- A port's panic state follows its marks: it enters panic where it has staged less than its LOW mark while it is active, or where what it
has staged has just fallen below it (R537). -/
def State.panicFollow (s : State) (p : Nat) : State :=
  let n := s.portStaged p
  let low := s.rd (DMC0_PANIC_LOW_LINES p)
  let inP := (s.rd DMC0_PANIC_STATUS_PORTS).testBit p
  let fell := decide (low ≤ s.ddr.stagedWas[Fin.ofNat 9 p])
  let s : State := { s with ddr := { s.ddr with stagedWas := s.ddr.stagedWas.set (Fin.ofNat 9 p) n } }
  if !inP && (s.portActive p || fell) && decide (n < low) then
    (s.wr DMC0_PANIC_STATUS_PORTS (s.rd DMC0_PANIC_STATUS_PORTS + 2 ^ p)).count DMC0_PANIC_ENTRIES_COUNT 1
  else if inP && decide (s.panicHigh p < n) then
    s.wr DMC0_PANIC_STATUS_PORTS (s.rd DMC0_PANIC_STATUS_PORTS - 2 ^ p)
  else s

/-- The ports' panic states follow their marks (R537). -/
def State.panicUpdate (s : State) : State := (List.range 9).foldl State.panicFollow s

/-- Put an access into its queue, or hold it while the queue is full or an earlier access waits for room in it (R533). -/
def State.ddrEnqueue (s : State) (c : Nat) (e : DdrEntry) : State :=
  s.setChan c fun x =>
    let read := decide (e.kind = .read)
    let behind := x.stalled.any fun o => decide (o.kind = .read) == read
    if behind then { x with stalled := x.stalled ++ [e] }
    else if read then
      if x.rdQ.length < 96 then { x with rdQ := x.rdQ ++ [e] } else { x with stalled := x.stalled ++ [e] }
    else if x.wrQ.length < 64 then { x with wrQ := x.wrQ ++ [e] } else { x with stalled := x.stalled ++ [e] }

/-- One line of a read request (R525, R534, R549). -/
def State.ddrReadReq (s : State) (who : DdrWho) (line : Nat) : State :=
  let e : DdrEntry := ⟨s.ddr.nextId, who, .read, line, [], false, none⟩
  let s := { s with ddr := { s.ddr with nextId := s.ddr.nextId + 1 } }
  if !s.inDdr line then let r := s.freeLine; r.2.ddrDeliver e r.1 true true
  else
    let c := s.readChan s.ddrMap (s.placeOf line).ch
    let s := s.ddrTouch c
    if s.unfilled (line / 65536) then
      (s.count (DMC_FILL_RD_COUNT c) 1).ddrDeliver e (List.replicate 64 0) true false
    else
      match s.ddrPeek c line with
      | some w =>
        if w.kind = .write then
          let l := if w.applied.isSome then s.chanLine c line else (w.over [], w.poison)
          (s.count (DMC_FORWARDED_COUNT c) 1).ddrDeliver e l.1 l.2 false
        else s.ddrEnqueue c e
      | none => s.ddrEnqueue c e

/-- One line of a write request (R525, R535, R555). -/
def State.ddrWriteReq (s : State) (who : DdrWho) (line : Nat) (data : List (Option Byte)) (poison : Bool) : State :=
  let whole := data.all Option.isSome && decide (data.length = 64)
  let e : DdrEntry := ⟨s.ddr.nextId, who, if whole then .write else .merge, line, data, poison, none⟩
  let s := { s with ddr := { s.ddr with nextId := s.ddr.nextId + 1 } }
  if !s.inDdr line then s.ddrDeliver e [] true true
  else
    let cs := s.writeChans s.ddrMap (s.placeOf line).ch
    let s := s.fillFor who cs line
    let s := if whole then s else cs.foldl (fun t c => t.count (DMC_MERGES_COUNT c) 1) s
    cs.foldl (fun t c => (t.ddrTouch c).ddrEnqueue c e) s

/-- The lines of a request from an address on: (line, bytes of the line, enabled). -/
def splitLines : Nat → Nat → List Byte → List (Nat × List (Option Byte))
  | 0, _, _ => []
  | fuel + 1, a, d =>
    if d.isEmpty then []
    else
      let line := a / 64 * 64
      let n := min d.length (64 - (a - line))
      (line, List.replicate (a - line) none ++ (d.take n).map some ++ List.replicate (64 - (a - line) - n) none)
        :: splitLines fuel (line + 64) (d.drop n)

/-- DDR_REQUEST (R531 to R535): a request of a real-time port or a best-effort requester. -/
def execDdrRequest (realTime : Bool) (r : Nat) (addr : Nat) (op : DdrOp) (s : State) : Host.Outcome State Fault Refusal :=
  let who : DdrWho := if realTime then .rt (r % 9) else .be (r % 4)
  .next (s.when s.mainUp fun s =>
    match op with
    | .read len =>
      ((List.range ((addr + len + 63) / 64 - addr / 64)).foldl (fun t i => t.ddrReadReq who ((addr / 64 + i) * 64)) s).panicUpdate
    | .write data poison =>
      ((splitLines (data.length + 1) addr data).foldl (fun t x => t.ddrWriteReq who x.1 x.2 poison) s).panicUpdate)

/-! ### Command slots (R536, R539 to R546) -/

/-- Whether any real-time port is in panic. -/
def State.panic (s : State) : Bool := s.rd DMC0_PANIC_STATUS_PORTS != 0

/-- Banks (rank × 32 + bank group × 4 + bank) that queued accesses of a channel need. -/
def State.busyBanks (s : State) (c : Nat) : List (Nat × Nat) :=
  ((s.chan c).rdQ ++ (s.chan c).wrQ).map fun e => let p := s.placeOf e.line; (p.rank, p.ba)

/-- Whether a mitigation or an access occupies a bank (R544, R545). -/
def State.bankTaken (s : State) (c b : Nat) : Bool := (s.chan c).taken.any fun x => decide (x.1 = b ∧ s.now < x.2)

/-- Whether one of the eight banks of a bank index (rank × 4 + bank index) is occupied. -/
def State.indexTaken (s : State) (c i : Nat) : Bool := (List.range 8).any fun g => s.bankTaken c (i / 4 * 32 + g * 4 + i % 4)

/-- The refresh that has been postponed four times, which is issued ahead of every access (R540). -/
def State.refreshForced (s : State) (c : Nat) : Option Nat :=
  (List.range 8).find? fun i => decide (4 ≤ (s.chan c).postponed.toList.getD i 0)

/-- The refresh that a channel issues at a slot without panic, if any (R539 to R541): a postponed one, then one whose tREFI has passed
without it, then a due one whose banks no queued access needs; none of an occupied bank. The answer is (rank × 4 + bank index,
postponed). -/
def State.refreshPick (s : State) (c : Nat) : Option (Nat × Bool) :=
  let ch := s.chan c
  let at_ := fun (v : Vector Nat 8) i => v.toList.getD i 0
  let free := (List.range 8).filter fun i => !s.indexTaken c i
  if s.panic then none
  else
    match free.find? fun i => decide (0 < at_ ch.postponed i) with
    | some i => some (i, true)
    | none =>
      match free.find? fun i => decide (2 ≤ at_ ch.due i) with
      | some i => some (i, false)
      | none => (free.find? fun i => decide (0 < at_ ch.due i) && !(s.busyBanks c).contains (i / 4, i % 4)).map (·, false)

/-- Apply the drifts that wait for a refresh of a rank (R523): the write delays of the device's lanes move, and its baseline with them; a
lane that the host has set stays as it is (R33). -/
def State.applyDrift (s : State) (c rank : Nat) : State :=
  let n := if s.flag (DMC_DIMM_X8 c) then 8 else 4
  let mine := (s.chan c).drift.filter fun d => decide (d.1 / 20 = rank)
  let t := mine.foldl (fun t d =>
    (List.range n).foldl (fun u j =>
      let l := 40 * (d.1 % 20 / 10) + n * (d.1 % 10) + j
      if l < 80 ∧ !u.hostRegs.contains (DMC_LANE_DLY_WR c l).off then
        u.wr (DMC_LANE_DLY_WR c l) (wrap 8 ((u.rd (DMC_LANE_DLY_WR c l) : Int) + d.2.1)) else u) t) s
  t.setChan c fun x => { x with
    drift := x.drift.filter fun d => !decide (d.1 / 20 = rank)
    oscBase := mine.map (fun d => (d.1, (x.oscBase.lookup d.1).getD 0 + d.2.1)) ++ x.oscBase.filter fun e => !mine.any fun d => d.1 = e.1 }

/-- A slot passes that the best-effort class does not get (R536). -/
def DdrChan.passed (x : DdrChan) : DdrChan := { x with beWait := x.beWait + 1 }

/-- Issue a refresh (R539 to R541); the slot is one that the best-effort class does not get (R536). -/
def State.refreshIssue (s : State) (c : Nat) (i : Nat) (post : Bool) : State :=
  let ch := s.chan c
  let s := (s.applyDrift c (i / 4)).setChan c DdrChan.passed
  if post then
    if (List.range 4).all fun b => decide (0 < ch.postponed.toList.getD (i / 4 * 4 + b) 0) then
      let drop1 := fun (v : Vector Nat 8) b => v.set (Fin.ofNat 8 (i / 4 * 4 + b)) (v[Fin.ofNat 8 (i / 4 * 4 + b)] - 1)
      (s.setChan c fun x => { x with postponed := (List.range 4).foldl drop1 x.postponed }).count (DMC_REF_AB_COUNT c) 1
    else s.setChan c fun x => { x with postponed := x.postponed.set (Fin.ofNat 8 i) (x.postponed[Fin.ofNat 8 i] - 1) }
  else s.setChan c fun x => { x with due := x.due.set (Fin.ofNat 8 i) (x.due[Fin.ofNat 8 i] - 1) }

/-- While a port is in panic, what is due is postponed, at most four times per bank index (R540). -/
def State.postpone (s : State) (c : Nat) : State :=
  if s.panic then
    (List.range 8).foldl (fun t i =>
      let ch := t.chan c
      let d := ch.due[Fin.ofNat 8 i]
      let p := ch.postponed[Fin.ofNat 8 i]
      let k := min d (4 - min 4 p)
      if k = 0 then t
      else (t.setChan c fun x => { x with due := x.due.set (Fin.ofNat 8 i) (d - k), postponed := x.postponed.set (Fin.ofNat 8 i) (p + k) }).count
        (DMC_REF_POSTPONED_COUNT c) k) s
  else s

/-- An entry may issue only when no older access to its line is queued or on its way (R534). -/
def DdrChan.eligible (x : DdrChan) (e : DdrEntry) : Bool :=
  (x.rdQ ++ x.wrQ ++ x.flight ++ x.stalled).all fun o => !decide (o.line = e.line ∧ o.id < e.id)

/-- Whether an entry is an access of a port in panic; a merge runs in the best-effort class (R535, R537). -/
def State.inPanic (s : State) (e : DdrEntry) : Bool :=
  match e.kind, e.who with
  | .merge, _ => false
  | _, .rt p => (s.rd DMC0_PANIC_STATUS_PORTS).testBit p
  | _, .be _ => false

/-- Best-effort entry: merges count as best effort whatever their requester (R535). -/
def DdrEntry.isBe (e : DdrEntry) : Bool :=
  match e.kind, e.who with
  | .merge, _ => true
  | _, .be _ => true
  | _, .rt _ => false

/-- Best-effort requester of an entry; a real-time port's merge counts as CTL's (log 19). -/
def DdrEntry.beReq (e : DdrEntry) : Nat := match e.who with | .be r => r | .rt _ => 1

/-- The accesses of a list that a channel that serves accesses may issue: none before an older one to its line, none in an occupied bank
or one that owes a mitigation (R534, R544, R545, R565). -/
def State.issuable (s : State) (c : Nat) (l : List DdrEntry) : List DdrEntry :=
  let x := s.chan c
  if s.flag (DMC_CTRL_EN c) then
    l.filter fun e =>
      let b := (s.placeOf e.line).bank
      x.eligible e && !s.bankTaken c b && (x.mitigate.lookup b).isNone
  else []

/-- Reads and writes in the order in which a class takes them: reads come first but for a write queue of 48 lines or no waiting read
(R536). -/
def State.issueOrder (s : State) (c : Nat) : List (List DdrEntry) :=
  let x := s.chan c
  let l := [s.issuable c x.rdQ, s.issuable c x.wrQ]
  if 48 ≤ x.wrQ.length ∨ x.rdQ.isEmpty then l.reverse else l

/-- The best-effort access of a list by weighted round robin (R536). -/
def State.bePick (s : State) (c : Nat) (l : List DdrEntry) : Option DdrEntry :=
  let rr := (s.chan c).rr
  let q := l.filter DdrEntry.isBe
  ((List.range 4).find? fun k => q.any fun e => decide (e.beReq = (rr + k) % 4)).bind fun k => q.find? fun e => decide (e.beReq = (rr + k) % 4)

/-- The best-effort access that nine slots without one owe, where no port is in panic (R536, R537). -/
def State.owedPick (s : State) (c : Nat) : Option DdrEntry :=
  if 9 ≤ (s.chan c).beWait ∧ !s.panic then (s.issueOrder c).findSome? (s.bePick c) else none

/-- The access that a channel issues at a slot (R536, R537): ports in panic first, then the real-time class, then the best-effort
class. -/
def State.accessPick (s : State) (c : Nat) : Option DdrEntry :=
  let x := s.chan c
  let pan := (s.issuable c x.rdQ ++ s.issuable c x.wrQ).find? s.inPanic
  let rt := (s.issueOrder c).findSome? fun l => l.find? fun e => !e.isBe
  let be := (s.issueOrder c).findSome? (s.bePick c)
  [if s.panic then pan else none, rt, be].findSome? id

/-- Move requests that waited into queues with room (R533). -/
def DdrChan.unstall (x : DdrChan) : DdrChan :=
  x.stalled.foldl (fun y e =>
    if e.kind = .read then
      if y.rdQ.length < 96 then { y with rdQ := y.rdQ ++ [e], stalled := y.stalled.filter fun o => o ≠ e } else y
    else if y.wrQ.length < 64 then { y with wrQ := y.wrQ ++ [e], stalled := y.stalled.filter fun o => o ≠ e } else y) x

/-- The round robin of the best-effort class after a slot of a requester: it keeps its turn until its weight is used (R536). -/
def DdrChan.turn (x : DdrChan) (r weight : Nat) : DdrChan :=
  let left := (if x.rr = r ∧ 0 < x.rrLeft then x.rrLeft else weight) - 1
  { x with rr := if left = 0 then (r + 1) % 4 else r, rrLeft := left, beWait := 0 }

/-- Issue an access: a read or a merge is on its way, a write is stored; the row's activate is counted (R532, R543, R546). A read whose
data a later access has already caught keeps them; what has been performed before its turn is not performed again. -/
def State.accessIssue (s : State) (c : Nat) (e : DdrEntry) : State :=
  let l := s.chanLine c e.line
  let old := e.applied.getD l
  let done : DdrDone := ⟨e, old.1, old.2⟩
  let read := if e.data.isEmpty then { e with data := l.1.map some, poison := l.2 } else e
  let s := s.setChan c fun x =>
    { x with
      rdQ := x.rdQ.filter fun o => o ≠ e
      wrQ := x.wrQ.filter fun o => o ≠ e
      flight := if e.kind = .write then x.flight else x.flight ++ [if e.kind = .read then read else e]
      recent := (x.recent ++ [done]).drop ((x.recent.length + 1) - 64) }
  let s := s.setChan c fun x => (if e.isBe then x.turn e.beReq (s.beWeight c e.beReq) else x.passed).unstall
  let s := if e.kind = .write ∧ e.applied.isNone then s.ddrApply c e else s
  (s.activate c (if e.kind = .merge then mergeWho e.who else e.who) e.line).panicUpdate

/-- A slot of a channel that no forced refresh takes: an owed best-effort access, a refresh, a mitigation that is owed, or an access
(R536, R539, R544). -/
def State.slotServe (s : State) (c : Nat) : State :=
  match s.owedPick c with
  | some e => s.accessIssue c e
  | none =>
    match s.refreshPick c with
    | some (i, post) => s.refreshIssue c i post
    | none =>
      match (s.chan c).mitigate.find? fun m => !s.bankTaken c m.1 with
      | some m => (s.mitigate c m.1 m.2).setChan c DdrChan.passed
      | none =>
        match s.accessPick c with
        | some e => s.accessIssue c e
        | none => s

/-- DDR_COMMAND_SLOT (R536, R539 to R546): one command slot of a channel. A refresh postponed four times comes before all else, and takes
the slot also while one of its banks is still occupied. -/
def execDdrCommandSlot (c : Fin 4) (s : State) : Host.Outcome State Fault Refusal :=
  if s.flag (DMC_STATUS_SELF_REFRESH c) then .next s
  else
    let s := s.postpone c
    match s.refreshForced c with
    | some i => .next (if s.indexTaken c i then s.setChan c DdrChan.passed else s.refreshIssue c i true)
    | none => .next (s.slotServe c)

/-- The read of a merge returns as `q` says: the merge turns into the write of the whole line, which takes a slot of its own and waits where
the write queue is full (R533, R535). A merge performed before its turn takes on what its read brings where its line still stands. -/
def State.mergeReturn (s : State) (c : Nat) (e : DdrEntry) (q : DdrQuality) : State :=
  let old := e.applied.getD (s.chanLine c e.line)
  let k := s.ddrCheck c e.line old.1 old.2 q
  let d := e.over k.1.data
  let p := k.1.poison || e.poison
  let s := k.2
  let s := if e.applied.isSome ∧ s.chanLine c e.line = (e.over old.1, e.marks old.2) then s.lineStore c e.line d p else s
  let w : DdrEntry := { e with kind := .write, who := mergeWho e.who, data := d.map some, poison := p }
  s.setChan c fun x => if x.wrQ.length < 64 then { x with wrQ := w :: x.wrQ } else { x with stalled := w :: x.stalled }

/-- A read returns as `q` says and is delivered (R549). -/
def State.readReturn (s : State) (c : Nat) (e : DdrEntry) (q : DdrQuality) : State :=
  let d := e.data.map fun x => x.getD 0
  let k := s.ddrCheck c e.line d e.poison q
  let s := if k.2.chanLine c e.line = (d, e.poison) then k.2.noteQuality c e.line q else k.2
  (s.ddrDeliver e k.1.data k.1.poison false).panicUpdate

/-- DDR_READ_RETURN (R535, R549): the oldest read on its way on a channel returns. -/
def execDdrReadReturn (c : Fin 4) (q : DdrQuality) (s : State) : Host.Outcome State Fault Refusal :=
  match (s.chan c).flight with
  | [] => .next s
  | e :: rest =>
    let s := s.setChan c fun x => { x with flight := rest }
    .next (if e.kind = .merge then s.mergeReturn c e q else s.readReturn c e q)

/-! ### Timers and reports of the channels -/

/-- tREFI of a channel in ns: that of REFRESH, halved while its DIMM is HOT (R539, R542). -/
def State.tRefi (s : State) (c : Nat) : Nat := s.rd (DMC_REFRESH_TREFI c) / (if s.flag (DMC_STATUS_HOT c) then 2 else 1)

/-- REFRESH_DUE (R539): a tREFI of a rank has elapsed; what it still owes is issued at its last slot, and each of its four bank indices
owes the next refresh. -/
def execRefreshDue (c : Fin 4) (rank : Fin 2) (s : State) : Host.Outcome State Fault Refusal :=
  let add1 := fun (v : Vector Nat 8) b => v.set (Fin.ofNat 8 (rank.val * 4 + b)) (v[Fin.ofNat 8 (rank.val * 4 + b)] + 1)
  .next (s.when (s.mainUp && decide (rank.val < s.rd (DMC_DIMM_RANKS c) ∧ (s.chan c).refAt[rank] + s.tRefi c ≤ s.now)) fun s =>
    let s := (List.range 4).foldl (fun t b =>
      if 0 < (t.chan c).due[Fin.ofNat 8 (rank.val * 4 + b)] then t.refreshIssue c (rank.val * 4 + b) false else t) s
    (s.setChan c fun x => { x with due := (List.range 4).foldl add1 x.due, refAt := x.refAt.set rank s.now }).postpone c)

/-- HAMMER_WINDOW (R543): a 32 ms window of device time starts and every activate table is cleared. -/
def execHammerWindow (s : State) : Host.Outcome State Fault Refusal :=
  let w := s.time.ns / 32000000
  .next (s.when (s.mainUp && decide (w ≠ s.ddr.window)) fun s =>
    let s : State := { s with ddr := { s.ddr with window := w } }
    (List.range 4).foldl (fun t c => t.setChan c fun x => { x with acts := [] }) s)

/-- REFRESH_STATUS_POLL (R542): every 32 ms the controller reads a powered DIMM's refresh rate status; the report is made when it becomes
HOT. -/
def execRefreshStatusPoll (c : Fin 4) (hot : Bool) (s : State) : Host.Outcome State Fault Refusal :=
  .next (s.when (s.mainUp && decide (c.val < s.nDdr) && s.flag (DMC_STATUS_POWERED c) &&
      decide ((s.chan c).polledAt + 32000000 ≤ s.now)) fun s =>
    let s := s.setChan c fun x => { x with polledAt := s.now }
    if hot && !s.flag (DMC_STATUS_HOT c) then
      ((s.wr (DMC_STATUS_HOT c) 1).setCause (causeDmc c 5)).report EV_DDR_HOT (src 5 c) 0
    else s.wr (DMC_STATUS_HOT c) (b2n hot))

/-- The conditions of self-refresh entry on a channel (R267, R553); a request of the moment at which the idle time expires comes first
(R554), and an idle time of 0 is no count (R42). -/
def State.mayRest (s : State) (c : Nat) : Bool :=
  let x := s.chan c
  s.mainUp && s.flag (DMC_CTRL_EN c) && s.flag (DMC_CTRL_SR_EN c) && !s.flag (DMC_STATUS_SELF_REFRESH c) &&
  (List.range 4).all (fun h => !s.flag (HEAD_STATUS_RUNNING h) || s.flag (HEAD_STATUS_REEF h)) &&
  decide (0 < s.rd (DMC_SR_IDLE_US c) ∧ x.lastAccess + 1000 * s.rd (DMC_SR_IDLE_US c) < s.now) &&
  x.rdQ.isEmpty && x.wrQ.isEmpty && x.flight.isEmpty && x.stalled.isEmpty &&
  s.ddr.fill.isNone && s.ddr.scrub.isNone && x.resilver.isNone && (s.chan (partner c)).resilver.isNone

/-- SELF_REFRESH_ENTRY (R553): an idle channel that meets the conditions enters self-refresh. -/
def execSelfRefreshEntry (c : Fin 4) (s : State) : Host.Outcome State Fault Refusal :=
  .next (if s.mayRest c then (s.wr (DMC_STATUS_SELF_REFRESH c) 1).count (DMC_SR_ENTRIES_COUNT c) 1 else s)

/-- The commands whose error recurred, given by their index among the last ones, the youngest first, each with whether a later write of
its line has been performed (R550). -/
def caBad (again : List Nat) (last : List DdrDone) : List (DdrDone × Bool) :=
  let written := fun (d : DdrDone) j => !again.contains j &&
    (match last[j]? with | some o => decide (o.entry.kind = .write ∧ o.entry.line = d.entry.line) | none => false)
  (List.range last.length).reverse.filterMap fun i =>
    if again.contains i then
      last[i]?.map fun d => (d, (List.range last.length).any fun j => decide (i < j) && written d j)
    else none

/-- An access is treated as not performed: where the line of a channel still holds what it wrote, it holds its old content again (R550). -/
def State.lineUndo (s : State) (c : Nat) (e : DdrEntry) (old : List Byte × Bool) : State :=
  if s.chanLine c e.line = (e.over old.1, e.marks old.2) then s.lineStore c e.line old.1 old.2 else s

/-- A command whose CA parity error recurred (R550): its channel is counted and marked, a write or a merge leaves what it replaced unless the
line has been written `since`, and the requester takes an error, but for a read that has been answered already. -/
def State.caFails (s : State) (c : Nat) (d : DdrDone) (since : Bool) : State :=
  let e := d.entry
  let x := s.chan c
  let open_ := (x.flight ++ x.wrQ ++ x.stalled).find? fun o => decide (o.id = e.id)
  let s := ((s.count (DMC_CA_FAIL_COUNT c) 1).setChan c fun x =>
    { x with
      badSince := true
      flight := x.flight.filter fun o => o.id ≠ e.id
      wrQ := if e.kind = .merge then x.wrQ.filter fun o => o.id ≠ e.id else x.wrQ
      stalled := if e.kind = .merge then x.stalled.filter fun o => o.id ≠ e.id else x.stalled }).report EV_DDR_CA_PARITY (src 5 c)
      (ddrDetail c (s.placeOf e.line) 31 31 0)
  let s := match e.kind, open_ with
    | .write, _ => if since then s else s.lineUndo c e (d.oldData, d.oldPoison)
    | .merge, some o => (match o.applied with | some old => s.lineUndo c e old | none => s)
    | _, _ => s
  if e.kind = .read ∧ open_.isNone then s else s.ddrDeliver e [] true true

/-- CA_PARITY_REPORT (R550): the last 64 commands are issued once more; those whose error recurs, given by their index among
them, get error responses, and a write among them is undone. -/
def execCaParityReport (c : Fin 4) (recurring : List Nat) (s : State) : Host.Outcome State Fault Refusal :=
  .next (s.when s.mainUp fun s =>
    let s := (s.count (DMC_CA_RETRY_COUNT c) 1).setCause (causeDmc c 2)
    (caBad recurring (s.chan c).recent).foldl (fun t d => t.caFails c d.1 d.2) s)

/-- DQS_OSC_READ (R523): every 100 ms the firmware reads the oscillators of a channel that runs, given by 20 × rank + device position in
1/64 UI from the baseline of training; a device whose drift from its baseline exceeds 1/16 UI (4/64) waits for the next refresh of its
rank, and one that has waited over 1 s is logged. -/
def execDqsOscRead (c : Fin 4) (drifts : List (Nat × Int)) (s : State) : Host.Outcome State Fault Refusal :=
  .next (s.when (s.mainUp && s.duplex.fwUp && s.flag (DMC_CTRL_EN c) && decide ((s.chan c).oscAt + 100000000 ≤ s.now)) fun s =>
    let late := fun (d : Nat × Int × Option Nat) => match d.2.2 with | some t => decide (t + 1000000000 < s.now) | none => false
    let old := (s.chan c).drift
    let s := if old.any late then ((s.setCause (causeDmc c 7)).report EV_DDR_DRIFT (src 5 c) 0) else s
    let from_ := drifts.map fun d => (d.1, d.2 - (((s.chan c).oscBase.lookup d.1).getD 0))
    let new := from_.filter fun d => decide (4 < d.2.natAbs) && !old.any fun e => e.1 = d.1
    s.setChan c fun x => { x with
      oscAt := s.now
      drift := (old.map fun d => if late d then (d.1, d.2.1, none) else d) ++ new.map fun d => (d.1, d.2, some s.now) })

/-! ### Fill (R524, R525, R530) -/

/-- Bytes that a mapping installs (R555). -/
def DdrMap.bytes (m : DdrMap) : Nat := m.channels * m.gib * 2 ^ 30 / (if m.mirror then 2 else 1)

/-- The region of the fill map is given up. -/
def State.mapFree (s : State) : State :=
  match s.ddr.fillRegion with
  | some k => { s.dsmFreeRegion k with ddr := { s.ddr with fillRegion := none } }
  | none => s

/-- Densum regions that hold one bit for each 64 KiB of DDR5, in units of 64 KiB (R525). -/
def mapUnits (bytes : Nat) : Nat := bytes / 2 ^ 35 + b2n (bytes % 2 ^ 35 ≠ 0)

/-- The fill map takes a firmware region, one bit for each 64 KiB (R525; read and written by DMC: log 55). -/
def State.mapPlace (s : State) (bytes : Nat) : State :=
  match s.dsmNewRegion ((mapUnits bytes)) 0x10 0x10 false false with
  | some r => { r.2 with ddr := { r.2.ddr with fillRegion := some r.1 } }
  | none => s

/-- Apply the mapping and start the fill, or set MAP_ERR (R530). -/
def State.initStart (s : State) : State :=
  let m := s.mapRegs
  if m.channels = 0 || !m.valid || !m.mirrorOk then s.wr DMC0_INIT_STATUS_MAP_ERR 1
  else
    let fast := s.flag DMC0_INIT_CTRL_FAST
    let s := s.mapFree
    let s := { s with ddr := { s.ddr with map := some m, fill := some 0, fast := fast, filled := [] } }
    let s := if fast then s.mapPlace m.bytes else s
    let s := ((s.wr DMC0_INIT_STATUS_MAP_ERR 0).wr DMC0_INIT_STATUS_FILL_DONE 0).wr DMC0_INIT_STATUS_PROGRESS 0
    s.wr DMC0_INIT_STATUS_DONE (b2n fast)

/-- Granules of the mapped capacity. -/
def State.granules (s : State) : Nat :=
  match s.ddr.map with
  | some m => m.bytes / 65536
  | none => 0

/-- FILL_GRANULE (R524, R525): the init engine fills the next granule; after the last DDR5 is installed and filled. -/
def execFillGranule (s : State) : Host.Outcome State Fault Refusal :=
  match s.ddr.fill with
  | none => .next s
  | some g =>
    let n := s.granules
    let s := if s.ddr.fast then (if s.ddr.filled.contains g then s else s.poisonGranule g) else s.zeroGranule g
    let s := { s with ddr := { s.ddr with fill := if g + 1 < n then some (g + 1) else none } }
    let s := s.wr DMC0_INIT_STATUS_PROGRESS (min 65535 ((g + 1) * 65536 / max 1 n))
    .next (if g + 1 < n then s
      else ({ s with ddr := { s.ddr with filled := [] } }.mapFree.wr DMC0_INIT_STATUS_DONE 1).wr DMC0_INIT_STATUS_FILL_DONE 1)

/-! ### Slots and training (R515 to R522) -/

/-- The pin DIMM_PWR_ENn of slot n: SLOT_PWR.EN, low while the device is in reset (R518). -/
def State.dimmPwrEn (s : State) (c : Nat) : Bool := s.mainUp && s.flag (DMC_SLOT_PWR_EN c)

/-- Slot power follows SLOT_PWR.EN, and so does the pin DIMM_PWR_ENn (R518). -/
def State.slotPower (s : State) (c : Nat) (on : Bool) : State :=
  let was := s.flag (DMC_SLOT_PWR_EN c)
  let s := s.wr (DMC_SLOT_PWR_EN c) (b2n on)
  let s := if was = on then s else s.emit (.dimmPower c on)
  if on then (if was then s else s.setChan c fun x => { x with phase := .pmic s.now })
  else
    (((s.wr (DMC_STATUS_POWERED c) 0).wr (DMC_STATUS_TRAINED c) 0).wr (DMC_STATUS_SELF_REFRESH c) 0).setChan c fun x =>
      { x with phase := .none, spd := none, own := [], bad := [] }

/-- The line at a place of the DRAM under a mapping (R528, R529): the pivots take the values that give the select bits. -/
def DdrMap.lineAt (m : DdrMap) (p : DdrPlace) : Nat :=
  if m.mode = 0 then
    let pivots := m.masks.filterMap maskPivot
    let rest := ((List.range 32).map (· + 6)).filter fun b => !pivots.contains b
    let v := p.row * 64 + p.col
    let a := rest.zipIdx.foldl (fun a b => if v.testBit b.2 then a + 2 ^ b.1 else a) 0
    let want := [p.ch % 2, p.ch / 2, p.sub, p.rank, p.bg % 2, p.bg / 2 % 2, p.bg / 4, p.ba % 2, p.ba / 2]
    m.masks.zipIdx.foldl (fun x y =>
      match maskPivot y.1 with
      | some b => if maskBit y.1 a = want.getD y.2 0 then x else x + 2 ^ b
      | none => x) a
  else
    let k := log2c m.channels
    let rank := if m.ranks = 2 then p.rank + 2 * p.row else p.row
    let b := 64 * (p.sub + 2 * (p.bg + 8 * (p.ba + 4 * (p.col + 64 * rank))))
    b / 2 ^ m.grain * 2 ^ (m.grain + k) + p.ch * 2 ^ m.grain + b % 2 ^ m.grain

/-- The place of the DRAM at which training bursts run (R521). -/
def State.trainPlace (s : State) (c : Nat) : DdrPlace :=
  ⟨c, s.rd (DMC_TRAIN_CTRL_SUB c), s.rd (DMC_TRAIN_CTRL_RANK c), s.rd (DMC_TRAIN_ADDR_BG c), s.rd (DMC_TRAIN_ADDR_BA c),
    s.rd (DMC_TRAIN_ADDR_ROW c), s.rd (DMC_TRAIN_ADDR_COL c)⟩

/-- The line that the bursts of a channel's pattern write: free values that depend on the pattern alone, since R521 gives no layout of it
on the lanes and beats (log 6). -/
def State.trainLine (s : State) (c : Nat) : List Byte :=
  let inv := s.rd (DMC_TRAIN_INV_LO_LANES c) + 2 ^ 32 * s.rd (DMC_TRAIN_INV_HI_LANES c)
  (List.range 64).map (Config.trainByte (s.rd (DMC_TRAIN_PAT_MODE c)) (s.rd (DMC_TRAIN_SEED_SEED c)) inv (s.rd (DMC_TRAIN_CTRL_BURSTS c)))

/-- Training bursts write their pattern at their place on the channel (R521). -/
def State.trainWrite (s : State) (c : Nat) : State :=
  match s.ddr.map with
  | some m =>
    let a := m.lineAt (s.trainPlace c)
    if s.inDdr a && decide (m.place a = s.trainPlace c) then (s.ddrFlush a).lineStore c a (s.trainLine c) false else s
  | none => s

/-- Run training bursts (R521): ignored while the channel serves accesses, and not started for 0 bursts (R42). Operation 0 writes its
bursts; what the other operations compare comes with TRAIN_DONE. -/
def State.trainGo (s : State) (c : Nat) : State :=
  if s.flag (DMC_CTRL_EN c) || decide (s.rd (DMC_TRAIN_CTRL_BURSTS c) = 0) then s
  else (if s.rd (DMC_TRAIN_CTRL_OP c) = 0 then s.trainWrite c else s).wr (DMC_TRAIN_CTRL_BUSY c) 1

/-- Whether a commit stores a channel's training results. -/
def NvWrite.trains (w : NvWrite) (c : Nat) : Bool := match w with | .training k _ => decide (k = c) | _ => false

/-- Step 5 of R559 begins on a retired channel whose training has passed, once its results are committed or their commit is deferred
(R561). -/
def State.resilverStart (s : State) (c : Nat) : State :=
  let x := s.chan c
  if s.flag (DMC_STATUS_RETIRED c) && !x.retiring && decide (x.phase = .done) && x.resilver.isNone && !s.nv.queue.any fun k => k.what.trains c then
    (s.wr (DMC_STATUS_RESILVER c) 1).setChan c fun x => { x with resilver := some (0, s.now) }
  else s

/-- Whether a DIMM meets R514. -/
def spdSupported (d : Spd) : Bool :=
  d.registered && d.subBits == 40 && decide (d.rate ≤ 2) && (d.gib == 16 || d.gib == 32 || d.gib == 64) && (d.ranks == 1 || d.ranks == 2) && (d.density == 16 || d.density == 32)

/-- Whether two DIMMs may stand in one set (R515). -/
def spdSame (a b : Spd) : Bool :=
  a.gib == b.gib && a.ranks == b.ranks && a.x8 == b.x8 && a.density == b.density

/-- The largest channel set that begins at DC0 (R515). -/
def State.chanSet (s : State) : Nat :=
  let d := fun c => (s.chan c).spd.filter spdSupported
  let same : Nat → Bool := fun c => match d 0, d c with | some a, some b => spdSame a b | _, _ => false
  if (d 0).isNone then 0
  else if s.nDdr = 4 && same 1 && same 2 && same 3 then 4
  else if same 1 then 2 else 1

/-- What the firmware programs from a DIMM's SPD (R517). -/
def State.applySpd (s : State) (c : Nat) (d : Spd) : State :=
  let s := s.setChan c fun x => { x with tRfc1 := d.tRfc1, rfm := d.rfm }
  ((((((s.wrOwn (DMC_DIMM_RANKS c) d.ranks).wrOwn (DMC_DIMM_X8 c) (b2n d.x8)).wrOwn (DMC_DIMM_GIB c)
    (if d.gib = 64 then 6 else if d.gib = 32 then 5 else 4)).wrOwn (DMC_DIMM_DRFM c) (b2n d.drfm)).wrOwn (DMC_REFRESH_TRFCSB c) d.tRfcSb).wrOwn
    (DMC_TRC_NS c) d.tRc)

end Sys2Proof.Machine
end

