-- ==== Sys2Proof/Machine/Memory.lean ====
section
/-! DEFINITION. Accesses to the device address space by a unit, line by line, and the bounds of footprints (R19, R20, R43, R44,
R715). -/

namespace Sys2Proof.Machine

/-- Requester bits of R472. -/
def reqHst : Nat := 0
def reqCtl : Nat := 1
def reqLpl : Nat := 2
def reqCmp : Nat := 3
def reqDmc : Nat := 4
def reqSht : Nat := 5
def reqIng : Nat := 6
def reqHly : Nat := 7
def reqDxb : Nat := 8

/-- The DDR5 class and requester of a unit's access (R531), but for the accesses that a head's fetchers and write-back make: those are of
the head's own ports (`State.lineReadAs`, `State.memWriteAs`). -/
def ddrWho (req : Nat) : DdrWho :=
  if req = reqLpl then .rt 0 else if req = reqCmp then .rt 4 else if req = reqIng then .rt 8
  else if req = reqHst then .be 0 else if req = reqDxb then .be 2 else if req = reqHly then .be 3 else .be 1

/-- First address of the register space alias (R19). -/
def aliasBase : Nat := 0x20000000000
/-- Whether an address lies in the register space alias. -/
def inAlias (a : Nat) : Bool := decide (aliasBase ≤ a ∧ a < aliasBase + 0x200000)
/-- Whether an address lies in the host memory window. -/
def inHost (a : Nat) : Bool := decide (0x80000000000 ≤ a ∧ a < 0x100000000000)

/-- What a read delivers. -/
structure MemAns where
  data : List Byte
  poison : Bool
  err : Bool
deriving DecidableEq, Repr

/-- A read of one aligned line of DDR5 as a requester of its own, of Densum or of the host window; error response elsewhere (R20). -/
def State.lineReadAs (s : State) (who : DdrWho) (req la : Nat) : MemAns × State :=
  if inDsm la then let r := s.dsmReadLine req la; (⟨r.1.data, r.1.poison, r.1.err⟩, r.2)
  else if inHost la then (⟨s.bytes la 64, s.linePoison la, false⟩, s)
  else let r := s.ddrReadLine who la; (⟨r.1.1, r.1.2.1, r.1.2.2⟩, r.2)

/-- A read of one aligned line by a unit. -/
def State.lineRead (s : State) (req la : Nat) : MemAns × State := s.lineReadAs (ddrWho req) req la

/-- A write of bytes within one line, in DDR5 as a requester of its own: error response (R20, R45). -/
def State.lineWriteAs (s : State) (who : DdrWho) (req addr : Nat) (data : List (Option Byte)) (poison : Bool) : Bool × State :=
  if inDsm addr then s.dsmWriteLine req addr data poison
  else if inHost addr then
    let la := addr / 64 * 64
    let whole := decide (addr = la ∧ data.length = 64) && data.all Option.isSome
    let old := s.linePoison la
    let s := s.setBytes addr ((List.range data.length).map fun i => (data.getD i none).getD (s.byte (addr + i)))
    (false, s.setLinePoison la (if whole then poison else old || poison))
  else s.ddrWriteLine who addr data poison

/-- A write of bytes within one line by a unit. -/
def State.lineWrite (s : State) (req addr : Nat) (data : List (Option Byte)) (poison : Bool) : Bool × State :=
  s.lineWriteAs (ddrWho req) req addr data poison

/-- A read of bytes by a unit, line by line in ascending order. -/
def State.memRead (s : State) (req addr len : Nat) : MemAns × State :=
  if len = 0 then (⟨[], false, false⟩, s)
  else
    let n := (addr + len - 1) / 64 + 1 - addr / 64
    let r := (List.range n).foldl (fun (x : MemAns × State) i =>
      let y := x.2.lineRead req ((addr / 64 + i) * 64)
      (⟨x.1.data ++ y.1.data, x.1.poison || y.1.poison, x.1.err || y.1.err⟩, y.2)) (⟨[], false, false⟩, s)
    (⟨slice r.1.data (addr % 64) len, r.1.poison, r.1.err⟩, r.2)

/-- The parts of a write within lines: address and bytes. -/
def splitWrite : Nat → Nat → List Byte → List (Nat × List Byte)
  | 0, _, _ => []
  | fuel + 1, a, d =>
    if d.isEmpty then [] else let n := 64 - a % 64; (a, d.take n) :: splitWrite fuel (a + n) (d.drop n)

/-- A write of bytes, line by line in ascending order: whether any line gave an error response. -/
def State.memWriteAs (s : State) (who : DdrWho) (req addr : Nat) (data : List Byte) (poison : Bool) : Bool × State :=
  (splitWrite (data.length + 1) addr data).foldl (fun (x : Bool × State) p =>
    let r := x.2.lineWriteAs who req p.1 (p.2.map some) poison
    (x.1 || r.1, r.2)) (false, s)

/-- A write of bytes by a unit. -/
def State.memWrite (s : State) (req addr : Nat) (data : List Byte) (poison : Bool) : Bool × State :=
  s.memWriteAs (ddrWho req) req addr data poison

/-- The bound of an address: first address and first beyond (R715). -/
def State.boundOf (s : State) (a : Nat) : Option (Nat × Nat) :=
  if s.inDdr a then some (0, s.ddrBytes)
  else if inDsm a then (s.dsmRegion (a - dsmBase)).map fun k =>
    let r := s.regionSpan k
    (dsmBase + r.1, dsmBase + min r.2 dsmSize)
  else if inAlias a then some (aliasBase, aliasBase + 0x200000)
  else if inHost a then some (0x80000000000, 0x100000000000)
  else none

/-- Whether a footprint from its lowest to its highest address stays inside the bound of its base (R43, R44, R715). -/
def State.footIn (s : State) (base lowest highest : Int) : Bool :=
  decide (0 ≤ base) &&
    match s.boundOf base.toNat with
    | some (lo, hi) => decide ((lo : Int) ≤ lowest ∧ highest < hi)
    | none => false

/-- Whether `len` bytes from an address stay inside its bound. -/
def State.spanOk (s : State) (a len : Nat) : Bool := s.footIn a a (a + len - 1)

/-- Whether a base lies in DDR5 or Densum, where planes and maps may stand (R715). -/
def State.inDdrDsm (s : State) (a : Nat) : Bool := s.inDdr a || inDsm a

/-- Whether a firmware buffer passes its check: DDR5, Densum or the host window (R75). -/
def State.bufOk (s : State) (a len : Nat) : Bool := (s.inDdrDsm a || inHost a) && s.spanOk a len

end Sys2Proof.Machine
end

