-- ==== Sys2Proof/Machine/Halyard.lean ====
section
/-! DEFINITION. Halyard frames and the egress of the ring ports (chapters "The Halyard ring and the Shroud bypass" and "Traffic
scheduling, gating and policing"): header, CRC, queues, shapers, gate lists, policers, what a port sends. Port 0 is HW, port 1 HE. -/

namespace Sys2Proof.Machine

/-! ### Frames (R381 to R385) -/

/-- One bit of the reflected CRC-32. -/
def crcBit (c : Nat) : Nat := if c % 2 = 1 then (c / 2) ^^^ 0xEDB88320 else c / 2

/-- One byte of the CRC-32. -/
def crcByte (c : Nat) (b : Byte) : Nat :=
  crcBit (crcBit (crcBit (crcBit (crcBit (crcBit (crcBit (crcBit (c ^^^ b.toNat))))))))

/-- The CRC-32 of R383. -/
def crc32 (d : List Byte) : Nat := (d.foldl crcByte 0xFFFFFFFF) ^^^ 0xFFFFFFFF

/-- Header and payload of a frame (R382). -/
def HFrame.body (f : HFrame) : List Byte :=
  beBytes 8 (f.cls * 2 ^ 61 + f.src * 2 ^ 45 + f.dst * 2 ^ 29 + f.stream * 2 ^ 17 + (f.payload.length - 1) * 2 ^ 6 + f.seq)
    ++ f.payload

/-- The frame on the line; a stomped frame ends in the complement of its CRC (R384). -/
def HFrame.wire (f : HFrame) (stomp : Bool) : List Byte :=
  let b := f.body
  b ++ beBytes 4 (if stomp then crc32 b ^^^ 0xFFFFFFFF else crc32 b)

/-- The header fields and payload of received bytes (R382); the last four bytes are the CRC. -/
def HFrame.parse (d : List Byte) : HFrame :=
  let h := beAt d 0 8
  { cls := bits h 63 61, src := bits h 60 45, dst := bits h 44 29, stream := bits h 28 17, seq := bits h 5 0
    payload := (d.drop 8).take (d.length - 12) }

/-- State of a received CRC: good, complemented, bad (R384). -/
inductive CrcState where
  | good | stomped | bad
deriving DecidableEq, Repr

/-- Check the CRC of received bytes. -/
def crcState (d : List Byte) : CrcState :=
  let c := crc32 (d.take (d.length - 4))
  let r := beNat (d.drop (d.length - 4))
  if d.length < 13 then .bad else if r = c then .good else if r = c ^^^ 0xFFFFFFFF then .stomped else .bad

/-- Frame bytes and line bytes (chapter "Traffic scheduling"). -/
def HFrame.frameBytes (f : HFrame) : Nat := f.payload.length + 12
def HFrame.lineBytes (f : HFrame) : Nat := f.payload.length + 20

/-! ### Small helpers -/

/-- A ring port. -/
def State.rport (s : State) (p : Nat) : RingPort := s.ring.ports[Fin.ofNat 2 p]

/-- Change a ring port. -/
def State.setRport (s : State) (p : Nat) (f : RingPort → RingPort) : State :=
  { s with ring := { s.ring with ports := s.ring.ports.set (Fin.ofNat 2 p) (f (s.rport p)) } }

/-- Change the ring's state. -/
def State.setRing (s : State) (f : Ring → Ring) : State := { s with ring := f s.ring }

/-- A 64-bit byte counter in two words, modulo 2⁶⁴ (R468). -/
def State.count64 (s : State) (lo hi : Fld) (n : Nat) : State :=
  let v := s.rd lo + s.rd hi * 2 ^ 32 + n
  (s.wr lo (v % 2 ^ 32)).wr hi (v / 2 ^ 32 % 2 ^ 32)

/-- The STATUS bit that shows a port wrapped. -/
def wrapFld (p : Nat) : Fld := if p = 0 then HLY_STATUS_HW_WRAP else HLY_STATUS_HE_WRAP
/-- The STATUS bit that shows a port's lock. -/
def linkFld (p : Nat) : Fld := if p = 0 then HLY_STATUS_HW_LINK else HLY_STATUS_HE_LINK
/-- A port's link delay register. -/
def delayFld (p : Nat) : Fld := if p = 0 then HLY_LINK_DELAY_HW else HLY_LINK_DELAY_HE
/-- The other port. -/
def otherPort (p : Nat) : Nat := 1 - p
/-- Whether a port is wrapped (R411). -/
def State.wrapped (s : State) (p : Nat) : Bool := s.flag (wrapFld p)
/-- This device's ring ID. -/
def State.ringId (s : State) : Nat := s.rd HLY_RING_ID_ID
/-- Whether the main die carries the ring. -/
def State.joined (s : State) : Bool := s.flag HLY_STATUS_JOINED

/-- A port's link delay in 2⁻¹⁶ ns: the mean of its last exchanges (R397, R398); none while invalid. -/
def RingPort.delay16 (x : RingPort) : Option Nat :=
  if x.pdHist.isEmpty then none
  else some ((x.pdHist.foldl (· + ·) 0).toNat * 65536 / (2 * x.pdHist.length))

/-! ### Gate lists (R445 to R448, R452, R453) -/

/-- The entries of one cycle: MASK and length, the last one holding to the end of the cycle (R446). -/
def GateList.spansFrom : List (Nat × Nat) → Nat → List (Nat × Nat)
  | [], _ => []
  | [(m, _)], left => [(m, left)]
  | (m, d) :: t, left => if left ≤ d then [(m, left)] else (m, d) :: GateList.spansFrom t (left - d)

/-- The spans of a list. -/
def GateList.spans (g : GateList) : List (Nat × Nat) := GateList.spansFrom g.entries g.cycle

/-- Where a device time falls: index of the entry, and the spans from there to the end of the cycle, the first one shortened. -/
def GateList.at : List (Nat × Nat) → Nat → Nat → Nat × List (Nat × Nat)
  | [], _, i => (i, [])
  | (m, d) :: t, x, i => if x < d then (i, (m, d - x) :: t) else GateList.at t (x - d) (i + 1)

/-- Position in the cycle at a device time. -/
def GateList.phase (g : GateList) (t : Nat) : Nat := (t - g.start) % max 1 g.cycle

/-- Running entry at a device time. -/
def GateList.entryAt (g : GateList) (t : Nat) : Nat := (GateList.at g.spans (g.phase t) 0).1

/-- Length of the first run of spans in which bit `q` has a value. -/
def runLen (q : Nat) (v : Bool) : List (Nat × Nat) → Nat
  | [] => 0
  | (m, d) :: t => if m.testBit q == v then d + runLen q v t else 0

/-- Time for which queue `q` stays open from a device time on: none when its gate never closes (R448). -/
def GateList.openFor (g : GateList) (q t : Nat) : Option Nat :=
  if g.spans.all fun x => x.1.testBit q then none
  else some (runLen q true ((GateList.at g.spans (g.phase t) 0).2 ++ g.spans))

/-- Longest run over a cycle and its successor in which bit `q` has a value. -/
def longestRun (q : Nat) (v : Bool) : List (Nat × Nat) → Nat
  | [] => 0
  | x :: t => max (runLen q v (x :: t)) (longestRun q v t)

/-- Longest contiguous span in which queue `q` is open; none when it never closes (R452). -/
def GateList.openSpan (g : GateList) (q : Nat) : Option Nat :=
  if g.spans.all fun x => x.1.testBit q then none else some (longestRun q true (g.spans ++ g.spans))

/-- W_gate of a list (R453). -/
def GateList.wGate (g : GateList) : Nat :=
  if g.spans.all fun x => x.1.testBit 6 then 0
  else if g.spans.all fun x => !x.1.testBit 6 then 0xFFFFFF
  else longestRun 6 false (g.spans ++ g.spans) + 166

/-- The operating list that governs a port, if any (R447). -/
def State.governs (s : State) (p : Nat) : Option GateList :=
  if s.flag (HLYQ_GATE_CTRL_EN p) then (s.rport p).oper else none

/-- Whether a frame's line time fits into a span of ns. -/
def fits (f : HFrame) (span : Nat) : Bool := decide (f.lineBytes * 8 ≤ span * 100)

/-- Whether the gate of a queue lets a frame start now (R448). -/
def State.gateOpen (s : State) (p q : Nat) (f : HFrame) : Bool :=
  match s.governs p with
  | none => true
  | some g =>
    match g.openFor q s.time.ns with
    | none => true
    | some n => fits f n

/-! ### Token buckets (R442 to R444, R455) -/

/-- Size of a bucket of BURST × 64 B, in units of 1/8000 byte. -/
def bucketSize (burst : Nat) : Nat := burst * 64 * 8000

/-- The bucket at a time: RATE Mb/s adds RATE units each nanosecond. -/
def Bucket.fill (b : Bucket) (rate burst now : Nat) : Bucket :=
  ⟨min (bucketSize burst) (b.tokens + rate * (now - b.at_)), now⟩

/-- Whether the shaper of a queue lets a frame start (R439, R444). -/
def State.shaperOk (s : State) (p q : Nat) (f : HFrame) : Bool :=
  if h : q < 7 then
    let rate := s.rd (HLYQ_SHAPE_RATE_RATE p q)
    let burst := s.rd (HLYQ_SHAPE_BURST_BURST p q)
    let b := (s.rport p).shapers[q].fill rate burst s.now
    decide (rate = 0) || decide (min (f.lineBytes * 8000) (bucketSize burst) ≤ b.tokens)
  else true

/-- Take the tokens of a frame (R442, R444). -/
def State.shaperTake (s : State) (p q : Nat) (f : HFrame) : State :=
  if h : q < 7 then
    let b := (s.rport p).shapers[q].fill (s.rd (HLYQ_SHAPE_RATE_RATE p q)) (s.rd (HLYQ_SHAPE_BURST_BURST p q)) s.now
    s.setRport p fun x => { x with shapers := x.shapers.set q ⟨b.tokens - f.lineBytes * 8000, b.at_⟩ }
  else s

/-! ### Queues (R434 to R438) -/

/-- Frame bytes of items. -/
def itemBytes (l : List TxItem) : Nat := l.foldl (fun a x => a + x.frame.frameBytes) 0

/-- Items that stand in a queue of a size; the rest waits for room (R436). -/
def fitPrefix (size : Nat) : List TxItem → List TxItem
  | [] => []
  | x :: t => if x.frame.frameBytes ≤ size then x :: fitPrefix (size - x.frame.frameBytes) t else []

/-- Queue `q` of a port. -/
def State.rqueue (s : State) (p q : Nat) : List TxItem := (s.rport p).queues[Fin.ofNat 8 q]

/-- Set a queue, and its fill register; an empty bulk queue has no deficit (R440). -/
def State.setRqueue (s : State) (p q : Nat) (l : List TxItem) : State :=
  let s := s.setRport p fun x => { x with
    queues := x.queues.set (Fin.ofNat 8 q) l
    deficit := if q < 5 ∧ l = [] then x.deficit.set (Fin.ofNat 5 q) 0 else x.deficit }
  let inQ := if h : q < 7 then fitPrefix ((s.rport p).qKib[q] * 1024) l else l
  s.wr (HLYQ_Q_FILL_BYTES p q) (itemBytes inQ)

/-- Count a frame dropped at an egress queue (R461). -/
def State.dropQ (s : State) (p q : Nat) (f : HFrame) : State :=
  (s.count (HLYQ_DROP_FRAMES_COUNT p q) 1).count64 (HLYQ_DROP_BYTES_LO_BYTES p q) (HLYQ_DROP_BYTES_HI_BYTES p q) f.frameBytes

/-- Where the payload of a frame finds room in the Densum region of a port's transmit queue, beside those that wait (R22, R435). -/
def State.queuePlace (s : State) (p q bytes : Nat) : Option Nat :=
  match (s.rport p).qRegions.lookup q with
  | none => none
  | some k =>
    let r := s.regionSpan k
    let used := ([0, 1].flatMap fun o => (List.range 7).flatMap fun q => s.rqueue o q).filterMap fun x =>
      x.at_.map fun a => (a, a + x.frame.payload.length)
    ((dsmBase + r.1) :: used.map Prod.snd).find? fun o =>
      decide (o + bytes ≤ dsmBase + r.2) && used.all fun u => decide (o + bytes ≤ u.1 ∨ u.2 ≤ o)

/-- The payload of a local frame is written into its queue's region, with the poison that it carries. -/
def State.queueStore (s : State) (p q : Nat) (x : TxItem) : TxItem × State :=
  match s.queuePlace p q x.frame.payload.length with
  | some a => ({ x with at_ := some a }, (s.memWrite reqHly a x.frame.payload x.stomp).2)
  | none => (x, s)

/-- A local frame as the port reads it from its queue: a poisoned or refused line stomps it (R385). -/
def State.queueLoad (s : State) (x : TxItem) : TxItem × State :=
  match x.at_ with
  | none => (x, s)
  | some a =>
    let r := s.memRead reqHly a x.frame.payload.length
    ({ x with frame := { x.frame with payload := r.1.data }, stomp := x.stomp || r.1.poison || r.1.err }, r.2)

/-- Offer a local frame to a queue of a port (R436, R437). -/
def State.offerQ (s : State) (p q : Nat) (x : TxItem) : State :=
  let l := s.rqueue p q
  let same := fun (y : TxItem) => decide (y.frame.stream = x.frame.stream)
  if q = 7 then
    match l.find? same with
    | some y => (s.dropQ p 7 y.frame).setRqueue p 7 (l.map fun z => if same z then x else z)
    | none => s.setRqueue p 7 (l ++ [x])
  else if q = 6 ∧ (s.rport p).qKib[6] * 1024 < itemBytes l + x.frame.frameBytes then s.dropQ p 6 x.frame
  else let r := s.queueStore p q x; r.2.setRqueue p q (l ++ [r.1])

/-! ### Policing (R454 to R457) -/

/-- The policer that a frame meets at a point (0 INSERT, 1 DELIVER). -/
def State.policer (s : State) (point : Nat) (f : HFrame) : Option Nat :=
  if f.cls = 5 ∨ f.cls = 7 then none
  else (List.range 64).find? fun i =>
    s.flag (POL_CTRL_EN i) && decide (s.rd (POL_CTRL_POINT i) = point ∧ s.rd (POL_CTRL_CLASS i) = f.cls) &&
      (s.flag (POL_CTRL_ANY_STREAM i) || decide (s.rd (POL_CTRL_STREAM i) = f.stream ∧ f.stream ≠ 0))

/-- Police a frame: whether it is accepted (R455). -/
def State.police (s : State) (port point : Nat) (f : HFrame) : Bool × State :=
  match s.policer point f with
  | none => (true, s)
  | some i =>
    let b := (s.ring.policers[Fin.ofNat 64 i]).fill (s.rd (POL_RATE_RATE i)) (s.rd (POL_BURST_BURST i)) s.now
    let put := fun (s : State) (b : Bucket) => s.setRing fun r => { r with policers := r.policers.set (Fin.ofNat 64 i) b }
    if f.frameBytes * 8000 ≤ b.tokens then
      (true, (put s ⟨b.tokens - f.frameBytes * 8000, b.at_⟩).count (POL_PASS_COUNT i) 1)
    else
      (false, (((put s b).count (POL_DROP_COUNT i) 1).count64 (POL_DROP_BYTES_LO_BYTES i) (POL_DROP_BYTES_HI_BYTES i)
        f.frameBytes).report EV_RING_POLICED (src 8 port) 0)

/-! ### Inserting frames of this device -/

/-- The next SEQ of a destination, class and stream (R382); no frame that bears it has left yet. -/
def State.takeSeq (s : State) (dst cls stream : Nat) : Nat × State :=
  let key := (dst, cls, stream)
  let n := (s.ring.seqTx.lookup key).getD 0
  (n, s.setRing fun r => { r with
    seqTx := (key, (n + 1) % 64) :: r.seqTx.filter fun e => e.1 ≠ key
    firstPort := r.firstPort.filter fun e => e.1 ≠ (cls, stream, dst, n) })

/-- The SEQ of a new SYNC, whose copies on both rings share it: that of the SYNC before where no copy of that one has left. -/
def State.syncSeq (s : State) : Nat × State :=
  match s.ring.seqTx.lookup (0xFFFF, 7, 0) with
  | some n =>
    let k := (n + 63) % 64
    if s.ring.firstPort.any fun e => e.1 = (7, 0, 0xFFFF, k) then s.takeSeq 0xFFFF 7 0 else (k, s)
  | none => s.takeSeq 0xFFFF 7 0

/-- Insert a frame by a port: it is policed and enters its queue (R434, R455, R456). It takes its SEQ as it is sent (R382). -/
def State.ringInsert (s : State) (p q cls dst stream : Nat) (payload : List Byte) (stomp : Bool) : State :=
  let f : HFrame := ⟨cls, s.ringId, dst, stream, 0, payload⟩
  match s.police p 0 f with
  | (false, s) => s
  | (true, s) => s.offerQ p q ⟨f, stomp, none, none⟩

/-- The port by which frames of ring A leave: HE, or HW while HE is wrapped (R380, R411). -/
def State.ringAOut (s : State) : Nat := if s.wrapped 1 then 0 else 1

/-- Send a CONTROL frame on ring A. -/
def State.ringControl (s : State) (dst type : Nat) (payload : List Byte) : State :=
  s.ringInsert s.ringAOut 5 5 dst type payload false

/-- The same for a payload that may hold bytes of a poisoned line (R385). -/
def State.ringControlFrom (s : State) (dst type : Nat) (payload : List Byte) (poison : Bool) : State :=
  s.ringInsert s.ringAOut 5 5 dst type payload poison

/-- Six bytes of seconds and four of nanoseconds (R385 tables). -/
def timeBytes (t : Nat) : List Byte := beBytes 6 (t / 1000000000) ++ beBytes 4 (t % 1000000000)

/-- The device time in ns that a frame carries at an offset. -/
def timeAt (d : List Byte) (off : Nat) : Nat := beAt d off 6 * 1000000000 + beAt d (off + 6) 4

/-- RANK of this device (R394, R628). -/
def State.ownRank (s : State) : Nat :=
  if s.rd ING_PTP_STATUS_STATE = 2 then 0 else if s.rd ING_PTP_STATUS_STATE = 3 then 1 else 2

/-- Send a BEACON with a STATE (R394). -/
def State.sendBeacon (s : State) (state : Nat) : State :=
  s.ringControl 0xFFFF 0
    (beBytes 8 s.fuses.serial ++ beBytes 1 state ++ beBytes 1 s.ownRank ++ beBytes 1 (s.rd HLY_TIME_CFG_PRIORITY) ++ [0]
      ++ beBytes 2 (b2n (s.wrapped 0) + 2 * b2n (s.wrapped 1)) ++ List.replicate 18 0)

/-- A WRAP_NOTICE's payload (R385 table). -/
def noticeBytes (rid side action t : Nat) : List Byte :=
  beBytes 2 rid ++ beBytes 1 side ++ beBytes 1 action ++ timeBytes t ++ [0, 0]

/-! ### Horizon (R406 to R408) -/

/-- Insert a member in ascending HOPS. -/
def insertHops (m : Member) : List Member → List Member
  | [] => [m]
  | x :: t => if m.hops < x.hops then m :: x :: t else x :: insertHops m t

/-- The members in ascending HOPS. -/
def State.byHops (s : State) : List Member := s.ring.members.foldl (fun l m => insertHops m l) []

/-- Whole ns of a port's link delay; 0 while invalid. -/
def State.linkNs (s : State) (p : Nat) : Nat := ((s.rport p).delay16.getD 0) / 65536

/-- The link delays around the ring eastward from this device: its HE link, the links between other members, its HW link. The
member with the highest HOPS is the next one east (R395). A device that is no member has only the links between the members, the last
of which passes its Shroud. -/
def State.ringLinks (s : State) : List Nat :=
  let ms := s.byHops.reverse.map Member.rid
  if ms.isEmpty then [] else if !s.joined then ms.map Config.farLink else s.linkNs 1 :: ((ms.take (ms.length - 1)).map Config.farLink ++ [s.linkNs 0])

/-- L of R406 in units of 0.01 ns. -/
def pathL (wGate links m : Nat) : Nat := 100000 + 16544 + wGate * 100 + links * 100 + m * 34544

/-- L_RING and L_WRAP in ns, rounded up (R407). -/
def State.horizonL (s : State) : Nat × Nat :=
  let ls := s.ringLinks
  let n := ls.length
  let w := s.rd HLY_GATE_WAIT_NS
  let total := ls.foldl (· + ·) 0
  if n < 2 then (0, 0)
  else
    let least := ls.foldl min (ls.headD 0)
    let wrapLinks := (List.range n).foldl (fun b k =>
      max b ((total - ls.getD k 0 - ls.getD ((k + 1) % n) 0) + (total - ls.getD k 0))) 0
    (ceilDiv (pathL w (total - least) (n - 2)) 100, ceilDiv (pathL w wrapLinks (2 * n - 4)) 100)

/-- HORIZON as it acts. -/
def State.horizonNs (s : State) : Nat := min 4000000 (s.rd HLY_HORIZON_NS)

/-- Set or clear one of the two flags; its rise sets the cause and is logged. -/
def State.horizonFlag (s : State) (f : Fld) (v : Bool) : State :=
  let rises := v && !s.flag f
  let s := s.wr f (b2n v)
  if rises then (s.setCause (causeHly 6)).report EV_RING_HORIZON (src 8 0) 0 else s

/-- The two horizon flags follow L_RING, L_WRAP and HORIZON (R408); a HORIZON of 0 is no count (R42, log 63). -/
def State.horizonFlags (s : State) : State :=
  let on := decide (0 < s.rd HLY_HORIZON_NS)
  let exceeded := on && decide (s.horizonNs < s.rd HLY_L_RING_NS)
  let unsafe_ := on && decide (s.horizonNs < s.rd HLY_L_WRAP_NS)
  (s.horizonFlag HLY_STATUS_HORIZON_EXCEEDED exceeded).horizonFlag HLY_STATUS_WRAP_UNSAFE unsafe_

/-- Recompute L_RING and L_WRAP (R407, R453). -/
def State.recomputeHorizon (s : State) : State :=
  let r := s.horizonL
  let s := s.setRing fun x => { x with hzDelays := #v[s.linkNs 0, s.linkNs 1] }
  ((s.wr HLY_L_RING_NS (min r.1 0x7FFFFF)).wr HLY_L_WRAP_NS (min r.2 0x7FFFFF)).horizonFlags

/-! ### Gate lists: installing and starting (R449 to R453) -/

/-- TIMEOUT of a transfer runs from the moment at which its BULK_DONE leaves the queue, sent or dropped (R428). -/
def State.bulkDoneGone (s : State) (f : HFrame) : State :=
  if f.cls = 5 ∧ f.stream = 4 then
    let dl := fun (b : BulkTx) => if b.xfer = beAt f.payload 0 2 then { b with deadline := some (s.now + b.timeout * 1000000) } else b
    s.setRing fun r => { r with bulkTx := r.bulkTx.map dl }
  else s

/-- Head frames longer than every open span of their queue are dropped (R452). -/
def State.dropLong (s : State) (p : Nat) : State :=
  match s.governs p with
  | none => s
  | some g =>
    (List.range 7).foldl (fun s q =>
      match g.openSpan q with
      | none => s
      | some n =>
        let l := s.rqueue p q
        let bad := fun (x : TxItem) => decide (0 < n) && !fits x.frame n
        let gone := l.takeWhile bad
        if gone.isEmpty then s
        else (gone.foldl (fun t x => (t.dropQ p q x.frame).bulkDoneGone x.frame) s).setRqueue p q (l.dropWhile bad)) s

/-- The admin list of a port as its registers hold it. -/
def State.adminList (s : State) (p : Nat) : List (Nat × Nat) :=
  (List.range (s.rd (HLYQ_GATE_ENTRIES_COUNT p))).map fun e =>
    (s.rd (HLYQ_GATE_ADMIN_MASK p e), s.rd (HLYQ_GATE_ADMIN_DURATION p e))

/-- Show S in GATE_START. -/
def State.gateStart (s : State) (p t : Nat) : State :=
  let sec := t / 1000000000
  ((s.wr (HLYQ_GATE_START_SEC_LO_SEC p) (sec % 2 ^ 32)).wr (HLYQ_GATE_START_SEC_HI_SEC p) (sec / 2 ^ 32)).wr
    (HLYQ_GATE_START_NS_NS p) (t % 1000000000)

/-- A pending list reaches S: it becomes the operating list at entry 0, and the horizon follows GATE_WAIT (R449, R452, R453). -/
def State.gateOperate (s : State) (p : Nat) : State :=
  match (s.rport p).pend with
  | none => s
  | some g =>
    if s.time.ns < g.start then s
    else
      let s := s.setRport p fun x => { x with oper := some g, pend := none }
      let s := (List.range g.entries.length).foldl (fun t e =>
        let x := g.entries.getD e (0, 0)
        t.wr (HLYQ_GATE_OPER_ENTRY p e) (x.1 + x.2 * 256)) s
      let s := ((s.wr (HLYQ_GATE_STATUS_PENDING p) 0).wr (HLYQ_GATE_STATUS_RUNNING p) (s.rd (HLYQ_GATE_CTRL_EN p))).wr
        (HLYQ_GATE_STATUS_ENTRY p) (g.entryAt s.time.ns)
      let w := fun i => match (s.rport i).oper with | some x => x.wGate | none => 0
      let t := ((s.gateStart p g.start).wr HLY_GATE_WAIT_NS (max (w 0) (w 1))).dropLong p
      if s.rd HLY_GATE_WAIT_NS = max (w 0) (w 1) then t else t.recomputeHorizon

/-- Whether an INSTALL is carried out (R451). -/
def State.installOk (s : State) (p : Nat) : Bool :=
  let n := s.rd (HLYQ_GATE_ENTRIES_COUNT p)
  let c := s.rd (HLYQ_GATE_CYCLE_NS p)
  decide (0 < n ∧ n ≤ 128 ∧ 0 < c ∧ c ≤ 16700000 ∧ s.rd (HLYQ_GATE_BASE_NS_NS p) ≤ 999999999 ∧ s.rd (HLYQ_GATE_SETUP_NS p) ≠ 0) &&
    (s.adminList p).all fun e => decide (e.2 ≠ 0)

/-- S of an installed list, and whether its BASE was late (R449). -/
def gateS (base cycle setup now : Nat) : Nat × Bool :=
  if now + setup ≤ base then (base, false)
  else (base + max 1 (ceilDiv (now + setup - base) cycle) * cycle, true)

/-- Writing 1 to GATE_CTRL.INSTALL (R449 to R451). A pending list that reaches S at this moment starts first. -/
def State.gateInstall (s : State) (p : Nat) : State :=
  let s := s.gateOperate p
  if s.installOk p then
    let base := (s.rd (HLYQ_GATE_BASE_SEC_LO_SEC p) + s.rd (HLYQ_GATE_BASE_SEC_HI_SEC p) * 2 ^ 32) * 1000000000
      + s.rd (HLYQ_GATE_BASE_NS_NS p)
    let r := gateS base (s.rd (HLYQ_GATE_CYCLE_NS p)) (s.rd (HLYQ_GATE_SETUP_NS p)) s.time.ns
    let g : GateList := ⟨s.adminList p, s.rd (HLYQ_GATE_CYCLE_NS p), r.1⟩
    let s := ((s.setRport p fun x => { x with pend := some g }).wr (HLYQ_GATE_STATUS_PENDING p) 1).gateStart p r.1
    if r.2 then (s.wr (HLYQ_GATE_STATUS_BASE_LATE p) 1).report EV_GATE_BASE_LATE (src 8 p) 0 else s
  else s.wr (HLYQ_GATE_STATUS_GATE_ERR p) 1

/-! ### Egress (R391, R402, R439 to R441) -/

/-- Replace bytes at an offset. -/
def patch (d : List Byte) (off : Nat) (b : List Byte) : List Byte := d.take off ++ b ++ d.drop (off + b.length)

/-- The frame as a port transmits it at a device time: edits of a transit BEACON or SYNC (R394, R402), times stamped into a
local SYNC or PDELAY_RESP (R397, R401). -/
def State.stamped (s : State) (x : TxItem) (t : Nat) : HFrame :=
  let f := x.frame
  match x.arrived with
  | some (inPort, at_) =>
    if f.cls = 5 ∧ f.stream = 0 then { f with payload := patch f.payload 11 (beBytes 1 (min 255 (beAt f.payload 11 1 + 1))) }
    else if f.cls = 7 ∧ f.stream = 0 then
      match (s.rport inPort).delay16 with
      | some d =>
        let c := wrap 64 (sext 64 (beAt f.payload 10 8) + (d : Int) + ((t : Int) - at_) * 65536)
        { f with payload := patch (patch f.payload 10 (beBytes 8 c)) 18 (beBytes 1 (min 255 (beAt f.payload 18 1 + 1))) }
      | none => { f with payload := patch f.payload 18 [255] }
    else f
  | none =>
    if f.cls = 7 ∧ f.stream = 0 then { f with payload := patch f.payload 0 (timeBytes t) }
    else if f.cls = 7 ∧ f.stream = 2 then { f with payload := patch f.payload 14 (timeBytes t) }
    else f

/-- The frame that leaves a queue: a local one bears the ring ID that the device now has, and takes its SEQ now, but for a SYNC, which has
it (R382). -/
def State.numbered (s : State) (x : TxItem) : TxItem × State :=
  if x.arrived.isSome then (x, s)
  else
    let f := { x.frame with src := s.ringId }
    if f.cls = 7 ∧ f.stream = 0 then ({ x with frame := f }, s)
    else
      let n := s.takeSeq f.dst f.cls f.stream
      ({ x with frame := { f with seq := n.1 } }, n.2)

/-- Send a frame by a port, with what its transmission starts: t1 of a PDELAY_REQ (R397), the wait for a BULK_ACK (R428), the
memory of the port by which a frame first left (R388). -/
def State.transmit (s : State) (p : Nat) (x : TxItem) : State :=
  let l := s.queueLoad x
  let n := l.2.numbered l.1
  let x := n.1
  let s := n.2
  let t := s.time.ns
  let f := s.stamped x t
  let s := (s.emit (.ringTx p (f.wire x.stomp))).count (HLYP_TX_FRAMES_COUNT p) 1
  if x.arrived.isSome then s
  else
    let s := if x.stomp then s.count (HLYP_TX_POISON_COUNT p) 1 else s
    let key := (f.cls, f.stream, f.dst, f.seq)
    let s := s.setRing fun r => { r with
      firstPort := (key, p) :: r.firstPort.filter fun e => !decide (e.1 = key ∧ (f.cls ≠ 7 ∨ e.2 = p)) }
    if f.cls = 7 ∧ f.stream = 1 then s.setRport p fun y => { y with pdOpen := some (beAt f.payload 0 4, t) }
    else s.bulkDoneGone f

/-- Whether the head frame of a queue is eligible (R439). -/
def State.eligible (s : State) (p q : Nat) : Bool :=
  match s.rqueue p q with
  | [] => false
  | x :: _ => decide (q = 7) || (s.gateOpen p q x.frame && s.shaperOk p q x.frame)

/-- WEIGHT of a bulk queue; 0 acts as 1 (R440). -/
def State.weight (s : State) (p q : Nat) : Nat :=
  max 1 (if q < 4 then bits (s.reg (HLYQ_WEIGHT_Q0 p).off).toNat (q * 8 + 7) (q * 8) else s.rd (HLYQ_WEIGHT4_Q4 p))

/-- The visit of the round robin ends (R440). -/
def State.endVisit (s : State) (p : Nat) (x : RingPort) : RingPort :=
  let q := Fin.ofNat 5 x.visit
  { x with
    inVisit := false
    visit := (q.val + 1) % 5
    deficit := x.deficit.set q (if (s.rqueue p q.val).isEmpty then 0 else min x.deficit[q] (s.weight p q.val * 256 + 2067)) }

/-- Deficit-weighted round robin over Q0 to Q4 (R440): the queue to serve, and the port with its deficits. -/
def State.dwrr (s : State) (p : Nat) : Nat → RingPort → Option Nat × RingPort
  | 0, x => (none, x)
  | fuel + 1, x =>
    let q := Fin.ofNat 5 x.visit
    let l := s.rqueue p q.val
    let w := s.weight p q.val * 256
    let d := x.deficit[q]
    let len := match l with | [] => 0 | y :: _ => y.frame.lineBytes
    if !x.inVisit then
      if s.eligible p q.val then State.dwrr s p fuel { x with inVisit := true, deficit := x.deficit.set q (d + w) }
      else State.dwrr s p fuel
        { x with visit := (q.val + 1) % 5, deficit := if l.isEmpty then x.deficit.set q 0 else x.deficit }
    else if s.eligible p q.val && decide (len ≤ d) then
      -- what empties the queue ends its visit with a deficit of 0
      if l.length = 1 then (some q.val, { x with deficit := x.deficit.set q 0, inVisit := false, visit := (q.val + 1) % 5 })
      else (some q.val, { x with deficit := x.deficit.set q (d - len) })
    else State.dwrr s p fuel (s.endVisit p x)

/-- The queue of the next local frame of a port (R440, R441). -/
def State.pickQueue (s : State) (p : Nat) : Option Nat × State :=
  if s.eligible p 7 then (some 7, s)
  else if s.eligible p 6 then (some 6, s)
  else if s.eligible p 5 then (some 5, s)
  else if (List.range 5).any fun q => s.eligible p q then
    let r := s.dwrr p 128 (s.rport p)
    (r.1, s.setRport p fun _ => r.2)
  else (none, if (s.rport p).inVisit then s.setRport p (s.endVisit p) else s)

/-- Whether a port runs. -/
def State.portEn (s : State) (p : Nat) : Bool := s.flag (if p = 0 then HLY_CTRL_HW_EN else HLY_CTRL_HE_EN)

/-- The egress of a port is idle (R391, R439 to R441) and sends the next frame: transit first, else the local
frame that the queues give, under a list that has reached S (table of R461). A port that does not run, or that sends Remote Fault, sends
no frame (R410, table of R432). -/
def State.egress (s : State) (p : Nat) : State :=
  if !s.portEn p || (s.rport p).sendsRf then s else
  match (s.rport p).transit with
  | x :: t => (s.setRport p fun y => { y with transit := t }).transmit p x
  | [] =>
    let r := ((s.gateOperate p).dropLong p).pickQueue p
    match r.1 with
    | none => r.2
    | some q =>
      match r.2.rqueue p q with
      | [] => r.2
      | x :: t =>
        let s := ((r.2.shaperTake p q x.frame).setRqueue p q t).transmit p x
        (s.count (HLYQ_TX_FRAMES_COUNT p q) 1).count64 (HLYQ_TX_BYTES_LO_BYTES p q) (HLYQ_TX_BYTES_HI_BYTES p q)
          x.frame.frameBytes

/-- GATE_ENTRY_ADVANCE (R446): the running entry of the operating list follows device time. -/
def execGateEntryAdvance (p : Fin 2) (s : State) : Host.Outcome State Fault Refusal :=
  .next (match s.governs p.val with
  | some g => s.wr (HLYQ_GATE_STATUS_ENTRY p.val) (g.entryAt s.time.ns)
  | none => s)

/-! ### The source of device time (R628, R631) -/

/-- Whether a source was in use within HOLDOVER_S. -/
def State.holding (s : State) : Bool :=
  match s.clocks.trackedAt with
  | some t => decide (s.now ≤ t + s.clocks.holdover * 1000000000)
  | none => false

/-- The source that applies: 0 PTP, 1 RING, 2 HOLDOVER, 3 FREE. -/
def State.sourceNow (s : State) : Nat :=
  let follower := s.joined && decide (s.rd HLY_TIME_MASTER_ID ≠ s.ringId)
  let ring := follower && s.flag HLY_STATUS_TIME_VALID
  let ptp := decide (s.rd ING_PTP_STATUS_STATE = 2)
  let mode := s.rd TSY_TIME_CTRL_MODE
  if ring && decide (mode = 0 ∨ mode = 2) then 1
  else if ptp && (decide (mode = 1) || (decide (mode = 0) && !follower)) then 0
  else if decide (mode ≠ 3) && s.holding then 2
  else 3

/-- The firmware writes FREQ_ADJ, unless the host has written it at expert level since the last TIME_CONFIG (R33). -/
def State.setAdj (s : State) (v : Nat) : State := if s.hostRegs.contains TSY_FREQ_ADJ_PPB.off then s else s.wr TSY_FREQ_ADJ_PPB v

/-- The last offset of the selected source (R634). -/
def State.setLastOffset (s : State) (off : Int) : State := { s with clocks := { s.clocks with lastOffset := off } }

/-- The firmware selects the source. -/
def State.retime (s : State) : State :=
  if s.mainUp && s.duplex.fwUp then
    let old := s.rd TSY_TIME_STATUS_SOURCE
    let s := if old < 2 then { s with clocks := { s.clocks with trackedAt := some s.now } } else s
    let new := s.sourceNow
    if new = old then s
    else
      let s := if new = 2 then s.setAdj (wrap 32 s.clocks.trackedPpb)
        else if new = 3 then s.setAdj 0 else s
      let s := if new = 0 then s.setLastOffset s.clocks.ptpOffset else if new = 1 then s.setLastOffset s.clocks.ringOffset else s
      ((s.wr TSY_TIME_STATUS_SOURCE new).setCause (causeTsy 4)).report EV_TIME_SOURCE (src 10 0) 0
  else s

/-- A measured offset of a source, for the firmware to use (R403, R629, R630, R634). -/
def State.offerOffset (s : State) (source : Nat) (off : Int) : State :=
  { s with clocks := { s.clocks with
    fresh := some (source, off)
    ptpOffset := if source = 0 then off else s.clocks.ptpOffset
    ringOffset := if source = 1 then off else s.clocks.ringOffset
    lastOffset := if source = s.rd TSY_TIME_STATUS_SOURCE then off else s.clocks.lastOffset } }

end Sys2Proof.Machine
end

