-- ==== Sys2Proof/Machine/Mailbox.lean ====
section
/-! DEFINITION. The mailboxes and the firmware's command service (chapter "Control"): copying, checks, sequence records, completion,
ring mailboxes. -/

namespace Sys2Proof.Machine

/-! ### Status codes (R77) -/

def stOK : Nat := 0x0000
def stBUSY : Nat := 0x0001
def stBAD_COMMAND : Nat := 0x0010
def stBAD_LENGTH : Nat := 0x0011
def stBAD_PARAM : Nat := 0x0012
def stREJECTED_BANDWIDTH : Nat := 0x0020
def stREJECTED_GALLEY : Nat := 0x0021
def stREJECTED_SHEET : Nat := 0x0022
def stREJECTED_DENSUM : Nat := 0x0023
def stAPPLIED_LATE : Nat := 0x0030
def stNO_HOLDUP : Nat := 0x0040
def stPROT_BOUND : Nat := 0x0050
def stREMOTE_TIMEOUT : Nat := 0x0060

/-! ### The command set -/

/-- Command codes with the LEN of the payload (none where it varies) and the LEN of the response (R74, R716). -/
def cmdTable : List (Nat × Option Nat × Nat) :=
  [(0x0101, some 0, 24), (0x0102, none, 0), (0x0110, some 0, 0), (0x0111, some 0, 0),
   (0x0201, some 64, 0), (0x0202, some 36, 0), (0x0203, some 24, 0), (0x0204, some 16, 0), (0x0205, some 16, 0),
   (0x0210, some 24, 32), (0x0230, none, 32), (0x0231, some 16, 0), (0x0240, some 16, 4),
   (0x0301, some 64, 40), (0x0302, some 4, 0), (0x0310, some 4, 0), (0x0320, some 24, 32)]
  ++ [(0x0401, some 16, 32), (0x0410, some 28, 0), (0x0420, some 16, 36), (0x0501, some 16, 0), (0x0510, some 64, 16),
   (0x0601, some 20, 24), (0x0602, some 0, 0), (0x0603, some 16, 8), (0x0620, some 32, 0), (0x0630, some 24, 0),
   (0x0640, some 84, 0), (0x0641, some 40, 24), (0x0642, some 16, 0)]
  ++ [(0x0701, some 84, 0), (0x0702, some 8, 0), (0x0710, some 16, 12), (0x0711, some 4, 0), (0x0720, some 16, 32),
   (0x0721, some 16, 24), (0x0730, some 8, 4), (0x0740, some 4, 0), (0x0741, some 4, 8),
   (0x0801, some 20, 0), (0x0802, some 4, 16), (0x0810, some 16, 0),
   (0x0901, some 16, 0), (0x0902, some 0, 24), (0x0910, some 16, 0), (0x0920, some 18, 0)]
  ++ [(0x0A01, some 16, 8), (0x0A10, some 16, 12), (0x0A11, some 4, 16), (0x0A20, some 4, 0), (0x0A30, some 8, 0),
   (0x0B01, some 4, 0), (0x0B10, some 0, 4), (0x0B11, some 16, 4)]

/-- Whether a LEN is the one a command defines (R74, R116, chapter tables). -/
def lenOk (cmd len : Nat) (payload : List Byte) : Bool :=
  match cmdTable.lookup cmd with
  | none => true
  | some (some n, _) => decide (len = n)
  | some (none, _) => if cmd = 0x0102 then decide (1 ≤ len) else decide (len = 16 + 16 * leAt payload 1 1)

/-- Number of heads that the HEAD_MASK of a FORME_GROUP_COMMIT names (R716). -/
def groupHeads (payload : List Byte) : Nat := (List.range 4).countP fun h => (leAt payload 12 1).testBit h

/-- A FORME_COMMIT response whose fields were not reached: FAIL_ITEM alone has a value (R119, R716). -/
def formeZero : List Byte := leBytes 2 0xFFFF ++ List.replicate 30 0

/-- The response of a command that gets no further than its checks (R716). -/
def zeroResp (cmd : Nat) (payload : List Byte) : List Byte :=
  if cmd = 0x0231 then (List.replicate (groupHeads payload) formeZero).flatten
  else
    match cmdTable.lookup cmd with
    | none => []
    | some (_, n) =>
      if cmd ∈ [0x0210, 0x0230, 0x0320, 0x0401] then formeZero
      else if cmd = 0x0301 then formeZero ++ List.replicate 8 0 else List.replicate n 0

/-! ### Mailbox memory (R66, log 9) -/

/-- Device address of a host mailbox. -/
def mbxAddr (n : Nat) : Nat := dsmBase + n * 512
/-- Device address of a ring mailbox. -/
def ringMbxAddr (n : Nat) : Nat := dsmBase + 0x2000 + n * 512

/-- A line that a control core loads. Poison is a precise fault, which Alafer handles and logs: the spec states neither the bytes that it
goes on with nor its log entry, so they are free (R47, log 50). -/
def State.fwLine (s : State) (la : Nat) : List Byte × State :=
  let r := s.lineRead reqCtl la
  if r.1.poison then
    let d := r.2.freeLine
    let c := d.2.freeNat
    let x := c.2.freeNat
    (d.1, x.2.report (c.1 % 2 ^ 16) (src 1 (s.rd GLB_CORE_STATUS_ACTIVE)) (x.1 % 2 ^ 64))
  else (r.1.data, r.2)

/-- A read of bytes by the firmware, as requester CTL, line by line in ascending order. -/
def State.fwRead (s : State) (a len : Nat) : List Byte × State :=
  let n := if len = 0 then 0 else (a + len - 1) / 64 + 1 - a / 64
  let r := (List.range n).foldl (fun (x : List Byte × State) i =>
    let y := x.2.fwLine ((a / 64 + i) * 64)
    (x.1 ++ y.1, y.2)) ([], s)
  (slice r.1 (a % 64) len, r.2)

/-- A write of bytes by the firmware. -/
def State.fwWrite (s : State) (a : Nat) (d : List Byte) : State := (s.memWrite reqCtl a d false).2

/-! ### Doorbells (R68, R69, R86) -/

/-- Where the copy of a mailbox stands in the CTL region: host mailboxes 0 to 15, then the ring mailboxes (R21, R68, log 9). -/
def copyAddr (slot : Nat) : Nat := dsmBase + 0x7800000 + slot * 512

/-- The mailbox copier copies a mailbox into the CTL region, line by line with its poison, as requester CTL (R46, R68). -/
def State.copyMbx (s : State) (a slot : Nat) : State :=
  (List.range 8).foldl (fun t i =>
    let r := t.memRead reqCtl (a + i * 64) 64
    (r.2.memWrite reqCtl (copyAddr slot + i * 64) r.1.data r.1.poison).2) s

/-- Push a copied command. -/
def State.pushCmd (s : State) (c : FwCmd) : State :=
  { s with fw := { s.fw with queue := s.fw.queue ++ [c], copied := s.fw.copied ++ [c] } }

/-- Ring host mailbox `n` (R68, R69). -/
def State.ringHostMbx (s : State) (n : Fin 16) : State :=
  if (s.rd MBX_BUSY_HOST).testBit n || (s.rd MBX_DONE_HOST).testBit n then s.count MBX_DB_IGNORED_COUNT 1
  else
    let r := (s.copyMbx (mbxAddr n) n).fwRead (copyAddr n) 512
    let d := r.1
    let s := r.2.wr MBX_BUSY_HOST (s.rd MBX_BUSY_HOST + 2 ^ n.val)
    s.pushCmd ⟨.host n, leAt d 0 2, leAt d 2 2, leAt d 4 2, 0, 0, slice d 8 (min 504 (leAt d 4 2)), false⟩

/-- Ring ring mailbox `n` (R86). -/
def State.ringRingMbx (s : State) (n : Fin 4) : State :=
  if (s.rd MBX_BUSY_RING).testBit n || (s.rd MBX_DONE_RING).testBit n then s.count MBX_DB_IGNORED_COUNT 1
  else
    let r := (s.copyMbx (ringMbxAddr n) (16 + n)).fwRead (copyAddr (16 + n)) 512
    let d := r.1
    let s := r.2.wr MBX_BUSY_RING (s.rd MBX_BUSY_RING + 2 ^ n.val)
    let bad := (s.memRead reqCtl (copyAddr (16 + n) + 16) (min 496 (leAt d 4 2))).1.poison
    s.pushCmd ⟨.ring n, leAt d 0 2, leAt d 2 2, leAt d 4 2, leAt d 8 2, leAt d 10 2, slice d 16 (min 496 (leAt d 4 2)), bad⟩

/-- A write to MBX_DOORBELL: bits in ascending mailbox order (R71). -/
def State.mbxDoorbell (s : State) (bits : BitVec 16) : State :=
  (List.finRange 16).foldl (fun t (n : Fin 16) => if bits.toNat.testBit n.val then t.ringHostMbx n else t) s

/-- A write to RING_DOORBELL. -/
def State.ringDoorbell (s : State) (bits : BitVec 4) : State :=
  (List.finRange 4).foldl (fun t (n : Fin 4) => if bits.toNat.testBit n.val then t.ringRingMbx n else t) s

/-- MBX_DOORBELL (R68). -/
def execMbxDoorbell (bits : BitVec 16) (s : State) : Host.Outcome State Fault Refusal :=
  .next (s.when s.mainUp fun t => t.mbxDoorbell bits)

/-- RING_DOORBELL (R86). -/
def execRingDoorbell (bits : BitVec 4) (s : State) : Host.Outcome State Fault Refusal :=
  .next (s.when s.mainUp fun t => t.ringDoorbell bits)

/-! ### Sequence records (R81, R83, R85, R88) -/

/-- The record under which a command is kept: per mailbox, or per source ring ID and ring mailbox. -/
def CmdSrc.key : CmdSrc → CmdSrc
  | .remote r n _ => .remote r n false
  | x => x

/-- The record of a source. -/
def State.seqRec (s : State) (c : FwCmd) : Option SeqRec := s.fw.records.lookup c.src.key

/-- Set the record of a source. -/
def State.setRec (s : State) (c : FwCmd) (r : SeqRec) : State :=
  { s with fw := { s.fw with records := (c.src.key, r) :: s.fw.records.filter fun e => e.1 ≠ c.src.key } }

/-- What the STARTED record of a command holds that an earlier execution took (R85). -/
def State.took (s : State) (c : FwCmd) : List Nat :=
  match s.seqRec c with
  | some r => if r.done.isNone && decide (r.cmd = c.cmd ∧ r.seq = c.seq) then r.took else []
  | none => []

/-- Whether the record of a command's source is that of the command: the record covers the last command copied (R81). -/
def State.recOf (s : State) (c : FwCmd) : Bool :=
  match s.seqRec c with
  | some r => decide (r.cmd = c.cmd ∧ r.seq = c.seq)
  | none => false

/-- Record what a command takes, before its first effect (R85), where the record has not passed to a later command of the source (R81). -/
def State.take (s : State) (c : FwCmd) (xs : List Nat) : State :=
  if s.recOf c then s.setRec c ⟨c.cmd, c.seq, none, xs, false⟩ else s

/-! ### Completion (R70, R73, R86) -/

/-- Write the completion into a mailbox and set its DONE bit. -/
def State.postHost (s : State) (n : Fin 16) (c : FwCmd) (status : Nat) (resp : List Byte) : State :=
  let s := s.fwWrite (mbxAddr n) (leBytes 2 c.cmd ++ leBytes 2 c.seq ++ leBytes 2 resp.length ++ leBytes 2 status ++ resp)
  (s.wr MBX_BUSY_HOST (s.rd MBX_BUSY_HOST &&& (0xFFFF ^^^ 2 ^ n.val))).setCause (causeMbx n)

/-- The same for a ring mailbox; DEST and TIMEOUT stay as the host wrote them. -/
def State.postRing (s : State) (n : Fin 4) (c : FwCmd) (status : Nat) (resp : List Byte) : State :=
  let s := s.fwWrite (ringMbxAddr n) (leBytes 2 c.cmd ++ leBytes 2 c.seq ++ leBytes 2 resp.length ++ leBytes 2 status)
  let s := s.fwWrite (ringMbxAddr n + 16) resp
  (s.wr MBX_BUSY_RING (s.rd MBX_BUSY_RING &&& (0xF ^^^ 2 ^ n.val))).setCause (causeRingMbx n)

/-- An answer to the broadcasts of a ring mailbox that a test picks: (ring ID, status). -/
def State.ringAnswer (s : State) (is : RingWait → Bool) (rid status : Nat) : State :=
  let add := fun (w : RingWait) => if is w then { w with answers := (rid, status) :: w.answers.filter fun a => a.1 ≠ rid } else w
  { s with fw := { s.fw with ringWaits := s.fw.ringWaits.map add } }

/-- This device's own answer to a broadcast of its own: it counts as any other does, in time or late (R89, R90). -/
def State.ownAnswer (s : State) (c : FwCmd) (n status : Nat) : State :=
  let is := fun (w : RingWait) => w.bcast && decide (w.mbx = n ∧ w.cmd.cmd = c.cmd ∧ w.cmd.seq = c.seq ∧ s.now ≤ w.deadline)
  if s.fw.ringWaits.any is then s.ringAnswer is s.ringId status else s.count MBX_RING_LATE_COUNT 1

/-- Deliver status and response of a command to where it came from: it is complete. -/
def State.deliver (s : State) (c : FwCmd) (status : Nat) (resp : List Byte) : State :=
  let s := { s with fw := { s.fw with copied := s.fw.copied.erase c } }
  match c.src with
  | .host n => s.postHost n c status resp
  | .ring n => s.postRing n c status resp
  | .remote rid n _ =>
    if rid = s.ringId then s.ownAnswer c n status
    else s.ringControl rid 2
      (beBytes 2 c.cmd ++ beBytes 2 c.seq ++ beBytes 2 resp.length ++ beBytes 2 status ++ beBytes 1 n ++ List.replicate 7 0 ++ resp)

/-- Complete a command: the record becomes DONE first (R81), where it has not passed to a later command of the same source (R88). -/
def State.finish (s : State) (c : FwCmd) (status : Nat) (resp : List Byte) : State :=
  (if s.recOf c then s.setRec c ⟨c.cmd, c.seq, some (status, resp), s.took c, false⟩ else s).deliver c status resp

/-- Complete a ring mailbox command that no other device has answered in time (R89, R90). -/
def State.unheard (s : State) (c : FwCmd) (resp : List Byte) : State :=
  (if s.recOf c then s.setRec c ⟨c.cmd, c.seq, some (stREMOTE_TIMEOUT, resp), s.took c, true⟩ else s).deliver c stREMOTE_TIMEOUT resp

/-- Complete a command with a failed check: its response holds only zeros where nothing was reached (R716). -/
def State.fail (s : State) (c : FwCmd) (status : Nat) : State := s.finish c status (zeroResp c.cmd c.payload)

/-- Complete a command that has no response with OK. -/
def State.ok (s : State) (c : FwCmd) : State := s.finish c stOK []

/-- Let a command wait for a later event (R72). -/
def State.waitFor (s : State) (c : FwCmd) (k : WaitKind) : State :=
  { s with fw := { s.fw with waiting := s.fw.waiting ++ [⟨c, k⟩] } }

/-- Complete every waiting command for which an answer is given. -/
def State.wake (s : State) (f : Waiting → Option (Nat × List Byte)) : State :=
  let ws := s.fw.waiting
  let s := { s with fw := { s.fw with waiting := ws.filter fun w => (f w).isNone } }
  ws.foldl (fun t w => match f w with | some (st, r) => t.finish w.cmd st r | none => t) s

/-! ### Service (R71, R74, R83, R86, R87) -/

/-- Whether the firmware serves commands. -/
def State.serving (s : State) : Bool := s.mainUp && s.duplex.fwUp

/-- Send a ring mailbox command to other devices, and wait for the answers (R86 to R90). -/
def State.ringSend (s : State) (n : Fin 4) (c : FwCmd) : State :=
  let p := beBytes 2 c.cmd ++ beBytes 2 c.seq ++ beBytes 2 c.len ++ beBytes 1 n ++ [0] ++ c.payload
  let s := s.ringControlFrom c.dest 1 p c.poison
  let bc := decide (c.dest = 0xFFFF)
  let s := { s with fw := { s.fw with ringWaits := s.fw.ringWaits ++ [⟨c, n, s.now + c.timeout * 1000000, bc, []⟩] } }
  if bc then s.pushCmd { c with src := .remote s.ringId n true } else s

/-- The answer that the record of a command's mailbox holds for it, where it is a repeat (R83). A command that went to other devices and
was not answered in time is sent again under its SEQ, and the remote record replays or completes it (R90). -/
def State.replayOf (s : State) (c : FwCmd) : Option (Nat × List Byte) :=
  match s.seqRec c with
  | some r => if r.cmd = c.cmd ∧ r.seq = c.seq ∧ r.unheard = false then r.done else none
  | none => none

/-- The machine when a command's own meaning begins: the command has left the queue and its STARTED record stands (R81, R85). The record
stays that of a later command of the same source that was copied before this one is executed again (R81, R99). -/
def State.begun (s : State) (c : FwCmd) (rest : List FwCmd) : State :=
  let t := { s with fw := { s.fw with queue := rest, again := s.fw.again.erase c } }
  if decide (c ∈ s.fw.again) && !s.recOf c then t else t.setRec c ⟨c.cmd, c.seq, none, s.took c, false⟩

/-- The largest LEN of a mailbox (R66, R86). -/
def lenMax : CmdSrc → Nat
  | .host _ => 504
  | _ => 496

/-- The checks of a ring mailbox command that is not for this device or names no device (R86 to R88); then the command's own meaning. -/
def State.route (s : State) (c : FwCmd) (body : FwCmd → State → State) : State :=
  match c.src with
  | .ring n =>
    if c.dest = 0 ∨ c.timeout = 0 then s.fail c stBAD_PARAM
    else if !s.joined then s.fail c stBUSY
    else if c.dest = s.ringId then body c s
    else s.ringSend n c
  | _ => body c s

/-- The firmware takes the oldest copied command if it is one of the row's code, or names no command at all; the checks that
every command shares; then the command's own meaning. -/
def State.serve (s : State) (code : Nat) (body : FwCmd → State → State) : State :=
  match s.fw.queue with
  | [] => s
  | c :: rest =>
    let known := (cmdTable.lookup c.cmd).isSome
    if !s.serving || (known && decide (c.cmd ≠ code)) then s
    else
      match s.replayOf c with
      | some r => (({ s with fw := { s.fw with queue := rest } }).count MBX_REPLAYS_COUNT 1).deliver c r.1 r.2
      | none =>
        let s := s.begun c rest
        if !known then s.finish c stBAD_COMMAND []
        else if lenMax c.src < c.len || !lenOk c.cmd c.len c.payload then
          s.finish c stBAD_LENGTH (if c.cmd = 0x0231 then [] else zeroResp c.cmd [])
        else s.route c body

/-! ### Ring mailbox frames (R88 to R90) -/

/-- Take the first delivered frame of a class and type from a port's receive queue. -/
def State.takeRx (s : State) (p cls stream : Nat) : Option RxItem × State :=
  let is := fun (x : RxItem) => decide (x.frame.cls = cls) && (decide (cls = 6) || decide (cls < 5) || decide (x.frame.stream = stream))
  match (s.rport p).rx.find? is with
  | none => (none, s)
  | some x => (some x, s.setRport p fun y => { y with rx := y.rx.eraseP is })

/-- MBX_CMD (R88): a delivered command of another device enters the firmware's queue. -/
def execMbxCmd (p : Fin 2) (s : State) : Host.Outcome State Fault Refusal :=
  let r := s.takeRx p 5 1
  .next (match r.1 with
  | none => s
  | some x =>
    let d := x.frame.payload
    r.2.pushCmd ⟨.remote x.frame.src (beAt d 6 1) (decide (x.frame.dst = 0xFFFF)), beAt d 0 2, beAt d 2 2, beAt d 4 2, 0, 0,
      slice d 8 (min 496 (beAt d 4 2)), false⟩)

/-- Whether a received frame is an answer, in time, to a command that a ring mailbox has sent (R39, R89). -/
def RingWait.answered (w : RingWait) (x : RxItem) : Bool :=
  let d := x.frame.payload
  decide (w.mbx = beAt d 8 1 ∧ w.cmd.cmd = beAt d 0 2 ∧ w.cmd.seq = beAt d 2 2 ∧ x.rxNow ≤ w.deadline) &&
    (w.bcast || decide (w.cmd.dest = x.frame.src))

/-- MBX_RESP (R39, R40, R89): a delivered answer completes the ring mailbox that waits for it, adds to a broadcast's answers, or came
too late and is counted. -/
def execMbxResp (p : Fin 2) (s : State) : Host.Outcome State Fault Refusal :=
  let r := s.takeRx p 5 2
  .next (match r.1 with
  | none => s
  | some x =>
    let d := x.frame.payload
    let s := r.2
    let is := fun (w : RingWait) => w.answered x
    match s.fw.ringWaits.find? is with
    | none => s.count MBX_RING_LATE_COUNT 1
    | some w =>
      if w.bcast then s.ringAnswer is x.frame.src (beAt d 6 2)
      else
        let s := { s with fw := { s.fw with ringWaits := s.fw.ringWaits.eraseP is } }
        s.finish w.cmd (beAt d 6 2) (slice d 16 (min 496 (beAt d 4 2))))

/-- Status and response of a broadcast whose timeout has expired (R90). -/
def bcastResult (a : List (Nat × Nat)) : Nat × List Byte :=
  let bad := a.filter fun x => x.2 ≠ stOK
  let lowest := bad.foldl (fun (b : Option (Nat × Nat)) x => match b with | none => some x | some y => if x.1 < y.1 then some x else some y) none
  (match lowest with | some x => x.2 | none => if a.isEmpty then stREMOTE_TIMEOUT else stOK,
   leBytes 2 a.length ++ leBytes 2 bad.length)

/-- Whether an answer that arrived in time still waits to be handled. -/
def State.answerWaits (s : State) (w : RingWait) : Bool :=
  (List.range 2).any fun p => (s.rport p).rx.any fun x => decide (x.frame.cls = 5 ∧ x.frame.stream = 2) && w.answered x

/-- RING_MBX_TIMEOUT (R89, R90): the timeout of a ring mailbox's command has expired, and no answer has arrived in time. -/
def execRingMbxTimeout (m : Fin 4) (s : State) : Host.Outcome State Fault Refusal :=
  let is := fun (w : RingWait) => decide (w.mbx = m.val ∧ w.deadline < s.now) && !s.answerWaits w
  .next (match (if s.serving then s.fw.ringWaits.find? is else none) with
  | none => s
  | some w =>
    let s := { s with fw := { s.fw with ringWaits := s.fw.ringWaits.eraseP is } }
    let r := if w.bcast then bcastResult w.answers else (stREMOTE_TIMEOUT, [])
    if w.answers.isEmpty then s.unheard w.cmd r.2 else s.finish w.cmd r.1 r.2)

end Sys2Proof.Machine
end

