-- ==== Sys2Proof/Machine/Dma.lean ====
section
/-! DEFINITION. The DMA channels and the raster queue: enabling, doorbells, requests, halts, write-back, mailbox commands (chapter "DMA
engine and raster operation engine"). -/

namespace Sys2Proof.Machine

/-- A DMA channel. -/
def State.dch (s : State) (c : Nat) : DmaChan := s.dma[Fin.ofNat 16 c]

/-- Change a DMA channel. -/
def State.setDch (s : State) (c : Nat) (f : DmaChan → DmaChan) : State :=
  { s with dma := s.dma.set (Fin.ofNat 16 c) (f (s.dch c)) }

/-- Change the raster engine. -/
def State.setBlt (s : State) (f : Blt → Blt) : State := { s with blt := f s.blt }

/-! ### Descriptors (R568, R569) -/

/-- OWN, INT of a descriptor or raster command. -/
def descOwn (d : List Byte) : Bool := (leAt d 0 4).testBit 0
/-- INT. -/
def descInt (d : List Byte) : Bool := (leAt d 0 4).testBit 1
/-- OP of a descriptor. -/
def descOp (d : List Byte) : Nat := bits (leAt d 0 4) 4 3
/-- Element size in bytes. -/
def descE (d : List Byte) : Nat := 8 * 2 ^ bits (leAt d 0 4) 6 5
/-- BARRIER. -/
def descBarrier (d : List Byte) : Bool := (leAt d 0 4).testBit 2
/-- PACED. -/
def descPaced (d : List Byte) : Bool := (leAt d 0 4).testBit 7
/-- REQ. -/
def descReq (d : List Byte) : Nat := bits (leAt d 0 4) 12 8
/-- CNTk. -/
def descCnt (d : List Byte) (k : Nat) : Nat := leAt d (24 + 2 * k) 2
/-- SSTEPk. -/
def descS (d : List Byte) (k : Nat) : Int := sext 32 (leAt d (32 + 4 * k) 4)
/-- DSTEPk. -/
def descD (d : List Byte) (k : Nat) : Int := sext 32 (leAt d (44 + 4 * k) 4)

/-- Index of the descriptor that follows. -/
def State.dmaNext (s : State) (c : Nat) : Nat :=
  let n := min 4096 (s.rd (DMACH_RING_SIZE_SIZE c))
  if s.rd (DMACH_HEAD_INDEX c) + 1 < n then s.rd (DMACH_HEAD_INDEX c) + 1 else 0

/-- Address of the descriptor at HEAD. -/
def State.dmaDescAddr (s : State) (c : Nat) : Nat :=
  s.rd (DMACH_RING_LO_ADDR c) * 64 + s.rd (DMACH_RING_HI_ADDR c) * 2 ^ 32 + s.rd (DMACH_HEAD_INDEX c) * 64

/-- Enter a state: 0 IDLE, 1 ACTIVE, 2 HALTED, 3 STOPPED. -/
def State.dmaTo (s : State) (c st : Nat) (p : DmaPhase) : State :=
  (s.wr (DMACH_CH_STATUS_STATE c) st).setDch c fun x => { x with phase := p }

/-- Whether a count register of a channel is 0 (R42). -/
def State.dmaZero (s : State) (c : Nat) : Bool :=
  decide (s.rd (DMACH_RING_SIZE_SIZE c) = 0 ∨ s.rd (DMACH_BUDGET_COUNT c) = 0 ∨ s.rd DMA_RESP_TIMEOUT_CYCLES = 0)

/-- Read the descriptor at HEAD. With a count of 0 in RING_SIZE, BUDGET or RESP_TIMEOUT the read does not start, and the channel stops with
ERR PARAM (R37, R42, log 46). -/
def State.dmaFetch (s : State) (c : Nat) : State :=
  if s.dmaZero c then ((s.wr (DMACH_CH_STATUS_ERR c) 1).setCause (causeDma c 1)).dmaTo c 3 .none else s.dmaTo c 1 (.fetch s.now)

/-- Whether RESP_TIMEOUT has expired for an access issued at `t` (R583). -/
def State.dmaLate (s : State) (t : Nat) : Bool := decide (t + ceilDiv (s.rd DMA_RESP_TIMEOUT_CYCLES * 5) 4 < s.now)

/-- The channel parks, or reads the descriptor again when a doorbell has been latched (R574, R579). -/
def State.dmaPark (s : State) (c : Nat) : State :=
  let again := (s.dch c).latch && s.flag (DMACH_CH_CTRL_EN c)
  let s := s.setDch c fun x => { x with latch := false }
  if again then s.dmaFetch c else s.dmaTo c 0 .none

/-- A doorbell reaches a channel (R579 to R581). -/
def State.dmaRing (s : State) (c : Nat) : State :=
  if s.flag (DMACH_CH_CTRL_EN c) then
    let s := s.setDch c fun x => { x with latch := true, unint := 0 }
    let st := s.rd (DMACH_CH_STATUS_STATE c)
    if st = 0 ∨ st = 3 then (s.setDch c fun x => { x with latch := false }).dmaFetch c else s
  else s

/-- A write of EN (R574, R582). -/
def State.dmaEnable (s : State) (c : Nat) (en : Bool) : State :=
  let s := s.wr (DMACH_CH_CTRL_EN c) (b2n en)
  let idle := decide (s.rd (DMACH_CH_STATUS_STATE c) = 0)
  if en then (if idle then s.dmaFetch c else s)
  else if idle then s.setDch c fun x => { x with latch := false } else s

/-- A write of HEADn (R582). -/
def State.dmaHead (s : State) (c v : Nat) : State :=
  if s.rd (DMACH_CH_STATUS_STATE c) = 0 ∨ s.rd (DMACH_CH_STATUS_STATE c) = 3 then s.wr (DMACH_HEAD_INDEX c) v else s

/-! ### Halts and write-back (R575, R580, R581, R584, R585) -/

/-- Halt a channel: address, direction, no response, poisoned descriptor (R584). -/
def State.dmaHalt (s : State) (c addr dir : Nat) (timeout poison : Bool) : State :=
  let s := (s.wr (DMACH_ERR_ADDR_LO_ADDR c) (addr % 2 ^ 32)).wr (DMACH_ERR_ADDR_HI_ADDR c) (addr / 2 ^ 32 % 2 ^ 16)
  let s := ((s.wr (DMACH_ERR_INFO_DIR c) dir).wr (DMACH_ERR_INFO_TIMEOUT c) (b2n timeout)).wr (DMACH_ERR_INFO_POISON c) (b2n poison)
  let s := (s.wr (DMACH_ERR_INFO_INDEX c) (s.rd (DMACH_HEAD_INDEX c))).wr (DMACH_CH_STATUS_ERR c) 5
  (s.wr (DMACH_CH_STATUS_STATE c) 2).setCause (causeDma c 2)

/-- The descriptor as it is written back (R568, R575). -/
def descBack (d : List Byte) (mismatch : Option Nat) (poison : Bool) (err : Nat) : List Byte :=
  let ctrl := leAt d 0 4
  let result := 1 + 2 * b2n mismatch.isSome + 4 * b2n poison + err * 16
  leBytes 4 (ctrl - ctrl % 2) ++ leBytes 4 result ++ slice d 8 48 ++
    (match mismatch with | some n => leBytes 8 n | none => slice d 56 8)

/-- Write the current descriptor back and advance HEAD: whether the write met a bus error, in which case the channel has halted. -/
def State.dmaBack (s : State) (c err : Nat) : Bool × State :=
  let x := s.dch c
  let a := s.dmaDescAddr c
  let r := s.memWrite reqDxb a (descBack x.desc x.mismatch x.poison err) false
  if r.1 then (true, r.2.dmaHalt c a 3 false false)
  else
    let s := (r.2.count (DMACH_DESC_DONE_COUNT c) 1).wr (DMACH_REQ_PEND_COUNT c) 0
    let s := if err = 0 then s else s.wr (DMACH_CH_STATUS_ERR c) err
    (false, s.wr (DMACH_HEAD_INDEX c) (s.dmaNext c))

/-- RESUME of a HALTED channel (R585): it is ACTIVE again. The burst that it had in progress starts anew at its first element when the engine
takes the channel at a burst boundary (R589); it has taken its request already. -/
def State.dmaResume (s : State) (c : Nat) : State :=
  if s.rd (DMACH_CH_STATUS_STATE c) = 2 then
    let p := match (s.dch c).phase with
      | .fetch _ => DmaPhase.fetch s.now
      | .burst _ => DmaPhase.again
      | .done _ => DmaPhase.done s.now
      | q => q
    s.dmaTo c 1 p
  else s

/-- ABORT of a HALTED channel (R585): its descriptor, as far as it was read, is written back with ERR ABORTED; in IDLE a doorbell that has
been latched is honoured (R579). -/
def State.dmaAbort (s : State) (c : Nat) : State :=
  if s.rd (DMACH_CH_STATUS_STATE c) = 2 then
    let r := s.dmaBack c 7
    if r.1 then r.2 else r.2.dmaPark c
  else s

/-- A write of CH_CTRL's command bits. -/
def State.dmaCommand (s : State) (c : Nat) (resume abort : Bool) : State :=
  if abort then s.dmaAbort c else if resume then s.dmaResume c else s

/-! ### Requests (R587) -/

/-- Whether a channel counts requests of a source: its paced descriptor has started. -/
def State.dmaCounts (s : State) (c source : Nat) : Bool :=
  let x := s.dch c
  (match x.phase with | .ready => true | .burst _ => true | .again => true | .done _ => true | _ => false)
    && descPaced x.desc && decide (descReq x.desc = source)

/-- A request of a source reaches DXB. -/
def State.dmaRequest (s : State) (source : Nat) : State :=
  (List.range 16).foldl (fun s c =>
    if s.dmaCounts c source then
      if s.rd (DMACH_REQ_PEND_COUNT c) = 255 then (s.wr (DMACH_CH_STATUS_REQ_OVF c) 1).setCause (causeDma c 4)
      else s.count (DMACH_REQ_PEND_COUNT c) 1
    else s) s

/-- The requests that a write of SWREQ issues. -/
def State.dmaSwreq (s : State) (v : Nat) : State :=
  (List.range 15).foldl (fun s k => if v.testBit k then s.dmaRequest (17 + k) else s) s

/-- DREQ (R588). -/
def execDreq (n : Fin 4) (s : State) : Host.Outcome State Fault Refusal := .next (s.when s.mainUp fun t => t.dmaRequest n)

/-- DMA_DOORBELL (R579). -/
def execDmaDoorbell (c : Fin 16) (s : State) : Host.Outcome State Fault Refusal := .next (s.when s.mainUp fun t => t.dmaRing c)

/-! ### The raster queue (R590, R600 to R602) -/

/-- Address of the raster command at Q_HEAD. -/
def State.bltCmdAddr (s : State) : Nat := s.rd BLT_Q_LO_ADDR * 64 + s.rd BLT_Q_HI_ADDR * 2 ^ 32 + s.rd BLT_Q_HEAD_INDEX * 128

/-- Enter a state: 0 IDLE, 1 ACTIVE, 2 WAITING, 3 STOPPED. -/
def State.bltTo (s : State) (st : Nat) (p : BltPhase) : State := (s.wr BLT_STATUS_STATE st).setBlt fun b => { b with phase := p }

/-- Read the command at Q_HEAD. With 0 in Q_SIZE or RESP_TIMEOUT the read does not start, and the engine stops with ERR PARAM (R37, R42, log 46). -/
def State.bltFetch (s : State) : State :=
  if s.rd BLT_Q_SIZE_SIZE = 0 ∨ s.rd DMA_RESP_TIMEOUT_CYCLES = 0 then ((s.wr BLT_STATUS_ERR 1).setCause (causeBlt 1)).bltTo 3 .none else s.bltTo 1 (.fetch s.now)

/-- The engine parks, or reads the queue again (R579). -/
def State.bltPark (s : State) : State :=
  let again := s.blt.latch && s.flag BLT_CTRL_EN
  let s := s.setBlt fun b => { b with latch := false }
  if again then s.bltFetch else s.bltTo 0 .none

/-- A doorbell of the raster queue. -/
def State.bltRing (s : State) : State :=
  if s.flag BLT_CTRL_EN then
    let st := s.rd BLT_STATUS_STATE
    if st = 0 ∨ st = 3 then (s.setBlt fun b => { b with latch := false }).bltFetch else s.setBlt fun b => { b with latch := true }
  else s

/-- A write of CTRL.EN. -/
def State.bltEnable (s : State) (en : Bool) : State :=
  let s := s.wr BLT_CTRL_EN (b2n en)
  let idle := decide (s.rd BLT_STATUS_STATE = 0)
  if en then (if idle then s.bltFetch else s) else if idle then s.setBlt fun b => { b with latch := false } else s

/-- A write of Q_HEAD. -/
def State.bltHead (s : State) (v : Nat) : State :=
  if s.rd BLT_STATUS_STATE = 0 ∨ s.rd BLT_STATUS_STATE = 3 then s.wr BLT_Q_HEAD_INDEX v else s

/-- Write the command back with its outcome, set its causes, and go on (R575, R590, R600). -/
def State.bltBack (s : State) (err : Nat) : State :=
  let b := s.blt
  let ctrl := leAt b.cmd 0 4
  let a := s.bltCmdAddr
  let back := leBytes 4 (ctrl - ctrl % 2) ++ leBytes 4 (1 + err * 16 + 256 * b2n b.notRunning + 512 * b2n b.poison) ++ slice b.cmd 8 120
  let r := s.memWrite reqDxb a back false
  -- a write-back that meets a bus error stops the engine as any other access does (log 46)
  let err := if r.1 then 5 else err
  let s := if r.1 then (r.2.wr BLT_ERR_ADDR_LO_ADDR (a % 2 ^ 32)).wr BLT_ERR_ADDR_HI_ADDR (a / 2 ^ 32 % 2 ^ 16) else r.2.count BLT_CMDS_DONE_COUNT 1
  let n := min 1024 (s.rd BLT_Q_SIZE_SIZE)
  let s := s.wr BLT_Q_HEAD_INDEX (if s.rd BLT_Q_HEAD_INDEX + 1 < n then s.rd BLT_Q_HEAD_INDEX + 1 else 0)
  if err = 0 then
    let s := if descInt b.cmd then s.setCause (causeBlt (if bits ctrl 3 2 = 2 then 3 else 0)) else s
    if b.abort then (s.setBlt fun x => { x with abort := false }).bltTo 3 .none
    else if s.flag BLT_CTRL_EN then s.bltFetch else (s.setBlt fun x => { x with latch := false }).bltTo 0 .none
  else
    (((s.wr BLT_STATUS_ERR err).setCause (causeBlt 1)).setBlt fun x => { x with abort := false }).bltTo 3 .none

/-- A write of CTRL.ABORT (R600): a command that draws rows ends at the next row boundary; one that waits for a line ends at once. -/
def State.bltAbort (s : State) : State :=
  match s.blt.phase with
  | .rows _ => s.setBlt fun b => { b with abort := true }
  | .wait _ _ => s.bltTo 1 (.done 7)
  | .done _ => s.setBlt fun b => { b with abort := true }
  | _ => s

/-- A bus error of the raster engine (R600). -/
def State.bltBusErr (s : State) (addr : Nat) : State :=
  (((s.wr BLT_ERR_ADDR_LO_ADDR (addr % 2 ^ 32)).wr BLT_ERR_ADDR_HI_ADDR (addr / 2 ^ 32 % 2 ^ 16))).bltTo 1 (.done 5)

/-- A destination row has been drawn (R602): the watermark cause, which is a DMA request of source 16 too. -/
def State.bltRowCount (s : State) : State :=
  let n := s.rd BLT_ROWS_DONE_ROWS
  let w := s.rd BLT_WATERMARK_ROWS
  let s := s.wr BLT_ROWS_DONE_ROWS (n + 1)
  if n < w ∧ w ≤ n + 1 then (s.setCause (causeBlt 2)).dmaRequest 16 else s

/-- A head's line window starts: a WAIT_LINE for it completes (R601). -/
def State.bltLine (s : State) (h line : Nat) : State := if s.blt.phase = .wait h line then s.bltTo 1 (.done 0) else s

/-- A head's timing generator stops: a WAIT_LINE for the head completes with NOT_RUNNING. -/
def State.bltHeadStops (s : State) (h : Nat) : State :=
  match s.blt.phase with
  | .wait k _ => if k = h then (s.setBlt fun b => { b with notRunning := true }).bltTo 1 (.done 0) else s
  | _ => s

/-- BLT_COMMAND_DONE (R590). -/
def execBltCommandDone (s : State) : Host.Outcome State Fault Refusal :=
  .next (match s.blt.phase with | .done e => s.when s.mainUp fun t => t.bltBack e | _ => s)

/-! ### Mailbox commands (R603 to R605) -/

/-- Whether a ring of descriptors may stand at an address (R567). -/
def State.dmaRingOk (s : State) (a len : Nat) : Bool :=
  (s.inDdr a && s.spanOk a len) ||
    (inDsm a && s.spanOk a len && s.dsmAllowed reqDxb (a - dsmBase) false && s.dsmAllowed reqDxb (a - dsmBase) true)

/-- DMA_CHANNEL_SET (R603). -/
def execDmaChannelSet (s : State) : Host.Outcome State Fault Refusal :=
  .next (s.serve 0x0801 fun c s =>
    let p := c.payload
    let n := leAt p 0 1
    let ring := leAt p 4 8
    let size := leAt p 12 2
    if 16 ≤ n ∨ 3 < leAt p 2 1 ∨ size = 0 ∨ 4096 < size ∨ leAt p 14 2 = 0 ∨ ring % 64 ≠ 0 then s.fail c stBAD_PARAM
    else if !s.dmaRingOk ring (size * 64) then s.fail c stPROT_BOUND
    else if s.rd (DMACH_CH_STATUS_STATE n) = 1 ∨ s.rd (DMACH_CH_STATUS_STATE n) = 2 then s.fail c stBUSY
    else
      let s := (s.wr (DMACH_RING_LO_ADDR n) (ring / 64 % 2 ^ 26)).wr (DMACH_RING_HI_ADDR n) (ring / 2 ^ 32)
      let s := (s.wr (DMACH_RING_SIZE_SIZE n) size).wr (DMACH_BUDGET_COUNT n) (leAt p 14 2)
      let s := (s.wr (DMACH_CH_CTRL_PRIO n) (leAt p 2 1)).wr (DMACH_HEAD_INDEX n) 0
      (s.dmaEnable n ((leAt p 1 1).testBit 0)).ok c)

/-- DMA_CHANNEL_CTRL (R604). -/
def execDmaChannelCtrl (s : State) : Host.Outcome State Fault Refusal :=
  .next (s.serve 0x0802 fun c s =>
    let n := leAt c.payload 0 1
    let a := leAt c.payload 1 1
    if 16 ≤ n ∨ 1 < a then s.fail c stBAD_PARAM
    else
      let resp := leBytes 4 (s.rd (DMACH_ERR_ADDR_LO_ADDR n)) ++ leBytes 4 (s.rd (DMACH_ERR_ADDR_HI_ADDR n))
        ++ leBytes 4 (s.reg (DMACH_ERR_INFO_DIR n).off).toNat ++ [0, 0, 0, 0]
      (s.dmaCommand n (decide (a = 0)) (decide (a = 1))).finish c stOK resp)

/-- BLT_QUEUE_SET (R605). -/
def execBltQueueSet (s : State) : Host.Outcome State Fault Refusal :=
  .next (s.serve 0x0810 fun c s =>
    let p := c.payload
    let size := leAt p 2 2
    let q := leAt p 8 8
    if size = 0 ∨ 1024 < size ∨ q % 64 ≠ 0 then s.fail c stBAD_PARAM
    else if !s.dmaRingOk q (size * 128) then s.fail c stPROT_BOUND
    else if s.rd BLT_STATUS_STATE = 1 ∨ s.rd BLT_STATUS_STATE = 2 then s.fail c stBUSY
    else
      let s := (s.wr BLT_Q_LO_ADDR (q / 64 % 2 ^ 26)).wr BLT_Q_HI_ADDR (q / 2 ^ 32)
      (((s.wr BLT_Q_SIZE_SIZE size).wr BLT_Q_HEAD_INDEX 0).bltEnable ((leAt p 0 1).testBit 0)).ok c)

end Sys2Proof.Machine
end

