-- ==== Sys2Proof/Machine/Duplex.lean ====
section
/-! DEFINITION. The duplex of control cores, system commands, the queue of commits and the steps of a firmware swap that ride on the
duplex (chapters "Control" and "Power, reset, boot and the non-volatile store"). -/

namespace Sys2Proof.Machine

/-! ### Commit queue (R652, R653) -/

/-- Queue a commit, and answer its ticket. -/
def State.nvEnqueue (s : State) (cls : Nat) (what : NvWrite) (own : Bool) : Nat × State :=
  let t := s.nv.nextTicket
  (t, { s with nv := { s.nv with nextTicket := t + 1, queue := s.nv.queue ++ [⟨cls, t, what, own, false⟩] } })

/-- Queue a commit for a command, which waits for it with a response to give. -/
def State.nvCommand (s : State) (c : FwCmd) (cls : Nat) (what : NvWrite) (resp : List Byte) : State :=
  let r := s.nvEnqueue cls what false
  r.2.waitFor c (.nv r.1 resp)

/-! ### Duplex -/

/-- STANDBY_STATE codes. -/
def sbHELD : Nat := 0
def sbSYNCING : Nat := 1
def sbREADY : Nat := 2
def sbFAILED : Nat := 3

/-- Change the standby's state (R101, CORE_INT_STATUS). -/
def State.setStandby (s : State) (st : Nat) : State :=
  let old := s.rd GLB_CORE_STATUS_STANDBY_STATE
  let s := (s.wr GLB_CORE_STATUS_STANDBY_STATE st).wr GLB_CORE_STATUS_DUPLEX (b2n (st = sbREADY))
  if old = st then s else s.setCause (causeCore 2)

/-- Change the duplex's state. -/
def State.setDup (s : State) (f : Duplex → Duplex) : State := { s with duplex := f s.duplex }

/-- The standby's state. -/
def State.standby (s : State) : Nat := s.rd GLB_CORE_STATUS_STANDBY_STATE

/-- A restart request: a HELD or FAILED standby resynchronises (R101). -/
def State.reqRestart (s : State) : State :=
  if s.standby = sbHELD ∨ s.standby = sbFAILED then (s.setStandby sbSYNCING).setDup fun d => { d with selftestOk := false }
  else s

/-- A request for a voluntary handover (R103, CORE_CTRL.SWITCH). -/
def State.reqSwitch (s : State) : State :=
  if s.standby = sbREADY && s.duplex.fwUp && !s.duplex.handoverReq then
    (s.wr GLB_CORE_CTRL_SWITCH 1).setDup fun d => { d with handoverReq := true }
  else s

/-- Commands whose completion lies ahead, in the order in which their doorbells reached the device: the new core executes those that had
begun again from their start (R71, R83, R99). Commits that they queued are dropped; commits of the firmware's own start again, each after a new hold-up check (R102). -/
def State.requeue (s : State) : State :=
  let begun := s.fw.waiting.map Waiting.cmd ++ s.fw.ringWaits.map RingWait.cmd
  let all := begun ++ s.fw.queue
  let cmds := s.fw.copied.filter fun c => decide (c ∈ all)
  let own := ((s.nv.busy.toList ++ s.nv.queue).filter Commit.own).map fun x => { x with checked := false }
  let s := { s with
    fw := { s.fw with
      queue := cmds ++ all.filter fun c => decide (c ∉ cmds)
      waiting := []
      ringWaits := []
      again := (s.fw.again.filter fun c => decide (c ∈ s.fw.queue)) ++ begun }
    nv := { s.nv with busy := none, queue := own }
    dsm := { s.dsm with scrub := none }
    ddr := { s.ddr with scrub := none } }
  s.wr PWR_STATUS_COMMIT_BUSY 0

/-- The commit that a failed core had started does not go on: it waits at the head of the queue (R102). -/
def State.commitStop (s : State) : State :=
  ({ s with nv := { s.nv with busy := none, queue := s.nv.busy.toList ++ s.nv.queue } }).wr PWR_STATUS_COMMIT_BUSY 0

/-- The active core has failed (R97, R98, R100): takeover by a READY standby, else restart of the failed core. The monitor's timer starts
again for the core that is active then. A new active core that fails before it has resumed service leaves no FAILOVERS, no TAKEOVER and
no EV_FAILOVER of its takeover: R99 gives them to the resumption (log 59, DESIGN CHOICE). -/
def State.coreFailed (s : State) : State :=
  let s := (s.commitStop.wr GLB_CORE_CTRL_SWITCH 0).setDup fun d => { d with lastHb := s.now }
  if s.standby = sbREADY then
    let s := (s.wr GLB_CORE_STATUS_ACTIVE (1 - s.rd GLB_CORE_STATUS_ACTIVE)).setStandby sbHELD
    s.setDup fun d => { d with fwUp := false, resume := some .takeover, handoverReq := false }
  else
    let s := if s.standby = sbSYNCING then s.setStandby sbHELD else s
    (s.setDup fun d => { d with fwUp := false, resume := some .simplex, handoverReq := false }).report
      EV_SIMPLEX_RESTART (src 1 0) 0

/-- Whether a core is active, though the firmware's service may pause (R97 to R103). -/
def State.coreRuns (s : State) : Bool := s.mainUp && (s.duplex.fwUp || s.duplex.resume.isSome)

/-- Heartbeat timeout in ns, within its range (GLB.CORE_HB). -/
def State.hbTimeout (s : State) : Nat := min 1000 (max 10 (s.rd GLB_CORE_HB_HB_TIMEOUT)) * 10000

/-- The timeout for the active core's heartbeat has run out (R39, R97). A core that restarts under R100 sends none yet, and is not
watched (log 11). -/
def State.hbOver (s : State) : Bool :=
  s.coreRuns && decide (s.duplex.resume ≠ some .simplex) && decide (s.duplex.lastHb + s.hbTimeout < s.now)

/-- HEARTBEAT (R40, R96): the active core's heartbeat reaches the monitor; one that comes after the timeout finds the core declared
failed. -/
def execHeartbeat (s : State) : Host.Outcome State Fault Refusal :=
  .next (if s.hbOver then s.coreFailed else if s.coreRuns then s.setDup fun d => { d with lastHb := s.now } else s)

/-- HB_TIMEOUT (R39, R97): no heartbeat for the timeout. -/
def execHbTimeout (s : State) : Host.Outcome State Fault Refusal := .next (if s.hbOver then s.coreFailed else s)

/-- CORE_FAULT (R97): the active core takes a fault that Alafer cannot recover from. -/
def execCoreFault (s : State) : Host.Outcome State Fault Refusal := .next (if s.coreRuns then s.coreFailed else s)

/-! ### Firmware swap (R660 to R662) -/

/-- Version of the image in a slot. -/
def State.slotVersion (s : State) (slot : Nat) : Nat :=
  match s.nv.images[Fin.ofNat 2 slot] with | some i => i.version | none => 0

/-- Change the swap in progress. -/
def State.setSwap (s : State) (x : Option Swap) : State := { s with power := { s.power with swap := x } }

/-- Whether a head counts as running for a swap: its timing generator counts frames (R660). -/
def State.headCounts (s : State) (h : Nat) : Bool :=
  decide (h < s.nHeads) && (s.heads[Fin.ofNat 4 h]).gen

/-- The reference head of a swap has latched, or has stopped: the handover is due (R660 steps 3 and 4). -/
def State.swapLatch (s : State) (h : Nat) : State :=
  match s.power.swap with
  | some x => if x.step = 2 ∧ x.head = h then (s.setSwap (some { x with step := 3 })).reqSwitch else s
  | none => s

/-- The standby is READY on the staged image (R660 step 3). -/
def State.swapReady (s : State) (x : Swap) : State :=
  let s := s.setSwap (some { x with step := 2 })
  if s.headCounts x.head then s else s.swapLatch x.head

/-- The former active core is READY on the new image: commit the boot record (R660 step 6). -/
def State.swapCommit (s : State) (x : Swap) : State :=
  let s := (s.setSwap (some { x with step := 4 })).nvEnqueue 1 (.boot x.slot) false
  if x.raiseSvn then (s.2.nvEnqueue 1 (.svnMin x.svn) false).2 else s.2

/-- The swap is over: its command completes with OK (R660 step 7, R662). -/
def State.swapDone (s : State) (pending : Bool) : State :=
  match s.power.swap with
  | none => s
  | some x =>
    let resp := leBytes 4 x.oldVersion ++ leBytes 4 x.version ++ leBytes 4 x.pauseUs ++ leBytes 4 (b2n pending)
    let t : State := { s with power := { s.power with swap := none, staged := none } }
    (t.wake fun w => if w.kind = .swap then some (stOK, resp) else none).report EV_FW_SWAP (src 1 0) 0

/-- The standby has not become READY within 2 s: it restarts on the running image (R661). -/
def State.swapFail (s : State) : State :=
  let s := ((s.setSwap none).setStandby sbSYNCING).setDup fun d => { d with selftestOk := false }
  (s.wake fun w => if w.kind = .swap then some (stBUSY, zeroResp 0x0A11 []) else none).report EV_FW_SWAP_FAIL (src 1 0) 0

/-- The 2 s limit of a swap has passed with the standby not READY (R39, R661). -/
def State.swapOver (s : State) : Bool :=
  match s.power.swap with
  | some x => s.serving && decide (x.step = 1 ∧ x.since + 2000000000 < s.now)
  | none => false

/-- SWAP_TIMEOUT (R661). -/
def execSwapTimeout (s : State) : Host.Outcome State Fault Refusal := .next (if s.swapOver then s.swapFail else s)

/-- STANDBY_SELFTEST_DONE (R101). -/
def execStandbySelftestDone (pass : Bool) (s : State) : Host.Outcome State Fault Refusal :=
  .next (if !s.mainUp || decide (s.standby ≠ sbSYNCING) || s.duplex.selftestOk then s
    else if pass then s.setDup fun d => { d with selftestOk := true }
    else (s.setStandby sbFAILED).wake fun w => if w.kind = .coreRestart then some (stOK, []) else none)

/-- STANDBY_READY (R101): the SYNCING core holds the firmware state and the records. Where the 2 s of a swap have passed, it finds the
standby restarted on the running image (R40, R661). -/
def execStandbyReady (s : State) : Host.Outcome State Fault Refusal :=
  .next (if s.swapOver then s.swapFail else if !s.serving || decide (s.standby ≠ sbSYNCING) || !s.duplex.selftestOk then s
    else
      let s := (s.setStandby sbREADY).wake fun w => if w.kind = .coreRestart then some (stOK, []) else none
      match s.power.swap with
      | some x => if x.step = 1 then s.swapReady x else if x.step = 3 then s.swapCommit x else s
      | none => s)

/-- HANDOVER (R103): the active role passes to the READY standby; service pauses. -/
def execHandover (s : State) : Host.Outcome State Fault Refusal :=
  .next (if s.serving && s.duplex.handoverReq && decide (s.standby = sbREADY) then
    let s := ((s.wr GLB_CORE_STATUS_ACTIVE (1 - s.rd GLB_CORE_STATUS_ACTIVE)).setStandby sbSYNCING).wr GLB_CORE_CTRL_SWITCH 0
    let swapping := match s.power.swap with | some x => decide (x.step = 3) | none => false
    let s := s.setDup fun d => { d with handoverReq := false, fwUp := false, resume := some .handover, selftestOk := !swapping }
    let s := s.setSwap (s.power.swap.map fun x => if x.step = 3 then { x with pauseAt := s.now } else x)
    s.setCause (causeCore 1)
  else s)

/-- The image of the swap runs; the boot record does not prefer it yet (R659, R660 step 4). -/
def State.swapRuns (s : State) (x : Swap) : State :=
  ((s.wr PWR_STATUS_RUNNING_SLOT x.slot).wr GLB_FW_VERSION_VERSION x.version).wr PWR_STATUS_FALLBACK 1

/-- What a failure of a core leaves of a swap: step 6 where the new image runs, else nothing (coincidences at a swap). -/
def State.swapKeep (s : State) : State :=
  s.setSwap (s.power.swap.bind fun x => if s.rd PWR_STATUS_RUNNING_SLOT = x.slot then some { x with step := 4 } else none)

/-- FIRMWARE_RESUME (R99, R100, R103): the firmware's service resumes. -/
def execFirmwareResume (s : State) : Host.Outcome State Fault Refusal :=
  let up := fun (s : State) => (s.setDup fun d => { d with fwUp := true, resume := none, lastHb := s.now }).retime
  .next (if !s.mainUp then s else
  match s.duplex.resume with
  | none => s
  | some .boot => up s
  | some .simplex => up s.swapKeep.requeue
  | some .takeover =>
    let s := match s.power.swap with
      | some x => if 2 ≤ x.step then (s.swapRuns x).swapKeep else s.swapKeep
      | none => s
    ((up s.requeue).count GLB_CORE_STATUS_FAILOVERS 1 |>.setCause (causeCore 0)).report EV_FAILOVER (src 1 0) 0
  | some .handover =>
    let s := match s.power.swap with
      | some x => if x.step = 3 then (s.swapRuns x).setSwap (some { x with pauseUs := (s.now - x.pauseAt) / 1000 }) else s
      | none => s
    (up s).wake fun w => if w.kind = .coreSwitch then some (stOK, []) else none)

/-! ### System commands (R78, R79, R85, R716) -/

/-- The device ID word (R5). -/
def State.deviceId (s : State) : Nat :=
  (if s.part = .sgn7240 then 0x7240 else 0x7220) * 65536 + s.fuses.stepping % 256 * 256

/-- DEVICE_INFO (R78 table). -/
def execDeviceInfo (s : State) : Host.Outcome State Fault Refusal :=
  .next (s.serve 0x0101 fun c s =>
    s.finish c stOK (leBytes 4 s.deviceId ++ leBytes 4 (s.rd GLB_FW_VERSION_VERSION) ++ leBytes 1 (s.rd PWR_STATUS_RUNNING_SLOT)
      ++ leBytes 1 (s.rd GLB_CORE_STATUS_ACTIVE) ++ leBytes 2 s.ringId ++ leBytes 8 s.fuses.serial ++ leBytes 4 (s.ddrBytes / 2 ^ 30)))

/-- ECHO: the same bytes. -/
def execEcho (s : State) : Host.Outcome State Fault Refusal := .next (s.serve 0x0102 fun c s => s.finish c stOK c.payload)

/-- CORE_SWITCH (R79, R85). -/
def execCoreSwitch (s : State) : Host.Outcome State Fault Refusal :=
  .next (s.serve 0x0110 fun c s =>
    match s.took c with
    | t :: _ => if t = s.rd GLB_CORE_STATUS_ACTIVE then s.ok c
        else if s.standby = sbREADY then (s.waitFor c .coreSwitch).reqSwitch else s.fail c stBUSY
    | [] =>
      if s.standby = sbREADY then
        ((s.take c [1 - s.rd GLB_CORE_STATUS_ACTIVE]).waitFor c .coreSwitch).reqSwitch
      else s.fail c stBUSY)

/-- CORE_RESTART (R79, R101). -/
def execCoreRestart (s : State) : Host.Outcome State Fault Refusal :=
  .next (s.serve 0x0111 fun c s => if s.standby = sbREADY then s.ok c else (s.waitFor c .coreRestart).reqRestart)

end Sys2Proof.Machine
end

