-- ==== Sys2Proof/Machine/RingMember.lean ====
section
/-! DEFINITION. The ring at work (chapter "The Halyard ring and the Shroud bypass"): receiving, membership, peer delay, master and
SYNC, the horizon, bulk transfers, wrap and unwrap. -/

namespace Sys2Proof.Machine

/-! ### Gate lists -/

/-- GATE_LIST_START (R449, R452, R453). -/
def execGateListStart (p : Fin 2) (s : State) : Host.Outcome State Fault Refusal :=
  .next (s.gateOperate p.val)

/-! ### Master election (R400) -/

/-- The order of candidates: RANK, PRIORITY, ring ID. -/
def masterKey (rank prio rid : Nat) : Nat := rank * 2 ^ 24 + prio * 2 ^ 16 + rid

/-- The time master by the membership table and this device; 0 if none or not joined. -/
def State.master (s : State) : Nat :=
  if s.joined then
    let all := (s.ringId, masterKey s.ownRank (s.rd HLY_TIME_CFG_PRIORITY) s.ringId, s.rd HLY_TIME_CFG_PRIORITY)
      :: s.ring.members.map fun m => (m.rid, masterKey m.rank m.prio m.rid, m.prio)
    let best := (all.filter fun x => x.2.2 < 255).foldl (fun (b : Option (Nat × Nat)) x =>
      match b with | none => some (x.1, x.2.1) | some y => if x.2.1 < y.2 then some (x.1, x.2.1) else b) none
    match best with | some y => y.1 | none => 0
  else 0

/-- Elect the master anew; a change sets cause TIME_MASTER; the firmware selects the source of device time (R628). -/
def State.elect (s : State) : State :=
  let m := s.master
  let s := if m = s.rd HLY_TIME_MASTER_ID then s
    else ((s.wr HLY_TIME_MASTER_ID m).setCause (causeHly 7)).setRing fun r => { r with syncUsed := none }
  s.retime

/-! ### Wrapped ends (R413, R414) -/

/-- The link that a wrapped end belongs to: the ring ID of the device on its HE side, by the order of the members eastward from this device
(R395) as it stood before a link broke; an end whose western neighbour is not known belongs to the one HE end that is known, where there is
one, else to a link of its own. -/
def State.linkOf (s : State) (e : Nat × Nat) : Nat × Nat :=
  let east := s.ring.eastOrder
  if e.2 = 1 then (e.1, 1)
  else match east.findIdx? fun r => decide (r = e.1) with
    | some i => if east.length < 2 then e else (east.getD ((i + east.length - 1) % east.length) 0, 1)
    | none => match s.ring.wrapEnds.filter fun d => d.2 = 1 with
      | [d] => d
      | _ => e

/-- The order of the members eastward, while it can be told from HOPS. -/
def State.noteOrder (s : State) : State :=
  if s.ring.wrapEnds.isEmpty then s.setRing fun r => { r with eastOrder := s.ringId :: s.byHops.reverse.map Member.rid } else s

/-- Whether the list of wrapped link ends shows two or more links. -/
def State.isSplit (s : State) : Bool :=
  match s.ring.wrapEnds.map s.linkOf with
  | [] => false
  | l :: ls => ls.any fun k => decide (k ≠ l)

/-- STATUS.SPLIT follows the list (R414). -/
def State.splitFlag (s : State) : State :=
  let v := s.isSplit
  let t := s.wr HLY_STATUS_SPLIT (b2n v)
  if v && !s.flag HLY_STATUS_SPLIT then (t.setCause (causeHly 9)).report EV_RING_SPLIT (src 8 0) 0 else t

/-- An end enters the list. -/
def State.addEnd (s : State) (rid side : Nat) : State :=
  if s.ring.wrapEnds.contains (rid, side) then s
  else (s.setRing fun r => { r with wrapEnds := (rid, side) :: r.wrapEnds }).splitFlag

/-- An end leaves the list. -/
def State.dropEnd (s : State) (rid side : Nat) : State :=
  (s.setRing fun r => { r with wrapEnds := r.wrapEnds.filter fun e => e ≠ (rid, side) }).splitFlag

/-- BEACON.LOSS in ns. -/
def State.lossNs (s : State) : Nat := s.rd HLY_BEACON_LOSS * 1000

/-- Ends whose T_u has been reached leave the list (R413). -/
def State.purgeEnds (s : State) : State :=
  let due := s.ring.unwraps.filter fun u => u.2.2.1 ≤ s.time.ns
  let s := due.foldl (fun t u => if u.1 = t.ringId then t else t.dropEnd u.1 u.2.1) s
  s.setRing fun r => { r with unwraps := r.unwraps.filter fun u => s.time.ns < u.2.2.1 ∨ s.now ≤ u.2.2.2 + s.lossNs }

/-! ### Receiving (R388 to R390, R413) -/

/-- Frame bytes in a receive queue. -/
def rxBytes (l : List RxItem) : Nat := l.foldl (fun a x => a + x.frame.frameBytes) 0

/-- Count the bytes of a received frame that the port discards (R461). -/
def State.rxDrop (s : State) (p : Nat) (f : HFrame) : State :=
  s.count64 (HLYQ_RX_DROP_BYTES_LO_BYTES p) (HLYQ_RX_DROP_BYTES_HI_BYTES p) f.frameBytes

/-- Deliver a frame with a good CRC into the local receive queue of its port (R390, R454, table of R385). -/
def State.ringDeliver (s : State) (p : Nat) (f : HFrame) (policed : Bool) : State :=
  if (f.cls = 7 ∧ 2 < f.stream) ∨ (f.cls = 5 ∧ 5 < f.stream) then (s.count (HLYP_RX_DROPPED_TYPE_COUNT p) 1).rxDrop p f
  else
    let r := if policed then s.police p 1 f else (true, s)
    let s := r.2
    if !r.1 then s
    else if (s.rport p).rxKib * 1024 < rxBytes (s.rport p).rx + f.frameBytes then
      (s.count (HLYP_RX_OVERFLOW_COUNT p) 1).rxDrop p f
    else s.setRport p fun x => { x with rx := x.rx ++ [⟨f, s.time.ns, s.now⟩] }

/-- Forward a frame by the onward port; a bad CRC goes on as a complement (R384, R405, R411). -/
def State.ringForward (s : State) (p : Nat) (f : HFrame) (stomp : Bool) : State :=
  if f.cls = 7 ∧ s.wrapped (otherPort p) then s
  else
    let out := if s.wrapped (otherPort p) then p else otherPort p
    s.setRport out fun x => { x with transit := x.transit ++ [⟨f, stomp, some (p, s.time.ns), none⟩] }

/-- Rule 2 of R388, from the header (R389): the onward port is the port by which this device first transmitted the frame. A good BEACON that
shows another SERIAL is none that this device transmitted (R396). -/
def State.ownRound (s : State) (p : Nat) (f : HFrame) (good : Bool) : Bool :=
  let onward := if s.wrapped (otherPort p) then p else otherPort p
  let other := good && decide (f.cls = 5 ∧ f.stream = 0 ∧ beAt f.payload 0 8 ≠ s.fuses.serial)
  decide (f.src = s.ringId) && !other && s.ring.firstPort.any fun e => decide (e = ((f.cls, f.stream, f.dst, f.seq), onward))

/-- A BEACON with a good CRC has been received from its sender (R388 rule 3). -/
def State.noteBeacon (s : State) (f : HFrame) : State :=
  s.setRing fun r => { r with heard := (f.src, s.now) :: r.heard.filter fun e => e.1 ≠ f.src }

/-- Whether a sender has been heard within BEACON.LOSS. -/
def State.heardOf (s : State) (rid : Nat) : Bool :=
  match s.ring.heard.lookup rid with | some t => decide (s.now ≤ t + s.lossNs) | none => false

/-- The handling of a received frame on a joined device (R388). -/
def State.ringHandle (s : State) (p : Nat) (f : HFrame) (crc : CrcState) : State :=
  let good := decide (crc = .good)
  let beacon := decide (f.cls = 5 ∧ f.stream = 0)
  let s := if beacon && good then s.noteBeacon f else s
  let local_ := fun (s : State) (policed : Bool) => if good then s.ringDeliver p f policed else s.rxDrop p f
  if p = 1 && decide (f.cls ≠ 7) && s.ring.wrapEnds.isEmpty then (s.count (HLYP_WRAP_DISCARD_COUNT p) 1).rxDrop p f
  else if f.dst = 0 then local_ s false
  else if s.ownRound p f good then
    let s := s.count (HLYP_STRIPPED_OWN_COUNT p) 1
    if f.dst ≠ 0xFFFF then s.count (HLYP_UNDELIVERED_COUNT p) 1 else s
  else if !beacon && !s.heardOf f.src then (s.count (HLYP_STRIPPED_STALE_COUNT p) 1).rxDrop p f
  else if f.dst = s.ringId then local_ s true
  else if f.dst = 0xFFFF then (local_ s true).ringForward p f (!good)
  else s.ringForward p f (!good)

/-- Whether fewer bytes of a frame arrived than its header announces: a switch of the through-path has cut it short (R417). -/
def cutShort (frame : List Byte) : Bool := decide (frame.length < 12 ∨ frame.length < bits (beAt frame 0 8) 16 6 + 13)

/-- After a frame that was cut short: RX_DROP_BYTES has counted the bytes that arrived, once, wherever the frame went (R461). -/
def State.cutCounted (s : State) (p : Nat) (t : State) (n : Nat) : State :=
  let lo := HLYQ_RX_DROP_BYTES_LO_BYTES p
  let hi := HLYQ_RX_DROP_BYTES_HI_BYTES p
  ((t.wr lo (s.rd lo)).wr hi (s.rd hi)).count64 lo hi n

/-- RING_RECEIVE (R388, R415): a frame arrives on a port. The Shroud in THROUGH passes it on as it came, and the main die
listens on the copy; a joined device handles it. A frame shows that Remote Fault has ceased (log 35). -/
def execRingReceive (p : Fin 2) (frame : List Byte) (s : State) : Host.Outcome State Fault Refusal :=
  let s := if s.shroud.path = 1 then s.emit (.ringTx (otherPort p.val) frame) else s
  .next (if !s.mainUp || !s.portEn p.val || decide (s.shroud.path = 0) then s
  else
    let f := HFrame.parse frame
    let c := crcState frame
    let s := (s.count (HLYP_RX_FRAMES_COUNT p.val) 1).setRport p fun x => { x with hearsRf := false }
    let s := match c with
      | .good => s
      | .stomped => s.count (HLYP_RX_STOMPED_COUNT p.val) 1
      | .bad => (s.count (HLYP_RX_CRC_ERR_COUNT p.val) 1).setRport p fun x => { x with badAt := some s.now }
    let t := if s.joined then (s.purgeEnds).ringHandle p.val f c
      else if c ≠ .good then s.rxDrop p.val f
      else if f.cls = 5 ∧ f.stream = 0 then (s.noteBeacon f).ringDeliver p.val f false
      else s
    if cutShort frame then s.cutCounted p t frame.length else t)

/-! ### Membership (R394 to R396) -/

/-- BEACON_SEND (R394). -/
def execBeaconSend (s : State) : Host.Outcome State Fault Refusal :=
  let per := s.rd HLY_BEACON_PERIOD
  .next (if s.mainUp && s.joined && !s.ring.leaving && decide (per ≠ 0 ∧ s.ring.lastBeacon + per * 1000 ≤ s.now) then
    (s.sendBeacon 0).setRing fun r => { r with lastBeacon := s.now }
  else s)

/-- The table changes by an entry (R395, R407). -/
def State.membersChanged (s : State) (l : List Member) : State :=
  let s := (s.setRing fun r => { r with members := l }).wr HLY_MEMBERS_COUNT l.length
  (((s.setCause (causeHly 4)).report EV_RING_MEMBER (src 8 0) 0).elect).recomputeHorizon.splitFlag

/-- Give the ring up: the device sends a LEAVING BEACON and waits for the switch (R422). -/
def State.startLeave (s : State) : State := (s.sendBeacon 1).setRing fun r => { r with leaving := true }

/-- The status and response of a waiting RING_JOIN. One that fails leaves the parameters as they were (R78). -/
def State.endJoin (s : State) (status : Nat) (resp : List Byte) : State :=
  let saved := match s.ring.join with | some j => if status = stOK then [] else j.saved | none => []
  let s := if saved.isEmpty then s else (saved.foldl (fun t e => t.setRegOwn e.1 e.2) s).horizonFlags.elect
  (s.setRing fun r => { r with join := none }).wake fun w => if w.kind = .join then some (status, resp) else none

/-- A BEACON carries this device's ring ID with another SERIAL: the device leaves, under its ring ID until the Shroud holds the path, and a
join ends with it (R396). -/
def State.ridClash (s : State) (serial : Nat) : State :=
  if serial < s.fuses.serial ∧ !s.ring.leaving then
    let s := s.setRing fun r => { r with join := r.join.map fun j => { j with step := .clash } }
    (s.startLeave.setCause (causeHly 5)).report EV_RING_ID_CLASH (src 8 0) 0
  else s

/-- The wrapped ends that a member's BEACON shows, and no longer shows (R413). -/
def State.beaconEnds (s : State) (rid mask : Nat) : State :=
  (List.range 2).foldl (fun t side =>
    let noticed := t.ring.unwraps.any fun u => decide (u.1 = rid ∧ u.2.1 = side ∧ t.now ≤ u.2.2.2 + t.lossNs)
    if mask.testBit side then (if noticed then t else t.addEnd rid side) else t.dropEnd rid side) s

/-- BEACON (R395, R396): a delivered BEACON updates the membership table, the wrapped ends and the master. -/
def execBeacon (p : Fin 2) (s : State) : Host.Outcome State Fault Refusal :=
  let r := s.takeRx p 5 0
  .next (match r.1 with
  | none => s
  | some x =>
    let d := x.frame.payload
    let s := r.2.purgeEnds
    let rid := x.frame.src
    -- an entry whose time had passed when the BEACON arrived is removed first (R40)
    let gone := s.ring.members.any fun m => decide (m.rid = rid ∧ s.lossNs ≠ 0 ∧ m.at_ + s.lossNs < x.rxNow)
    let s := if gone then s.membersChanged (s.ring.members.filter fun m => m.rid ≠ rid) else s
    let serial := beAt d 0 8
    if rid = s.ringId ∧ s.joined then (if serial = s.fuses.serial then s else s.ridClash serial)
    else
      let s := s.beaconEnds rid (beAt d 12 2)
      let old := s.ring.members.find? fun m => m.rid = rid
      let rest := s.ring.members.filter fun m => m.rid ≠ rid
      if beAt d 8 1 = 1 then (if old.isSome then s.membersChanged rest else s)
      else
        let m : Member := ⟨rid, serial, beAt d 8 1, beAt d 9 1, beAt d 10 1, beAt d 11 1, x.rxNow⟩
        (if old.isSome then (s.setRing fun r => { r with members := rest ++ [m] }).elect else s.membersChanged (rest ++ [m])).noteOrder)

/-- Whether a BEACON of a ring ID stands in a receive queue that arrived within the loss time. -/
def State.beaconWaits (s : State) (m : Member) : Bool :=
  [0, 1].any fun p => (s.rport p).rx.any fun x =>
    decide (x.frame.cls = 5 ∧ x.frame.stream = 0 ∧ x.frame.src = m.rid ∧ x.rxNow ≤ m.at_ + s.lossNs)

/-- BEACON_LOSS (R395): no BEACON of a member has arrived within the loss time. -/
def execBeaconLoss (rid : BitVec 16) (s : State) : Host.Outcome State Fault Refusal :=
  .next (match s.ring.members.find? fun m => m.rid = rid.toNat with
  | some m =>
    if s.mainUp && decide (s.lossNs ≠ 0 ∧ m.at_ + s.lossNs < s.now) && !s.beaconWaits m then s.membersChanged (s.ring.members.filter fun m => m.rid ≠ rid.toNat) else s
  | none => s)

/-! ### Peer delay (R397 to R399) -/

/-- PDELAY_SEND (R397). -/
def execPdelaySend (p : Fin 2) (s : State) : Host.Outcome State Fault Refusal :=
  let x := s.rport p
  .next (if s.mainUp && s.joined && s.flag (linkFld p) && decide (x.pdLast + 1000000 ≤ s.now) then
    let s := s.setRport p fun y => { y with pdId := (y.pdId + 1) % 2 ^ 32, pdLast := s.now }
    s.ringInsert p 7 7 0 1 (beBytes 4 (s.rport p).pdId ++ List.replicate 28 0) false
  else s)

/-- PDELAY_REQ (R397): answer with t2 and, as it leaves, t3. -/
def execPdelayReq (p : Fin 2) (s : State) : Host.Outcome State Fault Refusal :=
  let r := s.takeRx p 7 1
  .next (match r.1 with
  | none => s
  | some x =>
    r.2.ringInsert p 7 7 0 2 (slice x.frame.payload 0 4 ++ timeBytes x.at_ ++ List.replicate 18 0) false)

/-- Absolute difference. -/
def absDiff (a b : Nat) : Nat := if a ≤ b then b - a else a - b

/-- PDELAY_RESP (R397, R398, R407). -/
def execPdelayResp (p : Fin 2) (s : State) : Host.Outcome State Fault Refusal :=
  let r := s.takeRx p 7 2
  .next (match r.1 with
  | none => s
  | some x =>
    let d := x.frame.payload
    let s := r.2
    match (s.rport p).pdOpen with
    | none => s
    | some (id, t1) =>
      if beAt d 0 4 ≠ id then s
      else
        let half : Int := ((x.at_ : Int) - t1) - ((timeAt d 14 : Int) - timeAt d 4)
        let s := s.setRport p fun y =>
          { y with pdOpen := none, pdHist := (y.pdHist ++ [half]).drop (y.pdHist.length + 1 - 8) }
        let n := s.linkNs p
        let s := s.wr (delayFld p) (min n 0xFFFE)
        if 10 < absDiff n s.ring.hzDelays[p] then s.recomputeHorizon else s)

/-! ### SYNC (R401 to R403) -/

/-- SYNC_SEND (R401, R405): the master sends a SYNC on both rings. -/
def execSyncSend (s : State) : Host.Outcome State Fault Refusal :=
  let per := s.rd HLY_TIME_CFG_SYNC_PERIOD
  .next (if s.mainUp && s.joined && decide (s.rd HLY_TIME_MASTER_ID = s.ringId ∧ s.ringId ≠ 0 ∧ per ≠ 0 ∧ s.ring.lastSync + per * 1000 ≤ s.now) then
    let n := s.syncSeq
    let f : HFrame := ⟨7, s.ringId, 0xFFFF, 0, n.1, List.replicate 19 0 ++ beBytes 1 s.ownRank ++ List.replicate 12 0⟩
    let s := n.2.setRing fun r => { r with lastSync := s.now }
    let put := fun (s : State) (p : Nat) => if s.wrapped p then s else s.offerQ p 7 ⟨f, false, none, none⟩
    put (put s 0) 1
  else s)

/-- Whether 4 SYNC periods without a used SYNC had passed at a moment (R628). -/
def State.timeLate (s : State) (at_ : Nat) : Bool :=
  s.flag HLY_STATUS_TIME_VALID && decide (s.rd HLY_TIME_CFG_SYNC_PERIOD ≠ 0 ∧ s.ring.syncUsedAt + 4 * (s.rd HLY_TIME_CFG_SYNC_PERIOD * 1000) < at_)

/-- TIME_VALID is cleared. -/
def State.timeLost (s : State) : State := ((s.wr HLY_STATUS_TIME_VALID 0).setRing fun r => { r with syncUsed := none }).retime

/-- Whether a SYNC of the time master that came in time waits to be taken (R39). -/
def State.syncWaits (s : State) : Bool :=
  (List.range 2).any fun p => (s.rport p).rx.any fun x =>
    decide (x.frame.cls = 7 ∧ x.frame.stream = 0 ∧ x.frame.src = s.rd HLY_TIME_MASTER_ID) && !s.timeLate x.rxNow

/-- SYNC (R403): a delivered copy of a SYNC of the master; the copies of one SYNC bear one SEQ. -/
def execSync (p : Fin 2) (s : State) : Host.Outcome State Fault Refusal :=
  let r := s.takeRx p 7 0
  .next (match r.1 with
  | none => s
  | some x =>
    let d := x.frame.payload
    let s := if r.2.timeLate x.rxNow then r.2.timeLost else r.2
    let hops := beAt d 18 1
    let origin := timeAt d 0
    match (s.rport p).delay16 with
    | none => s
    | some dl =>
      let better := match s.ring.syncUsed with
        | none => true
        | some (q, h) =>
          let ahead := (x.frame.seq + 64 - q) % 64
          decide ((0 < ahead ∧ ahead < 32) ∨ (ahead = 0 ∧ (hops < h ∨ (hops = h ∧ p.val = 0))))
      if hops = 255 || decide (x.frame.src ≠ s.rd HLY_TIME_MASTER_ID) || decide (s.rd HLY_TIME_MASTER_ID = s.ringId) || !better then s
      else
        let m : Int := (origin : Int) * 65536 + sext 64 (beAt d 10 8) + dl
        let off := ((x.at_ : Int) * 65536 - m) / 65536
        let s := s.setRing fun r => { r with syncUsed := some (x.frame.seq, hops), syncUsedAt := s.now }
        (((s.wr HLY_TIME_OFFSET_NS (wrap 32 off)).wr HLY_TIME_MASTER_HOPS hops).wr HLY_TIME_MASTER_PATH p.val).wr
          HLY_STATUS_TIME_VALID 1 |>.offerOffset 1 off).retime

/-! ### Bulk transfers (R387, R427 to R429, R433) -/

/-- Base and size of the window, when it is open and lies inside installed DDR5 or one Densum region that HLY may write. -/
def State.bulkWindow (s : State) : Option (Nat × Nat) :=
  let base := s.rd HLY_WIN_LO_ADDR * 2 ^ 16 + s.rd HLY_WIN_HI_ADDR * 2 ^ 32
  let size := s.rd HLY_WIN_SIZE_SIZE * 65536
  if size = 0 then none
  else if s.inDdrDsm base && s.spanOk base size && (!inDsm base || s.dsmAllowed reqHly (base - dsmBase) true) then some (base, size)
  else none

/-- BULK (R387, R429): a delivered BULK frame is written into the window, or discarded. -/
def execBulk (p : Fin 2) (s : State) : Host.Outcome State Fault Refusal :=
  match (s.rport p).rx.find? fun x => x.frame.cls < 5 with
  | none => .next s
  | some x =>
    let s := s.setRport p fun y => { y with rx := y.rx.eraseP fun z => decide (z.frame.cls < 5) }
    let off := beAt x.frame.payload 0 8
    let data := x.frame.payload.drop 8
    .next (match (match s.bulkWindow with
      | some (b, n) => if off + data.length ≤ n then some (b + off) else none
      | none => none) with
    | none =>
      (((s.count (HLYP_WIN_BOUND_COUNT p.val) 1).rxDrop p.val x.frame).setCause (causeHly 10)).report EV_PROT_BOUND (src 8 0)
        (detailAddr (s.rd HLY_WIN_LO_ADDR * 2 ^ 16 + s.rd HLY_WIN_HI_ADDR * 2 ^ 32 + off) reqHly 0)
    | some a =>
      let s := (s.memWrite reqHly a data false).2
      let key := (x.frame.src, x.frame.stream)
      let n := (s.ring.bulkRx.lookup key).getD 0
      s.setRing fun r => { r with bulkRx := (key, n + 1) :: r.bulkRx.filter fun e => e.1 ≠ key })

/-- BULK_DONE (R428): answer with the frames received, once every frame of the transfer that came before has been written. -/
def execBulkDone (p : Fin 2) (s : State) : Host.Outcome State Fault Refusal :=
  match (s.rport p).rx.find? fun x => decide (x.frame.cls = 5 ∧ x.frame.stream = 4) with
  | none => .next s
  | some x =>
    let xf := beAt x.frame.payload 0 2
    let mine := fun (y : RxItem) => decide (y.frame.cls < 5 ∧ y.frame.src = x.frame.src ∧ y.frame.stream = xf)
    if (s.rport 0).rx.any mine || (s.rport 1).rx.any mine then .next s
    else
      let s := (s.takeRx p 5 4).2
      let n := (s.ring.bulkRx.lookup (x.frame.src, xf)).getD 0
      let s := s.setRing fun r => { r with bulkRx := r.bulkRx.filter fun e => e.1 ≠ (x.frame.src, xf) }
      .next (s.ringControl x.frame.src 5 (beBytes 2 xf ++ [0, 0] ++ beBytes 4 n))

/-- Frames of a transfer of so many bytes. -/
def bulkFrames (bytes : Nat) : Nat := ceilDiv bytes 1984

/-- Queue the BULK_DONE of every transfer whose BULK frames have all left (R428). -/
def State.bulkDones (s : State) : State :=
  s.ring.bulkTx.foldl (fun t b =>
    let left := fun p => (t.rqueue p b.queue).any fun x => decide (x.frame.stream = b.xfer)
    if b.doneSent || left 0 || left 1 then t
    else
      let mark := fun (y : BulkTx) => if y.xfer = b.xfer then { y with doneSent := true } else y
      (t.setRing fun r => { r with bulkTx := r.bulkTx.map mark }).ringControl b.dest 4
        (beBytes 2 b.xfer ++ [0, 0] ++ beBytes 4 (bulkFrames b.bytes) ++ beBytes 4 b.bytes)) s

/-- Insert bytes of this device as BULK frames of 1,984 B of data each (R428, R430, R385). -/
def State.bulkInsert (s : State) (queue dest xfer srcAddr dstOff bytes : Nat) : State :=
  (List.range (bulkFrames bytes)).foldl (fun t i =>
    let r := t.memRead reqCtl (srcAddr + i * 1984) (min 1984 (bytes - i * 1984))
    r.2.ringInsert r.2.ringAOut queue queue dest xfer (beBytes 8 (dstOff + i * 1984) ++ r.1.data) r.1.poison) s

/-- Send a transfer, or send it again. -/
def State.bulkSend (s : State) (b : BulkTx) : State :=
  let dl := if s.joined then none else some (s.now + b.timeout * 1000000)
  let b' := { b with attempts := b.attempts + 1, deadline := dl, doneSent := false }
  let s := s.setRing fun r => { r with bulkTx := b' :: r.bulkTx.filter fun y => y.xfer ≠ b.xfer }
  (s.bulkInsert b.queue b.dest b.xfer b.srcAddr b.dstOff b.bytes).bulkDones

/-- End a transfer with a status. -/
def State.bulkEnd (s : State) (xfer status : Nat) : State :=
  (s.setRing fun r => { r with bulkTx := r.bulkTx.filter fun y => y.xfer ≠ xfer }).wake fun w =>
    if w.kind = .ringCopy xfer then some (status, []) else none

/-- An attempt of a transfer has failed: two more attempts at most (R428). -/
def State.bulkRetry (s : State) (b : BulkTx) : State := if b.attempts < 3 then s.bulkSend b else s.bulkEnd b.xfer stREMOTE_TIMEOUT

/-- BULK_ACK (R428); one that comes after its timeout is discarded (R40). -/
def execBulkAck (p : Fin 2) (s : State) : Host.Outcome State Fault Refusal :=
  let r := s.takeRx p 5 5
  .next (match r.1 with
  | none => s
  | some x =>
    let s := r.2
    match s.ring.bulkTx.find? fun b => decide (b.xfer = beAt x.frame.payload 0 2 ∧ b.dest = x.frame.src ∧ b.doneSent) && b.deadline.all (fun t => decide (x.rxNow ≤ t)) with
    | none => s
    | some b => if beAt x.frame.payload 4 4 = bulkFrames b.bytes then s.bulkEnd b.xfer stOK else s.bulkRetry b)

/-- An answer to a transfer arrived within its time and waits to be taken (R40, R428). -/
def State.bulkAckWaits (s : State) (b : BulkTx) (t : Nat) : Bool :=
  [0, 1].any fun p => (s.rport p).rx.any fun x =>
    decide (x.frame.cls = 5 ∧ x.frame.stream = 5 ∧ b.xfer = beAt x.frame.payload 0 2 ∧ b.dest = x.frame.src ∧ x.rxNow ≤ t)

/-- BULK_ACK_TIMEOUT (R428). -/
def execBulkAckTimeout (s : State) : Host.Outcome State Fault Refusal :=
  .next (match s.ring.bulkTx.find? fun b => match b.deadline with | some t => decide (t < s.now) && !s.bulkAckWaits b t | none => false with
  | none => s
  | some b => if s.serving then s.bulkRetry b else s)

/-- Relay a completed write-back frame (R430, R431). -/
def State.relayFrame (s : State) (h frame srcAddr bytes : Nat) : State :=
  match s.ring.relays[Fin.ofNat 4 h] with
  | none => s
  | some r =>
    let busy := fun p => (List.range 5).any fun q => (s.rqueue p q).any fun x => decide (some x.frame.stream = r.xfer)
    if !r.on then s
    else if busy 0 || busy 1 then s.count HLY_WB_RELAY_SKIP_COUNT 1
    else
      let x := s.ring.nextXfer
      let s := s.setRing fun y => { y with
        nextXfer := x % 4095 + 1
        relays := y.relays.set (Fin.ofNat 4 h) (some { r with xfer := some x }) }
      s.bulkInsert r.queue r.dest x srcAddr (r.dstOff + frame % max 1 r.buffers * r.stride) bytes

/-! ### Wrap and unwrap (R409 to R412) -/

/-- The local and transit frames of a wrapped port go out of the other port; TIME frames in transit are discarded (R405, R411). -/
def State.turnQueues (s : State) (p : Nat) : State :=
  let o := otherPort p
  let x := s.rport p
  let turned := x.transit.filter fun i => decide (i.frame.cls ≠ 7)
  let s := (s.setRport p fun y => { y with transit := [] }).setRport o fun y => { y with transit := y.transit ++ turned }
  (List.range 7).foldl (fun t q => (t.setRqueue o q (t.rqueue o q ++ x.queues[Fin.ofNat 8 q])).setRqueue p q []) s

/-- RING_LOCK_LOSS (R398, R409). -/
def execRingLockLoss (p : Fin 2) (s : State) : Host.Outcome State Fault Refusal :=
  .next (if s.mainUp && s.flag (linkFld p) then
    let s := ((s.wr (linkFld p) 0).count (HLYP_LOCK_LOSS_COUNT p.val) 1).setCause (causeHly 0)
    s.setRport p fun x => { x with lostAt := some s.now, cleanSince := none, unwrapAt := if x.fault then none else x.unwrapAt }
  else s)

/-- A port starts or stops sending Remote Fault (R410). -/
def State.sendRf (s : State) (p : Nat) (on : Bool) : State :=
  if (s.rport p).sendsRf = on then s else (s.emit (.remoteFault p on)).setRport p fun y => { y with sendsRf := on }

/-- An uncorrectable codeword is counted, and the time of being clean starts anew (R409, R412). -/
def State.codeword (s : State) (p : Nat) : State :=
  (s.count (HLYP_FEC_UNCORR_COUNT p) 1).setRport p fun y => { y with
    uncorr := s.now :: y.uncorr.filter fun t => decide (s.now ≤ t + 1000000)
    cleanSince := y.cleanSince.map fun _ => s.now
    badAt := some s.now }

/-- Whether what a port has met is a fault (R409). -/
def State.faultHits (s : State) (p : Nat) (why : RingFault) : Bool :=
  match why with
  | .lock => match (s.rport p).lostAt with
    | some t => decide (t + max 6 (s.rd HLY_WRAP_CFG_HOLDOFF) * 1000 < s.now)
    | none => false
  | .codeword => decide (8 ≤ (s.rport p).uncorr.length)
  | .remote => true

/-- A port faults: it is wrapped, and sends Remote Fault where the fault is its own (R410, R411). -/
def State.portFaults (s : State) (p : Nat) (own : Bool) : State :=
  let s := s.setRport p fun y => { y with
    fault := true, unwrapAt := none, cleanSince := if s.flag (linkFld p) then some s.now else none }
  let s := if own then s.sendRf p true else s
  if s.wrapped p then s
  else
    let s := ((s.wr (wrapFld p) 1).turnQueues p).setCause (causeHly 2)
    let s := (s.report EV_RING_WRAP (src 8 p) 0).addEnd s.ringId p
    s.ringInsert (otherPort p) 5 5 0xFFFF 3 (noticeBytes s.ringId p 0 0) false

/-- RING_LOCK_REGAIN (R398): the port discards its history of peer delays. -/
def execRingLockRegain (p : Fin 2) (s : State) : Host.Outcome State Fault Refusal :=
  .next (if s.mainUp && s.portEn p.val && !s.flag (linkFld p) then
    -- a fault whose HOLDOFF has passed comes before the regain (R40)
    let s := if s.joined && !(s.rport p).fault && s.faultHits p .lock then s.portFaults p true else s
    let s := ((s.wr (linkFld p) 1).wr (delayFld p) 0xFFFF).setCause (causeHly 1)
    s.setRport p fun x => { x with lostAt := none, cleanSince := some s.now, pdHist := [], pdOpen := none }
  else s)

/-- RING_FAULT (R409 to R411): a cause of R409 meets a port, which faults on it once it is a fault and the device is joined. -/
def execRingFault (f : PortFault) (s : State) : Host.Outcome State Fault Refusal :=
  .next (if !s.mainUp then s
  else
    let s := match f.why with
      | .lock => s
      | .codeword => s.codeword f.port
      | .remote => s.setRport f.port fun y => { y with hearsRf := true }
    if s.joined && s.faultHits f.port f.why then s.portFaults f.port (decide (f.why ≠ .remote)) else s)

/-- Announce T_u for this device's own wrapped port from the other port (R412). -/
def State.announceUnwrap (s : State) (p t : Nat) : State :=
  (s.setRport p fun y => { y with unwrapAt := some t }).ringInsert (otherPort p) 5 5 0xFFFF 3 (noticeBytes s.ringId p 1 t) false

/-- PORT_CLEAN (R412): the wrapped port, and by the end of Remote Fault the facing one, have been clean for RESTORE ms; the device
at the HE side chooses T_u. -/
def execPortClean (p : Fin 2) (s : State) : Host.Outcome State Fault Refusal :=
  let x := s.rport p
  let long := match x.cleanSince with
    | some t => decide (s.rd HLY_WRAP_CFG_RESTORE ≠ 0 ∧ t + s.rd HLY_WRAP_CFG_RESTORE * 1000000 ≤ s.now)
    | none => false
  .next (if s.mainUp && s.joined && x.fault && long then
    -- its own fault is over: the port ends its Remote Fault, whatever it hears (R410)
    let s := s.sendRf p false
    if x.unwrapAt.isSome || x.hearsRf then s
    else
      let s := s.setRport p fun y => { y with fault := false }
      if p.val = 1 then
        let t := s.time.ns + 1000000
        -- to the neighbour by the restored link, whoever it is: link-local (R380)
        (s.ringInsert 1 5 5 0 3 (noticeBytes s.ringId 1 1 t) false).announceUnwrap 1 t
      else s
  else s)

/-- WRAP_NOTICE (R412, R413). -/
def execWrapNotice (p : Fin 2) (s : State) : Host.Outcome State Fault Refusal :=
  let r := s.takeRx p 5 3
  .next (match r.1 with
  | none => s
  | some x =>
    let d := x.frame.payload
    let s := r.2.purgeEnds
    let rid := beAt d 0 2
    let side := beAt d 2 1
    let t := timeAt d 4
    if beAt d 3 1 = 0 then
      (s.setRing fun r => { r with unwraps := r.unwraps.filter fun u => ¬ (u.1 = rid ∧ u.2.1 = side) }).addEnd rid side
    else
      let s := s.setRing fun r => { r with
        unwraps := (rid, side, t, s.now) :: r.unwraps.filter fun u => ¬ (u.1 = rid ∧ u.2.1 = side) }
      if (x.frame.dst = 0 ∨ x.frame.dst = s.ringId) ∧ s.wrapped p then ((s.setRport p fun y => { y with fault := false }).sendRf p false).announceUnwrap p t else s)

/-- The local frames that were queued on HW while HE was wrapped go back to ring A, but for the notices of the wrap (R380, R412). -/
def State.returnQueues (s : State) : State :=
  let notice := fun (x : TxItem) => decide (x.frame.cls = 5 ∧ x.frame.stream = 3)
  (List.range 7).foldl (fun t q =>
    let l := t.rqueue 0 q
    (t.setRqueue 1 q (t.rqueue 1 q ++ l.filter fun x => !notice x)).setRqueue 0 q (l.filter notice)) s

/-- UNWRAP (R412): T_u is reached. A fault that comes first, in that same moment too, keeps the port wrapped (table of R422). -/
def execUnwrap (p : Fin 2) (s : State) : Host.Outcome State Fault Refusal :=
  .next (match (s.rport p).unwrapAt with
  | some t =>
    if s.mainUp && s.wrapped p && decide (t ≤ s.time.ns) then
      let s := ((s.setRport p fun y => { y with unwrapAt := none, fault := false }).sendRf p false).wr (wrapFld p) 0
      let s := if p.val = 1 then s.returnQueues else s
      ((s.dropEnd s.ringId p.val).setCause (causeHly 3)).report EV_RING_UNWRAP (src 8 p.val) 0
    else s
  | none => s)

end Sys2Proof.Machine
end

