-- ==== Sys2Proof/Machine/Shroud.lean ====
section
/-! DEFINITION. The Shroud and the return to service (chapter "The Halyard ring and the Shroud bypass", R415 to R422). -/

namespace Sys2Proof.Machine

/-- Change the Shroud's state. -/
def State.setShroud (s : State) (f : Shroud → Shroud) : State := { s with shroud := f s.shroud }

/-- Put the Shroud into a state: SHD.STATE.STATE, level of SHROUD_OK, through-path (R419). -/
def State.shroudTo (s : State) (st : Nat) (ok : Bool) (path : Nat) : State :=
  ((s.wr SHD_STATE_STATE st).wr SHD_STATE_OK_PIN (b2n ok)).setShroud fun x => { x with path := path }

/-- Whether both auxiliary rails are good. -/
def State.auxGood (s : State) : Bool := s.shroud.vaux && s.shroud.vaux18

/-- A switch of the through-path: SHD.OUT_GAP takes the time it took, which the spec leaves open up to 5 µs (R417). -/
def State.switchGap (s : State) : State := let r := s.freeNat; r.2.wr SHD_OUT_GAP_NS (r.1 % 5001)

/-- The Shroud holds the through-path: a RING_LEAVE that waits for it completes (R425). -/
def State.leaveDone (s : State) : State := s.wake fun w => if w.kind = .leave then some (stOK, []) else none

/-- The notices of a wrap that wait to leave by ring B are gone with the wrap (R380). -/
def State.dropNotices (s : State) : State :=
  s.setRqueue 0 5 ((s.rqueue 0 5).filter fun x => !decide (x.frame.stream = 3))

/-- The main die no longer carries the ring. -/
def State.ringLost (s : State) : State :=
  -- frames in flight across the switch are lost (R417, R461)
  let s := ([0, 1].flatMap fun p => (s.rport p).transit).foldl (fun t x => match x.arrived with
    | some (p, _) => t.rxDrop p x.frame
    | none => t) s
  let drop := fun (x : RingPort) => { x with transit := [], unwrapAt := none, fault := false, hearsRf := false }
  -- its ports are wrapped no more: the Shroud, or the board, closes the ring around them
  let s := (((s.sendRf 0 false).sendRf 1 false).dropEnd s.ringId 0).dropEnd s.ringId 1
  -- what the wrap had turned goes back to its own port, and a transfer that waits to be sent begins to wait for its answer (R428)
  let s := if s.flag HLY_STATUS_HE_WRAP then s.returnQueues else s
  let s := s.dropNotices
  let late := fun (b : BulkTx) => { b with deadline := some (b.deadline.getD (s.now + b.timeout * 1000000)) }
  let s := s.setRing fun r => { r with bulkTx := r.bulkTx.map late }
  let s := (s.wr HLY_STATUS_HW_WRAP 0).wr HLY_STATUS_HE_WRAP 0
  let s := ((s.wr HLY_STATUS_JOINED 0).wr HLY_RING_ID_ID 0).setRing fun r => { r with leaving := false, ports := r.ports.map drop }
  let s := match s.ring.join with
    | some j => s.endJoin (if j.step = JoinStep.clash then stBAD_PARAM else stBUSY) (List.replicate 24 0)
    | none => s
  ((if s.shroud.path = 1 then s.leaveDone else s).elect).recomputeHorizon

/-- Report a takeover once the main die runs (R420). -/
def State.reportTakeover (s : State) : State :=
  if s.shroud.unreported ∧ s.mainUp then
    (((s.setShroud fun x => { x with unreported := false }).setCause (causeHly 8)).report EV_SHROUD_TAKEOVER (src 11 0)
      (s.rd SHD_CAUSE_CAUSE))
  else s

/-- The order in which takeover events of one cycle name SHD.CAUSE: power, thermal, reset, heartbeat, command (R711). -/
def causeRank (cause : Nat) : Nat := if cause = 2 then 0 else if cause = 4 then 1 else if cause = 1 then 2 else cause

/-- A takeover event: the Shroud takes the through-path from the main die, or calls off a handback (R416, R420). A second event of
the same cycle changes SHD.CAUSE where it comes first in the order of R711, and nothing else. -/
def State.shroudTakeover (s : State) (cause : Nat) : State :=
  let st := s.rd SHD_STATE_STATE
  if s.auxGood && decide (st = 2 ∨ st = 3) then
    let s := (((s.wr SHD_CAUSE_CAUSE cause).count SHD_TAKEOVERS_COUNT 1).shroudTo 1 true 1).switchGap
    ((s.setShroud fun x => { x with unreported := true, takenAt := some s.now }).ringLost).reportTakeover
  else if s.auxGood && decide (s.shroud.takenAt = some s.now ∧ causeRank cause < causeRank (s.rd SHD_CAUSE_CAUSE)) then
    s.wr SHD_CAUSE_CAUSE cause
  else s

/-- Whether the Shroud's heartbeat timeout has run out: a heartbeat that arrives later does not undo it (R40, R416). -/
def State.shroudHbOver (s : State) : Bool :=
  decide ((s.shroud.path = 2 ∨ s.shroud.takenAt = some s.now) ∧ s.shroud.lastHb + max 5 (s.rd SHD_HB_TIMEOUT) * 100 < s.now)

/-- SHROUD_HEARTBEAT (R416). -/
def execShroudHeartbeat (s : State) : Host.Outcome State Fault Refusal :=
  .next (if s.shroudHbOver then s.shroudTakeover 3
    else if s.mainUp ∧ s.shroud.path = 2 then s.setShroud fun x => { x with lastHb := s.now } else s)

/-- SHROUD_HB_TIMEOUT (R416). -/
def execShroudHbTimeout (s : State) : Host.Outcome State Fault Refusal :=
  .next (if s.shroudHbOver then s.shroudTakeover 3 else s)

/-- The state that the Shroud falls to when nothing holds it: THROUGH, its retimers locked on the lanes of the ring (R419; log 65). -/
def State.shroudThrough (s : State) : State := ((s.shroudTo 1 true 1).wr SHD_STATE_LANE_LOCK 0xFF).leaveDone

/-- Boundary scan or CTRL.BYPASS asks for the bypass, or no longer does (R419). -/
def State.bypassUpdate (s : State) : State :=
  let st := s.rd SHD_STATE_STATE
  if !s.auxGood || decide (st = 0) then s
  else if s.shroud.scan || s.flag SHD_CTRL_BYPASS then
    if st = 5 then s else (s.shroudTo 5 false 0).ringLost
  else if st = 5 then (if s.shroud.faulted then s.shroudTo 4 false 0 else s.shroudThrough)
  else s

/-- SHROUD_FAULT (R419): in THROUGH state, a lane with signal has had no retimer lock for 100 µs. The row does not name the lane:
LANE_LOCK takes a free value in which not every lane is locked (log 6). -/
def execShroudFault (s : State) : Host.Outcome State Fault Refusal :=
  .next (if s.auxGood && decide (s.rd SHD_STATE_STATE = 1) then
    let r := ((s.shroudTo 4 false 0).setShroud fun x => { x with faulted := true }).freeNat
    r.2.wr SHD_STATE_LANE_LOCK (r.1 % 255)
  else s)

/-- SHROUD_POR_END (R419): 1 ms after both auxiliary rails are good. -/
def execShroudPorEnd (s : State) : Host.Outcome State Fault Refusal :=
  .next (if s.auxGood && decide (s.rd SHD_STATE_STATE = 0 ∧ s.shroud.goodSince + 1000000 ≤ s.now) then
    s.shroudThrough.bypassUpdate
  else s)

/-- SHD registers return to their reset values. -/
def State.shdReset (s : State) : State :=
  { s with regs := s.regs.filter fun e => !decide (0x1A0000 ≤ e.1 ∧ e.1 < 0x1A1000) }

/-- AUX_RAIL_CHANGE (R418, R419, R638): the levels of VAUX and VAUX18 change. -/
def execAuxRailChange (vaux : Bool) (vaux18 : Bool) (s : State) : Host.Outcome State Fault Refusal :=
  let was := s.auxGood
  let s := s.setShroud fun x => { x with vaux := vaux, vaux18 := vaux18 }
  .next (if s.auxGood then
    if was then s
    else s.shdReset.setShroud fun x =>
      { x with goodSince := s.now, path := 0, faulted := false, lastHb := s.now, unreported := false, takenAt := none }
  else if was then
    let s := s.shroudTo (s.rd SHD_STATE_STATE) false 0
    if s.mainUp then s.ringLost else s
  else s)

/-- BOUNDARY_SCAN (R419). -/
def execBoundaryScan (on : Bool) (s : State) : Host.Outcome State Fault Refusal :=
  .next ((s.setShroud fun x => { x with scan := on }).bypassUpdate)

/-! ### Return to service (R421) -/

/-- Change the join in progress. -/
def State.setJoin (s : State) (f : Join → Join) : State := s.setRing fun r => { r with join := r.join.map f }

/-- RING_JOIN ends without the ring: the device stays in THROUGH. -/
def State.joinFails (s : State) (status : Nat) (clash : Nat) : State :=
  (s.shroudThrough).endJoin status (List.replicate 16 0 ++ leBytes 8 clash)

/-- An enabled port has lock: cause LINK_UP where it had none. -/
def State.linkRise (s : State) (p : Nat) : State :=
  if !s.portEn p || s.flag (linkFld p) then s else (s.wr (linkFld p) 1).setCause (causeHly 1)

/-- HANDBACK_LOCK (R421 step 1). -/
def execHandbackLock (s : State) : Host.Outcome State Fault Refusal :=
  .next (match s.ring.join with
  | some j =>
    if j.step = .lock then
      let s := (([0, 1].foldl State.linkRise s)).wr SHD_STATE_LANE_LOCK 0xFF
      let fresh := fun (x : RingPort) => { x with lostAt := none, cleanSince := some s.now, uncorr := [], badAt := none, pdHist := [], pdOpen := none, fault := false }
      let s := ((s.wr HLY_LINK_DELAY_HW 0xFFFF).wr HLY_LINK_DELAY_HE 0xFFFF).setRing fun r => { r with ports := r.ports.map fresh }
      s.setJoin fun j => { j with step := .listen s.now false false }
    else s
  | none => s)

/-- Both the listening and the check have ended well: the transmitters start (R421 step 4). -/
def State.joinMatch (s : State) : State :=
  s.setJoin fun j => match j.step with
    | .listen _ true true => { j with step := .matching false false }
    | _ => j

/-- HANDBACK_LISTEN_END (R421 step 2). -/
def execHandbackListenEnd (s : State) : Host.Outcome State Fault Refusal :=
  .next (match s.ring.join with
  | some j =>
    (match j.step with
    | .listen t false c =>
      if t + 2 * s.lossNs ≤ s.now then
        match s.ring.members.find? fun m => decide (m.rid = j.rid ∧ m.serial ≠ s.fuses.serial) with
        | some m => s.joinFails stBAD_PARAM m.serial
        | none => (s.setJoin fun j => { j with step := .listen t true c }).joinMatch
      else s
    | _ => s)
  | none => s)

/-- Neither port has received an uncorrectable codeword or a bad CRC since the lock of a join (R421 step 3). -/
def State.joinSound (s : State) (lock : Nat) : Bool := [0, 1].all fun p => (s.rport p).badAt.all fun t => decide (t < lock)

/-- HANDBACK_CHECK_END (R421 step 3): whether both ports have been clean for 1 ms; at most 3 new starts. -/
def execHandbackCheckEnd (clean : Bool) (s : State) : Host.Outcome State Fault Refusal :=
  .next (match s.ring.join with
  | some j =>
    (match j.step with
    | .listen t h false =>
      if t + 1000000 ≤ s.now then
        if clean && s.joinSound t then (s.setJoin fun j => { j with step := .listen t h true }).joinMatch
        else if j.tries < 3 then s.setJoin fun j => { j with step := .lock, tries := j.tries + 1 }
        else s.joinFails stBUSY 0
      else s
    | _ => s)
  | none => s)

/-- HANDBACK_MATCH_END (R421 step 4): the lanes of a port match for 1,000 blocks. -/
def execHandbackMatchEnd (p : Fin 2) (s : State) : Host.Outcome State Fault Refusal :=
  .next (s.setJoin fun j => match j.step with
    | .matching a b =>
      let a := a || decide (p.val = 0)
      let b := b || decide (p.val = 1)
      { j with step := if a && b then .switching false false else .matching a b }
    | _ => j)

/-- The device becomes a member (R421 step 6). -/
def State.becomeMember (s : State) (rid : Nat) : State :=
  let s := ((s.shroudTo 2 true 2).switchGap).setShroud fun x => { x with lastHb := s.now }
  let s := (s.wr HLY_RING_ID_ID rid).wr HLY_STATUS_JOINED 1
  ((s.sendBeacon 0).setRing fun r => { r with lastBeacon := s.now }).elect.recomputeHorizon

/-- HANDBACK_SWITCH (R421 step 5): the Shroud switches a port's outputs to the main die. -/
def execHandbackSwitch (p : Fin 2) (s : State) : Host.Outcome State Fault Refusal :=
  .next (match s.ring.join with
  | some j =>
    (match j.step with
    | .switching a b =>
      let a := a || decide (p.val = 0)
      let b := b || decide (p.val = 1)
      if a && b then (s.setJoin fun j => { j with step := .member }).becomeMember j.rid
      else s.setJoin fun j => { j with step := .switching a b }
    | _ => s)
  | none => s)

/-- The RING_JOIN response (R424). -/
def State.joinResp (s : State) : List Byte :=
  leBytes 2 (s.rd HLY_MEMBERS_COUNT) ++ leBytes 2 (s.rd HLY_TIME_MASTER_ID) ++ leBytes 4 (s.rd HLY_L_RING_NS)
    ++ leBytes 4 (s.rd HLY_L_WRAP_NS) ++ leBytes 4 0 ++ leBytes 8 0

/-- JOIN_COMPLETE (R421 step 7): both link delays are valid. -/
def execJoinComplete (s : State) : Host.Outcome State Fault Refusal :=
  .next (match s.ring.join with
  | some j =>
    if s.serving && decide (j.step = .member) && (s.rport 0).delay16.isSome && (s.rport 1).delay16.isSome then
      let s := s.recomputeHorizon
      s.endJoin stOK s.joinResp
    else s
  | none => s)

/-- LEAVE_SWITCH (R422): once the LEAVING BEACON has gone, the Shroud takes the outputs back. -/
def execLeaveSwitch (s : State) : Host.Outcome State Fault Refusal :=
  let waits := fun p => (s.rqueue p 5).any fun x => decide (x.frame.stream = 0)
  .next (if s.ring.leaving && !waits 0 && !waits 1 && decide (s.shroud.path = 2) then (s.shroudThrough.switchGap).ringLost else s)

end Sys2Proof.Machine
end

