-- ==== Sys2Proof/Machine/RingCmd.lean ====
section
/-! DEFINITION. The ring's mailbox commands (chapters "The Halyard ring and the Shroud bypass" and "Traffic scheduling, gating and
policing"), and the egress with what waits for it. -/

namespace Sys2Proof.Machine

/-! ### Membership commands -/

/-- The registers that RING_JOIN writes. -/
def joinRegs : List Nat :=
  [HLY_TIME_CFG_PRIORITY.off, HLY_WRAP_CFG_HOLDOFF.off, HLY_BEACON_PERIOD.off, HLY_HORIZON_NS.off, HLY_CTRL_HW_EN.off]

/-- Write the parameters of RING_JOIN, which covers their registers from then on (R33). -/
def State.joinParams (s : State) (d : List Byte) : State :=
  let s := s.commandCovers joinRegs
  let s := ((s.wr HLY_TIME_CFG_PRIORITY (leAt d 2 1)).wr HLY_WRAP_CFG_HOLDOFF (leAt d 3 1)).wr HLY_BEACON_PERIOD (leAt d 4 2)
  let s := ((s.wr HLY_BEACON_LOSS (leAt d 6 2)).wr HLY_HORIZON_NS (leAt d 8 4)).wr HLY_TIME_CFG_SYNC_PERIOD (leAt d 12 2)
  (s.wr HLY_WRAP_CFG_RESTORE (leAt d 14 2)).horizonFlags.elect

/-- Whether the fields of a RING_JOIN lie in their ranges (R423 table). -/
def joinRange (d : List Byte) : Bool :=
  decide (leAt d 0 2 ≠ 0 ∧ leAt d 0 2 ≠ 0xFFFF ∧ 6 ≤ leAt d 3 1 ∧ leAt d 4 2 ≠ 0 ∧ leAt d 12 2 ≠ 0 ∧ leAt d 14 2 ≠ 0 ∧ 3 * leAt d 4 2 ≤ leAt d 6 2 ∧ 1 ≤ leAt d 8 4
    ∧ leAt d 8 4 ≤ 4000000)

/-- The registers that RING_JOIN writes, as they stand. -/
def State.joinSaves (s : State) : List (Nat × Word) :=
  joinRegs.map fun o => (o, s.reg o)

/-- RING_JOIN (R421, R423). One that is executed again while the join that it began goes on takes no second one (R80). -/
def execRingJoin (s : State) : Host.Outcome State Fault Refusal :=
  .next (s.serve 0x0601 fun c s =>
    let d := c.payload
    if !joinRange d then s.fail c stBAD_PARAM
    else if s.joined then
      if leAt d 0 2 = s.ringId then let s := s.joinParams d; s.finish c stOK s.joinResp else s.fail c stBAD_PARAM
    else if s.ring.join.isSome ∧ s.took c ≠ [] then s.waitFor c .join
    else if s.rd SHD_STATE_STATE ≠ 1 ∨ s.shroud.path ≠ 1 ∨ s.ring.join.isSome then s.fail c stBUSY
    else
      let saved := s.joinSaves
      let s := s.take c [leAt d 0 2]
      let s := ((s.joinParams d).wr HLY_CTRL_HW_EN 1).wr HLY_CTRL_HE_EN 1
      let s := (s.wr SHD_STATE_STATE 3).setRing fun r => { r with join := some ⟨.lock, 0, leAt d 0 2, saved⟩ }
      s.waitFor c .join)

/-- RING_LEAVE (R422, R425). -/
def execRingLeave (s : State) : Host.Outcome State Fault Refusal :=
  .next (s.serve 0x0602 fun c s =>
    if s.joined then (if s.ring.leaving then s else s.startLeave).waitFor c .leave
    else if s.ring.join.isSome then s.fail c stBUSY
    else if s.shroud.path = 1 then s.ok c
    else s.waitFor c .leave)

/-- An entry of RING_MEMBERS (R426). -/
def Member.entry (m : Member) : List Byte :=
  leBytes 2 m.rid ++ leBytes 1 m.hops ++ leBytes 1 m.rank ++ leBytes 1 m.prio ++ leBytes 1 m.state ++ [0, 0] ++ leBytes 8 m.serial

/-- RING_MEMBERS (R426). -/
def execRingMembers (s : State) : Host.Outcome State Fault Refusal :=
  .next (s.serve 0x0603 fun c s =>
    let buf := leAt c.payload 0 8
    let len := leAt c.payload 8 4
    if len ≠ 0 ∧ ¬ s.bufOk buf len then s.fail c stPROT_BOUND
    else
      let es := s.byHops.take (len / 16)
      (s.fwWrite buf (es.map Member.entry).flatten).finish c stOK (leBytes 4 s.ring.members.length ++ leBytes 4 es.length))

/-! ### Bulk copies and relays -/

/-- RING_COPY (R425, R427, R428). One that is run again goes on with the transfer ID that its record holds (R80, R85). -/
def execRingCopy (s : State) : Host.Outcome State Fault Refusal :=
  .next (s.serve 0x0620 fun c s =>
    let d := c.payload
    let dest := leAt d 0 2
    let src := leAt d 8 8
    let off := leAt d 16 8
    let n := leAt d 24 4
    let go := fun (s : State) (x : Nat) =>
      ((s.take c [x]).bulkSend ⟨x, dest, leAt d 2 1, src, off, n, leAt d 4 2, 0, none, false⟩).waitFor c (.ringCopy x)
    match s.took c with
    | x :: _ => go s x
    | [] =>
      if dest = 0 ∨ dest = 0xFFFF ∨ dest = s.ringId ∨ 4 < leAt d 2 1 ∨ src % 64 ≠ 0 ∨ off % 64 ≠ 0 ∨ n = 0 ∨ leAt d 4 2 = 0 then
        s.fail c stBAD_PARAM
      else if !s.bufOk src n then s.fail c stPROT_BOUND
      else if !s.joined then s.fail c stBUSY
      else go (s.setRing fun r => { r with nextXfer := r.nextXfer % 4095 + 1 }) s.ring.nextXfer)

/-- RING_WB_RELAY (R425, R430, R431). -/
def execRingWbRelay (s : State) : Host.Outcome State Fault Refusal :=
  .next (s.serve 0x0630 fun c s =>
    let d := c.payload
    let h := leAt d 0 1
    let bufs := leAt d 4 1
    if s.nHeads ≤ h ∨ 4 < leAt d 1 1 ∨ leAt d 2 2 = 0 ∨ bufs = 0 ∨ 4 < bufs ∨ leAt d 16 4 % 64 ≠ 0 ∨ s.rd (HEAD_WB_CTRL_FORMAT h) ∉ [1, 3, 5]
    then s.fail c stBAD_PARAM
    else if !s.joined then s.fail c stBUSY
    else
      let last := s.ring.relays[Fin.ofNat 4 h].bind Relay.xfer
      let r : Relay := ⟨leAt d 1 1, leAt d 2 2, bufs, leAt d 8 8, leAt d 16 4, last, (leAt d 5 1).testBit 0⟩
      (s.setRing fun x => { x with relays := x.relays.set (Fin.ofNat 4 h) (some r) }).ok c)

/-! ### Scheduling (R462, R463) -/

/-- The ports that a PORT field names. -/
def portList (p : Nat) : List Nat := if p = 0 then [0] else if p = 1 then [1] else [0, 1]

/-- Whether the fields of a RING_SCHED_SET lie in their ranges (R444, R462). -/
def schedRange (d : List Byte) : Bool :=
  decide (leAt d 0 1 ≤ 2) && (List.range 5).all (fun q => decide (1 ≤ leAt d (4 + q) 1)) &&
  (List.range 7).all fun q =>
    decide (leAt d (32 + 8 * q) 2 ≠ 0 ∧ 64 ≤ leAt d (12 + 2 * q) 2 ∧ leAt d (12 + 2 * q) 2 ≤ 4096 ∧ leAt d (28 + 8 * q) 4 ≤ 1048575) &&
      (decide (leAt d (28 + 8 * q) 4 = 0) || decide (33 ≤ leAt d (32 + 8 * q) 2))

/-- Frames that still wait in a region given up are sent as they were written. -/
def State.liftQueues (s : State) (k : Nat) : State :=
  let r := s.regionSpan k
  let lift := fun (x : TxItem) => { x with at_ := x.at_.filter fun a => !decide (dsmBase + r.1 ≤ a ∧ a < dsmBase + r.2) }
  s.setRing fun x => { x with ports := x.ports.map fun y => { y with queues := y.queues.map fun l => l.map lift } }

/-- Place one transmit queue of a port in Densum, in a region of the size that it takes on; a queue that keeps its size keeps its region
(R435, R463). -/
def State.placeRingQueue (s : State) (p : Nat) (d : List Byte) (q : Fin 7) : Option State :=
  let kib := leAt d (12 + 2 * q.val) 2
  let old := (s.rport p).qRegions.lookup q.val
  if old.isSome ∧ (s.rport p).qKib[q] = kib then some s
  else
    let s := match old with | some k => (s.liftQueues k).dsmFreeRegion k | none => s
    (s.dsmNewRegion (ceilDiv kib 64) 0x86 0xC2 false false).map fun r => r.2.setRport p fun x =>
      { x with qRegions := (q.val, r.1) :: x.qRegions.filter fun e => e.1 ≠ q.val }

/-- Place the transmit queues of a port in Densum (R435, R463). -/
def State.placeQueues (s : State) (p : Nat) (d : List Byte) : Option State :=
  (List.finRange 7).foldl (fun (x : Option State) q => x.bind fun t => t.placeRingQueue p d q) (some s)

/-- Write weights, sizes and shapers of a port; each bucket is full (R443, R462). -/
def State.writeSched (s : State) (p : Nat) (d : List Byte) : State :=
  let s := (s.setReg (HLYQ_WEIGHT_Q0 p).off (BitVec.ofNat 32 (leAt d 4 4))).wr (HLYQ_WEIGHT4_Q4 p) (leAt d 8 1)
  (List.finRange 7).foldl (fun t (q : Fin 7) =>
    let burst := leAt d (32 + 8 * q.val) 2
    let t := (t.wr (HLYQ_SHAPE_RATE_RATE p q.val) (leAt d (28 + 8 * q.val) 4)).wr (HLYQ_SHAPE_BURST_BURST p q.val) burst
    t.setRport p fun x => { x with
      qKib := x.qKib.set q (leAt d (12 + 2 * q.val) 2)
      shapers := x.shapers.set q ⟨bucketSize burst, t.now⟩ }) s

/-- Whether every queue that a RING_SCHED_SET resizes is empty. -/
def State.resizedEmpty (s : State) (d : List Byte) : Bool :=
  (portList (leAt d 0 1)).all fun p => (List.finRange 7).all fun (q : Fin 7) =>
    decide ((s.rport p).qKib[q] = leAt d (12 + 2 * q.val) 2) || (s.rqueue p q.val).isEmpty

/-- The regions and registers of every port that a RING_SCHED_SET names; none when a region finds no place. -/
def State.schedApply (s : State) (d : List Byte) : Option State :=
  (portList (leAt d 0 1)).foldl (fun (x : Option State) p => x.bind fun t => (t.placeQueues p d).map fun u => u.writeSched p d) (some s)

/-- Finish a RING_SCHED_SET whose resized queues are empty. -/
def State.schedFinish (s : State) (c : FwCmd) : State :=
  match s.schedApply c.payload with
  | some s => s.ok c
  | none => s.fail c stREJECTED_DENSUM

/-- RING_SCHED_SET (R462, R463). -/
def execRingSchedSet (s : State) : Host.Outcome State Fault Refusal :=
  .next (s.serve 0x0640 fun c s =>
    if !schedRange c.payload then s.fail c stBAD_PARAM
    else if (s.schedApply c.payload).isNone then s.fail c stREJECTED_DENSUM
    else if s.resizedEmpty c.payload then s.schedFinish c
    else s.waitFor c (.sched (s.now + 1000000)))

/-- A RING_SCHED_SET that waits for its queues: it is carried out once they are empty, or ends with BUSY after 1 ms. -/
def State.schedWaits (s : State) : State :=
  s.fw.waiting.foldl (fun t w => match w.kind with
    | .sched dl =>
      let drop := fun (t : State) => { t with fw := { t.fw with waiting := t.fw.waiting.filter fun v => v ≠ w } }
      if dl < t.now then (drop t).fail w.cmd stBUSY
      else if t.resizedEmpty w.cmd.payload then (drop t).schedFinish w.cmd
      else t
    | _ => t) s

/-- RING_EGRESS (R391, R428, R439 to R441, R462): nothing leaves a port while the main die does not carry the ring. A transfer whose
last BULK frame has left sends its BULK_DONE. -/
def execRingEgress (p : Fin 2) (s : State) : Host.Outcome State Fault Refusal :=
  .next (s.when s.mainUp fun s =>
    let s := if s.shroud.path = 2 then (s.egress p.val).bulkDones else s
    if s.serving then s.schedWaits else s)

/-! ### Gate lists (R464, R465) -/

/-- Whether the fields of a RING_GATE_SET lie in their ranges. -/
def gateRange (d : List Byte) : Bool :=
  decide (leAt d 0 1 ≤ 2 ∧ 1 ≤ leAt d 2 2 ∧ leAt d 2 2 ≤ 128 ∧ 1 ≤ leAt d 4 4 ∧ leAt d 4 4 ≤ 16700000 ∧ leAt d 16 4 ≤ 999999999
    ∧ 1000 ≤ leAt d 20 4 ∧ leAt d 20 4 ≤ 1000000)

/-- The list that a RING_GATE_SET describes, installed now, and whether its BASE is late. -/
def State.gateOf (s : State) (d : List Byte) (buf : List Byte) : GateList × Bool :=
  let es := (List.range (leAt d 2 2)).map fun e => (leAt buf (4 * e) 1, leAt buf (4 * e + 1) 3)
  let base := leAt d 8 6 * 1000000000 + leAt d 16 4
  let r := gateS base (leAt d 4 4) (leAt d 20 4) s.time.ns
  (⟨es, leAt d 4 4, r.1⟩, r.2)

/-- A queue that the list opens at all has a longest open span shorter than 166 ns (R465). -/
def GateList.tooShort (g : GateList) : Bool :=
  (List.range 7).any fun q => match g.openSpan q with | some n => decide (0 < n ∧ n < 166) | none => false

/-- Write the admin list of a port and install it. -/
def State.gateWrite (s : State) (p : Nat) (d : List Byte) (g : GateList) : State :=
  let s := (List.range g.entries.length).foldl (fun t e =>
    let x := g.entries.getD e (0, 0)
    (t.wr (HLYQ_GATE_ADMIN_MASK p e) x.1).wr (HLYQ_GATE_ADMIN_DURATION p e) x.2) s
  let s := ((s.wr (HLYQ_GATE_ENTRIES_COUNT p) g.entries.length).wr (HLYQ_GATE_CYCLE_NS p) g.cycle).wr (HLYQ_GATE_BASE_SEC_LO_SEC p)
    (leAt d 8 4)
  let s := ((s.wr (HLYQ_GATE_BASE_SEC_HI_SEC p) (leAt d 12 2)).wr (HLYQ_GATE_BASE_NS_NS p) (leAt d 16 4)).wr (HLYQ_GATE_SETUP_NS p)
    (leAt d 20 4)
  let s := s.gateInstall p
  (s.wr (HLYQ_GATE_CTRL_EN p) 1).wr (HLYQ_GATE_STATUS_RUNNING p) (b2n (s.rport p).oper.isSome)

/-- GATE_CTRL.EN is cleared: every gate opens (R447, R464). -/
def State.gateOff (s : State) (p : Nat) : State := (s.wr (HLYQ_GATE_CTRL_EN p) 0).wr (HLYQ_GATE_STATUS_RUNNING p) 0

/-- RING_GATE_SET (R464, R465). -/
def execRingGateSet (s : State) : Host.Outcome State Fault Refusal :=
  .next (s.serve 0x0641 fun c s =>
    let d := c.payload
    let flags := leAt d 1 1
    if !gateRange d then s.fail c stBAD_PARAM
    else if !s.bufOk (leAt d 24 8) (leAt d 2 2 * 4) then s.fail c stPROT_BOUND
    else
      let r := s.fwRead (leAt d 24 8) (leAt d 2 2 * 4)
      let s := r.2
      let g := s.gateOf d r.1
      if (g.1.entries.any fun e => decide (e.2 = 0)) || g.1.tooShort then s.fail c stBAD_PARAM
      else
        let act := fun (t : State) p => if flags.testBit 0 then t.gateWrite p d g.1 else t.gateOff p
        let s := if flags.testBit 1 then s else (portList (leAt d 0 1)).foldl act s
        s.finish c stOK (leBytes 8 (g.1.start / 1000000000) ++ leBytes 4 (g.1.start % 1000000000) ++ leBytes 4 g.1.wGate
          ++ leBytes 4 (b2n g.2) ++ leBytes 4 0))

/-! ### Policers (R466, R467) -/

/-- RING_POLICE_SET. -/
def execRingPoliceSet (s : State) : Host.Outcome State Fault Refusal :=
  .next (s.serve 0x0642 fun c s =>
    let d := c.payload
    let i := leAt d 0 1
    let fl := leAt d 1 1
    let cls := leAt d 2 1
    let st := leAt d 4 2
    let burst := leAt d 6 2
    let rate := leAt d 8 4
    if 64 ≤ i ∨ burst = 0 ∨ 4095 < st ∨ 1048575 < rate ∨ 7 < cls ∨ cls = 5 ∨ cls = 7 ∨ (st = 0 ∧ ¬ fl.testBit 2) then s.fail c stBAD_PARAM
    else
      let s := ((s.wr (POL_CTRL_EN i) (b2n (fl.testBit 0))).wr (POL_CTRL_POINT i) (b2n (fl.testBit 1))).wr (POL_CTRL_ANY_STREAM i)
        (b2n (fl.testBit 2))
      let s := ((s.wr (POL_CTRL_CLASS i) cls).wr (POL_CTRL_STREAM i) st).wr (POL_RATE_RATE i) rate
      let s := (s.wr (POL_BURST_BURST i) burst).setRing fun r =>
        { r with policers := r.policers.set (Fin.ofNat 64 i) ⟨bucketSize burst, s.now⟩ }
      s.ok c)

end Sys2Proof.Machine
end

