-- ==== Sys2Proof/Machine/Video.lean ====
section
/-! DEFINITION. A layer's pixel (chapters "Video layers: unpacking, conversion and scaling" and "Blending and colour arithmetic"):
formats, unpacking, chroma upsampling, pre-blend LUT, colour matrix, pre-decimation, filters; the live state of a layer. -/

namespace Sys2Proof.Machine

/-! ### Formats (R106, R108) -/

/-- Format codes. -/
def fmtKnown (f : Nat) : Bool := (decide (1 ≤ f ∧ f ≤ 7)) || decide (0x10 ≤ f ∧ f ≤ 0x15)
/-- Whether a layer accepts a format (R106). -/
def fmtOk (l f : Nat) : Bool := decide (1 ≤ f ∧ f ≤ 7) || (decide (l < 16) && decide (0x10 ≤ f ∧ f ≤ 0x15))
/-- YCbCr 4:2:0. -/
def is420 (f : Nat) : Bool := f == 0x12 || f == 0x13
/-- Formats with a second plane of chroma. -/
def twoPlane (f : Nat) : Bool := f == 0x12 || f == 0x13 || f == 0x15
/-- Formats with one chroma pair per two columns (R159). -/
def subsampled (f : Nat) : Bool := (decide (0x10 ≤ f ∧ f ≤ 0x13)) || f == 0x15
/-- Formats with alpha. -/
def fmtAlpha (f : Nat) : Bool := f == 1 || f == 3 || f == 5 || f == 6 || f == 7
/-- Crop granule. -/
def fmtGranule (f : Nat) : Nat := if f = 0x11 then 6 else if f = 0x10 ∨ f = 0x12 ∨ f = 0x13 ∨ f = 0x15 then 2 else 1
/-- Bytes of one source row of `w` pixels in plane 0; a row of format 0x11 ends on a whole word. -/
def rowBytes0 (f w : Nat) : Nat :=
  if f = 1 ∨ f = 2 ∨ f = 3 ∨ f = 0x14 then 4 * w else if f = 4 ∨ f = 0x10 ∨ f = 0x13 ∨ f = 0x15 then 2 * w
  else if f = 5 then 8 * w else if f = 0x11 then ceilDiv (16 * w) 6 else w
/-- Bytes of one row in plane 1, for the two-plane formats. -/
def rowBytes1 (f w : Nat) : Nat := if f = 0x12 then w else if f = 0x13 ∨ f = 0x15 then 2 * w else 0
/-- Rows of plane 1 for so many source rows (R112). -/
def rows1 (f h : Nat) : Nat := if is420 f then ceilDiv h 2 else if twoPlane f then h else 0

/-! ### Live state of a layer -/

/-- What a layer reads (R110, R127): format, planes, crop after R158, constant colour. -/
structure Src where
  fmt : Nat
  p0 : Nat
  p1 : Nat
  pitch0 : Nat
  pitch1 : Nat
  cropX : Nat
  cropY : Nat
  cropW : Nat
  cropH : Nat
deriving DecidableEq, Repr

/-- A 48-bit address from a LO register with bits [31:6] and a HI register. -/
def addrOf (lo hi : Nat) : Nat := lo * 64 + hi * 2 ^ 32

/-- CROP_W as a layer uses it (R158). -/
def cropWidth (l cx cw : Nat) : Nat := if l < 16 then min cw (8192 - cx) else cw

/-- The live source of a layer at plane addresses and pitches. -/
def State.liveSrc (s : State) (l p0 p1 pitch0 pitch1 : Nat) : Src :=
  let cx := s.lrd (LAY_CROP_POS_X l)
  ⟨s.lrd (LAY_CTRL_FORMAT l), p0, p1, pitch0, pitch1, cx, s.lrd (LAY_CROP_POS_Y l), cropWidth l cx (s.lrd (LAY_CROP_SIZE_W l)),
    s.lrd (LAY_CROP_SIZE_H l)⟩

/-- The pre-decimation factor that a field codes (R165); code 3 acts as code 2. -/
def decimOf (v : Nat) : Nat := if v = 0 then 1 else if v = 1 then 2 else 4

/-- One axis of a layer's scaler: D, crop, destination, INIT (R165 to R172). -/
structure Axis where
  d : Nat
  crop : Nat
  t : Nat
  init : Int
deriving DecidableEq, Repr

/-- Decimated crop size S. -/
def Axis.size (a : Axis) : Nat := a.crop / a.d
/-- Bypass (R166). -/
def Axis.bypass (a : Axis) : Bool := decide (a.size = a.t ∧ a.init = 0)
/-- The phase step (R171). -/
def Axis.step (a : Axis) : Nat := (2 * a.size * 2 ^ 20 + a.t) / (2 * max 1 a.t)
/-- pos(x) of R172. -/
def Axis.pos (a : Axis) (x : Nat) : Int := ((a.step : Int) - 2 ^ 20) / 2 + a.init + x * a.step
/-- n of R172. -/
def Axis.n (a : Axis) (x : Nat) : Int := a.pos x / 2 ^ 20
/-- The phase of R172. -/
def Axis.phase (a : Axis) (x : Nat) : Nat := ((a.pos x - a.n x * 2 ^ 20) / 2 ^ 14).toNat
/-- The sample that a tap index reads (R174). -/
def Axis.clamp (a : Axis) (i : Int) : Nat := min i.toNat (a.size - 1)

/-- The axes of a layer from its live registers: horizontal. -/
def State.axisH (s : State) (l t : Nat) : Axis :=
  let cx := s.lrd (LAY_CROP_POS_X l)
  let w := cropWidth l cx (s.lrd (LAY_CROP_SIZE_W l))
  if l < 16 then ⟨decimOf (s.lrd (LAY_SCALE_CTRL_DECIM_H l)), w, t, sext 24 (s.lrd (LAY_H_INIT_INIT l))⟩ else ⟨1, w, w, 0⟩

/-- Vertical. -/
def State.axisV (s : State) (l t : Nat) : Axis :=
  let h := s.lrd (LAY_CROP_SIZE_H l)
  if l < 16 then ⟨decimOf (s.lrd (LAY_SCALE_CTRL_DECIM_V l)), h, t, sext 24 (s.lrd (LAY_V_INIT_INIT l))⟩ else ⟨1, h, h, 0⟩

/-- Whether the axes make a layer scaled (R167). -/
def isScaled (h v : Axis) : Bool := decide (1 < h.d ∨ 1 < v.d) || !h.bypass || !v.bypass

/-! ### Unpacking (R153 to R157) -/

/-- A 64 B line as a fetcher has staged it: bytes and poison; one that has not been staged as it stands in memory (log 42). -/
def State.stagedLine (s : State) (m : List StagedLine) (req la : Nat) : List Byte × Bool :=
  match m.find? fun x => x.addr = la with
  | some x => (x.data, x.poison)
  | none => let r := (s.lineRead req la).1; (r.data, r.poison)

/-- A little-endian word of staged source data, and whether any byte lies in a poisoned line. -/
def State.srcWord (s : State) (m : List StagedLine) (a n : Nat) : Nat × Bool :=
  (List.range n).foldl (fun (x : Nat × Bool) i =>
    let r := s.stagedLine m reqLpl ((a + i) / 64 * 64)
    (x.1 + (r.1.getD ((a + i) % 64) 0).toNat * 256 ^ i, x.2 || r.2)) (0, false)

/-- Bit replication to 16 bits (R154). -/
def expandRgb (n v : Nat) : Nat :=
  if n = 2 then v * 0x5555 else if n = 5 then v * 2048 + v * 64 + v * 2 + v / 16 else if n = 6 then v * 1024 + v * 16 + v / 4
  else if n = 8 then v * 257 else if n = 10 then v * 64 + v / 16 else v

/-- ARGB8888 expanded. -/
def argb8 (w : Nat) (bad : Bool) : Px :=
  ⟨expandRgb 8 (bits w 31 24), expandRgb 8 (bits w 23 16), expandRgb 8 (bits w 15 8), expandRgb 8 (bits w 7 0), bad⟩

/-- Address of row `y` in plane 0. -/
def Src.row0 (c : Src) (y : Nat) : Nat := c.p0 + y * c.pitch0

/-- Sample `k` (0 to 11) of the group of six columns of format 0x11 at an address. -/
def State.sample11 (s : State) (m : List StagedLine) (a k : Nat) : Nat × Bool :=
  let w := s.srcWord m (a + k / 3 * 4) 4
  (bits w.1 (k % 3 * 10 + 9) (k % 3 * 10), w.2)

/-- Luma, or the whole pixel of a format without subsampling, at source column `x` of row `y`. -/
def State.unpackPx (s : State) (m : List StagedLine) (c : Src) (const : Nat × Nat × Nat) (x y : Nat) : Px :=
  let r := c.row0 y
  if c.fmt = 1 then let w := s.srcWord m (r + 4 * x) 4; argb8 w.1 w.2
  else if c.fmt = 2 then let w := s.srcWord m (r + 4 * x) 4; { argb8 w.1 w.2 with a := 65535 }
  else if c.fmt = 3 then
    let w := s.srcWord m (r + 4 * x) 4
    ⟨expandRgb 2 (bits w.1 31 30), expandRgb 10 (bits w.1 29 20), expandRgb 10 (bits w.1 19 10), expandRgb 10 (bits w.1 9 0), w.2⟩
  else if c.fmt = 4 then
    let w := s.srcWord m (r + 2 * x) 2
    ⟨65535, expandRgb 5 (bits w.1 15 11), expandRgb 6 (bits w.1 10 5), expandRgb 5 (bits w.1 4 0), w.2⟩
  else if c.fmt = 5 then
    let w := s.srcWord m (r + 8 * x) 8
    ⟨bits w.1 63 48, bits w.1 47 32, bits w.1 31 16, bits w.1 15 0, w.2⟩
  else if c.fmt = 6 then
    let i := s.srcWord m (r + x) 1
    let w := s.srcWord m (c.p1 + 4 * i.1) 4
    argb8 w.1 (i.2 || w.2)
  else if c.fmt = 7 then
    let w := s.srcWord m (r + x) 1
    ⟨expandRgb 8 w.1, const.1, const.2.1, const.2.2, w.2⟩
  else if c.fmt = 0x10 then let w := s.srcWord m (r + x / 2 * 4 + x % 2 * 2) 1; ⟨65535, w.1 * 256, 0, 0, w.2⟩
  else if c.fmt = 0x11 then let w := s.sample11 m (r + x / 6 * 16) (2 * (x % 6) + 1); ⟨65535, w.1 * 64, 0, 0, w.2⟩
  else if c.fmt = 0x12 then let w := s.srcWord m (r + x) 1; ⟨65535, w.1 * 256, 0, 0, w.2⟩
  else if c.fmt = 0x13 then let w := s.srcWord m (r + 2 * x) 2; ⟨65535, w.1 / 64 * 64, 0, 0, w.2⟩
  else if c.fmt = 0x14 then
    let w := s.srcWord m (r + 4 * x) 4
    ⟨65535, bits w.1 19 10 * 64, bits w.1 9 0 * 64, bits w.1 29 20 * 64, w.2⟩
  else let w := s.srcWord m (r + 2 * x) 2; ⟨65535, w.1 / 16 * 16, 0, 0, w.2⟩

/-! ### Chroma upsampling (R159 to R161) -/

/-- Expanded Cb and Cr of pair `j` in a chroma row (a source row but for the two-plane formats), and the mark. -/
structure Chroma where
  cb : Nat
  cr : Nat
  bad : Bool
deriving DecidableEq, Repr

/-- The stored chroma samples. -/
def State.chromaAt (s : State) (m : List StagedLine) (c : Src) (j row : Nat) : Chroma :=
  if c.fmt = 0x10 then
    let b := s.srcWord m (c.row0 row + 4 * j + 1) 1
    let r := s.srcWord m (c.row0 row + 4 * j + 3) 1
    ⟨b.1 * 256, r.1 * 256, b.2 || r.2⟩
  else if c.fmt = 0x11 then
    let g := c.row0 row + j / 3 * 16
    let b := s.sample11 m g (4 * (j % 3))
    let r := s.sample11 m g (4 * (j % 3) + 2)
    ⟨b.1 * 64, r.1 * 64, b.2 || r.2⟩
  else
    let base := c.p1 + row * c.pitch1
    if c.fmt = 0x12 then
      let b := s.srcWord m (base + 2 * j) 1
      let r := s.srcWord m (base + 2 * j + 1) 1
      ⟨b.1 * 256, r.1 * 256, b.2 || r.2⟩
    else
      let b := s.srcWord m (base + 4 * j) 2
      let r := s.srcWord m (base + 4 * j + 2) 2
      let q := if c.fmt = 0x13 then 64 else 16
      ⟨b.1 / q * q, r.1 / q * q, b.2 || r.2⟩

/-- ⌊(C[k] + C[k+1] + 1) / 2⌋. -/
def chromaMean (x y : Chroma) : Chroma := ⟨(x.cb + y.cb + 1) / 2, (x.cr + y.cr + 1) / 2, x.bad || y.bad⟩
/-- ⌊(3 · C[k] + C[k±1] + 2) / 4⌋. -/
def chromaNear (x y : Chroma) : Chroma := ⟨(3 * x.cb + y.cb + 2) / 4, (3 * x.cr + y.cr + 2) / 4, x.bad || y.bad⟩

/-- The rule of R160 along one axis, at an even or odd position of sample `k`, with the index range of R161. -/
def chromaRule (cosited : Bool) (get : Int → Chroma) (pos : Nat) : Chroma :=
  let k : Int := (pos / 2 : Nat)
  if cosited then (if pos % 2 = 0 then get k else chromaMean (get k) (get (k + 1)))
  else chromaNear (get k) (get (if pos % 2 = 0 then k - 1 else k + 1))

/-- Clamp a chroma index (R161). -/
def chromaClamp (lo hi : Nat) (i : Int) : Nat := max lo (min hi i.toNat)

/-- Cb and Cr of the pixel at a source column and row. -/
def State.chromaPx (s : State) (m : List StagedLine) (c : Src) (hBetween vCosited : Bool) (x y : Nat) : Chroma :=
  let pair := fun (j : Nat) =>
    if is420 c.fmt then
      chromaRule vCosited (fun i => s.chromaAt m c j (chromaClamp (c.cropY / 2) ((c.cropY + c.cropH - 1) / 2) i)) y
    else s.chromaAt m c j y
  chromaRule (!hBetween) (fun i => pair (chromaClamp (c.cropX / 2) ((c.cropX + c.cropW - 1) / 2) i)) x

/-! ### LUT, matrix (R162 to R164, R203) -/

/-- Entry `i` of curve `c` of a layer's live pre-blend LUT (R209). -/
def State.preLut (s : State) (l c i : Nat) : Nat :=
  s.lrd (if i % 2 = 0 then LAY_PRE_LUT_ENTRY_EVEN l c (i / 2) else LAY_PRE_LUT_ENTRY_ODD l c (i / 2))

/-- Interpolation in a table with 2^k input codes from entry to entry (R203, R204). -/
def lutInterp (k : Nat) (entry : Nat → Nat) (v : Nat) : Nat :=
  let i := v / 2 ^ k
  let f := v % 2 ^ k
  (entry i * (2 ^ k - f) + entry (i + 1) * f + 2 ^ k / 2) / 2 ^ k

/-- Clamp to 0 to 65535. -/
def clamp16 (v : Int) : Nat := min v.toNat 65535

/-- One row of the colour matrix (R163). -/
def State.matrixRow (s : State) (l r : Nat) (p : Px) : Nat :=
  let k := fun i => sext 16 (s.lrd (LAY_MTX_C_COEF l (3 * r + i)))
  clamp16 ((k 0 * p.c0 + k 1 * p.c1 + k 2 * p.c2 + sext 17 (s.lrd (LAY_MTX_OFF_OFF l r)) * 4096 + 2048) / 4096)

/-- A pixel after unpacking, chroma, pre-blend LUT and matrix, at a source column and row; the colours of an A8 layer are
CONST_COLOUR. -/
def State.srcPx (s : State) (m : List StagedLine) (l : Nat) (c : Src) (x y : Nat) : Px :=
  let const := (s.lrd (LAY_CONST_HI_R l), s.lrd (LAY_CONST_LO_G l), s.lrd (LAY_CONST_LO_B l))
  let p := s.unpackPx m c const x y
  if l < 16 then
    let p := if subsampled c.fmt then
        let ch := s.chromaPx m c (s.lflag (LAY_COLOUR_CTRL_CHROMA_H l)) (s.lflag (LAY_COLOUR_CTRL_CHROMA_V l)) x y
        { p with c1 := ch.cb, c2 := ch.cr, bad := p.bad || ch.bad }
      else p
    let p := if s.lflag (LAY_LUT_CTRL_EN l) then
        { p with
          c0 := lutInterp 6 (s.preLut l 0) p.c0
          c1 := lutInterp 6 (s.preLut l 1) p.c1
          c2 := lutInterp 6 (s.preLut l 2) p.c2 }
      else p
    if s.lflag (LAY_COLOUR_CTRL_MATRIX_EN l) then
      { p with c0 := s.matrixRow l 0 p, c1 := s.matrixRow l 1 p, c2 := s.matrixRow l 2 p }
    else p
  else p

/-! ### Scaling (R168, R169, R173 to R175) -/

/-- Mean of D samples with the rounding of R168. -/
def meanPx (d : Nat) (ps : List Px) : Px :=
  let sum := fun (g : Px → Nat) => (ps.foldl (fun a p => a + g p) 0 + d / 2) / d
  ⟨sum Px.a, sum Px.c0, sum Px.c1, sum Px.c2, ps.any Px.bad⟩

/-- A filter over (coefficient, sample) pairs (R175); a tap with coefficient 0 marks nothing (R137). -/
def filterPx (ts : List (Int × Px)) : Px :=
  let out := fun (g : Px → Nat) => clamp16 ((ts.foldl (fun (a : Int) t => a + t.1 * g t.2) 0 + 512) / 1024)
  ⟨out Px.a, out Px.c0, out Px.c1, out Px.c2, ts.any fun t => decide (t.1 ≠ 0) && t.2.bad⟩

/-- A live filter coefficient. -/
def State.hCoef (s : State) (l p t : Nat) : Int :=
  sext 12 (s.lrd (if t % 2 = 0 then LAY_HCOEF_TAP_EVEN l p (t / 2) else LAY_HCOEF_TAP_ODD l p (t / 2)))
/-- A live filter coefficient. -/
def State.vCoef (s : State) (l p t : Nat) : Int :=
  sext 12 (s.lrd (if t % 2 = 0 then LAY_VCOEF_TAP_EVEN l p (t / 2) else LAY_VCOEF_TAP_ODD l p (t / 2)))

/-- Horizontally decimated sample `i` of the crop, in source row `y`. -/
def State.decimH (s : State) (m : List StagedLine) (l : Nat) (c : Src) (h : Axis) (i y : Nat) : Px :=
  meanPx h.d ((List.range h.d).map fun k => s.srcPx m l c (c.cropX + i * h.d + k) y)

/-- Horizontally filtered sample for output column `x` of source row `y`. -/
def State.filterH (s : State) (m : List StagedLine) (l : Nat) (c : Src) (h : Axis) (x y : Nat) : Px :=
  if h.bypass then s.decimH m l c h x y
  else filterPx ((List.range 8).map fun t =>
    (s.hCoef l (h.phase x) t, s.decimH m l c h (h.clamp (h.n x - 3 + t)) y))

/-- Galley row `r` at output column `x` as it is written (R169); `row` gives the source row that stands for a line of the source (R135). -/
def State.galleyPx (s : State) (m : List StagedLine) (l : Nat) (c : Src) (row : Nat → Nat) (h v : Axis) (x r : Nat) : Px :=
  meanPx v.d ((List.range v.d).map fun k => s.filterH m l c h x (row (c.cropY + r * v.d + k)))

/-- Galley row `r` at output column `x` as the Galley holds it (R181): one of its 8 rows, else what would be written. -/
def State.galleyAt (s : State) (m : List StagedLine) (rows : List (Nat × List Px)) (l : Nat) (c : Src) (row : Nat → Nat) (h v : Axis)
    (x r : Nat) : Px :=
  match (rows.lookup r).bind fun p => p[x]? with
  | some p => p
  | none => s.galleyPx m l c row h v x r

/-- A scaled or unscaled video layer's output pixel at output column `x` and line `y`. -/
def State.videoPx (s : State) (m : List StagedLine) (rows : List (Nat × List Px)) (l : Nat) (c : Src) (row : Nat → Nat) (h v : Axis)
    (x y : Nat) : Px :=
  if v.bypass then s.galleyAt m rows l c row h v x y
  else filterPx ((List.range 6).map fun t =>
    (s.vCoef l (v.phase y) t, s.galleyAt m rows l c row h v x (v.clamp (v.n y - 2 + t))))

/-- The layer's pixel at offset (x, y) from its destination origin (R192), from staged lines and the rows of its Galley. -/
def State.layerPx (s : State) (m : List StagedLine) (rows : List (Nat × List Px)) (l : Nat) (c : Src) (row : Nat → Nat)
    (dstW dstH x y : Nat) : Px :=
  if l < 16 then s.videoPx m rows l c row (s.axisH l dstW) (s.axisV l dstH) x y
  else s.srcPx m l c (c.cropX + x) (row (c.cropY + y))

end Sys2Proof.Machine
end

