-- ==== Sys2Proof/Machine/Compose.lean ====
section
/-! DEFINITION. Composition of a raster pixel (chapter "Blending and colour arithmetic"; culling and poison of chapter "Layers and the
Forme"): coverage, opaque tiles, colour key, blend modes, post-blend LUT. -/

namespace Sys2Proof.Machine

/-- A head's state. -/
def State.hd (s : State) (h : Nat) : HeadState := s.heads[Fin.ofNat 4 h]

/-- Change a head's state. -/
def State.setHd (s : State) (h : Nat) (f : HeadState → HeadState) : State :=
  { s with heads := s.heads.set (Fin.ofNat 4 h) (f (s.hd h)) }

/-- A layer's state. -/
def State.lay (s : State) (l : Nat) : LayerState := s.layers[Fin.ofNat 64 l]

/-- Change a layer's state. -/
def State.setLay (s : State) (l : Nat) (f : LayerState → LayerState) : State :=
  { s with layers := s.layers.set (Fin.ofNat 64 l) (f (s.lay l)) }

/-- A stream's state. -/
def State.strm (s : State) (k : Nat) : Stream := s.ingest.streams[Fin.ofNat 48 k]

/-- Change a stream's state. -/
def State.setStrm (s : State) (k : Nat) (f : Stream → Stream) : State :=
  { s with ingest := { s.ingest with streams := s.ingest.streams.set (Fin.ofNat 48 k) (f (s.strm k)) } }

/-! ### Where a layer's pixels stand -/

/-- FS_BASE, FS_STRIDE, PITCH, HEIGHT of a stream, and its line ring. -/
def State.fsBase (s : State) (k : Nat) : Nat := addrOf (s.rd (INGS_S_FS_LO_ADDR k)) (s.rd (INGS_S_FS_HI_ADDR k))
/-- FS_STRIDE in bytes. -/
def State.fsStride (s : State) (k : Nat) : Nat := s.rd (INGS_S_FS_STRIDE_STRIDE k) * 64
/-- PITCH in bytes. -/
def State.sPitch (s : State) (k : Nat) : Nat := s.rd (INGS_S_FMT_PITCH k) * 64
/-- Base of the line ring. -/
def State.lrBase (s : State) (k : Nat) : Nat := addrOf (s.rd (INGS_S_LR_LO_ADDR k)) (s.rd (INGS_S_LR_HI_ADDR k))
/-- RING_LINES as it acts. -/
def State.ringLines (s : State) (k : Nat) : Nat := min 1024 (max 4 (s.rd (INGS_S_BUF_RING_LINES k)))

/-- State of a due row of a line ring for the frame that a layer reads: 0 written, 1 not yet written, 2 overwritten by a later
row or frame (R356, R357). -/
def State.ringDue (s : State) (l k row : Nat) : Nat :=
  let f := (s.lay l).shown.getD 0
  match (s.strm k).slots.lookup (row % s.ringLines k) with
  | some (g, r) => if g = f then (if r = row then 0 else if r < row then 1 else 2) else if g < f then 1 else 2
  | none => 1

/-- The row that a LINERING layer reads where a row is due: the newest row written of the same frame while the row itself has not
been written (R135), else what the slot holds; a row that has been read stands as it was read (R356). -/
def State.ringRow (s : State) (l k row : Nat) : Nat :=
  match (s.lay l).ringMap.lookup row with
  | some r => r
  | none =>
    if s.ringDue l k row = 1 then
      match (s.strm k).slots.find? fun e => e.2.1 = (s.lay l).shown.getD 0 with
      | some e => e.2.2
      | none => row
    else row

/-- Source of a layer (R110, R135, R350, R351) and the map from due rows to rows read: for SURFACE the plane registers; for
FRAMESYNC the buffer that the layer holds; for LINERING the slots of the ring. -/
def State.source (s : State) (l : Nat) : Src × (Nat → Nat) :=
  let k := s.lrd (LAY_CTRL_STREAM l)
  let p0 := s.lrd (LAY_PITCH0_PITCH l) * 64
  let p1 := s.lrd (LAY_PITCH1_PITCH l) * 64
  let kind := s.lrd (LAY_CTRL_SOURCE l)
  if kind = 1 then
    let b := s.fsBase k + (s.lay l).held.getD 0 * s.fsStride k
    (s.liveSrc l b (b + s.sPitch k * s.rd (INGS_S_GEOM_H k)) p0 p1, id)
  else if kind = 2 then
    let n := s.ringLines k
    (s.liveSrc l (s.lrBase k) (s.lrBase k + s.sPitch k * n) p0 p1, fun y => s.ringRow l k y % n)
  else
    (s.liveSrc l (addrOf (s.lrd (LAY_PLANE0_LO_ADDR l)) (s.lrd (LAY_PLANE0_HI_ADDR l)))
      (addrOf (s.lrd (LAY_PLANE1_LO_ADDR l)) (s.lrd (LAY_PLANE1_HI_ADDR l))) p0 p1, id)

/-! ### Coverage and culling (R128 to R131, R149) -/

/-- Columns and lines that an entry composes: a graphic layer's are bounded by its crop as well. -/
def State.extent (s : State) (e : HeadEntry) : Nat × Nat :=
  if e.layer < 16 then (e.w, e.h)
  else (min e.w (s.lrd (LAY_CROP_SIZE_W e.layer)), min e.h (s.lrd (LAY_CROP_SIZE_H e.layer)))

/-- Whether an entry covers a pixel. -/
def State.covers (s : State) (e : HeadEntry) (x y : Nat) : Bool :=
  let n := s.extent e
  decide (e.x ≤ x ∧ x < e.x + n.1 ∧ e.y ≤ y ∧ y < e.y + n.2)

/-- Whether an entry covers a cull tile wholly, as far as the tile lies in the raster. -/
def State.coversTile (s : State) (t : Timing) (e : HeadEntry) (tx ty : Nat) : Bool :=
  let n := s.extent e
  decide (e.x ≤ tx * 64 ∧ min (tx * 64 + 64) t.hActive ≤ e.x + n.1 ∧ e.y ≤ ty * 16 ∧ min (ty * 16 + 16) t.vActive ≤ e.y + n.2)

/-- Whether an entry is shown in the current frame. -/
def State.isShown (s : State) (e : HeadEntry) : Bool := !e.hidden && !e.away && !s.flag (LAY_STATUS_DROPPED e.layer)

/-- The entries that the compositor takes in a tile: those from the topmost opaque entry that covers it on upward (R130). -/
def State.tileEntries (s : State) (h tx ty : Nat) : List HeadEntry :=
  (s.hd h).entries.foldl (fun acc e =>
    if e.solid && s.isShown e && s.coversTile (s.hd h).ctim e tx ty then [e] else acc ++ [e]) []

/-! ### One entry (R189 to R199) -/

/-- ⌊(x · y + 32767) / 65535⌋. -/
def mul16 (x y : Nat) : Nat := (x * y + 32767) / 65535

/-- Whether a pixel matches a layer's live key (R199, R202). -/
def State.keyed (s : State) (l : Nat) (p : Px) : Bool :=
  s.lflag (LAY_KEY_CTRL_EN l) &&
    decide (s.lrd (LAY_KEY_R_MIN l) ≤ p.c0 ∧ p.c0 ≤ s.lrd (LAY_KEY_R_MAX l) ∧ s.lrd (LAY_KEY_G_MIN l) ≤ p.c1 ∧
      p.c1 ≤ s.lrd (LAY_KEY_G_MAX l) ∧ s.lrd (LAY_KEY_B_MIN l) ≤ p.c2 ∧ p.c2 ≤ s.lrd (LAY_KEY_B_MAX l))

/-- A prepared source pixel (R193): the pixel, whether POISON_FILL was applied, whether the key was. -/
def State.prepare (s : State) (l : Nat) (p : Px) : Px × Bool × Bool :=
  let p := if s.lflag (LAY_CTRL_ALPHA_ONE l) then { p with a := 65535 } else p
  if p.bad then
    (⟨s.lrd (LAY_POISON_HI_A l), s.lrd (LAY_POISON_HI_R l), s.lrd (LAY_POISON_LO_G l), s.lrd (LAY_POISON_LO_B l), false⟩, true, false)
  else if s.keyed l p then (⟨0, 0, 0, 0, false⟩, false, true)
  else (p, false, false)

/-- New D of one component (R195): mode, effective alpha, global alpha, S, D. -/
def blendD (mode a g sc d : Nat) : Nat :=
  if mode = 0 then (sc * a + d * (65535 - a) + 32767) / 65535
  else if mode = 1 then min 65535 (mul16 sc g + mul16 d (65535 - a))
  else if mode = 2 then min 65535 (d + mul16 sc a)
  else if 0 < a then sc else d

/-- New A_d (R195). -/
def blendA (mode a ad : Nat) : Nat := if mode = 3 then (if 0 < a then a else ad) else a + mul16 ad (65535 - a)

/-- A composed pixel: D and A_d, with the layers whose POISON_FILL or key acted there. -/
structure Composed where
  r : Nat
  g : Nat
  b : Nat
  ad : Nat
  poisoned : List Nat
  keyed : List Nat
deriving DecidableEq, Repr

/-- What a head's fetchers have staged of a layer for the frame being composed. -/
def State.stagedOf (s : State) (h l : Nat) : List StagedLine :=
  (s.hd h).staged.filter fun m => decide (m.tag = (s.hd h).tag ∧ m.layer = l)

/-- One entry over the stack (R189). -/
def State.blendOver (s : State) (h x y : Nat) (c : Composed) (e : HeadEntry) : Composed :=
  if !s.isShown e || !s.covers e x y then c
  else
    let src := s.source e.layer
    let q := s.prepare e.layer (s.layerPx (s.stagedOf h e.layer) (s.lay e.layer).rows e.layer src.1 src.2 e.w e.h (x - e.x) (y - e.y))
    let p := q.1
    let a := mul16 p.a e.alpha
    ⟨blendD e.blend a e.alpha p.c0 c.r, blendD e.blend a e.alpha p.c1 c.g, blendD e.blend a e.alpha p.c2 c.b, blendA e.blend a c.ad,
      if q.2.1 then e.layer :: c.poisoned else c.poisoned, if q.2.2 then e.layer :: c.keyed else c.keyed⟩

/-- The live background of a head (R191). -/
def State.background (s : State) (h : Nat) : Nat × Nat × Nat :=
  (s.lrd (HEAD_BG_HI_R h), s.lrd (HEAD_BG_LO_G h), s.lrd (HEAD_BG_LO_B h))

/-- The composed pixel at a raster position (R189). -/
def State.compose (s : State) (h x y : Nat) : Composed :=
  let bg := s.background h
  (s.tileEntries h (x / 64) (y / 16)).foldl (s.blendOver h x y) ⟨bg.1, bg.2.1, bg.2.2, 65535, [], []⟩

/-! ### Post-blend LUT (R204, R205) -/

/-- Entry `i` of curve `c` of a head's live post-blend LUT. -/
def State.postLut (s : State) (h c i : Nat) : Nat :=
  s.lrd (if i % 2 = 0 then HEAD_POST_LUT_ENTRY_EVEN h c (i / 2) else HEAD_POST_LUT_ENTRY_ODD h c (i / 2))

/-- The post-blend LUT of a head. -/
def State.postBlend (s : State) (h : Nat) (d : Nat × Nat × Nat) : Nat × Nat × Nat :=
  if s.lflag (HEAD_POST_LUT_CTRL_EN h) then
    (lutInterp 4 (s.postLut h 0) d.1, lutInterp 4 (s.postLut h 1) d.2.1, lutInterp 4 (s.postLut h 2) d.2.2)
  else d

end Sys2Proof.Machine
end

