-- ==== Sys2Proof/Machine/Wall.lean ====
section
/-! DEFINITION. From raster to slug (chapter "Wall mapping, lamp calibration and the Sheet ports"): cabinet map entries and their
checks, orientation, cabinet matrix, gain words, dither, slug headers and payloads. -/

namespace Sys2Proof.Machine

/-- A cabinet map entry (R280). -/
structure MapEntry where
  cab : Nat
  flags : Nat
  x : Nat
  y : Nat
  w : Nat
  h : Nat
  port : Nat
  offU : Nat
  offV : Nat
  rx : List Byte
  calBase : Nat
  calPitch : Nat
  matrix : List Int
deriving DecidableEq, Repr

/-- Read the 64 bytes of an entry (R11, R280, R717). -/
def MapEntry.parse (d : List Byte) : MapEntry :=
  ⟨leAt d 0 2, leAt d 2 2, leAt d 4 2, leAt d 6 2, leAt d 8 2, leAt d 10 2, leAt d 12 1, leAt d 14 2, leAt d 16 2, slice d 18 6,
    leAt d 24 8, leAt d 32 4, (List.range 9).map fun k => sext 16 (leAt d (36 + 2 * k) 2)⟩

/-- ROT, MIRROR, CAL_EN, ROLLING, PAIR. -/
def MapEntry.rot (e : MapEntry) : Nat := e.flags % 4
/-- MIRROR. -/
def MapEntry.mirror (e : MapEntry) : Bool := e.flags.testBit 2
/-- CAL_EN. -/
def MapEntry.cal (e : MapEntry) : Bool := e.flags.testBit 3
/-- ROLLING. -/
def MapEntry.rolling (e : MapEntry) : Bool := e.flags.testBit 4
/-- PAIR. -/
def MapEntry.pair (e : MapEntry) : Bool := e.flags.testBit 5

/-- Slug capacity at a depth (R295). -/
def slugCap (n : Nat) : Nat := 71424 / (3 * n)

/-- An output depth as it acts (R333). -/
def depthOf (v : Nat) : Nat := if 8 ≤ v ∧ v ≤ 16 then v else 16

/-- Whether rows of bytes at a pitch stay inside the bound of their base (R43, R44, R715). -/
def State.rowsOk (s : State) (base pitch rows bytes : Nat) : Bool := s.footIn base base (base + (rows - 1) * pitch + bytes - 1)

/-- Mode of the pair of a port; 3 acts as SINGLE (R318). -/
def State.pairMode (s : State) (p : Nat) : Nat := let m := s.rd (SP_PAIR_MODE (p / 2 * 2)); if m = 3 then 0 else m

/-- The checks of R328 on an entry's fields, but for the raster. -/
def State.entryFields (s : State) (depth : Nat) (e : MapEntry) : Bool :=
  decide (e.cab ≠ 0xFFFF ∧ e.flags < 64 ∧ 16 ≤ e.w ∧ e.w ≤ slugCap depth ∧ e.h ≠ 0 ∧ e.port < s.nSheet) &&
  !(e.pair && decide (s.pairMode e.port = 0)) &&
  (!e.cal || decide (e.w % 16 = 0 ∧ e.calBase % 64 = 0 ∧ e.calPitch % 64 = 0 ∧ 4 * e.w ≤ e.calPitch))

/-- The calibration footprint of an entry (R328). -/
def State.entryCal (s : State) (e : MapEntry) : Bool := !e.cal || s.rowsOk e.calBase e.calPitch e.h (4 * e.w)

/-! ### Orientation (R281, R282) -/

/-- Cabinet column and line of the lamp that raster offset (rx, ry) drives. -/
def MapEntry.lamp (e : MapEntry) (rx ry : Nat) : Nat × Nat :=
  let uv := if e.rot = 0 then (rx, ry) else if e.rot = 1 then (ry, e.w - 1 - rx)
    else if e.rot = 2 then (e.w - 1 - rx, e.h - 1 - ry) else (e.h - 1 - ry, rx)
  let cw := if e.rot % 2 = 0 then e.w else e.h
  ((if e.mirror then cw - 1 - uv.1 else uv.1) + e.offU, uv.2 + e.offV)

/-- DIR. -/
def MapEntry.dir (e : MapEntry) : Nat :=
  if e.rot = 0 then b2n e.mirror else if e.rot = 1 then 3 else if e.rot = 2 then 1 - b2n e.mirror else 2

/-! ### Lamp codes (R285 to R293) -/

/-- One row of the cabinet matrix (R285). -/
def MapEntry.matrixRow (e : MapEntry) (r : Nat) (d : Nat × Nat × Nat) : Nat :=
  clamp16 ((e.matrix.getD (3 * r) 0 * d.1 + e.matrix.getD (3 * r + 1) 0 * d.2.1 + e.matrix.getD (3 * r + 2) 0 * d.2.2 + 2048) / 4096)

/-- A gain word: gains, dead (R286). -/
structure Gain where
  r : Nat
  g : Nat
  b : Nat
  dead : Bool
  bad : Bool
deriving DecidableEq, Repr

/-- Unity gain (R288, R290). -/
def Gain.unity (bad : Bool) : Gain := ⟨512, 512, 512, false, bad⟩

/-- The gain word of raster offset (rx, ry) of an entry, from the lines staged for it (R222, R286, R288, R290). -/
def State.gainAt (s : State) (m : List StagedLine) (e : MapEntry) (rx ry : Nat) : Gain :=
  if e.cal then
    let a := e.calBase + ry * e.calPitch + rx * 4
    let r := s.stagedLine m reqCmp (a / 64 * 64)
    let w := leNat (slice r.1 (a % 64) 4)
    if r.2 then Gain.unity true else ⟨bits w 9 0, bits w 19 10, bits w 29 20, w.testBit 30, false⟩
  else Gain.unity false

/-- A component after its gain (R287). -/
def gainOf (v g : Nat) : Nat := min 65535 ((v * g + 256) / 512)

/-- The dither matrix (R292). -/
def ditherM : List (List Nat) :=
  [[0, 32, 8, 40, 2, 34, 10, 42], [48, 16, 56, 24, 50, 18, 58, 26], [12, 44, 4, 36, 14, 46, 6, 38], [60, 28, 52, 20, 62, 30, 54, 22]]
  ++ [[3, 35, 11, 43, 1, 33, 9, 41], [51, 19, 59, 27, 49, 17, 57, 25], [15, 47, 7, 39, 13, 45, 5, 37], [63, 31, 55, 23, 61, 29, 53, 21]]

/-- The threshold of a raster pixel in a frame (R292). -/
def ditherT (x y f : Nat) : Nat :=
  let i := y % 8
  let j := x % 8
  let at_ := fun a b => (ditherM.getD a []).getD b 0
  if f % 4 = 0 then at_ i j else if f % 4 = 1 then at_ (7 - j) i else if f % 4 = 2 then at_ (7 - i) (7 - j) else at_ j (7 - i)

/-- A component at the output depth (R291, R293). -/
def ditherOf (n : Nat) (en : Bool) (t v : Nat) : Nat :=
  let p := 2 ^ (16 - n)
  min (2 ^ n - 1) ((v + (if en && decide (n < 16) then t * p / 64 else 0)) / p)

/-- Output depth and dither enable of the live plan. -/
def State.depth (s : State) (h : Nat) : Nat := depthOf (s.lrd (HEAD_OUT_CTRL_DEPTH h))

/-- The codes of the lamp that a raster pixel drives through an entry, from the pixel's D after the post-blend LUT (R284 to R293);
dead lamp, poisoned gain. -/
def State.lampCode (s : State) (h frame : Nat) (e : MapEntry) (x y : Nat) (d : Nat × Nat × Nat) : (Nat × Nat × Nat) × Gain :=
  let g := s.gainAt (s.stagedOf h 64) e (x - e.x) (y - e.y)
  let n := s.depth h
  let en := s.lflag (HEAD_OUT_CTRL_DITHER_EN h)
  let t := ditherT x y frame
  let one := fun r gain => ditherOf n en t (gainOf (e.matrixRow r d) gain)
  (if g.dead then (0, 0, 0) else (one 0 g.r, one 1 g.g, one 2 g.b), g)

/-! ### Slugs (R294 to R306) -/

/-- Lamps packed most significant bit first, the last byte filled with zero bits (R306). -/
def packLamps (n : Nat) (ls : List (Nat × Nat × Nat)) : List Byte :=
  let v := ls.foldl (fun a l => ((a * 2 ^ n + l.1) * 2 ^ n + l.2.1) * 2 ^ n + l.2.2) 0
  let len := ceilDiv (ls.length * 3 * n) 8
  beBytes len (v * 2 ^ (len * 8 - ls.length * 3 * n))

/-- The live cabinet map of a head: base and entries (R333). -/
def State.mapBase (s : State) (h : Nat) : Nat := addrOf (s.lrd (HEAD_CAB_MAP_LO_ADDR h)) (s.lrd (HEAD_CAB_MAP_HI_ADDR h))
/-- CAB_COUNT as it acts. -/
def State.mapCount (s : State) (h : Nat) : Nat := min 4096 (s.lrd (HEAD_CAB_COUNT_COUNT h))

/-- Read entry `i` of the live map: the entry, and whether its line is poisoned. -/
def State.mapEntry (s : State) (h i : Nat) : MapEntry × Bool :=
  let r := (s.memRead reqCmp (s.mapBase h + i * 64) 64).1
  (MapEntry.parse r.data, r.poison)

/-- Whether an entry's rectangle contains an active line of the raster. -/
def MapEntry.onLine (e : MapEntry) (t : Timing) (y : Nat) : Bool :=
  decide (e.y ≤ y ∧ y < e.y + e.h ∧ y < t.vActive ∧ e.x < t.hActive)

/-- The last line of the raster that an entry contains. -/
def MapEntry.lastLine (e : MapEntry) (t : Timing) : Nat := min (e.y + e.h) t.vActive - 1

/-- LAST of a slug (R305): no later slug of the CAB_ID in the frame, of the entries that are not skipped (R335). -/
def State.isLast (s : State) (h i y : Nat) (e : MapEntry) : Bool :=
  let t := (s.hd h).ctim
  (List.range (s.mapCount h)).all fun j =>
    let r := s.mapEntry h j
    let f := r.1
    let here := f.onLine t (f.lastLine t) && !r.2 && s.entryFields (s.depth h) f && s.entryCal f
    decide (f.cab ≠ e.cab) || !here || decide (f.lastLine t < y ∨ (f.lastLine t = y ∧ j ≤ i))

/-- D and A_d of a raster pixel: composed up to column `x0` of the line, and filled with the last composed pixel beyond (R230). -/
def State.shownAt (s : State) (h x y x0 : Nat) : Nat × Nat × Nat × Nat :=
  let at_ := fun (x : Nat) => let c := s.compose h x y; (c.r, c.g, c.b, c.ad)
  if x < x0 then at_ x
  else if 0 < x0 then at_ (x0 - 1)
  else match (s.hd h).lastPx with
    | some d => d
    | none => let b := s.background h; (b.1, b.2.1, b.2.2, 65535)

/-- D after the post-blend LUT. -/
def State.pixelAt (s : State) (h x y x0 : Nat) : Nat × Nat × Nat :=
  let d := s.shownAt h x y x0
  s.postBlend h (d.1, d.2.1, d.2.2.1)

/-- The slug of entry `i` for line `y` (R294, R304 to R306), with its dead lamps and poisoned gains; `x0` columns are composed. -/
def State.formSlug (s : State) (h i y x0 : Nat) (e : MapEntry) : Slug × Nat × Nat :=
  let hs := s.hd h
  let n := min (e.x + e.w) hs.ctim.hActive - e.x
  let ls := (List.range n).map fun k => s.lampCode h hs.frame e (e.x + k) y (s.pixelAt h (e.x + k) y x0)
  let uv := e.lamp 0 (y - e.y)
  let idx := (hs.slugIdx.lookup e.cab).getD 0
  let flags := e.dir + 4 * b2n e.rolling + 8 * b2n (s.isLast h i y e)
  let head := beBytes 2 e.cab ++ beBytes 2 uv.2 ++ beBytes 2 uv.1 ++ beBytes 2 n ++ beBytes 1 (s.depth h) ++ beBytes 1 flags
    ++ beBytes 2 (hs.frame % 65536) ++ beBytes 4 (h * 2 ^ 30 + idx % 2 ^ 30)
  (⟨h, hs.tag, e.rx, head ++ packLamps (s.depth h) (ls.map Prod.fst), e.pair, e.port, none⟩,
    ls.countP fun l => l.2.dead, ls.countP fun l => l.2.bad)

/-- The ports that serve the cabinets of the live map (R721). An entry in a poisoned line names its ports as its bytes read: the spec gives
only its slug's fate (R47, R335; log 60, DESIGN CHOICE). -/
def State.mapPorts (s : State) (h : Nat) : List Nat :=
  ((List.range (s.mapCount h)).flatMap fun i =>
    let e := (s.mapEntry h i).1
    if e.pair then [e.port / 2 * 2, e.port / 2 * 2 + 1] else [e.port]).foldl
      (fun acc p => if p < s.nSheet ∧ p ∉ acc then acc ++ [p] else acc) []

/-- The map footprint check of R334. -/
def State.mapOk (s : State) (h : Nat) : Bool :=
  let b := s.mapBase h
  let n := s.mapCount h
  decide (n = 0) || (inDsm b && s.spanOk b (n * 64) && s.dsmAllowed reqCmp (b - dsmBase) false)

end Sys2Proof.Machine
end

