-- ==== Sys2Proof/Machine/Sheet.lean ====
section
/-! DEFINITION. The Sheet ports (chapter "Wall mapping, lamp calibration and the Sheet ports" and R458 to R461): output queues, frames
on the wire, probes and breaks, STATUS, SHEET_PING. -/

namespace Sys2Proof.Machine

/-- A Sheet port's state. -/
def State.sp (s : State) (p : Nat) : SheetPort := s.sheet[Fin.ofNat 16 p]

/-- Change a Sheet port's state. -/
def State.setSp (s : State) (p : Nat) (f : SheetPort → SheetPort) : State :=
  { s with sheet := s.sheet.set (Fin.ofNat 16 p) (f (s.sp p)) }

/-! ### Frames (R302 to R306) -/

/-- The octets of an address in a pair of registers (R717). -/
def macBytes (hi lo : Nat) : List Byte := beBytes 2 hi ++ beBytes 4 lo

/-- A port's own address. -/
def State.spMac (s : State) (p : Nat) : List Byte := macBytes (s.rd (SP_MAC_HI_ADDR p)) (s.rd (SP_MAC_LO_ADDR p))

/-- A Sheet frame: addresses, EtherType, header and body, padding, FCS. -/
def State.sheetFrame (s : State) (p : Nat) (dst body : List Byte) : List Byte :=
  let d := dst ++ s.spMac p ++ beBytes 2 (s.rd (SP_ETHERTYPE_TYPE p)) ++ body
  let d := d ++ List.replicate (60 - d.length) 0
  d ++ leBytes 4 (crc32 d)

/-- A control header (table of R306). -/
def ctrlHeader (type len frame head : Nat) : List Byte :=
  [0xFF, 0xFF] ++ beBytes 1 type ++ [1] ++ beBytes 2 len ++ List.replicate 4 0 ++ beBytes 2 (frame % 65536) ++ beBytes 4 (head * 2 ^ 30)

/-- Header and body of a FRAME_START, HOLD or RELEASE. -/
def State.ctrlBytes (s : State) (p : Nat) (c : CtrlFrame) : List Byte :=
  let delay := beBytes 4 (s.rd (SP_SHOW_DELAY_NS p))
  if c.type = 1 then
    ctrlHeader 1 24 c.frame c.head ++ beBytes 6 c.frame ++ beBytes 6 (c.time / 1000000000) ++ beBytes 4 (c.time % 1000000000)
      ++ delay ++ beBytes 1 c.depth ++ [0, 0, 0]
  else ctrlHeader c.type 12 c.frame c.head ++ beBytes 6 c.frame ++ delay ++ [0, 0]

/-- Whether a port sends: enabled, with its link up (R301). -/
def State.spUp (s : State) (p : Nat) : Bool := s.flag (SP_CTRL_EN p) && s.flag (SP_STATUS_LINK p)

/-- Send a frame from the front of a queue, or discard it (R301, R460). -/
def State.sheetSend (s : State) (p : Nat) (dst body : List Byte) (slug : Bool) : State :=
  let f := s.sheetFrame p dst body
  if s.spUp p then (s.emit (.sheetTx p f)).count (if slug then SP_SLUGS_TX_COUNT p else SP_CTRL_TX_COUNT p) 1
  else (s.count (SP_TX_DISCARDED_COUNT p) 1).count64 (SP_DROP_BYTES_LO_BYTES p) (SP_DROP_BYTES_HI_BYTES p) f.length

/-! ### Queues (R298, R299, R319, R320, R458) -/

/-- Queue a control frame on a port. -/
def State.queueCtrl (s : State) (p : Nat) (c : CtrlFrame) : State := s.setSp p fun x => { x with q7 := x.q7 ++ [c] }

/-- Change a head's slugs on a port. -/
def SheetPort.setQh (x : SheetPort) (h : Nat) (f : List Slug → List Slug) : SheetPort :=
  { x with qh := x.qh.set (Fin.ofNat 4 h) (f x.qh[Fin.ofNat 4 h]) }

/-- The last slug of a head's queue on a port. -/
def State.putSlug (s : State) (p : Nat) (g : Slug) : State := s.setSp p fun x => x.setQh g.head fun q => q ++ [g]

/-- Queue a slug for a port, or for the pair that contains it: on both ports in MIRROR, on the active port in STANDBY; in SINGLE
mode on the port itself. -/
def State.queueSlug (s : State) (p : Nat) (g : Slug) : State :=
  let a := p / 2 * 2
  if g.pair then
    if s.pairMode p = 1 then (s.putSlug a g).putSlug (a + 1) g
    else if s.pairMode p = 2 then s.putSlug a g
    else s.putSlug p g
  else s.putSlug p g

/-- The slugs of a head that wait at any port; one that waits at both ports of a pair stands in Densum once. -/
def State.waitingSlugs (s : State) (h : Nat) : List Slug :=
  s.sheet.toList.foldl (fun a x => a ++ (x.qh[Fin.ofNat 4 h]).filter fun g => !a.contains g) []

/-- Payload bytes of a head that wait at all ports. -/
def State.queuedBytes (s : State) (h : Nat) : Nat := (s.waitingSlugs h).foldl (fun b g => b + (g.body.length - 16)) 0

/-- The payload of a slug as the port reads it from the output queue: its frame's header and payload; none where a line of it was
poisoned or refused (R300). -/
def State.slugBody (s : State) (g : Slug) : Option (List Byte) × State :=
  match g.at_ with
  | none => (some g.body, s)
  | some a =>
    let r := s.memRead reqSht a (g.body.length - 16)
    (if r.1.poison || r.1.err then none else some (g.body.take 16 ++ r.1.data), r.2)

/-! ### Breaks (R322 to R325) -/

/-- A pair declares a break (R322 to R324). -/
def State.pairBreak (s : State) (p : Nat) : State :=
  let a := p / 2 * 2
  let m := s.pairMode a
  if m = 0 ∨ (s.sp a).broken = some s.now then s
  else
    let s := (s.wr (SP_STATUS_LOOP_OK a) 0).setSp a fun x => { x with broken := some s.now, heard := false }
    let s := s.setSp (a + 1) fun x => { x with heard := false }
    if m = 1 then (s.setCause (causeSp a 2)).report EV_SHEET_LOOP_LOST (src 6 a) 0
    else (((s.wr (SP_STATUS_FAILED_OVER a) 1).count (SP_FAILOVERS_COUNT a) 1).setCause (causeSp a 3)).report EV_SHEET_FAILOVER (src 6 a) 0

/-- A probe of a port is missing (R321, R322): probes declare a break once until the pair's loop is whole again. -/
def State.probeMissed (s : State) (p : Nat) : State :=
  let n := (s.sp p).missing + 1
  let s := (s.count (SP_LOOP_MISS_COUNT p) 1).setSp p fun x => { x with probes := x.probes.drop 1, missing := n }
  if max 1 (s.rd (SP_LOOP_MISS p)) ≤ n ∧ (s.sp (p / 2 * 2)).broken.isNone then s.pairBreak p else s

/-- The queues of a pair's even and odd port for a head once the mode has changed from `old` to `new`: the slugs of PAIR entries that wait
go by the new mode (R325). -/
def pairQueues (old new : Nat) (a b : List Slug) : List Slug × List Slug :=
  let odd := fun (g : Slug) => decide (g.port % 2 = 1)
  let toB := b ++ a.filter fun g => g.pair && !b.contains g
  if new = old then (a, b)
  else if new = 0 then
    (a.filter fun g => !(g.pair && odd g),
      (b.filter fun g => !g.pair || odd g) ++ if old = 1 then [] else a.filter fun g => g.pair && odd g && !b.contains g)
  else
    let toA := if old = 0 then a ++ b.filter fun g => g.pair && !a.contains g else a
    (toA, if new = 1 then toB else b.filter fun g => !g.pair)

/-- A write of PAIR.MODE: the new mode takes effect from the next slug and FAILED_OVER clears (R325). -/
def State.setPairMode (s : State) (k v : Nat) : State :=
  let a := 2 * k
  let old := s.pairMode a
  let fresh := fun (x : SheetPort) => { x with probes := [], missing := 0, heard := false, broken := none }
  let s := ((((s.wr (SP_PAIR_MODE a) v).wr (SP_STATUS_FAILED_OVER a) 0).wr (SP_STATUS_LOOP_OK a) 0).setSp a fresh).setSp (a + 1) fresh
  let new := s.pairMode a
  (List.range 4).foldl (fun s h =>
    let q := pairQueues old new (s.sp a).qh[Fin.ofNat 4 h] (s.sp (a + 1)).qh[Fin.ofNat 4 h]
    (s.setSp a fun x => x.setQh h fun _ => q.1).setSp (a + 1) fun x => x.setQh h fun _ => q.2) s

/-- The link of a port is lost (R322). -/
def State.sheetDown (s : State) (p : Nat) : State :=
  if s.flag (SP_STATUS_LINK p) then
    let s := ((s.wr (SP_STATUS_LINK p) 0).wr (SP_STATUS_FEC_LOCK p) 0).setCause (causeSp p 0)
    if s.pairMode p = 1 ∨ (s.pairMode p = 2 ∧ p % 2 = 0) then s.pairBreak p else s
  else s

/-- SHEET_LINK_DOWN (R322). -/
def execSheetLinkDown (p : Fin 16) (s : State) : Host.Outcome State Fault Refusal :=
  .next (if s.mainUp && decide (p.val < s.nSheet) then s.sheetDown p else s)

/-- SHEET_LINK_UP (R314). -/
def execSheetLinkUp (p : Fin 16) (s : State) : Host.Outcome State Fault Refusal :=
  .next (if s.mainUp && decide (p.val < s.nSheet) && s.flag (SP_CTRL_EN p) && !s.flag (SP_STATUS_LINK p) then
    let fec := s.flag (SP_CTRL_FEC p) && !s.flag (SP_CTRL_RATE p)
    let s := (((s.wr (SP_STATUS_LINK p) 1).wr (SP_STATUS_FEC_LOCK p) (b2n fec)).wr (SP_STATUS_MODULE p) 1).setCause (causeSp p 1)
    -- without probes nothing but the link shows that the pair is whole again
    if s.rd (SP_LOOP_PERIOD p) = 0 then s.setSp (p / 2 * 2) fun x => { x with broken := none } else s
  else s)

/-! ### Probes (R321) -/

/-- PERIOD of a pair's port in ns. -/
def State.loopNs (s : State) (p : Nat) : Nat := s.rd (SP_LOOP_PERIOD p) * 1000

/-- LOOP_PROBE (R321). -/
def execLoopProbe (p : Fin 16) (s : State) : Host.Outcome State Fault Refusal :=
  let x := s.sp p
  .next (if s.mainUp && decide (p.val < s.nSheet ∧ s.pairMode p ≠ 0 ∧ s.loopNs p ≠ 0 ∧ x.lastProbe + s.loopNs p ≤ s.now) then
    let other := if p.val % 2 = 0 then p.val + 1 else p.val - 1
    let f : PingFrame := ⟨x.nextToken, s.spMac other, true⟩
    s.setSp p fun y => { y with q6 := y.q6 ++ [f], nextToken := (y.nextToken + 1) % 2 ^ 32, lastProbe := s.now }
  else s)

/-- PROBE_MISSING (R39, R321): more than PERIOD has passed since the transmission of the oldest probe that has not arrived. -/
def execProbeMissing (p : Fin 16) (s : State) : Host.Outcome State Fault Refusal :=
  .next (match (s.sp p).probes with
  | (_, t) :: _ => if s.mainUp && decide (t + s.loopNs p < s.now) then s.probeMissed p else s
  | [] => s)

/-- A PERIOD of 0 turns the probes of a port off, those under way too (R322). -/
def State.probesOff (s : State) (p : Nat) : State :=
  if s.rd (SP_LOOP_PERIOD p) = 0 then s.setSp p fun x => { x with probes := [], missing := 0 } else s

/-- A probe reaches a port and is counted; one that its own port still awaits answers for the path, and a pair whose two ports have been
heard is whole again (R316, R321, R324). One that comes after its PERIOD, or that no port awaits, is received as well and changes nothing
else (log 64, DESIGN CHOICE). -/
def State.probeHeard (s : State) (p token : Nat) : State :=
  let other := if p % 2 = 0 then p + 1 else p - 1
  let s := s.count (SP_LOOP_RX_COUNT p) 1
  if (s.sp other).probes.any fun x => decide (x.1 = token ∧ s.now ≤ x.2 + s.loopNs other) then
    let s := s.setSp other fun x => { x with probes := x.probes.filter fun y => y.1 ≠ token, missing := 0, heard := true }
    let a := p / 2 * 2
    if (s.sp a).heard && (s.sp (a + 1)).heard then (s.wr (SP_STATUS_LOOP_OK a) 1).setSp a fun x => { x with broken := none } else s
  else s

/-! ### SHEET_PING (R317, R332) -/

/-- The response when no STATUS came. -/
def pingNone : List Byte := leBytes 4 0xFFFFFFFF ++ List.replicate 32 0

/-- End the SHEET_PING of a token. -/
def State.pingEnd (s : State) (p token : Nat) (resp : List Byte) : State :=
  s.wake fun w => match w.kind with
    | .ping q t _ _ => if q = p ∧ t = token then some (stOK, resp) else none
    | _ => none

/-- A PING has been transmitted: its command's time starts. -/
def State.pingSent (s : State) (p token : Nat) : State :=
  let mark := fun (w : Waiting) => match w.kind with
    | .ping q t d _ => if q = p ∧ t = token then { w with kind := .ping q t d (some s.time.ns) } else w
    | _ => w
  { s with fw := { s.fw with waiting := s.fw.waiting.map mark } }

/-- SHEET_PING (R332). -/
def execSheetPing (s : State) : Host.Outcome State Fault Refusal :=
  .next (s.serve 0x0420 fun c s =>
    let p := leAt c.payload 0 1
    let tmo := leAt c.payload 2 2
    if s.nSheet ≤ p ∨ tmo = 0 then s.fail c stBAD_PARAM
    else
      let t := (s.sp p).nextToken
      let f : PingFrame := ⟨t, slice c.payload 4 6, false⟩
      let s := s.setSp p fun y => { y with q6 := y.q6 ++ [f], nextToken := (t + 1) % 2 ^ 32 }
      s.waitFor c (.ping p t (tmo * 1000) none))

/-- The SHEET_PING response of a STATUS body: RTT and the fields in little-endian order. -/
def statusResp (rtt : Nat) (b : List Byte) : List Byte :=
  leBytes 4 rtt ++ leBytes 4 (beAt b 0 4) ++ leBytes 1 (beAt b 4 1) ++ leBytes 1 (beAt b 5 1) ++ leBytes 2 (beAt b 6 2)
    ++ leBytes 4 (beAt b 8 4) ++ leBytes 4 (beAt b 12 4) ++ leBytes 4 (beAt b 16 4) ++ leBytes 4 (beAt b 20 4) ++ leBytes 2 (beAt b 24 2)
    ++ List.replicate 6 0

/-- STATUS_HANDOFF (R316): the firmware takes the oldest STATUS of a port and hands it to the SHEET_PING whose TOKEN it carries, if
it came in time. -/
def execStatusHandoff (p : Fin 16) (s : State) : Host.Outcome State Fault Refusal :=
  .next (match (if s.serving then (s.sp p).rx else []) with
  | [] => s
  | (b, t) :: rest =>
    let s := s.setSp p fun x => { x with rx := rest }
    s.wake fun w => match w.kind with
      | .ping q tok d (some sent) =>
        if q = p.val ∧ tok = beAt b 0 4 ∧ t ≤ sent + d then some (stOK, statusResp ((t - sent) % 2 ^ 32) b) else none
      | _ => none)

/-- PING_TIMEOUT (R332): the TIMEOUT of a SHEET_PING has expired and no STATUS in the queue answers it. -/
def execPingTimeout (p : Fin 16) (s : State) : Host.Outcome State Fault Refusal :=
  let rx := (s.sp p).rx
  .next (if s.serving then s.wake fun w => match w.kind with
    | .ping q tok d (some sent) =>
      if q = p.val && decide (sent + d < s.time.ns) && !(rx.any fun x => decide (beAt x.1 0 4 = tok ∧ x.2 ≤ sent + d)) then some (stOK, pingNone)
      else none
    | _ => none
  else s)

/-! ### Transmission (R459) -/

/-- Whether a frame of Q7 may go: a HOLD or RELEASE only when no slug of the frame it closes waits; `copies` are slugs that are still to
come to this port. -/
def SheetPort.ctrlOk (x : SheetPort) (copies : Nat → List Slug) (c : CtrlFrame) : Bool :=
  c.type == 1 || (x.qh[Fin.ofNat 4 c.head] ++ copies c.head).all fun g => decide (c.tag < g.tag)

/-- Whether a pair has failed over in STANDBY mode, so that slugs of PAIR entries go out on both ports (R323). -/
def State.failedOver (s : State) (p : Nat) : Bool := decide (s.pairMode p = 2) && s.flag (SP_STATUS_FAILED_OVER (p / 2 * 2))

/-- The slugs that wait on the active port and are still to go out on the other one as well. -/
def State.copiesTo (s : State) (p h : Nat) : List Slug :=
  if s.failedOver p && decide (p % 2 = 1) then ((s.sp (p - 1)).qh[Fin.ofNat 4 h]).filter fun g => g.pair else []

/-- Whether the slug queue of a head may send: its FRAME_START has gone. -/
def SheetPort.slugOk (x : SheetPort) (h : Nat) : Bool :=
  match x.qh[Fin.ofNat 4 h] with
  | [] => false
  | g :: _ => decide (g.tag ≤ x.started[Fin.ofNat 4 h])

/-- The next head to serve after the one served last. -/
def SheetPort.nextHead (x : SheetPort) : Option Nat :=
  ((List.range 4).map fun k => (x.served + 1 + k) % 4).find? x.slugOk

/-- Send a PING; a discarded one ends its command. -/
def State.sendPing (s : State) (p : Nat) (f : PingFrame) : State :=
  let t := s.time.ns
  let body := ctrlHeader 4 16 0 0 ++ beBytes 4 f.token ++ timeBytes t ++ [0, 0]
  let up := s.spUp p
  let s := s.sheetSend p f.dst body false
  if f.probe then (if up then s.setSp p fun x => { x with probes := x.probes ++ [(f.token, s.now)] } else s)
  else if up then s.pingSent p f.token
  else s.pingEnd p f.token pingNone

/-- A slug leaves the front of its queue: it is sent, or dropped where its payload is poisoned (R300, R460). Of a poisoned slug at a port
that is disabled or down, which R300 and R301 both claim and R461 counts once, the model counts SLUG_POISON (log 60, DESIGN CHOICE). -/
def State.slugSend (s : State) (p : Nat) (g : Slug) : State :=
  let r := s.slugBody g
  match r.1 with
  | some b => r.2.sheetSend p g.dst b true
  | none =>
    ((r.2.count (SP_SLUG_POISON_COUNT p) 1).count64 (SP_DROP_BYTES_LO_BYTES p) (SP_DROP_BYTES_HI_BYTES p)
      (r.2.sheetFrame p g.dst g.body).length).setCause (causeSp p 5)

/-- SHEET_TRANSMIT (R459): the egress of a port is idle and takes the next frame. -/
def execSheetTransmit (p : Fin 16) (s : State) : Host.Outcome State Fault Refusal :=
  let x := s.sp p
  .next (if !s.mainUp || decide (s.nSheet ≤ p.val) then s
  else
    match x.q7.find? (x.ctrlOk (s.copiesTo p)) with
    | some c =>
      let s := s.setSp p fun y => { y with
        q7 := y.q7.erase c
        started := if c.type = 1 then y.started.set (Fin.ofNat 4 c.head) c.tag else y.started }
      s.sheetSend p (macBytes (s.rd (SP_GROUP_HI_ADDR p)) (s.rd (SP_GROUP_LO_ADDR p))) (s.ctrlBytes p c) false
    | none =>
      match x.q6 with
      | f :: rest => (s.setSp p fun y => { y with q6 := rest }).sendPing p f
      | [] =>
        match x.nextHead with
        | none => s
        | some h =>
          match x.qh[Fin.ofNat 4 h] with
          | [] => s
          | g :: rest =>
            let s := s.setSp p fun y => { y with qh := y.qh.set (Fin.ofNat 4 h) rest, served := h }
            -- a slug that reaches the front after a break waits its turn on the other port as well
            let both := g.pair && s.failedOver p && decide (p.val % 2 = 0)
            let s := s.slugSend p g
            if both then s.putSlug (p.val + 1) g else s)

/-! ### Reception (R316) -/

/-- SHEET_RECEIVE (R316). A good frame of more than 9,216 B, which R316 sorts nowhere, counts in RX_DROPPED (log 47, DESIGN CHOICE). -/
def execSheetReceive (p : Fin 16) (f : RxFrame) (s : State) : Host.Outcome State Fault Refusal :=
  .next (if !s.mainUp || decide (s.nSheet ≤ p.val) || !s.flag (SP_CTRL_EN p) then s
  else if !f.good then s.count (SP_FCS_ERR_COUNT p) 1
  else if 9216 < f.bytes.length + 4 then s.count (SP_RX_DROPPED_COUNT p) 1
  else
    let b := f.bytes
    let dropped := s.count (SP_RX_DROPPED_COUNT p) 1
    if beAt b 12 2 ≠ s.rd (SP_ETHERTYPE_TYPE p) ∨ beAt b 14 2 ≠ 0xFFFF then dropped
    else if beAt b 16 1 = 4 ∧ b.take 6 = s.spMac p then s.probeHeard p (beAt b 30 4)
    else if beAt b 16 1 = 5 then
      if (s.sp p).rx.length < 64 then
        let body := slice b 30 32
        ((s.setSp p fun x => { x with rx := x.rx ++ [(body, s.time.ns)] }).count (SP_RX_STATUS_COUNT p) 1).setCause (causeSp p 4)
      else (s.count (SP_RX_OVERFLOW_COUNT p) 1).setCause (causeSp p 6)
    else dropped)

end Sys2Proof.Machine
end

