-- ==== Sys2Proof/Machine/Latch.lean ====
section
/-! DEFINITION. What a latch of a head does (R220, R221, R233 to R241, R245, R276, R334; R127 to R134, R149, R182 to R184; R206 to R208;
R720, R721): timing limits, making shadow state live, the Forme of the coming frame, readiness, write-back. -/

namespace Sys2Proof.Machine

/-! ### Timing (R218 to R221) -/

/-- The timing that a set of HEADn registers holds. -/
def timingOf (rd : Fld → Nat) (h : Nat) : Timing :=
  let vt := rd (HEAD_TIMING_V_V_TOTAL h)
  let lead := rd (HEAD_LEAD_FETCH_LEAD h)
  let ll := rd (HEAD_LEAD_LATCH_LINE h)
  ⟨rd (HEAD_TIMING_H_H_ACTIVE h), rd (HEAD_TIMING_H_H_TOTAL h), rd (HEAD_TIMING_V_V_ACTIVE h), vt, lead,
    if ll = 0 then vt - lead - 1 else ll, rd (HEAD_RATE_NUM_NUM h), rd (HEAD_RATE_DEN_DEN h)⟩

/-- The live timing of a head. -/
def State.liveTiming (s : State) (h : Nat) : Timing := timingOf s.lrd h
/-- The shadow timing of a head. -/
def State.shadowTiming (s : State) (h : Nat) : Timing := timingOf s.rd h

/-- The limits of R219 that the hardware checks, on a timing whose LATCH_LINE field holds `ll`. -/
def Timing.ok (t : Timing) (ll : Nat) : Bool :=
  decide (64 ≤ t.hActive ∧ t.hActive ≤ 16384 ∧ t.hActive % 2 = 0 ∧ t.hActive + 64 ≤ t.hTotal ∧ t.hTotal ≤ 32766 ∧ t.hTotal % 2 = 0) &&
  decide (16 ≤ t.vActive ∧ t.vActive ≤ 16384 ∧ 4 ≤ t.lead ∧ t.lead ≤ 64 ∧ t.vActive + t.lead + 1 ≤ t.vTotal ∧ t.vTotal ≤ 32767) &&
  decide (ll = 0 ∨ (t.vActive ≤ ll ∧ ll + t.lead + 1 ≤ t.vTotal)) &&
  decide (t.num ≠ 0 ∧ t.den ≠ 0 ∧ 24000 * t.den ≤ 1001 * t.num ∧ t.num ≤ 480 * t.den) &&
  decide (7812500 * t.den ≤ t.hTotal * t.vTotal * t.num ∧ t.hTotal * t.vTotal * t.num ≤ 2000000000 * t.den) &&
  decide (t.vTotal * t.num ≤ 2000000 * t.den)

/-- Whether the shadow timing meets the limits. -/
def State.shadowTimingOk (s : State) (h : Nat) : Bool := (s.shadowTiming h).ok (s.rd (HEAD_LEAD_LATCH_LINE h))

/-- Frame period in ns, rounded down. -/
def Timing.period (t : Timing) : Nat := t.den * 1000000000 / max 1 t.num

/-- Change a head PLL's state. -/
def State.setPll (s : State) (n : Nat) (f : Pll → Pll) : State :=
  { s with clocks := { s.clocks with plls := s.clocks.plls.set (Fin.ofNat 4 n) (f s.clocks.plls[Fin.ofNat 4 n]) } }

/-- A head PLL. -/
def State.pll (s : State) (n : Nat) : Pll := s.clocks.plls[Fin.ofNat 4 n]

/-- Ramp offset after a time in ns within a segment, in units of 1/16 ppb, within its bounds (R617). -/
def State.rampAt (s : State) (n seg since : Nat) (off : Int) : Int :=
  let rate := max (-32000) (min 32000 (sext 16 (s.rd (HPLL_RAMP_RATE_RATE n seg))))
  let ns := min (s.now - since) (s.rd (HPLL_RAMP_DUR_US n seg) * 1000)
  max (-160000000) (min 160000000 (off + rate * ns / 1000))

/-- The present ramp offset of a head PLL in units of 1/16 ppb. -/
def State.rampOffset (s : State) (n : Nat) : Int :=
  match (s.pll n).ramp with
  | some (seg, since, off) => s.rampAt n seg since off
  | none => 0

/-- The steering of a head PLL now, in ppb: it moves to the value that the timing loop has set by at most 50 ppm per ms (R616). -/
def State.steerNow (s : State) (n : Nat) : Int :=
  let p := s.pll n
  let cur := sext 32 (s.rd (HPLL_STEER_PPB n))
  let d : Int := (s.now - p.steerSince) / 20
  max (cur - d) (min (cur + d) p.steerTo)

/-- The VCO of a head PLL in Hz, as a fraction, with ramp and steering (R610). -/
def State.vco (s : State) (n : Nat) : Nat × Nat :=
  let ppb16 : Int := 16000000000 + 16 * s.steerNow n + s.rampOffset n
  (156250000 * (s.rd (HPLL_FB_FB_INT n) * 2 ^ 24 + s.rd (HPLL_FRAC_FB_FRAC n)) * ppb16.toNat, 2 ^ 24 * 16000000000)

/-- Output `k` of a head PLL in Hz, as a fraction (R611). -/
def State.pllOut (s : State) (n k : Nat) : Nat × Nat :=
  let v := s.vco n
  (v.1, v.2 * (s.rd (HPLL_OUT_DIV n k) + 1))

/-- Whether an output of a head PLL runs: it is enabled, and SYNC does not hold it low (R613, R621). -/
def State.pllRuns (s : State) (n k : Nat) : Bool :=
  s.flag (HPLL_CTRL_EN n) && s.flag (HPLL_OUT_EN n k) && (s.pll n).syncAt.isNone

/-- ns of `y` line windows of a timing, rounded down: each lasts H_TOTAL / 2 cycles of the clock given (R217, R218). -/
def Timing.windows (t : Timing) (y : Nat) (c : Nat × Nat) : Nat := y * t.hTotal * c.2 * 1000000000 / (2 * max 1 c.1)

/-- ns of `y` line windows of a timing on output 1 of a head's PLL (R611). -/
def State.windowsNs (s : State) (h : Nat) (t : Timing) (y : Nat) : Nat := t.windows y (s.pllOut h 1)

/-- The compositor clock of a head, output 0 of its PLL, as a fraction in Hz (R608, R611). -/
def State.cmpClock (s : State) (h : Nat) : Nat × Nat := s.pllOut h 0

/-! ### Frame numbers (R242, R245, R257) -/

/-- T0 + ALIGN_OFFSET in ns, from live registers. -/
def State.alignT0 (s : State) (h : Nat) : Int :=
  ((s.lrd (HEAD_T0_SEC_LO_SEC h) + s.lrd (HEAD_T0_SEC_HI_SEC h) * 2 ^ 32) * 1000000000 + s.lrd (HEAD_T0_NS_NS h) : Nat)
    + sext 32 (s.lrd (HEAD_ALIGN_OFFSET_OFFSET h))

/-- Start of slot k of the schedule of a head in DEVTIME mode. -/
def State.slotAt (s : State) (h : Nat) (k : Int) : Int :=
  let num : Int := max 1 (s.lrd (HEAD_RATE_NUM_NUM h))
  s.alignT0 h + (k * s.lrd (HEAD_RATE_DEN_DEN h) * 1000000000 + num / 2) / num

/-- The slot nearest a device time. -/
def State.slotNear (s : State) (h : Nat) (t : Int) : Int :=
  let den : Int := max 1 (s.lrd (HEAD_RATE_DEN_DEN h)) * 1000000000
  (2 * (t - s.alignT0 h) * s.lrd (HEAD_RATE_NUM_NUM h) + den) / (2 * den)

/-- Live FRAME0. -/
def State.frame0 (s : State) (h : Nat) : Nat := s.lrd (HEAD_FRAME0_LO_FRAME0 h) + s.lrd (HEAD_FRAME0_HI_FRAME0 h) * 2 ^ 32

/-- The number of the frame that starts at a device time (R245). -/
def State.frameNumber (s : State) (h : Nat) (t : Int) : Nat :=
  let x := s.hd h
  if s.lrd (HEAD_ALIGN_SRC h) = 1 then wrap 48 (s.frame0 h + s.slotNear h t)
  else if x.frame0Live || !x.counted then s.frame0 h
  else (x.lastCounted + 1) % 2 ^ 48

/-- Device time at which the next frame of a running head starts. -/
def State.nextStart (s : State) (h : Nat) : Int :=
  let x := s.hd h
  (s.time.ns + (x.winAt + s.windowsNs h x.tim (x.tim.vTotal - x.line)) : Nat) - (s.now : Int)

/-- The number that the coming frame carries. -/
def State.nextNumber (s : State) (h : Nat) : Nat := s.frameNumber h (if (s.hd h).gen then s.nextStart h else s.time.ns)

/-- The firmware's choice of FRAME0 (R257): the frame that starts at a device time carries the number after that of the last
frame counted. -/
def State.chooseFrame0 (s : State) (h : Nat) (t : Int) : State :=
  if (s.hd h).frame0Auto then
    let n : Int := if (s.hd h).counted then (s.hd h).lastCounted + 1 else 0
    let v := wrap 48 (if s.lrd (HEAD_ALIGN_SRC h) = 1 then n - s.slotNear h t else n)
    let s := (s.wr (HEAD_FRAME0_LO_FRAME0 h) (v % 2 ^ 32)).wr (HEAD_FRAME0_HI_FRAME0 h) (v / 2 ^ 32)
    let s := s.latchRange (HEAD_FRAME0_LO_FRAME0 h).off ((HEAD_FRAME0_HI_FRAME0 h).off + 4)
    s.setHd h fun x => { x with frame0Auto := false, frame0Live := true }
  else s

/-! ### Making shadow state live (R127, R206, R233) -/

/-- The shadow registers of a HEADn page but its timing, as ranges of offsets in the page. -/
def headShadow : List (Nat × Nat) :=
  [(0x28, 0x48), (0x4C, 0x50), (0x60, 0x64), (0xB0, 0xC4), (0x100, 0x110), (0x400, 0x40C), (0x410, 0x414), (0x500, 0x680), (0x4000, 0xD000)]

/-- The shadow registers of a layer page. -/
def layerShadow (l : Nat) : List (Nat × Nat) :=
  if l < 16 then [(0, 0x4C), (0x60, 0x70), (0x100, 0x190), (0x1A0, 0x1A4), (0x1000, 0x1800), (0x2000, 0x4000)]
  else [(0, 0x4C), (0x60, 0x70)]

/-- Offset of a HEADn page. -/
def headPage (h : Nat) : Nat := 0x20000 + h * 0x10000

/-- A state in which the shadow registers of ranges of a page are live. -/
def State.latchPage (s : State) (page : Nat) (rs : List (Nat × Nat)) : State :=
  rs.foldl (fun s r => s.latchRange (page + r.1) (page + r.2)) s

/-- A latch makes the shadow registers of ranges of a page live, as far as the pending commit takes them (R114). -/
def State.latchPageLive (s : State) (page : Nat) (rs : List (Nat × Nat)) : State :=
  rs.foldl (fun s r => s.latchLive (page + r.1) (page + r.2)) s

/-- Start the synchronisation of a LUT's second copy (R208). -/
def State.lutSyncStart (s : State) (t ns : Nat) (f : Fld) : State :=
  { s.wr f 1 with luts := s.luts.set (Fin.ofNat 20 t) { s.luts[Fin.ofNat 20 t] with until_ := some (s.now + ns) } }

/-- Release a Galley. -/
def State.freeGalley (s : State) (r : Option Nat) : State := match r with | some k => s.dsmFreeRegion k | none => s

/-- The layers that a head's latch makes live: those whose shadow ROUTE.HEAD names it (R127). -/
def State.layersOf (s : State) (h : Nat) : List Nat :=
  (List.range 64).filter fun l => s.hasLayer l && decide (s.rd (LAY_ROUTE_HEAD l) = h)

/-- Make a layer's shadow state live; a Galley kept to this latch is released (R184). One that was live in the commit now taken stays
while a newer one stands in the shadow behind it. -/
def State.latchLayer (s : State) (l : Nat) : State :=
  let keep := (s.lay l).galleyBehind
  let s := s.latchPageLive (layerPage l) (layerShadow l)
  (s.freeGalley (s.lay l).oldGalley).setLay l fun x =>
    { x with oldGalley := if keep then x.midGalley else none, midGalley := if keep then none else x.midGalley, galleyBehind := false }

/-- The synchronisation of the LUTs of a head and of its video layers after a latch (R208). -/
def State.lutsSync (s : State) (h : Nat) : State :=
  let c := s.cmpClock h
  let s := s.lutSyncStart (16 + h) (ceilDiv (6147 * 1000000000 * c.2) (max 1 c.1)) (HEAD_POST_LUT_CTRL_SYNC h)
  ((s.layersOf h).filter fun l => decide (l < 16)).foldl (fun s l => s.lutSyncStart l 1539 (LAY_LUT_CTRL_SYNC l)) s

/-- Take up new staging and output-queue regions (R720). Slugs that still wait in a queue given up are sent as they were written. -/
def State.latchRegions (s : State) (h : Nat) : State :=
  let x := s.hd h
  let s := if x.stageNew.isSome then s.freeGalley x.stage else s
  let lift := fun (p : SheetPort) => p.setQh h fun q => q.map fun g => { g with at_ := none }
  let s := if x.outNew.isSome then { s.freeGalley x.out with sheet := s.sheet.map lift } else s
  s.setHd h fun y => { y with
    stage := y.stageNew.getD y.stage
    out := y.outNew.getD y.out
    outWait := y.outWait || y.outNew.isSome
    stageNew := none
    outNew := none }

/-- The check of the live map, and the ports that serve it (R334, R721). -/
def State.latchMap (s : State) (h : Nat) : State :=
  if s.mapOk h then
    let ports := s.mapPorts h
    s.setHd h fun x => { x with mapBad := false, ports := ports }
  else
    let s := (s.wr (HEAD_CAB_STATUS_MAP_BOUND h) 1).report EV_PROT_BOUND (src 4 h) (detailAddr (s.mapBase h) reqCmp 0)
    s.setHd h fun x => { x with mapBad := true }

/-- Everything of a head becomes live (R221, R233). R245 speaks of a FRAME0 "written since the latch before": a latch that takes no commit
makes nothing live, so that a FRAME0 written stays new until the latch that does (log 60, DESIGN CHOICE). -/
def State.makeLive (s : State) (h : Nat) : State :=
  let p := headPage h
  let s := if s.shadowTimingOk h then s.latchPage p [(0x10, 0x24)] else s.wr (HEAD_STATUS_TIMING_ERR h) 1
  let s := s.latchPageLive p headShadow
  let s := (s.layersOf h).foldl State.latchLayer s
  let s := (s.latchRegions h).latchMap h
  let s := s.setHd h fun x => { x with
    frame0Live := x.frame0Live || x.frame0New
    frame0New := false
    admLive := x.admPend.getD x.admLive
    admPend := none
    skip := 0
    mode := x.mode.map fun m => { m with live := true }
    stopDue := x.stopDue || (x.mode.isSome && x.gen) }
  (s.wr (HEAD_STATUS_COMMIT_PENDING h) 0).setCause (causeHead h 2)

/-! ### Readiness (R132, R133, R351, R358) -/

/-- The layer takes frame `f` of its stream, in buffer `b`, for the coming frame. -/
def State.takeFrame (s : State) (l k f : Nat) (b : Option Nat) : State :=
  let s := s.setLay l fun x => { x with shown := some f, held := b }
  let mark := fun (d : DoneVideo) => if d.num = f then { d with latched := true } else d
  let s := s.setStrm k fun x => { x with newest := x.newest.map mark }
  (s.wr (LAY_STATUS_REPEATING l) 0).wr (LAY_STATUS_DROPPED l) 0

/-- REPEAT for a layer that is not ready. -/
def State.repeatFrame (s : State) (l k : Nat) : State :=
  let x := s.strm k
  let ring := decide (s.lrd (LAY_CTRL_SOURCE l) = 2)
  let any := if ring then x.newest.isSome || x.lastTs.isSome else (s.lay l).shown.isSome
  let s := if ring && any then s.setLay l fun y => { y with shown := some (match x.cur with | some c => c.num | none => x.nextNum) } else s
  (s.wr (LAY_STATUS_REPEATING l) (b2n any)).wr (LAY_STATUS_DROPPED l) (b2n !any)

/-- Whether a layer's WAIT_LINES have run out before now: they run out as the window of its last line ends (R133, R39). -/
def State.waitOver (s : State) (l : Nat) : Bool :=
  match (s.lay l).waiting with
  | some (h, 0) => decide ((s.hd h).winAt < s.now)
  | _ => false

/-- The lines that a WAIT layer still waits: one less (R133). -/
def State.waitLine (s : State) (h l : Nat) : State :=
  match (s.lay l).waiting with
  | some (g, n) =>
    if g = h then
      if n = 0 then (s.repeatFrame l (s.lrd (LAY_CTRL_STREAM l))).setLay l fun x => { x with waiting := none }
      else s.setLay l fun x => { x with waiting := some (g, n - 1) }
    else s
  | none => s

/-- A layer of head `h` latches its source. What it showed of another stream or source kind does not count (R132). -/
def State.latchSource (s : State) (h l : Nat) : State :=
  let kind := s.lrd (LAY_CTRL_SOURCE l)
  let from_ := (kind, s.lrd (LAY_CTRL_STREAM l))
  let s := s.setLay l fun x =>
    let same := decide (x.source = some from_)
    { x with
      waiting := none
      cut := none
      rows := []
      ringMap := []
      source := some from_
      shown := if same then x.shown else none
      held := if same then x.held else none }
  -- a layer that comes back takes up the buffer of the frame that it showed, where that frame is still the newest (R132, R351, log 52)
  let s := if kind = 1 && (s.lay l).held.isNone then
      s.setLay l fun x => match (s.strm (s.lrd (LAY_CTRL_STREAM l))).newest with
        | some d => if x.shown = some d.num then { x with held := d.buf } else { x with shown := none }
        | none => { x with shown := none }
    else s
  if kind = 0 then ((s.wr (LAY_STATUS_READY l) 1).wr (LAY_STATUS_REPEATING l) 0).wr (LAY_STATUS_DROPPED l) 0
  else
    let k := s.lrd (LAY_CTRL_STREAM l)
    let x := s.strm k
    let y := s.lay l
    let fresh := match x.newest with | some d => (match y.shown with | some f => decide (f < d.num) | none => true) | none => false
    let idle := x.cur.isNone
    let s := s.wr (LAY_STATUS_READY l) (b2n (fresh || idle))
    match fresh, x.newest with
    | true, some d =>
      if kind = 2 && idle then s.takeFrame l k x.nextNum none else s.takeFrame l k d.num (if kind = 1 then d.buf else none)
    | _, _ =>
      if idle then
        if kind = 2 then s.takeFrame l k x.nextNum none
        else (s.wr (LAY_STATUS_REPEATING l) 0).wr (LAY_STATUS_DROPPED l) (b2n y.shown.isNone)
      else
        let s := s.count (LAY_NOT_READY_COUNT l) 1
        let pol := s.lrd (LAY_CTRL_READY_POLICY l)
        if pol = 1 then
          let n := s.lrd (LAY_CTRL_WAIT_LINES l) + 1
          (s.setLay l fun z => { z with waiting := some (h, n) }).wr (LAY_STATUS_REPEATING l) 0 |>.wr (LAY_STATUS_DROPPED l) 0
        else if pol = 2 then (s.wr (LAY_STATUS_REPEATING l) 0).wr (LAY_STATUS_DROPPED l) 1
        else s.repeatFrame l k

/-! ### The Forme of the coming frame (R129, R149, R182, R183) -/

/-- A plane of a layer leaves its bound (R112, R149). -/
def State.planeBad (s : State) (l : Nat) : Bool :=
  let f := s.lrd (LAY_CTRL_FORMAT l)
  let w := s.lrd (LAY_SRC_SIZE_W l)
  let h := s.lrd (LAY_SRC_SIZE_H l)
  let p0 := addrOf (s.lrd (LAY_PLANE0_LO_ADDR l)) (s.lrd (LAY_PLANE0_HI_ADDR l))
  let p1 := addrOf (s.lrd (LAY_PLANE1_LO_ADDR l)) (s.lrd (LAY_PLANE1_HI_ADDR l))
  !(s.inDdrDsm p0 && s.rowsOk p0 (s.lrd (LAY_PITCH0_PITCH l) * 64) h (rowBytes0 f w))
    || (twoPlane f && !(s.inDdrDsm p1 && s.rowsOk p1 (s.lrd (LAY_PITCH1_PITCH l) * 64) (rows1 f h) (rowBytes1 f w)))
    || (f == 6 && !(s.inDdrDsm p1 && s.spanOk p1 1024))

/-- A plane's base has no bound for a layer (R112, R149, R715). -/
def State.baseBad (s : State) (l : Nat) : Bool :=
  let f := s.lrd (LAY_CTRL_FORMAT l)
  !s.inDdrDsm (addrOf (s.lrd (LAY_PLANE0_LO_ADDR l)) (s.lrd (LAY_PLANE0_HI_ADDR l))) ||
    ((twoPlane f || f == 6) && !s.inDdrDsm (addrOf (s.lrd (LAY_PLANE1_LO_ADDR l)) (s.lrd (LAY_PLANE1_HI_ADDR l))))

/-- A count of zero, a reserved code or a crop without samples (R149, R158). -/
def State.paramBad (s : State) (e : HeadEntry) : Bool :=
  let l := e.layer
  let f := s.lrd (LAY_CTRL_FORMAT l)
  let kind := s.lrd (LAY_CTRL_SOURCE l)
  decide (s.lrd (LAY_SRC_SIZE_W l) = 0 ∨ s.lrd (LAY_SRC_SIZE_H l) = 0 ∨ s.lrd (LAY_CROP_SIZE_W l) = 0 ∨ s.lrd (LAY_CROP_SIZE_H l) = 0 ∨
    s.lrd (LAY_PITCH0_PITCH l) = 0 ∨ (twoPlane f ∧ s.lrd (LAY_PITCH1_PITCH l) = 0) ∨ e.w = 0 ∨ e.h = 0 ∨ kind = 3 ∨
    (16 ≤ l ∧ kind ≠ 0)) || !fmtOk l f ||
  (decide (l < 16) && decide ((s.axisH l e.w).size = 0 ∨ (s.axisV l e.h).size = 0))

/-- Whether an entry's layer is scaled. -/
def State.entryScaled (s : State) (e : HeadEntry) : Bool :=
  decide (e.layer < 16) && isScaled (s.axisH e.layer e.w) (s.axisV e.layer e.h)

/-- The Galley of a layer: base and length. -/
def State.galleyOf (s : State) (l : Nat) : Nat × Nat :=
  (addrOf (s.lrd (LAY_GALLEY_LO_ADDR l)) (s.lrd (LAY_GALLEY_HI_ADDR l)), 64 * s.lrd (LAY_GALLEY_W_W l))

/-- Whether the Galleys of two layers overlap. -/
def State.galleysMeet (s : State) (l m : Nat) : Bool :=
  let a := s.galleyOf l
  let b := s.galleyOf m
  decide (a.1 < b.1 + b.2 ∧ b.1 < a.1 + a.2)

/-- Whether a Galley lies in one Densum region that LPL may write (R183). -/
def State.galleyIn (s : State) (l : Nat) : Bool :=
  let a := s.galleyOf l
  inDsm a.1 && s.spanOk a.1 a.2 && s.dsmAllowed reqLpl (a.1 - dsmBase) true

/-- Whether another head's latched Forme still holds a layer, composed or made transparent (R126); a head that stands has not latched what
is pending there. -/
def State.elsewhere (s : State) (h l : Nat) : Bool :=
  (List.range 4).any fun g =>
    decide (g ≠ h) && ((s.hd g).gen || s.flag (HEAD_STATUS_COMMIT_PENDING g)) &&
      (s.hd g).entries.any fun e => decide (e.layer = l) && e.routed && !e.away

/-- Entry `k` of a head's live Forme. -/
def State.formeEntry (s : State) (h k : Nat) : HeadEntry :=
  ⟨s.lrd (HEAD_FE_LAYER_LAYER h k), s.lrd (HEAD_FE_POS_X h k), s.lrd (HEAD_FE_POS_Y h k), s.lrd (HEAD_FE_SIZE_W h k),
    s.lrd (HEAD_FE_SIZE_H h k), s.lrd (HEAD_FE_LAYER_BLEND h k), s.lrd (HEAD_FE_LAYER_ALPHA h k), false, false, false, false⟩

/-- Live number of entries (R127). -/
def State.formeCount (s : State) (h : Nat) : Nat := min 24 (s.lrd (HEAD_FORME_CTRL_ENTRIES h))

/-- Whether a Galley that a scaled layer meets overlaps that of a lower-numbered scaled layer of this latch or of a scaled layer that
another head composes (R182). -/
def State.galleyTaken (s : State) (h l : Nat) (es : List HeadEntry) : Bool :=
  es.any (fun e => decide (e.layer < l) && !e.hidden && s.entryScaled e && s.galleysMeet l e.layer) ||
  (List.range 4).any fun g => decide (g ≠ h) && (s.hd g).composing &&
    (s.hd g).entries.any fun e => decide (e.layer ≠ l) && !e.hidden && !e.away && s.entryScaled e && s.galleysMeet l e.layer

/-- The status bits of the live scaler (R167, R171): a step whose destination is 0 has no value, and its register stays. Of a step that
exceeds the 23 bits of H_STEP or V_STEP, which only a layer at expert level can have, the registers show the low 23 bits: the spec gives no
value (log 60, DESIGN CHOICE). -/
def State.scaleRegs (s : State) (e : HeadEntry) : State :=
  let l := e.layer
  let h := s.axisH l e.w
  let v := s.axisV l e.h
  let sc := isScaled h v
  let s := if e.w = 0 then s else (s.wr (LAY_H_STEP_STEP l) h.step).wr (LAY_SCALE_STATUS_H_BYPASS l) (b2n h.bypass)
  let s := if e.h = 0 then s else (s.wr (LAY_V_STEP_STEP l) v.step).wr (LAY_SCALE_STATUS_V_BYPASS l) (b2n v.bypass)
  if e.w = 0 ∨ e.h = 0 then s
  else (s.wr (LAY_SCALE_STATUS_SCALED l) (b2n sc)).wr (LAY_SCALE_STATUS_W_G l) (if sc then e.w else 0)

/-- The checks of an entry but those of its Galley, each made whatever the others find (R149): the entry, whether its Galley is to be
checked, and the state with the status bits set. PROT_BOUND logs the base of plane 0 (log 52). -/
def State.checkEntry (s : State) (h : Nat) (above : List HeadEntry) (e : HeadEntry) : (HeadEntry × Bool) × State :=
  let l := e.layer
  if !s.hasLayer l then (({ e with hidden := true }, false), s)
  else
    let off := decide (s.lrd (LAY_ROUTE_HEAD l) ≠ h ∨ s.lrd (LAY_ROUTE_EN l) = 0)
    let lower := above.any fun x => decide (x.layer = l)
    let p := s.paramBad e
    let sized := decide (s.lrd (LAY_SRC_SIZE_W l) ≠ 0 ∧ s.lrd (LAY_SRC_SIZE_H l) ≠ 0)
    let b := !lower && decide (s.lrd (LAY_CTRL_SOURCE l) = 0) && fmtOk l (s.lrd (LAY_CTRL_FORMAT l)) &&
      (if sized then s.planeBad l else s.baseBad l)
    let mine := !off && !lower
    let s := if off then s.wr (LAY_STATUS_NOT_ROUTED l) 1 else s
    let s := if p then s.wr (LAY_STATUS_PARAM_ERR l) 1 else s
    let s := if mine && decide (l < 16) then s.scaleRegs e else s
    let s := if b then
        (s.wr (LAY_STATUS_BOUND l) 1).report EV_PROT_BOUND (src 3 l)
          (detailAddr (addrOf (s.lrd (LAY_PLANE0_LO_ADDR l)) (s.lrd (LAY_PLANE0_HI_ADDR l))) reqLpl 0)
      else s
    (({ e with hidden := off || lower || p || b, away := s.elsewhere h l, routed := !off }, !lower), s)

/-- All entries with those checks applied, from the bottom of the stack upward. -/
def State.checkEntries (s : State) (h : Nat) : List HeadEntry → List (HeadEntry × Bool) × State
  | [] => ([], s)
  | e :: above =>
    let r := s.checkEntry h above e
    let q := r.2.checkEntries h above
    (r.1 :: q.1, q.2)

/-- The Galley checks of an entry (R182, R183), each made whatever the other finds. -/
def State.checkGalley (s : State) (h : Nat) (es : List HeadEntry) (e : HeadEntry) : HeadEntry × State :=
  let l := e.layer
  if !s.entryScaled e then (e, s)
  else
    let w := s.lrd (LAY_GALLEY_W_W l)
    let short := decide (w = 0 ∨ w < e.w) || s.galleyTaken h l es
    let out := decide (w ≠ 0) && !s.galleyIn l
    let s := if short then s.wr (LAY_STATUS_GALLEY_SHORT l) 1 else s
    let s := if out then (s.wr (LAY_STATUS_BOUND l) 1).report EV_PROT_BOUND (src 3 l) (detailAddr (s.galleyOf l).1 reqLpl 0) else s
    ({ e with hidden := e.hidden || short || out }, s)

/-- The entries of a list with the Galley checks applied, in ascending layer number so that a lower-numbered layer that is itself
transparent takes no Galley away. -/
def State.checkGalleys (s : State) (h : Nat) (es : List (HeadEntry × Bool)) : List HeadEntry × State :=
  (List.range 16).foldl (fun (x : List HeadEntry × State) l =>
    match es.findIdx? fun e => decide (e.1.layer = l) && e.2 with
    | some i =>
      match x.1[i]? with
      | some e => let r := x.2.checkGalley h x.1 e; (x.1.set i r.1, r.2)
      | none => x
    | none => x) (es.map Prod.fst, s)

/-- Whether a visible entry counts as opaque (R129, R201); a WAIT layer that still waits has a frame to show (log 52). -/
def State.solidEntry (s : State) (e : HeadEntry) : Bool :=
  let l := e.layer
  let shows := decide (s.lrd (LAY_CTRL_SOURCE l) = 0) || (s.lay l).shown.isSome || (s.lay l).waiting.isSome
  !e.hidden && !e.away && s.lflag (LAY_CTRL_OPAQUE l) && decide (e.alpha = 65535) && !s.lflag (LAY_KEY_CTRL_EN l) &&
    (!fmtAlpha (s.lrd (LAY_CTRL_FORMAT l)) || s.lflag (LAY_CTRL_ALPHA_ONE l)) && decide (e.blend ≠ 2) &&
    shows && !s.flag (LAY_STATUS_DROPPED l)

/-- A layer that leaves its head's Forme releases its buffer (R351); one that another head has latched already is that head's (R126). -/
def State.dropHeld (s : State) (h : Nat) (old new : List HeadEntry) : State :=
  old.foldl (fun s e =>
    if (new.any fun x => decide (x.layer = e.layer)) || (List.range 4).any (fun g => decide (g ≠ h) &&
        (s.hd g).entries.any fun x => decide (x.layer = e.layer) && x.routed) then s
    else s.setLay e.layer fun x => { x with held := none, waiting := none }) s

/-- Prepare the entries of the coming frame. -/
def State.latchForme (s : State) (h : Nat) : State :=
  let old := (s.hd h).entries
  let r := s.checkEntries h ((List.range (s.formeCount h)).map (s.formeEntry h))
  let g := r.2.checkGalleys h r.1
  let s := (g.1.filter fun e => !e.hidden).foldl (fun s e => s.latchSource h e.layer) g.2
  let es := g.1.map fun e => { e with solid := s.solidEntry e }
  (s.dropHeld h old es).setHd h fun x => { x with entries := es }

/-! ### Write-back (R271 to R277) -/

/-- Write-back format in use; other values act as 0. -/
def State.wbFormat (s : State) (h : Nat) : Nat :=
  let f := s.lrd (HEAD_WB_CTRL_FORMAT h)
  if f = 1 ∨ f = 3 ∨ f = 5 then f else 0

/-- Bytes of a line written back. -/
def wbLineBytes (f w : Nat) : Nat := if f = 5 then 8 * w else 4 * w

/-- BASE of the live write-back. -/
def State.wbBase (s : State) (h : Nat) : Nat := addrOf (s.lrd (HEAD_WB_BASE_LO_ADDR h)) (s.lrd (HEAD_WB_BASE_HI_ADDR h))

/-- Whether a write-back footprint of so many buffers stays in its bound (R43, R44, R276, R715). -/
def State.wbFits (s : State) (base pitch stride buffers lines bytes : Nat) : Bool :=
  s.footIn base base (base + (buffers - 1) * stride + (lines - 1) * pitch + bytes - 1)

/-- The check of write-back at a latch (R276). -/
def State.latchWb (s : State) (h : Nat) : State :=
  let f := s.wbFormat h
  let t := s.liveTiming h
  if f = 0 then s.setHd h fun x => { x with wbOn := false }
  else if s.lrd (HEAD_WB_PITCH_PITCH h) ≠ 0 && s.wbFits (s.wbBase h) (s.lrd (HEAD_WB_PITCH_PITCH h) * 64) (s.lrd (HEAD_WB_STRIDE_STRIDE h) * 64)
      (s.lrd (HEAD_WB_CTRL_BUFFERS h) + 1) t.vActive (wbLineBytes f t.hActive) then s.setHd h fun x => { x with wbOn := true }
  else
    ((s.wr (HEAD_WB_STATUS_BOUND h) 1).report EV_PROT_BOUND (src 4 h) (detailAddr (s.wbBase h) reqCmp 0)).setHd h
      fun x => { x with wbOn := false }

/-! ### The latch -/

/-- Place of a head's response in that of a command. -/
def respAt (c : FwCmd) (h : Nat) : Nat :=
  if c.cmd = 0x0231 then 28 + 32 * ((List.range h).countP fun g => (leAt c.payload 12 1).testBit g)
  else if c.cmd = 0x0240 then 0 else 28

/-- A response with the APPLY_FRAME of a head filled in. -/
def putApply (c : FwCmd) (h frame : Nat) (resp : List Byte) : List Byte :=
  let o := respAt c h
  resp.take o ++ leBytes 4 frame ++ resp.drop (o + 4)

/-- Commands that wait for a commit of a head to come live: fill in its frame number; complete those whose last head this was (R119,
R122, R125). SET_TIMING on a head that stands, where no frame follows, answers 0 (R260, R261). -/
def State.committed (s : State) (h : Nat) (stopped : Bool) : State :=
  let n := s.nextNumber h
  let note := fun (w : Waiting) => match w.kind with
    | .commit hs late resp =>
      let f := if w.cmd.cmd = 0x0301 && stopped then 0 else n % 2 ^ 32
      if h ∈ hs then { w with kind := .commit (hs.filter fun g => g ≠ h) late (putApply w.cmd h f resp) } else w
    | _ => w
  let s := { s with fw := { s.fw with waiting := s.fw.waiting.map note } }
  s.wake fun w => match w.kind with
    | .commit [] late resp => some (if late then stAPPLIED_LATE else stOK, resp)
    | _ => none

/-- A latch of a head, with or without a commit (R233); `t` is the device time at which the coming frame starts. -/
def State.latchHead (s : State) (h : Nat) (take : Bool) (t : Int) : State :=
  let s := if take then s.makeLive h else s
  let s := if take && (s.hd h).mode.isNone then s.chooseFrame0 h t else s
  let s := ((s.lutsSync h).latchForme h).latchWb h
  let s := (s.setCause (causeHead h 1)).setHd h fun x => { x with latchDue := false }
  let s := if take then s.committed h false else s
  s.swapLatch h

/-- A commit reaches a head that is not running: its shadow state becomes live at once (R238). -/
def State.latchStopped (s : State) (h : Nat) : State :=
  let s := (((s.makeLive h).lutsSync h).latchForme h).latchWb h
  s.committed h true

end Sys2Proof.Machine
end

