-- ==== Sys2Proof/Machine/Pll.lean ====
section
/-! DEFINITION. Head PLLs as the firmware and the hardware program them (R610 to R619): choice of VCO and dividers, lock, ramps. -/

namespace Sys2Proof.Machine

/-- A dot rate as a fraction. -/
structure Rate where
  num : Nat
  den : Nat
deriving DecidableEq, Repr

/-- The dot rate of a timing (R219). -/
def Timing.dot (t : Timing) : Rate := ⟨t.hTotal * t.vTotal * t.num, max 1 t.den⟩

/-- Whether two dot rates are equal. -/
def Rate.same (a b : Rate) : Bool := decide (a.num * b.den = b.num * a.den)

/-- A choice of R612: DIV_1, DIV_0; the VCO runs at DIV_1 times half the dot rate. -/
structure PllChoice where
  div1 : Nat
  div0 : Nat
deriving DecidableEq, Repr

/-- Whether DIV_1 gives a VCO in range for a dot rate. -/
def Rate.vcoOk (d : Rate) (k : Nat) : Bool := decide (8000000000 * d.den ≤ k * d.num ∧ k * d.num ≤ 16000000000 * d.den)

/-- The smallest DIV_0 that keeps the compositor at or below a clock in kHz. -/
def Rate.div0 (d : Rate) (k khz : Nat) : Nat := ceilDiv (k * d.num) (2 * d.den * khz * 1000)

/-- Whether choice `a` has a higher compositor clock than `b`: f_cmp is k · dot / (2 · DIV_0). -/
def PllChoice.faster (a b : PllChoice) : Bool := decide (b.div1 * a.div0 < a.div1 * b.div0)

/-- The firmware's choice for a dot rate and a bound in kHz; the lowest VCO among equal compositor clocks (R612). -/
def pllChoice (d : Rate) (khz : Nat) : Option PllChoice :=
  (List.range 1024).foldl (fun best i =>
    let k := i + 1
    let c : PllChoice := ⟨k, d.div0 k khz⟩
    if d.vcoOk k && decide (1 ≤ c.div0 ∧ c.div0 ≤ 1024) then
      match best with
      | none => some c
      | some b => if c.faster b then some c else some b
    else best) none

/-- Feedback for a VCO of DIV_1 times half a dot rate, in units of 2⁻²⁴, rounded to the nearest (R610). -/
def Rate.feedback (d : Rate) (k : Nat) : Nat := (k * d.num * 2 ^ 24 + 156250000 * d.den) / (2 * 156250000 * d.den)

/-- The composition fit of R219 at a choice: H_ACTIVE / (2 f_cmp) + 0.2 µs ≤ T_h. -/
def fitOk (t : Timing) (c : PllChoice) : Bool :=
  let d := t.dot
  -- 1 / (2 f_cmp) = DIV_0 · den / (DIV_1 · num); T_h = den · H_TOTAL / num
  decide (t.hActive * c.div0 * d.den * 5000000 + c.div1 * d.num ≤ d.den * t.hTotal * c.div1 * 5000000)

/-- Lock acquisition starts anew (R614); a ramp ends with it. -/
def State.pllRelock (s : State) (n : Nat) : State :=
  (((s.wr (HPLL_STATUS_LOCKED n) 0).wr (HPLL_STATUS_RAMPING n) 0).wr (HEAD_STATUS_RAMPING n) 0).setPll n fun p => { p with lockSince := if s.flag (HPLL_CTRL_EN n) then some s.now else none, ramp := none }

/-- Power a head PLL up or down. -/
def State.pllPower (s : State) (n : Nat) (on : Bool) : State :=
  if s.flag (HPLL_CTRL_EN n) = on then s
  else (s.wr (HPLL_CTRL_EN n) (b2n on)).pllRelock n

/-- Write dividers and feedback directly (R619). -/
def State.pllProgram (s : State) (n : Nat) (d : Rate) (c : PllChoice) : State :=
  let f := d.feedback c.div1
  let s := (s.wr (HPLL_OUT_DIV n 0) (c.div0 - 1)).wr (HPLL_OUT_DIV n 1) (c.div1 - 1)
  ((s.wr (HPLL_FB_FB_INT n) (f / 2 ^ 24)).wr (HPLL_FRAC_FB_FRAC n) (f % 2 ^ 24)).pllRelock n

/-- GO: run the ramp's segments, unless one of them has a DURATION of 0 (R42, R617). -/
def State.pllRamp (s : State) (n : Nat) : State :=
  if (List.range (s.rd (HPLL_RAMP_CTRL_SEGS n) + 1)).all fun j => s.rd (HPLL_RAMP_DUR_US n j) ≠ 0 then
    let off := s.rampOffset n
    ((s.wr (HPLL_STATUS_RAMPING n) 1).wr (HEAD_STATUS_RAMPING n) 1).setPll n fun p => { p with ramp := some (0, s.now, off), started := s.now }
  else s

/-- Distance of two dot rates, over `a.num * b.den`. -/
def Rate.diff (a b : Rate) : Nat := if a.num * b.den ≤ b.num * a.den then b.num * a.den - a.num * b.den else a.num * b.den - b.num * a.den

/-- The segment of a ramp from one dot rate to another at a rate in ppm/ms: its DURATION in µs and its RATE in 1/16 ppm/ms. A change of
less than half the step of a µs takes 1 µs at a lower rate, so that the step at its end stays below 1 ppm (R618). -/
def rampSeg (a b : Rate) (rate : Nat) : Nat × Nat :=
  let base := a.num * b.den
  let us := (a.diff b * 1000000000 * 2 + base * rate) / (2 * max 1 (base * rate))
  if us = 0 then (1, a.diff b * 16000000000 / max 1 base) else (us, rate * 16)

/-- Whether a change of dot rate exceeds 10,000 ppm. -/
def farRates (a b : Rate) : Bool :=
  decide (b.num * a.den * 100 < a.num * b.den * 99 ∨ a.num * b.den * 101 < b.num * a.den * 100)

/-- Step 4 of a mode change (R259, R618, R619): ramp to the new dot rate, or program the PLL directly; the ramp time in µs, 0 where it is
the lock time. At a RAMP.RATE of 0 the ramp does not start (R42, log 63). -/
def State.pllChange (s : State) (n : Nat) (a b : Rate) (c : PllChoice) : Nat × State :=
  if farRates a b || decide (s.rd (HPLL_OUT_DIV n 0) + 1 ≠ c.div0 ∨ s.rd (HPLL_OUT_DIV n 1) + 1 ≠ c.div1) then
    (0, s.pllProgram n b c)
  else if s.lrd (HEAD_RAMP_RATE n) = 0 then (0, s)
  else
    let g := rampSeg a b (min 2000 (s.lrd (HEAD_RAMP_RATE n)))
    let f := b.feedback c.div1
    let up := decide (a.num * b.den ≤ b.num * a.den)
    let s := (s.wr (HPLL_FB_NEXT_INT_INT n) (f / 2 ^ 24)).wr (HPLL_FB_NEXT_FRAC_FRAC n) (f % 2 ^ 24)
    let s := (s.wr (HPLL_RAMP_RATE_RATE n 0) (wrap 16 (if up then (g.2 : Int) else -(g.2 : Int)))).wr (HPLL_RAMP_DUR_US n 0) g.1
    (g.1, (s.wr (HPLL_RAMP_CTRL_SEGS n) 0).pllRamp n)

/-- Whether a PLL programmed as the registers say is inside R610. -/
def State.pllInRange (s : State) (n : Nat) : Bool :=
  let f := s.rd (HPLL_FB_FB_INT n) * 2 ^ 24 + s.rd (HPLL_FRAC_FB_FRAC n)
  decide (25 * 2 ^ 24 + 10066330 ≤ f ∧ f ≤ 51 * 2 ^ 24 + 3355443)

end Sys2Proof.Machine
end

