-- ==== Sys2Proof/Machine/Head.lean ====
section
/-! DEFINITION. The timing generator of a head (chapter "Heads: raster timing, commit and scan-out"): frame starts and alignment, stops and
restarts, commits and groups, HEADn.CTRL, Reef mode. -/

namespace Sys2Proof.Machine

/-! ### Outputs (R246, R248 to R252) -/

/-- The live FSYNC settings of a head. -/
def State.fsyncLive (s : State) (h : Nat) : FsyncSet :=
  ⟨s.lflag (HEAD_FSYNC_EN h), s.lflag (HEAD_FSYNC_POL h), s.lrd (HEAD_FSYNC_LINE h), s.lrd (HEAD_FSYNC_WIDTH h)⟩

/-- The level of FSYNC_OUTn: settings that a latch makes live act from the next frame start while frames are counted (R234, R248). -/
def State.fsyncHigh (s : State) (h : Nat) : Bool :=
  let x := s.hd h
  let f := if x.gen then x.fs else s.fsyncLive h
  let active := x.gen && f.en && decide (0 < x.pulse)
  if f.pol then !active else active

/-- A change of a head, with the change of FSYNC_OUTn that it causes. -/
def State.withFsync (s : State) (h : Nat) (f : State → State) : State :=
  let t := f s
  if s.fsyncHigh h = t.fsyncHigh h then t else t.emit (.fsync h (t.fsyncHigh h))

/-- Queue a control frame on every port that serves the head (R721); a RELEASE that closes a frame while the next one is prepared already
carries the tag of its own frame. -/
def State.headCtrl (s : State) (h type frame time : Nat) : State :=
  let x := s.hd h
  let c : CtrlFrame := ⟨type, h, if x.early && decide (type ≠ 1) then x.tag - 1 else x.tag, frame, time, s.depth h⟩
  x.ports.foldl (fun s p => s.queueCtrl p c) s

/-! ### Alignment (R242 to R244, R359, R625) -/

/-- Multiplier m of a head in GENLOCK mode (R625). -/
def State.glMult (s : State) (h : Nat) : Nat := max 1 (min 8 (s.rd TSY_GL_MULT_MULT / 16 ^ h % 16))

/-- Frame starts in GENLOCK mode about a device time: t_j + ALIGN_OFFSET + i · P of the edges accepted so far, and of edges to come, one
GENLOCK_PERIOD apart from the last one accepted (R625). -/
def State.genlockStarts (s : State) (h : Nat) (t : Int) : List Int :=
  match s.clocks.edge with
  | none => []
  | some (_, at_, _) =>
    let g : Int := max 1 (s.rd TSY_GENLOCK_PERIOD_NS)
    let off := sext 32 (s.lrd (HEAD_ALIGN_OFFSET_OFFSET h))
    let base : Int := at_ + off
    let j := (t - base) / g
    let seen := s.clocks.edges.map fun (e : Nat) => (e : Int) + off
    let ahead := ([j - 1, j, j + 1].filter fun k => decide (1 ≤ k)).map fun k => base + k * g
    (base :: seen ++ ahead).flatMap fun e => (List.range (s.glMult h)).map fun i =>
      e + (i * s.lrd (HEAD_RATE_DEN_DEN h) * 1000000000 / max 1 (s.lrd (HEAD_RATE_NUM_NUM h)) : Nat)

/-- Frame starts in STREAM mode about a device time: reference times of the stream's frames plus ALIGN_OFFSET (R349, R359). -/
def State.streamStarts (s : State) (h k : Nat) (t : Int) : List Int :=
  let num : Int := max 1 (s.rd (INGS_S_RATE_NUM_NUM k))
  let den : Int := max 1 (s.rd (INGS_S_RATE_DEN_DEN k)) * 1000000000
  let off := sext 32 (s.lrd (HEAD_ALIGN_OFFSET_OFFSET h))
  let n := (t - off) * num / den
  [n - 1, n, n + 1, n + 2].map fun i => off + i * den / num

/-- Frame starts of a head's reference about a device time: none in FREE mode, and in GENLOCK mode before the first edge (R242). -/
def State.refStarts (s : State) (h : Nat) (t : Int) : List Int :=
  match s.lrd (HEAD_ALIGN_SRC h) with
  | 1 => let k := s.slotNear h t; [s.slotAt h (k - 1), s.slotAt h k, s.slotAt h (k + 1)]
  | 2 => s.genlockStarts h t
  | 3 => if s.lrd (HEAD_ALIGN_STREAM h) < 48 then s.streamStarts h (s.lrd (HEAD_ALIGN_STREAM h)) t else []
  | _ => []

/-- Distance of a device time from the nearest of a list of frame starts. -/
def nearErr (t : Int) : List Int → Option Int
  | [] => none
  | a :: l => some (l.foldl (fun e b => if (t - b).natAbs < e.natAbs then t - b else e) (t - a))

/-- Error of a frame start at device time `t`; none in FREE mode and while the reference is lost. -/
def State.alignErr (s : State) (h : Nat) (t : Int) : Option Int :=
  let src := s.lrd (HEAD_ALIGN_SRC h)
  let k := s.lrd (HEAD_ALIGN_STREAM h)
  let lost := (decide (src = 2) && !s.flag TSY_GENLOCK_STATUS_PRESENT) ||
    (decide (src = 3) && !(decide (k < 48) && s.flag (INGS_S_STATUS_RECEIVING k)))
  if lost then none else nearErr t (s.refStarts h t)

/-- Steering of a head PLL after a measured error: a free value between the present one and the end of its range on the side that
reduces the error (R243); a present one outside a range that PULL has narrowed goes to its end. The steering moves there as R616 lets it. -/
def State.steer (s : State) (h : Nat) (e : Int) : State :=
  let lim : Int := min 1000 (s.lrd (HEAD_PULL_PPM h)) * 1000
  let now_ := s.steerNow h
  let cur := max (-lim) (min lim now_)
  let lo := if e < 0 then -lim else cur
  let hi := if 0 < e then lim else cur
  let r := s.freeNat
  (r.2.wr (HPLL_STEER_PPB h) (wrap 32 now_)).setPll h fun p => { p with steerTo := lo + (r.1 : Int) % (hi - lo + 1), steerSince := s.now }

/-- ALIGNED falls (R244). -/
def State.alignLost (s : State) (h : Nat) : State :=
  if s.flag (HEAD_STATUS_ALIGNED h) then
    ((s.wr (HEAD_STATUS_ALIGNED h) 0).setCause (causeHead h 11)).report EV_ALIGN_LOST (src 4 h) 0
  else s

/-- The error of a frame start is known: it is stored, sets or clears ALIGNED, and beyond 4 line windows re-phases the head (R243, R244). A
tolerance of 0 is the error of R42: no error lies within it (log 63). -/
def State.noteErr (s : State) (h : Nat) (e : Int) : State :=
  let s := s.wr (HEAD_ALIGN_ERR_ERR h) (wrap 32 (max (-2147483648) (min 2147483647 e)))
  let tol := s.lrd (HEAD_ALIGN_TOL h)
  let s := if tol ≠ 0 ∧ e.natAbs ≤ tol then s.wr (HEAD_STATUS_ALIGNED h) 1 else s.alignLost h
  let t := (s.hd h).tim
  if 4 * t.den * 1000000000 < e.natAbs * t.num * t.vTotal ∧ s.lflag (HEAD_ALIGN_AUTO_REPHASE h) ∧ ¬ (s.hd h).mode.isSome then
    (s.report EV_REPHASE (src 4 h) 0).setHd h fun x => { x with rephase := true, stopDue := true }
  else s

/-- Measure a frame start against its reference. -/
def State.measure (s : State) (h : Nat) : State :=
  match s.alignErr h s.time.ns with
  | none => (if s.lrd (HEAD_ALIGN_SRC h) = 0 then s.wr (HEAD_ALIGN_ERR_ERR h) 0 else s).alignLost h
  | some e => (s.steer h e).noteErr h e

/-- Device time has been stepped by `d` ns: a head in DEVTIME mode measures the start of its frame anew (R632). -/
def State.measureStep (s : State) (h : Nat) (d : Int) : State :=
  if (s.hd h).gen && decide (s.lrd (HEAD_ALIGN_SRC h) = 1) then
    let s := s.setHd h fun x => { x with frameNs := (x.frameNs + d).toNat }
    match s.alignErr h (s.hd h).frameNs with
    | some e => s.noteErr h e
    | none => s
  else s

/-! ### Frames -/

/-- The live write-back settings of a head. -/
def State.wbLive (s : State) (h : Nat) : WbSet :=
  ⟨s.wbFormat h, s.lflag (HEAD_WB_CTRL_POINT h), s.lrd (HEAD_WB_CTRL_BUFFERS h) + 1, s.wbBase h, s.lrd (HEAD_WB_PITCH_PITCH h) * 64,
    s.lrd (HEAD_WB_STRIDE_STRIDE h) * 64⟩

/-- A frame is prepared for composition: line 0 can be released (R223). -/
def State.prepareFrame (s : State) (h : Nat) (early : Bool) (number : Nat) : State :=
  let t := s.liveTiming h
  let w := s.wbLive h
  s.setHd h fun x => { x with
    ctim := t
    early := early
    composing := true
    frame := number
    tag := x.tag + 1
    staged := x.staged.filter fun m => decide (x.tag < m.tag)
    fetched := x.fetched.filter fun f => decide (x.tag < f.tag)
    stageMin := none
    wb := w
    nextLine := 0
    mapIdx := 0
    doneX := 0
    slugIdx := []
    dead := 0
    slugs := 0
    slackMin := 65535
    slackLine := 0
    bytesMax := 0
    wbWhole := x.wbOn && decide (w.format ≠ 0)
    wbQueued := []
    wbDone := 0
    wbFrame := number }

/-- HEAD_LUT commands that wait for a synchronisation when a frame starts come live later than the frame in which their checks completed
(R122, R215). -/
def State.lutsLate (s : State) (h : Nat) : State :=
  let note := fun (w : Waiting) => match w.kind with
    | .lut t hs _ resp d => if h ∈ hs then { w with kind := .lut t hs true resp d } else w
    | _ => w
  { s with fw := { s.fw with waiting := s.fw.waiting.map note } }

/-- A frame starts (R218, R234, R245, R246): `compose` says whether it is composed. -/
def State.frameStart (s : State) (h : Nat) (compose : Bool) : State :=
  let n := s.frameNumber h s.time.ns
  let t := s.liveTiming h
  let s := if compose && !(s.hd h).early then s.prepareFrame h false n else s
  let f := s.fsyncLive h
  let s := s.setHd h fun x => { x with
    gen := true
    composing := compose
    early := false
    leadWas := if x.gen then x.tim.lead else t.lead
    fs := f
    tim := t
    line := 0
    winAt := s.now
    frameNs := s.time.ns
    frame := n
    counted := true
    lastCounted := n
    frame0Live := false }
  let s := ((s.lutsLate h).setCause (causeHead h 0)).wr (HEAD_STATUS_RUNNING h) (b2n compose)
  let s := if compose then s.headCtrl h 1 n s.time.ns else s
  (s.measure h).dmaRequest (12 + h)

/-! ### Stops (R250, R253, R259, R264, R269, R615) -/

/-- Whether something keeps the timing generator of a head stopped. -/
def State.kept (s : State) (h : Nat) : Bool :=
  !s.flag (HEAD_CTRL_EN h) || s.flag (HEAD_CTRL_HOLD h) || (s.flag (HEAD_STATUS_REEF h) && (s.hd h).deepIn)

/-- Step 4 of a mode change, once the timing generator stands (R259, R618, R619); `old` is the timing that ends. A timing that has not
reached its latch comes live with the restart (R251), so the PLL goes to the shadow timing's rate. -/
def State.modeRamp (s : State) (h : Nat) (old : Timing) : State :=
  match (s.hd h).mode with
  | some m =>
    let d := (if m.live then s.liveTiming h else s.shadowTiming h).dot
    if m.ramped then s
    else
      -- the checks of SET_TIMING have found a choice; where a write at expert level leaves none, the PLL stays as it is
      let r := match pllChoice d m.khz with | some c => s.pllChange h old.dot d c | none => (0, s)
      r.2.setHd h fun x => { x with mode := x.mode.map fun m => { m with holdAt := s.now, rampUs := r.1, ramped := true } }
  | none => s

/-- The timing generator stops. -/
def State.genStop (s : State) (h : Nat) : State :=
  let x := s.hd h
  if x.gen then
    (((s.setHd h fun x => { x with gen := false, latchDue := false, pulse := 0, genDue := false }).bltHeadStops h).swapLatch h).modeRamp h x.tim
  else s

/-- A frame that has been prepared but is not to start: what has been formed of it is discarded. -/
def State.dropEarly (s : State) (h : Nat) : State :=
  let x := s.hd h
  if x.early then
    let cut := fun (p : SheetPort) =>
      { p with qh := p.qh.set (Fin.ofNat 4 h) ((p.qh[Fin.ofNat 4 h]).filter fun g => decide (g.tag < x.tag)) }
    { s with sheet := s.sheet.map cut }.setHd h fun y => { y with tag := y.tag - 1, early := false, nextLine := y.ctim.vActive }
  else s

/-- HOLD goes to the receivers. -/
def State.sendHold (s : State) (h : Nat) : State :=
  let s := if (s.hd h).composing then s.headCtrl h 2 (s.hd h).lastDone 0 else s
  (s.wr (HEAD_STATUS_HOLDING h) 1).wr (HEAD_STATUS_RUNNING h) 0

/-- A ramp of a mode change that DEEP cuts off: the PLL takes the new timing's feedback when it powers up again (R618, R719). -/
def State.rampCut (s : State) (h : Nat) : State :=
  if (s.hd h).mode.isSome && (s.pll h).ramp.isSome then
    (s.wr (HPLL_FB_FB_INT h) (s.rd (HPLL_FB_NEXT_INT_INT h))).wr (HPLL_FRAC_FB_FRAC h) (s.rd (HPLL_FB_NEXT_FRAC_FRAC h))
  else s

/-- The head enters Reef mode (R264); DEEP acts as it stands on entry (R268). -/
def State.enterReef (s : State) (h : Nat) : State :=
  let deep := s.flag (HEAD_CTRL_DEEP h)
  let s := ((s.wr (HEAD_STATUS_REEF h) 1).setCause (causeHead h 4)).setHd h fun x => { x with deepIn := deep }
  if deep then ((s.genStop h).rampCut h).pllPower h false else s

/-- Commands that wait for the head to have stopped complete. -/
def State.stopDone (s : State) (h : Nat) : State :=
  s.wake fun w => match w.kind with | .headStopped g => if g = h then some (stOK, []) else none | _ => none

/-- The head stops at the end of its frame (R250); where it is to run again, its restart counts from here (R251). -/
def State.headStop (s : State) (h : Nat) : State :=
  let s := s.dropEarly h
  let x := s.hd h
  let s := if x.composing then s.sendHold h else s
  let s := s.setHd h fun y => { y with composing := false, early := false, stopDue := false, firstFrame := false }
  let s := if s.flag (HEAD_CTRL_REEF h) && !s.flag (HEAD_STATUS_REEF h) then s.enterReef h else s
  let live := match x.mode with | some m => m.live | none => false
  let s := if s.kept h || live || x.rephase || x.genDue then s.genStop h else s
  let again := !s.kept h && (!s.flag (HEAD_STATUS_REEF h) || x.rephase) && !live
  let s := s.setHd h fun y => { y with rephase := false, genDue := false, restart := if again then some s.now else none }
  s.stopDone h

/-! ### Restarts and releases (R251, R252, R260, R266, R269) -/

/-- A restart is requested. -/
def State.requestRestart (s : State) (h : Nat) : State := s.setHd h fun x => { x with restart := some s.now }

/-- A state in which the timing and alignment under which a head restarts are live: a restart takes a pending commit (R251). -/
def State.restartView (s : State) (h : Nat) : State :=
  if s.flag (HEAD_STATUS_COMMIT_PENDING h) then
    s.latchPage (headPage h) ((if s.shadowTimingOk h then [(0x10, 0x24)] else []) ++ [(0x28, 0x3C)])
  else s

/-- The moment of `now` at which a head whose restart was requested at `t`, or whose PLL locked then, restarts: FETCH_LEAD + 1 line windows
later on the PLL's nominal clock, and there at the first frame start of its reference where it has one (R251; log 54). -/
def State.restartPoint (s : State) (h t : Nat) : Nat :=
  let v := s.restartView h
  let tim := v.liveTiming h
  let c := (156250000 * (s.rd (HPLL_FB_FB_INT h) * 2 ^ 24 + s.rd (HPLL_FRAC_FB_FRAC h)), 2 ^ 24 * (s.rd (HPLL_OUT_DIV h 1) + 1))
  let e := t + tim.windows (tim.lead + 1) c
  let dev : Int := (s.time.ns : Int) + e - s.now
  match (v.refStarts h dev).filter fun a => decide (dev ≤ a) with
  | [] => e
  | a :: l => ((e : Int) + (l.foldl min a - dev)).toNat

/-- Whether a head may restart once its point comes: its PLL is locked, nothing keeps it, and a mode change has made its ramp (R251, R259). -/
def State.restartFree (s : State) (h : Nat) : Bool :=
  s.flag (HPLL_STATUS_LOCKED h) && !s.flag (HPLL_STATUS_RAMPING h) && !s.kept h &&
    match (s.hd h).mode with | some m => m.ramped | none => true

/-- Frame starts of the reference under which a head restarts, about now (R251). -/
def State.restartRefs (s : State) (h : Nat) : List Int := (s.restartView h).refStarts h s.time.ns

/-- Whether a head restarts now: at a frame start of its reference from its point on, or in FREE mode at its point alone (R251). -/
def State.restartReady (s : State) (h : Nat) : Bool :=
  match (s.hd h).restart with
  | some t => s.restartFree h && decide (s.restartPoint h t ≤ s.now) &&
      decide (s.restartPoint h t = s.now ∨ (s.time.ns : Int) ∈ s.restartRefs h)
  | none => false

/-- Whether a head whose generator runs restarts at the frame start of the generator that is now: the first from its point on under a
reference, to which the generator is steered. -/
def State.restartDue (s : State) (h : Nat) : Bool :=
  match (s.hd h).restart with
  | some t => s.restartReady h || (s.restartFree h && decide (s.restartPoint h t ≤ s.now) && !(s.restartRefs h).isEmpty)
  | none => false

/-- SET_TIMING's response after a hold (R260); times in µs are rounded to the nearest, as in the worked example of R719. -/
def modeResp (m : ModeChange) (resp : List Byte) (now : Nat) : List Byte :=
  resp.take 28 ++ leBytes 4 m.frame ++ leBytes 4 ((now - m.holdAt + 500) / 1000) ++ leBytes 4 m.rampUs

/-- A mode change that has restarted its head is complete (R259). -/
def State.modeDone (s : State) (h : Nat) : State :=
  match (s.hd h).mode with
  | some m =>
    if !m.ramped then s
    else
    let s := s.setHd h fun x => { x with mode := none }
    s.wake fun w => match w.kind with
      | .timing g resp => if g = h then some (if m.late then stAPPLIED_LATE else stOK, modeResp m resp s.now) else none
      | _ => none
  | none => s

/-- Commands that wait for the RELEASE of a head, or for its first frame start in Reef mode, complete. -/
def State.releaseDone (s : State) (h : Nat) : State :=
  s.wake fun w => match w.kind with | .headReleased g => if g = h then some (stOK, []) else none | _ => none

/-- The commits that a head's restart makes live were to come live at a latch of the frame in which it stopped: they are late (R122, R125). -/
def State.commitsLate (s : State) (h : Nat) : State :=
  let note := fun (w : Waiting) => match w.kind with
    | .commit hs _ resp => if h ∈ hs then { w with kind := .commit hs true resp } else w
    | _ => w
  { s with fw := { s.fw with waiting := s.fw.waiting.map note } }

/-- The head restarts at a frame start (R251): as a latch, then the first frame. What comes live here only is late. -/
def State.headRestart (s : State) (h : Nat) : State :=
  let compose := !s.flag (HEAD_STATUS_REEF h)
  let s := s.setHd h fun x => { x with mode := x.mode.map fun m => { m with late := m.late || !m.live } }
  let s := ((s.commitsLate h).latchHead h (s.flag (HEAD_STATUS_COMMIT_PENDING h)) s.time.ns).chooseFrame0 h s.time.ns
  let s := s.setHd h fun x => { x with
    restart := none
    firstFrame := compose
    stopDue := false
    rephase := false
    genDue := false
    lastPx := if compose then none else x.lastPx }
  let s := s.frameStart h compose
  let n := (s.hd h).frame
  let s := s.setHd h fun x => { x with mode := x.mode.map fun m => { m with frame := n } }
  if compose then s else (s.modeDone h).releaseDone h

/-- The first frame after a restart has ended: RELEASE (R252). -/
def State.headRelease (s : State) (h : Nat) : State :=
  let s := s.setHd h fun x => { x with firstFrame := false }
  if s.flag (HEAD_STATUS_HOLDING h) then
    let s := s.headCtrl h 3 (s.hd h).lastDone 0
    (((s.wr (HEAD_STATUS_HOLDING h) 0).setCause (causeHead h 3)).modeDone h).releaseDone h
  else (s.modeDone h).releaseDone h

/-! ### Commits (R235 to R241) -/

/-- Whether a commit that reaches a running head now is late (R235). -/
def State.commitIsLate (s : State) (h : Nat) : Bool := decide ((s.hd h).tim.latch ≤ (s.hd h).line)

/-- The head notes a late commit. -/
def State.noteLate (s : State) (h : Nat) : State :=
  if s.commitIsLate h then (s.wr (HEAD_STATUS_COMMIT_LATE h) 1).count (HEAD_COMMIT_LATE_CNT_COUNT h) 1 else s

/-- A latch that is due is performed before what follows it. -/
def State.latchIfDue (s : State) (h : Nat) : State :=
  if (s.hd h).latchDue then s.latchHead h (s.hd h).latchTakes (s.nextStart h) else s

/-- A latch that is due, with the change of FSYNC_OUTn that it causes. -/
def State.preLatch (s : State) (h : Nat) : State := s.withFsync h fun t => t.latchIfDue h

/-- A commit reaches one head (R235, R237, R238). -/
def State.commitHead (s : State) (h : Nat) : State :=
  if (s.hd h).gen then ((s.preLatch h).wr (HEAD_STATUS_COMMIT_PENDING h) 1).noteLate h else s.withFsync h fun t => t.latchStopped h

/-- ns from now to the next latch of a running head; the frame after the present one has the live timing (R234). -/
def State.toLatch (s : State) (h : Nat) : Nat :=
  let x := s.hd h
  let t := x.tim
  let n := s.liveTiming h
  let at_ := if s.commitIsLate h then s.windowsNs h t (t.vTotal - x.line) + s.windowsNs h n n.latch else s.windowsNs h t (t.latch - x.line)
  (x.winAt + at_) - s.now

/-- The heads of a mask. -/
def headsOf (mask : Nat) : List Nat := (List.range 4).filter fun h => mask.testBit h

/-- Whether a group is refused (R241). -/
def State.groupRefused (s : State) (hs : List Nat) : Bool :=
  hs.any fun h => !(s.hd h).gen || s.flag (HEAD_STATUS_COMMIT_PENDING h)

/-- Own latches that a member lets pass before T_g (R239). The times to the latches are known to 2 ns, within which they count as one. -/
def State.groupSkip (s : State) (hs : List Nat) (h : Nat) : Nat :=
  let tg := hs.foldl (fun a g => max a (s.toLatch g)) 0
  let t := s.liveTiming h
  ceilDiv ((tg - s.toLatch h - 2) * t.num) (max 1 t.den * 1000000000)

/-- The latches that are due on the heads of a group come before a commit that reaches it (R236). -/
def State.latched (s : State) (hs : List Nat) : State := hs.foldl (fun t h => if h < t.nHeads then t.preLatch h else t) s

/-- A group is refused whole: every named head says so (R241). -/
def State.refuseGroup (s : State) (hs : List Nat) : State :=
  hs.foldl (fun s h => if h < s.nHeads then s.wr (HEAD_STATUS_GROUP_REFUSED h) 1 else s) s

/-- A group commit reaches its members (R239 to R241): whether it was refused. A member's own commit counts as pending in the cycle of
its latch (coincidences of R241). -/
def State.commitGroup (s : State) (hs : List Nat) : Bool × State :=
  if s.groupRefused hs then (true, (s.latched hs).refuseGroup hs)
  else
    let s := s.latched hs
    (false, hs.foldl (fun t h =>
      let n := s.groupSkip hs h
      ((t.wr (HEAD_STATUS_COMMIT_PENDING h) 1).setHd h fun x => { x with skip := n }).noteLate h) s)

/-- A write of HEADn.COMMIT (R239). -/
def State.commitWrite (s : State) (h go group : Nat) : State :=
  if go = 0 then s else if group = 0 then s.commitHead h else (s.commitGroup (headsOf group)).2

/-! ### HEADn.CTRL (R253, R263 to R270) -/

/-- Start a head (R269). -/
def State.headStart (s : State) (h : Nat) : State :=
  let s := (s.wr (HEAD_CTRL_EN h) 1).wr (HEAD_STATUS_HOLDING h) 1
  if s.flag (HEAD_STATUS_REEF h) && (s.hd h).deepIn then s else (s.pllPower h true).requestRestart h

/-- Stop a head (R269). -/
def State.headOff (s : State) (h : Nat) : State :=
  let s := (s.wr (HEAD_CTRL_EN h) 0).setHd h fun x => { x with restart := none }
  if (s.hd h).composing then s.setHd h fun x => { x with stopDue := true } else s.withFsync h fun t => t.genStop h

/-- Enter Reef mode (R264): at the end of the frame, or at once when the head composes nothing. -/
def State.reefEnter (s : State) (h : Nat) (deep : Bool) : State :=
  let s := (s.wr (HEAD_CTRL_REEF h) 1).wr (HEAD_CTRL_DEEP h) (b2n deep)
  if s.flag (HEAD_STATUS_REEF h) then s
  else if (s.hd h).composing then s.setHd h fun x => { x with stopDue := true }
  else s.withFsync h fun t => t.enterReef h

/-- Leave Reef mode (R266); on a head under a mode change, the restart of that change comes (R259, R719), and where it has been requested
already, it counts from here (R251). -/
def State.reefExit (s : State) (h : Nat) : State :=
  let s := s.wr (HEAD_CTRL_REEF h) 0
  if s.flag (HEAD_STATUS_REEF h) then
    let s := if (s.hd h).deepIn then s.pllPower h true else s
    let s := (s.wr (HEAD_STATUS_REEF h) 0).setHd h fun x => { x with deepIn := false }
    if s.kept h || ((s.hd h).mode.isSome && (s.hd h).restart.isNone) then s else s.requestRestart h
  else s

/-- A write of HOLD (R253). -/
def State.headHold (s : State) (h : Nat) (on : Bool) : State :=
  let was := s.flag (HEAD_CTRL_HOLD h)
  let s := s.wr (HEAD_CTRL_HOLD h) (b2n on)
  if on && !was then
    if (s.hd h).composing then s.setHd h fun x => { x with stopDue := true, genDue := true } else s.withFsync h fun t => t.genStop h
  else if was && !on && !s.kept h then s.requestRestart h
  else s

/-- A write of EN (R270). -/
def State.headEn (s : State) (h : Nat) (on : Bool) : State :=
  if on then (if s.flag (HEAD_CTRL_EN h) || s.flag (HEAD_STATUS_DSM_BLOCK h) then s else s.headStart h)
  else if s.flag (HEAD_CTRL_EN h) then s.headOff h else s

/-- A write of HEADn.CTRL as a whole: HOLD, then EN, then DEEP and REEF. -/
def State.headCtrlWrite (s : State) (h : Nat) (en reef deep hold : Bool) : State :=
  let s := (s.headHold h hold).headEn h en
  if reef then
    if s.flag (HEAD_CTRL_REEF h) then s.wr (HEAD_CTRL_DEEP h) (b2n deep) else s.reefEnter h deep
  else
    let s := if s.flag (HEAD_CTRL_REEF h) then s.reefExit h else s
    s.wr (HEAD_CTRL_DEEP h) (b2n deep)

/-! ### Loss of lock (R615) -/

/-- The PLL of a running head loses lock: the head stops at once. -/
def State.headUnlock (s : State) (h : Nat) : State :=
  if (s.hd h).gen then
    let s := s.withFsync h fun s =>
      let s := (s.dropEarly h).sendHold h
      -- the frame that was cut is not written back whole (R275)
      let s := if (s.hd h).composing && (s.hd h).wbOn && decide ((s.hd h).wb.format ≠ 0 ∧ (s.hd h).wbDone < (s.hd h).ctim.vActive) then
          (s.wr (HEAD_WB_STATUS_INCOMPLETE h) 1).setHd h fun x => { x with wbWhole := false }
        else s
      let s := (s.setHd h fun x => { x with composing := false, early := false, stopDue := false, firstFrame := false }).genStop h
      -- a head that was to enter Reef mode at the end of this frame enters it with this stop (R264)
      if s.flag (HEAD_CTRL_REEF h) && !s.flag (HEAD_STATUS_REEF h) then s.enterReef h else s
    let s := ((s.setCause (causeTsy h)).report EV_HEAD_PLL_UNLOCK (src 4 h) 0).stopDone h
    if s.flag (HEAD_STATUS_EXPERT h) || s.kept h then s else s.requestRestart h
  else s

end Sys2Proof.Machine
end

