-- ==== Sys2Proof/Machine/Scan.lean ====
section
/-! DEFINITION. Line windows and scan-out: fetch, release, completion, slack, underrun, slugs, write-back, and the events of a head's clock
(R222 to R232, R271 to R276, R294 to R299, R335, R354 to R357). -/

namespace Sys2Proof.Machine

/-! ### What a line needs (R222, R228, R130, R355) -/

/-- Last row of the crop that an entry needs for raster line `y`. A scaled layer that overhangs the raster is fetched whole with the last
active line (R149); one that is bypassed vertically carries the lead of 3 rows all the same (R29, R167). -/
def State.lastRow (s : State) (h : Nat) (e : HeadEntry) (y : Nat) : Nat :=
  if s.entryScaled e then
    let v := s.axisV e.layer e.h
    let m := if v.bypass then min (y - e.y + 3) (v.size - 1) else v.clamp (v.n (y - e.y) + 3)
    let m := if y + 1 = (s.hd h).ctim.vActive then v.size - 1 else m
    m * v.d + v.d - 1
  else y - e.y

/-- Rows that line `y` needs and no line before it: from the first to before the second. -/
def State.newRows (s : State) (h : Nat) (e : HeadEntry) (y : Nat) : Nat × Nat :=
  (if y ≤ e.y then 0 else s.lastRow h e (y - 1) + 1, s.lastRow h e y + 1)

/-- The last chroma row that a source row of a 4:2:0 format reads (R160, R161). -/
def Src.chromaTo (c : Src) (row : Nat) : Nat := min ((c.cropY + c.cropH - 1) / 2) (row / 2 + row % 2)

/-- The chroma rows that source rows `a` to before `b` read and no row before them. -/
def Src.chromaRows (c : Src) (a b : Nat) : List Nat :=
  if b ≤ a then []
  else if is420 c.fmt then
    let lo := if a ≤ c.cropY then c.cropY / 2 else c.chromaTo (a - 1) + 1
    (List.range (c.chromaTo (b - 1) + 1 - lo)).map (lo + ·)
  else (List.range (b - a)).map (a + ·)

/-- Whether an entry is composed on a line. -/
def State.onLine (s : State) (e : HeadEntry) (y : Nat) : Bool :=
  s.isShown e && decide (e.y ≤ y ∧ y < e.y + (s.extent e).2)

/-- Whether something of an entry is fetched with a line: it is composed there, or it is a scaled one wholly below the raster, which comes
with the last active line (R149). -/
def State.fetchedOn (s : State) (h : Nat) (e : HeadEntry) (y : Nat) : Bool :=
  let t := (s.hd h).ctim
  (s.lay e.layer).waiting.isNone && (s.onLine e y || (s.isShown e && s.entryScaled e && decide (t.vActive ≤ e.y ∧ y + 1 = t.vActive)))

/-- Whether an unscaled entry is culled in a tile (R130). -/
def State.culled (s : State) (h : Nat) (above : List HeadEntry) (tx ty : Nat) : Bool :=
  above.any fun e => e.solid && s.isShown e && s.coversTile (s.hd h).ctim e tx ty

/-- Column of the byte at an offset in a row of plane 0, or of plane 1. -/
def byteCol (f : Nat) (chroma : Bool) (b : Nat) : Nat :=
  if chroma then (if f = 0x12 then b / 2 * 2 else b / 4 * 2) else b * 12 / max 1 (rowBytes0 f 12)

/-- The 64 B lines that a segment of a row touches. -/
def segLines (base first len : Nat) : List Nat :=
  if len = 0 then [] else (List.range ((base + first + len - 1) / 64 + 1 - (base + first) / 64)).map fun i => ((base + first) / 64 + i) * 64

/-- The segment of a row that the crop takes, in plane 0 or plane 1: first byte and length. -/
def Src.segment (c : Src) (chroma : Bool) : Nat × Nat :=
  if chroma then (rowBytes1 c.fmt c.cropX, rowBytes1 c.fmt (c.cropX + c.cropW) - rowBytes1 c.fmt c.cropX)
  else (rowBytes0 c.fmt c.cropX, rowBytes0 c.fmt (c.cropX + c.cropW) - rowBytes0 c.fmt c.cropX)

/-- Whether every tile in which a line of a row is used is culled: the raster lines `ys` read the row, and chroma reaches two columns to
either side (R130, R131; log 53). -/
def Src.lineCulled (c : Src) (cull : Nat → Nat → Bool) (e : HeadEntry) (chroma : Bool) (ys : List Nat) (rowBase la : Nat) : Bool :=
  let g := c.segment chroma
  let reach := if chroma || decide (c.fmt = 0x10 ∨ c.fmt = 0x11) then 2 else 0
  let lo := max c.cropX (byteCol c.fmt chroma (max la (rowBase + g.1) - rowBase) - reach) - c.cropX
  let hi := min (c.cropX + c.cropW - 1) (byteCol c.fmt chroma (min (la + 63) (rowBase + g.1 + g.2 - 1) - rowBase) + reach + b2n (0 < reach)) - c.cropX
  ys.all fun y => (List.range ((e.x + hi) / 64 + 1 - (e.x + lo) / 64)).all fun i => cull ((e.x + lo) / 64 + i) (y / 16)

/-- The raster lines of an unscaled entry that read a chroma row. -/
def Src.chromaUsers (c : Src) (e : HeadEntry) (k : Nat) : List Nat :=
  if is420 c.fmt then
    ((List.range 4).map fun i => 2 * k + i).filterMap fun r =>
      if c.cropY + 1 ≤ r ∧ r ≤ c.cropY + c.cropH then some (e.y + (r - 1 - c.cropY)) else none
  else [e.y + (k - c.cropY)]

/-- The lines of one row of an unscaled entry that are read, or of a scaled one, which is always fetched whole (R130). -/
def Src.rowLines (c : Src) (thin : Bool) (cull : Nat → Nat → Bool) (e : HeadEntry) (chroma : Bool) (ys : List Nat) (rowBase : Nat) : List Nat :=
  let g := c.segment chroma
  (segLines rowBase g.1 g.2).filter fun la => !(thin && c.lineCulled cull e chroma ys rowBase la)

/-- The lines that an entry fetches for raster line `y`. -/
def State.entryLines (s : State) (h : Nat) (above : List HeadEntry) (e : HeadEntry) (y : Nat) : List Nat :=
  let src := s.source e.layer
  let c := src.1
  let r := s.newRows h e y
  let thin := !s.entryScaled e
  let cull := s.culled h above
  ((List.range (r.2 - r.1)).flatMap fun i => c.rowLines thin cull e false [y] (c.row0 (src.2 (c.cropY + r.1 + i)))) ++
  (if twoPlane c.fmt then
    (c.chromaRows (c.cropY + r.1) (c.cropY + r.2)).flatMap fun k =>
      c.rowLines thin cull e true (c.chromaUsers e k) (c.p1 + src.2 k * c.pitch1)
  else [])

/-- The lines of an entry's palette, which come with each of its lines and are charged to none (R144). -/
def State.paletteLines (s : State) (e : HeadEntry) : List Nat :=
  let c := (s.source e.layer).1
  if c.fmt = 6 then segLines c.p1 0 1024 else []

/-- An entry with those above it. -/
def withAbove : List HeadEntry → List (HeadEntry × List HeadEntry)
  | [] => []
  | e :: t => (e, t) :: withAbove t

/-- Tiles of an entry that are skipped when its first line in a row of tiles is fetched (R130). -/
def State.skipped (s : State) (h : Nat) (above : List HeadEntry) (e : HeadEntry) (y : Nat) : Nat :=
  if s.entryScaled e || decide (y ≠ max e.y (y / 16 * 16)) then 0
  else
    let w := (s.extent e).1
    let last := (min (e.x + w) (s.hd h).ctim.hActive - 1) / 64
    (List.range (last + 1 - e.x / 64)).countP fun i => s.culled h above (e.x / 64 + i) (y / 16)

/-- Gain lines that a line needs: those of the live map's entries with CAL_EN (R222). -/
def State.calLines (s : State) (h y : Nat) : List Nat :=
  (List.range (s.mapCount h)).flatMap fun i =>
    let e := (s.mapEntry h i).1
    if e.onLine (s.hd h).ctim y && e.cal && !(s.hd h).mapBad then segLines (e.calBase + (y - e.y) * e.calPitch) 0 (4 * e.w) else []

/-- The lowest place in a head's staging region that holds no staged line (R22, R720; log 40). -/
def State.stagePlace (s : State) (h : Nat) : Option Nat :=
  match (s.hd h).stage with
  | none => none
  | some k =>
    let r := s.regionSpan k
    let used := (s.hd h).staged.filterMap StagedLine.at_
    ((List.range ((r.2 - r.1) / 64)).map fun i => dsmBase + r.1 + 64 * i).find? fun a => !used.contains a

/-- The DDR5 port of a head's accesses: its layers' fetch, and its gain words and write-back (R531). -/
def headPort (h req : Nat) : DdrWho := if req = reqLpl then .rt h else .rt (4 + h)

/-- Lines are read and staged for a frame and a layer: they stand in the head's staging region (R22, R222). -/
def State.stageLines (s : State) (h tag layer req : Nat) (las : List Nat) : State :=
  las.foldl (fun s a =>
    let r := s.lineReadAs (headPort h req) req a
    let p := r.2.stagePlace h
    let s := match p with | some x => (r.2.lineWrite req x (r.1.data.map some) r.1.poison).2 | none => r.2
    s.setHd h fun x => { x with staged := ⟨tag, layer, a, r.1.data, r.1.poison, p⟩ :: x.staged }) s

/-- The compositor reads what is staged for its frame from the staging region, as it stands there now (R22, R222). -/
def State.loadStaged (s : State) (h : Nat) : State :=
  let r := (s.hd h).staged.foldl (fun (x : List StagedLine × State) m =>
    match (if m.tag = (s.hd h).tag then m.at_ else none) with
    | some a =>
      let q := x.2.lineRead (if m.layer = 64 then reqCmp else reqLpl) a
      ({ m with data := q.1.data, poison := q.1.poison } :: x.1, q.2)
    | none => (m :: x.1, x.2)) ([], s)
  r.2.setHd h fun x => { x with staged := r.1.reverse }

/-- Whether an entry's layer reads a line ring. -/
def State.fromRing (s : State) (e : HeadEntry) : Bool := decide (s.lrd (LAY_CTRL_SOURCE e.layer) = 2)

/-- The state in which what a frame needs is reckoned: the frame that has not started has the raster that starts with it (R234). -/
def State.fetchView (s : State) (h tag : Nat) : State :=
  if (s.hd h).tag = tag then s else s.setHd h fun x => { x with ctim := s.liveTiming h }

/-- The lines that the fetchers read of an entry for a line of a frame, its palette's with them; those of a line ring are read when they
are due. -/
def State.fetchLines (s : State) (h tag y : Nat) (p : HeadEntry × List HeadEntry) : List Nat :=
  let v := s.fetchView h tag
  if v.fromRing p.1 then [] else v.entryLines h p.2 p.1 y ++ v.paletteLines p.1

/-- What the fetchers read of an entry for a line. -/
def State.fetchEntry (s : State) (h tag y : Nat) (p : HeadEntry × List HeadEntry) : State :=
  (s.count (LAY_CULLED_TILES_COUNT p.1.layer) ((s.fetchView h tag).skipped h p.2 p.1 y)).stageLines h tag p.1.layer reqLpl
    (s.fetchLines h tag y p)

/-- Whether a LINERING layer is composed on a line. -/
def State.ringLine (s : State) (h y : Nat) : Bool := (s.hd h).entries.any fun e => s.fromRing e && s.onLine e y

/-- Pair cycles that have passed since the current line window of a head started. -/
def State.pairsGone (s : State) (h : Nat) : Nat :=
  let x := s.hd h
  (s.now - x.winAt) * x.tim.hTotal * x.tim.vTotal * x.tim.num / (2 * max 1 x.tim.den * 1000000000)

/-- Lines that are read for line `y` of a frame: those in DDR5 count for the line (R228), and the last of them sets its staging margin
(R227), `till` line windows before its release; the windows of the frame to come have its own length. -/
def State.noteFetch (s : State) (h tag y : Nat) (till : Int) (las : List Nat) : State :=
  let x := s.hd h
  let bytes := 64 * las.countP fun a => s.inDdr a
  let left : Int := (x.tim.vTotal - x.line : Nat)
  let pairs : Int :=
    if tag = x.tag || decide (till ≤ left) then till * (x.tim.hTotal / 2 : Nat)
    else left * (x.tim.hTotal / 2 : Nat) + (till - left) * ((s.liveTiming h).hTotal / 2 : Nat)
  let old := (x.fetched.find? fun f => decide (f.tag = tag ∧ f.line = y)).getD ⟨tag, y, 0, none⟩
  let margin := if bytes = 0 then old.margin else some (pairs - s.pairsGone h)
  s.setHd h fun x =>
    { x with fetched := ⟨tag, y, old.bytes + bytes, margin⟩ :: x.fetched.filter fun f => decide (f.tag ≠ tag ∨ f.line ≠ y) }

/-- The fetchers read what line `y` of a frame needs, `ahead` line windows before window `y`. -/
def State.fetchLine (s : State) (h tag y ahead : Nat) : State :=
  let v := s.fetchView h tag
  let es := (withAbove (s.hd h).entries).filter fun p => v.fetchedOn h p.1 y
  let cal := v.calLines h y
  let till : Int := (ahead : Int) - if s.ringLine h y then 0 else 1
  let t := s.noteFetch h tag y till (es.flatMap (fun p => s.fetchLines h tag y p) ++ cal)
  ((es.foldl (fun s p => s.fetchEntry h tag y p) t).stageLines h tag 64 reqCmp cal).panicUpdate

/-- The same for a line that has not been fetched before. -/
def State.fetchOnce (s : State) (h tag y ahead : Nat) : State :=
  if (s.hd h).fetched.any fun f => decide (f.tag = tag ∧ f.line = y) then s else s.fetchLine h tag y ahead

/-- The fetch of line window `w`: line w + FETCH_LEAD, of this frame or of the next (R222). The first FETCH_LEAD lines of a frame are fetched
with the lead of the frame before (R234). -/
def State.fetchWindow (s : State) (h w : Nat) : State :=
  let x := s.hd h
  let lead := x.tim.lead
  let ys := (if w + x.leadWas < lead then [w + x.leadWas] else []) ++ (if x.leadWas ≤ w + lead then [w + lead] else [])
  ys.foldl (fun s y =>
    if y < x.tim.vTotal then (if x.composing && decide (y < x.ctim.vActive) then s.fetchOnce h x.tag y (y - w) else s)
    else if x.composing && !x.stopDue && decide (y - x.tim.vTotal < (s.liveTiming h).vActive) then
      s.fetchOnce h (x.tag + 1) (y - x.tim.vTotal) (y - w)
    else s) s

/-- At the start of a frame, layers that no other head composes any longer are shown (R126); what has been passed over of them is fetched. -/
def State.admitAway (s : State) (h : Nat) : State :=
  let was := (s.hd h).entries
  let es := was.map fun e => { e with away := e.away && s.elsewhere h e.layer }
  if es = was then s
  else
    let s := s.setHd h fun x => { x with entries := es }
    let es := es.map fun e => { e with solid := s.solidEntry e }
    let s := s.setHd h fun x => { x with entries := es }
    let back := (withAbove es).filter fun p => !p.1.away && was.any fun e => decide (e.layer = p.1.layer) && e.away
    (List.range (min (s.hd h).leadWas (s.hd h).ctim.vActive)).foldl (fun s y =>
      (back.filter fun p => s.fetchedOn h p.1 y).foldl (fun s p =>
        (s.noteFetch h (s.hd h).tag y ((y : Int) - if s.ringLine h y then 0 else 1) (s.fetchLines h (s.hd h).tag y p)).fetchEntry h
          (s.hd h).tag y p) s) s

/-! ### Release (R223, R224, R355) -/

/-- Whether the line that the compositor is to compose next has been released. Line 0 of a frame that has not started waits for it where a
layer of it is still away (R126). -/
def State.released (s : State) (h : Nat) : Bool :=
  let x := s.hd h
  let y := x.nextLine
  let ring := s.ringLine h y
  let away := x.entries.any fun e => e.away && !e.hidden && decide (e.y ≤ y ∧ y < e.y + e.h)
  -- a WAIT layer that latches too late for a line holds it back (R134)
  let waits := x.entries.any fun e => (s.lay e.layer).waiting.isSome && s.onLine e y
  x.composing && decide (y < x.ctim.vActive) && !waits &&
    (if x.early then !ring && !away && decide (y = 0) else decide (y ≤ x.line + if ring then 0 else 1))

/-! ### Rows of a line ring (R135, R355 to R357) -/

/-- The LINERING entries of a line. -/
def State.ringEntries (s : State) (h y : Nat) : List HeadEntry := (s.hd h).entries.filter fun e => s.fromRing e && s.onLine e y

/-- The rows of a line ring that are due for a line and have not been read. -/
def State.dueRows (s : State) (h : Nat) (e : HeadEntry) (y : Nat) : List Nat :=
  let r := s.newRows h e y
  let cy := s.lrd (LAY_CROP_POS_Y e.layer)
  ((List.range (r.2 - r.1)).map fun i => cy + r.1 + i).filter fun row => ((s.lay e.layer).ringMap.lookup row).isNone

/-- A due row is read: as written, as its slot stands after a lap, or after its cut-off as R135 states. -/
def State.readRow (s : State) (h y : Nat) (above : List HeadEntry) (e : HeadEntry) (row : Nat) : State :=
  let l := e.layer
  let k := s.lrd (LAY_CTRL_STREAM l)
  let st := s.ringDue l k row
  let src := s.source l
  let c := src.1
  let slot := src.2 row
  let got := s.ringRow l k row
  let thin := !s.entryScaled e
  let cull := s.culled h above
  let las := c.rowLines thin cull e false [y] (c.row0 slot) ++
    (if twoPlane c.fmt then c.rowLines thin cull e true [y] (c.p1 + slot * c.pitch1) else [])
  let s := (s.count (INGS_LATE_LINES_COUNT k) (b2n (decide (st = 1)))).count (INGS_RING_LAP_COUNT k) (b2n (decide (st = 2)))
  (s.setLay l fun x => { x with ringMap := (row, got) :: x.ringMap }).stageLines h (s.hd h).tag l reqLpl las

/-- The due rows of the line that is next are read where they have been written, or where the cut-off has passed (R356): at the line's
release, and again at the cut-off. -/
def State.readDue (s : State) (h : Nat) : State :=
  let y := (s.hd h).nextLine
  if s.released h then
    ((withAbove (s.hd h).entries).filter fun p => s.fromRing p.1 && s.onLine p.1 y).foldl (fun s p =>
      (s.dueRows h p.1 y).foldl (fun s row =>
        if s.ringDue p.1.layer (s.lrd (LAY_CTRL_STREAM p.1.layer)) row ≠ 1 ∨ (s.lay p.1.layer).cut = some y then s.readRow h y p.2 p.1 row else s) s) s
  else s

/-- Whether the compositor waits for a due row before its cut-off. -/
def State.rowWait (s : State) (h y : Nat) : Bool := (s.ringEntries h y).any fun e => !(s.dueRows h e y).isEmpty

/-- The moment of `now` of the cut-off of rows due for the line of the current window (R356). -/
def State.cutoffAt (s : State) (h : Nat) : Nat :=
  let x := s.hd h
  let c := s.cmpClock h
  x.winAt + s.windowsNs h x.tim 1 - (x.ctim.hActive * c.2 * 1000000000 / (2 * max 1 c.1) + 200)

/-- The cut-off of the rows due for a line passes: whatever of them has not been read is read as it stands (R135, R356). -/
def State.cutOff (s : State) (h y : Nat) : State :=
  ((s.ringEntries h y).foldl (fun s e => s.setLay e.layer fun z => { z with cut := some y }) s).readDue h

/-- Whether the cut-off of the line that is next has passed. -/
def State.cutOffPast (s : State) (h : Nat) : Bool :=
  s.released h && decide ((s.hd h).nextLine < (s.hd h).line ∨ s.cutoffAt h < s.now)

/-- The cut-off of the line that is next, where its moment has passed: it comes before what happens now (R39, R40). -/
def State.cutOffs (s : State) (h : Nat) : State := if s.cutOffPast h then s.cutOff h (s.hd h).nextLine else s

/-! ### Galleys (R167, R169, R181) -/

/-- A pixel as a Galley holds it: 8 bytes, alpha first (R181; the order within the 8 B is the model's: log 40, DESIGN CHOICE). -/
def Px.bytes (p : Px) : List Byte := leBytes 2 p.a ++ leBytes 2 p.c0 ++ leBytes 2 p.c1 ++ leBytes 2 p.c2

/-- Where a row of a Galley stands: the 8 rows lie one after the other, row `r` in place `r` mod 8 (R181; log 40, DESIGN CHOICE). -/
def State.galleyRow (s : State) (l w r : Nat) : Nat := (s.galleyOf l).1 + r % 8 * (8 * w)

/-- The lines that hold `len` bytes from an address on, as the fetchers read them: bytes and poison of each. -/
def State.lplLines (s : State) (a len : Nat) : List (List Byte × Bool) × State :=
  if len = 0 then ([], s)
  else
    (List.range ((a + len - 1) / 64 + 1 - a / 64)).foldl (fun (x : List (List Byte × Bool) × State) i =>
      let y := x.2.lineRead reqLpl ((a / 64 + i) * 64)
      (x.1 ++ [(y.1.data, y.1.poison)], y.2)) ([], s)

/-- A row of a Galley from the lines that hold it, `o` bytes in: a pixel in a poisoned line is marked (R136). -/
def galleyPixels (o : Nat) (q : List (List Byte × Bool)) (row : Nat × List Px) : Nat × List Px :=
  (row.1, row.2.zipIdx.map fun p =>
    let b := o + 8 * p.2
    let c := q.getD (b / 64) ([], true)
    let at_ := fun (k : Nat) => leAt c.1 (b % 64 + k) 2
    ⟨at_ 0, at_ 2, at_ 4, at_ 6, p.1.bad || c.2⟩)

/-- A row of a Galley as Densum holds it. -/
def State.readGalley (s : State) (l w : Nat) (row : Nat × List Px) : (Nat × List Px) × State :=
  let a := s.galleyRow l w row.1
  let q := s.lplLines a (8 * w)
  (galleyPixels (a % 64) q.1 row, q.2)

/-- Rows of a Galley, those from row `from_` on as Densum holds them where `back` says so. -/
def State.galleyRows (s : State) (l w from_ : Nat) (back : Bool) (rows : List (Nat × List Px)) : List (Nat × List Px) × State :=
  rows.foldl (fun (x : List (Nat × List Px) × State) r =>
    if back && decide (from_ ≤ r.1) then let y := x.2.readGalley l w r; (x.1 ++ [y.1], y.2) else (x.1 ++ [r], x.2)) ([], s)

/-- The rows of an entry's Galley that line `y` needs are written, from what has been staged, and those of them that the vertical filter
reads are read back, once a line; the Galley holds the last 8 (R181). -/
def State.fillGalley (s : State) (h y : Nat) (e : HeadEntry) : State :=
  let l := e.layer
  let src := s.source l
  let v := s.axisV l e.h
  let ax := s.axisH l e.w
  let m := s.stagedOf h l
  let upTo := if v.bypass then min (y - e.y) (v.size - 1) else v.clamp (v.n (y - e.y) + 3)
  let from_ := if v.bypass then upTo else v.clamp (v.n (y - e.y) - 2)
  let first := match (s.lay l).rows.head? with | some r => r.1 + 1 | none => 0
  let rows := (List.range (upTo + 1 - first)).map fun i =>
    (first + i, (List.range e.w).map fun x => s.galleyPx m l src.1 src.2 ax v x (first + i))
  let s := rows.foldl (fun s r => (s.memWrite reqLpl (s.galleyRow l e.w r.1) (r.2.flatMap Px.bytes) false).2) s
  let keep := (rows.reverse ++ (s.lay l).rows).take 8
  let q := s.galleyRows l e.w from_ (decide ((s.hd h).mapIdx = 0)) keep
  q.2.setLay l fun x => { x with rows := q.1 }

/-- The Galleys of a line's scaled entries take the rows that it needs. -/
def State.fillGalleys (s : State) (h y : Nat) : State :=
  ((s.hd h).entries.filter fun e => s.onLine e y && s.entryScaled e).foldl (fun s e => s.fillGalley h y e) s

/-! ### Slugs of a line (R294 to R297, R335) -/

/-- The lowest place in a head's output queue that so many bytes fit in beside the payloads that wait there (log 40). -/
def State.outPlace (s : State) (h bytes : Nat) : Option Nat :=
  match (s.hd h).out with
  | none => none
  | some k =>
    let r := s.regionSpan k
    let used := (s.waitingSlugs h).filterMap fun g => g.at_.map fun a => (a, a + (g.body.length - 16))
    ((dsmBase + r.1) :: used.map Prod.snd).find? fun o =>
      decide (o + bytes ≤ dsmBase + r.2) && used.all fun u => decide (o + bytes ≤ u.1 ∨ u.2 ≤ o)

/-- Whether a new output queue still waits for the slugs of the frame before (R720). -/
def State.outHeld (s : State) (h : Nat) : Bool :=
  (s.hd h).outWait && (s.waitingSlugs h).any fun g => decide (g.tag < (s.hd h).tag)

/-- Whether a payload finds room in the head's output queue. -/
def State.outRoom (s : State) (h bytes : Nat) : Bool :=
  !s.outHeld h && match (s.hd h).out with
  | some k => let r := s.regionSpan k; decide (s.queuedBytes h + bytes ≤ r.2 - r.1) && (s.outPlace h bytes).isSome
  | none => true

/-- A slug enters its output queue: its payload is written where it finds room (R22, R296). -/
def State.storeSlug (s : State) (h : Nat) (g : Slug) : Slug × State :=
  match s.outPlace h (g.body.length - 16) with
  | some a => ({ g with at_ := some a }, (s.memWrite reqCmp a (g.body.drop 16) false).2)
  | none => (g, s)

/-- An entry is skipped with ENTRY_ERR. -/
def State.entryErr (s : State) (h i : Nat) : State :=
  let s := if s.flag (HEAD_CAB_STATUS_ENTRY_ERR h) then s else s.wr (HEAD_CAB_STATUS_ERR_ENTRY h) i
  s.wr (HEAD_CAB_STATUS_ENTRY_ERR h) 1

/-- Entry `i` of the map for line `y`, with `x0` columns composed; without room the entry waits, unless it is forced out: the spec does not
say where the slugs of a line filled under R230 go while the queue is full, and the model queues them beyond the region, with no place in
Densum (log 40, DESIGN CHOICE). An entry that breaks a field check logs no PROT_BOUND for a calibration footprint that fails as well
(R335; log 60, DESIGN CHOICE). -/
def State.putEntry (s : State) (h i y x0 : Nat) (force : Bool) : Bool × State :=
  let r := s.mapEntry h i
  let e := r.1
  let next := fun (s : State) => s.setHd h fun x => { x with mapIdx := i + 1 }
  if (s.hd h).mapBad || !e.onLine (s.hd h).ctim y then (true, next s)
  else if r.2 then (true, next (s.count (HEAD_MAP_POISON_COUNT h) 1))
  else if !s.entryFields (s.depth h) e then (true, next (s.entryErr h i))
  else if !s.entryCal e then
    (true, next ((s.entryErr h i).report EV_PROT_BOUND (src 4 h) (detailAddr e.calBase reqCmp 0)))
  else
    let g := s.formSlug h i y x0 e
    if !force && !s.outRoom h (g.1.body.length - 16) then (false, s)
    else
      let q := s.storeSlug h g.1
      let s := (q.2.queueSlug e.port q.1).count (HEAD_CAL_POISON_COUNT h) g.2.2
      let n := ((s.hd h).slugIdx.lookup e.cab).getD 0
      let s := s.setHd h fun x => { x with
        slugIdx := (e.cab, n + 1) :: x.slugIdx.filter fun p => p.1 ≠ e.cab
        dead := x.dead + g.2.1
        slugs := x.slugs + 1
        outWait := false
        doneX := max x.doneX (min (e.x + e.w) x.ctim.hActive) }
      (true, next s)

/-- The entries of a line from the next one on, as far as there is room: whether all are out. -/
def State.putEntries (s : State) (h y x0 : Nat) (force : Bool) : Bool × State :=
  (List.range (s.mapCount h)).foldl (fun (r : Bool × State) i =>
    if r.1 && decide ((r.2.hd h).mapIdx ≤ i) then r.2.putEntry h i y x0 force else r) (true, s)

/-! ### Write-back of a line (R271 to R275) -/

/-- A component with `n` bits (R272). -/
def wbBits (n v : Nat) : Nat := (v * (2 ^ n - 1) + 32767) / 65535

/-- A written pixel. -/
def State.wbPixel (s : State) (h x y x0 : Nat) : List Byte :=
  let d := s.shownAt h x y x0
  let w := (s.hd h).wb
  let c := if w.point then s.postBlend h (d.1, d.2.1, d.2.2.1) else (d.1, d.2.1, d.2.2.1)
  let a := d.2.2.2
  if w.format = 5 then leBytes 8 (((a * 65536 + c.1) * 65536 + c.2.1) * 65536 + c.2.2)
  else if w.format = 3 then leBytes 4 (((wbBits 2 a * 1024 + wbBits 10 c.1) * 1024 + wbBits 10 c.2.1) * 1024 + wbBits 10 c.2.2)
  else leBytes 4 (((wbBits 8 a * 256 + wbBits 8 c.1) * 256 + wbBits 8 c.2.1) * 256 + wbBits 8 c.2.2)

/-- Buffer of a frame (R273). -/
def State.wbBuffer (s : State) (h frame : Nat) : Nat := frame % max 1 (s.hd h).wb.buffers

/-- Address of line `y` of a frame's buffer. -/
def State.wbAddr (s : State) (h frame y : Nat) : Nat :=
  let w := (s.hd h).wb
  w.base + s.wbBuffer h frame * w.stride + y * w.pitch

/-- Whether a composed line finds room in the write-back queue of 2 lines. -/
def State.wbTakes (s : State) (h : Nat) : Bool :=
  let x := s.hd h
  x.wbOn && decide (x.wb.format ≠ 0 ∧ x.wbQueued.length < 2)

/-- A composed line enters the write-back queue of 2 lines, or is dropped (R274). -/
def State.wbPush (s : State) (h y x0 : Nat) : State :=
  let x := s.hd h
  if !x.wbOn || decide (x.wb.format = 0) then s
  else if s.wbTakes h then
    let d := (List.range x.ctim.hActive).flatMap fun c => s.wbPixel h c y x0
    s.setHd h fun z => { z with wbQueued := z.wbQueued ++ [(s.wbAddr h x.frame y, d)] }
  else
    (((s.count (HEAD_WB_DROPPED_COUNT h) 1).setCause (causeHead h 12)).wr (HEAD_WB_STATUS_INCOMPLETE h) 1).setHd h
      fun z => { z with wbWhole := false }

/-- The write-back queue drains. -/
def State.wbDrain (s : State) (h : Nat) : State :=
  let q := (s.hd h).wbQueued
  let s := q.foldl (fun s l => (s.memWriteAs (headPort h reqCmp) reqCmp l.1 l.2 false).2) s
  s.setHd h fun x => { x with wbQueued := [], wbDone := x.wbDone + q.length }

/-- A frame whose every line has been written is complete (R275, R430). -/
def State.wbFinish (s : State) (h : Nat) : State :=
  let x := s.hd h
  if x.wbWhole && decide (x.wbDone = x.ctim.vActive) && x.wbQueued.isEmpty then
    let b := s.wbBuffer h x.wbFrame
    let s := ((s.wr (HEAD_WB_STATUS_LAST h) b).wr (HEAD_WB_STATUS_LAST_FRAME h) (x.wbFrame % 65536)).wr (HEAD_WB_STATUS_VALID h) 1
    let s := (s.wr (HEAD_WB_STATUS_INCOMPLETE h) 0).setHd h fun z => { z with wbWhole := false }
    s.relayFrame h x.wbFrame (s.wbAddr h x.wbFrame 0)
      ((x.ctim.vActive - 1) * x.wb.pitch + wbLineBytes x.wb.format x.ctim.hActive)
  else s

/-! ### Completion of a line (R225 to R232) -/

/-- Slack of line `y` completing now, in pair cycles (R226). -/
def State.slackNow (s : State) (h y : Nat) : Nat :=
  let x := s.hd h
  let t := x.tim
  let win := t.hTotal / 2
  let gone := min win (s.pairsGone h)
  -- the window of line 0 of a frame that has not started has the length of that frame's windows
  (if x.early then win + x.ctim.hTotal / 2 else (y + 1 - x.line) * win) - gone

/-- Pixels replaced by POISON_FILL or keyed on a line (R138, R202). -/
def State.countPixels (s : State) (h y x0 : Nat) : State :=
  (List.range x0).foldl (fun t x =>
    let c := s.compose h x y
    let t := c.poisoned.foldl (fun t l => t.count (LAY_POISON_PX_COUNT l) 1) t
    c.keyed.foldl (fun t l => t.count (LAY_KEY_PX_COUNT l) 1) t) s

/-- The registers that hold values of the last completed frame. -/
def State.frameRegs (s : State) (h : Nat) : State :=
  let x := s.hd h
  -- a frame for which no DDR5 line was staged has no margin: the value is free (log 42)
  let r := match x.stageMin with | some m => (wrap 24 (max (-8388608) (min 8388607 m)), s) | none => let f := s.freeNat; (f.1 % 2 ^ 24, f.2)
  let s := (r.2.wr (HEAD_SLACK_FRAME_MIN h) x.slackMin).wr (HEAD_SLACK_FRAME_LINE h) x.slackLine
  let s := (s.wr (HEAD_STAGE_FRAME_MARGIN h) r.1).wr (HEAD_BYTES_FRAME_BYTES h) x.bytesMax
  let s := s.wr (HEAD_BYTES_PEAK_BYTES h) (max (s.rd (HEAD_BYTES_PEAK_BYTES h)) x.bytesMax)
  let s := (s.wr (HEAD_DEAD_LAMPS_COUNT h) x.dead).wr (HEAD_SLUGS_FRAME_COUNT h) x.slugs
  s.setHd h fun z => { z with lastDone := z.frame }

/-- Line `y` is complete with a slack, `x0` of its columns composed. -/
def State.finishLine (s : State) (h y x0 slack : Nat) : State :=
  let x := s.hd h
  let sl := min 65535 slack
  let s := s.countPixels h y x0
  let px := s.shownAt h (x0 - 1) y x0
  let wb := if s.wbTakes h && s.inDdr x.wb.base then wbLineBytes x.wb.format x.ctim.hActive else 0
  let s := s.wbPush h y x0
  let f := (x.fetched.find? fun f => decide (f.tag = x.tag ∧ f.line = y)).getD ⟨x.tag, y, 0, none⟩
  let bytes := f.bytes + wb
  let s := (s.wr (HEAD_SLACK_LAST_SLACK h) sl).wr (HEAD_SLACK_MIN_MIN h) (min (s.rd (HEAD_SLACK_MIN_MIN h)) sl)
  let s := if sl < s.rd (HEAD_SLACK_THRESH_THRESH h) then s.setCause (causeHead h 9) else s
  let s := s.setHd h fun z => { z with
    nextLine := y + 1
    mapIdx := 0
    doneX := 0
    lastPx := if 0 < x0 then some px else z.lastPx
    fetched := z.fetched.filter fun f => decide (f.tag ≠ x.tag ∨ f.line ≠ y)
    stageMin := match z.stageMin, f.margin with | some a, some b => some (min a b) | none, m => m | m, none => m
    slackMin := min z.slackMin sl
    slackLine := if sl < z.slackMin then y else z.slackLine
    bytesMax := max z.bytesMax bytes }
  -- what the head's two ports had staged for the line is used up (R537, log 19)
  let drop := fun (v : Vector Nat 9) p => v.set (Fin.ofNat 9 p) 0
  let s := { s with ddr := { s.ddr with staged := drop (drop s.ddr.staged h) (4 + h) } : State }.panicUpdate
  if y + 1 = x.ctim.vActive then s.frameRegs h else s

/-- The compositor completes the line that is next, if its output queue takes it (R224, R225). -/
def State.completeLine (s : State) (h : Nat) : State :=
  let s := s.cutOffs h
  let x := s.hd h
  let y := x.nextLine
  if s.released h && !s.rowWait h y then
    let s := (if x.mapIdx = 0 then s.loadStaged h else s).fillGalleys h y
    let r := s.putEntries h y x.ctim.hActive false
    if r.1 then r.2.finishLine h y x.ctim.hActive (r.2.slackNow h y) else r.2
  else s

/-- A line is not complete at its deadline: it is filled (R230, R231, R35). -/
def State.underrun (s : State) (h : Nat) : State :=
  let x := s.hd h
  let y := x.nextLine
  -- the cut-off of every row due for the line lies before its deadline
  let s := s.cutOff h y
  let s := (if x.mapIdx = 0 then s.loadStaged h else s).fillGalleys h y
  let s := (s.putEntries h y x.doneX true).2
  let s := (s.count (HEAD_UNDERRUN_LINES_COUNT h) 1).count (HEAD_UNDERRUN_PX_COUNT h) (x.ctim.hActive - x.doneX)
  let s := (s.wr (HEAD_STATUS_UNDERRUN h) 1).setCause (causeHead h 10)
  let ev := if s.flag (HEAD_STATUS_EXPERT h) then EV_UNDERRUN else EV_UNDERRUN_ADMITTED
  (s.report ev (src 4 h) (y % 2 ^ 15 + (x.frame % 2 ^ 32) * 2 ^ 16)).finishLine h y x.doneX 0

/-- Whether a deadline has come that finds its line incomplete. -/
def State.deadlineDue (s : State) (h : Nat) : Bool :=
  let x := s.hd h
  x.composing && !x.early && decide (x.nextLine < x.ctim.vActive ∧ x.nextLine ≤ x.line)

/-- The deadlines that have come. -/
def State.deadlines (s : State) (h : Nat) : State :=
  (List.range ((s.hd h).line + 1 - (s.hd h).nextLine)).foldl (fun s _ => if s.deadlineDue h then s.underrun h else s) s

/-! ### Line windows (R218) -/

/-- What a WAIT layer that has latched needs of the lines of its frame whose reads have begun without it is read late (R134). -/
def State.fetchLate (s : State) (h l : Nat) : State :=
  let x := s.hd h
  let coming := !x.early && decide (x.tim.latch ≤ x.line)
  let tag := if coming then x.tag + 1 else x.tag
  let ys := (x.fetched.filter fun f => f.tag = tag).map FetchedLine.line
  let ahead := fun (y : Nat) => (y : Int) + (if coming then x.tim.vTotal else if x.early then 1 else 0) - (if x.early then 0 else x.line)
  let ps := (withAbove x.entries).filter fun p => decide (p.1.layer = l)
  ys.foldl (fun s y =>
    let till := ahead y - if s.ringLine h y then 0 else 1
    (ps.filter fun p => (s.fetchView h tag).fetchedOn h p.1 y).foldl (fun s p =>
      (s.noteFetch h tag y till (s.fetchLines h tag y p)).fetchEntry h tag y p) s) s

/-- A line window begins for a layer that waits; where its wait ends, it latches, late. -/
def State.waitStep (s : State) (h l : Nat) : State :=
  let t := s.waitLine h l
  if (s.lay l).waiting.isSome && (t.lay l).waiting.isNone then t.fetchLate h l else t

/-- A line window has started. -/
def State.windowStart (s : State) (h line : Nat) : State :=
  let s := (List.range 64).foldl (fun s l => s.waitStep h l) s
  let s := s.setHd h fun x => { x with
    line := line
    winAt := s.now
    pulse := if line = x.fs.line then (if x.fs.en then x.fs.width else 0) else x.pulse - 1 }
  let s := (if line = 0 then s.admitAway h else s).readDue h
  let hit := decide (line = s.rd (HEAD_LINE_MATCH_LINE h))
  let s := if hit then (s.setCause (causeHead h 8)).dmaRequest (8 + h) else s
  let s := (s.dmaRequest (4 + h)).bltLine h line
  let x := s.hd h
  let s := if line = x.tim.latch then
      let p := s.flag (HEAD_STATUS_COMMIT_PENDING h)
      s.setHd h fun z => { z with latchDue := true, latchTakes := p && decide (z.skip = 0), skip := z.skip - 1 }
    else s
  let s := s.fetchWindow h line
  if line + 1 = x.tim.vTotal && x.composing && !x.stopDue && !x.early then
    (s.wbFinish h).prepareFrame h true (s.nextNumber h)
  else s

/-- The fetches that a restart has made before its first frame: lines 0 to FETCH_LEAD − 1 (R222, R251). -/
def State.prefetch (s : State) (h : Nat) : State :=
  let x := s.hd h
  if x.composing then (List.range (min x.tim.lead x.tim.vActive)).foldl (fun s y => s.fetchLine h x.tag y x.tim.lead) s else s

/-- The frame has ended: RELEASE and HOLD where they are due, and the start of the next frame. -/
def State.frameEnd (s : State) (h : Nat) : State :=
  let s := if (s.hd h).firstFrame then s.headRelease h else s
  let s := if (s.hd h).stopDue then s.headStop h else s
  if (s.hd h).gen then
    if (s.hd h).composing then (s.frameStart h true).windowStart h 0
    else if !s.flag (HEAD_STATUS_REEF h) && s.restartDue h then ((s.headRestart h).prefetch h).windowStart h 0
    else (s.frameStart h false).windowStart h 0
  else s

/-- The next line window of a head starts. -/
def State.lineWindow (s : State) (h : Nat) : State :=
  if (s.hd h).gen then
    let s := ((s.latchIfDue h).deadlines h).wbDrain h
    let x := s.hd h
    if x.line + 1 < x.tim.vTotal then s.windowStart h (x.line + 1) else s.frameEnd h
  else s

def State.headUp (s : State) (h : Nat) : Bool := s.mainUp && decide (h < s.nHeads)

/-- Whether the timing generator of a head has its clock (R611, R613). -/
def State.genUp (s : State) (h : Nat) : Bool := s.headUp h && s.pllRuns h 1

/-- Whether the last line window of a head's frame runs. -/
def State.lastWindow (s : State) (h : Nat) : Bool :=
  let x := s.hd h
  x.gen && decide (x.line + 1 = x.tim.vTotal)

/-! ### The rows -/

/-- LINE_COMPLETE (R225). -/
def execLineComplete (h : Fin 4) (s : State) : Host.Outcome State Fault Refusal := .next (s.when (s.headUp h && s.pllRuns h 0) fun t => t.completeLine h)

/-- LINE_DEADLINE (R230). -/
def execLineDeadline (h : Fin 4) (s : State) : Host.Outcome State Fault Refusal :=
  .next (s.when (s.headUp h && s.deadlineDue h) fun t => t.underrun h)

/-- SLUG_QUEUE (R296): the next slug of the line being composed. -/
def execSlugQueue (h : Fin 4) (s : State) : Host.Outcome State Fault Refusal :=
  let x := s.hd h
  .next (s.when (s.headUp h && s.released h) fun t =>
    let t := t.cutOffs h
    t.when (!t.rowWait h x.nextLine && decide (x.mapIdx < t.mapCount h)) fun t =>
      (((if x.mapIdx = 0 then t.loadStaged h else t).fillGalleys h x.nextLine).putEntry h x.mapIdx x.nextLine x.ctim.hActive false).2)

/-- WB_FRAME_COMPLETE (R275). -/
def execWbFrameComplete (h : Fin 4) (s : State) : Host.Outcome State Fault Refusal :=
  .next (s.when (s.headUp h) fun t => (t.wbDrain h).wbFinish h)

/-- WAIT_LINES_EXPIRE (R133): once the moment has passed, for a frame that completes in its cycle is taken (R39). -/
def execWaitLinesExpire (l : Fin 64) (s : State) : Host.Outcome State Fault Refusal :=
  .next (match (s.lay l).waiting with
  | some (h, 0) => s.when (s.mainUp && s.waitOver l) fun t => t.waitStep h l
  | _ => s)

/-- LINE_CUTOFF (R356): the cut-off of a row that a layer's head waits for has passed. -/
def execLineCutoff (l : Fin 64) (s : State) : Host.Outcome State Fault Refusal :=
  let hs := (List.range s.nHeads).filter fun h =>
    s.cutOffPast h &&
      (s.ringEntries h (s.hd h).nextLine).any fun e => decide (e.layer = l.val)
  .next (match hs with
  | h :: _ => s.when s.mainUp fun t => (t.setLay l fun x => { x with cut := some (s.hd h).nextLine }).readDue h
  | [] => s)

/-- A word is written into a shadow table; behind a pending commit, the word before it goes with that commit (R114). -/
def State.lutStore (s : State) (off : Nat) (v : Word) (behind : Bool) : State :=
  let b := if behind then (if (s.back.lookup off).isNone then (off, s.reg off) :: s.back else s.back) else s.back.filter fun e => decide (e.1 ≠ off)
  { s with back := b }.setReg off v

end Sys2Proof.Machine
end

