-- ==== Sys2Proof/Machine/Admit.lean ====
section
/-! DEFINITION. The admission check (R139 to R148, R720): Galley, Densum queue depth, DDR5 bytes per line window, Sheet port load. The
functions read live registers of a state in which the plan to be checked has been made live. -/

namespace Sys2Proof.Machine

/-! ### Fractions -/

/-- A non-negative fraction. -/
structure Frac where
  n : Nat
  d : Nat
deriving DecidableEq, Repr

/-- Sum. -/
def Frac.add (a b : Frac) : Frac := if a.d = b.d then ⟨a.n + b.n, a.d⟩ else ⟨a.n * b.d + b.n * a.d, a.d * b.d⟩
/-- Comparison. -/
def Frac.le (a b : Frac) : Bool := decide (a.n * b.d ≤ b.n * a.d)
/-- Rounded down. -/
def Frac.floor (a : Frac) : Nat := a.n / max 1 a.d
/-- Sum of a list. -/
def Frac.sum (l : List Frac) : Frac := l.foldl Frac.add ⟨0, 1⟩

/-- Line windows per second (R140). -/
def Timing.lineRate (t : Timing) : Frac := ⟨t.vTotal * t.num, max 1 t.den⟩

/-! ### Bytes of a line (R143 to R145) -/

/-- Whether a layer reads plane 0 and plane 1 from DDR5. -/
def State.ddrPlanes (s : State) (l : Nat) : Bool × Bool := let c := (s.source l).1; (s.inDdr c.p0, s.inDdr c.p1)

/-- An entry of a Forme under check, opaque by the conditions that do not depend on the run (R129, R201). -/
def State.planEntry (s : State) (h k : Nat) : HeadEntry :=
  let e := s.formeEntry h k
  let l := e.layer
  { e with solid := s.lflag (LAY_CTRL_OPAQUE l) && decide (e.alpha = 65535 ∧ e.blend ≠ 2) && !s.lflag (LAY_KEY_CTRL_EN l) &&
      (!fmtAlpha (s.lrd (LAY_CTRL_FORMAT l)) || s.lflag (LAY_CTRL_ALPHA_ONE l)) }

/-- The entries of a Forme under check; on a head at expert level, one that a check of the latch would make transparent covers nothing (R129,
R149). -/
def State.planEntries (s : State) (h : Nat) : List HeadEntry :=
  let es := (List.range (s.formeCount h)).map (s.planEntry h)
  if s.flag (HEAD_STATUS_EXPERT h) then
    let cs := (s.checkGalleys h (s.checkEntries h es).1).1
    (es.zip cs).map fun p => { p.1 with solid := p.1.solid && !p.2.hidden }
  else es

/-- rows_i of R144. -/
def State.rowsPerLine (s : State) (e : HeadEntry) : Nat :=
  let ch := s.lrd (LAY_CROP_SIZE_H e.layer)
  if ch ≤ e.h then 1 else ceilDiv ch (max 1 e.h)

/-- P0 and P1 of R144: bytes of the lines that one crop row touches in plane 0 and plane 1. -/
def State.rowCost (s : State) (l : Nat) : Nat × Nat :=
  let c := (s.source l).1
  let seg := fun (base a b : Nat) => if a < b then 64 * ((base + b - 1) / 64 + 1 - (base + a) / 64) else 0
  (seg c.p0 (rowBytes0 c.fmt c.cropX) (rowBytes0 c.fmt (c.cropX + c.cropW)),
    if twoPlane c.fmt then seg c.p1 (rowBytes1 c.fmt c.cropX) (rowBytes1 c.fmt (c.cropX + c.cropW)) else 0)

/-- D_i of R144. -/
def State.entryCost (s : State) (e : HeadEntry) : Nat :=
  let d := s.ddrPlanes e.layer
  let r := s.rowsPerLine e
  let c := if is420 (s.lrd (LAY_CTRL_FORMAT e.layer)) then ceilDiv r 2 else r
  let p := s.rowCost e.layer
  (if d.1 then r * p.1 else 0) + (if d.2 then c * p.2 else 0)

/-- Bytes of the lines of both planes that culling skips on line `y` for an unscaled entry (R130, R144). A line that reads no new chroma row
is charged for the one it shares, and spared what culling skips of that. -/
def State.cullSaving (s : State) (t : Timing) (above : List HeadEntry) (e : HeadEntry) (y : Nat) : Nat :=
  if s.entryScaled e then 0
  else
    let d := s.ddrPlanes e.layer
    let c := (s.source e.layer).1
    let row := c.cropY + (y - e.y)
    let cull := fun (tx ty : Nat) => above.any fun a => a.solid && s.coversTile t a tx ty
    let skips := fun (chroma : Bool) (ys : List Nat) (base : Nat) =>
      let g := c.segment chroma
      64 * (segLines base g.1 g.2).countP (c.lineCulled cull e chroma ys base)
    (if d.1 then skips false [y] (c.row0 row) else 0) +
      (if d.2 && twoPlane c.fmt then
        let new := c.chromaRows row (row + 1)
        let ks := if new.isEmpty then [c.chromaTo row] else new
        min (s.rowCost e.layer).2 (ks.foldl (fun a k => a + skips true (c.chromaUsers e k) (c.p1 + k * c.pitch1)) 0)
      else 0)

/-- Bytes charged to an entry on a line. -/
def State.entryCharge (s : State) (t : Timing) (above : List HeadEntry) (e : HeadEntry) (y : Nat) : Nat :=
  if e.y ≤ y ∧ y < e.y + e.h then s.entryCost e - s.cullSaving t above e y else 0

/-- The live map's entries of a head, as the firmware reads them. -/
def State.mapEntries (s : State) (h : Nat) : List MapEntry := (List.range (s.mapCount h)).map fun i => (s.mapEntry h i).1

/-- CAL_h(y): 4 B times the lamps that the map places on line `y` (R145). -/
def calCharge (t : Timing) (ms : List MapEntry) (y : Nat) : Nat :=
  ms.foldl (fun a e => if e.onLine t y then a + 4 * (min (e.x + e.w) t.hActive - e.x) else a) 0

/-- Lines at which the bytes of a line can change; the largest value over all lines is among theirs. Chroma rows that raster lines share
let the bytes of an entry change within `near` lines of a row of tiles. -/
def planLines (near : Nat) (t : Timing) (es : List HeadEntry) (ms : List MapEntry) : List Nat :=
  let cuts := es.flatMap fun e => [e.y, e.y + e.h, ceilDiv e.y 16 * 16, (e.y + e.h) / 16 * 16].flatMap fun c =>
    (List.range (2 * near + 1)).map fun i => c + i - near
  let maps := ms.flatMap fun e => [e.y, e.y + e.h]
  (([0, (t.vActive - 1) / 16 * 16] ++ cuts ++ maps).filter fun y => decide (y < t.vActive)).eraseDups

/-- How often a byte written to DDR5 counts: twice under mirroring (R557). -/
def State.copies (s : State) : Nat := match s.ddr.map with | some m => if m.mirror then 2 else 1 | none => 1

/-- WB_h as B_h counts it (R277, R557). -/
def State.wbCharge (s : State) (h : Nat) (t : Timing) : Nat :=
  let f := s.wbFormat h
  if f ≠ 0 && s.inDdr (s.wbBase h) then s.copies * wbLineBytes f t.hActive else 0

/-- B_h and the line that gives it (R145). Of lines that give the same B_h, the first of `planLines` counts, which decides FAIL_ITEM only
(log 55, DESIGN CHOICE). -/
def State.headBytes (s : State) (h : Nat) : Nat × Nat :=
  let t := s.liveTiming h
  let es := s.planEntries h
  let ms := s.mapEntries h
  let at_ := fun (y : Nat) => (withAbove es).foldl (fun a p => a + s.entryCharge t p.2 p.1 y) 0 + calCharge t ms y + s.wbCharge h t
  let near := if es.any fun e => is420 (s.lrd (LAY_CTRL_FORMAT e.layer)) && !s.entryScaled e then 3 else 0
  let ends := es.map fun e => { e with h := (s.extent e).2 }
  (planLines near t (es ++ ends) ms).foldl (fun (b : Nat × Nat) y => if b.1 < at_ y then (at_ y, y) else b) (0, 0)

/-! ### Galley and Densum (R142, R143, R720) -/

/-- The first entry whose Galley is too small. -/
def State.galleyFails (s : State) (h : Nat) : Option Nat :=
  (s.planEntries h).findIdx? fun e => s.entryScaled e && decide (s.lrd (LAY_GALLEY_W_W e.layer) < e.w)

/-- Sheet payload bytes of a cabinet line. -/
def payloadBytes (depth : Nat) (t : Timing) (e : MapEntry) : Nat := ceilDiv ((min (e.x + e.w) t.hActive - e.x) * 3 * depth) 8

/-- OUT_h. -/
def State.outBytes (s : State) (h : Nat) : Nat :=
  let t := s.liveTiming h
  let ms := s.mapEntries h
  (planLines 0 t [] ms).foldl (fun b y =>
    max b (ms.foldl (fun a e => if e.onLine t y then a + payloadBytes (s.depth h) t e else a) 0)) 0

/-- Bytes of the staging region and of the output-queue region (R143, R720). -/
def State.queueNeeds (s : State) (h : Nat) : Nat × Nat :=
  let t := s.liveTiming h
  let ms := s.mapEntries h
  let ns := ceilDiv (2 * t.vTotal * t.num) (max 1 t.den * 1000000) + 2
  let d := (s.planEntries h).foldl (fun a e => a + s.entryCost e) 0
  let cal := (planLines 0 t [] ms).foldl (fun b y => max b (calCharge t ms y)) 0
  (ns * (d + cal), 2 * s.outBytes h)

/-- Bytes of a region. -/
def State.regionBytes (s : State) (r : Option Nat) : Nat :=
  match r with
  | some k => let p := s.regionSpan k; p.2 - p.1
  | none => 0

/-- Bytes of Densum that no region holds (R143). -/
def State.densumFree (s : State) : Nat :=
  65536 * (List.range 2048).countP fun u => (s.dsmRegion (u * 65536)).isNone

/-- Set EN of a region that may be absent. -/
def State.regionEn (s : State) (r : Option Nat) (v : Nat) : State := match r with | some k => s.wr (DSM_REG_CTRL_EN k) v | none => s

/-- Give up the regions that an earlier plan of a head placed and no latch has taken up. -/
def State.dropPlaced (s : State) (h : Nat) : State :=
  ((s.freeGalley (s.hd h).stageNew.join).freeGalley (s.hd h).outNew.join).setHd h fun y => { y with stageNew := none, outNew := none }

/-- A free region register for a new queue: one above those of the head's present regions, whose accesses are checked against the
lowest-numbered region until the latch (R474, R720). -/
def State.queueSlot (t : State) (kept : List (Option Nat)) : Option Nat :=
  let free := (List.range 64).filter fun k => !t.flag (DSM_REG_CTRL_EN k) && !kept.contains (some k)
  match free.find? fun k => kept.all fun r => decide (r.getD 0 ≤ k) with
  | some k => some k
  | none => free.head?

/-- Place one queue region of so many bytes, in a slot that no hidden region keeps: what the latch takes up (nothing where the present
region has that size, no region where none is needed) and the state. -/
def State.placeQueue (t : State) (bytes rd wr : Nat) (same : Bool) (kept : List (Option Nat)) : Option (Option (Option Nat) × State) :=
  let units := ceilDiv bytes 65536
  if same then some (none, t)
  else if units = 0 then some (some none, t)
  else match t.dsmPlace units, t.queueSlot kept with
    | some b, some k => some (some (some k), t.dsmSetRegion k b units rd wr false false)
    | _, _ => none

/-- Place the regions of a head in the Densum that DENSUM_FREE counts: they may reuse the present ones, which stay until the latch
(R720). The spec names no permissions for them: the model lets the fetcher and the compositor (staging), the compositor and the Sheet
ports (output) at them, as their use needs (log 55, DESIGN CHOICE). -/
def State.placeHead (s : State) (h : Nat) (stage out : Nat) : Option State :=
  let s := s.dropPlaced h
  let x := s.hd h
  let sameS := decide (s.regionBytes x.stage = ceilDiv stage 65536 * 65536)
  let sameO := decide (s.regionBytes x.out = ceilDiv out 65536 * 65536)
  let oldS := if sameS then none else x.stage
  let oldO := if sameO then none else x.out
  let t := (s.regionEn oldS 0).regionEn oldO 0
  (t.placeQueue stage 0x0C 0x0C sameS [oldS, oldO]).bind fun a =>
    (a.2.placeQueue out 0x28 0x08 sameO [oldS, oldO]).map fun b =>
      ((b.2.regionEn oldS 1).regionEn oldO 1).setHd h fun y => { y with stageNew := a.1, outNew := b.1 }

/-! ### DDR5 (R146, R147) -/

/-- Transfer rate in MT/s that a code stands for. -/
def rateMts (c : Nat) : Nat := if c = 0 then 4800 else if c = 1 then 5600 else 6400

/-- Guaranteed real-time capacity in B/s (R146): refresh at the worst channel's tRFCsb, from
its SPD, over the tREFI of REFRESH, the lowest threshold and the longest tRC. -/
def State.ddrCapacity (s : State) : Frac :=
  let chs := (List.range s.ddr.set).filter fun c => decide (s.ddrBytes ≠ 0) && !s.chanOut c
  let peak := chs.length * 8 * rateMts (s.rd (DMC_CTRL_RATE 0)) * 1000000
  let ref := chs.foldl (fun (a : Frac) c =>
    let f : Frac := ⟨(match (s.chan c).spd with | some d => d.tRfcSb | none => 0), max 1 (s.rd (DMC_REFRESH_TREFI c))⟩
    if f.le a then a else f) ⟨0, 1⟩
  let trc := chs.foldl (fun a c => match (s.chan c).spd with | some d => max a d.tRc | none => a) 0
  let th := max 1 ((chs.map fun c => s.rd (DMC_HAMMER_TH c)).min?.getD 1)
  let k := ceilDiv 32000000 (max 1 (trc * th))
  let x := ref.d * 32000000
  let good := x - (ref.n * 32000000 + 2 * trc * k * ref.d)
  ⟨peak * (75 * good - 10 * x), 100 * x⟩

/-- I: byte rate that ingest writes into frame-sync buffers, twice under mirroring (R147, R353, R557). -/
def State.ingestRate (s : State) : Frac :=
  Frac.sum ((List.range 48).map fun k =>
    let f := s.rd (INGS_S_CTRL_FLAGS k)
    if f.testBit 0 && f.testBit 1 && !f.testBit 4 then
      let m := if s.rd (INGS_S_FMT_STORE k) = 0x15 then 2 else 1
      ⟨s.copies * m * s.sPitch k * s.rd (INGS_S_GEOM_H k) * s.rd (INGS_S_RATE_NUM_NUM k), max 1 (s.rd (INGS_S_RATE_DEN_DEN k))⟩
    else ⟨0, 1⟩)

/-- B_k / T_k of a head; T_k of a head that is not being committed is that of its live timing (log 55, DESIGN CHOICE). -/
def State.headDemand (s : State) (h b : Nat) : Frac := let r := (s.liveTiming h).lineRate; ⟨b * r.n, r.d⟩

/-- The plan of a head as its shadow registers hold it. -/
def State.shadowView (s : State) (h : Nat) : State :=
  let s := s.latchPage (headPage h) ((0x10, 0x24) :: headShadow)
  (s.layersOf h).foldl (fun s l => s.latchPage (layerPage l) (layerShadow l)) s

/-- The largest B_k among the admitted plans of a head that wait behind an earlier commit (R121, R141): their responses hold it. -/
def State.queuedBk (s : State) (k : Nat) : Nat :=
  (s.fw.waiting.map fun w => match w.kind with
    | .queued hs resp _ => (hs.findIdx? fun h => decide (h = k)).elim 0 fun i => leAt resp (32 * i + 12) 4
    | _ => 0).foldl max 0

/-- B_k of a head that is not being committed (R141). -/
def State.othersBytes (s : State) (k : Nat) : Nat :=
  if s.flag (HEAD_STATUS_EXPERT k) then max (s.headBytes k).1 ((s.shadowView k).headBytes k).1
  else let x := s.hd k; max (max x.admLive (x.admPend.getD 0)) (s.queuedBk k)

/-! ### Sheet ports (R148) -/

/-- W_p,h: the largest, over a head's lines, of payload and overhead sent on a port: of the head being committed, its plan; of the others,
their live maps, depths and timings (log 55, DESIGN CHOICE). -/
def State.portLine (s : State) (h p : Nat) : Nat :=
  let t := s.liveTiming h
  let ms := (s.mapEntries h).filter fun e => decide (e.port = p) || (e.pair && decide (e.port / 2 = p / 2))
  let cost := fun (e : MapEntry) => let b := payloadBytes (s.depth h) t e; b + 54 * ceilDiv b 8928
  (planLines 0 t [] ms).foldl (fun b y => max b (ms.foldl (fun a e => if e.onLine t y then a + cost e else a) 0)) 0

/-- L_p in bit/s. -/
def State.portLoad (s : State) (p : Nat) : Frac :=
  Frac.sum ((List.range s.nHeads).map fun h => let r := (s.liveTiming h).lineRate; ⟨8 * s.portLine h p * r.n, r.d⟩)

/-- L_MAX of a port in bit/s. -/
def State.portMax (s : State) (p : Nat) : Frac := ⟨if s.flag (SP_CTRL_RATE p) then 9660000000 else 24150000000, 1⟩

/-- The most loaded port and its load. -/
def State.worstPort (s : State) : Nat × Frac :=
  (List.range s.nSheet).foldl (fun (b : Nat × Frac) p => let l := s.portLoad p; if l.le b.2 then b else (p, l)) (0, ⟨0, 1⟩)

/-! ### The check (R139, R119) -/

/-- What the check finds: status, FAIL_ITEM and the fields of the response. -/
structure Admission where
  status : Nat
  item : Nat
  demand : Nat
  capacity : Nat
  bytes : Nat
  load : Nat
  need : Nat
  free : Nat
deriving DecidableEq, Repr

/-- The 32 B response (R119). -/
def Admission.resp (a : Admission) (apply : Nat) : List Byte :=
  leBytes 2 a.item ++ [0, 0] ++ leBytes 4 a.demand ++ leBytes 4 a.capacity ++ leBytes 4 a.bytes ++ leBytes 4 a.load ++ leBytes 4 a.need
    ++ leBytes 4 a.free ++ leBytes 4 apply

/-- Rank of a status in the order of R139. -/
def budgetRank (st : Nat) : Nat :=
  if st = stREJECTED_GALLEY then 0 else if st = stREJECTED_DENSUM then 1 else if st = stREJECTED_BANDWIDTH then 2
  else if st = stREJECTED_SHEET then 3 else 4

/-- FAIL_ITEM of a DDR5 failure (R119). -/
def State.worstEntry (s : State) (h y : Nat) : Nat :=
  let t := s.liveTiming h
  let cs := (withAbove (s.planEntries h)).map fun p => s.entryCharge t p.2 p.1 y
  let m := cs.foldl max 0
  if m = 0 then 0xFFFF else (cs.findIdx? fun c => decide (c = m)).getD 0xFFFF

/-- The rest of an admission on the state `t` in which the head's regions are placed: DDR5 and the Sheet ports (R146 to R148). -/
def State.admitIn (s t : State) (h : Nat) (b : Nat → Nat) (need free : Nat) : Admission × State :=
  let own := t.headBytes h
  let others := (List.range t.nHeads).map fun k => t.headDemand k (if k = h then own.1 else b k)
  let demand := (Frac.sum others).add t.ingestRate
  let cap := t.ddrCapacity
  let a : Admission := ⟨stOK, 0xFFFF, demand.floor / 1000000, cap.floor / 1000000, own.1, 0, need / 1024, free / 1024⟩
  if !demand.le cap then ({ a with status := stREJECTED_BANDWIDTH, item := t.worstEntry h own.2 }, s)
  else
    let w := t.worstPort
    let a := { a with load := w.2.floor / 1000000 }
    if (List.range t.nSheet).all fun p => (t.portLoad p).le (t.portMax p) then (a, t)
    else ({ a with status := stREJECTED_SHEET, item := w.1 }, s)

/-- DENSUM_FREE of a head (R143): the Densum that is held by no region but its own queues'. -/
def State.headFree (s : State) (h : Nat) : Nat :=
  let t := s.dropPlaced h
  ((t.regionEn (t.hd h).stage 0).regionEn (t.hd h).out 0).densumFree

/-- Place a head's queues where they fit in the Densum that is free to it. -/
def State.placeFits (s : State) (h : Nat) (q : Nat × Nat) : Option State :=
  if q.1 + q.2 ≤ s.headFree h then s.placeHead h q.1 q.2 else none

/-- The admission once the queues of a head that need `q` bytes have found their places or not. -/
def State.admitPlaced (s : State) (h : Nat) (b : Nat → Nat) (q : Nat × Nat) (r : Option State) : Admission × State :=
  match r with
  | none => (⟨stREJECTED_DENSUM, 0xFFFF, 0, 0, 0, 0, (q.1 + q.2) / 1024, s.headFree h / 1024⟩, s)
  | some t => s.admitIn t h b (q.1 + q.2) (s.headFree h)

/-- The four budgets for head `h` in a state where its plan is live; `b` gives B_k of the other heads. The state answered holds the regions
placed for the head. -/
def State.admitHead (s : State) (h : Nat) (b : Nat → Nat) : Admission × State :=
  match s.galleyFails h with
  | some i => (⟨stREJECTED_GALLEY, i, 0, 0, 0, 0, 0, 0⟩, s)
  | none => s.admitPlaced h b (s.queueNeeds h) (s.placeFits h (s.queueNeeds h))

end Sys2Proof.Machine
end

