-- ==== Sys2Proof/Machine/Forme.lean ====
section
/-! DEFINITION. The mailbox commands of layers and the Forme (chapters "Layers and the Forme", "Video layers" and "Blending and colour
arithmetic") and the commit path that all head commands share (R118 to R126). -/

namespace Sys2Proof.Machine

/-! ### Where a layer stands (R111, R114, R117) -/

/-- Layers that a FORME_COMMIT payload names. -/
def formeLayers (p : List Byte) : List Nat := (List.range (leAt p 1 1)).map fun i => leAt p (16 + 16 * i) 1

/-- The Formes of a group's buffer, by head (R123): payloads. -/
def splitFormes : List Nat → List Byte → Option (List (Nat × List Byte))
  | [], d => if d.isEmpty then some [] else none
  | h :: t, d =>
    let n := 16 + 16 * leAt d 1 1
    if d.length < n then none
    else match splitFormes t (d.drop n) with
      | some r => some ((h, d.take n) :: r)
      | none => none

/-- Layers of a head's Forme in a queued FORME_COMMIT or FORME_GROUP_COMMIT; `d` is what its checks read. -/
def queuedLayers (c : FwCmd) (h : Nat) (d : List Byte) : List Nat :=
  if c.cmd = 0x0230 then formeLayers c.payload
  else if c.cmd = 0x0231 then (((splitFormes (headsOf (leAt c.payload 12 1)) d).getD []).filter fun f => decide (f.1 = h)).flatMap fun f => formeLayers f.2
  else []

/-- Whether a layer stands in the live Forme of a head. -/
def State.inLive (s : State) (h l : Nat) : Bool := (List.range (s.formeCount h)).any fun k => decide (s.lrd (HEAD_FE_LAYER_LAYER h k) = l)

/-- Whether a layer stands in a pending Forme of a head: shadow state that awaits its latch, or a Forme that is queued (R121). -/
def State.inPending (s : State) (h l : Nat) : Bool :=
  (s.flag (HEAD_STATUS_COMMIT_PENDING h) &&
    (List.range (min 24 (s.rd (HEAD_FORME_CTRL_ENTRIES h)))).any fun k => decide (s.rd (HEAD_FE_LAYER_LAYER h k) = l)) ||
  s.fw.waiting.any fun w => match w.kind with
    | .queued hs _ d => decide (h ∈ hs) && decide (l ∈ queuedLayers w.cmd h d)
    | _ => false

/-- Whether a layer stands in a live or pending Forme of any head. -/
def State.onWall (s : State) (l : Nat) : Bool := (List.range s.nHeads).any fun h => s.inLive h l || s.inPending h l

/-! ### LAYER_DEFINE and LAYER_FLIP (R110 to R115) -/

/-- The plane addresses of a source break R109. -/
def planesBad (fmt p0 p1 : Nat) : Bool := decide (p0 % 64 ≠ 0) || ((twoPlane fmt || fmt == 6) && decide (p1 % 64 ≠ 0))

/-- The footprints of R112. -/
def State.planesFit (s : State) (fmt p0 p1 pitch0 pitch1 w h : Nat) : Bool :=
  s.inDdrDsm p0 && s.rowsOk p0 pitch0 h (rowBytes0 fmt w) &&
    (!twoPlane fmt || (s.inDdrDsm p1 && s.rowsOk p1 pitch1 (rows1 fmt h) (rowBytes1 fmt w))) &&
    (fmt != 6 || (s.inDdrDsm p1 && s.spanOk p1 1024))

/-- Whether a layer of a stream agrees with it (R346). -/
def State.streamFits (s : State) (k fmt pitch0 w h : Nat) : Bool :=
  decide (k < 48) && (s.rd (INGS_S_CTRL_FLAGS k)).testBit 0 &&
    decide (s.rd (INGS_S_FMT_STORE k) = fmt ∧ s.sPitch k = pitch0 ∧ s.rd (INGS_S_GEOM_W k) = w ∧ s.rd (INGS_S_GEOM_H k) = h)

/-- The parameter checks of LAYER_DEFINE (R74, R109, R111, R158, R346). PLANE1, PITCH1, STREAM and WAIT_LINES of a layer that does not use
them ("otherwise 0" in the payload table) may hold any value, as reserved fields may (log 25, DESIGN CHOICE). -/
def State.defineBad (s : State) (p : List Byte) : Bool :=
  let l := leAt p 0 1
  let f := leAt p 1 1
  let kind := leAt p 2 1
  let pitch0 := leAt p 20 4
  let pitch1 := leAt p 24 4
  let w := leAt p 28 2
  let h := leAt p 30 2
  let cx := leAt p 32 2
  let cy := leAt p 34 2
  let cw := leAt p 36 2
  let ch := leAt p 38 2
  let pol := leAt p 41 1
  let wl := leAt p 42 1
  let gw := leAt p 60 2
  let g := fmtGranule f
  !s.hasLayer l || !fmtOk l f || decide (2 < kind ∨ (16 ≤ l ∧ kind ≠ 0)) ||
  decide (w = 0 ∨ h = 0 ∨ cw = 0 ∨ ch = 0 ∨ 32767 < w ∨ 32767 < h ∨ 32767 < cx ∨ 32767 < cy ∨ w < cx + cw ∨ h < cy + ch) ||
  decide (cx % g ≠ 0 ∨ cw % g ≠ 0) || (is420 f && decide (cy % 2 ≠ 0 ∨ ch % 2 ≠ 0)) ||
  decide (pitch0 % 64 ≠ 0 ∨ pitch0 < 64 ∨ 1048512 < pitch0 ∨ pitch0 < rowBytes0 f w) ||
  (twoPlane f && decide (pitch1 % 64 ≠ 0 ∨ pitch1 < 64 ∨ 1048512 < pitch1 ∨ pitch1 < rowBytes1 f w)) ||
  (decide (kind = 0) && planesBad f (leAt p 4 8) (leAt p 12 8)) ||
  (decide (kind ≠ 0) && (!s.streamFits (leAt p 40 1) f pitch0 w h || (twoPlane f && decide (pitch1 ≠ pitch0)))) ||
  decide (2 < pol ∨ (pol = 1 ∧ (wl = 0 ∨ 64 < wl)) ∨ 16384 < gw ∨ (16 ≤ l ∧ gw ≠ 0) ∨ (l < 16 ∧ (8192 < w ∨ 16384 < h)))

/-- Write an address into a pair of registers. -/
def State.wrAddr (s : State) (lo hi : Fld) (a : Nat) : State := (s.wr lo (a / 64 % 2 ^ 26)).wr hi (a / 2 ^ 32)

/-- The head whose pending commit makes a layer's shadow state live. -/
def State.commitOf (s : State) (l : Nat) : Option Nat :=
  let h := s.rd (LAY_ROUTE_HEAD l)
  if decide (h < s.nHeads) && s.flag (LAY_ROUTE_EN l) && s.flag (HEAD_STATUS_COMMIT_PENDING h) then some h else none

/-- Writes of a command to a shadow page of which a commit is pending (R114): what that commit takes is kept aside until its latch, and
the writes become live with a later one. -/
def State.writeBehind (s : State) (pending : Bool) (page size : Nat) (f : State → State) : State :=
  let t := f s
  if pending then
    let ks := ((s.regs ++ t.regs).map Prod.fst).filter fun k =>
      decide (page ≤ k ∧ k < page + size) && decide (s.reg k ≠ t.reg k) && (s.back.lookup k).isNone
    { t with back := t.back ++ ks.eraseDups.map fun k => (k, s.reg k) }
  else t

/-- Writes of a command to a layer's shadow state, after a latch of its head whose time has come (R114, R236). -/
def State.writeLayer (s : State) (l : Nat) (f : State → State) : State :=
  let s := s.preLatch (s.rd (LAY_ROUTE_HEAD l))
  s.writeBehind (s.commitOf l).isSome (layerPage l) (if l < 16 then 0x4000 else 0x1000) f

/-- A layer's Galley as LAYER_DEFINE gives it (R113, R184): none where Densum has no room. -/
def State.newGalley (s : State) (l width : Nat) : Option State :=
  let x := s.lay l
  let wall := s.onWall l
  -- the Galley that a pending commit takes stays for it; on the wall, the one that is live stays until the latch; one that has not
  -- become live is given up
  let s := if (s.commitOf l).isSome && !x.galleyBehind then
      s.setLay l fun y => { y with midGalley := y.galley, galley := none, galleyBehind := true }
    else if (s.commitOf l).isSome then (s.freeGalley x.galley).setLay l fun y => { y with galley := none }
    else if wall && x.oldGalley.isNone then s.setLay l fun y => { y with oldGalley := y.galley, galley := none }
    else if wall then (s.freeGalley x.galley).setLay l fun y => { y with galley := none }
    else ((s.freeGalley x.galley).freeGalley x.oldGalley).setLay l fun y => { y with galley := none, oldGalley := none }
  if width = 0 then some (((s.wr (LAY_GALLEY_LO_ADDR l) 0).wr (LAY_GALLEY_HI_ADDR l) 0).wr (LAY_GALLEY_W_W l) 0)
  else
    (s.dsmNewRegion (ceilDiv (64 * width) 65536) 0x4 0x4 false false).map fun r =>
      let s := r.2.setLay l fun y => { y with galley := some r.1 }
      (s.wrAddr (LAY_GALLEY_LO_ADDR l) (LAY_GALLEY_HI_ADDR l) (dsmBase + (s.regionSpan r.1).1)).wr (LAY_GALLEY_W_W l) width

/-- The shadow state that LAYER_DEFINE writes. -/
def State.writeDefine (s : State) (p : List Byte) : State :=
  let l := leAt p 0 1
  let s := ((s.wr (LAY_CTRL_FORMAT l) (leAt p 1 1)).wr (LAY_CTRL_SOURCE l) (leAt p 2 1)).wr (LAY_CTRL_OPAQUE l) (leAt p 3 1 % 2)
  let s := (s.wr (LAY_CTRL_ALPHA_ONE l) (leAt p 3 1 / 2 % 2)).wr (LAY_CTRL_READY_POLICY l) (leAt p 41 1)
  let s := (s.wr (LAY_CTRL_WAIT_LINES l) (leAt p 42 1 - 1)).wr (LAY_CTRL_STREAM l) (leAt p 40 1)
  let s := (s.wrAddr (LAY_PLANE0_LO_ADDR l) (LAY_PLANE0_HI_ADDR l) (leAt p 4 8)).wrAddr (LAY_PLANE1_LO_ADDR l) (LAY_PLANE1_HI_ADDR l) (leAt p 12 8)
  let s := (s.wr (LAY_PITCH0_PITCH l) (leAt p 20 4 / 64)).wr (LAY_PITCH1_PITCH l) (leAt p 24 4 / 64)
  let s := (s.wr (LAY_SRC_SIZE_W l) (leAt p 28 2)).wr (LAY_SRC_SIZE_H l) (leAt p 30 2)
  let s := (s.wr (LAY_CROP_POS_X l) (leAt p 32 2)).wr (LAY_CROP_POS_Y l) (leAt p 34 2)
  let s := (s.wr (LAY_CROP_SIZE_W l) (leAt p 36 2)).wr (LAY_CROP_SIZE_H l) (leAt p 38 2)
  let s := (s.wr (LAY_POISON_LO_B l) (leAt p 44 2)).wr (LAY_POISON_LO_G l) (leAt p 46 2)
  let s := (s.wr (LAY_POISON_HI_R l) (leAt p 48 2)).wr (LAY_POISON_HI_A l) (leAt p 50 2)
  ((s.wr (LAY_CONST_LO_B l) (leAt p 52 2)).wr (LAY_CONST_LO_G l) (leAt p 54 2)).wr (LAY_CONST_HI_R l) (leAt p 56 2)

/-- LAYER_DEFINE (R110). -/
def execLayerDefine (s : State) : Host.Outcome State Fault Refusal :=
  .next (s.serve 0x0201 fun c s =>
    let p := c.payload
    let l := leAt p 0 1
    if s.defineBad p then s.fail c stBAD_PARAM
    else if leAt p 2 1 = 0 && !s.planesFit (leAt p 1 1) (leAt p 4 8) (leAt p 12 8) (leAt p 20 4) (leAt p 24 4) (leAt p 28 2) (leAt p 30 2) then
      s.fail c stPROT_BOUND
    else if l < 16 then
      match (s.preLatch (s.rd (LAY_ROUTE_HEAD l))).newGalley l (leAt p 60 2) with
      | some _ => (s.writeLayer l fun s => ((s.newGalley l (leAt p 60 2)).getD s).writeDefine p).ok c
      | none => s.fail c stREJECTED_DENSUM
    else (s.writeLayer l fun s => s.writeDefine p).ok c)

/-! ### LAYER_COLOUR, LAYER_SCALER, LAYER_LUT, LAYER_KEY (R185 to R188, R210 to R212, R216) -/

/-- LAYER_COLOUR (R185). -/
def execLayerColour (s : State) : Host.Outcome State Fault Refusal :=
  .next (s.serve 0x0202 fun c s =>
    let p := c.payload
    let l := leAt p 0 1
    let offs := (List.range 3).map fun k => sext 32 (leAt p (24 + 4 * k) 4)
    if 16 ≤ l || !s.hasLayer l || offs.any fun o => decide (o < -65536 ∨ 65535 < o) then s.fail c stBAD_PARAM
    else
      let f := leAt p 1 1
      (s.writeLayer l fun s =>
        let s := ((s.wr (LAY_COLOUR_CTRL_MATRIX_EN l) (f % 2)).wr (LAY_COLOUR_CTRL_CHROMA_H l) (f / 2 % 2)).wr (LAY_COLOUR_CTRL_CHROMA_V l) (f / 4 % 2)
        let s := (List.range 9).foldl (fun s k => s.wr (LAY_MTX_C_COEF l k) (leAt p (4 + 2 * k) 2)) s
        (List.range 3).foldl (fun s k => s.wr (LAY_MTX_OFF_OFF l k) (leAt p (24 + 4 * k) 4 % 2 ^ 17)) s).ok c)

/-- Tap of a coefficient table (R187). -/
def coefAt (d : List Byte) (v : Bool) (ph t : Nat) : Int := sext 16 (leAt d (if v then 1024 + 12 * ph + 2 * t else 16 * ph + 2 * t) 2)

/-- Whether a coefficient table meets R188. -/
def coefsOk (d : List Byte) : Bool :=
  let ok := fun (v : Bool) (n ph : Nat) =>
    let ts := (List.range n).map (coefAt d v ph)
    ts.all (fun t => decide (-2048 ≤ t ∧ t ≤ 2047)) && decide (ts.foldl (· + ·) 0 = 1024)
  (List.range 64).all fun ph => ok false 8 ph && ok true 6 ph

/-- Write a coefficient table into the shadow windows. -/
def State.writeCoefs (s : State) (l : Nat) (d : List Byte) : State :=
  (List.range 64).foldl (fun s ph =>
    let s := (List.range 4).foldl (fun s q =>
      (s.wr (LAY_HCOEF_TAP_EVEN l ph q) (wrap 12 (coefAt d false ph (2 * q)))).wr (LAY_HCOEF_TAP_ODD l ph q) (wrap 12 (coefAt d false ph (2 * q + 1)))) s
    (List.range 3).foldl (fun s q =>
      (s.wr (LAY_VCOEF_TAP_EVEN l ph q) (wrap 12 (coefAt d true ph (2 * q)))).wr (LAY_VCOEF_TAP_ODD l ph q) (wrap 12 (coefAt d true ph (2 * q + 1)))) s) s

/-- Whether a signed 32-bit value fits the 24-bit INIT fields. -/
def initOk (v : Nat) : Bool := let i := sext 32 v; decide (-8388608 ≤ i ∧ i ≤ 8388607)

/-- LAYER_SCALER (R186). -/
def execLayerScaler (s : State) : Host.Outcome State Fault Refusal :=
  .next (s.serve 0x0203 fun c s =>
    let p := c.payload
    let l := leAt p 0 1
    let dec := leAt p 1 1
    let a := leAt p 12 8
    if 16 ≤ l || !s.hasLayer l || dec % 4 == 3 || dec / 4 % 4 == 3 || !initOk (leAt p 4 4) || !initOk (leAt p 8 4) then s.fail c stBAD_PARAM
    else if a ≠ 0 && !s.bufOk a 1792 then s.fail c stPROT_BOUND
    else
      let r := if a = 0 then ([], s) else s.fwRead a 1792
      let s := r.2
      if a ≠ 0 && !coefsOk r.1 then s.fail c stBAD_PARAM
      else
        (s.writeLayer l fun s =>
          let s := (s.wr (LAY_SCALE_CTRL_DECIM_H l) (dec % 4)).wr (LAY_SCALE_CTRL_DECIM_V l) (dec / 4 % 4)
          let s := (s.wr (LAY_H_INIT_INIT l) (leAt p 4 4 % 2 ^ 24)).wr (LAY_V_INIT_INIT l) (leAt p 8 4 % 2 ^ 24)
          if a = 0 then s else s.writeCoefs l r.1).ok c)

/-- Whether the second copy of a LUT is being brought up to date, so that its window takes no access (R208). -/
def State.lutSyncing (s : State) (t : Nat) : Bool := (s.luts[Fin.ofNat 20 t]).until_.isSome

/-- Write a table of three curves of `n` entries into the window of a LUT, word by word (R209): `word` gives the first field of word j
of curve k; `behind` as in `writeBehind`. -/
def State.writeLut (s : State) (word : Nat → Nat → Fld) (n : Nat) (behind : Bool) (d : List Byte) : State :=
  let ws := (List.range 3).flatMap fun k => (List.range (ceilDiv n 2)).map fun j =>
    ((word k j).off, BitVec.ofNat 32 (leAt d (2 * n * k + 4 * j) (min 4 (2 * n - 4 * j))))
  ws.foldl (fun s w => s.lutStore w.1 w.2 behind) s

/-- What LAYER_LUT writes; `d` is the table read, if any. -/
def State.layerLutWrite (s : State) (c : FwCmd) (d : List Byte) : State :=
  let l := leAt c.payload 0 1
  let s := s.writeLayer l fun s => s.wr (LAY_LUT_CTRL_EN l) (leAt c.payload 1 1)
  (if d.isEmpty then s else s.writeLut (LAY_PRE_LUT_ENTRY_EVEN l) 1025 (s.commitOf l).isSome d).ok c

/-- LAYER_LUT (R210): it completes once the shadow table is written, which waits while the window is synchronised (R208). -/
def execLayerLut (s : State) : Host.Outcome State Fault Refusal :=
  .next (s.serve 0x0204 fun c s =>
    let p := c.payload
    let l := leAt p 0 1
    let a := leAt p 8 8
    if 16 ≤ l || !s.hasLayer l || decide (1 < leAt p 1 1) then s.fail c stBAD_PARAM
    else if a ≠ 0 && !s.bufOk a 6150 then s.fail c stPROT_BOUND
    else
      if a = 0 then s.layerLutWrite c []
      else
        let r := (s.preLatch (s.rd (LAY_ROUTE_HEAD l))).fwRead a 6150
        if r.2.lutSyncing l then r.2.waitFor c (.lut l [] false [] r.1) else r.2.layerLutWrite c r.1)

/-- LAYER_KEY (R212). -/
def execLayerKey (s : State) : Host.Outcome State Fault Refusal :=
  .next (s.serve 0x0205 fun c s =>
    let p := c.payload
    let l := leAt p 0 1
    let v := fun k => leAt p (2 + 2 * k) 2
    if !s.hasLayer l || decide (1 < leAt p 1 1 ∨ v 1 < v 0 ∨ v 3 < v 2 ∨ v 5 < v 4) then s.fail c stBAD_PARAM
    else
      (s.writeLayer l fun s =>
        let s := (s.wr (LAY_KEY_CTRL_EN l) (leAt p 1 1)).wr (LAY_KEY_R_MIN l) (v 0)
        let s := ((s.wr (LAY_KEY_R_MAX l) (v 1)).wr (LAY_KEY_G_MIN l) (v 2)).wr (LAY_KEY_G_MAX l) (v 3)
        (s.wr (LAY_KEY_B_MIN l) (v 4)).wr (LAY_KEY_B_MAX l) (v 5)).ok c)

/-! ### Writing a Forme (R34, R120) -/

/-- Take the layers of a head's shadow Forme that a new Forme leaves out away from the head. -/
def State.unroute (s : State) (h : Nat) (keep : List Nat) : State :=
  (List.range (min 24 (s.rd (HEAD_FORME_CTRL_ENTRIES h)))).foldl (fun s k =>
    let l := s.rd (HEAD_FE_LAYER_LAYER h k)
    if l ∈ keep ∨ s.rd (LAY_ROUTE_HEAD l) ≠ h then s else s.wr (LAY_ROUTE_EN l) 0) s

/-- Entry `i` of a Forme payload into the shadow registers of a head, its layer routed there. -/
def State.writeEntry (s : State) (h : Nat) (p : List Byte) (i : Nat) : State :=
  let o := 16 + 16 * i
  let l := leAt p o 1
  let s := ((s.wr (HEAD_FE_LAYER_LAYER h i) l).wr (HEAD_FE_LAYER_BLEND h i) (leAt p (o + 1) 1)).wr (HEAD_FE_LAYER_ALPHA h i) (leAt p (o + 2) 2)
  let s := (s.wr (HEAD_FE_POS_X h i) (leAt p (o + 4) 2)).wr (HEAD_FE_POS_Y h i) (leAt p (o + 6) 2)
  let s := (s.wr (HEAD_FE_SIZE_W h i) (leAt p (o + 8) 2)).wr (HEAD_FE_SIZE_H h i) (leAt p (o + 10) 2)
  (s.wr (LAY_ROUTE_HEAD l) h).wr (LAY_ROUTE_EN l) 1

/-- Write a Forme into the shadow registers of its head. -/
def State.writeForme (s : State) (h : Nat) (p : List Byte) : State :=
  let n := leAt p 1 1
  let s := s.unroute h (formeLayers p)
  let s := ((s.wr (HEAD_BG_LO_B h) (leAt p 8 2)).wr (HEAD_BG_LO_G h) (leAt p 10 2)).wr (HEAD_BG_HI_R h) (leAt p 12 2)
  (List.range n).foldl (fun s i => s.writeEntry h p i) (s.wr (HEAD_FORME_CTRL_ENTRIES h) n)

/-- A state in which a Forme and the shadow state of its layers are live, with the head's live timing, map and write-back. -/
def State.formeView (s : State) (h : Nat) (p : List Byte) : State :=
  let s := (s.writeForme h p).latchPage (headPage h) [(0x400, 0x40C), (0x500, 0x680)]
  (formeLayers p).foldl (fun s l => s.latchPage (layerPage l) (layerShadow l)) s

/-! ### The checks of a Forme (R117) -/

/-- An entry of a Forme, in a state where it is live, breaks R117. -/
def State.entryBad (s : State) (h : Nat) (e : HeadEntry) : Bool :=
  let t := s.liveTiming h
  let l := e.layer
  let ax := s.axisH l e.w
  let ay := s.axisV l e.h
  let far := fun (a : Axis) => decide (a.crop % a.d ≠ 0 ∨ a.size * 64 < a.t ∨ 4 * a.t < a.size)
  let lead := if s.entryScaled e then t.lead - 4 else t.lead - 1
  decide (e.w = 0 ∨ e.h = 0 ∨ t.hActive < e.x + e.w ∨ t.vActive < e.y + e.h) ||
  (if l < 16 then far ax || far ay else decide (e.w ≠ s.lrd (LAY_CROP_SIZE_W l) ∨ e.h ≠ s.lrd (LAY_CROP_SIZE_H l))) ||
  (decide (s.lrd (LAY_CTRL_READY_POLICY l) = 1) && decide (lead < s.lrd (LAY_CTRL_WAIT_LINES l) + 1))

/-- A Forme payload breaks R117; `group` are the heads of its group. -/
def State.formeBad (s : State) (h : Nat) (p : List Byte) (group : List Nat) : Bool :=
  let n := leAt p 1 1
  let ls := formeLayers p
  decide (s.nHeads ≤ h ∨ 24 < n) || (List.range n).any (fun i => decide (3 < leAt p (17 + 16 * i) 1)) ||
  (List.range n).any (fun i => decide (16383 < leAt p (20 + 16 * i) 2 ∨ 16383 < leAt p (22 + 16 * i) 2 ∨ 32767 < leAt p (24 + 16 * i) 2 ∨
    32767 < leAt p (26 + 16 * i) 2)) ||
  !ls.Nodup || ls.any (fun l => !s.hasLayer l ||
    (List.range s.nHeads).any fun g => decide (g ≠ h) && (s.inLive g l || s.inPending g l) && !(decide (g ∈ group))) ||
  (let v := s.formeView h p
   (List.range n).any fun i => v.entryBad h (v.formeEntry h i))

/-! ### The commit path (R120 to R122, R125) -/

/-- Whether a command of the firmware already waits for a latch of a head (R121). -/
def State.headBusy (s : State) (h : Nat) : Bool :=
  s.fw.waiting.any fun w => match w.kind with
    | .commit hs _ _ => decide (h ∈ hs)
    | .queued hs _ _ => decide (h ∈ hs)
    | .timing g _ => decide (g = h)
    | .lut _ hs _ _ _ => decide (h ∈ hs)
    | _ => false

/-- A mode change of R259 runs on a head (R262). -/
def State.modeRuns (s : State) (h : Nat) : Bool := (s.hd h).mode.isSome

/-- Record B_h of an admitted plan until its latch. -/
def State.setAdm (s : State) (h b : Nat) : State := s.setHd h fun x => { x with admPend := some b }

/-- Commit single heads or a group for a command whose shadow state has been written (R122, R125); `force` says that it was queued behind
an earlier commit and is late whatever happens. A group that is executed again while it is still pending takes no second commit (R80). -/
def State.goCommit (s : State) (c : FwCmd) (hs : List Nat) (resp : List Byte) (force : Bool) : State :=
  match hs with
  | [h] =>
    -- a commit of a group that lets latches pass takes this one with it (R237, R239)
    let late := force || ((s.hd h).gen && (s.commitIsLate h || decide ((s.hd h).skip ≠ 0)))
    (s.waitFor c (.commit [h] late resp)).commitHead h
  | _ =>
    let late := force || hs.any fun h => s.commitIsLate h || decide (s.groupSkip hs h ≠ 0)
    let open_ := hs.filter fun h => s.flag (HEAD_STATUS_COMMIT_PENDING h)
    if s.took c ≠ [] ∧ open_ ≠ [] then s.waitFor c (.commit open_ late resp)
    else
      let r := s.commitGroup hs
      if r.1 then r.2.finish c stBUSY resp else (r.2.take c [1]).waitFor c (.commit hs late resp)

/-! ### FORME_COMMIT, FORME_GROUP_COMMIT, LAYER_FLIP, HEAD_LUT (R116, R123, R115, R213) -/

/-- Write an admitted Forme: EXPERT clears as the writing starts (R34). -/
def State.applyForme (s : State) (h : Nat) (p : List Byte) : State := (s.wr (HEAD_STATUS_EXPERT h) 0).writeForme h p

/-- Lines that cover T_STALL = 2 µs at a byte rate (R538). -/
def coverLines (r : Frac) : Nat := ceilDiv (r.n * 2) (max 1 r.d * 1000000 * 64)

/-- The firmware sets the marks of a head's two ports for a plan (R538): LOW covers T_STALL at the admitted rate of the head; the spec
gives no rule for HIGH, which is free (log 19). -/
def State.setMarks (s v : State) (h : Nat) : State :=
  let own := v.headDemand h (v.headBytes h).1
  ([(h, own), (4 + h, own), (8, v.ingestRate)].foldl (fun t x =>
    let p := x.1
    let r := t.freeNat
    let t := r.2.wr (DMC0_PANIC_LOW_LINES p) (min 65535 (coverLines x.2))
    { t with ddr := { t.ddr with highMark := t.ddr.highMark.set (Fin.ofNat 9 p) (some (r.1 % 65536)) } }) s).panicUpdate

/-- Place the regions of a head for a plan, note its B_h and set its ports' marks; `v` is a state in which the plan is live. An admitted
commit that waits in the queue of R121 reserves no Densum: where its regions no longer fit once it is applied, the head keeps the present
ones and the commit goes on, since the spec gives no other outcome (log 60, DESIGN CHOICE). -/
def State.takePlan (s v : State) (h : Nat) : State :=
  let q := v.queueNeeds h
  (((s.placeHead h q.1 q.2).getD s).setAdm h (v.headBytes h).1).setMarks v h

/-- The plane addresses that LAYER_FLIP writes. -/
def State.flipPlanes (s : State) (p : List Byte) : State :=
  let l := leAt p 0 1
  (s.wrAddr (LAY_PLANE0_LO_ADDR l) (LAY_PLANE0_HI_ADDR l) (leAt p 8 8)).wrAddr (LAY_PLANE1_LO_ADDR l) (LAY_PLANE1_HI_ADDR l) (leAt p 16 8)

/-- The shadow post-blend LUT that HEAD_LUT writes; `d` is the table read, `behind` whether a commit of the head is pending that does not
take it. -/
def State.applyHeadLut (s : State) (p d : List Byte) (behind : Bool) : State :=
  let h := leAt p 0 1
  let s := s.writeBehind behind (headPage h) 0x10000 fun s => s.wr (HEAD_POST_LUT_CTRL_EN h) (leAt p 1 1 % 2)
  if leAt p 8 8 = 0 then s else s.writeLut (HEAD_POST_LUT_ENTRY_EVEN h) 4097 behind d

end Sys2Proof.Machine
end

