-- ==== Sys2Proof/Machine/HeadCmd.lean ====
section
/-! DEFINITION. The mailbox commands of heads, the wall map and Sheet ports, and the rows of a head's latch, stop and restart. -/

namespace Sys2Proof.Machine

/-! ### SET_TIMING (R255 to R262, R719) -/

/-- CMP_KHZ as it acts. -/
def cmpKhz (p : List Byte) : Nat := if leAt p 52 4 = 0 then 1000000 else leAt p 52 4

/-- The timing of a SET_TIMING payload. -/
def payloadTiming (p : List Byte) : Timing :=
  let vt := leAt p 10 2
  let lead := leAt p 20 1
  ⟨leAt p 4 2, leAt p 6 2, leAt p 8 2, vt, lead, if leAt p 22 2 = 0 then vt - lead - 1 else leAt p 22 2, leAt p 12 4, leAt p 16 4⟩

/-- The choice of PLL under which a timing would come live on a head: with its generator running at the same dot rate, DIV_1 stays (R258,
R612, log 61). -/
def State.choiceFor (s : State) (h : Nat) (d : Rate) (khz : Nat) : Option PllChoice :=
  let k := s.rd (HPLL_OUT_DIV h 1) + 1
  if (s.hd h).gen && (s.hd h).tim.dot.same d && d.vcoOk k && decide (1 ≤ d.div0 k khz ∧ d.div0 k khz ≤ 1024) then some ⟨k, d.div0 k khz⟩
  else pllChoice d khz

/-- The parameter checks of SET_TIMING but that of the live Forme (R74, R221, R612). -/
def State.timingBad (s : State) (p : List Byte) : Bool :=
  let t := payloadTiming p
  decide (s.nHeads ≤ leAt p 0 1 ∨ 3 < leAt p 2 1 ∨ (leAt p 2 1 = 3 ∧ 48 ≤ leAt p 3 1)) || !t.ok (leAt p 22 2) ||
  decide (leAt p 2 1 ≠ 3 ∧ leAt p 3 1 ≠ 0) ||
  decide (t.vTotal ≤ leAt p 24 2 ∨ leAt p 26 1 = 0 ∨ 999999999 < leAt p 40 4 ∨ 1000000 < leAt p 52 4 ∨ 1000 < leAt p 58 2 ∨ 2000 < leAt p 60 2) ||
  (match s.choiceFor (leAt p 0 1) t.dot (cmpKhz p) with | some c => !fitOk t c | none => true)

/-- Write SET_TIMING's fields into the shadow registers. -/
def State.writeTiming (s : State) (p : List Byte) : State :=
  let h := leAt p 0 1
  let keep := fun (s : State) (f : Fld) (v : Nat) => if v = 0 then s else s.wr f v
  let s := (s.wr (HEAD_TIMING_H_H_ACTIVE h) (leAt p 4 2)).wr (HEAD_TIMING_H_H_TOTAL h) (leAt p 6 2)
  let s := (s.wr (HEAD_TIMING_V_V_ACTIVE h) (leAt p 8 2)).wr (HEAD_TIMING_V_V_TOTAL h) (leAt p 10 2)
  let s := (s.wr (HEAD_RATE_NUM_NUM h) (leAt p 12 4)).wr (HEAD_RATE_DEN_DEN h) (leAt p 16 4)
  let s := (s.wr (HEAD_LEAD_FETCH_LEAD h) (leAt p 20 1)).wr (HEAD_LEAD_LATCH_LINE h) (leAt p 22 2)
  let s := (s.wr (HEAD_FSYNC_EN h) (leAt p 21 1 % 2)).wr (HEAD_FSYNC_POL h) (leAt p 21 1 / 2 % 2)
  let s := (s.wr (HEAD_FSYNC_LINE h) (leAt p 24 2)).wr (HEAD_FSYNC_WIDTH h) (leAt p 26 1)
  let s := (s.wr (HEAD_ALIGN_SRC h) (leAt p 2 1)).wr (HEAD_ALIGN_AUTO_REPHASE h) (leAt p 1 1 / 2 % 2)
  let s := (s.wr (HEAD_ALIGN_STREAM h) (leAt p 3 1)).wr (HEAD_ALIGN_OFFSET_OFFSET h) (leAt p 28 4)
  let s := (s.wr (HEAD_T0_SEC_LO_SEC h) (leAt p 32 4)).wr (HEAD_T0_SEC_HI_SEC h) (leAt p 36 2)
  let s := keep (keep (keep (s.wr (HEAD_T0_NS_NS h) (leAt p 40 4)) (HEAD_ALIGN_TOL h) (leAt p 56 2)) (HEAD_PULL_PPM h) (leAt p 58 2))
    (HEAD_RAMP_RATE h) (leAt p 60 2)
  if (leAt p 1 1).testBit 2 then
    ((s.wr (HEAD_FRAME0_LO_FRAME0 h) (leAt p 44 4)).wr (HEAD_FRAME0_HI_FRAME0 h) (leAt p 48 2)).setHd h
      fun x => { x with frame0New := true, frame0Auto := false }
  else s.setHd h fun x => { x with frame0Auto := true }

/-- A state in which the new timing is live under the live Forme (R256). -/
def State.timingView (s : State) (p : List Byte) : State := (s.writeTiming p).latchPage (headPage (leAt p 0 1)) [(0x10, 0x24)]

/-- A rectangle of the live Forme leaves a raster. -/
def State.formeOutside (s : State) (h : Nat) (t : Timing) : Bool :=
  (List.range (s.formeCount h)).any fun k => let e := s.formeEntry h k; decide (t.hActive < e.x + e.w ∨ t.vActive < e.y + e.h)

/-! ### HEAD_WRITEBACK (R278) -/

/-- The parameter checks of HEAD_WRITEBACK. -/
def State.wbBad (s : State) (p : List Byte) : Bool :=
  let f := leAt p 1 1
  let t := s.liveTiming (leAt p 0 1)
  let pitch := leAt p 4 4
  let stride := leAt p 16 4
  decide (s.nHeads ≤ leAt p 0 1 ∨ ¬ (f = 0 ∨ f = 1 ∨ f = 3 ∨ f = 5)) ||
  decide (1 < leAt p 2 1 ∨ leAt p 3 1 = 0 ∨ 4 < leAt p 3 1 ∨ leAt p 8 8 % 64 ≠ 0 ∨ pitch % 64 ≠ 0 ∨ stride % 64 ≠ 0 ∨ 1048512 < pitch) ||
  (decide (f ≠ 0) && decide (pitch < wbLineBytes f t.hActive)) || decide (1 < leAt p 3 1 ∧ stride < pitch * t.vActive)

/-- Write HEAD_WRITEBACK's fields into the shadow registers. -/
def State.writeWb (s : State) (p : List Byte) : State :=
  let h := leAt p 0 1
  let s := ((s.wr (HEAD_WB_CTRL_FORMAT h) (leAt p 1 1)).wr (HEAD_WB_CTRL_POINT h) (leAt p 2 1)).wr (HEAD_WB_CTRL_BUFFERS h) (leAt p 3 1 - 1)
  let s := s.wrAddr (HEAD_WB_BASE_LO_ADDR h) (HEAD_WB_BASE_HI_ADDR h) (leAt p 8 8)
  (s.wr (HEAD_WB_PITCH_PITCH h) (leAt p 4 4 / 64)).wr (HEAD_WB_STRIDE_STRIDE h) (leAt p 16 4 / 64)

/-- A state in which the new write-back is live. -/
def State.wbView (s : State) (p : List Byte) : State := (s.writeWb p).latchPage (headPage (leAt p 0 1)) [(0xB0, 0xC4)]

/-! ### CABINET_MAP_LOAD (R327 to R329) -/

/-- Base of the map area of a head that is not live (R329). -/
def State.altMap (s : State) (h : Nat) : Nat :=
  match (s.hd h).mapAreas with
  | some (a, b) =>
    let x := dsmBase + (s.regionSpan a).1
    if s.mapBase h = x then dsmBase + (s.regionSpan b).1 else x
  | none => 0

/-- Write a map into the area and the registers of its head; `d` are the entries. -/
def State.writeMap (s : State) (p d : List Byte) : State :=
  let h := leAt p 0 1
  let a := s.altMap h
  let s := (s.fwWrite a d).wrAddr (HEAD_CAB_MAP_LO_ADDR h) (HEAD_CAB_MAP_HI_ADDR h) a
  ((s.wr (HEAD_CAB_COUNT_COUNT h) (leAt p 4 2)).wr (HEAD_OUT_CTRL_DEPTH h) (leAt p 2 1)).wr (HEAD_OUT_CTRL_DITHER_EN h) (leAt p 1 1 / 2 % 2)

/-- A state in which the new map is live. -/
def State.mapView (s : State) (p d : List Byte) : State := (s.writeMap p d).latchPage (headPage (leAt p 0 1)) [(0x100, 0x110)]

/-- The first entry of a buffer that R328 refuses, and its status. -/
def State.mapFault (s : State) (p d : List Byte) : Option (Nat × Nat) :=
  let t := s.liveTiming (leAt p 0 1)
  (List.range (leAt p 4 2)).findSome? fun i =>
    let e := MapEntry.parse (slice d (64 * i) 64)
    if !s.entryFields (leAt p 2 1) e || decide (t.hActive < e.x + e.w ∨ t.vActive < e.y + e.h) then some (i, stBAD_PARAM)
    else if !s.entryCal e then some (i, stPROT_BOUND)
    else none

/-! ### What an admitted command writes, and its commit -/

/-- A state in which every Forme of a group is live. -/
def State.groupView (s : State) (fs : List (Nat × List Byte)) : State :=
  let s := fs.foldl (fun s f => s.unroute f.1 (formeLayers f.2)) s
  fs.foldl (fun s f => s.formeView f.1 f.2) s

/-- The values kept aside behind a head's pending commit are given up: the firmware commits again before that latch (R114). -/
def State.dropBehind (s : State) (h : Nat) : State :=
  let ps := (headPage h, 0x10000) :: (s.layersOf h).map fun l => (layerPage l, if l < 16 then 0x4000 else 0x1000)
  { s with back := s.back.filter fun e => !ps.any fun p => decide (p.1 ≤ e.1 ∧ e.1 < p.1 + p.2) }

/-- Write the shadow state of a command that has passed its checks, and place its head's regions; `d` is what the checks read from the
command's buffer. -/
def State.applyCommit (s : State) (c : FwCmd) (d : List Byte) : State :=
  let p := c.payload
  let h := leAt p 0 1
  match c.cmd with
  | 0x0210 => s.flipPlanes p
  | 0x0230 => (s.takePlan (s.formeView h p) h).applyForme h p
  | 0x0231 =>
    let fs := (splitFormes (headsOf (leAt p 12 1)) d).getD []
    let v := s.groupView fs
    let s := fs.foldl (fun s f => s.takePlan v f.1) s
    let s := fs.foldl (fun s f => s.unroute f.1 (formeLayers f.2)) s
    fs.foldl (fun s f => s.applyForme f.1 f.2) s
  | 0x0240 => s.applyHeadLut p d false
  | 0x0301 => (s.takePlan (s.timingView p) h).writeTiming p
  | 0x0320 => (s.takePlan (s.wbView p) h).writeWb p
  | 0x0401 => (s.takePlan (s.mapView p d) h).writeMap p d
  | _ => s

/-- The compositor's divider for a timing that comes live without a hold: the VCO and DIV_1 stay (R258, R612, log 61). -/
def State.cmpDivide (s : State) (h : Nat) (d : Rate) (khz : Nat) : State :=
  let v := d.div0 (s.rd (HPLL_OUT_DIV h 1) + 1) khz
  if 1 ≤ v ∧ v ≤ 1024 then s.wr (HPLL_OUT_DIV h 0) (v - 1) else s

/-- Commit a new timing (R258, R259, R261, R719). -/
def State.goTiming (s : State) (c : FwCmd) (old : Timing) (resp : List Byte) (force : Bool) : State :=
  let p := c.payload
  let h := leAt p 0 1
  let d := (payloadTiming p).dot
  if !(s.hd h).gen then
    let s := match pllChoice d (cmpKhz p) with | some k => s.pllProgram h d k | none => s
    s.goCommit c [h] resp false
  else if old.dot.same d then (s.cmpDivide h d (cmpKhz p)).goCommit c [h] resp force
  else
    let late := force || s.commitIsLate h || decide ((s.hd h).skip ≠ 0)
    let m : ModeChange := ⟨false, s.now, 0, late, s.flag (HEAD_STATUS_REEF h), cmpKhz p, false, 0, c, resp⟩
    ((s.setHd h fun x => { x with mode := some m }).waitFor c (.timing h resp)).commitHead h

/-- Write and commit; a latch of the heads whose time has come takes the state before it. -/
def State.startCommit (s : State) (c : FwCmd) (hs : List Nat) (resp d : List Byte) (force : Bool) : State :=
  -- a member's own commit counts as pending in the cycle of its latch (R241)
  let refused := decide (c.cmd = 0x0231) && (s.took c).isEmpty && s.groupRefused hs
  let s := hs.foldl State.preLatch s
  let t := 16 + leAt c.payload 0 1
  if c.cmd = 0x0240 && leAt c.payload 8 8 ≠ 0 && s.lutSyncing t then s.waitFor c (.lut t hs force resp d)
  else
    let old := (s.hd (leAt c.payload 0 1)).tim
    let s := hs.foldl State.dropBehind (s.applyCommit c d)
    if refused then (s.refuseGroup hs).finish c stBUSY resp
    else if c.cmd = 0x0301 then s.goTiming c old resp force
    else s.goCommit c hs resp force

/-- A head is to enter Reef mode at the end of its frame. -/
def State.reefPending (s : State) (h : Nat) : Bool :=
  s.flag (HEAD_CTRL_REEF h) && !s.flag (HEAD_STATUS_REEF h) && (s.hd h).composing

/-- Enter Reef mode for a command (R264, R268). -/
def State.goReef (s : State) (c : FwCmd) (h : Nat) (deep : Bool) : State :=
  let stops := (s.hd h).composing
  let s := s.reefEnter h deep
  if stops then s.waitFor c (.headStopped h) else s.ok c

/-- A command whose checks have completed: its commit, or its place behind an earlier one (R121); a SET_TIMING for a head that stands
becomes live at once (R261, R719). -/
def State.submit (s : State) (c : FwCmd) (hs : List Nat) (resp d : List Byte) : State :=
  let now_ := decide (c.cmd = 0x0301) && hs.all fun h => !(s.hd h).gen
  if hs.any s.headBusy && !now_ then s.waitFor c (.queued hs resp d) else s.startCommit c hs resp d false

/-- Whether a waiting command blocks a head for those behind it. -/
def Waiting.holds (w : Waiting) (hs : List Nat) : Bool :=
  match w.kind with
  | .commit gs _ _ => gs.any fun g => decide (g ∈ hs)
  | .queued gs _ _ => gs.any fun g => decide (g ∈ hs)
  | .timing g _ => decide (g ∈ hs)
  | .lut _ gs _ _ _ => gs.any fun g => decide (g ∈ hs)
  | _ => false

/-- The first queued command that no earlier one holds back. -/
def readyQueued : List Waiting → List Waiting → Option Waiting
  | _, [] => none
  | before, w :: t =>
    match w.kind with
    | .queued hs _ _ => if (before.any fun b => b.holds hs) then readyQueued (before ++ [w]) t else some w
    | _ => readyQueued (before ++ [w]) t

/-- Whether a command other than a queued one holds a head. -/
def State.latchHeld (s : State) (hs : List Nat) : Bool :=
  s.fw.waiting.any fun w => match w.kind with | .queued _ _ _ => false | _ => w.holds hs

/-- Commands that the firmware serialises at Reef mode and mode changes (R270), once what they wait for is over. -/
def State.serveReef (s : State) : State :=
  s.fw.waiting.foldl (fun s w =>
    let t := { s with fw := { s.fw with waiting := s.fw.waiting.erase w } }
    match w.kind with
    | .reef h deep => if s.modeRuns h then s else t.goReef w.cmd h deep
    | .afterReef h resp =>
      -- the frame in which its checks completed is over (R122)
      if s.reefPending h then s
      else if (s.hd h).gen && s.headBusy h then t.waitFor w.cmd (.queued [h] resp [])
      else t.startCommit w.cmd [h] resp [] true
    | _ => s) s

/-- Queued commits whose turn has come (R121), in the cycle after a latch. -/
def State.serveQueued (s : State) : State :=
  (List.range s.fw.waiting.length).foldl (fun s _ =>
    if !s.serving then s
    else match readyQueued [] s.fw.waiting with
      | some w =>
        match w.kind with
        | .queued hs resp d =>
          -- a SET_TIMING waits until a head that is to enter Reef mode has done so (R270)
          if s.latchHeld hs || (decide (w.cmd.cmd = 0x0301) && hs.any s.reefPending) then s
          else { s with fw := { s.fw with waiting := s.fw.waiting.erase w } }.startCommit w.cmd hs resp d true
        | _ => s
      | none => s) (if s.serving then s.serveReef else s)

/-! ### The commands -/

/-- The 32 B response of a commit command whose admission check did not run. -/
def noAdmission (st : Nat) : Admission := ⟨st, 0xFFFF, 0, 0, 0, 0, 0, 0⟩

/-- FORME_COMMIT (R116 to R122). -/
def execFormeCommit (s : State) : Host.Outcome State Fault Refusal :=
  .next (s.serve 0x0230 fun c s =>
    let p := c.payload
    let h := leAt p 0 1
    if c.len ≠ 16 + 16 * leAt p 1 1 then s.fail c stBAD_LENGTH
    else if s.formeBad h p [] then s.fail c stBAD_PARAM
    else if s.modeRuns h then s.fail c stBUSY
    else
      let v := s.formeView h p
      let a := (v.admitHead h v.othersBytes).1
      if a.status ≠ stOK ∨ leAt p 2 2 % 2 = 1 then s.finish c a.status (a.resp 0) else s.submit c [h] (a.resp 0) [])

/-- The admission of the members of a group, one after the other (R124). -/
def State.admitGroup (s : State) (fs : List (Nat × List Byte)) : List Admission :=
  let b := fun (k : Nat) => if fs.any (fun f => decide (f.1 = k)) then (s.headBytes k).1 else s.othersBytes k
  (fs.foldl (fun (r : List Admission × State) f => let a := r.2.admitHead f.1 b; (r.1 ++ [a.1], a.2)) ([], s)).1

/-- FORME_GROUP_COMMIT (R123 to R125). -/
def execFormeGroupCommit (s : State) : Host.Outcome State Fault Refusal :=
  .next (s.serve 0x0231 fun c s =>
    let p := c.payload
    let hs := headsOf (leAt p 12 1)
    let none32 := (hs.map fun _ => (noAdmission stOK).resp 0).flatten
    if hs.length < 2 ∨ 16 ≤ leAt p 12 1 ∨ hs.any (fun h => decide (s.nHeads ≤ h)) then s.fail c stBAD_PARAM
    else if !s.bufOk (leAt p 0 8) (leAt p 8 4) then s.fail c stPROT_BOUND
    else
      let r := s.fwRead (leAt p 0 8) (leAt p 8 4)
      let s := r.2
      match splitFormes hs r.1 with
      | none => s.fail c stBAD_PARAM
      | some fs =>
        let only := fs.map fun f => leAt f.2 2 2 % 2
        if fs.any (fun f => decide (leAt f.2 0 1 ≠ f.1) || s.formeBad f.1 f.2 hs) then s.fail c stBAD_PARAM
        else if !((fs.flatMap fun f => formeLayers f.2).Nodup) then s.fail c stBAD_PARAM
        else if only.any (fun o => decide (o = 1)) && only.any (fun o => decide (o = 0)) then s.fail c stBAD_PARAM
        else if hs.any fun h => !(s.hd h).gen || s.modeRuns h then s.finish c stBUSY none32
        else
          let as_ := (s.groupView fs).admitGroup fs
          let worst := as_.foldl (fun w a => if budgetRank a.status < budgetRank w then a.status else w) stOK
          let resp := (as_.map fun a => a.resp 0).flatten
          if worst ≠ stOK ∨ only.all (fun o => decide (o = 1)) then s.finish c worst resp else s.submit c hs resp r.1)

/-- LAYER_FLIP (R115). -/
def execLayerFlip (s : State) : Host.Outcome State Fault Refusal :=
  .next (s.serve 0x0210 fun c s =>
    let p := c.payload
    let l := leAt p 0 1
    let f := s.rd (LAY_CTRL_FORMAT l)
    match (if s.hasLayer l then (List.range s.nHeads).find? fun h => s.inLive h l else none) with
    | none => s.fail c stBAD_PARAM
    | some h =>
      if planesBad f (leAt p 8 8) (leAt p 16 8) then s.fail c stBAD_PARAM
      else if s.rd (LAY_CTRL_SOURCE l) = 0 && !s.planesFit f (leAt p 8 8) (leAt p 16 8) (s.rd (LAY_PITCH0_PITCH l) * 64)
          (s.rd (LAY_PITCH1_PITCH l) * 64) (s.rd (LAY_SRC_SIZE_W l)) (s.rd (LAY_SRC_SIZE_H l)) then s.fail c stPROT_BOUND
      else s.submit c [h] ((noAdmission stOK).resp 0) [])

/-- What HEAD_LUT without COMMIT writes. -/
def State.headLutWrite (s : State) (c : FwCmd) (d : List Byte) : State :=
  (s.applyHeadLut c.payload d (s.flag (HEAD_STATUS_COMMIT_PENDING (leAt c.payload 0 1)))).finish c stOK (leBytes 4 0)

/-- The commands that have waited for the synchronisation of a window go on, unless one of them starts it anew (R208, R210, R215). -/
def State.lutServe (s : State) (t : Nat) : State :=
  if !s.serving then s
  else s.fw.waiting.foldl (fun s w =>
    let u := { s with fw := { s.fw with waiting := s.fw.waiting.erase w } }
    match w.kind with
    | .lut k hs force resp d =>
      if decide (k ≠ t) || s.lutSyncing k then s
      else if k < 16 then u.layerLutWrite w.cmd d
      else if hs.isEmpty then u.headLutWrite w.cmd d
      else u.startCommit w.cmd hs resp d force
    | _ => s) s

/-- HEAD_LUT (R213 to R216); a table write waits while the window is synchronised (R208). -/
def execHeadLut (s : State) : Host.Outcome State Fault Refusal :=
  .next (s.serve 0x0240 fun c s =>
    let p := c.payload
    let h := leAt p 0 1
    if s.nHeads ≤ h ∨ 3 < leAt p 1 1 then s.fail c stBAD_PARAM
    else if leAt p 8 8 ≠ 0 && !s.bufOk (leAt p 8 8) 24582 then s.fail c stPROT_BOUND
    else if s.modeRuns h then s.fail c stBUSY
    else
      let r := if leAt p 8 8 = 0 then ([], s) else s.fwRead (leAt p 8 8) 24582
      if (leAt p 1 1).testBit 1 then r.2.submit c [h] (leBytes 4 0) r.1
      else
        let s := r.2.preLatch h
        if leAt p 8 8 ≠ 0 && s.lutSyncing (16 + h) then s.waitFor c (.lut (16 + h) [] false (leBytes 4 0) r.1)
        else s.headLutWrite c r.1)

/-- The response so far of a SET_TIMING whose own mode change runs: a new active core executes it again, and it goes on waiting (R80). -/
def State.ownMode (s : State) (h : Nat) (c : FwCmd) : Option (List Byte) :=
  (s.hd h).mode.bind fun m => if m.cmd = c then some m.resp else none

/-- SET_TIMING (R255). -/
def execSetTiming (s : State) : Host.Outcome State Fault Refusal :=
  .next (s.serve 0x0301 fun c s =>
    let p := c.payload
    let h := leAt p 0 1
    let full := fun (a : Admission) => a.resp 0 ++ List.replicate 8 (0 : Byte)
    match s.ownMode h c with
    | some resp => s.waitFor c (.timing h resp)
    | none =>
    if s.timingBad p || s.formeOutside h (payloadTiming p) then s.fail c stBAD_PARAM
    else if s.modeRuns h then s.fail c stBUSY
    else
      let v := s.timingView p
      let a := (v.admitHead h v.othersBytes).1
      if a.status ≠ stOK ∨ leAt p 1 1 % 2 = 1 then s.finish c a.status (full a)
      else if s.reefPending h then s.waitFor c (.afterReef h (full a))
      else s.submit c [h] (full a) [])

/-- HEAD_WRITEBACK (R278). -/
def execHeadWriteback (s : State) : Host.Outcome State Fault Refusal :=
  .next (s.serve 0x0320 fun c s =>
    let p := c.payload
    let h := leAt p 0 1
    let f := leAt p 1 1
    let t := s.liveTiming h
    if s.wbBad p then s.fail c stBAD_PARAM
    else if f ≠ 0 && !s.wbFits (leAt p 8 8) (leAt p 4 4) (leAt p 16 4) (leAt p 3 1) t.vActive (wbLineBytes f t.hActive) then s.fail c stPROT_BOUND
    else if s.modeRuns h then s.fail c stBUSY
    else
      let v := s.wbView p
      let a := (v.admitHead h v.othersBytes).1
      if a.status ≠ stOK then s.finish c a.status (a.resp 0)
      else
        -- what the frames touch of DDR5 is filled first (R526)
        let base := leAt p 8 8
        let t := if f ≠ 0 && s.inDdr base then
            s.fillRange base (base + (leAt p 3 1 - 1) * leAt p 16 4 + (t.vActive - 1) * leAt p 4 4 + wbLineBytes f t.hActive - 1)
          else s
        t.submit c [h] (a.resp 0) [])

/-- CABINET_MAP_LOAD (R327 to R329). -/
def execCabinetMapLoad (s : State) : Host.Outcome State Fault Refusal :=
  .next (s.serve 0x0401 fun c s =>
    let p := c.payload
    let h := leAt p 0 1
    let n := leAt p 4 2
    if s.nHeads ≤ h ∨ leAt p 2 1 < 8 ∨ 16 < leAt p 2 1 ∨ 4096 < n then s.fail c stBAD_PARAM
    else if n ≠ 0 && !s.bufOk (leAt p 8 8) (n * 64) then s.fail c stPROT_BOUND
    else
      let r := s.fwRead (leAt p 8 8) (n * 64)
      let s := r.2
      match s.mapFault p r.1 with
      | some (i, st) => s.finish c st ({ noAdmission st with item := i }.resp 0)
      | none =>
        if (s.hd h).mapAreas.isNone then s.fail c stREJECTED_DENSUM
        else
          let v := s.mapView p r.1
          let a := (v.admitHead h v.othersBytes).1
          if a.status ≠ stOK ∨ leAt p 1 1 % 2 = 1 then s.finish c a.status (a.resp 0) else s.submit c [h] (a.resp 0) r.1)

/-- HEAD_RUN (R269, R270). -/
def execHeadRun (s : State) : Host.Outcome State Fault Refusal :=
  .next (s.serve 0x0302 fun c s =>
    let h := leAt c.payload 0 1
    let run := leAt c.payload 1 1
    if s.nHeads ≤ h ∨ 1 < run then s.fail c stBAD_PARAM
    else if s.rd (HEAD_CTRL_EN h) = run then s.ok c
    else if run = 1 then
      if s.flag (HEAD_STATUS_DSM_BLOCK h) then s.fail c stBUSY
      else
        let deep := s.flag (HEAD_STATUS_REEF h) && (s.hd h).deepIn
        let s := s.headStart h
        if deep then s.ok c else s.waitFor c (.headReleased h)
    else
      let stops := (s.hd h).composing
      let s := s.headOff h
      if stops then s.waitFor c (.headStopped h) else s.ok c)

/-- HEAD_REEF (R263 to R268). -/
def execHeadReef (s : State) : Host.Outcome State Fault Refusal :=
  .next (s.serve 0x0310 fun c s =>
    let h := leAt c.payload 0 1
    let act := leAt c.payload 1 1
    if s.nHeads ≤ h ∨ 1 < act then s.fail c stBAD_PARAM
    else if act = 0 then
      if s.flag (HEAD_STATUS_REEF h) then s.ok c
      else if s.modeRuns h then s.waitFor c (.reef h ((leAt c.payload 2 1).testBit 0))
      else s.goReef c h ((leAt c.payload 2 1).testBit 0)
    else
      let was := s.flag (HEAD_STATUS_REEF h)
      let s := s.reefExit h
      if was && !s.kept h then s.waitFor c (.headReleased h) else s.ok c)

/-- SHEET_PORT_SET (R330, R331). -/
def execSheetPortSet (s : State) : Host.Outcome State Fault Refusal :=
  .next (s.serve 0x0410 fun c s =>
    let d := c.payload
    let p := leAt d 0 1
    let ctrl := leAt d 1 1
    let mode := leAt d 2 1
    let fed := (List.range s.nHeads).any fun h => (s.mapEntries h).any fun e => e.pair && decide (e.port / 2 = p / 2)
    if s.nSheet ≤ p ∨ 2 < mode ∨ (p % 2 = 1 ∧ mode ≠ 0) ∨ leAt d 3 1 = 0 ∨ leAt d 4 2 < 0x600 ∨ 16777215 < leAt d 24 4 ∨
        (p % 2 = 0 ∧ mode = 0 ∧ fed) then s.fail c stBAD_PARAM
    else
      let rate := ctrl / 2 % 2
      let t := s.wr (SP_CTRL_RATE p) rate
      let slower := decide (s.rd (SP_CTRL_RATE p) ≠ rate) && !(t.portLoad p).le (t.portMax p)
      if slower then s.fail c stREJECTED_SHEET
      else
        let restart := decide (s.rd (SP_CTRL_RATE p) ≠ rate ∨ s.rd (SP_CTRL_FEC p) ≠ ctrl / 4 % 2)
        let s := if restart then s.sheetDown p else s
        let s := ((s.wr (SP_CTRL_EN p) (ctrl % 2)).wr (SP_CTRL_RATE p) rate).wr (SP_CTRL_FEC p) (ctrl / 4 % 2)
        let s := if p % 2 = 0 then s.setPairMode (p / 2) mode else s
        let s := ((s.wr (SP_LOOP_MISS p) (leAt d 3 1)).wr (SP_ETHERTYPE_TYPE p) (leAt d 4 2)).wr (SP_LOOP_PERIOD p) (leAt d 6 2) |>.probesOff p
        let mac := fun k => beAt d k 2
        let s := (s.wr (SP_MAC_HI_ADDR p) (mac 8)).wr (SP_MAC_LO_ADDR p) (beAt d 10 4)
        let s := (s.wr (SP_GROUP_HI_ADDR p) (mac 16)).wr (SP_GROUP_LO_ADDR p) (beAt d 18 4)
        (s.wr (SP_SHOW_DELAY_NS p) (leAt d 24 4)).ok c)

/-! ### Rows of a head's clock -/

/-- LATCH (R233). -/
def execLatch (h : Fin 4) (s : State) : Host.Outcome State Fault Refusal :=
  .next (s.when (s.genUp h && (s.hd h).gen) fun t => (t.preLatch h).serveQueued)

/-- LINE_WINDOW_START (R218). -/
def execLineWindowStart (h : Fin 4) (s : State) : Host.Outcome State Fault Refusal :=
  .next (s.when (s.genUp h && (s.hd h).gen) fun t => (t.withFsync h fun t => t.lineWindow h).serveQueued)

/-- HEAD_STOP (R250): the end of the last line window of a head that is to stop. -/
def execHeadStop (h : Fin 4) (s : State) : Host.Outcome State Fault Refusal :=
  .next (s.when (s.genUp h && s.lastWindow h && (s.hd h).stopDue) fun t =>
    let t := (t.latchIfDue h).deadlines h
    let t := if (t.hd h).firstFrame then t.headRelease h else t
    (t.withFsync h fun t => t.headStop h).serveQueued)

/-- HEAD_RESTART (R251): a frame start of its reference at which a head restarts. -/
def execHeadRestart (h : Fin 4) (s : State) : Host.Outcome State Fault Refusal :=
  .next (s.when (s.genUp h && s.restartReady h && !(s.hd h).composing) fun t =>
    (t.withFsync h fun t => ((t.headRestart h).prefetch h).windowStart h 0).serveQueued)

/-- RELEASE (R252): the first frame after a restart ends. -/
def execRelease (h : Fin 4) (s : State) : Host.Outcome State Fault Refusal :=
  .next (s.when (s.genUp h && s.lastWindow h && (s.hd h).firstFrame) fun t => ((t.deadlines h).headRelease h).serveQueued)

/-! ### Register writes of a head that act at once -/

/-- Clear SLACK_MIN and BYTES_PEAK (R226, R228). -/
def State.statsClr (s : State) (h : Nat) : State := (s.wr (HEAD_SLACK_MIN_MIN h) 0xFFFF).wr (HEAD_BYTES_PEAK_BYTES h) 0

end Sys2Proof.Machine
end

