-- ==== Sys2Proof/Machine/Clocks.lean ====
section
/-! DEFINITION. Clocks, timing synthesis and device time (chapter of that name): head PLL events, phase modes, genlock, steps and
discipline of device time, and the mailbox commands of the chapter. -/

namespace Sys2Proof.Machine

/-- Change the clocks. -/
def State.setClocks (s : State) (f : Clocks → Clocks) : State := { s with clocks := f s.clocks }

/-! ### Head PLLs (R614, R615, R618, R619) -/

/-- Whether a head's timing generator stands after step 4 of its mode change (R259). -/
def State.inHold (s : State) (h : Nat) : Bool :=
  !(s.hd h).gen && (match (s.hd h).mode with | some m => m.ramped | none => false)

/-- The lock of step 5 of R259: the head of a mode change restarts. The ramp time in µs is rounded to the nearest, as HOLD_US is. -/
def State.modeLock (s : State) (h : Nat) : State :=
  if s.inHold h then
    let us := fun (m : ModeChange) => if m.rampUs = 0 then (s.now - m.holdAt + 500) / 1000 else m.rampUs
    (s.setHd h fun x => { x with mode := x.mode.map fun m => { m with rampUs := us m } }).requestRestart h
  else s

/-- PLL_LOCK (R614): a head PLL inside its range locks; the wait of a requested restart counts from here (R251). -/
def execPllLock (n : Fin 4) (s : State) : Host.Outcome State Fault Refusal :=
  .next (if s.headUp n && s.flag (HPLL_CTRL_EN n) && (s.pll n).lockSince.isSome && s.pllInRange n then
    (((s.wr (HPLL_STATUS_LOCKED n) 1).setPll n fun p => { p with lockSince := none }).setHd n fun x =>
      { x with restart := x.restart.map fun _ => s.now }).modeLock n
  else s)

/-- PLL_UNLOCK (R615). -/
def execPllUnlock (n : Fin 4) (s : State) : Host.Outcome State Fault Refusal :=
  .next (if s.headUp n && s.flag (HPLL_STATUS_LOCKED n) then (s.pllRelock n).headUnlock n else s)

/-- The feedback swap at the end of a ramp (R618). -/
def State.rampEnd (s : State) (n : Nat) : State :=
  let s := (s.wr (HPLL_FB_FB_INT n) (s.rd (HPLL_FB_NEXT_INT_INT n))).wr (HPLL_FRAC_FB_FRAC n) (s.rd (HPLL_FB_NEXT_FRAC_FRAC n))
  (((s.wr (HPLL_STATUS_RAMPING n) 0).wr (HEAD_STATUS_RAMPING n) 0).setPll n fun p => { p with ramp := none }).modeLock n

/-- RAMP_SEGMENT_END (R617, R618). -/
def execRampSegmentEnd (n : Fin 4) (s : State) : Host.Outcome State Fault Refusal :=
  .next (match (if s.headUp n then (s.pll n).ramp else none) with
  | none => s
  | some (seg, since, off) =>
    let endAt := since + s.rd (HPLL_RAMP_DUR_US n seg) * 1000
    if s.now < endAt then s
    else if seg < s.rd (HPLL_RAMP_CTRL_SEGS n) then s.setPll n fun p => { p with ramp := some (seg + 1, endAt, s.rampAt n seg since off) }
    else s.rampEnd n)

/-- SYNC_EDGE (R621): a rising edge on SYNC resets the dividers of every armed, locked PLL that is not ramping; its outputs stop low, and
restart 51.2 ns later. -/
def execSyncEdge (s : State) : Host.Outcome State Fault Refusal :=
  .next (if s.mainUp then
    let s := (s.count TSY_SYNC_EDGES_COUNT 1).setCause (causeTsy 8)
    (List.range s.nHeads).foldl (fun s n =>
      if s.flag (HPLL_CTRL_MODE n) && s.flag (HPLL_CTRL_SYNC_ARM n) && (s.pll n).syncAt.isNone && s.flag (HPLL_STATUS_LOCKED n) && !s.flag (HPLL_STATUS_RAMPING n) then
        s.setPll n fun p => { p with syncAt := some (s.now + 52) }
      else s) s
  else s)

/-! ### Genlock (R623 to R626) -/

/-- Whether an edge at this moment is accepted (R624). -/
def State.edgeOk (s : State) : Bool :=
  let p := s.rd TSY_GENLOCK_PERIOD_NS
  if s.clocks.first then true
  else match s.clocks.edge with
    | none => true
    | some (_, at_, _) => decide (((s.time.ns : Int) - at_ - p).natAbs * 100 ≤ p)

/-- Heads that follow a lost reference are no longer aligned (R359, R626). -/
def State.refLost (s : State) (p : Nat → Bool) : State :=
  (List.range 4).foldl (fun s h => if (s.hd h).gen && p h then s.alignLost h else s) s

/-- GENLOCK_IN is lost where no edge has been accepted for 3 × GENLOCK_PERIOD (R626). -/
def State.genlockTimeout (s : State) : State :=
  match s.clocks.edge with
  | some (_, _, at_) =>
    if s.flag TSY_GENLOCK_STATUS_PRESENT && decide (at_ + 3 * s.rd TSY_GENLOCK_PERIOD_NS < s.now) then
      let s := ((s.wr TSY_GENLOCK_STATUS_PRESENT 0).setCause (causeTsy 6)).report EV_GENLOCK_LOST (src 10 0) 0
      (s.setClocks fun c => { c with first := true }).refLost fun h => s.lrd (HEAD_ALIGN_SRC h) = 2
    else s
  | none => s

/-- GENLOCK_EDGE (R624, R626). -/
def execGenlockEdge (s : State) : Host.Outcome State Fault Refusal :=
  .next (if !s.mainUp || !s.flag TSY_GENLOCK_EN || decide (s.rd TSY_GENLOCK_PERIOD_NS = 0) then s
  else
  -- a loss whose time has passed comes before the edge (R40)
  let s := s.genlockTimeout
  if s.edgeOk then
    let k := match s.clocks.edge with | some (j, _, _) => j + 1 | none => 0
    let t := (s.setClocks fun c => { c with
      edge := some (k, s.time.ns, s.now)
      edges := ((c.edge.map fun e => e.2.1).toList ++ c.edges).take 8
      first := false }).wr TSY_GENLOCK_LAST_NS_NS s.timeNs
    if s.flag TSY_GENLOCK_STATUS_PRESENT then t else (t.wr TSY_GENLOCK_STATUS_PRESENT 1).setCause (causeTsy 7)
  else s.count TSY_GLITCHES_COUNT 1)

/-- GENLOCK_LOSS (R626). -/
def execGenlockLoss (s : State) : Host.Outcome State Fault Refusal := .next (s.when s.mainUp State.genlockTimeout)

/-- A write of GENLOCK: the first edge after EN is set is accepted without the test of R624. -/
def State.genlockWrite (s : State) (en pol : Nat) : State :=
  let s := if en = 1 ∧ s.rd TSY_GENLOCK_EN = 0 then s.setClocks fun c => { c with first := true } else s
  (s.wr TSY_GENLOCK_EN en).wr TSY_GENLOCK_POL pol

/-! ### Device time (R627 to R632) -/

/-- A gate list that waits for its start begins, and the running entry follows device time (R446, R632). -/
def State.gateStep (s : State) (p : Nat) : State :=
  let t := s.gateOperate p
  match t.governs p with
  | some g => t.wr (HLYQ_GATE_STATUS_ENTRY p) (g.entryAt t.time.ns)
  | none => t

/-- Device time is stepped (R630, R632). -/
def State.timeStep (s : State) (t : Nat) : State :=
  let d : Int := (t % (2 ^ 48 * 1000000000) : Nat) - s.time.ns
  let s := { s with time := ⟨t % (2 ^ 48 * 1000000000), 0⟩ }
  let s := (List.range s.nHeads).foldl (fun s h => s.measureStep h d) s
  ((((s.setCause (causeTsy 5)).report EV_TIME_STEP (src 10 0) 0)).gateStep 0).gateStep 1

/-- A write of 1 to SET_GO. -/
def State.setGo (s : State) : State :=
  s.timeStep ((s.rd TSY_SET_SEC_LO_SEC + s.rd TSY_SET_SEC_HI_SEC * 2 ^ 32) * 1000000000 + s.rd TSY_SET_NS_NS)

/-- A slew: FREQ_ADJ takes a free value within SLEW_MAX of the last tracked frequency and within ±200 ppm (R627, R630), unless the host
has written it at expert level since the last TIME_CONFIG (R33). -/
def State.slew (s : State) : State :=
  let m : Int := s.clocks.slewMax * 1000
  let lo := max (-200000) (s.clocks.trackedPpb - m)
  let hi := min 200000 (s.clocks.trackedPpb + m)
  let r := s.freeNat
  r.2.setAdj (wrap 32 (lo + (r.1 : Int) % (hi - lo + 1)))

/-- Whether the firmware uses a measured offset: that of the selected source; or, to step device time only, that of a PTP master that it is
acquiring while device time runs free (R369, R628, R630; log 61). In HOLDOVER nothing moves device time (R631). -/
def State.steersBy (s : State) (k : Nat) : Bool :=
  let cur := s.rd TSY_TIME_STATUS_SOURCE
  let follower := s.joined && decide (s.rd HLY_TIME_MASTER_ID ≠ s.ringId)
  decide (k = cur) || (decide (k = 0 ∧ cur = 3 ∧ s.rd ING_PTP_STATUS_STATE = 1) &&
    (decide (s.rd TSY_TIME_CTRL_MODE = 1) || (decide (s.rd TSY_TIME_CTRL_MODE = 0) && !follower)))

/-- TIME_DISCIPLINE (R630): the firmware uses a measured offset of the selected source: a step, or a slew. The source counts as
tracked at an offset below 1 µs. -/
def execTimeDiscipline (s : State) : Host.Outcome State Fault Refusal :=
  .next (match (if s.serving then s.clocks.fresh else none) with
  | none => s
  | some (k, off) =>
    let ppb := sext 32 (s.rd TSY_FREQ_ADJ_PPB)
    let s := s.setClocks fun c => { c with fresh := none }
    if !s.steersBy k then s
    else
      let used := decide (k = s.rd TSY_TIME_STATUS_SOURCE)
      let tracked := decide (off.natAbs < 1000)
      let s := if used then
          s.setClocks fun c => { c with trackedAt := some s.now, trackedPpb := if tracked then ppb else c.trackedPpb }
        else s
      if s.clocks.stepThresh < off.natAbs then s.timeStep ((s.time.ns : Int) - off).toNat else if used then s.slew else s)

/-- HOLDOVER_EXPIRE (R628): no source has been in use for HOLDOVER_S. -/
def execHoldoverExpire (s : State) : Host.Outcome State Fault Refusal :=
  .next (if s.serving && decide (s.rd TSY_TIME_STATUS_SOURCE = 2) && !s.holding then s.retime else s)

/-- TIME_VALID_LOSS (HLY.STATUS.TIME_VALID, R628): no SYNC has been used within 4 SYNC periods. -/
def execTimeValidLoss (s : State) : Host.Outcome State Fault Refusal :=
  .next (if s.mainUp && s.timeLate s.now && !s.syncWaits then s.timeLost else s)

/-! ### Mailbox commands (R633 to R636) -/

/-- TIME_CONFIG (R633). -/
def execTimeConfig (s : State) : Host.Outcome State Fault Refusal :=
  .next (s.serve 0x0901 fun c s =>
    let p := c.payload
    let slew := leAt p 2 2
    if 3 < leAt p 0 1 ∨ slew = 0 ∨ 200 < slew ∨ leAt p 4 4 = 0 ∨ leAt p 8 4 = 0 then s.fail c stBAD_PARAM
    else
      let s := ((s.commandCovers [TSY_FREQ_ADJ_PPB.off]).wr TSY_TIME_CTRL_MODE (leAt p 0 1)).setClocks fun k => { k with
        slewMax := slew
        stepThresh := leAt p 4 4
        holdover := leAt p 8 4 }
      s.retime.ok c)

/-- The firmware reads TIME_NS, which captures the seconds for the reads that follow (R627). -/
def State.captureTime (s : State) : State :=
  let put := fun (l : List (Nat × Word)) (off n : Nat) => Sparse.put (fun _ => (0 : Word)) l off (BitVec.ofNat 32 n)
  { s with capture := put (put s.capture 0x170608 (s.timeSec % 2 ^ 32)) 0x17060C (s.timeSec / 2 ^ 32) }

/-- TIME_GET (R634). -/
def execTimeGet (s : State) : Host.Outcome State Fault Refusal :=
  .next (s.serve 0x0902 fun c s =>
    s.captureTime.finish c stOK (leBytes 8 s.timeSec ++ leBytes 4 s.timeNs ++ leBytes 1 (s.rd TSY_TIME_STATUS_SOURCE)
      ++ leBytes 1 (s.rd ING_PTP_STATUS_STATE) ++ [0, 0] ++ leBytes 4 (wrap 32 s.clocks.lastOffset) ++ leBytes 4 (s.rd TSY_FREQ_ADJ_PPB)))

/-- GENLOCK_SET (R635). -/
def execGenlockSet (s : State) : Host.Outcome State Fault Refusal :=
  .next (s.serve 0x0910 fun c s =>
    let p := c.payload
    let num := leAt p 6 4
    let den := leAt p 10 4
    let mult := (List.range 4).map fun h => leAt p (2 + h) 1
    if num = 0 ∨ den = 0 ∨ num * 1000 < 23976 * den ∨ 480 * den < num ∨ mult.any fun m => decide (m = 0 ∨ 8 < m) then s.fail c stBAD_PARAM
    else
      let s := (s.wr TSY_GENLOCK_PERIOD_NS (den * 1000000000 / num)).wr TSY_GL_MULT_MULT
        ((List.range 4).foldl (fun a h => a + mult.getD h 1 * 16 ^ h) 0)
      (s.genlockWrite (leAt p 0 1 % 2) (leAt p 0 1 / 2 % 2)).ok c)

/-- Whether a divider gives a head's clock output more than 200 MHz, or is none (R611, R636). -/
def State.divTooFast (s : State) (h d : Nat) : Bool :=
  let f : Nat := s.rd (HPLL_FB_FB_INT h) * 2 ^ 24 + s.rd (HPLL_FRAC_FB_FRAC h)
  let ppb := s.steerNow h + s.rampOffset h / 16
  let top : Int := ((200000000 * d * 2 ^ 24 * 1000000000 : Nat) : Int)
  decide (d = 0 ∨ 1024 < d) || decide (top < 156250000 * (f : Int) * (1000000000 + ppb))

/-- CLOCK_OUT_SET (R3, R636). -/
def execClockOutSet (s : State) : Host.Outcome State Fault Refusal :=
  .next (s.serve 0x0920 fun c s =>
    let p := c.payload
    let en := leAt p 0 1
    let ks := List.range (2 * s.nHeads)
    if 2 ^ (2 * s.nHeads) ≤ en ∨ ks.any fun k => s.divTooFast (k / 2) (leAt p (2 + 2 * k) 2) then s.fail c stBAD_PARAM
    else
      let s := ks.foldl (fun s k =>
        (s.wr (HPLL_OUT_DIV (k / 2) (2 + k % 2)) (leAt p (2 + 2 * k) 2 - 1)).wr (HPLL_OUT_EN (k / 2) (2 + k % 2)) (en / 2 ^ k % 2)) s
      (s.wr TSY_CLKOUT_EN en).ok c)

/-! ### The passing of time (R627, log 1) -/

/-- Device time, a 48-bit count of seconds, after a nanosecond at a frequency of so many parts in 10⁹ above nominal. -/
def DevTime.advance (t : DevTime) (ppb : Int) : DevTime :=
  let f := t.frac + 1000000000 + ppb
  ⟨(t.ns + (f / 1000000000).toNat) % (2 ^ 48 * 1000000000), f % 1000000000⟩

/-- The outputs of a head PLL that SYNC has stopped restart together (R621). -/
def State.syncRestart (s : State) (n : Nat) : State :=
  if (s.pll n).syncAt = some s.now then
    ((s.setPll n fun p => { p with syncAt := none }).wr (HPLL_CTRL_SYNC_ARM n) 0).wr (HPLL_STATUS_SYNCED n) 1
  else s

/-- One nanosecond passes: the block's own clock, and device time while the main die runs, steered within ±200 ppm (R627); outputs that SYNC
has stopped restart when their time has come (R621). -/
def State.tick (s : State) : State :=
  let ppb := max (-200000) (min 200000 (sext 32 (s.rd TSY_FREQ_ADJ_PPB)))
  let t := { s with now := s.now + 1, time := if s.mainUp then s.time.advance ppb else s.time }
  (((t.syncRestart 0).syncRestart 1).syncRestart 2).syncRestart 3

end Sys2Proof.Machine
end

