-- ==== Sys2Proof/Machine/Stream.lean ====
section
/-! DEFINITION. Streams (chapter "Ingest of network video"): storage formats, frames and their times, frame-sync buffers, line rings,
sequence numbers, policing, loss. -/

namespace Sys2Proof.Machine

/-! ### Storage formats (R344, R345) -/

/-- SAMPLING as it acts: 0 4:2:2, 1 4:4:4, 2 RGB. -/
def State.sSampling (s : State) (k : Nat) : Nat := let v := s.rd (INGS_S_FMT_SAMPLING k); if v = 3 then 0 else v
/-- DEPTH as it acts, in bits. -/
def State.sDepth (s : State) (k : Nat) : Nat := let v := s.rd (INGS_S_FMT_DEPTH k); if v = 0 then 8 else if v = 2 then 12 else 10

/-- The storage format of a sampling, depth and width (table of R344). -/
def storeFormat (sampling depth width : Nat) : Nat :=
  if sampling = 0 then (if depth = 8 then 0x10 else if depth = 10 ∧ width % 6 = 0 then 0x11 else 0x15)
  else if sampling = 1 then (if depth = 12 then 0x05 else 0x14)
  else if depth = 8 then 0x02 else if depth = 10 then 0x03 else 0x05

/-- PITCH in units of 64 B (R345). -/
def storePitch (fmt width : Nat) : Nat := ceilDiv (rowBytes0 fmt width) 64

/-- Bytes of a stored frame (R345). -/
def frameBytes (fmt pitch height : Nat) : Nat := pitch * 64 * height * (if fmt = 0x15 then 2 else 1)

/-- S_FMT.STORE and PITCH follow the other fields. -/
def State.storeFields (s : State) (k : Nat) : State :=
  let f := storeFormat (s.sSampling k) (s.sDepth k) (s.rd (INGS_S_GEOM_W k))
  (s.wr (INGS_S_FMT_STORE k) f).wr (INGS_S_FMT_PITCH k) (storePitch f (s.rd (INGS_S_GEOM_W k)))

/-- Bytes and columns of a pixel group (ST 2110-20; log 20). -/
def pgroup (sampling depth : Nat) : Nat × Nat :=
  if sampling = 0 then (depth / 2, 2) else if depth = 8 then (3, 1) else if depth = 10 then (15, 4) else (9, 2)

/-- Sample `j` of packed samples of `depth` bits, most significant bit first. -/
def sampleAt (d : List Byte) (depth j : Nat) : Nat :=
  let o := j * depth
  beNat (slice d (o / 8) 3) / 2 ^ (24 - o % 8 - depth) % 2 ^ depth

/-- A value of `w` bits at a bit position of the little-endian word at an address. -/
def putBits (a lsb w v : Nat) : List PixWrite :=
  let m := (2 ^ w - 1) * 2 ^ lsb
  let x := v % 2 ^ w * 2 ^ lsb
  (List.range ((lsb + w + 7) / 8)).filterMap fun i =>
    if m / 256 ^ i % 256 = 0 then none else some ⟨a + i, x / 256 ^ i % 256, m / 256 ^ i % 256⟩

/-- The bytes that a pair of columns of 4:2:2 sampling takes in a row at `r0`, its chroma at `r1`. -/
def storePair (fmt depth r0 r1 x cb y0 cr y1 : Nat) : List PixWrite :=
  if fmt = 0x10 then
    let a := r0 + x / 2 * 4
    putBits a 0 8 y0 ++ putBits (a + 1) 0 8 cb ++ putBits (a + 2) 0 8 y1 ++ putBits (a + 3) 0 8 cr
  else if fmt = 0x11 then
    let g := r0 + x / 6 * 16
    let put := fun i v => let j := 2 * (x % 6) + i; putBits (g + j / 3 * 4) (j % 3 * 10) 10 v
    put 0 cb ++ put 1 y0 ++ put 2 cr ++ put 3 y1
  else
    let sh := 2 ^ (16 - depth)
    let c := r1 + x / 2 * 4
    putBits (r0 + 2 * x) 0 16 (y0 * sh) ++ putBits (r0 + 2 * x + 2) 0 16 (y1 * sh) ++ putBits c 0 16 (cb * sh) ++ putBits (c + 2) 0 16 (cr * sh)

/-- The bytes that a column of 4:4:4 or RGB sampling takes; `a` to `c` are its samples as received. -/
def storeOne (fmt depth sampling r0 x a b c : Nat) : List PixWrite :=
  if fmt = 0x14 then
    let m := if depth = 8 then 4 else 1
    putBits (r0 + 4 * x) 0 32 (a * m + b * m * 2 ^ 10 + c * m * 2 ^ 20)
  else if fmt = 0x02 then putBits (r0 + 4 * x) 0 32 (a * 2 ^ 16 + b * 2 ^ 8 + c)
  else if fmt = 0x03 then putBits (r0 + 4 * x) 0 32 (3 * 2 ^ 30 + a * 2 ^ 20 + b * 2 ^ 10 + c)
  else if sampling = 1 then putBits (r0 + 8 * x) 0 64 (0xFFFF * 2 ^ 48 + b * 16 * 2 ^ 32 + a * 16 * 2 ^ 16 + c * 16)
  else
    let e := fun v => v * 16 + v / 256
    putBits (r0 + 8 * x) 0 64 (0xFFFF * 2 ^ 48 + e a * 2 ^ 32 + e b * 2 ^ 16 + e c)

/-! ### The RFC 4175 payload (R341, R342) -/

/-- One sample row data segment: row, first column, columns, packed samples. -/
structure Srd where
  row : Nat
  col : Nat
  n : Nat
  data : List Byte
deriving DecidableEq, Repr

/-- The SRD headers of a payload, at most `fuel` of them: length, field bit, row, column. None where a continuation goes beyond. -/
def srdHeads : Nat → List Byte → Option (List (Nat × Bool × Nat × Nat))
  | 0, _ => none
  | fuel + 1, d =>
    let h := (beAt d 0 2, decide (128 ≤ beAt d 2 1), beAt d 2 2 % 32768, beAt d 4 2 % 32768)
    if beAt d 4 2 < 32768 then some [h] else (srdHeads fuel (d.drop 6)).map fun t => h :: t

/-- Cut the data into segments. -/
def srdCut (bytes cols : Nat) : List (Nat × Bool × Nat × Nat) → List Byte → List Srd
  | [], _ => []
  | h :: t, d => ⟨h.2.2.1, h.2.2.2, h.1 / bytes * cols, d.take h.1⟩ :: srdCut bytes cols t (d.drop h.1)

/-- The segments of a payload; none where R342 discards the packet. -/
def State.srds (s : State) (k : Nat) (payload : List Byte) : Option (List Srd) :=
  let g := pgroup (s.sSampling k) (s.sDepth k)
  match srdHeads 3 (payload.drop 2) with
  | none => none
  | some hs =>
    let hdr := 2 + 6 * hs.length
    let total := hs.foldl (fun a h => a + h.1) 0
    let bad := fun (h : Nat × Bool × Nat × Nat) =>
      h.2.1 || decide (h.1 % g.1 ≠ 0 ∨ s.rd (INGS_S_GEOM_H k) ≤ h.2.2.1 ∨ s.rd (INGS_S_GEOM_W k) < h.2.2.2 + h.1 / g.1 * g.2)
    if payload.length < hdr + total ∨ hs.any bad then none else some (srdCut g.1 g.2 hs (payload.drop hdr))

/-- What a segment writes into a row at `r0` and, for format 0x15, its chroma at `r1`. -/
def State.srdWrites (s : State) (k : Nat) (d : Srd) (r0 r1 : Nat) : List PixWrite :=
  let sp := s.sSampling k
  let dp := s.sDepth k
  let fmt := s.rd (INGS_S_FMT_STORE k)
  let v := sampleAt d.data dp
  if sp = 0 then
    (List.range (d.n / 2)).flatMap fun i =>
      storePair fmt dp r0 r1 (d.col + 2 * i) (v (4 * i)) (v (4 * i + 1)) (v (4 * i + 2)) (v (4 * i + 3))
  else
    (List.range d.n).flatMap fun i => storeOne fmt dp sp r0 (d.col + i) (v (3 * i)) (v (3 * i + 1)) (v (3 * i + 2))

/-- A byte with the bits of a write replaced. -/
def PixWrite.apply (w : PixWrite) (b : Byte) : Byte := (b &&& ~~~ BitVec.ofNat 8 w.mask) ||| BitVec.ofNat 8 (w.val &&& w.mask)

/-- Store pixel bytes, line by line, as requester ING. -/
def State.storePix (s : State) (ws : List PixWrite) : State :=
  let lines := (ws.map fun w => w.addr / 64 * 64).eraseDups
  lines.foldl (fun s la =>
    let here := ws.filter fun w => decide (w.addr / 64 * 64 = la)
    let data := (List.range 64).map fun i =>
      let xs := here.filter fun w => decide (w.addr = la + i)
      if xs.isEmpty then none else some (xs.foldl (fun b w => w.apply b) (s.byte (la + i)))
    (s.lineWrite reqIng la data false).2) s

/-! ### Frame-sync buffers (R350 to R352) -/

/-- BUFFERS as it acts. -/
def State.sBuffers (s : State) (k : Nat) : Nat := let v := s.rd (INGS_S_BUF_BUFFERS k); if 3 ≤ v ∧ v ≤ 6 then v else 3

/-- Whether a layer holds a buffer of a stream. -/
def State.bufHeld (s : State) (k b : Nat) : Bool :=
  (List.range 64).any fun l =>
    decide ((s.lay l).held = some b ∧ s.lrd (LAY_CTRL_STREAM l) = k ∧ s.lrd (LAY_CTRL_SOURCE l) = 1)

/-- The buffer for a new frame (R352). -/
def State.pickBuf (s : State) (k : Nat) : Option Nat :=
  let new := (s.strm k).newest.bind DoneVideo.buf
  match (List.range (s.sBuffers k)).find? fun b => !s.bufHeld k b && decide (new ≠ some b) with
  | some b => some b
  | none => match new with | some b => if s.bufHeld k b then none else some b | none => none

/-- The FLAGS of a stream. -/
def State.sFlag (s : State) (k bit : Nat) : Bool := (s.rd (INGS_S_CTRL_FLAGS k)).testBit bit

/-- The first accepted packet of a new frame (R352). -/
def State.startFrame (s : State) (k ts seq : Nat) : State :=
  -- a latch whose moment has come is made before the writer chooses (coincidence table)
  let s := if s.sFlag k 1 then s.latched (List.range 4) else s
  let x := s.strm k
  let b := if s.sFlag k 1 then s.pickBuf k else none
  let repl := match x.newest with | some d => b.isSome && decide (d.buf = b) | none => false
  let lost := match b with | some i => decide (i ∈ x.stale) || (repl && !(x.newest.any DoneVideo.latched)) | none => false
  let s := s.when lost fun t => t.count (INGS_FRAMES_SKIPPED_COUNT k) 1
  let s := s.when (s.sFlag k 1 && b.isNone) fun t => t.count (INGS_FRAMES_DISCARDED_COUNT k) 1
  s.setStrm k fun x => { x with
    cur := some ⟨x.nextNum, ts, b, seq, seq, 0, none⟩
    nextNum := x.nextNum + 1
    newest := if repl then none else x.newest
    stale := x.stale.filter fun i => some i ≠ b }

/-- Layers that wait for the stream take its frame (R133). -/
def State.wakeLayers (s : State) (k : Nat) (d : DoneVideo) : State :=
  (List.range 64).foldl (fun s l =>
    let y := s.lay l
    let kind := s.lrd (LAY_CTRL_SOURCE l)
    if y.waiting.isSome && decide (kind ≠ 0 ∧ s.lrd (LAY_CTRL_STREAM l) = k) then
      let late := s.waitOver l
      let s := s.setLay l fun z => { z with waiting := none }
      let s := s.wr (LAY_STATUS_READY l) 1
      let s := if late then s.repeatFrame l k
        else if kind = 2 then s.takeFrame l k (s.strm k).nextNum none else s.takeFrame l k d.num d.buf
      match y.waiting with
      | some (h, _) => s.fetchLate h l
      | none => s
    else s) s

/-! ### Times (R349, R360) -/

/-- N of a frame whose time is a count of 90 kHz, where one has it (R349). The model takes N ≥ 0 only: the spec does not say whether a
reference time may lie before the PTP epoch (log 60, DESIGN CHOICE). -/
def frameAt (num den : Nat) (x : Int) : Option Nat :=
  let n := ceilDiv (x.toNat * num) (max 1 (den * 90000))
  if 0 ≤ x ∧ n * den * 90000 / max 1 num = x.toNat then some n else none

/-- The first N among counts of 90 kHz that carry the timestamp: `a`, `b` and so on, each pair one wrap farther on either side. -/
def nearestFrame (num den : Nat) : Nat → Int → Int → Int → Option Nat
  | 0, _, _, _ => none
  | fuel + 1, a, b, step =>
    match frameAt num den a with
    | some n => some n
    | none => match frameAt num den b with
      | some n => some n
      | none => nearestFrame num den fuel (a - step) (b + step) step

/-- N of a frame that arrives at a device time with an RTP timestamp (R349): the timestamp's counts repeat against the frame grid after at
most DEN × 90,000 wraps. -/
def refFrame (num den ts now : Nat) : Option Nat :=
  let m : Int := (now * 90000 / 1000000000 : Nat)
  let d := (m - ts) % 2 ^ 32
  let lo := m - d
  let hi := lo + 2 ^ 32
  let fuel := den * 90000 + 1
  if d < 2 ^ 31 then nearestFrame num den fuel lo hi (2 ^ 32) else nearestFrame num den fuel hi lo (-(2 ^ 32))

/-- S_ARRIVAL of a complete frame: a free value where no N satisfies R349, or row 0 never came (log 6). -/
def State.noteArrival (s : State) (k : Nat) (c : RxVideo) : State :=
  let num := s.rd (INGS_S_RATE_NUM_NUM k)
  let den := s.rd (INGS_S_RATE_DEN_DEN k)
  let v : Option Int := match c.arrival with
    | some t => (refFrame num den c.ts t).map fun n => ((t * num : Nat) : Int) - (n * den * 1000000000 : Nat)
    | none => none
  let r := match v with | some v => (v / (max 1 num : Nat), s) | none => let f := s.freeNat; (sext 32 f.1, f.2)
  let s := r.2.wr (INGS_S_ARRIVAL_NS k) (wrap 32 r.1)
  if sext 32 (s.rd (INGS_S_ARRIVAL_MAX_NS k)) < r.1 then s.wr (INGS_S_ARRIVAL_MAX_NS k) (wrap 32 r.1) else s

/-! ### Complete frames (R347, R348) -/

/-- The frame in progress is complete. -/
def State.endFrame (s : State) (k : Nat) (c : RxVideo) : State :=
  let damaged := decide (c.got ≠ (c.lastSeq + 2 ^ 32 - c.firstSeq) % 2 ^ 32 + 1)
  let s := s.count (INGS_FRAMES_COUNT k) 1
  let s := s.when damaged fun t => (t.wr (INGS_S_STATUS_DAMAGED k) 1).count (INGS_FRAMES_DAMAGED_COUNT k) 1
  let s := s.noteArrival k c
  let s := s.setStrm k fun x => { x with cur := none, lastTs := some c.ts }
  let offered := if s.sFlag k 1 then c.buf.isSome && !(damaged && s.sFlag k 6) else true
  if offered then
    let buf := if s.sFlag k 1 then c.buf else none
    let d : DoneVideo := ⟨c.num, buf, false, damaged⟩
    let old := match (s.strm k).newest with
      | some o => if o.latched then [] else o.buf.toList
      | none => []
    let s := s.setStrm k fun x => { x with newest := some d, stale := old ++ x.stale }
    ((s.wr (INGS_S_STATUS_NEWEST k) (buf.getD 0)).wr (INGS_S_RTP_TS k) c.ts).wakeLayers k d
  else s

/-! ### Line rings (R354) -/

/-- Write a row of the line ring. A cut-off whose moment has passed comes first: it does not find the row (R356). -/
def State.writeRow (s : State) (k num row : Nat) (ws : List PixWrite) : State :=
  let slot := row % s.ringLines k
  let s := (List.range s.nHeads).foldl State.cutOffs s
  (s.storePix ws).setStrm k fun x => { x with slots := (slot, num, row) :: x.slots.filter fun e => e.1 ≠ slot }

/-- Write those rows in progress, the oldest first, that a test takes. -/
def State.flushRows (s : State) (k : Nat) (p : Nat → Nat → Bool) : State :=
  let rows := (s.strm k).row
  (rows.filter fun e => p e.1 e.2.1).foldl (fun s e => s.writeRow k e.1 e.2.1 e.2.2)
    (s.setStrm k fun x => { x with row := rows.filter fun e => !p e.1 e.2.1 })

/-- A segment of frame `num` reaches the line ring. -/
def State.ringSrd (s : State) (k num : Nat) (d : Srd) : State :=
  let n := s.ringLines k
  let base := s.lrBase k
  let p := s.sPitch k
  let ws := s.srdWrites k d (base + d.row % n * p) (base + p * n + d.row % n * p)
  let here := fun f r => decide (f = num ∧ r = d.row)
  let s := s.flushRows k fun f r => decide (f < num ∨ f = num ∧ r < d.row)
  -- a segment of a row that has been written goes to its slot while the slot holds that row
  if (num, d.row) ∈ (s.strm k).slots.map Prod.snd then s.storePix ws
  else
    let old := (s.strm k).row.find? fun e => here e.1 e.2.1
    let s := s.setStrm k fun x => { x with
      row := (x.row.filter fun e => !here e.1 e.2.1) ++ [(num, d.row, (old.map fun e => e.2.2).getD [] ++ ws)] }
    if s.rd (INGS_S_GEOM_W k) ≤ d.col + d.n then s.flushRows k here else s

/-! ### Sequence numbers (R362, R363) -/

/-- How far a sequence number lies ahead of the newest accepted. -/
def State.seqAhead (s : State) (k seq : Nat) : Int :=
  match (s.strm k).seqTop with
  | some t => sext 32 (seq + 2 ^ 32 - t)
  | none => 1

/-- Accept a sequence number. `span` counts the window's numbers from the first accepted one on: those fall out lost or accepted (R363). -/
def State.takeSeqNum (s : State) (k seq : Nat) : State :=
  let x := s.strm k
  match x.seqTop with
  | none => s.setStrm k fun x => { x with seqTop := some seq, seqs := [seq], span := 1 }
  | some _ =>
    let d := s.seqAhead k seq
    if d ≤ 0 then s.setStrm k fun x => { x with seqs := seq :: x.seqs }
    else
      let top := x.seqTop.getD seq
      let keep := (seq :: x.seqs).filter fun n => decide ((seq + 2 ^ 32 - n) % 2 ^ 32 < 4096)
      let mine := x.seqs.filter fun n => decide ((top + 2 ^ 32 - n) % 2 ^ 32 < x.span)
      let out := mine.countP fun n => !decide ((seq + 2 ^ 32 - n) % 2 ^ 32 < 4096)
      let total := x.span + d.toNat
      let s := s.count (INGS_SEQ_LOST_COUNT k) (total - 4096 - out)
      s.setStrm k fun x => { x with seqTop := some seq, seqs := keep, span := min 4096 total }

/-! ### Loss (R363, R364) -/

/-- A cause LOST (0) or UP (1) of a stream. -/
def State.streamCause (s : State) (k b : Nat) : State := (s.wr ING_EVT_STREAM_HANDLE k).setCause (causeIng b)

/-- What a stream was receiving is given up. -/
def State.dropCur (s : State) (k : Nat) : State := s.setStrm k fun x => { x with cur := none }

/-- Heads that follow a stream are no longer aligned (R359). -/
def State.streamRefLost (s : State) (k : Nat) : State :=
  (List.range 4).foldl (fun s h =>
    if (s.hd h).gen && decide (s.lrd (HEAD_ALIGN_SRC h) = 3 ∧ s.lrd (HEAD_ALIGN_STREAM h) = k) then s.alignLost h else s) s

/-- LOSS_MS in ns. -/
def State.lossMs (s : State) (k : Nat) : Nat := s.rd (INGS_S_LOSS_MS k) * 1000000

/-- A stream is LOST where no packet has been accepted for LOSS_MS (R364). -/
def State.streamTimeout (s : State) (k : Nat) : State :=
  if s.flag (INGS_S_STATUS_RECEIVING k) && decide (s.lossMs k ≠ 0 ∧ (s.strm k).lastPkt + s.lossMs k < s.now) then
    let s := ((s.wr (INGS_S_STATUS_RECEIVING k) 0).streamCause k 0).report EV_STREAM_LOST (src 7 k) 0
    (s.dropCur k).streamRefLost k
  else s

/-- STREAM_LOST (R364): no packet has been accepted for LOSS_MS. -/
def execStreamLost (k : Fin 48) (s : State) : Host.Outcome State Fault Refusal := .next (s.when s.mainUp fun t => t.streamTimeout k)

/-- LEG_LOST (R363): no packet has arrived on a leg for LOSS_MS. -/
def execLegLost (k : Fin 48) (leg : Fin 2) (s : State) : Host.Outcome State Fault Refusal :=
  let f := if leg.val = 0 then INGS_S_STATUS_LEG1_OK k else INGS_S_STATUS_LEG2_OK k
  .next (if s.mainUp && s.flag f && decide (s.lossMs k ≠ 0 ∧ (s.strm k).legAt[leg] + s.lossMs k < s.now) then s.wr f 0 else s)

/-! ### Packets (R343, R361 to R367) -/

/-- A packet is accepted: the stream receives (R364). -/
def State.streamUp (s : State) (k : Nat) : State :=
  let s := s.setStrm k fun x => { x with lastPkt := s.now }
  if s.flag (INGS_S_STATUS_RECEIVING k) then s
  else ((s.wr (INGS_S_STATUS_RECEIVING k) 1).streamCause k 1).report EV_STREAM_UP (src 7 k) 0

/-- A stream's bucket holds what has run in up to now, before its rate or size changes (R365, R376). -/
def State.settleBucket (s : State) (k : Nat) : State :=
  s.setStrm k fun x => { x with bucket := x.bucket.fill (s.rd (INGS_S_POLICE_RATE k)) (s.rd (INGS_S_BURST_BURST k)) s.now }

/-- Policing of a stream's packet by its IPv4 total length (R365). -/
def State.streamPolice (s : State) (k len : Nat) : Bool × State :=
  let rate := s.rd (INGS_S_POLICE_RATE k)
  let burst := s.rd (INGS_S_BURST_BURST k)
  if rate = 0 ∨ burst = 0 then (true, s)
  else
    let b := (s.strm k).bucket.fill rate burst s.now
    if len * 8000 ≤ b.tokens then (true, s.setStrm k fun x => { x with bucket := ⟨b.tokens - len * 8000, b.at_⟩ })
    else (false, ((s.setStrm k fun x => { x with bucket := b }).count (INGS_POLICED_COUNT k) 1).setCause (causeIng 3))

/-- Relay an accepted RTP packet of a network stream (R366, R386). -/
def State.relay (s : State) (k : Nat) (rtp : List Byte) : State :=
  let id := s.rd (INGS_S_RING_ID k)
  if 16 ≤ k ∨ id = 0 ∨ !s.joined then s
  else if 2048 < rtp.length then s.count HLY_RELAY_OVERSIZE_COUNT 1
  else s.ringInsert s.ringAOut 6 6 0xFFFF id rtp false

/-- The frame in progress ends where a packet carries another RTP timestamp (R347). -/
def State.endOther (s : State) (k ts : Nat) : State :=
  match (s.strm k).cur with
  | some c => if c.ts = ts then s else s.endFrame k c
  | none => s

/-- The segments of a packet of frame `num` go to the stream's line ring, where it has one (R354). -/
def State.ringSrds (s : State) (k num : Nat) (ds : List Srd) : State :=
  if s.sFlag k 2 then ds.foldl (fun s d => s.ringSrd k num d) s else s

/-- The video of an accepted packet (R347, R348, R352, R354). -/
def State.videoPacket (s : State) (k ts seq : Nat) (marker : Bool) (ds : List Srd) : State :=
  let s := s.endOther k ts
  let tail := (s.strm k).cur.isNone && decide ((s.strm k).lastTs = some ts)
  -- a row of a frame that is over is still written (R354)
  if tail then s.ringSrds k ((s.strm k).nextNum - 1) ds
  else
    let s := if (s.strm k).cur.isNone then s.startFrame k ts seq else s
    let first := ds.any fun d => decide (d.row = 0)
    let note := fun (c : RxVideo) => { c with
      firstSeq := if sext 32 (seq + 2 ^ 32 - c.firstSeq) < 0 then seq else c.firstSeq
      lastSeq := if 0 < sext 32 (seq + 2 ^ 32 - c.lastSeq) then seq else c.lastSeq
      got := c.got + 1
      arrival := if first then some s.time.ns else c.arrival }
    let s := s.setStrm k fun x => { x with cur := x.cur.map note }
    match (s.strm k).cur with
    | none => s
    | some c =>
      let s := match (if s.sFlag k 1 then c.buf else none) with
        | some b =>
          let base := s.fsBase k + b * s.fsStride k
          let p := s.sPitch k
          s.storePix (ds.flatMap fun d => s.srdWrites k d (base + d.row * p) (base + p * s.rd (INGS_S_GEOM_H k) + d.row * p))
        | none => s
      let s := s.ringSrds k c.num ds
      if marker then s.endFrame k c else s

/-- A packet of a stream, on a leg: its RTP packet and IPv4 total length. -/
def State.streamPacket (s : State) (k leg : Nat) (rtp : List Byte) (len : Nat) : State :=
  -- a loss whose time has passed comes before the packet (R40)
  let s := s.streamTimeout k
  let s := ((s.count (INGS_PKTS_COUNT k) 1).setStrm k fun x => { x with legAt := x.legAt.set (Fin.ofNat 2 leg) s.now }).wr
    (if leg = 0 then INGS_S_STATUS_LEG1_OK k else INGS_S_STATUS_LEG2_OK k) 1
  if s.sFlag k 4 then s
  else
    let payload := rtp.drop 12
    let seq := beAt payload 0 2 * 65536 + beAt rtp 2 2
    let ahead := s.seqAhead k seq
    if ahead ≤ -4096 then s.count (INGS_LATE_PKTS_COUNT k) 1
    else if ahead ≤ 0 ∧ seq ∈ (s.strm k).seqs then s.count (INGS_DUPLICATES_COUNT k) 1
    else match s.srds k payload with
      | none => s.count (INGS_FORMAT_ERR_COUNT k) 1
      | some ds =>
        match s.streamPolice k len with
        | (false, s) => s
        | (true, s) =>
          let s := ((s.takeSeqNum k seq).streamUp k).relay k rtp
          s.videoPacket k (beAt rtp 4 4) seq (decide (128 ≤ beAt rtp 1 1)) ds

/-! ### Starting and stopping a stream (R375) -/

/-- A stream starts anew: no frame in progress, no sequence number, a full bucket. -/
def State.streamReset (s : State) (k : Nat) (keepNewest : Bool) : State :=
  let full := bucketSize (s.rd (INGS_S_BURST_BURST k))
  let s := s.setStrm k fun x => { x with
    cur := none
    newest := if keepNewest then x.newest else none
    lastTs := none
    stale := if keepNewest then x.stale else []
    row := []
    seqTop := none
    seqs := []
    span := 0
    slots := []
    bucket := ⟨full, s.now⟩ }
  ((s.wr (INGS_S_STATUS_RECEIVING k) 0).wr (INGS_S_STATUS_LEG1_OK k) 0).wr (INGS_S_STATUS_LEG2_OK k) 0

/-- A write of EN in S_CTRL: a rise starts the stream, a fall stops it. -/
def State.streamEnable (s : State) (k : Nat) (on : Bool) : State :=
  if s.sFlag k 0 = on then s
  else if on then s.streamReset k false else (s.streamReset k true).streamRefLost k

end Sys2Proof.Machine
end

