-- ==== Sys2Proof/Machine/Ingest.lean ====
section
/-! DEFINITION. Ingest ports and their commands (chapter "Ingest of network video"): sorting of received frames, PIXEL frames of the ring, IGMP reports,
INGEST_PORT_SET and STREAM_DEFINE. -/

namespace Sys2Proof.Machine

/-! ### Frames on the wire -/

/-- The Internet checksum of a header, as a 16-bit number: 0 over a header whose checksum is good. -/
def ipSum (d : List Byte) : Nat :=
  let t := (List.range ((d.length + 1) / 2)).foldl (fun a i => a + beAt d (2 * i) 2) 0
  let t := t % 65536 + t / 65536
  let t := t % 65536 + t / 65536
  65535 - t

/-- Where the packet of an Ethernet frame starts, after at most one tag; none for more tags (R337). -/
def l3At (f : List Byte) : Option Nat :=
  if beAt f 12 2 = 0x8100 then (if beAt f 16 2 = 0x8100 then none else some 18) else some 14

/-- The EtherType of a frame. -/
def etherType (f : List Byte) : Nat := match l3At f with | some o => beAt f (o - 2) 2 | none => 0

/-- An IPv4 packet: header length in bytes, total length, whether it is a fragment, protocol, source, destination, header check. -/
structure Ip where
  ihl : Nat
  total : Nat
  frag : Bool
  proto : Nat
  src : Nat
  dst : Nat
  good : Bool
  body : List Byte
deriving DecidableEq, Repr

/-- Read an IPv4 packet. -/
def Ip.parse (d : List Byte) : Ip :=
  let ihl := beAt d 0 1 % 16 * 4
  let total := beAt d 2 2
  ⟨ihl, total, decide (beAt d 6 2 % 16384 ≠ 0), beAt d 9 1, beAt d 12 4, beAt d 16 4,
    decide (beAt d 0 1 / 16 = 4 ∧ d.length ≥ 20) && decide (ipSum (slice d 0 ihl) = 0), (d.take total).drop ihl⟩

/-- Address of an ingest port as six octets. -/
def State.ipMac (s : State) (p : Nat) : List Byte := beBytes 6 (s.rd (INGP_PORT_MAC_HI_ADDR p) * 2 ^ 32 + s.rd (INGP_PORT_MAC_LO_ADDR p))

/-! ### Sorting (R337, R338) -/

/-- How a packet stands to a stream: the leg by which it matches in address and port. -/
def State.legOf (s : State) (k p : Nat) (ip : Ip) : Option Nat :=
  let ssm := s.sFlag k 5
  let udp := beAt ip.body 2 2
  if !s.sFlag k 0 then none
  else if decide (s.rd (INGS_S_CTRL_PORT k) = p ∧ s.rd (INGS_S_DST_IP_ADDR k) = ip.dst ∧ s.rd (INGS_S_UDP_UDP k) = udp)
      && (!ssm || decide (s.rd (INGS_S_SRC_IP_ADDR k) = ip.src)) then some 0
  else if s.sFlag k 3 && decide (s.rd (INGS_S_CTRL_PORT2 k) = p ∧ s.rd (INGS_S_DST_IP2_ADDR k) = ip.dst ∧ s.rd (INGS_S_UDP_UDP2 k) = udp)
      && (!ssm || decide (s.rd (INGS_S_SRC_IP2_ADDR k) = ip.src)) then some 1
  else none

/-- The RTP packet that a UDP packet carries. -/
def Ip.rtp (ip : Ip) : List Byte := (ip.body.take (beAt ip.body 4 2)).drop 8

/-- RTP version and payload type of a stream (R338). -/
def State.rtpOk (s : State) (k : Nat) (rtp : List Byte) : Bool :=
  decide (beAt rtp 0 1 / 64 = 2 ∧ beAt rtp 1 1 % 128 = s.rd (INGS_S_CTRL_PT k))

/-- Pass a frame to the firmware. -/
def State.toFirmware (s : State) (p : Nat) (f : List Byte) : State :=
  let q := s.ingest.net[Fin.ofNat 4 p] ++ [⟨f, s.time.ns⟩]
  { s with ingest := { s.ingest with net := s.ingest.net.set (Fin.ofNat 4 p) q } }

/-- A UDP packet looks for its stream. -/
def State.sortUdp (s : State) (p : Nat) (ip : Ip) : State :=
  let ks := (List.range 16).filterMap fun k => (s.legOf k p ip).map fun leg => (k, leg)
  match ks.find? fun x => s.rtpOk x.1 ip.rtp with
  | some x => s.streamPacket x.1 x.2 ip.rtp ip.total
  | none => match ks with
    | x :: _ => s.count (INGS_FORMAT_ERR_COUNT x.1) 1
    | [] => s.count (INGP_UNMATCHED_COUNT p) 1

/-- Sort a good frame (R337). -/
def State.sortFrame (s : State) (p : Nat) (f : List Byte) : State :=
  let drop := s.count (INGP_UNMATCHED_COUNT p) 1
  match l3At f with
  | none => drop
  | some o =>
    let et := etherType f
    if et = 0x0806 then s.toFirmware p f
    else if et ≠ 0x0800 then drop
    else
      let ip := Ip.parse (f.drop o)
      let port := beAt ip.body 2 2
      if ip.proto = 1 ∨ ip.proto = 2 then s.toFirmware p f
      else if ip.proto = 17 ∧ (port = 319 ∨ port = 320) then (s.count (INGP_PTP_RX_COUNT p) 1).toFirmware p f
      else if ip.ihl ≠ 20 || !ip.good || ip.frag then drop
      else if ip.proto = 17 then s.sortUdp p ip
      else drop

/-- A frame leaves a port's buffer and is parsed. -/
def State.parseFrame (s : State) (p : Nat) (f : RxFrame) : State :=
  if f.good then s.sortFrame p f.bytes else s.count (INGP_FCS_ERR_COUNT p) 1

/-- A frame that arrives shows a module, block lock and, where FEC is on, its alignment (log 47, DEDUCED). -/
def State.portUp (s : State) (p : Nat) : State :=
  ((s.wr (INGP_PORT_STATUS_LINK p) 1).wr (INGP_PORT_STATUS_MODULE p) 1).wr (INGP_PORT_STATUS_FEC_LOCK p) (s.rd (INGP_PORT_CTRL_FEC p))

/-- Bytes that frames take in a port's buffer, their FCS included. -/
def portBytes (l : List RxFrame) : Nat := l.foldl (fun a f => a + f.bytes.length + 4) 0

/-- INGEST_RECEIVE (R336 to R339): a frame reaches an ingest port that runs. It is dropped where the buffer has no room for it; else it
joins the buffer, and the parser takes what stands there, oldest first, at once (log 47, DESIGN CHOICE). -/
def execIngestReceive (p : Fin 4) (f : RxFrame) (s : State) : Host.Outcome State Fault Refusal :=
  .next (if s.mainUp && s.flag (INGP_PORT_CTRL_EN p) && decide (f.bytes.length + 4 ≤ 9216) then
    let s := s.portUp p
    let q := s.ingest.rx[p] ++ [f]
    if 262144 < portBytes q then (s.count (INGP_RX_OVERFLOW_COUNT p) 1).setCause (causeIng 2)
    else
      let s := { s.count (INGP_RX_FRAMES_COUNT p) 1 with ingest := { s.ingest with rx := s.ingest.rx.set p [] } }
      q.foldl (fun s f => s.parseFrame p f) s
  else s)

/-- PIXEL (R367): a delivered PIXEL frame reaches every ring stream that receives its stream ID; its length for policing is that of
the IPv4 packet that carried it. -/
def execPixel (p : Fin 2) (s : State) : Host.Outcome State Fault Refusal :=
  let r := s.takeRx p 6 0
  .next (match r.1 with
  | none => s
  | some x =>
    (List.range 32).foldl (fun s i =>
      let k := 16 + i
      if s.sFlag k 0 && decide (s.rd (INGS_S_RING_ID k) = x.frame.stream) then
        s.streamPacket k 0 x.frame.payload (x.frame.payload.length + 28)
      else s) r.2)

/-! ### IGMP (R370) -/

/-- An Ethernet and IPv4 frame of a port, with options of the IPv4 header. -/
def State.ipFrame (s : State) (p : Nat) (mac opts : List Byte) (ttl proto dst : Nat) (body : List Byte) : List Byte :=
  let ihl := 20 + opts.length
  let head := fun (sum : Nat) =>
    beBytes 1 (0x40 + ihl / 4) ++ [0] ++ beBytes 2 (ihl + body.length) ++ [0, 0, 0, 0] ++ beBytes 1 ttl ++ beBytes 1 proto ++ beBytes 2 sum
      ++ beBytes 4 (s.rd (INGP_PORT_IP_ADDR p)) ++ beBytes 4 dst ++ opts
  mac ++ s.ipMac p ++ beBytes 2 0x0800 ++ head (ipSum (head 0)) ++ body

/-- Destination MAC of an IPv4 multicast address. -/
def mcastMac (ip : Nat) : List Byte := beBytes 6 (0x01005E000000 + ip % 2 ^ 23)

/-- Whether an address is multicast. -/
def isMcast (ip : Nat) : Bool := decide (ip / 2 ^ 28 = 0xE)

/-- An IGMPv3 membership report with one group record. -/
def State.igmpReport (s : State) (p type group : Nat) (srcs : List Nat) : State :=
  let body := fun (sum : Nat) =>
    beBytes 1 0x22 ++ [0] ++ beBytes 2 sum ++ [0, 0] ++ beBytes 2 1 ++ beBytes 1 type ++ [0] ++ beBytes 2 srcs.length ++ beBytes 4 group
      ++ srcs.flatMap fun a => beBytes 4 a
  s.emit (.ingestTx p (s.ipFrame p (mcastMac 0xE0000016) (beBytes 4 0x94040000) 1 2 0xE0000016 (body (ipSum (body 0)))))

/-- The multicast legs of an enabled network stream: port, group, source. -/
def State.mcastLegs (s : State) (k : Nat) : List (Nat × Nat × Nat) :=
  if k < 16 && s.sFlag k 0 then
    let a := (s.rd (INGS_S_CTRL_PORT k), s.rd (INGS_S_DST_IP_ADDR k), s.rd (INGS_S_SRC_IP_ADDR k))
    let b := (s.rd (INGS_S_CTRL_PORT2 k), s.rd (INGS_S_DST_IP2_ADDR k), s.rd (INGS_S_SRC_IP2_ADDR k))
    ([a] ++ if s.sFlag k 3 then [b] else []).filter fun x => isMcast x.2.1
  else []

/-- Reports of a stream's membership: INCLUDE with its source under SSM, else EXCLUDE with none. `change` marks a change of state. -/
def State.igmpJoin (s : State) (k : Nat) (change : Bool) : State :=
  let ssm := s.sFlag k 5
  let add := if change then 2 else 0
  (s.mcastLegs k).foldl (fun s x => s.igmpReport x.1 ((if ssm then 1 else 2) + add) x.2.1 (if ssm then [x.2.2] else [])) s

/-- Reports of a leave: for SSM the source is blocked, else the group changes to INCLUDE with no source. -/
def State.igmpLeave (s : State) (k : Nat) : State :=
  let ssm := s.sFlag k 5
  (s.mcastLegs k).foldl (fun s x => s.igmpReport x.1 (if ssm then 6 else 3) x.2.1 (if ssm then [x.2.2] else [])) s

/-! ### INGEST_PORT_SET (R372) -/

/-! ### The choice of a master (R368, R369, R400) -/

/-- Change the slave clock. -/
def State.setPtp (s : State) (f : Ptp → Ptp) : State := { s with ingest := { s.ingest with ptp := f s.ingest.ptp } }

/-- PTP_STATUS.STATE takes a value: RANK may change with it, so the time master is computed anew (R400), and the source of device time is
selected anew (R628). -/
def State.ptpState (s : State) (st : Nat) : State :=
  if s.rd ING_PTP_STATUS_STATE = st then s else ((s.wr ING_PTP_STATUS_STATE st).setCause (causeIng 8)).elect

/-- The best foreign master: the smallest data set, and on a tie, which one master heard on two ports gives, the lower port. -/
def bestMaster (l : List Foreign) : Option Foreign :=
  l.foldl (fun b x => match b with
    | none => some x
    | some y => if beNat x.dataset < beNat y.dataset ∨ (x.dataset = y.dataset ∧ x.port < y.port) then some x else b) none

/-- Whether a foreign master takes part in the comparison: two of its Announces within four intervals (R369). -/
def Foreign.qualified (e : Foreign) : Bool := match e.heard.2 with | some t => decide (e.heard.1 ≤ t + 4 * e.interval) | none => false

/-- Whether an ingest port takes part in the slave clock (R368, R369). -/
def State.ptpPort (s : State) (p : Nat) : Bool := s.flag (INGP_PORT_CTRL_EN p) && s.flag (INGP_PORT_CTRL_PTP_EN p)

/-- Forget masters whose Announces have ceased, whose port takes no part any more or whose domain is no longer the port's, and choose the best of the others. -/
def State.ptpElect (s : State) : State :=
  let stays := fun (e : Foreign) =>
    decide (s.now < e.heard.1 + 3 * e.interval ∧ e.domain = s.rd (INGP_PORT_CTRL_PTP_DOMAIN e.port)) && s.ptpPort e.port
  let s := s.setPtp fun x => { x with foreign := x.foreign.filter stays }
  let x := s.ingest.ptp
  match bestMaster (x.foreign.filter Foreign.qualified) with
  | none => s.setPtp fun y => { y with master := none }
  | some ⟨id, _, ds, port, _, _⟩ =>
    let s := (s.wr ING_PTP_GM_LO_ID (beAt ds 10 4)).wr ING_PTP_GM_HI_ID (beAt ds 6 4)
    if x.master = some id ∧ s.rd ING_PTP_STATUS_PORT = port then s.setPtp fun y => { y with dataset := ds }
    else
      let s := ((s.setPtp fun y => { y with
        master := some id
        dataset := ds
        syncSeq := none
        t1 := none
        t3 := none
        good := 0
        poor := 0
        lastAt := s.now }).wr ING_PTP_STATUS_PORT port).setCause (causeIng 9)
      if s.rd ING_PTP_STATUS_STATE = 0 then s.ptpState 1 else s

/-- The settings of a port have been written: a change of FEC, or EN cleared, ends the link (R372, R376; log 47), and the master is chosen
among the ports that still take part. `was` is the machine before the write. -/
def State.portSet (s was : State) (p : Nat) : State :=
  let same := decide (s.rd (INGP_PORT_CTRL_FEC p) = was.rd (INGP_PORT_CTRL_FEC p)) && s.flag (INGP_PORT_CTRL_EN p)
  (if same then s else (s.wr (INGP_PORT_STATUS_LINK p) 0).wr (INGP_PORT_STATUS_FEC_LOCK p) 0).ptpElect

/-- INGEST_PORT_SET. -/
def execIngestPortSet (s : State) : Host.Outcome State Fault Refusal :=
  .next (s.serve 0x0501 fun c s =>
    let d := c.payload
    let p := leAt d 0 1
    let f := leAt d 1 1
    if 3 < p then s.fail c stBAD_PARAM
    else
      let mac := beAt d 8 6
      let was := s
      let s := ((s.wr (INGP_PORT_CTRL_EN p) (f % 2)).wr (INGP_PORT_CTRL_FEC p) (f / 2 % 2)).wr (INGP_PORT_CTRL_PTP_EN p) (f / 4 % 2)
      let s := (s.wr (INGP_PORT_CTRL_PTP_DOMAIN p) (leAt d 2 1)).wr (INGP_PORT_IP_ADDR p) (leAt d 4 4)
      (((s.wr (INGP_PORT_MAC_LO_ADDR p) (mac % 2 ^ 32)).wr (INGP_PORT_MAC_HI_ADDR p) (mac / 2 ^ 32)).portSet was p).ok c)

/-! ### STREAM_DEFINE (R373 to R375) -/

/-- Fields of a STREAM_DEFINE payload. -/
structure StreamDef where
  k : Nat
  flags : Nat
  port : Nat
  port2 : Nat
  pt : Nat
  sampling : Nat
  depth : Nat
  buffers : Nat
  w : Nat
  h : Nat
  num : Nat
  den : Nat
  base : Nat
  stride : Nat
  lines : Nat
  ring : Nat
  rate : Nat
  burst : Nat
  loss : Nat
deriving DecidableEq, Repr

/-- Read a payload. -/
def StreamDef.parse (d : List Byte) : StreamDef :=
  ⟨leAt d 0 1, leAt d 1 1 % 128, leAt d 2 1 % 4, leAt d 2 1 / 4 % 4, leAt d 3 1, leAt d 4 1, leAt d 5 1, leAt d 6 1, leAt d 28 2,
    leAt d 30 2, leAt d 32 4, leAt d 36 4, leAt d 40 8, leAt d 48 4, leAt d 52 2, leAt d 54 2, leAt d 56 4, leAt d 60 2, leAt d 62 2⟩

/-- The storage format that a definition gives. -/
def StreamDef.store (x : StreamDef) : Nat := storeFormat x.sampling x.depth x.w
/-- PITCH in units of 64 B. -/
def StreamDef.pitch (x : StreamDef) : Nat := storePitch x.store x.w
/-- Bytes of a frame. -/
def StreamDef.frame (x : StreamDef) : Nat := frameBytes x.store x.pitch x.h
/-- Whether a flag is set. -/
def StreamDef.on (x : StreamDef) (b : Nat) : Bool := x.flags.testBit b

/-- A field lies outside its range (R350, R374). -/
def StreamDef.badField (x : StreamDef) : Bool :=
  decide (47 < x.k ∨ x.pt < 96 ∨ 127 < x.pt ∨ 2 < x.sampling ∨ x.depth ∉ [8, 10, 12] ∨ x.buffers < 3 ∨ 6 < x.buffers ∨ x.w = 0
    ∨ 8192 < x.w ∨ x.h = 0 ∨ 16384 < x.h ∨ x.lines < 4 ∨ 1024 < x.lines ∨ 1048575 < x.rate ∨ x.burst = 0 ∨ x.loss = 0 ∨ 4095 < x.ring
    ∨ (16 ≤ x.k ∧ x.ring = 0) ∨ x.num = 0 ∨ x.den = 0 ∨ x.num * 1001 < 24000 * x.den ∨ 480 * x.den < x.num
    ∨ (x.sampling = 0 ∧ x.w % 2 = 1))
  || (x.on 0 && !x.on 1 && !x.on 2 && !x.on 4)
  || decide (x.stride < x.frame ∨ x.stride % 64 ≠ 0 ∨ x.base % 64 ≠ 0)

/-- The legs of a network stream are wrong (R374). -/
def State.legsBad (s : State) (x : StreamDef) : Bool :=
  decide (x.k < 16) &&
    (!s.flag (INGP_PORT_CTRL_EN x.port) || !s.flag (INGP_PORT_CTRL_EN x.port2) || (x.on 3 && decide (x.port2 = x.port)))

/-- A layer in a live or pending Forme reads the stream (R374). -/
def State.streamRead (s : State) (k : Nat) : Bool :=
  (List.range 64).any fun l =>
    let reads := fun (src str : Nat) => decide (src ≠ 0 ∧ str = k)
    (reads (s.lrd (LAY_CTRL_SOURCE l)) (s.lrd (LAY_CTRL_STREAM l)) && (List.range s.nHeads).any fun h => s.inLive h l)
      || (reads (s.rd (LAY_CTRL_SOURCE l)) (s.rd (LAY_CTRL_STREAM l)) && s.onWall l)

/-- The command changes what a reading layer relies on. -/
def State.streamMoves (s : State) (x : StreamDef) : Bool :=
  decide (s.rd (INGS_S_FMT_STORE x.k) ≠ x.store ∨ s.rd (INGS_S_FMT_PITCH x.k) ≠ x.pitch ∨ s.rd (INGS_S_GEOM_W x.k) ≠ x.w
    ∨ s.rd (INGS_S_GEOM_H x.k) ≠ x.h) || (s.sFlag x.k 1 != x.on 1) || (s.sFlag x.k 2 != x.on 2)

/-- The frame-sync buffers leave installed DDR5 (R43, R44, R374); only a frame-sync stream has them (R350, log 57). -/
def State.buffersBad (s : State) (x : StreamDef) : Bool :=
  !(s.inDdr x.base && s.spanOk x.base ((x.buffers - 1) * x.stride + x.frame))

/-- Release the Densum regions of a stream. -/
def State.freeStream (s : State) (k : Nat) : State :=
  let x := s.strm k
  (((s.freeGalley x.region).freeGalley x.staging).setStrm k fun y => { y with region := none, staging := none }).wrAddr
    (INGS_S_LR_LO_ADDR k) (INGS_S_LR_HI_ADDR k) 0

/-- Place the line ring and the frame-sync staging of a stream (log 21): ING writes both, LPL reads the ring, DMC the staging. -/
def State.placeStream (s : State) (x : StreamDef) : Option State :=
  let s := s.freeStream x.k
  let ring : Option State := if x.on 0 && x.on 2 then
      let bytes := x.lines * x.pitch * 64 * (if x.store = 0x15 then 2 else 1)
      (s.dsmNewRegion (ceilDiv bytes 65536) 0x4 0x40 false false).map fun r =>
        (r.2.setStrm x.k fun y => { y with region := some r.1 }).wrAddr (INGS_S_LR_LO_ADDR x.k) (INGS_S_LR_HI_ADDR x.k)
          (dsmBase + (r.2.regionSpan r.1).1)
    else some s
  ring.bind fun s => if x.on 0 && x.on 1 then
      (s.dsmNewRegion 1 0x10 0x40 false false).map fun r => r.2.setStrm x.k fun y => { y with staging := some r.1 }
    else some s

/-- Write the registers of a stream. -/
def State.writeStream (s : State) (x : StreamDef) (d : List Byte) : State :=
  let k := x.k
  let s := s.settleBucket k
  let s := ((s.wr (INGS_S_CTRL_FLAGS k) x.flags).wr (INGS_S_CTRL_PORT k) x.port).wr (INGS_S_CTRL_PORT2 k) x.port2
  let s := ((s.wr (INGS_S_CTRL_PT k) x.pt).wr (INGS_S_DST_IP_ADDR k) (leAt d 8 4)).wr (INGS_S_SRC_IP_ADDR k) (leAt d 12 4)
  let s := (s.wr (INGS_S_DST_IP2_ADDR k) (leAt d 16 4)).wr (INGS_S_SRC_IP2_ADDR k) (leAt d 20 4)
  let s := ((s.wr (INGS_S_UDP_UDP k) (leAt d 24 2)).wr (INGS_S_UDP_UDP2 k) (leAt d 26 2)).wr (INGS_S_RING_ID k) x.ring
  let s := ((s.wr (INGS_S_GEOM_W k) x.w).wr (INGS_S_GEOM_H k) x.h).wr (INGS_S_FMT_SAMPLING k) x.sampling
  let s := ((s.wr (INGS_S_FMT_DEPTH k) (x.depth / 2 - 4)).wr (INGS_S_RATE_NUM_NUM k) x.num).wr (INGS_S_RATE_DEN_DEN k) x.den
  let s := (s.wrAddr (INGS_S_FS_LO_ADDR k) (INGS_S_FS_HI_ADDR k) x.base).wr (INGS_S_FS_STRIDE_STRIDE k) (x.stride / 64)
  let s := ((s.wr (INGS_S_BUF_BUFFERS k) x.buffers).wr (INGS_S_BUF_RING_LINES k) x.lines).wr (INGS_S_POLICE_RATE k) x.rate
  ((s.wr (INGS_S_BURST_BURST k) x.burst).wr (INGS_S_LOSS_MS k) x.loss).storeFields k

/-- R147 over all heads with the state's I; it is run when a head runs. -/
def State.rateFits (s : State) : Bool :=
  let demand := (Frac.sum ((List.range s.nHeads).map fun h => s.headDemand h (s.othersBytes h))).add s.ingestRate
  !((List.range s.nHeads).any fun h => (s.hd h).gen) || demand.le s.ddrCapacity

/-- STREAM_DEFINE. -/
def execStreamDefine (s : State) : Host.Outcome State Fault Refusal :=
  .next (s.serve 0x0510 fun c s =>
    let x := StreamDef.parse c.payload
    if x.badField || s.legsBad x || (s.streamRead x.k && s.streamMoves x) then s.fail c stBAD_PARAM
    else if s.buffersBad x then s.fail c stPROT_BOUND
    else
      let same := s.sFlag x.k 0 && x.on 0 && !s.streamMoves x && decide (s.fsBase x.k = x.base ∧ s.fsStride x.k = x.stride
        ∧ s.rd (INGS_S_BUF_BUFFERS x.k) = x.buffers ∧ s.rd (INGS_S_BUF_RING_LINES x.k) = x.lines)
      match (if same then some s else s.placeStream x) with
      | none => s.fail c stREJECTED_DENSUM
      | some t =>
        if !(t.writeStream x c.payload).rateFits then s.fail c stREJECTED_BANDWIDTH
        else
          -- what the frame-sync buffers touch is filled first (R526)
          let t := if x.on 1 then t.fillRange x.base (x.base + (x.buffers - 1) * x.stride + x.frame - 1) else t
          let u := t.writeStream x c.payload
          let u := if same then u else u.streamReset x.k (!x.on 0)
          let u := if s.mcastLegs x.k = u.mcastLegs x.k ∧ s.sFlag x.k 5 = u.sFlag x.k 5 then u
            else
              let left := s.igmpLeave x.k
              { u with out := left.out }.igmpJoin x.k true
          let u := if x.on 0 then u else u.streamRefLost x.k
          u.finish c stOK (leBytes 1 x.store ++ [0, 0, 0] ++ leBytes 4 (x.pitch * 64) ++ leBytes 8 (if x.on 2 then u.lrBase x.k else 0)))

end Sys2Proof.Machine
end

