-- ==== Sys2Proof/Machine/EventLog.lean ====
section
/-! DEFINITION. The event logger (chapter "Error reporting and service in operation"): the log ring, merging, first-error capture,
acknowledgement. -/

namespace Sys2Proof.Machine

/-- Where the event log stands in Densum: 4,096 entries of 32 B (R672; placement by log 9). -/
def logBase : Nat := dsmBase + 0x10000

/-- Device address of the entry with a sequence number (R672). -/
def logAddr (seq : Nat) : Nat := logBase + seq % 4096 * 32

/-- The 32 bytes of an entry (R672). -/
def LogEntry.bytes (e : LogEntry) : List Byte :=
  leBytes 4 e.seq ++ leBytes 2 e.code ++ leBytes 1 e.cls ++ [0] ++ leBytes 2 e.source ++ leBytes 2 e.count ++ leBytes 6 e.sec
    ++ leBytes 4 e.ns ++ leBytes 2 e.lastUs ++ leBytes 8 e.detail

/-- A write of the logger, as requester CTL (R21, R671). -/
def State.logWrite (s : State) (addr : Nat) (d : List Byte) : State := (s.dsmWriteLine 1 addr (d.map some) false).2

/-- First-error capture of a report (R678). -/
def State.fecCapture (s : State) (r : Report) : State :=
  let c := evClass r.code
  if s.flag (EVT_FEC_VALID_VALID c) then s.wr (EVT_FEC_VALID_MORE c) 1
  else
    let s := ((s.wr (EVT_FEC_CODE_CODE c) r.code).wr (EVT_FEC_CODE_SOURCE c) r.source).wr (EVT_FEC_SEC_LO_SEC c) (s.timeSec % 2 ^ 32)
    let s := ((s.wr (EVT_FEC_SEC_HI_SEC c) (s.timeSec / 2 ^ 32)).wr (EVT_FEC_NS_NS c) s.timeNs).wr (EVT_FEC_DET_LO_DETAIL c) (r.detail % 2 ^ 32)
    ((s.wr (EVT_FEC_DET_HI_DETAIL c) (r.detail / 2 ^ 32)).wr (EVT_FEC_VALID_VALID c) 1).setCause (causeEvt 9)

/-- The pending entry that a report merges into (R673). -/
def State.mergeTarget (s : State) (r : Report) : Option LogEntry :=
  s.log.entries.find? fun e => decide (e.code = r.code ∧ e.source = r.source ∧ s.now ≤ e.first + 1000000)

/-- Merge a report into an entry: COUNT and LAST_US only (R673, R674). -/
def State.mergeInto (s : State) (e : LogEntry) : State :=
  let e' := { e with count := min (e.count + 1) 65535, lastUs := min ((s.now - e.first) / 1000) 1000 }
  let s := { s with log := { s.log with entries := s.log.entries.map fun (x : LogEntry) => if x.seq = e.seq then e' else x } }
  let s := s.logWrite (logAddr e.seq + 10) (leBytes 2 e'.count)
  (s.logWrite (logAddr e.seq + 22) (leBytes 2 e'.lastUs)).count EVT_COALESCED_COUNT 1

/-- Queue an entry for the persisted log (R681). -/
def State.persist (s : State) (e : LogEntry) : State :=
  if (s.rd EVT_CTRL_PERSIST).testBit e.cls then
    if s.log.persistQ.length < 1024 then
      { s with log := { s.log with
          persistQ := s.log.persistQ ++ [e]
          persistSince := if s.log.persistQ.isEmpty then s.now else s.log.persistSince } }
    else s.count EVT_PERSIST_LOST_COUNT 1
  else s

/-- The PCIe error of a new entry of class `c`: while EVT.CTRL lets it be made and the AER capability enables the error (R680). -/
def State.aerReport (s : State) (c : Nat) : State :=
  if (c = 2 && s.flag EVT_CTRL_AER_CORR && s.host.aerCorr) || (c = 3 && s.flag EVT_CTRL_AER_UNC && s.host.aerUnc) then
    s.emit (.aer (c == 3))
  else s

/-- Write a new entry (R674, R679, R680). -/
def State.newEntry (s : State) (r : Report) : State :=
  let seq := s.rd EVT_WR_SEQ_SEQ
  let c := evClass r.code
  let e : LogEntry := ⟨seq, r.code, c, r.source, 1, s.timeSec, s.timeNs, 0, r.detail, s.now⟩
  let s := s.logWrite (logAddr seq) e.bytes
  let s := { s with log := { s.log with entries := s.log.entries ++ [e] } }
  let s := (s.wr EVT_WR_SEQ_SEQ (seq + 1)).setCause (causeEvt 0)
  let s := if c = 3 then s.setCause (causeEvt 8) else s
  (s.aerReport c).persist e

/-- EVENT_REPORT (R671 to R681): the logger takes the oldest report, captures it if it is the first of its class, and merges,
logs or drops it. -/
def execEventReport (s : State) : Host.Outcome State Fault Refusal :=
  match s.log.reports with
  | [] => .next s
  | r :: rest =>
    let s := ({ s with log := { s.log with reports := rest } }).fecCapture r
    match s.mergeTarget r with
    | some e => .next (s.mergeInto e)
    | none =>
      if s.log.entries.length < 4096 then .next (s.newEntry r)
      else .next ((s.count (EVT_DROPPED_COUNT (evClass r.code)) 1).setCause (causeEvt 10))

/-- A write to EVT.RD_SEQ: accepted between the old value and WR_SEQ, modulo 2³² (R675). -/
def State.ackLog (s : State) (v : Nat) : State :=
  let old := s.rd EVT_RD_SEQ_SEQ
  let wr := s.rd EVT_WR_SEQ_SEQ
  let k := (v + 2 ^ 32 - old) % 2 ^ 32
  if k ≤ (wr + 2 ^ 32 - old) % 2 ^ 32 then
    { s.wr EVT_RD_SEQ_SEQ v with log := { s.log with entries := s.log.entries.drop k } }
  else s

/-- A write to EVT.FEC_CLR (R678). -/
def State.fecClear (s : State) (mask : Nat) : State :=
  (List.range 4).foldl (fun t c =>
    if mask.testBit c then (t.wr (EVT_FEC_VALID_VALID c) 0).wr (EVT_FEC_VALID_MORE c) 0 else t) s

end Sys2Proof.Machine
end

