-- ==== Sys2Proof/Machine/Nv.lean ====
section
/-! DEFINITION. The non-volatile store (chapter "Power, reset, boot and the non-volatile store"): records, the hold-up check, commits,
erasing, PWR_FAIL_N, the persisted log. -/

namespace Sys2Proof.Machine

/-! ### Records in two copies (R646, R647) -/

/-- Whether SEQ `a` is higher than `b`, modulo 2³². -/
def seqHigher (a b : Nat) : Bool := let d := (a + 2 ^ 32 - b) % 2 ^ 32; decide (0 < d ∧ d < 2 ^ 31)

/-- The record that a copy holds; a copy with a bad CRC counts as absent (R646). -/
def NvCopy.get {α : Type} : NvCopy α → Option (Nat × α)
  | .whole seq v => some (seq, v)
  | _ => none

/-- Whether copy b holds the record in use. -/
def NvRec.inB {α : Type} (r : NvRec α) : Bool :=
  match r.a.get, r.b.get with
  | none, some _ => true
  | some x, some y => seqHigher y.1 x.1
  | _, none => false

/-- The record in use. -/
def NvRec.current {α : Type} (r : NvRec α) : Option (Nat × α) := if r.inB then r.b.get else r.a.get

/-- Put something into the copy that does not hold the record in use. -/
def NvRec.put {α : Type} (r : NvRec α) (c : NvCopy α) : NvRec α :=
  if r.current.isSome && !r.inB then { r with b := c } else { r with a := c }

/-- Write a new record into the other copy, with SEQ one higher. -/
def NvRec.write {α : Type} (r : NvRec α) (v : α) : NvRec α :=
  r.put (.whole (match r.current with | some x => (x.1 + 1) % 2 ^ 32 | none => 0) v)

/-- Erase the copy that does not hold the record in use; whether there was anything to erase. -/
def NvRec.erase {α : Type} (r : NvRec α) : Bool × NvRec α :=
  let old := if r.current.isSome && !r.inB then r.b else r.a
  (match old with | .erased => false | _ => true, r.put .erased)

/-- The store once the write of `c` has been cut short: the copy, or the slot of the log, that was being written is written in part; the
record in use stands (R646, R647, R682). -/
def Nv.torn (n : Nv) (c : Commit) : Nv :=
  match c.what with
  | .boot _ => { n with boot := n.boot.put .part }
  | .config _ => { n with config := n.config.put .part }
  | .softAdd _ => { n with softMap := n.softMap.put .part }
  | .training ch _ => { n with training := n.training.set (Fin.ofNat 4 ch) ((n.training[Fin.ofNat 4 ch]).put .part) }
  | .log _ => { n with logSlots := n.logSlots ++ [.part] }
  | .imageBlock .. | .svnMin _ => n

/-- The preferred slot (R646, R649). -/
def State.preferred (s : State) : Nat := match s.nv.boot.current with | some x => x.2 | none => 0

/-- The soft repair map. -/
def State.softMapNow (s : State) : List SpareUse := match s.nv.softMap.current with | some x => x.2 | none => []

/-- The DDR5 part of the configuration record (R646). -/
def State.memStored (s : State) : MemCfg :=
  match s.nv.config.current with | some x => x.2 | none => ⟨1, 8, false, false, 2, List.replicate 9 0⟩

/-- The configuration in force: the record as it stood at power-up (R564). -/
def State.memCfg (s : State) : MemCfg := s.nv.inForce

/-- Stored training results of a channel. -/
def State.trainRec (s : State) (c : Nat) : Option TrainRec := ((s.nv.training[Fin.ofNat 4 c]).current).map Prod.snd

/-- Change the store. -/
def State.setNv (s : State) (f : Nv → Nv) : State := { s with nv := f s.nv }

/-! ### The hold-up check (R652, R653, R657) -/

/-- t_max of a commit class, in 0.1 ms. -/
def tMax (cls : Nat) : Nat := if cls = 1 then 202 else if cls = 2 then 118 else if cls = 5 then 406 else 214

/-- V of the lowest code in units of 2⁻²⁰ mV. -/
def State.holdupV (s : State) (code : Nat) : Nat :=
  let ratio := s.rd PWR_HOLDUP_RATIO_RATIO
  code * 1200 * (if ratio = 0 then 256 else ratio)

/-- C × (V² − V_min²) in units of 2⁻⁴⁰ mF·mV²; 0 when V ≤ V_min. -/
def State.holdupE (s : State) (code : Nat) : Nat :=
  let v := s.holdupV code
  s.rd PWR_HOLDUP_C_MF * (v * v - s.rd PWR_HOLDUP_VMIN_MV * s.rd PWR_HOLDUP_VMIN_MV * 2 ^ 40)

/-- Whether E ≥ MARGIN × P_HOLD × t_max. -/
def State.holdupPasses (s : State) (code cls : Nat) : Bool :=
  decide (code ≠ 0 ∧ s.rd PWR_HOLDUP_C_MF ≠ 0 ∧
    max 16 (s.rd PWR_HOLDUP_MARGIN_MARGIN) * max 1 (s.rd PWR_HOLDUP_P_W) * tMax cls * 200000 * 2 ^ 40 ≤ s.holdupE code * 16)

/-- The lowest of four conversions. -/
def adcLow (x : Adc) : Nat := min (min x.a.toNat x.b.toNat) (min x.c.toNat x.d.toNat)

/-- Take the conversions of a check and show V and E. -/
def State.holdupMeasure (s : State) (x : Adc) : State :=
  let n := adcLow x
  ((s.wr PWR_HOLDUP_ADC_CODE n).wr PWR_HOLDUP_MV_MV (min 65535 (s.holdupV n / 2 ^ 20))).wr PWR_HOLDUP_MJ_MJ
    (min (2 ^ 32 - 1) (s.holdupE n / (2 ^ 40 * 2000000)))

/-- A commit is deferred: counted, cause HOLDUP_DEFER (R654). -/
def State.noteDefer (s : State) : State := (s.count PWR_DEFERRED_COUNT 1).setCause (causePwr 1)

/-- Make the hold-up check of a class (R653). -/
def State.holdup (s : State) (x : Adc) (cls : Nat) : Bool × State :=
  let s := s.holdupMeasure x
  if s.holdupPasses (adcLow x) cls then (true, s.wr PWR_LAST_COMMIT_DEFERRED 0) else (false, (s.wr PWR_LAST_COMMIT_DEFERRED 1).noteDefer)

/-! ### Commits (R653 to R656) -/

/-- The fused minimum SVN that a swap raises (R660 step 6). -/
def NvWrite.isSvn : NvWrite → Bool
  | .svnMin _ => true
  | _ => false

/-- What a swap commits: its boot record and its SVN. -/
def NvWrite.isSwap : NvWrite → Bool
  | .boot _ => true
  | w => w.isSvn

/-- A commit fails its check: a command that waits for it completes with NO_HOLDUP; one of the firmware's own waits for its
retry, and so does one whose check had passed before its command repaired Densum, since R78 lets that command fail no more (log 62); what a swap commits becomes one, the SVN after the boot record (R654, R662). -/
def State.nvDefer (s : State) (c : Commit) : State :=
  if c.own || c.what.isSwap || c.checked then
    let behind := match c.what with
      | .boot _ => s.nv.queue.filter fun x => x.what.isSvn
      | _ => []
    let wait := (c :: behind).map fun x => { x with own := true, checked := false }
    let s := s.setNv fun n => { n with
      queue := if behind.isEmpty then n.queue else n.queue.filter fun x => !x.what.isSvn
      deferred := n.deferred ++ wait
      deferredAt := s.now }
    -- a commit that was deferred before belongs to a swap that is over
    match (if c.own && c.what.isSwap then none else some c.what) with
    | some (.boot _) => s.swapDone true
    | some (.svnMin _) => s.swapDone false
    | some (.training ch _) => s.resilverStart ch
    | _ => s
  else
    let hit := fun (w : Waiting) => match w.kind with
      | .nv t _ => if t = c.ticket then some (stNO_HOLDUP, zeroResp w.cmd.cmd w.cmd.payload) else none
      | _ => none
    s.wake hit

/-- A commit that has passed its check begins. A block of an image takes its slot: what was staged there is no longer loaded. A command
that ends before this has changed nothing (R78). -/
def State.nvBegin (s : State) (c : Commit) : State :=
  let s := ((s.setNv fun n => { n with busy := some c }).wr PWR_STATUS_COMMIT_BUSY 1).wr PWR_LAST_COMMIT_CLASS c.cls
  match c.what with
  | .imageBlock slot i => s.setNv fun v => { v with images := v.images.set (Fin.ofNat 2 slot) (some i) }
  | _ => s

/-- The firmware starts the oldest queued commit, or defers it (R653, R655). -/
def State.nvStart (s : State) (x : Adc) : State :=
  match s.nv.queue, s.nv.busy with
  | c :: rest, none =>
    let s := s.setNv fun n => { n with queue := rest }
    let r := if c.checked then (true, s) else s.holdup x c.cls
    if !r.1 then r.2.nvDefer c
    else if r.2.flag PWR_STATUS_PWR_FAIL then r.2.noteDefer.nvDefer c
    else r.2.nvBegin c
  | _, _ => s

/-- The device is in recovery: the boot ROM executes FW_STAGE and makes its commits (R649). -/
def State.inRecovery (s : State) : Bool := s.mainUp && decide (s.rd PWR_BOOT_STATUS_STAGE = 6)

/-- NV_COMMIT_START (R653). -/
def execNvCommitStart (adc : Adc) (s : State) : Host.Outcome State Fault Refusal :=
  .next (if s.serving || s.inRecovery then s.nvStart adc else s)

/-- Deferred commits are tried again (R654, R656). -/
def State.nvRetry (s : State) (x : Adc) : State :=
  (s.setNv fun n => { n with queue := n.deferred ++ n.queue, deferred := [] }).nvStart x

/-- COMMIT_RETRY (R654): every 100 ms. -/
def execCommitRetry (adc : Adc) (s : State) : Host.Outcome State Fault Refusal :=
  .next (if s.serving && !s.nv.deferred.isEmpty && decide (s.nv.deferredAt + 100000000 ≤ s.now) then s.nvRetry adc else s)

/-- PWR_FAIL_N_FALL (R656). -/
def execPwrFailNFall (s : State) : Host.Outcome State Fault Refusal :=
  .next (if s.flag PWR_STATUS_PWR_FAIL then s
    else if !s.mainUp then s.wr PWR_STATUS_PWR_FAIL 1
    else ((s.wr PWR_STATUS_PWR_FAIL 1).setCause (causePwr 0)).report EV_PWR_FAIL (src 12 0) 0)

/-- PWR_FAIL_N_RISE (R656). -/
def execPwrFailNRise (adc : Adc) (s : State) : Host.Outcome State Fault Refusal :=
  let s := s.wr PWR_STATUS_PWR_FAIL 0
  .next (if s.serving && !s.nv.deferred.isEmpty then s.nvRetry adc else s)

/-- Slots of 12 KiB of the persisted log, from 0x8D_0000 to the end of the flash (R682). -/
def State.nvLogSlots (s : State) : Nat := (s.nv.mbit * 131072 - 0x8D0000) / 12288

/-- FLASH_ERASE (R647, R682): while the flash is idle, one stale copy is erased, or the oldest slot of a full log. -/
def execFlashErase (s : State) : Host.Outcome State Fault Refusal :=
  .next (if !s.serving || s.nv.busy.isSome then s
  else
    let b := s.nv.boot.erase
    let c := s.nv.config.erase
    let m := s.nv.softMap.erase
    if b.1 then s.setNv fun n => { n with boot := b.2 }
    else if c.1 then s.setNv fun n => { n with config := c.2 }
    else if m.1 then s.setNv fun n => { n with softMap := m.2 }
    else match (List.finRange 4).find? fun k => (s.nv.training[k]).erase.1 with
      | some k => s.setNv fun n => { n with training := n.training.set k (n.training[k]).erase.2 }
      | none => if s.nvLogSlots ≤ s.nv.logSlots.length then s.setNv fun n => { n with logSlots := n.logSlots.drop 1 } else s)

/-! ### The persisted log (R681 to R683) -/

/-- Entries of a flush have been written; the oldest entry left was queued when it was logged (R681, R682). -/
def State.logWritten (s : State) (es : List LogEntry) : State :=
  let seq := match (s.nv.logSlots.filterMap NvCopy.get).getLast? with | some x => (x.1 + 1) % 2 ^ 32 | none => 0
  let slots := s.nv.logSlots ++ [.whole seq es]
  let s := s.setNv fun n => { n with logSlots := slots.drop (slots.length - s.nvLogSlots) }
  let q := s.log.persistQ.drop es.length
  { s with log := { s.log with persistQ := q, persistSince := (q.head?.map LogEntry.first).getD s.now } }

/-- The entries that a commit flushes. -/
def NvWrite.logged : NvWrite → Option (List LogEntry)
  | .log es => some es
  | _ => none

/-- Whether a log flush is queued, running or deferred already. -/
def State.logFlushing (s : State) : Bool := (s.nv.busy.toList ++ s.nv.queue ++ s.nv.deferred).any fun c => c.what.logged.isSome

/-- The firmware's own flush that has not started: a flush by command takes its entries over. -/
def State.dropOwnFlush (s : State) : State :=
  let stays := fun (c : Commit) => !(c.own && c.what.logged.isSome)
  s.setNv fun n => { n with queue := n.queue.filter stays, deferred := n.deferred.filter stays }

/-- How many entries of the persist queue a commit in progress or a command's commit writes. -/
def State.inFlush (s : State) : Nat :=
  (((s.nv.busy.toList ++ s.nv.queue).filterMap fun c => c.what.logged).map List.length).sum

/-- PERSIST_FLUSH (R681): 256 entries wait, or the oldest has waited for 1 s. -/
def execPersistFlush (s : State) : Host.Outcome State Fault Refusal :=
  let q := s.log.persistQ
  .next (if s.serving && !q.isEmpty && !s.logFlushing && decide (256 ≤ q.length ∨ s.log.persistSince + 1000000000 ≤ s.now) then
    (s.nvEnqueue 5 (.log (q.take 256)) true).2
  else s)

/-- LOG_CONFIG (R683). -/
def execLogConfig (s : State) : Host.Outcome State Fault Refusal :=
  .next (s.serve 0x0B01 fun c s =>
    let per := leAt c.payload 0 1
    let aer := leAt c.payload 1 1
    if 16 ≤ per ∨ 4 ≤ aer ∨ leAt c.payload 2 2 ≠ 0 then s.fail c stBAD_PARAM
    else (((s.wr EVT_CTRL_PERSIST per).wr EVT_CTRL_AER_CORR (aer % 2)).wr EVT_CTRL_AER_UNC (aer / 2)).ok c)

/-- LOG_FLUSH (R683). -/
def execLogFlush (s : State) : Host.Outcome State Fault Refusal :=
  .next (s.serve 0x0B10 fun c s =>
    let s := s.dropOwnFlush
    let es := (s.log.persistQ.drop s.inFlush).take 256
    if es.isEmpty then s.finish c stOK (leBytes 4 0) else s.nvCommand c 5 (.log es) (leBytes 4 es.length))

/-- The persisted entries, the oldest first; a slot with a bad CRC is skipped (R682). -/
def State.persisted (s : State) : List LogEntry := (s.nv.logSlots.filterMap fun x => x.get.map Prod.snd).flatten

/-- LOG_READ_PERSISTED (R683, R75). -/
def execLogReadPersisted (s : State) : Host.Outcome State Fault Refusal :=
  .next (s.serve 0x0B11 fun c s =>
    let buf := leAt c.payload 0 8
    let len := leAt c.payload 8 4
    if len ≠ 0 ∧ ¬ s.bufOk buf len then s.fail c stPROT_BOUND
    else
      let all := s.persisted
      let es := all.drop (all.length - len / 32)
      (s.fwWrite buf (es.map LogEntry.bytes).flatten).finish c stOK (leBytes 4 es.length))

end Sys2Proof.Machine
end

