-- ==== Sys2Proof/Machine/MemCmd.lean ====
section
/-! DEFINITION. DDR5's bring-up and mailbox commands (chapter "DDR5 memory subsystem"): slots, training, scrub, retirement and restore of
a mirrored slot, configuration. -/

namespace Sys2Proof.Machine

/-- Change the DDR5 subsystem. -/
def State.setDdr (s : State) (f : Ddr → Ddr) : State := { s with ddr := f s.ddr }

/-! ### Bring-up (R515 to R522) -/

/-- The firmware switches a slot's power by itself, but where the host has written SLOT_PWR (R33). -/
def State.slotPowerOwn (s : State) (c : Nat) (on : Bool) : State :=
  if s.hostRegs.contains (DMC_SLOT_PWR_EN c).off then s else s.slotPower c on

/-- Step 1 of R519: power every present slot. -/
def State.ddrStart (s : State) : State := (List.range s.nDdr).foldl (fun t c => t.slotPowerOwn c true) s

/-- The channels of the set in use. -/
def State.setChans (s : State) : List Nat := List.range s.ddr.set

/-- Write a channel's lane registers. -/
def State.setLanes (s : State) (c : Nat) (ls : List Word) : State :=
  ls.zipIdx.foldl (fun t x =>
    let w := (Fld.get (DMC_LANE_DLY_WR c x.2) x.1, Fld.get (DMC_LANE_DLY_RD c x.2) x.1, Fld.get (DMC_LANE_DLY_VREF c x.2) x.1)
    ((t.wrOwn (DMC_LANE_DLY_WR c x.2) w.1).wrOwn (DMC_LANE_DLY_RD c x.2) w.2.1).wrOwn (DMC_LANE_DLY_VREF c x.2) w.2.2) s

/-- A channel's lane registers. -/
def State.lanes (s : State) (c : Nat) : List Word := (List.range 80).map fun l => s.reg (DMC_LANE_DLY_WR c l).off

/-- Settings that a step of the full sequence finds for the lanes of a subchannel: free values (R520, log 6). Step 7 sets the read delay and
the receive reference, step 8 the write delay. -/
def State.freeLanes (s : State) (c step sub : Nat) : State :=
  (List.range 40).foldl (fun t i =>
    let l := 40 * sub + i
    let r := t.freeNat
    if step = 7 then (r.2.wrOwn (DMC_LANE_DLY_RD c l) (r.1 % 256)).wrOwn (DMC_LANE_DLY_VREF c l) (r.1 / 256 % 256)
    else if step = 8 then r.2.wrOwn (DMC_LANE_DLY_WR c l) (r.1 % 256)
    else t) s

/-- The runs of bursts in a step of R520, by their operation of TRAIN_CTRL; step 9 writes and reads back its 65,536 bursts in two halves,
since BURSTS holds 16 bits (log 62). -/
def trainOps (step : Nat) : List Nat :=
  if step ≤ 4 then [3] else if step = 5 then [0] else if step ≤ 7 then [2] else if step = 8 then [0, 1] else [0, 1, 0, 1]

/-- One run of training bursts: step of R520, operation, subchannel, rank. -/
structure TrainRun where
  step : Nat
  op : Nat
  sub : Nat
  rank : Nat
deriving DecidableEq, Repr

/-- The runs of the steps of R520 that use the pattern generator, 2 to 9, each step for both subchannels and every rank. -/
def trainSteps (ranks : Nat) : List TrainRun :=
  [2, 3, 4, 5, 6, 7, 8, 9].flatMap fun k => [0, 1].flatMap fun sub => (List.range ranks).flatMap fun r =>
    (trainOps k).map fun op => ⟨k, op, sub, r⟩

/-- Step 9 alone, for both subchannels and every rank (R522). -/
def verifySteps (ranks : Nat) : List TrainRun := (trainSteps ranks).filter fun x => decide (x.step = 9)

/-- Where a channel's training stands: the run, and what follows it (R520). -/
def State.trainAt (s : State) (c : Nat) : Option (TrainRun × TrainPhase) :=
  let n := match (s.chan c).spd with | some d => max 1 d.ranks | none => 1
  match (s.chan c).phase with
  | .verify i => ((verifySteps n)[i]?).map (·, .verify (i + 1))
  | .full i => ((trainSteps n)[i]?).map (·, .full (i + 1))
  | _ => none

/-- The firmware sets the generator up for a run and starts it: the LFSR pattern in steps 8 and 9, 32,768 bursts in each run of step 9; an
operation 0 writes them (R520, R521). -/
def State.trainRun (s : State) (c : Nat) (x : TrainRun) : State :=
  let s := ((s.wr (DMC_TRAIN_CTRL_OP c) x.op).wr (DMC_TRAIN_CTRL_SUB c) x.sub).wr (DMC_TRAIN_CTRL_RANK c) x.rank
  let s := if 8 ≤ x.step then s.wrOwn (DMC_TRAIN_PAT_MODE c) 1 else s
  let s := if x.step = 9 then s.wr (DMC_TRAIN_CTRL_BURSTS c) 32768 else s
  (if x.op = 0 ∧ 8 ≤ x.step then s.trainWrite c else s).wr (DMC_TRAIN_CTRL_BUSY c) 1

/-- The firmware enters a phase of training: it starts the run of its place (R520, R521). -/
def State.trainPhase (s : State) (c : Nat) (ph : TrainPhase) : State :=
  let s := s.setChan c fun x => { x with phase := ph }
  match s.trainAt c with
  | some (x, _) => s.trainRun c x
  | none => s

/-- The full sequence of R520 starts: ZQ calibration and RCD initialisation, then the runs of steps 2 to 9. -/
def State.trainFull (s : State) (c : Nat) : State := (s.emit (.dimmInit c)).trainPhase c (.full 0)

/-- Start a channel's training (R522): stored results that match the DIMM's serial number are applied and verified, unless a full
training is asked for. -/
def State.trainStart (s : State) (c : Nat) (full : Bool) : State :=
  let r := match s.trainRec c, (s.chan c).spd with
    | some r, some d => if r.serial = d.serial ∧ !full then some r else none
    | _, _ => none
  match r with
  | some r => (s.setLanes c r.lanes).trainPhase c (.verify 0)
  | none => s.trainFull c

/-- The data rate of a channel set: the lowest of the configuration record's and of the highest that each DIMM declares (R516). -/
def State.ddrRate (s : State) (used : List Nat) : Nat :=
  used.foldl (fun a c => match (s.chan c).spd with | some d => min a d.rate | none => a) (min 2 s.memCfg.rate)

/-- Step 2 of R519: the channel set (R515), its data rate (R516), the registers from the SPDs (R517); then step 3. -/
def State.ddrPopulation (s : State) : State :=
  let n := s.chanSet
  let used := List.range n
  let there := (List.range s.nDdr).filter fun c => (s.chan c).spd.isSome
  let s := s.setDdr fun d => { d with set := n }
  let rate := s.ddrRate used
  let s := used.foldl (fun t c =>
    let t := match (t.chan c).spd with | some d => t.applySpd c d | none => t
    (t.wrOwn (DMC_CTRL_RATE c) rate).trainStart c false) s
  let s := ((List.range s.nDdr).filter fun c => !used.contains c).foldl (fun t c => t.slotPowerOwn c false) s
  if there = used then s else s.report EV_DDR_POPULATION (src 5 0) 0

/-- A restore waits on a channel (R559). -/
def State.restoring (s : State) (c : Nat) : Bool := s.fw.waiting.any fun w => decide (w.kind = .restore c)

/-- The registers that the firmware writes for a channel that it restores: MEM_SLOT_RESTORE covers them (R33). -/
def trainRegs (c : Nat) : List Nat :=
  [(DMC_DIMM_RANKS c).off, (DMC_REFRESH_TRFCSB c).off, (DMC_TRC_NS c).off, (DMC_CTRL_RATE c).off, (DMC_TRAIN_PAT_MODE c).off]
    ++ (List.range 80).map fun l => (DMC_LANE_DLY_WR c l).off

/-- Step 2 of R559: the DIMM is checked against its partner's, and the slot powered off where it does not match. -/
def State.restoreSpd (s : State) (c : Nat) : State :=
  let good := match (s.chan c).spd, (s.chan (partner c)).spd with
    | some a, some b => spdSupported a && spdSame a b
    | _, _ => false
  if good then
    let full := s.fw.waiting.any fun w => decide (w.kind = .restore c) && (leAt w.cmd.payload 1 1).testBit 0
    let s := s.commandCovers (trainRegs c)
    let s := match (s.chan c).spd with | some d => s.applySpd c d | none => s
    let rate := s.ddrRate s.setChans
    (s.setChans.foldl (fun t k => t.wrOwn (DMC_CTRL_RATE k) rate) s).trainStart c full
  else (s.slotPower c false).wake fun w => if w.kind = .restore c then some (stBAD_PARAM, zeroResp 0x0741 []) else none

/-- Stage MEMORY of the boot, with the channel set still to be found. -/
def State.ddrBooting (s : State) : Bool := decide (s.rd PWR_BOOT_STATUS_STAGE = 4 ∧ s.ddr.set = 0)

/-- PMIC_WAIT_END (R519, R559): 20 ms after a slot was powered its PMIC reports power good, and the SPD is read. -/
def execPmicWaitEnd (c : Fin 4) (spd : Option Spd) (s : State) : Host.Outcome State Fault Refusal :=
  let due := match (s.chan c).phase with | .pmic t => decide (t + 20000000 ≤ s.now) | _ => false
  .next (if !s.serving || !due then s
  else
    let s := (s.wr (DMC_STATUS_POWERED c) (b2n spd.isSome)).setChan c fun x => { x with phase := .none, spd := spd }
    if s.restoring c then s.restoreSpd c
    else if s.ddrBooting && (List.range s.nDdr).all (fun k => match (s.chan k).phase with | .pmic _ => false | _ => true) then s.ddrPopulation
    else s)

/-- Step 4 of R519: the mapping registers from the configuration record; the init engine starts (R530, R566). -/
def State.ddrInit (s : State) : State :=
  let m := s.memCfg
  let s := ((s.wrOwn DMC0_MAP_MODE_MODE m.mode).wrOwn DMC0_MAP_MODE_GRAIN (m.grain % 16)).wrOwn DMC0_MAP_MODE_MIRROR (b2n m.mirror)
  let s := (List.range 9).foldl (fun t o =>
    (t.wrOwn (DMC0_MAP_LO_MASK o) (m.masks.getD o 0 % 2 ^ 32)).wrOwn (DMC0_MAP_HI_MASK o) (m.masks.getD o 0 / 2 ^ 32)) s
  (s.wrOwn DMC0_INIT_CTRL_FAST (b2n m.fast)).initStart

/-- A channel has passed its verification: results that an earlier training left to commit are no longer to be stored, and on a retired
channel the resilver follows the commit of the new ones; its oscillators their baseline (R520, R522, R559). -/
def State.trainPassed (s : State) (c : Nat) : State :=
  let s := ((s.wr (DMC_STATUS_TRAINED c) 1).wr (DMC_CTRL_EN c) 1).setChan c fun x => { x with phase := .done, lastAccess := s.now, oscBase := [], oscAt := s.now }
  let serial := match (s.chan c).spd with | some d => d.serial | none => 0
  let s := s.setNv fun n => { n with
    queue := n.queue.filter fun x => !x.what.trains c
    deferred := n.deferred.filter fun x => !x.what.trains c }
  let s := (s.nvEnqueue 3 (.training c ⟨serial, s.lanes c⟩) true).2
  if s.flag (DMC_STATUS_RETIRED c) then s
  else if s.rd PWR_BOOT_STATUS_STAGE = 4 ∧ s.ddr.map.isNone ∧ s.setChans.all (fun k => decide ((s.chan k).phase = .done)) then s.ddrInit
  else s

/-- TRAIN_DONE (R520 to R522): the training bursts of a channel are complete: the lanes that passed and the mismatched bits. While
the firmware trains the channel they are those of its run: a run whose lanes have all passed, and one of steps 8 and 9 that only writes, is
followed by the next, a run with a failing lane by another of the sweep, and a failed verification by the full sequence. -/
def execTrainDone (c : Fin 4) (pass : BitVec 40) (errs : BitVec 32) (s : State) : Host.Outcome State Fault Refusal :=
  let fw := s.serving && (s.trainAt c).isSome
  .next (if !s.mainUp || !(fw || s.flag (DMC_TRAIN_CTRL_BUSY c)) then s
  else
    let s := ((s.wr (DMC_TRAIN_PASS_LO_LANES c) (pass.toNat % 2 ^ 32)).wr (DMC_TRAIN_PASS_HI_LANES c) (pass.toNat / 2 ^ 32)).wr
      (DMC_TRAIN_ERRS_COUNT c) errs.toNat
    let s := s.wr (DMC_TRAIN_CTRL_BUSY c) 0
    match (if fw then s.trainAt c else none) with
    | none => s
    | some (x, next) =>
      if (x.op = 0 ∧ 8 ≤ x.step) ∨ (pass.toNat = 2 ^ 40 - 1 ∧ errs.toNat = 0) then
        let s := if x.op = 0 then s else s.freeLanes c x.step x.sub
        let t := s.trainPhase c next
        if (t.trainAt c).isSome then t else s.trainPassed c
      else if x.step = 9 then s.trainFull c
      else s.trainPhase c (s.chan c).phase)

/-! ### DDR_SCRUB (R562, R563) -/

/-- DDR_SCRUB. -/
def execDdrScrub (s : State) : Host.Outcome State Fault Refusal :=
  .next (s.serve 0x0721 fun c s =>
    let base := leAt c.payload 0 8
    let n := leAt c.payload 8 4
    if base % 65536 ≠ 0 ∨ n % 65536 ≠ 0 ∨ n = 0 then s.fail c stBAD_PARAM
    else if s.ddrBytes < base + n then s.fail c stPROT_BOUND
    else if s.ddr.scrub.isSome then s.fail c stBUSY
    else
      let job : DdrScrubJob := ⟨base, base + n, (leAt c.payload 12 1).testBit 0, 0, 0, 0, 0, []⟩
      (s.setDdr fun d => { d with scrub := some job }).waitFor c .ddrScrub)

/-- The device position with the most corrections; the lowest among equals. -/
def worstDev (l : List (Nat × Nat)) : Option (Nat × Nat) :=
  l.foldl (fun (b : Option (Nat × Nat)) x => match b with
    | none => some x
    | some y => if y.2 < x.2 ∨ (y.2 = x.2 ∧ x.1 < y.1) then some x else some y) none

/-- DDR_SCRUB's response. -/
def DdrScrubJob.resp (j : DdrScrubJob) : List Byte :=
  leBytes 4 j.corrected ++ leBytes 4 j.uncorrectable ++ leBytes 4 j.mirrorFixed ++ leBytes 4 j.poisoned
    ++ (match worstDev j.devs with
      | some w => leBytes 1 (w.1 / 20) ++ leBytes 1 (w.1 % 20) ++ [0, 0] ++ leBytes 4 w.2
      | none => [0xFF, 0, 0, 0] ++ leBytes 4 0)

/-- One line of a DDR5 scrub, which returns as `q` says unless it is served from a queued write or lies in an unfilled granule (R525, R549,
R563). -/
def State.ddrScrubLine (s : State) (j : DdrScrubJob) (q : DdrQuality) : DdrScrubJob × State :=
  let la := j.next
  let p := s.placeOf la
  let c := s.readChan s.ddrMap p.ch
  let forwarded : Bool := match s.ddrPeek c la with | some w => decide (w.kind = .write) | none => false
  let s := (s.ddrFlush la).ddrTouch c
  let l := s.chanLine c la
  let j := { j with next := la + 64 }
  if s.unfilled (la / 65536) then ({ j with poisoned := j.poisoned + 1 }, s.count (DMC_FILL_RD_COUNT c) 1)
  else if forwarded then ({ j with poisoned := j.poisoned + b2n l.2 }, s.count (DMC_FORWARDED_COUNT c) 1)
  else
    let k := ((s.activate c (.be 1) la).noteQuality c la q).ddrCheck c la l.1 l.2 q
    let a := k.1
    let s := k.2
    let dev := match q with | .oneDevice i _ => c * 20 + 10 * p.sub + i % 10 | _ => 0
    let back := j.rewrite && decide (2 ≤ a.cls)
    let s := if back then (s.ddrWriteLine (.be 1) la (a.data.map some) a.poison).2 else s
    ({ j with
      corrected := j.corrected + b2n (decide (a.cls = 2))
      mirrorFixed := j.mirrorFixed + b2n (decide (a.cls = 3))
      uncorrectable := j.uncorrectable + b2n (decide (a.cls = 4))
      poisoned := j.poisoned + b2n (decide (a.cls = 1))
      devs := if a.cls = 2 then (dev, (j.devs.lookup dev).getD 0 + 1) :: j.devs.filter fun e => e.1 ≠ dev else j.devs }, s)

/-- DDR_SCRUB_READ (R562, R563): the scrub reads its next line; after the last its command completes. -/
def execDdrScrubRead (q : DdrQuality) (s : State) : Host.Outcome State Fault Refusal :=
  .next (match (if s.mainUp then s.ddr.scrub else none) with
  | none => s
  | some j =>
    let r := s.ddrScrubLine j q
    if r.1.next < r.1.stop then r.2.setDdr fun d => { d with scrub := some r.1 }
    else (r.2.setDdr fun d => { d with scrub := none }).wake fun w => if w.kind = .ddrScrub then some (stOK, r.1.resp) else none)

/-! ### Retirement (R558) -/

/-- Mirroring is in force. -/
def State.mirrored (s : State) : Bool := match s.ddr.map with | some m => m.mirror | none => false

/-- A retirement ends a restore of its channel that is under way: the restore ends with BUSY (R558 and R559 are silent on the two
meeting: log 62, DESIGN CHOICE). -/
def State.restoreEnd (s : State) (k : Nat) : State :=
  if s.restoring k then
    ((s.wr (DMC_STATUS_RESILVER k) 0).setChan k fun x => { x with resilver := none }).wake fun w =>
      if w.kind = .restore k then some (stBUSY, zeroResp 0x0741 []) else none
  else s

/-- MEM_SLOT_RETIRE (R85, R558). -/
def execMemSlotRetire (s : State) : Host.Outcome State Fault Refusal :=
  .next (s.serve 0x0740 fun c s =>
    let k := (s.took c).headD (leAt c.payload 0 1)
    let p := partner k
    if !(s.took c).isEmpty && s.flag (DMC_STATUS_RETIRED k) then s.ok c
    else if s.ddr.set ≤ k ∨ !s.mirrored then s.fail c stBAD_PARAM
    else if (s.took c).isEmpty && (s.chanOut p || s.flag (DMC_STATUS_RESILVER p) || (s.chan p).badSince) then s.fail c stBAD_PARAM
    else if (s.chan k).retiring then s.waitFor c (.retire k)
    else if s.flag (DMC_STATUS_RETIRED k) && !s.flag (DMC_SLOT_PWR_EN k) then s.ok c
    else
      let t := ((s.restoreEnd k).take c [k]).setChan k fun x => { x with retiring := true }
      if !t.rateFits then s.fail c stREJECTED_BANDWIDTH else t.waitFor c (.retire k))

/-- RETIRE_DRAINED (R558): the queues of a channel that retires are empty; its slot is powered off. -/
def execRetireDrained (c : Fin 4) (s : State) : Host.Outcome State Fault Refusal :=
  let x := s.chan c
  .next (if s.serving && x.retiring && x.rdQ.isEmpty && x.wrQ.isEmpty && x.flight.isEmpty && x.stalled.isEmpty then
    ((((s.slotPower c false).wr (DMC_STATUS_RETIRED c) 1).wr (DMC_CTRL_EN c) 0).setChan c fun x => { x with retiring := false }).wake
      fun w => if w.kind = .retire c.val then some (stOK, []) else none
  else s)

/-! ### Restore (R559 to R561) -/

/-- The commit of a channel's last training results failed its hold-up check and waits (R561). -/
def State.trainPending (s : State) (c : Nat) : Bool :=
  s.nv.deferred.any fun x => x.what.trains c

/-- MEM_SLOT_RESTORE (R85, R559). -/
def execMemSlotRestore (s : State) : Host.Outcome State Fault Refusal :=
  .next (s.serve 0x0741 fun c s =>
    let k := leAt c.payload 0 1
    if 3 < k then s.fail c stBAD_PARAM
    else if !s.flag (DMC_STATUS_RETIRED k) then
      -- an earlier execution of the same command has restored the channel: the time it took is not kept
      if s.took c = [] then s.fail c stBAD_PARAM
      else let r := s.freeNat; r.2.finish c stOK (leBytes 4 r.1 ++ leBytes 4 (b2n (s.trainPending k)))
    else if s.restoring k then s.fail c stBUSY
    else
      let s := (s.take c [k]).waitFor c (.restore k)
      if (s.chan k).phase = .none && (s.chan k).resilver.isNone then
        (s.slotPower k true).setChan k fun x => { x with phase := .pmic s.now }
      else s)

/-- The first line at or above an address that lies on a pair of channels. -/
def State.nextOnPair (s : State) (pair : Nat) (a : Nat) : Nat :=
  let step := match s.ddr.map with
    | some m => match maskPivot (m.masks.getD 1 0) with | some p => 2 ^ p | none => 64
    | none => 64
  let on := fun (x : Nat) => decide ((s.placeOf x).ch / 2 = pair)
  (([a, (a / step + 1) * step, (a / step + 2) * step].find? on).getD s.ddrBytes)

/-- The resilver of a channel is complete (R559 step 6, R561). -/
def State.resilverDone (s : State) (c since : Nat) : State :=
  let s := ((s.wr (DMC_STATUS_RETIRED c) 0).wr (DMC_STATUS_RESILVER c) 0).setChan c fun x => { x with resilver := none }
  let s := (s.setCause (causeDmc c 6)).report EV_DDR_SLOT_RESTORED (src 5 c) 0
  let resp := leBytes 4 ((s.now - since) / 1000000) ++ leBytes 4 (b2n (s.trainPending c))
  s.wake fun w => if w.kind = .restore c then some (stOK, resp) else none

/-- RESILVER_COPY (R559, R560): the copy engine reads the next line of the partner, which returns as `q` says, and writes it to the restored
channel; an uncorrectable line is stored there with poison. After the last line both channels serve reads again. While RESILVER.RATE is 0 nothing is copied (R42). -/
def execResilverCopy (c : Fin 4) (q : DdrQuality) (s : State) : Host.Outcome State Fault Refusal :=
  let p := partner c.val
  .next (match (if s.mainUp && decide (s.rd DMC0_RESILVER_RATE ≠ 0) then (s.chan c).resilver else none) with
  | none => s
  | some (next, since) =>
    let la := s.nextOnPair (c.val / 2) next
    if s.ddrBytes ≤ la then s.resilverDone c.val since
    else
      let s := (((s.ddrFlush la).ddrTouch p).activate p (.be 1) la).noteQuality p la q
      let l := s.chanLine p la
      let k := s.ddrCheck p la l.1 l.2 q
      let s := ((k.2.ddrTouch c).activate c (.be 1) la).lineStore c la k.1.data k.1.poison
      let s := s.setChan c fun x => { x with resilver := some (la + 64, since) }
      if s.ddrBytes ≤ s.nextOnPair (c.val / 2) (la + 64) then s.resilverDone c.val since else s)

/-! ### Configuration (R564) -/

/-- MEM_CONFIG. -/
def execMemConfig (s : State) : Host.Outcome State Fault Refusal :=
  .next (s.serve 0x0701 fun c s =>
    let d := c.payload
    let mode := leAt d 0 1
    let grain := leAt d 1 1
    let flags := leAt d 2 1
    let masks := (List.range 9).map fun o => leAt d (4 + 8 * o) 8 % 2 ^ 40
    let m := { s.mapRegs with mode := mode, grain := grain, mirror := flags.testBit 0, masks := masks }
    if 1 < mode ∨ 2 < leAt d 3 1 ∨ !m.valid ∨ !m.mirrorOk ∨ (mode = 1 ∧ (grain < 8 ∨ 16 < grain)) then s.fail c stBAD_PARAM
    else s.nvCommand c 4 (.config ⟨mode, grain, flags.testBit 0, flags.testBit 1, leAt d 3 1, masks⟩) [])

end Sys2Proof.Machine
end

