-- ==== Sys2Proof/Machine/Scrub.lean ====
section
/-! DEFINITION. Densum's mailbox commands (chapter "The Densum central store"): regions, scrub, live repair, override. -/

namespace Sys2Proof.Machine

/-! ### Override (R509) -/

/-- Clear DSM_BLOCK after a failed self-test. -/
def State.dsmOverride (s : State) : State :=
  if s.flag DSM_STATUS_SELFTEST_FAIL then
    let s := (List.range s.nHeads).foldl (fun t h => t.wr (HEAD_STATUS_DSM_BLOCK h) 0) s
    (s.wr DSM_STATUS_OVERRIDDEN 1).report EV_DSM_OVERRIDE (src 2 0) 0
  else s

/-- DSM_OVERRIDE (R509). -/
def execDsmOverride (s : State) : Host.Outcome State Fault Refusal :=
  .next (s.serve 0x0702 fun c s => if leAt c.payload 0 8 = s.fuses.serial then s.dsmOverride.ok c else s.fail c stBAD_PARAM)

/-! ### Regions (R511, R512) -/

/-- The response of DSM_REGION_ALLOC: number and base of a region. -/
def State.allocResp (s : State) (k : Nat) : List Byte := leBytes 1 k ++ [0, 0, 0] ++ leBytes 8 (dsmBase + (s.regionSpan k).1)

/-- DSM_REGION_ALLOC (R85, R511). -/
def execDsmRegionAlloc (s : State) : Host.Outcome State Fault Refusal :=
  .next (s.serve 0x0710 fun c s =>
    let size := leAt c.payload 0 4
    let cls := leAt c.payload 4 1
    let rd := leAt c.payload 6 2
    let wr := leAt c.payload 8 2
    if size = 0 ∨ size % 65536 ≠ 0 ∨ 1 < cls ∨ 512 ≤ rd ∨ 512 ≤ wr then s.fail c stBAD_PARAM
    else match s.took c with
      | k :: _ => s.finish c stOK (s.allocResp k)
      | [] =>
        match s.dsmNewRegion (size / 65536) rd wr (decide (cls = 1)) true with
        | none => s.fail c stREJECTED_DENSUM
        | some r => (r.2.take c [r.1]).finish c stOK (r.2.allocResp r.1))

/-- Footprints of a source's planes and palette: lowest address and bytes. -/
def srcSpans (c : Src) (srcW srcH : Nat) : List (Nat × Nat) :=
  let plane := fun (p pitch rows bytes : Nat) => (p, (rows - 1) * pitch + bytes)
  [plane c.p0 c.pitch0 srcH (rowBytes0 c.fmt srcW)]
    ++ (if twoPlane c.fmt then [plane c.p1 c.pitch1 (rows1 c.fmt srcH) (rowBytes1 c.fmt srcW)] else [])
    ++ (if c.fmt = 6 then [(c.p1, 1024)] else [])

/-- Footprints of the planes of a layer, by its live registers: of a stream's ring, all its slots. -/
def State.layerSpans (s : State) (l : Nat) : List (Nat × Nat) :=
  let rows := if s.lrd (LAY_CTRL_SOURCE l) = 2 then s.ringLines (s.lrd (LAY_CTRL_STREAM l)) else s.lrd (LAY_SRC_SIZE_H l)
  srcSpans (s.source l).1 (s.lrd (LAY_SRC_SIZE_W l)) rows

/-- Footprints of the live map of a head and of the gain words it names (R328). -/
def State.mapSpans (s : State) (h : Nat) : List (Nat × Nat) :=
  let cal := fun (e : MapEntry) => if e.cal then [(e.calBase, (e.h - 1) * e.calPitch + 4 * e.w)] else []
  (s.mapBase h, s.mapCount h * 64) :: (s.mapEntries h).flatMap cal

/-- Footprints of a head's live write-back. -/
def State.wbSpans (s : State) (h : Nat) : List (Nat × Nat) :=
  let t := s.liveTiming h
  let f := s.wbFormat h
  if f = 0 then []
  else [(s.wbBase h, s.lrd (HEAD_WB_CTRL_BUFFERS h) * (s.lrd (HEAD_WB_STRIDE_STRIDE h) * 64)
    + (t.vActive - 1) * (s.lrd (HEAD_WB_PITCH_PITCH h) * 64) + wbLineBytes f t.hActive)]

/-- What heads and Formes use, live or pending (R512). -/
def State.usedSpans (s : State) : List (Nat × Nat) :=
  let hs := List.range s.nHeads
  let views := hs.map fun h => (h, s.shadowView h)
  let planes := (List.range 64).flatMap fun l =>
    (if hs.any fun h => s.inLive h l then s.layerSpans l else [])
      ++ (if hs.any fun h => s.inPending h l then
          (s.latchPage (layerPage l) (layerShadow l)).layerSpans l ++ (s.latchPageLive (layerPage l) (layerShadow l)).layerSpans l
        else [])
  let flips := s.fw.waiting.flatMap fun w => match w.kind with
    | .queued _ _ _ => if w.cmd.cmd = 0x0210 then
        let l := leAt w.cmd.payload 0 1
        let v := s.flipPlanes w.cmd.payload
        (v.latchPage (layerPage l) (layerShadow l)).layerSpans l
      else []
    | _ => []
  planes ++ flips ++ hs.flatMap (fun h => s.mapSpans h ++ s.wbSpans h)
    ++ views.flatMap fun v => v.2.mapSpans v.1 ++ (v.2.latchPage (headPage v.1) headShadow).wbSpans v.1

/-- DSM_REGION_FREE (R512). -/
def execDsmRegionFree (s : State) : Host.Outcome State Fault Refusal :=
  .next (s.serve 0x0711 fun c s =>
    let k := leAt c.payload 0 1
    if 63 < k ∨ !s.flag (DSM_REG_CTRL_EN k) ∨ !s.flag (DSM_REG_CTRL_OWNER k) then s.fail c stBAD_PARAM
    else
      let r := s.regionSpan k
      let lo := dsmBase + r.1
      let hi := dsmBase + r.2
      if s.usedSpans.any fun x => decide (x.2 ≠ 0 ∧ x.1 < hi ∧ lo < x.1 + x.2) then s.fail c stBUSY
      else (s.dsmFreeRegion k).ok c)

/-! ### SCRUB (R494 to R498) -/

/-- SCRUB (R494, R495). -/
def execScrub (s : State) : Host.Outcome State Fault Refusal :=
  .next (s.serve 0x0720 fun c s =>
    let base := leAt c.payload 0 8
    let n := leAt c.payload 8 4
    if base % 4096 ≠ 0 ∨ n % 4096 ≠ 0 ∨ n = 0 then s.fail c stBAD_PARAM
    else if !inDsm base || decide (dsmBase + dsmSize < base + n) then s.fail c stPROT_BOUND
    else if s.dsm.scrub.isSome then s.fail c stBUSY
    else
      let job : ScrubJob := ⟨base, base + n, base, (leAt c.payload 12 1).testBit 0, 0, 0, 0, 0, 0, 0, 0, [], false, 0⟩
      ((s.setDsm fun d => { d with scrub := some job }).wr DSM_STATUS_SCRUB_BUSY 1).waitFor c .scrub)

/-- A write-back of the scrubber: a whole line with fresh codes and a poison bit (R493, R497). -/
def State.scrubWrite (s : State) (la : Nat) (d : List Byte) (poison : Bool) : State :=
  (((s.dsmStoreAll la (d.map some)).dsmSetPoison la poison true).recurClearLine (la - dsmBase)).inject la fun _ => true

/-- Lines of a page as the codes deliver them (R496). -/
def State.pageLines (s : State) (p : Nat) : List (Nat × List Byte) :=
  (List.range 64).map fun i =>
    let l := s.innerRead (lineKey p i)
    (i, if l.bad then (s.rebuild p i).getD l.data else l.data)

/-- The end of a page of a scrub: staleness, dirtiness, the write-backs, and with REWRITE fresh parity over what then stands there; a page
of which a write-back was dropped stays dirty (R496 to R498). -/
def State.scrubPage (s : State) (j : ScrubJob) (p : Nat) : ScrubJob × State :=
  let back := fun (s : State) => j.backs.foldl (fun s b => s.scrubWrite b.1 b.2.1 b.2.2) s
  let next := { j with backs := [], dropped := false, pageBad := 0 }
  match s.pageSeal p with
  | none => (next, back s)
  | some x =>
    let ls := s.pageLines p
    let P := s.innerRead (lineKey p 64)
    let Q := s.innerRead (lineKey p 65)
    let tested := x.isSealed && decide (j.pageBad + b2n P.bad + b2n Q.bad ≤ 2)
    let stale := tested && decide (P.data ≠ pLine ls ∨ Q.data ≠ qLine ls)
    let dirty := !x.isSealed
    let again := j.rewrite && (!j.backs.isEmpty || stale || dirty) && !j.dropped
    let s := back s
    let s := if again then (s.writeParity p (s.pageLines p)).setPage p ⟨true, x.lastWrite, false⟩ else s
    ({ next with stale := j.stale + b2n stale, dirty := j.dirty + b2n dirty }, s)

/-- SCRUB's response. -/
def ScrubJob.resp (j : ScrubJob) : List Byte :=
  leBytes 4 j.corrected ++ leBytes 4 j.uncorrectable ++ leBytes 4 j.rebuilt ++ leBytes 4 j.stale ++ leBytes 4 j.dirty
    ++ leBytes 1 j.worstBytes ++ [0, 0, 0] ++ leBytes 8 j.worstAddr

/-- A line of a scrub; its write-back waits for the end of the page, so that every line of the page is read as it stands (R496). -/
def State.scrubLine (s : State) (j : ScrubJob) : ScrubJob × State :=
  let la := j.next
  let r := s.dsmRawRead la
  let a := r.1
  let back := j.rewrite && decide (2 ≤ a.row ∧ a.row ≤ 4)
  let worse := decide (j.worstBytes < a.fixed)
  ({ j with
    next := la + 64
    corrected := j.corrected + b2n (decide (a.row = 2))
    rebuilt := j.rebuilt + b2n (decide (a.row = 3))
    uncorrectable := j.uncorrectable + b2n (decide (a.row = 4))
    worstBytes := if worse then a.fixed else j.worstBytes
    worstAddr := if worse then la else j.worstAddr
    backs := if back then (la, a.data, a.poison) :: j.backs else j.backs
    pageBad := j.pageBad + b2n (decide (a.row = 3 ∨ a.row = 4)) }, r.2)

/-- SCRUB_READ (R494 to R497): the scrubber reads the next line; after the last it is done. -/
def execScrubRead (s : State) : Host.Outcome State Fault Refusal :=
  .next (match (if s.mainUp then s.dsm.scrub else none) with
  | none => s
  | some j =>
    let r := s.scrubLine j
    let r := if r.1.next % 4096 = 0 then r.2.scrubPage r.1 (dsmPage (j.next - dsmBase)) else r
    if r.1.next < r.1.stop then r.2.setDsm fun d => { d with scrub := some r.1 }
    else
      let s := ((r.2.setDsm fun d => { d with scrub := none }).wr DSM_STATUS_SCRUB_BUSY 0).setCause (causeDsm 5)
      s.wake fun w => if w.kind = .scrub then some (stOK, r.1.resp) else none)

/-! ### Live repair (R499 to R504) -/

/-- Spares of a kind in use in a bank. -/
def State.sparesUsed (s : State) (bank : Nat) (column : Bool) : Nat :=
  s.dsm.spares.countP fun u => decide (u.bank = bank ∧ u.column = column)

/-- Entries on their way into the soft repair map. -/
def State.softQueued (s : State) : List SpareUse :=
  (s.nv.busy.toList ++ s.nv.queue ++ s.nv.deferred).filterMap fun c => match c.what with | .softAdd u => some u | _ => none

/-- The lowest-numbered spare of a kind in a bank that neither stands in use nor in the soft repair map (R502). -/
def State.freeSpare (s : State) (bank : Nat) (column : Bool) : Option Nat :=
  (List.range (if column then 8 else 64)).find? fun n =>
    !(s.dsm.spares ++ s.softMapNow ++ s.softQueued).any fun u => decide (u.bank = bank ∧ u.column = column ∧ u.spare = n)

/-- SPARE_USE of a bank shows its spares; the word of bank 64 gives way to SOFT_MAP (log 23). -/
def State.showSpares (s : State) (bank : Nat) : State :=
  if bank ≠ 64 then
    (s.wr (DSM_SPARE_USE_ROWS bank) (s.sparesUsed bank false)).wr (DSM_SPARE_USE_COLS bank) (s.sparesUsed bank true)
  else s

/-- The rows and columns that spares replace, shown for every bank (R499). -/
def State.setSpares (s : State) (l : List SpareUse) : State :=
  (List.range 66).foldl (fun t b => t.showSpares b) (s.setDsm fun d => { d with spares := l })

/-- DSM_REPAIR's response. -/
def State.repairResp (s : State) (bank spare : Nat) : List Byte :=
  leBytes 2 spare ++ leBytes 1 (64 - s.sparesUsed bank false) ++ leBytes 1 (8 - s.sparesUsed bank true)

/-- The commit under way for a repair's entry of the soft repair map. -/
def State.softTicket (s : State) (u : SpareUse) : Option Nat :=
  ((s.nv.busy.toList ++ s.nv.queue ++ s.nv.deferred).find? fun c => match c.what with | .softAdd v => decide (v = u) | _ => false).map
    Commit.ticket

/-- Persist a repair that has been made, its hold-up check passed before (R504), or still to be made for a command that is executed again
(R102). -/
def State.persistRepair (s : State) (c : FwCmd) (u : SpareUse) (resp : List Byte) (checked : Bool) : State :=
  let t := s.nv.nextTicket
  let com : Commit := ⟨2, t, .softAdd u, false, checked⟩
  (s.setNv fun n => { n with nextTicket := t + 1, queue := n.queue ++ [com] }).waitFor c (.nv t resp)

/-- The row or column of a repair, on its spare. -/
def RepairJob.use (j : RepairJob) : SpareUse := ⟨j.bank, j.column, j.index, j.spare⟩

/-- DSM_REPAIR (R85, R503, R504). -/
def execDsmRepair (adc : Adc) (s : State) : Host.Outcome State Fault Refusal :=
  .next (s.serve 0x0730 fun c s =>
    let bank := leAt c.payload 0 1
    let kind := leAt c.payload 1 1
    let col := decide (kind = 1)
    let idx := leAt c.payload 2 2
    let per := (leAt c.payload 4 1).testBit 0
    if 65 < bank ∨ 1 < kind ∨ (if col then 127 else 2047) < idx then s.fail c stBAD_PARAM
    else match s.took c with
      | sp :: _ =>
        -- an earlier execution took a spare: its repair still runs, or is to be persisted, or is complete
        let u : SpareUse := ⟨bank, col, idx, sp⟩
        if s.dsm.repair.any fun j => decide (j.use = u) then s.waitFor c .repair
        else if per && !s.softMapNow.contains u then
          match s.softTicket u with
          | some t => s.waitFor c (.nv t (s.repairResp bank sp))
          | none => s.persistRepair c u (s.repairResp bank sp) true
        else s.finish c stOK (s.repairResp bank sp)
      | [] =>
        match s.freeSpare bank col with
        | none => s.fail c stBAD_PARAM
        | some sp =>
          if per ∧ 256 ≤ s.softMapNow.length + s.softQueued.length then s.fail c stBAD_PARAM
          else if s.dsm.repair.isSome then s.fail c stBUSY
          else
            let r := if per then s.holdup adc 2 else (true, s)
            if !r.1 then r.2.fail c stNO_HOLDUP
            else
              let lines := (repairLines bank col idx).map fun x => lineKey x.1 x.2
              let job : RepairJob := ⟨bank, col, idx, sp, per, lines, [], [], [], false⟩
              (((r.2.take c [sp, bank, kind, idx]).setDsm fun d => { d with repair := some job }).wr DSM_STATUS_REPAIR_BUSY 1).waitFor c .repair)

/-- Page and index of a line key. -/
def keyLine (key : Nat) : Nat × Nat :=
  if key < parityBase then (dsmPage (key - dsmBase), dsmLineOf (key - dsmBase))
  else ((key - parityBase) / 128, 64 + (key - parityBase) % 128 / 64)

/-- DETAIL of an event about a parity line; its line address is that of its page (log 33). -/
def parityDetail (p i : Nat) (l : LineRead) (row : Nat) : Nat :=
  let f := l.first.getD (0, 0, 0)
  p * 64 + i * 2 ^ 21 + bits p 14 4 * 2 ^ 28 + (8 * bits p 3 0 + bits f.1 5 3) * 2 ^ 39 + f.2.1 * 2 ^ 46 + f.2.2 * 2 ^ 50 + row * 2 ^ 51

/-- A read of a parity line through steps 2 to 4 of R487: data, poison, and whether it is as read and uncorrectable. -/
def State.parityRead (s : State) (p i : Nat) : (List Byte × Bool × Bool) × State :=
  let l := s.innerRead (lineKey p i)
  if l.bad then
    let sealedPage := match s.pageSeal p with | some x => x.isSealed | none => false
    if sealedPage && decide ((s.lostLines p).length ≤ 2) then
      ((if i = 64 then pLine (s.pageLines p) else qLine (s.pageLines p), l.poison, false),
        ((s.count DSM_REBUILT_COUNT 1).setCause (causeDsm 1)).report EV_DSM_REBUILT (src 2 0) (parityDetail p i l 3))
    else
      ((l.data, true, true), ((s.count DSM_UE_LINES_COUNT 1).setCause (causeDsm 0)).report EV_DSM_UE (src 2 0) (parityDetail p i l 4))
  else
    ((l.data, l.poison, false), if decide (0 < l.corrected) || l.poisonFix then s.count DSM_CE_LINES_COUNT 1
      else if l.poison then s.count DSM_POISON_RD_COUNT 1 else s)

/-- Read a line for the repair engine: data and poison, and whether it is as read and uncorrectable (R500, R501). -/
def State.repairRead (s : State) (key : Nat) : (List Byte × Bool × Bool) × State :=
  if key < parityBase then
    let r := s.dsmRawRead key
    ((r.1.data, r.1.poison, decide (r.1.row = 4)), r.2)
  else let k := keyLine key; s.parityRead k.1 k.2

/-- An armed injection at the repair engine's rewrite of a line, which stores it in the spare (R489, R510). -/
def State.injectSpare (s : State) (key : Nat) : State :=
  match s.dsm.repair with
  | none => s
  | some r =>
    let b := s.rd DSM_INJECT_CTRL_BYTE
    let i := s.rd DSM_INJECT_CTRL_BIT
    let mode := s.rd DSM_INJECT_CTRL_MODE
    let holds := (r.spareBytes.lookup (key + b)).isSome
    let put := fun (r : RepairJob) => (s.setDsm fun d => { d with repair := some r }).wr DSM_INJECT_CTRL_ARM 0
    if s.flag DSM_INJECT_CTRL_ARM && decide (key < parityBase ∧ s.rd DSM_INJECT_ADDR_LINE = bits (key - dsmBase) 26 6) then
      if mode = 1 ∧ holds then put (r.flipSpare (key + b) i)
      else if mode = 2 ∧ holds then put ((r.flipSpare (key + b) i).flipSpare (key + b) ((i + 1) % 8))
      else if mode = 3 then put { r with sparePoison := (key, 7) :: r.sparePoison.filter fun e => e.1 ≠ key }
      else s
    else s

/-- REPAIR_COPY (R500, R501): the repair engine copies the next line to the spare. -/
def execRepairCopy (s : State) : Host.Outcome State Fault Refusal :=
  .next (match (if s.mainUp then s.dsm.repair else none) with
  | none => s
  | some j =>
    match j.toCopy with
    | [] => s
    | key :: rest =>
      let r := s.repairRead key
      let bytes := (List.range 64).filterMap fun i =>
        if repairHas j.column j.index (key + i) then some (key + i, r.1.1.getD i 0) else none
      let pois := if r.1.2.2 then [(key, 7)] else if j.column then [] else [(key, if r.1.2.1 then 7 else 0)]
      let s := if r.1.2.2 then r.2.dirtyPage (keyLine key).1 else r.2
      (s.setDsm fun d => { d with repair := some { j with
        toCopy := rest
        spareBytes := bytes ++ j.spareBytes.filter fun e => !bytes.any fun x => decide (x.1 = e.1)
        spareErr := j.spareErr.filter fun e => !bytes.any fun x => decide (x.1 = e.1)
        sparePoison := pois ++ j.sparePoison } }).injectSpare key)

/-- The map changes: the spare's contents take the place of the row or column (R500). -/
def State.repairApply (s : State) (j : RepairJob) : State :=
  let s := s.setDsm fun d => { d with repair := none }
  let s := j.spareBytes.foldl (fun s e => s.dsmStore e.1 e.2) s
  let s := j.spareErr.foldl (fun s e => s.setDsm fun d => { d with cerr := Sparse.put (fun _ => 0) d.cerr e.1 e.2 }) s
  let s := j.sparePoison.foldl (fun s e => s.setDsm fun d => { d with poison := Sparse.put (fun _ => 0) d.poison e.1 e.2 }) s
  let s := (s.setDsm fun d => { d with spares := d.spares ++ [j.use] }).showSpares j.bank
  if j.column || decide (64 ≤ j.bank) then s
  else (rowLines j.bank j.index).foldl (fun s x => s.recurClearLine (lineKey x.1 x.2 - dsmBase)) s

/-- The commands that wait for a repair complete, or go on to persist it (R504). -/
def State.repairDone (s : State) (j : RepairJob) : State :=
  let resp := s.repairResp j.bank j.spare
  if j.persist then
    let ws := s.fw.waiting.filter fun w => decide (w.kind = .repair)
    let s := { s with fw := { s.fw with waiting := s.fw.waiting.filter fun w => decide (w.kind ≠ .repair) } }
    ws.foldl (fun s w => s.persistRepair w.cmd j.use resp true) s
  else s.wake fun w => if w.kind = .repair then some (stOK, resp) else none

/-- REPAIR_SWITCH (R500, R504): every line has been copied; the map changes. -/
def execRepairSwitch (s : State) : Host.Outcome State Fault Refusal :=
  .next (match (if s.mainUp then s.dsm.repair else none) with
  | none => s
  | some j =>
    if !j.toCopy.isEmpty then s
    else ((((s.repairApply j).wr DSM_STATUS_REPAIR_BUSY 0).setCause (causeDsm 6)).report EV_DSM_REPAIR (src 2 0) 0).repairDone j)

end Sys2Proof.Machine
end

