-- ==== Sys2Proof/Machine/Power.lean ====
section
/-! DEFINITION. Power, reset and boot, firmware images, the completion of commits, temperature (chapter "Power, reset, boot and the
non-volatile store"). -/

namespace Sys2Proof.Machine

/-- Change the power state. -/
def State.setPwr (s : State) (f : Power → Power) : State := { s with power := f s.power }

/-! ### Reset of the main die (R642, R643) -/

/-- Registers that a reset of the main die keeps: the SHD page, and PWR's sampled straps, the level of PWR_FAIL_N and the fused SVN
minimum. -/
def keptReg (s : State) (e : Nat × Word) : Bool :=
  decide (0x1A0000 ≤ e.1 ∧ e.1 < 0x1B0000) || decide (e.1 = PWR_STRAPS_VALUE.off) || decide (e.1 = PWR_SVN_MIN_SVN.off) ||
    (decide (e.1 = PWR_STATUS_PWR_FAIL.off) && s.flag PWR_STATUS_PWR_FAIL)

/-! ### Outputs of the main domain (R611, R641, R643, R709) -/

/-- The clock in Hz, as a fraction, that a head PLL drives on GPIO(8 + k); none where CLKOUT does not route it or the output does not run
(R611, R636). -/
def State.gpioClock (s : State) (k : Nat) : Option (Nat × Nat) :=
  if s.mainUp && (s.rd TSY_CLKOUT_EN).testBit k && s.pllRuns (k / 2) (2 + k % 2) then some (s.pllOut (k / 2) (2 + k % 2)) else none

/-- A general-purpose pin is an input with its pull: always in reset of the main die, and else where no clock is routed to it (R643, R698). -/
def State.gpioInput (s : State) (n : Nat) : Bool := !s.mainUp || decide (n < 8) || !(s.rd TSY_CLKOUT_EN).testBit (n - 8)

/-- QSPI_CS_N is high: no commit or erase is under way in the flash (R643). -/
def State.qspiCsHigh (s : State) : Bool := !s.mainUp || (s.nv.busy.isNone)

/-- The transmit lanes of a Sheet port are in electrical idle (R643). -/
def State.sheetIdle (s : State) (p : Nat) : Bool := !s.mainUp || !s.flag (SP_CTRL_EN p)

/-- The transmit lanes of an ingest port are in electrical idle (R643). -/
def State.ingestIdle (s : State) (p : Nat) : Bool := !s.mainUp || !s.flag (INGP_PORT_CTRL_EN p)

/-- SPn_TXDIS is high: the transmitter of the port's module is off (R709). -/
def State.sheetTxDis (s : State) (p : Nat) : Bool := !s.mainUp || !s.flag (SP_CTRL_EN p)

/-- IPn_TXDIS is high: the transmitter of the port's module is off (R709). -/
def State.ingestTxDis (s : State) (p : Nat) : Bool := !s.mainUp || !s.flag (INGP_PORT_CTRL_EN p)

/-- THERMTRIP_N is asserted (R643, R666). -/
def State.thermTripLow (s : State) : Bool := s.power.tripped

/-- The machine with its main die in reset. -/
def State.dieReset (s : State) : State :=
  let s := (List.range s.nHeads).foldl (fun t h => if t.fsyncHigh h then t.emit (.fsync h false) else t) s
  let s := (List.range s.nDdr).foldl (fun t c => if t.dimmPwrEn c then t.emit (.dimmPower c false) else t) s
  let pf := s.flag PWR_STATUS_PWR_FAIL
  let t := { State.reset with
    pending := s.pending
    part := s.part
    fuses := s.fuses
    now := s.now
    freeCtr := s.freeCtr
    regs := s.regs.filter (keptReg s)
    mem := s.mem
    poisoned := s.poisoned
    out := s.out
    shroud := s.shroud
    nv := { (match s.nv.busy with | some c => s.nv.torn c | none => s.nv) with queue := [], busy := none, deferred := [] }
    power := { s.power with resetDue := none, staged := none, swap := none, fallback := false, tempSeen := false }
    mainUp := false }
  if pf then t.setReg PWR_STATUS_PWR_FAIL.off (PWR_STATUS_PWR_FAIL.put 0 1) else t

/-- A reset of the main die, and the takeover of the Shroud that it leads to (R416, R642): cause 1 reset, 2 power, 4 thermal. -/
def State.mainReset (s : State) (cause : Nat) : State := (s.dieReset).shroudTakeover cause

/-- Registers that factory records and fuses fix (R333, R376, R670). -/
def State.factoryRegs (s : State) : State :=
  let s := s.wr PWR_SVN_MIN_SVN s.fuses.svnMin
  let s := (List.finRange 16).foldl (fun t (p : Fin 16) =>
    if p.val < t.nSheet then (t.wr (SP_MAC_LO_ADDR p) (s.fuses.spMac[p] % 2 ^ 32)).wr (SP_MAC_HI_ADDR p) (s.fuses.spMac[p] / 2 ^ 32) else t) s
  (List.finRange 4).foldl (fun t (p : Fin 4) =>
    (t.wr (INGP_PORT_MAC_LO_ADDR p) (s.fuses.ipMac[p] % 2 ^ 32)).wr (INGP_PORT_MAC_HI_ADDR p) (s.fuses.ipMac[p] / 2 ^ 32)) s

/-- The regions that hold the mailboxes and the event log (R60, R672, log 9). -/
def State.firmwareRegions (s : State) : State :=
  (s.dsmSetRegion 0 0 1 0x003 0x003 true false).dsmSetRegion 1 1 2 0x003 0x002 true false

/-- The boot ROM starts (R650). -/
def State.bootStart (s : State) : State := (s.factoryRegs.firmwareRegions).wr PWR_BOOT_STATUS_STAGE 1

/-- The main die leaves reset where PORST_N is high, the rails are good and no trip holds it (R641, R666, R694). -/
def State.mainRelease (s : State) : State :=
  if s.power.porstHigh && s.power.railsGood && !s.power.tripped && !s.mainUp then
    (({ s with mainUp := true }.setPwr fun p => { p with bootAt := s.now }).setNv fun v => { v with inForce := s.memStored }).setSpares s.fuses.spareMap |>.bootStart
  else s

/-- A reset of the main die by a cause; a die that is in reset already sees the takeover event only. -/
def State.resetEvent (s : State) (cause : Nat) : State := if s.mainUp then s.mainReset cause else s.shroudTakeover cause

/-- PORST_N_ASSERT (R642, R666): the board asserts PORST_N, which also releases THERMTRIP_N, but not where the trip came in the same
cycle (coincidences at the supplies). -/
def execPorstNAssert (s : State) : Host.Outcome State Fault Refusal :=
  if s.power.porstHigh then
    let stands := s.power.tripped && decide (s.power.tripAt = some s.now)
    let s := if s.power.tripped && !stands then s.emit (.thermTrip false) else s
    .next ((s.setPwr fun p => { p with porstHigh := false, porstAt := some s.now, tripped := stands }).resetEvent 1)
  else .next s

/-- PORST_N_RELEASE (R644, R650, R694): GPIO1 and GPIO0 are sampled. -/
def execPorstNRelease (straps : BitVec 2) (s : State) : Host.Outcome State Fault Refusal :=
  .next (if s.power.porstHigh then s
    else ((s.setPwr fun p => { p with porstHigh := true }).wr PWR_STRAPS_VALUE straps.toNat).mainRelease)

/-- MAIN_RAIL_FAULT (R416, R694): a main rail falls below its power-good level. -/
def execMainRailFault (s : State) : Host.Outcome State Fault Refusal :=
  .next ((s.setPwr fun p => { p with railsGood := false }).resetEvent 2)

/-- MAIN_RAIL_GOOD (R694): every main rail has been good for 100 µs. -/
def execMainRailGood (s : State) : Host.Outcome State Fault Refusal :=
  .next ((s.setPwr fun p => { p with railsGood := true }).mainRelease)

/-- RESET_CTRL.MAIN or DEVICE_RESET: the main die is reset, and boots (R642, R669). -/
def State.resetMain (s : State) : State := (s.mainReset 1).mainRelease

/-- DEVICE_RESET (R669). -/
def execDeviceReset (s : State) : Host.Outcome State Fault Refusal :=
  .next (s.serve 0x0A30 fun c s =>
    if leAt c.payload 0 8 = s.fuses.serial then (s.setPwr fun p => { p with resetDue := some (p.resetDue.getD (s.now + 1000000)) }).ok c
    else s.fail c stBAD_PARAM)

/-- DEVICE_RESET_DELAY (R669): 1 ms after DEVICE_RESET. -/
def execDeviceResetDelay (s : State) : Host.Outcome State Fault Refusal :=
  .next (match s.power.resetDue with
  | some t => if s.mainUp ∧ t ≤ s.now then s.resetMain else s
  | none => s)

/-! ### Boot (R649 to R651) -/

/-- Whether a slot holds a valid image (R648). -/
def State.imageValid (s : State) (slot : Nat) : Bool :=
  match s.nv.images[Fin.ofNat 2 slot] with
  | some i => i.authentic && decide (i.written = i.blocks ∧ i.bootSize ≤ 0x40000 ∧ i.imageSize ≤ 0x300000 ∧ s.fuses.svnMin ≤ i.svn)
  | none => false

/-- An image is loaded and its boot stage starts (R650). -/
def State.bootRun (s : State) (slot : Nat) : State :=
  ((s.wr PWR_STATUS_RUNNING_SLOT slot).wr PWR_STATUS_FALLBACK (b2n (slot ≠ s.preferred))).wr PWR_BOOT_STATUS_STAGE 2

/-- The boot ROM ends: the first valid slot, or recovery (R644, R649). -/
def State.bootRom (s : State) : State :=
  let straps := s.rd PWR_STRAPS_VALUE
  let first := if straps.testBit 1 then 1 - s.preferred else s.preferred
  if straps.testBit 0 then s.wr PWR_BOOT_STATUS_STAGE 6
  else if s.imageValid first then s.bootRun first
  else if s.imageValid (1 - first) then (s.bootRun (1 - first)).setPwr fun p => { p with fallback := true }
  else s.wr PWR_BOOT_STATUS_STAGE 6

/-- Densum's zero-fill (R507): memory, the recurrence table and the counters. -/
def State.dsmZeroFill (s : State) : State :=
  let mem := s.mem.filter fun e => !(inDsm e.1 || decide (parityBase ≤ e.1))
  let regs := s.regs.filter fun e => !decide ((0x100010 ≤ e.1 ∧ e.1 < 0x100028) ∨ (0x10002C ≤ e.1 ∧ e.1 < 0x100034) ∨ (0x100800 ≤ e.1 ∧ e.1 < 0x100A00))
  ({ s with mem := mem, regs := regs, dsm := { State.reset.dsm with spares := s.dsm.spares, softMap := s.dsm.softMap } }).wr DSM_STATUS_INIT_DONE 1

/-- The soft repair map is applied after the fuse map (R499). -/
def State.applySoftMap (s : State) : State :=
  let m := s.softMapNow
  (s.setDsm fun d => { d with softMap := m }).wr DSM_SOFT_MAP_COUNT m.length |>.setSpares (s.fuses.spareMap ++ m)

/-- The outcome of Densum's self-test: bank and step of a failure (R506, R508). -/
def State.dsmSelfTest (s : State) (fail : Option (Nat × Nat)) : State :=
  match fail with
  | none => s.wr DSM_STATUS_SELFTEST_PASS 1
  | some (bank, step) =>
    let s := ((s.wr DSM_STATUS_SELFTEST_FAIL 1).wr DSM_SELFTEST_FAIL_BANK bank).wr DSM_SELFTEST_FAIL_STEP step
    ((List.range s.nHeads).foldl (fun t h => t.wr (HEAD_STATUS_DSM_BLOCK h) 1) s).report EV_DSM_SELFTEST (src 2 0) 0

/-- Stage BOOT ends: the repair map, the self-test, then the zero-fill (R499, R505 to R508, R609, R650). -/
def State.bootStage2 (s : State) (fail : Option (Nat × Nat)) : State :=
  let s := ((s.wr TSY_SYS_STATUS_SYS_LOCK 1).wr TSY_SYS_STATUS_DDR_LOCK 1).wr TSY_SYS_STATUS_SERDES_LOCK 1
  ((s.applySoftMap.dsmSelfTest fail).dsmZeroFill).firmwareRegions

/-- Record classes that the flash does not hold (R646). -/
def State.nvAbsent (s : State) : Nat :=
  b2n s.nv.boot.current.isNone + b2n s.nv.config.current.isNone + b2n s.nv.softMap.current.isNone
    + b2n ((List.finRange 4).any fun k => decide (k.val < s.nDdr) && (s.nv.training[k]).current.isNone) + b2n (s.nv.logSlots.filterMap NvCopy.get).isEmpty

/-- The two map areas of a head, in SEALED firmware regions (R329). -/
def State.placeMapAreas (s : State) (h : Nat) : State :=
  match s.dsmNewRegion 4 0x00A 0x002 true false with
  | none => s
  | some a =>
    match a.2.dsmNewRegion 4 0x00A 0x002 true false with
    | none => s
    | some b => b.2.setHd h fun x => { x with mapAreas := some (a.1, b.1) }

/-- Alafer starts on CC0 (R420, R646, R649, R650). -/
def State.firmwareStart (s : State) : State :=
  let s := s.wr GLB_FW_VERSION_VERSION (s.slotVersion (s.rd PWR_STATUS_RUNNING_SLOT))
  let s := (s.setDup fun d => { d with fwUp := true, lastHb := s.now, resume := none, selftestOk := false }).setStandby sbSYNCING
  let n := s.nvAbsent
  let s := (List.range n).foldl (fun t _ => t.report EV_NV_DEFAULT (src 12 0) 0) s
  let s := if n = 0 then s else s.setCause (causePwr 3)
  let s := if s.power.fallback then s.report EV_BOOT_FALLBACK (src 12 0) 0 else s
  let s := (List.range s.nHeads).foldl State.placeMapAreas s
  (s.reportTakeover.retime).wr PWR_BOOT_STATUS_STAGE 3

/-- Bring-up of DDR5 has come to its end: installed, or nothing to install (R515, R519, R530). -/
def State.ddrUp (s : State) : Bool :=
  let busy := fun c => match (s.chan c).phase with | .pmic _ => true | .verify _ => true | .full _ => true | _ => false
  !(List.range s.nDdr).any busy && (s.flag DMC0_INIT_STATUS_DONE || s.flag DMC0_INIT_STATUS_MAP_ERR || decide (s.ddr.set = 0))

/-- The boot is complete (R650). -/
def State.bootReady (s : State) : State :=
  ((s.wr PWR_BOOT_STATUS_BOOT_MS (min 65535 ((s.now - s.power.bootAt) / 1000000))).wr PWR_BOOT_STATUS_STAGE 5).setCause (causePwr 2)

/-- BOOT_STAGE_COMPLETE (R650): the stage that BOOT_STATUS shows ends. Stage BOOT carries the outcome of Densum's self-test. -/
def execBootStageComplete (fail : Option (Nat × Nat)) (s : State) : Host.Outcome State Fault Refusal :=
  let st := s.rd PWR_BOOT_STATUS_STAGE
  .next (if !s.mainUp then s
  else if st = 0 then s.bootStart.bootRom
  else if st = 1 then s.bootRom
  else if st = 2 then (s.bootStage2 fail).firmwareStart
  else if st = 3 then
    let s := if s.standby = sbSYNCING then s.setStandby sbREADY else s
    (s.wr PWR_BOOT_STATUS_STAGE 4).ddrStart
  else if st = 4 ∧ s.ddrUp then s.bootReady
  else s)

/-! ### Images (R648, R658, R659) -/

/-- The image that a buffer holds, where it is valid (R648). -/
def State.imageOf (s : State) (d : List Byte) : Option Image :=
  let boot := leAt d 12 4
  let size := leAt d 16 4
  let hash := beNat (slice d 24 48)
  let key := slice d 72 97
  let svn := leAt d 8 4
  if leAt d 0 4 = 0x41464C52 ∧ boot ≤ 0x40000 ∧ size ≤ 0x300000 ∧ 352 + size ≤ d.length ∧ Config.sha384 key = s.fuses.keyHash ∧
      Config.ecdsaP384 key (slice d 256 96) (slice d 0 256) ∧ Config.sha384 (slice d 352 size) = hash ∧ s.fuses.svnMin ≤ svn then
    some ⟨leAt d 4 4, svn, boot, size, leAt d 20 4, hash, ceilDiv (352 + size) 4096, 0, true⟩
  else none

/-- The response of FW_STAGE. -/
def stageResp (i : Image) (slot : Nat) : List Byte := leBytes 4 i.version ++ leBytes 4 i.svn ++ leBytes 1 slot ++ [0, 0, 0]

/-- The image stands in its slot: it is loaded into the staged code area; in recovery the ROM starts it (R649, R658). -/
def State.stageLoaded (s : State) (slot : Nat) : State :=
  if s.inRecovery then s.bootRun slot else s.setPwr fun p => { p with
    staged := some slot
    stagedIs := match s.nv.images[Fin.ofNat 2 slot] with | some i => (i.version, i.svn) | none => (0, 0) }

/-- The meaning of FW_STAGE, executed by the firmware or by the boot ROM. -/
def State.fwStage (c : FwCmd) (s : State) : State :=
  let buf := leAt c.payload 0 8
  let n := leAt c.payload 8 4
  let slot := 1 - s.rd PWR_STATUS_RUNNING_SLOT
  if n = 0 then s.fail c stBAD_PARAM
  else if !s.bufOk buf n then s.fail c stPROT_BOUND
  else
    let r := s.fwRead buf n
    match r.2.imageOf r.1 with
    | none => r.2.fail c stBAD_PARAM
    | some i =>
      let s := r.2
      if s.power.swap.isSome || s.fw.waiting.any fun w => decide (w.cmd.cmd = 0x0A10) then s.fail c stBUSY
      else
        let i : Image := match s.nv.images[Fin.ofNat 2 slot] with
          | some o => if o.hash = i.hash then { i with written := min o.written i.blocks } else i
          | none => i
        if i.written = i.blocks then
          ((s.setNv fun v => { v with images := v.images.set (Fin.ofNat 2 slot) (some i) }).stageLoaded slot).finish c stOK (stageResp i slot)
        else s.nvCommand c 1 (.imageBlock slot i) (stageResp i slot)

/-- FW_STAGE (R658, R659). In recovery it is the only command executed: the ROM takes the first one that waits, and leaves the
others held (R649). -/
def execFwStage (s : State) : Host.Outcome State Fault Refusal :=
  .next (if s.inRecovery then
      match s.fw.queue.find? fun c => c.cmd = 0x0A10 with
      | none => s
      | some c =>
        let s := { s with fw := { s.fw with queue := s.fw.queue.erase c } }
        let s := s.take c (s.took c)
        if c.len = 16 then s.fwStage c else s.finish c stBAD_LENGTH (zeroResp c.cmd [])
    else s.serve 0x0A10 fun c s => s.fwStage c)

/-! ### FW_SWAP (R660 to R662) -/

/-- The lowest-numbered running head; 4 where none runs. -/
def State.firstRunning (s : State) : Nat := ((List.range 4).find? s.headCounts).getD 4

/-- FW_SWAP. -/
def execFwSwap (s : State) : Host.Outcome State Fault Refusal :=
  .next (s.serve 0x0A11 fun c s =>
    let head := leAt c.payload 0 1
    if head ≠ 0xFF ∧ s.nHeads ≤ head then s.fail c stBAD_PARAM
    else
      let again := match s.power.swap with
        | some x => if x.step = 4 && !s.fw.waiting.any (fun w => decide (w.kind = .swap)) then some x else none
        | none => none
      match again with
      | some x => (s.waitFor c .swap).swapCommit x
      | none =>
        match s.power.staged with
        | none => s.fail c stBUSY
        | some slot =>
          if s.standby ≠ sbREADY ∨ s.power.swap.isSome then s.fail c stBUSY
          else
            let h := if head = 0xFF then s.firstRunning else head
            let x : Swap := ⟨1, h, (leAt c.payload 1 1).testBit 0, s.now, s.rd GLB_FW_VERSION_VERSION, slot, s.power.stagedIs.1, s.power.stagedIs.2, 0, 0⟩
            (((s.setSwap (some x)).setStandby sbSYNCING).setDup fun d => { d with selftestOk := false }).waitFor c .swap)

/-! ### Commits complete (R652, R655, R659, R662) -/

/-- A command that waits for a commit goes on to wait for another one. -/
def State.passTicket (s : State) (old new : Nat) : State :=
  let re := fun (w : Waiting) => match w.kind with
    | .nv t r => if t = old then { w with kind := .nv new r } else w
    | _ => w
  { s with fw := { s.fw with waiting := s.fw.waiting.map re } }

/-- The commands that wait for a commit complete with OK. -/
def State.nvWake (s : State) (ticket : Nat) : State :=
  s.wake fun w => match w.kind with | .nv t r => if t = ticket then some (stOK, r) else none | _ => none

/-- A block of an image has been written: the next one follows, or the image is loaded. -/
def State.blockWritten (s : State) (c : Commit) (slot : Nat) (i : Image) : State :=
  let i := { i with written := min (i.written + 1) i.blocks }
  let s := s.setNv fun v => { v with images := v.images.set (Fin.ofNat 2 slot) (some i) }
  if i.written < i.blocks then
    let r := s.nvEnqueue 1 (.imageBlock slot i) false
    r.2.passTicket c.ticket r.1
  else (s.nvWake c.ticket).stageLoaded slot

/-- What a commit has written takes effect. -/
def State.nvApply (s : State) (c : Commit) : State :=
  match c.what with
  | .imageBlock slot i => s.blockWritten c slot i
  | .boot slot =>
    let s := (s.setNv fun v => { v with boot := v.boot.write slot }).wr PWR_STATUS_FALLBACK (b2n (s.rd PWR_STATUS_RUNNING_SLOT ≠ slot))
    match (if c.own then none else s.power.swap) with
    | some x => if x.raiseSvn then s else s.swapDone false
    | none => s
  | .svnMin v =>
    let s := { s with fuses := { s.fuses with svnMin := max s.fuses.svnMin v } }
    let s := s.wr PWR_SVN_MIN_SVN s.fuses.svnMin
    if c.own then s else s.swapDone false
  | .softAdd u =>
    let m := s.softMapNow ++ [u]
    ((s.setNv fun v => { v with softMap := v.softMap.write m }).setDsm fun d => { d with softMap := m }).wr DSM_SOFT_MAP_COUNT m.length
      |>.nvWake c.ticket
  | .training ch r =>
    (s.setNv fun v => { v with training := v.training.set (Fin.ofNat 4 ch) ((v.training[Fin.ofNat 4 ch]).write r) }).resilverStart ch
  | .config m => (s.setNv fun v => { v with config := v.config.write m }).nvWake c.ticket
  | .log es => (s.logWritten es).nvWake c.ticket

/-- NV_COMMIT_DONE (R655): the commit in progress completes. -/
def execNvCommitDone (s : State) : Host.Outcome State Fault Refusal :=
  .next (match (if s.mainUp then s.nv.busy else none) with
  | none => s
  | some c =>
    let s := (((s.setNv fun v => { v with busy := none }).wr PWR_STATUS_COMMIT_BUSY 0).count PWR_COMMITS_COUNT 1)
    s.nvApply c)

/-! ### Power and temperature (R664 to R668) -/

/-- HOLDUP_SET (R667). -/
def execHoldupSet (adc : Adc) (s : State) : Host.Outcome State Fault Refusal :=
  .next (s.serve 0x0A01 fun c s =>
    let d := c.payload
    let mf := leAt d 0 2
    let ratio := leAt d 4 2
    let margin := leAt d 6 1
    let p := leAt d 8 2
    if mf = 0 ∨ ratio = 0 ∨ margin < 16 ∨ 64 < margin ∨ p < 1 ∨ 1000 < p then s.fail c stBAD_PARAM
    else
      let s := ((s.wr PWR_HOLDUP_C_MF mf).wr PWR_HOLDUP_VMIN_MV (leAt d 2 2)).wr PWR_HOLDUP_RATIO_RATIO ratio
      let s := ((s.wr PWR_HOLDUP_MARGIN_MARGIN margin).wr PWR_HOLDUP_P_W p).holdupMeasure adc
      s.finish c stOK (leBytes 4 (s.holdupV (adcLow adc) / 2 ^ 20) ++ leBytes 4 (s.rd PWR_HOLDUP_MJ_MJ)))

/-- THERMAL_SET (R668). -/
def execThermalSet (s : State) : Host.Outcome State Fault Refusal :=
  .next (s.serve 0x0A20 fun c s =>
    let w := leAt c.payload 0 2
    if 480 < w then s.fail c stBAD_PARAM else (s.wr PWR_THERM_WARN w).ok c)

/-- Whether a sensor's reading can trip: the main die has its rails, and THERMTRIP_N is not asserted yet (R666). -/
def State.canTrip (s : State) : Bool := s.power.railsGood && !s.power.tripped

/-- A thermal trip: the main die is held in reset until PORST_N is next asserted (R666). -/
def State.trip (s : State) : State :=
  ((s.setPwr fun p => { p with tripped := true, tripAt := some s.now }).emit (.thermTrip true)).resetEvent 4

/-- THERMAL_TRIP (R666): a sensor reads 125 °C or above; also in the cycle in which PORST_N falls, where the trip stands. -/
def execThermalTrip (s : State) : Host.Outcome State Fault Refusal :=
  .next (if s.canTrip then s.trip else s)

/-- The warning of R665 follows TEMP. -/
def State.thermWarn (s : State) : State :=
  let t := sext 11 (s.rd PWR_TEMP_QC)
  let w : Int := s.rd PWR_THERM_WARN
  if !s.flag PWR_STATUS_THERM_WARN && decide (w ≤ t) then
    ((s.wr PWR_STATUS_THERM_WARN 1).setCause (causePwr 8)).report EV_THERMAL_WARN (src 12 0) 0
  else if s.flag PWR_STATUS_THERM_WARN && decide (t < w - 20) then (s.wr PWR_STATUS_THERM_WARN 0).setCause (causePwr 9)
  else s

/-- TEMP_SAMPLE (R664 to R666): the highest of the eight sensors, every 1 ms, in 0.25 °C. -/
def execTempSample (q : BitVec 11) (s : State) : Host.Outcome State Fault Refusal :=
  let top := if s.power.tempSeen then max (sext 11 (s.rd PWR_TEMP_MAX_QC)) q.toInt else q.toInt
  let t := if s.mainUp then
      ((((s.wr PWR_TEMP_QC q.toNat).wr PWR_TEMP_MAX_QC (wrap 11 top)).setPwr fun p => { p with tempSeen := true })).thermWarn
    else s
  .next (if 500 ≤ q.toInt ∧ s.canTrip then t.trip else t)

end Sys2Proof.Machine
end

