-- ==== Sys2Proof/Machine/RegAccess.lean ====
section
/-! DEFINITION. Register accesses (R13, R34, R48 to R57, R718, R712 to R714): access types, the Quoin, what reads derive, what writes do
beside setting their fields. -/

namespace Sys2Proof.Machine

/-! ### What is absent (R2, R714) -/

/-- Whether a register's page or block is absent on this part. -/
def State.absent (s : State) (a : RegAt) : Bool :=
  if a.base = 0x20000 then decide (s.nHeads ≤ a.inst)
  else if a.base = 0x80000 then decide (s.nVideo ≤ a.inst)
  else if a.base = 0xC0000 then decide (s.nGraphic ≤ a.inst)
  else if a.base = 0x110000 then decide (s.nDdr ≤ a.inst)
  else if a.base = 0x140000 then decide (s.nSheet ≤ a.inst)
  else if a.base = 0x170100 then decide (s.nHeads ≤ a.inst)
  else false

/-! ### Reads (R13, R49, R92, R245, R468, R627) -/

/-- Word j of a GLB.IRQ_STATUS register (R92). -/
def State.irqWord (s : State) (lo : Nat) : Nat :=
  (List.range 32).foldl (fun a i => if s.irq (lo + i) then a + 2 ^ i else a) 0

/-- GLB.FEATURES. -/
def State.features (s : State) : Nat :=
  s.nHeads + s.nVideo * 2 ^ 3 + s.nGraphic * 2 ^ 8 + s.nSheet * 2 ^ 14 + s.nDdr * 2 ^ 19

/-- HEADn.POSITION: the current line window and the pair cycle within it. -/
def State.position (s : State) (h : Nat) : Nat :=
  let x := s.hd h
  if x.gen then
    let pair := (s.now - x.winAt) * x.tim.num * x.tim.hTotal * x.tim.vTotal / (2 * max 1 x.tim.den * 1000000000)
    x.line + min pair (x.tim.hTotal / 2 - 1) * 2 ^ 16
  else x.line

/-- The words that a read of a register captures for reads that follow: offset and word (R245, R468, R627). -/
def State.captures (s : State) (off : Nat) (a : RegAt) : List (Nat × Nat) :=
  if a.base = 0x20000 then (if a.rel = 0x50 then [(off + 4, (s.hd a.inst).lastCounted / 2 ^ 32)] else [])
  else if a.base = 0x170000 then
    (if a.rel = 0x610 then [(0x170608, s.timeSec % 2 ^ 32), (0x17060C, s.timeSec / 2 ^ 32)] else [])
  else
    let lo := (decide (a.base = 0x160800) && (decide (a.rel = 0x700) || (decide (0x600 ≤ a.rel ∧ a.rel < 0x700) && decide (a.rel % 0x20 = 4 ∨ a.rel % 0x20 = 0x10))))
      || (decide (a.base = 0x161800 ∧ a.rel = 0x14)) || decide (a.base = 0x140000 ∧ a.rel = 0x70) || decide (a.base = 0x120000 ∧ a.rel % 0x80 = 0x34 ∧ a.rel < 0x800)
    if lo then [(off + 4, (s.reg (off + 4)).toNat)] else []

/-- Whether a register reads as the word captured last. -/
def isCaptured (a : RegAt) : Bool :=
  (decide (a.base = 0x20000 ∧ a.rel = 0x54)) || decide (a.base = 0x170000 ∧ (a.rel = 0x608 ∨ a.rel = 0x60C)) ||
    (decide (a.base = 0x160800) && (decide (a.rel = 0x704) || (decide (0x600 ≤ a.rel ∧ a.rel < 0x700) && decide (a.rel % 0x20 = 8 ∨ a.rel % 0x20 = 0x14)))) ||
    decide (a.base = 0x161800 ∧ a.rel = 0x18) || decide (a.base = 0x140000 ∧ a.rel = 0x74) || decide (a.base = 0x120000 ∧ a.rel = 0x38)

/-- The LUT of a window word, where the offset lies in one: 0 to 15 pre-blend, 16 to 19 post-blend (R208). -/
def lutOf (a : RegAt) : Option Nat :=
  if a.base = 0x20000 ∧ 0x4000 ≤ a.rel then some (16 + a.inst)
  else if a.base = 0x80000 ∧ 0x2000 ≤ a.rel then some a.inst
  else none

/-- Whether a window word is the last of its curve, whose upper half is reserved (R209). -/
def lutLast (a : RegAt) : Bool :=
  match lutOf a with
  | some t => if t < 16 then decide ((a.rel - 0x2000) % 0xA00 = 0x800) else decide ((a.rel - 0x4000) % 0x3000 = 0x2000)
  | none => false

/-- The real-time port whose HIGH mark a register holds (R566). -/
def panicPort (a : RegAt) : Option Nat :=
  if a.base = 0x110000 ∧ a.inst = 0 ∧ 0x384 ≤ a.rel ∧ a.rel < 0x3CC ∧ a.rel % 8 = 4 then some ((a.rel - 0x384) / 8) else none

/-- What a register shows to a read. -/
def State.readWord (s : State) (off : Nat) (a : RegAt) : Nat :=
  let w := (s.reg off).toNat
  if isCaptured a then (Sparse.get (fun _ => (0 : Word)) s.capture off).toNat
  else if a.base = 0 then
    (if a.rel = 0 then s.deviceId else if a.rel = 4 then s.features else if a.rel = 0x40 then s.irqWord 0
      else if a.rel = 0x44 then s.irqWord 32 else w)
  else if a.base = 0x20000 then
    (if a.rel = 0x50 then (s.hd a.inst).lastCounted % 2 ^ 32 else if a.rel = 0x58 then s.position a.inst
      else if a.rel = 0x40C then (if s.flag (HEAD_STATUS_EXPERT a.inst) then 0 else (s.hd a.inst).admLive)
      else if lutLast a then w % 65536 else w)
  else if a.base = 0x80000 then (if lutLast a then w % 65536 else w)
  else if a.base = 0x100000 then (if a.rel = 0x28 then s.dirtyPages else w)
  else if a.base = 0x110000 then
    (if a.rel = 0x40 then (s.chan a.inst).rdQ.length + (s.chan a.inst).wrQ.length * 2 ^ 16
      else match panicPort a with | some p => s.panicHigh p | none => w)
  else if a.base = 0x140000 then (if a.rel = 4 ∧ a.inst % 2 = 1 then 0 else w)
  else if a.base = 0x170100 then
    (if a.rel = 0x20 then wrap 32 (s.steerNow a.inst + s.rampOffset a.inst / 16) else w)
  else if a.base = 0x170000 then (if a.rel = 0x610 then s.timeNs else w)
  else if a.base = 0x180000 then (if a.rel = 0xC then s.log.entries.length else w)
  else w

/-- Clear the RC fields of a word. -/
def clearRc (fs : List FldRow) (w : Word) : Word :=
  fs.foldl (fun w f => if f.acc = .rc then Fld.put ⟨0, f.lsb, f.width⟩ w 0 else w) w

/-- A read keeps the words of the same time for the next read. -/
def State.readCaptures (s : State) (off : Nat) (a : RegAt) : State :=
  (s.captures off a).foldl (fun t x => { t with capture := Sparse.put (fun _ => (0 : Word)) t.capture x.1 (BitVec.ofNat 32 x.2) }) s

/-- A read clears the RC fields of a register (R49). -/
def State.readClears (s : State) (off : Nat) (a : RegAt) : State :=
  if a.row.fields.any fun f => f.acc = .rc then s.setReg off (clearRc a.row.fields (s.reg off)) else s

/-- A read of CE_DEVd lets its position be reported again (R551); TEMP_MAX starts anew at a read (R664). -/
def State.readRestarts (s : State) (off : Nat) (a : RegAt) : State :=
  if a.base = 0x110000 ∧ 0x120 ≤ a.rel ∧ a.rel < 0x170 then
    s.setChan a.inst fun x => { x with weak := x.weak.filter fun d => d ≠ (a.rel - 0x120) / 4 }
  else if off = PWR_TEMP_MAX_QC.off then { s with power := { s.power with tempSeen := false } }
  else s

/-- A read of the register at an offset (R49): its word, and the machine after it. -/
def State.regRead (s : State) (off : Nat) : Word × State :=
  let off := off / 4 * 4
  match regAt off with
  | none => if off = 0 then (BitVec.ofNat 32 s.deviceId, s) else (0, s)
  | some a =>
    if s.absent a then (0, s)
    else
      -- a unit's read of a LUT window waits behind the accesses that the synchronisation holds (R208)
      let w := ((lutOf a).bind fun t => (s.luts[Fin.ofNat 20 t]).held.reverse.findSome? fun x => match x with
        | .write o v _ => if o = off then some v else none
        | _ => none).getD (BitVec.ofNat 32 (s.readWord off a))
      (w, ((s.readCaptures off a).readClears off a).readRestarts off a)

/-! ### Writes -/

/-- The word after the writable fields of a register have taken a value (R13); key-guarded fields only with the arm. -/
def mergeWord (fs : List FldRow) (armed : Bool) (old val : Word) : Word :=
  fs.foldl (fun w f =>
    let g : Fld := ⟨0, f.lsb, f.width⟩
    match f.acc with
    | .rw => g.put w (g.get val)
    | .kg => if armed then g.put w (g.get val) else w
    | .w1c => w &&& ~~~ (val &&& g.mask)
    | .wm => g.put w (((g.get w) &&& (0xFFFF ^^^ (val.toNat / 65536))) ||| (val.toNat % 65536 &&& val.toNat / 65536))
    | _ => w) old

/-- The ones that a write puts on W1C fields. -/
def onesOf (fs : List FldRow) (val : Word) : Word :=
  fs.foldl (fun w f => if f.acc = .w1c then w ||| (val &&& Fld.mask ⟨0, f.lsb, f.width⟩) else w) 0

/-- Set the fields of a register; causes and enables send messages as R93 states. -/
def State.writeFields (s : State) (off : Nat) (a : RegAt) (armed : Bool) (val : Word) : State :=
  if (vecsOf off).isEmpty then s.setReg off (mergeWord a.row.fields armed (s.reg off) val)
  else if a.row.fields.all fun f => f.acc = .w1c then s.clearCauses off (onesOf a.row.fields val)
  else s.setIrqReg off (mergeWord a.row.fields armed (s.reg off) val)

/-- Bit number of a requester's arm in GLB.QUOIN.ARMED. -/
def armBit : Requester → Nat
  | .host => 0 | .cc0 => 1 | .cc1 => 2 | .dma => 3

/-- Whether a requester's Quoin is armed. -/
def State.armed (s : State) (r : Requester) : Bool := (s.rd GLB_QUOIN_ARMED).testBit (armBit r)

/-- Set or clear a requester's arm. -/
def State.setArm (s : State) (r : Requester) (on : Bool) : State :=
  let b := 2 ^ armBit r
  let v := s.rd GLB_QUOIN_ARMED
  s.wr GLB_QUOIN_ARMED (if on then v ||| b else v &&& (15 ^^^ b))

/-- Whether ranges of offsets hold one. -/
def inRanges (rs : List (Nat × Nat)) (rel : Nat) : Bool := rs.any fun r => decide (r.1 ≤ rel ∧ rel < r.2)

/-- Whether a row has a field that a host write acts on. -/
def rowWritable (r : RegRow) : Bool := r.fields.any fun f => !(f.acc == .ro || f.acc == .rc)

/-- Whether a layer stands in a head's live Forme or in its shadow Forme registers (R34). -/
def State.standsIn (s : State) (h l : Nat) : Bool :=
  s.inLive h l || (List.range (min 24 (s.rd (HEAD_FORME_CTRL_ENTRIES h)))).any fun k => decide (s.rd (HEAD_FE_LAYER_LAYER h k) = l)

/-- The heads whose EXPERT a host write sets (R34, R279, R333, R637). -/
def State.expertHeads (s : State) (a : RegAt) : List Nat :=
  if !rowWritable a.row then []
  else if a.base = 0x20000 then
    (if decide (a.rel = 0 ∨ a.rel = 8) || inRanges ((0x10, 0x24) :: headShadow) a.rel then [a.inst] else [])
  else if a.base = 0x170100 then [a.inst]
  else if a.base = 0x80000 ∨ a.base = 0xC0000 then
    let l := if a.base = 0x80000 then a.inst else 16 + a.inst
    if inRanges (layerShadow l) a.rel then (List.range s.nHeads).filter fun h => s.standsIn h l else []
  else []

/-- Hold an access to the window of LUT `t` (R208). -/
def State.lutHold (s : State) (t : Nat) (x : LutAccess) : State :=
  let l := s.luts[Fin.ofNat 20 t]
  { s with luts := s.luts.set (Fin.ofNat 20 t) { l with held := l.held ++ [x] } }

/-- The LUT whose window holds a register and whose second copy is being brought up to date (R208). -/
def State.lutBusy (s : State) (off : Nat) : Option Nat :=
  match regAt (off / 4 * 4) with
  | some a => if s.absent a then none else (lutOf a).filter fun t => (s.luts[Fin.ofNat 20 t]).until_.isSome
  | none => none

/-- A write to a LUT window: two entries, of which the last word of a curve holds one (R209); held while SYNC is 1 (R208). -/
def State.lutWrite (s : State) (t off : Nat) (a : RegAt) (val : Word) : State :=
  let w := if lutLast a then val &&& 0xFFFF else val
  if (s.luts[Fin.ofNat 20 t]).until_.isSome then s.lutHold t (.write off w false) else s.lutStore off w false

/-- What a write to a HEADn page does. -/
def State.headEffect (s : State) (off : Nat) (a : RegAt) (val : Word) : State :=
  let v := val.toNat
  let h := a.inst
  if a.rel = 0 then s.headCtrlWrite h (v.testBit 0) (v.testBit 1) (v.testBit 2) (v.testBit 3)
  else if a.rel = 8 then s.commitWrite h (v % 2) (bits v 7 4)
  else if a.rel = 0x8C then (if v.testBit 0 then s.statsClr h else s)
  else if a.rel = 0x3C ∨ a.rel = 0x40 then
    (s.writeFields off a false val).setHd h fun x => { x with frame0New := true, frame0Auto := false }
  else match lutOf a with
    | some t => s.lutWrite t off a val
    | none => s.writeFields off a false val

/-- The pages of a region that becomes SEALED are dirty from now on (R486, log 3). -/
def State.dirtyRegion (s : State) (k : Nat) : State :=
  let r := s.regionSpan k
  s.setDsm fun d => { d with
    pages := d.pages.filter fun e => !decide (r.1 ≤ e.1 * 4096 ∧ e.1 * 4096 < r.2)
    since := d.since.set (Fin.ofNat 64 k) s.now }

/-- The pages that a SEALED region takes in as it moves or grows are dirty from now on (R483, log 3). -/
def State.dirtyMoved (s : State) (k : Nat) (old : Nat × Nat) : State :=
  let r := s.regionSpan k
  let fresh := ((List.range ((r.2 - r.1) / 4096)).map fun i => r.1 / 4096 + i).filter fun p => !decide (old.1 ≤ p * 4096 ∧ p * 4096 < old.2)
  s.setDsm fun d => { d with pages := fresh.map (fun p => (p, ⟨false, s.now, false⟩)) ++ d.pages.filter fun e => !fresh.contains e.1 }

/-- A write to the registers of a Densum region (R473, R475, R486). -/
def State.regionEffect (s : State) (off : Nat) (a : RegAt) (req : Requester) (val : Word) : State :=
  let k := (a.rel - 0x400) / 16
  let fw := decide (req = .cc0 ∨ req = .cc1)
  if s.flag (DSM_REG_CTRL_EN k) && !s.flag (DSM_REG_CTRL_OWNER k) && !fw then s.count DSM_REGION_MISS_COUNT 1
  else if k = 63 then s
  else
    let t := s.writeFields off a false val
    let holds := fun (u : State) => u.flag (DSM_REG_CTRL_EN k) && u.flag (DSM_REG_CTRL_CLASS k)
    let t := if s.flag (DSM_REG_CTRL_EN k) then
        t.uncover (s.regionSpan k) (if t.flag (DSM_REG_CTRL_EN k) then t.regionSpan k else (0, 0)) else t
    if !holds t then t
    else if holds s then t.dirtyMoved k (s.regionSpan k)
    else t.dirtyRegion k

/-- A write of RECUR_CLR (R493). -/
def State.recurClr (s : State) (v : Nat) : State :=
  if v.testBit 8 then (List.range 64).foldl State.recurClear s else s.recurClear (v % 64)

/-- What a write to the DSM page does. -/
def State.dsmEffect (s : State) (off : Nat) (a : RegAt) (req : Requester) (val : Word) (armed : Bool) : State :=
  if a.rel = 4 then (if armed && val.toNat.testBit 0 then s.dsmOverride else s)
  else if a.rel = 0x34 then s.recurClr val.toNat
  else if 0x400 ≤ a.rel ∧ a.rel < 0x800 then s.regionEffect off a req val
  else s.writeFields off a armed val

/-- What a write to a DMCn page does. -/
def State.dmcEffect (s : State) (off : Nat) (a : RegAt) (val : Word) (armed : Bool) : State :=
  let go := val.toNat.testBit 0
  if a.rel = 0xC then (if armed then s.slotPower a.inst go else s)
  else if a.rel = 0x200 then (let t := s.writeFields off a false val; if go then t.trainGo a.inst else t)
  else if a.rel = 0x360 then (let t := s.writeFields off a false val; if go then t.initStart else t)
  else if (panicPort a).isSome then
    let t := s.writeFields off a false val
    { t with ddr := { t.ddr with highMark := t.ddr.highMark.set (Fin.ofNat 9 ((panicPort a).getD 0)) none } : State }.panicUpdate
  else s.writeFields off a armed val

/-- What a write to the DMA page does. -/
def State.dmaEffect (s : State) (off : Nat) (a : RegAt) (val : Word) : State :=
  let v := val.toNat
  let c := a.inst
  if a.rel = 0x804 then s.dmaSwreq v
  else if a.rel = 0x808 then (List.range 16).foldl (fun t k => if v.testBit k then t.dmaRing k else t) s
  else if a.rel = 0 then
    (((s.wr (DMACH_CH_CTRL_PRIO c) (bits v 5 4)).dmaEnable c (v.testBit 0))).dmaCommand c (v.testBit 1) (v.testBit 2)
  else if a.rel = 0x14 then s.dmaHead c (v % 4096)
  else s.writeFields off a false val

/-- What a write to the BLT page does. -/
def State.bltEffect (s : State) (off : Nat) (a : RegAt) (val : Word) : State :=
  let v := val.toNat
  if a.rel = 0 then (let t := s.bltEnable (v.testBit 0); if v.testBit 1 then t.bltAbort else t)
  else if a.rel = 0x14 then s.bltHead (v % 1024)
  else if a.rel = 0x18 then (if v.testBit 0 then s.bltRing else s)
  else s.writeFields off a false val

/-- A write to a stream register (R376). While S_CTRL.EN is 1, only S_CTRL, S_POLICE, S_BURST and S_LOSS take a write. -/
def State.streamEffect (s : State) (off : Nat) (a : RegAt) (val : Word) : State :=
  let k := a.inst
  let open_ := decide (off = (INGS_S_CTRL_FLAGS k).off ∨ off = (INGS_S_POLICE_RATE k).off ∨ off = (INGS_S_BURST_BURST k).off ∨ off = (INGS_S_LOSS_MS k).off)
  if s.sFlag k 0 && !open_ then s
  else if off = (INGS_S_CTRL_FLAGS k).off then
    let on := val.toNat.testBit 0
    let was := s.sFlag k 0
    let t := if was && !on then s.streamEnable k false else s
    let t := t.writeFields off a false val
    if !was && on then (t.writeFields off a false (val &&& 0xFFFFFFFE)).streamEnable k true |>.writeFields off a false val else t
  else
    let t := (if off = (INGS_S_POLICE_RATE k).off ∨ off = (INGS_S_BURST_BURST k).off then s.settleBucket k else s).writeFields off a false val
    if off = (INGS_S_FMT_SAMPLING k).off ∨ off = (INGS_S_GEOM_W k).off then t.storeFields k else t

/-- What a write to a port block of the HLY page does (R443, R447, R449). -/
def State.hlyPortEffect (s : State) (off : Nat) (a : RegAt) (val : Word) : State :=
  let p := a.inst
  if 0x40 ≤ a.rel ∧ a.rel < 0x78 then
    let q := (a.rel - 0x40) / 8
    let t := s.writeFields off a false val
    if h : q < 7 then
      t.setRport p fun x => { x with shapers := x.shapers.set q ⟨bucketSize (t.rd (HLYQ_SHAPE_BURST_BURST p q)), t.now⟩ }
    else t
  else if a.rel = 0x100 then
    let t := if val.toNat.testBit 1 then s.gateInstall p else s
    if val.toNat.testBit 0 then (t.wr (HLYQ_GATE_CTRL_EN p) 1).wr (HLYQ_GATE_STATUS_RUNNING p) (b2n (t.rport p).oper.isSome)
    else t.gateOff p
  else s.writeFields off a false val

/-- What a write to a policer does: its bucket is full afterwards (R455). -/
def State.polEffect (s : State) (off : Nat) (a : RegAt) (val : Word) : State :=
  let i := a.inst
  let t := s.writeFields off a false val
  if a.rel < 0xC then
    t.setRing fun r => { r with policers := r.policers.set (Fin.ofNat 64 i) ⟨bucketSize (t.rd (POL_BURST_BURST i)), t.now⟩ }
  else t

/-- What a write to a head PLL does (R614 to R617, R621). -/
def State.hpllEffect (s : State) (off : Nat) (a : RegAt) (val : Word) : State :=
  let n := a.inst
  let v := val.toNat
  if a.rel = 0 then
    let t := (s.wr (HPLL_CTRL_MODE n) (bits v 1 1)).wr (HPLL_CTRL_SYNC_ARM n) (bits v 2 2)
    let t := t.pllPower n (v.testBit 0)
    if v.testBit 0 then t else t.headUnlock n
  else if a.rel = 4 ∨ a.rel = 8 then ((s.writeFields off a false val).pllRelock n).headUnlock n
  else if a.rel = 0x24 then (let t := s.writeFields off a false val; if v.testBit 0 then t.pllRamp n else t)
  else s.writeFields off a false val

/-- What a write to the rest of the TSY page does. -/
def State.tsyEffect (s : State) (off : Nat) (a : RegAt) (val : Word) (armed : Bool) : State :=
  let v := val.toNat
  if a.rel = 0x600 then (s.writeFields off a false val).retime
  else if a.rel = 0x62C then (let t := s.writeFields off a armed val; if armed && v.testBit 0 then t.setGo else t)
  else if a.rel = 0x700 then s.genlockWrite (v % 2) (bits v 1 1)
  else if a.rel = 0x740 ∧ s.part ≠ .sgn7240 then s.writeFields off a false (val &&& 0xFFFFFF0F)
  else s.writeFields off a armed val

/-- A write of SHD.CTRL with the Quoin open (R413, R417). -/
def State.shdCtrl (s : State) (v : Nat) : State :=
  let t := (s.wr SHD_CTRL_BYPASS (bits v 1 1)).bypassUpdate
  if v.testBit 0 then t.shroudTakeover 5 else t

/-- A write of GLB.CORE_CTRL with the Quoin open (R101, R103). -/
def State.coreCtrl (s : State) (v : Nat) : State :=
  let t := if v.testBit 0 then s.reqSwitch else s
  if v.testBit 1 then t.reqRestart else t

/-- What a write to the pages of the ring, the clocks, the event log, PWR, SHD and GLB does, and to every other. -/
def State.miscEffect (s : State) (off : Nat) (a : RegAt) (val : Word) (armed : Bool) : State :=
  let v := val.toNat
  if a.base = 0x160000 ∧ a.rel = 0x18 then (s.writeFields off a false val).horizonFlags
  else if a.base = 0x160000 ∧ a.rel = 0x24 then (s.writeFields off a false val).elect
  else if a.base = 0x150000 ∧ a.rel = 0 then (s.writeFields off a false val).portSet s a.inst
  else if a.base = 0x170100 then s.hpllEffect off a val
  else if a.base = 0x170000 then s.tsyEffect off a val armed
  else if a.base = 0x180000 ∧ a.rel = 8 then s.ackLog v
  else if a.base = 0x180000 ∧ a.rel = 0x48 then s.fecClear v
  else if a.base = 0x190000 ∧ a.rel = 0x10 then (if armed && v.testBit 0 then s.resetMain else s)
  else if a.base = 0x1A0000 ∧ a.rel = 4 then
    (if armed then s.shdCtrl v else s)
  else if a.base = 0 ∧ a.rel = 0x34 then
    (if armed then s.coreCtrl v else s)
  else s.writeFields off a armed val

/-- A write of SPn.CTRL: a change of RATE or FEC restarts the link (R331). -/
def State.sheetCtrl (s : State) (off : Nat) (a : RegAt) (val : Word) : State :=
  let p := a.inst
  let restart := decide (bits val.toNat (SP_CTRL_RATE p).lsb (SP_CTRL_RATE p).lsb ≠ s.rd (SP_CTRL_RATE p) ∨
    bits val.toNat (SP_CTRL_FEC p).lsb (SP_CTRL_FEC p).lsb ≠ s.rd (SP_CTRL_FEC p))
  (if restart then s.sheetDown p else s).writeFields off a false val

/-- The head whose latch takes the shadow state that a register holds. -/
def State.latchHeadOf (s : State) (a : RegAt) : Option Nat :=
  if a.base = 0x20000 then (if a.rel = 8 then none else some a.inst)
  else if a.base = 0x80000 then some (s.rd (LAY_ROUTE_HEAD a.inst))
  else if a.base = 0xC0000 then some (s.rd (LAY_ROUTE_HEAD (16 + a.inst)))
  else none

/-- Before a write reaches a head's or a layer's page, a latch whose time has come takes the state before it (R180, R236); the write
then belongs to the shadow state that the next latch takes. -/
def State.beforeWrite (s : State) (off : Nat) (a : RegAt) (val : Word) : State :=
  match s.latchHeadOf a with
  | some h =>
    -- a write of ROUTE may bring the layer to a head whose latch is due as well
    let route := decide ((a.base = 0x80000 ∨ a.base = 0xC0000) ∧ a.rel = 4)
    let t := if route then s.preLatch (val.toNat % 4) else s
    let t := (t.preLatch h).serveQueued
    { t with back := t.back.filter fun e => decide (e.1 ≠ off) }
  | none => s

/-- Before an access reaches a LUT window, the latch of its head whose time has come is performed, which starts the synchronisation (R208). -/
def State.lutReach (s : State) (off : Nat) : State :=
  match regAt (off / 4 * 4) with
  | some a => match (if s.absent a then none else lutOf a), s.latchHeadOf a with
    | some _, some h => if (s.hd h).latchDue then (s.preLatch h).serveQueued else s
    | _, _ => s
  | none => s

/-- A write to a Sheet port's register: CTRL, PAIR, LOOP, or another (R318, R322). -/
def State.sheetEffect (s : State) (off : Nat) (a : RegAt) (val : Word) (armed : Bool) : State :=
  if a.rel = 0 then s.sheetCtrl off a val
  else if a.rel = 4 then (if a.inst % 2 = 0 then s.setPairMode (a.inst / 2) (val.toNat % 4) else s)
  else if a.rel = 0x20 then (s.writeFields off a false val).probesOff a.inst
  else s.miscEffect off a val armed

/-- What an accepted write does to the register at an offset. -/
def State.regEffect (s : State) (off : Nat) (a : RegAt) (req : Requester) (val : Word) (armed : Bool) : State :=
  let s := s.beforeWrite off a val
  if a.base = 0x20000 then s.headEffect off a val
  else if a.base = 0x80000 then (match lutOf a with | some t => s.lutWrite t off a val | none => s.writeFields off a false val)
  else if a.base = 0x100000 then s.dsmEffect off a req val armed
  else if a.base = 0x110000 then s.dmcEffect off a val armed
  else if a.base = 0x120000 then s.dmaEffect off a val
  else if a.base = 0x130000 then s.bltEffect off a val
  else if a.base = 0x140000 then s.sheetEffect off a val armed
  else if a.base = 0x151000 then s.streamEffect off a val
  else if a.base = 0x160800 then s.hlyPortEffect off a val
  else if a.base = 0x161800 then s.polEffect off a val
  else s.miscEffect off a val armed

/-- Island and requester bit of a register writer (R672, R718). -/
def reqIsland : Requester → Nat × Nat
  | .host => (0, 0) | .cc0 => (1, 1) | .cc1 => (1, 1) | .dma => (9, 8)

/-- A core that is held in reset writes nothing (R98). -/
def State.heldCore (s : State) (r : Requester) : Bool :=
  match r with
  | .cc0 => s.coreHeld 0
  | .cc1 => s.coreHeld 1
  | _ => false

/-- A register write whose data carry poison is ignored (R718). -/
def State.poisonWrite (s : State) (off : Nat) (r : Requester) : State :=
  (s.count GLB_ACCESS_ERR_POISON_WRITES 1).report EV_WINDOW_ERR (src (reqIsland r).1 0) (detailAddr (aliasBase + off) (reqIsland r).2 0)

/-- What every accepted write to a register does before the register's own effect: a host's write marks the heads it takes out of
the firmware's hands (R34) and keeps the register as the host's where the firmware would rewrite it of its own accord (R33), an unarmed write to a key-guarded register is counted (R57). -/
def State.arrive (s : State) (off : Nat) (a : RegAt) (w : RegWrite) (armed : Bool) : State :=
  let s := if w.req = .host then (s.expertHeads a).foldl (fun t h => t.wr (HEAD_STATUS_EXPERT h) 1) s else s
  let s := if w.req = .host then s.hostTakes off else s
  if !armed && a.row.fields.any (fun f => f.acc = .kg) then s.count GLB_QUOIN_MISS_COUNT 1 else s

/-- A register write with all byte enables set to an offset other than GLB.QUOIN, by a requester whose arm has been taken. One whose
data carry poison is counted in ACCESS_ERR.POISON_WRITES only, also where it is an unarmed write to a key-guarded register (log 56,
DESIGN CHOICE). -/
def State.regStore (s : State) (off : Nat) (w : RegWrite) (armed : Bool) : State :=
  if w.poison then s.poisonWrite off w.req
  else match regAt off with
    | none => s
    | some a =>
      if s.absent a then s
      else (s.arrive off a w armed).regEffect off a w.req w.val armed

/-- A write to GLB.QUOIN (R53, R55). -/
def State.quoinWrite (s : State) (w : RegWrite) : State :=
  if w.poison then s.poisonWrite 0x10 w.req else s.setArm w.req (decide (w.val.toNat % 65536 = 0x7E3A))

/-- A register write as it reaches register space (R50, R52 to R57, R98, R718). -/
def State.regWrite (s : State) (off : Nat) (w : RegWrite) : State :=
  let off := off / 4 * 4
  if s.heldCore w.req then s
  else if w.be ≠ 0xF then s.count GLB_ACCESS_ERR_PARTIAL_WRITES 1
  else if off = 0x10 then s.quoinWrite w
  else (s.setArm w.req false).regStore off w (s.armed w.req)

/-- The same while the main die runs. -/
def State.busWrite (s : State) (off : Nat) (w : RegWrite) : State := s.when s.mainUp fun t => t.regWrite off w

/-- A read that a requester makes, with its answer; one of a LUT window whose SYNC is 1 is held (R208). -/
def State.busRead (s : State) (off : Nat) (req : Requester) : State :=
  s.when s.mainUp fun t =>
    let t := t.lutReach off
    match t.lutBusy off with
    | some k => t.lutHold k (.read req off)
    | none => let r := t.regRead off; r.2.emit (.regRead req off r.1)

end Sys2Proof.Machine
end

