-- ==== Sys2Proof/Machine/HostPort.lean ====
section
/-! DEFINITION. The host port (chapter "Control"): register accesses row by row, BAR2, the BAR4 window, MSI-X masks, host resets. -/

namespace Sys2Proof.Machine

/-! ### Register accesses through BAR0 or the alias -/

/-- REGISTER_WRITE (R13, R36, R50). -/
def execRegisterWrite (off : Nat) (w : RegWrite) (s : State) : Host.Outcome State Fault Refusal := .next (s.busWrite off w)

/-- RC_READ (R13, R49): a read of a register; its RC fields clear. -/
def execRcRead (off : Nat) (req : Requester) (s : State) : Host.Outcome State Fault Refusal := .next (s.busRead off req)

/-- CAPTURE_READ (R245, R468, R627): a read that captures the words that are read next. -/
def execCaptureRead (off : Nat) (req : Requester) (s : State) : Host.Outcome State Fault Refusal := .next (s.busRead off req)

/-- QUOIN_WRITE (R53 to R55). -/
def execQuoinWrite (w : RegWrite) (s : State) : Host.Outcome State Fault Refusal := .next (s.busWrite GLB_QUOIN_KEY.off w)

/-- SWITCH (R103): a write of GLB.CORE_CTRL. -/
def execSwitch (w : RegWrite) (s : State) : Host.Outcome State Fault Refusal := .next (s.busWrite GLB_CORE_CTRL_SWITCH.off w)

/-- RESTART (R101): a write of GLB.CORE_CTRL. -/
def execRestart (w : RegWrite) (s : State) : Host.Outcome State Fault Refusal := .next (s.busWrite GLB_CORE_CTRL_RESTART.off w)

/-- CAUSE_CLEAR (R93): a write of ones to a register of causes. -/
def execCauseClear (off : Nat) (w : RegWrite) (s : State) : Host.Outcome State Fault Refusal := .next (s.busWrite off w)

/-- DONE_CLEAR (R73): a write to MBX.DONE. -/
def execDoneClear (w : RegWrite) (s : State) : Host.Outcome State Fault Refusal := .next (s.busWrite MBX_DONE_HOST.off w)

/-- COMMIT (R235): a write of HEADn.COMMIT. -/
def execCommit (h : Fin 4) (w : RegWrite) (s : State) : Host.Outcome State Fault Refusal := .next (s.busWrite (HEAD_COMMIT_GO h).off w)

/-- COMMIT_GROUP (R239): a write of HEADn.COMMIT that names a group. -/
def execCommitGroup (h : Fin 4) (w : RegWrite) (s : State) : Host.Outcome State Fault Refusal :=
  .next (s.busWrite (HEAD_COMMIT_GROUP h).off w)

/-- HEAD_CTRL_EN (R270): a write of HEADn.CTRL. -/
def execHeadCtrlEn (h : Fin 4) (w : RegWrite) (s : State) : Host.Outcome State Fault Refusal := .next (s.busWrite (HEAD_CTRL_EN h).off w)

/-- HEAD_CTRL_REEF (R268): a write of HEADn.CTRL. -/
def execHeadCtrlReef (h : Fin 4) (w : RegWrite) (s : State) : Host.Outcome State Fault Refusal :=
  .next (s.busWrite (HEAD_CTRL_REEF h).off w)

/-- HEAD_CTRL_HOLD (R253): a write of HEADn.CTRL. -/
def execHeadCtrlHold (h : Fin 4) (w : RegWrite) (s : State) : Host.Outcome State Fault Refusal :=
  .next (s.busWrite (HEAD_CTRL_HOLD h).off w)

/-- STATS_CLR (R226, R228). -/
def execStatsClr (h : Fin 4) (w : RegWrite) (s : State) : Host.Outcome State Fault Refusal :=
  .next (s.busWrite (HEAD_STATS_CLR_CLR h).off w)

/-- PAIR_MODE_WRITE (R325): a write of PAIR of the even port of a pair. -/
def execPairModeWrite (k : Fin 8) (w : RegWrite) (s : State) : Host.Outcome State Fault Refusal :=
  .next (s.busWrite (SP_PAIR_MODE (2 * k)).off w)

/-- INSTALL (R449): a write of GATE_CTRL. -/
def execInstall (p : Fin 2) (w : RegWrite) (s : State) : Host.Outcome State Fault Refusal :=
  .next (s.busWrite (HLYQ_GATE_CTRL_INSTALL p).off w)

/-- TAKEOVER (R416): a write of SHD.CTRL. -/
def execTakeover (w : RegWrite) (s : State) : Host.Outcome State Fault Refusal := .next (s.busWrite SHD_CTRL_TAKEOVER.off w)

/-- BYPASS (R419): a write of SHD.CTRL. -/
def execBypass (w : RegWrite) (s : State) : Host.Outcome State Fault Refusal := .next (s.busWrite SHD_CTRL_BYPASS.off w)

/-- REGION_REGISTER_WRITE (R475): register `r` (BASE, SIZE, PERM, CTRL) of region `k`. -/
def execRegionRegisterWrite (k : Fin 64) (r : Fin 4) (w : RegWrite) (s : State) : Host.Outcome State Fault Refusal :=
  .next (s.busWrite ((DSM_REG_BASE_BASE k).off + 4 * r.val) w)

/-- RECUR_CLR (R493). -/
def execRecurClr (w : RegWrite) (s : State) : Host.Outcome State Fault Refusal := .next (s.busWrite DSM_RECUR_CLR_ENTRY.off w)

/-- OVERRIDE (R509): a write of DSM.SELFTEST. -/
def execOverride (w : RegWrite) (s : State) : Host.Outcome State Fault Refusal := .next (s.busWrite DSM_SELFTEST_OVERRIDE.off w)

/-- TRAIN_GO (R521): a write of DMCn.TRAIN_CTRL. -/
def execTrainGo (c : Fin 4) (w : RegWrite) (s : State) : Host.Outcome State Fault Refusal :=
  .next (s.busWrite (DMC_TRAIN_CTRL_GO c).off w)

/-- SLOT_PWR (R518): a write of DMCn.SLOT_PWR. -/
def execSlotPwr (c : Fin 4) (w : RegWrite) (s : State) : Host.Outcome State Fault Refusal := .next (s.busWrite (DMC_SLOT_PWR_EN c).off w)

/-- INIT_START (R530): a write of DMC0.INIT_CTRL. -/
def execInitStart (w : RegWrite) (s : State) : Host.Outcome State Fault Refusal := .next (s.busWrite DMC0_INIT_CTRL_START.off w)

/-- DMA_CH_EN (R574, R582): a write of CH_CTRL. -/
def execDmaChEn (c : Fin 16) (w : RegWrite) (s : State) : Host.Outcome State Fault Refusal := .next (s.busWrite (DMACH_CH_CTRL_EN c).off w)

/-- DMA_RESUME (R585): a write of CH_CTRL. -/
def execDmaResume (c : Fin 16) (w : RegWrite) (s : State) : Host.Outcome State Fault Refusal :=
  .next (s.busWrite (DMACH_CH_CTRL_RESUME c).off w)

/-- DMA_ABORT (R585): a write of CH_CTRL. -/
def execDmaAbort (c : Fin 16) (w : RegWrite) (s : State) : Host.Outcome State Fault Refusal :=
  .next (s.busWrite (DMACH_CH_CTRL_ABORT c).off w)

/-- DMA_HEAD_WRITE (R582): a write of HEADn of a channel. -/
def execDmaHeadWrite (c : Fin 16) (w : RegWrite) (s : State) : Host.Outcome State Fault Refusal :=
  .next (s.busWrite (DMACH_HEAD_INDEX c).off w)

/-- SWREQ (R587). -/
def execSwreq (w : RegWrite) (s : State) : Host.Outcome State Fault Refusal := .next (s.busWrite DMA_SWREQ_REQ.off w)

/-- BLT_DOORBELL (R590). -/
def execBltDoorbell (w : RegWrite) (s : State) : Host.Outcome State Fault Refusal := .next (s.busWrite BLT_DOORBELL_RING.off w)

/-- BLT_ABORT (R600): a write of BLT.CTRL. -/
def execBltAbort (w : RegWrite) (s : State) : Host.Outcome State Fault Refusal := .next (s.busWrite BLT_CTRL_ABORT.off w)

/-- HPLL_FB_WRITE (R614): a write of HPLL_FBn, or of HPLL_FRACn. -/
def execHpllFbWrite (n : Fin 4) (frac : Bool) (w : RegWrite) (s : State) : Host.Outcome State Fault Refusal :=
  .next (s.busWrite (if frac then (HPLL_FRAC_FB_FRAC n).off else (HPLL_FB_FB_INT n).off) w)

/-- RAMP_GO (R617): a write of RAMP_CTRLn. -/
def execRampGo (n : Fin 4) (w : RegWrite) (s : State) : Host.Outcome State Fault Refusal := .next (s.busWrite (HPLL_RAMP_CTRL_GO n).off w)

/-- SET_GO (R630, R632). -/
def execSetGo (w : RegWrite) (s : State) : Host.Outcome State Fault Refusal := .next (s.busWrite TSY_SET_GO_GO.off w)

/-- RESET_CTRL_MAIN (R642). -/
def execResetCtrlMain (w : RegWrite) (s : State) : Host.Outcome State Fault Refusal := .next (s.busWrite PWR_RESET_CTRL_MAIN.off w)

/-- RD_SEQ_WRITE (R675). -/
def execRdSeqWrite (w : RegWrite) (s : State) : Host.Outcome State Fault Refusal := .next (s.busWrite EVT_RD_SEQ_SEQ.off w)

/-- FEC_CLR (R678). -/
def execFecClr (w : RegWrite) (s : State) : Host.Outcome State Fault Refusal := .next (s.busWrite EVT_FEC_CLR_CLASS.off w)

/-! ### Words of a wide access (R51) -/

/-- The bytes of one word of a write: offset of the word and the bytes that the access enables in it. -/
def wordsOf (off : Nat) (d : List (Option Byte)) : List (Nat × List (Option Byte)) :=
  (List.range ((off + d.length + 3) / 4 - off / 4)).map fun i =>
    let w := (off / 4 + i) * 4
    (w, (List.range 4).map fun b => if off ≤ w + b then (d[w + b - off]?).join else none)

/-- The value of a word of a write; bytes that are not enabled count as 0. -/
def wordVal (l : List (Option Byte)) : Nat := leNat (l.map fun x => x.getD 0)

/-- Byte enables of a word of a write. -/
def wordBe (l : List (Option Byte)) : BitVec 4 := BitVec.ofNat 4 (ofBits (l.map Option.isSome))

/-- A series of register writes by one requester. -/
def State.aliasWrite (s : State) (off : Nat) (d : List (Option Byte)) (req : Requester) (poison : Bool) : State :=
  (wordsOf off d).foldl (fun t x => t.regWrite x.1 ⟨req, BitVec.ofNat 32 (wordVal x.2), wordBe x.2, poison⟩) s

/-- A series of register reads: the bytes that an access covers. -/
def State.aliasRead (s : State) (off len : Nat) : List Byte × State :=
  let r := (List.range ((off + len + 3) / 4 - off / 4)).foldl (fun (x : List Byte × State) i =>
    let y := x.2.regRead ((off / 4 + i) * 4)
    (x.1 ++ leBytes 4 y.1.toNat, y.2)) ([], s)
  (slice r.1 (off % 4) len, r.2)

/-- A series of register reads by the host, with its completion; one that touches a LUT window whose SYNC is 1 is held (R208). -/
def State.aliasAnswer (s : State) (off len : Nat) : State :=
  let s := (List.range ((off + len + 3) / 4 - off / 4)).foldl (fun t i => t.lutReach ((off / 4 + i) * 4)) s
  match (List.range ((off + len + 3) / 4 - off / 4)).findSome? fun i => s.lutBusy ((off / 4 + i) * 4) with
  | some k => s.lutHold k (.window off len)
  | none => let r := s.aliasRead off len; r.2.emit (.hostRead r.1 false)

/-- A held access to a LUT window is performed (R208). -/
def State.lutPerform (s : State) (a : LutAccess) : State :=
  match a with
  | .read req off => s.busRead off req
  | .window off len => s.aliasAnswer off len
  | .write off v behind => s.lutStore off v behind

/-- LUT_SYNC_DONE (R208): the second copy is up to date, and the accesses that waited are performed on the shadow table. -/
def execLutSyncDone (t : Fin 20) (s : State) : Host.Outcome State Fault Refusal :=
  let x := s.luts[t]
  let f := if t.val < 16 then LAY_LUT_CTRL_SYNC t else HEAD_POST_LUT_CTRL_SYNC (t.val - 16)
  .next (match x.until_ with
  | some u =>
    if u ≤ s.now then
      let s := { s.wr f 0 with luts := s.luts.set t ⟨none, []⟩ }
      ((x.held.foldl State.lutPerform s).lutServe t).serveQueued
    else s
  | none => s)

/-! ### Densum, DDR5 and the host window as the host port reaches them -/

/-- The parts of a write within lines, with byte enables. -/
def splitEnabled : Nat → Nat → List (Option Byte) → List (Nat × List (Option Byte))
  | 0, _, _ => []
  | fuel + 1, a, d =>
    if d.isEmpty then [] else let n := 64 - a % 64; (a, d.take n) :: splitEnabled fuel (a + n) (d.drop n)

/-- The first of the addresses at which Densum refuses the host: an access of the host is refused, counted and logged as one, however many
lines it touches (R62, R474). -/
def State.hostRefused (s : State) (write : Bool) (as : List Nat) : Option Nat :=
  (as.find? fun a => inDsm a && !s.dsmAllowed reqHst (a - dsmBase) write).map fun a => a / 64 * 64

/-- A write of bytes with enables, line by line. -/
def State.hostWrite (s : State) (addr : Nat) (d : List (Option Byte)) (ep : Bool) : State :=
  let parts := splitEnabled (d.length + 1) addr d
  match s.hostRefused true (parts.map fun p => p.1) with
  | some a => s.dsmPermErr reqHst a
  | none => parts.foldl (fun t p => (t.lineWrite reqHst p.1 p.2 ep).2) s

/-- A read of bytes. -/
def State.hostRead (s : State) (addr n : Nat) : MemAns × State :=
  match s.hostRefused false ((List.range ((addr + n + 63) / 64 - addr / 64)).map fun i => (addr / 64 + i) * 64) with
  | some a => (⟨List.replicate n 0xFF, true, true⟩, s.dsmPermErr reqHst a)
  | none => s.memRead reqHst addr n

/-- The completion of a host read that met an error response or a refusal (R62). -/
def State.hostErr (s : State) (len : Nat) : State := s.emit (.hostRead (List.replicate len 0xFF) true)

/-- The completion of a host read (R47, R62). -/
def State.hostAnswer (s : State) (a : MemAns) (len : Nat) : State :=
  if a.err then s.hostErr len else s.emit (.hostRead a.data a.poison)

/-! ### The BAR4 window (R61 to R63) -/

/-- GLB.WIN_BASE. -/
def State.winBase (s : State) : Nat := s.rd GLB_WIN_BASE_HI_BASE_HI * 2 ^ 32 + s.rd GLB_WIN_BASE_LO_BASE_LO * 2 ^ 20


/-- How an access through the window fares (R20, R44, R62, R715). -/
inductive WinCase where
  | performed | bound | error
deriving DecidableEq, Repr

/-- The case of an access of `len` bytes at a device address: one that begins outside every range of R19 or beyond the installed
DDR5 gets an error response; one that leaves its bound, or begins in Densum outside every region, is refused. -/
def State.winCase (s : State) (addr len : Nat) : WinCase :=
  if len = 0 || s.spanOk addr len then .performed
  else if inDsm addr || (s.boundOf addr).isSome then .bound else .error

/-- WINDOW_ACCESS (R61, R62): a host access at a BAR4 offset. The spec is silent on a sum GLB.WIN_BASE + x that passes 48 bits: the model
takes it modulo 2⁴⁸ (log 60, DESIGN CHOICE). -/
def execWindowAccess (off : Nat) (a : HostAcc) (s : State) : Host.Outcome State Fault Refusal :=
  let addr := (s.winBase + off % 2 ^ 30) % 2 ^ 48
  let len := match a with | .read n => n | .write d _ => d.length
  .next (if !s.mainUp then s
  else
    match s.winCase addr len, a with
    | .bound, .read n => (s.report EV_PROT_BOUND (src 0 0) (detailAddr addr reqHst 0)).hostErr n
    | .bound, .write _ _ => s.report EV_PROT_BOUND (src 0 0) (detailAddr addr reqHst 0)
    | .error, .read n => (s.report EV_WINDOW_ERR (src 0 0) (detailAddr addr reqHst 0)).hostErr n
    | .error, .write _ _ => s.report EV_WINDOW_ERR (src 0 0) (detailAddr addr reqHst 0)
    | .performed, .read n =>
      if inAlias addr then s.aliasAnswer (addr - aliasBase) n
      else let r := s.hostRead addr n; r.2.hostAnswer r.1 n
    | .performed, .write d ep =>
      if inAlias addr then s.aliasWrite (addr - aliasBase) d .host ep else s.hostWrite addr d ep)

/-! ### MSI-X (R58, R94) -/

/-- Unmask a vector: a pending message is sent (R94). -/
def State.unmask (s : State) (v : Fin 64) : State :=
  let e := s.host.msix[v]
  let s := { s with host := { s.host with msix := s.host.msix.set v { e with masked := false } } }
  if s.host.pba[v] then (({ s with host := { s.host with pba := s.host.pba.set v false } })).emit (.msix v e.addr e.data) else s

/-- MSIX_UNMASK (R94): the host clears the mask bit of a vector. -/
def execMsixUnmask (v : Fin 64) (s : State) : Host.Outcome State Fault Refusal := .next (s.when s.mainUp fun t => t.unmask v)

/-- Word `i` of the MSI-X table. -/
def State.msixWord (s : State) (i : Nat) : Nat :=
  let e := s.host.msix[Fin.ofNat 64 (i / 4)]
  if i % 4 = 0 then e.addr % 2 ^ 32 else if i % 4 = 1 then e.addr / 2 ^ 32 % 2 ^ 32 else if i % 4 = 2 then e.data.toNat else b2n e.masked

/-- Set an entry of the MSI-X table. -/
def State.setMsix (s : State) (v : Fin 64) (x : MsixEntry) : State := { s with host := { s.host with msix := s.host.msix.set v x } }

/-- A write to word `i` of the MSI-X table. -/
def State.msixWrite (s : State) (i : Nat) (l : List (Option Byte)) : State :=
  let v : Fin 64 := Fin.ofNat 64 (i / 4)
  let e := s.host.msix[v]
  let old := leBytes 4 (s.msixWord i)
  let w := leNat ((List.range 4).map fun b => (l.getD b none).getD (old.getD b 0))
  if i % 4 = 0 then s.setMsix v { e with addr := e.addr / 2 ^ 32 * 2 ^ 32 + w / 4 * 4 }
  else if i % 4 = 1 then s.setMsix v { e with addr := e.addr % 2 ^ 32 + w * 2 ^ 32 }
  else if i % 4 = 2 then s.setMsix v { e with data := BitVec.ofNat 32 w }
  else if w.testBit 0 then s.setMsix v { e with masked := true }
  else if e.masked then s.unmask v else s

/-! ### BAR2 (R58 to R60) -/

/-- Device address of a BAR2 location that stands in Densum: mailboxes and the event log window. -/
def bar2Mem (off : Nat) : Option Nat :=
  if off < 0x2800 then some (dsmBase + off)
  else if 0x20000 ≤ off ∧ off < 0x40000 then some (logBase + (off - 0x20000))
  else none

/-- What a word of BAR2 outside Densum reads as. -/
def State.bar2Word (s : State) (w : Nat) : Nat :=
  if 0x4000 ≤ w ∧ w < 0x4400 then s.msixWord ((w - 0x4000) / 4)
  else if w = 0x4800 ∨ w = 0x4804 then ofBits ((List.range 32).map fun i => s.host.pba[Fin.ofNat 64 ((w - 0x4800) * 8 + i)])
  else 0

/-- A write to a word of BAR2 outside Densum. -/
def State.bar2Store (s : State) (w : Nat) (l : List (Option Byte)) : State :=
  let v := wordVal l
  if w = 0x3000 then s.mbxDoorbell (BitVec.ofNat 16 v)
  else if w = 0x3004 then s.ringDoorbell (BitVec.ofNat 4 v)
  else if 0x3100 ≤ w ∧ w < 0x3140 then (if l.any Option.isSome then s.dmaRing ((w - 0x3100) / 4) else s)
  else if 0x4000 ≤ w ∧ w < 0x4400 then s.msixWrite ((w - 0x4000) / 4) l
  else s

/-- The parts of an access to BAR2: it is cut where a range of the table of R58 ends, or the next begins (R59). -/
def bar2Parts (off n : Nat) : List (Nat × Nat) :=
  [(0, 0x2800), (0x2800, 0x20000), (0x20000, 0x40000), (0x40000, off + n)].filterMap fun r =>
    let lo := max off r.1
    let hi := min (off + n) r.2
    if lo < hi then some (lo, hi - lo) else none

/-- A read of one part of BAR2, word by word outside Densum. -/
def State.bar2Part (s : State) (off n : Nat) : MemAns × State :=
  match bar2Mem off with
  | some a => s.hostRead a n
  | none =>
    let ws := (List.range ((off + n + 3) / 4 - off / 4)).map fun i => leBytes 4 (s.bar2Word ((off / 4 + i) * 4))
    (⟨slice ws.flatten (off % 4) n, false, false⟩, s)

/-- A read of BAR2. -/
def State.bar2Read (s : State) (off n : Nat) : State :=
  let r := (bar2Parts off n).foldl (fun (x : MemAns × State) p =>
    let y := x.2.bar2Part p.1 p.2
    (⟨x.1.data ++ y.1.data, x.1.poison || y.1.poison, x.1.err || y.1.err⟩, y.2)) (⟨[], false, false⟩, s)
  r.2.hostAnswer r.1 n

/-- A write to BAR2, word by word outside Densum. -/
def State.bar2Write (s : State) (off : Nat) (d : List (Option Byte)) (ep : Bool) : State :=
  (bar2Parts off d.length).foldl (fun t p =>
    let x := (d.drop (p.1 - off)).take p.2
    match bar2Mem p.1 with
    | some a => t.hostWrite a x ep
    | none => (wordsOf p.1 x).foldl (fun t y => t.bar2Store y.1 y.2) t) s

/-- BAR2_ACCESS (R60): a host access at a BAR2 offset. -/
def execBar2Access (off : Nat) (a : HostAcc) (s : State) : Host.Outcome State Fault Refusal :=
  let off := off % 0x100000
  .next (if !s.mainUp then s
  else
    match a with
    | .read n => s.bar2Read off n
    | .write d ep => s.bar2Write off d ep)

/-! ### Host resets (R64, R65) -/

/-- The host port returns to its reset state: MSI-X table, GLB.WIN_BASE, the host's Quoin arm and MBX.DONE. -/
def State.hostReset (s : State) : State :=
  let s := { s with host := State.reset.host }
  let s := ((s.setReg GLB_WIN_BASE_LO_BASE_LO.off 0).setReg GLB_WIN_BASE_HI_BASE_HI.off 0).setArm .host false
  s.setReg MBX_DONE_HOST.off 0

/-- FUNCTION_LEVEL_RESET (R64). -/
def execFunctionLevelReset (s : State) : Host.Outcome State Fault Refusal := .next (s.when s.mainUp State.hostReset)

/-- PERST_N (R64). -/
def execPerstN (s : State) : Host.Outcome State Fault Refusal := .next (s.when s.mainUp State.hostReset)

end Sys2Proof.Machine
end

