-- ==== Sys2Proof/Machine/DmaRun.lean ====
section
/-! DEFINITION. What the DMA channels and the raster engine do with their descriptors and commands: checks, bursts, rows, completion
(R569 to R577, R580 to R589, R591 to R602). -/

namespace Sys2Proof.Machine

/-! ### Accesses of DXB (R19, R20, R583) -/

/-- A read of at most 64 bytes within a line by DXB, of memory or of the register space alias. -/
def State.dxbRead (s : State) (addr len : Nat) : MemAns × State :=
  if inAlias addr then (s.aliasRead (addr - aliasBase) len).map (fun d => ⟨d, false, false⟩) id else s.memRead reqDxb addr len

/-- A write of at most 64 bytes within a line by DXB: error response. -/
def State.dxbWrite (s : State) (addr : Nat) (d : List Byte) (poison : Bool) : Bool × State :=
  if inAlias addr then (false, s.aliasWrite (addr - aliasBase) (d.map some) .dma poison) else s.memWrite reqDxb addr d poison

/-- Whether a footprint passes the check of R44 for DXB, which lets a base without a bound through (R571). -/
def State.dxbFoot (s : State) (base : Nat) (f : Int × Int) : Bool := (s.boundOf base).isNone || s.footIn base f.1 f.2

/-- Whether two footprints share a byte. -/
def shareByte (a b : Int × Int) : Bool := decide (a.1 ≤ b.2 ∧ b.1 ≤ a.2)

/-! ### Descriptor checks (R43, R570) -/

/-- The footprint of a descriptor's side (R43). -/
def descFoot (d : List Byte) (base : Nat) (st : Nat → Int) : Int × Int :=
  let r := fun k => ((descCnt d k : Int) - 1) * st k
  ((base : Int) + (min 0 (r 0) + min 0 (r 1) + min 0 (r 2)), (base : Int) + (max 0 (r 0) + max 0 (r 1) + max 0 (r 2)) + descE d - 1)

/-- SRC. -/
def descSrc (d : List Byte) : Nat := leAt d 8 8
/-- DST. -/
def descDst (d : List Byte) : Nat := leAt d 16 8

/-- Whether a side of a descriptor is a multiple of the element size throughout. -/
def descAligned (d : List Byte) (base : Nat) (st : Nat → Int) : Bool :=
  decide (base % descE d = 0) && (List.range 3).all fun k => decide (st k % (descE d : Int) = 0)

/-- The error of a descriptor's checks, 0 where it may start (R570). -/
def State.descCheck (s : State) (d : List Byte) : Nat :=
  let fill := decide (descOp d = 1)
  let sf := descFoot d (descSrc d) (descS d)
  let df := descFoot d (descDst d) (descD d)
  if descCnt d 0 = 0 ∨ descCnt d 1 = 0 ∨ descCnt d 2 = 0 ∨ descOp d = 3 then 1
  else if !descAligned d (descDst d) (descD d) || (!fill && !descAligned d (descSrc d) (descS d)) then 2
  else if !s.dxbFoot (descDst d) df || (!fill && !s.dxbFoot (descSrc d) sf) then 3
  else if !fill && shareByte sf df then 4
  else 0

/-- A channel enters STOPPED with an error's cause, its descriptor written back (R580, R581). -/
def State.dmaStop (s : State) (c err cause : Nat) : State :=
  let r := s.dmaBack c err
  if r.1 then r.2 else (r.2.setCause (causeDma c cause)).dmaTo c 3 .none

/-- The bytes of a descriptor that a channel has read. -/
def State.dmaGot (s : State) (c : Nat) (d : List Byte) : State :=
  s.setDch c fun x => { x with desc := d, bursts := 0, mismatch := none, poison := false }

/-- A channel has a descriptor that it owns: check it, and start it (R570, R574, R581, R587). -/
def State.dmaStart (s : State) (c : Nat) (d : List Byte) : State :=
  let s := (s.dmaGot c d).wr (DMACH_REQ_PEND_COUNT c) 0
  let err := s.descCheck d
  if err = 0 then s.dmaTo c 1 .ready else s.dmaStop c err 1

/-- DMA_DESCRIPTOR_READ (R574, R584): the read of the descriptor at HEAD returns; after the timeout it is discarded (R583). -/
def execDmaDescriptorRead (c : Fin 16) (s : State) : Host.Outcome State Fault Refusal :=
  .next (s.when (s.mainUp && decide (s.rd (DMACH_CH_STATUS_STATE c) = 1)) fun s =>
    match (s.dch c).phase with
    | .fetch t =>
      if s.dmaLate t then s else
      let a := s.dmaDescAddr c
      let r := s.dxbRead a 64
      if r.1.err then (r.2.dmaGot c r.1.data).dmaHalt c a 0 false false
      else if r.1.poison then (r.2.dmaGot c r.1.data).dmaHalt c a 0 false true
      else if descOwn r.1.data then r.2.dmaStart c r.1.data
      else r.2.dmaPark c
    | _ => s)

/-! ### Bursts (R586, R587, R589) -/

/-- Whether a burst of a channel may start. -/
def State.dmaWork (s : State) (c : Nat) : Bool :=
  decide (s.rd (DMACH_CH_STATUS_STATE c) = 1) && match (s.dch c).phase with
    | .again => true
    | .ready => !descPaced (s.dch c).desc || decide (0 < s.rd (DMACH_REQ_PEND_COUNT c))
    | _ => false

/-- Whether a burst is in progress. -/
def State.dmaBusy (s : State) : Bool :=
  (List.range 16).any fun c => decide (s.rd (DMACH_CH_STATUS_STATE c) = 1) &&
    match (s.dch c).phase with | .burst _ => true | _ => false

/-- The channel whose burst starts next: the highest level that has work, round robin within it. -/
def State.dmaPick (s : State) : Option (Nat × Nat) :=
  [3, 2, 1, 0].findSome? fun p =>
    ((List.range 16).map fun k => ((s.dmaServed[Fin.ofNat 4 p]).val + 1 + k) % 16).find?
      (fun c => s.dmaWork c && decide (s.rd (DMACH_CH_CTRL_PRIO c) = p)) |>.map fun c => (p, c)

/-- Start a channel's next burst, which takes one request of a paced descriptor where it is not started again after a halt. While RESP_TIMEOUT is 0 no access starts (R42, log 46). -/
def State.dmaGo (s : State) (p c : Nat) : State :=
  if s.rd DMA_RESP_TIMEOUT_CYCLES = 0 then s.dmaStop c 1 1 else
  let s := { s with dmaServed := s.dmaServed.set (Fin.ofNat 4 p) (Fin.ofNat 16 c) }
  let s := if descPaced (s.dch c).desc && decide ((s.dch c).phase = .ready) then s.wr (DMACH_REQ_PEND_COUNT c) (s.rd (DMACH_REQ_PEND_COUNT c) - 1) else s
  s.setDch c fun x => { x with phase := .burst s.now }

/-- DMA_BURST (R589): at a burst boundary. -/
def execDmaBurst (s : State) : Host.Outcome State Fault Refusal :=
  .next (s.when (s.mainUp && !s.dmaBusy) fun t => match t.dmaPick with | some (p, c) => t.dmaGo p c | none => t)

/-! ### Elements (R569, R572, R573) -/

/-- Address of element (i0, i1, i2) of a side. -/
def descAddr (base : Nat) (st : Nat → Int) (i0 i1 i2 : Nat) : Nat :=
  wrap 64 ((base : Int) + i0 * st 0 + i1 * st 1 + i2 * st 2)

/-- Count bytes written by a channel. -/
def State.dmaBytes (s : State) (c n : Nat) : State :=
  let v := s.rd (DMACH_BYTES_LO_BYTES c) + s.rd (DMACH_BYTES_HI_BYTES c) * 2 ^ 32 + n
  (s.wr (DMACH_BYTES_LO_BYTES c) (v % 2 ^ 32)).wr (DMACH_BYTES_HI_BYTES c) (v / 2 ^ 32 % 2 ^ 32)

/-- A channel has read an element from a poisoned line. -/
def State.dmaPoison (s : State) (c : Nat) (p : Bool) : State := s.setDch c fun x => { x with poison := x.poison || p }

/-- Write one element: whether the descriptor may go on. -/
def State.dmaPut (s : State) (c a : Nat) (d : List Byte) (poison : Bool) : Bool × State :=
  let r := s.dxbWrite a d poison
  if r.1 then (false, r.2.dmaHalt c a 2 false false) else (true, r.2.dmaBytes c d.length)

/-- Read one element: nothing where the access met a bus error. -/
def State.dmaGet (s : State) (c a e : Nat) : Option (List Byte × Bool) × State :=
  let r := s.dxbRead a e
  if r.1.err then (none, r.2.dmaHalt c a 1 false false) else (some (r.1.data, r.1.poison), r.2.dmaPoison c r.1.poison)

/-- The first byte in which two elements differ; a poisoned element differs, and where the bytes read do not say in which byte, the
offset is open (R572, R573). -/
def State.dmaDiffer (s : State) (a b : List Byte) (poison : Bool) (e : Nat) : Option Nat × State :=
  match (List.range e).find? fun i => decide (a[i]? ≠ b[i]?) with
  | some i => (some i, s)
  | none => if poison then let r := s.freeNat; (some (r.1 % e), r.2) else (none, s)

/-- One element of a descriptor: whether the burst goes on. -/
def State.dmaElement (s : State) (c i0 i1 i2 : Nat) : Bool × State :=
  let d := (s.dch c).desc
  let e := descE d
  let sa := descAddr (descSrc d) (descS d) i0 i1 i2
  let da := descAddr (descDst d) (descD d) i0 i1 i2
  if descOp d = 1 then s.dmaPut c da ((List.replicate (e / 8) (slice d 56 8)).flatten) false
  else
    let x := s.dmaGet c sa e
    match x.1 with
    | none => (false, x.2)
    | some (v, p) =>
      if descOp d = 0 then x.2.dmaPut c da v p
      else
        let y := x.2.dmaGet c da e
        match y.1 with
        | none => (false, y.2)
        | some (w, q) =>
          let z := y.2.dmaDiffer v w (p || q) e
          match z.1 with
          | none => (true, z.2)
          | some b =>
            let n := ((i2 * descCnt d 1 + i1) * descCnt d 0 + i0) * e + b
            (false, z.2.setDch c fun x => { x with mismatch := some n })

/-- The first `n` elements of a burst in order: whether the burst goes on. -/
def State.dmaElements (s : State) (c i1 i2 n : Nat) : Bool × State :=
  (List.range n).foldl (fun (x : Bool × State) i0 => if x.1 then x.2.dmaElement c i0 i1 i2 else x) (true, s)

/-- A descriptor's completion (R575, R580, R582). -/
def State.dmaFinish (s : State) (c : Nat) : State :=
  let int := descInt (s.dch c).desc
  let n := (s.dch c).unint + 1
  if !int && decide (s.rd (DMACH_BUDGET_COUNT c) ≠ 0 ∧ s.rd (DMACH_BUDGET_COUNT c) ≤ n) then s.dmaStop c 6 3
  else
    let r := s.dmaBack c 0
    if r.1 then r.2
    else
      let s := r.2.setDch c fun x => { x with unint := if int then 0 else n }
      let s := if int then s.setCause (causeDma c 0) else s
      if s.flag (DMACH_CH_CTRL_EN c) then s.dmaFetch c else (s.setDch c fun x => { x with latch := false }).dmaTo c 0 .none

/-- A burst has ended without a bus error: its next burst may start, or its descriptor is finished: with BARRIER once its writes have
completed, else at once (R576). -/
def State.dmaBurstEnd (s : State) (c : Nat) : State :=
  let x := s.dch c
  if s.rd (DMACH_CH_STATUS_STATE c) ≠ 1 then s
  else
    let last := x.mismatch.isSome || decide (descCnt x.desc 1 * descCnt x.desc 2 ≤ x.bursts + 1)
    let s := s.setDch c fun y => { y with bursts := y.bursts + 1, phase := if last then .done s.now else .ready }
    if last && !descBarrier x.desc then s.dmaFinish c else s

/-- The indices of the burst in progress in the two outer loops. -/
def State.dmaLoop (s : State) (c : Nat) : Nat × Nat :=
  let x := s.dch c
  let n1 := max 1 (descCnt x.desc 1)
  (x.bursts % n1, x.bursts / n1)

/-- Whether the synchronisation of a LUT holds one of a unit's accesses to the register space, which reach their windows here (R208): with
the state that the accesses leave. -/
def State.dxbHeld (s : State) (as : List Nat) : Bool × State :=
  let offs := (as.filter inAlias).map (· - aliasBase)
  let s := offs.foldl (fun t o => t.lutReach o) s
  (offs.any fun o => (s.lutBusy o).isSome, s)

/-- The addresses that the burst in progress reads. -/
def State.dmaReads (s : State) (c : Nat) : List Nat :=
  let d := (s.dch c).desc
  let k := s.dmaLoop c
  (List.range (descCnt d 0)).flatMap fun i0 =>
    (if descOp d = 1 then [] else [descAddr (descSrc d) (descS d) i0 k.1 k.2]) ++
      (if descOp d = 2 then [descAddr (descDst d) (descD d) i0 k.1 k.2] else [])

/-- DMA_RESPONSE (R572, R584): the responses of the burst in progress reach DXB; after the timeout they are discarded (R583), and while a
LUT's synchronisation holds one of its reads there are none (R208). -/
def execDmaResponse (c : Fin 16) (s : State) : Host.Outcome State Fault Refusal :=
  .next (s.when (s.mainUp && decide (s.rd (DMACH_CH_STATUS_STATE c) = 1)) fun s =>
    match (s.dch c).phase with
    | .burst t =>
      let held := s.dxbHeld (s.dmaReads c)
      if s.dmaLate t || held.1 then held.2 else
      let k := s.dmaLoop c
      (held.2.dmaElements c k.1 k.2 (descCnt (s.dch c).desc 0)).2.dmaBurstEnd c
    | _ => s)

/-- No response came to access `j` of element `i0` of the burst in progress, an element making one access for FILL and two else: the
channel halts. A write that no response answers may have been performed, as a free value says (R583, R584, log 46). -/
def State.dmaLost (s : State) (c i0 j : Nat) : State :=
  let d := (s.dch c).desc
  let k := s.dmaLoop c
  let sa := descAddr (descSrc d) (descS d) i0 k.1 k.2
  let da := descAddr (descDst d) (descD d) i0 k.1 k.2
  if descOp d ≠ 1 ∧ j = 0 then s.dmaHalt c sa 1 true false
  else if descOp d = 2 then s.dmaHalt c da 1 true false
  else
    let r := s.freeNat
    (if r.1 % 2 = 0 then r.2 else (r.2.dmaElement c i0 k.1 k.2).2).dmaHalt c da 2 true false

/-- RESP_TIMEOUT expires in a burst (R583, R584): the first of its accesses have been answered, and the next has not; which one, and whether it
is the write-back that follows a last burst without BARRIER, is a free value (log 46). -/
def State.dmaBurstLate (s : State) (c : Nat) : State :=
  let x := s.dch c
  let k := s.dmaLoop c
  let m := if descOp x.desc = 1 then 1 else 2
  let last := decide (descCnt x.desc 1 * descCnt x.desc 2 ≤ x.bursts + 1) && !descBarrier x.desc
  let all := descCnt x.desc 0 * m
  let r := s.freeNat
  let n := r.1 % (all + b2n last)
  let z := r.2.dmaElements c k.1 k.2 (n / m)
  if !z.1 then z.2.dmaBurstEnd c
  else if n = all then z.2.dmaHalt c (s.dmaDescAddr c) 3 true false
  else z.2.dmaLost c (n / m) (n % m)

/-- DMA_RESP_TIMEOUT (R583): no response came within RESP_TIMEOUT to a descriptor read, to an access of a burst, or to the write-back of a
finished descriptor. -/
def execDmaRespTimeout (c : Fin 16) (s : State) : Host.Outcome State Fault Refusal :=
  .next (s.when (s.mainUp && decide (s.rd (DMACH_CH_STATUS_STATE c) = 1)) fun s =>
    match (s.dch c).phase with
    | .fetch t =>
      if s.dmaLate t then let r := s.freeLine; (r.2.dmaGot c r.1).dmaHalt c (s.dmaDescAddr c) 0 true false else s
    | .burst t => if s.dmaLate t then s.dmaBurstLate c else s
    | .done t => if s.dmaLate t then s.dmaHalt c (s.dmaDescAddr c) 3 true false else s
    | _ => s)

/-- Whether a channel has finished its descriptor but for the write-back. -/
def State.dmaDone (s : State) (c : Nat) : Bool := match (s.dch c).phase with | .done _ => true | _ => false

/-- DMA_DESCRIPTOR_DONE (R575, R576): the writes of the descriptor have completed. -/
def execDmaDescriptorDone (c : Fin 16) (s : State) : Host.Outcome State Fault Refusal :=
  .next (s.when (s.mainUp && decide (s.rd (DMACH_CH_STATUS_STATE c) = 1) && s.dmaDone c) fun t => t.dmaFinish c)

/-! ### Raster commands: their fields -/

/-- OP: 0 ROP, 1 REDUCE2, 2 WAIT_LINE. -/
def bltOp (d : List Byte) : Nat := bits (leAt d 0 4) 3 2
/-- Bytes of a pixel. -/
def bltB (d : List Byte) : Nat := 2 ^ bits (leAt d 0 4) 5 4
/-- PAT_MODE. -/
def bltPatMode (d : List Byte) : Nat := bits (leAt d 0 4) 7 6
/-- KEY_MODE. -/
def bltKeyMode (d : List Byte) : Nat := bits (leAt d 0 4) 9 8
/-- ROP code. -/
def bltRop (d : List Byte) : Nat := bits (leAt d 0 4) 23 16

/-- The clipped destination rectangle: first column and row, columns, rows (R592, R599). -/
structure BltRect where
  x : Nat
  y : Nat
  w : Nat
  h : Nat
deriving DecidableEq, Repr

/-- The rectangle that a command draws. -/
def bltRect (d : List Byte) : BltRect :=
  let x := leAt d 20 2
  let y := leAt d 22 2
  let w := leAt d 24 2
  let h := leAt d 26 2
  if (leAt d 0 4).testBit 10 then
    let x0 := max x (leAt d 48 2)
    let y0 := max y (leAt d 50 2)
    ⟨x0, y0, min (x + w) (leAt d 52 2 + 1) - x0, min (y + h) (leAt d 54 2 + 1) - y0⟩
  else ⟨x, y, w, h⟩

/-- Whether the source is read (R593). -/
def bltReadsS (d : List Byte) : Bool :=
  decide (bltOp d = 1) || decide (bltKeyMode d = 1) ||
    [0, 1, 4, 5].any fun i => (bltRop d).testBit i != (bltRop d).testBit (i + 2)
/-- Whether the destination is read (R593). -/
def bltReadsD (d : List Byte) : Bool :=
  decide (bltOp d ≠ 1) && (decide (bltKeyMode d = 2) || [0, 2, 4, 6].any fun i => (bltRop d).testBit i != (bltRop d).testBit (i + 1))

/-- Address of a destination pixel (R591). -/
def bltDst (d : List Byte) (x y : Nat) : Nat := leAt d 8 8 + y * leAt d 16 4 + x * bltB d
/-- Address of a source pixel (R591). -/
def bltSrc (d : List Byte) (x y : Nat) : Nat := leAt d 32 8 + y * leAt d 40 4 + x * bltB d
/-- Source column of a destination column, for a ROP or REDUCE2 command (R592, R598). -/
def bltSrcX (d : List Byte) (x : Nat) : Nat := leAt d 44 2 + (if bltOp d = 1 then 2 else 1) * (x - leAt d 20 2)
/-- Source row of a destination row. -/
def bltSrcY (d : List Byte) (y : Nat) : Nat := leAt d 46 2 + (if bltOp d = 1 then 2 else 1) * (y - leAt d 22 2)

/-- Footprint of the destination. -/
def bltDstFoot (d : List Byte) : Int × Int :=
  let r := bltRect d
  ((bltDst d r.x r.y : Int), (bltDst d (r.x + r.w - 1) (r.y + r.h - 1) + bltB d : Nat) - 1)

/-- Footprint of the source pixels that the rectangle uses. -/
def bltSrcFoot (d : List Byte) : Int × Int :=
  let r := bltRect d
  let k := if bltOp d = 1 then 1 else 0
  ((bltSrc d (bltSrcX d r.x) (bltSrcY d r.y) : Int),
    (bltSrc d (bltSrcX d (r.x + r.w - 1) + k) (bltSrcY d (r.y + r.h - 1) + k) + bltB d : Nat) - 1)

/-- Whether R596 applies: source and destination are one surface, and the source is read. -/
def bltSame (d : List Byte) : Bool :=
  decide (bltOp d = 0 ∧ leAt d 32 8 = leAt d 8 8 ∧ leAt d 40 4 = leAt d 16 4) && bltReadsS d

/-- Whether the command reads a COLOUR pattern. -/
def bltColour (d : List Byte) : Bool := decide (bltOp d = 0 ∧ bltPatMode d = 2)

/-- Whether the command draws nothing, its clipped rectangle being empty. -/
def bltEmpty (d : List Byte) : Bool := decide ((bltRect d).w = 0 ∨ (bltRect d).h = 0)

/-- The error of a command's checks, 0 where it may start (R599). -/
def State.bltCheck (s : State) (d : List Byte) : Nat :=
  let w := leAt d 24 2
  let h := leAt d 26 2
  let pat := leAt d 72 8
  if w = 0 ∨ h = 0 ∨ 16384 < w ∨ 16384 < h ∨ bltOp d = 3 ∨ (bltOp d = 1 ∧ bltB d < 4) then 1
  else if leAt d 8 8 % 8 ≠ 0 ∨ leAt d 16 4 % 8 ≠ 0 ∨ (bltReadsS d ∧ (leAt d 32 8 % 8 ≠ 0 ∨ leAt d 40 4 % 8 ≠ 0)) ∨ (bltColour d ∧ pat % 64 ≠ 0) then 2
  else if bltEmpty d then 0
  else if !s.dxbFoot (leAt d 8 8) (bltDstFoot d) || (bltReadsS d && !s.dxbFoot (leAt d 32 8) (bltSrcFoot d)) ||
      (bltColour d && !s.dxbFoot pat (pat, (pat + 64 * bltB d : Nat) - 1)) then 3
  else if bltReadsS d && !bltSame d && shareByte (bltSrcFoot d) (bltDstFoot d) then 4
  else 0

/-! ### Starting a raster command -/

/-- Read lines for the engine: bytes, poison of each line, address that met a bus error. -/
def State.bltLines (s : State) (a n : Nat) : (List Byte × List Bool × Option Nat) × State :=
  (List.range n).foldl (fun (x : (List Byte × List Bool × Option Nat) × State) i =>
    if x.1.2.2.isSome then x
    else
      let r := x.2.dxbRead (a + i * 64) 64
      ((x.1.1 ++ r.1.data, x.1.2.1 ++ [r.1.poison], if r.1.err then some (a + i * 64) else none), r.2)) (([], [], none), s)

/-- Read one pixel: value, poison, error. -/
def State.bltPixel (s : State) (a b : Nat) : (Nat × Bool × Bool) × State :=
  let r := s.dxbRead a b
  ((leNat r.1.data, r.1.poison, r.1.err), r.2)

/-- Whether rows of the surface share bytes within the columns that a command on one surface touches: the source is then copied first
(R596). -/
def bltFolded (d : List Byte) : Bool :=
  let r := bltRect d
  let x0 := min r.x (bltSrcX d r.x)
  bltSame d && decide (leAt d 16 4 < (max r.x (bltSrcX d r.x) + r.w - x0) * bltB d)

/-- Copy the source rectangle (R596): the pixels row by row, or the address that met a bus error. -/
def State.bltCopySrc (s : State) (d : List Byte) : (List (Nat × Bool) × Option Nat) × State :=
  let r := bltRect d
  (List.range (r.w * r.h)).foldl (fun (x : (List (Nat × Bool) × Option Nat) × State) i =>
    if x.1.2.isSome then x
    else
      let a := bltSrc d (bltSrcX d (r.x + i % r.w)) (bltSrcY d (r.y + i / r.w))
      let p := x.2.bltPixel a (bltB d)
      ((x.1.1 ++ [(p.1.1, p.1.2.1)], if p.1.2.2 then some a else none), p.2)) (([], none), s)

/-- A drawing command passes its checks and starts (R594, R596, R602). -/
def State.bltStart (s : State) (d : List Byte) : State :=
  let s := (s.wr BLT_WATERMARK_ROWS (leAt d 84 2)).wr BLT_ROWS_DONE_ROWS 0
  if bltEmpty d then s.bltTo 1 (.done 0)
  else
    let p := if bltColour d then s.bltLines (leAt d 72 8) (bltB d) else (([], [], none), s)
    let s := p.2.setBlt fun b => { b with pat := p.1.1, patPoison := p.1.2.1 }
    match p.1.2.2 with
    | some a => s.bltBusErr a
    | none =>
      let c := if bltFolded d then s.bltCopySrc d else (([], none), s)
      let s := c.2.setBlt fun b => { b with snap := c.1.1 }
      match c.1.2 with
      | some a => s.bltBusErr a
      | none => s.bltTo 1 (.rows s.now)

/-- A WAIT_LINE command begins (R601). -/
def State.bltWait (s : State) (d : List Byte) : State :=
  let h := leAt d 86 1
  let line := leAt d 88 2
  if s.nHeads ≤ h ∨ s.lrd (HEAD_TIMING_V_V_TOTAL h) ≤ line then s.bltTo 1 (.done 1)
  else
    let s := (s.wr BLT_WATERMARK_ROWS (leAt d 84 2)).wr BLT_ROWS_DONE_ROWS 0
    let x := s.hd h
    if !x.gen then (s.setBlt fun b => { b with notRunning := true }).bltTo 1 (.done 0)
    else if x.line = line ∧ x.winAt = s.now then s.bltTo 1 (.done 0)
    else s.bltTo 2 (.wait h line)

/-- The engine has read a command: it parks, waits for a line, or checks and starts it (R574, R599, R601). -/
def State.bltTake (s : State) (d : List Byte) : State :=
  if !descOwn d then s.bltPark
  else if bltOp d = 2 then s.bltWait d
  else
    let e := s.bltCheck d
    if e = 0 then s.bltStart d else s.bltTo 1 (.done e)

/-- The answer to a command's read: bytes, poison of each line, address that met a bus error. Where the read fails, ERR_ADDR takes the
command's address (R600). -/
def State.bltAnswer (s : State) (a : Nat) (r : List Byte × List Bool × Option Nat) : State :=
  let d := slice r.1 0 128
  let s := s.setBlt fun b => { b with cmd := d, poison := false, notRunning := false, abort := false, pat := [], patPoison := [], snap := [] }
  if r.2.2.isSome || r.2.1.any id then s.bltBusErr a else s.bltTake d

/-- No response came to a command's read within RESP_TIMEOUT (R583, R600): nothing of it is executed, and what is written back as its bytes
is free. -/
def State.bltFetchLate (s : State) : State :=
  let r := s.freeLine
  let q := r.2.freeLine
  q.2.bltAnswer s.bltCmdAddr (r.1 ++ q.1, [], some s.bltCmdAddr)

/-- BLT_COMMAND_READ (R590, R600): the command's read returns; one that returns after RESP_TIMEOUT is discarded (R583). -/
def execBltCommandRead (s : State) : Host.Outcome State Fault Refusal :=
  .next (match s.blt.phase with
  | .fetch t => s.when s.mainUp fun s =>
    if s.dmaLate t then s.bltFetchLate else let r := s.bltLines s.bltCmdAddr 2; r.2.bltAnswer s.bltCmdAddr r.1
  | _ => s)

/-! ### Drawing (R592 to R598) -/

/-- The result of a ROP3 code on words of so many bits (R592). -/
def rop3 (code n p s d : Nat) : Nat :=
  (List.range n).foldl (fun a i =>
    if code.testBit (4 * b2n (p.testBit i) + 2 * b2n (s.testBit i) + b2n (d.testBit i)) then a + 2 ^ i else a) 0

/-- The pattern pixel of (x, y) with its poison (R594); PAT_MODE 3 has no stated pattern. -/
def State.bltPat (s : State) (d : List Byte) (x y : Nat) : (Nat × Bool) × State :=
  let b := bltB d
  let k := 8 * ((y + 256 - leAt d 81 1) % 8) + (x + 256 - leAt d 80 1) % 8
  let cut := fun v => v % 2 ^ (8 * b)
  match bltPatMode d with
  | 0 => ((cut (leAt d 56 8), false), s)
  | 1 => ((cut (if (leAt d 72 8).testBit k then leAt d 56 8 else leAt d 64 8), false), s)
  | 2 => ((leAt s.blt.pat (k * b) b, s.blt.patPoison.getD (k * b / 64) false), s)
  | _ => let r := s.freeNat; ((cut r.1, false), r.2)

/-- Write one pixel: the address that met a bus error. -/
def State.bltPut (s : State) (d : List Byte) (x y v : Nat) (poison : Bool) : Option Nat × State :=
  let a := bltDst d x y
  let r := s.dxbWrite a (leBytes (bltB d) v) poison
  if r.1 then (some a, r.2) else (none, r.2.setBlt fun b => { b with poison := b.poison || poison })

/-- The source pixel of a destination pixel of a ROP command: value, poison, error. -/
def State.bltS (s : State) (d : List Byte) (x y : Nat) : (Nat × Bool × Option Nat) × State :=
  if !bltReadsS d then ((0, false, none), s)
  else if bltFolded d then
    let r := bltRect d
    let v := s.blt.snap.getD ((y - r.y) * r.w + (x - r.x)) (0, false)
    ((v.1, v.2, none), s)
  else
    let a := bltSrc d (bltSrcX d x) (bltSrcY d y)
    let p := s.bltPixel a (bltB d)
    ((p.1.1, p.1.2.1, if p.1.2.2 then some a else none), p.2)

/-- Draw one pixel of a ROP command (R592 to R595): the address that met a bus error. -/
def State.bltRopPixel (s : State) (d : List Byte) (x y : Nat) : Option Nat × State :=
  let n := 8 * bltB d
  let mask := leAt d 104 8 % 2 ^ n
  let key := leAt d 96 8 &&& mask
  let sp := s.bltS d x y
  match sp.1.2.2 with
  | some a => (some a, sp.2)
  | none =>
    let da := bltDst d x y
    let dp := if bltReadsD d then sp.2.bltPixel da (bltB d) else ((0, false, false), sp.2)
    if dp.1.2.2 then (some da, dp.2)
    else
      let pp := dp.2.bltPat d x y
      let writes := if bltKeyMode d = 1 then decide (sp.1.1 &&& mask ≠ key) else if bltKeyMode d = 2 then decide (dp.1.1 &&& mask = key) else true
      if writes then pp.2.bltPut d x y (rop3 (bltRop d) n pp.1.1 sp.1.1 dp.1.1) (sp.1.2.1 || dp.1.2.1 || pp.1.2)
      else (none, pp.2)

/-- Draw one pixel of a REDUCE2 command (R598). -/
def State.bltReduce (s : State) (d : List Byte) (x y : Nat) : Option Nat × State :=
  let b := bltB d
  let r := [(0, 0), (1, 0), (0, 1), (1, 1)].foldl (fun (z : (List Nat × Bool × Option Nat) × State) ab =>
    if z.1.2.2.isSome then z
    else
      let a := bltSrc d (bltSrcX d x + ab.1) (bltSrcY d y + ab.2)
      let p := z.2.bltPixel a b
      ((z.1.1 ++ [p.1.1], z.1.2.1 || p.1.2.1, if p.1.2.2 then some a else none), p.2)) (([], false, none), s)
  match r.1.2.2 with
  | some a => (some a, r.2)
  | none =>
    let w := 2 * b
    let comp := fun k => ((r.1.1.map fun v => v / 2 ^ (w * k) % 2 ^ w).sum + 2) / 4
    r.2.bltPut d x y (comp 0 + comp 1 * 2 ^ w + comp 2 * 2 ^ (2 * w) + comp 3 * 2 ^ (3 * w)) r.1.2.1

/-- Pixel `i` of row `k` in the order of processing (R596). -/
def bltAt (d : List Byte) (k i : Nat) : Nat × Nat :=
  let r := bltRect d
  let up := bltSame d && decide (leAt d 46 2 < leAt d 22 2)
  let left := bltSame d && decide (leAt d 44 2 < leAt d 20 2)
  (if left then r.x + (r.w - 1 - i) else r.x + i, if up then r.y + (r.h - 1 - k) else r.y + k)

/-- Draw the first `n` pixels of row `k` in the order of processing: the address that met a bus error. -/
def State.bltRow (s : State) (d : List Byte) (k n : Nat) : Option Nat × State :=
  (List.range n).foldl (fun (z : Option Nat × State) i =>
    if z.1.isSome then z
    else
      let p := bltAt d k i
      if bltOp d = 1 then z.2.bltReduce d p.1 p.2 else z.2.bltRopPixel d p.1 p.2) (none, s)

/-- The addresses that a row reads pixel by pixel. -/
def bltRowReads (d : List Byte) (k : Nat) : List Nat :=
  (List.range (bltRect d).w).flatMap fun i =>
    let p := bltAt d k i
    (if bltReadsS d then [bltSrc d (bltSrcX d p.1) (bltSrcY d p.2)] else []) ++ (if bltReadsD d then [bltDst d p.1 p.2] else [])

/-- RESP_TIMEOUT expires while a row is drawn (R583, R600): the first pixels have been drawn, and an access of the next is not answered; which
one is a free value (log 46). -/
def State.bltRowLate (s : State) : State :=
  let d := s.blt.cmd
  let k := s.rd BLT_ROWS_DONE_ROWS
  let r := s.freeNat
  let n := r.1 % max 1 (bltRect d).w
  let z := r.2.bltRow d k n
  let q := z.2.freeNat
  let p := bltAt d k n
  q.2.bltBusErr (z.1.getD (if bltReadsS d && !bltFolded d && decide (q.1 % 2 = 0) then bltSrc d (bltSrcX d p.1) (bltSrcY d p.2)
    else bltDst d p.1 p.2))

/-- The raster engine's accesses that RESP_TIMEOUT leaves without a response as the block's clock runs (R583, R600). -/
def State.bltLate (s : State) : State :=
  match s.blt.phase with
  | .fetch t => s.when (s.mainUp && s.dmaLate t) State.bltFetchLate
  | .rows t => s.when (s.mainUp && s.dmaLate t) State.bltRowLate
  | _ => s

/-- BLT_ROW_DONE (R600, R602): the next destination row is drawn, and its writes complete; not while a LUT's synchronisation holds one of its
reads (R208), nor after RESP_TIMEOUT (R583). -/
def execBltRowDone (s : State) : Host.Outcome State Fault Refusal :=
  .next (match s.blt.phase with
  | .rows t => s.when s.mainUp fun s =>
    let d := s.blt.cmd
    let k := s.rd BLT_ROWS_DONE_ROWS
    let held := s.dxbHeld (bltRowReads d k)
    if s.dmaLate t then s.bltRowLate
    else if held.1 then held.2
    else
      let z := held.2.bltRow d k (bltRect d).w
      match z.1 with
      | some a => z.2.bltBusErr a
      | none =>
        let t := z.2.bltRowCount
        if (bltRect d).h ≤ k + 1 then t.bltTo 1 (.done 0) else if t.blt.abort then t.bltTo 1 (.done 7) else t.bltTo 1 (.rows t.now)
  | _ => s)

/-- What happens as the block's clock runs by 1 ns (log 1): time passes, and an access of the raster engine may be late. -/
def State.idle (s : State) : State := s.tick.bltLate

end Sys2Proof.Machine
end

