-- ==== Sys2Proof/Machine/Net.lean ====
section
/-! DEFINITION. The firmware's network services on the ingest ports (R368 to R371, R629): ARP, ICMP echo, IGMP queries, and the slave clock. Message
layouts are those of the standards that the spec names (log 22). -/

namespace Sys2Proof.Machine

/-! ### ARP and ICMP (R371) -/

/-- Answer an ARP request for the port's address. -/
def State.arpPacket (s : State) (p : Nat) (f : List Byte) (o : Nat) : State :=
  let d := f.drop o
  let me := s.rd (INGP_PORT_IP_ADDR p)
  if beAt d 6 2 = 1 ∧ me ≠ 0 ∧ beAt d 24 4 = me then
    let reply := slice d 8 6 ++ s.ipMac p ++ slice f 12 (o - 12) ++ slice d 0 6 ++ beBytes 2 2 ++ s.ipMac p ++ beBytes 4 me ++ slice d 8 10
    s.emit (.ingestTx p reply)
  else s

/-- Answer an ICMP echo request to the port's address. -/
def State.icmpPacket (s : State) (p : Nat) (f : List Byte) (o : Nat) : State :=
  let ip := Ip.parse (f.drop o)
  let me := s.rd (INGP_PORT_IP_ADDR p)
  if beAt ip.body 0 1 = 8 ∧ me ≠ 0 ∧ ip.dst = me ∧ ¬ ip.frag then
    let body := fun (sum : Nat) => [0, 0] ++ beBytes 2 sum ++ ip.body.drop 4
    s.emit (.ingestTx p (s.ipFrame p (slice f 6 6) [] 64 1 ip.src (body (ipSum (body 0)))))
  else s

/-- Answer an IGMP query with the port's memberships (R370). A query that lists sources asks about those: a membership in INCLUDE mode
answers with its source where it is listed, one in EXCLUDE mode, which excludes none, with all of them. -/
def State.igmpPacket (s : State) (p : Nat) (ip : Ip) : State :=
  if beAt ip.body 0 1 = 0x11 ∧ s.rd (INGP_PORT_IP_ADDR p) ≠ 0 then
    let g := beAt ip.body 4 4
    let asked := (List.range (if ip.body.length < 12 then 0 else beAt ip.body 10 2)).map fun i => beAt ip.body (12 + 4 * i) 4
    (List.range 16).foldl (fun s k =>
      let ssm := s.sFlag k 5
      (s.mcastLegs k).foldl (fun s x =>
        if ¬ (x.1 = p ∧ (g = 0 ∨ g = x.2.1)) then s
        else if asked.isEmpty then s.igmpReport p (if ssm then 1 else 2) x.2.1 (if ssm then [x.2.2] else [])
        else if !ssm then s.igmpReport p 1 x.2.1 asked
        else if x.2.2 ∈ asked then s.igmpReport p 1 x.2.1 [x.2.2] else s) s) s
  else s

/-! ### The slave clock (R368, R369, R629) -/

/-- Identity of the slave clock on a port. -/
def State.ptpIdentity (s : State) (p : Nat) : List Byte :=
  let m := s.ipMac 0
  m.take 3 ++ [0xFF, 0xFE] ++ m.drop 3 ++ beBytes 2 (p + 1)

/-- An interval of 2ⁿ s in ns, from its signed logarithm. -/
def logInterval (b : Nat) : Nat :=
  let n := max (-7) (min 7 (sext 8 b))
  if n < 0 then 1000000000 / 2 ^ n.natAbs else 1000000000 * 2 ^ n.toNat

/-- An Announce. -/
def State.ptpAnnounce (s : State) (p : Nat) (m : List Byte) : State :=
  let id := slice m 20 10
  let ds := slice m 47 16 ++ id
  let same := fun (y : Foreign) => decide (y.id = id ∧ y.port = p)
  let e : Foreign := ⟨id, beAt m 4 1, ds, p, logInterval (beAt m 33 1), s.now, (s.ingest.ptp.foreign.find? same).map fun y => y.heard.1⟩
  (s.setPtp fun x => { x with foreign := e :: x.foreign.filter fun y => !same y }).ptpElect

/-- Send a Delay_Req, multicast or unicast as the master's messages are (R368). -/
def State.ptpRequest (s : State) (p : Nat) (f : List Byte) (ip : Ip) : State :=
  let n := (s.ingest.ptp.reqSeq + 1) % 65536
  let uni := !isMcast ip.dst
  let m := [0x01, 0x02] ++ beBytes 2 44 ++ beBytes 1 (s.rd (INGP_PORT_CTRL_PTP_DOMAIN p)) ++ [0] ++ beBytes 1 (if uni then 4 else 0) ++
    List.replicate 13 0 ++ s.ptpIdentity p ++ beBytes 2 n ++ [0x01, 0x7F] ++ List.replicate 10 0
  let body := beBytes 2 319 ++ beBytes 2 319 ++ beBytes 2 (8 + m.length) ++ [0, 0] ++ m
  let dst := if uni then ip.src else 0xE0000181
  let mac := if uni then slice f 6 6 else mcastMac dst
  (s.emit (.ingestTx p (s.ipFrame p mac [] 64 17 dst body))).setPtp fun x => { x with reqSeq := n, t3 := some (n, s.time.ns) }

/-- A correction field in ns. -/
def corrNs (m : List Byte) : Int := sext 64 (beAt m 8 8) / 65536

/-- A complete exchange (R369, R629). -/
def State.ptpExchange (s : State) (off delay : Int) : State :=
  let small := decide (off.natAbs < 1000)
  let large := decide (10000 ≤ off.natAbs)
  let s := (s.wr ING_PTP_OFFSET_NS (wrap 32 (max (-2147483648) (min 2147483647 off)))).wr ING_PTP_DELAY_NS (wrap 32 delay)
  let s := s.setPtp fun x => { x with
    t1 := none
    t3 := none
    good := if small then x.good + 1 else 0
    poor := if large then x.poor + 1 else 0
    lastAt := s.now }
  let x := s.ingest.ptp
  let st := s.rd ING_PTP_STATUS_STATE
  let s := if st = 2 ∧ 16 ≤ x.poor then s.ptpState 1 else if st ≠ 2 ∧ 16 ≤ x.good then s.ptpState 2 else s
  s.offerOffset 0 off

/-- A PTP message for the slave clock. -/
def State.ptpPacket (s : State) (p : Nat) (f : List Byte) (ip : Ip) (at_ : Nat) : State :=
  let m := ip.body.drop 8
  let type := beAt m 0 1 % 16
  let x := s.ingest.ptp
  let seq := beAt m 30 2
  if !s.flag (INGP_PORT_CTRL_PTP_EN p) || decide (beAt m 1 1 % 16 ≠ 2 ∨ beAt m 4 1 ≠ s.rd (INGP_PORT_CTRL_PTP_DOMAIN p)) then s
  else if type = 0xB then s.ptpAnnounce p m
  else if x.master ≠ some (slice m 20 10) ∨ s.rd ING_PTP_STATUS_PORT ≠ p then s
  else if type = 0 then
    let two := (beAt m 6 1).testBit 1
    let s := s.setPtp fun y => { y with
      syncSeq := some seq
      t2 := at_
      corr := corrNs m
      t1 := if two then none else some (timeAt m 34)
      interval := logInterval (beAt m 33 1) }
    if two then s else s.ptpRequest p f ip
  else if type = 8 then
    if x.syncSeq = some seq ∧ x.t1.isNone then
      (s.setPtp fun y => { y with t1 := some (timeAt m 34), corr := y.corr + corrNs m }).ptpRequest p f ip
    else s
  else if type = 9 then
    match x.t1, x.t3 with
    | some t1, some (n, t3) =>
      if n = seq ∧ slice m 44 10 = s.ptpIdentity p then
        let fwd : Int := (x.t2 : Int) - t1 - x.corr
        let bwd : Int := (timeAt m 34 : Int) - corrNs m - t3
        let delay := (fwd + bwd) / 2
        s.ptpExchange (fwd - delay) delay
      else s
    | _, _ => s
  else s

/-- No exchange has completed within 4 Sync intervals (R629). -/
def State.ptpTimeout (s : State) : State :=
  if s.rd ING_PTP_STATUS_STATE ≠ 0 ∧ s.ingest.ptp.lastAt + 4 * s.ingest.ptp.interval < s.now then
    let s := (s.setPtp fun x => { x with good := 0, poor := 0, lastAt := s.now }).ptpElect
    if s.rd ING_PTP_STATUS_STATE = 2 then s.ptpState 3
    else if s.ingest.ptp.master.isNone then s.ptpState 0 else s
  else s

/-- FIRMWARE_NET_PACKET (R369 to R371): the firmware takes the oldest frame that a port has passed to it. -/
def execFirmwareNetPacket (p : Fin 4) (s : State) : Host.Outcome State Fault Refusal :=
  .next (match (if s.serving then s.ingest.net[p] else []) with
  | [] => s
  | x :: rest =>
    let s := { s with ingest := { s.ingest with net := s.ingest.net.set p rest } }
    match l3At x.bytes with
    | none => s
    | some o =>
      if etherType x.bytes = 0x0806 then s.arpPacket p x.bytes o
      else
        let ip := Ip.parse (x.bytes.drop o)
        if ip.proto = 1 then s.icmpPacket p x.bytes o
        else if ip.proto = 2 then s.igmpPacket p ip
        else s.ptpTimeout.ptpPacket p x.bytes ip x.at_)

/-- PTP_SYNC_TIMEOUT (R629). -/
def execPtpSyncTimeout (s : State) : Host.Outcome State Fault Refusal := .next (s.when s.serving State.ptpTimeout)

end Sys2Proof.Machine
end

