-- ==== Sys2Proof/Machine/Dispatch.lean ====
section
/-! DEFINITION. The meaning of each command: one arm per constructor. -/

namespace Sys2Proof.Machine

/-- The effect of a command on everything but the queue. -/
def exec (i : Instr) (s : State) : Host.Outcome State Fault Refusal :=
  match i with
  | .registerWrite off w => Sys2Proof.Machine.execRegisterWrite off w s
  | .rcRead off req => Sys2Proof.Machine.execRcRead off req s
  | .captureRead off req => Sys2Proof.Machine.execCaptureRead off req s
  | .quoinWrite w => Sys2Proof.Machine.execQuoinWrite w s
  | .switch w => Sys2Proof.Machine.execSwitch w s
  | .restart w => Sys2Proof.Machine.execRestart w s
  | .causeClear off w => Sys2Proof.Machine.execCauseClear off w s
  | .msixUnmask v => Sys2Proof.Machine.execMsixUnmask v s
  | .windowAccess off a => Sys2Proof.Machine.execWindowAccess off a s
  | .bar2Access off a => Sys2Proof.Machine.execBar2Access off a s
  | .functionLevelReset => Sys2Proof.Machine.execFunctionLevelReset s
  | .perstN => Sys2Proof.Machine.execPerstN s
  | .mbxDoorbell bits => Sys2Proof.Machine.execMbxDoorbell bits s
  | .ringDoorbell bits => Sys2Proof.Machine.execRingDoorbell bits s
  | .doneClear w => Sys2Proof.Machine.execDoneClear w s
  | .deviceInfo => Sys2Proof.Machine.execDeviceInfo s
  | .echo => Sys2Proof.Machine.execEcho s
  | .coreSwitch => Sys2Proof.Machine.execCoreSwitch s
  | .coreRestart => Sys2Proof.Machine.execCoreRestart s
  | .heartbeat => Sys2Proof.Machine.execHeartbeat s
  | .hbTimeout => Sys2Proof.Machine.execHbTimeout s
  | .coreFault => Sys2Proof.Machine.execCoreFault s
  | .firmwareResume => Sys2Proof.Machine.execFirmwareResume s
  | .handover => Sys2Proof.Machine.execHandover s
  | .standbySelftestDone pass => Sys2Proof.Machine.execStandbySelftestDone pass s
  | .standbyReady => Sys2Proof.Machine.execStandbyReady s
  | .ringMbxTimeout m => Sys2Proof.Machine.execRingMbxTimeout m s
  | .layerDefine => Sys2Proof.Machine.execLayerDefine s
  | .layerColour => Sys2Proof.Machine.execLayerColour s
  | .layerScaler => Sys2Proof.Machine.execLayerScaler s
  | .layerLut => Sys2Proof.Machine.execLayerLut s
  | .layerKey => Sys2Proof.Machine.execLayerKey s
  | .layerFlip => Sys2Proof.Machine.execLayerFlip s
  | .formeCommit => Sys2Proof.Machine.execFormeCommit s
  | .formeGroupCommit => Sys2Proof.Machine.execFormeGroupCommit s
  | .headLut => Sys2Proof.Machine.execHeadLut s
  | .setTiming => Sys2Proof.Machine.execSetTiming s
  | .headRun => Sys2Proof.Machine.execHeadRun s
  | .headReef => Sys2Proof.Machine.execHeadReef s
  | .headWriteback => Sys2Proof.Machine.execHeadWriteback s
  | .commit h w => Sys2Proof.Machine.execCommit h w s
  | .commitGroup h w => Sys2Proof.Machine.execCommitGroup h w s
  | .headCtrlEn h w => Sys2Proof.Machine.execHeadCtrlEn h w s
  | .headCtrlReef h w => Sys2Proof.Machine.execHeadCtrlReef h w s
  | .headCtrlHold h w => Sys2Proof.Machine.execHeadCtrlHold h w s
  | .statsClr h w => Sys2Proof.Machine.execStatsClr h w s
  | .latch h => Sys2Proof.Machine.execLatch h s
  | .lineWindowStart h => Sys2Proof.Machine.execLineWindowStart h s
  | .lineComplete h => Sys2Proof.Machine.execLineComplete h s
  | .lineDeadline h => Sys2Proof.Machine.execLineDeadline h s
  | .slugQueue h => Sys2Proof.Machine.execSlugQueue h s
  | .headStop h => Sys2Proof.Machine.execHeadStop h s
  | .headRestart h => Sys2Proof.Machine.execHeadRestart h s
  | .release h => Sys2Proof.Machine.execRelease h s
  | .waitLinesExpire l => Sys2Proof.Machine.execWaitLinesExpire l s
  | .wbFrameComplete h => Sys2Proof.Machine.execWbFrameComplete h s
  | .cabinetMapLoad => Sys2Proof.Machine.execCabinetMapLoad s
  | .sheetPortSet => Sys2Proof.Machine.execSheetPortSet s
  | .sheetPing => Sys2Proof.Machine.execSheetPing s
  | .pingTimeout p => Sys2Proof.Machine.execPingTimeout p s
  | .pairModeWrite k w => Sys2Proof.Machine.execPairModeWrite k w s
  | .sheetTransmit p => Sys2Proof.Machine.execSheetTransmit p s
  | .sheetReceive p f => Sys2Proof.Machine.execSheetReceive p f s
  | .statusHandoff p => Sys2Proof.Machine.execStatusHandoff p s
  | .loopProbe p => Sys2Proof.Machine.execLoopProbe p s
  | .probeMissing p => Sys2Proof.Machine.execProbeMissing p s
  | .sheetLinkDown p => Sys2Proof.Machine.execSheetLinkDown p s
  | .sheetLinkUp p => Sys2Proof.Machine.execSheetLinkUp p s
  | .ingestPortSet => Sys2Proof.Machine.execIngestPortSet s
  | .streamDefine => Sys2Proof.Machine.execStreamDefine s
  | .ingestReceive p f => Sys2Proof.Machine.execIngestReceive p f s
  | .streamLost h => Sys2Proof.Machine.execStreamLost h s
  | .lineCutoff l => Sys2Proof.Machine.execLineCutoff l s
  | .firmwareNetPacket p => Sys2Proof.Machine.execFirmwareNetPacket p s
  | .ptpSyncTimeout => Sys2Proof.Machine.execPtpSyncTimeout s
  | .ringJoin => Sys2Proof.Machine.execRingJoin s
  | .ringLeave => Sys2Proof.Machine.execRingLeave s
  | .ringMembers => Sys2Proof.Machine.execRingMembers s
  | .ringCopy => Sys2Proof.Machine.execRingCopy s
  | .ringWbRelay => Sys2Proof.Machine.execRingWbRelay s
  | .ringSchedSet => Sys2Proof.Machine.execRingSchedSet s
  | .ringGateSet => Sys2Proof.Machine.execRingGateSet s
  | .ringPoliceSet => Sys2Proof.Machine.execRingPoliceSet s
  | .ringReceive p frame => Sys2Proof.Machine.execRingReceive p frame s
  | .beacon p => Sys2Proof.Machine.execBeacon p s
  | .beaconSend => Sys2Proof.Machine.execBeaconSend s
  | .beaconLoss rid => Sys2Proof.Machine.execBeaconLoss rid s
  | .pdelaySend p => Sys2Proof.Machine.execPdelaySend p s
  | .pdelayReq p => Sys2Proof.Machine.execPdelayReq p s
  | .pdelayResp p => Sys2Proof.Machine.execPdelayResp p s
  | .syncSend => Sys2Proof.Machine.execSyncSend s
  | .sync p => Sys2Proof.Machine.execSync p s
  | .mbxCmd p => Sys2Proof.Machine.execMbxCmd p s
  | .mbxResp p => Sys2Proof.Machine.execMbxResp p s
  | .wrapNotice p => Sys2Proof.Machine.execWrapNotice p s
  | .bulk p => Sys2Proof.Machine.execBulk p s
  | .bulkDone p => Sys2Proof.Machine.execBulkDone p s
  | .bulkAck p => Sys2Proof.Machine.execBulkAck p s
  | .bulkAckTimeout => Sys2Proof.Machine.execBulkAckTimeout s
  | .pixel p => Sys2Proof.Machine.execPixel p s
  | .ringLockLoss p => Sys2Proof.Machine.execRingLockLoss p s
  | .ringLockRegain p => Sys2Proof.Machine.execRingLockRegain p s
  | .ringFault p => Sys2Proof.Machine.execRingFault p s
  | .portClean p => Sys2Proof.Machine.execPortClean p s
  | .unwrap p => Sys2Proof.Machine.execUnwrap p s
  | .ringEgress p => Sys2Proof.Machine.execRingEgress p s
  | .install p w => Sys2Proof.Machine.execInstall p w s
  | .gateListStart p => Sys2Proof.Machine.execGateListStart p s
  | .gateEntryAdvance p => Sys2Proof.Machine.execGateEntryAdvance p s
  | .shroudHeartbeat => Sys2Proof.Machine.execShroudHeartbeat s
  | .shroudHbTimeout => Sys2Proof.Machine.execShroudHbTimeout s
  | .takeover w => Sys2Proof.Machine.execTakeover w s
  | .bypass w => Sys2Proof.Machine.execBypass w s
  | .shroudFault => Sys2Proof.Machine.execShroudFault s
  | .shroudPorEnd => Sys2Proof.Machine.execShroudPorEnd s
  | .auxRailChange vaux vaux18 => Sys2Proof.Machine.execAuxRailChange vaux vaux18 s
  | .handbackLock => Sys2Proof.Machine.execHandbackLock s
  | .handbackListenEnd => Sys2Proof.Machine.execHandbackListenEnd s
  | .handbackCheckEnd clean => Sys2Proof.Machine.execHandbackCheckEnd clean s
  | .handbackMatchEnd p => Sys2Proof.Machine.execHandbackMatchEnd p s
  | .handbackSwitch p => Sys2Proof.Machine.execHandbackSwitch p s
  | .joinComplete => Sys2Proof.Machine.execJoinComplete s
  | .leaveSwitch => Sys2Proof.Machine.execLeaveSwitch s
  | .dsmRead req line upsets => Sys2Proof.Machine.execDsmRead req line upsets s
  | .dsmWrite req addr data poison => Sys2Proof.Machine.execDsmWrite req addr data poison s
  | .sealPage page => Sys2Proof.Machine.execSealPage page s
  | .regionRegisterWrite k r w => Sys2Proof.Machine.execRegionRegisterWrite k r w s
  | .recurClr w => Sys2Proof.Machine.execRecurClr w s
  | .override w => Sys2Proof.Machine.execOverride w s
  | .memConfig => Sys2Proof.Machine.execMemConfig s
  | .dsmOverride => Sys2Proof.Machine.execDsmOverride s
  | .dsmRegionAlloc => Sys2Proof.Machine.execDsmRegionAlloc s
  | .dsmRegionFree => Sys2Proof.Machine.execDsmRegionFree s
  | .scrub => Sys2Proof.Machine.execScrub s
  | .scrubRead => Sys2Proof.Machine.execScrubRead s
  | .dsmRepair adc => Sys2Proof.Machine.execDsmRepair adc s
  | .repairCopy => Sys2Proof.Machine.execRepairCopy s
  | .repairSwitch => Sys2Proof.Machine.execRepairSwitch s
  | .ddrScrub => Sys2Proof.Machine.execDdrScrub s
  | .ddrScrubRead q => Sys2Proof.Machine.execDdrScrubRead q s
  | .memSlotRetire => Sys2Proof.Machine.execMemSlotRetire s
  | .retireDrained c => Sys2Proof.Machine.execRetireDrained c s
  | .memSlotRestore => Sys2Proof.Machine.execMemSlotRestore s
  | .resilverCopy c q => Sys2Proof.Machine.execResilverCopy c q s
  | .ddrRequest realTime r addr op => Sys2Proof.Machine.execDdrRequest realTime r addr op s
  | .ddrCommandSlot c => Sys2Proof.Machine.execDdrCommandSlot c s
  | .ddrReadReturn c q => Sys2Proof.Machine.execDdrReadReturn c q s
  | .refreshDue c rank => Sys2Proof.Machine.execRefreshDue c rank s
  | .hammerWindow => Sys2Proof.Machine.execHammerWindow s
  | .refreshStatusPoll c hot => Sys2Proof.Machine.execRefreshStatusPoll c hot s
  | .selfRefreshEntry c => Sys2Proof.Machine.execSelfRefreshEntry c s
  | .caParityReport c recurring => Sys2Proof.Machine.execCaParityReport c recurring s
  | .dqsOscRead c drifts => Sys2Proof.Machine.execDqsOscRead c drifts s
  | .trainGo c w => Sys2Proof.Machine.execTrainGo c w s
  | .trainDone c pass errs => Sys2Proof.Machine.execTrainDone c pass errs s
  | .pmicWaitEnd c spd => Sys2Proof.Machine.execPmicWaitEnd c spd s
  | .slotPwr c w => Sys2Proof.Machine.execSlotPwr c w s
  | .initStart w => Sys2Proof.Machine.execInitStart w s
  | .fillGranule => Sys2Proof.Machine.execFillGranule s
  | .dmaChannelSet => Sys2Proof.Machine.execDmaChannelSet s
  | .dmaChannelCtrl => Sys2Proof.Machine.execDmaChannelCtrl s
  | .bltQueueSet => Sys2Proof.Machine.execBltQueueSet s
  | .dmaDoorbell c => Sys2Proof.Machine.execDmaDoorbell c s
  | .dmaChEn c w => Sys2Proof.Machine.execDmaChEn c w s
  | .dmaResume c w => Sys2Proof.Machine.execDmaResume c w s
  | .dmaAbort c w => Sys2Proof.Machine.execDmaAbort c w s
  | .dmaHeadWrite c w => Sys2Proof.Machine.execDmaHeadWrite c w s
  | .dmaDescriptorRead c => Sys2Proof.Machine.execDmaDescriptorRead c s
  | .dmaBurst => Sys2Proof.Machine.execDmaBurst s
  | .dmaResponse c => Sys2Proof.Machine.execDmaResponse c s
  | .dmaRespTimeout c => Sys2Proof.Machine.execDmaRespTimeout c s
  | .dmaDescriptorDone c => Sys2Proof.Machine.execDmaDescriptorDone c s
  | .dreq n => Sys2Proof.Machine.execDreq n s
  | .swreq w => Sys2Proof.Machine.execSwreq w s
  | .bltDoorbell w => Sys2Proof.Machine.execBltDoorbell w s
  | .bltCommandRead => Sys2Proof.Machine.execBltCommandRead s
  | .bltRowDone => Sys2Proof.Machine.execBltRowDone s
  | .bltCommandDone => Sys2Proof.Machine.execBltCommandDone s
  | .bltAbort w => Sys2Proof.Machine.execBltAbort w s
  | .timeConfig => Sys2Proof.Machine.execTimeConfig s
  | .timeGet => Sys2Proof.Machine.execTimeGet s
  | .genlockSet => Sys2Proof.Machine.execGenlockSet s
  | .clockOutSet => Sys2Proof.Machine.execClockOutSet s
  | .hpllFbWrite n frac w => Sys2Proof.Machine.execHpllFbWrite n frac w s
  | .pllLock n => Sys2Proof.Machine.execPllLock n s
  | .pllUnlock n => Sys2Proof.Machine.execPllUnlock n s
  | .rampGo n w => Sys2Proof.Machine.execRampGo n w s
  | .rampSegmentEnd n => Sys2Proof.Machine.execRampSegmentEnd n s
  | .syncEdge => Sys2Proof.Machine.execSyncEdge s
  | .genlockEdge => Sys2Proof.Machine.execGenlockEdge s
  | .genlockLoss => Sys2Proof.Machine.execGenlockLoss s
  | .setGo w => Sys2Proof.Machine.execSetGo w s
  | .timeDiscipline => Sys2Proof.Machine.execTimeDiscipline s
  | .holdoverExpire => Sys2Proof.Machine.execHoldoverExpire s
  | .holdupSet adc => Sys2Proof.Machine.execHoldupSet adc s
  | .fwStage => Sys2Proof.Machine.execFwStage s
  | .fwSwap => Sys2Proof.Machine.execFwSwap s
  | .swapTimeout => Sys2Proof.Machine.execSwapTimeout s
  | .thermalSet => Sys2Proof.Machine.execThermalSet s
  | .deviceReset => Sys2Proof.Machine.execDeviceReset s
  | .deviceResetDelay => Sys2Proof.Machine.execDeviceResetDelay s
  | .resetCtrlMain w => Sys2Proof.Machine.execResetCtrlMain w s
  | .nvCommitStart adc => Sys2Proof.Machine.execNvCommitStart adc s
  | .nvCommitDone => Sys2Proof.Machine.execNvCommitDone s
  | .commitRetry adc => Sys2Proof.Machine.execCommitRetry adc s
  | .flashErase => Sys2Proof.Machine.execFlashErase s
  | .pwrFailNFall => Sys2Proof.Machine.execPwrFailNFall s
  | .pwrFailNRise adc => Sys2Proof.Machine.execPwrFailNRise adc s
  | .porstNAssert => Sys2Proof.Machine.execPorstNAssert s
  | .porstNRelease straps => Sys2Proof.Machine.execPorstNRelease straps s
  | .bootStageComplete fail => Sys2Proof.Machine.execBootStageComplete fail s
  | .mainRailFault => Sys2Proof.Machine.execMainRailFault s
  | .tempSample q => Sys2Proof.Machine.execTempSample q s
  | .thermalTrip => Sys2Proof.Machine.execThermalTrip s
  | .eventReport => Sys2Proof.Machine.execEventReport s
  | .rdSeqWrite w => Sys2Proof.Machine.execRdSeqWrite w s
  | .fecClr w => Sys2Proof.Machine.execFecClr w s
  | .persistFlush => Sys2Proof.Machine.execPersistFlush s
  | .logConfig => Sys2Proof.Machine.execLogConfig s
  | .logFlush => Sys2Proof.Machine.execLogFlush s
  | .logReadPersisted => Sys2Proof.Machine.execLogReadPersisted s
  | .lutSyncDone t => Sys2Proof.Machine.execLutSyncDone t s
  | .timeValidLoss => Sys2Proof.Machine.execTimeValidLoss s
  | .legLost h leg => Sys2Proof.Machine.execLegLost h leg s
  | .mainRailGood => Sys2Proof.Machine.execMainRailGood s
  | .boundaryScan on => Sys2Proof.Machine.execBoundaryScan on s

end Sys2Proof.Machine
end

