-- ==== Sys2Proof/Safety.lean ====
section
/-! DEFINITION. What counts as a well-kept state, and the words the statements use: which row writes which register, when a write is
accepted, when the firmware begins a command. -/

namespace Sys2Proof.Machine

/-- Registers, live copies, memory, poison marks and captured words are in canonical form, the queue and the part as given. -/
structure State.Kept (q : List Instr) (p : Part) (s : State) : Prop where
  queue : s.pending = q
  part : s.part = p
  regs : Sparse.wf resetWord s.regs = true
  live : Sparse.wf resetWord s.live = true
  mem : Memory.wf s.mem = true
  poisoned : Sparse.wf (fun _ => false) s.poisoned = true
  capture : Sparse.wf (fun _ => (0 : Word)) s.capture = true

/-- The invariant that every step keeps: every sparse store in its canonical form. -/
def State.Inv (s : State) : Prop := s.Kept s.pending s.part

/-- The command answers a next state of which `P` holds. -/
def Runs (i : Instr) (s : State) (P : State → Prop) : Prop := ∃ t, exec i s = .next t ∧ P t

/-- Two states differ in registers only, and in those of the listed offsets at most. -/
def State.RegsOnly (s t : State) (offs : List Nat) : Prop := t = { s with regs := t.regs } ∧ ∀ o, o ∉ offs → t.reg o = s.reg o

/-! ### Rows that write one register -/

/-- The offset and the write of a row that writes one register. -/
def writeOf : Instr → Option (Nat × RegWrite)
  | .registerWrite off w => some (off, w)
  | .quoinWrite w => some (GLB_QUOIN_KEY.off, w)
  | .switch w => some (GLB_CORE_CTRL_SWITCH.off, w)
  | .restart w => some (GLB_CORE_CTRL_RESTART.off, w)
  | .causeClear off w => some (off, w)
  | .doneClear w => some (MBX_DONE_HOST.off, w)
  | .commit h w => some ((HEAD_COMMIT_GO h).off, w)
  | .commitGroup h w => some ((HEAD_COMMIT_GROUP h).off, w)
  | .headCtrlEn h w => some ((HEAD_CTRL_EN h).off, w)
  | .headCtrlReef h w => some ((HEAD_CTRL_REEF h).off, w)
  | .headCtrlHold h w => some ((HEAD_CTRL_HOLD h).off, w)
  | .statsClr h w => some ((HEAD_STATS_CLR_CLR h).off, w)
  | .pairModeWrite k w => some ((SP_PAIR_MODE (2 * k)).off, w)
  | .install p w => some ((HLYQ_GATE_CTRL_INSTALL p).off, w)
  | .takeover w => some (SHD_CTRL_TAKEOVER.off, w)
  | .bypass w => some (SHD_CTRL_BYPASS.off, w)
  | .regionRegisterWrite k r w => some (((DSM_REG_BASE_BASE k).off + 4 * r.val), w)
  | .recurClr w => some (DSM_RECUR_CLR_ENTRY.off, w)
  | .override w => some (DSM_SELFTEST_OVERRIDE.off, w)
  | .trainGo c w => some ((DMC_TRAIN_CTRL_GO c).off, w)
  | .slotPwr c w => some ((DMC_SLOT_PWR_EN c).off, w)
  | .initStart w => some (DMC0_INIT_CTRL_START.off, w)
  | .dmaChEn c w => some ((DMACH_CH_CTRL_EN c).off, w)
  | .dmaResume c w => some ((DMACH_CH_CTRL_RESUME c).off, w)
  | .dmaAbort c w => some ((DMACH_CH_CTRL_ABORT c).off, w)
  | .dmaHeadWrite c w => some ((DMACH_HEAD_INDEX c).off, w)
  | .swreq w => some (DMA_SWREQ_REQ.off, w)
  | .bltDoorbell w => some (BLT_DOORBELL_RING.off, w)
  | .bltAbort w => some (BLT_CTRL_ABORT.off, w)
  | .hpllFbWrite n frac w => some ((if frac then (HPLL_FRAC_FB_FRAC n).off else (HPLL_FB_FB_INT n).off), w)
  | .rampGo n w => some ((HPLL_RAMP_CTRL_GO n).off, w)
  | .setGo w => some (TSY_SET_GO_GO.off, w)
  | .resetCtrlMain w => some (PWR_RESET_CTRL_MAIN.off, w)
  | .rdSeqWrite w => some (EVT_RD_SEQ_SEQ.off, w)
  | .fecClr w => some (EVT_FEC_CLR_CLASS.off, w)
  | _ => none

/-- A write that register space takes: the main die runs, the writer is not a core held in reset, every byte is enabled, the data
carry no poison (R52, R98, R718). -/
structure State.Accepts (s : State) (w : RegWrite) : Prop where
  up : s.mainUp = true
  awake : s.heldCore w.req = false
  whole : w.be = 0xF
  clean : w.poison = false

/-- The machine when an accepted write to the register at an offset has arrived, before the register's own effect: the writer's
arm is gone (R55), EXPERT marks are set (R34), an unarmed write to a key-guarded register is counted (R57). -/
def State.arrived (s : State) (off : Nat) (w : RegWrite) : State :=
  match regAt off with
  | none => s.setArm w.req false
  | some a => (s.setArm w.req false).arrive off a w (s.armed w.req)

/-- The machine at which an accepted write takes effect: on the pages of heads and layers a latch that is due has come first (R180,
R236). -/
def State.taken (s : State) (off : Nat) (w : RegWrite) : State :=
  match regAt off with
  | none => s.arrived off w
  | some a => (s.arrived off w).beforeWrite off a w.val

/-! ### Rows that are mailbox commands -/

/-- The command code of a row that is a mailbox command. -/
def codeOf : Instr → Option Nat
  | .deviceInfo => some 0x0101
  | .echo => some 0x0102
  | .coreSwitch => some 0x0110
  | .coreRestart => some 0x0111
  | .layerDefine => some 0x0201
  | .layerColour => some 0x0202
  | .layerScaler => some 0x0203
  | .layerLut => some 0x0204
  | .layerKey => some 0x0205
  | .layerFlip => some 0x0210
  | .formeCommit => some 0x0230
  | .formeGroupCommit => some 0x0231
  | .headLut => some 0x0240
  | .setTiming => some 0x0301
  | .headRun => some 0x0302
  | .headReef => some 0x0310
  | .headWriteback => some 0x0320
  | .cabinetMapLoad => some 0x0401
  | .sheetPortSet => some 0x0410
  | .sheetPing => some 0x0420
  | .ingestPortSet => some 0x0501
  | .streamDefine => some 0x0510
  | .ringJoin => some 0x0601
  | .ringLeave => some 0x0602
  | .ringMembers => some 0x0603
  | .ringCopy => some 0x0620
  | .ringWbRelay => some 0x0630
  | .ringSchedSet => some 0x0640
  | .ringGateSet => some 0x0641
  | .ringPoliceSet => some 0x0642
  | .memConfig => some 0x0701
  | .dsmOverride => some 0x0702
  | .dsmRegionAlloc => some 0x0710
  | .dsmRegionFree => some 0x0711
  | .scrub => some 0x0720
  | .ddrScrub => some 0x0721
  | .dsmRepair _ => some 0x0730
  | .memSlotRetire => some 0x0740
  | .memSlotRestore => some 0x0741
  | .dmaChannelSet => some 0x0801
  | .dmaChannelCtrl => some 0x0802
  | .bltQueueSet => some 0x0810
  | .timeConfig => some 0x0901
  | .timeGet => some 0x0902
  | .genlockSet => some 0x0910
  | .clockOutSet => some 0x0920
  | .holdupSet _ => some 0x0A01
  | .fwStage => some 0x0A10
  | .fwSwap => some 0x0A11
  | .thermalSet => some 0x0A20
  | .deviceReset => some 0x0A30
  | .logConfig => some 0x0B01
  | .logFlush => some 0x0B10
  | .logReadPersisted => some 0x0B11
  | _ => none

/-- The firmware's oldest copied command has the given code, is not a repeat, has the LEN of its row, and is meant for this device:
the conditions under which the row performs it (R71, R74, R83, R86). -/
structure State.Begins (s : State) (code : Nat) (c : FwCmd) (rest : List FwCmd) : Prop where
  serving : s.serving = true
  queue : s.fw.queue = c :: rest
  code : c.cmd = code
  fresh : s.replayOf c = none
  len : lenOk c.cmd c.len c.payload = true
  room : c.len ≤ lenMax c.src
  mine : ∀ n, c.src = .ring n → c.dest = s.ringId ∧ c.dest ≠ 0 ∧ c.timeout ≠ 0 ∧ s.joined = true

end Sys2Proof.Machine
end

