-- ==== Sys2Proof/Certificates/Slice0/Obligations.lean ====
section
/-! DEFINITION. The statements about the model, for the provers. Most are per family of commands: an equation with the state that the
rules give, or what holds of it and what it leaves unchanged. -/

open Sys2Proof Sys2Proof.Machine

/-! ### The machine -/

/-- A step performs the command at the front of the queue on the machine whose queue is the rest, and answers its outcome. The queue and
the step are the model's form of a block that takes commands. -/
def Obligations.StepRunsFront : Prop :=
  ∀ (c : Instr) (rest : List Instr) (s : State), s.pending = c :: rest → step s = exec c { s with pending := rest }

/-- On an empty queue a step lets one nanosecond pass (log 1, the model's choice): the clock that never steps advances by one; registers,
memory and the queue stay where no head PLL is about to restart and no access of the raster engine becomes late; device time advances by
one nanosecond when FREQ_ADJ is 0 and the main die runs. An access of the raster engine that has no response within RESP_TIMEOUT is late
(R583). -/
def Obligations.StepIdleTick : Prop :=
  ∀ s : State, s.pending = [] →
    let limit := ceilDiv (s.rd DMA_RESP_TIMEOUT_CYCLES * 5) 4
    ((∀ n : Fin 4, (s.pll n).syncAt = none) →
      (∀ since, s.blt.phase = .fetch since ∨ s.blt.phase = .rows since → s.now < since + limit) → ∃ t, step s = .next t ∧
        t.now = s.now + 1 ∧ t = { s with now := t.now, time := t.time } ∧
        (s.rd TSY_FREQ_ADJ_PPB = 0 → s.mainUp = true → 0 ≤ s.time.frac → s.time.frac < 1000000000 →
          t.time.ns = (s.time.ns + 1) % (2 ^ 48 * 1000000000))) ∧
    (∀ since, s.mainUp = true → since + limit ≤ s.now →
      (s.blt.phase = .fetch since → step s = .next s.tick.bltFetchLate) ∧ (s.blt.phase = .rows since → step s = .next s.tick.bltRowLate))

/-- Reset leaves every register at its reset word and nothing captured, listed or waiting; the values that the spec does not give are the
model's (log 10). The machine after reset is well kept. -/
def Obligations.ResetState : Prop :=
  ((∀ off, State.reset.reg off = resetWord off) ∧ (∀ off, State.reset.lreg off = resetWord off) ∧
  (∀ a, State.reset.byte a = memReset a) ∧ State.reset.pending = [] ∧ State.reset.out = [] ∧
  State.reset.rd GLB_CORE_HB_HB_TIMEOUT = 50 ∧ State.reset.rd SHD_HB_TIMEOUT = 10 ∧ State.reset.rd PWR_BOOT_STATUS_STAGE = 0) ∧
  (State.reset.Inv)

/-- Every step from a well-kept state answers a next state that is well kept: every sparse store stays in its canonical form. -/
def Obligations.StepKeepsInv : Prop := ∀ s : State, s.Inv → ∃ t, step s = .next t ∧ t.Inv

/-- Every command, whatever its operands, answers a next state from a well-kept state; it leaves the queue and the part as they are, and
what it leaves is well kept. -/
def Obligations.ExecKeepsQueue : Prop :=
  ∀ (c : Instr) (s : State), s.Inv → ∃ t, exec c s = .next t ∧ t.Inv ∧ t.pending = s.pending ∧ t.part = s.part

/-! ### Registers, memory, byte order -/

/-- A field reads back what is written to it, in its width; every other register, and every field of the same register that lies beside
it, stays as it was. A counter field adds and stops at its highest value (R57 names GLB.QUOIN_MISS; the other counters of the tables do
the same). -/
def Obligations.FieldReadsBack : Prop :=
  (∀ (s : State) (f : Fld) (v : Nat), s.Inv → 0 < f.width → f.lsb + f.width ≤ 32 →
    (s.wr f v).rd f = v % 2 ^ f.width ∧
    s.RegsOnly (s.wr f v) [f.off] ∧
    ∀ g : Fld, g.off = f.off → g.lsb + g.width ≤ f.lsb ∨ (f.lsb + f.width ≤ g.lsb ∧ g.lsb + g.width ≤ 32) →
      (s.wr f v).rd g = s.rd g) ∧
  (∀ (s : State) (f : Fld) (n : Nat), s.Inv → 0 < f.width → f.lsb + f.width ≤ 32 →
    (s.count f n).rd f = min (s.rd f + n) (2 ^ f.width - 1) ∧ s.RegsOnly (s.count f n) [f.off])

/-- Bytes that are stored read back; every other byte of memory, and everything that is not memory, stays as it was. Numbers in memory are
little-endian and numbers in frames are big-endian: reading back a number written in `n` bytes gives it, modulo 256 to the `n`, and its
first byte is the least significant one, or the most significant one. -/
def Obligations.BytesReadBack : Prop :=
  (∀ (s : State) (a : Nat) (d : List Byte), s.Inv →
    (s.setBytes a d).bytes a d.length = d ∧
    (∀ k, k < a ∨ a + d.length ≤ k → (s.setBytes a d).byte k = s.byte k) ∧
    s.setBytes a d = { s with mem := (s.setBytes a d).mem }) ∧
  (∀ n v : Nat,
    leNat (leBytes n v) = v % 256 ^ n ∧ beNat (beBytes n v) = v % 256 ^ n ∧ (leBytes n v).length = n ∧
    (leBytes (n + 1) v).head? = some (BitVec.ofNat 8 v) ∧ (beBytes (n + 1) v).getLast? = some (BitVec.ofNat 8 v))

/-! ### Register space -/

/-- A register write whose byte enables are not all set, by whichever row it comes: nothing happens but the count in
GLB.ACCESS_ERR.PARTIAL_WRITES; no Quoin arm changes. -/
def Obligations.PartialWriteIgnored : Prop :=
  ∀ (i : Instr) (off : Nat) (w : RegWrite) (s : State), writeOf i = some (off, w) →
    s.Inv → s.mainUp = true → s.heldCore w.req = false → w.be ≠ 0xF →
    Runs i s fun t => t.rd GLB_ACCESS_ERR_PARTIAL_WRITES = min (s.rd GLB_ACCESS_ERR_PARTIAL_WRITES + 1) 65535 ∧
      s.RegsOnly t [GLB_ACCESS_ERR_PARTIAL_WRITES.off] ∧ ∀ r, t.armed r = s.armed r

/-- QUOIN_WRITE: a write of GLB.QUOIN arms its writer's Quoin when bits [15:0] are 0x7E3A and disarms it otherwise; no other requester's
arm and no other register changes. An accepted write arrives: the writer's arm is gone, every other requester keeps its own, and beside
GLB.QUOIN only the count of missed key writes and EXPERT marks change; an unarmed write to a key-guarded register counts once; the host's
write of a register that the firmware rewrites of its own accord is remembered. -/
def Obligations.QuoinWriteArms : Prop :=
  (∀ (w : RegWrite) (s : State), s.Inv → s.Accepts w →
    Runs (.quoinWrite w) s fun t => t.armed w.req = decide (w.val.toNat % 65536 = 0x7E3A) ∧
      (∀ r, r ≠ w.req → t.armed r = s.armed r) ∧ s.RegsOnly t [GLB_QUOIN_KEY.off]) ∧
  (∀ (off : Nat) (w : RegWrite) (s : State), s.Inv →
    (s.arrived off w).armed w.req = false ∧ (∀ r, r ≠ w.req → (s.arrived off w).armed r = s.armed r) ∧
    (s.arrived off w = { s with regs := (s.arrived off w).regs, hostRegs := (s.arrived off w).hostRegs }) ∧
    (∀ o, o ∈ (s.arrived off w).hostRegs ↔
      o ∈ s.hostRegs ∨ o = off ∧ w.req = .host ∧ ownReg off = true ∧ (regAt off).isSome = true) ∧
    (∀ o, o ∉ [GLB_QUOIN_KEY.off, GLB_QUOIN_MISS_COUNT.off] ++ (List.range 4).map (fun h => (HEAD_STATUS_EXPERT h).off) →
      (s.arrived off w).reg o = s.reg o) ∧
    ∀ a, regAt off = some a → (s.arrived off w).rd GLB_QUOIN_MISS_COUNT =
      if s.armed w.req = false ∧ a.row.fields.any (fun f => f.acc = .kg) then min (s.rd GLB_QUOIN_MISS_COUNT + 1) 65535
      else s.rd GLB_QUOIN_MISS_COUNT)

/-- A write to a key-guarded register, by whichever row it comes, from a requester whose Quoin is not armed is ignored and counts once in
GLB.QUOIN_MISS.COUNT; the write marks no head. -/
def Obligations.UnarmedGuardedWrite : Prop :=
  ∀ (i : Instr) (off : Nat) (w : RegWrite) (s : State), writeOf i = some (off, w) →
    (off ∈ [GLB_CORE_CTRL_SWITCH.off, GLB_CORE_HB_HB_TIMEOUT.off, DSM_SELFTEST_OVERRIDE.off, DSM_INJECT_ADDR_LINE.off, DSM_INJECT_CTRL_MODE.off,
        TSY_SET_SEC_LO_SEC.off, TSY_SET_SEC_HI_SEC.off, TSY_SET_NS_NS.off, TSY_SET_GO_GO.off, PWR_RESET_CTRL_MAIN.off, SHD_CTRL_TAKEOVER.off,
        SHD_HB_TIMEOUT.off] ∨ ∃ c : Fin 4, c.val < s.nDdr ∧ off = (DMC_SLOT_PWR_EN c).off) →
    s.Inv → s.Accepts w → s.armed w.req = false →
    Runs i s fun t => t.rd GLB_QUOIN_MISS_COUNT = min (s.rd GLB_QUOIN_MISS_COUNT + 1) 65535 ∧
      s.RegsOnly t [GLB_QUOIN_KEY.off, GLB_QUOIN_MISS_COUNT.off]

/-- With the Quoin open the rows that write key-guarded registers take effect: CORE_CTRL requests a handover or a restart, SHD.CTRL sets
BYPASS and takes the ring over, SELFTEST overrides, SLOT_PWR switches the slot, SET_GO sets device time, RESET_CTRL resets the main die.
-/
def Obligations.ArmedGuardedWrite : Prop :=
  ∀ (w : RegWrite) (s : State), s.Accepts w → s.armed w.req = true →
    (exec (.switch w) s = .next ((s.arrived GLB_CORE_CTRL_SWITCH.off w).coreCtrl w.val.toNat)) ∧
    (exec (.restart w) s = .next ((s.arrived GLB_CORE_CTRL_RESTART.off w).coreCtrl w.val.toNat)) ∧
    (exec (.takeover w) s = .next ((s.arrived SHD_CTRL_TAKEOVER.off w).shdCtrl w.val.toNat)) ∧
    (exec (.bypass w) s = .next ((s.arrived SHD_CTRL_BYPASS.off w).shdCtrl w.val.toNat)) ∧
    (w.val.toNat.testBit 0 = true →
      exec (.override w) s = .next (s.arrived DSM_SELFTEST_OVERRIDE.off w).dsmOverride ∧
      exec (.setGo w) s = .next ((s.arrived TSY_SET_GO_GO.off w).wr TSY_SET_GO_GO 1).setGo ∧
      exec (.resetCtrlMain w) s = .next (s.arrived PWR_RESET_CTRL_MAIN.off w).resetMain) ∧
    ∀ c : Fin 4, c.val < s.nDdr →
      exec (.slotPwr c w) s = .next ((s.arrived (DMC_SLOT_PWR_EN c).off w).slotPower c (w.val.toNat.testBit 0))

/-- REGISTER_WRITE on the pages of the graphic layers, the Sheet ports, the ingest core and PWR (but SPn.CTRL, PAIR, PORT_CTRL, RESET_CTRL
and causes): a latch of the layer's head that is due comes first; then each RW field takes its bits of the data, each RO and RC field
keeps its value, and nothing else changes but what the arrival of a write changes. -/
def Obligations.RegisterWriteStores : Prop :=
  ∀ (off : Nat) (a : RegAt) (w : RegWrite) (s : State), s.Inv → s.Accepts w → off % 4 = 0 → off ≠ GLB_QUOIN_KEY.off →
    regAt off = some a → s.absent a = false → vecsOf off = [] →
    a.base ∈ [0xC0000, 0x140000, 0x150000, 0x190000] → (a.base, a.rel) ∉ [(0x140000, 0), (0x140000, 4), (0x140000, 0x20), (0x150000, 0), (0x190000, 0x10)] →
    let u := s.taken off w
    (a.base ≠ 0xC0000 → u = s.arrived off w) ∧
    Runs (.registerWrite off w) s fun t =>
      (∀ f ∈ a.row.fields,
        (f.acc = .rw → t.rd ⟨off, f.lsb, f.width⟩ = Fld.get ⟨off, f.lsb, f.width⟩ w.val) ∧
        (f.acc = .ro ∨ f.acc = .rc → t.rd ⟨off, f.lsb, f.width⟩ = u.rd ⟨off, f.lsb, f.width⟩)) ∧
      u.RegsOnly t [off]

/-- RC_READ: a read of a register answers its word and clears each RC field of it; every other register stays. A read of a LUT window
comes after a latch of its head that is due, and is held while the window's SYNC is 1. CAPTURE_READ: a read of FRAMES_LO of a head answers
the low half of its frame number and captures the high half, which FRAMES_HI then answers; a read of TIME_NS answers the nanoseconds and
captures the seconds of the same instant. -/
def Obligations.RegisterReads : Prop :=
  (∀ (off : Nat) (a : RegAt) (req : Requester) (s : State), s.Inv → s.mainUp = true → off % 4 = 0 → regAt off = some a →
    s.absent a = false →
    let u := s.lutReach off
    (lutOf a = none → u = s) ∧
    (∀ k, u.lutBusy off = some k → exec (.rcRead off req) s = .next (u.lutHold k (.read req off))) ∧
    (u.lutBusy off = none → (∀ k, lutOf a = some k → (u.luts[Fin.ofNat 20 k]).held = []) → Runs (.rcRead off req) s fun t =>
      t.out = u.out ++ [.regRead req off (BitVec.ofNat 32 (u.readWord off a))] ∧
      (∀ f ∈ a.row.fields, f.acc = .rc → t.rd ⟨off, f.lsb, f.width⟩ = 0) ∧ (∀ o, o ≠ off → t.reg o = u.reg o) ∧
      t = { u with regs := t.regs, capture := t.capture, ddr := t.ddr, power := { u.power with tempSeen := t.power.tempSeen }, out := t.out })) ∧
  (∀ (req : Requester) (s : State), s.Inv → s.mainUp = true →
    (∀ h : Fin 4, h.val < s.nHeads →
      Runs (.captureRead (HEAD_FRAME_LO_FRAME h).off req) s fun t =>
        t.out = s.out ++ [.regRead req (HEAD_FRAME_LO_FRAME h).off (BitVec.ofNat 32 ((s.hd h).lastCounted % 2 ^ 32))] ∧
        (t.regRead (HEAD_FRAME_HI_FRAME h).off).1 = BitVec.ofNat 32 ((s.hd h).lastCounted / 2 ^ 32)) ∧
    Runs (.captureRead TSY_TIME_NS_NS.off req) s fun t =>
      t.out = s.out ++ [.regRead req TSY_TIME_NS_NS.off (BitVec.ofNat 32 s.timeNs)] ∧
      (t.regRead TSY_TIME_SEC_LO_SEC.off).1 = BitVec.ofNat 32 (s.timeSec % 2 ^ 32) ∧
      (t.regRead TSY_TIME_SEC_HI_SEC.off).1 = BitVec.ofNat 32 (s.timeSec / 2 ^ 32))

/-! ### Registers that act when written -/

/-- CAUSE_CLEAR and DONE_CLEAR: a write of ones to a register of causes clears exactly those bits of its fields; nothing else changes but
the writer's arm and the messages of vectors that are still pending (R93). A latch of the head whose causes they are comes first where it
is due. -/
def Obligations.CauseClearClears : Prop :=
  ∀ (off : Nat) (w : RegWrite) (s : State), s.Inv → s.Accepts w →
    (off ∈ [0x58, 0x10004, 0x100040, 0x130040, 0x150500, 0x160060, 0x170780, 0x180040, 0x190080] ∨
      (∃ h, h < s.nHeads ∧ off = 0x200A0 + h * 0x10000) ∨ (∃ c, c < s.nDdr ∧ off = 0x110180 + c * 0x4000) ∨
      (∃ c, c < 16 ∧ off = 0x12003C + c * 0x80) ∨ ∃ p, p < s.nSheet ∧ off = 0x140034 + p * 0x1000) →
    (∃ a, regAt off = some a ∧
      exec (.causeClear off w) s = .next ((s.taken off w).clearCauses off (onesOf a.row.fields w.val))) ∧
    ((∀ h, off ≠ 0x200A0 + h * 0x10000) → s.taken off w = s.arrived off w) ∧
    exec (.doneClear w) s = exec (.causeClear 0x10004 w) s ∧
    Runs (.causeClear off w) s fun t =>
      let u := s.taken off w
      (∀ a, regAt off = some a → t.reg off = u.reg off &&& ~~~ onesOf a.row.fields w.val) ∧
      (∀ o, o ∉ [off, GLB_QUOIN_KEY.off] → t.reg o = u.reg o) ∧
      t = { u with regs := t.regs, host := t.host, out := t.out }

/-- The registers of a head that act when written: COMMIT with GO commits the head, or the group it names; HEADn.CTRL acts as HEAD_RUN
(EN), as HEAD_REEF (REEF, DEEP), and HOLD stops and restarts the head; STATS_CLR clears SLACK_MIN and BYTES_PEAK. A latch that is due
comes before the write. A group commit is refused as a whole when a member's timing generator does not run or a commit is pending on it:
it sets GROUP_REFUSED on each member and makes nothing pending; otherwise it is pending on every member. Latches that are due on the
members come first. -/
def Obligations.HeadRegisterWrites : Prop :=
  (∀ (h : Fin 4) (w : RegWrite) (s : State), s.Accepts w → h.val < s.nHeads →
    let v := w.val.toNat
    let ctrl := (s.taken (HEAD_CTRL_EN h).off w).headCtrlWrite h (v.testBit 0) (v.testBit 1) (v.testBit 2) (v.testBit 3)
    let u := s.taken (HEAD_COMMIT_GO h).off w
    exec (.headCtrlEn h w) s = .next ctrl ∧ exec (.headCtrlReef h w) s = .next ctrl ∧ exec (.headCtrlHold h w) s = .next ctrl ∧
    (∀ i ∈ [Instr.commit h w, .commitGroup h w],
      (v % 2 = 0 → exec i s = .next u) ∧
      (v % 2 = 1 → bits v 7 4 = 0 → exec i s = .next (u.commitHead h)) ∧
      (v % 2 = 1 → bits v 7 4 ≠ 0 → exec i s = .next (u.commitGroup (headsOf (bits v 7 4))).2)) ∧
    exec (.statsClr h w) s = .next (if v.testBit 0 then
      ((s.taken (HEAD_STATS_CLR_CLR h).off w).wr (HEAD_SLACK_MIN_MIN h) 0xFFFF).wr (HEAD_BYTES_PEAK_BYTES h) 0
      else s.taken (HEAD_STATS_CLR_CLR h).off w)) ∧
  (∀ (h : Fin 4) (w : RegWrite) (s : State), s.Inv → s.Accepts w → h.val < s.nHeads →
    w.val.toNat % 2 = 1 → bits w.val.toNat 7 4 ≠ 0 → (∀ g ∈ headsOf (bits w.val.toNat 7 4), g < s.nHeads) →
    Runs (.commitGroup h w) s fun t =>
      let hs := headsOf (bits w.val.toNat 7 4)
      let a := s.arrived (HEAD_COMMIT_GROUP h).off w
      let u := a.latched hs
      if ∀ g ∈ hs, (a.hd g).gen = true ∧ a.rd (HEAD_STATUS_COMMIT_PENDING g) = 0 then
        ∀ g ∈ hs, t.rd (HEAD_STATUS_COMMIT_PENDING g) = 1
      else ∀ g ∈ hs, t.rd (HEAD_STATUS_GROUP_REFUSED g) = 1 ∧
        t.rd (HEAD_STATUS_COMMIT_PENDING g) = u.rd (HEAD_STATUS_COMMIT_PENDING g))

/-- The registers of the DMA engine and the raster engine that act when written: CH_CTRL takes PRIO and EN, then RESUME or ABORT; HEAD of
a channel is written only while it is idle or stopped; SWREQ requests; the doorbells ring; BLT.CTRL takes EN, then ABORT. -/
def Obligations.DmaRegisterWrites : Prop :=
  ∀ (c : Fin 16) (w : RegWrite) (s : State), s.Accepts w →
    let v := w.val.toNat
    let u := s.arrived (DMACH_CH_CTRL_EN c).off w
    let ctrl := ((u.wr (DMACH_CH_CTRL_PRIO c) (bits v 5 4)).dmaEnable c (v.testBit 0)).dmaCommand c (v.testBit 1) (v.testBit 2)
    let hd := s.arrived (DMACH_HEAD_INDEX c).off w
    exec (.dmaChEn c w) s = .next ctrl ∧ exec (.dmaResume c w) s = .next ctrl ∧ exec (.dmaAbort c w) s = .next ctrl ∧
    exec (.dmaHeadWrite c w) s = .next (if hd.rd (DMACH_CH_STATUS_STATE c) = 0 ∨ hd.rd (DMACH_CH_STATUS_STATE c) = 3 then
      hd.wr (DMACH_HEAD_INDEX c) (v % 4096) else hd) ∧
    exec (.swreq w) s = .next ((s.arrived DMA_SWREQ_REQ.off w).dmaSwreq v) ∧
    exec (.dmaDoorbell c) s = .next (s.dmaRing c) ∧
    exec (.bltDoorbell w) s = .next (if v.testBit 0 then (s.arrived BLT_DOORBELL_RING.off w).bltRing
      else s.arrived BLT_DOORBELL_RING.off w) ∧
    exec (.bltAbort w) s = .next (
      let b := (s.arrived BLT_CTRL_ABORT.off w).bltEnable (v.testBit 0)
      if v.testBit 1 then b.bltAbort else b)

/-- The registers of a head PLL that act when written: a write of the feedback divider clears LOCKED and RAMPING and restarts lock
acquisition, and stops the head that runs on the PLL; RAMP_CTRL with GO runs the segments from 0 on when none of them lasts no time (a
duration of 0 does not start the ramp). -/
def Obligations.PllRegisterWrites : Prop :=
  ∀ (n : Fin 4) (frac : Bool) (w : RegWrite) (s : State), s.Inv → s.Accepts w → n.val < s.nHeads →
    (∃ a, regAt (if frac then (HPLL_FRAC_FB_FRAC n).off else (HPLL_FB_FB_INT n).off) = some a ∧
      let off := if frac then (HPLL_FRAC_FB_FRAC n).off else (HPLL_FB_FB_INT n).off
      let u := ((s.arrived off w).writeFields off a false w.val).pllRelock n
      exec (.hpllFbWrite n frac w) s = .next (u.headUnlock n) ∧
      u.rd (HPLL_STATUS_LOCKED n) = 0 ∧ u.rd (HPLL_STATUS_RAMPING n) = 0 ∧
      u.rd (if frac then HPLL_FRAC_FB_FRAC n else HPLL_FB_FB_INT n) = w.val.toNat % (if frac then 2 ^ 24 else 2 ^ 8)) ∧
    ∃ a, regAt (HPLL_RAMP_CTRL_GO n).off = some a ∧
      let u := (s.arrived (HPLL_RAMP_CTRL_GO n).off w).writeFields (HPLL_RAMP_CTRL_GO n).off a false w.val
      u.rd (HPLL_RAMP_CTRL_SEGS n) = bits w.val.toNat 11 8 ∧
      exec (.rampGo n w) s = .next (if w.val.toNat.testBit 0 ∧ ∀ j, j ≤ bits w.val.toNat 11 8 → u.rd (HPLL_RAMP_DUR_US n j) ≠ 0 then
        ((u.wr (HPLL_STATUS_RAMPING n) 1).wr (HEAD_STATUS_RAMPING n) 1).setPll n fun p =>
          { p with ramp := some (0, u.now, u.rampOffset n), started := u.now }
        else u)

/-- A write of PAIR by its even port takes effect at once, and clears FAILED_OVER and LOOP_OK; a write of SPn.CTRL that changes RATE or
FEC restarts the link; a write of PORT_CTRL elects the PTP master anew, and restarts the link where FEC changes or EN is 0; a write of
GATE_CTRL installs the gate list before it turns the gate on or off; a write of TRAIN_CTRL, of INIT_CTRL and of RECUR_CLR does what its
bits ask. -/
def Obligations.UnitRegisterWrites : Prop :=
  ∀ (w : RegWrite) (s : State), s.Inv → s.Accepts w →
    let v := w.val.toNat
    (∀ k : Fin 8, 2 * k.val < s.nSheet → Runs (.pairModeWrite k w) s fun t =>
      t.rd (SP_PAIR_MODE (2 * k)) = v % 4 ∧ t.rd (SP_STATUS_FAILED_OVER (2 * k)) = 0 ∧ t.rd (SP_STATUS_LOOP_OK (2 * k)) = 0 ∧
      (∀ o, o ∉ [(SP_PAIR_MODE (2 * k)).off, (SP_STATUS_LINK (2 * k)).off, GLB_QUOIN_KEY.off] → t.reg o = s.reg o) ∧
      t = { s with regs := t.regs, sheet := t.sheet }) ∧
    (∀ (p : Fin 16) (a : RegAt), p.val < s.nSheet → regAt (SP_CTRL_EN p).off = some a →
      let u := s.arrived (SP_CTRL_EN p).off w
      let other := bits v (SP_CTRL_RATE p).lsb (SP_CTRL_RATE p).lsb ≠ s.rd (SP_CTRL_RATE p) ∨
        bits v (SP_CTRL_FEC p).lsb (SP_CTRL_FEC p).lsb ≠ s.rd (SP_CTRL_FEC p)
      exec (.registerWrite (SP_CTRL_EN p).off w) s =
        .next ((if other then u.sheetDown p else u).writeFields (SP_CTRL_EN p).off a false w.val)) ∧
    (∀ (p : Fin 4) (a : RegAt), regAt (INGP_PORT_CTRL_EN p).off = some a →
      exec (.registerWrite (INGP_PORT_CTRL_EN p).off w) s =
        .next (((s.arrived (INGP_PORT_CTRL_EN p).off w).writeFields (INGP_PORT_CTRL_EN p).off a false w.val).portSet
          (s.arrived (INGP_PORT_CTRL_EN p).off w) p)) ∧
    (∀ p : Fin 2, exec (.install p w) s = .next (
      let u := s.arrived (HLYQ_GATE_CTRL_INSTALL p).off w
      let u := if v.testBit 1 then u.gateInstall p else u
      if v.testBit 0 then (u.wr (HLYQ_GATE_CTRL_EN p) 1).wr (HLYQ_GATE_STATUS_RUNNING p) (b2n (u.rport p).oper.isSome)
      else u.gateOff p)) ∧
    (∀ c : Fin 4, c.val < s.nDdr → ∃ a, regAt (DMC_TRAIN_CTRL_GO c).off = some a ∧ exec (.trainGo c w) s = .next (
      let u := (s.arrived (DMC_TRAIN_CTRL_GO c).off w).writeFields (DMC_TRAIN_CTRL_GO c).off a false w.val
      if v.testBit 0 ∧ u.rd (DMC_CTRL_EN c) = 0 ∧ u.rd (DMC_TRAIN_CTRL_BURSTS c) ≠ 0 then
        (if u.rd (DMC_TRAIN_CTRL_OP c) = 0 then u.trainWrite c else u).wr (DMC_TRAIN_CTRL_BUSY c) 1
      else u)) ∧
    (∃ a, regAt DMC0_INIT_CTRL_START.off = some a ∧ exec (.initStart w) s = .next (
      let u := (s.arrived DMC0_INIT_CTRL_START.off w).writeFields DMC0_INIT_CTRL_START.off a false w.val
      if v.testBit 0 then u.initStart else u)) ∧
    exec (.recurClr w) s = .next (
      let u := s.arrived DSM_RECUR_CLR_ENTRY.off w
      if v.testBit 8 then (List.range 64).foldl State.recurClear u else u.recurClear (v % 64))

/-- REGION_REGISTER_WRITE: a write to a register of a region other than 63 completes by storing its fields, unless it is guarded, and
leaves every other register alone; while the region is off before and after, it leaves the pages of Densum alone too. A write by a
requester other than CC0 and CC1 to a register of a region whose EN is 1 and whose OWNER is FIRMWARE is guarded: it is ignored and counted
in REGION_MISS. A write to region 63, which is the check bits' own, changes no region. -/
def Obligations.RegionRegistersGuarded : Prop :=
  ∀ (k : Fin 64) (r : Fin 4) (w : RegWrite) (s : State), s.Inv → s.Accepts w →
    let off := (DSM_REG_BASE_BASE k).off + 4 * r.val
    (k.val ≠ 63 → (s.rd (DSM_REG_CTRL_EN k) = 0 ∨ w.req = .cc0 ∨ w.req = .cc1 ∨ s.rd (DSM_REG_CTRL_OWNER k) = 1) →
      ∃ t, exec (.regionRegisterWrite k r w) s = .next t ∧
        (∃ a, regAt off = some a ∧ t.reg off = mergeWord a.row.fields false (s.reg off) w.val) ∧
        (∀ o, o ∉ [off, GLB_QUOIN_KEY.off] → t.reg o = s.reg o) ∧
        (s.rd (DSM_REG_CTRL_EN k) = 0 → t.rd (DSM_REG_CTRL_EN k) = 0 → t.dsm = s.dsm) ∧
        t = { s with regs := t.regs, dsm := t.dsm }) ∧
    (w.req ≠ .cc0 → w.req ≠ .cc1 → s.rd (DSM_REG_CTRL_EN k) = 1 → s.rd (DSM_REG_CTRL_OWNER k) = 0 →
      ∃ t, exec (.regionRegisterWrite k r w) s = .next t ∧
        t.rd DSM_REGION_MISS_COUNT = min (s.rd DSM_REGION_MISS_COUNT + 1) 65535 ∧
        s.RegsOnly t [DSM_REGION_MISS_COUNT.off, GLB_QUOIN_KEY.off]) ∧
    (k.val = 63 → w.req = .cc0 ∨ w.req = .cc1 ∨ s.rd (DSM_REG_CTRL_EN k) = 0 ∨ s.rd (DSM_REG_CTRL_OWNER k) = 1 →
      ∃ t, exec (.regionRegisterWrite k r w) s = .next t ∧ s.RegsOnly t [GLB_QUOIN_KEY.off])

/-- RD_SEQ_WRITE: an acknowledgement is taken when the new value lies from the old RD_SEQ to WR_SEQ, both included, modulo 2³²; it frees
the entries before it; any other is ignored. FEC_CLR clears VALID and MORE of each class whose bit is 1, and no other. -/
def Obligations.LogRegisterWrites : Prop :=
  ∀ (w : RegWrite) (s : State), s.Inv → s.Accepts w →
    (Runs (.rdSeqWrite w) s fun t =>
      let k := (w.val - s.reg EVT_RD_SEQ_SEQ.off).toNat
      if k ≤ (s.reg EVT_WR_SEQ_SEQ.off - s.reg EVT_RD_SEQ_SEQ.off).toNat then
        t.reg EVT_RD_SEQ_SEQ.off = w.val ∧ t.log = { s.log with entries := s.log.entries.drop k } ∧
        (∀ o, o ∉ [EVT_RD_SEQ_SEQ.off, GLB_QUOIN_KEY.off] → t.reg o = s.reg o) ∧ t = { s with regs := t.regs, log := t.log }
      else s.RegsOnly t [GLB_QUOIN_KEY.off]) ∧
    Runs (.fecClr w) s fun t =>
      (∀ c, c < 4 → t.rd (EVT_FEC_VALID_VALID c) = (if w.val.toNat.testBit c then 0 else s.rd (EVT_FEC_VALID_VALID c)) ∧
        t.rd (EVT_FEC_VALID_MORE c) = if w.val.toNat.testBit c then 0 else s.rd (EVT_FEC_VALID_MORE c)) ∧
      s.RegsOnly t (GLB_QUOIN_KEY.off :: (List.range 4).map fun c => (EVT_FEC_VALID_VALID c).off)

/-! ### The host port -/

/-- WINDOW_ACCESS: an access through BAR4 reaches device address WIN_BASE + offset. One that leaves its bound, or begins outside every
region of Densum, is refused and logged as EV_PROT_BOUND; one outside every range is logged as EV_WINDOW_ERR; a read then answers bytes of
0xFF with EP, a write is discarded; a read that meets a line its region refuses is counted and logged once and answers the same. A
performed access reads or writes memory, or the registers of the alias; a read of a LUT window whose SYNC is 1 is held. BAR2_ACCESS: the
mailboxes (offset 0 to 0x27FF) and the event log (0x20000 to 0x3FFFF) are Densum reached as requester HST; what a write begins there and
carries on beyond the mailboxes is ignored; a 32-bit write of MBX_DOORBELL, RING_DOORBELL or a DMA doorbell rings what its bits or its
place name, and a 32-bit read elsewhere answers the MSI-X table, the pending bits or zero, and changes nothing. -/
def Obligations.WindowAccess : Prop :=
  (∀ (off : Nat) (a : HostAcc) (s : State), s.mainUp = true →
    let addr := (s.winBase + off % 2 ^ 30) % 2 ^ 48
    (∀ n, a = .read n →
      (s.winCase addr n ≠ .performed → ∃ code ∈ [EV_PROT_BOUND, EV_WINDOW_ERR],
        (code = EV_PROT_BOUND ↔ s.winCase addr n = .bound) ∧
        exec (.windowAccess off a) s = .next ((s.report code 0 (detailAddr addr reqHst 0)).emit
          (.hostRead (List.replicate n 0xFF) true))) ∧
      (s.winCase addr n = .performed → inAlias addr = false →
        exec (.windowAccess off a) s = .next (let r := s.hostRead addr n
          r.2.emit (if r.1.err then .hostRead (List.replicate n 0xFF) true else .hostRead r.1.data r.1.poison))) ∧
      (∀ la, s.winCase addr n = .performed → inAlias addr = false →
        s.hostRefused false ((List.range ((addr + n + 63) / 64 - addr / 64)).map fun i => (addr / 64 + i) * 64) = some la →
        exec (.windowAccess off a) s = .next ((s.dsmPermErr reqHst la).emit (.hostRead (List.replicate n 0xFF) true))) ∧
      let x0 := (addr - aliasBase) / 4
      let words := (List.range ((addr - aliasBase + n + 3) / 4 - x0)).map fun i => (x0 + i) * 4
      let u := words.foldl State.lutReach s
      (s.winCase addr n = .performed → inAlias addr = true → (∀ x ∈ words, u.lutBusy x = none) →
        exec (.windowAccess off a) s = .next (let r := u.aliasRead (addr - aliasBase) n
          r.2.emit (.hostRead r.1 false))) ∧
      (∀ k, s.winCase addr n = .performed → inAlias addr = true → 0 < n → u.lutBusy (addr - aliasBase) = some k →
        exec (.windowAccess off a) s = .next (u.lutHold k (.window (addr - aliasBase) n)))) ∧
    (∀ d ep, a = .write d ep →
      (s.winCase addr d.length ≠ .performed → ∃ code ∈ [EV_PROT_BOUND, EV_WINDOW_ERR],
        (code = EV_PROT_BOUND ↔ s.winCase addr d.length = .bound) ∧
        exec (.windowAccess off a) s = .next (s.report code 0 (detailAddr addr reqHst 0))) ∧
      (s.winCase addr d.length = .performed → exec (.windowAccess off a) s = .next (
        if inAlias addr then s.aliasWrite (addr - aliasBase) d .host ep else s.hostWrite addr d ep)))) ∧
  (∀ (off : Nat) (s : State), s.mainUp = true → off < 0x100000 →
    (∀ n, 0 < n → off + n ≤ 0x2800 → exec (.bar2Access off (.read n)) s = .next (let r := s.hostRead (dsmBase + off) n
      r.2.emit (if r.1.err then .hostRead (List.replicate n 0xFF) true else .hostRead r.1.data r.1.poison))) ∧
    (∀ d ep, d ≠ [] → off + d.length ≤ 0x2800 →
      exec (.bar2Access off (.write d ep)) s = .next (s.hostWrite (dsmBase + off) d ep)) ∧
    (∀ d ep, off < 0x2800 → 0x2800 < off + d.length → off + d.length ≤ 0x3000 →
      exec (.bar2Access off (.write d ep)) s = .next (s.hostWrite (dsmBase + off) (d.take (0x2800 - off)) ep)) ∧
    (∀ d ep, d ≠ [] → 0x20000 ≤ off → off + d.length ≤ 0x40000 →
      exec (.bar2Access off (.write d ep)) s = .next (s.hostWrite (logBase + (off - 0x20000)) d ep)) ∧
    (0x2800 ≤ off → ¬ (0x20000 ≤ off ∧ off < 0x40000) → off % 4 = 0 →
      exec (.bar2Access off (.read 4)) s = .next (s.emit (.hostRead (leBytes 4 (s.bar2Word off)) false))) ∧
    ∀ (v : BitVec 32) (ep : Bool), let d := (leBytes 4 v.toNat).map some
      (exec (.bar2Access 0x3000 (.write d ep)) s = exec (.mbxDoorbell (v.setWidth 16)) s) ∧
      (exec (.bar2Access 0x3004 (.write d ep)) s = exec (.ringDoorbell (v.setWidth 4)) s) ∧
      ∀ c : Fin 16, exec (.bar2Access (0x3100 + 4 * c) (.write d ep)) s = exec (.dmaDoorbell c) s)

/-- MSIX_UNMASK: the mask bit of the vector clears; a pending message of it is sent and its pending bit clears; no other vector and
nothing else changes. A vector whose cause rises while it is unmasked sends its message at once; while it is masked its pending bit is set
instead. -/
def Obligations.MessageSignalled : Prop :=
  (∀ (v : Fin 64) (s : State), s.mainUp = true →
    Runs (.msixUnmask v) s fun t =>
      t.host.msix[v] = { s.host.msix[v] with masked := false } ∧ t.host.pba[v] = false ∧
      (∀ u : Fin 64, u ≠ v → t.host.msix[u] = s.host.msix[u] ∧ t.host.pba[u] = s.host.pba[u]) ∧
      t.out = (if s.host.pba[v] then s.out ++ [.msix v s.host.msix[v].addr s.host.msix[v].data] else s.out) ∧
      t = { s with host := t.host, out := t.out }) ∧
  (∀ (s : State) (c : Cause), s.irq c.vec = false → (h : c.vec < 64) →
    (s.setReg c.off (s.reg c.off ||| BitVec.ofNat 32 (2 ^ c.bit))).irq c.vec = true →
    let t := s.setCause c
    (s.host.msix[c.vec].masked = false → t.out = s.out ++ [.msix c.vec s.host.msix[c.vec].addr s.host.msix[c.vec].data] ∧
      t = { s with regs := t.regs, out := t.out }) ∧
    (s.host.msix[c.vec].masked = true → t.host.pba[c.vec] = true ∧ t.out = s.out ∧ t = { s with regs := t.regs, host := t.host }))

/-- FUNCTION_LEVEL_RESET and PERST_N: the host port returns to its reset state: the MSI-X table, GLB.WIN_BASE, the host's Quoin arm and
MBX.DONE. No other requester's arm, no other register and nothing else of the device changes: heads, Sheet ports, ingest, the ring, DDR5,
the control cores and the mailbox commands go on. -/
def Obligations.HostResets : Prop :=
  ∀ (i : Instr) (s : State), i ∈ [Instr.functionLevelReset, .perstN] → s.Inv → s.mainUp = true →
    Runs i s fun t =>
      t.host = State.reset.host ∧ t.winBase = 0 ∧ t.armed .host = false ∧ t.rd MBX_DONE_HOST = 0 ∧ t.rd MBX_DONE_RING = 0 ∧
      (∀ r, r ≠ .host → t.armed r = s.armed r) ∧
      (∀ o, o ∉ [GLB_WIN_BASE_LO_BASE_LO.off, GLB_WIN_BASE_HI_BASE_HI.off, GLB_QUOIN_KEY.off, MBX_DONE_HOST.off] → t.reg o = s.reg o) ∧
      t = { s with regs := t.regs, host := t.host }

/-! ### The firmware -/

/-- A doorbell bit of a mailbox whose BUSY or DONE bit is 1 is ignored and counted. Otherwise the copier copies the mailbox into the CTL
region, the firmware takes the command from the copy, behind the commands that wait there, and its BUSY bit is set; a ring mailbox's
command keeps the poison of its payload. -/
def Obligations.DoorbellCopies : Prop :=
  (∀ (n : Fin 16) (s : State), s.mainUp = true →
    let ring := exec (.mbxDoorbell (BitVec.ofNat 16 (2 ^ n.val))) s
    ((s.rd MBX_BUSY_HOST).testBit n ∨ (s.rd MBX_DONE_HOST).testBit n → ring = .next (s.count MBX_DB_IGNORED_COUNT 1)) ∧
    (¬ ((s.rd MBX_BUSY_HOST).testBit n ∨ (s.rd MBX_DONE_HOST).testBit n) →
      let r := (s.copyMbx (dsmBase + n * 512) n).fwRead (copyAddr n) 512
      ring = .next ((r.2.wr MBX_BUSY_HOST (s.rd MBX_BUSY_HOST + 2 ^ n.val)).pushCmd
        ⟨.host n, leAt r.1 0 2, leAt r.1 2 2, leAt r.1 4 2, 0, 0, slice r.1 8 (min 504 (leAt r.1 4 2)), false⟩))) ∧
  ∀ (n : Fin 4) (s : State), s.mainUp = true →
    let ring := exec (.ringDoorbell (BitVec.ofNat 4 (2 ^ n.val))) s
    ((s.rd MBX_BUSY_RING).testBit n ∨ (s.rd MBX_DONE_RING).testBit n → ring = .next (s.count MBX_DB_IGNORED_COUNT 1)) ∧
    (¬ ((s.rd MBX_BUSY_RING).testBit n ∨ (s.rd MBX_DONE_RING).testBit n) →
      let r := (s.copyMbx (dsmBase + 0x2000 + n * 512) (16 + n)).fwRead (copyAddr (16 + n)) 512
      let bad := (s.copyMbx (dsmBase + 0x2000 + n * 512) (16 + n) |>.fwRead (copyAddr (16 + n)) 512).2
        |>.memRead reqCtl (copyAddr (16 + n) + 16) (min 496 (leAt r.1 4 2)) |>.1.poison
      ring = .next ((r.2.wr MBX_BUSY_RING (s.rd MBX_BUSY_RING + 2 ^ n.val)).pushCmd
        ⟨.ring n, leAt r.1 0 2, leAt r.1 2 2, leAt r.1 4 2, leAt r.1 8 2, leAt r.1 10 2, slice r.1 16 (min 496 (leAt r.1 4 2)), bad⟩))

/-- What every mailbox command shares, whatever row it has: while the firmware is up, the oldest copied command with the CMD and SEQ of
its mailbox's DONE record is answered from the record, counted and not performed again (one whose record holds that no device answered it
in time is performed again); a command that the table does not have completes with BAD_COMMAND; a LEN that is not the command's completes
with BAD_LENGTH; a command of another code waits for its row. A completion: the record of the command's mailbox, where it is still the
command's own, is DONE with its status and response; a host mailbox's BUSY bit clears, its DONE bit sets, and no other mailbox's bits
change. -/
def Obligations.CommandService : Prop :=
  (∀ (i : Instr) (code : Nat) (c : FwCmd) (rest : List FwCmd) (s : State), codeOf i = some code → code ≠ 0x0A10 →
    s.serving = true → s.fw.queue = c :: rest →
    let q := { s with fw := { s.fw with queue := rest } }
    ((cmdTable.lookup c.cmd).isSome = true → c.cmd ≠ code → exec i s = .next s) ∧
    (c.cmd = code ∨ (cmdTable.lookup c.cmd).isSome = false →
      (∀ st resp took, s.seqRec c = some ⟨c.cmd, c.seq, some (st, resp), took, false⟩ →
        exec i s = .next ((q.count MBX_REPLAYS_COUNT 1).deliver c st resp)) ∧
      ((∀ r, s.seqRec c = some r → r.cmd = c.cmd → r.seq = c.seq → r.done = none ∨ r.unheard = true) →
        ((cmdTable.lookup c.cmd).isSome = false → exec i s = .next ((s.begun c rest).finish c stBAD_COMMAND [])) ∧
        (c.cmd = code → lenMax c.src < c.len ∨ lenOk code c.len c.payload = false →
          ∃ resp, exec i s = .next ((s.begun c rest).finish c stBAD_LENGTH resp))))) ∧
  (∀ (n : Fin 16) (c : FwCmd) (st : Nat) (resp : List Byte) (s : State), s.Inv → c.src = .host n →
    let t := s.finish c st resp
    t.seqRec c = (if s.recOf c then some ⟨c.cmd, c.seq, some (st, resp), s.took c, false⟩ else s.seqRec c) ∧
    (t.rd MBX_DONE_HOST).testBit n = true ∧ (t.rd MBX_BUSY_HOST).testBit n = false ∧
    ∀ m : Fin 16, m ≠ n → (t.rd MBX_DONE_HOST).testBit m = (s.rd MBX_DONE_HOST).testBit m ∧
      (t.rd MBX_BUSY_HOST).testBit m = (s.rd MBX_BUSY_HOST).testBit m)

/-- DEVICE_INFO, ECHO and TIME_GET complete with OK and their responses; the clock's reading is that of the moment, and captures the
seconds as a read of TIME_NS does. CORE_SWITCH waits for a handover while the standby is READY and completes with BUSY otherwise;
CORE_RESTART completes at once on a READY standby and otherwise requests the restart and waits. -/
def Obligations.SystemCommands : Prop :=
  (∀ (c : FwCmd) (rest : List FwCmd) (s : State), let u := s.begun c rest
    (s.Begins 0x0101 c rest → exec .deviceInfo s = .next (u.finish c stOK (leBytes 4 s.deviceId ++ leBytes 4 (s.rd GLB_FW_VERSION_VERSION) ++
      leBytes 1 (s.rd PWR_STATUS_RUNNING_SLOT) ++ leBytes 1 (s.rd GLB_CORE_STATUS_ACTIVE) ++ leBytes 2 s.ringId ++
      leBytes 8 s.fuses.serial ++ leBytes 4 (s.ddrBytes / 2 ^ 30)))) ∧
    (s.Begins 0x0102 c rest → exec .echo s = .next (u.finish c stOK c.payload)) ∧
    (s.Begins 0x0902 c rest → exec .timeGet s = .next (u.captureTime.finish c stOK (leBytes 8 s.timeSec ++ leBytes 4 s.timeNs ++
      leBytes 1 (s.rd TSY_TIME_STATUS_SOURCE) ++ leBytes 1 (s.rd ING_PTP_STATUS_STATE) ++ [0, 0] ++
      leBytes 4 (wrap 32 s.clocks.lastOffset) ++ leBytes 4 (s.rd TSY_FREQ_ADJ_PPB))))) ∧
  (∀ (c : FwCmd) (rest : List FwCmd) (s : State), let u := s.begun c rest
    (s.Begins 0x0110 c rest → s.took c = [] →
      (s.standby = sbREADY → exec .coreSwitch s =
        .next ((u.take c [1 - s.rd GLB_CORE_STATUS_ACTIVE]).waitFor c .coreSwitch).reqSwitch) ∧
      (s.standby ≠ sbREADY → exec .coreSwitch s = .next (u.fail c stBUSY))) ∧
    (s.Begins 0x0111 c rest →
      (s.standby = sbREADY → exec .coreRestart s = .next (u.ok c)) ∧
      (s.standby ≠ sbREADY → exec .coreRestart s = .next (u.waitFor c .coreRestart).reqRestart)))

/-- The failure of the active core, by fault or by missing heartbeats: with a READY standby the standby becomes the active core and the
failed one is HELD; without one the active core restarts alone, which is logged, and missing heartbeats of the restart are not watched
(log 11). Either way service stops until it resumes, a requested handover lapses, a commit in progress goes back into its queue, and a
heartbeat that comes in time restarts the timeout; one that comes later finds the core failed (R40). -/
def Obligations.CoreFailure : Prop :=
  ∀ s : State, s.Inv → s.coreRuns = true →
    (s.duplex.resume = some .simplex ∨ s.now ≤ s.duplex.lastHb + s.hbTimeout →
      exec .heartbeat s = .next (s.setDup fun d => { d with lastHb := s.now })) ∧
    ∀ i : Instr, i = .coreFault ∨ ((i = .hbTimeout ∨ i = .heartbeat) ∧ s.duplex.resume ≠ some .simplex ∧ s.duplex.lastHb + s.hbTimeout < s.now) →
      Runs i s fun t => t.duplex.fwUp = false ∧ t.duplex.handoverReq = false ∧ t.rd GLB_CORE_CTRL_SWITCH = 0 ∧
        (s.standby = sbREADY → t.rd GLB_CORE_STATUS_ACTIVE = (1 - s.rd GLB_CORE_STATUS_ACTIVE) ∧ t.standby = sbHELD ∧
          t.rd GLB_CORE_STATUS_DUPLEX = 0 ∧ t.duplex.resume = some .takeover ∧ t.log = s.log) ∧
        (s.standby ≠ sbREADY → t.rd GLB_CORE_STATUS_ACTIVE = s.rd GLB_CORE_STATUS_ACTIVE ∧ t.duplex.resume = some .simplex ∧
          (s.log.reports.length < 64 → t.log.reports = s.log.reports ++ [⟨EV_SIMPLEX_RESTART, src 1 0, 0⟩])) ∧
        t.mem = s.mem ∧ t.fw = s.fw ∧ t.duplex.lastHb = s.now ∧
        t.nv = { s.nv with busy := none, queue := s.nv.busy.toList ++ s.nv.queue }

/-- The standby's way back: a passed self-test is noted and a failed one makes the core FAILED; READY follows a passed self-test; a
requested handover exchanges the roles and sets cause HANDOVER; a takeover is counted, sets cause TAKEOVER and is logged as EV_FAILOVER
when service resumes. Service resumes after a takeover: the copied commands whose records are STARTED go back into the queue, FAILOVERS
counts, cause TAKEOVER is set and EV_FAILOVER is reported; after a handover the commands that asked for it complete with OK. -/
def Obligations.StandbyReturns : Prop :=
  (∀ s : State, s.Inv → s.serving = true →
    (s.standby = sbSYNCING → s.duplex.selftestOk = false →
      exec (.standbySelftestDone true) s = .next (s.setDup fun d => { d with selftestOk := true }) ∧
      (s.fw.waiting = [] → Runs (.standbySelftestDone false) s fun t => t.standby = sbFAILED ∧ t.rd GLB_CORE_STATUS_DUPLEX = 0)) ∧
    (s.standby = sbSYNCING → s.duplex.selftestOk = true → s.power.swap = none → s.fw.waiting = [] →
      Runs .standbyReady s fun t => t.standby = sbREADY ∧ t.rd GLB_CORE_STATUS_DUPLEX = 1) ∧
    (s.standby = sbREADY → s.duplex.handoverReq = true → s.power.swap = none →
      Runs .handover s fun t => t.rd GLB_CORE_STATUS_ACTIVE = 1 - s.rd GLB_CORE_STATUS_ACTIVE ∧ t.standby = sbSYNCING ∧
        t.duplex.fwUp = false ∧ t.duplex.resume = some .handover ∧ t.duplex.handoverReq = false ∧
        (t.reg 0x58).getLsbD 1 = true)) ∧
  (∀ s : State, s.mainUp = true → s.power.swap = none →
    let up := fun (s : State) => (s.setDup fun d => { d with fwUp := true, resume := none, lastHb := s.now }).retime
    (s.duplex.resume = some .takeover → exec .firmwareResume s =
      .next ((((up s.requeue).count GLB_CORE_STATUS_FAILOVERS 1).setCause (causeCore 0)).report EV_FAILOVER (src 1 0) 0)) ∧
    (s.duplex.resume = some .simplex → exec .firmwareResume s = .next (up s.requeue)) ∧
    (s.duplex.resume = some .boot → exec .firmwareResume s = .next (up s)) ∧
    (s.duplex.resume = some .handover → exec .firmwareResume s =
      .next ((up s).wake fun w => if w.kind = .coreSwitch then some (stOK, []) else none)))

/-- A command frame of another device enters the firmware's queue under its sender and mailbox; an answer completes the ring mailbox
command it belongs to, or is counted as late; a ring mailbox command that has waited past its time, with no answer that arrived in time,
completes with REMOTE_TIMEOUT. -/
def Obligations.RingMailboxFrames : Prop :=
  ∀ (p : Fin 2) (x : RxItem) (s : State),
    ((s.takeRx p 5 1).1 = some x → let d := x.frame.payload
      exec (.mbxCmd p) s = .next ((s.takeRx p 5 1).2.pushCmd ⟨.remote x.frame.src (beAt d 6 1) (decide (x.frame.dst = 0xFFFF)),
        beAt d 0 2, beAt d 2 2, beAt d 4 2, 0, 0, slice d 8 (min 496 (beAt d 4 2)), false⟩)) ∧
    ((s.takeRx p 5 2).1 = some x → let d := x.frame.payload
      (s.fw.ringWaits = [] → exec (.mbxResp p) s = .next ((s.takeRx p 5 2).2.count MBX_RING_LATE_COUNT 1)) ∧
      ∀ w : RingWait, s.fw.ringWaits = [w] → w.bcast = false → w.mbx = beAt d 8 1 → w.cmd.cmd = beAt d 0 2 → w.cmd.seq = beAt d 2 2 →
        w.cmd.dest = x.frame.src →
        (w.deadline < x.rxNow → exec (.mbxResp p) s = .next ((s.takeRx p 5 2).2.count MBX_RING_LATE_COUNT 1)) ∧
        (x.rxNow ≤ w.deadline → exec (.mbxResp p) s = .next (let u := (s.takeRx p 5 2).2
            ({ u with fw := { u.fw with ringWaits := [] } }).finish w.cmd (beAt d 6 2) (slice d 16 (min 496 (beAt d 4 2)))))) ∧
    ∀ (m : Fin 4) (w : RingWait), s.serving = true → s.fw.ringWaits = [w] → w.mbx = m → w.bcast = false → w.deadline < s.now →
      s.answerWaits w = false →
      w.answers = [] → exec (.ringMbxTimeout m) s = .next (({ s with fw := { s.fw with ringWaits := [] } }).unheard w.cmd [])

/-! ### Layers and heads -/

/-- LAYER_DEFINE, LAYER_COLOUR, LAYER_SCALER, LAYER_LUT and LAYER_KEY: a payload that fails its checks is refused and writes nothing;
otherwise the command writes the layer's shadow registers and completes with OK (where a LUT address or a coefficient address is 0 the
table stays as it is). The writes come after a latch that is due, and behind a commit of the layer's head that is pending; a table waits
while its window is synchronised. -/
def Obligations.LayerCommands : Prop :=
  ∀ (c : FwCmd) (rest : List FwCmd) (s : State), let u := s.begun c rest
    let p := c.payload
    let l := leAt p 0 1
    (∀ f : State → State, (u.hd (u.rd (LAY_ROUTE_HEAD l))).latchDue = false → u.commitOf l = none → u.writeLayer l f = f u) ∧
    (s.Begins 0x0201 c rest →
      (u.defineBad p = true → exec .layerDefine s = .next (u.fail c stBAD_PARAM)) ∧
      (u.defineBad p = false → 16 ≤ l → leAt p 2 1 ≠ 0 ∨ u.planesFit (leAt p 1 1) (leAt p 4 8) (leAt p 12 8) (leAt p 20 4)
          (leAt p 24 4) (leAt p 28 2) (leAt p 30 2) = true →
          exec .layerDefine s = .next ((u.writeLayer l fun v => v.writeDefine p).ok c)) ∧
      (u.defineBad p = false → l < 16 → leAt p 2 1 ≠ 0 ∨ u.planesFit (leAt p 1 1) (leAt p 4 8) (leAt p 12 8) (leAt p 20 4)
          (leAt p 24 4) (leAt p 28 2) (leAt p 30 2) = true →
        exec .layerDefine s = .next (match (u.preLatch (u.rd (LAY_ROUTE_HEAD l))).newGalley l (leAt p 60 2) with
          | some _ => (u.writeLayer l fun v => ((v.newGalley l (leAt p 60 2)).getD v).writeDefine p).ok c
          | none => u.fail c stREJECTED_DENSUM))) ∧
    (s.Begins 0x0202 c rest → l < 16 → s.hasLayer l = true →
      (∀ k, k < 3 → -65536 ≤ sext 32 (leAt p (24 + 4 * k) 4) ∧ sext 32 (leAt p (24 + 4 * k) 4) ≤ 65535) →
      exec .layerColour s = .next ((u.writeLayer l fun v =>
        let f := leAt p 1 1
        let v := ((v.wr (LAY_COLOUR_CTRL_MATRIX_EN l) (f % 2)).wr (LAY_COLOUR_CTRL_CHROMA_H l) (f / 2 % 2)).wr (LAY_COLOUR_CTRL_CHROMA_V l) (f / 4 % 2)
        let v := (List.range 9).foldl (fun s k => s.wr (LAY_MTX_C_COEF l k) (leAt p (4 + 2 * k) 2)) v
        (List.range 3).foldl (fun s k => s.wr (LAY_MTX_OFF_OFF l k) (leAt p (24 + 4 * k) 4 % 2 ^ 17)) v).ok c)) ∧
    (s.Begins 0x0203 c rest → l < 16 → s.hasLayer l = true → leAt p 1 1 % 4 ≠ 3 → leAt p 1 1 / 4 % 4 ≠ 3 →
      initOk (leAt p 4 4) = true → initOk (leAt p 8 4) = true →
      let set := fun (v : State) => (((v.wr (LAY_SCALE_CTRL_DECIM_H l) (leAt p 1 1 % 4)).wr (LAY_SCALE_CTRL_DECIM_V l) (leAt p 1 1 / 4 % 4)).wr
        (LAY_H_INIT_INIT l) (leAt p 4 4 % 2 ^ 24)).wr (LAY_V_INIT_INIT l) (leAt p 8 4 % 2 ^ 24)
      let r := u.fwRead (leAt p 12 8) 1792
      (leAt p 12 8 = 0 → exec .layerScaler s = .next ((u.writeLayer l set).ok c)) ∧
      (leAt p 12 8 ≠ 0 → u.bufOk (leAt p 12 8) 1792 = true → exec .layerScaler s =
        .next (if coefsOk r.1 then (r.2.writeLayer l fun v => (set v).writeCoefs l r.1).ok c else r.2.fail c stBAD_PARAM))) ∧
    (s.Begins 0x0204 c rest → l < 16 → s.hasLayer l = true → leAt p 1 1 ≤ 1 →
      let set := u.writeLayer l fun v => v.wr (LAY_LUT_CTRL_EN l) (leAt p 1 1)
      (leAt p 8 8 = 0 → exec .layerLut s = .next (set.ok c)) ∧
      (leAt p 8 8 ≠ 0 → u.bufOk (leAt p 8 8) 6150 = true →
        let r := (u.preLatch (u.rd (LAY_ROUTE_HEAD l))).fwRead (leAt p 8 8) 6150
        let t := r.2.writeLayer l fun v => v.wr (LAY_LUT_CTRL_EN l) (leAt p 1 1)
        exec .layerLut s = .next (if r.2.lutSyncing l then r.2.waitFor c (.lut l [] false [] r.1)
          else (if r.1 = [] then t else t.writeLut (LAY_PRE_LUT_ENTRY_EVEN l) 1025 (t.commitOf l).isSome r.1).ok c)) ∧
      (leAt p 8 8 ≠ 0 → u.bufOk (leAt p 8 8) 6150 = false → exec .layerLut s = .next (u.fail c stPROT_BOUND))) ∧
    (s.Begins 0x0205 c rest → s.hasLayer l = true → leAt p 1 1 ≤ 1 → leAt p 2 2 ≤ leAt p 4 2 → leAt p 6 2 ≤ leAt p 8 2 →
      leAt p 10 2 ≤ leAt p 12 2 →
      exec .layerKey s = .next ((u.writeLayer l fun v =>
        let v := (v.wr (LAY_KEY_CTRL_EN l) (leAt p 1 1)).wr (LAY_KEY_R_MIN l) (leAt p 2 2)
        let v := ((v.wr (LAY_KEY_R_MAX l) (leAt p 4 2)).wr (LAY_KEY_G_MIN l) (leAt p 6 2)).wr (LAY_KEY_G_MAX l) (leAt p 8 2)
        (v.wr (LAY_KEY_B_MIN l) (leAt p 10 2)).wr (LAY_KEY_B_MAX l) (leAt p 12 2)).ok c))

/-- The commands that commit a head (FORME_COMMIT, LAYER_FLIP, HEAD_LUT, SET_TIMING, HEAD_WRITEBACK, CABINET_MAP_LOAD) once their checks
have passed: admission decides on the state the commit would make; a rejected or an admission-only one completes with the rejection or
with OK and writes nothing; an admitted one writes its shadow registers and is committed, or waits behind an earlier commit of its head. A
SET_TIMING whose own mode change still runs (it is executed again after a takeover) waits for it; one on a head that is about to enter
Reef mode waits until it has; HEAD_LUT without COMMIT waits while its window is synchronised; the memory that a write-back touches is
filled first. FORME_GROUP_COMMIT: fewer than two heads, an absent one, or a mask with a bit beyond the heads is refused with BAD_PARAM;
when every Forme passes its checks and the group is admitted as a whole it is committed as one, otherwise the worst status of its heads is
the command's. -/
def Obligations.CommitCommands : Prop :=
  (∀ (c : FwCmd) (rest : List FwCmd) (s : State), let u := s.begun c rest
    let p := c.payload
    let h := leAt p 0 1
    let dec := fun (u v : State) (only : Bool) (d : List Byte) (resp : Admission → List Byte) =>
      let a := (v.admitHead h v.othersBytes).1
      if a.status ≠ stOK ∨ only = true then u.finish c a.status (resp a) else u.submit c [h] (resp a) d
    let full := fun (a : Admission) => a.resp 0 ++ List.replicate 8 (0 : Byte)
    (s.Begins 0x0230 c rest → c.len = 16 + 16 * leAt p 1 1 → u.formeBad h p [] = false → u.modeRuns h = false →
      exec .formeCommit s = .next (dec u (u.formeView h p) (decide (leAt p 2 2 % 2 = 1)) [] fun a => a.resp 0)) ∧
    (s.Begins 0x0301 c rest → ∀ resp, u.ownMode h c = some resp → exec .setTiming s = .next (u.waitFor c (.timing h resp))) ∧
    (s.Begins 0x0301 c rest → u.timingBad p = false → u.formeOutside h (payloadTiming p) = false → u.modeRuns h = false →
      (u.reefPending h = false → exec .setTiming s = .next (dec u (u.timingView p) (decide (leAt p 1 1 % 2 = 1)) [] full)) ∧
      let a := ((u.timingView p).admitHead h (u.timingView p).othersBytes).1
      (u.reefPending h = true → a.status = stOK → leAt p 1 1 % 2 = 0 →
        exec .setTiming s = .next (u.waitFor c (.afterReef h (full a))))) ∧
    (s.Begins 0x0320 c rest → u.wbBad p = false → u.modeRuns h = false → leAt p 1 1 = 0 ∨ u.wbFits (leAt p 8 8) (leAt p 4 4)
        (leAt p 16 4) (leAt p 3 1) (u.liveTiming h).vActive (wbLineBytes (leAt p 1 1) (u.liveTiming h).hActive) = true →
      let a := ((u.wbView p).admitHead h (u.wbView p).othersBytes).1
      let t := u.liveTiming h
      let fill := u.fillRange (leAt p 8 8) (leAt p 8 8 + (leAt p 3 1 - 1) * leAt p 16 4 + (t.vActive - 1) * leAt p 4 4 +
        wbLineBytes (leAt p 1 1) t.hActive - 1)
      exec .headWriteback s = .next (if a.status ≠ stOK then u.finish c a.status (a.resp 0)
        else (if leAt p 1 1 ≠ 0 ∧ u.inDdr (leAt p 8 8) = true then fill else u).submit c [h] (a.resp 0) [])) ∧
    (s.Begins 0x0401 c rest → h < s.nHeads → 8 ≤ leAt p 2 1 → leAt p 2 1 ≤ 16 → leAt p 4 2 ≤ 4096 →
      leAt p 4 2 = 0 ∨ u.bufOk (leAt p 8 8) (leAt p 4 2 * 64) = true → let r := u.fwRead (leAt p 8 8) (leAt p 4 2 * 64)
      (r.2.hd h).mapAreas.isSome = true → r.2.mapFault p r.1 = none →
      exec .cabinetMapLoad s = .next (dec r.2 (r.2.mapView p r.1) (decide (leAt p 1 1 % 2 = 1)) r.1 fun a => a.resp 0)) ∧
    (s.Begins 0x0240 c rest → h < s.nHeads → leAt p 1 1 ≤ 3 → leAt p 8 8 = 0 ∨ u.bufOk (leAt p 8 8) 24582 = true → u.modeRuns h = false →
      let r := if leAt p 8 8 = 0 then (([] : List Byte), u) else u.fwRead (leAt p 8 8) 24582
      let v := r.2.preLatch h
      exec .headLut s = .next (if (leAt p 1 1).testBit 1 then r.2.submit c [h] (leBytes 4 0) r.1
        else if leAt p 8 8 ≠ 0 ∧ v.lutSyncing (16 + h) = true then v.waitFor c (.lut (16 + h) [] false (leBytes 4 0) r.1)
        else (v.applyHeadLut p r.1 (decide (v.rd (HEAD_STATUS_COMMIT_PENDING h) = 1))).finish c stOK (leBytes 4 0))) ∧
    (s.Begins 0x0210 c rest → ∀ g, u.hasLayer h = true → (List.range u.nHeads).find? (fun g => u.inLive g h) = some g →
      planesBad (u.rd (LAY_CTRL_FORMAT h)) (leAt p 8 8) (leAt p 16 8) = false →
      u.rd (LAY_CTRL_SOURCE h) ≠ 0 ∨ u.planesFit (u.rd (LAY_CTRL_FORMAT h)) (leAt p 8 8) (leAt p 16 8) (u.rd (LAY_PITCH0_PITCH h) * 64)
        (u.rd (LAY_PITCH1_PITCH h) * 64) (u.rd (LAY_SRC_SIZE_W h)) (u.rd (LAY_SRC_SIZE_H h)) = true →
      exec .layerFlip s = .next (u.submit c [g] ((noAdmission stOK).resp 0) []))) ∧
  (∀ (c : FwCmd) (rest : List FwCmd) (s : State), let u := s.begun c rest
    let p := c.payload
    let hs := headsOf (leAt p 12 1)
    s.Begins 0x0231 c rest →
      (hs.length < 2 ∨ 16 ≤ leAt p 12 1 ∨ (∃ h ∈ hs, s.nHeads ≤ h) → exec .formeGroupCommit s = .next (u.fail c stBAD_PARAM)) ∧
      (2 ≤ hs.length → leAt p 12 1 < 16 → (∀ h ∈ hs, h < s.nHeads) → u.bufOk (leAt p 0 8) (leAt p 8 4) = true → ∀ fs,
        let r := u.fwRead (leAt p 0 8) (leAt p 8 4)
        splitFormes hs r.1 = some fs →
        let v := r.2
        let only := fs.map fun f => leAt f.2 2 2 % 2
        (∀ f ∈ fs, leAt f.2 0 1 = f.1 ∧ v.formeBad f.1 f.2 hs = false) → (fs.flatMap fun f => formeLayers f.2).Nodup →
        (∀ o ∈ only, o = 0) → (∀ h ∈ hs, (v.hd h).gen = true ∧ v.modeRuns h = false) →
        let as := (v.groupView fs).admitGroup fs
        let resp := (as.map fun a => a.resp 0).flatten
        let worst := as.foldl (fun w a => if budgetRank a.status < budgetRank w then a.status else w) stOK
        fs ≠ [] → exec .formeGroupCommit s = .next (if worst = stOK then v.submit c hs resp r.1 else v.finish c worst resp)))

/-- HEAD_RUN and HEAD_REEF: a head that is as asked completes at once; RUN 1 on a head whose self-test blocks it is BUSY; otherwise the
head starts, stops, enters or leaves Reef mode, and the command completes at once or when the head has done so: a start at its next
RELEASE, also where a stop comes before it. HEAD_REEF waits while a mode change runs on the head. -/
def Obligations.HeadCommands : Prop :=
  ∀ (c : FwCmd) (rest : List FwCmd) (s : State), let u := s.begun c rest
    let h := leAt c.payload 0 1
    h < s.nHeads →
    (s.Begins 0x0302 c rest →
      (leAt c.payload 1 1 ≤ 1 → u.rd (HEAD_CTRL_EN h) = leAt c.payload 1 1 → exec .headRun s = .next (u.ok c)) ∧
      (leAt c.payload 1 1 = 1 → u.rd (HEAD_CTRL_EN h) = 0 → u.rd (HEAD_STATUS_DSM_BLOCK h) = 1 → exec .headRun s = .next (u.fail c stBUSY)) ∧
      (leAt c.payload 1 1 = 1 → u.rd (HEAD_CTRL_EN h) = 0 → u.rd (HEAD_STATUS_DSM_BLOCK h) = 0 →
        exec .headRun s = .next (if u.rd (HEAD_STATUS_REEF h) = 1 ∧ (u.hd h).deepIn = true then (u.headStart h).ok c
          else (u.headStart h).waitFor c (.headReleased h))) ∧
      (leAt c.payload 1 1 = 0 → u.rd (HEAD_CTRL_EN h) = 1 → exec .headRun s = .next (let v := u.headOff h
        if (u.hd h).composing then v.waitFor c (.headStopped h) else v.ok c))) ∧
    (s.Begins 0x0310 c rest →
      (leAt c.payload 1 1 = 0 → u.rd (HEAD_STATUS_REEF h) = 1 → exec .headReef s = .next (u.ok c)) ∧
      (leAt c.payload 1 1 = 0 → u.rd (HEAD_STATUS_REEF h) = 0 → u.modeRuns h = true →
        exec .headReef s = .next (u.waitFor c (.reef h ((leAt c.payload 2 1).testBit 0)))) ∧
      (leAt c.payload 1 1 = 0 → u.rd (HEAD_STATUS_REEF h) = 0 → u.modeRuns h = false → exec .headReef s = .next (let v := u.reefEnter h ((leAt c.payload 2 1).testBit 0)
        if (u.hd h).composing then v.waitFor c (.headStopped h) else v.ok c)) ∧
      (leAt c.payload 1 1 = 1 → u.rd (HEAD_STATUS_REEF h) = 1 → exec .headReef s = .next (let v := u.reefExit h
        if v.kept h then v.ok c else v.waitFor c (.headReleased h))) ∧
      (leAt c.payload 1 1 = 1 → u.rd (HEAD_STATUS_REEF h) = 0 → exec .headReef s = .next ((u.reefExit h).ok c)))

/-- The rows of a head's clock: each acts only on a head that is present on a running main die, whose PLL clocks its timing generator, and
that stands where the row says; otherwise it leaves the machine as it is. -/
def Obligations.HeadClock : Prop :=
  ∀ (h : Fin 4) (s : State),
    (s.headUp h = false → ∀ i ∈ [Instr.latch h, .lineWindowStart h, .headStop h, .headRestart h, .release h, .lineComplete h,
      .lineDeadline h, .slugQueue h, .wbFrameComplete h], exec i s = .next s) ∧
    (s.genUp h = false → ∀ i ∈ [Instr.latch h, .lineWindowStart h, .headStop h, .headRestart h, .release h], exec i s = .next s) ∧
    (s.genUp h = true →
      ((s.hd h).gen = true → (s.hd h).latchDue = true →
        exec (.latch h) s = .next (s.withFsync h fun t => t.latchHead h (t.hd h).latchTakes (t.nextStart h)).serveQueued) ∧
      ((s.hd h).gen = true → exec (.lineWindowStart h) s = .next (s.withFsync h fun t => t.lineWindow h).serveQueued) ∧
      (s.lastWindow h = true → (s.hd h).stopDue = true → (s.hd h).latchDue = false → (s.hd h).firstFrame = false → s.deadlineDue h = false →
        exec (.headStop h) s = .next (s.withFsync h fun t => t.headStop h).serveQueued) ∧
      (s.restartReady h = true → (s.hd h).composing = false →
        exec (.headRestart h) s = .next (s.withFsync h fun t => ((t.headRestart h).prefetch h).windowStart h 0).serveQueued) ∧
      (s.lastWindow h = true → (s.hd h).firstFrame = true → s.deadlineDue h = false →
        exec (.release h) s = .next (s.headRelease h).serveQueued))

/-- The rows of a head's lines: the rows of line rings whose cut-off has passed are read first, and a line's staged bytes are loaded as
its first slug is composed; a line that is released and complete counts its slack, while output 0 of the head's PLL runs; a line whose
deadline passes is an underrun, counted line by line and pixel by pixel, which sets UNDERRUN and cause 10 and is reported; a slug enters
its queue; a write-back frame completes. WAIT_LINES_EXPIRE repeats the layer's last frame and fetches what the lines ahead read of it;
LINE_CUTOFF marks the line of the head that shows the layer once its moment has passed, and reads the row as it then stands; LUT_SYNC_DONE
ends SYNC when its time has come and performs the accesses that were held, then the commands and commits that waited for it. -/
def Obligations.LineRows : Prop :=
  (∀ (h : Fin 4) (s : State), s.headUp h = true →
    let x := s.hd h
    let d := s.cutOffs h
    let y := d.hd h
    (s.cutOffPast h = false → d = s) ∧
    (s.pllRuns h 0 = false → exec (.lineComplete h) s = .next s) ∧
    (s.pllRuns h 0 = true → d.released h = true → d.rowWait h y.nextLine = false →
      exec (.lineComplete h) s = .next (let r := ((if y.mapIdx = 0 then d.loadStaged h else d).fillGalleys h y.nextLine).putEntries h y.nextLine y.ctim.hActive false
        if r.1 then r.2.finishLine h y.nextLine y.ctim.hActive (r.2.slackNow h y.nextLine) else r.2)) ∧
    (s.deadlineDue h = true → exec (.lineDeadline h) s = .next (
      let t := ((s.ringEntries h x.nextLine).foldl (fun s e => s.setLay e.layer fun z => { z with cut := some x.nextLine }) s).readDue h
      let t := (((if x.mapIdx = 0 then t.loadStaged h else t).fillGalleys h x.nextLine).putEntries h x.nextLine x.doneX true).2
      let t := (t.count (HEAD_UNDERRUN_LINES_COUNT h) 1).count (HEAD_UNDERRUN_PX_COUNT h) (x.ctim.hActive - x.doneX)
      let t := (t.wr (HEAD_STATUS_UNDERRUN h) 1).setCause (causeHead h 10)
      (t.report (if t.flag (HEAD_STATUS_EXPERT h) then EV_UNDERRUN else EV_UNDERRUN_ADMITTED) (src 4 h)
        (x.nextLine % 2 ^ 15 + (x.frame % 2 ^ 32) * 2 ^ 16)).finishLine h x.nextLine x.doneX 0)) ∧
    (s.released h = true → d.rowWait h x.nextLine = false → x.mapIdx < d.mapCount h →
      exec (.slugQueue h) s = .next (((if x.mapIdx = 0 then d.loadStaged h else d).fillGalleys h x.nextLine).putEntry h x.mapIdx x.nextLine x.ctim.hActive false).2) ∧
    exec (.wbFrameComplete h) s = .next ((s.wbDrain h).wbFinish h)) ∧
  (∀ s : State, s.mainUp = true →
    (∀ (l : Fin 64) (h : Nat), (s.lay l).waiting = some (h, 0) → (s.hd h).winAt < s.now →
      exec (.waitLinesExpire l) s = .next (((s.repeatFrame l (s.lrd (LAY_CTRL_STREAM l))).setLay l fun x => { x with waiting := none }).fetchLate
          h l)) ∧
    (∀ (l : Fin 64) (h : Nat) (hs : List Nat), (List.range s.nHeads).filter (fun h => s.released h &&
        decide ((s.hd h).nextLine < (s.hd h).line ∨ s.cutoffAt h < s.now) &&
        (s.ringEntries h (s.hd h).nextLine).any fun e => decide (e.layer = l.val)) = h :: hs →
      exec (.lineCutoff l) s = .next ((s.setLay l fun x => { x with cut := some (s.hd h).nextLine }).readDue h)) ∧
    ∀ (t : Fin 20) (u : Nat), s.luts[t].until_ = some u → u ≤ s.now →
      exec (.lutSyncDone t) s = .next ((s.luts[t].held.foldl State.lutPerform
        { s.wr (if t.val < 16 then LAY_LUT_CTRL_SYNC t else HEAD_POST_LUT_CTRL_SYNC (t.val - 16)) 0 with
          luts := s.luts.set t ⟨none, []⟩ }).lutServe t).serveQueued)

/-! ### Wall and ingest -/

/-- SHEET_PORT_SET and SHEET_PING: an absent port, a field out of range, and mode SINGLE on a pair that a head's live map feeds as a pair
are refused with BAD_PARAM; a rate that the port's load does not fit is refused with REJECTED_SHEET; otherwise the port's registers are
set, the link restarts where its rate or FEC changes, and an even port sets the pair's mode; a ping enters Q6 and waits for its answer.
The answers to a ping: a STATUS with the token, received in time, completes the ping with OK; a ping whose time has passed with no such
STATUS waiting completes with its no-answer response. Both leave the other waiting commands alone; where the ping is the one command that
waits, its command completes and nothing waits. -/
def Obligations.SheetCommands : Prop :=
  (∀ (c : FwCmd) (rest : List FwCmd) (s : State), let u := s.begun c rest
    let d := c.payload
    let p := leAt d 0 1
    (s.Begins 0x0410 c rest →
      (s.nSheet ≤ p ∨ 2 < leAt d 2 1 ∨ (p % 2 = 1 ∧ leAt d 2 1 ≠ 0) ∨ leAt d 3 1 = 0 ∨ leAt d 4 2 < 0x600 ∨ 16777215 < leAt d 24 4 →
        exec .sheetPortSet s = .next (u.fail c stBAD_PARAM)) ∧
      (p < s.nSheet → leAt d 2 1 ≤ 2 → (p % 2 = 1 → leAt d 2 1 = 0) → leAt d 3 1 ≠ 0 → 0x600 ≤ leAt d 4 2 → leAt d 24 4 ≤ 16777215 →
        (p % 2 = 0 → leAt d 2 1 = 0 → ∀ h, h < s.nHeads → ∀ e ∈ u.mapEntries h, e.pair = true → e.port / 2 ≠ p / 2) →
        let rate := leAt d 1 1 / 2 % 2
        let fec := leAt d 1 1 / 4 % 2
        let fits := u.rd (SP_CTRL_RATE p) = rate ∨
          ((u.wr (SP_CTRL_RATE p) rate).portLoad p).le ((u.wr (SP_CTRL_RATE p) rate).portMax p) = true
        (¬ fits → exec .sheetPortSet s = .next (u.fail c stREJECTED_SHEET)) ∧
        (fits → Runs .sheetPortSet s fun t => t = (
          let v := if u.rd (SP_CTRL_RATE p) ≠ rate ∨ u.rd (SP_CTRL_FEC p) ≠ fec then u.sheetDown p else u
          let v := ((v.wr (SP_CTRL_EN p) (leAt d 1 1 % 2)).wr (SP_CTRL_RATE p) rate).wr (SP_CTRL_FEC p) fec
          let v := if p % 2 = 0 then v.setPairMode (p / 2) (leAt d 2 1) else v
          let v := (((v.wr (SP_LOOP_MISS p) (leAt d 3 1)).wr (SP_ETHERTYPE_TYPE p) (leAt d 4 2)).wr (SP_LOOP_PERIOD p) (leAt d 6 2)).probesOff p
          let v := (v.wr (SP_MAC_HI_ADDR p) (beAt d 8 2)).wr (SP_MAC_LO_ADDR p) (beAt d 10 4)
          let v := (v.wr (SP_GROUP_HI_ADDR p) (beAt d 16 2)).wr (SP_GROUP_LO_ADDR p) (beAt d 18 4)
          (v.wr (SP_SHOW_DELAY_NS p) (leAt d 24 4)).ok c)))) ∧
    (s.Begins 0x0420 c rest →
      (s.nSheet ≤ p ∨ leAt d 2 2 = 0 → exec .sheetPing s = .next (u.fail c stBAD_PARAM)) ∧
      (p < s.nSheet → leAt d 2 2 ≠ 0 → Runs .sheetPing s fun t => t = (
        let t := (s.sp p).nextToken
        (u.setSp p fun y => { y with q6 := y.q6 ++ [⟨t, slice d 4 6, false⟩], nextToken := (t + 1) % 2 ^ 32 }).waitFor c
          (.ping p t (leAt d 2 2 * 1000) none))))) ∧
  (∀ (p : Fin 16) (s : State), s.serving = true →
    (∀ b t more, (s.sp p).rx = (b, t) :: more → exec (.statusHandoff p) s =
      .next ((s.setSp p fun x => { x with rx := more }).wake fun w => match w.kind with
        | .ping q tok d (some sent) =>
          if q = p.val ∧ tok = beAt b 0 4 ∧ t ≤ sent + d then some (stOK, statusResp ((t - sent) % 2 ^ 32) b) else none
        | _ => none)) ∧
    ((s.sp p).rx = [] → exec (.statusHandoff p) s = .next s ∧ exec (.pingTimeout p) s = .next (s.wake fun w => match w.kind with
      | .ping q _ d (some sent) => if q = p.val ∧ sent + d < s.time.ns then some (stOK, pingNone) else none
      | _ => none)) ∧
    ∀ (c : FwCmd) (tok d sent : Nat), s.fw.waiting = [⟨c, .ping p.val tok d (some sent)⟩] →
      let u : State := { s with fw := { s.fw with waiting := [] } }
      (∀ b t more, (s.sp p).rx = (b, t) :: more → beAt b 0 4 = tok → t ≤ sent + d →
        Runs (.statusHandoff p) s fun v => v = (u.setSp p fun x => { x with rx := more }).finish c stOK (statusResp ((t - sent) % 2 ^ 32) b)) ∧
      (sent + d < s.time.ns → (∀ x ∈ (s.sp p).rx, beAt x.1 0 4 = tok → sent + d < x.2) →
        Runs (.pingTimeout p) s fun v => v = u.finish c stOK pingNone))

/-- A Sheet port's link: a link that comes up on an enabled port sets LINK, MODULE and, on a 25 Gb/s port with FEC, FEC_LOCK, and cause 1;
a link that goes down clears LINK and FEC_LOCK and sets cause 0. A port that is absent or down takes no notice. -/
def Obligations.SheetLinks : Prop :=
  ∀ (p : Fin 16) (s : State), s.Inv → s.mainUp = true →
    (s.nSheet ≤ p.val → ∀ f, ∀ i ∈ [Instr.sheetLinkUp p, .sheetLinkDown p, .loopProbe p, .sheetTransmit p, .sheetReceive p f],
      exec i s = .next s) ∧
    (p.val < s.nSheet → s.rd (SP_CTRL_EN p) = 1 → s.rd (SP_STATUS_LINK p) = 0 → Runs (.sheetLinkUp p) s fun t =>
      t.rd (SP_STATUS_LINK p) = 1 ∧ t.rd (SP_STATUS_MODULE p) = 1 ∧
      t.rd (SP_STATUS_FEC_LOCK p) = (if s.rd (SP_CTRL_FEC p) = 1 ∧ s.rd (SP_CTRL_RATE p) = 0 then 1 else 0) ∧
      (t.reg (causeSp p 1).off).getLsbD 1 = true ∧
      (∀ o, o ∉ [(SP_STATUS_LINK p).off, (causeSp p 1).off] → t.reg o = s.reg o) ∧
      (s.rd (SP_LOOP_PERIOD p) ≠ 0 → t.sheet = s.sheet) ∧
      t = { s with regs := t.regs, host := t.host, out := t.out, sheet := t.sheet }) ∧
    (p.val < s.nSheet → s.rd (SP_STATUS_LINK p) = 1 → s.pairMode p = 0 → Runs (.sheetLinkDown p) s fun t =>
      t.rd (SP_STATUS_LINK p) = 0 ∧ t.rd (SP_STATUS_FEC_LOCK p) = 0 ∧ (t.reg (causeSp p 0).off).getLsbD 0 = true ∧
      (∀ o, o ∉ [(SP_STATUS_LINK p).off, (causeSp p 0).off] → t.reg o = s.reg o) ∧
      t = { s with regs := t.regs, host := t.host, out := t.out })

/-- Frames at a Sheet port: a frame with a bad FCS counts in FCS_ERR alone; one that is longer than 9,216 B or no Sheet control frame
counts in RX_DROPPED; a PING to the port's own address that answers no probe counts in LOOP_RX alone (log 64, the model's choice); a
STATUS enters the receive queue with its time, counts and sets cause 4, or is counted as an overflow with cause 6 when 64 wait; a due
probe enters Q6; a probe unanswered for the period counts as missing. SHEET_TRANSMIT sends one frame: a control frame that may go leaves
first, then a ping or probe, then the next head's slug in turn; with nothing to send the port rests. A slug is read from the output queue
in Densum: one that is found poisoned is dropped, counted and sets cause 5. A slug of a pair that has failed over takes its turn on the
odd port as well. -/
def Obligations.SheetFrames : Prop :=
  (∀ (p : Fin 16) (s : State), s.mainUp = true → p.val < s.nSheet →
    (∀ f : RxFrame, s.rd (SP_CTRL_EN p) = 1 →
      (f.good = false → exec (.sheetReceive p f) s = .next (s.count (SP_FCS_ERR_COUNT p) 1)) ∧
      (f.good = true → 9216 < f.bytes.length + 4 → exec (.sheetReceive p f) s = .next (s.count (SP_RX_DROPPED_COUNT p) 1)) ∧
      (f.good = true → beAt f.bytes 12 2 ≠ s.rd (SP_ETHERTYPE_TYPE p) ∨ beAt f.bytes 14 2 ≠ 0xFFFF →
        exec (.sheetReceive p f) s = .next (s.count (SP_RX_DROPPED_COUNT p) 1)) ∧
      (f.good = true → f.bytes.length + 4 ≤ 9216 → beAt f.bytes 12 2 = s.rd (SP_ETHERTYPE_TYPE p) → beAt f.bytes 14 2 = 0xFFFF →
        beAt f.bytes 16 1 = 4 → f.bytes.take 6 = s.spMac p →
        (∀ q ∈ (s.sp (if p.val % 2 = 0 then p.val + 1 else p.val - 1)).probes, q.1 ≠ beAt f.bytes 30 4) →
        exec (.sheetReceive p f) s = .next (s.count (SP_LOOP_RX_COUNT p) 1)) ∧
      (f.good = true → f.bytes.length + 4 ≤ 9216 → beAt f.bytes 12 2 = s.rd (SP_ETHERTYPE_TYPE p) → beAt f.bytes 14 2 = 0xFFFF → beAt f.bytes 16 1 = 5 →
        exec (.sheetReceive p f) s = .next (if (s.sp p).rx.length < 64 then
          ((s.setSp p fun x => { x with rx := x.rx ++ [(slice f.bytes 30 32, s.time.ns)] }).count (SP_RX_STATUS_COUNT p) 1).setCause (causeSp p 4)
          else (s.count (SP_RX_OVERFLOW_COUNT p) 1).setCause (causeSp p 6)))) ∧
    (s.pairMode p ≠ 0 → s.loopNs p ≠ 0 → (s.sp p).lastProbe + s.loopNs p ≤ s.now → exec (.loopProbe p) s =
      .next (s.setSp p fun y => { y with
        q6 := y.q6 ++ [⟨(s.sp p).nextToken, s.spMac (if p.val % 2 = 0 then p.val + 1 else p.val - 1), true⟩]
        nextToken := (y.nextToken + 1) % 2 ^ 32
        lastProbe := s.now })) ∧
    ∀ q more, (s.sp p).probes = q :: more → q.2 + s.loopNs p < s.now → exec (.probeMissing p) s = .next (s.probeMissed p)) ∧
  (∀ (p : Fin 16) (s : State), s.mainUp = true → p.val < s.nSheet →
    let x := s.sp p
    (∀ k, x.q7.find? (x.ctrlOk (s.copiesTo p)) = some k → exec (.sheetTransmit p) s = .next (
      let t := s.setSp p fun y => { y with
        q7 := y.q7.erase k
        started := if k.type = 1 then y.started.set (Fin.ofNat 4 k.head) k.tag else y.started }
      t.sheetSend p (macBytes (t.rd (SP_GROUP_HI_ADDR p)) (t.rd (SP_GROUP_LO_ADDR p))) (t.ctrlBytes p k) false)) ∧
    (x.q7.find? (x.ctrlOk (s.copiesTo p)) = none → ∀ f more, x.q6 = f :: more →
      exec (.sheetTransmit p) s = .next ((s.setSp p fun y => { y with q6 := more }).sendPing p f)) ∧
    (x.q7.find? (x.ctrlOk (s.copiesTo p)) = none → x.q6 = [] → ∀ h g more, x.nextHead = some h → x.qh[Fin.ofNat 4 h] = g :: more →
      exec (.sheetTransmit p) s = .next (
        let t := (s.setSp p fun y => { y with qh := y.qh.set (Fin.ofNat 4 h) more, served := h }).slugSend p g
        if g.pair && s.failedOver p && decide (p.val % 2 = 0) then t.putSlug (p.val + 1) g else t)) ∧
    (∀ g : Slug, g.at_ = none → s.slugSend p g = s.sheetSend p g.dst g.body true) ∧
    (∀ (g : Slug) a, g.at_ = some a → let r := s.memRead reqSht a (g.body.length - 16)
      s.slugSend p g = if r.1.poison || r.1.err then
          ((r.2.count (SP_SLUG_POISON_COUNT p) 1).count64 (SP_DROP_BYTES_LO_BYTES p) (SP_DROP_BYTES_HI_BYTES p)
            (r.2.sheetFrame p g.dst g.body).length).setCause (causeSp p 5)
        else r.2.sheetSend p g.dst (g.body.take 16 ++ r.1.data) true) ∧
    (x.q7.find? (x.ctrlOk (s.copiesTo p)) = none → x.q6 = [] → x.nextHead = none → exec (.sheetTransmit p) s = .next s))

/-- INGEST_PORT_SET sets the port's registers, drops its link when FEC changes or EN is 0, and has the PTP master elected anew; a port
above 3 is refused. STREAM_DEFINE refuses a field out of range with BAD_PARAM and a buffer that does not fit with PROT_BOUND. -/
def Obligations.IngestCommands : Prop :=
  ∀ (c : FwCmd) (rest : List FwCmd) (s : State), let u := s.begun c rest
    let d := c.payload
    let p := leAt d 0 1
    let f := leAt d 1 1
    (s.Begins 0x0501 c rest →
      (3 < p → exec .ingestPortSet s = .next (u.fail c stBAD_PARAM)) ∧
      (p ≤ 3 → exec .ingestPortSet s = .next (
        let v := ((u.wr (INGP_PORT_CTRL_EN p) (f % 2)).wr (INGP_PORT_CTRL_FEC p) (f / 2 % 2)).wr (INGP_PORT_CTRL_PTP_EN p) (f / 4 % 2)
        let v := (v.wr (INGP_PORT_CTRL_PTP_DOMAIN p) (leAt d 2 1)).wr (INGP_PORT_IP_ADDR p) (leAt d 4 4)
        let v := (v.wr (INGP_PORT_MAC_LO_ADDR p) (beAt d 8 6 % 2 ^ 32)).wr (INGP_PORT_MAC_HI_ADDR p) (beAt d 8 6 / 2 ^ 32)
        let v := if f / 2 % 2 = s.rd (INGP_PORT_CTRL_FEC p) ∧ f % 2 = 1 then v
          else (v.wr (INGP_PORT_STATUS_LINK p) 0).wr (INGP_PORT_STATUS_FEC_LOCK p) 0
        v.ptpElect.ok c))) ∧
    (s.Begins 0x0510 c rest → let x := StreamDef.parse d
      (x.badField = true → exec .streamDefine s = .next (u.fail c stBAD_PARAM)) ∧
      (x.badField = false → u.legsBad x = false → (u.streamRead x.k && u.streamMoves x) = false → u.buffersBad x = true →
        exec .streamDefine s = .next (u.fail c stPROT_BOUND)) ∧
      (x.badField = false → u.legsBad x = false → (u.streamRead x.k && u.streamMoves x) = false → u.buffersBad x = false → u.sFlag x.k 0 = false →
        x.on 0 = true → ∀ t, u.placeStream x = some t → (t.writeStream x d).rateFits = true →
        let t := if x.on 1 then t.fillRange x.base (x.base + (x.buffers - 1) * x.stride + x.frame - 1) else t
        let v := t.writeStream x d
        let v := v.streamReset x.k false
        u.mcastLegs x.k = v.mcastLegs x.k → u.sFlag x.k 5 = v.sFlag x.k 5 →
        exec .streamDefine s = .next (v.finish c stOK (leBytes 1 x.store ++ [0, 0, 0] ++ leBytes 4 (x.pitch * 64) ++
          leBytes 8 (if x.on 2 then v.lrBase x.k else 0)))))

/-- Frames and losses of the ingest: a frame on an enabled port counts, and is sorted or counted as an FCS error; a PIXEL frame of a
relayed stream goes to the stream with its ring ID; a stream with no packet for its loss time stops receiving, sets its cause and is
logged; so does one leg clear its OK bit; the firmware takes the oldest network packet; a silent PTP master times out. -/
def Obligations.IngestEvents : Prop :=
  ∀ s : State,
    (∀ (p : Fin 4) (f : RxFrame), s.mainUp = true → s.rd (INGP_PORT_CTRL_EN p) = 1 → f.bytes.length + 4 ≤ 9216 →
      let u := s.portUp p
      let q := u.ingest.rx[p] ++ [f]
      (262144 < portBytes q → exec (.ingestReceive p f) s = .next ((u.count (INGP_RX_OVERFLOW_COUNT p) 1).setCause (causeIng 2))) ∧
      (u.ingest.rx[p] = [] → portBytes q ≤ 262144 → exec (.ingestReceive p f) s = .next (
        ({ u.count (INGP_RX_FRAMES_COUNT p) 1 with ingest := { u.ingest with rx := u.ingest.rx.set p [] } }).parseFrame p f))) ∧
    (∀ (p : Fin 2) (x : RxItem), (s.takeRx p 6 0).1 = some x → exec (.pixel p) s = .next ((List.range 32).foldl (fun t i =>
      if t.sFlag (16 + i) 0 && decide (t.rd (INGS_S_RING_ID (16 + i)) = x.frame.stream) then
        t.streamPacket (16 + i) 0 x.frame.payload (x.frame.payload.length + 28) else t) (s.takeRx p 6 0).2)) ∧
    (∀ k : Fin 48, s.mainUp = true → s.rd (INGS_S_STATUS_RECEIVING k) = 1 → s.lossMs k ≠ 0 → (s.strm k).lastPkt + s.lossMs k < s.now →
      exec (.streamLost k) s = .next (((((s.wr (INGS_S_STATUS_RECEIVING k) 0).streamCause k 0).report EV_STREAM_LOST (src 7 k) 0).dropCur
        k).streamRefLost k)) ∧
    (∀ (k : Fin 48) (leg : Fin 2), let f := if leg.val = 0 then INGS_S_STATUS_LEG1_OK k else INGS_S_STATUS_LEG2_OK k
      s.mainUp = true → s.rd f = 1 → s.lossMs k ≠ 0 → (s.strm k).legAt[leg] + s.lossMs k < s.now → exec (.legLost k leg) s = .next (s.wr f 0)) ∧
    (∀ (p : Fin 4) x more o, s.serving = true → s.ingest.net[p] = x :: more → l3At x.bytes = some o → etherType x.bytes = 0x0806 →
      exec (.firmwareNetPacket p) s =
        .next (({ s with ingest := { s.ingest with net := s.ingest.net.set p more } }).arpPacket p x.bytes o)) ∧
    (s.serving = true → s.rd ING_PTP_STATUS_STATE ≠ 0 → s.ingest.ptp.lastAt + 4 * s.ingest.ptp.interval < s.now →
      let t := (s.setPtp fun x => { x with good := 0, poor := 0, lastAt := s.now }).ptpElect
      exec .ptpSyncTimeout s = .next (if t.rd ING_PTP_STATUS_STATE = 2 then t.ptpState 3
        else if t.ingest.ptp.master.isNone then t.ptpState 0 else t))

/-! ### The ring -/

/-- RING_JOIN, RING_LEAVE and RING_MEMBERS: a join with a field out of range is BAD_PARAM, one while the Shroud is not THROUGH or another
runs is BUSY, otherwise the ports go on, the Shroud enters HANDBACK, the registers as they stood are kept and the command waits; a leave
on a device that is not joined completes at once where the Shroud holds the through-path, and otherwise when it takes it; RING_MEMBERS
writes the entries that fit. -/
def Obligations.RingMembershipCommands : Prop :=
  ∀ (c : FwCmd) (rest : List FwCmd) (s : State), let u := s.begun c rest
    let d := c.payload
    (s.Begins 0x0601 c rest →
      (joinRange d = false → exec .ringJoin s = .next (u.fail c stBAD_PARAM)) ∧
      (joinRange d = true → s.joined = true → leAt d 0 2 = s.ringId →
        exec .ringJoin s = .next ((u.joinParams d).finish c stOK (u.joinParams d).joinResp)) ∧
      (joinRange d = true → s.joined = false → s.ring.join.isSome = true → s.took c ≠ [] →
        exec .ringJoin s = .next (u.waitFor c .join)) ∧
      (joinRange d = true → s.joined = false → s.ring.join = none ∨ s.took c = [] →
        s.rd SHD_STATE_STATE ≠ 1 ∨ s.shroud.path ≠ 1 ∨ s.ring.join.isSome = true →
        exec .ringJoin s = .next (u.fail c stBUSY)) ∧
      (joinRange d = true → s.joined = false → s.rd SHD_STATE_STATE = 1 → s.shroud.path = 1 → s.ring.join = none →
        exec .ringJoin s = .next ((((((((u.take c [leAt d 0 2]).joinParams d).wr HLY_CTRL_HW_EN 1).wr HLY_CTRL_HE_EN 1).wr SHD_STATE_STATE 3)).setRing fun r =>
          { r with join := some ⟨.lock, 0, leAt d 0 2, u.joinSaves⟩ }).waitFor c .join))) ∧
    (s.Begins 0x0602 c rest →
      (s.joined = true → exec .ringLeave s = .next ((if s.ring.leaving then u else u.startLeave).waitFor c .leave)) ∧
      (s.joined = false → s.ring.join = none → exec .ringLeave s = .next (if s.shroud.path = 1 then u.ok c else u.waitFor c .leave)) ∧
      (s.joined = false → s.ring.join.isSome = true → exec .ringLeave s = .next (u.fail c stBUSY))) ∧
    (s.Begins 0x0603 c rest → leAt d 8 4 = 0 ∨ u.bufOk (leAt d 0 8) (leAt d 8 4) = true →
      exec .ringMembers s = .next (let es := u.byHops.take (leAt d 8 4 / 16)
        (u.fwWrite (leAt d 0 8) (es.map Member.entry).flatten).finish c stOK (leBytes 4 s.ring.members.length ++ leBytes 4 es.length)))

/-- RING_COPY starts a bulk transfer under the next transfer ID and waits for its end; RING_WB_RELAY turns a head's relay on or off;
RING_POLICE_SET writes a policer and fills its bucket; RING_SCHED_SET and RING_GATE_SET apply their parameters to the ports they name. -/
def Obligations.RingTrafficCommands : Prop :=
  ∀ (c : FwCmd) (rest : List FwCmd) (s : State), let u := s.begun c rest
    let d := c.payload
    (s.Begins 0x0620 c rest → leAt d 0 2 ∉ [0, 0xFFFF, s.ringId] → leAt d 2 1 ≤ 4 → leAt d 8 8 % 64 = 0 → leAt d 16 8 % 64 = 0 →
      leAt d 24 4 ≠ 0 → leAt d 4 2 ≠ 0 → u.bufOk (leAt d 8 8) (leAt d 24 4) = true → s.joined = true → s.took c = [] →
      exec .ringCopy s = .next (let x := s.ring.nextXfer
        (((u.setRing fun r => { r with nextXfer := r.nextXfer % 4095 + 1 }).take c [x]).bulkSend
          ⟨x, leAt d 0 2, leAt d 2 1, leAt d 8 8, leAt d 16 8, leAt d 24 4, leAt d 4 2, 0, none, false⟩).waitFor c (.ringCopy x))) ∧
    (s.Begins 0x0630 c rest → leAt d 0 1 < s.nHeads → leAt d 1 1 ≤ 4 → leAt d 2 2 ≠ 0 → leAt d 4 1 ≠ 0 → leAt d 4 1 ≤ 4 →
      leAt d 16 4 % 64 = 0 → s.rd (HEAD_WB_CTRL_FORMAT (leAt d 0 1)) ∈ [1, 3, 5] → s.joined = true →
      exec .ringWbRelay s = .next (
        let last := s.ring.relays[Fin.ofNat 4 (leAt d 0 1)].bind Relay.xfer
        let r : Relay := ⟨leAt d 1 1, leAt d 2 2, leAt d 4 1, leAt d 8 8, leAt d 16 4, last, (leAt d 5 1).testBit 0⟩
        (u.setRing fun x => { x with relays := x.relays.set (Fin.ofNat 4 (leAt d 0 1)) (some r) }).ok c)) ∧
    (s.Begins 0x0642 c rest → let i := leAt d 0 1
      let fl := leAt d 1 1
      i < 64 → leAt d 4 2 ≤ 4095 → leAt d 8 4 ≤ 1048575 → leAt d 2 1 ≤ 7 → leAt d 2 1 ≠ 5 → leAt d 2 1 ≠ 7 →
      leAt d 4 2 ≠ 0 ∨ fl.testBit 2 = true → leAt d 6 2 ≠ 0 →
      exec .ringPoliceSet s = .next (
        let v := ((u.wr (POL_CTRL_EN i) (b2n (fl.testBit 0))).wr (POL_CTRL_POINT i) (b2n (fl.testBit 1))).wr (POL_CTRL_ANY_STREAM i) (b2n (fl.testBit 2))
        let v := ((v.wr (POL_CTRL_CLASS i) (leAt d 2 1)).wr (POL_CTRL_STREAM i) (leAt d 4 2)).wr (POL_RATE_RATE i) (leAt d 8 4)
        ((v.wr (POL_BURST_BURST i) (leAt d 6 2)).setRing fun r =>
          { r with policers := r.policers.set (Fin.ofNat 64 i) ⟨bucketSize (leAt d 6 2), s.now⟩ }).ok c)) ∧
    (s.Begins 0x0640 c rest →
      (schedRange d = false → exec .ringSchedSet s = .next (u.fail c stBAD_PARAM)) ∧
      (schedRange d = true → ∀ v, u.schedApply d = some v →
        exec .ringSchedSet s = .next (if u.resizedEmpty d then u.schedFinish c else u.waitFor c (.sched (s.now + 1000000))))) ∧
    (s.Begins 0x0641 c rest →
      (gateRange d = false → exec .ringGateSet s = .next (u.fail c stBAD_PARAM)) ∧
      (gateRange d = true → u.bufOk (leAt d 24 8) (leAt d 2 2 * 4) = true →
        let r := u.fwRead (leAt d 24 8) (leAt d 2 2 * 4)
        let g := r.2.gateOf d r.1
        (∀ e ∈ g.1.entries, e.2 ≠ 0) → g.1.tooShort = false → (leAt d 1 1).testBit 1 = false → (leAt d 1 1).testBit 0 = true →
        exec .ringGateSet s = .next (((portList (leAt d 0 1)).foldl (fun t p => t.gateWrite p d g.1) r.2).finish c stOK
          (leBytes 8 (g.1.start / 1000000000) ++ leBytes 4 (g.1.start % 1000000000) ++ leBytes 4 g.1.wGate ++ leBytes 4 (b2n g.2) ++ leBytes 4 0))))

/-- A frame that arrives on a ring port: the Shroud passes it on while it carries the through-path; on an enabled port of the running main
die it counts in RX_FRAMES and, by its CRC, in RX_STOMPED or RX_CRC_ERR; a joined device handles it, any other takes good BEACONs only,
and counts the bytes of a damaged frame as dropped. A frame that was cut short counts in RX_DROP_BYTES the bytes that arrived (log 36). -/
def Obligations.RingReception : Prop :=
  ∀ (p : Fin 2) (bytes : List Byte) (s : State), s.Inv →
    (s.shroud.path = 1 → s.mainUp = false → exec (.ringReceive p bytes) s = .next (s.emit (.ringTx (otherPort p.val) bytes))) ∧
    (s.shroud.path = 2 → s.mainUp = true → s.portEn p.val = true →
      let f := HFrame.parse bytes
      let t := (s.count (HLYP_RX_FRAMES_COUNT p.val) 1).setRport p fun x => { x with hearsRf := false }
      let cut := fun (b v : State) => if cutShort bytes then b.cutCounted p.val v bytes.length else v
      (crcState bytes = .good → s.joined = true → exec (.ringReceive p bytes) s = .next (cut t (t.purgeEnds.ringHandle p.val f .good))) ∧
      (crcState bytes = .stomped → s.joined = false → exec (.ringReceive p bytes) s =
        .next (let b := t.count (HLYP_RX_STOMPED_COUNT p.val) 1; cut b (b.rxDrop p.val f))) ∧
      (crcState bytes = .bad → s.joined = true → exec (.ringReceive p bytes) s = .next (
        let b := (t.count (HLYP_RX_CRC_ERR_COUNT p.val) 1).setRport p fun x => { x with badAt := some s.now }
        cut b (b.purgeEnds.ringHandle p.val f .bad))) ∧
      (crcState bytes = .good → s.joined = false → f.cls = 5 → f.stream = 0 →
        exec (.ringReceive p bytes) s = .next (cut t ((t.noteBeacon f).ringDeliver p.val f false))))

/-- The frames of membership and time that a joined device sends when their period has passed: BEACON, PDELAY_REQ and, on the time master,
SYNC. BEACON, BEACON_LOSS, PDELAY_REQ, PDELAY_RESP and SYNC: a BEACON of a new device enters the membership table; one of this device's
own ring ID with another serial number is a clash; a member silent too long leaves the table; a PDELAY_REQ is answered on its port with
its time of arrival; a matching PDELAY_RESP enters the link-delay history; the first usable SYNC of the master gives TIME_VALID. -/
def Obligations.RingControlFrames : Prop :=
  (∀ s : State, s.mainUp = true → s.joined = true →
    (s.ring.leaving = false → s.rd HLY_BEACON_PERIOD ≠ 0 → s.ring.lastBeacon + s.rd HLY_BEACON_PERIOD * 1000 ≤ s.now →
      exec .beaconSend s = .next ((s.sendBeacon 0).setRing fun r => { r with lastBeacon := s.now })) ∧
    (∀ p : Fin 2, s.rd (linkFld p) = 1 → (s.rport p).pdLast + 1000000 ≤ s.now →
      exec (.pdelaySend p) s = .next (let t := s.setRport p fun y => { y with pdId := (y.pdId + 1) % 2 ^ 32, pdLast := s.now }
        t.ringInsert p 7 7 0 1 (beBytes 4 (t.rport p).pdId ++ List.replicate 28 0) false)) ∧
    (s.rd HLY_TIME_MASTER_ID = s.ringId → s.ringId ≠ 0 → s.rd HLY_TIME_CFG_SYNC_PERIOD ≠ 0 →
      s.ring.lastSync + s.rd HLY_TIME_CFG_SYNC_PERIOD * 1000 ≤ s.now →
      let n := s.syncSeq
      let f : HFrame := ⟨7, s.ringId, 0xFFFF, 0, n.1, List.replicate 19 0 ++ beBytes 1 s.ownRank ++ List.replicate 12 0⟩
      let t := n.2.setRing fun r => { r with lastSync := s.now }
      let put := fun (t : State) (p : Nat) => if t.wrapped p then t else t.offerQ p 7 ⟨f, false, none, none⟩
      exec .syncSend s = .next (put (put t 0) 1))) ∧
  (∀ (p : Fin 2) (x : RxItem) (s : State), let d := x.frame.payload
    ((s.takeRx p 5 0).1 = some x →
      let t := (s.takeRx p 5 0).2.purgeEnds
      (x.frame.src = t.ringId → t.joined = true →
        (∀ m ∈ t.ring.members, m.rid = x.frame.src → t.lossNs ≠ 0 → x.rxNow ≤ m.at_ + t.lossNs) → exec (.beacon p) s =
        .next (if beAt d 0 8 = t.fuses.serial then t else t.ridClash (beAt d 0 8))) ∧
      (x.frame.src ≠ t.ringId ∨ t.joined = false → let v := t.beaconEnds x.frame.src (beAt d 12 2)
        (∀ m ∈ v.ring.members, m.rid ≠ x.frame.src) → beAt d 8 1 ≠ 1 → exec (.beacon p) s =
          .next (v.membersChanged (v.ring.members ++
            [⟨x.frame.src, beAt d 0 8, beAt d 8 1, beAt d 9 1, beAt d 10 1, beAt d 11 1, x.rxNow⟩])).noteOrder)) ∧
    (∀ (rid : BitVec 16) m, s.ring.members.find? (fun m => decide (m.rid = rid.toNat)) = some m → s.mainUp = true → s.lossNs ≠ 0 →
      m.at_ + s.lossNs < s.now → s.beaconWaits m = false →
      exec (.beaconLoss rid) s = .next (s.membersChanged (s.ring.members.filter fun m => m.rid ≠ rid.toNat))) ∧
    ((s.takeRx p 7 1).1 = some x → exec (.pdelayReq p) s =
      .next ((s.takeRx p 7 1).2.ringInsert p 7 7 0 2 (slice d 0 4 ++ timeBytes x.at_ ++ List.replicate 18 0) false)) ∧
    ((s.takeRx p 7 2).1 = some x → ∀ t1, ((s.takeRx p 7 2).2.rport p).pdOpen = some (beAt d 0 4, t1) →
      let half : Int := ((x.at_ : Int) - t1) - ((timeAt d 14 : Int) - timeAt d 4)
      let t := (s.takeRx p 7 2).2.setRport p fun y => { y with pdOpen := none, pdHist := (y.pdHist ++ [half]).drop (y.pdHist.length + 1 - 8) }
      let v := t.wr (delayFld p) (min (t.linkNs p) 0xFFFE)
      exec (.pdelayResp p) s = .next (if 10 < absDiff (t.linkNs p) v.ring.hzDelays[p] then v.recomputeHorizon else v)) ∧
    ((s.takeRx p 7 0).1 = some x → let t := (s.takeRx p 7 0).2
      ∀ dl, (t.rport p).delay16 = some dl → beAt d 18 1 ≠ 255 → x.frame.src = t.rd HLY_TIME_MASTER_ID → x.frame.src ≠ t.ringId →
        t.ring.syncUsed = none → t.timeLate x.rxNow = false →
        let m : Int := (timeAt d 0 : Int) * 65536 + sext 64 (beAt d 10 8) + dl
        let off := ((x.at_ : Int) * 65536 - m) / 65536
        let v := t.setRing fun r => { r with syncUsed := some (x.frame.seq, beAt d 18 1), syncUsedAt := t.now }
        exec (.sync p) s = .next ((((((v.wr HLY_TIME_OFFSET_NS (wrap 32 off)).wr HLY_TIME_MASTER_HOPS (beAt d 18 1)).wr HLY_TIME_MASTER_PATH p.val).wr
          HLY_STATUS_TIME_VALID 1).offerOffset 1 off).retime)))

/-- Ring links: lock lost clears the link flag, counts, sets cause 0 and notes the time; lock regained sets the flag, makes the delay
invalid and sets cause 1; a fault (a lock lost for longer than HOLDOFF, eight uncorrectable codewords within 1 ms, Remote Fault) wraps the
port, turns its queues, is logged as EV_RING_WRAP and told to the other devices, and the port sends Remote Fault unless Remote Fault was
its cause; the unwrap at its time clears it, ends Remote Fault and is logged as EV_RING_UNWRAP. -/
def Obligations.RingLinks : Prop :=
  ∀ (p : Fin 2) (s : State), s.mainUp = true →
    (s.rd (linkFld p) = 1 → exec (.ringLockLoss p) s =
      .next ((((s.wr (linkFld p) 0).count (HLYP_LOCK_LOSS_COUNT p.val) 1).setCause (causeHly 0)).setRport p fun x =>
        { x with lostAt := some s.now, cleanSince := none, unwrapAt := if x.fault then none else x.unwrapAt })) ∧
    (s.portEn p.val = true → s.rd (linkFld p) = 0 → (s.joined && !(s.rport p).fault && s.faultHits p .lock) = false →
      exec (.ringLockRegain p) s =
      .next ((((s.wr (linkFld p) 1).wr (delayFld p) 0xFFFF).setCause (causeHly 1)).setRport p fun x =>
        { x with lostAt := none, cleanSince := some s.now, pdHist := [], pdOpen := none })) ∧
    (∀ why : RingFault, let u := match why with
        | .lock => s
        | .codeword => (s.count (HLYP_FEC_UNCORR_COUNT p.val) 1).setRport p fun y => { y with
            uncorr := s.now :: y.uncorr.filter fun t => decide (s.now ≤ t + 1000000), cleanSince := y.cleanSince.map fun _ => s.now, badAt := some s.now }
        | .remote => s.setRport p fun y => { y with hearsRf := true }
      let due : Prop := match why with
        | .lock => ∃ a, (s.rport p).lostAt = some a ∧ a + max 6 (s.rd HLY_WRAP_CFG_HOLDOFF) * 1000 < s.now
        | .codeword => 8 ≤ (u.rport p).uncorr.length
        | .remote => True
      (s.joined = true → due → exec (.ringFault ⟨p, why⟩) s = .next (
        let t := u.setRport p fun y => { y with fault := true, unwrapAt := none, cleanSince := if u.flag (linkFld p) then some u.now else none }
        let t := if why = .remote then t else t.sendRf p.val true
        if t.wrapped p then t
        else
          let t := ((t.wr (wrapFld p) 1).turnQueues p).setCause (causeHly 2)
          let t := (t.report EV_RING_WRAP (src 8 p.val) 0).addEnd t.ringId p.val
          t.ringInsert (otherPort p) 5 5 0xFFFF 3 (noticeBytes t.ringId p.val 0 0) false)) ∧
      (s.joined = false ∨ ¬ due → exec (.ringFault ⟨p, why⟩) s = .next u)) ∧
    (∀ since, s.joined = true → (s.rport p).fault = true → (s.rport p).cleanSince = some since →
      s.rd HLY_WRAP_CFG_RESTORE ≠ 0 → since + s.rd HLY_WRAP_CFG_RESTORE * 1000000 ≤ s.now →
      ((s.rport p).unwrapAt ≠ none ∨ (s.rport p).hearsRf = true → exec (.portClean p) s = .next (s.sendRf p.val false)) ∧
      ((s.rport p).unwrapAt = none → (s.rport p).hearsRf = false → exec (.portClean p) s = .next (
        let t := (s.sendRf p.val false).setRport p fun y => { y with fault := false }
        if p.val = 1 then
          (t.ringInsert 1 5 5 0 3 (noticeBytes t.ringId 1 1 (t.time.ns + 1000000)) false).announceUnwrap 1 (t.time.ns + 1000000)
        else t))) ∧
    (∀ u, (s.rport p).unwrapAt = some u → s.wrapped p = true → u ≤ s.time.ns → exec (.unwrap p) s = .next (
      let t := ((s.setRport p fun y => { y with unwrapAt := none, fault := false }).sendRf p.val false).wr (wrapFld p) 0
      let t := if p.val = 1 then t.returnQueues else t
      ((t.dropEnd t.ringId p.val).setCause (causeHly 3)).report EV_RING_UNWRAP (src 8 p.val) 0)) ∧
    (∀ x : RxItem, (s.takeRx p 5 3).1 = some x → let d := x.frame.payload
      let t := (s.takeRx p 5 3).2.purgeEnds
      beAt d 3 1 = 0 → exec (.wrapNotice p) s = .next ((t.setRing fun r => { r with
        unwraps := r.unwraps.filter fun u => ¬ (u.1 = beAt d 0 2 ∧ u.2.1 = beAt d 2 1) }).addEnd (beAt d 0 2) (beAt d 2 1)))

/-- Bulk transfers: a frame outside the window is counted, dropped, sets cause 10 and is logged as EV_PROT_BOUND, one inside is stored at
its place and counted for its transfer; BULK_DONE is answered with the count, once no frame of the transfer waits; BULK_ACK ends or
repeats the transfer; so does the wait for it. RING_EGRESS sends; the gate rows put a gate list in force and show its entry. -/
def Obligations.RingTraffic : Prop :=
  ∀ (p : Fin 2) (s : State),
    (∀ x : RxItem, (s.rport p).rx.find? (fun x => x.frame.cls < 5) = some x →
      let t := s.setRport p fun y => { y with rx := y.rx.eraseP fun z => decide (z.frame.cls < 5) }
      let off := beAt x.frame.payload 0 8
      let data := x.frame.payload.drop 8
      (t.bulkWindow = none ∨ (∃ b n, t.bulkWindow = some (b, n) ∧ n < off + data.length) → exec (.bulk p) s = .next ((((t.count (HLYP_WIN_BOUND_COUNT p.val) 1).rxDrop p.val x.frame).setCause
        (causeHly 10)).report EV_PROT_BOUND (src 8 0) (detailAddr (t.rd HLY_WIN_LO_ADDR * 2 ^ 16 + t.rd HLY_WIN_HI_ADDR * 2 ^ 32 + off) reqHly 0))) ∧
      (∀ b n, t.bulkWindow = some (b, n) → off + data.length ≤ n → exec (.bulk p) s = .next (
        let v := (t.memWrite reqHly (b + off) data false).2
        let key := (x.frame.src, x.frame.stream)
        v.setRing fun r => { r with bulkRx := (key, (v.ring.bulkRx.lookup key).getD 0 + 1) :: r.bulkRx.filter fun e => e.1 ≠ key }))) ∧
    (∀ x : RxItem, (s.rport p).rx.find? (fun x => decide (x.frame.cls = 5 ∧ x.frame.stream = 4)) = some x →
      (∀ q : Fin 2, ∀ y ∈ (s.rport q).rx, ¬ (y.frame.cls < 5 ∧ y.frame.src = x.frame.src ∧ y.frame.stream = beAt x.frame.payload 0 2)) →
      exec (.bulkDone p) s = .next (let t := (s.takeRx p 5 4).2
        let key := (x.frame.src, beAt x.frame.payload 0 2)
        (t.setRing fun r => { r with bulkRx := r.bulkRx.filter fun e => e.1 ≠ key }).ringControl x.frame.src 5
          (beBytes 2 (beAt x.frame.payload 0 2) ++ [0, 0] ++ beBytes 4 ((t.ring.bulkRx.lookup key).getD 0)))) ∧
    (∀ (x : RxItem) (b : BulkTx) more, (s.takeRx p 5 5).1 = some x → s.ring.bulkTx = b :: more → b.xfer = beAt x.frame.payload 0 2 →
      b.dest = x.frame.src → b.doneSent = true → (∀ e, b.deadline = some e → x.rxNow ≤ e) → let t := (s.takeRx p 5 5).2
      (beAt x.frame.payload 4 4 = bulkFrames b.bytes → exec (.bulkAck p) s = .next (t.bulkEnd b.xfer stOK)) ∧
      (beAt x.frame.payload 4 4 ≠ bulkFrames b.bytes → b.attempts < 3 → exec (.bulkAck p) s = .next (t.bulkSend b)) ∧
      (beAt x.frame.payload 4 4 ≠ bulkFrames b.bytes → 3 ≤ b.attempts → exec (.bulkAck p) s = .next (t.bulkEnd b.xfer stREMOTE_TIMEOUT))) ∧
    (∀ (b : BulkTx) more (t : Nat), s.serving = true → s.ring.bulkTx = b :: more → b.deadline = some t → t < s.now → s.bulkAckWaits b t = false →
      exec .bulkAckTimeout s = .next (if b.attempts < 3 then s.bulkSend b else s.bulkEnd b.xfer stREMOTE_TIMEOUT)) ∧
    (s.mainUp = true → exec (.ringEgress p) s = .next (
      let t := if s.shroud.path = 2 then (s.egress p.val).bulkDones else s
      if t.serving then t.schedWaits else t)) ∧
    (∀ g, s.governs p.val = some g → exec (.gateEntryAdvance p) s = .next (s.wr (HLYQ_GATE_STATUS_ENTRY p.val) (g.entryAt s.time.ns))) ∧
    (∀ g, (s.rport p).pend = some g →
      (s.time.ns < g.start → exec (.gateListStart p) s = .next s) ∧
      (s.Inv → g.start ≤ s.time.ns → Runs (.gateListStart p) s fun t => t = s.gateOperate p.val ∧ (t.rport p).oper = some g ∧
        (t.rport p).pend = none ∧ t.rd (HLYQ_GATE_STATUS_PENDING p.val) = 0 ∧ t.rd (HLYQ_GATE_STATUS_RUNNING p.val) = s.rd (HLYQ_GATE_CTRL_EN p.val)))

/-- The Shroud: a heartbeat of the main die is noted while it carries the ring; a missing one takes the ring over with cause 3; a fault in
THROUGH makes it FAULT and closes OK_PIN; 1 ms after both rails are good it is THROUGH; a rail that goes opens the path; the boundary scan
bypasses it. A takeover by the Shroud happens from STANDBY and HANDBACK only, with the auxiliary rails good; of two causes in one cycle,
the one R711 ranks first stands. It sets STATE to THROUGH with OK_PIN, notes the cause and counts; the device is no longer joined and has
no ring ID; the gap of the switch is at most 5,000 ns, a value the spec leaves open (log 6). -/
def Obligations.ShroudEvents : Prop :=
  (∀ s : State,
    (s.mainUp = true → s.shroud.path = 2 → s.now ≤ s.shroud.lastHb + max 5 (s.rd SHD_HB_TIMEOUT) * 100 →
      exec .shroudHeartbeat s = .next (s.setShroud fun x => { x with lastHb := s.now })) ∧
    (s.shroud.path = 2 → s.shroud.lastHb + max 5 (s.rd SHD_HB_TIMEOUT) * 100 < s.now → exec .shroudHbTimeout s = .next (s.shroudTakeover 3)) ∧
    (s.Inv → s.auxGood = true → s.rd SHD_STATE_STATE = 1 → Runs .shroudFault s fun t => t.rd SHD_STATE_STATE = 4 ∧ t.rd SHD_STATE_OK_PIN = 0 ∧
      t.rd SHD_STATE_LANE_LOCK ≠ 0xFF ∧
      t.shroud = { s.shroud with path := 0, faulted := true } ∧ (∀ o, o ≠ SHD_STATE_STATE.off → t.reg o = s.reg o) ∧
      t = { s with regs := t.regs, shroud := t.shroud, freeCtr := t.freeCtr }) ∧
    (s.auxGood = true → s.rd SHD_STATE_STATE = 0 → s.shroud.goodSince + 1000000 ≤ s.now →
      exec .shroudPorEnd s = .next s.shroudThrough.bypassUpdate) ∧
    (∀ a b : Bool, let t := s.setShroud fun x => { x with vaux := a, vaux18 := b }
      (t.auxGood = s.auxGood → exec (.auxRailChange a b) s = .next t) ∧
      (t.auxGood = true → s.auxGood = false → exec (.auxRailChange a b) s = .next (t.shdReset.setShroud fun x =>
        { x with goodSince := s.now, path := 0, faulted := false, lastHb := s.now, unreported := false, takenAt := none })) ∧
      (t.auxGood = false → s.auxGood = true → let u := t.shroudTo (s.rd SHD_STATE_STATE) false 0
        exec (.auxRailChange a b) s = .next (if s.mainUp then u.ringLost else u))) ∧
    ∀ on, exec (.boundaryScan on) s = .next ((s.setShroud fun x => { x with scan := on }).bypassUpdate)) ∧
  (∀ (s : State) (cause : Nat), s.Inv → cause < 8 →
    (s.auxGood = false ∨ (s.rd SHD_STATE_STATE ≠ 2 ∧ s.rd SHD_STATE_STATE ≠ 3 ∧ s.shroud.takenAt ≠ some s.now) → s.shroudTakeover cause = s) ∧
    (s.auxGood = true → s.rd SHD_STATE_STATE ≠ 2 → s.rd SHD_STATE_STATE ≠ 3 → s.shroud.takenAt = some s.now → s.shroudTakeover cause =
      if causeRank cause < causeRank (s.rd SHD_CAUSE_CAUSE) then s.wr SHD_CAUSE_CAUSE cause else s) ∧
    (s.auxGood = true → s.rd SHD_STATE_STATE = 2 ∨ s.rd SHD_STATE_STATE = 3 → s.ring.join = none → s.fw.waiting = [] →
      let t := s.shroudTakeover cause
      t.rd SHD_STATE_STATE = 1 ∧ t.rd SHD_STATE_OK_PIN = 1 ∧ t.rd SHD_CAUSE_CAUSE = cause ∧ t.rd SHD_OUT_GAP_NS ≤ 5000 ∧
      t.rd SHD_TAKEOVERS_COUNT = min (s.rd SHD_TAKEOVERS_COUNT + 1) (2 ^ SHD_TAKEOVERS_COUNT.width - 1) ∧
      t.joined = false ∧ t.ringId = 0 ∧ t.shroud.path = 1 ∧ t.shroud.unreported = !s.mainUp))

/-- The return to service step by step: lock of both ports, the listening time, the check of the lanes, matching and switching of each
port, membership, and the completion of RING_JOIN when both link delays are valid; a check fails also where a port has seen an
uncorrectable codeword or a bad CRC since the lock; a clash, or a third failed check, fails the join. A leave switches back once its
BEACON has gone. LEAVE_SWITCH: a device that leaves gives the ring back to the Shroud once no BEACON of its own waits in either port's Q5.
-/
def Obligations.HandbackSteps : Prop :=
  (∀ (j : Join) (s : State), s.ring.join = some j →
    (∀ t c, j.step = .listen t false c → t + 2 * s.lossNs ≤ s.now →
      (s.ring.members = [] → exec .handbackListenEnd s = .next ((s.setJoin fun j => { j with step := .listen t true c }).joinMatch)) ∧
      (∀ m, s.ring.members = [m] → m.rid = j.rid → m.serial ≠ s.fuses.serial →
        exec .handbackListenEnd s = .next (s.joinFails stBAD_PARAM m.serial))) ∧
    (∀ t h, j.step = .listen t h false → t + 1000000 ≤ s.now →
      (s.joinSound t = true →
        exec (.handbackCheckEnd true) s = .next ((s.setJoin fun j => { j with step := .listen t h true }).joinMatch)) ∧
      (∀ clean, (clean && s.joinSound t) = false →
        (j.tries < 3 → exec (.handbackCheckEnd clean) s = .next (s.setJoin fun j => { j with step := .lock, tries := j.tries + 1 })) ∧
        (3 ≤ j.tries → exec (.handbackCheckEnd clean) s = .next (s.joinFails stBUSY 0)))) ∧
    (∀ a b, j.step = .matching a b → ∀ p : Fin 2,
      let next : JoinStep := if (a = true ∨ p.val = 0) ∧ (b = true ∨ p.val = 1) then .switching false false
        else .matching (a || decide (p.val = 0)) (b || decide (p.val = 1))
      Runs (.handbackMatchEnd p) s fun t => t.ring.join = some { j with step := next } ∧ t = { s with ring := t.ring }) ∧
    (∀ a b, j.step = .switching a b → ∀ p : Fin 2, exec (.handbackSwitch p) s = .next (
      if (a = true ∨ p.val = 0) ∧ (b = true ∨ p.val = 1) then (s.setJoin fun j => { j with step := .member }).becomeMember j.rid
      else s.setJoin fun j => { j with step := .switching (a || decide (p.val = 0)) (b || decide (p.val = 1)) })) ∧
    (j.step = .member → s.serving = true → (s.rport 0).delay16.isSome = true → (s.rport 1).delay16.isSome = true →
      exec .joinComplete s = .next (s.recomputeHorizon.endJoin stOK s.recomputeHorizon.joinResp)) ∧
    (s.Inv → j.step = .lock → Runs .handbackLock s fun t => (∀ p : Fin 2, s.portEn p.val = true → t.rd (linkFld p) = 1) ∧
      t.rd SHD_STATE_LANE_LOCK = 0xFF ∧ (∀ p : Fin 2, (t.rport p).fault = false ∧ (t.rport p).lostAt = none ∧ (t.rport p).uncorr = [] ∧ (t.rport p).badAt = none) ∧
      t.ring.join = some { j with step := .listen s.now false false })) ∧
  (∀ s : State, s.ring.leaving = true → s.shroud.path = 2 → (∀ p : Nat, p < 2 → ∀ x ∈ s.rqueue p 5, x.frame.stream ≠ 0) →
    exec .leaveSwitch s = .next s.shroudThrough.switchGap.ringLost)

/-! ### Memory -/

/-- DSM_READ and DSM_WRITE pass the region check first: a requester without permission gets an error response, whose poisoned bytes the
spec leaves open (log 6), and its write stores nothing and gets an error response; what is left of a refusal is its log entry and count; a
write of a core that is held does nothing. A permitted read answers the corrected line, a permitted write stores its bytes. SEAL_PAGE
seals a page that has been quiet, or fails it where a line of it cannot be corrected. -/
def Obligations.DensumLines : Prop :=
  ∀ s : State, s.mainUp = true →
    (∀ (r : Fin 9) (line : BitVec 21) ups, let la := dsmBase + line.toNat * 64
      let t := s.upset la ups
      (t.dsmAllowed r.val (la - dsmBase) false = true → exec (.dsmRead r line ups) s = .next (let a := t.dsmRawRead la
        a.2.emit (.dsmRead r.val a.1.data a.1.poison a.1.err))) ∧
      (t.dsmAllowed r.val (la - dsmBase) false = false → exec (.dsmRead r line ups) s = .next (
        let v := (t.dsmPermErr r.val la).freeLine
        v.2.emit (.dsmRead r.val v.1 true true)))) ∧
    (∀ (r : Fin 9) (core : Option (Fin 2)) (addr : BitVec 27) data pois, let a := dsmBase + addr.toNat
      (∀ k, core = some k → s.coreHeld k = true → exec (.dsmWrite ⟨r, core⟩ addr data pois) s = .next s) ∧
      ((∀ k, core = some k → s.coreHeld k = false) → exec (.dsmWrite ⟨r, core⟩ addr data pois) s = .next (if s.dsmAllowed r.val addr.toNat true then
        s.dsmRawWrite a (data.take (64 - addr.toNat % 64)) pois else (s.dsmPermErr r.val (a / 64 * 64)).emit (.dsmWriteErr r.val addr.toNat)))) ∧
    (∀ (page : BitVec 15) x, s.pageSeal page.toNat = some x →
      (x.isSealed = true ∨ x.failed = true ∨ s.now ≤ x.lastWrite + 1000 * max 16 (s.rd DSM_SEAL_CTRL_QUIET) →
        exec (.sealPage page) s = .next s) ∧
      (x.isSealed = false → x.failed = false → x.lastWrite + 1000 * max 16 (s.rd DSM_SEAL_CTRL_QUIET) < s.now →
        (∀ i, i < 64 → (s.innerRead (lineKey page.toNat i)).bad = false) → exec (.sealPage page) s = .next (
          let ls := (List.range 64).map fun i => (i, (s.innerRead (lineKey page.toNat i)).data)
          let t := (List.range 64).foldl (fun t j => t.sealRead (lineKey page.toNat j)) s
          (t.writeParity page.toNat ls).setPage page.toNat ⟨true, x.lastWrite, false⟩)) ∧
      (x.isSealed = false → x.failed = false → x.lastWrite + 1000 * max 16 (s.rd DSM_SEAL_CTRL_QUIET) < s.now →
        ∀ i, i < 64 → (s.innerRead (lineKey page.toNat i)).bad = true → (∀ j, j < i → (s.innerRead (lineKey page.toNat j)).bad = false) →
        exec (.sealPage page) s = .next (
          let t := (List.range (i + 1)).foldl (fun t j => t.sealRead (lineKey page.toNat j)) s
          (((t.setPage page.toNat ⟨x.isSealed, x.lastWrite, true⟩).count DSM_SEAL_FAIL_COUNT 1).setCause (causeDsm 3)).report EV_SEAL_FAIL (src 2 0)
            (detailAddr (lineKey page.toNat i) 0xFF 0))))

/-- DSM_OVERRIDE, DSM_REGION_ALLOC, DSM_REGION_FREE, SCRUB and DSM_REPAIR with parameters in range: the override takes the device's serial
number; a region is placed, recorded and answered, or REJECTED_DENSUM; a free of a region in use is BUSY; a scrub and a repair start, one
at a time, and wait. The background work of Densum: a scrub reads line after line and, at its end, clears SCRUB_BUSY, sets cause 5 and
completes its command; a repair copies line after line and then switches the spare in, clears REPAIR_BUSY, sets cause 6 and is logged as
EV_DSM_REPAIR. -/
def Obligations.DensumWork : Prop :=
  (∀ (c : FwCmd) (rest : List FwCmd) (s : State), let u := s.begun c rest
    let d := c.payload
    (s.Begins 0x0702 c rest → exec .dsmOverride s = .next (if leAt d 0 8 = s.fuses.serial then u.dsmOverride.ok c else u.fail c stBAD_PARAM)) ∧
    (s.Begins 0x0710 c rest → leAt d 0 4 ≠ 0 → leAt d 0 4 % 65536 = 0 → leAt d 4 1 ≤ 1 → leAt d 6 2 < 512 → leAt d 8 2 < 512 → s.took c = [] →
      let r := u.dsmNewRegion (leAt d 0 4 / 65536) (leAt d 6 2) (leAt d 8 2) (decide (leAt d 4 1 = 1)) true
      (r = none → exec .dsmRegionAlloc s = .next (u.fail c stREJECTED_DENSUM)) ∧
      (∀ k t, r = some (k, t) → exec .dsmRegionAlloc s = .next ((t.take c [k]).finish c stOK (t.allocResp k)))) ∧
    (s.Begins 0x0711 c rest → let k := leAt d 0 1
      (63 < k ∨ s.rd (DSM_REG_CTRL_EN k) = 0 ∨ s.rd (DSM_REG_CTRL_OWNER k) = 0 → exec .dsmRegionFree s = .next (u.fail c stBAD_PARAM)) ∧
      (k ≤ 63 → s.rd (DSM_REG_CTRL_EN k) = 1 → s.rd (DSM_REG_CTRL_OWNER k) = 1 →
        let lo := dsmBase + (u.regionSpan k).1
        let hi := dsmBase + (u.regionSpan k).2
        exec .dsmRegionFree s = .next (if u.usedSpans.any fun x => decide (x.2 ≠ 0 ∧ x.1 < hi ∧ lo < x.1 + x.2) then u.fail c stBUSY
          else (u.dsmFreeRegion k).ok c))) ∧
    (s.Begins 0x0720 c rest → leAt d 0 8 % 4096 = 0 → leAt d 8 4 % 4096 = 0 → leAt d 8 4 ≠ 0 → inDsm (leAt d 0 8) = true →
      leAt d 0 8 + leAt d 8 4 ≤ dsmBase + dsmSize → exec .scrub s = .next (if s.dsm.scrub.isSome then u.fail c stBUSY
        else
          let job : ScrubJob := ⟨leAt d 0 8, leAt d 0 8 + leAt d 8 4, leAt d 0 8, (leAt d 12 1).testBit 0, 0, 0, 0, 0, 0, 0, 0, [], false, 0⟩
          ((u.setDsm fun x => { x with scrub := some job }).wr DSM_STATUS_SCRUB_BUSY 1).waitFor c .scrub)) ∧
    (s.Begins 0x0730 c rest → ∀ adc, leAt d 0 1 ≤ 65 → leAt d 1 1 ≤ 1 → leAt d 2 2 ≤ (if leAt d 1 1 = 1 then 127 else 2047) → s.took c = [] →
      let col := decide (leAt d 1 1 = 1)
      (leAt d 4 1).testBit 0 = false →
      (u.freeSpare (leAt d 0 1) col = none → exec (.dsmRepair adc) s = .next (u.fail c stBAD_PARAM)) ∧
      ∀ sp, u.freeSpare (leAt d 0 1) col = some sp → exec (.dsmRepair adc) s = .next (if s.dsm.repair.isSome then u.fail c stBUSY
        else
          let lines := (repairLines (leAt d 0 1) col (leAt d 2 2)).map fun x => lineKey x.1 x.2
          let job : RepairJob := ⟨leAt d 0 1, col, leAt d 2 2, sp, false, lines, [], [], [], false⟩
          (((u.take c [sp, leAt d 0 1, leAt d 1 1, leAt d 2 2]).setDsm fun x => { x with repair := some job }).wr DSM_STATUS_REPAIR_BUSY 1).waitFor c .repair))) ∧
  (∀ s : State, s.mainUp = true →
    (∀ j, s.dsm.scrub = some j → let r := s.scrubLine j
      let r := if r.1.next % 4096 = 0 then r.2.scrubPage r.1 (dsmPage (j.next - dsmBase)) else r
      exec .scrubRead s = .next (if r.1.next < r.1.stop then r.2.setDsm fun d => { d with scrub := some r.1 }
        else (((r.2.setDsm fun d => { d with scrub := none }).wr DSM_STATUS_SCRUB_BUSY 0).setCause (causeDsm 5)).wake fun w =>
          if w.kind = .scrub then some (stOK, r.1.resp) else none)) ∧
    (∀ j key more, s.dsm.repair = some j → j.toCopy = key :: more → Runs .repairCopy s fun t =>
      ∃ k, t.dsm.repair = some k ∧ k.toCopy = more ∧ k.bank = j.bank ∧ k.column = j.column ∧ k.index = j.index ∧ k.spare = j.spare) ∧
    (∀ j, s.dsm.repair = some j → j.toCopy = [] → exec .repairSwitch s =
      .next (((((s.repairApply j).wr DSM_STATUS_REPAIR_BUSY 0).setCause (causeDsm 6)).report EV_DSM_REPAIR (src 2 0) 0).repairDone j)))

/-- MEM_CONFIG, DDR_SCRUB, MEM_SLOT_RETIRE and MEM_SLOT_RESTORE with parameters in range: the configuration is committed to flash; a scrub
starts and waits; a mirrored channel whose partner is sound drains and is then retired, which ends a restore that runs (log 62); a retired
one is powered up to be restored. The background work of DDR5: a drained channel is powered down and RETIRED; a scrub goes line by line to
its end; a resilver reads each line of the partner and writes it, with its poison, on the channel that is restored; the fill zeroes
granule by granule and sets DONE and FILL_DONE with the last one. -/
def Obligations.MemoryWork : Prop :=
  (∀ (c : FwCmd) (rest : List FwCmd) (s : State), let u := s.begun c rest
    let d := c.payload
    (s.Begins 0x0701 c rest → leAt d 0 1 ≤ 1 → leAt d 3 1 ≤ 2 → leAt d 0 1 = 1 → 8 ≤ leAt d 1 1 → leAt d 1 1 ≤ 16 →
      let masks := (List.range 9).map fun o => leAt d (4 + 8 * o) 8 % 2 ^ 40
      let fl := leAt d 2 1
      let m : DdrMap := { u.mapRegs with mode := leAt d 0 1, grain := leAt d 1 1, mirror := fl.testBit 0, masks := masks }
      m.valid = true → m.mirrorOk = true →
      exec .memConfig s = .next (u.nvCommand c 4 (.config ⟨leAt d 0 1, leAt d 1 1, fl.testBit 0, fl.testBit 1, leAt d 3 1, masks⟩) [])) ∧
    (s.Begins 0x0721 c rest → leAt d 0 8 % 65536 = 0 → leAt d 8 4 % 65536 = 0 → leAt d 8 4 ≠ 0 →
      (s.ddrBytes < leAt d 0 8 + leAt d 8 4 → exec .ddrScrub s = .next (u.fail c stPROT_BOUND)) ∧
      (leAt d 0 8 + leAt d 8 4 ≤ s.ddrBytes → exec .ddrScrub s = .next (if s.ddr.scrub.isSome then u.fail c stBUSY
        else
          let job : DdrScrubJob := ⟨leAt d 0 8, leAt d 0 8 + leAt d 8 4, (leAt d 12 1).testBit 0, 0, 0, 0, 0, []⟩
          (u.setDdr fun x => { x with scrub := some job }).waitFor c .ddrScrub))) ∧
    (s.Begins 0x0740 c rest → s.took c = [] → let k := leAt d 0 1
      (s.ddr.set ≤ k ∨ s.mirrored = false → exec .memSlotRetire s = .next (u.fail c stBAD_PARAM)) ∧
      let sound := s.chanOut (partner k) = false ∧ s.rd (DMC_STATUS_RESILVER (partner k)) = 0 ∧ (s.chan (partner k)).badSince = false
      (k < s.ddr.set → s.mirrored = true → ¬ sound → exec .memSlotRetire s = .next (u.fail c stBAD_PARAM)) ∧
      (k < s.ddr.set → s.mirrored = true → sound →
        let off := s.rd (DMC_STATUS_RETIRED k) = 1 ∧ s.rd (DMC_SLOT_PWR_EN k) = 0
        ((s.chan k).retiring = true → exec .memSlotRetire s = .next (u.waitFor c (.retire k))) ∧
        ((s.chan k).retiring = false → off → exec .memSlotRetire s = .next (u.ok c)) ∧
        ((s.chan k).retiring = false → ¬ off →
          let t := ((u.restoreEnd k).take c [k]).setChan k fun x => { x with retiring := true }
          exec .memSlotRetire s = .next (if t.rateFits then t.waitFor c (.retire k) else t.fail c stREJECTED_BANDWIDTH)))) ∧
    (s.Begins 0x0741 c rest → let k := leAt d 0 1
      k ≤ 3 → s.rd (DMC_STATUS_RETIRED k) = 1 → exec .memSlotRestore s = .next (if u.restoring k then u.fail c stBUSY
        else
          let t := (u.take c [k]).waitFor c (.restore k)
          if (s.chan k).phase = .none ∧ (s.chan k).resilver = none then
            (t.slotPower k true).setChan k fun x => { x with phase := .pmic s.now } else t))) ∧
  (∀ s : State, s.mainUp = true →
    (∀ c : Fin 4, s.serving = true → (s.chan c).retiring = true → (s.chan c).rdQ = [] → (s.chan c).wrQ = [] → (s.chan c).flight = [] →
      (s.chan c).stalled = [] → exec (.retireDrained c) s =
        .next (((((s.slotPower c false).wr (DMC_STATUS_RETIRED c) 1).wr (DMC_CTRL_EN c) 0).setChan c fun x => { x with retiring := false }).wake
          fun w => if w.kind = .retire c.val then some (stOK, []) else none)) ∧
    (∀ j q, s.ddr.scrub = some j → let r := s.ddrScrubLine j q
      exec (.ddrScrubRead q) s = .next (if r.1.next < r.1.stop then r.2.setDdr fun d => { d with scrub := some r.1 }
        else (r.2.setDdr fun d => { d with scrub := none }).wake fun w => if w.kind = .ddrScrub then some (stOK, r.1.resp) else none)) ∧
    (∀ (c : Fin 4) q next since, (s.chan c).resilver = some (next, since) → s.rd DMC0_RESILVER_RATE ≠ 0 → let la := s.nextOnPair (c.val / 2) next
      (s.ddrBytes ≤ la → exec (.resilverCopy c q) s = .next (s.resilverDone c.val since)) ∧
      (la < s.ddrBytes → let p := partner c.val
        let t := (((s.ddrFlush la).ddrTouch p).activate p (.be 1) la).noteQuality p la q
        let k := t.ddrCheck p la (t.chanLine p la).1 (t.chanLine p la).2 q
        let v := ((k.2.ddrTouch c).activate c (.be 1) la).lineStore c la k.1.data k.1.poison
        let v := v.setChan c fun x => { x with resilver := some (la + 64, since) }
        exec (.resilverCopy c q) s = .next (if v.ddrBytes ≤ v.nextOnPair (c.val / 2) (la + 64) then v.resilverDone c.val since else v))) ∧
    (∀ g, s.Inv → s.ddr.fill = some g → s.ddr.fast = false → Runs .fillGranule s fun t =>
      (∀ a, g * 65536 ≤ a → a < (g + 1) * 65536 → t.byte a = 0) ∧
      (∀ a, a < g * 65536 ∨ (g + 1) * 65536 ≤ a → t.byte a = s.byte a) ∧
      (g + 1 < s.granules → t.ddr.fill = some (g + 1)) ∧
      (s.granules ≤ g + 1 → t.ddr.fill = none ∧ t.rd DMC0_INIT_STATUS_DONE = 1 ∧ t.rd DMC0_INIT_STATUS_FILL_DONE = 1)))

/-- The rows of a DDR5 channel: a request enters the queues line by line; a command slot serves a refresh whose four postponements are
used up first, then a best-effort access that nine slots have passed over, then a refresh, a mitigation and an access, and none in
self-refresh; no access is served while EN is 0, and neither an access nor a refresh goes to a bank that is occupied; a read returns what
it read; refresh, hammer, temperature, self-refresh, CA-parity, drift, training and PMIC rows do what their rules say. -/
def Obligations.MemoryEvents : Prop :=
  ∀ (c : Fin 4) (s : State), s.mainUp = true →
    (∀ rt r addr len, exec (.ddrRequest rt r addr (.read len)) s = .next
      ((List.range ((addr + len + 63) / 64 - addr / 64)).foldl (fun t i =>
        t.ddrReadReq (if rt then .rt (r % 9) else .be (r % 4)) ((addr / 64 + i) * 64)) s).panicUpdate) ∧
    (∀ rt r addr data pois, exec (.ddrRequest rt r addr (.write data pois)) s = .next ((splitLines (data.length + 1) addr data).foldl (fun t x =>
      t.ddrWriteReq (if rt then .rt (r % 9) else .be (r % 4)) x.1 x.2 pois) s).panicUpdate) ∧
    (s.rd (DMC_STATUS_SELF_REFRESH c) = 1 → exec (.ddrCommandSlot c) s = .next s) ∧
    (s.rd (DMC_STATUS_SELF_REFRESH c) = 0 → let t := s.postpone c
      let free := (t.chan c).mitigate.find? fun m => !t.bankTaken c m.1
      let pass := fun (v : State) => v.setChan c fun x => { x with beWait := x.beWait + 1 }
      (∀ i, t.refreshForced c = some i →
        exec (.ddrCommandSlot c) s = .next (if t.indexTaken c i then pass t else t.refreshIssue c i true)) ∧
      (t.refreshForced c = none →
        (∀ e, t.owedPick c = some e → exec (.ddrCommandSlot c) s = .next (t.accessIssue c e)) ∧
        (∀ i post, t.owedPick c = none → t.refreshPick c = some (i, post) → exec (.ddrCommandSlot c) s = .next (t.refreshIssue c i post)) ∧
        (∀ m, t.owedPick c = none → t.refreshPick c = none → free = some m →
          exec (.ddrCommandSlot c) s = .next (pass (t.mitigate c m.1 m.2))) ∧
        (∀ e, t.owedPick c = none → t.refreshPick c = none → free = none → t.accessPick c = some e →
          exec (.ddrCommandSlot c) s = .next (t.accessIssue c e)))) ∧
    (∀ e, s.accessPick c = some e ∨ s.owedPick c = some e → s.rd (DMC_CTRL_EN c) = 1 ∧ s.bankTaken c (s.placeOf e.line).bank = false) ∧
    (∀ i post, s.refreshPick c = some (i, post) → s.panic = false ∧ s.indexTaken c i = false) ∧
    (∀ e more q, (s.chan c).flight = e :: more → e.kind ≠ .merge →
      let t := s.setChan c fun x => { x with flight := more }
      let k := t.ddrCheck c e.line (e.data.map fun x => x.getD 0) e.poison q
      let v := if k.2.chanLine c e.line = (e.data.map fun x => x.getD 0, e.poison) then k.2.noteQuality c e.line q else k.2
      exec (.ddrReadReturn c q) s = .next (v.ddrDeliver e k.1.data k.1.poison false).panicUpdate) ∧
    (∀ rank : Fin 2,
      (rank.val < s.rd (DMC_DIMM_RANKS c) → (s.chan c).refAt[rank] + s.tRefi c ≤ s.now →
        (∀ b : Fin 8, b.val / 4 = rank.val → (s.chan c).due[b] = 0) → Runs (.refreshDue c rank) s fun t =>
        ∃ v : State, t = v.postpone c ∧ (s.panic = false → t = v) ∧ v = { s with ddr := v.ddr } ∧ (v.chan c).refAt[rank] = s.now ∧
          (∀ b : Fin 8, (v.chan c).due[b] = (s.chan c).due[b] + if b.val / 4 = rank.val then 1 else 0)) ∧
      (s.rd (DMC_DIMM_RANKS c) ≤ rank.val ∨ s.now < (s.chan c).refAt[rank] + s.tRefi c → exec (.refreshDue c rank) s = .next s)) ∧
    (s.time.ns / 32000000 ≠ s.ddr.window → Runs .hammerWindow s fun t =>
      (∀ k : Nat, (t.chan k).acts = []) ∧ t.ddr.window = s.time.ns / 32000000 ∧ t = { s with ddr := t.ddr }) ∧
    (s.time.ns / 32000000 = s.ddr.window → exec .hammerWindow s = .next s) ∧
    (s.nDdr ≤ c.val ∨ s.rd (DMC_STATUS_POWERED c) = 0 ∨ s.now < (s.chan c).polledAt + 32000000 →
      ∀ hot, exec (.refreshStatusPoll c hot) s = .next s) ∧
    (c.val < s.nDdr → s.rd (DMC_STATUS_POWERED c) = 1 → (s.chan c).polledAt + 32000000 ≤ s.now → let t := s.setChan c fun x => { x with polledAt := s.now }
      (s.rd (DMC_STATUS_HOT c) = 0 → exec (.refreshStatusPoll c true) s =
        .next (((t.wr (DMC_STATUS_HOT c) 1).setCause (causeDmc c 5)).report EV_DDR_HOT (src 5 c) 0)) ∧
      exec (.refreshStatusPoll c false) s = .next (t.wr (DMC_STATUS_HOT c) 0)) ∧
    (exec (.selfRefreshEntry c) s = .next (if s.mayRest c then
      (s.wr (DMC_STATUS_SELF_REFRESH c) 1).count (DMC_SR_ENTRIES_COUNT c) 1 else s)) ∧
    (∀ again : List Nat, let t := (s.count (DMC_CA_RETRY_COUNT c) 1).setCause (causeDmc c 2)
      exec (.caParityReport c again) s = .next ((caBad again (t.chan c).recent).foldl (fun v d => v.caFails c d.1 d.2) t)) ∧
    (s.duplex.fwUp = true → s.rd (DMC_CTRL_EN c) = 1 → s.now < (s.chan c).oscAt + 100000000 → ∀ drifts,
      exec (.dqsOscRead c drifts) s = .next s) ∧
    (s.duplex.fwUp = true → s.rd (DMC_CTRL_EN c) = 1 → (s.chan c).oscAt + 100000000 ≤ s.now →
      ((s.chan c).drift = [] → ∀ drifts, exec (.dqsOscRead c drifts) s = .next (s.setChan c fun x => { x with
        oscAt := s.now
        drift := ((drifts.map fun d => (d.1, d.2 - (((s.chan c).oscBase.lookup d.1).getD 0))).filter fun d => decide (4 < d.2.natAbs)).map
          fun d => (d.1, d.2, some s.now) })) ∧
      (∀ k n since, (s.chan c).drift = [(k, n, some since)] → since + 1000000000 < s.now → exec (.dqsOscRead c []) s =
        .next (((s.setCause (causeDmc c 7)).report EV_DDR_DRIFT (src 5 c) 0).setChan c fun x => { x with oscAt := s.now, drift := [(k, n, none)] }))) ∧
    (∀ (pass : BitVec 40) (errs : BitVec 32), s.Inv → s.rd (DMC_TRAIN_CTRL_BUSY c) = 1 → (s.chan c).phase = .none →
      Runs (.trainDone c pass errs) s fun t => t.rd (DMC_TRAIN_CTRL_BUSY c) = 0 ∧ t.rd (DMC_TRAIN_ERRS_COUNT c) = errs.toNat ∧
        t.rd (DMC_TRAIN_PASS_LO_LANES c) = pass.toNat % 2 ^ 32 ∧ t.rd (DMC_TRAIN_PASS_HI_LANES c) = pass.toNat / 2 ^ 32) ∧
    (∀ spd since, s.serving = true → (s.chan c).phase = .pmic since → since + 20000000 ≤ s.now → s.ddrBooting = false →
      let t := (s.wr (DMC_STATUS_POWERED c) (b2n spd.isSome)).setChan c fun x => { x with phase := .none, spd := spd }
      exec (.pmicWaitEnd c spd) s = .next (if t.restoring c then t.restoreSpd c else t))

/-! ### DMA and the raster engine -/

/-- DMA_CHANNEL_SET, DMA_CHANNEL_CTRL and BLT_QUEUE_SET with parameters in range: a ring outside its region is PROT_BOUND, a busy channel
or queue is BUSY, and otherwise ring, size, budget, priority and HEAD are set and EN is written; DMA_CHANNEL_CTRL resumes or aborts and
answers the error registers. The DMA channels: a request counts in every channel that waits for its source; a doorbell starts an idle or
stopped channel that is enabled; a descriptor read parks, checks and starts, or halts; a burst starts where none is in progress and is
performed by its response; a response that comes too late halts the channel, as a write-back without one does; a burst that reads a LUT
window in synchronisation is held; a finished descriptor is written back, with BARRIER once the writes have been answered and otherwise as
they are issued; an ABORT writes ABORTED back. A halt keeps address, direction, reason and HEAD index, with ERR 5; a write-back clears
OWN, sets DONE with the outcome, and keeps the descriptor's other bytes. -/
def Obligations.DmaChannels : Prop :=
  (∀ (c : FwCmd) (rest : List FwCmd) (s : State), s.Inv → let u := s.begun c rest
    let p := c.payload
    (s.Begins 0x0801 c rest → let n := leAt p 0 1
      let ring := leAt p 4 8
      let size := leAt p 12 2
      n < 16 → leAt p 2 1 ≤ 3 → 1 ≤ size → size ≤ 4096 → leAt p 14 2 ≠ 0 → ring % 64 = 0 →
      (u.dmaRingOk ring (size * 64) = false → exec .dmaChannelSet s = .next (u.fail c stPROT_BOUND)) ∧
      (u.dmaRingOk ring (size * 64) = true → (s.rd (DMACH_CH_STATUS_STATE n) = 1 ∨ s.rd (DMACH_CH_STATUS_STATE n) = 2) →
        exec .dmaChannelSet s = .next (u.fail c stBUSY)) ∧
      (u.dmaRingOk ring (size * 64) = true → s.rd (DMACH_CH_STATUS_STATE n) ≠ 1 → s.rd (DMACH_CH_STATUS_STATE n) ≠ 2 →
        Runs .dmaChannelSet s fun t => ∃ v : State, t = (v.dmaEnable n ((leAt p 1 1).testBit 0)).ok c ∧
          v.rd (DMACH_RING_LO_ADDR n) * 64 + v.rd (DMACH_RING_HI_ADDR n) * 2 ^ 32 = ring % 2 ^ 32 + ring / 2 ^ 32 % 2 ^ 16 * 2 ^ 32 ∧
          v.rd (DMACH_RING_SIZE_SIZE n) = size ∧ v.rd (DMACH_BUDGET_COUNT n) = leAt p 14 2 ∧ v.rd (DMACH_CH_CTRL_PRIO n) = leAt p 2 1 ∧
          v.rd (DMACH_HEAD_INDEX n) = 0 ∧ v = { u with regs := v.regs })) ∧
    (s.Begins 0x0802 c rest → let n := leAt p 0 1
      let a := leAt p 1 1
      (16 ≤ n ∨ 1 < a → exec .dmaChannelCtrl s = .next (u.fail c stBAD_PARAM)) ∧
      (n < 16 → a ≤ 1 → exec .dmaChannelCtrl s = .next ((if a = 1 then u.dmaAbort n else u.dmaResume n).finish c stOK
        (leBytes 4 (s.rd (DMACH_ERR_ADDR_LO_ADDR n)) ++ leBytes 4 (s.rd (DMACH_ERR_ADDR_HI_ADDR n))
          ++ leBytes 4 (s.reg (DMACH_ERR_INFO_DIR n).off).toNat ++ [0, 0, 0, 0])))) ∧
    (s.Begins 0x0810 c rest → let size := leAt p 2 2
      let q := leAt p 8 8
      1 ≤ size → size ≤ 1024 → q % 64 = 0 →
      (u.dmaRingOk q (size * 128) = false → exec .bltQueueSet s = .next (u.fail c stPROT_BOUND)) ∧
      (u.dmaRingOk q (size * 128) = true → (s.rd BLT_STATUS_STATE = 1 ∨ s.rd BLT_STATUS_STATE = 2) →
        exec .bltQueueSet s = .next (u.fail c stBUSY)) ∧
      (u.dmaRingOk q (size * 128) = true → s.rd BLT_STATUS_STATE ≠ 1 → s.rd BLT_STATUS_STATE ≠ 2 →
        Runs .bltQueueSet s fun t => ∃ v : State, t = (v.bltEnable ((leAt p 0 1).testBit 0)).ok c ∧ v.rd BLT_Q_SIZE_SIZE = size ∧
          v.rd BLT_Q_HEAD_INDEX = 0 ∧ v.rd BLT_Q_LO_ADDR = q / 64 % 2 ^ 26 ∧ v = { u with regs := v.regs }))) ∧
  (∀ s : State, s.mainUp = true → s.Inv →
    (∀ n : Fin 4, exec (.dreq n) s = .next (s.dmaRequest n)) ∧
    (∀ (c : Fin 16) src, s.dmaCounts c src = true → (∀ d : Fin 16, d ≠ c → s.dmaCounts d src = false) →
      (s.rd (DMACH_REQ_PEND_COUNT c) < 255 → s.dmaRequest src = s.count (DMACH_REQ_PEND_COUNT c) 1) ∧
      (s.rd (DMACH_REQ_PEND_COUNT c) = 255 → s.dmaRequest src = (s.wr (DMACH_CH_STATUS_REQ_OVF c) 1).setCause (causeDma c 4))) ∧
    (∀ c : Fin 16,
      (s.flag (DMACH_CH_CTRL_EN c) = false → exec (.dmaDoorbell c) s = .next s) ∧
      (s.flag (DMACH_CH_CTRL_EN c) = true → s.dmaZero c = true → s.rd (DMACH_CH_STATUS_STATE c) = 0 ∨ s.rd (DMACH_CH_STATUS_STATE c) = 3 →
        Runs (.dmaDoorbell c) s fun t => t.rd (DMACH_CH_STATUS_STATE c) = 3 ∧ t.rd (DMACH_CH_STATUS_ERR c) = 1 ∧ (t.dch c).phase = .none) ∧
      (s.flag (DMACH_CH_CTRL_EN c) = true → s.dmaZero c = false → Runs (.dmaDoorbell c) s fun t => (t.dch c).unint = 0 ∧
        t = { s with regs := t.regs, dma := t.dma } ∧ (∀ o, o ≠ (DMACH_CH_STATUS_STATE c).off → t.reg o = s.reg o) ∧
        (∀ d : Fin 16, d ≠ c → t.dch d = s.dch d) ∧
        if s.rd (DMACH_CH_STATUS_STATE c) = 0 ∨ s.rd (DMACH_CH_STATUS_STATE c) = 3 then
          t.rd (DMACH_CH_STATUS_STATE c) = 1 ∧ (t.dch c).phase = .fetch s.now ∧ (t.dch c).latch = false
        else t.regs = s.regs ∧ (t.dch c).phase = (s.dch c).phase ∧ (t.dch c).latch = true)) ∧
    (∀ (c : Fin 16) at_, s.rd (DMACH_CH_STATUS_STATE c) = 1 → (s.dch c).phase = .fetch at_ → s.dmaLate at_ = false →
      let a := s.dmaDescAddr c
      let r := s.dxbRead a 64
      exec (.dmaDescriptorRead c) s = .next (
        let got := r.2.setDch c fun x => { x with desc := r.1.data, bursts := 0, mismatch := none, poison := false }
        if r.1.err then got.dmaHalt c a 0 false false
        else if r.1.poison then got.dmaHalt c a 0 false true
        else if (leAt r.1.data 0 4).testBit 0 = false then r.2.dmaPark c
        else
          let t := got.wr (DMACH_REQ_PEND_COUNT c) 0
          if t.descCheck r.1.data = 0 then t.dmaTo c 1 .ready else t.dmaStop c (t.descCheck r.1.data) 1)) ∧
    (s.dmaBusy = false → ∀ p c, s.dmaPick = some (p, c) → exec .dmaBurst s = .next (s.dmaGo p c)) ∧
    (s.dmaPick = none → exec .dmaBurst s = .next s) ∧
    (s.dmaBusy = true → exec .dmaBurst s = .next s) ∧
    (∀ (c : Fin 16) at_, s.rd (DMACH_CH_STATUS_STATE c) = 1 → (s.dch c).phase = .burst at_ →
      let d := (s.dch c).desc
      let n1 := max 1 (descCnt d 1)
      let i := (s.dch c).bursts % n1
      let j := (s.dch c).bursts / n1
      let held := s.dxbHeld (s.dmaReads c)
      (s.dmaLate at_ = false → exec (.dmaRespTimeout c) s = .next s ∧ exec (.dmaResponse c) s =
        .next (if held.1 then held.2 else (held.2.dmaElements c i j (descCnt d 0)).2.dmaBurstEnd c)) ∧
      (s.dmaLate at_ = true → exec (.dmaResponse c) s = .next held.2 ∧ exec (.dmaRespTimeout c) s = .next (s.dmaBurstLate c)) ∧
      ((s.dch c).mismatch = none → descCnt d 1 * descCnt d 2 ≤ (s.dch c).bursts + 1 →
        let t := s.setDch c fun y => { y with bursts := y.bursts + 1, phase := .done s.now }
        s.dmaBurstEnd c = if (leAt d 0 4).testBit 2 then t else t.dmaFinish c)) ∧
    (∀ (c : Fin 16) at_, s.rd (DMACH_CH_STATUS_STATE c) = 1 →
      let late := at_ + ceilDiv (s.rd DMA_RESP_TIMEOUT_CYCLES * 5) 4 < s.now
      ((s.dch c).phase = .fetch at_ → exec (.dmaRespTimeout c) s = .next (if late then
        let r := s.freeLine
        (r.2.setDch c fun x => { x with desc := r.1, bursts := 0, mismatch := none, poison := false }).dmaHalt c (s.dmaDescAddr c) 0 true false
        else s)) ∧
      ((s.dch c).phase = .done at_ →
        exec (.dmaRespTimeout c) s = .next (if late then s.dmaHalt c (s.dmaDescAddr c) 3 true false else s))) ∧
    (∀ c : Fin 16, s.rd (DMACH_CH_STATUS_STATE c) = 2 → s.dmaAbort c = (let r := s.dmaBack c 7; if r.1 then r.2 else r.2.dmaPark c)) ∧
    (∀ (c : Fin 16) since, s.rd (DMACH_CH_STATUS_STATE c) = 1 → (s.dch c).phase = .done since →
      let r := s.dmaBack c 0
      let n := (s.dch c).unint + 1
      let int := descInt (s.dch c).desc
      (int = false → s.rd (DMACH_BUDGET_COUNT c) ≠ 0 → s.rd (DMACH_BUDGET_COUNT c) ≤ n → exec (.dmaDescriptorDone c) s = .next (s.dmaStop c 6 3)) ∧
      (int = true ∨ n < s.rd (DMACH_BUDGET_COUNT c) → exec (.dmaDescriptorDone c) s = .next (
        if r.1 then r.2
        else
          let t := r.2.setDch c fun x => { x with unint := if int then 0 else n }
          let t := if int then t.setCause (causeDma c 0) else t
          if t.flag (DMACH_CH_CTRL_EN c) then t.dmaFetch c else (t.setDch c fun x => { x with latch := false }).dmaTo c 0 .none))) ∧
    (∀ (c : Fin 16) addr dir tmo po, dir < 4 → let t := s.dmaHalt c addr dir tmo po
      t.rd (DMACH_CH_STATUS_STATE c) = 2 ∧ t.rd (DMACH_CH_STATUS_ERR c) = 5 ∧ t.rd (DMACH_ERR_INFO_DIR c) = dir ∧
      t.rd (DMACH_ERR_INFO_TIMEOUT c) = b2n tmo ∧ t.rd (DMACH_ERR_INFO_POISON c) = b2n po ∧
      t.rd (DMACH_ERR_INFO_INDEX c) = s.rd (DMACH_HEAD_INDEX c) ∧ t.rd (DMACH_ERR_ADDR_LO_ADDR c) = addr % 2 ^ 32 ∧
      t.rd (DMACH_ERR_ADDR_HI_ADDR c) = addr / 2 ^ 32 % 2 ^ 16 ∧ t.dma = s.dma ∧ t.mem = s.mem ∧
      t.rd (DMACH_HEAD_INDEX c) = s.rd (DMACH_HEAD_INDEX c)) ∧
    (∀ (d : List Byte) mis po err, d.length = 64 → err < 16 → let b := descBack d mis po err
      b.length = 64 ∧ descOwn b = false ∧ leAt b 4 4 = 1 + 2 * b2n (Option.isSome mis) + 4 * b2n po + err * 16 ∧
      (∀ i, 8 ≤ i → i < 56 → b[i]? = d[i]?) ∧ (∀ n, mis = some n → n < 2 ^ 64 → leAt b 56 8 = n)))

/-- The raster engine: a command is read (late, it is a bus error), parks the engine, waits for a line, or is checked and drawn; each row
counts, and the last one, or the one after an ABORT, ends the command; a row whose accesses are late is a bus error, and one that reads a
LUT window in synchronisation is held; a finished command is written back and counted. -/
def Obligations.RasterEngine : Prop :=
  ∀ s : State, s.mainUp = true → s.Inv →
    (∀ since, s.blt.phase = .fetch since → let r := s.bltLines s.bltCmdAddr 2
      (s.dmaLate since = false → exec .bltCommandRead s = .next (r.2.bltAnswer s.bltCmdAddr r.1)) ∧
      (s.dmaLate since = true → exec .bltCommandRead s = .next (let r := s.freeLine
        let q := r.2.freeLine
        q.2.bltAnswer s.bltCmdAddr (r.1 ++ q.1, [], some s.bltCmdAddr)))) ∧
    ((∀ since, s.blt.phase ≠ .fetch since) → exec .bltCommandRead s = .next s) ∧
    (∀ d, descOwn d = true → bltOp d = 2 → let h := leAt d 86 1
      (s.nHeads ≤ h ∨ s.lrd (HEAD_TIMING_V_V_TOTAL h) ≤ leAt d 88 2 → s.bltTake d = s.bltTo 1 (.done 1)) ∧
      (h < s.nHeads → leAt d 88 2 < s.lrd (HEAD_TIMING_V_V_TOTAL h) → (s.hd h).gen = true → (s.hd h).line ≠ leAt d 88 2 →
        let t := s.bltTake d
        t.rd BLT_STATUS_STATE = 2 ∧ t.blt.phase = .wait h (leAt d 88 2) ∧ t.bltLine h (leAt d 88 2) = t.bltTo 1 (.done 0))) ∧
    (∀ d, descOwn d = true → bltOp d ≠ 2 → s.bltTake d =
      if s.bltCheck d = 0 then s.bltStart d else s.bltTo 1 (.done (s.bltCheck d))) ∧
    (∀ since, s.blt.phase = .rows since → let d := s.blt.cmd
      let k := s.rd BLT_ROWS_DONE_ROWS
      let held := s.dxbHeld (bltRowReads d k)
      let z := held.2.bltRow d k (bltRect d).w
      exec .bltRowDone s = .next (if s.dmaLate since then s.bltRowLate else if held.1 then held.2 else match z.1 with
        | some a => z.2.bltBusErr a
        | none => let t := z.2.bltRowCount
          if (bltRect d).h ≤ k + 1 then t.bltTo 1 (.done 0) else if t.blt.abort then t.bltTo 1 (.done 7) else t.bltTo 1 (.rows t.now)) ∧
      (let t := s.bltRowLate; t.rd BLT_STATUS_STATE = 1 ∧ t.blt.phase = .done 5)) ∧
    (∀ e, s.blt.phase = .done e → exec .bltCommandDone s = .next (s.bltBack e)) ∧
    (∀ code n p q d i, i < n → (rop3 code n p q d).testBit i = code.testBit (4 * b2n (p.testBit i) + 2 * b2n (q.testBit i) + b2n (d.testBit i)))

/-! ### Clocks and device time -/

/-- PLLs: a powered PLL in range that acquires lock locks; a loss of lock clears LOCKED and RAMPING and stops the head; a ramp runs
segment by segment, and at its end takes the next feedback and clears RAMPING; a SYNC edge is counted, and every armed PLL restarts its
outputs 51.2 ns later, rounded up to the tick, which clears SYNC_ARM and sets SYNCED. Genlock: an edge that is the first, or within 1 % of
the period after the last accepted one, is accepted and makes the reference PRESENT; any other is a glitch; with no edge for three periods
PRESENT clears, cause 6 is set and EV_GENLOCK_LOST is logged. -/
def Obligations.ClockRows : Prop :=
  (∀ (n : Fin 4) (s : State), s.Inv →
    (s.headUp n = true → s.rd (HPLL_CTRL_EN n) = 1 → (s.pll n).lockSince.isSome = true → s.pllInRange n = true →
      exec (.pllLock n) s = .next ((((s.wr (HPLL_STATUS_LOCKED n) 1).setPll n fun p => { p with lockSince := none }).setHd n fun x =>
        { x with restart := x.restart.map fun _ => s.now }).modeLock n)) ∧
    (s.headUp n = true → s.rd (HPLL_STATUS_LOCKED n) = 1 → exec (.pllUnlock n) s = .next ((s.pllRelock n).headUnlock n)) ∧
    (let t := s.pllRelock n;
      t.rd (HPLL_STATUS_LOCKED n) = 0 ∧ t.rd (HPLL_STATUS_RAMPING n) = 0 ∧ t.rd (HEAD_STATUS_RAMPING n) = 0 ∧ (t.pll n).ramp = none ∧
      (t.pll n).lockSince = (if s.rd (HPLL_CTRL_EN n) = 1 then some s.now else none)) ∧
    (∀ seg since off, s.headUp n = true → (s.pll n).ramp = some (seg, since, off) →
      let stop := since + s.rd (HPLL_RAMP_DUR_US n seg) * 1000
      (s.now < stop → exec (.rampSegmentEnd n) s = .next s) ∧
      (stop ≤ s.now → seg < s.rd (HPLL_RAMP_CTRL_SEGS n) → exec (.rampSegmentEnd n) s =
        .next (s.setPll n fun p => { p with ramp := some (seg + 1, stop, s.rampAt n seg since off) })) ∧
      (stop ≤ s.now → s.rd (HPLL_RAMP_CTRL_SEGS n) ≤ seg → s.inHold n = false → Runs (.rampSegmentEnd n) s fun t =>
        t.rd (HPLL_FB_FB_INT n) = s.rd (HPLL_FB_NEXT_INT_INT n) ∧ t.rd (HPLL_FRAC_FB_FRAC n) = s.rd (HPLL_FB_NEXT_FRAC_FRAC n) ∧
        t.rd (HPLL_STATUS_RAMPING n) = 0 ∧ t.rd (HEAD_STATUS_RAMPING n) = 0 ∧ (t.pll n).ramp = none ∧
        t = { s with regs := t.regs, clocks := t.clocks } ∧
        ∀ o, o ∉ [(HPLL_FB_FB_INT n).off, (HPLL_FRAC_FB_FRAC n).off, (HPLL_STATUS_RAMPING n).off, (HEAD_STATUS_RAMPING n).off] → t.reg o = s.reg o)) ∧
    (∀ seg since off, let v := s.rampAt n seg since off;
      -160000000 ≤ v ∧ v ≤ 160000000) ∧
    (s.mainUp = true → n.val < s.nHeads → Runs .syncEdge s fun t =>
      t = { s with regs := t.regs, clocks := t.clocks, out := t.out, host := t.host } ∧
      (∀ o, o ≠ TSY_SYNC_EDGES_COUNT.off → o ≠ (causeTsy 8).off → t.reg o = s.reg o) ∧
      t.rd TSY_SYNC_EDGES_COUNT = min (s.rd TSY_SYNC_EDGES_COUNT + 1) (2 ^ 32 - 1) ∧
      t.pll n = (if s.rd (HPLL_CTRL_MODE n) = 1 ∧ s.rd (HPLL_CTRL_SYNC_ARM n) = 1 ∧ s.rd (HPLL_STATUS_LOCKED n) = 1 ∧
          s.rd (HPLL_STATUS_RAMPING n) = 0 ∧ (s.pll n).syncAt = none then { s.pll n with syncAt := some (s.now + 52) } else s.pll n)) ∧
    ((s.pll n).syncAt = some s.now → let t := s.syncRestart n
      t.rd (HPLL_CTRL_SYNC_ARM n) = 0 ∧ t.rd (HPLL_STATUS_SYNCED n) = 1 ∧ (t.pll n).syncAt = none ∧
      (∀ o, o ∉ [(HPLL_CTRL_EN n).off, (HPLL_STATUS_LOCKED n).off] → t.reg o = s.reg o))) ∧
  (∀ s : State, s.mainUp = true → s.Inv →
    (s.rd TSY_GENLOCK_EN = 0 → exec .genlockEdge s = .next s) ∧
    (s.rd TSY_GENLOCK_EN = 1 → s.rd TSY_GENLOCK_PERIOD_NS ≠ 0 →
      (∀ k at_ u, s.clocks.edge = some (k, at_, u) → s.rd TSY_GENLOCK_STATUS_PRESENT = 1 → s.now ≤ u + 3 * s.rd TSY_GENLOCK_PERIOD_NS) →
      (s.edgeOk = false → exec .genlockEdge s = .next (s.count TSY_GLITCHES_COUNT 1)) ∧
      (s.edgeOk = true → Runs .genlockEdge s fun t =>
        t.rd TSY_GENLOCK_STATUS_PRESENT = 1 ∧ t.rd TSY_GENLOCK_LAST_NS_NS = s.timeNs ∧ t.clocks.first = false ∧
        (∃ k, t.clocks.edge = some (k, s.time.ns, s.now)) ∧ t = { s with regs := t.regs, clocks := t.clocks, out := t.out, host := t.host } ∧
        ∀ o, o ∉ [TSY_GENLOCK_STATUS_PRESENT.off, TSY_GENLOCK_LAST_NS_NS.off, (causeTsy 7).off] → t.reg o = s.reg o)) ∧
    (s.clocks.first = true → s.edgeOk = true) ∧
    (∀ pol, s.rd TSY_GENLOCK_EN = 0 → (s.genlockWrite 1 pol).clocks.first = true) ∧
    (∀ k at_ u, s.clocks.first = false → s.clocks.edge = some (k, at_, u) → at_ ≤ s.time.ns →
      (s.edgeOk = true ↔ let p := s.rd TSY_GENLOCK_PERIOD_NS
        99 * p ≤ 100 * (s.time.ns - at_) ∧ 100 * (s.time.ns - at_) ≤ 101 * p)) ∧
    (∀ k at_ u, s.clocks.edge = some (k, at_, u) → s.rd TSY_GENLOCK_STATUS_PRESENT = 1 →
      (s.now ≤ u + 3 * s.rd TSY_GENLOCK_PERIOD_NS → exec .genlockLoss s = .next s) ∧
      (u + 3 * s.rd TSY_GENLOCK_PERIOD_NS < s.now → exec .genlockLoss s = .next (
        let t := ((s.wr TSY_GENLOCK_STATUS_PRESENT 0).setCause (causeTsy 6)).report EV_GENLOCK_LOST (src 10 0) 0
        (t.setClocks fun c => { c with first := true }).refLost fun h => t.lrd (HEAD_ALIGN_SRC h) = 2))))

/-- Device time: an offset of the followed source beyond STEP_THRESH steps it in one write with cause 5 and EV_TIME_STEP, any other of the
source in use slews within ±SLEW_MAX of the tracked frequency and ±200 ppm, and not at all while a host write of the frequency stands;
holdover and the loss of SYNC make the firmware choose its source anew. TIME_CONFIG, TIME_GET, GENLOCK_SET and CLOCK_OUT_SET: fields
outside their ranges are BAD_PARAM and change nothing else; otherwise the settings are written, the period of the reference is ⌊RATE_DEN ×
10⁹ / RATE_NUM⌋ ns, and TIME_GET answers time, source, offset and frequency. -/
def Obligations.DeviceTime : Prop :=
  (∀ s : State, s.Inv →
    (∀ k off, s.serving = true → s.clocks.fresh = some (k, off) →
      (s.steersBy k = false → exec .timeDiscipline s = .next (s.setClocks fun c => { c with fresh := none })) ∧
      (s.steersBy k = true → let used := k = s.rd TSY_TIME_STATUS_SOURCE
        let t := s.setClocks fun c => { c with
          fresh := none
          trackedAt := if used then some s.now else c.trackedAt
          trackedPpb := if used ∧ off.natAbs < 1000 then sext 32 (s.rd TSY_FREQ_ADJ_PPB) else c.trackedPpb }
        (s.clocks.stepThresh < off.natAbs → exec .timeDiscipline s = .next (t.timeStep ((s.time.ns : Int) - off).toNat)) ∧
        (off.natAbs ≤ s.clocks.stepThresh → exec .timeDiscipline s = .next (if used then t.slew else t)))) ∧
    (TSY_FREQ_ADJ_PPB.off ∈ s.hostRegs → s.slew.rd TSY_FREQ_ADJ_PPB = s.rd TSY_FREQ_ADJ_PPB) ∧
    (TSY_FREQ_ADJ_PPB.off ∉ s.hostRegs → 1 ≤ s.clocks.slewMax → -200000 ≤ s.clocks.trackedPpb → s.clocks.trackedPpb ≤ 200000 → let f := sext 32 (s.slew.rd TSY_FREQ_ADJ_PPB);
      -200000 ≤ f ∧ f ≤ 200000 ∧ (f - s.clocks.trackedPpb).natAbs ≤ 1000 * s.clocks.slewMax) ∧
    (s.serving = true → s.rd TSY_TIME_STATUS_SOURCE = 2 → s.holding = false → exec .holdoverExpire s = .next s.retime) ∧
    (s.mainUp = true → s.rd HLY_STATUS_TIME_VALID = 1 → s.rd HLY_TIME_CFG_SYNC_PERIOD ≠ 0 → s.syncWaits = false →
      s.ring.syncUsedAt + 4 * (s.rd HLY_TIME_CFG_SYNC_PERIOD * 1000) < s.now → exec .timeValidLoss s =
        .next ((s.wr HLY_STATUS_TIME_VALID 0).setRing fun r => { r with syncUsed := none }).retime)) ∧
  (∀ (c : FwCmd) (rest : List FwCmd) (s : State), s.Inv → let u := s.begun c rest
    let p := c.payload
    (s.Begins 0x0901 c rest →
      (3 < leAt p 0 1 ∨ leAt p 2 2 = 0 ∨ 200 < leAt p 2 2 ∨ leAt p 4 4 = 0 ∨ leAt p 8 4 = 0 → exec .timeConfig s = .next (u.fail c stBAD_PARAM)) ∧
      (leAt p 0 1 ≤ 3 → leAt p 2 2 ≠ 0 → leAt p 2 2 ≤ 200 → leAt p 4 4 ≠ 0 → leAt p 8 4 ≠ 0 → exec .timeConfig s =
        .next (((((u.commandCovers [TSY_FREQ_ADJ_PPB.off]).wr TSY_TIME_CTRL_MODE (leAt p 0 1)).setClocks fun k =>
          { k with slewMax := leAt p 2 2, stepThresh := leAt p 4 4, holdover := leAt p 8 4 }).retime).ok c))) ∧
    (s.Begins 0x0902 c rest → exec .timeGet s = .next (u.captureTime.finish c stOK (leBytes 8 s.timeSec ++ leBytes 4 s.timeNs
      ++ leBytes 1 (s.rd TSY_TIME_STATUS_SOURCE) ++ leBytes 1 (s.rd ING_PTP_STATUS_STATE) ++ [0, 0] ++ leBytes 4 (wrap 32 s.clocks.lastOffset)
      ++ leBytes 4 (s.rd TSY_FREQ_ADJ_PPB)))) ∧
    (s.Begins 0x0910 c rest → let num := leAt p 6 4
      let den := leAt p 10 4
      (num = 0 ∨ den = 0 ∨ num * 1000 < 23976 * den ∨ 480 * den < num ∨ (∃ h : Fin 4, leAt p (2 + h) 1 = 0 ∨ 8 < leAt p (2 + h) 1) →
        exec .genlockSet s = .next (u.fail c stBAD_PARAM)) ∧
      (num ≠ 0 → den ≠ 0 → 23976 * den ≤ num * 1000 → num ≤ 480 * den → (∀ h : Fin 4, 1 ≤ leAt p (2 + h) 1 ∧ leAt p (2 + h) 1 ≤ 8) →
        Runs .genlockSet s fun t => ∃ v : State, t = v.ok c ∧ v.rd TSY_GENLOCK_PERIOD_NS = den * 1000000000 / num ∧
          v.rd TSY_GENLOCK_EN = leAt p 0 1 % 2 ∧ v.rd TSY_GENLOCK_POL = leAt p 0 1 / 2 % 2 ∧
          v.rd TSY_GL_MULT_MULT = leAt p 2 1 + 16 * leAt p 3 1 + 256 * leAt p 4 1 + 4096 * leAt p 5 1 ∧
          v = { u with regs := v.regs, clocks := v.clocks })) ∧
    (s.Begins 0x0920 c rest → let en := leAt p 0 1
      (2 ^ (2 * s.nHeads) ≤ en ∨ (∃ k, k < 2 * s.nHeads ∧ s.divTooFast (k / 2) (leAt p (2 + 2 * k) 2) = true) →
        exec .clockOutSet s = .next (u.fail c stBAD_PARAM)) ∧
      (en < 2 ^ (2 * s.nHeads) → (∀ k, k < 2 * s.nHeads → s.divTooFast (k / 2) (leAt p (2 + 2 * k) 2) = false) →
        Runs .clockOutSet s fun t => ∃ v : State, t = v.ok c ∧ v.rd TSY_CLKOUT_EN = en ∧ v = { u with regs := v.regs } ∧
          ∀ k, k < 2 * s.nHeads → v.rd (HPLL_OUT_DIV (k / 2) (2 + k % 2)) = leAt p (2 + 2 * k) 2 - 1 ∧
            v.rd (HPLL_OUT_EN (k / 2) (2 + k % 2)) = en / 2 ^ k % 2)))

/-! ### Power, boot, the non-volatile store, the event log -/

/-- A reset of the main die, by PORST_N, a main rail, DEVICE_RESET or a thermal trip, leads to a takeover of the Shroud, with the cause
R711 ranks first where more than one come in one cycle, and keeps memory, fuses, the records in use of the flash and the Shroud's
registers; its pins are inputs or idle, and the thermal trip holds THERMTRIP_N; the die boots again where its rails are good, PORST_N is
high and no trip holds it. Boot: the stages follow each other from ROM to READY; the ROM starts the first valid slot, of which GPIO1 picks
the first to try, or goes to recovery, which GPIO0 asks for; READY comes when the bring-up of DDR5 has ended, with BOOT_MS and cause 2. -/
def Obligations.MainDieReset : Prop :=
  (∀ s : State, s.Inv →
    (let ev := fun (t : State) cause => if t.mainUp then t.mainReset cause else t.shroudTakeover cause;
      let stands := s.power.tripped && decide (s.power.tripAt = some s.now);
      (s.power.porstHigh = true → exec .porstNAssert s = .next (
        let u := if s.power.tripped && !stands then s.emit (.thermTrip false) else s
        ev (u.setPwr fun p => { p with porstHigh := false, porstAt := some s.now, tripped := stands }) 1)) ∧
      (s.power.porstHigh = false → exec .porstNAssert s = .next s) ∧
      exec .mainRailFault s = .next (ev (s.setPwr fun p => { p with railsGood := false }) 2) ∧
      (s.power.railsGood = true → s.power.tripped = false → exec .thermalTrip s =
        .next (ev ((s.setPwr fun p => { p with tripped := true, tripAt := some s.now }).emit (.thermTrip true)) 4)) ∧
      (s.power.railsGood = false ∨ s.power.tripped = true → exec .thermalTrip s = .next s)) ∧
    (s.mainUp = true →
      (∀ at_, s.power.resetDue = some at_ → at_ ≤ s.now → exec .deviceResetDelay s = .next (s.mainReset 1).mainRelease)) ∧
    (∀ cause, s.mainReset cause = s.dieReset.shroudTakeover cause) ∧
    (let t := s.dieReset;
      (∀ n, t.gpioInput n = true ∧ t.gpioClock n = none) ∧ t.qspiCsHigh = true ∧ (∀ p, t.sheetIdle p = true ∧ t.ingestIdle p = true) ∧
      t.thermTripLow = s.power.tripped ∧ t.mainUp = false ∧ t.mem = s.mem ∧ t.fuses = s.fuses ∧ t.nv.boot.current = s.nv.boot.current ∧
      t.nv.config.current = s.nv.config.current ∧ t.nv.softMap.current = s.nv.softMap.current ∧ (∀ c, t.trainRec c = s.trainRec c) ∧
      (s.nv.busy = none → t.nv.boot = s.nv.boot ∧ t.nv.config = s.nv.config) ∧ t.nv.images = s.nv.images ∧
      t.nv.queue = [] ∧ t.nv.busy = none ∧ t.shroud = s.shroud ∧ t.fw.queue = [] ∧ t.log.entries = [] ∧ t.pending = s.pending ∧
      (∀ off, 0x1A0000 ≤ off → off < 0x1B0000 → t.reg off = s.reg off) ∧
      (∀ f : Fld, f.off < 0x1A0000 → f.off ≠ PWR_STRAPS_VALUE.off → f.off ≠ PWR_SVN_MIN_SVN.off → f.off ≠ PWR_STATUS_PWR_FAIL.off →
        t.reg f.off = resetWord f.off)) ∧
    (∀ g, s.power.porstHigh = false → exec (.porstNRelease g) s = .next
      ((s.setPwr fun p => { p with porstHigh := true }).wr PWR_STRAPS_VALUE g.toNat).mainRelease) ∧
    (exec .mainRailGood s = .next (s.setPwr fun p => { p with railsGood := true }).mainRelease) ∧
    (s.power.porstHigh = true → s.power.railsGood = true → s.power.tripped = false → s.mainUp = false → s.mainRelease.mainUp = true) ∧
    (s.power.porstHigh = false ∨ s.power.railsGood = false ∨ s.power.tripped = true → s.mainRelease = s)) ∧
  (∀ (s : State) fail, s.mainUp = true → s.Inv → let st := s.rd PWR_BOOT_STATUS_STAGE
    (st = 0 → exec (.bootStageComplete fail) s = .next s.bootStart.bootRom) ∧
    (st = 1 → exec (.bootStageComplete fail) s = .next s.bootRom) ∧
    (st = 2 → exec (.bootStageComplete fail) s = .next (s.bootStage2 fail).firmwareStart) ∧
    (st = 3 → Runs (.bootStageComplete fail) s fun t => ∃ v : State, t = (v.wr PWR_BOOT_STATUS_STAGE 4).ddrStart ∧
      (s.standby = sbSYNCING → v.standby = sbREADY) ∧ (s.standby ≠ sbSYNCING → v = s)) ∧
    (st = 4 → s.ddrUp = true → exec (.bootStageComplete fail) s = .next
      (((s.wr PWR_BOOT_STATUS_BOOT_MS (min 65535 ((s.now - s.power.bootAt) / 1000000))).wr PWR_BOOT_STATUS_STAGE 5).setCause (causePwr 2))) ∧
    (st = 4 → s.ddrUp = false → exec (.bootStageComplete fail) s = .next s) ∧
    (4 < st → exec (.bootStageComplete fail) s = .next s) ∧
    (let g := s.rd PWR_STRAPS_VALUE;
      let first := if g.testBit 1 then 1 - s.preferred else s.preferred;
      (g.testBit 0 = true → s.bootRom.rd PWR_BOOT_STATUS_STAGE = 6) ∧
      (g.testBit 0 = false → s.imageValid first = true → first ≤ 1 → s.bootRom.rd PWR_BOOT_STATUS_STAGE = 2 ∧
        s.bootRom.rd PWR_STATUS_RUNNING_SLOT = first ∧ s.bootRom.rd PWR_STATUS_FALLBACK = b2n (first ≠ s.preferred)) ∧
      (g.testBit 0 = false → s.imageValid first = false → s.imageValid (1 - first) = false → s.bootRom.rd PWR_BOOT_STATUS_STAGE = 6)) ∧
    (let t := s.bootStage2 fail;
      t.rd TSY_SYS_STATUS_SYS_LOCK = 1 ∧ t.rd TSY_SYS_STATUS_DDR_LOCK = 1 ∧ t.rd TSY_SYS_STATUS_SERDES_LOCK = 1 ∧ t.rd DSM_STATUS_INIT_DONE = 1 ∧
      (∀ a, dsmBase + 0x30000 ≤ a → inDsm a = true → t.byte a = 0)))

/-- Commits: one is started at a time, after a check of the hold-up energy on the lowest of four conversions; one that fails is deferred,
counted, and completes its command with NO_HOLDUP; one that begins a block of an image takes its slot (R78); one that completes is counted
and takes effect; deferred ones are tried again. A repair's commit that the check had let begin stays deferred where PWR_FAIL stops it
(log 62). A new record goes to the copy that is not in use, with SEQ one higher, and is then the record in use; a write that breaks off
leaves the record in use (R646, R647). -/
def Obligations.CommitRows : Prop :=
  (∀ (s : State) (adc : Adc), s.Inv →
    (∀ k more, s.serving = true ∨ s.inRecovery = true → s.nv.busy = none → s.nv.queue = k :: more → k.checked = false →
      let u := (s.setNv fun n => { n with queue := more }).holdupMeasure adc
      let low := min (min adc.a.toNat adc.b.toNat) (min adc.c.toNat adc.d.toNat)
      (s.holdupPasses low k.cls = false → exec (.nvCommitStart adc) s = .next (((u.wr PWR_LAST_COMMIT_DEFERRED 1).noteDefer).nvDefer k)) ∧
      (s.holdupPasses low k.cls = true → s.rd PWR_STATUS_PWR_FAIL = 0 → exec (.nvCommitStart adc) s = .next (
        let v := (((u.wr PWR_LAST_COMMIT_DEFERRED 0).setNv fun n => { n with busy := some k }).wr PWR_STATUS_COMMIT_BUSY 1).wr PWR_LAST_COMMIT_CLASS k.cls
        match k.what with
        | .imageBlock slot i => v.setNv fun n => { n with images := n.images.set (Fin.ofNat 2 slot) (some i) }
        | _ => v)) ∧
      (s.holdupPasses low k.cls = true → s.rd PWR_STATUS_PWR_FAIL = 1 →
        exec (.nvCommitStart adc) s = .next ((u.wr PWR_LAST_COMMIT_DEFERRED 0).noteDefer.nvDefer k))) ∧
    (∀ k, s.mainUp = true → s.nv.busy = some k → exec .nvCommitDone s =
      .next ((((s.setNv fun v => { v with busy := none }).wr PWR_STATUS_COMMIT_BUSY 0).count PWR_COMMITS_COUNT 1).nvApply k)) ∧
    (s.mainUp = true → s.nv.busy = none → exec .nvCommitDone s = .next s) ∧
    (let t := s.noteDefer;
      t.rd PWR_DEFERRED_COUNT = min (s.rd PWR_DEFERRED_COUNT + 1) (2 ^ 32 - 1)) ∧
    (∀ low cls, low = 0 ∨ s.rd PWR_HOLDUP_C_MF = 0 → s.holdupPasses low cls = false) ∧
    (s.serving = true → s.nv.deferred ≠ [] →
      (s.nv.deferredAt + 100000000 ≤ s.now → exec (.commitRetry adc) s = .next (s.nvRetry adc)) ∧
      exec (.pwrFailNRise adc) s = .next ((s.wr PWR_STATUS_PWR_FAIL 0).nvRetry adc)) ∧
    (s.mainUp = true → s.rd PWR_STATUS_PWR_FAIL = 0 → exec .pwrFailNFall s =
      .next (((s.wr PWR_STATUS_PWR_FAIL 1).setCause (causePwr 0)).report EV_PWR_FAIL (src 12 0) 0)) ∧
    (s.serving = true → s.nv.busy = none → Runs .flashErase s fun t => t = { s with nv := t.nv } ∧
      t.nv.boot.current = s.nv.boot.current ∧ t.nv.config.current = s.nv.config.current ∧ t.nv.softMap.current = s.nv.softMap.current ∧
      t.nv.images = s.nv.images ∧ (s.nv.boot.a ≠ .erased → s.nv.boot.b ≠ .erased → t.nv.boot.a = .erased ∨ t.nv.boot.b = .erased)) ∧
    (∀ k u, k.checked = true → k.what = .softAdd u → s.nvDefer k = s.setNv fun n => { n with
      deferred := n.deferred ++ [{ k with own := true, checked := false }], deferredAt := s.now })) ∧
  (∀ (r : NvRec MemCfg) (v : MemCfg), (∀ x, r.a.get = some x → x.1 < 2 ^ 32) → (∀ x, r.b.get = some x → x.1 < 2 ^ 32) →
    (∃ n, (r.write v).current = some (n, v) ∧ n < 2 ^ 32 ∧ ∀ x, r.current = some x → n = (x.1 + 1) % 2 ^ 32) ∧
    (∀ x, r.current = some x → (r.write v).a.get = some x ∨ (r.write v).b.get = some x) ∧
    ((r.erase).2.current = r.current) ∧ ((r.put .part).current = r.current))

/-- HOLDUP_SET, THERMAL_SET, DEVICE_RESET, FW_STAGE and FW_SWAP: settings in range are written, others are BAD_PARAM; a reset needs the
serial number and comes 1 ms later; an image is checked and then written block by block; a swap restarts the standby on the new image, and
fails after 2 s. -/
def Obligations.PowerCommands : Prop :=
  ∀ (c : FwCmd) (rest : List FwCmd) (s : State), s.Inv → let u := s.begun c rest
    let d := c.payload
    (s.Begins 0x0A01 c rest → ∀ adc : Adc,
      (leAt d 0 2 = 0 ∨ leAt d 4 2 = 0 ∨ leAt d 6 1 < 16 ∨ 64 < leAt d 6 1 ∨ leAt d 8 2 < 1 ∨ 1000 < leAt d 8 2 →
        exec (.holdupSet adc) s = .next (u.fail c stBAD_PARAM)) ∧
      (leAt d 0 2 ≠ 0 → leAt d 4 2 ≠ 0 → 16 ≤ leAt d 6 1 → leAt d 6 1 ≤ 64 → 1 ≤ leAt d 8 2 → leAt d 8 2 ≤ 1000 →
        Runs (.holdupSet adc) s fun t => ∃ v : State, v = { u with regs := v.regs } ∧ v.rd PWR_HOLDUP_C_MF = leAt d 0 2 ∧
          v.rd PWR_HOLDUP_VMIN_MV = leAt d 2 2 ∧ v.rd PWR_HOLDUP_RATIO_RATIO = leAt d 4 2 ∧ v.rd PWR_HOLDUP_MARGIN_MARGIN = leAt d 6 1 ∧
          v.rd PWR_HOLDUP_P_W = leAt d 8 2 ∧
          t = v.finish c stOK (leBytes 4 (v.holdupV (adcLow adc) / 2 ^ 20) ++ leBytes 4 (v.rd PWR_HOLDUP_MJ_MJ)))) ∧
    (s.Begins 0x0A20 c rest → exec .thermalSet s = .next (if 480 < leAt d 0 2 then u.fail c stBAD_PARAM
      else (u.wr PWR_THERM_WARN (leAt d 0 2)).ok c)) ∧
    (s.Begins 0x0A30 c rest → exec .deviceReset s = .next (if leAt d 0 8 = s.fuses.serial then
      (u.setPwr fun p => { p with resetDue := some (s.power.resetDue.getD (s.now + 1000000)) }).ok c else u.fail c stBAD_PARAM)) ∧
    (s.Begins 0x0A10 c rest → s.rd PWR_BOOT_STATUS_STAGE ≠ 6 → leAt d 8 4 ≠ 0 →
      (u.bufOk (leAt d 0 8) (leAt d 8 4) = false → exec .fwStage s = .next (u.fail c stPROT_BOUND)) ∧
      (u.bufOk (leAt d 0 8) (leAt d 8 4) = true → let r := u.fwRead (leAt d 0 8) (leAt d 8 4)
        (r.2.imageOf r.1 = none → exec .fwStage s = .next (r.2.fail c stBAD_PARAM)) ∧
        (∀ i slot, r.2.imageOf r.1 = some i → r.2.power.swap = none → (r.2.fw.waiting.any fun w => decide (w.cmd.cmd = 0x0A10)) = false →
          slot = 1 - s.rd PWR_STATUS_RUNNING_SLOT → r.2.nv.images[Fin.ofNat 2 slot] = none → 0 < i.blocks → i.written = 0 →
          exec .fwStage s = .next (r.2.nvCommand c 1 (.imageBlock slot i) (stageResp i slot))))) ∧
    (s.Begins 0x0A11 c rest → s.power.swap = none → let h := leAt d 0 1
      (h ≠ 0xFF ∧ s.nHeads ≤ h → exec .fwSwap s = .next (u.fail c stBAD_PARAM)) ∧
      (h = 0xFF ∨ h < s.nHeads → s.power.staged = none ∨ s.standby ≠ sbREADY → exec .fwSwap s = .next (u.fail c stBUSY)) ∧
      (∀ slot, h = 0xFF ∨ h < s.nHeads → s.power.staged = some slot → s.standby = sbREADY → Runs .fwSwap s fun t =>
        t.standby = sbSYNCING ∧ ∃ x, t.power.swap = some x ∧ x.step = 1 ∧ x.slot = slot ∧ x.since = s.now ∧ x.raiseSvn = (leAt d 1 1).testBit 0)) ∧
    (∀ x, s.serving = true → s.power.swap = some x → x.step = 1 → x.since + 2000000000 < s.now → exec .swapTimeout s = .next s.swapFail) ∧
    (∀ x, s.serving = true → s.power.swap = some x → x.step = 1 → s.now ≤ x.since + 2000000000 → exec .swapTimeout s = .next s)

/-- Temperature: each sample sets TEMP and TEMP_MAX, which begins anew at its read; at WARN or above the warning is set with cause 8 and
EV_THERMAL_WARN, below WARN − 5 °C it clears with cause 9; a sample of 125 °C or above trips the main die, also one whose reset is held.
-/
def Obligations.Temperature : Prop :=
  ∀ (s : State) (q : BitVec 11), s.Inv →
    let top := if s.power.tempSeen then max (sext 11 (s.rd PWR_TEMP_MAX_QC)) q.toInt else q.toInt
    let t := ((s.wr PWR_TEMP_QC q.toNat).wr PWR_TEMP_MAX_QC (wrap 11 top)).setPwr fun p => { p with tempSeen := true }
    (s.power.railsGood = true → s.power.tripped = false → 500 ≤ q.toInt →
      let v := if s.mainUp then t.thermWarn else s
      exec (.tempSample q) s = .next (((v.setPwr fun p => { p with tripped := true, tripAt := some s.now }).emit (.thermTrip true)).resetEvent 4)) ∧
    (s.mainUp = true → q.toInt < 500 →
      (s.rd PWR_STATUS_THERM_WARN = 0 → (s.rd PWR_THERM_WARN : Int) ≤ q.toInt →
        exec (.tempSample q) s = .next (((t.wr PWR_STATUS_THERM_WARN 1).setCause (causePwr 8)).report EV_THERMAL_WARN (src 12 0) 0)) ∧
      (s.rd PWR_STATUS_THERM_WARN = 1 → q.toInt < (s.rd PWR_THERM_WARN : Int) - 20 →
        exec (.tempSample q) s = .next ((t.wr PWR_STATUS_THERM_WARN 0).setCause (causePwr 9))) ∧
      (s.rd PWR_STATUS_THERM_WARN = 0 → q.toInt < (s.rd PWR_THERM_WARN : Int) → exec (.tempSample q) s = .next t) ∧
      (s.rd PWR_STATUS_THERM_WARN = 1 → (s.rd PWR_THERM_WARN : Int) - 20 ≤ q.toInt → exec (.tempSample q) s = .next t))

/-- The event logger: the oldest report is captured where it is the first of its class; it merges into a pending entry of the same CODE
and SOURCE that is no more than 1 ms old, or becomes a new entry and advances WR_SEQ, or, with 4,096 entries pending, is dropped and
counted. LOG_CONFIG, LOG_FLUSH, LOG_READ_PERSISTED and PERSIST_FLUSH: the log's controls are written where no reserved bit is set; a flush
is a commit of class 5 of at most 256 waiting entries; the newest persisted entries that fit are copied to the buffer. -/
def Obligations.EventLogger : Prop :=
  (∀ (s : State) (r : Report) rest, s.Inv → s.log.reports = r :: rest →
    let u : State := { s with log := { s.log with reports := rest } }
    let t := u.fecCapture r
    (∀ e, t.mergeTarget r = some e → exec .eventReport s = .next (t.mergeInto e) ∧ e.code = r.code ∧ e.source = r.source ∧ s.now ≤ e.first + 1000000) ∧
    (t.mergeTarget r = none → s.log.entries.length < 4096 → exec .eventReport s = .next (t.newEntry r)) ∧
    (t.mergeTarget r = none → 4096 ≤ s.log.entries.length →
      exec .eventReport s = .next ((t.count (EVT_DROPPED_COUNT (evClass r.code)) 1).setCause (causeEvt 10))) ∧
    (t.mergeTarget r = none ↔ ∀ e ∈ s.log.entries, ¬ (e.code = r.code ∧ e.source = r.source ∧ s.now ≤ e.first + 1000000)) ∧
    (let c := evClass r.code;
      s.rd (EVT_FEC_VALID_VALID c) = 0 → ∃ v : State, t = v.setCause (causeEvt 9) ∧ v = { u with regs := v.regs } ∧
        v.rd (EVT_FEC_VALID_VALID c) = 1 ∧ v.rd (EVT_FEC_CODE_CODE c) = r.code % 65536 ∧ v.rd (EVT_FEC_CODE_SOURCE c) = r.source % 65536 ∧
        v.rd (EVT_FEC_SEC_LO_SEC c) = s.timeSec % 2 ^ 32 ∧ v.rd (EVT_FEC_SEC_HI_SEC c) = s.timeSec / 2 ^ 32 % 65536 ∧
        v.rd (EVT_FEC_NS_NS c) = s.timeNs % 2 ^ 30 ∧ v.rd (EVT_FEC_DET_LO_DETAIL c) = r.detail % 2 ^ 32 ∧
        v.rd (EVT_FEC_DET_HI_DETAIL c) = r.detail / 2 ^ 32 % 2 ^ 32) ∧
    (s.rd (EVT_FEC_VALID_VALID (evClass r.code)) = 1 → t = u.wr (EVT_FEC_VALID_MORE (evClass r.code)) 1) ∧
    (∀ e ∈ s.log.entries, let v := t.mergeInto e
      v.rd EVT_COALESCED_COUNT = min (s.rd EVT_COALESCED_COUNT + 1) (2 ^ 32 - 1) ∧ v.rd EVT_WR_SEQ_SEQ = s.rd EVT_WR_SEQ_SEQ ∧
      v.log.entries = s.log.entries.map fun x => if x.seq = e.seq then
        { e with count := min (e.count + 1) 65535, lastUs := min ((s.now - e.first) / 1000) 1000 } else x) ∧
    ((t.newEntry r).rd EVT_WR_SEQ_SEQ = (s.rd EVT_WR_SEQ_SEQ + 1) % 2 ^ 32)) ∧
  (∀ (c : FwCmd) (rest : List FwCmd) (s : State), s.Inv → let u := s.begun c rest
    let d := c.payload
    (s.Begins 0x0B01 c rest →
      (16 ≤ leAt d 0 1 ∨ 4 ≤ leAt d 1 1 ∨ leAt d 2 2 ≠ 0 → exec .logConfig s = .next (u.fail c stBAD_PARAM)) ∧
      (leAt d 0 1 < 16 → leAt d 1 1 < 4 → leAt d 2 2 = 0 → exec .logConfig s =
        .next ((((u.wr EVT_CTRL_PERSIST (leAt d 0 1)).wr EVT_CTRL_AER_CORR (leAt d 1 1 % 2)).wr EVT_CTRL_AER_UNC (leAt d 1 1 / 2)).ok c))) ∧
    (s.Begins 0x0B10 c rest → let v := u.dropOwnFlush
      let es := (v.log.persistQ.drop v.inFlush).take 256
      exec .logFlush s = .next (if es = [] then v.finish c stOK (leBytes 4 0) else v.nvCommand c 5 (.log es) (leBytes 4 es.length))) ∧
    (s.Begins 0x0B11 c rest → let buf := leAt d 0 8
      let len := leAt d 8 4
      (len ≠ 0 → u.bufOk buf len = false → exec .logReadPersisted s = .next (u.fail c stPROT_BOUND)) ∧
      (len = 0 ∨ u.bufOk buf len = true → let all := s.persisted
        let es := all.drop (all.length - len / 32)
        exec .logReadPersisted s = .next ((u.fwWrite buf (es.map LogEntry.bytes).flatten).finish c stOK (leBytes 4 es.length)))) ∧
    (s.serving = true → s.log.persistQ ≠ [] → s.logFlushing = false →
      (256 ≤ s.log.persistQ.length ∨ s.log.persistSince + 1000000000 ≤ s.now →
        exec .persistFlush s = .next (s.nvEnqueue 5 (.log (s.log.persistQ.take 256)) true).2) ∧
      (s.log.persistQ.length < 256 → s.now < s.log.persistSince + 1000000000 → exec .persistFlush s = .next s)))
end

