-- ==== Sys2Proof/Laws/Sparse.lean ====
section
/-! SUPPORT. Sparse maps: what a key reads after a write, and the canonical form. -/

namespace Sys2Proof.Machine

variable {α : Type} [DecidableEq α] {d : Nat → α}

/-- A canonical map from a bound reads its default below the bound. -/
theorem Sparse.get_below {lo k : Nat} {l : List (Nat × α)} (h : Sparse.wfFrom d lo l = true) (hk : k < lo) : Sparse.get d l k = d k := by
  cases l with
  | nil => rfl
  | cons e t =>
    obtain ⟨a, v⟩ := e
    simp only [Sparse.wfFrom, Bool.and_eq_true, decide_eq_true_eq] at h
    simp only [Sparse.get, if_pos (show k < a by omega)]

/-- A lower bound of the keys may be lowered. -/
theorem Sparse.wfFrom_mono {lo lo' : Nat} {l : List (Nat × α)} (h : Sparse.wfFrom d lo l = true) (hl : lo' ≤ lo) :
    Sparse.wfFrom d lo' l = true := by
  cases l with
  | nil => rfl
  | cons e t =>
    simp only [Sparse.wfFrom, Bool.and_eq_true, decide_eq_true_eq] at h ⊢
    exact ⟨⟨by omega, h.1.2⟩, h.2⟩

/-- Writing a key keeps the canonical form from a bound at or below it. -/
theorem Sparse.put_wfFrom {lo k : Nat} {v : α} {l : List (Nat × α)} (h : Sparse.wfFrom d lo l = true) (hk : lo ≤ k) :
    Sparse.wfFrom d lo (Sparse.put d l k v) = true := by
  induction l generalizing lo with
  | nil => by_cases hv : v = d k <;> simp [Sparse.put, Sparse.wfFrom, hv, hk]
  | cons e t ih =>
    obtain ⟨a, w⟩ := e
    simp only [Sparse.wfFrom, Bool.and_eq_true, decide_eq_true_eq] at h
    obtain ⟨⟨h1, h2⟩, h3⟩ := h
    simp only [Sparse.put]
    split_ifs with c1 c2 c3 c4
    · simp [Sparse.wfFrom, h1, h2, h3]
    · simp only [Sparse.wfFrom, Bool.and_eq_true, decide_eq_true_eq]
      exact ⟨⟨hk, c2⟩, ⟨by omega, h2⟩, h3⟩
    · exact Sparse.wfFrom_mono h3 (by omega)
    · subst c3
      simp [Sparse.wfFrom, h1, h3, c4]
    · simp only [Sparse.wfFrom, Bool.and_eq_true, decide_eq_true_eq]
      exact ⟨⟨h1, h2⟩, ih h3 (by omega)⟩

/-- Writing a key keeps the canonical form. -/
theorem Sparse.put_wf {k : Nat} {v : α} {l : List (Nat × α)} (h : Sparse.wf d l = true) : Sparse.wf d (Sparse.put d l k v) = true :=
  Sparse.put_wfFrom h (Nat.zero_le k)

/-- Removing entries keeps the canonical form from a bound. -/
theorem Sparse.filter_wfFrom (f : Nat × α → Bool) {lo : Nat} {l : List (Nat × α)} (h : Sparse.wfFrom d lo l = true) :
    Sparse.wfFrom d lo (l.filter f) = true := by
  induction l generalizing lo with
  | nil => rfl
  | cons e t ih =>
    simp only [Sparse.wfFrom, Bool.and_eq_true, decide_eq_true_eq] at h
    simp only [List.filter]
    split
    · simp only [Sparse.wfFrom, Bool.and_eq_true, decide_eq_true_eq]
      exact ⟨h.1, ih h.2⟩
    · exact Sparse.wfFrom_mono (ih h.2) (by omega)

/-- Removing entries keeps the canonical form. -/
theorem Sparse.filter_wf (f : Nat × α → Bool) {l : List (Nat × α)} (h : Sparse.wf d l = true) : Sparse.wf d (l.filter f) = true :=
  Sparse.filter_wfFrom f h

/-- A key reads back what was written. -/
@[simp] theorem Sparse.get_put_same (l : List (Nat × α)) (k : Nat) (v : α) (h : Sparse.wf d l = true) :
    Sparse.get d (Sparse.put d l k v) k = v := by
  suffices ∀ lo, Sparse.wfFrom d lo l = true → Sparse.get d (Sparse.put d l k v) k = v from this 0 h
  induction l with
  | nil => intro lo _; by_cases hv : v = d k <;> simp [Sparse.put, Sparse.get, hv]
  | cons e t ih =>
    intro lo hw
    obtain ⟨a, w⟩ := e
    simp only [Sparse.wfFrom, Bool.and_eq_true, decide_eq_true_eq] at hw
    simp only [Sparse.put]
    split_ifs with c1 c2 c3 c4
    · simp [Sparse.get, c1, c2]
    · simp [Sparse.get]
    · rw [Sparse.get_below hw.2 (by omega), c4]
    · simp [Sparse.get]
    · simp only [Sparse.get, if_neg c1, if_neg c3]
      exact ih (Sparse.wfFrom_mono hw.2 (Nat.zero_le _)) _ hw.2

/-- A write leaves every other key alone. -/
theorem Sparse.get_put_other (l : List (Nat × α)) (k j : Nat) (v : α) (hj : j ≠ k) (h : Sparse.wf d l = true) :
    Sparse.get d (Sparse.put d l k v) j = Sparse.get d l j := by
  suffices ∀ lo, Sparse.wfFrom d lo l = true → Sparse.get d (Sparse.put d l k v) j = Sparse.get d l j from this 0 h
  induction l with
  | nil => intro lo _; by_cases hv : v = d k <;> simp [Sparse.put, Sparse.get, hv]; intros; omega
  | cons e t ih =>
    intro lo hw
    obtain ⟨a, w⟩ := e
    simp only [Sparse.wfFrom, Bool.and_eq_true, decide_eq_true_eq] at hw
    simp only [Sparse.put]
    split_ifs with c1 c2 c3 c4
    · rfl
    · by_cases hjk : j < k
      · simp [Sparse.get, hjk, show j < a by omega]
      · simp [Sparse.get, hjk, hj]
    · subst c3
      by_cases hja : j < k
      · rw [Sparse.get_below hw.2 (by omega)]; simp [Sparse.get, hja]
      · simp [Sparse.get, hja, hj]
    · subst c3
      simp [Sparse.get, hj]
    · simp only [Sparse.get]
      split_ifs
      · rfl
      · rfl
      · exact ih (Sparse.wfFrom_mono hw.2 (Nat.zero_le _)) _ hw.2

end Sys2Proof.Machine
end

