-- ==== Sys2Proof/Laws/Kept.lean ====
section
/-! SUPPORT. What every operation keeps: the queue, the part, and the canonical form of the sparse stores. Steps of such proofs. -/

namespace Sys2Proof.Machine

variable {kq : List Instr} {kp : Part} {α β : Type}

/-- An outcome is kept: it is a next state that is. -/
def OutKept (kq : List Instr) (kp : Part) (o : Host.Outcome State Fault Refusal) : Prop := ∃ t, o = .next t ∧ t.Kept kq kp

/-- A state that may be absent is kept. -/
structure OptKept (kq : List Instr) (kp : Part) (r : Option State) : Prop where
  kept : ∀ t, r = some t → t.Kept kq kp

/-- A next state that is kept is a kept outcome. -/
theorem next_kept {t : State} (h : t.Kept kq kp) : OutKept kq kp (.next t) := ⟨t, rfl, h⟩

/-- A state that is there is kept. -/
theorem some_kept {t : State} (h : t.Kept kq kp) : OptKept kq kp (some t) := ⟨fun u e => by cases e; exact h⟩

/-- The state of a pair. -/
theorem pair_kept {a : α} {t : State} (h : t.Kept kq kp) : ((a, t) : α × State).2.Kept kq kp := h

/-- A change of a pair's first component. -/
theorem first_kept {r : α × State} {f : α → β} (h : r.2.Kept kq kp) : (r.map f id).2.Kept kq kp := h

/-- A named state is kept where its value is. -/
theorem let_kept (kq : List Instr) (kp : Part) {P : Prop} {x v : State} (e : x = v) (h : v.Kept kq kp) (k : x.Kept kq kp → P) : P := k (e ▸ h)

/-- A named pair's state is kept where its value's is. -/
theorem let2_kept (kq : List Instr) (kp : Part) {P : Prop} {x v : α × State} (e : x = v) (h : v.2.Kept kq kp) (k : x.2.Kept kq kp → P) : P := k (e ▸ h)

/-- A state that a match has found is kept where the option was. -/
theorem of_opt (kq : List Instr) (kp : Part) {P : Prop} {r : Option State} {t : State} (e : r = some t) (h : OptKept kq kp r)
    (k : t.Kept kq kp → P) : P := k (h.kept t e)

/-- A pair that may be absent: its state is kept. -/
structure Opt2Kept (kq : List Instr) (kp : Part) (r : Option (α × State)) : Prop where
  kept : ∀ t, r = some t → t.2.Kept kq kp

/-- No state is kept. -/
theorem none_kept : OptKept kq kp none := ⟨fun _ e => nomatch e⟩

/-- No pair is kept. -/
theorem none2_kept : Opt2Kept (α := α) kq kp none := ⟨fun _ e => nomatch e⟩

/-- A pair that is there is kept. -/
theorem some2_kept {r : α × State} (h : r.2.Kept kq kp) : Opt2Kept kq kp (some r) := ⟨fun u e => by cases e; exact h⟩

/-- A pair that a match has found is kept where the option was. -/
theorem of_opt2 (kq : List Instr) (kp : Part) {P : Prop} {r : Option (α × State)} {t : α × State} (e : r = some t)
    (h : Opt2Kept kq kp r) (k : t.2.Kept kq kp → P) : P := k (h.kept t e)

/-- A state made from an option's pair. -/
theorem map2_kept {r : Option (α × State)} {f : α × State → State} (h : Opt2Kept kq kp r) (k : ∀ t, t.2.Kept kq kp → (f t).Kept kq kp) :
    OptKept kq kp (r.map f) := by
  cases r with
  | none => exact none_kept
  | some t => exact some_kept (k t (h.kept t rfl))

/-- A state made from an option's state. -/
theorem map_kept {r : Option State} {f : State → State} (h : OptKept kq kp r) (k : ∀ t, t.Kept kq kp → (f t).Kept kq kp) :
    OptKept kq kp (r.map f) := by
  cases r with
  | none => exact none_kept
  | some t => exact some_kept (k t (h.kept t rfl))

/-- An option's state made from an option's state. -/
theorem bind_kept {r : Option State} {f : State → Option State} (h : OptKept kq kp r) (k : ∀ t, t.Kept kq kp → OptKept kq kp (f t)) :
    OptKept kq kp (r.bind f) := by
  cases r with
  | none => exact none_kept
  | some t => exact k t (h.kept t rfl)

/-- An option's state made from an option's pair. -/
theorem bind2_kept {r : Option (α × State)} {f : α × State → Option State} (h : Opt2Kept kq kp r)
    (k : ∀ t, t.2.Kept kq kp → OptKept kq kp (f t)) : OptKept kq kp (r.bind f) := by
  cases r with
  | none => exact none_kept
  | some t => exact k t (h.kept t rfl)

/-- A fold over a state that may be absent. -/
theorem foldl_opt_kept {l : List α} {f : Option State → α → Option State} {x : Option State} (h : OptKept kq kp x)
    (k : ∀ y a, OptKept kq kp y → OptKept kq kp (f y a)) : OptKept kq kp (l.foldl f x) := by
  induction l generalizing x with
  | nil => exact h
  | cons a l ih => exact ih (k x a h)

/-- A state or, where it is absent, another. -/
theorem getD_kept {r : Option State} {s : State} (h : OptKept kq kp r) (hs : s.Kept kq kp) : (r.getD s).Kept kq kp := by
  cases r with
  | none => exact hs
  | some t => exact h.kept t rfl

/-- A state that a match has taken from a pair is kept where the pair's was. -/
theorem of_pair (kq : List Instr) (kp : Part) {P : Prop} {r : α × State} {a : α} {t : State} (e : r = (a, t)) (h : r.2.Kept kq kp) (k : t.Kept kq kp → P) : P :=
  k (by subst e; exact h)

/-- A fold keeps what each of its steps keeps. -/
theorem foldl_kept {l : List α} {f : State → α → State} {s : State} (h : s.Kept kq kp)
    (k : ∀ t a, t.Kept kq kp → (f t a).Kept kq kp) : (l.foldl f s).Kept kq kp := by
  induction l generalizing s with
  | nil => exact h
  | cons a l ih => exact ih (k s a h)

/-- The same where the fold carries a value beside the state. -/
theorem foldl2_kept {l : List α} {f : β × State → α → β × State} {x : β × State} (h : x.2.Kept kq kp)
    (k : ∀ y a, y.2.Kept kq kp → (f y a).2.Kept kq kp) : (l.foldl f x).2.Kept kq kp := by
  induction l generalizing x with
  | nil => exact h
  | cons a l ih => exact ih (k x a h)

/-- A change of any other field keeps it. -/
theorem upd_kept {t : State} {fuses' : Fuses} {now' : Nat} {freeCtr' : Nat} {back' : List (Nat × Word)} {hostRegs' : List Nat} {out' : List Output} {host' : HostPort} {duplex' : Duplex} {fw' : Fw} {log' : EventLog} {dsm' : Densum} {ddr' : Ddr} {ring' : Ring} {shroud' : Shroud} {nv' : Nv} {power' : Power} {time' : DevTime} {heads' : Vector HeadState 4} {layers' : Vector LayerState 64} {luts' : Vector LutSync 20} {sheet' : Vector SheetPort 16} {ingest' : Ingest} {clocks' : Clocks} {dma' : Vector DmaChan 16} {dmaServed' : Vector (Fin 16) 4} {blt' : Blt} {mainUp' : Bool}
    : (State.mk t.pending t.part fuses' now' freeCtr' t.regs t.live back' hostRegs' t.capture t.mem t.poisoned out' host' duplex' fw' log' dsm' ddr' ring' shroud' nv' power' time' heads' layers' luts' sheet' ingest' clocks' dma' dmaServed' blt' mainUp').Kept kq kp ↔ t.Kept kq kp := ⟨fun h => ⟨h.1, h.2, h.3, h.4, h.5, h.6, h.7⟩, fun h => ⟨h.1, h.2, h.3, h.4, h.5, h.6, h.7⟩⟩

end Sys2Proof.Machine
end

