-- ==== Sys2Proof/Laws/KeptOps.lean ====
section
/-! SUPPORT. The operations of Machine/Ops.lean keep the queue, the part and the canonical form of the sparse stores. -/

namespace Sys2Proof.Machine

set_option linter.unusedTactic false
set_option linter.unreachableTactic false
set_option linter.tactic.unusedName false

variable {kq : List Instr} {kp : Part}

theorem State.setBytes_kept {s : State} (a : Nat) (l : List Byte) (h : s.Kept kq kp) : (s.setBytes a l).Kept kq kp := by
  induction l generalizing s a with
  | nil => exact h
  | cons b t ih => exact ih (a + 1) ⟨h.1, h.2, h.3, h.4, Sparse.put_wf h.5, h.6, h.7⟩

theorem State.setReg_kept {s : State} (off : Nat) (w : Word) (hk : s.Kept kq kp) :
    (State.setReg s off w).Kept kq kp := by
  exact ⟨hk.1, hk.2, Sparse.put_wf hk.3, hk.4, hk.5, hk.6, hk.7⟩

theorem State.hostTakes_kept {s : State} (off : Nat) (hk : s.Kept kq kp) :
    (State.hostTakes s off).Kept kq kp := by
  delta State.hostTakes
  repeat' first | with_reducible assumption | (extract_lets +onlyGivenNames x; clear_value (e : x = _); first | (with_reducible refine let_kept kq kp e ?_ fun _ => ?_) <;> clear e | (with_reducible refine let2_kept kq kp e ?_ fun _ => ?_) <;> clear e | clear e) | (extract_lets +onlyGivenNames x) | split | simp -zeta only [upd_kept]

theorem State.commandCovers_kept {s : State} (offs : List Nat) (hk : s.Kept kq kp) :
    (State.commandCovers s offs).Kept kq kp := by
  delta State.commandCovers
  repeat' first | with_reducible assumption | (intro) | (extract_lets +onlyGivenNames x; clear_value (e : x = _); first | (with_reducible refine let_kept kq kp e ?_ fun _ => ?_) <;> clear e | (with_reducible refine let2_kept kq kp e ?_ fun _ => ?_) <;> clear e | clear e) | (extract_lets +onlyGivenNames x) | simp -zeta only [upd_kept]

theorem State.setRegOwn_kept {s : State} (off : Nat) (w : Word) (hk : s.Kept kq kp) :
    (State.setRegOwn s off w).Kept kq kp := by
  delta State.setRegOwn
  repeat' first | with_reducible assumption | with_reducible apply State.setReg_kept | split

theorem State.setLive_kept {s : State} (off : Nat) (w : Word) (hk : s.Kept kq kp) :
    (State.setLive s off w).Kept kq kp := by
  exact ⟨hk.1, hk.2, hk.3, Sparse.put_wf hk.4, hk.5, hk.6, hk.7⟩

theorem State.wr_kept {s : State} (f : Fld) (v : Nat) (hk : s.Kept kq kp) :
    (State.wr s f v).Kept kq kp := by
  delta State.wr
  repeat' first | with_reducible assumption | with_reducible apply State.setReg_kept

theorem State.wrOwn_kept {s : State} (f : Fld) (v : Nat) (hk : s.Kept kq kp) :
    (State.wrOwn s f v).Kept kq kp := by
  delta State.wrOwn
  repeat' first | with_reducible assumption | with_reducible apply State.wr_kept | split

theorem State.count_kept {s : State} (f : Fld) (n : Nat) (hk : s.Kept kq kp) :
    (State.count s f n).Kept kq kp := by
  delta State.count
  repeat' first | with_reducible assumption | with_reducible apply State.wr_kept

theorem State.latchRange_kept {s : State} (lo : Nat) (hi : Nat) (hk : s.Kept kq kp) :
    (State.latchRange s lo hi).Kept kq kp := by
  delta State.latchRange
  repeat' first | with_reducible assumption | (intro) | (extract_lets +onlyGivenNames x; clear_value (e : x = _); first | (with_reducible refine let_kept kq kp e ?_ fun _ => ?_) <;> clear e | (with_reducible refine let2_kept kq kp e ?_ fun _ => ?_) <;> clear e | clear e) | (extract_lets +onlyGivenNames x) | with_reducible apply State.setLive_kept | with_reducible apply foldl_kept | with_reducible apply foldl2_kept

theorem State.latchLive_kept {s : State} (lo : Nat) (hi : Nat) (hk : s.Kept kq kp) :
    (State.latchLive s lo hi).Kept kq kp := by
  delta State.latchLive
  repeat' first | with_reducible assumption | (intro) | (extract_lets +onlyGivenNames x; clear_value (e : x = _); first | (with_reducible refine let_kept kq kp e ?_ fun _ => ?_) <;> clear e | (with_reducible refine let2_kept kq kp e ?_ fun _ => ?_) <;> clear e | clear e) | (extract_lets +onlyGivenNames x) | with_reducible apply State.setLive_kept | with_reducible apply getD_kept | simp -zeta only [upd_kept] | with_reducible apply foldl_kept | with_reducible apply foldl2_kept

theorem State.when_kept {s : State} (c : Bool) (f : State → State) (hk : s.Kept kq kp) (hf : ∀ t0, t0.Kept kq kp → (f t0).Kept kq kp) :
    (State.when s c f).Kept kq kp := by
  unfold State.when; split
  · exact hf s hk
  · exact hk

theorem State.emit_kept {s : State} (o : Output) (hk : s.Kept kq kp) :
    (State.emit s o).Kept kq kp := by
  delta State.emit
  repeat' first | with_reducible assumption | (extract_lets +onlyGivenNames x; clear_value (e : x = _); first | (with_reducible refine let_kept kq kp e ?_ fun _ => ?_) <;> clear e | (with_reducible refine let2_kept kq kp e ?_ fun _ => ?_) <;> clear e | clear e) | (extract_lets +onlyGivenNames x) | simp -zeta only [upd_kept]

theorem State.freeNat_kept {s : State} (hk : s.Kept kq kp) :
    (State.freeNat s).2.Kept kq kp := by
  exact ⟨hk.1, hk.2, hk.3, hk.4, hk.5, hk.6, hk.7⟩

theorem State.freeLine_kept {s : State} (hk : s.Kept kq kp) :
    (State.freeLine s).2.Kept kq kp := by
  delta State.freeLine
  repeat' first | with_reducible assumption | with_reducible apply State.freeNat_kept | dsimp -zeta only

theorem State.sendVec_kept {s : State} (v : Nat) (hk : s.Kept kq kp) :
    (State.sendVec s v).Kept kq kp := by
  delta State.sendVec
  repeat' first | with_reducible assumption | (extract_lets +onlyGivenNames x; clear_value (e : x = _); first | (with_reducible refine let_kept kq kp e ?_ fun _ => ?_) <;> clear e | (with_reducible refine let2_kept kq kp e ?_ fun _ => ?_) <;> clear e | clear e) | (extract_lets +onlyGivenNames x) | with_reducible apply State.emit_kept | split | simp -zeta only [upd_kept]

theorem State.settleVec_kept {s : State} (v : Nat) (hk : s.Kept kq kp) :
    (State.settleVec s v).Kept kq kp := by
  delta State.settleVec
  repeat' first | with_reducible assumption | (extract_lets +onlyGivenNames x; clear_value (e : x = _); first | (with_reducible refine let_kept kq kp e ?_ fun _ => ?_) <;> clear e | (with_reducible refine let2_kept kq kp e ?_ fun _ => ?_) <;> clear e | clear e) | (extract_lets +onlyGivenNames x) | split | simp -zeta only [upd_kept]

theorem State.setIrqReg_kept {s : State} (off : Nat) (w : Word) (hk : s.Kept kq kp) :
    (State.setIrqReg s off w).Kept kq kp := by
  delta State.setIrqReg
  repeat' first | with_reducible assumption | (intro) | with_reducible apply State.sendVec_kept | with_reducible apply State.settleVec_kept | with_reducible apply State.setReg_kept | split | with_reducible apply foldl_kept | with_reducible apply foldl2_kept

theorem State.setCause_kept {s : State} (c : Cause) (hk : s.Kept kq kp) :
    (State.setCause s c).Kept kq kp := by
  delta State.setCause
  repeat' first | with_reducible assumption | (extract_lets +onlyGivenNames x; clear_value (e : x = _); first | (with_reducible refine let_kept kq kp e ?_ fun _ => ?_) <;> clear e | (with_reducible refine let2_kept kq kp e ?_ fun _ => ?_) <;> clear e | clear e) | (extract_lets +onlyGivenNames x) | with_reducible apply State.setReg_kept | with_reducible apply State.sendVec_kept | split

theorem State.clearCauses_kept {s : State} (off : Nat) (ones : Word) (hk : s.Kept kq kp) :
    (State.clearCauses s off ones).Kept kq kp := by
  delta State.clearCauses
  repeat' first | with_reducible assumption | (intro) | (extract_lets +onlyGivenNames x; clear_value (e : x = _); first | (with_reducible refine let_kept kq kp e ?_ fun _ => ?_) <;> clear e | (with_reducible refine let2_kept kq kp e ?_ fun _ => ?_) <;> clear e | clear e) | (extract_lets +onlyGivenNames x) | with_reducible apply State.setReg_kept | with_reducible apply State.sendVec_kept | with_reducible apply State.settleVec_kept | split | with_reducible apply foldl_kept | with_reducible apply foldl2_kept

theorem State.report_kept {s : State} (code : Nat) (source : Nat) (detail : Nat) (hk : s.Kept kq kp) :
    (State.report s code source detail).Kept kq kp := by
  delta State.report
  repeat' first | with_reducible assumption | (extract_lets +onlyGivenNames x; clear_value (e : x = _); first | (with_reducible refine let_kept kq kp e ?_ fun _ => ?_) <;> clear e | (with_reducible refine let2_kept kq kp e ?_ fun _ => ?_) <;> clear e | clear e) | (extract_lets +onlyGivenNames x) | with_reducible apply State.count_kept | with_reducible apply State.setCause_kept | split | simp -zeta only [upd_kept]

theorem State.setByte_kept {s : State} (a : Nat) (v : Byte) (hk : s.Kept kq kp) :
    (State.setByte s a v).Kept kq kp := by
  exact ⟨hk.1, hk.2, hk.3, hk.4, Sparse.put_wf hk.5, hk.6, hk.7⟩

theorem State.setLinePoison_kept {s : State} (line : Nat) (p : Bool) (hk : s.Kept kq kp) :
    (State.setLinePoison s line p).Kept kq kp := by
  exact ⟨hk.1, hk.2, hk.3, hk.4, hk.5, Sparse.put_wf hk.6, hk.7⟩

end Sys2Proof.Machine
end

