-- ==== Sys2Proof/Laws/KeptDensum.lean ====
section
/-! SUPPORT. The operations of Machine/Densum.lean keep the queue, the part and the canonical form of the sparse stores. -/

namespace Sys2Proof.Machine

set_option linter.unusedTactic false
set_option linter.unreachableTactic false
set_option linter.tactic.unusedName false

variable {kq : List Instr} {kp : Part}

theorem State.dsmPermErr_kept {s : State} (req : Nat) (addr : Nat) (hk : s.Kept kq kp) :
    (State.dsmPermErr s req addr).Kept kq kp := by
  delta State.dsmPermErr
  repeat' first | with_reducible assumption | with_reducible apply State.count_kept | with_reducible apply State.setCause_kept | with_reducible apply State.report_kept

theorem State.dsmSetRegion_kept {s : State} (k : Nat) (base : Nat) (units : Nat) (rd : Nat) (wr : Nat) (isSealed : Bool) (host : Bool) (hk : s.Kept kq kp) :
    (State.dsmSetRegion s k base units rd wr isSealed host).Kept kq kp := by
  delta State.dsmSetRegion
  repeat' first | with_reducible assumption | (intro) | (extract_lets +onlyGivenNames x; clear_value (e : x = _); first | (with_reducible refine let_kept kq kp e ?_ fun _ => ?_) <;> clear e | (with_reducible refine let2_kept kq kp e ?_ fun _ => ?_) <;> clear e | clear e) | (extract_lets +onlyGivenNames x) | with_reducible apply State.wr_kept | simp -zeta only [upd_kept]

theorem State.dsmNewRegion_kept {s : State} (units : Nat) (rd : Nat) (wr : Nat) (isSealed : Bool) (host : Bool) (hk : s.Kept kq kp) :
    Opt2Kept kq kp (State.dsmNewRegion s units rd wr isSealed host) := by
  delta State.dsmNewRegion
  repeat' first | with_reducible assumption | with_reducible apply some_kept | with_reducible apply some2_kept | with_reducible apply none_kept | with_reducible apply none2_kept | with_reducible apply map_kept | with_reducible apply map2_kept | with_reducible apply bind_kept | with_reducible apply bind2_kept | (extract_lets +onlyGivenNames x; clear_value (e : x = _); first | (with_reducible refine let_kept kq kp e ?_ fun _ => ?_) <;> clear e | (with_reducible refine let2_kept kq kp e ?_ fun _ => ?_) <;> clear e | clear e) | (extract_lets +onlyGivenNames x) | with_reducible apply State.dsmSetRegion_kept | split | simp -zeta only [upd_kept]

theorem State.setDsm_kept {s : State} (f : Densum → Densum) (hk : s.Kept kq kp) :
    (State.setDsm s f).Kept kq kp := by
  delta State.setDsm
  repeat' first | with_reducible assumption | (extract_lets +onlyGivenNames x; clear_value (e : x = _); first | (with_reducible refine let_kept kq kp e ?_ fun _ => ?_) <;> clear e | (with_reducible refine let2_kept kq kp e ?_ fun _ => ?_) <;> clear e | clear e) | (extract_lets +onlyGivenNames x) | simp -zeta only [upd_kept]

theorem State.uncover_kept {s : State} (span : Nat × Nat) (keep : Nat × Nat) (hk : s.Kept kq kp) :
    (State.uncover s span keep).Kept kq kp := by
  delta State.uncover
  repeat' first | with_reducible assumption | (intro) | (extract_lets +onlyGivenNames x; clear_value (e : x = _); first | (with_reducible refine let_kept kq kp e ?_ fun _ => ?_) <;> clear e | (with_reducible refine let2_kept kq kp e ?_ fun _ => ?_) <;> clear e | clear e) | (extract_lets +onlyGivenNames x) | with_reducible apply State.setDsm_kept | simp -zeta only [upd_kept]

theorem State.dsmFreeRegion_kept {s : State} (k : Nat) (hk : s.Kept kq kp) :
    (State.dsmFreeRegion s k).Kept kq kp := by
  delta State.dsmFreeRegion
  repeat' first | with_reducible assumption | with_reducible apply State.uncover_kept | with_reducible apply State.wr_kept

theorem State.setPage_kept {s : State} (p : Nat) (x : PageSeal) (hk : s.Kept kq kp) :
    (State.setPage s p x).Kept kq kp := by
  delta State.setPage
  repeat' first | with_reducible assumption | (intro) | (extract_lets +onlyGivenNames x; clear_value (e : x = _); first | (with_reducible refine let_kept kq kp e ?_ fun _ => ?_) <;> clear e | (with_reducible refine let2_kept kq kp e ?_ fun _ => ?_) <;> clear e | clear e) | (extract_lets +onlyGivenNames x) | simp -zeta only [upd_kept]

theorem State.dirtyPage_kept {s : State} (p : Nat) (hk : s.Kept kq kp) :
    (State.dirtyPage s p).Kept kq kp := by
  delta State.dirtyPage
  repeat' first | with_reducible assumption | (intro) | (extract_lets +onlyGivenNames x; clear_value (e : x = _); first | (with_reducible refine let_kept kq kp e ?_ fun _ => ?_) <;> clear e | (with_reducible refine let2_kept kq kp e ?_ fun _ => ?_) <;> clear e | clear e) | (extract_lets +onlyGivenNames x) | with_reducible apply State.setPage_kept | split | simp -zeta only [upd_kept]

theorem State.recurHit_kept {s : State} (addr : Nat) (hk : s.Kept kq kp) :
    (State.recurHit s addr).Kept kq kp := by
  delta State.recurHit
  repeat' first | with_reducible assumption | (intro) | (extract_lets +onlyGivenNames x; clear_value (e : x = _); first | (with_reducible refine let_kept kq kp e ?_ fun _ => ?_) <;> clear e | (with_reducible refine let2_kept kq kp e ?_ fun _ => ?_) <;> clear e | have _f : State → _ := x | clear e) | (extract_lets +onlyGivenNames x) | with_reducible apply State.wr_kept | with_reducible apply State.setCause_kept | with_reducible apply State.report_kept | with_reducible apply State.count_kept | split | simp -zeta only [upd_kept] | (subst_vars; beta_reduce)

theorem State.recurClear_kept {s : State} (e : Nat) (hk : s.Kept kq kp) :
    (State.recurClear s e).Kept kq kp := by
  delta State.recurClear
  repeat' first | with_reducible assumption | with_reducible apply State.setReg_kept

theorem State.recurClearLine_kept {s : State} (addr : Nat) (hk : s.Kept kq kp) :
    (State.recurClearLine s addr).Kept kq kp := by
  delta State.recurClearLine
  repeat' first | with_reducible assumption | (extract_lets +onlyGivenNames x; clear_value (e : x = _); first | (with_reducible refine let_kept kq kp e ?_ fun _ => ?_) <;> clear e | (with_reducible refine let2_kept kq kp e ?_ fun _ => ?_) <;> clear e | clear e) | (extract_lets +onlyGivenNames x) | with_reducible apply State.recurClear_kept | split | simp -zeta only [upd_kept]

theorem State.dsmRawRead_kept {s : State} (la : Nat) (hk : s.Kept kq kp) :
    (State.dsmRawRead s la).2.Kept kq kp := by
  delta State.dsmRawRead
  repeat' first | with_reducible assumption | (extract_lets +onlyGivenNames x; clear_value (e : x = _); first | (with_reducible refine let_kept kq kp e ?_ fun _ => ?_) <;> clear e | (with_reducible refine let2_kept kq kp e ?_ fun _ => ?_) <;> clear e | clear e) | (extract_lets +onlyGivenNames x) | with_reducible apply State.count_kept | with_reducible apply State.setCause_kept | with_reducible apply State.report_kept | with_reducible apply State.recurHit_kept | split | dsimp -zeta only | simp -zeta only [upd_kept]

theorem State.dsmReadLine_kept {s : State} (req : Nat) (la : Nat) (hk : s.Kept kq kp) :
    (State.dsmReadLine s req la).2.Kept kq kp := by
  delta State.dsmReadLine
  repeat' first | with_reducible assumption | (extract_lets +onlyGivenNames x; clear_value (e : x = _); first | (with_reducible refine let_kept kq kp e ?_ fun _ => ?_) <;> clear e | (with_reducible refine let2_kept kq kp e ?_ fun _ => ?_) <;> clear e | clear e) | (extract_lets +onlyGivenNames x) | with_reducible apply State.dsmRawRead_kept | with_reducible apply State.dsmPermErr_kept | with_reducible apply State.freeLine_kept | split | dsimp -zeta only

theorem State.dsmStore_kept {s : State} (key : Nat) (v : Byte) (hk : s.Kept kq kp) :
    (State.dsmStore s key v).Kept kq kp := by
  delta State.dsmStore
  repeat' first | with_reducible assumption | (intro) | (extract_lets +onlyGivenNames x; clear_value (e : x = _); first | (with_reducible refine let_kept kq kp e ?_ fun _ => ?_) <;> clear e | (with_reducible refine let2_kept kq kp e ?_ fun _ => ?_) <;> clear e | clear e) | (extract_lets +onlyGivenNames x) | with_reducible apply State.setByte_kept | split | simp -zeta only [upd_kept]

theorem State.dsmSetPoison_kept {s : State} (key : Nat) (p : Bool) (whole : Bool) (hk : s.Kept kq kp) :
    (State.dsmSetPoison s key p whole).Kept kq kp := by
  delta State.dsmSetPoison
  repeat' first | with_reducible assumption | (intro) | (extract_lets +onlyGivenNames x; clear_value (e : x = _); first | (with_reducible refine let_kept kq kp e ?_ fun _ => ?_) <;> clear e | (with_reducible refine let2_kept kq kp e ?_ fun _ => ?_) <;> clear e | clear e) | (extract_lets +onlyGivenNames x) | split | simp -zeta only [upd_kept]

theorem State.flipStored_kept {s : State} (key : Nat) (bit : Nat) (hk : s.Kept kq kp) :
    (State.flipStored s key bit).Kept kq kp := by
  delta State.flipStored
  repeat' first | with_reducible assumption | (intro) | (extract_lets +onlyGivenNames x; clear_value (e : x = _); first | (with_reducible refine let_kept kq kp e ?_ fun _ => ?_) <;> clear e | (with_reducible refine let2_kept kq kp e ?_ fun _ => ?_) <;> clear e | clear e) | (extract_lets +onlyGivenNames x) | with_reducible apply State.setByte_kept | simp -zeta only [upd_kept]

theorem State.flipWritten_kept {s : State} (key : Nat) (bit : Nat) (hk : s.Kept kq kp) :
    (State.flipWritten s key bit).Kept kq kp := by
  delta State.flipWritten
  repeat' first | with_reducible assumption | (intro) | (extract_lets +onlyGivenNames x; clear_value (e : x = _); first | (with_reducible refine let_kept kq kp e ?_ fun _ => ?_) <;> clear e | (with_reducible refine let2_kept kq kp e ?_ fun _ => ?_) <;> clear e | clear e) | (extract_lets +onlyGivenNames x) | with_reducible apply State.flipStored_kept | simp -zeta only [upd_kept]

theorem State.flipCheck_kept {s : State} (key : Nat) (bit : Nat) (hk : s.Kept kq kp) :
    (State.flipCheck s key bit).Kept kq kp := by
  delta State.flipCheck
  repeat' first | with_reducible assumption | (intro) | (extract_lets +onlyGivenNames x; clear_value (e : x = _); first | (with_reducible refine let_kept kq kp e ?_ fun _ => ?_) <;> clear e | (with_reducible refine let2_kept kq kp e ?_ fun _ => ?_) <;> clear e | clear e) | (extract_lets +onlyGivenNames x) | simp -zeta only [upd_kept]

theorem State.upset_kept {s : State} (la : Nat) (l : List (Nat × Nat)) (h : s.Kept kq kp) : (s.upset la l).Kept kq kp := by
  induction l generalizing s with
  | nil => exact h
  | cons u t ih =>
    refine ih ?_
    split
    · split
      · exact State.flipStored_kept _ _ h
      · exact State.flipCheck_kept _ _ h
    · exact ⟨h.1, h.2, h.3, h.4, h.5, h.6, h.7⟩

theorem State.inject_kept {s : State} (la : Nat) (enabled : Nat → Bool) (hk : s.Kept kq kp) :
    (State.inject s la enabled).Kept kq kp := by
  delta State.inject
  repeat' first | with_reducible assumption | (extract_lets +onlyGivenNames x; clear_value (e : x = _); first | (with_reducible refine let_kept kq kp e ?_ fun _ => ?_) <;> clear e | (with_reducible refine let2_kept kq kp e ?_ fun _ => ?_) <;> clear e | clear e) | (extract_lets +onlyGivenNames x) | with_reducible apply State.flipWritten_kept | with_reducible apply State.wr_kept | with_reducible apply State.dsmSetPoison_kept | split

theorem State.dsmStoreAll_kept {s : State} (a : Nat) (l : List (Option Byte)) (h : s.Kept kq kp) : (s.dsmStoreAll a l).Kept kq kp := by
  induction l generalizing s a with
  | nil => exact h
  | cons b t ih =>
    cases b with
    | none => exact ih (a + 1) h
    | some b => exact ih (a + 1) (State.dsmStore_kept a b h)

theorem State.dropBack_kept {s : State} (la : Nat) (hk : s.Kept kq kp) :
    (State.dropBack s la).Kept kq kp := by
  delta State.dropBack
  repeat' first | with_reducible assumption | (intro) | (extract_lets +onlyGivenNames x; clear_value (e : x = _); first | (with_reducible refine let_kept kq kp e ?_ fun _ => ?_) <;> clear e | (with_reducible refine let2_kept kq kp e ?_ fun _ => ?_) <;> clear e | clear e) | (extract_lets +onlyGivenNames x) | split | simp -zeta only [upd_kept]

theorem State.dsmRawWrite_kept {s : State} (addr : Nat) (data : List (Option Byte)) (poison : Bool) (hk : s.Kept kq kp) :
    (State.dsmRawWrite s addr data poison).Kept kq kp := by
  delta State.dsmRawWrite
  repeat' first | with_reducible assumption | (intro) | (extract_lets +onlyGivenNames x; clear_value (e : x = _); first | (with_reducible refine let_kept kq kp e ?_ fun _ => ?_) <;> clear e | (with_reducible refine let2_kept kq kp e ?_ fun _ => ?_) <;> clear e | clear e) | (extract_lets +onlyGivenNames x) | with_reducible apply State.dsmStoreAll_kept | with_reducible apply State.dsmSetPoison_kept | with_reducible apply State.dropBack_kept | with_reducible apply State.dirtyPage_kept | with_reducible apply State.recurClearLine_kept | with_reducible apply State.inject_kept | split | with_reducible apply getD_kept

theorem State.dsmWriteLine_kept {s : State} (req : Nat) (addr : Nat) (data : List (Option Byte)) (poison : Bool) (hk : s.Kept kq kp) :
    (State.dsmWriteLine s req addr data poison).2.Kept kq kp := by
  delta State.dsmWriteLine
  repeat' first | with_reducible assumption | with_reducible apply State.dsmRawWrite_kept | with_reducible apply State.dsmPermErr_kept | split | dsimp -zeta only

theorem State.writeParity_kept {s : State} (p : Nat) (ls : List (Nat × List Byte)) (hk : s.Kept kq kp) :
    (State.writeParity s p ls).Kept kq kp := by
  delta State.writeParity
  repeat' first | with_reducible assumption | (intro) | (extract_lets +onlyGivenNames x; clear_value (e : x = _); first | (with_reducible refine let_kept kq kp e ?_ fun _ => ?_) <;> clear e | (with_reducible refine let2_kept kq kp e ?_ fun _ => ?_) <;> clear e | have _f : State → _ := x | clear e) | (extract_lets +onlyGivenNames x) | with_reducible apply State.dsmStoreAll_kept | with_reducible apply State.dsmSetPoison_kept | (subst_vars; beta_reduce)

theorem State.sealRead_kept {s : State} (key : Nat) (hk : s.Kept kq kp) :
    (State.sealRead s key).Kept kq kp := by
  delta State.sealRead
  repeat' first | with_reducible assumption | with_reducible apply State.dsmRawRead_kept

theorem execDsmRead_kept (req : Fin 9) (line : BitVec 21) (upsets : List (Nat × Nat)) {s : State} (hk : s.Kept kq kp) :
    OutKept kq kp (execDsmRead req line upsets s) := by
  delta execDsmRead
  repeat' first | with_reducible assumption | (intro) | with_reducible apply next_kept | (extract_lets +onlyGivenNames x; clear_value (e : x = _); first | (with_reducible refine let_kept kq kp e ?_ fun _ => ?_) <;> clear e | (with_reducible refine let2_kept kq kp e ?_ fun _ => ?_) <;> clear e | clear e) | (extract_lets +onlyGivenNames x) | with_reducible apply State.when_kept | with_reducible apply State.upset_kept | with_reducible apply State.dsmReadLine_kept | with_reducible apply State.emit_kept

theorem execDsmWrite_kept (by_ : DsmWriter) (addr : BitVec 27) (data : List (Option Byte)) (poison : Bool) {s : State} (hk : s.Kept kq kp) :
    OutKept kq kp (execDsmWrite by_ addr data poison s) := by
  delta execDsmWrite
  repeat' first | with_reducible assumption | (intro) | with_reducible apply next_kept | (extract_lets +onlyGivenNames x; clear_value (e : x = _); first | (with_reducible refine let_kept kq kp e ?_ fun _ => ?_) <;> clear e | (with_reducible refine let2_kept kq kp e ?_ fun _ => ?_) <;> clear e | clear e) | (extract_lets +onlyGivenNames x) | with_reducible apply State.when_kept | with_reducible apply State.dsmWriteLine_kept | with_reducible apply State.emit_kept | split

theorem execSealPage_kept (page : BitVec 15) {s : State} (hk : s.Kept kq kp) :
    OutKept kq kp (execSealPage page s) := by
  delta execSealPage
  repeat' first | with_reducible assumption | (intro) | with_reducible apply next_kept | (extract_lets +onlyGivenNames x; clear_value (e : x = _); first | (with_reducible refine let_kept kq kp e ?_ fun _ => ?_) <;> clear e | (with_reducible refine let2_kept kq kp e ?_ fun _ => ?_) <;> clear e | clear e) | (extract_lets +onlyGivenNames x) | with_reducible apply State.sealRead_kept | with_reducible apply State.setPage_kept | with_reducible apply State.count_kept | with_reducible apply State.setCause_kept | with_reducible apply State.report_kept | with_reducible apply State.writeParity_kept | split | simp -zeta only [upd_kept] | with_reducible apply foldl_kept | with_reducible apply foldl2_kept

end Sys2Proof.Machine
end

