-- ==== Sys2Proof/Laws/KeptDdr.lean ====
section
/-! SUPPORT. The operations of Machine/Ddr.lean keep the queue, the part and the canonical form of the sparse stores. -/

namespace Sys2Proof.Machine

set_option linter.unusedTactic false
set_option linter.unreachableTactic false
set_option linter.tactic.unusedName false

variable {kq : List Instr} {kp : Part}

theorem State.setChan_kept {s : State} (c : Nat) (f : DdrChan → DdrChan) (hk : s.Kept kq kp) :
    (State.setChan s c f).Kept kq kp := by
  delta State.setChan
  repeat' first | with_reducible assumption | (extract_lets +onlyGivenNames x; clear_value (e : x = _); first | (with_reducible refine let_kept kq kp e ?_ fun _ => ?_) <;> clear e | (with_reducible refine let2_kept kq kp e ?_ fun _ => ?_) <;> clear e | clear e) | (extract_lets +onlyGivenNames x) | simp -zeta only [upd_kept]

theorem State.lineStore_kept {s : State} (c : Nat) (line : Nat) (d : List Byte) (p : Bool) (hk : s.Kept kq kp) :
    (State.lineStore s c line d p).Kept kq kp := by
  delta State.lineStore
  repeat' first | with_reducible assumption | (intro) | (extract_lets +onlyGivenNames x; clear_value (e : x = _); first | (with_reducible refine let_kept kq kp e ?_ fun _ => ?_) <;> clear e | (with_reducible refine let2_kept kq kp e ?_ fun _ => ?_) <;> clear e | clear e) | (extract_lets +onlyGivenNames x) | with_reducible apply State.setChan_kept | with_reducible apply State.setBytes_kept | with_reducible apply State.setLinePoison_kept | split | simp -zeta only [upd_kept] | with_reducible apply foldl_kept | with_reducible apply foldl2_kept

theorem State.copiesMeet_kept {s : State} (lo : Nat) (hi : Nat) (hk : s.Kept kq kp) :
    (State.copiesMeet s lo hi).Kept kq kp := by
  delta State.copiesMeet
  repeat' first | with_reducible assumption | (intro) | (extract_lets +onlyGivenNames x; clear_value (e : x = _); first | (with_reducible refine let_kept kq kp e ?_ fun _ => ?_) <;> clear e | (with_reducible refine let2_kept kq kp e ?_ fun _ => ?_) <;> clear e | clear e) | (extract_lets +onlyGivenNames x) | with_reducible apply State.setChan_kept | simp -zeta only [upd_kept] | with_reducible apply foldl_kept | with_reducible apply foldl2_kept

theorem State.noteQuality_kept {s : State} (c : Nat) (line : Nat) (q : DdrQuality) (hk : s.Kept kq kp) :
    (State.noteQuality s c line q).Kept kq kp := by
  delta State.noteQuality
  repeat' first | with_reducible assumption | (intro) | (extract_lets +onlyGivenNames x; clear_value (e : x = _); first | (with_reducible refine let_kept kq kp e ?_ fun _ => ?_) <;> clear e | (with_reducible refine let2_kept kq kp e ?_ fun _ => ?_) <;> clear e | clear e) | (extract_lets +onlyGivenNames x) | with_reducible apply State.setChan_kept | split | simp -zeta only [upd_kept]

theorem State.poisonGranule_kept {s : State} (g : Nat) (hk : s.Kept kq kp) :
    (State.poisonGranule s g).Kept kq kp := by
  delta State.poisonGranule
  generalize List.range 1024 = l
  exact upd_kept.2 (State.copiesMeet_kept _ _ (foldl_kept ⟨hk.1, hk.2, hk.3, hk.4, Sparse.filter_wf _ hk.5, hk.6, hk.7⟩ fun t a ht => State.setLinePoison_kept _ _ ht))

theorem State.zeroGranule_kept {s : State} (g : Nat) (hk : s.Kept kq kp) :
    (State.zeroGranule s g).Kept kq kp := by
  exact State.copiesMeet_kept _ _ ⟨hk.1, hk.2, hk.3, hk.4, Sparse.filter_wf _ hk.5, Sparse.filter_wf _ hk.6, hk.7⟩

theorem State.fillRange_kept {s : State} (lo : Nat) (hi : Nat) (hk : s.Kept kq kp) :
    (State.fillRange s lo hi).Kept kq kp := by
  delta State.fillRange
  repeat' first | with_reducible assumption | (intro) | with_reducible apply State.poisonGranule_kept | split | with_reducible apply foldl_kept | with_reducible apply foldl2_kept

theorem State.mitigate_kept {s : State} (c : Nat) (bank : Nat) (row : Nat) (hk : s.Kept kq kp) :
    (State.mitigate s c bank row).Kept kq kp := by
  delta State.mitigate
  repeat' first | with_reducible assumption | (intro) | (extract_lets +onlyGivenNames x; clear_value (e : x = _); first | (with_reducible refine let_kept kq kp e ?_ fun _ => ?_) <;> clear e | (with_reducible refine let2_kept kq kp e ?_ fun _ => ?_) <;> clear e | clear e) | (extract_lets +onlyGivenNames x) | with_reducible apply State.setChan_kept | with_reducible apply State.count_kept | with_reducible apply State.emit_kept | simp -zeta only [upd_kept]

theorem State.mitigateOwed_kept {s : State} (c : Nat) (bank : Nat) (hk : s.Kept kq kp) :
    (State.mitigateOwed s c bank).Kept kq kp := by
  delta State.mitigateOwed
  repeat' first | with_reducible assumption | (extract_lets +onlyGivenNames x; clear_value (e : x = _); first | (with_reducible refine let_kept kq kp e ?_ fun _ => ?_) <;> clear e | (with_reducible refine let2_kept kq kp e ?_ fun _ => ?_) <;> clear e | clear e) | (extract_lets +onlyGivenNames x) | with_reducible apply State.mitigate_kept | split | simp -zeta only [upd_kept]

theorem State.rtActivate_kept {s : State} (c : Nat) (p : DdrPlace) (hk : s.Kept kq kp) :
    (State.rtActivate s c p).Kept kq kp := by
  delta State.rtActivate
  repeat' first | with_reducible assumption | (intro) | (extract_lets +onlyGivenNames x; clear_value (e : x = _); first | (with_reducible refine let_kept kq kp e ?_ fun _ => ?_) <;> clear e | (with_reducible refine let2_kept kq kp e ?_ fun _ => ?_) <;> clear e | clear e) | (extract_lets +onlyGivenNames x) | with_reducible apply State.setChan_kept | with_reducible apply State.mitigate_kept | split | with_reducible apply getD_kept | simp -zeta only [upd_kept]

theorem State.beActivate_kept {s : State} (c : Nat) (r : Nat) (p : DdrPlace) (hk : s.Kept kq kp) :
    (State.beActivate s c r p).Kept kq kp := by
  delta State.beActivate
  repeat' first | with_reducible assumption | (intro) | (extract_lets +onlyGivenNames x; clear_value (e : x = _); first | (with_reducible refine let_kept kq kp e ?_ fun _ => ?_) <;> clear e | (with_reducible refine let2_kept kq kp e ?_ fun _ => ?_) <;> clear e | clear e) | (extract_lets +onlyGivenNames x) | with_reducible apply State.setChan_kept | with_reducible apply State.count_kept | with_reducible apply State.setCause_kept | with_reducible apply State.report_kept | split | with_reducible apply getD_kept | simp -zeta only [upd_kept]

theorem State.activate_kept {s : State} (c : Nat) (who : DdrWho) (line : Nat) (hk : s.Kept kq kp) :
    (State.activate s c who line).Kept kq kp := by
  delta State.activate
  repeat' first | with_reducible assumption | (intro) | (extract_lets +onlyGivenNames x; clear_value (e : x = _); first | (with_reducible refine let_kept kq kp e ?_ fun _ => ?_) <;> clear e | (with_reducible refine let2_kept kq kp e ?_ fun _ => ?_) <;> clear e | clear e) | (extract_lets +onlyGivenNames x) | with_reducible apply State.mitigateOwed_kept | with_reducible apply State.setChan_kept | with_reducible apply State.rtActivate_kept | with_reducible apply State.beActivate_kept | split | with_reducible apply getD_kept | simp -zeta only [upd_kept]

theorem State.ddrTouch_kept {s : State} (c : Nat) (hk : s.Kept kq kp) :
    (State.ddrTouch s c).Kept kq kp := by
  delta State.ddrTouch
  repeat' first | with_reducible assumption | (intro) | (extract_lets +onlyGivenNames x; clear_value (e : x = _); first | (with_reducible refine let_kept kq kp e ?_ fun _ => ?_) <;> clear e | (with_reducible refine let2_kept kq kp e ?_ fun _ => ?_) <;> clear e | clear e) | (extract_lets +onlyGivenNames x) | with_reducible apply State.wr_kept | with_reducible apply State.setChan_kept | simp -zeta only [upd_kept]

theorem State.ceDev_kept {s : State} (c : Nat) (p : DdrPlace) (i : Nat) (synd : Nat) (hk : s.Kept kq kp) :
    (State.ceDev s c p i synd).Kept kq kp := by
  delta State.ceDev
  repeat' first | with_reducible assumption | (intro) | (extract_lets +onlyGivenNames x; clear_value (e : x = _); first | (with_reducible refine let_kept kq kp e ?_ fun _ => ?_) <;> clear e | (with_reducible refine let2_kept kq kp e ?_ fun _ => ?_) <;> clear e | clear e) | (extract_lets +onlyGivenNames x) | with_reducible apply State.count_kept | with_reducible apply State.setCause_kept | with_reducible apply State.setChan_kept | with_reducible apply State.report_kept | split | simp -zeta only [upd_kept]

theorem State.ddrCheck_kept {s : State} (c : Nat) (line : Nat) (data : List Byte) (poison : Bool) (q : DdrQuality) (hk : s.Kept kq kp) :
    (State.ddrCheck s c line data poison q).2.Kept kq kp := by
  delta State.ddrCheck
  repeat' first | with_reducible assumption | (intro) | (extract_lets +onlyGivenNames x; clear_value (e : x = _); first | (with_reducible refine let_kept kq kp e ?_ fun _ => ?_) <;> clear e | (with_reducible refine let2_kept kq kp e ?_ fun _ => ?_) <;> clear e | clear e) | (extract_lets +onlyGivenNames x) | with_reducible apply State.ddrTouch_kept | with_reducible apply State.count_kept | with_reducible apply State.report_kept | with_reducible apply State.setCause_kept | with_reducible apply State.setChan_kept | with_reducible apply State.ceDev_kept | split | dsimp -zeta only | simp -zeta only [upd_kept]

theorem State.ddrApply_kept {s : State} (c : Nat) (e : DdrEntry) (hk : s.Kept kq kp) :
    (State.ddrApply s c e).Kept kq kp := by
  delta State.ddrApply
  repeat' first | with_reducible assumption | (extract_lets +onlyGivenNames x; clear_value (e : x = _); first | (with_reducible refine let_kept kq kp e ?_ fun _ => ?_) <;> clear e | (with_reducible refine let2_kept kq kp e ?_ fun _ => ?_) <;> clear e | clear e) | (extract_lets +onlyGivenNames x) | with_reducible apply State.lineStore_kept

theorem State.ddrAhead_kept {s : State} (c : Nat) (e : DdrEntry) (hk : s.Kept kq kp) :
    (State.ddrAhead s c e).Kept kq kp := by
  delta State.ddrAhead
  repeat' first | with_reducible assumption | (intro) | (extract_lets +onlyGivenNames x; clear_value (e : x = _); first | (with_reducible refine let_kept kq kp e ?_ fun _ => ?_) <;> clear e | (with_reducible refine let2_kept kq kp e ?_ fun _ => ?_) <;> clear e | clear e) | (extract_lets +onlyGivenNames x) | with_reducible apply State.setChan_kept | with_reducible apply State.ddrApply_kept | split | simp -zeta only [upd_kept]

theorem State.ddrFlush_kept {s : State} (line : Nat) (hk : s.Kept kq kp) :
    (State.ddrFlush s line).Kept kq kp := by
  delta State.ddrFlush
  repeat' first | with_reducible assumption | (intro) | (extract_lets +onlyGivenNames x; clear_value (e : x = _); first | (with_reducible refine let_kept kq kp e ?_ fun _ => ?_) <;> clear e | (with_reducible refine let2_kept kq kp e ?_ fun _ => ?_) <;> clear e | clear e) | (extract_lets +onlyGivenNames x) | with_reducible apply State.ddrAhead_kept | with_reducible apply foldl_kept | with_reducible apply foldl2_kept

theorem State.ddrReadLine_kept {s : State} (who : DdrWho) (line : Nat) (hk : s.Kept kq kp) :
    (State.ddrReadLine s who line).2.Kept kq kp := by
  delta State.ddrReadLine
  repeat' first | with_reducible assumption | (extract_lets +onlyGivenNames x; clear_value (e : x = _); first | (with_reducible refine let_kept kq kp e ?_ fun _ => ?_) <;> clear e | (with_reducible refine let2_kept kq kp e ?_ fun _ => ?_) <;> clear e | clear e) | (extract_lets +onlyGivenNames x) | with_reducible apply State.freeLine_kept | with_reducible apply State.ddrFlush_kept | with_reducible apply State.ddrTouch_kept | with_reducible apply State.count_kept | with_reducible apply State.activate_kept | with_reducible apply State.ddrCheck_kept | split | dsimp -zeta only | simp -zeta only [upd_kept]

theorem State.fillFor_kept {s : State} (who : DdrWho) (cs : List Nat) (line : Nat) (hk : s.Kept kq kp) :
    (State.fillFor s who cs line).Kept kq kp := by
  delta State.fillFor
  repeat' first | with_reducible assumption | (intro) | (extract_lets +onlyGivenNames x; clear_value (e : x = _); first | (with_reducible refine let_kept kq kp e ?_ fun _ => ?_) <;> clear e | (with_reducible refine let2_kept kq kp e ?_ fun _ => ?_) <;> clear e | clear e) | (extract_lets +onlyGivenNames x) | with_reducible apply State.poisonGranule_kept | with_reducible apply State.count_kept | split | simp -zeta only [upd_kept] | with_reducible apply foldl_kept | with_reducible apply foldl2_kept

theorem State.ddrMerge_kept {s : State} (c : Nat) (e : DdrEntry) (hk : s.Kept kq kp) :
    (State.ddrMerge s c e).Kept kq kp := by
  delta State.ddrMerge
  repeat' first | with_reducible assumption | (extract_lets +onlyGivenNames x; clear_value (e : x = _); first | (with_reducible refine let_kept kq kp e ?_ fun _ => ?_) <;> clear e | (with_reducible refine let2_kept kq kp e ?_ fun _ => ?_) <;> clear e | clear e) | (extract_lets +onlyGivenNames x) | with_reducible apply State.count_kept | with_reducible apply State.activate_kept | with_reducible apply State.ddrCheck_kept | with_reducible apply State.lineStore_kept

theorem State.ddrWriteLine_kept {s : State} (who : DdrWho) (addr : Nat) (data : List (Option Byte)) (poison : Bool) (hk : s.Kept kq kp) :
    (State.ddrWriteLine s who addr data poison).2.Kept kq kp := by
  delta State.ddrWriteLine
  repeat' first | with_reducible assumption | (intro) | (extract_lets +onlyGivenNames x; clear_value (e : x = _); first | (with_reducible refine let_kept kq kp e ?_ fun _ => ?_) <;> clear e | (with_reducible refine let2_kept kq kp e ?_ fun _ => ?_) <;> clear e | clear e) | (extract_lets +onlyGivenNames x) | with_reducible apply State.ddrTouch_kept | with_reducible apply State.ddrFlush_kept | with_reducible apply State.fillFor_kept | with_reducible apply State.activate_kept | with_reducible apply State.ddrApply_kept | with_reducible apply State.ddrMerge_kept | split | dsimp -zeta only | with_reducible apply foldl_kept | with_reducible apply foldl2_kept

theorem State.ddrDeliver_kept {s : State} (e : DdrEntry) (data : List Byte) (poison : Bool) (err : Bool) (hk : s.Kept kq kp) :
    (State.ddrDeliver s e data poison err).Kept kq kp := by
  delta State.ddrDeliver
  repeat' first | with_reducible assumption | (extract_lets +onlyGivenNames x; clear_value (e : x = _); first | (with_reducible refine let_kept kq kp e ?_ fun _ => ?_) <;> clear e | (with_reducible refine let2_kept kq kp e ?_ fun _ => ?_) <;> clear e | clear e) | (extract_lets +onlyGivenNames x) | with_reducible apply State.emit_kept | split | simp -zeta only [upd_kept]

theorem State.panicFollow_kept {s : State} (p : Nat) (hk : s.Kept kq kp) :
    (State.panicFollow s p).Kept kq kp := by
  delta State.panicFollow
  repeat' first | with_reducible assumption | (extract_lets +onlyGivenNames x; clear_value (e : x = _); first | (with_reducible refine let_kept kq kp e ?_ fun _ => ?_) <;> clear e | (with_reducible refine let2_kept kq kp e ?_ fun _ => ?_) <;> clear e | clear e) | (extract_lets +onlyGivenNames x) | with_reducible apply State.wr_kept | with_reducible apply State.count_kept | split | simp -zeta only [upd_kept]

theorem State.panicUpdate_kept {s : State} (hk : s.Kept kq kp) :
    (State.panicUpdate s).Kept kq kp := by
  delta State.panicUpdate
  repeat' first | with_reducible assumption | (intro) | with_reducible apply State.panicFollow_kept | with_reducible apply foldl_kept | with_reducible apply foldl2_kept

theorem State.ddrEnqueue_kept {s : State} (c : Nat) (e : DdrEntry) (hk : s.Kept kq kp) :
    (State.ddrEnqueue s c e).Kept kq kp := by
  delta State.ddrEnqueue
  repeat' first | with_reducible assumption | (intro) | (extract_lets +onlyGivenNames x; clear_value (e : x = _); first | (with_reducible refine let_kept kq kp e ?_ fun _ => ?_) <;> clear e | (with_reducible refine let2_kept kq kp e ?_ fun _ => ?_) <;> clear e | clear e) | (extract_lets +onlyGivenNames x) | with_reducible apply State.setChan_kept | split | simp -zeta only [upd_kept]

theorem State.ddrReadReq_kept {s : State} (who : DdrWho) (line : Nat) (hk : s.Kept kq kp) :
    (State.ddrReadReq s who line).Kept kq kp := by
  delta State.ddrReadReq
  repeat' first | with_reducible assumption | (extract_lets +onlyGivenNames x; clear_value (e : x = _); first | (with_reducible refine let_kept kq kp e ?_ fun _ => ?_) <;> clear e | (with_reducible refine let2_kept kq kp e ?_ fun _ => ?_) <;> clear e | clear e) | (extract_lets +onlyGivenNames x) | with_reducible apply State.freeLine_kept | with_reducible apply State.ddrDeliver_kept | with_reducible apply State.ddrTouch_kept | with_reducible apply State.count_kept | with_reducible apply State.ddrEnqueue_kept | split | simp -zeta only [upd_kept]

theorem State.ddrWriteReq_kept {s : State} (who : DdrWho) (line : Nat) (data : List (Option Byte)) (poison : Bool) (hk : s.Kept kq kp) :
    (State.ddrWriteReq s who line data poison).Kept kq kp := by
  delta State.ddrWriteReq
  repeat' first | with_reducible assumption | (intro) | (extract_lets +onlyGivenNames x; clear_value (e : x = _); first | (with_reducible refine let_kept kq kp e ?_ fun _ => ?_) <;> clear e | (with_reducible refine let2_kept kq kp e ?_ fun _ => ?_) <;> clear e | clear e) | (extract_lets +onlyGivenNames x) | with_reducible apply State.ddrDeliver_kept | with_reducible apply State.fillFor_kept | with_reducible apply State.count_kept | with_reducible apply State.ddrTouch_kept | with_reducible apply State.ddrEnqueue_kept | split | simp -zeta only [upd_kept] | with_reducible apply foldl_kept | with_reducible apply foldl2_kept

theorem execDdrRequest_kept (realTime : Bool) (r : Nat) (addr : Nat) (op : DdrOp) {s : State} (hk : s.Kept kq kp) :
    OutKept kq kp (execDdrRequest realTime r addr op s) := by
  delta execDdrRequest
  repeat' first | with_reducible assumption | (intro) | with_reducible apply next_kept | (extract_lets +onlyGivenNames x; clear_value (e : x = _); first | (with_reducible refine let_kept kq kp e ?_ fun _ => ?_) <;> clear e | (with_reducible refine let2_kept kq kp e ?_ fun _ => ?_) <;> clear e | clear e) | (extract_lets +onlyGivenNames x) | with_reducible apply State.when_kept | with_reducible apply State.ddrReadReq_kept | with_reducible apply State.panicUpdate_kept | with_reducible apply State.ddrWriteReq_kept | split | simp -zeta only [upd_kept] | with_reducible apply foldl_kept | with_reducible apply foldl2_kept

theorem State.applyDrift_kept {s : State} (c : Nat) (rank : Nat) (hk : s.Kept kq kp) :
    (State.applyDrift s c rank).Kept kq kp := by
  delta State.applyDrift
  repeat' first | with_reducible assumption | (intro) | (extract_lets +onlyGivenNames x; clear_value (e : x = _); first | (with_reducible refine let_kept kq kp e ?_ fun _ => ?_) <;> clear e | (with_reducible refine let2_kept kq kp e ?_ fun _ => ?_) <;> clear e | clear e) | (extract_lets +onlyGivenNames x) | with_reducible apply State.wr_kept | with_reducible apply State.setChan_kept | split | with_reducible apply getD_kept | simp -zeta only [upd_kept] | with_reducible apply foldl_kept | with_reducible apply foldl2_kept

theorem State.refreshIssue_kept {s : State} (c : Nat) (i : Nat) (post : Bool) (hk : s.Kept kq kp) :
    (State.refreshIssue s c i post).Kept kq kp := by
  delta State.refreshIssue
  repeat' first | with_reducible assumption | (intro) | (extract_lets +onlyGivenNames x; clear_value (e : x = _); first | (with_reducible refine let_kept kq kp e ?_ fun _ => ?_) <;> clear e | (with_reducible refine let2_kept kq kp e ?_ fun _ => ?_) <;> clear e | clear e) | (extract_lets +onlyGivenNames x) | with_reducible apply State.applyDrift_kept | with_reducible apply State.setChan_kept | with_reducible apply State.count_kept | split | with_reducible apply getD_kept | simp -zeta only [upd_kept] | with_reducible apply foldl_kept | with_reducible apply foldl2_kept

theorem State.postpone_kept {s : State} (c : Nat) (hk : s.Kept kq kp) :
    (State.postpone s c).Kept kq kp := by
  delta State.postpone
  repeat' first | with_reducible assumption | (intro) | (extract_lets +onlyGivenNames x; clear_value (e : x = _); first | (with_reducible refine let_kept kq kp e ?_ fun _ => ?_) <;> clear e | (with_reducible refine let2_kept kq kp e ?_ fun _ => ?_) <;> clear e | clear e) | (extract_lets +onlyGivenNames x) | with_reducible apply State.setChan_kept | with_reducible apply State.count_kept | split | simp -zeta only [upd_kept] | with_reducible apply foldl_kept | with_reducible apply foldl2_kept

theorem State.accessIssue_kept {s : State} (c : Nat) (e : DdrEntry) (hk : s.Kept kq kp) :
    (State.accessIssue s c e).Kept kq kp := by
  delta State.accessIssue
  repeat' first | with_reducible assumption | (intro) | (extract_lets +onlyGivenNames x; clear_value (e : x = _); first | (with_reducible refine let_kept kq kp e ?_ fun _ => ?_) <;> clear e | (with_reducible refine let2_kept kq kp e ?_ fun _ => ?_) <;> clear e | clear e) | (extract_lets +onlyGivenNames x) | with_reducible apply State.setChan_kept | with_reducible apply State.ddrApply_kept | with_reducible apply State.activate_kept | with_reducible apply State.panicUpdate_kept | split | with_reducible apply getD_kept | simp -zeta only [upd_kept]

theorem State.slotServe_kept {s : State} (c : Nat) (hk : s.Kept kq kp) :
    (State.slotServe s c).Kept kq kp := by
  delta State.slotServe
  repeat' first | with_reducible assumption | (intro) | (extract_lets +onlyGivenNames x; clear_value (e : x = _); first | (with_reducible refine let_kept kq kp e ?_ fun _ => ?_) <;> clear e | (with_reducible refine let2_kept kq kp e ?_ fun _ => ?_) <;> clear e | clear e) | (extract_lets +onlyGivenNames x) | with_reducible apply State.accessIssue_kept | with_reducible apply State.refreshIssue_kept | with_reducible apply State.mitigate_kept | with_reducible apply State.setChan_kept | split | simp -zeta only [upd_kept]

theorem execDdrCommandSlot_kept (c : Fin 4) {s : State} (hk : s.Kept kq kp) :
    OutKept kq kp (execDdrCommandSlot c s) := by
  delta execDdrCommandSlot
  repeat' first | with_reducible assumption | with_reducible apply next_kept | (extract_lets +onlyGivenNames x; clear_value (e : x = _); first | (with_reducible refine let_kept kq kp e ?_ fun _ => ?_) <;> clear e | (with_reducible refine let2_kept kq kp e ?_ fun _ => ?_) <;> clear e | clear e) | (extract_lets +onlyGivenNames x) | with_reducible apply State.postpone_kept | with_reducible apply State.setChan_kept | with_reducible apply State.refreshIssue_kept | with_reducible apply State.slotServe_kept | split | simp -zeta only [upd_kept]

theorem State.mergeReturn_kept {s : State} (c : Nat) (e : DdrEntry) (q : DdrQuality) (hk : s.Kept kq kp) :
    (State.mergeReturn s c e q).Kept kq kp := by
  delta State.mergeReturn
  repeat' first | with_reducible assumption | (intro) | (extract_lets +onlyGivenNames x; clear_value (e : x = _); first | (with_reducible refine let_kept kq kp e ?_ fun _ => ?_) <;> clear e | (with_reducible refine let2_kept kq kp e ?_ fun _ => ?_) <;> clear e | clear e) | (extract_lets +onlyGivenNames x) | with_reducible apply State.ddrCheck_kept | with_reducible apply State.lineStore_kept | with_reducible apply State.setChan_kept | split | with_reducible apply getD_kept | simp -zeta only [upd_kept]

theorem State.readReturn_kept {s : State} (c : Nat) (e : DdrEntry) (q : DdrQuality) (hk : s.Kept kq kp) :
    (State.readReturn s c e q).Kept kq kp := by
  delta State.readReturn
  repeat' first | with_reducible assumption | (intro) | (extract_lets +onlyGivenNames x; clear_value (e : x = _); first | (with_reducible refine let_kept kq kp e ?_ fun _ => ?_) <;> clear e | (with_reducible refine let2_kept kq kp e ?_ fun _ => ?_) <;> clear e | clear e) | (extract_lets +onlyGivenNames x) | with_reducible apply State.ddrCheck_kept | with_reducible apply State.noteQuality_kept | with_reducible apply State.ddrDeliver_kept | with_reducible apply State.panicUpdate_kept | split | with_reducible apply getD_kept

theorem execDdrReadReturn_kept (c : Fin 4) (q : DdrQuality) {s : State} (hk : s.Kept kq kp) :
    OutKept kq kp (execDdrReadReturn c q s) := by
  delta execDdrReadReturn
  repeat' first | with_reducible assumption | (intro) | with_reducible apply next_kept | (extract_lets +onlyGivenNames x; clear_value (e : x = _); first | (with_reducible refine let_kept kq kp e ?_ fun _ => ?_) <;> clear e | (with_reducible refine let2_kept kq kp e ?_ fun _ => ?_) <;> clear e | clear e) | (extract_lets +onlyGivenNames x) | with_reducible apply State.setChan_kept | with_reducible apply State.mergeReturn_kept | with_reducible apply State.readReturn_kept | split | simp -zeta only [upd_kept]

theorem execRefreshDue_kept (c : Fin 4) (rank : Fin 2) {s : State} (hk : s.Kept kq kp) :
    OutKept kq kp (execRefreshDue c rank s) := by
  delta execRefreshDue
  repeat' first | with_reducible assumption | (intro) | with_reducible apply next_kept | (extract_lets +onlyGivenNames x; clear_value (e : x = _); first | (with_reducible refine let_kept kq kp e ?_ fun _ => ?_) <;> clear e | (with_reducible refine let2_kept kq kp e ?_ fun _ => ?_) <;> clear e | clear e) | (extract_lets +onlyGivenNames x) | with_reducible apply State.when_kept | with_reducible apply State.refreshIssue_kept | with_reducible apply State.setChan_kept | with_reducible apply State.postpone_kept | split | simp -zeta only [upd_kept] | with_reducible apply foldl_kept | with_reducible apply foldl2_kept

theorem execHammerWindow_kept {s : State} (hk : s.Kept kq kp) :
    OutKept kq kp (execHammerWindow s) := by
  delta execHammerWindow
  repeat' first | with_reducible assumption | (intro) | with_reducible apply next_kept | (extract_lets +onlyGivenNames x; clear_value (e : x = _); first | (with_reducible refine let_kept kq kp e ?_ fun _ => ?_) <;> clear e | (with_reducible refine let2_kept kq kp e ?_ fun _ => ?_) <;> clear e | clear e) | (extract_lets +onlyGivenNames x) | with_reducible apply State.when_kept | with_reducible apply State.setChan_kept | simp -zeta only [upd_kept] | with_reducible apply foldl_kept | with_reducible apply foldl2_kept

theorem execRefreshStatusPoll_kept (c : Fin 4) (hot : Bool) {s : State} (hk : s.Kept kq kp) :
    OutKept kq kp (execRefreshStatusPoll c hot s) := by
  delta execRefreshStatusPoll
  repeat' first | with_reducible assumption | (intro) | with_reducible apply next_kept | (extract_lets +onlyGivenNames x; clear_value (e : x = _); first | (with_reducible refine let_kept kq kp e ?_ fun _ => ?_) <;> clear e | (with_reducible refine let2_kept kq kp e ?_ fun _ => ?_) <;> clear e | clear e) | (extract_lets +onlyGivenNames x) | with_reducible apply State.when_kept | with_reducible apply State.setChan_kept | with_reducible apply State.wr_kept | with_reducible apply State.setCause_kept | with_reducible apply State.report_kept | split | simp -zeta only [upd_kept]

theorem execSelfRefreshEntry_kept (c : Fin 4) {s : State} (hk : s.Kept kq kp) :
    OutKept kq kp (execSelfRefreshEntry c s) := by
  delta execSelfRefreshEntry
  repeat' first | with_reducible assumption | with_reducible apply next_kept | with_reducible apply State.wr_kept | with_reducible apply State.count_kept | split

theorem State.lineUndo_kept {s : State} (c : Nat) (e : DdrEntry) (old : List Byte × Bool) (hk : s.Kept kq kp) :
    (State.lineUndo s c e old).Kept kq kp := by
  delta State.lineUndo
  repeat' first | with_reducible assumption | with_reducible apply State.lineStore_kept | split

theorem State.caFails_kept {s : State} (c : Nat) (d : DdrDone) (since : Bool) (hk : s.Kept kq kp) :
    (State.caFails s c d since).Kept kq kp := by
  delta State.caFails
  repeat' first | with_reducible assumption | (intro) | (extract_lets +onlyGivenNames x; clear_value (e : x = _); first | (with_reducible refine let_kept kq kp e ?_ fun _ => ?_) <;> clear e | (with_reducible refine let2_kept kq kp e ?_ fun _ => ?_) <;> clear e | clear e) | (extract_lets +onlyGivenNames x) | with_reducible apply State.count_kept | with_reducible apply State.setChan_kept | with_reducible apply State.report_kept | with_reducible apply State.lineUndo_kept | with_reducible apply State.ddrDeliver_kept | split | simp -zeta only [upd_kept]

theorem execCaParityReport_kept (c : Fin 4) (recurring : List Nat) {s : State} (hk : s.Kept kq kp) :
    OutKept kq kp (execCaParityReport c recurring s) := by
  delta execCaParityReport
  repeat' first | with_reducible assumption | (intro) | with_reducible apply next_kept | (extract_lets +onlyGivenNames x; clear_value (e : x = _); first | (with_reducible refine let_kept kq kp e ?_ fun _ => ?_) <;> clear e | (with_reducible refine let2_kept kq kp e ?_ fun _ => ?_) <;> clear e | clear e) | (extract_lets +onlyGivenNames x) | with_reducible apply State.when_kept | with_reducible apply State.count_kept | with_reducible apply State.setCause_kept | with_reducible apply State.caFails_kept | with_reducible apply foldl_kept | with_reducible apply foldl2_kept

theorem execDqsOscRead_kept (c : Fin 4) (drifts : List (Nat × Int)) {s : State} (hk : s.Kept kq kp) :
    OutKept kq kp (execDqsOscRead c drifts s) := by
  delta execDqsOscRead
  repeat' first | with_reducible assumption | (intro) | with_reducible apply next_kept | (extract_lets +onlyGivenNames x; clear_value (e : x = _); first | (with_reducible refine let_kept kq kp e ?_ fun _ => ?_) <;> clear e | (with_reducible refine let2_kept kq kp e ?_ fun _ => ?_) <;> clear e | clear e) | (extract_lets +onlyGivenNames x) | with_reducible apply State.when_kept | with_reducible apply State.setCause_kept | with_reducible apply State.report_kept | with_reducible apply State.setChan_kept | split | with_reducible apply getD_kept | simp -zeta only [upd_kept]

theorem State.mapFree_kept {s : State} (hk : s.Kept kq kp) :
    (State.mapFree s).Kept kq kp := by
  delta State.mapFree
  repeat' first | with_reducible assumption | (extract_lets +onlyGivenNames x; clear_value (e : x = _); first | (with_reducible refine let_kept kq kp e ?_ fun _ => ?_) <;> clear e | (with_reducible refine let2_kept kq kp e ?_ fun _ => ?_) <;> clear e | clear e) | (extract_lets +onlyGivenNames x) | with_reducible apply State.dsmFreeRegion_kept | split | simp -zeta only [upd_kept]

theorem State.mapPlace_kept {s : State} (bytes : Nat) (hk : s.Kept kq kp) :
    (State.mapPlace s bytes).Kept kq kp := by
  unfold State.mapPlace
  generalize mapUnits bytes = n
  split
  · rename_i r e
    exact of_opt2 kq kp e (State.dsmNewRegion_kept _ _ _ _ _ hk) fun h => upd_kept.2 h
  · exact hk

theorem State.initStart_kept {s : State} (hk : s.Kept kq kp) :
    (State.initStart s).Kept kq kp := by
  delta State.initStart
  repeat' first | with_reducible assumption | (extract_lets +onlyGivenNames x; clear_value (e : x = _); first | (with_reducible refine let_kept kq kp e ?_ fun _ => ?_) <;> clear e | (with_reducible refine let2_kept kq kp e ?_ fun _ => ?_) <;> clear e | clear e) | (extract_lets +onlyGivenNames x) | with_reducible apply State.wr_kept | with_reducible apply State.mapFree_kept | with_reducible apply State.mapPlace_kept | split | simp -zeta only [upd_kept]

theorem execFillGranule_kept {s : State} (hk : s.Kept kq kp) :
    OutKept kq kp (execFillGranule s) := by
  delta execFillGranule
  repeat' first | with_reducible assumption | with_reducible apply next_kept | (extract_lets +onlyGivenNames x; clear_value (e : x = _); first | (with_reducible refine let_kept kq kp e ?_ fun _ => ?_) <;> clear e | (with_reducible refine let2_kept kq kp e ?_ fun _ => ?_) <;> clear e | clear e) | (extract_lets +onlyGivenNames x) | with_reducible apply State.poisonGranule_kept | with_reducible apply State.zeroGranule_kept | with_reducible apply State.wr_kept | with_reducible apply State.mapFree_kept | split | simp -zeta only [upd_kept]

theorem State.slotPower_kept {s : State} (c : Nat) (on : Bool) (hk : s.Kept kq kp) :
    (State.slotPower s c on).Kept kq kp := by
  delta State.slotPower
  repeat' first | with_reducible assumption | (intro) | (extract_lets +onlyGivenNames x; clear_value (e : x = _); first | (with_reducible refine let_kept kq kp e ?_ fun _ => ?_) <;> clear e | (with_reducible refine let2_kept kq kp e ?_ fun _ => ?_) <;> clear e | clear e) | (extract_lets +onlyGivenNames x) | with_reducible apply State.wr_kept | with_reducible apply State.emit_kept | with_reducible apply State.setChan_kept | split | simp -zeta only [upd_kept]

theorem State.trainWrite_kept {s : State} (c : Nat) (hk : s.Kept kq kp) :
    (State.trainWrite s c).Kept kq kp := by
  delta State.trainWrite
  repeat' first | with_reducible assumption | (extract_lets +onlyGivenNames x; clear_value (e : x = _); first | (with_reducible refine let_kept kq kp e ?_ fun _ => ?_) <;> clear e | (with_reducible refine let2_kept kq kp e ?_ fun _ => ?_) <;> clear e | clear e) | (extract_lets +onlyGivenNames x) | with_reducible apply State.ddrFlush_kept | with_reducible apply State.lineStore_kept | split | simp -zeta only [upd_kept]

theorem State.trainGo_kept {s : State} (c : Nat) (hk : s.Kept kq kp) :
    (State.trainGo s c).Kept kq kp := by
  delta State.trainGo
  repeat' first | with_reducible assumption | with_reducible apply State.trainWrite_kept | with_reducible apply State.wr_kept | split

theorem State.resilverStart_kept {s : State} (c : Nat) (hk : s.Kept kq kp) :
    (State.resilverStart s c).Kept kq kp := by
  delta State.resilverStart
  repeat' first | with_reducible assumption | (intro) | (extract_lets +onlyGivenNames x; clear_value (e : x = _); first | (with_reducible refine let_kept kq kp e ?_ fun _ => ?_) <;> clear e | (with_reducible refine let2_kept kq kp e ?_ fun _ => ?_) <;> clear e | clear e) | (extract_lets +onlyGivenNames x) | with_reducible apply State.wr_kept | with_reducible apply State.setChan_kept | split | simp -zeta only [upd_kept]

theorem State.applySpd_kept {s : State} (c : Nat) (d : Spd) (hk : s.Kept kq kp) :
    (State.applySpd s c d).Kept kq kp := by
  delta State.applySpd
  repeat' first | with_reducible assumption | (intro) | (extract_lets +onlyGivenNames x; clear_value (e : x = _); first | (with_reducible refine let_kept kq kp e ?_ fun _ => ?_) <;> clear e | (with_reducible refine let2_kept kq kp e ?_ fun _ => ?_) <;> clear e | clear e) | (extract_lets +onlyGivenNames x) | with_reducible apply State.setChan_kept | with_reducible apply State.wrOwn_kept | split | simp -zeta only [upd_kept]

end Sys2Proof.Machine
end

