-- ==== Sys2Proof/Laws/KeptMemory.lean ====
section
/-! SUPPORT. The operations of Machine/Memory.lean keep the queue, the part and the canonical form of the sparse stores. -/

namespace Sys2Proof.Machine

set_option linter.unusedTactic false
set_option linter.unreachableTactic false
set_option linter.tactic.unusedName false

variable {kq : List Instr} {kp : Part}

theorem State.lineReadAs_kept {s : State} (who : DdrWho) (req : Nat) (la : Nat) (hk : s.Kept kq kp) :
    (State.lineReadAs s who req la).2.Kept kq kp := by
  delta State.lineReadAs
  repeat' first | with_reducible assumption | (extract_lets +onlyGivenNames x; clear_value (e : x = _); first | (with_reducible refine let_kept kq kp e ?_ fun _ => ?_) <;> clear e | (with_reducible refine let2_kept kq kp e ?_ fun _ => ?_) <;> clear e | clear e) | (extract_lets +onlyGivenNames x) | with_reducible apply State.dsmReadLine_kept | with_reducible apply State.ddrReadLine_kept | split | dsimp -zeta only

theorem State.lineRead_kept {s : State} (req : Nat) (la : Nat) (hk : s.Kept kq kp) :
    (State.lineRead s req la).2.Kept kq kp := by
  delta State.lineRead
  repeat' first | with_reducible assumption | with_reducible apply State.lineReadAs_kept | dsimp -zeta only

theorem State.lineWriteAs_kept {s : State} (who : DdrWho) (req : Nat) (addr : Nat) (data : List (Option Byte)) (poison : Bool) (hk : s.Kept kq kp) :
    (State.lineWriteAs s who req addr data poison).2.Kept kq kp := by
  delta State.lineWriteAs
  repeat' first | with_reducible assumption | (intro) | (extract_lets +onlyGivenNames x; clear_value (e : x = _); first | (with_reducible refine let_kept kq kp e ?_ fun _ => ?_) <;> clear e | (with_reducible refine let2_kept kq kp e ?_ fun _ => ?_) <;> clear e | clear e) | (extract_lets +onlyGivenNames x) | with_reducible apply State.dsmWriteLine_kept | with_reducible apply State.setBytes_kept | with_reducible apply State.setLinePoison_kept | with_reducible apply State.ddrWriteLine_kept | split | with_reducible apply getD_kept | dsimp -zeta only

theorem State.lineWrite_kept {s : State} (req : Nat) (addr : Nat) (data : List (Option Byte)) (poison : Bool) (hk : s.Kept kq kp) :
    (State.lineWrite s req addr data poison).2.Kept kq kp := by
  delta State.lineWrite
  repeat' first | with_reducible assumption | with_reducible apply State.lineWriteAs_kept | dsimp -zeta only

theorem State.memRead_kept {s : State} (req : Nat) (addr : Nat) (len : Nat) (hk : s.Kept kq kp) :
    (State.memRead s req addr len).2.Kept kq kp := by
  delta State.memRead
  repeat' first | with_reducible assumption | (intro) | (extract_lets +onlyGivenNames x; clear_value (e : x = _); first | (with_reducible refine let_kept kq kp e ?_ fun _ => ?_) <;> clear e | (with_reducible refine let2_kept kq kp e ?_ fun _ => ?_) <;> clear e | clear e) | (extract_lets +onlyGivenNames x) | with_reducible apply State.lineRead_kept | split | dsimp -zeta only | with_reducible apply foldl_kept | with_reducible apply foldl2_kept

theorem State.memWriteAs_kept {s : State} (who : DdrWho) (req : Nat) (addr : Nat) (data : List Byte) (poison : Bool) (hk : s.Kept kq kp) :
    (State.memWriteAs s who req addr data poison).2.Kept kq kp := by
  delta State.memWriteAs
  repeat' first | with_reducible assumption | (intro) | (extract_lets +onlyGivenNames x; clear_value (e : x = _); first | (with_reducible refine let_kept kq kp e ?_ fun _ => ?_) <;> clear e | (with_reducible refine let2_kept kq kp e ?_ fun _ => ?_) <;> clear e | clear e) | (extract_lets +onlyGivenNames x) | with_reducible apply State.lineWriteAs_kept | dsimp -zeta only | with_reducible apply foldl_kept | with_reducible apply foldl2_kept

theorem State.memWrite_kept {s : State} (req : Nat) (addr : Nat) (data : List Byte) (poison : Bool) (hk : s.Kept kq kp) :
    (State.memWrite s req addr data poison).2.Kept kq kp := by
  delta State.memWrite
  repeat' first | with_reducible assumption | with_reducible apply State.memWriteAs_kept | dsimp -zeta only

end Sys2Proof.Machine
end

