-- ==== Sys2Proof/Laws/KeptHalyard.lean ====
section
/-! SUPPORT. The operations of Machine/Halyard.lean keep the queue, the part and the canonical form of the sparse stores. -/

namespace Sys2Proof.Machine

set_option linter.unusedTactic false
set_option linter.unreachableTactic false
set_option linter.tactic.unusedName false

variable {kq : List Instr} {kp : Part}

theorem State.setRport_kept {s : State} (p : Nat) (f : RingPort → RingPort) (hk : s.Kept kq kp) :
    (State.setRport s p f).Kept kq kp := by
  delta State.setRport
  repeat' first | with_reducible assumption | (extract_lets +onlyGivenNames x; clear_value (e : x = _); first | (with_reducible refine let_kept kq kp e ?_ fun _ => ?_) <;> clear e | (with_reducible refine let2_kept kq kp e ?_ fun _ => ?_) <;> clear e | clear e) | (extract_lets +onlyGivenNames x) | simp -zeta only [upd_kept]

theorem State.setRing_kept {s : State} (f : Ring → Ring) (hk : s.Kept kq kp) :
    (State.setRing s f).Kept kq kp := by
  delta State.setRing
  repeat' first | with_reducible assumption | (extract_lets +onlyGivenNames x; clear_value (e : x = _); first | (with_reducible refine let_kept kq kp e ?_ fun _ => ?_) <;> clear e | (with_reducible refine let2_kept kq kp e ?_ fun _ => ?_) <;> clear e | clear e) | (extract_lets +onlyGivenNames x) | simp -zeta only [upd_kept]

theorem State.count64_kept {s : State} (lo : Fld) (hi : Fld) (n : Nat) (hk : s.Kept kq kp) :
    (State.count64 s lo hi n).Kept kq kp := by
  delta State.count64
  repeat' first | with_reducible assumption | (extract_lets +onlyGivenNames x; clear_value (e : x = _); first | (with_reducible refine let_kept kq kp e ?_ fun _ => ?_) <;> clear e | (with_reducible refine let2_kept kq kp e ?_ fun _ => ?_) <;> clear e | clear e) | (extract_lets +onlyGivenNames x) | with_reducible apply State.wr_kept

theorem State.shaperTake_kept {s : State} (p : Nat) (q : Nat) (f : HFrame) (hk : s.Kept kq kp) :
    (State.shaperTake s p q f).Kept kq kp := by
  delta State.shaperTake
  repeat' first | with_reducible assumption | (intro) | (extract_lets +onlyGivenNames x; clear_value (e : x = _); first | (with_reducible refine let_kept kq kp e ?_ fun _ => ?_) <;> clear e | (with_reducible refine let2_kept kq kp e ?_ fun _ => ?_) <;> clear e | clear e) | (extract_lets +onlyGivenNames x) | with_reducible apply State.setRport_kept | split | simp -zeta only [upd_kept]

theorem State.setRqueue_kept {s : State} (p : Nat) (q : Nat) (l : List TxItem) (hk : s.Kept kq kp) :
    (State.setRqueue s p q l).Kept kq kp := by
  delta State.setRqueue
  repeat' first | with_reducible assumption | (intro) | (extract_lets +onlyGivenNames x; clear_value (e : x = _); first | (with_reducible refine let_kept kq kp e ?_ fun _ => ?_) <;> clear e | (with_reducible refine let2_kept kq kp e ?_ fun _ => ?_) <;> clear e | clear e) | (extract_lets +onlyGivenNames x) | with_reducible apply State.setRport_kept | with_reducible apply State.wr_kept | split | simp -zeta only [upd_kept]

theorem State.dropQ_kept {s : State} (p : Nat) (q : Nat) (f : HFrame) (hk : s.Kept kq kp) :
    (State.dropQ s p q f).Kept kq kp := by
  delta State.dropQ
  repeat' first | with_reducible assumption | with_reducible apply State.count_kept | with_reducible apply State.count64_kept

theorem State.queueStore_kept {s : State} (p : Nat) (q : Nat) (x : TxItem) (hk : s.Kept kq kp) :
    (State.queueStore s p q x).2.Kept kq kp := by
  delta State.queueStore
  repeat' first | with_reducible assumption | (extract_lets +onlyGivenNames x; clear_value (e : x = _); first | (with_reducible refine let_kept kq kp e ?_ fun _ => ?_) <;> clear e | (with_reducible refine let2_kept kq kp e ?_ fun _ => ?_) <;> clear e | clear e) | (extract_lets +onlyGivenNames x) | with_reducible apply State.memWrite_kept | split | dsimp -zeta only | simp -zeta only [upd_kept]

theorem State.queueLoad_kept {s : State} (x : TxItem) (hk : s.Kept kq kp) :
    (State.queueLoad s x).2.Kept kq kp := by
  delta State.queueLoad
  repeat' first | with_reducible assumption | (extract_lets +onlyGivenNames x; clear_value (e : x = _); first | (with_reducible refine let_kept kq kp e ?_ fun _ => ?_) <;> clear e | (with_reducible refine let2_kept kq kp e ?_ fun _ => ?_) <;> clear e | clear e) | (extract_lets +onlyGivenNames x) | with_reducible apply State.memRead_kept | split | dsimp -zeta only | simp -zeta only [upd_kept]

theorem State.offerQ_kept {s : State} (p : Nat) (q : Nat) (x : TxItem) (hk : s.Kept kq kp) :
    (State.offerQ s p q x).Kept kq kp := by
  delta State.offerQ
  repeat' first | with_reducible assumption | (intro) | (extract_lets +onlyGivenNames x; clear_value (e : x = _); first | (with_reducible refine let_kept kq kp e ?_ fun _ => ?_) <;> clear e | (with_reducible refine let2_kept kq kp e ?_ fun _ => ?_) <;> clear e | clear e) | (extract_lets +onlyGivenNames x) | with_reducible apply State.dropQ_kept | with_reducible apply State.setRqueue_kept | with_reducible apply State.queueStore_kept | split | simp -zeta only [upd_kept]

theorem State.police_kept {s : State} (port : Nat) (point : Nat) (f : HFrame) (hk : s.Kept kq kp) :
    (State.police s port point f).2.Kept kq kp := by
  delta State.police
  repeat' first | with_reducible assumption | (intro) | (extract_lets +onlyGivenNames x; clear_value (e : x = _); first | (with_reducible refine let_kept kq kp e ?_ fun _ => ?_) <;> clear e | (with_reducible refine let2_kept kq kp e ?_ fun _ => ?_) <;> clear e | have _f : State → _ := x | clear e) | (extract_lets +onlyGivenNames x) | with_reducible apply State.setRing_kept | with_reducible apply State.count_kept | with_reducible apply State.count64_kept | with_reducible apply State.report_kept | split | dsimp -zeta only | simp -zeta only [upd_kept] | (subst_vars; beta_reduce)

theorem State.takeSeq_kept {s : State} (dst : Nat) (cls : Nat) (stream : Nat) (hk : s.Kept kq kp) :
    (State.takeSeq s dst cls stream).2.Kept kq kp := by
  delta State.takeSeq
  repeat' first | with_reducible assumption | (intro) | (extract_lets +onlyGivenNames x; clear_value (e : x = _); first | (with_reducible refine let_kept kq kp e ?_ fun _ => ?_) <;> clear e | (with_reducible refine let2_kept kq kp e ?_ fun _ => ?_) <;> clear e | clear e) | (extract_lets +onlyGivenNames x) | with_reducible apply State.setRing_kept | with_reducible apply getD_kept | dsimp -zeta only | simp -zeta only [upd_kept]

theorem State.syncSeq_kept {s : State} (hk : s.Kept kq kp) :
    (State.syncSeq s).2.Kept kq kp := by
  delta State.syncSeq
  repeat' first | with_reducible assumption | (intro) | (extract_lets +onlyGivenNames x; clear_value (e : x = _); first | (with_reducible refine let_kept kq kp e ?_ fun _ => ?_) <;> clear e | (with_reducible refine let2_kept kq kp e ?_ fun _ => ?_) <;> clear e | clear e) | (extract_lets +onlyGivenNames x) | with_reducible apply State.takeSeq_kept | split | dsimp -zeta only | simp -zeta only [upd_kept]

theorem State.ringInsert_kept {s : State} (p : Nat) (q : Nat) (cls : Nat) (dst : Nat) (stream : Nat) (payload : List Byte) (stomp : Bool) (hk : s.Kept kq kp) :
    (State.ringInsert s p q cls dst stream payload stomp).Kept kq kp := by
  delta State.ringInsert
  repeat' first | with_reducible assumption | (rename_i e; (with_reducible refine of_pair kq kp e ?_ fun _ => ?_) <;> clear e) | (extract_lets +onlyGivenNames x; clear_value (e : x = _); first | (with_reducible refine let_kept kq kp e ?_ fun _ => ?_) <;> clear e | (with_reducible refine let2_kept kq kp e ?_ fun _ => ?_) <;> clear e | clear e) | (extract_lets +onlyGivenNames x) | with_reducible apply State.police_kept | with_reducible apply State.offerQ_kept | split | simp -zeta only [upd_kept]

theorem State.ringControl_kept {s : State} (dst : Nat) (type : Nat) (payload : List Byte) (hk : s.Kept kq kp) :
    (State.ringControl s dst type payload).Kept kq kp := by
  delta State.ringControl
  repeat' first | with_reducible assumption | with_reducible apply State.ringInsert_kept

theorem State.ringControlFrom_kept {s : State} (dst : Nat) (type : Nat) (payload : List Byte) (poison : Bool) (hk : s.Kept kq kp) :
    (State.ringControlFrom s dst type payload poison).Kept kq kp := by
  delta State.ringControlFrom
  repeat' first | with_reducible assumption | with_reducible apply State.ringInsert_kept

theorem State.sendBeacon_kept {s : State} (state : Nat) (hk : s.Kept kq kp) :
    (State.sendBeacon s state).Kept kq kp := by
  delta State.sendBeacon
  repeat' first | with_reducible assumption | with_reducible apply State.ringControl_kept

theorem State.horizonFlag_kept {s : State} (f : Fld) (v : Bool) (hk : s.Kept kq kp) :
    (State.horizonFlag s f v).Kept kq kp := by
  delta State.horizonFlag
  repeat' first | with_reducible assumption | (extract_lets +onlyGivenNames x; clear_value (e : x = _); first | (with_reducible refine let_kept kq kp e ?_ fun _ => ?_) <;> clear e | (with_reducible refine let2_kept kq kp e ?_ fun _ => ?_) <;> clear e | clear e) | (extract_lets +onlyGivenNames x) | with_reducible apply State.wr_kept | with_reducible apply State.setCause_kept | with_reducible apply State.report_kept | split

theorem State.horizonFlags_kept {s : State} (hk : s.Kept kq kp) :
    (State.horizonFlags s).Kept kq kp := by
  delta State.horizonFlags
  repeat' first | with_reducible assumption | (extract_lets +onlyGivenNames x; clear_value (e : x = _); first | (with_reducible refine let_kept kq kp e ?_ fun _ => ?_) <;> clear e | (with_reducible refine let2_kept kq kp e ?_ fun _ => ?_) <;> clear e | clear e) | (extract_lets +onlyGivenNames x) | with_reducible apply State.horizonFlag_kept

theorem State.recomputeHorizon_kept {s : State} (hk : s.Kept kq kp) :
    (State.recomputeHorizon s).Kept kq kp := by
  delta State.recomputeHorizon
  repeat' first | with_reducible assumption | (intro) | (extract_lets +onlyGivenNames x; clear_value (e : x = _); first | (with_reducible refine let_kept kq kp e ?_ fun _ => ?_) <;> clear e | (with_reducible refine let2_kept kq kp e ?_ fun _ => ?_) <;> clear e | clear e) | (extract_lets +onlyGivenNames x) | with_reducible apply State.setRing_kept | with_reducible apply State.wr_kept | with_reducible apply State.horizonFlags_kept | simp -zeta only [upd_kept]

theorem State.bulkDoneGone_kept {s : State} (f : HFrame) (hk : s.Kept kq kp) :
    (State.bulkDoneGone s f).Kept kq kp := by
  delta State.bulkDoneGone
  repeat' first | with_reducible assumption | (intro) | (extract_lets +onlyGivenNames x; clear_value (e : x = _); first | (with_reducible refine let_kept kq kp e ?_ fun _ => ?_) <;> clear e | (with_reducible refine let2_kept kq kp e ?_ fun _ => ?_) <;> clear e | clear e) | (extract_lets +onlyGivenNames x) | with_reducible apply State.setRing_kept | split | simp -zeta only [upd_kept]

theorem State.dropLong_kept {s : State} (p : Nat) (hk : s.Kept kq kp) :
    (State.dropLong s p).Kept kq kp := by
  delta State.dropLong
  repeat' first | with_reducible assumption | (intro) | (extract_lets +onlyGivenNames x; clear_value (e : x = _); first | (with_reducible refine let_kept kq kp e ?_ fun _ => ?_) <;> clear e | (with_reducible refine let2_kept kq kp e ?_ fun _ => ?_) <;> clear e | clear e) | (extract_lets +onlyGivenNames x) | with_reducible apply State.dropQ_kept | with_reducible apply State.bulkDoneGone_kept | with_reducible apply State.setRqueue_kept | split | simp -zeta only [upd_kept] | with_reducible apply foldl_kept | with_reducible apply foldl2_kept

theorem State.gateStart_kept {s : State} (p : Nat) (t : Nat) (hk : s.Kept kq kp) :
    (State.gateStart s p t).Kept kq kp := by
  delta State.gateStart
  repeat' first | with_reducible assumption | (extract_lets +onlyGivenNames x; clear_value (e : x = _); first | (with_reducible refine let_kept kq kp e ?_ fun _ => ?_) <;> clear e | (with_reducible refine let2_kept kq kp e ?_ fun _ => ?_) <;> clear e | clear e) | (extract_lets +onlyGivenNames x) | with_reducible apply State.wr_kept

theorem State.gateOperate_kept {s : State} (p : Nat) (hk : s.Kept kq kp) :
    (State.gateOperate s p).Kept kq kp := by
  delta State.gateOperate
  repeat' first | with_reducible assumption | (intro) | (extract_lets +onlyGivenNames x; clear_value (e : x = _); first | (with_reducible refine let_kept kq kp e ?_ fun _ => ?_) <;> clear e | (with_reducible refine let2_kept kq kp e ?_ fun _ => ?_) <;> clear e | clear e) | (extract_lets +onlyGivenNames x) | with_reducible apply State.setRport_kept | with_reducible apply State.wr_kept | with_reducible apply State.gateStart_kept | with_reducible apply State.dropLong_kept | with_reducible apply State.recomputeHorizon_kept | split | with_reducible apply getD_kept | simp -zeta only [upd_kept] | with_reducible apply foldl_kept | with_reducible apply foldl2_kept

theorem State.gateInstall_kept {s : State} (p : Nat) (hk : s.Kept kq kp) :
    (State.gateInstall s p).Kept kq kp := by
  delta State.gateInstall
  repeat' first | with_reducible assumption | (intro) | (extract_lets +onlyGivenNames x; clear_value (e : x = _); first | (with_reducible refine let_kept kq kp e ?_ fun _ => ?_) <;> clear e | (with_reducible refine let2_kept kq kp e ?_ fun _ => ?_) <;> clear e | clear e) | (extract_lets +onlyGivenNames x) | with_reducible apply State.gateOperate_kept | with_reducible apply State.setRport_kept | with_reducible apply State.wr_kept | with_reducible apply State.gateStart_kept | with_reducible apply State.report_kept | split | simp -zeta only [upd_kept]

theorem State.numbered_kept {s : State} (x : TxItem) (hk : s.Kept kq kp) :
    (State.numbered s x).2.Kept kq kp := by
  delta State.numbered
  repeat' first | with_reducible assumption | (extract_lets +onlyGivenNames x; clear_value (e : x = _); first | (with_reducible refine let_kept kq kp e ?_ fun _ => ?_) <;> clear e | (with_reducible refine let2_kept kq kp e ?_ fun _ => ?_) <;> clear e | clear e) | (extract_lets +onlyGivenNames x) | with_reducible apply State.takeSeq_kept | split | dsimp -zeta only | simp -zeta only [upd_kept]

theorem State.transmit_kept {s : State} (p : Nat) (x : TxItem) (hk : s.Kept kq kp) :
    (State.transmit s p x).Kept kq kp := by
  delta State.transmit
  repeat' first | with_reducible assumption | (intro) | (extract_lets +onlyGivenNames x; clear_value (e : x = _); first | (with_reducible refine let_kept kq kp e ?_ fun _ => ?_) <;> clear e | (with_reducible refine let2_kept kq kp e ?_ fun _ => ?_) <;> clear e | clear e) | (extract_lets +onlyGivenNames x) | with_reducible apply State.queueLoad_kept | with_reducible apply State.numbered_kept | with_reducible apply State.emit_kept | with_reducible apply State.count_kept | with_reducible apply State.setRing_kept | with_reducible apply State.setRport_kept | with_reducible apply State.bulkDoneGone_kept | split | simp -zeta only [upd_kept]

theorem State.pickQueue_kept {s : State} (p : Nat) (hk : s.Kept kq kp) :
    (State.pickQueue s p).2.Kept kq kp := by
  delta State.pickQueue
  repeat' first | with_reducible assumption | (intro) | (extract_lets +onlyGivenNames x; clear_value (e : x = _); first | (with_reducible refine let_kept kq kp e ?_ fun _ => ?_) <;> clear e | (with_reducible refine let2_kept kq kp e ?_ fun _ => ?_) <;> clear e | clear e) | (extract_lets +onlyGivenNames x) | with_reducible apply State.setRport_kept | split | dsimp -zeta only

theorem State.egress_kept {s : State} (p : Nat) (hk : s.Kept kq kp) :
    (State.egress s p).Kept kq kp := by
  delta State.egress
  repeat' first | with_reducible assumption | (intro) | (extract_lets +onlyGivenNames x; clear_value (e : x = _); first | (with_reducible refine let_kept kq kp e ?_ fun _ => ?_) <;> clear e | (with_reducible refine let2_kept kq kp e ?_ fun _ => ?_) <;> clear e | clear e) | (extract_lets +onlyGivenNames x) | with_reducible apply State.setRport_kept | with_reducible apply State.transmit_kept | with_reducible apply State.gateOperate_kept | with_reducible apply State.dropLong_kept | with_reducible apply State.pickQueue_kept | with_reducible apply State.shaperTake_kept | with_reducible apply State.setRqueue_kept | with_reducible apply State.count_kept | with_reducible apply State.count64_kept | split | simp -zeta only [upd_kept]

theorem execGateEntryAdvance_kept (p : Fin 2) {s : State} (hk : s.Kept kq kp) :
    OutKept kq kp (execGateEntryAdvance p s) := by
  delta execGateEntryAdvance
  repeat' first | with_reducible assumption | with_reducible apply next_kept | (extract_lets +onlyGivenNames x; clear_value (e : x = _); first | (with_reducible refine let_kept kq kp e ?_ fun _ => ?_) <;> clear e | (with_reducible refine let2_kept kq kp e ?_ fun _ => ?_) <;> clear e | clear e) | (extract_lets +onlyGivenNames x) | with_reducible apply State.wr_kept | split | simp -zeta only [upd_kept]

theorem State.setAdj_kept {s : State} (v : Nat) (hk : s.Kept kq kp) :
    (State.setAdj s v).Kept kq kp := by
  delta State.setAdj
  repeat' first | with_reducible assumption | with_reducible apply State.wr_kept | split

theorem State.setLastOffset_kept {s : State} (off : Int) (hk : s.Kept kq kp) :
    (State.setLastOffset s off).Kept kq kp := by
  delta State.setLastOffset
  repeat' first | with_reducible assumption | (extract_lets +onlyGivenNames x; clear_value (e : x = _); first | (with_reducible refine let_kept kq kp e ?_ fun _ => ?_) <;> clear e | (with_reducible refine let2_kept kq kp e ?_ fun _ => ?_) <;> clear e | clear e) | (extract_lets +onlyGivenNames x) | simp -zeta only [upd_kept]

theorem State.retime_kept {s : State} (hk : s.Kept kq kp) :
    (State.retime s).Kept kq kp := by
  delta State.retime
  repeat' first | with_reducible assumption | (extract_lets +onlyGivenNames x; clear_value (e : x = _); first | (with_reducible refine let_kept kq kp e ?_ fun _ => ?_) <;> clear e | (with_reducible refine let2_kept kq kp e ?_ fun _ => ?_) <;> clear e | clear e) | (extract_lets +onlyGivenNames x) | with_reducible apply State.setAdj_kept | with_reducible apply State.setLastOffset_kept | with_reducible apply State.wr_kept | with_reducible apply State.setCause_kept | with_reducible apply State.report_kept | split | simp -zeta only [upd_kept]

theorem State.offerOffset_kept {s : State} (source : Nat) (off : Int) (hk : s.Kept kq kp) :
    (State.offerOffset s source off).Kept kq kp := by
  delta State.offerOffset
  repeat' first | with_reducible assumption | (extract_lets +onlyGivenNames x; clear_value (e : x = _); first | (with_reducible refine let_kept kq kp e ?_ fun _ => ?_) <;> clear e | (with_reducible refine let2_kept kq kp e ?_ fun _ => ?_) <;> clear e | clear e) | (extract_lets +onlyGivenNames x) | split | simp -zeta only [upd_kept]

end Sys2Proof.Machine
end

