-- ==== Sys2Proof/Laws/KeptMailbox.lean ====
section
/-! SUPPORT. The operations of Machine/Mailbox.lean keep the queue, the part and the canonical form of the sparse stores. -/

namespace Sys2Proof.Machine

set_option linter.unusedTactic false
set_option linter.unreachableTactic false
set_option linter.tactic.unusedName false

variable {kq : List Instr} {kp : Part}

theorem State.fwLine_kept {s : State} (la : Nat) (hk : s.Kept kq kp) :
    (State.fwLine s la).2.Kept kq kp := by
  delta State.fwLine
  repeat' first | with_reducible assumption | (extract_lets +onlyGivenNames x; clear_value (e : x = _); first | (with_reducible refine let_kept kq kp e ?_ fun _ => ?_) <;> clear e | (with_reducible refine let2_kept kq kp e ?_ fun _ => ?_) <;> clear e | clear e) | (extract_lets +onlyGivenNames x) | with_reducible apply State.lineRead_kept | with_reducible apply State.freeLine_kept | with_reducible apply State.freeNat_kept | with_reducible apply State.report_kept | split | dsimp -zeta only

theorem State.fwRead_kept {s : State} (a : Nat) (len : Nat) (hk : s.Kept kq kp) :
    (State.fwRead s a len).2.Kept kq kp := by
  delta State.fwRead
  repeat' first | with_reducible assumption | (intro) | (extract_lets +onlyGivenNames x; clear_value (e : x = _); first | (with_reducible refine let_kept kq kp e ?_ fun _ => ?_) <;> clear e | (with_reducible refine let2_kept kq kp e ?_ fun _ => ?_) <;> clear e | clear e) | (extract_lets +onlyGivenNames x) | with_reducible apply State.fwLine_kept | split | dsimp -zeta only | with_reducible apply foldl_kept | with_reducible apply foldl2_kept

theorem State.fwWrite_kept {s : State} (a : Nat) (d : List Byte) (hk : s.Kept kq kp) :
    (State.fwWrite s a d).Kept kq kp := by
  delta State.fwWrite
  repeat' first | with_reducible assumption | with_reducible apply State.memWrite_kept

theorem State.copyMbx_kept {s : State} (a : Nat) (slot : Nat) (hk : s.Kept kq kp) :
    (State.copyMbx s a slot).Kept kq kp := by
  delta State.copyMbx
  repeat' first | with_reducible assumption | (intro) | (extract_lets +onlyGivenNames x; clear_value (e : x = _); first | (with_reducible refine let_kept kq kp e ?_ fun _ => ?_) <;> clear e | (with_reducible refine let2_kept kq kp e ?_ fun _ => ?_) <;> clear e | clear e) | (extract_lets +onlyGivenNames x) | with_reducible apply State.memRead_kept | with_reducible apply State.memWrite_kept | with_reducible apply foldl_kept | with_reducible apply foldl2_kept

theorem State.pushCmd_kept {s : State} (c : FwCmd) (hk : s.Kept kq kp) :
    (State.pushCmd s c).Kept kq kp := by
  delta State.pushCmd
  repeat' first | with_reducible assumption | (extract_lets +onlyGivenNames x; clear_value (e : x = _); first | (with_reducible refine let_kept kq kp e ?_ fun _ => ?_) <;> clear e | (with_reducible refine let2_kept kq kp e ?_ fun _ => ?_) <;> clear e | clear e) | (extract_lets +onlyGivenNames x) | simp -zeta only [upd_kept]

theorem State.ringHostMbx_kept {s : State} (n : Fin 16) (hk : s.Kept kq kp) :
    (State.ringHostMbx s n).Kept kq kp := by
  delta State.ringHostMbx
  repeat' first | with_reducible assumption | (extract_lets +onlyGivenNames x; clear_value (e : x = _); first | (with_reducible refine let_kept kq kp e ?_ fun _ => ?_) <;> clear e | (with_reducible refine let2_kept kq kp e ?_ fun _ => ?_) <;> clear e | clear e) | (extract_lets +onlyGivenNames x) | with_reducible apply State.count_kept | with_reducible apply State.copyMbx_kept | with_reducible apply State.fwRead_kept | with_reducible apply State.wr_kept | with_reducible apply State.pushCmd_kept | split

theorem State.ringRingMbx_kept {s : State} (n : Fin 4) (hk : s.Kept kq kp) :
    (State.ringRingMbx s n).Kept kq kp := by
  delta State.ringRingMbx
  repeat' first | with_reducible assumption | (extract_lets +onlyGivenNames x; clear_value (e : x = _); first | (with_reducible refine let_kept kq kp e ?_ fun _ => ?_) <;> clear e | (with_reducible refine let2_kept kq kp e ?_ fun _ => ?_) <;> clear e | clear e) | (extract_lets +onlyGivenNames x) | with_reducible apply State.count_kept | with_reducible apply State.copyMbx_kept | with_reducible apply State.fwRead_kept | with_reducible apply State.wr_kept | with_reducible apply State.memRead_kept | with_reducible apply State.pushCmd_kept | split

theorem State.mbxDoorbell_kept {s : State} (bits : BitVec 16) (hk : s.Kept kq kp) :
    (State.mbxDoorbell s bits).Kept kq kp := by
  delta State.mbxDoorbell
  repeat' first | with_reducible assumption | (intro) | with_reducible apply State.ringHostMbx_kept | split | with_reducible apply foldl_kept | with_reducible apply foldl2_kept

theorem State.ringDoorbell_kept {s : State} (bits : BitVec 4) (hk : s.Kept kq kp) :
    (State.ringDoorbell s bits).Kept kq kp := by
  delta State.ringDoorbell
  repeat' first | with_reducible assumption | (intro) | with_reducible apply State.ringRingMbx_kept | split | with_reducible apply foldl_kept | with_reducible apply foldl2_kept

theorem execMbxDoorbell_kept (bits : BitVec 16) {s : State} (hk : s.Kept kq kp) :
    OutKept kq kp (execMbxDoorbell bits s) := by
  delta execMbxDoorbell
  repeat' first | with_reducible assumption | (intro) | with_reducible apply next_kept | with_reducible apply State.when_kept | with_reducible apply State.mbxDoorbell_kept

theorem execRingDoorbell_kept (bits : BitVec 4) {s : State} (hk : s.Kept kq kp) :
    OutKept kq kp (execRingDoorbell bits s) := by
  delta execRingDoorbell
  repeat' first | with_reducible assumption | (intro) | with_reducible apply next_kept | with_reducible apply State.when_kept | with_reducible apply State.ringDoorbell_kept

theorem State.setRec_kept {s : State} (c : FwCmd) (r : SeqRec) (hk : s.Kept kq kp) :
    (State.setRec s c r).Kept kq kp := by
  delta State.setRec
  repeat' first | with_reducible assumption | (intro) | (extract_lets +onlyGivenNames x; clear_value (e : x = _); first | (with_reducible refine let_kept kq kp e ?_ fun _ => ?_) <;> clear e | (with_reducible refine let2_kept kq kp e ?_ fun _ => ?_) <;> clear e | clear e) | (extract_lets +onlyGivenNames x) | simp -zeta only [upd_kept]

theorem State.take_kept {s : State} (c : FwCmd) (xs : List Nat) (hk : s.Kept kq kp) :
    (State.take s c xs).Kept kq kp := by
  delta State.take
  repeat' first | with_reducible assumption | with_reducible apply State.setRec_kept | split

theorem State.postHost_kept {s : State} (n : Fin 16) (c : FwCmd) (status : Nat) (resp : List Byte) (hk : s.Kept kq kp) :
    (State.postHost s n c status resp).Kept kq kp := by
  delta State.postHost
  repeat' first | with_reducible assumption | (extract_lets +onlyGivenNames x; clear_value (e : x = _); first | (with_reducible refine let_kept kq kp e ?_ fun _ => ?_) <;> clear e | (with_reducible refine let2_kept kq kp e ?_ fun _ => ?_) <;> clear e | clear e) | (extract_lets +onlyGivenNames x) | with_reducible apply State.fwWrite_kept | with_reducible apply State.wr_kept | with_reducible apply State.setCause_kept

theorem State.postRing_kept {s : State} (n : Fin 4) (c : FwCmd) (status : Nat) (resp : List Byte) (hk : s.Kept kq kp) :
    (State.postRing s n c status resp).Kept kq kp := by
  delta State.postRing
  repeat' first | with_reducible assumption | (extract_lets +onlyGivenNames x; clear_value (e : x = _); first | (with_reducible refine let_kept kq kp e ?_ fun _ => ?_) <;> clear e | (with_reducible refine let2_kept kq kp e ?_ fun _ => ?_) <;> clear e | clear e) | (extract_lets +onlyGivenNames x) | with_reducible apply State.fwWrite_kept | with_reducible apply State.wr_kept | with_reducible apply State.setCause_kept

theorem State.ringAnswer_kept {s : State} (is : RingWait → Bool) (rid : Nat) (status : Nat) (hk : s.Kept kq kp) :
    (State.ringAnswer s is rid status).Kept kq kp := by
  delta State.ringAnswer
  repeat' first | with_reducible assumption | (intro) | (extract_lets +onlyGivenNames x; clear_value (e : x = _); first | (with_reducible refine let_kept kq kp e ?_ fun _ => ?_) <;> clear e | (with_reducible refine let2_kept kq kp e ?_ fun _ => ?_) <;> clear e | clear e) | (extract_lets +onlyGivenNames x) | split | simp -zeta only [upd_kept]

theorem State.ownAnswer_kept {s : State} (c : FwCmd) (n : Nat) (status : Nat) (hk : s.Kept kq kp) :
    (State.ownAnswer s c n status).Kept kq kp := by
  delta State.ownAnswer
  repeat' first | with_reducible assumption | (intro) | (extract_lets +onlyGivenNames x; clear_value (e : x = _); first | (with_reducible refine let_kept kq kp e ?_ fun _ => ?_) <;> clear e | (with_reducible refine let2_kept kq kp e ?_ fun _ => ?_) <;> clear e | clear e) | (extract_lets +onlyGivenNames x) | with_reducible apply State.ringAnswer_kept | with_reducible apply State.count_kept | split

theorem State.deliver_kept {s : State} (c : FwCmd) (status : Nat) (resp : List Byte) (hk : s.Kept kq kp) :
    (State.deliver s c status resp).Kept kq kp := by
  delta State.deliver
  repeat' first | with_reducible assumption | (extract_lets +onlyGivenNames x; clear_value (e : x = _); first | (with_reducible refine let_kept kq kp e ?_ fun _ => ?_) <;> clear e | (with_reducible refine let2_kept kq kp e ?_ fun _ => ?_) <;> clear e | clear e) | (extract_lets +onlyGivenNames x) | with_reducible apply State.postHost_kept | with_reducible apply State.postRing_kept | with_reducible apply State.ownAnswer_kept | with_reducible apply State.ringControl_kept | split | simp -zeta only [upd_kept]

theorem State.finish_kept {s : State} (c : FwCmd) (status : Nat) (resp : List Byte) (hk : s.Kept kq kp) :
    (State.finish s c status resp).Kept kq kp := by
  delta State.finish
  repeat' first | with_reducible assumption | with_reducible apply State.setRec_kept | with_reducible apply State.deliver_kept | split

theorem State.unheard_kept {s : State} (c : FwCmd) (resp : List Byte) (hk : s.Kept kq kp) :
    (State.unheard s c resp).Kept kq kp := by
  delta State.unheard
  repeat' first | with_reducible assumption | with_reducible apply State.setRec_kept | with_reducible apply State.deliver_kept | split

theorem State.fail_kept {s : State} (c : FwCmd) (status : Nat) (hk : s.Kept kq kp) :
    (State.fail s c status).Kept kq kp := by
  delta State.fail
  repeat' first | with_reducible assumption | with_reducible apply State.finish_kept

theorem State.ok_kept {s : State} (c : FwCmd) (hk : s.Kept kq kp) :
    (State.ok s c).Kept kq kp := by
  delta State.ok
  repeat' first | with_reducible assumption | with_reducible apply State.finish_kept

theorem State.waitFor_kept {s : State} (c : FwCmd) (k : WaitKind) (hk : s.Kept kq kp) :
    (State.waitFor s c k).Kept kq kp := by
  delta State.waitFor
  repeat' first | with_reducible assumption | (extract_lets +onlyGivenNames x; clear_value (e : x = _); first | (with_reducible refine let_kept kq kp e ?_ fun _ => ?_) <;> clear e | (with_reducible refine let2_kept kq kp e ?_ fun _ => ?_) <;> clear e | clear e) | (extract_lets +onlyGivenNames x) | simp -zeta only [upd_kept]

theorem State.wake_kept {s : State} (f : Waiting → Option (Nat × List Byte)) (hk : s.Kept kq kp) :
    (State.wake s f).Kept kq kp := by
  delta State.wake
  repeat' first | with_reducible assumption | (intro) | (extract_lets +onlyGivenNames x; clear_value (e : x = _); first | (with_reducible refine let_kept kq kp e ?_ fun _ => ?_) <;> clear e | (with_reducible refine let2_kept kq kp e ?_ fun _ => ?_) <;> clear e | clear e) | (extract_lets +onlyGivenNames x) | with_reducible apply State.finish_kept | split | simp -zeta only [upd_kept] | with_reducible apply foldl_kept | with_reducible apply foldl2_kept

theorem State.ringSend_kept {s : State} (n : Fin 4) (c : FwCmd) (hk : s.Kept kq kp) :
    (State.ringSend s n c).Kept kq kp := by
  delta State.ringSend
  repeat' first | with_reducible assumption | (extract_lets +onlyGivenNames x; clear_value (e : x = _); first | (with_reducible refine let_kept kq kp e ?_ fun _ => ?_) <;> clear e | (with_reducible refine let2_kept kq kp e ?_ fun _ => ?_) <;> clear e | clear e) | (extract_lets +onlyGivenNames x) | with_reducible apply State.ringControlFrom_kept | with_reducible apply State.pushCmd_kept | split | simp -zeta only [upd_kept]

theorem State.begun_kept {s : State} (c : FwCmd) (rest : List FwCmd) (hk : s.Kept kq kp) :
    (State.begun s c rest).Kept kq kp := by
  delta State.begun
  repeat' first | with_reducible assumption | (extract_lets +onlyGivenNames x; clear_value (e : x = _); first | (with_reducible refine let_kept kq kp e ?_ fun _ => ?_) <;> clear e | (with_reducible refine let2_kept kq kp e ?_ fun _ => ?_) <;> clear e | clear e) | (extract_lets +onlyGivenNames x) | with_reducible apply State.setRec_kept | split | simp -zeta only [upd_kept]

theorem State.route_kept {s : State} (c : FwCmd) (body : FwCmd → State → State) (hk : s.Kept kq kp) (hbody : ∀ a0 t1, t1.Kept kq kp → (body a0 t1).Kept kq kp) :
    (State.route s c body).Kept kq kp := by
  delta State.route
  repeat' first | with_reducible assumption | (extract_lets +onlyGivenNames x; clear_value (e : x = _); first | (with_reducible refine let_kept kq kp e ?_ fun _ => ?_) <;> clear e | (with_reducible refine let2_kept kq kp e ?_ fun _ => ?_) <;> clear e | clear e) | (extract_lets +onlyGivenNames x) | with_reducible apply State.fail_kept | with_reducible apply State.ringSend_kept | with_reducible apply hbody | split | simp -zeta only [upd_kept]

theorem State.serve_kept {s : State} (code : Nat) (body : FwCmd → State → State) (hk : s.Kept kq kp) (hbody : ∀ a0 t1, t1.Kept kq kp → (body a0 t1).Kept kq kp) :
    (State.serve s code body).Kept kq kp := by
  delta State.serve
  repeat' first | with_reducible assumption | (extract_lets +onlyGivenNames x; clear_value (e : x = _); first | (with_reducible refine let_kept kq kp e ?_ fun _ => ?_) <;> clear e | (with_reducible refine let2_kept kq kp e ?_ fun _ => ?_) <;> clear e | clear e) | (extract_lets +onlyGivenNames x) | with_reducible apply State.count_kept | with_reducible apply State.deliver_kept | with_reducible apply State.begun_kept | with_reducible apply State.finish_kept | with_reducible apply State.route_kept | with_reducible apply hbody | split | simp -zeta only [upd_kept]

theorem State.takeRx_kept {s : State} (p : Nat) (cls : Nat) (stream : Nat) (hk : s.Kept kq kp) :
    (State.takeRx s p cls stream).2.Kept kq kp := by
  delta State.takeRx
  repeat' first | with_reducible assumption | (intro) | (extract_lets +onlyGivenNames x; clear_value (e : x = _); first | (with_reducible refine let_kept kq kp e ?_ fun _ => ?_) <;> clear e | (with_reducible refine let2_kept kq kp e ?_ fun _ => ?_) <;> clear e | clear e) | (extract_lets +onlyGivenNames x) | with_reducible apply State.setRport_kept | split | dsimp -zeta only | simp -zeta only [upd_kept]

theorem execMbxCmd_kept (p : Fin 2) {s : State} (hk : s.Kept kq kp) :
    OutKept kq kp (execMbxCmd p s) := by
  delta execMbxCmd
  repeat' first | with_reducible assumption | with_reducible apply next_kept | (extract_lets +onlyGivenNames x; clear_value (e : x = _); first | (with_reducible refine let_kept kq kp e ?_ fun _ => ?_) <;> clear e | (with_reducible refine let2_kept kq kp e ?_ fun _ => ?_) <;> clear e | clear e) | (extract_lets +onlyGivenNames x) | with_reducible apply State.takeRx_kept | with_reducible apply State.pushCmd_kept | split | simp -zeta only [upd_kept]

theorem execMbxResp_kept (p : Fin 2) {s : State} (hk : s.Kept kq kp) :
    OutKept kq kp (execMbxResp p s) := by
  delta execMbxResp
  repeat' first | with_reducible assumption | (intro) | with_reducible apply next_kept | (extract_lets +onlyGivenNames x; clear_value (e : x = _); first | (with_reducible refine let_kept kq kp e ?_ fun _ => ?_) <;> clear e | (with_reducible refine let2_kept kq kp e ?_ fun _ => ?_) <;> clear e | clear e) | (extract_lets +onlyGivenNames x) | with_reducible apply State.takeRx_kept | with_reducible apply State.count_kept | with_reducible apply State.ringAnswer_kept | with_reducible apply State.finish_kept | split | simp -zeta only [upd_kept]

theorem execRingMbxTimeout_kept (m : Fin 4) {s : State} (hk : s.Kept kq kp) :
    OutKept kq kp (execRingMbxTimeout m s) := by
  delta execRingMbxTimeout
  repeat' first | with_reducible assumption | (intro) | with_reducible apply next_kept | (extract_lets +onlyGivenNames x; clear_value (e : x = _); first | (with_reducible refine let_kept kq kp e ?_ fun _ => ?_) <;> clear e | (with_reducible refine let2_kept kq kp e ?_ fun _ => ?_) <;> clear e | clear e) | (extract_lets +onlyGivenNames x) | with_reducible apply State.unheard_kept | with_reducible apply State.finish_kept | split | simp -zeta only [upd_kept]

end Sys2Proof.Machine
end

