-- ==== Sys2Proof/Laws/KeptDma.lean ====
section
/-! SUPPORT. The operations of Machine/Dma.lean keep the queue, the part and the canonical form of the sparse stores. -/

namespace Sys2Proof.Machine

set_option linter.unusedTactic false
set_option linter.unreachableTactic false
set_option linter.tactic.unusedName false

variable {kq : List Instr} {kp : Part}

theorem State.setDch_kept {s : State} (c : Nat) (f : DmaChan → DmaChan) (hk : s.Kept kq kp) :
    (State.setDch s c f).Kept kq kp := by
  delta State.setDch
  repeat' first | with_reducible assumption | (extract_lets +onlyGivenNames x; clear_value (e : x = _); first | (with_reducible refine let_kept kq kp e ?_ fun _ => ?_) <;> clear e | (with_reducible refine let2_kept kq kp e ?_ fun _ => ?_) <;> clear e | clear e) | (extract_lets +onlyGivenNames x) | simp -zeta only [upd_kept]

theorem State.setBlt_kept {s : State} (f : Blt → Blt) (hk : s.Kept kq kp) :
    (State.setBlt s f).Kept kq kp := by
  delta State.setBlt
  repeat' first | with_reducible assumption | (extract_lets +onlyGivenNames x; clear_value (e : x = _); first | (with_reducible refine let_kept kq kp e ?_ fun _ => ?_) <;> clear e | (with_reducible refine let2_kept kq kp e ?_ fun _ => ?_) <;> clear e | clear e) | (extract_lets +onlyGivenNames x) | simp -zeta only [upd_kept]

theorem State.dmaTo_kept {s : State} (c : Nat) (st : Nat) (p : DmaPhase) (hk : s.Kept kq kp) :
    (State.dmaTo s c st p).Kept kq kp := by
  delta State.dmaTo
  repeat' first | with_reducible assumption | (intro) | (extract_lets +onlyGivenNames x; clear_value (e : x = _); first | (with_reducible refine let_kept kq kp e ?_ fun _ => ?_) <;> clear e | (with_reducible refine let2_kept kq kp e ?_ fun _ => ?_) <;> clear e | clear e) | (extract_lets +onlyGivenNames x) | with_reducible apply State.wr_kept | with_reducible apply State.setDch_kept | simp -zeta only [upd_kept]

theorem State.dmaFetch_kept {s : State} (c : Nat) (hk : s.Kept kq kp) :
    (State.dmaFetch s c).Kept kq kp := by
  delta State.dmaFetch
  repeat' first | with_reducible assumption | with_reducible apply State.wr_kept | with_reducible apply State.setCause_kept | with_reducible apply State.dmaTo_kept | split

theorem State.dmaPark_kept {s : State} (c : Nat) (hk : s.Kept kq kp) :
    (State.dmaPark s c).Kept kq kp := by
  delta State.dmaPark
  repeat' first | with_reducible assumption | (intro) | (extract_lets +onlyGivenNames x; clear_value (e : x = _); first | (with_reducible refine let_kept kq kp e ?_ fun _ => ?_) <;> clear e | (with_reducible refine let2_kept kq kp e ?_ fun _ => ?_) <;> clear e | clear e) | (extract_lets +onlyGivenNames x) | with_reducible apply State.setDch_kept | with_reducible apply State.dmaFetch_kept | with_reducible apply State.dmaTo_kept | split | simp -zeta only [upd_kept]

theorem State.dmaRing_kept {s : State} (c : Nat) (hk : s.Kept kq kp) :
    (State.dmaRing s c).Kept kq kp := by
  delta State.dmaRing
  repeat' first | with_reducible assumption | (intro) | (extract_lets +onlyGivenNames x; clear_value (e : x = _); first | (with_reducible refine let_kept kq kp e ?_ fun _ => ?_) <;> clear e | (with_reducible refine let2_kept kq kp e ?_ fun _ => ?_) <;> clear e | clear e) | (extract_lets +onlyGivenNames x) | with_reducible apply State.setDch_kept | with_reducible apply State.dmaFetch_kept | split | simp -zeta only [upd_kept]

theorem State.dmaEnable_kept {s : State} (c : Nat) (en : Bool) (hk : s.Kept kq kp) :
    (State.dmaEnable s c en).Kept kq kp := by
  delta State.dmaEnable
  repeat' first | with_reducible assumption | (intro) | (extract_lets +onlyGivenNames x; clear_value (e : x = _); first | (with_reducible refine let_kept kq kp e ?_ fun _ => ?_) <;> clear e | (with_reducible refine let2_kept kq kp e ?_ fun _ => ?_) <;> clear e | clear e) | (extract_lets +onlyGivenNames x) | with_reducible apply State.wr_kept | with_reducible apply State.dmaFetch_kept | with_reducible apply State.setDch_kept | split | simp -zeta only [upd_kept]

theorem State.dmaHead_kept {s : State} (c : Nat) (v : Nat) (hk : s.Kept kq kp) :
    (State.dmaHead s c v).Kept kq kp := by
  delta State.dmaHead
  repeat' first | with_reducible assumption | with_reducible apply State.wr_kept | split

theorem State.dmaHalt_kept {s : State} (c : Nat) (addr : Nat) (dir : Nat) (timeout : Bool) (poison : Bool) (hk : s.Kept kq kp) :
    (State.dmaHalt s c addr dir timeout poison).Kept kq kp := by
  delta State.dmaHalt
  repeat' first | with_reducible assumption | (extract_lets +onlyGivenNames x; clear_value (e : x = _); first | (with_reducible refine let_kept kq kp e ?_ fun _ => ?_) <;> clear e | (with_reducible refine let2_kept kq kp e ?_ fun _ => ?_) <;> clear e | clear e) | (extract_lets +onlyGivenNames x) | with_reducible apply State.wr_kept | with_reducible apply State.setCause_kept

theorem State.dmaBack_kept {s : State} (c : Nat) (err : Nat) (hk : s.Kept kq kp) :
    (State.dmaBack s c err).2.Kept kq kp := by
  delta State.dmaBack
  repeat' first | with_reducible assumption | (extract_lets +onlyGivenNames x; clear_value (e : x = _); first | (with_reducible refine let_kept kq kp e ?_ fun _ => ?_) <;> clear e | (with_reducible refine let2_kept kq kp e ?_ fun _ => ?_) <;> clear e | clear e) | (extract_lets +onlyGivenNames x) | with_reducible apply State.memWrite_kept | with_reducible apply State.dmaHalt_kept | with_reducible apply State.count_kept | with_reducible apply State.wr_kept | split | dsimp -zeta only

theorem State.dmaResume_kept {s : State} (c : Nat) (hk : s.Kept kq kp) :
    (State.dmaResume s c).Kept kq kp := by
  delta State.dmaResume
  repeat' first | with_reducible assumption | (extract_lets +onlyGivenNames x; clear_value (e : x = _); first | (with_reducible refine let_kept kq kp e ?_ fun _ => ?_) <;> clear e | (with_reducible refine let2_kept kq kp e ?_ fun _ => ?_) <;> clear e | clear e) | (extract_lets +onlyGivenNames x) | with_reducible apply State.dmaTo_kept | split | simp -zeta only [upd_kept]

theorem State.dmaAbort_kept {s : State} (c : Nat) (hk : s.Kept kq kp) :
    (State.dmaAbort s c).Kept kq kp := by
  delta State.dmaAbort
  repeat' first | with_reducible assumption | (extract_lets +onlyGivenNames x; clear_value (e : x = _); first | (with_reducible refine let_kept kq kp e ?_ fun _ => ?_) <;> clear e | (with_reducible refine let2_kept kq kp e ?_ fun _ => ?_) <;> clear e | clear e) | (extract_lets +onlyGivenNames x) | with_reducible apply State.dmaBack_kept | with_reducible apply State.dmaPark_kept | split

theorem State.dmaCommand_kept {s : State} (c : Nat) (resume : Bool) (abort : Bool) (hk : s.Kept kq kp) :
    (State.dmaCommand s c resume abort).Kept kq kp := by
  delta State.dmaCommand
  repeat' first | with_reducible assumption | with_reducible apply State.dmaAbort_kept | with_reducible apply State.dmaResume_kept | split

theorem State.dmaRequest_kept {s : State} (source : Nat) (hk : s.Kept kq kp) :
    (State.dmaRequest s source).Kept kq kp := by
  delta State.dmaRequest
  repeat' first | with_reducible assumption | (intro) | with_reducible apply State.wr_kept | with_reducible apply State.setCause_kept | with_reducible apply State.count_kept | split | with_reducible apply foldl_kept | with_reducible apply foldl2_kept

theorem State.dmaSwreq_kept {s : State} (v : Nat) (hk : s.Kept kq kp) :
    (State.dmaSwreq s v).Kept kq kp := by
  delta State.dmaSwreq
  repeat' first | with_reducible assumption | (intro) | with_reducible apply State.dmaRequest_kept | split | with_reducible apply foldl_kept | with_reducible apply foldl2_kept

theorem execDreq_kept (n : Fin 4) {s : State} (hk : s.Kept kq kp) :
    OutKept kq kp (execDreq n s) := by
  delta execDreq
  repeat' first | with_reducible assumption | (intro) | with_reducible apply next_kept | with_reducible apply State.when_kept | with_reducible apply State.dmaRequest_kept

theorem execDmaDoorbell_kept (c : Fin 16) {s : State} (hk : s.Kept kq kp) :
    OutKept kq kp (execDmaDoorbell c s) := by
  delta execDmaDoorbell
  repeat' first | with_reducible assumption | (intro) | with_reducible apply next_kept | with_reducible apply State.when_kept | with_reducible apply State.dmaRing_kept

theorem State.bltTo_kept {s : State} (st : Nat) (p : BltPhase) (hk : s.Kept kq kp) :
    (State.bltTo s st p).Kept kq kp := by
  delta State.bltTo
  repeat' first | with_reducible assumption | (intro) | (extract_lets +onlyGivenNames x; clear_value (e : x = _); first | (with_reducible refine let_kept kq kp e ?_ fun _ => ?_) <;> clear e | (with_reducible refine let2_kept kq kp e ?_ fun _ => ?_) <;> clear e | clear e) | (extract_lets +onlyGivenNames x) | with_reducible apply State.wr_kept | with_reducible apply State.setBlt_kept | simp -zeta only [upd_kept]

theorem State.bltFetch_kept {s : State} (hk : s.Kept kq kp) :
    (State.bltFetch s).Kept kq kp := by
  delta State.bltFetch
  repeat' first | with_reducible assumption | with_reducible apply State.wr_kept | with_reducible apply State.setCause_kept | with_reducible apply State.bltTo_kept | split

theorem State.bltPark_kept {s : State} (hk : s.Kept kq kp) :
    (State.bltPark s).Kept kq kp := by
  delta State.bltPark
  repeat' first | with_reducible assumption | (intro) | (extract_lets +onlyGivenNames x; clear_value (e : x = _); first | (with_reducible refine let_kept kq kp e ?_ fun _ => ?_) <;> clear e | (with_reducible refine let2_kept kq kp e ?_ fun _ => ?_) <;> clear e | clear e) | (extract_lets +onlyGivenNames x) | with_reducible apply State.setBlt_kept | with_reducible apply State.bltFetch_kept | with_reducible apply State.bltTo_kept | split | simp -zeta only [upd_kept]

theorem State.bltRing_kept {s : State} (hk : s.Kept kq kp) :
    (State.bltRing s).Kept kq kp := by
  delta State.bltRing
  repeat' first | with_reducible assumption | (intro) | (extract_lets +onlyGivenNames x; clear_value (e : x = _); first | (with_reducible refine let_kept kq kp e ?_ fun _ => ?_) <;> clear e | (with_reducible refine let2_kept kq kp e ?_ fun _ => ?_) <;> clear e | clear e) | (extract_lets +onlyGivenNames x) | with_reducible apply State.setBlt_kept | with_reducible apply State.bltFetch_kept | split | simp -zeta only [upd_kept]

theorem State.bltEnable_kept {s : State} (en : Bool) (hk : s.Kept kq kp) :
    (State.bltEnable s en).Kept kq kp := by
  delta State.bltEnable
  repeat' first | with_reducible assumption | (intro) | (extract_lets +onlyGivenNames x; clear_value (e : x = _); first | (with_reducible refine let_kept kq kp e ?_ fun _ => ?_) <;> clear e | (with_reducible refine let2_kept kq kp e ?_ fun _ => ?_) <;> clear e | clear e) | (extract_lets +onlyGivenNames x) | with_reducible apply State.wr_kept | with_reducible apply State.bltFetch_kept | with_reducible apply State.setBlt_kept | split | simp -zeta only [upd_kept]

theorem State.bltHead_kept {s : State} (v : Nat) (hk : s.Kept kq kp) :
    (State.bltHead s v).Kept kq kp := by
  delta State.bltHead
  repeat' first | with_reducible assumption | with_reducible apply State.wr_kept | split

theorem State.bltBack_kept {s : State} (err : Nat) (hk : s.Kept kq kp) :
    (State.bltBack s err).Kept kq kp := by
  delta State.bltBack
  repeat' first | with_reducible assumption | (intro) | (extract_lets +onlyGivenNames x; clear_value (e : x = _); first | (with_reducible refine let_kept kq kp e ?_ fun _ => ?_) <;> clear e | (with_reducible refine let2_kept kq kp e ?_ fun _ => ?_) <;> clear e | clear e) | (extract_lets +onlyGivenNames x) | with_reducible apply State.memWrite_kept | with_reducible apply State.wr_kept | with_reducible apply State.count_kept | with_reducible apply State.setCause_kept | with_reducible apply State.setBlt_kept | with_reducible apply State.bltTo_kept | with_reducible apply State.bltFetch_kept | split | simp -zeta only [upd_kept]

theorem State.bltAbort_kept {s : State} (hk : s.Kept kq kp) :
    (State.bltAbort s).Kept kq kp := by
  delta State.bltAbort
  repeat' first | with_reducible assumption | (intro) | (extract_lets +onlyGivenNames x; clear_value (e : x = _); first | (with_reducible refine let_kept kq kp e ?_ fun _ => ?_) <;> clear e | (with_reducible refine let2_kept kq kp e ?_ fun _ => ?_) <;> clear e | clear e) | (extract_lets +onlyGivenNames x) | with_reducible apply State.setBlt_kept | with_reducible apply State.bltTo_kept | split | simp -zeta only [upd_kept]

theorem State.bltBusErr_kept {s : State} (addr : Nat) (hk : s.Kept kq kp) :
    (State.bltBusErr s addr).Kept kq kp := by
  delta State.bltBusErr
  repeat' first | with_reducible assumption | with_reducible apply State.wr_kept | with_reducible apply State.bltTo_kept

theorem State.bltRowCount_kept {s : State} (hk : s.Kept kq kp) :
    (State.bltRowCount s).Kept kq kp := by
  delta State.bltRowCount
  repeat' first | with_reducible assumption | (extract_lets +onlyGivenNames x; clear_value (e : x = _); first | (with_reducible refine let_kept kq kp e ?_ fun _ => ?_) <;> clear e | (with_reducible refine let2_kept kq kp e ?_ fun _ => ?_) <;> clear e | clear e) | (extract_lets +onlyGivenNames x) | with_reducible apply State.wr_kept | with_reducible apply State.setCause_kept | with_reducible apply State.dmaRequest_kept | split

theorem State.bltLine_kept {s : State} (h : Nat) (line : Nat) (hk : s.Kept kq kp) :
    (State.bltLine s h line).Kept kq kp := by
  delta State.bltLine
  repeat' first | with_reducible assumption | with_reducible apply State.bltTo_kept | split

theorem State.bltHeadStops_kept {s : State} (h : Nat) (hk : s.Kept kq kp) :
    (State.bltHeadStops s h).Kept kq kp := by
  delta State.bltHeadStops
  repeat' first | with_reducible assumption | (intro) | (extract_lets +onlyGivenNames x; clear_value (e : x = _); first | (with_reducible refine let_kept kq kp e ?_ fun _ => ?_) <;> clear e | (with_reducible refine let2_kept kq kp e ?_ fun _ => ?_) <;> clear e | clear e) | (extract_lets +onlyGivenNames x) | with_reducible apply State.setBlt_kept | with_reducible apply State.bltTo_kept | split | simp -zeta only [upd_kept]

theorem execBltCommandDone_kept {s : State} (hk : s.Kept kq kp) :
    OutKept kq kp (execBltCommandDone s) := by
  delta execBltCommandDone
  repeat' first | with_reducible assumption | (intro) | with_reducible apply next_kept | (extract_lets +onlyGivenNames x; clear_value (e : x = _); first | (with_reducible refine let_kept kq kp e ?_ fun _ => ?_) <;> clear e | (with_reducible refine let2_kept kq kp e ?_ fun _ => ?_) <;> clear e | clear e) | (extract_lets +onlyGivenNames x) | with_reducible apply State.when_kept | with_reducible apply State.bltBack_kept | split | simp -zeta only [upd_kept]

theorem execDmaChannelSet_kept {s : State} (hk : s.Kept kq kp) :
    OutKept kq kp (execDmaChannelSet s) := by
  delta execDmaChannelSet
  repeat' first | with_reducible assumption | (intro) | with_reducible apply next_kept | (extract_lets +onlyGivenNames x; clear_value (e : x = _); first | (with_reducible refine let_kept kq kp e ?_ fun _ => ?_) <;> clear e | (with_reducible refine let2_kept kq kp e ?_ fun _ => ?_) <;> clear e | clear e) | (extract_lets +onlyGivenNames x) | with_reducible apply State.serve_kept | with_reducible apply State.fail_kept | with_reducible apply State.wr_kept | with_reducible apply State.dmaEnable_kept | with_reducible apply State.ok_kept | split

theorem execDmaChannelCtrl_kept {s : State} (hk : s.Kept kq kp) :
    OutKept kq kp (execDmaChannelCtrl s) := by
  delta execDmaChannelCtrl
  repeat' first | with_reducible assumption | (intro) | with_reducible apply next_kept | (extract_lets +onlyGivenNames x; clear_value (e : x = _); first | (with_reducible refine let_kept kq kp e ?_ fun _ => ?_) <;> clear e | (with_reducible refine let2_kept kq kp e ?_ fun _ => ?_) <;> clear e | clear e) | (extract_lets +onlyGivenNames x) | with_reducible apply State.serve_kept | with_reducible apply State.fail_kept | with_reducible apply State.dmaCommand_kept | with_reducible apply State.finish_kept | split

theorem execBltQueueSet_kept {s : State} (hk : s.Kept kq kp) :
    OutKept kq kp (execBltQueueSet s) := by
  delta execBltQueueSet
  repeat' first | with_reducible assumption | (intro) | with_reducible apply next_kept | (extract_lets +onlyGivenNames x; clear_value (e : x = _); first | (with_reducible refine let_kept kq kp e ?_ fun _ => ?_) <;> clear e | (with_reducible refine let2_kept kq kp e ?_ fun _ => ?_) <;> clear e | clear e) | (extract_lets +onlyGivenNames x) | with_reducible apply State.serve_kept | with_reducible apply State.fail_kept | with_reducible apply State.wr_kept | with_reducible apply State.bltEnable_kept | with_reducible apply State.ok_kept | split

end Sys2Proof.Machine
end

