-- ==== Sys2Proof/Laws/KeptDuplex.lean ====
section
/-! SUPPORT. The operations of Machine/Duplex.lean keep the queue, the part and the canonical form of the sparse stores. -/

namespace Sys2Proof.Machine

set_option linter.unusedTactic false
set_option linter.unreachableTactic false
set_option linter.tactic.unusedName false

variable {kq : List Instr} {kp : Part}

theorem State.nvEnqueue_kept {s : State} (cls : Nat) (what : NvWrite) (own : Bool) (hk : s.Kept kq kp) :
    (State.nvEnqueue s cls what own).2.Kept kq kp := by
  delta State.nvEnqueue
  repeat' first | with_reducible assumption | (extract_lets +onlyGivenNames x; clear_value (e : x = _); first | (with_reducible refine let_kept kq kp e ?_ fun _ => ?_) <;> clear e | (with_reducible refine let2_kept kq kp e ?_ fun _ => ?_) <;> clear e | clear e) | (extract_lets +onlyGivenNames x) | dsimp -zeta only | simp -zeta only [upd_kept]

theorem State.nvCommand_kept {s : State} (c : FwCmd) (cls : Nat) (what : NvWrite) (resp : List Byte) (hk : s.Kept kq kp) :
    (State.nvCommand s c cls what resp).Kept kq kp := by
  delta State.nvCommand
  repeat' first | with_reducible assumption | (extract_lets +onlyGivenNames x; clear_value (e : x = _); first | (with_reducible refine let_kept kq kp e ?_ fun _ => ?_) <;> clear e | (with_reducible refine let2_kept kq kp e ?_ fun _ => ?_) <;> clear e | clear e) | (extract_lets +onlyGivenNames x) | with_reducible apply State.nvEnqueue_kept | with_reducible apply State.waitFor_kept

theorem State.setStandby_kept {s : State} (st : Nat) (hk : s.Kept kq kp) :
    (State.setStandby s st).Kept kq kp := by
  delta State.setStandby
  repeat' first | with_reducible assumption | (extract_lets +onlyGivenNames x; clear_value (e : x = _); first | (with_reducible refine let_kept kq kp e ?_ fun _ => ?_) <;> clear e | (with_reducible refine let2_kept kq kp e ?_ fun _ => ?_) <;> clear e | clear e) | (extract_lets +onlyGivenNames x) | with_reducible apply State.wr_kept | with_reducible apply State.setCause_kept | split

theorem State.setDup_kept {s : State} (f : Duplex → Duplex) (hk : s.Kept kq kp) :
    (State.setDup s f).Kept kq kp := by
  delta State.setDup
  repeat' first | with_reducible assumption | (extract_lets +onlyGivenNames x; clear_value (e : x = _); first | (with_reducible refine let_kept kq kp e ?_ fun _ => ?_) <;> clear e | (with_reducible refine let2_kept kq kp e ?_ fun _ => ?_) <;> clear e | clear e) | (extract_lets +onlyGivenNames x) | simp -zeta only [upd_kept]

theorem State.reqRestart_kept {s : State} (hk : s.Kept kq kp) :
    (State.reqRestart s).Kept kq kp := by
  delta State.reqRestart
  repeat' first | with_reducible assumption | (intro) | (extract_lets +onlyGivenNames x; clear_value (e : x = _); first | (with_reducible refine let_kept kq kp e ?_ fun _ => ?_) <;> clear e | (with_reducible refine let2_kept kq kp e ?_ fun _ => ?_) <;> clear e | clear e) | (extract_lets +onlyGivenNames x) | with_reducible apply State.setStandby_kept | with_reducible apply State.setDup_kept | split | simp -zeta only [upd_kept]

theorem State.reqSwitch_kept {s : State} (hk : s.Kept kq kp) :
    (State.reqSwitch s).Kept kq kp := by
  delta State.reqSwitch
  repeat' first | with_reducible assumption | (intro) | (extract_lets +onlyGivenNames x; clear_value (e : x = _); first | (with_reducible refine let_kept kq kp e ?_ fun _ => ?_) <;> clear e | (with_reducible refine let2_kept kq kp e ?_ fun _ => ?_) <;> clear e | clear e) | (extract_lets +onlyGivenNames x) | with_reducible apply State.wr_kept | with_reducible apply State.setDup_kept | split | simp -zeta only [upd_kept]

theorem State.requeue_kept {s : State} (hk : s.Kept kq kp) :
    (State.requeue s).Kept kq kp := by
  delta State.requeue
  repeat' first | with_reducible assumption | (intro) | (extract_lets +onlyGivenNames x; clear_value (e : x = _); first | (with_reducible refine let_kept kq kp e ?_ fun _ => ?_) <;> clear e | (with_reducible refine let2_kept kq kp e ?_ fun _ => ?_) <;> clear e | clear e) | (extract_lets +onlyGivenNames x) | with_reducible apply State.wr_kept | simp -zeta only [upd_kept]

theorem State.commitStop_kept {s : State} (hk : s.Kept kq kp) :
    (State.commitStop s).Kept kq kp := by
  delta State.commitStop
  repeat' first | with_reducible assumption | (extract_lets +onlyGivenNames x; clear_value (e : x = _); first | (with_reducible refine let_kept kq kp e ?_ fun _ => ?_) <;> clear e | (with_reducible refine let2_kept kq kp e ?_ fun _ => ?_) <;> clear e | clear e) | (extract_lets +onlyGivenNames x) | with_reducible apply State.wr_kept | simp -zeta only [upd_kept]

theorem State.coreFailed_kept {s : State} (hk : s.Kept kq kp) :
    (State.coreFailed s).Kept kq kp := by
  delta State.coreFailed
  repeat' first | with_reducible assumption | (intro) | (extract_lets +onlyGivenNames x; clear_value (e : x = _); first | (with_reducible refine let_kept kq kp e ?_ fun _ => ?_) <;> clear e | (with_reducible refine let2_kept kq kp e ?_ fun _ => ?_) <;> clear e | clear e) | (extract_lets +onlyGivenNames x) | with_reducible apply State.commitStop_kept | with_reducible apply State.wr_kept | with_reducible apply State.setDup_kept | with_reducible apply State.setStandby_kept | with_reducible apply State.report_kept | split | simp -zeta only [upd_kept]

theorem execHeartbeat_kept {s : State} (hk : s.Kept kq kp) :
    OutKept kq kp (execHeartbeat s) := by
  delta execHeartbeat
  repeat' first | with_reducible assumption | (intro) | with_reducible apply next_kept | (extract_lets +onlyGivenNames x; clear_value (e : x = _); first | (with_reducible refine let_kept kq kp e ?_ fun _ => ?_) <;> clear e | (with_reducible refine let2_kept kq kp e ?_ fun _ => ?_) <;> clear e | clear e) | (extract_lets +onlyGivenNames x) | with_reducible apply State.coreFailed_kept | with_reducible apply State.setDup_kept | split | simp -zeta only [upd_kept]

theorem execHbTimeout_kept {s : State} (hk : s.Kept kq kp) :
    OutKept kq kp (execHbTimeout s) := by
  delta execHbTimeout
  repeat' first | with_reducible assumption | with_reducible apply next_kept | with_reducible apply State.coreFailed_kept | split

theorem execCoreFault_kept {s : State} (hk : s.Kept kq kp) :
    OutKept kq kp (execCoreFault s) := by
  delta execCoreFault
  repeat' first | with_reducible assumption | with_reducible apply next_kept | with_reducible apply State.coreFailed_kept | split

theorem State.setSwap_kept {s : State} (x : Option Swap) (hk : s.Kept kq kp) :
    (State.setSwap s x).Kept kq kp := by
  delta State.setSwap
  repeat' first | with_reducible assumption | (extract_lets +onlyGivenNames x; clear_value (e : x = _); first | (with_reducible refine let_kept kq kp e ?_ fun _ => ?_) <;> clear e | (with_reducible refine let2_kept kq kp e ?_ fun _ => ?_) <;> clear e | clear e) | (extract_lets +onlyGivenNames x) | simp -zeta only [upd_kept]

theorem State.swapLatch_kept {s : State} (h : Nat) (hk : s.Kept kq kp) :
    (State.swapLatch s h).Kept kq kp := by
  delta State.swapLatch
  repeat' first | with_reducible assumption | (extract_lets +onlyGivenNames x; clear_value (e : x = _); first | (with_reducible refine let_kept kq kp e ?_ fun _ => ?_) <;> clear e | (with_reducible refine let2_kept kq kp e ?_ fun _ => ?_) <;> clear e | clear e) | (extract_lets +onlyGivenNames x) | with_reducible apply State.setSwap_kept | with_reducible apply State.reqSwitch_kept | split | simp -zeta only [upd_kept]

theorem State.swapReady_kept {s : State} (x : Swap) (hk : s.Kept kq kp) :
    (State.swapReady s x).Kept kq kp := by
  delta State.swapReady
  repeat' first | with_reducible assumption | (extract_lets +onlyGivenNames x; clear_value (e : x = _); first | (with_reducible refine let_kept kq kp e ?_ fun _ => ?_) <;> clear e | (with_reducible refine let2_kept kq kp e ?_ fun _ => ?_) <;> clear e | clear e) | (extract_lets +onlyGivenNames x) | with_reducible apply State.setSwap_kept | with_reducible apply State.swapLatch_kept | split | simp -zeta only [upd_kept]

theorem State.swapCommit_kept {s : State} (x : Swap) (hk : s.Kept kq kp) :
    (State.swapCommit s x).Kept kq kp := by
  delta State.swapCommit
  repeat' first | with_reducible assumption | (extract_lets +onlyGivenNames x; clear_value (e : x = _); first | (with_reducible refine let_kept kq kp e ?_ fun _ => ?_) <;> clear e | (with_reducible refine let2_kept kq kp e ?_ fun _ => ?_) <;> clear e | clear e) | (extract_lets +onlyGivenNames x) | with_reducible apply State.setSwap_kept | with_reducible apply State.nvEnqueue_kept | split | simp -zeta only [upd_kept]

theorem State.swapDone_kept {s : State} (pending : Bool) (hk : s.Kept kq kp) :
    (State.swapDone s pending).Kept kq kp := by
  delta State.swapDone
  repeat' first | with_reducible assumption | (intro) | (extract_lets +onlyGivenNames x; clear_value (e : x = _); first | (with_reducible refine let_kept kq kp e ?_ fun _ => ?_) <;> clear e | (with_reducible refine let2_kept kq kp e ?_ fun _ => ?_) <;> clear e | clear e) | (extract_lets +onlyGivenNames x) | with_reducible apply State.wake_kept | with_reducible apply State.report_kept | split | simp -zeta only [upd_kept]

theorem State.swapFail_kept {s : State} (hk : s.Kept kq kp) :
    (State.swapFail s).Kept kq kp := by
  delta State.swapFail
  repeat' first | with_reducible assumption | (intro) | (extract_lets +onlyGivenNames x; clear_value (e : x = _); first | (with_reducible refine let_kept kq kp e ?_ fun _ => ?_) <;> clear e | (with_reducible refine let2_kept kq kp e ?_ fun _ => ?_) <;> clear e | clear e) | (extract_lets +onlyGivenNames x) | with_reducible apply State.setSwap_kept | with_reducible apply State.setStandby_kept | with_reducible apply State.setDup_kept | with_reducible apply State.wake_kept | with_reducible apply State.report_kept | split | simp -zeta only [upd_kept]

theorem execSwapTimeout_kept {s : State} (hk : s.Kept kq kp) :
    OutKept kq kp (execSwapTimeout s) := by
  delta execSwapTimeout
  repeat' first | with_reducible assumption | with_reducible apply next_kept | with_reducible apply State.swapFail_kept | split

theorem execStandbySelftestDone_kept (pass : Bool) {s : State} (hk : s.Kept kq kp) :
    OutKept kq kp (execStandbySelftestDone pass s) := by
  delta execStandbySelftestDone
  repeat' first | with_reducible assumption | (intro) | with_reducible apply next_kept | (extract_lets +onlyGivenNames x; clear_value (e : x = _); first | (with_reducible refine let_kept kq kp e ?_ fun _ => ?_) <;> clear e | (with_reducible refine let2_kept kq kp e ?_ fun _ => ?_) <;> clear e | clear e) | (extract_lets +onlyGivenNames x) | with_reducible apply State.setDup_kept | with_reducible apply State.setStandby_kept | with_reducible apply State.wake_kept | split | simp -zeta only [upd_kept]

theorem execStandbyReady_kept {s : State} (hk : s.Kept kq kp) :
    OutKept kq kp (execStandbyReady s) := by
  delta execStandbyReady
  repeat' first | with_reducible assumption | (intro) | with_reducible apply next_kept | (extract_lets +onlyGivenNames x; clear_value (e : x = _); first | (with_reducible refine let_kept kq kp e ?_ fun _ => ?_) <;> clear e | (with_reducible refine let2_kept kq kp e ?_ fun _ => ?_) <;> clear e | clear e) | (extract_lets +onlyGivenNames x) | with_reducible apply State.swapFail_kept | with_reducible apply State.setStandby_kept | with_reducible apply State.wake_kept | with_reducible apply State.swapReady_kept | with_reducible apply State.swapCommit_kept | split | simp -zeta only [upd_kept]

theorem execHandover_kept {s : State} (hk : s.Kept kq kp) :
    OutKept kq kp (execHandover s) := by
  delta execHandover
  repeat' first | with_reducible assumption | (intro) | with_reducible apply next_kept | (extract_lets +onlyGivenNames x; clear_value (e : x = _); first | (with_reducible refine let_kept kq kp e ?_ fun _ => ?_) <;> clear e | (with_reducible refine let2_kept kq kp e ?_ fun _ => ?_) <;> clear e | clear e) | (extract_lets +onlyGivenNames x) | with_reducible apply State.wr_kept | with_reducible apply State.setStandby_kept | with_reducible apply State.setDup_kept | with_reducible apply State.setSwap_kept | with_reducible apply State.setCause_kept | split | simp -zeta only [upd_kept]

theorem State.swapRuns_kept {s : State} (x : Swap) (hk : s.Kept kq kp) :
    (State.swapRuns s x).Kept kq kp := by
  delta State.swapRuns
  repeat' first | with_reducible assumption | with_reducible apply State.wr_kept

theorem State.swapKeep_kept {s : State} (hk : s.Kept kq kp) :
    (State.swapKeep s).Kept kq kp := by
  delta State.swapKeep
  repeat' first | with_reducible assumption | (intro) | (extract_lets +onlyGivenNames x; clear_value (e : x = _); first | (with_reducible refine let_kept kq kp e ?_ fun _ => ?_) <;> clear e | (with_reducible refine let2_kept kq kp e ?_ fun _ => ?_) <;> clear e | clear e) | (extract_lets +onlyGivenNames x) | with_reducible apply State.setSwap_kept | split | simp -zeta only [upd_kept]

theorem execFirmwareResume_kept {s : State} (hk : s.Kept kq kp) :
    OutKept kq kp (execFirmwareResume s) := by
  delta execFirmwareResume
  repeat' first | with_reducible assumption | (intro) | with_reducible apply next_kept | (extract_lets +onlyGivenNames x; clear_value (e : x = _); first | (with_reducible refine let_kept kq kp e ?_ fun _ => ?_) <;> clear e | (with_reducible refine let2_kept kq kp e ?_ fun _ => ?_) <;> clear e | have _f : State → _ := x | clear e) | (extract_lets +onlyGivenNames x) | with_reducible apply State.setDup_kept | with_reducible apply State.retime_kept | with_reducible apply State.swapKeep_kept | with_reducible apply State.requeue_kept | with_reducible apply State.swapRuns_kept | with_reducible apply State.count_kept | with_reducible apply State.setCause_kept | with_reducible apply State.report_kept | with_reducible apply State.setSwap_kept | with_reducible apply State.wake_kept | split | simp -zeta only [upd_kept] | (subst_vars; beta_reduce)

theorem execDeviceInfo_kept {s : State} (hk : s.Kept kq kp) :
    OutKept kq kp (execDeviceInfo s) := by
  delta execDeviceInfo
  repeat' first | with_reducible assumption | (intro) | with_reducible apply next_kept | with_reducible apply State.serve_kept | with_reducible apply State.finish_kept

theorem execEcho_kept {s : State} (hk : s.Kept kq kp) :
    OutKept kq kp (execEcho s) := by
  delta execEcho
  repeat' first | with_reducible assumption | (intro) | with_reducible apply next_kept | with_reducible apply State.serve_kept | with_reducible apply State.finish_kept

theorem execCoreSwitch_kept {s : State} (hk : s.Kept kq kp) :
    OutKept kq kp (execCoreSwitch s) := by
  delta execCoreSwitch
  repeat' first | with_reducible assumption | (intro) | with_reducible apply next_kept | (extract_lets +onlyGivenNames x; clear_value (e : x = _); first | (with_reducible refine let_kept kq kp e ?_ fun _ => ?_) <;> clear e | (with_reducible refine let2_kept kq kp e ?_ fun _ => ?_) <;> clear e | clear e) | (extract_lets +onlyGivenNames x) | with_reducible apply State.serve_kept | with_reducible apply State.ok_kept | with_reducible apply State.waitFor_kept | with_reducible apply State.reqSwitch_kept | with_reducible apply State.fail_kept | with_reducible apply State.take_kept | split | simp -zeta only [upd_kept]

theorem execCoreRestart_kept {s : State} (hk : s.Kept kq kp) :
    OutKept kq kp (execCoreRestart s) := by
  delta execCoreRestart
  repeat' first | with_reducible assumption | (intro) | with_reducible apply next_kept | with_reducible apply State.serve_kept | with_reducible apply State.ok_kept | with_reducible apply State.waitFor_kept | with_reducible apply State.reqRestart_kept | split

end Sys2Proof.Machine
end

