-- ==== Sys2Proof/Laws/KeptCompose.lean ====
section
/-! SUPPORT. The operations of Machine/Compose.lean keep the queue, the part and the canonical form of the sparse stores. -/

namespace Sys2Proof.Machine

set_option linter.unusedTactic false
set_option linter.unreachableTactic false
set_option linter.tactic.unusedName false

variable {kq : List Instr} {kp : Part}

theorem State.setHd_kept {s : State} (h : Nat) (f : HeadState → HeadState) (hk : s.Kept kq kp) :
    (State.setHd s h f).Kept kq kp := by
  delta State.setHd
  repeat' first | with_reducible assumption | (extract_lets +onlyGivenNames x; clear_value (e : x = _); first | (with_reducible refine let_kept kq kp e ?_ fun _ => ?_) <;> clear e | (with_reducible refine let2_kept kq kp e ?_ fun _ => ?_) <;> clear e | clear e) | (extract_lets +onlyGivenNames x) | simp -zeta only [upd_kept]

theorem State.setLay_kept {s : State} (l : Nat) (f : LayerState → LayerState) (hk : s.Kept kq kp) :
    (State.setLay s l f).Kept kq kp := by
  delta State.setLay
  repeat' first | with_reducible assumption | (extract_lets +onlyGivenNames x; clear_value (e : x = _); first | (with_reducible refine let_kept kq kp e ?_ fun _ => ?_) <;> clear e | (with_reducible refine let2_kept kq kp e ?_ fun _ => ?_) <;> clear e | clear e) | (extract_lets +onlyGivenNames x) | simp -zeta only [upd_kept]

theorem State.setStrm_kept {s : State} (k : Nat) (f : Stream → Stream) (hk : s.Kept kq kp) :
    (State.setStrm s k f).Kept kq kp := by
  delta State.setStrm
  repeat' first | with_reducible assumption | (extract_lets +onlyGivenNames x; clear_value (e : x = _); first | (with_reducible refine let_kept kq kp e ?_ fun _ => ?_) <;> clear e | (with_reducible refine let2_kept kq kp e ?_ fun _ => ?_) <;> clear e | clear e) | (extract_lets +onlyGivenNames x) | simp -zeta only [upd_kept]

end Sys2Proof.Machine
end

