-- ==== Sys2Proof/Laws/KeptRingMember.lean ====
section
/-! SUPPORT. The operations of Machine/RingMember.lean keep the queue, the part and the canonical form of the sparse stores. -/

namespace Sys2Proof.Machine

set_option linter.unusedTactic false
set_option linter.unreachableTactic false
set_option linter.tactic.unusedName false

variable {kq : List Instr} {kp : Part}

theorem execGateListStart_kept (p : Fin 2) {s : State} (hk : s.Kept kq kp) :
    OutKept kq kp (execGateListStart p s) := by
  delta execGateListStart
  repeat' first | with_reducible assumption | with_reducible apply next_kept | with_reducible apply State.gateOperate_kept

theorem State.elect_kept {s : State} (hk : s.Kept kq kp) :
    (State.elect s).Kept kq kp := by
  delta State.elect
  repeat' first | with_reducible assumption | (intro) | (extract_lets +onlyGivenNames x; clear_value (e : x = _); first | (with_reducible refine let_kept kq kp e ?_ fun _ => ?_) <;> clear e | (with_reducible refine let2_kept kq kp e ?_ fun _ => ?_) <;> clear e | clear e) | (extract_lets +onlyGivenNames x) | with_reducible apply State.wr_kept | with_reducible apply State.setCause_kept | with_reducible apply State.setRing_kept | with_reducible apply State.retime_kept | split | simp -zeta only [upd_kept]

theorem State.noteOrder_kept {s : State} (hk : s.Kept kq kp) :
    (State.noteOrder s).Kept kq kp := by
  delta State.noteOrder
  repeat' first | with_reducible assumption | (intro) | (extract_lets +onlyGivenNames x; clear_value (e : x = _); first | (with_reducible refine let_kept kq kp e ?_ fun _ => ?_) <;> clear e | (with_reducible refine let2_kept kq kp e ?_ fun _ => ?_) <;> clear e | clear e) | (extract_lets +onlyGivenNames x) | with_reducible apply State.setRing_kept | split | simp -zeta only [upd_kept]

theorem State.splitFlag_kept {s : State} (hk : s.Kept kq kp) :
    (State.splitFlag s).Kept kq kp := by
  delta State.splitFlag
  repeat' first | with_reducible assumption | (extract_lets +onlyGivenNames x; clear_value (e : x = _); first | (with_reducible refine let_kept kq kp e ?_ fun _ => ?_) <;> clear e | (with_reducible refine let2_kept kq kp e ?_ fun _ => ?_) <;> clear e | clear e) | (extract_lets +onlyGivenNames x) | with_reducible apply State.wr_kept | with_reducible apply State.setCause_kept | with_reducible apply State.report_kept | split

theorem State.addEnd_kept {s : State} (rid : Nat) (side : Nat) (hk : s.Kept kq kp) :
    (State.addEnd s rid side).Kept kq kp := by
  delta State.addEnd
  repeat' first | with_reducible assumption | (intro) | (extract_lets +onlyGivenNames x; clear_value (e : x = _); first | (with_reducible refine let_kept kq kp e ?_ fun _ => ?_) <;> clear e | (with_reducible refine let2_kept kq kp e ?_ fun _ => ?_) <;> clear e | clear e) | (extract_lets +onlyGivenNames x) | with_reducible apply State.setRing_kept | with_reducible apply State.splitFlag_kept | split | simp -zeta only [upd_kept]

theorem State.dropEnd_kept {s : State} (rid : Nat) (side : Nat) (hk : s.Kept kq kp) :
    (State.dropEnd s rid side).Kept kq kp := by
  delta State.dropEnd
  repeat' first | with_reducible assumption | (intro) | (extract_lets +onlyGivenNames x; clear_value (e : x = _); first | (with_reducible refine let_kept kq kp e ?_ fun _ => ?_) <;> clear e | (with_reducible refine let2_kept kq kp e ?_ fun _ => ?_) <;> clear e | clear e) | (extract_lets +onlyGivenNames x) | with_reducible apply State.setRing_kept | with_reducible apply State.splitFlag_kept | simp -zeta only [upd_kept]

theorem State.purgeEnds_kept {s : State} (hk : s.Kept kq kp) :
    (State.purgeEnds s).Kept kq kp := by
  delta State.purgeEnds
  repeat' first | with_reducible assumption | (intro) | (extract_lets +onlyGivenNames x; clear_value (e : x = _); first | (with_reducible refine let_kept kq kp e ?_ fun _ => ?_) <;> clear e | (with_reducible refine let2_kept kq kp e ?_ fun _ => ?_) <;> clear e | clear e) | (extract_lets +onlyGivenNames x) | with_reducible apply State.dropEnd_kept | with_reducible apply State.setRing_kept | split | simp -zeta only [upd_kept] | with_reducible apply foldl_kept | with_reducible apply foldl2_kept

theorem State.rxDrop_kept {s : State} (p : Nat) (f : HFrame) (hk : s.Kept kq kp) :
    (State.rxDrop s p f).Kept kq kp := by
  delta State.rxDrop
  repeat' first | with_reducible assumption | with_reducible apply State.count64_kept

theorem State.ringDeliver_kept {s : State} (p : Nat) (f : HFrame) (policed : Bool) (hk : s.Kept kq kp) :
    (State.ringDeliver s p f policed).Kept kq kp := by
  delta State.ringDeliver
  repeat' first | with_reducible assumption | (intro) | (extract_lets +onlyGivenNames x; clear_value (e : x = _); first | (with_reducible refine let_kept kq kp e ?_ fun _ => ?_) <;> clear e | (with_reducible refine let2_kept kq kp e ?_ fun _ => ?_) <;> clear e | clear e) | (extract_lets +onlyGivenNames x) | with_reducible apply State.count_kept | with_reducible apply State.rxDrop_kept | with_reducible apply State.police_kept | with_reducible apply State.setRport_kept | split | simp -zeta only [upd_kept]

theorem State.ringForward_kept {s : State} (p : Nat) (f : HFrame) (stomp : Bool) (hk : s.Kept kq kp) :
    (State.ringForward s p f stomp).Kept kq kp := by
  delta State.ringForward
  repeat' first | with_reducible assumption | (intro) | (extract_lets +onlyGivenNames x; clear_value (e : x = _); first | (with_reducible refine let_kept kq kp e ?_ fun _ => ?_) <;> clear e | (with_reducible refine let2_kept kq kp e ?_ fun _ => ?_) <;> clear e | clear e) | (extract_lets +onlyGivenNames x) | with_reducible apply State.setRport_kept | split | simp -zeta only [upd_kept]

theorem State.noteBeacon_kept {s : State} (f : HFrame) (hk : s.Kept kq kp) :
    (State.noteBeacon s f).Kept kq kp := by
  delta State.noteBeacon
  repeat' first | with_reducible assumption | (intro) | (extract_lets +onlyGivenNames x; clear_value (e : x = _); first | (with_reducible refine let_kept kq kp e ?_ fun _ => ?_) <;> clear e | (with_reducible refine let2_kept kq kp e ?_ fun _ => ?_) <;> clear e | clear e) | (extract_lets +onlyGivenNames x) | with_reducible apply State.setRing_kept | simp -zeta only [upd_kept]

theorem State.ringHandle_kept {s : State} (p : Nat) (f : HFrame) (crc : CrcState) (hk : s.Kept kq kp) :
    (State.ringHandle s p f crc).Kept kq kp := by
  delta State.ringHandle
  repeat' first | with_reducible assumption | (intro) | (extract_lets +onlyGivenNames x; clear_value (e : x = _); first | (with_reducible refine let_kept kq kp e ?_ fun _ => ?_) <;> clear e | (with_reducible refine let2_kept kq kp e ?_ fun _ => ?_) <;> clear e | have _f : State → _ := x | clear e) | (extract_lets +onlyGivenNames x) | with_reducible apply State.noteBeacon_kept | with_reducible apply State.ringDeliver_kept | with_reducible apply State.rxDrop_kept | with_reducible apply State.count_kept | with_reducible apply State.ringForward_kept | split | (subst_vars; beta_reduce)

theorem State.cutCounted_kept {s : State} (p : Nat) {t : State} (n : Nat) (hk : s.Kept kq kp) (hkt : t.Kept kq kp) :
    (State.cutCounted s p t n).Kept kq kp := by
  delta State.cutCounted
  repeat' first | with_reducible assumption | (extract_lets +onlyGivenNames x; clear_value (e : x = _); first | (with_reducible refine let_kept kq kp e ?_ fun _ => ?_) <;> clear e | (with_reducible refine let2_kept kq kp e ?_ fun _ => ?_) <;> clear e | clear e) | (extract_lets +onlyGivenNames x) | with_reducible apply State.wr_kept | with_reducible apply State.count64_kept

theorem execRingReceive_kept (p : Fin 2) (frame : List Byte) {s : State} (hk : s.Kept kq kp) :
    OutKept kq kp (execRingReceive p frame s) := by
  delta execRingReceive
  repeat' first | with_reducible assumption | (intro) | with_reducible apply next_kept | (extract_lets +onlyGivenNames x; clear_value (e : x = _); first | (with_reducible refine let_kept kq kp e ?_ fun _ => ?_) <;> clear e | (with_reducible refine let2_kept kq kp e ?_ fun _ => ?_) <;> clear e | clear e) | (extract_lets +onlyGivenNames x) | with_reducible apply State.emit_kept | with_reducible apply State.count_kept | with_reducible apply State.setRport_kept | with_reducible apply State.purgeEnds_kept | with_reducible apply State.ringHandle_kept | with_reducible apply State.rxDrop_kept | with_reducible apply State.noteBeacon_kept | with_reducible apply State.ringDeliver_kept | with_reducible apply State.cutCounted_kept | split | simp -zeta only [upd_kept]

theorem execBeaconSend_kept {s : State} (hk : s.Kept kq kp) :
    OutKept kq kp (execBeaconSend s) := by
  delta execBeaconSend
  repeat' first | with_reducible assumption | (intro) | with_reducible apply next_kept | (extract_lets +onlyGivenNames x; clear_value (e : x = _); first | (with_reducible refine let_kept kq kp e ?_ fun _ => ?_) <;> clear e | (with_reducible refine let2_kept kq kp e ?_ fun _ => ?_) <;> clear e | clear e) | (extract_lets +onlyGivenNames x) | with_reducible apply State.sendBeacon_kept | with_reducible apply State.setRing_kept | split | simp -zeta only [upd_kept]

theorem State.membersChanged_kept {s : State} (l : List Member) (hk : s.Kept kq kp) :
    (State.membersChanged s l).Kept kq kp := by
  delta State.membersChanged
  repeat' first | with_reducible assumption | (intro) | (extract_lets +onlyGivenNames x; clear_value (e : x = _); first | (with_reducible refine let_kept kq kp e ?_ fun _ => ?_) <;> clear e | (with_reducible refine let2_kept kq kp e ?_ fun _ => ?_) <;> clear e | clear e) | (extract_lets +onlyGivenNames x) | with_reducible apply State.setRing_kept | with_reducible apply State.wr_kept | with_reducible apply State.setCause_kept | with_reducible apply State.report_kept | with_reducible apply State.elect_kept | with_reducible apply State.recomputeHorizon_kept | with_reducible apply State.splitFlag_kept | simp -zeta only [upd_kept]

theorem State.startLeave_kept {s : State} (hk : s.Kept kq kp) :
    (State.startLeave s).Kept kq kp := by
  delta State.startLeave
  repeat' first | with_reducible assumption | (intro) | (extract_lets +onlyGivenNames x; clear_value (e : x = _); first | (with_reducible refine let_kept kq kp e ?_ fun _ => ?_) <;> clear e | (with_reducible refine let2_kept kq kp e ?_ fun _ => ?_) <;> clear e | clear e) | (extract_lets +onlyGivenNames x) | with_reducible apply State.sendBeacon_kept | with_reducible apply State.setRing_kept | simp -zeta only [upd_kept]

theorem State.endJoin_kept {s : State} (status : Nat) (resp : List Byte) (hk : s.Kept kq kp) :
    (State.endJoin s status resp).Kept kq kp := by
  delta State.endJoin
  repeat' first | with_reducible assumption | (intro) | (extract_lets +onlyGivenNames x; clear_value (e : x = _); first | (with_reducible refine let_kept kq kp e ?_ fun _ => ?_) <;> clear e | (with_reducible refine let2_kept kq kp e ?_ fun _ => ?_) <;> clear e | clear e) | (extract_lets +onlyGivenNames x) | with_reducible apply State.setRegOwn_kept | with_reducible apply State.horizonFlags_kept | with_reducible apply State.elect_kept | with_reducible apply State.setRing_kept | with_reducible apply State.wake_kept | split | simp -zeta only [upd_kept] | with_reducible apply foldl_kept | with_reducible apply foldl2_kept

theorem State.ridClash_kept {s : State} (serial : Nat) (hk : s.Kept kq kp) :
    (State.ridClash s serial).Kept kq kp := by
  delta State.ridClash
  repeat' first | with_reducible assumption | (intro) | (extract_lets +onlyGivenNames x; clear_value (e : x = _); first | (with_reducible refine let_kept kq kp e ?_ fun _ => ?_) <;> clear e | (with_reducible refine let2_kept kq kp e ?_ fun _ => ?_) <;> clear e | clear e) | (extract_lets +onlyGivenNames x) | with_reducible apply State.setRing_kept | with_reducible apply State.startLeave_kept | with_reducible apply State.setCause_kept | with_reducible apply State.report_kept | split | simp -zeta only [upd_kept]

theorem State.beaconEnds_kept {s : State} (rid : Nat) (mask : Nat) (hk : s.Kept kq kp) :
    (State.beaconEnds s rid mask).Kept kq kp := by
  delta State.beaconEnds
  repeat' first | with_reducible assumption | (intro) | (extract_lets +onlyGivenNames x; clear_value (e : x = _); first | (with_reducible refine let_kept kq kp e ?_ fun _ => ?_) <;> clear e | (with_reducible refine let2_kept kq kp e ?_ fun _ => ?_) <;> clear e | clear e) | (extract_lets +onlyGivenNames x) | with_reducible apply State.addEnd_kept | with_reducible apply State.dropEnd_kept | split | with_reducible apply foldl_kept | with_reducible apply foldl2_kept

theorem execBeacon_kept (p : Fin 2) {s : State} (hk : s.Kept kq kp) :
    OutKept kq kp (execBeacon p s) := by
  delta execBeacon
  repeat' first | with_reducible assumption | (intro) | with_reducible apply next_kept | (extract_lets +onlyGivenNames x; clear_value (e : x = _); first | (with_reducible refine let_kept kq kp e ?_ fun _ => ?_) <;> clear e | (with_reducible refine let2_kept kq kp e ?_ fun _ => ?_) <;> clear e | clear e) | (extract_lets +onlyGivenNames x) | with_reducible apply State.takeRx_kept | with_reducible apply State.purgeEnds_kept | with_reducible apply State.membersChanged_kept | with_reducible apply State.ridClash_kept | with_reducible apply State.beaconEnds_kept | with_reducible apply State.setRing_kept | with_reducible apply State.elect_kept | with_reducible apply State.noteOrder_kept | split | simp -zeta only [upd_kept]

theorem execBeaconLoss_kept (rid : BitVec 16) {s : State} (hk : s.Kept kq kp) :
    OutKept kq kp (execBeaconLoss rid s) := by
  delta execBeaconLoss
  repeat' first | with_reducible assumption | (intro) | with_reducible apply next_kept | (extract_lets +onlyGivenNames x; clear_value (e : x = _); first | (with_reducible refine let_kept kq kp e ?_ fun _ => ?_) <;> clear e | (with_reducible refine let2_kept kq kp e ?_ fun _ => ?_) <;> clear e | clear e) | (extract_lets +onlyGivenNames x) | with_reducible apply State.membersChanged_kept | split | simp -zeta only [upd_kept]

theorem execPdelaySend_kept (p : Fin 2) {s : State} (hk : s.Kept kq kp) :
    OutKept kq kp (execPdelaySend p s) := by
  delta execPdelaySend
  repeat' first | with_reducible assumption | (intro) | with_reducible apply next_kept | (extract_lets +onlyGivenNames x; clear_value (e : x = _); first | (with_reducible refine let_kept kq kp e ?_ fun _ => ?_) <;> clear e | (with_reducible refine let2_kept kq kp e ?_ fun _ => ?_) <;> clear e | clear e) | (extract_lets +onlyGivenNames x) | with_reducible apply State.setRport_kept | with_reducible apply State.ringInsert_kept | split | simp -zeta only [upd_kept]

theorem execPdelayReq_kept (p : Fin 2) {s : State} (hk : s.Kept kq kp) :
    OutKept kq kp (execPdelayReq p s) := by
  delta execPdelayReq
  repeat' first | with_reducible assumption | with_reducible apply next_kept | (extract_lets +onlyGivenNames x; clear_value (e : x = _); first | (with_reducible refine let_kept kq kp e ?_ fun _ => ?_) <;> clear e | (with_reducible refine let2_kept kq kp e ?_ fun _ => ?_) <;> clear e | clear e) | (extract_lets +onlyGivenNames x) | with_reducible apply State.takeRx_kept | with_reducible apply State.ringInsert_kept | split | simp -zeta only [upd_kept]

theorem execPdelayResp_kept (p : Fin 2) {s : State} (hk : s.Kept kq kp) :
    OutKept kq kp (execPdelayResp p s) := by
  delta execPdelayResp
  repeat' first | with_reducible assumption | (intro) | with_reducible apply next_kept | (extract_lets +onlyGivenNames x; clear_value (e : x = _); first | (with_reducible refine let_kept kq kp e ?_ fun _ => ?_) <;> clear e | (with_reducible refine let2_kept kq kp e ?_ fun _ => ?_) <;> clear e | clear e) | (extract_lets +onlyGivenNames x) | with_reducible apply State.takeRx_kept | with_reducible apply State.setRport_kept | with_reducible apply State.wr_kept | with_reducible apply State.recomputeHorizon_kept | split | simp -zeta only [upd_kept]

theorem execSyncSend_kept {s : State} (hk : s.Kept kq kp) :
    OutKept kq kp (execSyncSend s) := by
  delta execSyncSend
  repeat' first | with_reducible assumption | (intro) | with_reducible apply next_kept | (extract_lets +onlyGivenNames x; clear_value (e : x = _); first | (with_reducible refine let_kept kq kp e ?_ fun _ => ?_) <;> clear e | (with_reducible refine let2_kept kq kp e ?_ fun _ => ?_) <;> clear e | have _f : State → _ := x | clear e) | (extract_lets +onlyGivenNames x) | with_reducible apply State.syncSeq_kept | with_reducible apply State.setRing_kept | with_reducible apply State.offerQ_kept | split | simp -zeta only [upd_kept] | (subst_vars; beta_reduce)

theorem State.timeLost_kept {s : State} (hk : s.Kept kq kp) :
    (State.timeLost s).Kept kq kp := by
  delta State.timeLost
  repeat' first | with_reducible assumption | (intro) | (extract_lets +onlyGivenNames x; clear_value (e : x = _); first | (with_reducible refine let_kept kq kp e ?_ fun _ => ?_) <;> clear e | (with_reducible refine let2_kept kq kp e ?_ fun _ => ?_) <;> clear e | clear e) | (extract_lets +onlyGivenNames x) | with_reducible apply State.wr_kept | with_reducible apply State.setRing_kept | with_reducible apply State.retime_kept | simp -zeta only [upd_kept]

theorem execSync_kept (p : Fin 2) {s : State} (hk : s.Kept kq kp) :
    OutKept kq kp (execSync p s) := by
  delta execSync
  repeat' first | with_reducible assumption | (intro) | with_reducible apply next_kept | (extract_lets +onlyGivenNames x; clear_value (e : x = _); first | (with_reducible refine let_kept kq kp e ?_ fun _ => ?_) <;> clear e | (with_reducible refine let2_kept kq kp e ?_ fun _ => ?_) <;> clear e | clear e) | (extract_lets +onlyGivenNames x) | with_reducible apply State.takeRx_kept | with_reducible apply State.timeLost_kept | with_reducible apply State.setRing_kept | with_reducible apply State.wr_kept | with_reducible apply State.offerOffset_kept | with_reducible apply State.retime_kept | split | simp -zeta only [upd_kept]

theorem execBulk_kept (p : Fin 2) {s : State} (hk : s.Kept kq kp) :
    OutKept kq kp (execBulk p s) := by
  delta execBulk
  repeat' first | with_reducible assumption | (intro) | with_reducible apply next_kept | (extract_lets +onlyGivenNames x; clear_value (e : x = _); first | (with_reducible refine let_kept kq kp e ?_ fun _ => ?_) <;> clear e | (with_reducible refine let2_kept kq kp e ?_ fun _ => ?_) <;> clear e | clear e) | (extract_lets +onlyGivenNames x) | with_reducible apply State.setRport_kept | with_reducible apply State.count_kept | with_reducible apply State.rxDrop_kept | with_reducible apply State.setCause_kept | with_reducible apply State.report_kept | with_reducible apply State.memWrite_kept | with_reducible apply State.setRing_kept | split | with_reducible apply getD_kept | simp -zeta only [upd_kept]

theorem execBulkDone_kept (p : Fin 2) {s : State} (hk : s.Kept kq kp) :
    OutKept kq kp (execBulkDone p s) := by
  delta execBulkDone
  repeat' first | with_reducible assumption | (intro) | with_reducible apply next_kept | (extract_lets +onlyGivenNames x; clear_value (e : x = _); first | (with_reducible refine let_kept kq kp e ?_ fun _ => ?_) <;> clear e | (with_reducible refine let2_kept kq kp e ?_ fun _ => ?_) <;> clear e | clear e) | (extract_lets +onlyGivenNames x) | with_reducible apply State.takeRx_kept | with_reducible apply State.setRing_kept | with_reducible apply State.ringControl_kept | split | with_reducible apply getD_kept | simp -zeta only [upd_kept]

theorem State.bulkDones_kept {s : State} (hk : s.Kept kq kp) :
    (State.bulkDones s).Kept kq kp := by
  delta State.bulkDones
  repeat' first | with_reducible assumption | (intro) | (extract_lets +onlyGivenNames x; clear_value (e : x = _); first | (with_reducible refine let_kept kq kp e ?_ fun _ => ?_) <;> clear e | (with_reducible refine let2_kept kq kp e ?_ fun _ => ?_) <;> clear e | clear e) | (extract_lets +onlyGivenNames x) | with_reducible apply State.setRing_kept | with_reducible apply State.ringControl_kept | split | simp -zeta only [upd_kept] | with_reducible apply foldl_kept | with_reducible apply foldl2_kept

theorem State.bulkInsert_kept {s : State} (queue : Nat) (dest : Nat) (xfer : Nat) (srcAddr : Nat) (dstOff : Nat) (bytes : Nat) (hk : s.Kept kq kp) :
    (State.bulkInsert s queue dest xfer srcAddr dstOff bytes).Kept kq kp := by
  delta State.bulkInsert
  repeat' first | with_reducible assumption | (intro) | (extract_lets +onlyGivenNames x; clear_value (e : x = _); first | (with_reducible refine let_kept kq kp e ?_ fun _ => ?_) <;> clear e | (with_reducible refine let2_kept kq kp e ?_ fun _ => ?_) <;> clear e | clear e) | (extract_lets +onlyGivenNames x) | with_reducible apply State.memRead_kept | with_reducible apply State.ringInsert_kept | with_reducible apply foldl_kept | with_reducible apply foldl2_kept

theorem State.bulkSend_kept {s : State} (b : BulkTx) (hk : s.Kept kq kp) :
    (State.bulkSend s b).Kept kq kp := by
  delta State.bulkSend
  repeat' first | with_reducible assumption | (intro) | (extract_lets +onlyGivenNames x; clear_value (e : x = _); first | (with_reducible refine let_kept kq kp e ?_ fun _ => ?_) <;> clear e | (with_reducible refine let2_kept kq kp e ?_ fun _ => ?_) <;> clear e | clear e) | (extract_lets +onlyGivenNames x) | with_reducible apply State.setRing_kept | with_reducible apply State.bulkInsert_kept | with_reducible apply State.bulkDones_kept | split | simp -zeta only [upd_kept]

theorem State.bulkEnd_kept {s : State} (xfer : Nat) (status : Nat) (hk : s.Kept kq kp) :
    (State.bulkEnd s xfer status).Kept kq kp := by
  delta State.bulkEnd
  repeat' first | with_reducible assumption | (intro) | (extract_lets +onlyGivenNames x; clear_value (e : x = _); first | (with_reducible refine let_kept kq kp e ?_ fun _ => ?_) <;> clear e | (with_reducible refine let2_kept kq kp e ?_ fun _ => ?_) <;> clear e | clear e) | (extract_lets +onlyGivenNames x) | with_reducible apply State.setRing_kept | with_reducible apply State.wake_kept | split | simp -zeta only [upd_kept]

theorem State.bulkRetry_kept {s : State} (b : BulkTx) (hk : s.Kept kq kp) :
    (State.bulkRetry s b).Kept kq kp := by
  delta State.bulkRetry
  repeat' first | with_reducible assumption | with_reducible apply State.bulkSend_kept | with_reducible apply State.bulkEnd_kept | split

theorem execBulkAck_kept (p : Fin 2) {s : State} (hk : s.Kept kq kp) :
    OutKept kq kp (execBulkAck p s) := by
  delta execBulkAck
  repeat' first | with_reducible assumption | (intro) | with_reducible apply next_kept | (extract_lets +onlyGivenNames x; clear_value (e : x = _); first | (with_reducible refine let_kept kq kp e ?_ fun _ => ?_) <;> clear e | (with_reducible refine let2_kept kq kp e ?_ fun _ => ?_) <;> clear e | clear e) | (extract_lets +onlyGivenNames x) | with_reducible apply State.takeRx_kept | with_reducible apply State.bulkEnd_kept | with_reducible apply State.bulkRetry_kept | split | simp -zeta only [upd_kept]

theorem execBulkAckTimeout_kept {s : State} (hk : s.Kept kq kp) :
    OutKept kq kp (execBulkAckTimeout s) := by
  delta execBulkAckTimeout
  repeat' first | with_reducible assumption | (intro) | with_reducible apply next_kept | (extract_lets +onlyGivenNames x; clear_value (e : x = _); first | (with_reducible refine let_kept kq kp e ?_ fun _ => ?_) <;> clear e | (with_reducible refine let2_kept kq kp e ?_ fun _ => ?_) <;> clear e | clear e) | (extract_lets +onlyGivenNames x) | with_reducible apply State.bulkRetry_kept | split | simp -zeta only [upd_kept]

theorem State.relayFrame_kept {s : State} (h : Nat) (frame : Nat) (srcAddr : Nat) (bytes : Nat) (hk : s.Kept kq kp) :
    (State.relayFrame s h frame srcAddr bytes).Kept kq kp := by
  delta State.relayFrame
  repeat' first | with_reducible assumption | (intro) | (extract_lets +onlyGivenNames x; clear_value (e : x = _); first | (with_reducible refine let_kept kq kp e ?_ fun _ => ?_) <;> clear e | (with_reducible refine let2_kept kq kp e ?_ fun _ => ?_) <;> clear e | clear e) | (extract_lets +onlyGivenNames x) | with_reducible apply State.count_kept | with_reducible apply State.setRing_kept | with_reducible apply State.bulkInsert_kept | split | simp -zeta only [upd_kept]

theorem State.turnQueues_kept {s : State} (p : Nat) (hk : s.Kept kq kp) :
    (State.turnQueues s p).Kept kq kp := by
  delta State.turnQueues
  repeat' first | with_reducible assumption | (intro) | (extract_lets +onlyGivenNames x; clear_value (e : x = _); first | (with_reducible refine let_kept kq kp e ?_ fun _ => ?_) <;> clear e | (with_reducible refine let2_kept kq kp e ?_ fun _ => ?_) <;> clear e | clear e) | (extract_lets +onlyGivenNames x) | with_reducible apply State.setRport_kept | with_reducible apply State.setRqueue_kept | simp -zeta only [upd_kept] | with_reducible apply foldl_kept | with_reducible apply foldl2_kept

theorem execRingLockLoss_kept (p : Fin 2) {s : State} (hk : s.Kept kq kp) :
    OutKept kq kp (execRingLockLoss p s) := by
  delta execRingLockLoss
  repeat' first | with_reducible assumption | (intro) | with_reducible apply next_kept | (extract_lets +onlyGivenNames x; clear_value (e : x = _); first | (with_reducible refine let_kept kq kp e ?_ fun _ => ?_) <;> clear e | (with_reducible refine let2_kept kq kp e ?_ fun _ => ?_) <;> clear e | clear e) | (extract_lets +onlyGivenNames x) | with_reducible apply State.wr_kept | with_reducible apply State.count_kept | with_reducible apply State.setCause_kept | with_reducible apply State.setRport_kept | split | simp -zeta only [upd_kept]

theorem State.sendRf_kept {s : State} (p : Nat) (on : Bool) (hk : s.Kept kq kp) :
    (State.sendRf s p on).Kept kq kp := by
  delta State.sendRf
  repeat' first | with_reducible assumption | (intro) | (extract_lets +onlyGivenNames x; clear_value (e : x = _); first | (with_reducible refine let_kept kq kp e ?_ fun _ => ?_) <;> clear e | (with_reducible refine let2_kept kq kp e ?_ fun _ => ?_) <;> clear e | clear e) | (extract_lets +onlyGivenNames x) | with_reducible apply State.emit_kept | with_reducible apply State.setRport_kept | split | simp -zeta only [upd_kept]

theorem State.codeword_kept {s : State} (p : Nat) (hk : s.Kept kq kp) :
    (State.codeword s p).Kept kq kp := by
  delta State.codeword
  repeat' first | with_reducible assumption | (intro) | (extract_lets +onlyGivenNames x; clear_value (e : x = _); first | (with_reducible refine let_kept kq kp e ?_ fun _ => ?_) <;> clear e | (with_reducible refine let2_kept kq kp e ?_ fun _ => ?_) <;> clear e | clear e) | (extract_lets +onlyGivenNames x) | with_reducible apply State.count_kept | with_reducible apply State.setRport_kept | simp -zeta only [upd_kept]

theorem State.portFaults_kept {s : State} (p : Nat) (own : Bool) (hk : s.Kept kq kp) :
    (State.portFaults s p own).Kept kq kp := by
  delta State.portFaults
  repeat' first | with_reducible assumption | (intro) | (extract_lets +onlyGivenNames x; clear_value (e : x = _); first | (with_reducible refine let_kept kq kp e ?_ fun _ => ?_) <;> clear e | (with_reducible refine let2_kept kq kp e ?_ fun _ => ?_) <;> clear e | clear e) | (extract_lets +onlyGivenNames x) | with_reducible apply State.setRport_kept | with_reducible apply State.sendRf_kept | with_reducible apply State.wr_kept | with_reducible apply State.turnQueues_kept | with_reducible apply State.setCause_kept | with_reducible apply State.report_kept | with_reducible apply State.addEnd_kept | with_reducible apply State.ringInsert_kept | split | simp -zeta only [upd_kept]

theorem execRingLockRegain_kept (p : Fin 2) {s : State} (hk : s.Kept kq kp) :
    OutKept kq kp (execRingLockRegain p s) := by
  delta execRingLockRegain
  repeat' first | with_reducible assumption | (intro) | with_reducible apply next_kept | (extract_lets +onlyGivenNames x; clear_value (e : x = _); first | (with_reducible refine let_kept kq kp e ?_ fun _ => ?_) <;> clear e | (with_reducible refine let2_kept kq kp e ?_ fun _ => ?_) <;> clear e | clear e) | (extract_lets +onlyGivenNames x) | with_reducible apply State.portFaults_kept | with_reducible apply State.wr_kept | with_reducible apply State.setCause_kept | with_reducible apply State.setRport_kept | split | simp -zeta only [upd_kept]

theorem execRingFault_kept (f : PortFault) {s : State} (hk : s.Kept kq kp) :
    OutKept kq kp (execRingFault f s) := by
  delta execRingFault
  repeat' first | with_reducible assumption | (intro) | with_reducible apply next_kept | (extract_lets +onlyGivenNames x; clear_value (e : x = _); first | (with_reducible refine let_kept kq kp e ?_ fun _ => ?_) <;> clear e | (with_reducible refine let2_kept kq kp e ?_ fun _ => ?_) <;> clear e | clear e) | (extract_lets +onlyGivenNames x) | with_reducible apply State.codeword_kept | with_reducible apply State.setRport_kept | with_reducible apply State.portFaults_kept | split | simp -zeta only [upd_kept]

theorem State.announceUnwrap_kept {s : State} (p : Nat) (t : Nat) (hk : s.Kept kq kp) :
    (State.announceUnwrap s p t).Kept kq kp := by
  delta State.announceUnwrap
  repeat' first | with_reducible assumption | (intro) | (extract_lets +onlyGivenNames x; clear_value (e : x = _); first | (with_reducible refine let_kept kq kp e ?_ fun _ => ?_) <;> clear e | (with_reducible refine let2_kept kq kp e ?_ fun _ => ?_) <;> clear e | clear e) | (extract_lets +onlyGivenNames x) | with_reducible apply State.setRport_kept | with_reducible apply State.ringInsert_kept | simp -zeta only [upd_kept]

theorem execPortClean_kept (p : Fin 2) {s : State} (hk : s.Kept kq kp) :
    OutKept kq kp (execPortClean p s) := by
  delta execPortClean
  repeat' first | with_reducible assumption | (intro) | with_reducible apply next_kept | (extract_lets +onlyGivenNames x; clear_value (e : x = _); first | (with_reducible refine let_kept kq kp e ?_ fun _ => ?_) <;> clear e | (with_reducible refine let2_kept kq kp e ?_ fun _ => ?_) <;> clear e | clear e) | (extract_lets +onlyGivenNames x) | with_reducible apply State.sendRf_kept | with_reducible apply State.setRport_kept | with_reducible apply State.ringInsert_kept | with_reducible apply State.announceUnwrap_kept | split | simp -zeta only [upd_kept]

theorem execWrapNotice_kept (p : Fin 2) {s : State} (hk : s.Kept kq kp) :
    OutKept kq kp (execWrapNotice p s) := by
  delta execWrapNotice
  repeat' first | with_reducible assumption | (intro) | with_reducible apply next_kept | (extract_lets +onlyGivenNames x; clear_value (e : x = _); first | (with_reducible refine let_kept kq kp e ?_ fun _ => ?_) <;> clear e | (with_reducible refine let2_kept kq kp e ?_ fun _ => ?_) <;> clear e | clear e) | (extract_lets +onlyGivenNames x) | with_reducible apply State.takeRx_kept | with_reducible apply State.purgeEnds_kept | with_reducible apply State.setRing_kept | with_reducible apply State.addEnd_kept | with_reducible apply State.setRport_kept | with_reducible apply State.sendRf_kept | with_reducible apply State.announceUnwrap_kept | split | simp -zeta only [upd_kept]

theorem State.returnQueues_kept {s : State} (hk : s.Kept kq kp) :
    (State.returnQueues s).Kept kq kp := by
  delta State.returnQueues
  repeat' first | with_reducible assumption | (intro) | (extract_lets +onlyGivenNames x; clear_value (e : x = _); first | (with_reducible refine let_kept kq kp e ?_ fun _ => ?_) <;> clear e | (with_reducible refine let2_kept kq kp e ?_ fun _ => ?_) <;> clear e | clear e) | (extract_lets +onlyGivenNames x) | with_reducible apply State.setRqueue_kept | with_reducible apply foldl_kept | with_reducible apply foldl2_kept

theorem execUnwrap_kept (p : Fin 2) {s : State} (hk : s.Kept kq kp) :
    OutKept kq kp (execUnwrap p s) := by
  delta execUnwrap
  repeat' first | with_reducible assumption | (intro) | with_reducible apply next_kept | (extract_lets +onlyGivenNames x; clear_value (e : x = _); first | (with_reducible refine let_kept kq kp e ?_ fun _ => ?_) <;> clear e | (with_reducible refine let2_kept kq kp e ?_ fun _ => ?_) <;> clear e | clear e) | (extract_lets +onlyGivenNames x) | with_reducible apply State.setRport_kept | with_reducible apply State.sendRf_kept | with_reducible apply State.wr_kept | with_reducible apply State.returnQueues_kept | with_reducible apply State.dropEnd_kept | with_reducible apply State.setCause_kept | with_reducible apply State.report_kept | split | simp -zeta only [upd_kept]

end Sys2Proof.Machine
end

