-- ==== Sys2Proof/Laws/KeptShroud.lean ====
section
/-! SUPPORT. The operations of Machine/Shroud.lean keep the queue, the part and the canonical form of the sparse stores. -/

namespace Sys2Proof.Machine

set_option linter.unusedTactic false
set_option linter.unreachableTactic false
set_option linter.tactic.unusedName false

variable {kq : List Instr} {kp : Part}

theorem State.setShroud_kept {s : State} (f : Shroud → Shroud) (hk : s.Kept kq kp) :
    (State.setShroud s f).Kept kq kp := by
  delta State.setShroud
  repeat' first | with_reducible assumption | (extract_lets +onlyGivenNames x; clear_value (e : x = _); first | (with_reducible refine let_kept kq kp e ?_ fun _ => ?_) <;> clear e | (with_reducible refine let2_kept kq kp e ?_ fun _ => ?_) <;> clear e | clear e) | (extract_lets +onlyGivenNames x) | simp -zeta only [upd_kept]

theorem State.shroudTo_kept {s : State} (st : Nat) (ok : Bool) (path : Nat) (hk : s.Kept kq kp) :
    (State.shroudTo s st ok path).Kept kq kp := by
  delta State.shroudTo
  repeat' first | with_reducible assumption | (intro) | (extract_lets +onlyGivenNames x; clear_value (e : x = _); first | (with_reducible refine let_kept kq kp e ?_ fun _ => ?_) <;> clear e | (with_reducible refine let2_kept kq kp e ?_ fun _ => ?_) <;> clear e | clear e) | (extract_lets +onlyGivenNames x) | with_reducible apply State.wr_kept | with_reducible apply State.setShroud_kept | simp -zeta only [upd_kept]

theorem State.switchGap_kept {s : State} (hk : s.Kept kq kp) :
    (State.switchGap s).Kept kq kp := by
  delta State.switchGap
  repeat' first | with_reducible assumption | (extract_lets +onlyGivenNames x; clear_value (e : x = _); first | (with_reducible refine let_kept kq kp e ?_ fun _ => ?_) <;> clear e | (with_reducible refine let2_kept kq kp e ?_ fun _ => ?_) <;> clear e | clear e) | (extract_lets +onlyGivenNames x) | with_reducible apply State.freeNat_kept | with_reducible apply State.wr_kept

theorem State.leaveDone_kept {s : State} (hk : s.Kept kq kp) :
    (State.leaveDone s).Kept kq kp := by
  delta State.leaveDone
  repeat' first | with_reducible assumption | (intro) | with_reducible apply State.wake_kept | split

theorem State.dropNotices_kept {s : State} (hk : s.Kept kq kp) :
    (State.dropNotices s).Kept kq kp := by
  delta State.dropNotices
  repeat' first | with_reducible assumption | (intro) | with_reducible apply State.setRqueue_kept

theorem State.ringLost_kept {s : State} (hk : s.Kept kq kp) :
    (State.ringLost s).Kept kq kp := by
  delta State.ringLost
  repeat' first | with_reducible assumption | (intro) | (extract_lets +onlyGivenNames x; clear_value (e : x = _); first | (with_reducible refine let_kept kq kp e ?_ fun _ => ?_) <;> clear e | (with_reducible refine let2_kept kq kp e ?_ fun _ => ?_) <;> clear e | clear e) | (extract_lets +onlyGivenNames x) | with_reducible apply State.rxDrop_kept | with_reducible apply State.sendRf_kept | with_reducible apply State.dropEnd_kept | with_reducible apply State.returnQueues_kept | with_reducible apply State.dropNotices_kept | with_reducible apply State.setRing_kept | with_reducible apply State.wr_kept | with_reducible apply State.endJoin_kept | with_reducible apply State.leaveDone_kept | with_reducible apply State.elect_kept | with_reducible apply State.recomputeHorizon_kept | split | with_reducible apply getD_kept | simp -zeta only [upd_kept] | with_reducible apply foldl_kept | with_reducible apply foldl2_kept

theorem State.reportTakeover_kept {s : State} (hk : s.Kept kq kp) :
    (State.reportTakeover s).Kept kq kp := by
  delta State.reportTakeover
  repeat' first | with_reducible assumption | (intro) | (extract_lets +onlyGivenNames x; clear_value (e : x = _); first | (with_reducible refine let_kept kq kp e ?_ fun _ => ?_) <;> clear e | (with_reducible refine let2_kept kq kp e ?_ fun _ => ?_) <;> clear e | clear e) | (extract_lets +onlyGivenNames x) | with_reducible apply State.setShroud_kept | with_reducible apply State.setCause_kept | with_reducible apply State.report_kept | split | simp -zeta only [upd_kept]

theorem State.shroudTakeover_kept {s : State} (cause : Nat) (hk : s.Kept kq kp) :
    (State.shroudTakeover s cause).Kept kq kp := by
  delta State.shroudTakeover
  repeat' first | with_reducible assumption | (intro) | (extract_lets +onlyGivenNames x; clear_value (e : x = _); first | (with_reducible refine let_kept kq kp e ?_ fun _ => ?_) <;> clear e | (with_reducible refine let2_kept kq kp e ?_ fun _ => ?_) <;> clear e | clear e) | (extract_lets +onlyGivenNames x) | with_reducible apply State.wr_kept | with_reducible apply State.count_kept | with_reducible apply State.shroudTo_kept | with_reducible apply State.switchGap_kept | with_reducible apply State.setShroud_kept | with_reducible apply State.ringLost_kept | with_reducible apply State.reportTakeover_kept | split | simp -zeta only [upd_kept]

theorem execShroudHeartbeat_kept {s : State} (hk : s.Kept kq kp) :
    OutKept kq kp (execShroudHeartbeat s) := by
  delta execShroudHeartbeat
  repeat' first | with_reducible assumption | (intro) | with_reducible apply next_kept | (extract_lets +onlyGivenNames x; clear_value (e : x = _); first | (with_reducible refine let_kept kq kp e ?_ fun _ => ?_) <;> clear e | (with_reducible refine let2_kept kq kp e ?_ fun _ => ?_) <;> clear e | clear e) | (extract_lets +onlyGivenNames x) | with_reducible apply State.shroudTakeover_kept | with_reducible apply State.setShroud_kept | split | simp -zeta only [upd_kept]

theorem execShroudHbTimeout_kept {s : State} (hk : s.Kept kq kp) :
    OutKept kq kp (execShroudHbTimeout s) := by
  delta execShroudHbTimeout
  repeat' first | with_reducible assumption | with_reducible apply next_kept | with_reducible apply State.shroudTakeover_kept | split

theorem State.shroudThrough_kept {s : State} (hk : s.Kept kq kp) :
    (State.shroudThrough s).Kept kq kp := by
  delta State.shroudThrough
  repeat' first | with_reducible assumption | with_reducible apply State.shroudTo_kept | with_reducible apply State.wr_kept | with_reducible apply State.leaveDone_kept

theorem State.bypassUpdate_kept {s : State} (hk : s.Kept kq kp) :
    (State.bypassUpdate s).Kept kq kp := by
  delta State.bypassUpdate
  repeat' first | with_reducible assumption | (extract_lets +onlyGivenNames x; clear_value (e : x = _); first | (with_reducible refine let_kept kq kp e ?_ fun _ => ?_) <;> clear e | (with_reducible refine let2_kept kq kp e ?_ fun _ => ?_) <;> clear e | clear e) | (extract_lets +onlyGivenNames x) | with_reducible apply State.shroudTo_kept | with_reducible apply State.ringLost_kept | with_reducible apply State.shroudThrough_kept | split

theorem execShroudFault_kept {s : State} (hk : s.Kept kq kp) :
    OutKept kq kp (execShroudFault s) := by
  delta execShroudFault
  repeat' first | with_reducible assumption | (intro) | with_reducible apply next_kept | (extract_lets +onlyGivenNames x; clear_value (e : x = _); first | (with_reducible refine let_kept kq kp e ?_ fun _ => ?_) <;> clear e | (with_reducible refine let2_kept kq kp e ?_ fun _ => ?_) <;> clear e | clear e) | (extract_lets +onlyGivenNames x) | with_reducible apply State.shroudTo_kept | with_reducible apply State.setShroud_kept | with_reducible apply State.freeNat_kept | with_reducible apply State.wr_kept | split | simp -zeta only [upd_kept]

theorem execShroudPorEnd_kept {s : State} (hk : s.Kept kq kp) :
    OutKept kq kp (execShroudPorEnd s) := by
  delta execShroudPorEnd
  repeat' first | with_reducible assumption | with_reducible apply next_kept | with_reducible apply State.shroudThrough_kept | with_reducible apply State.bypassUpdate_kept | split

theorem State.shdReset_kept {s : State} (hk : s.Kept kq kp) :
    (State.shdReset s).Kept kq kp := by
  exact ⟨hk.1, hk.2, Sparse.filter_wf _ hk.3, hk.4, hk.5, hk.6, hk.7⟩

theorem execAuxRailChange_kept (vaux : Bool) (vaux18 : Bool) {s : State} (hk : s.Kept kq kp) :
    OutKept kq kp (execAuxRailChange vaux vaux18 s) := by
  delta execAuxRailChange
  repeat' first | with_reducible assumption | (intro) | with_reducible apply next_kept | (extract_lets +onlyGivenNames x; clear_value (e : x = _); first | (with_reducible refine let_kept kq kp e ?_ fun _ => ?_) <;> clear e | (with_reducible refine let2_kept kq kp e ?_ fun _ => ?_) <;> clear e | clear e) | (extract_lets +onlyGivenNames x) | with_reducible apply State.setShroud_kept | with_reducible apply State.shdReset_kept | with_reducible apply State.shroudTo_kept | with_reducible apply State.ringLost_kept | split | simp -zeta only [upd_kept]

theorem execBoundaryScan_kept (on : Bool) {s : State} (hk : s.Kept kq kp) :
    OutKept kq kp (execBoundaryScan on s) := by
  delta execBoundaryScan
  repeat' first | with_reducible assumption | (intro) | with_reducible apply next_kept | (extract_lets +onlyGivenNames x; clear_value (e : x = _); first | (with_reducible refine let_kept kq kp e ?_ fun _ => ?_) <;> clear e | (with_reducible refine let2_kept kq kp e ?_ fun _ => ?_) <;> clear e | clear e) | (extract_lets +onlyGivenNames x) | with_reducible apply State.setShroud_kept | with_reducible apply State.bypassUpdate_kept | simp -zeta only [upd_kept]

theorem State.setJoin_kept {s : State} (f : Join → Join) (hk : s.Kept kq kp) :
    (State.setJoin s f).Kept kq kp := by
  delta State.setJoin
  repeat' first | with_reducible assumption | (intro) | (extract_lets +onlyGivenNames x; clear_value (e : x = _); first | (with_reducible refine let_kept kq kp e ?_ fun _ => ?_) <;> clear e | (with_reducible refine let2_kept kq kp e ?_ fun _ => ?_) <;> clear e | clear e) | (extract_lets +onlyGivenNames x) | with_reducible apply State.setRing_kept | simp -zeta only [upd_kept]

theorem State.joinFails_kept {s : State} (status : Nat) (clash : Nat) (hk : s.Kept kq kp) :
    (State.joinFails s status clash).Kept kq kp := by
  delta State.joinFails
  repeat' first | with_reducible assumption | with_reducible apply State.shroudThrough_kept | with_reducible apply State.endJoin_kept

theorem State.linkRise_kept {s : State} (p : Nat) (hk : s.Kept kq kp) :
    (State.linkRise s p).Kept kq kp := by
  delta State.linkRise
  repeat' first | with_reducible assumption | with_reducible apply State.wr_kept | with_reducible apply State.setCause_kept | split

theorem execHandbackLock_kept {s : State} (hk : s.Kept kq kp) :
    OutKept kq kp (execHandbackLock s) := by
  delta execHandbackLock
  repeat' first | with_reducible assumption | (intro) | with_reducible apply next_kept | (extract_lets +onlyGivenNames x; clear_value (e : x = _); first | (with_reducible refine let_kept kq kp e ?_ fun _ => ?_) <;> clear e | (with_reducible refine let2_kept kq kp e ?_ fun _ => ?_) <;> clear e | clear e) | (extract_lets +onlyGivenNames x) | with_reducible apply State.linkRise_kept | with_reducible apply State.wr_kept | with_reducible apply State.setRing_kept | with_reducible apply State.setJoin_kept | split | simp -zeta only [upd_kept] | with_reducible apply foldl_kept | with_reducible apply foldl2_kept

theorem State.joinMatch_kept {s : State} (hk : s.Kept kq kp) :
    (State.joinMatch s).Kept kq kp := by
  delta State.joinMatch
  repeat' first | with_reducible assumption | (intro) | (extract_lets +onlyGivenNames x; clear_value (e : x = _); first | (with_reducible refine let_kept kq kp e ?_ fun _ => ?_) <;> clear e | (with_reducible refine let2_kept kq kp e ?_ fun _ => ?_) <;> clear e | clear e) | (extract_lets +onlyGivenNames x) | with_reducible apply State.setJoin_kept | split | simp -zeta only [upd_kept]

theorem execHandbackListenEnd_kept {s : State} (hk : s.Kept kq kp) :
    OutKept kq kp (execHandbackListenEnd s) := by
  delta execHandbackListenEnd
  repeat' first | with_reducible assumption | (intro) | with_reducible apply next_kept | (extract_lets +onlyGivenNames x; clear_value (e : x = _); first | (with_reducible refine let_kept kq kp e ?_ fun _ => ?_) <;> clear e | (with_reducible refine let2_kept kq kp e ?_ fun _ => ?_) <;> clear e | clear e) | (extract_lets +onlyGivenNames x) | with_reducible apply State.joinFails_kept | with_reducible apply State.setJoin_kept | with_reducible apply State.joinMatch_kept | split | simp -zeta only [upd_kept]

theorem execHandbackCheckEnd_kept (clean : Bool) {s : State} (hk : s.Kept kq kp) :
    OutKept kq kp (execHandbackCheckEnd clean s) := by
  delta execHandbackCheckEnd
  repeat' first | with_reducible assumption | (intro) | with_reducible apply next_kept | (extract_lets +onlyGivenNames x; clear_value (e : x = _); first | (with_reducible refine let_kept kq kp e ?_ fun _ => ?_) <;> clear e | (with_reducible refine let2_kept kq kp e ?_ fun _ => ?_) <;> clear e | clear e) | (extract_lets +onlyGivenNames x) | with_reducible apply State.setJoin_kept | with_reducible apply State.joinMatch_kept | with_reducible apply State.joinFails_kept | split | simp -zeta only [upd_kept]

theorem execHandbackMatchEnd_kept (p : Fin 2) {s : State} (hk : s.Kept kq kp) :
    OutKept kq kp (execHandbackMatchEnd p s) := by
  delta execHandbackMatchEnd
  repeat' first | with_reducible assumption | (intro) | with_reducible apply next_kept | (extract_lets +onlyGivenNames x; clear_value (e : x = _); first | (with_reducible refine let_kept kq kp e ?_ fun _ => ?_) <;> clear e | (with_reducible refine let2_kept kq kp e ?_ fun _ => ?_) <;> clear e | clear e) | (extract_lets +onlyGivenNames x) | with_reducible apply State.setJoin_kept | split | simp -zeta only [upd_kept]

theorem State.becomeMember_kept {s : State} (rid : Nat) (hk : s.Kept kq kp) :
    (State.becomeMember s rid).Kept kq kp := by
  delta State.becomeMember
  repeat' first | with_reducible assumption | (intro) | (extract_lets +onlyGivenNames x; clear_value (e : x = _); first | (with_reducible refine let_kept kq kp e ?_ fun _ => ?_) <;> clear e | (with_reducible refine let2_kept kq kp e ?_ fun _ => ?_) <;> clear e | clear e) | (extract_lets +onlyGivenNames x) | with_reducible apply State.shroudTo_kept | with_reducible apply State.switchGap_kept | with_reducible apply State.setShroud_kept | with_reducible apply State.wr_kept | with_reducible apply State.sendBeacon_kept | with_reducible apply State.setRing_kept | with_reducible apply State.elect_kept | with_reducible apply State.recomputeHorizon_kept | simp -zeta only [upd_kept]

theorem execHandbackSwitch_kept (p : Fin 2) {s : State} (hk : s.Kept kq kp) :
    OutKept kq kp (execHandbackSwitch p s) := by
  delta execHandbackSwitch
  repeat' first | with_reducible assumption | (intro) | with_reducible apply next_kept | (extract_lets +onlyGivenNames x; clear_value (e : x = _); first | (with_reducible refine let_kept kq kp e ?_ fun _ => ?_) <;> clear e | (with_reducible refine let2_kept kq kp e ?_ fun _ => ?_) <;> clear e | clear e) | (extract_lets +onlyGivenNames x) | with_reducible apply State.setJoin_kept | with_reducible apply State.becomeMember_kept | split | simp -zeta only [upd_kept]

theorem execJoinComplete_kept {s : State} (hk : s.Kept kq kp) :
    OutKept kq kp (execJoinComplete s) := by
  delta execJoinComplete
  repeat' first | with_reducible assumption | with_reducible apply next_kept | (extract_lets +onlyGivenNames x; clear_value (e : x = _); first | (with_reducible refine let_kept kq kp e ?_ fun _ => ?_) <;> clear e | (with_reducible refine let2_kept kq kp e ?_ fun _ => ?_) <;> clear e | clear e) | (extract_lets +onlyGivenNames x) | with_reducible apply State.recomputeHorizon_kept | with_reducible apply State.endJoin_kept | split | simp -zeta only [upd_kept]

theorem execLeaveSwitch_kept {s : State} (hk : s.Kept kq kp) :
    OutKept kq kp (execLeaveSwitch s) := by
  delta execLeaveSwitch
  repeat' first | with_reducible assumption | (intro) | with_reducible apply next_kept | (extract_lets +onlyGivenNames x; clear_value (e : x = _); first | (with_reducible refine let_kept kq kp e ?_ fun _ => ?_) <;> clear e | (with_reducible refine let2_kept kq kp e ?_ fun _ => ?_) <;> clear e | clear e) | (extract_lets +onlyGivenNames x) | with_reducible apply State.shroudThrough_kept | with_reducible apply State.switchGap_kept | with_reducible apply State.ringLost_kept | split

end Sys2Proof.Machine
end

