-- ==== Sys2Proof/Laws/KeptRingCmd.lean ====
section
/-! SUPPORT. The operations of Machine/RingCmd.lean keep the queue, the part and the canonical form of the sparse stores. -/

namespace Sys2Proof.Machine

set_option linter.unusedTactic false
set_option linter.unreachableTactic false
set_option linter.tactic.unusedName false

variable {kq : List Instr} {kp : Part}

theorem State.joinParams_kept {s : State} (d : List Byte) (hk : s.Kept kq kp) :
    (State.joinParams s d).Kept kq kp := by
  delta State.joinParams
  repeat' first | with_reducible assumption | (extract_lets +onlyGivenNames x; clear_value (e : x = _); first | (with_reducible refine let_kept kq kp e ?_ fun _ => ?_) <;> clear e | (with_reducible refine let2_kept kq kp e ?_ fun _ => ?_) <;> clear e | clear e) | (extract_lets +onlyGivenNames x) | with_reducible apply State.commandCovers_kept | with_reducible apply State.wr_kept | with_reducible apply State.horizonFlags_kept | with_reducible apply State.elect_kept

theorem execRingJoin_kept {s : State} (hk : s.Kept kq kp) :
    OutKept kq kp (execRingJoin s) := by
  delta execRingJoin
  repeat' first | with_reducible assumption | (intro) | with_reducible apply next_kept | (extract_lets +onlyGivenNames x; clear_value (e : x = _); first | (with_reducible refine let_kept kq kp e ?_ fun _ => ?_) <;> clear e | (with_reducible refine let2_kept kq kp e ?_ fun _ => ?_) <;> clear e | clear e) | (extract_lets +onlyGivenNames x) | with_reducible apply State.serve_kept | with_reducible apply State.fail_kept | with_reducible apply State.joinParams_kept | with_reducible apply State.finish_kept | with_reducible apply State.waitFor_kept | with_reducible apply State.take_kept | with_reducible apply State.wr_kept | with_reducible apply State.setRing_kept | split | simp -zeta only [upd_kept]

theorem execRingLeave_kept {s : State} (hk : s.Kept kq kp) :
    OutKept kq kp (execRingLeave s) := by
  delta execRingLeave
  repeat' first | with_reducible assumption | (intro) | with_reducible apply next_kept | with_reducible apply State.serve_kept | with_reducible apply State.startLeave_kept | with_reducible apply State.waitFor_kept | with_reducible apply State.fail_kept | with_reducible apply State.ok_kept | split

theorem execRingMembers_kept {s : State} (hk : s.Kept kq kp) :
    OutKept kq kp (execRingMembers s) := by
  delta execRingMembers
  repeat' first | with_reducible assumption | (intro) | with_reducible apply next_kept | (extract_lets +onlyGivenNames x; clear_value (e : x = _); first | (with_reducible refine let_kept kq kp e ?_ fun _ => ?_) <;> clear e | (with_reducible refine let2_kept kq kp e ?_ fun _ => ?_) <;> clear e | clear e) | (extract_lets +onlyGivenNames x) | with_reducible apply State.serve_kept | with_reducible apply State.fail_kept | with_reducible apply State.take_kept | with_reducible apply State.fwWrite_kept | with_reducible apply State.finish_kept | split

theorem execRingCopy_kept {s : State} (hk : s.Kept kq kp) :
    OutKept kq kp (execRingCopy s) := by
  delta execRingCopy
  repeat' first | with_reducible assumption | (intro) | with_reducible apply next_kept | (extract_lets +onlyGivenNames x; clear_value (e : x = _); first | (with_reducible refine let_kept kq kp e ?_ fun _ => ?_) <;> clear e | (with_reducible refine let2_kept kq kp e ?_ fun _ => ?_) <;> clear e | have _f : State → _ := x | clear e) | (extract_lets +onlyGivenNames x) | with_reducible apply State.serve_kept | with_reducible apply State.take_kept | with_reducible apply State.bulkSend_kept | with_reducible apply State.waitFor_kept | with_reducible apply State.fail_kept | with_reducible apply State.setRing_kept | split | simp -zeta only [upd_kept] | (subst_vars; beta_reduce)

theorem execRingWbRelay_kept {s : State} (hk : s.Kept kq kp) :
    OutKept kq kp (execRingWbRelay s) := by
  delta execRingWbRelay
  repeat' first | with_reducible assumption | (intro) | with_reducible apply next_kept | (extract_lets +onlyGivenNames x; clear_value (e : x = _); first | (with_reducible refine let_kept kq kp e ?_ fun _ => ?_) <;> clear e | (with_reducible refine let2_kept kq kp e ?_ fun _ => ?_) <;> clear e | clear e) | (extract_lets +onlyGivenNames x) | with_reducible apply State.serve_kept | with_reducible apply State.fail_kept | with_reducible apply State.setRing_kept | with_reducible apply State.ok_kept | split | simp -zeta only [upd_kept]

theorem State.liftQueues_kept {s : State} (k : Nat) (hk : s.Kept kq kp) :
    (State.liftQueues s k).Kept kq kp := by
  delta State.liftQueues
  repeat' first | with_reducible assumption | (intro) | (extract_lets +onlyGivenNames x; clear_value (e : x = _); first | (with_reducible refine let_kept kq kp e ?_ fun _ => ?_) <;> clear e | (with_reducible refine let2_kept kq kp e ?_ fun _ => ?_) <;> clear e | clear e) | (extract_lets +onlyGivenNames x) | with_reducible apply State.setRing_kept | simp -zeta only [upd_kept]

theorem State.placeRingQueue_kept {s : State} (p : Nat) (d : List Byte) (q : Fin 7) (hk : s.Kept kq kp) :
    OptKept kq kp (State.placeRingQueue s p d q) := by
  delta State.placeRingQueue
  repeat' first | with_reducible assumption | (intro) | with_reducible apply some_kept | with_reducible apply some2_kept | with_reducible apply none_kept | with_reducible apply none2_kept | with_reducible apply map_kept | with_reducible apply map2_kept | with_reducible apply bind_kept | with_reducible apply bind2_kept | (rename_i e; (with_reducible refine of_opt2 kq kp e ?_ fun _ => ?_) <;> clear e) | (extract_lets +onlyGivenNames x; clear_value (e : x = _); first | (with_reducible refine let_kept kq kp e ?_ fun _ => ?_) <;> clear e | (with_reducible refine let2_kept kq kp e ?_ fun _ => ?_) <;> clear e | clear e) | (extract_lets +onlyGivenNames x) | with_reducible apply State.liftQueues_kept | with_reducible apply State.dsmFreeRegion_kept | with_reducible apply State.dsmNewRegion_kept | with_reducible apply State.setRport_kept | split | simp -zeta only [upd_kept]

theorem State.placeQueues_kept {s : State} (p : Nat) (d : List Byte) (hk : s.Kept kq kp) :
    OptKept kq kp (State.placeQueues s p d) := by
  delta State.placeQueues
  repeat' first | with_reducible assumption | (intro) | with_reducible apply some_kept | with_reducible apply some2_kept | with_reducible apply none_kept | with_reducible apply none2_kept | with_reducible apply map_kept | with_reducible apply map2_kept | with_reducible apply bind_kept | with_reducible apply bind2_kept | (rename_i e; (with_reducible refine of_opt kq kp e ?_ fun _ => ?_) <;> clear e) | with_reducible apply State.placeRingQueue_kept | with_reducible apply foldl_opt_kept | with_reducible apply foldl_kept | with_reducible apply foldl2_kept

theorem State.writeSched_kept {s : State} (p : Nat) (d : List Byte) (hk : s.Kept kq kp) :
    (State.writeSched s p d).Kept kq kp := by
  delta State.writeSched
  repeat' first | with_reducible assumption | (intro) | (extract_lets +onlyGivenNames x; clear_value (e : x = _); first | (with_reducible refine let_kept kq kp e ?_ fun _ => ?_) <;> clear e | (with_reducible refine let2_kept kq kp e ?_ fun _ => ?_) <;> clear e | clear e) | (extract_lets +onlyGivenNames x) | with_reducible apply State.setReg_kept | with_reducible apply State.wr_kept | with_reducible apply State.setRport_kept | simp -zeta only [upd_kept] | with_reducible apply foldl_kept | with_reducible apply foldl2_kept

theorem State.schedApply_kept {s : State} (d : List Byte) (hk : s.Kept kq kp) :
    OptKept kq kp (State.schedApply s d) := by
  delta State.schedApply
  repeat' first | with_reducible assumption | (intro) | with_reducible apply some_kept | with_reducible apply some2_kept | with_reducible apply none_kept | with_reducible apply none2_kept | with_reducible apply map_kept | with_reducible apply map2_kept | with_reducible apply bind_kept | with_reducible apply bind2_kept | (rename_i e; (with_reducible refine of_opt kq kp e ?_ fun _ => ?_) <;> clear e) | with_reducible apply State.placeQueues_kept | with_reducible apply State.writeSched_kept | with_reducible apply foldl_opt_kept | with_reducible apply foldl_kept | with_reducible apply foldl2_kept

theorem State.schedFinish_kept {s : State} (c : FwCmd) (hk : s.Kept kq kp) :
    (State.schedFinish s c).Kept kq kp := by
  delta State.schedFinish
  repeat' first | with_reducible assumption | (rename_i e; (with_reducible refine of_opt kq kp e ?_ fun _ => ?_) <;> clear e) | with_reducible apply some_kept | with_reducible apply none_kept | with_reducible apply none2_kept | (extract_lets +onlyGivenNames x; clear_value (e : x = _); first | (with_reducible refine let_kept kq kp e ?_ fun _ => ?_) <;> clear e | (with_reducible refine let2_kept kq kp e ?_ fun _ => ?_) <;> clear e | clear e) | (extract_lets +onlyGivenNames x) | with_reducible apply State.schedApply_kept | with_reducible apply State.ok_kept | with_reducible apply State.fail_kept | split | simp -zeta only [upd_kept]

theorem execRingSchedSet_kept {s : State} (hk : s.Kept kq kp) :
    OutKept kq kp (execRingSchedSet s) := by
  delta execRingSchedSet
  repeat' first | with_reducible assumption | (intro) | with_reducible apply next_kept | (rename_i e; (with_reducible refine of_opt kq kp e ?_ fun _ => ?_) <;> clear e) | with_reducible apply some_kept | with_reducible apply none_kept | with_reducible apply none2_kept | with_reducible apply State.serve_kept | with_reducible apply State.fail_kept | with_reducible apply State.schedApply_kept | with_reducible apply State.schedFinish_kept | with_reducible apply State.waitFor_kept | split

theorem State.schedWaits_kept {s : State} (hk : s.Kept kq kp) :
    (State.schedWaits s).Kept kq kp := by
  delta State.schedWaits
  repeat' first | with_reducible assumption | (intro) | (extract_lets +onlyGivenNames x; clear_value (e : x = _); first | (with_reducible refine let_kept kq kp e ?_ fun _ => ?_) <;> clear e | (with_reducible refine let2_kept kq kp e ?_ fun _ => ?_) <;> clear e | have _f : State → _ := x | clear e) | (extract_lets +onlyGivenNames x) | with_reducible apply State.fail_kept | with_reducible apply State.schedFinish_kept | split | simp -zeta only [upd_kept] | with_reducible apply foldl_kept | with_reducible apply foldl2_kept | (subst_vars; beta_reduce)

theorem execRingEgress_kept (p : Fin 2) {s : State} (hk : s.Kept kq kp) :
    OutKept kq kp (execRingEgress p s) := by
  delta execRingEgress
  repeat' first | with_reducible assumption | (intro) | with_reducible apply next_kept | (extract_lets +onlyGivenNames x; clear_value (e : x = _); first | (with_reducible refine let_kept kq kp e ?_ fun _ => ?_) <;> clear e | (with_reducible refine let2_kept kq kp e ?_ fun _ => ?_) <;> clear e | clear e) | (extract_lets +onlyGivenNames x) | with_reducible apply State.when_kept | with_reducible apply State.egress_kept | with_reducible apply State.bulkDones_kept | with_reducible apply State.schedWaits_kept | split

theorem State.gateWrite_kept {s : State} (p : Nat) (d : List Byte) (g : GateList) (hk : s.Kept kq kp) :
    (State.gateWrite s p d g).Kept kq kp := by
  delta State.gateWrite
  repeat' first | with_reducible assumption | (intro) | (extract_lets +onlyGivenNames x; clear_value (e : x = _); first | (with_reducible refine let_kept kq kp e ?_ fun _ => ?_) <;> clear e | (with_reducible refine let2_kept kq kp e ?_ fun _ => ?_) <;> clear e | clear e) | (extract_lets +onlyGivenNames x) | with_reducible apply State.wr_kept | with_reducible apply State.gateInstall_kept | with_reducible apply getD_kept | with_reducible apply foldl_kept | with_reducible apply foldl2_kept

theorem State.gateOff_kept {s : State} (p : Nat) (hk : s.Kept kq kp) :
    (State.gateOff s p).Kept kq kp := by
  delta State.gateOff
  repeat' first | with_reducible assumption | with_reducible apply State.wr_kept

theorem execRingGateSet_kept {s : State} (hk : s.Kept kq kp) :
    OutKept kq kp (execRingGateSet s) := by
  delta execRingGateSet
  repeat' first | with_reducible assumption | (intro) | with_reducible apply next_kept | (extract_lets +onlyGivenNames x; clear_value (e : x = _); first | (with_reducible refine let_kept kq kp e ?_ fun _ => ?_) <;> clear e | (with_reducible refine let2_kept kq kp e ?_ fun _ => ?_) <;> clear e | have _f : State → _ := x | clear e) | (extract_lets +onlyGivenNames x) | with_reducible apply State.serve_kept | with_reducible apply State.fail_kept | with_reducible apply State.fwRead_kept | with_reducible apply State.gateWrite_kept | with_reducible apply State.gateOff_kept | with_reducible apply State.finish_kept | split | with_reducible apply foldl_kept | with_reducible apply foldl2_kept | (subst_vars; beta_reduce)

theorem execRingPoliceSet_kept {s : State} (hk : s.Kept kq kp) :
    OutKept kq kp (execRingPoliceSet s) := by
  delta execRingPoliceSet
  repeat' first | with_reducible assumption | (intro) | with_reducible apply next_kept | (extract_lets +onlyGivenNames x; clear_value (e : x = _); first | (with_reducible refine let_kept kq kp e ?_ fun _ => ?_) <;> clear e | (with_reducible refine let2_kept kq kp e ?_ fun _ => ?_) <;> clear e | clear e) | (extract_lets +onlyGivenNames x) | with_reducible apply State.serve_kept | with_reducible apply State.fail_kept | with_reducible apply State.wr_kept | with_reducible apply State.setRing_kept | with_reducible apply State.ok_kept | split | simp -zeta only [upd_kept]

end Sys2Proof.Machine
end

