-- ==== Sys2Proof/Laws/KeptSheet.lean ====
section
/-! SUPPORT. The operations of Machine/Sheet.lean keep the queue, the part and the canonical form of the sparse stores. -/

namespace Sys2Proof.Machine

set_option linter.unusedTactic false
set_option linter.unreachableTactic false
set_option linter.tactic.unusedName false

variable {kq : List Instr} {kp : Part}

theorem State.setSp_kept {s : State} (p : Nat) (f : SheetPort → SheetPort) (hk : s.Kept kq kp) :
    (State.setSp s p f).Kept kq kp := by
  delta State.setSp
  repeat' first | with_reducible assumption | (extract_lets +onlyGivenNames x; clear_value (e : x = _); first | (with_reducible refine let_kept kq kp e ?_ fun _ => ?_) <;> clear e | (with_reducible refine let2_kept kq kp e ?_ fun _ => ?_) <;> clear e | clear e) | (extract_lets +onlyGivenNames x) | simp -zeta only [upd_kept]

theorem State.sheetSend_kept {s : State} (p : Nat) (dst : List Byte) (body : List Byte) (slug : Bool) (hk : s.Kept kq kp) :
    (State.sheetSend s p dst body slug).Kept kq kp := by
  delta State.sheetSend
  repeat' first | with_reducible assumption | (extract_lets +onlyGivenNames x; clear_value (e : x = _); first | (with_reducible refine let_kept kq kp e ?_ fun _ => ?_) <;> clear e | (with_reducible refine let2_kept kq kp e ?_ fun _ => ?_) <;> clear e | clear e) | (extract_lets +onlyGivenNames x) | with_reducible apply State.emit_kept | with_reducible apply State.count_kept | with_reducible apply State.count64_kept | split

theorem State.queueCtrl_kept {s : State} (p : Nat) (c : CtrlFrame) (hk : s.Kept kq kp) :
    (State.queueCtrl s p c).Kept kq kp := by
  delta State.queueCtrl
  repeat' first | with_reducible assumption | (intro) | (extract_lets +onlyGivenNames x; clear_value (e : x = _); first | (with_reducible refine let_kept kq kp e ?_ fun _ => ?_) <;> clear e | (with_reducible refine let2_kept kq kp e ?_ fun _ => ?_) <;> clear e | clear e) | (extract_lets +onlyGivenNames x) | with_reducible apply State.setSp_kept | simp -zeta only [upd_kept]

theorem State.putSlug_kept {s : State} (p : Nat) (g : Slug) (hk : s.Kept kq kp) :
    (State.putSlug s p g).Kept kq kp := by
  delta State.putSlug
  repeat' first | with_reducible assumption | (intro) | with_reducible apply State.setSp_kept

theorem State.queueSlug_kept {s : State} (p : Nat) (g : Slug) (hk : s.Kept kq kp) :
    (State.queueSlug s p g).Kept kq kp := by
  delta State.queueSlug
  repeat' first | with_reducible assumption | (extract_lets +onlyGivenNames x; clear_value (e : x = _); first | (with_reducible refine let_kept kq kp e ?_ fun _ => ?_) <;> clear e | (with_reducible refine let2_kept kq kp e ?_ fun _ => ?_) <;> clear e | clear e) | (extract_lets +onlyGivenNames x) | with_reducible apply State.putSlug_kept | split

theorem State.slugBody_kept {s : State} (g : Slug) (hk : s.Kept kq kp) :
    (State.slugBody s g).2.Kept kq kp := by
  delta State.slugBody
  repeat' first | with_reducible assumption | (extract_lets +onlyGivenNames x; clear_value (e : x = _); first | (with_reducible refine let_kept kq kp e ?_ fun _ => ?_) <;> clear e | (with_reducible refine let2_kept kq kp e ?_ fun _ => ?_) <;> clear e | clear e) | (extract_lets +onlyGivenNames x) | with_reducible apply State.memRead_kept | with_reducible apply State.take_kept | split | dsimp -zeta only | simp -zeta only [upd_kept]

theorem State.pairBreak_kept {s : State} (p : Nat) (hk : s.Kept kq kp) :
    (State.pairBreak s p).Kept kq kp := by
  delta State.pairBreak
  repeat' first | with_reducible assumption | (intro) | (extract_lets +onlyGivenNames x; clear_value (e : x = _); first | (with_reducible refine let_kept kq kp e ?_ fun _ => ?_) <;> clear e | (with_reducible refine let2_kept kq kp e ?_ fun _ => ?_) <;> clear e | clear e) | (extract_lets +onlyGivenNames x) | with_reducible apply State.wr_kept | with_reducible apply State.setSp_kept | with_reducible apply State.setCause_kept | with_reducible apply State.report_kept | with_reducible apply State.count_kept | split | simp -zeta only [upd_kept]

theorem State.probeMissed_kept {s : State} (p : Nat) (hk : s.Kept kq kp) :
    (State.probeMissed s p).Kept kq kp := by
  delta State.probeMissed
  repeat' first | with_reducible assumption | (intro) | (extract_lets +onlyGivenNames x; clear_value (e : x = _); first | (with_reducible refine let_kept kq kp e ?_ fun _ => ?_) <;> clear e | (with_reducible refine let2_kept kq kp e ?_ fun _ => ?_) <;> clear e | clear e) | (extract_lets +onlyGivenNames x) | with_reducible apply State.count_kept | with_reducible apply State.setSp_kept | with_reducible apply State.pairBreak_kept | split | simp -zeta only [upd_kept]

theorem State.setPairMode_kept {s : State} (k : Nat) (v : Nat) (hk : s.Kept kq kp) :
    (State.setPairMode s k v).Kept kq kp := by
  delta State.setPairMode
  repeat' first | with_reducible assumption | (intro) | (extract_lets +onlyGivenNames x; clear_value (e : x = _); first | (with_reducible refine let_kept kq kp e ?_ fun _ => ?_) <;> clear e | (with_reducible refine let2_kept kq kp e ?_ fun _ => ?_) <;> clear e | clear e) | (extract_lets +onlyGivenNames x) | with_reducible apply State.wr_kept | with_reducible apply State.setSp_kept | simp -zeta only [upd_kept] | with_reducible apply foldl_kept | with_reducible apply foldl2_kept

theorem State.sheetDown_kept {s : State} (p : Nat) (hk : s.Kept kq kp) :
    (State.sheetDown s p).Kept kq kp := by
  delta State.sheetDown
  repeat' first | with_reducible assumption | (extract_lets +onlyGivenNames x; clear_value (e : x = _); first | (with_reducible refine let_kept kq kp e ?_ fun _ => ?_) <;> clear e | (with_reducible refine let2_kept kq kp e ?_ fun _ => ?_) <;> clear e | clear e) | (extract_lets +onlyGivenNames x) | with_reducible apply State.wr_kept | with_reducible apply State.setCause_kept | with_reducible apply State.pairBreak_kept | split

theorem execSheetLinkDown_kept (p : Fin 16) {s : State} (hk : s.Kept kq kp) :
    OutKept kq kp (execSheetLinkDown p s) := by
  delta execSheetLinkDown
  repeat' first | with_reducible assumption | with_reducible apply next_kept | with_reducible apply State.sheetDown_kept | split

theorem execSheetLinkUp_kept (p : Fin 16) {s : State} (hk : s.Kept kq kp) :
    OutKept kq kp (execSheetLinkUp p s) := by
  delta execSheetLinkUp
  repeat' first | with_reducible assumption | (intro) | with_reducible apply next_kept | (extract_lets +onlyGivenNames x; clear_value (e : x = _); first | (with_reducible refine let_kept kq kp e ?_ fun _ => ?_) <;> clear e | (with_reducible refine let2_kept kq kp e ?_ fun _ => ?_) <;> clear e | clear e) | (extract_lets +onlyGivenNames x) | with_reducible apply State.wr_kept | with_reducible apply State.setCause_kept | with_reducible apply State.setSp_kept | split | simp -zeta only [upd_kept]

theorem execLoopProbe_kept (p : Fin 16) {s : State} (hk : s.Kept kq kp) :
    OutKept kq kp (execLoopProbe p s) := by
  delta execLoopProbe
  repeat' first | with_reducible assumption | (intro) | with_reducible apply next_kept | (extract_lets +onlyGivenNames x; clear_value (e : x = _); first | (with_reducible refine let_kept kq kp e ?_ fun _ => ?_) <;> clear e | (with_reducible refine let2_kept kq kp e ?_ fun _ => ?_) <;> clear e | clear e) | (extract_lets +onlyGivenNames x) | with_reducible apply State.setSp_kept | split | simp -zeta only [upd_kept]

theorem execProbeMissing_kept (p : Fin 16) {s : State} (hk : s.Kept kq kp) :
    OutKept kq kp (execProbeMissing p s) := by
  delta execProbeMissing
  repeat' first | with_reducible assumption | with_reducible apply next_kept | (extract_lets +onlyGivenNames x; clear_value (e : x = _); first | (with_reducible refine let_kept kq kp e ?_ fun _ => ?_) <;> clear e | (with_reducible refine let2_kept kq kp e ?_ fun _ => ?_) <;> clear e | clear e) | (extract_lets +onlyGivenNames x) | with_reducible apply State.probeMissed_kept | split | simp -zeta only [upd_kept]

theorem State.probesOff_kept {s : State} (p : Nat) (hk : s.Kept kq kp) :
    (State.probesOff s p).Kept kq kp := by
  delta State.probesOff
  repeat' first | with_reducible assumption | (intro) | (extract_lets +onlyGivenNames x; clear_value (e : x = _); first | (with_reducible refine let_kept kq kp e ?_ fun _ => ?_) <;> clear e | (with_reducible refine let2_kept kq kp e ?_ fun _ => ?_) <;> clear e | clear e) | (extract_lets +onlyGivenNames x) | with_reducible apply State.setSp_kept | split | simp -zeta only [upd_kept]

theorem State.probeHeard_kept {s : State} (p : Nat) (token : Nat) (hk : s.Kept kq kp) :
    (State.probeHeard s p token).Kept kq kp := by
  delta State.probeHeard
  repeat' first | with_reducible assumption | (intro) | (extract_lets +onlyGivenNames x; clear_value (e : x = _); first | (with_reducible refine let_kept kq kp e ?_ fun _ => ?_) <;> clear e | (with_reducible refine let2_kept kq kp e ?_ fun _ => ?_) <;> clear e | clear e) | (extract_lets +onlyGivenNames x) | with_reducible apply State.count_kept | with_reducible apply State.setSp_kept | with_reducible apply State.wr_kept | split | simp -zeta only [upd_kept]

theorem State.pingEnd_kept {s : State} (p : Nat) (token : Nat) (resp : List Byte) (hk : s.Kept kq kp) :
    (State.pingEnd s p token resp).Kept kq kp := by
  delta State.pingEnd
  repeat' first | with_reducible assumption | (intro) | (extract_lets +onlyGivenNames x; clear_value (e : x = _); first | (with_reducible refine let_kept kq kp e ?_ fun _ => ?_) <;> clear e | (with_reducible refine let2_kept kq kp e ?_ fun _ => ?_) <;> clear e | clear e) | (extract_lets +onlyGivenNames x) | with_reducible apply State.wake_kept | split | simp -zeta only [upd_kept]

theorem State.pingSent_kept {s : State} (p : Nat) (token : Nat) (hk : s.Kept kq kp) :
    (State.pingSent s p token).Kept kq kp := by
  delta State.pingSent
  repeat' first | with_reducible assumption | (intro) | (extract_lets +onlyGivenNames x; clear_value (e : x = _); first | (with_reducible refine let_kept kq kp e ?_ fun _ => ?_) <;> clear e | (with_reducible refine let2_kept kq kp e ?_ fun _ => ?_) <;> clear e | clear e) | (extract_lets +onlyGivenNames x) | split | simp -zeta only [upd_kept]

theorem execSheetPing_kept {s : State} (hk : s.Kept kq kp) :
    OutKept kq kp (execSheetPing s) := by
  delta execSheetPing
  repeat' first | with_reducible assumption | (intro) | with_reducible apply next_kept | (extract_lets +onlyGivenNames x; clear_value (e : x = _); first | (with_reducible refine let_kept kq kp e ?_ fun _ => ?_) <;> clear e | (with_reducible refine let2_kept kq kp e ?_ fun _ => ?_) <;> clear e | clear e) | (extract_lets +onlyGivenNames x) | with_reducible apply State.serve_kept | with_reducible apply State.fail_kept | with_reducible apply State.setSp_kept | with_reducible apply State.waitFor_kept | split | simp -zeta only [upd_kept]

theorem execStatusHandoff_kept (p : Fin 16) {s : State} (hk : s.Kept kq kp) :
    OutKept kq kp (execStatusHandoff p s) := by
  delta execStatusHandoff
  repeat' first | with_reducible assumption | (intro) | with_reducible apply next_kept | (extract_lets +onlyGivenNames x; clear_value (e : x = _); first | (with_reducible refine let_kept kq kp e ?_ fun _ => ?_) <;> clear e | (with_reducible refine let2_kept kq kp e ?_ fun _ => ?_) <;> clear e | clear e) | (extract_lets +onlyGivenNames x) | with_reducible apply State.setSp_kept | with_reducible apply State.wake_kept | split | simp -zeta only [upd_kept]

theorem execPingTimeout_kept (p : Fin 16) {s : State} (hk : s.Kept kq kp) :
    OutKept kq kp (execPingTimeout p s) := by
  delta execPingTimeout
  repeat' first | with_reducible assumption | (intro) | with_reducible apply next_kept | (extract_lets +onlyGivenNames x; clear_value (e : x = _); first | (with_reducible refine let_kept kq kp e ?_ fun _ => ?_) <;> clear e | (with_reducible refine let2_kept kq kp e ?_ fun _ => ?_) <;> clear e | clear e) | (extract_lets +onlyGivenNames x) | with_reducible apply State.wake_kept | split | simp -zeta only [upd_kept]

theorem State.sendPing_kept {s : State} (p : Nat) (f : PingFrame) (hk : s.Kept kq kp) :
    (State.sendPing s p f).Kept kq kp := by
  delta State.sendPing
  repeat' first | with_reducible assumption | (intro) | (extract_lets +onlyGivenNames x; clear_value (e : x = _); first | (with_reducible refine let_kept kq kp e ?_ fun _ => ?_) <;> clear e | (with_reducible refine let2_kept kq kp e ?_ fun _ => ?_) <;> clear e | clear e) | (extract_lets +onlyGivenNames x) | with_reducible apply State.sheetSend_kept | with_reducible apply State.setSp_kept | with_reducible apply State.pingSent_kept | with_reducible apply State.pingEnd_kept | split | simp -zeta only [upd_kept]

theorem State.slugSend_kept {s : State} (p : Nat) (g : Slug) (hk : s.Kept kq kp) :
    (State.slugSend s p g).Kept kq kp := by
  delta State.slugSend
  repeat' first | with_reducible assumption | (extract_lets +onlyGivenNames x; clear_value (e : x = _); first | (with_reducible refine let_kept kq kp e ?_ fun _ => ?_) <;> clear e | (with_reducible refine let2_kept kq kp e ?_ fun _ => ?_) <;> clear e | clear e) | (extract_lets +onlyGivenNames x) | with_reducible apply State.slugBody_kept | with_reducible apply State.sheetSend_kept | with_reducible apply State.count_kept | with_reducible apply State.count64_kept | with_reducible apply State.setCause_kept | split | simp -zeta only [upd_kept]

theorem execSheetTransmit_kept (p : Fin 16) {s : State} (hk : s.Kept kq kp) :
    OutKept kq kp (execSheetTransmit p s) := by
  delta execSheetTransmit
  repeat' first | with_reducible assumption | (intro) | with_reducible apply next_kept | (extract_lets +onlyGivenNames x; clear_value (e : x = _); first | (with_reducible refine let_kept kq kp e ?_ fun _ => ?_) <;> clear e | (with_reducible refine let2_kept kq kp e ?_ fun _ => ?_) <;> clear e | clear e) | (extract_lets +onlyGivenNames x) | with_reducible apply State.setSp_kept | with_reducible apply State.sheetSend_kept | with_reducible apply State.sendPing_kept | with_reducible apply State.slugSend_kept | with_reducible apply State.putSlug_kept | split | simp -zeta only [upd_kept]

theorem execSheetReceive_kept (p : Fin 16) (f : RxFrame) {s : State} (hk : s.Kept kq kp) :
    OutKept kq kp (execSheetReceive p f s) := by
  delta execSheetReceive
  repeat' first | with_reducible assumption | (intro) | with_reducible apply next_kept | (extract_lets +onlyGivenNames x; clear_value (e : x = _); first | (with_reducible refine let_kept kq kp e ?_ fun _ => ?_) <;> clear e | (with_reducible refine let2_kept kq kp e ?_ fun _ => ?_) <;> clear e | clear e) | (extract_lets +onlyGivenNames x) | with_reducible apply State.count_kept | with_reducible apply State.take_kept | with_reducible apply State.probeHeard_kept | with_reducible apply State.setSp_kept | with_reducible apply State.setCause_kept | split | simp -zeta only [upd_kept]

end Sys2Proof.Machine
end

