-- ==== Sys2Proof/Laws/KeptLatch.lean ====
section
/-! SUPPORT. The operations of Machine/Latch.lean keep the queue, the part and the canonical form of the sparse stores. -/

namespace Sys2Proof.Machine

set_option linter.unusedTactic false
set_option linter.unreachableTactic false
set_option linter.tactic.unusedName false

variable {kq : List Instr} {kp : Part}

theorem State.setPll_kept {s : State} (n : Nat) (f : Pll → Pll) (hk : s.Kept kq kp) :
    (State.setPll s n f).Kept kq kp := by
  delta State.setPll
  repeat' first | with_reducible assumption | (extract_lets +onlyGivenNames x; clear_value (e : x = _); first | (with_reducible refine let_kept kq kp e ?_ fun _ => ?_) <;> clear e | (with_reducible refine let2_kept kq kp e ?_ fun _ => ?_) <;> clear e | clear e) | (extract_lets +onlyGivenNames x) | simp -zeta only [upd_kept]

theorem State.chooseFrame0_kept {s : State} (h : Nat) (t : Int) (hk : s.Kept kq kp) :
    (State.chooseFrame0 s h t).Kept kq kp := by
  delta State.chooseFrame0
  repeat' first | with_reducible assumption | (intro) | (extract_lets +onlyGivenNames x; clear_value (e : x = _); first | (with_reducible refine let_kept kq kp e ?_ fun _ => ?_) <;> clear e | (with_reducible refine let2_kept kq kp e ?_ fun _ => ?_) <;> clear e | clear e) | (extract_lets +onlyGivenNames x) | with_reducible apply State.wr_kept | with_reducible apply State.latchRange_kept | with_reducible apply State.setHd_kept | split | simp -zeta only [upd_kept]

theorem State.latchPage_kept {s : State} (page : Nat) (rs : List (Nat × Nat)) (hk : s.Kept kq kp) :
    (State.latchPage s page rs).Kept kq kp := by
  delta State.latchPage
  repeat' first | with_reducible assumption | (intro) | with_reducible apply State.latchRange_kept | with_reducible apply foldl_kept | with_reducible apply foldl2_kept

theorem State.latchPageLive_kept {s : State} (page : Nat) (rs : List (Nat × Nat)) (hk : s.Kept kq kp) :
    (State.latchPageLive s page rs).Kept kq kp := by
  delta State.latchPageLive
  repeat' first | with_reducible assumption | (intro) | with_reducible apply State.latchLive_kept | with_reducible apply foldl_kept | with_reducible apply foldl2_kept

theorem State.lutSyncStart_kept {s : State} (t : Nat) (ns : Nat) (f : Fld) (hk : s.Kept kq kp) :
    (State.lutSyncStart s t ns f).Kept kq kp := by
  delta State.lutSyncStart
  repeat' first | with_reducible assumption | (extract_lets +onlyGivenNames x; clear_value (e : x = _); first | (with_reducible refine let_kept kq kp e ?_ fun _ => ?_) <;> clear e | (with_reducible refine let2_kept kq kp e ?_ fun _ => ?_) <;> clear e | clear e) | (extract_lets +onlyGivenNames x) | with_reducible apply State.wr_kept | simp -zeta only [upd_kept]

theorem State.freeGalley_kept {s : State} (r : Option Nat) (hk : s.Kept kq kp) :
    (State.freeGalley s r).Kept kq kp := by
  delta State.freeGalley
  repeat' first | with_reducible assumption | (extract_lets +onlyGivenNames x; clear_value (e : x = _); first | (with_reducible refine let_kept kq kp e ?_ fun _ => ?_) <;> clear e | (with_reducible refine let2_kept kq kp e ?_ fun _ => ?_) <;> clear e | clear e) | (extract_lets +onlyGivenNames x) | with_reducible apply State.dsmFreeRegion_kept | split | simp -zeta only [upd_kept]

theorem State.latchLayer_kept {s : State} (l : Nat) (hk : s.Kept kq kp) :
    (State.latchLayer s l).Kept kq kp := by
  delta State.latchLayer
  repeat' first | with_reducible assumption | (intro) | (extract_lets +onlyGivenNames x; clear_value (e : x = _); first | (with_reducible refine let_kept kq kp e ?_ fun _ => ?_) <;> clear e | (with_reducible refine let2_kept kq kp e ?_ fun _ => ?_) <;> clear e | clear e) | (extract_lets +onlyGivenNames x) | with_reducible apply State.latchPageLive_kept | with_reducible apply State.freeGalley_kept | with_reducible apply State.setLay_kept | split | simp -zeta only [upd_kept]

theorem State.lutsSync_kept {s : State} (h : Nat) (hk : s.Kept kq kp) :
    (State.lutsSync s h).Kept kq kp := by
  delta State.lutsSync
  repeat' first | with_reducible assumption | (intro) | (extract_lets +onlyGivenNames x; clear_value (e : x = _); first | (with_reducible refine let_kept kq kp e ?_ fun _ => ?_) <;> clear e | (with_reducible refine let2_kept kq kp e ?_ fun _ => ?_) <;> clear e | clear e) | (extract_lets +onlyGivenNames x) | with_reducible apply State.lutSyncStart_kept | with_reducible apply foldl_kept | with_reducible apply foldl2_kept

theorem State.latchRegions_kept {s : State} (h : Nat) (hk : s.Kept kq kp) :
    (State.latchRegions s h).Kept kq kp := by
  delta State.latchRegions
  repeat' first | with_reducible assumption | (intro) | (extract_lets +onlyGivenNames x; clear_value (e : x = _); first | (with_reducible refine let_kept kq kp e ?_ fun _ => ?_) <;> clear e | (with_reducible refine let2_kept kq kp e ?_ fun _ => ?_) <;> clear e | clear e) | (extract_lets +onlyGivenNames x) | with_reducible apply State.freeGalley_kept | with_reducible apply State.setHd_kept | split | with_reducible apply getD_kept | simp -zeta only [upd_kept]

theorem State.latchMap_kept {s : State} (h : Nat) (hk : s.Kept kq kp) :
    (State.latchMap s h).Kept kq kp := by
  delta State.latchMap
  repeat' first | with_reducible assumption | (intro) | (extract_lets +onlyGivenNames x; clear_value (e : x = _); first | (with_reducible refine let_kept kq kp e ?_ fun _ => ?_) <;> clear e | (with_reducible refine let2_kept kq kp e ?_ fun _ => ?_) <;> clear e | clear e) | (extract_lets +onlyGivenNames x) | with_reducible apply State.setHd_kept | with_reducible apply State.wr_kept | with_reducible apply State.report_kept | split | simp -zeta only [upd_kept]

theorem State.makeLive_kept {s : State} (h : Nat) (hk : s.Kept kq kp) :
    (State.makeLive s h).Kept kq kp := by
  delta State.makeLive
  repeat' first | with_reducible assumption | (intro) | (extract_lets +onlyGivenNames x; clear_value (e : x = _); first | (with_reducible refine let_kept kq kp e ?_ fun _ => ?_) <;> clear e | (with_reducible refine let2_kept kq kp e ?_ fun _ => ?_) <;> clear e | clear e) | (extract_lets +onlyGivenNames x) | with_reducible apply State.latchPage_kept | with_reducible apply State.wr_kept | with_reducible apply State.latchPageLive_kept | with_reducible apply State.latchLayer_kept | with_reducible apply State.latchRegions_kept | with_reducible apply State.latchMap_kept | with_reducible apply State.setHd_kept | with_reducible apply State.setCause_kept | split | with_reducible apply getD_kept | simp -zeta only [upd_kept] | with_reducible apply foldl_kept | with_reducible apply foldl2_kept

theorem State.takeFrame_kept {s : State} (l : Nat) (k : Nat) (f : Nat) (b : Option Nat) (hk : s.Kept kq kp) :
    (State.takeFrame s l k f b).Kept kq kp := by
  delta State.takeFrame
  repeat' first | with_reducible assumption | (intro) | (extract_lets +onlyGivenNames x; clear_value (e : x = _); first | (with_reducible refine let_kept kq kp e ?_ fun _ => ?_) <;> clear e | (with_reducible refine let2_kept kq kp e ?_ fun _ => ?_) <;> clear e | clear e) | (extract_lets +onlyGivenNames x) | with_reducible apply State.setLay_kept | with_reducible apply State.setStrm_kept | with_reducible apply State.wr_kept | split | simp -zeta only [upd_kept]

theorem State.repeatFrame_kept {s : State} (l : Nat) (k : Nat) (hk : s.Kept kq kp) :
    (State.repeatFrame s l k).Kept kq kp := by
  delta State.repeatFrame
  repeat' first | with_reducible assumption | (intro) | (extract_lets +onlyGivenNames x; clear_value (e : x = _); first | (with_reducible refine let_kept kq kp e ?_ fun _ => ?_) <;> clear e | (with_reducible refine let2_kept kq kp e ?_ fun _ => ?_) <;> clear e | clear e) | (extract_lets +onlyGivenNames x) | with_reducible apply State.setLay_kept | with_reducible apply State.wr_kept | split | simp -zeta only [upd_kept]

theorem State.waitLine_kept {s : State} (h : Nat) (l : Nat) (hk : s.Kept kq kp) :
    (State.waitLine s h l).Kept kq kp := by
  delta State.waitLine
  repeat' first | with_reducible assumption | (intro) | (extract_lets +onlyGivenNames x; clear_value (e : x = _); first | (with_reducible refine let_kept kq kp e ?_ fun _ => ?_) <;> clear e | (with_reducible refine let2_kept kq kp e ?_ fun _ => ?_) <;> clear e | clear e) | (extract_lets +onlyGivenNames x) | with_reducible apply State.repeatFrame_kept | with_reducible apply State.setLay_kept | split | simp -zeta only [upd_kept]

theorem State.latchSource_kept {s : State} (h : Nat) (l : Nat) (hk : s.Kept kq kp) :
    (State.latchSource s h l).Kept kq kp := by
  delta State.latchSource
  repeat' first | with_reducible assumption | (intro) | (extract_lets +onlyGivenNames x; clear_value (e : x = _); first | (with_reducible refine let_kept kq kp e ?_ fun _ => ?_) <;> clear e | (with_reducible refine let2_kept kq kp e ?_ fun _ => ?_) <;> clear e | clear e) | (extract_lets +onlyGivenNames x) | with_reducible apply State.setLay_kept | with_reducible apply State.wr_kept | with_reducible apply State.takeFrame_kept | with_reducible apply State.count_kept | with_reducible apply State.repeatFrame_kept | split | simp -zeta only [upd_kept]

theorem State.scaleRegs_kept {s : State} (e : HeadEntry) (hk : s.Kept kq kp) :
    (State.scaleRegs s e).Kept kq kp := by
  delta State.scaleRegs
  repeat' first | with_reducible assumption | (extract_lets +onlyGivenNames x; clear_value (e : x = _); first | (with_reducible refine let_kept kq kp e ?_ fun _ => ?_) <;> clear e | (with_reducible refine let2_kept kq kp e ?_ fun _ => ?_) <;> clear e | clear e) | (extract_lets +onlyGivenNames x) | with_reducible apply State.wr_kept | split

theorem State.checkEntry_kept {s : State} (h : Nat) (above : List HeadEntry) (e : HeadEntry) (hk : s.Kept kq kp) :
    (State.checkEntry s h above e).2.Kept kq kp := by
  delta State.checkEntry
  repeat' first | with_reducible assumption | (intro) | (extract_lets +onlyGivenNames x; clear_value (e : x = _); first | (with_reducible refine let_kept kq kp e ?_ fun _ => ?_) <;> clear e | (with_reducible refine let2_kept kq kp e ?_ fun _ => ?_) <;> clear e | clear e) | (extract_lets +onlyGivenNames x) | with_reducible apply State.wr_kept | with_reducible apply State.scaleRegs_kept | with_reducible apply State.report_kept | split | dsimp -zeta only | simp -zeta only [upd_kept]

theorem State.checkEntries_kept {s : State} (h : Nat) (l : List HeadEntry) (hk : s.Kept kq kp) : (s.checkEntries h l).2.Kept kq kp := by
  induction l generalizing s with
  | nil => exact hk
  | cons e t ih => exact ih (State.checkEntry_kept h t e hk)

theorem State.checkGalley_kept {s : State} (h : Nat) (es : List HeadEntry) (e : HeadEntry) (hk : s.Kept kq kp) :
    (State.checkGalley s h es e).2.Kept kq kp := by
  delta State.checkGalley
  repeat' first | with_reducible assumption | (extract_lets +onlyGivenNames x; clear_value (e : x = _); first | (with_reducible refine let_kept kq kp e ?_ fun _ => ?_) <;> clear e | (with_reducible refine let2_kept kq kp e ?_ fun _ => ?_) <;> clear e | clear e) | (extract_lets +onlyGivenNames x) | with_reducible apply State.wr_kept | with_reducible apply State.report_kept | split | dsimp -zeta only | simp -zeta only [upd_kept]

theorem State.checkGalleys_kept {s : State} (h : Nat) (es : List (HeadEntry × Bool)) (hk : s.Kept kq kp) :
    (State.checkGalleys s h es).2.Kept kq kp := by
  delta State.checkGalleys
  repeat' first | with_reducible assumption | (intro) | (extract_lets +onlyGivenNames x; clear_value (e : x = _); first | (with_reducible refine let_kept kq kp e ?_ fun _ => ?_) <;> clear e | (with_reducible refine let2_kept kq kp e ?_ fun _ => ?_) <;> clear e | clear e) | (extract_lets +onlyGivenNames x) | with_reducible apply State.checkGalley_kept | split | dsimp -zeta only | simp -zeta only [upd_kept] | with_reducible apply foldl_kept | with_reducible apply foldl2_kept

theorem State.dropHeld_kept {s : State} (h : Nat) (old : List HeadEntry) (new : List HeadEntry) (hk : s.Kept kq kp) :
    (State.dropHeld s h old new).Kept kq kp := by
  delta State.dropHeld
  repeat' first | with_reducible assumption | (intro) | (extract_lets +onlyGivenNames x; clear_value (e : x = _); first | (with_reducible refine let_kept kq kp e ?_ fun _ => ?_) <;> clear e | (with_reducible refine let2_kept kq kp e ?_ fun _ => ?_) <;> clear e | clear e) | (extract_lets +onlyGivenNames x) | with_reducible apply State.setLay_kept | split | simp -zeta only [upd_kept] | with_reducible apply foldl_kept | with_reducible apply foldl2_kept

theorem State.latchForme_kept {s : State} (h : Nat) (hk : s.Kept kq kp) :
    (State.latchForme s h).Kept kq kp := by
  delta State.latchForme
  repeat' first | with_reducible assumption | (intro) | (extract_lets +onlyGivenNames x; clear_value (e : x = _); first | (with_reducible refine let_kept kq kp e ?_ fun _ => ?_) <;> clear e | (with_reducible refine let2_kept kq kp e ?_ fun _ => ?_) <;> clear e | clear e) | (extract_lets +onlyGivenNames x) | with_reducible apply State.checkEntries_kept | with_reducible apply State.checkGalleys_kept | with_reducible apply State.latchSource_kept | with_reducible apply State.dropHeld_kept | with_reducible apply State.setHd_kept | simp -zeta only [upd_kept] | with_reducible apply foldl_kept | with_reducible apply foldl2_kept

theorem State.latchWb_kept {s : State} (h : Nat) (hk : s.Kept kq kp) :
    (State.latchWb s h).Kept kq kp := by
  delta State.latchWb
  repeat' first | with_reducible assumption | (intro) | (extract_lets +onlyGivenNames x; clear_value (e : x = _); first | (with_reducible refine let_kept kq kp e ?_ fun _ => ?_) <;> clear e | (with_reducible refine let2_kept kq kp e ?_ fun _ => ?_) <;> clear e | clear e) | (extract_lets +onlyGivenNames x) | with_reducible apply State.setHd_kept | with_reducible apply State.wr_kept | with_reducible apply State.report_kept | split | simp -zeta only [upd_kept]

theorem State.committed_kept {s : State} (h : Nat) (stopped : Bool) (hk : s.Kept kq kp) :
    (State.committed s h stopped).Kept kq kp := by
  delta State.committed
  repeat' first | with_reducible assumption | (intro) | (extract_lets +onlyGivenNames x; clear_value (e : x = _); first | (with_reducible refine let_kept kq kp e ?_ fun _ => ?_) <;> clear e | (with_reducible refine let2_kept kq kp e ?_ fun _ => ?_) <;> clear e | clear e) | (extract_lets +onlyGivenNames x) | with_reducible apply State.wake_kept | split | simp -zeta only [upd_kept]

theorem State.latchHead_kept {s : State} (h : Nat) (take : Bool) (t : Int) (hk : s.Kept kq kp) :
    (State.latchHead s h take t).Kept kq kp := by
  delta State.latchHead
  repeat' first | with_reducible assumption | (intro) | (extract_lets +onlyGivenNames x; clear_value (e : x = _); first | (with_reducible refine let_kept kq kp e ?_ fun _ => ?_) <;> clear e | (with_reducible refine let2_kept kq kp e ?_ fun _ => ?_) <;> clear e | clear e) | (extract_lets +onlyGivenNames x) | with_reducible apply State.makeLive_kept | with_reducible apply State.chooseFrame0_kept | with_reducible apply State.lutsSync_kept | with_reducible apply State.latchForme_kept | with_reducible apply State.latchWb_kept | with_reducible apply State.setCause_kept | with_reducible apply State.setHd_kept | with_reducible apply State.committed_kept | with_reducible apply State.swapLatch_kept | split | simp -zeta only [upd_kept]

theorem State.latchStopped_kept {s : State} (h : Nat) (hk : s.Kept kq kp) :
    (State.latchStopped s h).Kept kq kp := by
  delta State.latchStopped
  repeat' first | with_reducible assumption | (extract_lets +onlyGivenNames x; clear_value (e : x = _); first | (with_reducible refine let_kept kq kp e ?_ fun _ => ?_) <;> clear e | (with_reducible refine let2_kept kq kp e ?_ fun _ => ?_) <;> clear e | clear e) | (extract_lets +onlyGivenNames x) | with_reducible apply State.makeLive_kept | with_reducible apply State.lutsSync_kept | with_reducible apply State.latchForme_kept | with_reducible apply State.latchWb_kept | with_reducible apply State.committed_kept

end Sys2Proof.Machine
end

