-- ==== Sys2Proof/Laws/KeptPll.lean ====
section
/-! SUPPORT. The operations of Machine/Pll.lean keep the queue, the part and the canonical form of the sparse stores. -/

namespace Sys2Proof.Machine

set_option linter.unusedTactic false
set_option linter.unreachableTactic false
set_option linter.tactic.unusedName false

variable {kq : List Instr} {kp : Part}

theorem State.pllRelock_kept {s : State} (n : Nat) (hk : s.Kept kq kp) :
    (State.pllRelock s n).Kept kq kp := by
  delta State.pllRelock
  repeat' first | with_reducible assumption | (intro) | (extract_lets +onlyGivenNames x; clear_value (e : x = _); first | (with_reducible refine let_kept kq kp e ?_ fun _ => ?_) <;> clear e | (with_reducible refine let2_kept kq kp e ?_ fun _ => ?_) <;> clear e | clear e) | (extract_lets +onlyGivenNames x) | with_reducible apply State.wr_kept | with_reducible apply State.setPll_kept | split | simp -zeta only [upd_kept]

theorem State.pllPower_kept {s : State} (n : Nat) (on : Bool) (hk : s.Kept kq kp) :
    (State.pllPower s n on).Kept kq kp := by
  delta State.pllPower
  repeat' first | with_reducible assumption | with_reducible apply State.wr_kept | with_reducible apply State.pllRelock_kept | split

theorem State.pllProgram_kept {s : State} (n : Nat) (d : Rate) (c : PllChoice) (hk : s.Kept kq kp) :
    (State.pllProgram s n d c).Kept kq kp := by
  delta State.pllProgram
  repeat' first | with_reducible assumption | (extract_lets +onlyGivenNames x; clear_value (e : x = _); first | (with_reducible refine let_kept kq kp e ?_ fun _ => ?_) <;> clear e | (with_reducible refine let2_kept kq kp e ?_ fun _ => ?_) <;> clear e | clear e) | (extract_lets +onlyGivenNames x) | with_reducible apply State.wr_kept | with_reducible apply State.pllRelock_kept

theorem State.pllRamp_kept {s : State} (n : Nat) (hk : s.Kept kq kp) :
    (State.pllRamp s n).Kept kq kp := by
  delta State.pllRamp
  repeat' first | with_reducible assumption | (intro) | (extract_lets +onlyGivenNames x; clear_value (e : x = _); first | (with_reducible refine let_kept kq kp e ?_ fun _ => ?_) <;> clear e | (with_reducible refine let2_kept kq kp e ?_ fun _ => ?_) <;> clear e | clear e) | (extract_lets +onlyGivenNames x) | with_reducible apply State.wr_kept | with_reducible apply State.setPll_kept | split | simp -zeta only [upd_kept]

theorem State.pllChange_kept {s : State} (n : Nat) (a : Rate) (b : Rate) (c : PllChoice) (hk : s.Kept kq kp) :
    (State.pllChange s n a b c).2.Kept kq kp := by
  delta State.pllChange
  repeat' first | with_reducible assumption | (extract_lets +onlyGivenNames x; clear_value (e : x = _); first | (with_reducible refine let_kept kq kp e ?_ fun _ => ?_) <;> clear e | (with_reducible refine let2_kept kq kp e ?_ fun _ => ?_) <;> clear e | clear e) | (extract_lets +onlyGivenNames x) | with_reducible apply State.pllProgram_kept | with_reducible apply State.wr_kept | with_reducible apply State.pllRamp_kept | split | dsimp -zeta only

end Sys2Proof.Machine
end

