-- ==== Sys2Proof/Laws/KeptHead.lean ====
section
/-! SUPPORT. The operations of Machine/Head.lean keep the queue, the part and the canonical form of the sparse stores. -/

namespace Sys2Proof.Machine

set_option linter.unusedTactic false
set_option linter.unreachableTactic false
set_option linter.tactic.unusedName false

variable {kq : List Instr} {kp : Part}

theorem State.withFsync_kept {s : State} (h : Nat) (f : State → State) (hk : s.Kept kq kp) (hf : ∀ t0, t0.Kept kq kp → (f t0).Kept kq kp) :
    (State.withFsync s h f).Kept kq kp := by
  delta State.withFsync
  repeat' first | with_reducible assumption | (extract_lets +onlyGivenNames x; clear_value (e : x = _); first | (with_reducible refine let_kept kq kp e ?_ fun _ => ?_) <;> clear e | (with_reducible refine let2_kept kq kp e ?_ fun _ => ?_) <;> clear e | clear e) | (extract_lets +onlyGivenNames x) | with_reducible apply State.emit_kept | with_reducible apply hf | split

theorem State.headCtrl_kept {s : State} (h : Nat) (type : Nat) (frame : Nat) (time : Nat) (hk : s.Kept kq kp) :
    (State.headCtrl s h type frame time).Kept kq kp := by
  delta State.headCtrl
  repeat' first | with_reducible assumption | (intro) | (extract_lets +onlyGivenNames x; clear_value (e : x = _); first | (with_reducible refine let_kept kq kp e ?_ fun _ => ?_) <;> clear e | (with_reducible refine let2_kept kq kp e ?_ fun _ => ?_) <;> clear e | clear e) | (extract_lets +onlyGivenNames x) | with_reducible apply State.queueCtrl_kept | split | with_reducible apply foldl_kept | with_reducible apply foldl2_kept

theorem State.steer_kept {s : State} (h : Nat) (e : Int) (hk : s.Kept kq kp) :
    (State.steer s h e).Kept kq kp := by
  delta State.steer
  repeat' first | with_reducible assumption | (intro) | (extract_lets +onlyGivenNames x; clear_value (e : x = _); first | (with_reducible refine let_kept kq kp e ?_ fun _ => ?_) <;> clear e | (with_reducible refine let2_kept kq kp e ?_ fun _ => ?_) <;> clear e | clear e) | (extract_lets +onlyGivenNames x) | with_reducible apply State.freeNat_kept | with_reducible apply State.wr_kept | with_reducible apply State.setPll_kept | split | simp -zeta only [upd_kept]

theorem State.alignLost_kept {s : State} (h : Nat) (hk : s.Kept kq kp) :
    (State.alignLost s h).Kept kq kp := by
  delta State.alignLost
  repeat' first | with_reducible assumption | with_reducible apply State.wr_kept | with_reducible apply State.setCause_kept | with_reducible apply State.report_kept | split

theorem State.noteErr_kept {s : State} (h : Nat) (e : Int) (hk : s.Kept kq kp) :
    (State.noteErr s h e).Kept kq kp := by
  delta State.noteErr
  repeat' first | with_reducible assumption | (intro) | (extract_lets +onlyGivenNames x; clear_value (e : x = _); first | (with_reducible refine let_kept kq kp e ?_ fun _ => ?_) <;> clear e | (with_reducible refine let2_kept kq kp e ?_ fun _ => ?_) <;> clear e | clear e) | (extract_lets +onlyGivenNames x) | with_reducible apply State.wr_kept | with_reducible apply State.alignLost_kept | with_reducible apply State.report_kept | with_reducible apply State.setHd_kept | split | simp -zeta only [upd_kept]

theorem State.measure_kept {s : State} (h : Nat) (hk : s.Kept kq kp) :
    (State.measure s h).Kept kq kp := by
  delta State.measure
  repeat' first | with_reducible assumption | (extract_lets +onlyGivenNames x; clear_value (e : x = _); first | (with_reducible refine let_kept kq kp e ?_ fun _ => ?_) <;> clear e | (with_reducible refine let2_kept kq kp e ?_ fun _ => ?_) <;> clear e | clear e) | (extract_lets +onlyGivenNames x) | with_reducible apply State.wr_kept | with_reducible apply State.alignLost_kept | with_reducible apply State.steer_kept | with_reducible apply State.noteErr_kept | split | simp -zeta only [upd_kept]

theorem State.measureStep_kept {s : State} (h : Nat) (d : Int) (hk : s.Kept kq kp) :
    (State.measureStep s h d).Kept kq kp := by
  delta State.measureStep
  repeat' first | with_reducible assumption | (intro) | (extract_lets +onlyGivenNames x; clear_value (e : x = _); first | (with_reducible refine let_kept kq kp e ?_ fun _ => ?_) <;> clear e | (with_reducible refine let2_kept kq kp e ?_ fun _ => ?_) <;> clear e | clear e) | (extract_lets +onlyGivenNames x) | with_reducible apply State.setHd_kept | with_reducible apply State.noteErr_kept | split | simp -zeta only [upd_kept]

theorem State.prepareFrame_kept {s : State} (h : Nat) (early : Bool) (number : Nat) (hk : s.Kept kq kp) :
    (State.prepareFrame s h early number).Kept kq kp := by
  delta State.prepareFrame
  repeat' first | with_reducible assumption | (intro) | (extract_lets +onlyGivenNames x; clear_value (e : x = _); first | (with_reducible refine let_kept kq kp e ?_ fun _ => ?_) <;> clear e | (with_reducible refine let2_kept kq kp e ?_ fun _ => ?_) <;> clear e | clear e) | (extract_lets +onlyGivenNames x) | with_reducible apply State.setHd_kept | simp -zeta only [upd_kept]

theorem State.lutsLate_kept {s : State} (h : Nat) (hk : s.Kept kq kp) :
    (State.lutsLate s h).Kept kq kp := by
  delta State.lutsLate
  repeat' first | with_reducible assumption | (intro) | (extract_lets +onlyGivenNames x; clear_value (e : x = _); first | (with_reducible refine let_kept kq kp e ?_ fun _ => ?_) <;> clear e | (with_reducible refine let2_kept kq kp e ?_ fun _ => ?_) <;> clear e | clear e) | (extract_lets +onlyGivenNames x) | split | simp -zeta only [upd_kept]

theorem State.frameStart_kept {s : State} (h : Nat) (compose : Bool) (hk : s.Kept kq kp) :
    (State.frameStart s h compose).Kept kq kp := by
  delta State.frameStart
  repeat' first | with_reducible assumption | (intro) | (extract_lets +onlyGivenNames x; clear_value (e : x = _); first | (with_reducible refine let_kept kq kp e ?_ fun _ => ?_) <;> clear e | (with_reducible refine let2_kept kq kp e ?_ fun _ => ?_) <;> clear e | clear e) | (extract_lets +onlyGivenNames x) | with_reducible apply State.prepareFrame_kept | with_reducible apply State.setHd_kept | with_reducible apply State.lutsLate_kept | with_reducible apply State.setCause_kept | with_reducible apply State.wr_kept | with_reducible apply State.headCtrl_kept | with_reducible apply State.measure_kept | with_reducible apply State.dmaRequest_kept | split | simp -zeta only [upd_kept]

theorem State.modeRamp_kept {s : State} (h : Nat) (old : Timing) (hk : s.Kept kq kp) :
    (State.modeRamp s h old).Kept kq kp := by
  delta State.modeRamp
  repeat' first | with_reducible assumption | (intro) | (extract_lets +onlyGivenNames x; clear_value (e : x = _); first | (with_reducible refine let_kept kq kp e ?_ fun _ => ?_) <;> clear e | (with_reducible refine let2_kept kq kp e ?_ fun _ => ?_) <;> clear e | clear e) | (extract_lets +onlyGivenNames x) | with_reducible apply State.pllChange_kept | with_reducible apply State.setHd_kept | split | simp -zeta only [upd_kept]

theorem State.genStop_kept {s : State} (h : Nat) (hk : s.Kept kq kp) :
    (State.genStop s h).Kept kq kp := by
  delta State.genStop
  repeat' first | with_reducible assumption | (intro) | (extract_lets +onlyGivenNames x; clear_value (e : x = _); first | (with_reducible refine let_kept kq kp e ?_ fun _ => ?_) <;> clear e | (with_reducible refine let2_kept kq kp e ?_ fun _ => ?_) <;> clear e | clear e) | (extract_lets +onlyGivenNames x) | with_reducible apply State.setHd_kept | with_reducible apply State.bltHeadStops_kept | with_reducible apply State.swapLatch_kept | with_reducible apply State.modeRamp_kept | split | simp -zeta only [upd_kept]

theorem State.dropEarly_kept {s : State} (h : Nat) (hk : s.Kept kq kp) :
    (State.dropEarly s h).Kept kq kp := by
  delta State.dropEarly
  repeat' first | with_reducible assumption | (intro) | (extract_lets +onlyGivenNames x; clear_value (e : x = _); first | (with_reducible refine let_kept kq kp e ?_ fun _ => ?_) <;> clear e | (with_reducible refine let2_kept kq kp e ?_ fun _ => ?_) <;> clear e | clear e) | (extract_lets +onlyGivenNames x) | with_reducible apply State.setHd_kept | split | simp -zeta only [upd_kept]

theorem State.sendHold_kept {s : State} (h : Nat) (hk : s.Kept kq kp) :
    (State.sendHold s h).Kept kq kp := by
  delta State.sendHold
  repeat' first | with_reducible assumption | (extract_lets +onlyGivenNames x; clear_value (e : x = _); first | (with_reducible refine let_kept kq kp e ?_ fun _ => ?_) <;> clear e | (with_reducible refine let2_kept kq kp e ?_ fun _ => ?_) <;> clear e | clear e) | (extract_lets +onlyGivenNames x) | with_reducible apply State.headCtrl_kept | with_reducible apply State.wr_kept | split

theorem State.rampCut_kept {s : State} (h : Nat) (hk : s.Kept kq kp) :
    (State.rampCut s h).Kept kq kp := by
  delta State.rampCut
  repeat' first | with_reducible assumption | with_reducible apply State.wr_kept | split

theorem State.enterReef_kept {s : State} (h : Nat) (hk : s.Kept kq kp) :
    (State.enterReef s h).Kept kq kp := by
  delta State.enterReef
  repeat' first | with_reducible assumption | (intro) | (extract_lets +onlyGivenNames x; clear_value (e : x = _); first | (with_reducible refine let_kept kq kp e ?_ fun _ => ?_) <;> clear e | (with_reducible refine let2_kept kq kp e ?_ fun _ => ?_) <;> clear e | clear e) | (extract_lets +onlyGivenNames x) | with_reducible apply State.wr_kept | with_reducible apply State.setCause_kept | with_reducible apply State.setHd_kept | with_reducible apply State.genStop_kept | with_reducible apply State.rampCut_kept | with_reducible apply State.pllPower_kept | split | simp -zeta only [upd_kept]

theorem State.stopDone_kept {s : State} (h : Nat) (hk : s.Kept kq kp) :
    (State.stopDone s h).Kept kq kp := by
  delta State.stopDone
  repeat' first | with_reducible assumption | (intro) | (extract_lets +onlyGivenNames x; clear_value (e : x = _); first | (with_reducible refine let_kept kq kp e ?_ fun _ => ?_) <;> clear e | (with_reducible refine let2_kept kq kp e ?_ fun _ => ?_) <;> clear e | clear e) | (extract_lets +onlyGivenNames x) | with_reducible apply State.wake_kept | split | simp -zeta only [upd_kept]

theorem State.headStop_kept {s : State} (h : Nat) (hk : s.Kept kq kp) :
    (State.headStop s h).Kept kq kp := by
  delta State.headStop
  repeat' first | with_reducible assumption | (intro) | (extract_lets +onlyGivenNames x; clear_value (e : x = _); first | (with_reducible refine let_kept kq kp e ?_ fun _ => ?_) <;> clear e | (with_reducible refine let2_kept kq kp e ?_ fun _ => ?_) <;> clear e | clear e) | (extract_lets +onlyGivenNames x) | with_reducible apply State.dropEarly_kept | with_reducible apply State.sendHold_kept | with_reducible apply State.setHd_kept | with_reducible apply State.enterReef_kept | with_reducible apply State.genStop_kept | with_reducible apply State.stopDone_kept | split | simp -zeta only [upd_kept]

theorem State.requestRestart_kept {s : State} (h : Nat) (hk : s.Kept kq kp) :
    (State.requestRestart s h).Kept kq kp := by
  delta State.requestRestart
  repeat' first | with_reducible assumption | (intro) | (extract_lets +onlyGivenNames x; clear_value (e : x = _); first | (with_reducible refine let_kept kq kp e ?_ fun _ => ?_) <;> clear e | (with_reducible refine let2_kept kq kp e ?_ fun _ => ?_) <;> clear e | clear e) | (extract_lets +onlyGivenNames x) | with_reducible apply State.setHd_kept | simp -zeta only [upd_kept]

theorem State.restartView_kept {s : State} (h : Nat) (hk : s.Kept kq kp) :
    (State.restartView s h).Kept kq kp := by
  delta State.restartView
  repeat' first | with_reducible assumption | with_reducible apply State.latchPage_kept | split

theorem State.modeDone_kept {s : State} (h : Nat) (hk : s.Kept kq kp) :
    (State.modeDone s h).Kept kq kp := by
  delta State.modeDone
  repeat' first | with_reducible assumption | (intro) | (extract_lets +onlyGivenNames x; clear_value (e : x = _); first | (with_reducible refine let_kept kq kp e ?_ fun _ => ?_) <;> clear e | (with_reducible refine let2_kept kq kp e ?_ fun _ => ?_) <;> clear e | clear e) | (extract_lets +onlyGivenNames x) | with_reducible apply State.setHd_kept | with_reducible apply State.wake_kept | split | simp -zeta only [upd_kept]

theorem State.releaseDone_kept {s : State} (h : Nat) (hk : s.Kept kq kp) :
    (State.releaseDone s h).Kept kq kp := by
  delta State.releaseDone
  repeat' first | with_reducible assumption | (intro) | (extract_lets +onlyGivenNames x; clear_value (e : x = _); first | (with_reducible refine let_kept kq kp e ?_ fun _ => ?_) <;> clear e | (with_reducible refine let2_kept kq kp e ?_ fun _ => ?_) <;> clear e | clear e) | (extract_lets +onlyGivenNames x) | with_reducible apply State.wake_kept | split | simp -zeta only [upd_kept]

theorem State.commitsLate_kept {s : State} (h : Nat) (hk : s.Kept kq kp) :
    (State.commitsLate s h).Kept kq kp := by
  delta State.commitsLate
  repeat' first | with_reducible assumption | (intro) | (extract_lets +onlyGivenNames x; clear_value (e : x = _); first | (with_reducible refine let_kept kq kp e ?_ fun _ => ?_) <;> clear e | (with_reducible refine let2_kept kq kp e ?_ fun _ => ?_) <;> clear e | clear e) | (extract_lets +onlyGivenNames x) | split | simp -zeta only [upd_kept]

theorem State.headRestart_kept {s : State} (h : Nat) (hk : s.Kept kq kp) :
    (State.headRestart s h).Kept kq kp := by
  delta State.headRestart
  repeat' first | with_reducible assumption | (intro) | (extract_lets +onlyGivenNames x; clear_value (e : x = _); first | (with_reducible refine let_kept kq kp e ?_ fun _ => ?_) <;> clear e | (with_reducible refine let2_kept kq kp e ?_ fun _ => ?_) <;> clear e | clear e) | (extract_lets +onlyGivenNames x) | with_reducible apply State.setHd_kept | with_reducible apply State.commitsLate_kept | with_reducible apply State.latchHead_kept | with_reducible apply State.chooseFrame0_kept | with_reducible apply State.frameStart_kept | with_reducible apply State.modeDone_kept | with_reducible apply State.releaseDone_kept | split | simp -zeta only [upd_kept]

theorem State.headRelease_kept {s : State} (h : Nat) (hk : s.Kept kq kp) :
    (State.headRelease s h).Kept kq kp := by
  delta State.headRelease
  repeat' first | with_reducible assumption | (intro) | (extract_lets +onlyGivenNames x; clear_value (e : x = _); first | (with_reducible refine let_kept kq kp e ?_ fun _ => ?_) <;> clear e | (with_reducible refine let2_kept kq kp e ?_ fun _ => ?_) <;> clear e | clear e) | (extract_lets +onlyGivenNames x) | with_reducible apply State.setHd_kept | with_reducible apply State.headCtrl_kept | with_reducible apply State.wr_kept | with_reducible apply State.setCause_kept | with_reducible apply State.modeDone_kept | with_reducible apply State.releaseDone_kept | split | simp -zeta only [upd_kept]

theorem State.noteLate_kept {s : State} (h : Nat) (hk : s.Kept kq kp) :
    (State.noteLate s h).Kept kq kp := by
  delta State.noteLate
  repeat' first | with_reducible assumption | with_reducible apply State.wr_kept | with_reducible apply State.count_kept | split

theorem State.latchIfDue_kept {s : State} (h : Nat) (hk : s.Kept kq kp) :
    (State.latchIfDue s h).Kept kq kp := by
  delta State.latchIfDue
  repeat' first | with_reducible assumption | with_reducible apply State.latchHead_kept | split

theorem State.preLatch_kept {s : State} (h : Nat) (hk : s.Kept kq kp) :
    (State.preLatch s h).Kept kq kp := by
  delta State.preLatch
  repeat' first | with_reducible assumption | (intro) | with_reducible apply State.withFsync_kept | with_reducible apply State.latchIfDue_kept | simp -zeta only [upd_kept]

theorem State.commitHead_kept {s : State} (h : Nat) (hk : s.Kept kq kp) :
    (State.commitHead s h).Kept kq kp := by
  delta State.commitHead
  repeat' first | with_reducible assumption | (intro) | with_reducible apply State.preLatch_kept | with_reducible apply State.wr_kept | with_reducible apply State.noteLate_kept | with_reducible apply State.withFsync_kept | with_reducible apply State.latchStopped_kept | split | simp -zeta only [upd_kept]

theorem State.latched_kept {s : State} (hs : List Nat) (hk : s.Kept kq kp) :
    (State.latched s hs).Kept kq kp := by
  delta State.latched
  repeat' first | with_reducible assumption | (intro) | with_reducible apply State.preLatch_kept | split | with_reducible apply foldl_kept | with_reducible apply foldl2_kept

theorem State.refuseGroup_kept {s : State} (hs : List Nat) (hk : s.Kept kq kp) :
    (State.refuseGroup s hs).Kept kq kp := by
  delta State.refuseGroup
  repeat' first | with_reducible assumption | (intro) | with_reducible apply State.wr_kept | split | with_reducible apply foldl_kept | with_reducible apply foldl2_kept

theorem State.commitGroup_kept {s : State} (hs : List Nat) (hk : s.Kept kq kp) :
    (State.commitGroup s hs).2.Kept kq kp := by
  delta State.commitGroup
  repeat' first | with_reducible assumption | (intro) | (extract_lets +onlyGivenNames x; clear_value (e : x = _); first | (with_reducible refine let_kept kq kp e ?_ fun _ => ?_) <;> clear e | (with_reducible refine let2_kept kq kp e ?_ fun _ => ?_) <;> clear e | clear e) | (extract_lets +onlyGivenNames x) | with_reducible apply State.latched_kept | with_reducible apply State.refuseGroup_kept | with_reducible apply State.wr_kept | with_reducible apply State.setHd_kept | with_reducible apply State.noteLate_kept | split | dsimp -zeta only | simp -zeta only [upd_kept] | with_reducible apply foldl_kept | with_reducible apply foldl2_kept

theorem State.commitWrite_kept {s : State} (h : Nat) (go : Nat) (group : Nat) (hk : s.Kept kq kp) :
    (State.commitWrite s h go group).Kept kq kp := by
  delta State.commitWrite
  repeat' first | with_reducible assumption | with_reducible apply State.commitHead_kept | with_reducible apply State.commitGroup_kept | split

theorem State.headStart_kept {s : State} (h : Nat) (hk : s.Kept kq kp) :
    (State.headStart s h).Kept kq kp := by
  delta State.headStart
  repeat' first | with_reducible assumption | (extract_lets +onlyGivenNames x; clear_value (e : x = _); first | (with_reducible refine let_kept kq kp e ?_ fun _ => ?_) <;> clear e | (with_reducible refine let2_kept kq kp e ?_ fun _ => ?_) <;> clear e | clear e) | (extract_lets +onlyGivenNames x) | with_reducible apply State.wr_kept | with_reducible apply State.pllPower_kept | with_reducible apply State.requestRestart_kept | split

theorem State.headOff_kept {s : State} (h : Nat) (hk : s.Kept kq kp) :
    (State.headOff s h).Kept kq kp := by
  delta State.headOff
  repeat' first | with_reducible assumption | (intro) | (extract_lets +onlyGivenNames x; clear_value (e : x = _); first | (with_reducible refine let_kept kq kp e ?_ fun _ => ?_) <;> clear e | (with_reducible refine let2_kept kq kp e ?_ fun _ => ?_) <;> clear e | clear e) | (extract_lets +onlyGivenNames x) | with_reducible apply State.wr_kept | with_reducible apply State.setHd_kept | with_reducible apply State.withFsync_kept | with_reducible apply State.genStop_kept | split | simp -zeta only [upd_kept]

theorem State.reefEnter_kept {s : State} (h : Nat) (deep : Bool) (hk : s.Kept kq kp) :
    (State.reefEnter s h deep).Kept kq kp := by
  delta State.reefEnter
  repeat' first | with_reducible assumption | (intro) | (extract_lets +onlyGivenNames x; clear_value (e : x = _); first | (with_reducible refine let_kept kq kp e ?_ fun _ => ?_) <;> clear e | (with_reducible refine let2_kept kq kp e ?_ fun _ => ?_) <;> clear e | clear e) | (extract_lets +onlyGivenNames x) | with_reducible apply State.wr_kept | with_reducible apply State.setHd_kept | with_reducible apply State.withFsync_kept | with_reducible apply State.enterReef_kept | split | simp -zeta only [upd_kept]

theorem State.reefExit_kept {s : State} (h : Nat) (hk : s.Kept kq kp) :
    (State.reefExit s h).Kept kq kp := by
  delta State.reefExit
  repeat' first | with_reducible assumption | (intro) | (extract_lets +onlyGivenNames x; clear_value (e : x = _); first | (with_reducible refine let_kept kq kp e ?_ fun _ => ?_) <;> clear e | (with_reducible refine let2_kept kq kp e ?_ fun _ => ?_) <;> clear e | clear e) | (extract_lets +onlyGivenNames x) | with_reducible apply State.wr_kept | with_reducible apply State.pllPower_kept | with_reducible apply State.setHd_kept | with_reducible apply State.requestRestart_kept | split | simp -zeta only [upd_kept]

theorem State.headHold_kept {s : State} (h : Nat) (on : Bool) (hk : s.Kept kq kp) :
    (State.headHold s h on).Kept kq kp := by
  delta State.headHold
  repeat' first | with_reducible assumption | (intro) | (extract_lets +onlyGivenNames x; clear_value (e : x = _); first | (with_reducible refine let_kept kq kp e ?_ fun _ => ?_) <;> clear e | (with_reducible refine let2_kept kq kp e ?_ fun _ => ?_) <;> clear e | clear e) | (extract_lets +onlyGivenNames x) | with_reducible apply State.wr_kept | with_reducible apply State.setHd_kept | with_reducible apply State.withFsync_kept | with_reducible apply State.genStop_kept | with_reducible apply State.requestRestart_kept | split | simp -zeta only [upd_kept]

theorem State.headEn_kept {s : State} (h : Nat) (on : Bool) (hk : s.Kept kq kp) :
    (State.headEn s h on).Kept kq kp := by
  delta State.headEn
  repeat' first | with_reducible assumption | with_reducible apply State.headStart_kept | with_reducible apply State.headOff_kept | split

theorem State.headCtrlWrite_kept {s : State} (h : Nat) (en : Bool) (reef : Bool) (deep : Bool) (hold : Bool) (hk : s.Kept kq kp) :
    (State.headCtrlWrite s h en reef deep hold).Kept kq kp := by
  delta State.headCtrlWrite
  repeat' first | with_reducible assumption | (extract_lets +onlyGivenNames x; clear_value (e : x = _); first | (with_reducible refine let_kept kq kp e ?_ fun _ => ?_) <;> clear e | (with_reducible refine let2_kept kq kp e ?_ fun _ => ?_) <;> clear e | clear e) | (extract_lets +onlyGivenNames x) | with_reducible apply State.headHold_kept | with_reducible apply State.headEn_kept | with_reducible apply State.wr_kept | with_reducible apply State.reefEnter_kept | with_reducible apply State.reefExit_kept | split

theorem State.headUnlock_kept {s : State} (h : Nat) (hk : s.Kept kq kp) :
    (State.headUnlock s h).Kept kq kp := by
  delta State.headUnlock
  repeat' first | with_reducible assumption | (intro) | (extract_lets +onlyGivenNames x; clear_value (e : x = _); first | (with_reducible refine let_kept kq kp e ?_ fun _ => ?_) <;> clear e | (with_reducible refine let2_kept kq kp e ?_ fun _ => ?_) <;> clear e | clear e) | (extract_lets +onlyGivenNames x) | with_reducible apply State.withFsync_kept | with_reducible apply State.dropEarly_kept | with_reducible apply State.sendHold_kept | with_reducible apply State.wr_kept | with_reducible apply State.setHd_kept | with_reducible apply State.genStop_kept | with_reducible apply State.enterReef_kept | with_reducible apply State.setCause_kept | with_reducible apply State.report_kept | with_reducible apply State.stopDone_kept | with_reducible apply State.requestRestart_kept | split | simp -zeta only [upd_kept]

end Sys2Proof.Machine
end

