-- ==== Sys2Proof/Laws/KeptScan.lean ====
section
/-! SUPPORT. The operations of Machine/Scan.lean keep the queue, the part and the canonical form of the sparse stores. -/

namespace Sys2Proof.Machine

set_option linter.unusedTactic false
set_option linter.unreachableTactic false
set_option linter.tactic.unusedName false

variable {kq : List Instr} {kp : Part}

theorem State.stageLines_kept {s : State} (h : Nat) (tag : Nat) (layer : Nat) (req : Nat) (las : List Nat) (hk : s.Kept kq kp) :
    (State.stageLines s h tag layer req las).Kept kq kp := by
  delta State.stageLines
  repeat' first | with_reducible assumption | (intro) | (extract_lets +onlyGivenNames x; clear_value (e : x = _); first | (with_reducible refine let_kept kq kp e ?_ fun _ => ?_) <;> clear e | (with_reducible refine let2_kept kq kp e ?_ fun _ => ?_) <;> clear e | clear e) | (extract_lets +onlyGivenNames x) | with_reducible apply State.lineReadAs_kept | with_reducible apply State.lineWrite_kept | with_reducible apply State.setHd_kept | split | simp -zeta only [upd_kept] | with_reducible apply foldl_kept | with_reducible apply foldl2_kept

theorem State.loadStaged_kept {s : State} (h : Nat) (hk : s.Kept kq kp) :
    (State.loadStaged s h).Kept kq kp := by
  delta State.loadStaged
  repeat' first | with_reducible assumption | (intro) | (extract_lets +onlyGivenNames x; clear_value (e : x = _); first | (with_reducible refine let_kept kq kp e ?_ fun _ => ?_) <;> clear e | (with_reducible refine let2_kept kq kp e ?_ fun _ => ?_) <;> clear e | clear e) | (extract_lets +onlyGivenNames x) | with_reducible apply State.lineRead_kept | with_reducible apply State.setHd_kept | split | simp -zeta only [upd_kept] | with_reducible apply foldl_kept | with_reducible apply foldl2_kept

theorem State.fetchView_kept {s : State} (h : Nat) (tag : Nat) (hk : s.Kept kq kp) :
    (State.fetchView s h tag).Kept kq kp := by
  delta State.fetchView
  repeat' first | with_reducible assumption | (intro) | (extract_lets +onlyGivenNames x; clear_value (e : x = _); first | (with_reducible refine let_kept kq kp e ?_ fun _ => ?_) <;> clear e | (with_reducible refine let2_kept kq kp e ?_ fun _ => ?_) <;> clear e | clear e) | (extract_lets +onlyGivenNames x) | with_reducible apply State.setHd_kept | split | simp -zeta only [upd_kept]

theorem State.fetchEntry_kept {s : State} (h : Nat) (tag : Nat) (y : Nat) (p : HeadEntry × List HeadEntry) (hk : s.Kept kq kp) :
    (State.fetchEntry s h tag y p).Kept kq kp := by
  delta State.fetchEntry
  repeat' first | with_reducible assumption | with_reducible apply State.count_kept | with_reducible apply State.fetchView_kept | with_reducible apply State.stageLines_kept

theorem State.noteFetch_kept {s : State} (h : Nat) (tag : Nat) (y : Nat) (till : Int) (las : List Nat) (hk : s.Kept kq kp) :
    (State.noteFetch s h tag y till las).Kept kq kp := by
  delta State.noteFetch
  repeat' first | with_reducible assumption | (intro) | (extract_lets +onlyGivenNames x; clear_value (e : x = _); first | (with_reducible refine let_kept kq kp e ?_ fun _ => ?_) <;> clear e | (with_reducible refine let2_kept kq kp e ?_ fun _ => ?_) <;> clear e | clear e) | (extract_lets +onlyGivenNames x) | with_reducible apply State.setHd_kept | split | with_reducible apply getD_kept | simp -zeta only [upd_kept]

theorem State.fetchLine_kept {s : State} (h : Nat) (tag : Nat) (y : Nat) (ahead : Nat) (hk : s.Kept kq kp) :
    (State.fetchLine s h tag y ahead).Kept kq kp := by
  delta State.fetchLine
  repeat' first | with_reducible assumption | (intro) | (extract_lets +onlyGivenNames x; clear_value (e : x = _); first | (with_reducible refine let_kept kq kp e ?_ fun _ => ?_) <;> clear e | (with_reducible refine let2_kept kq kp e ?_ fun _ => ?_) <;> clear e | clear e) | (extract_lets +onlyGivenNames x) | with_reducible apply State.fetchView_kept | with_reducible apply State.noteFetch_kept | with_reducible apply State.fetchEntry_kept | with_reducible apply State.stageLines_kept | with_reducible apply State.panicUpdate_kept | split | simp -zeta only [upd_kept] | with_reducible apply foldl_kept | with_reducible apply foldl2_kept

theorem State.fetchOnce_kept {s : State} (h : Nat) (tag : Nat) (y : Nat) (ahead : Nat) (hk : s.Kept kq kp) :
    (State.fetchOnce s h tag y ahead).Kept kq kp := by
  delta State.fetchOnce
  repeat' first | with_reducible assumption | (intro) | with_reducible apply State.fetchLine_kept | split

theorem State.fetchWindow_kept {s : State} (h : Nat) (w : Nat) (hk : s.Kept kq kp) :
    (State.fetchWindow s h w).Kept kq kp := by
  delta State.fetchWindow
  repeat' first | with_reducible assumption | (intro) | (extract_lets +onlyGivenNames x; clear_value (e : x = _); first | (with_reducible refine let_kept kq kp e ?_ fun _ => ?_) <;> clear e | (with_reducible refine let2_kept kq kp e ?_ fun _ => ?_) <;> clear e | clear e) | (extract_lets +onlyGivenNames x) | with_reducible apply State.fetchOnce_kept | split | with_reducible apply foldl_kept | with_reducible apply foldl2_kept

theorem State.admitAway_kept {s : State} (h : Nat) (hk : s.Kept kq kp) :
    (State.admitAway s h).Kept kq kp := by
  delta State.admitAway
  repeat' first | with_reducible assumption | (intro) | (extract_lets +onlyGivenNames x; clear_value (e : x = _); first | (with_reducible refine let_kept kq kp e ?_ fun _ => ?_) <;> clear e | (with_reducible refine let2_kept kq kp e ?_ fun _ => ?_) <;> clear e | clear e) | (extract_lets +onlyGivenNames x) | with_reducible apply State.setHd_kept | with_reducible apply State.noteFetch_kept | with_reducible apply State.fetchEntry_kept | split | simp -zeta only [upd_kept] | with_reducible apply foldl_kept | with_reducible apply foldl2_kept

theorem State.readRow_kept {s : State} (h : Nat) (y : Nat) (above : List HeadEntry) (e : HeadEntry) (row : Nat) (hk : s.Kept kq kp) :
    (State.readRow s h y above e row).Kept kq kp := by
  delta State.readRow
  repeat' first | with_reducible assumption | (intro) | (extract_lets +onlyGivenNames x; clear_value (e : x = _); first | (with_reducible refine let_kept kq kp e ?_ fun _ => ?_) <;> clear e | (with_reducible refine let2_kept kq kp e ?_ fun _ => ?_) <;> clear e | clear e) | (extract_lets +onlyGivenNames x) | with_reducible apply State.count_kept | with_reducible apply State.setLay_kept | with_reducible apply State.stageLines_kept | split | simp -zeta only [upd_kept]

theorem State.readDue_kept {s : State} (h : Nat) (hk : s.Kept kq kp) :
    (State.readDue s h).Kept kq kp := by
  delta State.readDue
  repeat' first | with_reducible assumption | (intro) | (extract_lets +onlyGivenNames x; clear_value (e : x = _); first | (with_reducible refine let_kept kq kp e ?_ fun _ => ?_) <;> clear e | (with_reducible refine let2_kept kq kp e ?_ fun _ => ?_) <;> clear e | clear e) | (extract_lets +onlyGivenNames x) | with_reducible apply State.readRow_kept | split | simp -zeta only [upd_kept] | with_reducible apply foldl_kept | with_reducible apply foldl2_kept

theorem State.cutOff_kept {s : State} (h : Nat) (y : Nat) (hk : s.Kept kq kp) :
    (State.cutOff s h y).Kept kq kp := by
  delta State.cutOff
  repeat' first | with_reducible assumption | (intro) | (extract_lets +onlyGivenNames x; clear_value (e : x = _); first | (with_reducible refine let_kept kq kp e ?_ fun _ => ?_) <;> clear e | (with_reducible refine let2_kept kq kp e ?_ fun _ => ?_) <;> clear e | clear e) | (extract_lets +onlyGivenNames x) | with_reducible apply State.setLay_kept | with_reducible apply State.readDue_kept | simp -zeta only [upd_kept] | with_reducible apply foldl_kept | with_reducible apply foldl2_kept

theorem State.cutOffs_kept {s : State} (h : Nat) (hk : s.Kept kq kp) :
    (State.cutOffs s h).Kept kq kp := by
  delta State.cutOffs
  repeat' first | with_reducible assumption | with_reducible apply State.cutOff_kept | split

theorem State.lplLines_kept {s : State} (a : Nat) (len : Nat) (hk : s.Kept kq kp) :
    (State.lplLines s a len).2.Kept kq kp := by
  delta State.lplLines
  repeat' first | with_reducible assumption | (intro) | (extract_lets +onlyGivenNames x; clear_value (e : x = _); first | (with_reducible refine let_kept kq kp e ?_ fun _ => ?_) <;> clear e | (with_reducible refine let2_kept kq kp e ?_ fun _ => ?_) <;> clear e | clear e) | (extract_lets +onlyGivenNames x) | with_reducible apply State.lineRead_kept | split | dsimp -zeta only | with_reducible apply foldl_kept | with_reducible apply foldl2_kept

theorem State.readGalley_kept {s : State} (l : Nat) (w : Nat) (row : Nat × List Px) (hk : s.Kept kq kp) :
    (State.readGalley s l w row).2.Kept kq kp := by
  delta State.readGalley
  repeat' first | with_reducible assumption | (extract_lets +onlyGivenNames x; clear_value (e : x = _); first | (with_reducible refine let_kept kq kp e ?_ fun _ => ?_) <;> clear e | (with_reducible refine let2_kept kq kp e ?_ fun _ => ?_) <;> clear e | clear e) | (extract_lets +onlyGivenNames x) | with_reducible apply State.lplLines_kept | dsimp -zeta only

theorem State.galleyRows_kept {s : State} (l : Nat) (w : Nat) (from_ : Nat) (back : Bool) (rows : List (Nat × List Px)) (hk : s.Kept kq kp) :
    (State.galleyRows s l w from_ back rows).2.Kept kq kp := by
  unfold State.galleyRows
  generalize (back : Bool) = b
  refine foldl2_kept hk fun x r hx => ?_
  generalize (b && decide (from_ ≤ r.1)) = c
  cases c
  · exact hx
  · exact State.readGalley_kept _ _ _ hx

theorem State.fillGalley_kept {s : State} (h : Nat) (y : Nat) (e : HeadEntry) (hk : s.Kept kq kp) :
    (State.fillGalley s h y e).Kept kq kp := by
  delta State.fillGalley
  repeat' first | with_reducible assumption | (intro) | (extract_lets +onlyGivenNames x; clear_value (e : x = _); first | (with_reducible refine let_kept kq kp e ?_ fun _ => ?_) <;> clear e | (with_reducible refine let2_kept kq kp e ?_ fun _ => ?_) <;> clear e | clear e) | (extract_lets +onlyGivenNames x) | with_reducible apply State.memWrite_kept | with_reducible apply State.take_kept | with_reducible apply State.galleyRows_kept | with_reducible apply State.setLay_kept | split | simp -zeta only [upd_kept] | with_reducible apply foldl_kept | with_reducible apply foldl2_kept

theorem State.fillGalleys_kept {s : State} (h : Nat) (y : Nat) (hk : s.Kept kq kp) :
    (State.fillGalleys s h y).Kept kq kp := by
  delta State.fillGalleys
  repeat' first | with_reducible assumption | (intro) | with_reducible apply State.fillGalley_kept | with_reducible apply foldl_kept | with_reducible apply foldl2_kept

theorem State.storeSlug_kept {s : State} (h : Nat) (g : Slug) (hk : s.Kept kq kp) :
    (State.storeSlug s h g).2.Kept kq kp := by
  delta State.storeSlug
  repeat' first | with_reducible assumption | (extract_lets +onlyGivenNames x; clear_value (e : x = _); first | (with_reducible refine let_kept kq kp e ?_ fun _ => ?_) <;> clear e | (with_reducible refine let2_kept kq kp e ?_ fun _ => ?_) <;> clear e | clear e) | (extract_lets +onlyGivenNames x) | with_reducible apply State.memWrite_kept | split | dsimp -zeta only | simp -zeta only [upd_kept]

theorem State.entryErr_kept {s : State} (h : Nat) (i : Nat) (hk : s.Kept kq kp) :
    (State.entryErr s h i).Kept kq kp := by
  delta State.entryErr
  repeat' first | with_reducible assumption | (extract_lets +onlyGivenNames x; clear_value (e : x = _); first | (with_reducible refine let_kept kq kp e ?_ fun _ => ?_) <;> clear e | (with_reducible refine let2_kept kq kp e ?_ fun _ => ?_) <;> clear e | clear e) | (extract_lets +onlyGivenNames x) | with_reducible apply State.wr_kept | split

theorem State.putEntry_kept {s : State} (h : Nat) (i : Nat) (y : Nat) (x0 : Nat) (force : Bool) (hk : s.Kept kq kp) :
    (State.putEntry s h i y x0 force).2.Kept kq kp := by
  delta State.putEntry
  repeat' first | with_reducible assumption | (intro) | (extract_lets +onlyGivenNames x; clear_value (e : x = _); first | (with_reducible refine let_kept kq kp e ?_ fun _ => ?_) <;> clear e | (with_reducible refine let2_kept kq kp e ?_ fun _ => ?_) <;> clear e | have _f : State → _ := x | clear e) | (extract_lets +onlyGivenNames x) | with_reducible apply State.setHd_kept | with_reducible apply State.count_kept | with_reducible apply State.entryErr_kept | with_reducible apply State.report_kept | with_reducible apply State.storeSlug_kept | with_reducible apply State.queueSlug_kept | split | with_reducible apply getD_kept | dsimp -zeta only | simp -zeta only [upd_kept] | (subst_vars; beta_reduce)

theorem State.putEntries_kept {s : State} (h : Nat) (y : Nat) (x0 : Nat) (force : Bool) (hk : s.Kept kq kp) :
    (State.putEntries s h y x0 force).2.Kept kq kp := by
  delta State.putEntries
  repeat' first | with_reducible assumption | (intro) | with_reducible apply State.putEntry_kept | split | dsimp -zeta only | with_reducible apply foldl_kept | with_reducible apply foldl2_kept

theorem State.wbPush_kept {s : State} (h : Nat) (y : Nat) (x0 : Nat) (hk : s.Kept kq kp) :
    (State.wbPush s h y x0).Kept kq kp := by
  delta State.wbPush
  repeat' first | with_reducible assumption | (intro) | (extract_lets +onlyGivenNames x; clear_value (e : x = _); first | (with_reducible refine let_kept kq kp e ?_ fun _ => ?_) <;> clear e | (with_reducible refine let2_kept kq kp e ?_ fun _ => ?_) <;> clear e | clear e) | (extract_lets +onlyGivenNames x) | with_reducible apply State.setHd_kept | with_reducible apply State.count_kept | with_reducible apply State.setCause_kept | with_reducible apply State.wr_kept | split | simp -zeta only [upd_kept]

theorem State.wbDrain_kept {s : State} (h : Nat) (hk : s.Kept kq kp) :
    (State.wbDrain s h).Kept kq kp := by
  delta State.wbDrain
  repeat' first | with_reducible assumption | (intro) | (extract_lets +onlyGivenNames x; clear_value (e : x = _); first | (with_reducible refine let_kept kq kp e ?_ fun _ => ?_) <;> clear e | (with_reducible refine let2_kept kq kp e ?_ fun _ => ?_) <;> clear e | clear e) | (extract_lets +onlyGivenNames x) | with_reducible apply State.memWriteAs_kept | with_reducible apply State.setHd_kept | simp -zeta only [upd_kept] | with_reducible apply foldl_kept | with_reducible apply foldl2_kept

theorem State.wbFinish_kept {s : State} (h : Nat) (hk : s.Kept kq kp) :
    (State.wbFinish s h).Kept kq kp := by
  delta State.wbFinish
  repeat' first | with_reducible assumption | (intro) | (extract_lets +onlyGivenNames x; clear_value (e : x = _); first | (with_reducible refine let_kept kq kp e ?_ fun _ => ?_) <;> clear e | (with_reducible refine let2_kept kq kp e ?_ fun _ => ?_) <;> clear e | clear e) | (extract_lets +onlyGivenNames x) | with_reducible apply State.wr_kept | with_reducible apply State.setHd_kept | with_reducible apply State.relayFrame_kept | split | simp -zeta only [upd_kept]

theorem State.countPixels_kept {s : State} (h : Nat) (y : Nat) (x0 : Nat) (hk : s.Kept kq kp) :
    (State.countPixels s h y x0).Kept kq kp := by
  delta State.countPixels
  repeat' first | with_reducible assumption | (intro) | (extract_lets +onlyGivenNames x; clear_value (e : x = _); first | (with_reducible refine let_kept kq kp e ?_ fun _ => ?_) <;> clear e | (with_reducible refine let2_kept kq kp e ?_ fun _ => ?_) <;> clear e | clear e) | (extract_lets +onlyGivenNames x) | with_reducible apply State.count_kept | with_reducible apply foldl_kept | with_reducible apply foldl2_kept

theorem State.frameRegs_kept {s : State} (h : Nat) (hk : s.Kept kq kp) :
    (State.frameRegs s h).Kept kq kp := by
  delta State.frameRegs
  repeat' first | with_reducible assumption | (intro) | (extract_lets +onlyGivenNames x; clear_value (e : x = _); first | (with_reducible refine let_kept kq kp e ?_ fun _ => ?_) <;> clear e | (with_reducible refine let2_kept kq kp e ?_ fun _ => ?_) <;> clear e | clear e) | (extract_lets +onlyGivenNames x) | with_reducible apply State.freeNat_kept | with_reducible apply State.wr_kept | with_reducible apply State.setHd_kept | split | simp -zeta only [upd_kept]

theorem State.finishLine_kept {s : State} (h : Nat) (y : Nat) (x0 : Nat) (slack : Nat) (hk : s.Kept kq kp) :
    (State.finishLine s h y x0 slack).Kept kq kp := by
  delta State.finishLine
  repeat' first | with_reducible assumption | (intro) | (extract_lets +onlyGivenNames x; clear_value (e : x = _); first | (with_reducible refine let_kept kq kp e ?_ fun _ => ?_) <;> clear e | (with_reducible refine let2_kept kq kp e ?_ fun _ => ?_) <;> clear e | clear e) | (extract_lets +onlyGivenNames x) | with_reducible apply State.countPixels_kept | with_reducible apply State.wbPush_kept | with_reducible apply State.wr_kept | with_reducible apply State.setCause_kept | with_reducible apply State.setHd_kept | with_reducible apply State.panicUpdate_kept | with_reducible apply State.frameRegs_kept | split | with_reducible apply getD_kept | simp -zeta only [upd_kept]

theorem State.completeLine_kept {s : State} (h : Nat) (hk : s.Kept kq kp) :
    (State.completeLine s h).Kept kq kp := by
  delta State.completeLine
  repeat' first | with_reducible assumption | (extract_lets +onlyGivenNames x; clear_value (e : x = _); first | (with_reducible refine let_kept kq kp e ?_ fun _ => ?_) <;> clear e | (with_reducible refine let2_kept kq kp e ?_ fun _ => ?_) <;> clear e | clear e) | (extract_lets +onlyGivenNames x) | with_reducible apply State.cutOffs_kept | with_reducible apply State.loadStaged_kept | with_reducible apply State.fillGalleys_kept | with_reducible apply State.putEntries_kept | with_reducible apply State.finishLine_kept | split

theorem State.underrun_kept {s : State} (h : Nat) (hk : s.Kept kq kp) :
    (State.underrun s h).Kept kq kp := by
  delta State.underrun
  repeat' first | with_reducible assumption | (extract_lets +onlyGivenNames x; clear_value (e : x = _); first | (with_reducible refine let_kept kq kp e ?_ fun _ => ?_) <;> clear e | (with_reducible refine let2_kept kq kp e ?_ fun _ => ?_) <;> clear e | clear e) | (extract_lets +onlyGivenNames x) | with_reducible apply State.cutOff_kept | with_reducible apply State.loadStaged_kept | with_reducible apply State.fillGalleys_kept | with_reducible apply State.putEntries_kept | with_reducible apply State.count_kept | with_reducible apply State.wr_kept | with_reducible apply State.setCause_kept | with_reducible apply State.report_kept | with_reducible apply State.finishLine_kept | split

theorem State.deadlines_kept {s : State} (h : Nat) (hk : s.Kept kq kp) :
    (State.deadlines s h).Kept kq kp := by
  delta State.deadlines
  repeat' first | with_reducible assumption | (intro) | with_reducible apply State.underrun_kept | split | with_reducible apply foldl_kept | with_reducible apply foldl2_kept

theorem State.fetchLate_kept {s : State} (h : Nat) (l : Nat) (hk : s.Kept kq kp) :
    (State.fetchLate s h l).Kept kq kp := by
  delta State.fetchLate
  repeat' first | with_reducible assumption | (intro) | (extract_lets +onlyGivenNames x; clear_value (e : x = _); first | (with_reducible refine let_kept kq kp e ?_ fun _ => ?_) <;> clear e | (with_reducible refine let2_kept kq kp e ?_ fun _ => ?_) <;> clear e | clear e) | (extract_lets +onlyGivenNames x) | with_reducible apply State.fetchView_kept | with_reducible apply State.noteFetch_kept | with_reducible apply State.fetchEntry_kept | split | simp -zeta only [upd_kept] | with_reducible apply foldl_kept | with_reducible apply foldl2_kept

theorem State.waitStep_kept {s : State} (h : Nat) (l : Nat) (hk : s.Kept kq kp) :
    (State.waitStep s h l).Kept kq kp := by
  delta State.waitStep
  repeat' first | with_reducible assumption | (extract_lets +onlyGivenNames x; clear_value (e : x = _); first | (with_reducible refine let_kept kq kp e ?_ fun _ => ?_) <;> clear e | (with_reducible refine let2_kept kq kp e ?_ fun _ => ?_) <;> clear e | clear e) | (extract_lets +onlyGivenNames x) | with_reducible apply State.waitLine_kept | with_reducible apply State.fetchLate_kept | split

theorem State.windowStart_kept {s : State} (h : Nat) (line : Nat) (hk : s.Kept kq kp) :
    (State.windowStart s h line).Kept kq kp := by
  delta State.windowStart
  repeat' first | with_reducible assumption | (intro) | (extract_lets +onlyGivenNames x; clear_value (e : x = _); first | (with_reducible refine let_kept kq kp e ?_ fun _ => ?_) <;> clear e | (with_reducible refine let2_kept kq kp e ?_ fun _ => ?_) <;> clear e | clear e) | (extract_lets +onlyGivenNames x) | with_reducible apply State.waitStep_kept | with_reducible apply State.setHd_kept | with_reducible apply State.admitAway_kept | with_reducible apply State.readDue_kept | with_reducible apply State.setCause_kept | with_reducible apply State.dmaRequest_kept | with_reducible apply State.bltLine_kept | with_reducible apply State.fetchWindow_kept | with_reducible apply State.wbFinish_kept | with_reducible apply State.prepareFrame_kept | split | simp -zeta only [upd_kept] | with_reducible apply foldl_kept | with_reducible apply foldl2_kept

theorem State.prefetch_kept {s : State} (h : Nat) (hk : s.Kept kq kp) :
    (State.prefetch s h).Kept kq kp := by
  delta State.prefetch
  repeat' first | with_reducible assumption | (intro) | (extract_lets +onlyGivenNames x; clear_value (e : x = _); first | (with_reducible refine let_kept kq kp e ?_ fun _ => ?_) <;> clear e | (with_reducible refine let2_kept kq kp e ?_ fun _ => ?_) <;> clear e | clear e) | (extract_lets +onlyGivenNames x) | with_reducible apply State.fetchLine_kept | split | with_reducible apply foldl_kept | with_reducible apply foldl2_kept

theorem State.frameEnd_kept {s : State} (h : Nat) (hk : s.Kept kq kp) :
    (State.frameEnd s h).Kept kq kp := by
  delta State.frameEnd
  repeat' first | with_reducible assumption | (extract_lets +onlyGivenNames x; clear_value (e : x = _); first | (with_reducible refine let_kept kq kp e ?_ fun _ => ?_) <;> clear e | (with_reducible refine let2_kept kq kp e ?_ fun _ => ?_) <;> clear e | clear e) | (extract_lets +onlyGivenNames x) | with_reducible apply State.headRelease_kept | with_reducible apply State.headStop_kept | with_reducible apply State.frameStart_kept | with_reducible apply State.windowStart_kept | with_reducible apply State.headRestart_kept | with_reducible apply State.prefetch_kept | split

theorem State.lineWindow_kept {s : State} (h : Nat) (hk : s.Kept kq kp) :
    (State.lineWindow s h).Kept kq kp := by
  delta State.lineWindow
  repeat' first | with_reducible assumption | (extract_lets +onlyGivenNames x; clear_value (e : x = _); first | (with_reducible refine let_kept kq kp e ?_ fun _ => ?_) <;> clear e | (with_reducible refine let2_kept kq kp e ?_ fun _ => ?_) <;> clear e | clear e) | (extract_lets +onlyGivenNames x) | with_reducible apply State.latchIfDue_kept | with_reducible apply State.deadlines_kept | with_reducible apply State.wbDrain_kept | with_reducible apply State.windowStart_kept | with_reducible apply State.frameEnd_kept | split

theorem execLineComplete_kept (h : Fin 4) {s : State} (hk : s.Kept kq kp) :
    OutKept kq kp (execLineComplete h s) := by
  delta execLineComplete
  repeat' first | with_reducible assumption | (intro) | with_reducible apply next_kept | with_reducible apply State.when_kept | with_reducible apply State.completeLine_kept

theorem execLineDeadline_kept (h : Fin 4) {s : State} (hk : s.Kept kq kp) :
    OutKept kq kp (execLineDeadline h s) := by
  delta execLineDeadline
  repeat' first | with_reducible assumption | (intro) | with_reducible apply next_kept | with_reducible apply State.when_kept | with_reducible apply State.underrun_kept

theorem execSlugQueue_kept (h : Fin 4) {s : State} (hk : s.Kept kq kp) :
    OutKept kq kp (execSlugQueue h s) := by
  delta execSlugQueue
  repeat' first | with_reducible assumption | (intro) | with_reducible apply next_kept | (extract_lets +onlyGivenNames x; clear_value (e : x = _); first | (with_reducible refine let_kept kq kp e ?_ fun _ => ?_) <;> clear e | (with_reducible refine let2_kept kq kp e ?_ fun _ => ?_) <;> clear e | clear e) | (extract_lets +onlyGivenNames x) | with_reducible apply State.when_kept | with_reducible apply State.cutOffs_kept | with_reducible apply State.loadStaged_kept | with_reducible apply State.fillGalleys_kept | with_reducible apply State.putEntry_kept | split

theorem execWbFrameComplete_kept (h : Fin 4) {s : State} (hk : s.Kept kq kp) :
    OutKept kq kp (execWbFrameComplete h s) := by
  delta execWbFrameComplete
  repeat' first | with_reducible assumption | (intro) | with_reducible apply next_kept | with_reducible apply State.when_kept | with_reducible apply State.wbDrain_kept | with_reducible apply State.wbFinish_kept

theorem execWaitLinesExpire_kept (l : Fin 64) {s : State} (hk : s.Kept kq kp) :
    OutKept kq kp (execWaitLinesExpire l s) := by
  delta execWaitLinesExpire
  repeat' first | with_reducible assumption | (intro) | with_reducible apply next_kept | (extract_lets +onlyGivenNames x; clear_value (e : x = _); first | (with_reducible refine let_kept kq kp e ?_ fun _ => ?_) <;> clear e | (with_reducible refine let2_kept kq kp e ?_ fun _ => ?_) <;> clear e | clear e) | (extract_lets +onlyGivenNames x) | with_reducible apply State.when_kept | with_reducible apply State.waitStep_kept | split | simp -zeta only [upd_kept]

theorem execLineCutoff_kept (l : Fin 64) {s : State} (hk : s.Kept kq kp) :
    OutKept kq kp (execLineCutoff l s) := by
  delta execLineCutoff
  repeat' first | with_reducible assumption | (intro) | with_reducible apply next_kept | (extract_lets +onlyGivenNames x; clear_value (e : x = _); first | (with_reducible refine let_kept kq kp e ?_ fun _ => ?_) <;> clear e | (with_reducible refine let2_kept kq kp e ?_ fun _ => ?_) <;> clear e | clear e) | (extract_lets +onlyGivenNames x) | with_reducible apply State.when_kept | with_reducible apply State.setLay_kept | with_reducible apply State.readDue_kept | split | simp -zeta only [upd_kept]

theorem State.lutStore_kept {s : State} (off : Nat) (v : Word) (behind : Bool) (hk : s.Kept kq kp) :
    (State.lutStore s off v behind).Kept kq kp := by
  delta State.lutStore
  repeat' first | with_reducible assumption | (intro) | (extract_lets +onlyGivenNames x; clear_value (e : x = _); first | (with_reducible refine let_kept kq kp e ?_ fun _ => ?_) <;> clear e | (with_reducible refine let2_kept kq kp e ?_ fun _ => ?_) <;> clear e | clear e) | (extract_lets +onlyGivenNames x) | with_reducible apply State.setReg_kept | split | simp -zeta only [upd_kept]

end Sys2Proof.Machine
end

