-- ==== Sys2Proof/Laws/KeptAdmit.lean ====
section
/-! SUPPORT. The operations of Machine/Admit.lean keep the queue, the part and the canonical form of the sparse stores. -/

namespace Sys2Proof.Machine

set_option linter.unusedTactic false
set_option linter.unreachableTactic false
set_option linter.tactic.unusedName false

variable {kq : List Instr} {kp : Part}

theorem State.regionEn_kept {s : State} (r : Option Nat) (v : Nat) (hk : s.Kept kq kp) :
    (State.regionEn s r v).Kept kq kp := by
  delta State.regionEn
  repeat' first | with_reducible assumption | (extract_lets +onlyGivenNames x; clear_value (e : x = _); first | (with_reducible refine let_kept kq kp e ?_ fun _ => ?_) <;> clear e | (with_reducible refine let2_kept kq kp e ?_ fun _ => ?_) <;> clear e | clear e) | (extract_lets +onlyGivenNames x) | with_reducible apply State.wr_kept | split | simp -zeta only [upd_kept]

theorem State.dropPlaced_kept {s : State} (h : Nat) (hk : s.Kept kq kp) :
    (State.dropPlaced s h).Kept kq kp := by
  delta State.dropPlaced
  repeat' first | with_reducible assumption | (intro) | (extract_lets +onlyGivenNames x; clear_value (e : x = _); first | (with_reducible refine let_kept kq kp e ?_ fun _ => ?_) <;> clear e | (with_reducible refine let2_kept kq kp e ?_ fun _ => ?_) <;> clear e | clear e) | (extract_lets +onlyGivenNames x) | with_reducible apply State.freeGalley_kept | with_reducible apply State.setHd_kept | simp -zeta only [upd_kept]

theorem State.placeQueue_kept {t : State} (bytes : Nat) (rd : Nat) (wr : Nat) (same : Bool) (kept : List (Option Nat)) (hk : t.Kept kq kp) :
    Opt2Kept kq kp (State.placeQueue t bytes rd wr same kept) := by
  delta State.placeQueue
  repeat' first | with_reducible assumption | with_reducible apply some_kept | with_reducible apply some2_kept | with_reducible apply none_kept | with_reducible apply none2_kept | with_reducible apply map_kept | with_reducible apply map2_kept | with_reducible apply bind_kept | with_reducible apply bind2_kept | (extract_lets +onlyGivenNames x; clear_value (e : x = _); first | (with_reducible refine let_kept kq kp e ?_ fun _ => ?_) <;> clear e | (with_reducible refine let2_kept kq kp e ?_ fun _ => ?_) <;> clear e | clear e) | (extract_lets +onlyGivenNames x) | with_reducible apply State.dsmSetRegion_kept | split | simp -zeta only [upd_kept]

theorem State.placeHead_kept {s : State} (h : Nat) (stage : Nat) (out : Nat) (hk : s.Kept kq kp) :
    OptKept kq kp (State.placeHead s h stage out) := by
  delta State.placeHead
  repeat' first | with_reducible assumption | (intro) | with_reducible apply some_kept | with_reducible apply some2_kept | with_reducible apply none_kept | with_reducible apply none2_kept | with_reducible apply map_kept | with_reducible apply map2_kept | with_reducible apply bind_kept | with_reducible apply bind2_kept | (rename_i e; (with_reducible refine of_opt2 kq kp e ?_ fun _ => ?_) <;> clear e) | (extract_lets +onlyGivenNames x; clear_value (e : x = _); first | (with_reducible refine let_kept kq kp e ?_ fun _ => ?_) <;> clear e | (with_reducible refine let2_kept kq kp e ?_ fun _ => ?_) <;> clear e | clear e) | (extract_lets +onlyGivenNames x) | with_reducible apply State.dropPlaced_kept | with_reducible apply State.regionEn_kept | with_reducible apply State.placeQueue_kept | with_reducible apply State.setHd_kept | split | simp -zeta only [upd_kept]

theorem State.shadowView_kept {s : State} (h : Nat) (hk : s.Kept kq kp) :
    (State.shadowView s h).Kept kq kp := by
  delta State.shadowView
  repeat' first | with_reducible assumption | (intro) | (extract_lets +onlyGivenNames x; clear_value (e : x = _); first | (with_reducible refine let_kept kq kp e ?_ fun _ => ?_) <;> clear e | (with_reducible refine let2_kept kq kp e ?_ fun _ => ?_) <;> clear e | clear e) | (extract_lets +onlyGivenNames x) | with_reducible apply State.latchPage_kept | with_reducible apply foldl_kept | with_reducible apply foldl2_kept

theorem State.admitIn_kept {s : State} {t : State} (h : Nat) (b : Nat → Nat) (need : Nat) (free : Nat) (hk : s.Kept kq kp) (hkt : t.Kept kq kp) :
    (State.admitIn s t h b need free).2.Kept kq kp := by
  delta State.admitIn
  repeat' first | with_reducible assumption | (intro) | (extract_lets +onlyGivenNames x; clear_value (e : x = _); first | (with_reducible refine let_kept kq kp e ?_ fun _ => ?_) <;> clear e | (with_reducible refine let2_kept kq kp e ?_ fun _ => ?_) <;> clear e | clear e) | (extract_lets +onlyGivenNames x) | split | dsimp -zeta only | simp -zeta only [upd_kept]

theorem State.placeFits_kept {s : State} (h : Nat) (q : Nat × Nat) (hk : s.Kept kq kp) :
    OptKept kq kp (State.placeFits s h q) := by
  delta State.placeFits
  repeat' first | with_reducible assumption | with_reducible apply some_kept | with_reducible apply some2_kept | with_reducible apply none_kept | with_reducible apply none2_kept | with_reducible apply map_kept | with_reducible apply map2_kept | with_reducible apply bind_kept | with_reducible apply bind2_kept | (rename_i e; (with_reducible refine of_opt kq kp e ?_ fun _ => ?_) <;> clear e) | with_reducible apply State.placeHead_kept | split

theorem State.admitPlaced_kept {s : State} (h : Nat) (b : Nat → Nat) (q : Nat × Nat) (r : Option State) (hk : s.Kept kq kp)
    (hr : OptKept kq kp r) : (s.admitPlaced h b q r).2.Kept kq kp := by
  cases r with
  | none => exact hk
  | some t => exact State.admitIn_kept h b (q.1 + q.2) (s.headFree h) hk (hr.kept t rfl)

theorem State.admitHead_kept {s : State} (h : Nat) (b : Nat → Nat) (hk : s.Kept kq kp) :
    (State.admitHead s h b).2.Kept kq kp := by
  unfold State.admitHead
  split
  · exact hk
  · exact State.admitPlaced_kept h b (s.queueNeeds h) _ hk (State.placeFits_kept h (s.queueNeeds h) hk)

end Sys2Proof.Machine
end

