-- ==== Sys2Proof/Laws/KeptForme.lean ====
section
/-! SUPPORT. The operations of Machine/Forme.lean keep the queue, the part and the canonical form of the sparse stores. -/

namespace Sys2Proof.Machine

set_option linter.unusedTactic false
set_option linter.unreachableTactic false
set_option linter.tactic.unusedName false

variable {kq : List Instr} {kp : Part}

theorem State.wrAddr_kept {s : State} (lo : Fld) (hi : Fld) (a : Nat) (hk : s.Kept kq kp) :
    (State.wrAddr s lo hi a).Kept kq kp := by
  delta State.wrAddr
  repeat' first | with_reducible assumption | with_reducible apply State.wr_kept

theorem State.writeBehind_kept {s : State} (pending : Bool) (page : Nat) (size : Nat) (f : State → State) (hk : s.Kept kq kp) (hf : ∀ t0, t0.Kept kq kp → (f t0).Kept kq kp) :
    (State.writeBehind s pending page size f).Kept kq kp := by
  delta State.writeBehind
  repeat' first | with_reducible assumption | (intro) | (extract_lets +onlyGivenNames x; clear_value (e : x = _); first | (with_reducible refine let_kept kq kp e ?_ fun _ => ?_) <;> clear e | (with_reducible refine let2_kept kq kp e ?_ fun _ => ?_) <;> clear e | clear e) | (extract_lets +onlyGivenNames x) | with_reducible apply hf | split | simp -zeta only [upd_kept]

theorem State.writeLayer_kept {s : State} (l : Nat) (f : State → State) (hk : s.Kept kq kp) (hf : ∀ t0, t0.Kept kq kp → (f t0).Kept kq kp) :
    (State.writeLayer s l f).Kept kq kp := by
  delta State.writeLayer
  repeat' first | with_reducible assumption | (extract_lets +onlyGivenNames x; clear_value (e : x = _); first | (with_reducible refine let_kept kq kp e ?_ fun _ => ?_) <;> clear e | (with_reducible refine let2_kept kq kp e ?_ fun _ => ?_) <;> clear e | clear e) | (extract_lets +onlyGivenNames x) | with_reducible apply State.preLatch_kept | with_reducible apply State.writeBehind_kept | with_reducible apply hf | split

theorem State.newGalley_kept {s : State} (l : Nat) (width : Nat) (hk : s.Kept kq kp) :
    OptKept kq kp (State.newGalley s l width) := by
  delta State.newGalley
  repeat' first | with_reducible assumption | (intro) | with_reducible apply some_kept | with_reducible apply some2_kept | with_reducible apply none_kept | with_reducible apply none2_kept | with_reducible apply map_kept | with_reducible apply map2_kept | with_reducible apply bind_kept | with_reducible apply bind2_kept | (rename_i e; (with_reducible refine of_opt2 kq kp e ?_ fun _ => ?_) <;> clear e) | (extract_lets +onlyGivenNames x; clear_value (e : x = _); first | (with_reducible refine let_kept kq kp e ?_ fun _ => ?_) <;> clear e | (with_reducible refine let2_kept kq kp e ?_ fun _ => ?_) <;> clear e | clear e) | (extract_lets +onlyGivenNames x) | with_reducible apply State.setLay_kept | with_reducible apply State.freeGalley_kept | with_reducible apply State.wr_kept | with_reducible apply State.dsmNewRegion_kept | with_reducible apply State.wrAddr_kept | split | simp -zeta only [upd_kept]

theorem State.writeDefine_kept {s : State} (p : List Byte) (hk : s.Kept kq kp) :
    (State.writeDefine s p).Kept kq kp := by
  delta State.writeDefine
  repeat' first | with_reducible assumption | (extract_lets +onlyGivenNames x; clear_value (e : x = _); first | (with_reducible refine let_kept kq kp e ?_ fun _ => ?_) <;> clear e | (with_reducible refine let2_kept kq kp e ?_ fun _ => ?_) <;> clear e | clear e) | (extract_lets +onlyGivenNames x) | with_reducible apply State.wr_kept | with_reducible apply State.wrAddr_kept

theorem execLayerDefine_kept {s : State} (hk : s.Kept kq kp) :
    OutKept kq kp (execLayerDefine s) := by
  delta execLayerDefine
  repeat' first | with_reducible assumption | (intro) | with_reducible apply next_kept | (rename_i e; (with_reducible refine of_opt kq kp e ?_ fun _ => ?_) <;> clear e) | with_reducible apply some_kept | with_reducible apply none_kept | with_reducible apply none2_kept | (extract_lets +onlyGivenNames x; clear_value (e : x = _); first | (with_reducible refine let_kept kq kp e ?_ fun _ => ?_) <;> clear e | (with_reducible refine let2_kept kq kp e ?_ fun _ => ?_) <;> clear e | clear e) | (extract_lets +onlyGivenNames x) | with_reducible apply State.serve_kept | with_reducible apply State.fail_kept | with_reducible apply State.preLatch_kept | with_reducible apply State.newGalley_kept | with_reducible apply State.writeLayer_kept | with_reducible apply State.writeDefine_kept | with_reducible apply State.ok_kept | split | with_reducible apply getD_kept | simp -zeta only [upd_kept]

theorem execLayerColour_kept {s : State} (hk : s.Kept kq kp) :
    OutKept kq kp (execLayerColour s) := by
  delta execLayerColour
  repeat' first | with_reducible assumption | (intro) | with_reducible apply next_kept | (extract_lets +onlyGivenNames x; clear_value (e : x = _); first | (with_reducible refine let_kept kq kp e ?_ fun _ => ?_) <;> clear e | (with_reducible refine let2_kept kq kp e ?_ fun _ => ?_) <;> clear e | clear e) | (extract_lets +onlyGivenNames x) | with_reducible apply State.serve_kept | with_reducible apply State.fail_kept | with_reducible apply State.writeLayer_kept | with_reducible apply State.wr_kept | with_reducible apply State.ok_kept | split | with_reducible apply foldl_kept | with_reducible apply foldl2_kept

theorem State.writeCoefs_kept {s : State} (l : Nat) (d : List Byte) (hk : s.Kept kq kp) :
    (State.writeCoefs s l d).Kept kq kp := by
  delta State.writeCoefs
  repeat' first | with_reducible assumption | (intro) | (extract_lets +onlyGivenNames x; clear_value (e : x = _); first | (with_reducible refine let_kept kq kp e ?_ fun _ => ?_) <;> clear e | (with_reducible refine let2_kept kq kp e ?_ fun _ => ?_) <;> clear e | clear e) | (extract_lets +onlyGivenNames x) | with_reducible apply State.wr_kept | with_reducible apply foldl_kept | with_reducible apply foldl2_kept

theorem execLayerScaler_kept {s : State} (hk : s.Kept kq kp) :
    OutKept kq kp (execLayerScaler s) := by
  delta execLayerScaler
  repeat' first | with_reducible assumption | (intro) | with_reducible apply next_kept | (extract_lets +onlyGivenNames x; clear_value (e : x = _); first | (with_reducible refine let_kept kq kp e ?_ fun _ => ?_) <;> clear e | (with_reducible refine let2_kept kq kp e ?_ fun _ => ?_) <;> clear e | clear e) | (extract_lets +onlyGivenNames x) | with_reducible apply State.serve_kept | with_reducible apply State.fail_kept | with_reducible apply State.fwRead_kept | with_reducible apply State.writeLayer_kept | with_reducible apply State.wr_kept | with_reducible apply State.writeCoefs_kept | with_reducible apply State.ok_kept | split

theorem State.writeLut_kept {s : State} (word : Nat → Nat → Fld) (n : Nat) (behind : Bool) (d : List Byte) (hk : s.Kept kq kp) :
    (State.writeLut s word n behind d).Kept kq kp := by
  delta State.writeLut
  repeat' first | with_reducible assumption | (intro) | (extract_lets +onlyGivenNames x; clear_value (e : x = _); first | (with_reducible refine let_kept kq kp e ?_ fun _ => ?_) <;> clear e | (with_reducible refine let2_kept kq kp e ?_ fun _ => ?_) <;> clear e | clear e) | (extract_lets +onlyGivenNames x) | with_reducible apply State.lutStore_kept | with_reducible apply foldl_kept | with_reducible apply foldl2_kept

theorem State.layerLutWrite_kept {s : State} (c : FwCmd) (d : List Byte) (hk : s.Kept kq kp) :
    (State.layerLutWrite s c d).Kept kq kp := by
  delta State.layerLutWrite
  repeat' first | with_reducible assumption | (intro) | (extract_lets +onlyGivenNames x; clear_value (e : x = _); first | (with_reducible refine let_kept kq kp e ?_ fun _ => ?_) <;> clear e | (with_reducible refine let2_kept kq kp e ?_ fun _ => ?_) <;> clear e | clear e) | (extract_lets +onlyGivenNames x) | with_reducible apply State.writeLayer_kept | with_reducible apply State.wr_kept | with_reducible apply State.writeLut_kept | with_reducible apply State.ok_kept | split

theorem execLayerLut_kept {s : State} (hk : s.Kept kq kp) :
    OutKept kq kp (execLayerLut s) := by
  delta execLayerLut
  repeat' first | with_reducible assumption | (intro) | with_reducible apply next_kept | (extract_lets +onlyGivenNames x; clear_value (e : x = _); first | (with_reducible refine let_kept kq kp e ?_ fun _ => ?_) <;> clear e | (with_reducible refine let2_kept kq kp e ?_ fun _ => ?_) <;> clear e | clear e) | (extract_lets +onlyGivenNames x) | with_reducible apply State.serve_kept | with_reducible apply State.fail_kept | with_reducible apply State.layerLutWrite_kept | with_reducible apply State.preLatch_kept | with_reducible apply State.fwRead_kept | with_reducible apply State.waitFor_kept | split

theorem execLayerKey_kept {s : State} (hk : s.Kept kq kp) :
    OutKept kq kp (execLayerKey s) := by
  delta execLayerKey
  repeat' first | with_reducible assumption | (intro) | with_reducible apply next_kept | (extract_lets +onlyGivenNames x; clear_value (e : x = _); first | (with_reducible refine let_kept kq kp e ?_ fun _ => ?_) <;> clear e | (with_reducible refine let2_kept kq kp e ?_ fun _ => ?_) <;> clear e | clear e) | (extract_lets +onlyGivenNames x) | with_reducible apply State.serve_kept | with_reducible apply State.fail_kept | with_reducible apply State.writeLayer_kept | with_reducible apply State.wr_kept | with_reducible apply State.ok_kept | split

theorem State.unroute_kept {s : State} (h : Nat) (keep : List Nat) (hk : s.Kept kq kp) :
    (State.unroute s h keep).Kept kq kp := by
  delta State.unroute
  repeat' first | with_reducible assumption | (intro) | (extract_lets +onlyGivenNames x; clear_value (e : x = _); first | (with_reducible refine let_kept kq kp e ?_ fun _ => ?_) <;> clear e | (with_reducible refine let2_kept kq kp e ?_ fun _ => ?_) <;> clear e | clear e) | (extract_lets +onlyGivenNames x) | with_reducible apply State.wr_kept | split | with_reducible apply foldl_kept | with_reducible apply foldl2_kept

theorem State.writeEntry_kept {s : State} (h : Nat) (p : List Byte) (i : Nat) (hk : s.Kept kq kp) :
    (State.writeEntry s h p i).Kept kq kp := by
  delta State.writeEntry
  repeat' first | with_reducible assumption | (extract_lets +onlyGivenNames x; clear_value (e : x = _); first | (with_reducible refine let_kept kq kp e ?_ fun _ => ?_) <;> clear e | (with_reducible refine let2_kept kq kp e ?_ fun _ => ?_) <;> clear e | clear e) | (extract_lets +onlyGivenNames x) | with_reducible apply State.wr_kept

theorem State.writeForme_kept {s : State} (h : Nat) (p : List Byte) (hk : s.Kept kq kp) :
    (State.writeForme s h p).Kept kq kp := by
  delta State.writeForme
  repeat' first | with_reducible assumption | (intro) | (extract_lets +onlyGivenNames x; clear_value (e : x = _); first | (with_reducible refine let_kept kq kp e ?_ fun _ => ?_) <;> clear e | (with_reducible refine let2_kept kq kp e ?_ fun _ => ?_) <;> clear e | clear e) | (extract_lets +onlyGivenNames x) | with_reducible apply State.unroute_kept | with_reducible apply State.wr_kept | with_reducible apply State.writeEntry_kept | with_reducible apply foldl_kept | with_reducible apply foldl2_kept

theorem State.formeView_kept {s : State} (h : Nat) (p : List Byte) (hk : s.Kept kq kp) :
    (State.formeView s h p).Kept kq kp := by
  delta State.formeView
  repeat' first | with_reducible assumption | (intro) | (extract_lets +onlyGivenNames x; clear_value (e : x = _); first | (with_reducible refine let_kept kq kp e ?_ fun _ => ?_) <;> clear e | (with_reducible refine let2_kept kq kp e ?_ fun _ => ?_) <;> clear e | clear e) | (extract_lets +onlyGivenNames x) | with_reducible apply State.writeForme_kept | with_reducible apply State.latchPage_kept | with_reducible apply foldl_kept | with_reducible apply foldl2_kept

theorem State.setAdm_kept {s : State} (h : Nat) (b : Nat) (hk : s.Kept kq kp) :
    (State.setAdm s h b).Kept kq kp := by
  delta State.setAdm
  repeat' first | with_reducible assumption | (intro) | (extract_lets +onlyGivenNames x; clear_value (e : x = _); first | (with_reducible refine let_kept kq kp e ?_ fun _ => ?_) <;> clear e | (with_reducible refine let2_kept kq kp e ?_ fun _ => ?_) <;> clear e | clear e) | (extract_lets +onlyGivenNames x) | with_reducible apply State.setHd_kept | simp -zeta only [upd_kept]

theorem State.goCommit_kept {s : State} (c : FwCmd) (hs : List Nat) (resp : List Byte) (force : Bool) (hk : s.Kept kq kp) :
    (State.goCommit s c hs resp force).Kept kq kp := by
  delta State.goCommit
  repeat' first | with_reducible assumption | (intro) | (extract_lets +onlyGivenNames x; clear_value (e : x = _); first | (with_reducible refine let_kept kq kp e ?_ fun _ => ?_) <;> clear e | (with_reducible refine let2_kept kq kp e ?_ fun _ => ?_) <;> clear e | clear e) | (extract_lets +onlyGivenNames x) | with_reducible apply State.waitFor_kept | with_reducible apply State.commitHead_kept | with_reducible apply State.commitGroup_kept | with_reducible apply State.finish_kept | with_reducible apply State.take_kept | split | simp -zeta only [upd_kept]

theorem State.applyForme_kept {s : State} (h : Nat) (p : List Byte) (hk : s.Kept kq kp) :
    (State.applyForme s h p).Kept kq kp := by
  delta State.applyForme
  repeat' first | with_reducible assumption | with_reducible apply State.wr_kept | with_reducible apply State.writeForme_kept

theorem State.setMarks_kept {s : State} {v : State} (h : Nat) (hk : s.Kept kq kp) (hkv : v.Kept kq kp) :
    (State.setMarks s v h).Kept kq kp := by
  delta State.setMarks
  repeat' first | with_reducible assumption | (intro) | (extract_lets +onlyGivenNames x; clear_value (e : x = _); first | (with_reducible refine let_kept kq kp e ?_ fun _ => ?_) <;> clear e | (with_reducible refine let2_kept kq kp e ?_ fun _ => ?_) <;> clear e | clear e) | (extract_lets +onlyGivenNames x) | with_reducible apply State.freeNat_kept | with_reducible apply State.wr_kept | with_reducible apply State.panicUpdate_kept | simp -zeta only [upd_kept] | with_reducible apply foldl_kept | with_reducible apply foldl2_kept

theorem State.takePlan_kept {s : State} {v : State} (h : Nat) (hk : s.Kept kq kp) (hkv : v.Kept kq kp) :
    (State.takePlan s v h).Kept kq kp := by
  delta State.takePlan
  repeat' first | with_reducible assumption | (rename_i e; (with_reducible refine of_opt kq kp e ?_ fun _ => ?_) <;> clear e) | with_reducible apply some_kept | with_reducible apply none_kept | with_reducible apply none2_kept | (extract_lets +onlyGivenNames x; clear_value (e : x = _); first | (with_reducible refine let_kept kq kp e ?_ fun _ => ?_) <;> clear e | (with_reducible refine let2_kept kq kp e ?_ fun _ => ?_) <;> clear e | clear e) | (extract_lets +onlyGivenNames x) | with_reducible apply State.placeHead_kept | with_reducible apply State.setAdm_kept | with_reducible apply State.setMarks_kept | with_reducible apply getD_kept

theorem State.flipPlanes_kept {s : State} (p : List Byte) (hk : s.Kept kq kp) :
    (State.flipPlanes s p).Kept kq kp := by
  delta State.flipPlanes
  repeat' first | with_reducible assumption | (extract_lets +onlyGivenNames x; clear_value (e : x = _); first | (with_reducible refine let_kept kq kp e ?_ fun _ => ?_) <;> clear e | (with_reducible refine let2_kept kq kp e ?_ fun _ => ?_) <;> clear e | clear e) | (extract_lets +onlyGivenNames x) | with_reducible apply State.wrAddr_kept

theorem State.applyHeadLut_kept {s : State} (p : List Byte) (d : List Byte) (behind : Bool) (hk : s.Kept kq kp) :
    (State.applyHeadLut s p d behind).Kept kq kp := by
  delta State.applyHeadLut
  repeat' first | with_reducible assumption | (intro) | (extract_lets +onlyGivenNames x; clear_value (e : x = _); first | (with_reducible refine let_kept kq kp e ?_ fun _ => ?_) <;> clear e | (with_reducible refine let2_kept kq kp e ?_ fun _ => ?_) <;> clear e | clear e) | (extract_lets +onlyGivenNames x) | with_reducible apply State.writeBehind_kept | with_reducible apply State.wr_kept | with_reducible apply State.writeLut_kept | split

end Sys2Proof.Machine
end

