-- ==== Sys2Proof/Laws/KeptHeadCmd.lean ====
section
/-! SUPPORT. The operations of Machine/HeadCmd.lean keep the queue, the part and the canonical form of the sparse stores. -/

namespace Sys2Proof.Machine

set_option linter.unusedTactic false
set_option linter.unreachableTactic false
set_option linter.tactic.unusedName false

variable {kq : List Instr} {kp : Part}

theorem State.writeTiming_kept {s : State} (p : List Byte) (hk : s.Kept kq kp) :
    (State.writeTiming s p).Kept kq kp := by
  delta State.writeTiming
  repeat' first | with_reducible assumption | (intro) | (extract_lets +onlyGivenNames x; clear_value (e : x = _); first | (with_reducible refine let_kept kq kp e ?_ fun _ => ?_) <;> clear e | (with_reducible refine let2_kept kq kp e ?_ fun _ => ?_) <;> clear e | have _f : State → _ := x | clear e) | (extract_lets +onlyGivenNames x) | with_reducible apply State.wr_kept | with_reducible apply State.setHd_kept | split | simp -zeta only [upd_kept] | (subst_vars; beta_reduce)

theorem State.timingView_kept {s : State} (p : List Byte) (hk : s.Kept kq kp) :
    (State.timingView s p).Kept kq kp := by
  delta State.timingView
  repeat' first | with_reducible assumption | with_reducible apply State.writeTiming_kept | with_reducible apply State.latchPage_kept

theorem State.writeWb_kept {s : State} (p : List Byte) (hk : s.Kept kq kp) :
    (State.writeWb s p).Kept kq kp := by
  delta State.writeWb
  repeat' first | with_reducible assumption | (extract_lets +onlyGivenNames x; clear_value (e : x = _); first | (with_reducible refine let_kept kq kp e ?_ fun _ => ?_) <;> clear e | (with_reducible refine let2_kept kq kp e ?_ fun _ => ?_) <;> clear e | clear e) | (extract_lets +onlyGivenNames x) | with_reducible apply State.wr_kept | with_reducible apply State.wrAddr_kept

theorem State.wbView_kept {s : State} (p : List Byte) (hk : s.Kept kq kp) :
    (State.wbView s p).Kept kq kp := by
  delta State.wbView
  repeat' first | with_reducible assumption | with_reducible apply State.writeWb_kept | with_reducible apply State.latchPage_kept

theorem State.writeMap_kept {s : State} (p : List Byte) (d : List Byte) (hk : s.Kept kq kp) :
    (State.writeMap s p d).Kept kq kp := by
  delta State.writeMap
  repeat' first | with_reducible assumption | (extract_lets +onlyGivenNames x; clear_value (e : x = _); first | (with_reducible refine let_kept kq kp e ?_ fun _ => ?_) <;> clear e | (with_reducible refine let2_kept kq kp e ?_ fun _ => ?_) <;> clear e | clear e) | (extract_lets +onlyGivenNames x) | with_reducible apply State.fwWrite_kept | with_reducible apply State.wrAddr_kept | with_reducible apply State.wr_kept

theorem State.mapView_kept {s : State} (p : List Byte) (d : List Byte) (hk : s.Kept kq kp) :
    (State.mapView s p d).Kept kq kp := by
  delta State.mapView
  repeat' first | with_reducible assumption | with_reducible apply State.writeMap_kept | with_reducible apply State.latchPage_kept

theorem State.groupView_kept {s : State} (fs : List (Nat × List Byte)) (hk : s.Kept kq kp) :
    (State.groupView s fs).Kept kq kp := by
  delta State.groupView
  repeat' first | with_reducible assumption | (intro) | (extract_lets +onlyGivenNames x; clear_value (e : x = _); first | (with_reducible refine let_kept kq kp e ?_ fun _ => ?_) <;> clear e | (with_reducible refine let2_kept kq kp e ?_ fun _ => ?_) <;> clear e | clear e) | (extract_lets +onlyGivenNames x) | with_reducible apply State.unroute_kept | with_reducible apply State.formeView_kept | with_reducible apply foldl_kept | with_reducible apply foldl2_kept

theorem State.dropBehind_kept {s : State} (h : Nat) (hk : s.Kept kq kp) :
    (State.dropBehind s h).Kept kq kp := by
  delta State.dropBehind
  repeat' first | with_reducible assumption | (intro) | (extract_lets +onlyGivenNames x; clear_value (e : x = _); first | (with_reducible refine let_kept kq kp e ?_ fun _ => ?_) <;> clear e | (with_reducible refine let2_kept kq kp e ?_ fun _ => ?_) <;> clear e | clear e) | (extract_lets +onlyGivenNames x) | split | simp -zeta only [upd_kept]

theorem State.applyCommit_kept {s : State} (c : FwCmd) (d : List Byte) (hk : s.Kept kq kp) :
    (State.applyCommit s c d).Kept kq kp := by
  delta State.applyCommit
  repeat' first | with_reducible assumption | (intro) | (extract_lets +onlyGivenNames x; clear_value (e : x = _); first | (with_reducible refine let_kept kq kp e ?_ fun _ => ?_) <;> clear e | (with_reducible refine let2_kept kq kp e ?_ fun _ => ?_) <;> clear e | clear e) | (extract_lets +onlyGivenNames x) | with_reducible apply State.flipPlanes_kept | with_reducible apply State.takePlan_kept | with_reducible apply State.formeView_kept | with_reducible apply State.applyForme_kept | with_reducible apply State.groupView_kept | with_reducible apply State.unroute_kept | with_reducible apply State.applyHeadLut_kept | with_reducible apply State.timingView_kept | with_reducible apply State.writeTiming_kept | with_reducible apply State.wbView_kept | with_reducible apply State.writeWb_kept | with_reducible apply State.mapView_kept | with_reducible apply State.writeMap_kept | split | with_reducible apply getD_kept | simp -zeta only [upd_kept] | with_reducible apply foldl_kept | with_reducible apply foldl2_kept

theorem State.cmpDivide_kept {s : State} (h : Nat) (d : Rate) (khz : Nat) (hk : s.Kept kq kp) :
    (State.cmpDivide s h d khz).Kept kq kp := by
  delta State.cmpDivide
  repeat' first | with_reducible assumption | (extract_lets +onlyGivenNames x; clear_value (e : x = _); first | (with_reducible refine let_kept kq kp e ?_ fun _ => ?_) <;> clear e | (with_reducible refine let2_kept kq kp e ?_ fun _ => ?_) <;> clear e | clear e) | (extract_lets +onlyGivenNames x) | with_reducible apply State.wr_kept | split

theorem State.goTiming_kept {s : State} (c : FwCmd) (old : Timing) (resp : List Byte) (force : Bool) (hk : s.Kept kq kp) :
    (State.goTiming s c old resp force).Kept kq kp := by
  delta State.goTiming
  repeat' first | with_reducible assumption | (intro) | (extract_lets +onlyGivenNames x; clear_value (e : x = _); first | (with_reducible refine let_kept kq kp e ?_ fun _ => ?_) <;> clear e | (with_reducible refine let2_kept kq kp e ?_ fun _ => ?_) <;> clear e | clear e) | (extract_lets +onlyGivenNames x) | with_reducible apply State.pllProgram_kept | with_reducible apply State.goCommit_kept | with_reducible apply State.cmpDivide_kept | with_reducible apply State.setHd_kept | with_reducible apply State.waitFor_kept | with_reducible apply State.commitHead_kept | split | simp -zeta only [upd_kept]

theorem State.startCommit_kept {s : State} (c : FwCmd) (hs : List Nat) (resp : List Byte) (d : List Byte) (force : Bool) (hk : s.Kept kq kp) :
    (State.startCommit s c hs resp d force).Kept kq kp := by
  delta State.startCommit
  repeat' first | with_reducible assumption | (intro) | (extract_lets +onlyGivenNames x; clear_value (e : x = _); first | (with_reducible refine let_kept kq kp e ?_ fun _ => ?_) <;> clear e | (with_reducible refine let2_kept kq kp e ?_ fun _ => ?_) <;> clear e | clear e) | (extract_lets +onlyGivenNames x) | with_reducible apply State.preLatch_kept | with_reducible apply State.waitFor_kept | with_reducible apply State.dropBehind_kept | with_reducible apply State.applyCommit_kept | with_reducible apply State.refuseGroup_kept | with_reducible apply State.finish_kept | with_reducible apply State.goTiming_kept | with_reducible apply State.goCommit_kept | split | with_reducible apply foldl_kept | with_reducible apply foldl2_kept

theorem State.goReef_kept {s : State} (c : FwCmd) (h : Nat) (deep : Bool) (hk : s.Kept kq kp) :
    (State.goReef s c h deep).Kept kq kp := by
  delta State.goReef
  repeat' first | with_reducible assumption | (extract_lets +onlyGivenNames x; clear_value (e : x = _); first | (with_reducible refine let_kept kq kp e ?_ fun _ => ?_) <;> clear e | (with_reducible refine let2_kept kq kp e ?_ fun _ => ?_) <;> clear e | clear e) | (extract_lets +onlyGivenNames x) | with_reducible apply State.reefEnter_kept | with_reducible apply State.waitFor_kept | with_reducible apply State.ok_kept | split

theorem State.submit_kept {s : State} (c : FwCmd) (hs : List Nat) (resp : List Byte) (d : List Byte) (hk : s.Kept kq kp) :
    (State.submit s c hs resp d).Kept kq kp := by
  delta State.submit
  repeat' first | with_reducible assumption | (intro) | (extract_lets +onlyGivenNames x; clear_value (e : x = _); first | (with_reducible refine let_kept kq kp e ?_ fun _ => ?_) <;> clear e | (with_reducible refine let2_kept kq kp e ?_ fun _ => ?_) <;> clear e | clear e) | (extract_lets +onlyGivenNames x) | with_reducible apply State.waitFor_kept | with_reducible apply State.startCommit_kept | split

theorem State.serveReef_kept {s : State} (hk : s.Kept kq kp) :
    (State.serveReef s).Kept kq kp := by
  delta State.serveReef
  repeat' first | with_reducible assumption | (intro) | (extract_lets +onlyGivenNames x; clear_value (e : x = _); first | (with_reducible refine let_kept kq kp e ?_ fun _ => ?_) <;> clear e | (with_reducible refine let2_kept kq kp e ?_ fun _ => ?_) <;> clear e | clear e) | (extract_lets +onlyGivenNames x) | with_reducible apply State.goReef_kept | with_reducible apply State.waitFor_kept | with_reducible apply State.startCommit_kept | split | simp -zeta only [upd_kept] | with_reducible apply foldl_kept | with_reducible apply foldl2_kept

theorem State.serveQueued_kept {s : State} (hk : s.Kept kq kp) :
    (State.serveQueued s).Kept kq kp := by
  delta State.serveQueued
  repeat' first | with_reducible assumption | (intro) | (extract_lets +onlyGivenNames x; clear_value (e : x = _); first | (with_reducible refine let_kept kq kp e ?_ fun _ => ?_) <;> clear e | (with_reducible refine let2_kept kq kp e ?_ fun _ => ?_) <;> clear e | clear e) | (extract_lets +onlyGivenNames x) | with_reducible apply State.startCommit_kept | with_reducible apply State.serveReef_kept | split | simp -zeta only [upd_kept] | with_reducible apply foldl_kept | with_reducible apply foldl2_kept

theorem execFormeCommit_kept {s : State} (hk : s.Kept kq kp) :
    OutKept kq kp (execFormeCommit s) := by
  delta execFormeCommit
  repeat' first | with_reducible assumption | (intro) | with_reducible apply next_kept | (extract_lets +onlyGivenNames x; clear_value (e : x = _); first | (with_reducible refine let_kept kq kp e ?_ fun _ => ?_) <;> clear e | (with_reducible refine let2_kept kq kp e ?_ fun _ => ?_) <;> clear e | clear e) | (extract_lets +onlyGivenNames x) | with_reducible apply State.serve_kept | with_reducible apply State.fail_kept | with_reducible apply State.formeView_kept | with_reducible apply State.admitHead_kept | with_reducible apply State.finish_kept | with_reducible apply State.submit_kept | split

theorem execFormeGroupCommit_kept {s : State} (hk : s.Kept kq kp) :
    OutKept kq kp (execFormeGroupCommit s) := by
  delta execFormeGroupCommit
  repeat' first | with_reducible assumption | (intro) | with_reducible apply next_kept | (extract_lets +onlyGivenNames x; clear_value (e : x = _); first | (with_reducible refine let_kept kq kp e ?_ fun _ => ?_) <;> clear e | (with_reducible refine let2_kept kq kp e ?_ fun _ => ?_) <;> clear e | clear e) | (extract_lets +onlyGivenNames x) | with_reducible apply State.serve_kept | with_reducible apply State.fail_kept | with_reducible apply State.fwRead_kept | with_reducible apply State.finish_kept | with_reducible apply State.groupView_kept | with_reducible apply State.submit_kept | split | simp -zeta only [upd_kept] | with_reducible apply foldl_kept | with_reducible apply foldl2_kept

theorem execLayerFlip_kept {s : State} (hk : s.Kept kq kp) :
    OutKept kq kp (execLayerFlip s) := by
  delta execLayerFlip
  repeat' first | with_reducible assumption | (intro) | with_reducible apply next_kept | (extract_lets +onlyGivenNames x; clear_value (e : x = _); first | (with_reducible refine let_kept kq kp e ?_ fun _ => ?_) <;> clear e | (with_reducible refine let2_kept kq kp e ?_ fun _ => ?_) <;> clear e | clear e) | (extract_lets +onlyGivenNames x) | with_reducible apply State.serve_kept | with_reducible apply State.fail_kept | with_reducible apply State.submit_kept | split | simp -zeta only [upd_kept]

theorem State.headLutWrite_kept {s : State} (c : FwCmd) (d : List Byte) (hk : s.Kept kq kp) :
    (State.headLutWrite s c d).Kept kq kp := by
  delta State.headLutWrite
  repeat' first | with_reducible assumption | with_reducible apply State.applyHeadLut_kept | with_reducible apply State.finish_kept

theorem State.lutServe_kept {s : State} (t : Nat) (hk : s.Kept kq kp) :
    (State.lutServe s t).Kept kq kp := by
  delta State.lutServe
  repeat' first | with_reducible assumption | (intro) | (extract_lets +onlyGivenNames x; clear_value (e : x = _); first | (with_reducible refine let_kept kq kp e ?_ fun _ => ?_) <;> clear e | (with_reducible refine let2_kept kq kp e ?_ fun _ => ?_) <;> clear e | clear e) | (extract_lets +onlyGivenNames x) | with_reducible apply State.layerLutWrite_kept | with_reducible apply State.headLutWrite_kept | with_reducible apply State.startCommit_kept | split | simp -zeta only [upd_kept] | with_reducible apply foldl_kept | with_reducible apply foldl2_kept

theorem execHeadLut_kept {s : State} (hk : s.Kept kq kp) :
    OutKept kq kp (execHeadLut s) := by
  delta execHeadLut
  repeat' first | with_reducible assumption | (intro) | with_reducible apply next_kept | (extract_lets +onlyGivenNames x; clear_value (e : x = _); first | (with_reducible refine let_kept kq kp e ?_ fun _ => ?_) <;> clear e | (with_reducible refine let2_kept kq kp e ?_ fun _ => ?_) <;> clear e | clear e) | (extract_lets +onlyGivenNames x) | with_reducible apply State.serve_kept | with_reducible apply State.fail_kept | with_reducible apply State.fwRead_kept | with_reducible apply State.submit_kept | with_reducible apply State.preLatch_kept | with_reducible apply State.waitFor_kept | with_reducible apply State.headLutWrite_kept | split

theorem execSetTiming_kept {s : State} (hk : s.Kept kq kp) :
    OutKept kq kp (execSetTiming s) := by
  delta execSetTiming
  repeat' first | with_reducible assumption | (intro) | with_reducible apply next_kept | (extract_lets +onlyGivenNames x; clear_value (e : x = _); first | (with_reducible refine let_kept kq kp e ?_ fun _ => ?_) <;> clear e | (with_reducible refine let2_kept kq kp e ?_ fun _ => ?_) <;> clear e | clear e) | (extract_lets +onlyGivenNames x) | with_reducible apply State.serve_kept | with_reducible apply State.waitFor_kept | with_reducible apply State.fail_kept | with_reducible apply State.timingView_kept | with_reducible apply State.admitHead_kept | with_reducible apply State.finish_kept | with_reducible apply State.submit_kept | split | simp -zeta only [upd_kept]

theorem execHeadWriteback_kept {s : State} (hk : s.Kept kq kp) :
    OutKept kq kp (execHeadWriteback s) := by
  delta execHeadWriteback
  repeat' first | with_reducible assumption | (intro) | with_reducible apply next_kept | (extract_lets +onlyGivenNames x; clear_value (e : x = _); first | (with_reducible refine let_kept kq kp e ?_ fun _ => ?_) <;> clear e | (with_reducible refine let2_kept kq kp e ?_ fun _ => ?_) <;> clear e | clear e) | (extract_lets +onlyGivenNames x) | with_reducible apply State.serve_kept | with_reducible apply State.fail_kept | with_reducible apply State.wbView_kept | with_reducible apply State.admitHead_kept | with_reducible apply State.finish_kept | with_reducible apply State.fillRange_kept | with_reducible apply State.submit_kept | split

theorem execCabinetMapLoad_kept {s : State} (hk : s.Kept kq kp) :
    OutKept kq kp (execCabinetMapLoad s) := by
  delta execCabinetMapLoad
  repeat' first | with_reducible assumption | (intro) | with_reducible apply next_kept | (extract_lets +onlyGivenNames x; clear_value (e : x = _); first | (with_reducible refine let_kept kq kp e ?_ fun _ => ?_) <;> clear e | (with_reducible refine let2_kept kq kp e ?_ fun _ => ?_) <;> clear e | clear e) | (extract_lets +onlyGivenNames x) | with_reducible apply State.serve_kept | with_reducible apply State.fail_kept | with_reducible apply State.fwRead_kept | with_reducible apply State.finish_kept | with_reducible apply State.mapView_kept | with_reducible apply State.admitHead_kept | with_reducible apply State.submit_kept | split | simp -zeta only [upd_kept]

theorem execHeadRun_kept {s : State} (hk : s.Kept kq kp) :
    OutKept kq kp (execHeadRun s) := by
  delta execHeadRun
  repeat' first | with_reducible assumption | (intro) | with_reducible apply next_kept | (extract_lets +onlyGivenNames x; clear_value (e : x = _); first | (with_reducible refine let_kept kq kp e ?_ fun _ => ?_) <;> clear e | (with_reducible refine let2_kept kq kp e ?_ fun _ => ?_) <;> clear e | clear e) | (extract_lets +onlyGivenNames x) | with_reducible apply State.serve_kept | with_reducible apply State.fail_kept | with_reducible apply State.ok_kept | with_reducible apply State.headStart_kept | with_reducible apply State.waitFor_kept | with_reducible apply State.headOff_kept | split

theorem execHeadReef_kept {s : State} (hk : s.Kept kq kp) :
    OutKept kq kp (execHeadReef s) := by
  delta execHeadReef
  repeat' first | with_reducible assumption | (intro) | with_reducible apply next_kept | (extract_lets +onlyGivenNames x; clear_value (e : x = _); first | (with_reducible refine let_kept kq kp e ?_ fun _ => ?_) <;> clear e | (with_reducible refine let2_kept kq kp e ?_ fun _ => ?_) <;> clear e | clear e) | (extract_lets +onlyGivenNames x) | with_reducible apply State.serve_kept | with_reducible apply State.fail_kept | with_reducible apply State.ok_kept | with_reducible apply State.waitFor_kept | with_reducible apply State.goReef_kept | with_reducible apply State.reefExit_kept | split

theorem execSheetPortSet_kept {s : State} (hk : s.Kept kq kp) :
    OutKept kq kp (execSheetPortSet s) := by
  delta execSheetPortSet
  repeat' first | with_reducible assumption | (intro) | with_reducible apply next_kept | (extract_lets +onlyGivenNames x; clear_value (e : x = _); first | (with_reducible refine let_kept kq kp e ?_ fun _ => ?_) <;> clear e | (with_reducible refine let2_kept kq kp e ?_ fun _ => ?_) <;> clear e | clear e) | (extract_lets +onlyGivenNames x) | with_reducible apply State.serve_kept | with_reducible apply State.fail_kept | with_reducible apply State.wr_kept | with_reducible apply State.sheetDown_kept | with_reducible apply State.setPairMode_kept | with_reducible apply State.probesOff_kept | with_reducible apply State.ok_kept | split

theorem execLatch_kept (h : Fin 4) {s : State} (hk : s.Kept kq kp) :
    OutKept kq kp (execLatch h s) := by
  delta execLatch
  repeat' first | with_reducible assumption | (intro) | with_reducible apply next_kept | with_reducible apply State.when_kept | with_reducible apply State.preLatch_kept | with_reducible apply State.serveQueued_kept

theorem execLineWindowStart_kept (h : Fin 4) {s : State} (hk : s.Kept kq kp) :
    OutKept kq kp (execLineWindowStart h s) := by
  delta execLineWindowStart
  repeat' first | with_reducible assumption | (intro) | with_reducible apply next_kept | with_reducible apply State.when_kept | with_reducible apply State.withFsync_kept | with_reducible apply State.lineWindow_kept | with_reducible apply State.serveQueued_kept | simp -zeta only [upd_kept]

theorem execHeadStop_kept (h : Fin 4) {s : State} (hk : s.Kept kq kp) :
    OutKept kq kp (execHeadStop h s) := by
  delta execHeadStop
  repeat' first | with_reducible assumption | (intro) | with_reducible apply next_kept | (extract_lets +onlyGivenNames x; clear_value (e : x = _); first | (with_reducible refine let_kept kq kp e ?_ fun _ => ?_) <;> clear e | (with_reducible refine let2_kept kq kp e ?_ fun _ => ?_) <;> clear e | clear e) | (extract_lets +onlyGivenNames x) | with_reducible apply State.when_kept | with_reducible apply State.latchIfDue_kept | with_reducible apply State.deadlines_kept | with_reducible apply State.headRelease_kept | with_reducible apply State.withFsync_kept | with_reducible apply State.headStop_kept | with_reducible apply State.serveQueued_kept | split | simp -zeta only [upd_kept]

theorem execHeadRestart_kept (h : Fin 4) {s : State} (hk : s.Kept kq kp) :
    OutKept kq kp (execHeadRestart h s) := by
  delta execHeadRestart
  repeat' first | with_reducible assumption | (intro) | with_reducible apply next_kept | with_reducible apply State.when_kept | with_reducible apply State.withFsync_kept | with_reducible apply State.headRestart_kept | with_reducible apply State.prefetch_kept | with_reducible apply State.windowStart_kept | with_reducible apply State.serveQueued_kept | simp -zeta only [upd_kept]

theorem execRelease_kept (h : Fin 4) {s : State} (hk : s.Kept kq kp) :
    OutKept kq kp (execRelease h s) := by
  delta execRelease
  repeat' first | with_reducible assumption | (intro) | with_reducible apply next_kept | with_reducible apply State.when_kept | with_reducible apply State.deadlines_kept | with_reducible apply State.headRelease_kept | with_reducible apply State.serveQueued_kept

theorem State.statsClr_kept {s : State} (h : Nat) (hk : s.Kept kq kp) :
    (State.statsClr s h).Kept kq kp := by
  delta State.statsClr
  repeat' first | with_reducible assumption | with_reducible apply State.wr_kept

end Sys2Proof.Machine
end

