-- ==== Sys2Proof/Laws/KeptClocks.lean ====
section
/-! SUPPORT. The operations of Machine/Clocks.lean keep the queue, the part and the canonical form of the sparse stores. -/

namespace Sys2Proof.Machine

set_option linter.unusedTactic false
set_option linter.unreachableTactic false
set_option linter.tactic.unusedName false

variable {kq : List Instr} {kp : Part}

theorem State.setClocks_kept {s : State} (f : Clocks → Clocks) (hk : s.Kept kq kp) :
    (State.setClocks s f).Kept kq kp := by
  delta State.setClocks
  repeat' first | with_reducible assumption | (extract_lets +onlyGivenNames x; clear_value (e : x = _); first | (with_reducible refine let_kept kq kp e ?_ fun _ => ?_) <;> clear e | (with_reducible refine let2_kept kq kp e ?_ fun _ => ?_) <;> clear e | clear e) | (extract_lets +onlyGivenNames x) | simp -zeta only [upd_kept]

theorem State.modeLock_kept {s : State} (h : Nat) (hk : s.Kept kq kp) :
    (State.modeLock s h).Kept kq kp := by
  delta State.modeLock
  repeat' first | with_reducible assumption | (intro) | (extract_lets +onlyGivenNames x; clear_value (e : x = _); first | (with_reducible refine let_kept kq kp e ?_ fun _ => ?_) <;> clear e | (with_reducible refine let2_kept kq kp e ?_ fun _ => ?_) <;> clear e | clear e) | (extract_lets +onlyGivenNames x) | with_reducible apply State.setHd_kept | with_reducible apply State.requestRestart_kept | split | simp -zeta only [upd_kept]

theorem execPllLock_kept (n : Fin 4) {s : State} (hk : s.Kept kq kp) :
    OutKept kq kp (execPllLock n s) := by
  delta execPllLock
  repeat' first | with_reducible assumption | (intro) | with_reducible apply next_kept | (extract_lets +onlyGivenNames x; clear_value (e : x = _); first | (with_reducible refine let_kept kq kp e ?_ fun _ => ?_) <;> clear e | (with_reducible refine let2_kept kq kp e ?_ fun _ => ?_) <;> clear e | clear e) | (extract_lets +onlyGivenNames x) | with_reducible apply State.wr_kept | with_reducible apply State.setPll_kept | with_reducible apply State.setHd_kept | with_reducible apply State.modeLock_kept | split | simp -zeta only [upd_kept]

theorem execPllUnlock_kept (n : Fin 4) {s : State} (hk : s.Kept kq kp) :
    OutKept kq kp (execPllUnlock n s) := by
  delta execPllUnlock
  repeat' first | with_reducible assumption | with_reducible apply next_kept | with_reducible apply State.pllRelock_kept | with_reducible apply State.headUnlock_kept | split

theorem State.rampEnd_kept {s : State} (n : Nat) (hk : s.Kept kq kp) :
    (State.rampEnd s n).Kept kq kp := by
  delta State.rampEnd
  repeat' first | with_reducible assumption | (intro) | (extract_lets +onlyGivenNames x; clear_value (e : x = _); first | (with_reducible refine let_kept kq kp e ?_ fun _ => ?_) <;> clear e | (with_reducible refine let2_kept kq kp e ?_ fun _ => ?_) <;> clear e | clear e) | (extract_lets +onlyGivenNames x) | with_reducible apply State.wr_kept | with_reducible apply State.setPll_kept | with_reducible apply State.modeLock_kept | simp -zeta only [upd_kept]

theorem execRampSegmentEnd_kept (n : Fin 4) {s : State} (hk : s.Kept kq kp) :
    OutKept kq kp (execRampSegmentEnd n s) := by
  delta execRampSegmentEnd
  repeat' first | with_reducible assumption | (intro) | with_reducible apply next_kept | (extract_lets +onlyGivenNames x; clear_value (e : x = _); first | (with_reducible refine let_kept kq kp e ?_ fun _ => ?_) <;> clear e | (with_reducible refine let2_kept kq kp e ?_ fun _ => ?_) <;> clear e | clear e) | (extract_lets +onlyGivenNames x) | with_reducible apply State.setPll_kept | with_reducible apply State.rampEnd_kept | split | simp -zeta only [upd_kept]

theorem execSyncEdge_kept {s : State} (hk : s.Kept kq kp) :
    OutKept kq kp (execSyncEdge s) := by
  delta execSyncEdge
  repeat' first | with_reducible assumption | (intro) | with_reducible apply next_kept | (extract_lets +onlyGivenNames x; clear_value (e : x = _); first | (with_reducible refine let_kept kq kp e ?_ fun _ => ?_) <;> clear e | (with_reducible refine let2_kept kq kp e ?_ fun _ => ?_) <;> clear e | clear e) | (extract_lets +onlyGivenNames x) | with_reducible apply State.count_kept | with_reducible apply State.setCause_kept | with_reducible apply State.setPll_kept | split | simp -zeta only [upd_kept] | with_reducible apply foldl_kept | with_reducible apply foldl2_kept

theorem State.refLost_kept {s : State} (p : Nat → Bool) (hk : s.Kept kq kp) :
    (State.refLost s p).Kept kq kp := by
  delta State.refLost
  repeat' first | with_reducible assumption | (intro) | with_reducible apply State.alignLost_kept | split | with_reducible apply foldl_kept | with_reducible apply foldl2_kept

theorem State.genlockTimeout_kept {s : State} (hk : s.Kept kq kp) :
    (State.genlockTimeout s).Kept kq kp := by
  delta State.genlockTimeout
  repeat' first | with_reducible assumption | (intro) | (extract_lets +onlyGivenNames x; clear_value (e : x = _); first | (with_reducible refine let_kept kq kp e ?_ fun _ => ?_) <;> clear e | (with_reducible refine let2_kept kq kp e ?_ fun _ => ?_) <;> clear e | clear e) | (extract_lets +onlyGivenNames x) | with_reducible apply State.wr_kept | with_reducible apply State.setCause_kept | with_reducible apply State.report_kept | with_reducible apply State.setClocks_kept | with_reducible apply State.refLost_kept | split | simp -zeta only [upd_kept]

theorem execGenlockEdge_kept {s : State} (hk : s.Kept kq kp) :
    OutKept kq kp (execGenlockEdge s) := by
  delta execGenlockEdge
  repeat' first | with_reducible assumption | (intro) | with_reducible apply next_kept | (extract_lets +onlyGivenNames x; clear_value (e : x = _); first | (with_reducible refine let_kept kq kp e ?_ fun _ => ?_) <;> clear e | (with_reducible refine let2_kept kq kp e ?_ fun _ => ?_) <;> clear e | clear e) | (extract_lets +onlyGivenNames x) | with_reducible apply State.genlockTimeout_kept | with_reducible apply State.setClocks_kept | with_reducible apply State.take_kept | with_reducible apply State.wr_kept | with_reducible apply State.setCause_kept | with_reducible apply State.count_kept | split | simp -zeta only [upd_kept]

theorem execGenlockLoss_kept {s : State} (hk : s.Kept kq kp) :
    OutKept kq kp (execGenlockLoss s) := by
  delta execGenlockLoss
  repeat' first | with_reducible assumption | (intro) | with_reducible apply next_kept | with_reducible apply State.when_kept | with_reducible apply State.genlockTimeout_kept

theorem State.genlockWrite_kept {s : State} (en : Nat) (pol : Nat) (hk : s.Kept kq kp) :
    (State.genlockWrite s en pol).Kept kq kp := by
  delta State.genlockWrite
  repeat' first | with_reducible assumption | (intro) | (extract_lets +onlyGivenNames x; clear_value (e : x = _); first | (with_reducible refine let_kept kq kp e ?_ fun _ => ?_) <;> clear e | (with_reducible refine let2_kept kq kp e ?_ fun _ => ?_) <;> clear e | clear e) | (extract_lets +onlyGivenNames x) | with_reducible apply State.setClocks_kept | with_reducible apply State.wr_kept | split | simp -zeta only [upd_kept]

theorem State.gateStep_kept {s : State} (p : Nat) (hk : s.Kept kq kp) :
    (State.gateStep s p).Kept kq kp := by
  delta State.gateStep
  repeat' first | with_reducible assumption | (extract_lets +onlyGivenNames x; clear_value (e : x = _); first | (with_reducible refine let_kept kq kp e ?_ fun _ => ?_) <;> clear e | (with_reducible refine let2_kept kq kp e ?_ fun _ => ?_) <;> clear e | clear e) | (extract_lets +onlyGivenNames x) | with_reducible apply State.gateOperate_kept | with_reducible apply State.wr_kept | split | simp -zeta only [upd_kept]

theorem State.timeStep_kept {s : State} (t : Nat) (hk : s.Kept kq kp) :
    (State.timeStep s t).Kept kq kp := by
  delta State.timeStep
  repeat' first | with_reducible assumption | (intro) | (extract_lets +onlyGivenNames x; clear_value (e : x = _); first | (with_reducible refine let_kept kq kp e ?_ fun _ => ?_) <;> clear e | (with_reducible refine let2_kept kq kp e ?_ fun _ => ?_) <;> clear e | clear e) | (extract_lets +onlyGivenNames x) | with_reducible apply State.measureStep_kept | with_reducible apply State.setCause_kept | with_reducible apply State.report_kept | with_reducible apply State.gateStep_kept | simp -zeta only [upd_kept] | with_reducible apply foldl_kept | with_reducible apply foldl2_kept

theorem State.setGo_kept {s : State} (hk : s.Kept kq kp) :
    (State.setGo s).Kept kq kp := by
  delta State.setGo
  repeat' first | with_reducible assumption | with_reducible apply State.timeStep_kept

theorem State.slew_kept {s : State} (hk : s.Kept kq kp) :
    (State.slew s).Kept kq kp := by
  delta State.slew
  repeat' first | with_reducible assumption | (extract_lets +onlyGivenNames x; clear_value (e : x = _); first | (with_reducible refine let_kept kq kp e ?_ fun _ => ?_) <;> clear e | (with_reducible refine let2_kept kq kp e ?_ fun _ => ?_) <;> clear e | clear e) | (extract_lets +onlyGivenNames x) | with_reducible apply State.freeNat_kept | with_reducible apply State.setAdj_kept

theorem execTimeDiscipline_kept {s : State} (hk : s.Kept kq kp) :
    OutKept kq kp (execTimeDiscipline s) := by
  delta execTimeDiscipline
  repeat' first | with_reducible assumption | (intro) | with_reducible apply next_kept | (extract_lets +onlyGivenNames x; clear_value (e : x = _); first | (with_reducible refine let_kept kq kp e ?_ fun _ => ?_) <;> clear e | (with_reducible refine let2_kept kq kp e ?_ fun _ => ?_) <;> clear e | clear e) | (extract_lets +onlyGivenNames x) | with_reducible apply State.setClocks_kept | with_reducible apply State.timeStep_kept | with_reducible apply State.slew_kept | split | simp -zeta only [upd_kept]

theorem execHoldoverExpire_kept {s : State} (hk : s.Kept kq kp) :
    OutKept kq kp (execHoldoverExpire s) := by
  delta execHoldoverExpire
  repeat' first | with_reducible assumption | with_reducible apply next_kept | with_reducible apply State.retime_kept | split

theorem execTimeValidLoss_kept {s : State} (hk : s.Kept kq kp) :
    OutKept kq kp (execTimeValidLoss s) := by
  delta execTimeValidLoss
  repeat' first | with_reducible assumption | with_reducible apply next_kept | with_reducible apply State.timeLost_kept | split

theorem execTimeConfig_kept {s : State} (hk : s.Kept kq kp) :
    OutKept kq kp (execTimeConfig s) := by
  delta execTimeConfig
  repeat' first | with_reducible assumption | (intro) | with_reducible apply next_kept | (extract_lets +onlyGivenNames x; clear_value (e : x = _); first | (with_reducible refine let_kept kq kp e ?_ fun _ => ?_) <;> clear e | (with_reducible refine let2_kept kq kp e ?_ fun _ => ?_) <;> clear e | clear e) | (extract_lets +onlyGivenNames x) | with_reducible apply State.serve_kept | with_reducible apply State.fail_kept | with_reducible apply State.commandCovers_kept | with_reducible apply State.wr_kept | with_reducible apply State.setClocks_kept | with_reducible apply State.retime_kept | with_reducible apply State.ok_kept | split | simp -zeta only [upd_kept]

theorem State.captureTime_kept {s : State} (hk : s.Kept kq kp) :
    (State.captureTime s).Kept kq kp := by
  exact ⟨hk.1, hk.2, hk.3, hk.4, hk.5, hk.6, Sparse.put_wf (Sparse.put_wf hk.7)⟩

theorem execTimeGet_kept {s : State} (hk : s.Kept kq kp) :
    OutKept kq kp (execTimeGet s) := by
  delta execTimeGet
  repeat' first | with_reducible assumption | (intro) | with_reducible apply next_kept | with_reducible apply State.serve_kept | with_reducible apply State.captureTime_kept | with_reducible apply State.finish_kept

theorem execGenlockSet_kept {s : State} (hk : s.Kept kq kp) :
    OutKept kq kp (execGenlockSet s) := by
  delta execGenlockSet
  repeat' first | with_reducible assumption | (intro) | with_reducible apply next_kept | (extract_lets +onlyGivenNames x; clear_value (e : x = _); first | (with_reducible refine let_kept kq kp e ?_ fun _ => ?_) <;> clear e | (with_reducible refine let2_kept kq kp e ?_ fun _ => ?_) <;> clear e | clear e) | (extract_lets +onlyGivenNames x) | with_reducible apply State.serve_kept | with_reducible apply State.fail_kept | with_reducible apply State.wr_kept | with_reducible apply State.genlockWrite_kept | with_reducible apply State.ok_kept | split | with_reducible apply getD_kept | with_reducible apply foldl_kept | with_reducible apply foldl2_kept

theorem execClockOutSet_kept {s : State} (hk : s.Kept kq kp) :
    OutKept kq kp (execClockOutSet s) := by
  delta execClockOutSet
  repeat' first | with_reducible assumption | (intro) | with_reducible apply next_kept | (extract_lets +onlyGivenNames x; clear_value (e : x = _); first | (with_reducible refine let_kept kq kp e ?_ fun _ => ?_) <;> clear e | (with_reducible refine let2_kept kq kp e ?_ fun _ => ?_) <;> clear e | clear e) | (extract_lets +onlyGivenNames x) | with_reducible apply State.serve_kept | with_reducible apply State.fail_kept | with_reducible apply State.wr_kept | with_reducible apply State.ok_kept | split | with_reducible apply foldl_kept | with_reducible apply foldl2_kept

theorem State.syncRestart_kept {s : State} (n : Nat) (hk : s.Kept kq kp) :
    (State.syncRestart s n).Kept kq kp := by
  delta State.syncRestart
  repeat' first | with_reducible assumption | (intro) | (extract_lets +onlyGivenNames x; clear_value (e : x = _); first | (with_reducible refine let_kept kq kp e ?_ fun _ => ?_) <;> clear e | (with_reducible refine let2_kept kq kp e ?_ fun _ => ?_) <;> clear e | clear e) | (extract_lets +onlyGivenNames x) | with_reducible apply State.setPll_kept | with_reducible apply State.wr_kept | split | simp -zeta only [upd_kept]

theorem State.tick_kept {s : State} (hk : s.Kept kq kp) :
    (State.tick s).Kept kq kp := by
  delta State.tick
  repeat' first | with_reducible assumption | (extract_lets +onlyGivenNames x; clear_value (e : x = _); first | (with_reducible refine let_kept kq kp e ?_ fun _ => ?_) <;> clear e | (with_reducible refine let2_kept kq kp e ?_ fun _ => ?_) <;> clear e | clear e) | (extract_lets +onlyGivenNames x) | with_reducible apply State.syncRestart_kept | split | simp -zeta only [upd_kept]

end Sys2Proof.Machine
end

