-- ==== Sys2Proof/Laws/KeptStream.lean ====
section
/-! SUPPORT. The operations of Machine/Stream.lean keep the queue, the part and the canonical form of the sparse stores. -/

namespace Sys2Proof.Machine

set_option linter.unusedTactic false
set_option linter.unreachableTactic false
set_option linter.tactic.unusedName false

variable {kq : List Instr} {kp : Part}

theorem State.storeFields_kept {s : State} (k : Nat) (hk : s.Kept kq kp) :
    (State.storeFields s k).Kept kq kp := by
  delta State.storeFields
  repeat' first | with_reducible assumption | (extract_lets +onlyGivenNames x; clear_value (e : x = _); first | (with_reducible refine let_kept kq kp e ?_ fun _ => ?_) <;> clear e | (with_reducible refine let2_kept kq kp e ?_ fun _ => ?_) <;> clear e | clear e) | (extract_lets +onlyGivenNames x) | with_reducible apply State.wr_kept

theorem State.storePix_kept {s : State} (ws : List PixWrite) (hk : s.Kept kq kp) :
    (State.storePix s ws).Kept kq kp := by
  delta State.storePix
  repeat' first | with_reducible assumption | (intro) | (extract_lets +onlyGivenNames x; clear_value (e : x = _); first | (with_reducible refine let_kept kq kp e ?_ fun _ => ?_) <;> clear e | (with_reducible refine let2_kept kq kp e ?_ fun _ => ?_) <;> clear e | clear e) | (extract_lets +onlyGivenNames x) | with_reducible apply State.lineWrite_kept | split | with_reducible apply foldl_kept | with_reducible apply foldl2_kept

theorem State.startFrame_kept {s : State} (k : Nat) (ts : Nat) (seq : Nat) (hk : s.Kept kq kp) :
    (State.startFrame s k ts seq).Kept kq kp := by
  delta State.startFrame
  repeat' first | with_reducible assumption | (intro) | (extract_lets +onlyGivenNames x; clear_value (e : x = _); first | (with_reducible refine let_kept kq kp e ?_ fun _ => ?_) <;> clear e | (with_reducible refine let2_kept kq kp e ?_ fun _ => ?_) <;> clear e | clear e) | (extract_lets +onlyGivenNames x) | with_reducible apply State.latched_kept | with_reducible apply State.when_kept | with_reducible apply State.count_kept | with_reducible apply State.setStrm_kept | split | simp -zeta only [upd_kept]

theorem State.wakeLayers_kept {s : State} (k : Nat) (d : DoneVideo) (hk : s.Kept kq kp) :
    (State.wakeLayers s k d).Kept kq kp := by
  delta State.wakeLayers
  repeat' first | with_reducible assumption | (intro) | (extract_lets +onlyGivenNames x; clear_value (e : x = _); first | (with_reducible refine let_kept kq kp e ?_ fun _ => ?_) <;> clear e | (with_reducible refine let2_kept kq kp e ?_ fun _ => ?_) <;> clear e | clear e) | (extract_lets +onlyGivenNames x) | with_reducible apply State.setLay_kept | with_reducible apply State.wr_kept | with_reducible apply State.repeatFrame_kept | with_reducible apply State.takeFrame_kept | with_reducible apply State.fetchLate_kept | split | simp -zeta only [upd_kept] | with_reducible apply foldl_kept | with_reducible apply foldl2_kept

theorem State.noteArrival_kept {s : State} (k : Nat) (c : RxVideo) (hk : s.Kept kq kp) :
    (State.noteArrival s k c).Kept kq kp := by
  delta State.noteArrival
  repeat' first | with_reducible assumption | (intro) | (extract_lets +onlyGivenNames x; clear_value (e : x = _); first | (with_reducible refine let_kept kq kp e ?_ fun _ => ?_) <;> clear e | (with_reducible refine let2_kept kq kp e ?_ fun _ => ?_) <;> clear e | clear e) | (extract_lets +onlyGivenNames x) | with_reducible apply State.freeNat_kept | with_reducible apply State.wr_kept | split | simp -zeta only [upd_kept]

theorem State.endFrame_kept {s : State} (k : Nat) (c : RxVideo) (hk : s.Kept kq kp) :
    (State.endFrame s k c).Kept kq kp := by
  delta State.endFrame
  repeat' first | with_reducible assumption | (intro) | (extract_lets +onlyGivenNames x; clear_value (e : x = _); first | (with_reducible refine let_kept kq kp e ?_ fun _ => ?_) <;> clear e | (with_reducible refine let2_kept kq kp e ?_ fun _ => ?_) <;> clear e | clear e) | (extract_lets +onlyGivenNames x) | with_reducible apply State.count_kept | with_reducible apply State.when_kept | with_reducible apply State.wr_kept | with_reducible apply State.noteArrival_kept | with_reducible apply State.setStrm_kept | with_reducible apply State.latched_kept | with_reducible apply State.wakeLayers_kept | split | with_reducible apply getD_kept | simp -zeta only [upd_kept]

theorem State.writeRow_kept {s : State} (k : Nat) (num : Nat) (row : Nat) (ws : List PixWrite) (hk : s.Kept kq kp) :
    (State.writeRow s k num row ws).Kept kq kp := by
  delta State.writeRow
  repeat' first | with_reducible assumption | (intro) | (extract_lets +onlyGivenNames x; clear_value (e : x = _); first | (with_reducible refine let_kept kq kp e ?_ fun _ => ?_) <;> clear e | (with_reducible refine let2_kept kq kp e ?_ fun _ => ?_) <;> clear e | clear e) | (extract_lets +onlyGivenNames x) | with_reducible apply State.cutOffs_kept | with_reducible apply State.storePix_kept | with_reducible apply State.setStrm_kept | simp -zeta only [upd_kept] | with_reducible apply foldl_kept | with_reducible apply foldl2_kept

theorem State.flushRows_kept {s : State} (k : Nat) (p : Nat → Nat → Bool) (hk : s.Kept kq kp) :
    (State.flushRows s k p).Kept kq kp := by
  delta State.flushRows
  repeat' first | with_reducible assumption | (intro) | (extract_lets +onlyGivenNames x; clear_value (e : x = _); first | (with_reducible refine let_kept kq kp e ?_ fun _ => ?_) <;> clear e | (with_reducible refine let2_kept kq kp e ?_ fun _ => ?_) <;> clear e | clear e) | (extract_lets +onlyGivenNames x) | with_reducible apply State.writeRow_kept | with_reducible apply State.setStrm_kept | simp -zeta only [upd_kept] | with_reducible apply foldl_kept | with_reducible apply foldl2_kept

theorem State.ringSrd_kept {s : State} (k : Nat) (num : Nat) (d : Srd) (hk : s.Kept kq kp) :
    (State.ringSrd s k num d).Kept kq kp := by
  delta State.ringSrd
  repeat' first | with_reducible assumption | (intro) | (extract_lets +onlyGivenNames x; clear_value (e : x = _); first | (with_reducible refine let_kept kq kp e ?_ fun _ => ?_) <;> clear e | (with_reducible refine let2_kept kq kp e ?_ fun _ => ?_) <;> clear e | clear e) | (extract_lets +onlyGivenNames x) | with_reducible apply State.flushRows_kept | with_reducible apply State.storePix_kept | with_reducible apply State.setStrm_kept | split | with_reducible apply getD_kept | simp -zeta only [upd_kept]

theorem State.takeSeqNum_kept {s : State} (k : Nat) (seq : Nat) (hk : s.Kept kq kp) :
    (State.takeSeqNum s k seq).Kept kq kp := by
  delta State.takeSeqNum
  repeat' first | with_reducible assumption | (intro) | (extract_lets +onlyGivenNames x; clear_value (e : x = _); first | (with_reducible refine let_kept kq kp e ?_ fun _ => ?_) <;> clear e | (with_reducible refine let2_kept kq kp e ?_ fun _ => ?_) <;> clear e | clear e) | (extract_lets +onlyGivenNames x) | with_reducible apply State.setStrm_kept | with_reducible apply State.count_kept | split | with_reducible apply getD_kept | simp -zeta only [upd_kept]

theorem State.streamCause_kept {s : State} (k : Nat) (b : Nat) (hk : s.Kept kq kp) :
    (State.streamCause s k b).Kept kq kp := by
  delta State.streamCause
  repeat' first | with_reducible assumption | with_reducible apply State.wr_kept | with_reducible apply State.setCause_kept

theorem State.dropCur_kept {s : State} (k : Nat) (hk : s.Kept kq kp) :
    (State.dropCur s k).Kept kq kp := by
  delta State.dropCur
  repeat' first | with_reducible assumption | (intro) | (extract_lets +onlyGivenNames x; clear_value (e : x = _); first | (with_reducible refine let_kept kq kp e ?_ fun _ => ?_) <;> clear e | (with_reducible refine let2_kept kq kp e ?_ fun _ => ?_) <;> clear e | clear e) | (extract_lets +onlyGivenNames x) | with_reducible apply State.setStrm_kept | simp -zeta only [upd_kept]

theorem State.streamRefLost_kept {s : State} (k : Nat) (hk : s.Kept kq kp) :
    (State.streamRefLost s k).Kept kq kp := by
  delta State.streamRefLost
  repeat' first | with_reducible assumption | (intro) | with_reducible apply State.alignLost_kept | split | with_reducible apply foldl_kept | with_reducible apply foldl2_kept

theorem State.streamTimeout_kept {s : State} (k : Nat) (hk : s.Kept kq kp) :
    (State.streamTimeout s k).Kept kq kp := by
  delta State.streamTimeout
  repeat' first | with_reducible assumption | (extract_lets +onlyGivenNames x; clear_value (e : x = _); first | (with_reducible refine let_kept kq kp e ?_ fun _ => ?_) <;> clear e | (with_reducible refine let2_kept kq kp e ?_ fun _ => ?_) <;> clear e | clear e) | (extract_lets +onlyGivenNames x) | with_reducible apply State.wr_kept | with_reducible apply State.streamCause_kept | with_reducible apply State.report_kept | with_reducible apply State.dropCur_kept | with_reducible apply State.streamRefLost_kept | split

theorem execStreamLost_kept (k : Fin 48) {s : State} (hk : s.Kept kq kp) :
    OutKept kq kp (execStreamLost k s) := by
  delta execStreamLost
  repeat' first | with_reducible assumption | (intro) | with_reducible apply next_kept | with_reducible apply State.when_kept | with_reducible apply State.streamTimeout_kept

theorem execLegLost_kept (k : Fin 48) (leg : Fin 2) {s : State} (hk : s.Kept kq kp) :
    OutKept kq kp (execLegLost k leg s) := by
  delta execLegLost
  repeat' first | with_reducible assumption | with_reducible apply next_kept | (extract_lets +onlyGivenNames x; clear_value (e : x = _); first | (with_reducible refine let_kept kq kp e ?_ fun _ => ?_) <;> clear e | (with_reducible refine let2_kept kq kp e ?_ fun _ => ?_) <;> clear e | clear e) | (extract_lets +onlyGivenNames x) | with_reducible apply State.wr_kept | split

theorem State.streamUp_kept {s : State} (k : Nat) (hk : s.Kept kq kp) :
    (State.streamUp s k).Kept kq kp := by
  delta State.streamUp
  repeat' first | with_reducible assumption | (intro) | (extract_lets +onlyGivenNames x; clear_value (e : x = _); first | (with_reducible refine let_kept kq kp e ?_ fun _ => ?_) <;> clear e | (with_reducible refine let2_kept kq kp e ?_ fun _ => ?_) <;> clear e | clear e) | (extract_lets +onlyGivenNames x) | with_reducible apply State.setStrm_kept | with_reducible apply State.wr_kept | with_reducible apply State.streamCause_kept | with_reducible apply State.report_kept | split | simp -zeta only [upd_kept]

theorem State.settleBucket_kept {s : State} (k : Nat) (hk : s.Kept kq kp) :
    (State.settleBucket s k).Kept kq kp := by
  delta State.settleBucket
  repeat' first | with_reducible assumption | (intro) | (extract_lets +onlyGivenNames x; clear_value (e : x = _); first | (with_reducible refine let_kept kq kp e ?_ fun _ => ?_) <;> clear e | (with_reducible refine let2_kept kq kp e ?_ fun _ => ?_) <;> clear e | clear e) | (extract_lets +onlyGivenNames x) | with_reducible apply State.setStrm_kept | simp -zeta only [upd_kept]

theorem State.streamPolice_kept {s : State} (k : Nat) (len : Nat) (hk : s.Kept kq kp) :
    (State.streamPolice s k len).2.Kept kq kp := by
  delta State.streamPolice
  repeat' first | with_reducible assumption | (intro) | (extract_lets +onlyGivenNames x; clear_value (e : x = _); first | (with_reducible refine let_kept kq kp e ?_ fun _ => ?_) <;> clear e | (with_reducible refine let2_kept kq kp e ?_ fun _ => ?_) <;> clear e | clear e) | (extract_lets +onlyGivenNames x) | with_reducible apply State.setStrm_kept | with_reducible apply State.count_kept | with_reducible apply State.setCause_kept | split | dsimp -zeta only | simp -zeta only [upd_kept]

theorem State.relay_kept {s : State} (k : Nat) (rtp : List Byte) (hk : s.Kept kq kp) :
    (State.relay s k rtp).Kept kq kp := by
  delta State.relay
  repeat' first | with_reducible assumption | (extract_lets +onlyGivenNames x; clear_value (e : x = _); first | (with_reducible refine let_kept kq kp e ?_ fun _ => ?_) <;> clear e | (with_reducible refine let2_kept kq kp e ?_ fun _ => ?_) <;> clear e | clear e) | (extract_lets +onlyGivenNames x) | with_reducible apply State.count_kept | with_reducible apply State.ringInsert_kept | split

theorem State.endOther_kept {s : State} (k : Nat) (ts : Nat) (hk : s.Kept kq kp) :
    (State.endOther s k ts).Kept kq kp := by
  delta State.endOther
  repeat' first | with_reducible assumption | (extract_lets +onlyGivenNames x; clear_value (e : x = _); first | (with_reducible refine let_kept kq kp e ?_ fun _ => ?_) <;> clear e | (with_reducible refine let2_kept kq kp e ?_ fun _ => ?_) <;> clear e | clear e) | (extract_lets +onlyGivenNames x) | with_reducible apply State.endFrame_kept | split | simp -zeta only [upd_kept]

theorem State.ringSrds_kept {s : State} (k : Nat) (num : Nat) (ds : List Srd) (hk : s.Kept kq kp) :
    (State.ringSrds s k num ds).Kept kq kp := by
  delta State.ringSrds
  repeat' first | with_reducible assumption | (intro) | with_reducible apply State.ringSrd_kept | split | with_reducible apply foldl_kept | with_reducible apply foldl2_kept

theorem State.videoPacket_kept {s : State} (k : Nat) (ts : Nat) (seq : Nat) (marker : Bool) (ds : List Srd) (hk : s.Kept kq kp) :
    (State.videoPacket s k ts seq marker ds).Kept kq kp := by
  delta State.videoPacket
  repeat' first | with_reducible assumption | (intro) | (extract_lets +onlyGivenNames x; clear_value (e : x = _); first | (with_reducible refine let_kept kq kp e ?_ fun _ => ?_) <;> clear e | (with_reducible refine let2_kept kq kp e ?_ fun _ => ?_) <;> clear e | clear e) | (extract_lets +onlyGivenNames x) | with_reducible apply State.endOther_kept | with_reducible apply State.ringSrds_kept | with_reducible apply State.startFrame_kept | with_reducible apply State.setStrm_kept | with_reducible apply State.storePix_kept | with_reducible apply State.endFrame_kept | split | simp -zeta only [upd_kept]

theorem State.streamPacket_kept {s : State} (k : Nat) (leg : Nat) (rtp : List Byte) (len : Nat) (hk : s.Kept kq kp) :
    (State.streamPacket s k leg rtp len).Kept kq kp := by
  delta State.streamPacket
  repeat' first | with_reducible assumption | (intro) | (rename_i e; (with_reducible refine of_pair kq kp e ?_ fun _ => ?_) <;> clear e) | (extract_lets +onlyGivenNames x; clear_value (e : x = _); first | (with_reducible refine let_kept kq kp e ?_ fun _ => ?_) <;> clear e | (with_reducible refine let2_kept kq kp e ?_ fun _ => ?_) <;> clear e | clear e) | (extract_lets +onlyGivenNames x) | with_reducible apply State.streamTimeout_kept | with_reducible apply State.count_kept | with_reducible apply State.setStrm_kept | with_reducible apply State.wr_kept | with_reducible apply State.streamPolice_kept | with_reducible apply State.takeSeqNum_kept | with_reducible apply State.streamUp_kept | with_reducible apply State.relay_kept | with_reducible apply State.videoPacket_kept | split | simp -zeta only [upd_kept]

theorem State.streamReset_kept {s : State} (k : Nat) (keepNewest : Bool) (hk : s.Kept kq kp) :
    (State.streamReset s k keepNewest).Kept kq kp := by
  delta State.streamReset
  repeat' first | with_reducible assumption | (intro) | (extract_lets +onlyGivenNames x; clear_value (e : x = _); first | (with_reducible refine let_kept kq kp e ?_ fun _ => ?_) <;> clear e | (with_reducible refine let2_kept kq kp e ?_ fun _ => ?_) <;> clear e | clear e) | (extract_lets +onlyGivenNames x) | with_reducible apply State.setStrm_kept | with_reducible apply State.wr_kept | split | simp -zeta only [upd_kept]

theorem State.streamEnable_kept {s : State} (k : Nat) (on : Bool) (hk : s.Kept kq kp) :
    (State.streamEnable s k on).Kept kq kp := by
  delta State.streamEnable
  repeat' first | with_reducible assumption | with_reducible apply State.streamReset_kept | with_reducible apply State.streamRefLost_kept | split

end Sys2Proof.Machine
end

