-- ==== Sys2Proof/Laws/KeptIngest.lean ====
section
/-! SUPPORT. The operations of Machine/Ingest.lean keep the queue, the part and the canonical form of the sparse stores. -/

namespace Sys2Proof.Machine

set_option linter.unusedTactic false
set_option linter.unreachableTactic false
set_option linter.tactic.unusedName false

variable {kq : List Instr} {kp : Part}

theorem State.toFirmware_kept {s : State} (p : Nat) (f : List Byte) (hk : s.Kept kq kp) :
    (State.toFirmware s p f).Kept kq kp := by
  delta State.toFirmware
  repeat' first | with_reducible assumption | (extract_lets +onlyGivenNames x; clear_value (e : x = _); first | (with_reducible refine let_kept kq kp e ?_ fun _ => ?_) <;> clear e | (with_reducible refine let2_kept kq kp e ?_ fun _ => ?_) <;> clear e | clear e) | (extract_lets +onlyGivenNames x) | simp -zeta only [upd_kept]

theorem State.sortUdp_kept {s : State} (p : Nat) (ip : Ip) (hk : s.Kept kq kp) :
    (State.sortUdp s p ip).Kept kq kp := by
  delta State.sortUdp
  repeat' first | with_reducible assumption | (intro) | (extract_lets +onlyGivenNames x; clear_value (e : x = _); first | (with_reducible refine let_kept kq kp e ?_ fun _ => ?_) <;> clear e | (with_reducible refine let2_kept kq kp e ?_ fun _ => ?_) <;> clear e | clear e) | (extract_lets +onlyGivenNames x) | with_reducible apply State.streamPacket_kept | with_reducible apply State.count_kept | split | simp -zeta only [upd_kept]

theorem State.sortFrame_kept {s : State} (p : Nat) (f : List Byte) (hk : s.Kept kq kp) :
    (State.sortFrame s p f).Kept kq kp := by
  delta State.sortFrame
  repeat' first | with_reducible assumption | (extract_lets +onlyGivenNames x; clear_value (e : x = _); first | (with_reducible refine let_kept kq kp e ?_ fun _ => ?_) <;> clear e | (with_reducible refine let2_kept kq kp e ?_ fun _ => ?_) <;> clear e | clear e) | (extract_lets +onlyGivenNames x) | with_reducible apply State.count_kept | with_reducible apply State.toFirmware_kept | with_reducible apply State.sortUdp_kept | split | simp -zeta only [upd_kept]

theorem State.parseFrame_kept {s : State} (p : Nat) (f : RxFrame) (hk : s.Kept kq kp) :
    (State.parseFrame s p f).Kept kq kp := by
  delta State.parseFrame
  repeat' first | with_reducible assumption | with_reducible apply State.sortFrame_kept | with_reducible apply State.count_kept | split

theorem State.portUp_kept {s : State} (p : Nat) (hk : s.Kept kq kp) :
    (State.portUp s p).Kept kq kp := by
  delta State.portUp
  repeat' first | with_reducible assumption | with_reducible apply State.wr_kept

theorem execIngestReceive_kept (p : Fin 4) (f : RxFrame) {s : State} (hk : s.Kept kq kp) :
    OutKept kq kp (execIngestReceive p f s) := by
  delta execIngestReceive
  repeat' first | with_reducible assumption | (intro) | with_reducible apply next_kept | (extract_lets +onlyGivenNames x; clear_value (e : x = _); first | (with_reducible refine let_kept kq kp e ?_ fun _ => ?_) <;> clear e | (with_reducible refine let2_kept kq kp e ?_ fun _ => ?_) <;> clear e | clear e) | (extract_lets +onlyGivenNames x) | with_reducible apply State.portUp_kept | with_reducible apply State.count_kept | with_reducible apply State.setCause_kept | with_reducible apply State.parseFrame_kept | split | simp -zeta only [upd_kept] | with_reducible apply foldl_kept | with_reducible apply foldl2_kept

theorem execPixel_kept (p : Fin 2) {s : State} (hk : s.Kept kq kp) :
    OutKept kq kp (execPixel p s) := by
  delta execPixel
  repeat' first | with_reducible assumption | (intro) | with_reducible apply next_kept | (extract_lets +onlyGivenNames x; clear_value (e : x = _); first | (with_reducible refine let_kept kq kp e ?_ fun _ => ?_) <;> clear e | (with_reducible refine let2_kept kq kp e ?_ fun _ => ?_) <;> clear e | clear e) | (extract_lets +onlyGivenNames x) | with_reducible apply State.takeRx_kept | with_reducible apply State.streamPacket_kept | split | simp -zeta only [upd_kept] | with_reducible apply foldl_kept | with_reducible apply foldl2_kept

theorem State.igmpReport_kept {s : State} (p : Nat) (type : Nat) (group : Nat) (srcs : List Nat) (hk : s.Kept kq kp) :
    (State.igmpReport s p type group srcs).Kept kq kp := by
  delta State.igmpReport
  repeat' first | with_reducible assumption | (intro) | (extract_lets +onlyGivenNames x; clear_value (e : x = _); first | (with_reducible refine let_kept kq kp e ?_ fun _ => ?_) <;> clear e | (with_reducible refine let2_kept kq kp e ?_ fun _ => ?_) <;> clear e | clear e) | (extract_lets +onlyGivenNames x) | with_reducible apply State.emit_kept

theorem State.igmpJoin_kept {s : State} (k : Nat) (change : Bool) (hk : s.Kept kq kp) :
    (State.igmpJoin s k change).Kept kq kp := by
  delta State.igmpJoin
  repeat' first | with_reducible assumption | (intro) | (extract_lets +onlyGivenNames x; clear_value (e : x = _); first | (with_reducible refine let_kept kq kp e ?_ fun _ => ?_) <;> clear e | (with_reducible refine let2_kept kq kp e ?_ fun _ => ?_) <;> clear e | clear e) | (extract_lets +onlyGivenNames x) | with_reducible apply State.igmpReport_kept | split | with_reducible apply foldl_kept | with_reducible apply foldl2_kept

theorem State.igmpLeave_kept {s : State} (k : Nat) (hk : s.Kept kq kp) :
    (State.igmpLeave s k).Kept kq kp := by
  delta State.igmpLeave
  repeat' first | with_reducible assumption | (intro) | (extract_lets +onlyGivenNames x; clear_value (e : x = _); first | (with_reducible refine let_kept kq kp e ?_ fun _ => ?_) <;> clear e | (with_reducible refine let2_kept kq kp e ?_ fun _ => ?_) <;> clear e | clear e) | (extract_lets +onlyGivenNames x) | with_reducible apply State.igmpReport_kept | split | with_reducible apply foldl_kept | with_reducible apply foldl2_kept

theorem State.setPtp_kept {s : State} (f : Ptp → Ptp) (hk : s.Kept kq kp) :
    (State.setPtp s f).Kept kq kp := by
  delta State.setPtp
  repeat' first | with_reducible assumption | (extract_lets +onlyGivenNames x; clear_value (e : x = _); first | (with_reducible refine let_kept kq kp e ?_ fun _ => ?_) <;> clear e | (with_reducible refine let2_kept kq kp e ?_ fun _ => ?_) <;> clear e | clear e) | (extract_lets +onlyGivenNames x) | simp -zeta only [upd_kept]

theorem State.ptpState_kept {s : State} (st : Nat) (hk : s.Kept kq kp) :
    (State.ptpState s st).Kept kq kp := by
  delta State.ptpState
  repeat' first | with_reducible assumption | with_reducible apply State.wr_kept | with_reducible apply State.setCause_kept | with_reducible apply State.elect_kept | split

theorem State.ptpElect_kept {s : State} (hk : s.Kept kq kp) :
    (State.ptpElect s).Kept kq kp := by
  delta State.ptpElect
  repeat' first | with_reducible assumption | (intro) | (extract_lets +onlyGivenNames x; clear_value (e : x = _); first | (with_reducible refine let_kept kq kp e ?_ fun _ => ?_) <;> clear e | (with_reducible refine let2_kept kq kp e ?_ fun _ => ?_) <;> clear e | clear e) | (extract_lets +onlyGivenNames x) | with_reducible apply State.setPtp_kept | with_reducible apply State.wr_kept | with_reducible apply State.setCause_kept | with_reducible apply State.ptpState_kept | split | simp -zeta only [upd_kept]

theorem State.portSet_kept {s : State} {was : State} (p : Nat) (hk : s.Kept kq kp) (hkwas : was.Kept kq kp) :
    (State.portSet s was p).Kept kq kp := by
  delta State.portSet
  repeat' first | with_reducible assumption | (extract_lets +onlyGivenNames x; clear_value (e : x = _); first | (with_reducible refine let_kept kq kp e ?_ fun _ => ?_) <;> clear e | (with_reducible refine let2_kept kq kp e ?_ fun _ => ?_) <;> clear e | clear e) | (extract_lets +onlyGivenNames x) | with_reducible apply State.wr_kept | with_reducible apply State.ptpElect_kept | split

theorem execIngestPortSet_kept {s : State} (hk : s.Kept kq kp) :
    OutKept kq kp (execIngestPortSet s) := by
  delta execIngestPortSet
  repeat' first | with_reducible assumption | (intro) | with_reducible apply next_kept | (extract_lets +onlyGivenNames x; clear_value (e : x = _); first | (with_reducible refine let_kept kq kp e ?_ fun _ => ?_) <;> clear e | (with_reducible refine let2_kept kq kp e ?_ fun _ => ?_) <;> clear e | clear e) | (extract_lets +onlyGivenNames x) | with_reducible apply State.serve_kept | with_reducible apply State.fail_kept | with_reducible apply State.wr_kept | with_reducible apply State.portSet_kept | with_reducible apply State.ok_kept | split

theorem State.freeStream_kept {s : State} (k : Nat) (hk : s.Kept kq kp) :
    (State.freeStream s k).Kept kq kp := by
  delta State.freeStream
  repeat' first | with_reducible assumption | (intro) | (extract_lets +onlyGivenNames x; clear_value (e : x = _); first | (with_reducible refine let_kept kq kp e ?_ fun _ => ?_) <;> clear e | (with_reducible refine let2_kept kq kp e ?_ fun _ => ?_) <;> clear e | clear e) | (extract_lets +onlyGivenNames x) | with_reducible apply State.freeGalley_kept | with_reducible apply State.setStrm_kept | with_reducible apply State.wrAddr_kept | simp -zeta only [upd_kept]

theorem State.placeStream_kept {s : State} (x : StreamDef) (hk : s.Kept kq kp) :
    OptKept kq kp (State.placeStream s x) := by
  delta State.placeStream
  repeat' first | with_reducible assumption | (intro) | with_reducible apply some_kept | with_reducible apply some2_kept | with_reducible apply none_kept | with_reducible apply none2_kept | with_reducible apply map_kept | with_reducible apply map2_kept | with_reducible apply bind_kept | with_reducible apply bind2_kept | (rename_i e; (with_reducible refine of_opt2 kq kp e ?_ fun _ => ?_) <;> clear e) | (extract_lets +onlyGivenNames x; clear_value (e : x = _); first | (with_reducible refine let_kept kq kp e ?_ fun _ => ?_) <;> clear e | (with_reducible refine let2_kept kq kp e ?_ fun _ => ?_) <;> clear e | clear e) | (extract_lets +onlyGivenNames x) | with_reducible apply State.freeStream_kept | with_reducible apply State.dsmNewRegion_kept | with_reducible apply State.setStrm_kept | with_reducible apply State.wrAddr_kept | split | simp -zeta only [upd_kept]

theorem State.writeStream_kept {s : State} (x : StreamDef) (d : List Byte) (hk : s.Kept kq kp) :
    (State.writeStream s x d).Kept kq kp := by
  delta State.writeStream
  repeat' first | with_reducible assumption | (extract_lets +onlyGivenNames x; clear_value (e : x = _); first | (with_reducible refine let_kept kq kp e ?_ fun _ => ?_) <;> clear e | (with_reducible refine let2_kept kq kp e ?_ fun _ => ?_) <;> clear e | clear e) | (extract_lets +onlyGivenNames x) | with_reducible apply State.settleBucket_kept | with_reducible apply State.wr_kept | with_reducible apply State.wrAddr_kept | with_reducible apply State.storeFields_kept

theorem execStreamDefine_kept {s : State} (hk : s.Kept kq kp) :
    OutKept kq kp (execStreamDefine s) := by
  delta execStreamDefine
  repeat' first | with_reducible assumption | (intro) | with_reducible apply next_kept | (rename_i e; (with_reducible refine of_opt kq kp e ?_ fun _ => ?_) <;> clear e) | with_reducible apply some_kept | with_reducible apply none_kept | with_reducible apply none2_kept | (extract_lets +onlyGivenNames x; clear_value (e : x = _); first | (with_reducible refine let_kept kq kp e ?_ fun _ => ?_) <;> clear e | (with_reducible refine let2_kept kq kp e ?_ fun _ => ?_) <;> clear e | clear e) | (extract_lets +onlyGivenNames x) | with_reducible apply State.serve_kept | with_reducible apply State.fail_kept | with_reducible apply State.placeStream_kept | with_reducible apply State.writeStream_kept | with_reducible apply State.fillRange_kept | with_reducible apply State.streamReset_kept | with_reducible apply State.igmpLeave_kept | with_reducible apply State.igmpJoin_kept | with_reducible apply State.streamRefLost_kept | with_reducible apply State.finish_kept | split | simp -zeta only [upd_kept]

end Sys2Proof.Machine
end

