-- ==== Sys2Proof/Laws/KeptEventLog.lean ====
section
/-! SUPPORT. The operations of Machine/EventLog.lean keep the queue, the part and the canonical form of the sparse stores. -/

namespace Sys2Proof.Machine

set_option linter.unusedTactic false
set_option linter.unreachableTactic false
set_option linter.tactic.unusedName false

variable {kq : List Instr} {kp : Part}

theorem State.logWrite_kept {s : State} (addr : Nat) (d : List Byte) (hk : s.Kept kq kp) :
    (State.logWrite s addr d).Kept kq kp := by
  delta State.logWrite
  repeat' first | with_reducible assumption | with_reducible apply State.dsmWriteLine_kept

theorem State.fecCapture_kept {s : State} (r : Report) (hk : s.Kept kq kp) :
    (State.fecCapture s r).Kept kq kp := by
  delta State.fecCapture
  repeat' first | with_reducible assumption | (extract_lets +onlyGivenNames x; clear_value (e : x = _); first | (with_reducible refine let_kept kq kp e ?_ fun _ => ?_) <;> clear e | (with_reducible refine let2_kept kq kp e ?_ fun _ => ?_) <;> clear e | clear e) | (extract_lets +onlyGivenNames x) | with_reducible apply State.wr_kept | with_reducible apply State.setCause_kept | split

theorem State.mergeInto_kept {s : State} (e : LogEntry) (hk : s.Kept kq kp) :
    (State.mergeInto s e).Kept kq kp := by
  delta State.mergeInto
  repeat' first | with_reducible assumption | (intro) | (extract_lets +onlyGivenNames x; clear_value (e : x = _); first | (with_reducible refine let_kept kq kp e ?_ fun _ => ?_) <;> clear e | (with_reducible refine let2_kept kq kp e ?_ fun _ => ?_) <;> clear e | clear e) | (extract_lets +onlyGivenNames x) | with_reducible apply State.count_kept | with_reducible apply State.logWrite_kept | split | simp -zeta only [upd_kept]

theorem State.persist_kept {s : State} (e : LogEntry) (hk : s.Kept kq kp) :
    (State.persist s e).Kept kq kp := by
  delta State.persist
  repeat' first | with_reducible assumption | (extract_lets +onlyGivenNames x; clear_value (e : x = _); first | (with_reducible refine let_kept kq kp e ?_ fun _ => ?_) <;> clear e | (with_reducible refine let2_kept kq kp e ?_ fun _ => ?_) <;> clear e | clear e) | (extract_lets +onlyGivenNames x) | with_reducible apply State.count_kept | split | simp -zeta only [upd_kept]

theorem State.aerReport_kept {s : State} (c : Nat) (hk : s.Kept kq kp) :
    (State.aerReport s c).Kept kq kp := by
  delta State.aerReport
  repeat' first | with_reducible assumption | with_reducible apply State.emit_kept | split

theorem State.newEntry_kept {s : State} (r : Report) (hk : s.Kept kq kp) :
    (State.newEntry s r).Kept kq kp := by
  delta State.newEntry
  repeat' first | with_reducible assumption | (extract_lets +onlyGivenNames x; clear_value (e : x = _); first | (with_reducible refine let_kept kq kp e ?_ fun _ => ?_) <;> clear e | (with_reducible refine let2_kept kq kp e ?_ fun _ => ?_) <;> clear e | clear e) | (extract_lets +onlyGivenNames x) | with_reducible apply State.logWrite_kept | with_reducible apply State.wr_kept | with_reducible apply State.setCause_kept | with_reducible apply State.aerReport_kept | with_reducible apply State.persist_kept | split | simp -zeta only [upd_kept]

theorem execEventReport_kept {s : State} (hk : s.Kept kq kp) :
    OutKept kq kp (execEventReport s) := by
  delta execEventReport
  repeat' first | with_reducible assumption | with_reducible apply next_kept | (extract_lets +onlyGivenNames x; clear_value (e : x = _); first | (with_reducible refine let_kept kq kp e ?_ fun _ => ?_) <;> clear e | (with_reducible refine let2_kept kq kp e ?_ fun _ => ?_) <;> clear e | clear e) | (extract_lets +onlyGivenNames x) | with_reducible apply State.fecCapture_kept | with_reducible apply State.mergeInto_kept | with_reducible apply State.newEntry_kept | with_reducible apply State.count_kept | with_reducible apply State.setCause_kept | split | simp -zeta only [upd_kept]

theorem State.ackLog_kept {s : State} (v : Nat) (hk : s.Kept kq kp) :
    (State.ackLog s v).Kept kq kp := by
  delta State.ackLog
  repeat' first | with_reducible assumption | (extract_lets +onlyGivenNames x; clear_value (e : x = _); first | (with_reducible refine let_kept kq kp e ?_ fun _ => ?_) <;> clear e | (with_reducible refine let2_kept kq kp e ?_ fun _ => ?_) <;> clear e | clear e) | (extract_lets +onlyGivenNames x) | with_reducible apply State.wr_kept | split | simp -zeta only [upd_kept]

theorem State.fecClear_kept {s : State} (mask : Nat) (hk : s.Kept kq kp) :
    (State.fecClear s mask).Kept kq kp := by
  delta State.fecClear
  repeat' first | with_reducible assumption | (intro) | with_reducible apply State.wr_kept | split | with_reducible apply foldl_kept | with_reducible apply foldl2_kept

end Sys2Proof.Machine
end

