-- ==== Sys2Proof/Laws/KeptNv.lean ====
section
/-! SUPPORT. The operations of Machine/Nv.lean keep the queue, the part and the canonical form of the sparse stores. -/

namespace Sys2Proof.Machine

set_option linter.unusedTactic false
set_option linter.unreachableTactic false
set_option linter.tactic.unusedName false

variable {kq : List Instr} {kp : Part}

theorem State.setNv_kept {s : State} (f : Nv → Nv) (hk : s.Kept kq kp) :
    (State.setNv s f).Kept kq kp := by
  delta State.setNv
  repeat' first | with_reducible assumption | (extract_lets +onlyGivenNames x; clear_value (e : x = _); first | (with_reducible refine let_kept kq kp e ?_ fun _ => ?_) <;> clear e | (with_reducible refine let2_kept kq kp e ?_ fun _ => ?_) <;> clear e | clear e) | (extract_lets +onlyGivenNames x) | simp -zeta only [upd_kept]

theorem State.holdupMeasure_kept {s : State} (x : Adc) (hk : s.Kept kq kp) :
    (State.holdupMeasure s x).Kept kq kp := by
  delta State.holdupMeasure
  repeat' first | with_reducible assumption | (extract_lets +onlyGivenNames x; clear_value (e : x = _); first | (with_reducible refine let_kept kq kp e ?_ fun _ => ?_) <;> clear e | (with_reducible refine let2_kept kq kp e ?_ fun _ => ?_) <;> clear e | clear e) | (extract_lets +onlyGivenNames x) | with_reducible apply State.wr_kept

theorem State.noteDefer_kept {s : State} (hk : s.Kept kq kp) :
    (State.noteDefer s).Kept kq kp := by
  delta State.noteDefer
  repeat' first | with_reducible assumption | with_reducible apply State.count_kept | with_reducible apply State.setCause_kept

theorem State.holdup_kept {s : State} (x : Adc) (cls : Nat) (hk : s.Kept kq kp) :
    (State.holdup s x cls).2.Kept kq kp := by
  delta State.holdup
  repeat' first | with_reducible assumption | (extract_lets +onlyGivenNames x; clear_value (e : x = _); first | (with_reducible refine let_kept kq kp e ?_ fun _ => ?_) <;> clear e | (with_reducible refine let2_kept kq kp e ?_ fun _ => ?_) <;> clear e | clear e) | (extract_lets +onlyGivenNames x) | with_reducible apply State.holdupMeasure_kept | with_reducible apply State.wr_kept | with_reducible apply State.noteDefer_kept | split | dsimp -zeta only

theorem State.nvDefer_kept {s : State} (c : Commit) (hk : s.Kept kq kp) :
    (State.nvDefer s c).Kept kq kp := by
  delta State.nvDefer
  repeat' first | with_reducible assumption | (intro) | (extract_lets +onlyGivenNames x; clear_value (e : x = _); first | (with_reducible refine let_kept kq kp e ?_ fun _ => ?_) <;> clear e | (with_reducible refine let2_kept kq kp e ?_ fun _ => ?_) <;> clear e | clear e) | (extract_lets +onlyGivenNames x) | with_reducible apply State.setNv_kept | with_reducible apply State.swapDone_kept | with_reducible apply State.resilverStart_kept | with_reducible apply State.wake_kept | split | simp -zeta only [upd_kept]

theorem State.nvBegin_kept {s : State} (c : Commit) (hk : s.Kept kq kp) :
    (State.nvBegin s c).Kept kq kp := by
  delta State.nvBegin
  repeat' first | with_reducible assumption | (intro) | (extract_lets +onlyGivenNames x; clear_value (e : x = _); first | (with_reducible refine let_kept kq kp e ?_ fun _ => ?_) <;> clear e | (with_reducible refine let2_kept kq kp e ?_ fun _ => ?_) <;> clear e | clear e) | (extract_lets +onlyGivenNames x) | with_reducible apply State.setNv_kept | with_reducible apply State.wr_kept | split | simp -zeta only [upd_kept]

theorem State.nvStart_kept {s : State} (x : Adc) (hk : s.Kept kq kp) :
    (State.nvStart s x).Kept kq kp := by
  delta State.nvStart
  repeat' first | with_reducible assumption | (intro) | (extract_lets +onlyGivenNames x; clear_value (e : x = _); first | (with_reducible refine let_kept kq kp e ?_ fun _ => ?_) <;> clear e | (with_reducible refine let2_kept kq kp e ?_ fun _ => ?_) <;> clear e | clear e) | (extract_lets +onlyGivenNames x) | with_reducible apply State.setNv_kept | with_reducible apply State.holdup_kept | with_reducible apply State.nvDefer_kept | with_reducible apply State.noteDefer_kept | with_reducible apply State.nvBegin_kept | split | simp -zeta only [upd_kept]

theorem execNvCommitStart_kept (adc : Adc) {s : State} (hk : s.Kept kq kp) :
    OutKept kq kp (execNvCommitStart adc s) := by
  delta execNvCommitStart
  repeat' first | with_reducible assumption | with_reducible apply next_kept | with_reducible apply State.nvStart_kept | split

theorem State.nvRetry_kept {s : State} (x : Adc) (hk : s.Kept kq kp) :
    (State.nvRetry s x).Kept kq kp := by
  delta State.nvRetry
  repeat' first | with_reducible assumption | (intro) | (extract_lets +onlyGivenNames x; clear_value (e : x = _); first | (with_reducible refine let_kept kq kp e ?_ fun _ => ?_) <;> clear e | (with_reducible refine let2_kept kq kp e ?_ fun _ => ?_) <;> clear e | clear e) | (extract_lets +onlyGivenNames x) | with_reducible apply State.setNv_kept | with_reducible apply State.nvStart_kept | simp -zeta only [upd_kept]

theorem execCommitRetry_kept (adc : Adc) {s : State} (hk : s.Kept kq kp) :
    OutKept kq kp (execCommitRetry adc s) := by
  delta execCommitRetry
  repeat' first | with_reducible assumption | with_reducible apply next_kept | with_reducible apply State.nvRetry_kept | split

theorem execPwrFailNFall_kept {s : State} (hk : s.Kept kq kp) :
    OutKept kq kp (execPwrFailNFall s) := by
  delta execPwrFailNFall
  repeat' first | with_reducible assumption | with_reducible apply next_kept | with_reducible apply State.wr_kept | with_reducible apply State.setCause_kept | with_reducible apply State.report_kept | split

theorem execPwrFailNRise_kept (adc : Adc) {s : State} (hk : s.Kept kq kp) :
    OutKept kq kp (execPwrFailNRise adc s) := by
  delta execPwrFailNRise
  repeat' first | with_reducible assumption | with_reducible apply next_kept | (extract_lets +onlyGivenNames x; clear_value (e : x = _); first | (with_reducible refine let_kept kq kp e ?_ fun _ => ?_) <;> clear e | (with_reducible refine let2_kept kq kp e ?_ fun _ => ?_) <;> clear e | clear e) | (extract_lets +onlyGivenNames x) | with_reducible apply State.wr_kept | with_reducible apply State.nvRetry_kept | split

theorem execFlashErase_kept {s : State} (hk : s.Kept kq kp) :
    OutKept kq kp (execFlashErase s) := by
  delta execFlashErase
  repeat' first | with_reducible assumption | (intro) | with_reducible apply next_kept | (extract_lets +onlyGivenNames x; clear_value (e : x = _); first | (with_reducible refine let_kept kq kp e ?_ fun _ => ?_) <;> clear e | (with_reducible refine let2_kept kq kp e ?_ fun _ => ?_) <;> clear e | clear e) | (extract_lets +onlyGivenNames x) | with_reducible apply State.setNv_kept | split | simp -zeta only [upd_kept]

theorem State.logWritten_kept {s : State} (es : List LogEntry) (hk : s.Kept kq kp) :
    (State.logWritten s es).Kept kq kp := by
  delta State.logWritten
  repeat' first | with_reducible assumption | (intro) | (extract_lets +onlyGivenNames x; clear_value (e : x = _); first | (with_reducible refine let_kept kq kp e ?_ fun _ => ?_) <;> clear e | (with_reducible refine let2_kept kq kp e ?_ fun _ => ?_) <;> clear e | clear e) | (extract_lets +onlyGivenNames x) | with_reducible apply State.setNv_kept | split | with_reducible apply getD_kept | simp -zeta only [upd_kept]

theorem State.dropOwnFlush_kept {s : State} (hk : s.Kept kq kp) :
    (State.dropOwnFlush s).Kept kq kp := by
  delta State.dropOwnFlush
  repeat' first | with_reducible assumption | (intro) | (extract_lets +onlyGivenNames x; clear_value (e : x = _); first | (with_reducible refine let_kept kq kp e ?_ fun _ => ?_) <;> clear e | (with_reducible refine let2_kept kq kp e ?_ fun _ => ?_) <;> clear e | clear e) | (extract_lets +onlyGivenNames x) | with_reducible apply State.setNv_kept | simp -zeta only [upd_kept]

theorem execPersistFlush_kept {s : State} (hk : s.Kept kq kp) :
    OutKept kq kp (execPersistFlush s) := by
  delta execPersistFlush
  repeat' first | with_reducible assumption | with_reducible apply next_kept | (extract_lets +onlyGivenNames x; clear_value (e : x = _); first | (with_reducible refine let_kept kq kp e ?_ fun _ => ?_) <;> clear e | (with_reducible refine let2_kept kq kp e ?_ fun _ => ?_) <;> clear e | clear e) | (extract_lets +onlyGivenNames x) | with_reducible apply State.nvEnqueue_kept | with_reducible apply State.take_kept | split

theorem execLogConfig_kept {s : State} (hk : s.Kept kq kp) :
    OutKept kq kp (execLogConfig s) := by
  delta execLogConfig
  repeat' first | with_reducible assumption | (intro) | with_reducible apply next_kept | (extract_lets +onlyGivenNames x; clear_value (e : x = _); first | (with_reducible refine let_kept kq kp e ?_ fun _ => ?_) <;> clear e | (with_reducible refine let2_kept kq kp e ?_ fun _ => ?_) <;> clear e | clear e) | (extract_lets +onlyGivenNames x) | with_reducible apply State.serve_kept | with_reducible apply State.fail_kept | with_reducible apply State.wr_kept | with_reducible apply State.ok_kept | split

theorem execLogFlush_kept {s : State} (hk : s.Kept kq kp) :
    OutKept kq kp (execLogFlush s) := by
  delta execLogFlush
  repeat' first | with_reducible assumption | (intro) | with_reducible apply next_kept | (extract_lets +onlyGivenNames x; clear_value (e : x = _); first | (with_reducible refine let_kept kq kp e ?_ fun _ => ?_) <;> clear e | (with_reducible refine let2_kept kq kp e ?_ fun _ => ?_) <;> clear e | clear e) | (extract_lets +onlyGivenNames x) | with_reducible apply State.serve_kept | with_reducible apply State.dropOwnFlush_kept | with_reducible apply State.take_kept | with_reducible apply State.finish_kept | with_reducible apply State.nvCommand_kept | split

theorem execLogReadPersisted_kept {s : State} (hk : s.Kept kq kp) :
    OutKept kq kp (execLogReadPersisted s) := by
  delta execLogReadPersisted
  repeat' first | with_reducible assumption | (intro) | with_reducible apply next_kept | (extract_lets +onlyGivenNames x; clear_value (e : x = _); first | (with_reducible refine let_kept kq kp e ?_ fun _ => ?_) <;> clear e | (with_reducible refine let2_kept kq kp e ?_ fun _ => ?_) <;> clear e | clear e) | (extract_lets +onlyGivenNames x) | with_reducible apply State.serve_kept | with_reducible apply State.fail_kept | with_reducible apply State.fwWrite_kept | with_reducible apply State.finish_kept | split

end Sys2Proof.Machine
end

