-- ==== Sys2Proof/Laws/KeptMemCmd.lean ====
section
/-! SUPPORT. The operations of Machine/MemCmd.lean keep the queue, the part and the canonical form of the sparse stores. -/

namespace Sys2Proof.Machine

set_option linter.unusedTactic false
set_option linter.unreachableTactic false
set_option linter.tactic.unusedName false

variable {kq : List Instr} {kp : Part}

theorem State.setDdr_kept {s : State} (f : Ddr → Ddr) (hk : s.Kept kq kp) :
    (State.setDdr s f).Kept kq kp := by
  delta State.setDdr
  repeat' first | with_reducible assumption | (extract_lets +onlyGivenNames x; clear_value (e : x = _); first | (with_reducible refine let_kept kq kp e ?_ fun _ => ?_) <;> clear e | (with_reducible refine let2_kept kq kp e ?_ fun _ => ?_) <;> clear e | clear e) | (extract_lets +onlyGivenNames x) | simp -zeta only [upd_kept]

theorem State.slotPowerOwn_kept {s : State} (c : Nat) (on : Bool) (hk : s.Kept kq kp) :
    (State.slotPowerOwn s c on).Kept kq kp := by
  delta State.slotPowerOwn
  repeat' first | with_reducible assumption | with_reducible apply State.slotPower_kept | split

theorem State.ddrStart_kept {s : State} (hk : s.Kept kq kp) :
    (State.ddrStart s).Kept kq kp := by
  delta State.ddrStart
  repeat' first | with_reducible assumption | (intro) | with_reducible apply State.slotPowerOwn_kept | with_reducible apply foldl_kept | with_reducible apply foldl2_kept

theorem State.setLanes_kept {s : State} (c : Nat) (ls : List Word) (hk : s.Kept kq kp) :
    (State.setLanes s c ls).Kept kq kp := by
  delta State.setLanes
  repeat' first | with_reducible assumption | (intro) | (extract_lets +onlyGivenNames x; clear_value (e : x = _); first | (with_reducible refine let_kept kq kp e ?_ fun _ => ?_) <;> clear e | (with_reducible refine let2_kept kq kp e ?_ fun _ => ?_) <;> clear e | clear e) | (extract_lets +onlyGivenNames x) | with_reducible apply State.wrOwn_kept | with_reducible apply foldl_kept | with_reducible apply foldl2_kept

theorem State.freeLanes_kept {s : State} (c : Nat) (step : Nat) (sub : Nat) (hk : s.Kept kq kp) :
    (State.freeLanes s c step sub).Kept kq kp := by
  delta State.freeLanes
  repeat' first | with_reducible assumption | (intro) | (extract_lets +onlyGivenNames x; clear_value (e : x = _); first | (with_reducible refine let_kept kq kp e ?_ fun _ => ?_) <;> clear e | (with_reducible refine let2_kept kq kp e ?_ fun _ => ?_) <;> clear e | clear e) | (extract_lets +onlyGivenNames x) | with_reducible apply State.freeNat_kept | with_reducible apply State.wrOwn_kept | split | with_reducible apply foldl_kept | with_reducible apply foldl2_kept

theorem State.trainRun_kept {s : State} (c : Nat) (x : TrainRun) (hk : s.Kept kq kp) :
    (State.trainRun s c x).Kept kq kp := by
  delta State.trainRun
  repeat' first | with_reducible assumption | (extract_lets +onlyGivenNames x; clear_value (e : x = _); first | (with_reducible refine let_kept kq kp e ?_ fun _ => ?_) <;> clear e | (with_reducible refine let2_kept kq kp e ?_ fun _ => ?_) <;> clear e | clear e) | (extract_lets +onlyGivenNames x) | with_reducible apply State.wr_kept | with_reducible apply State.wrOwn_kept | with_reducible apply State.trainWrite_kept | split

theorem State.trainPhase_kept {s : State} (c : Nat) (ph : TrainPhase) (hk : s.Kept kq kp) :
    (State.trainPhase s c ph).Kept kq kp := by
  delta State.trainPhase
  repeat' first | with_reducible assumption | (intro) | (extract_lets +onlyGivenNames x; clear_value (e : x = _); first | (with_reducible refine let_kept kq kp e ?_ fun _ => ?_) <;> clear e | (with_reducible refine let2_kept kq kp e ?_ fun _ => ?_) <;> clear e | clear e) | (extract_lets +onlyGivenNames x) | with_reducible apply State.setChan_kept | with_reducible apply State.trainRun_kept | split | simp -zeta only [upd_kept]

theorem State.trainFull_kept {s : State} (c : Nat) (hk : s.Kept kq kp) :
    (State.trainFull s c).Kept kq kp := by
  delta State.trainFull
  repeat' first | with_reducible assumption | with_reducible apply State.emit_kept | with_reducible apply State.trainPhase_kept

theorem State.trainStart_kept {s : State} (c : Nat) (full : Bool) (hk : s.Kept kq kp) :
    (State.trainStart s c full).Kept kq kp := by
  delta State.trainStart
  repeat' first | with_reducible assumption | (extract_lets +onlyGivenNames x; clear_value (e : x = _); first | (with_reducible refine let_kept kq kp e ?_ fun _ => ?_) <;> clear e | (with_reducible refine let2_kept kq kp e ?_ fun _ => ?_) <;> clear e | clear e) | (extract_lets +onlyGivenNames x) | with_reducible apply State.setLanes_kept | with_reducible apply State.trainPhase_kept | with_reducible apply State.trainFull_kept | split | simp -zeta only [upd_kept]

theorem State.ddrPopulation_kept {s : State} (hk : s.Kept kq kp) :
    (State.ddrPopulation s).Kept kq kp := by
  delta State.ddrPopulation
  repeat' first | with_reducible assumption | (intro) | (extract_lets +onlyGivenNames x; clear_value (e : x = _); first | (with_reducible refine let_kept kq kp e ?_ fun _ => ?_) <;> clear e | (with_reducible refine let2_kept kq kp e ?_ fun _ => ?_) <;> clear e | clear e) | (extract_lets +onlyGivenNames x) | with_reducible apply State.setDdr_kept | with_reducible apply State.applySpd_kept | with_reducible apply State.wrOwn_kept | with_reducible apply State.trainStart_kept | with_reducible apply State.slotPowerOwn_kept | with_reducible apply State.report_kept | split | simp -zeta only [upd_kept] | with_reducible apply foldl_kept | with_reducible apply foldl2_kept

theorem State.restoreSpd_kept {s : State} (c : Nat) (hk : s.Kept kq kp) :
    (State.restoreSpd s c).Kept kq kp := by
  delta State.restoreSpd
  repeat' first | with_reducible assumption | (intro) | (extract_lets +onlyGivenNames x; clear_value (e : x = _); first | (with_reducible refine let_kept kq kp e ?_ fun _ => ?_) <;> clear e | (with_reducible refine let2_kept kq kp e ?_ fun _ => ?_) <;> clear e | clear e) | (extract_lets +onlyGivenNames x) | with_reducible apply State.commandCovers_kept | with_reducible apply State.applySpd_kept | with_reducible apply State.wrOwn_kept | with_reducible apply State.trainStart_kept | with_reducible apply State.slotPower_kept | with_reducible apply State.wake_kept | split | simp -zeta only [upd_kept] | with_reducible apply foldl_kept | with_reducible apply foldl2_kept

theorem execPmicWaitEnd_kept (c : Fin 4) (spd : Option Spd) {s : State} (hk : s.Kept kq kp) :
    OutKept kq kp (execPmicWaitEnd c spd s) := by
  delta execPmicWaitEnd
  repeat' first | with_reducible assumption | (intro) | with_reducible apply next_kept | (extract_lets +onlyGivenNames x; clear_value (e : x = _); first | (with_reducible refine let_kept kq kp e ?_ fun _ => ?_) <;> clear e | (with_reducible refine let2_kept kq kp e ?_ fun _ => ?_) <;> clear e | clear e) | (extract_lets +onlyGivenNames x) | with_reducible apply State.wr_kept | with_reducible apply State.setChan_kept | with_reducible apply State.restoreSpd_kept | with_reducible apply State.ddrPopulation_kept | split | simp -zeta only [upd_kept]

theorem State.ddrInit_kept {s : State} (hk : s.Kept kq kp) :
    (State.ddrInit s).Kept kq kp := by
  delta State.ddrInit
  repeat' first | with_reducible assumption | (intro) | (extract_lets +onlyGivenNames x; clear_value (e : x = _); first | (with_reducible refine let_kept kq kp e ?_ fun _ => ?_) <;> clear e | (with_reducible refine let2_kept kq kp e ?_ fun _ => ?_) <;> clear e | clear e) | (extract_lets +onlyGivenNames x) | with_reducible apply State.wrOwn_kept | with_reducible apply State.initStart_kept | with_reducible apply getD_kept | with_reducible apply foldl_kept | with_reducible apply foldl2_kept

theorem State.trainPassed_kept {s : State} (c : Nat) (hk : s.Kept kq kp) :
    (State.trainPassed s c).Kept kq kp := by
  delta State.trainPassed
  repeat' first | with_reducible assumption | (intro) | (extract_lets +onlyGivenNames x; clear_value (e : x = _); first | (with_reducible refine let_kept kq kp e ?_ fun _ => ?_) <;> clear e | (with_reducible refine let2_kept kq kp e ?_ fun _ => ?_) <;> clear e | clear e) | (extract_lets +onlyGivenNames x) | with_reducible apply State.wr_kept | with_reducible apply State.setChan_kept | with_reducible apply State.setNv_kept | with_reducible apply State.nvEnqueue_kept | with_reducible apply State.ddrInit_kept | split | simp -zeta only [upd_kept]

theorem execTrainDone_kept (c : Fin 4) (pass : BitVec 40) (errs : BitVec 32) {s : State} (hk : s.Kept kq kp) :
    OutKept kq kp (execTrainDone c pass errs s) := by
  delta execTrainDone
  repeat' first | with_reducible assumption | with_reducible apply next_kept | (extract_lets +onlyGivenNames x; clear_value (e : x = _); first | (with_reducible refine let_kept kq kp e ?_ fun _ => ?_) <;> clear e | (with_reducible refine let2_kept kq kp e ?_ fun _ => ?_) <;> clear e | clear e) | (extract_lets +onlyGivenNames x) | with_reducible apply State.wr_kept | with_reducible apply State.freeLanes_kept | with_reducible apply State.trainPhase_kept | with_reducible apply State.trainPassed_kept | with_reducible apply State.trainFull_kept | split | simp -zeta only [upd_kept]

theorem execDdrScrub_kept {s : State} (hk : s.Kept kq kp) :
    OutKept kq kp (execDdrScrub s) := by
  delta execDdrScrub
  repeat' first | with_reducible assumption | (intro) | with_reducible apply next_kept | (extract_lets +onlyGivenNames x; clear_value (e : x = _); first | (with_reducible refine let_kept kq kp e ?_ fun _ => ?_) <;> clear e | (with_reducible refine let2_kept kq kp e ?_ fun _ => ?_) <;> clear e | clear e) | (extract_lets +onlyGivenNames x) | with_reducible apply State.serve_kept | with_reducible apply State.fail_kept | with_reducible apply State.setDdr_kept | with_reducible apply State.waitFor_kept | split | simp -zeta only [upd_kept]

theorem State.ddrScrubLine_kept {s : State} (j : DdrScrubJob) (q : DdrQuality) (hk : s.Kept kq kp) :
    (State.ddrScrubLine s j q).2.Kept kq kp := by
  delta State.ddrScrubLine
  repeat' first | with_reducible assumption | (intro) | (extract_lets +onlyGivenNames x; clear_value (e : x = _); first | (with_reducible refine let_kept kq kp e ?_ fun _ => ?_) <;> clear e | (with_reducible refine let2_kept kq kp e ?_ fun _ => ?_) <;> clear e | clear e) | (extract_lets +onlyGivenNames x) | with_reducible apply State.ddrFlush_kept | with_reducible apply State.ddrTouch_kept | with_reducible apply State.count_kept | with_reducible apply State.activate_kept | with_reducible apply State.noteQuality_kept | with_reducible apply State.ddrCheck_kept | with_reducible apply State.ddrWriteLine_kept | split | with_reducible apply getD_kept | dsimp -zeta only | simp -zeta only [upd_kept]

theorem execDdrScrubRead_kept (q : DdrQuality) {s : State} (hk : s.Kept kq kp) :
    OutKept kq kp (execDdrScrubRead q s) := by
  delta execDdrScrubRead
  repeat' first | with_reducible assumption | (intro) | with_reducible apply next_kept | (extract_lets +onlyGivenNames x; clear_value (e : x = _); first | (with_reducible refine let_kept kq kp e ?_ fun _ => ?_) <;> clear e | (with_reducible refine let2_kept kq kp e ?_ fun _ => ?_) <;> clear e | clear e) | (extract_lets +onlyGivenNames x) | with_reducible apply State.ddrScrubLine_kept | with_reducible apply State.setDdr_kept | with_reducible apply State.wake_kept | split | simp -zeta only [upd_kept]

theorem State.restoreEnd_kept {s : State} (k : Nat) (hk : s.Kept kq kp) :
    (State.restoreEnd s k).Kept kq kp := by
  delta State.restoreEnd
  repeat' first | with_reducible assumption | (intro) | (extract_lets +onlyGivenNames x; clear_value (e : x = _); first | (with_reducible refine let_kept kq kp e ?_ fun _ => ?_) <;> clear e | (with_reducible refine let2_kept kq kp e ?_ fun _ => ?_) <;> clear e | clear e) | (extract_lets +onlyGivenNames x) | with_reducible apply State.wr_kept | with_reducible apply State.setChan_kept | with_reducible apply State.wake_kept | split | simp -zeta only [upd_kept]

theorem execMemSlotRetire_kept {s : State} (hk : s.Kept kq kp) :
    OutKept kq kp (execMemSlotRetire s) := by
  delta execMemSlotRetire
  repeat' first | with_reducible assumption | (intro) | with_reducible apply next_kept | (extract_lets +onlyGivenNames x; clear_value (e : x = _); first | (with_reducible refine let_kept kq kp e ?_ fun _ => ?_) <;> clear e | (with_reducible refine let2_kept kq kp e ?_ fun _ => ?_) <;> clear e | clear e) | (extract_lets +onlyGivenNames x) | with_reducible apply State.serve_kept | with_reducible apply State.ok_kept | with_reducible apply State.fail_kept | with_reducible apply State.waitFor_kept | with_reducible apply State.restoreEnd_kept | with_reducible apply State.take_kept | with_reducible apply State.setChan_kept | split | simp -zeta only [upd_kept]

theorem execRetireDrained_kept (c : Fin 4) {s : State} (hk : s.Kept kq kp) :
    OutKept kq kp (execRetireDrained c s) := by
  delta execRetireDrained
  repeat' first | with_reducible assumption | (intro) | with_reducible apply next_kept | (extract_lets +onlyGivenNames x; clear_value (e : x = _); first | (with_reducible refine let_kept kq kp e ?_ fun _ => ?_) <;> clear e | (with_reducible refine let2_kept kq kp e ?_ fun _ => ?_) <;> clear e | clear e) | (extract_lets +onlyGivenNames x) | with_reducible apply State.slotPower_kept | with_reducible apply State.wr_kept | with_reducible apply State.setChan_kept | with_reducible apply State.wake_kept | split | simp -zeta only [upd_kept]

theorem execMemSlotRestore_kept {s : State} (hk : s.Kept kq kp) :
    OutKept kq kp (execMemSlotRestore s) := by
  delta execMemSlotRestore
  repeat' first | with_reducible assumption | (intro) | with_reducible apply next_kept | (extract_lets +onlyGivenNames x; clear_value (e : x = _); first | (with_reducible refine let_kept kq kp e ?_ fun _ => ?_) <;> clear e | (with_reducible refine let2_kept kq kp e ?_ fun _ => ?_) <;> clear e | clear e) | (extract_lets +onlyGivenNames x) | with_reducible apply State.serve_kept | with_reducible apply State.fail_kept | with_reducible apply State.freeNat_kept | with_reducible apply State.finish_kept | with_reducible apply State.take_kept | with_reducible apply State.waitFor_kept | with_reducible apply State.slotPower_kept | with_reducible apply State.setChan_kept | split | simp -zeta only [upd_kept]

theorem State.resilverDone_kept {s : State} (c : Nat) (since : Nat) (hk : s.Kept kq kp) :
    (State.resilverDone s c since).Kept kq kp := by
  delta State.resilverDone
  repeat' first | with_reducible assumption | (intro) | (extract_lets +onlyGivenNames x; clear_value (e : x = _); first | (with_reducible refine let_kept kq kp e ?_ fun _ => ?_) <;> clear e | (with_reducible refine let2_kept kq kp e ?_ fun _ => ?_) <;> clear e | clear e) | (extract_lets +onlyGivenNames x) | with_reducible apply State.wr_kept | with_reducible apply State.setChan_kept | with_reducible apply State.setCause_kept | with_reducible apply State.report_kept | with_reducible apply State.wake_kept | split | simp -zeta only [upd_kept]

theorem execResilverCopy_kept (c : Fin 4) (q : DdrQuality) {s : State} (hk : s.Kept kq kp) :
    OutKept kq kp (execResilverCopy c q s) := by
  delta execResilverCopy
  repeat' first | with_reducible assumption | (intro) | with_reducible apply next_kept | (extract_lets +onlyGivenNames x; clear_value (e : x = _); first | (with_reducible refine let_kept kq kp e ?_ fun _ => ?_) <;> clear e | (with_reducible refine let2_kept kq kp e ?_ fun _ => ?_) <;> clear e | clear e) | (extract_lets +onlyGivenNames x) | with_reducible apply State.resilverDone_kept | with_reducible apply State.ddrFlush_kept | with_reducible apply State.ddrTouch_kept | with_reducible apply State.activate_kept | with_reducible apply State.noteQuality_kept | with_reducible apply State.ddrCheck_kept | with_reducible apply State.lineStore_kept | with_reducible apply State.setChan_kept | split | simp -zeta only [upd_kept]

theorem execMemConfig_kept {s : State} (hk : s.Kept kq kp) :
    OutKept kq kp (execMemConfig s) := by
  delta execMemConfig
  repeat' first | with_reducible assumption | (intro) | with_reducible apply next_kept | (extract_lets +onlyGivenNames x; clear_value (e : x = _); first | (with_reducible refine let_kept kq kp e ?_ fun _ => ?_) <;> clear e | (with_reducible refine let2_kept kq kp e ?_ fun _ => ?_) <;> clear e | clear e) | (extract_lets +onlyGivenNames x) | with_reducible apply State.serve_kept | with_reducible apply State.fail_kept | with_reducible apply State.nvCommand_kept | split | simp -zeta only [upd_kept]

end Sys2Proof.Machine
end

