-- ==== Sys2Proof/Laws/KeptScrub.lean ====
section
/-! SUPPORT. The operations of Machine/Scrub.lean keep the queue, the part and the canonical form of the sparse stores. -/

namespace Sys2Proof.Machine

set_option linter.unusedTactic false
set_option linter.unreachableTactic false
set_option linter.tactic.unusedName false

variable {kq : List Instr} {kp : Part}

theorem State.dsmOverride_kept {s : State} (hk : s.Kept kq kp) :
    (State.dsmOverride s).Kept kq kp := by
  delta State.dsmOverride
  repeat' first | with_reducible assumption | (intro) | (extract_lets +onlyGivenNames x; clear_value (e : x = _); first | (with_reducible refine let_kept kq kp e ?_ fun _ => ?_) <;> clear e | (with_reducible refine let2_kept kq kp e ?_ fun _ => ?_) <;> clear e | clear e) | (extract_lets +onlyGivenNames x) | with_reducible apply State.wr_kept | with_reducible apply State.report_kept | split | with_reducible apply foldl_kept | with_reducible apply foldl2_kept

theorem execDsmOverride_kept {s : State} (hk : s.Kept kq kp) :
    OutKept kq kp (execDsmOverride s) := by
  delta execDsmOverride
  repeat' first | with_reducible assumption | (intro) | with_reducible apply next_kept | with_reducible apply State.serve_kept | with_reducible apply State.dsmOverride_kept | with_reducible apply State.ok_kept | with_reducible apply State.fail_kept | split

theorem execDsmRegionAlloc_kept {s : State} (hk : s.Kept kq kp) :
    OutKept kq kp (execDsmRegionAlloc s) := by
  delta execDsmRegionAlloc
  repeat' first | with_reducible assumption | (intro) | with_reducible apply next_kept | (rename_i e; (with_reducible refine of_opt2 kq kp e ?_ fun _ => ?_) <;> clear e) | with_reducible apply some_kept | with_reducible apply none_kept | with_reducible apply none2_kept | (extract_lets +onlyGivenNames x; clear_value (e : x = _); first | (with_reducible refine let_kept kq kp e ?_ fun _ => ?_) <;> clear e | (with_reducible refine let2_kept kq kp e ?_ fun _ => ?_) <;> clear e | clear e) | (extract_lets +onlyGivenNames x) | with_reducible apply State.serve_kept | with_reducible apply State.fail_kept | with_reducible apply State.finish_kept | with_reducible apply State.dsmNewRegion_kept | with_reducible apply State.take_kept | split | simp -zeta only [upd_kept]

theorem execDsmRegionFree_kept {s : State} (hk : s.Kept kq kp) :
    OutKept kq kp (execDsmRegionFree s) := by
  delta execDsmRegionFree
  repeat' first | with_reducible assumption | (intro) | with_reducible apply next_kept | (extract_lets +onlyGivenNames x; clear_value (e : x = _); first | (with_reducible refine let_kept kq kp e ?_ fun _ => ?_) <;> clear e | (with_reducible refine let2_kept kq kp e ?_ fun _ => ?_) <;> clear e | clear e) | (extract_lets +onlyGivenNames x) | with_reducible apply State.serve_kept | with_reducible apply State.fail_kept | with_reducible apply State.dsmFreeRegion_kept | with_reducible apply State.ok_kept | split

theorem execScrub_kept {s : State} (hk : s.Kept kq kp) :
    OutKept kq kp (execScrub s) := by
  delta execScrub
  repeat' first | with_reducible assumption | (intro) | with_reducible apply next_kept | (extract_lets +onlyGivenNames x; clear_value (e : x = _); first | (with_reducible refine let_kept kq kp e ?_ fun _ => ?_) <;> clear e | (with_reducible refine let2_kept kq kp e ?_ fun _ => ?_) <;> clear e | clear e) | (extract_lets +onlyGivenNames x) | with_reducible apply State.serve_kept | with_reducible apply State.fail_kept | with_reducible apply State.setDsm_kept | with_reducible apply State.wr_kept | with_reducible apply State.waitFor_kept | split | simp -zeta only [upd_kept]

theorem State.scrubWrite_kept {s : State} (la : Nat) (d : List Byte) (poison : Bool) (hk : s.Kept kq kp) :
    (State.scrubWrite s la d poison).Kept kq kp := by
  delta State.scrubWrite
  repeat' first | with_reducible assumption | (intro) | with_reducible apply State.dsmStoreAll_kept | with_reducible apply State.dsmSetPoison_kept | with_reducible apply State.recurClearLine_kept | with_reducible apply State.inject_kept

theorem State.scrubPage_kept {s : State} (j : ScrubJob) (p : Nat) (hk : s.Kept kq kp) :
    (State.scrubPage s j p).2.Kept kq kp := by
  delta State.scrubPage
  repeat' first | with_reducible assumption | (intro) | (extract_lets +onlyGivenNames x; clear_value (e : x = _); first | (with_reducible refine let_kept kq kp e ?_ fun _ => ?_) <;> clear e | (with_reducible refine let2_kept kq kp e ?_ fun _ => ?_) <;> clear e | have _f : State → _ := x | clear e) | (extract_lets +onlyGivenNames x) | with_reducible apply State.scrubWrite_kept | with_reducible apply State.writeParity_kept | with_reducible apply State.setPage_kept | split | dsimp -zeta only | simp -zeta only [upd_kept] | with_reducible apply foldl_kept | with_reducible apply foldl2_kept | (subst_vars; beta_reduce)

theorem State.scrubLine_kept {s : State} (j : ScrubJob) (hk : s.Kept kq kp) :
    (State.scrubLine s j).2.Kept kq kp := by
  delta State.scrubLine
  repeat' first | with_reducible assumption | (extract_lets +onlyGivenNames x; clear_value (e : x = _); first | (with_reducible refine let_kept kq kp e ?_ fun _ => ?_) <;> clear e | (with_reducible refine let2_kept kq kp e ?_ fun _ => ?_) <;> clear e | clear e) | (extract_lets +onlyGivenNames x) | with_reducible apply State.dsmRawRead_kept | split | dsimp -zeta only | simp -zeta only [upd_kept]

theorem execScrubRead_kept {s : State} (hk : s.Kept kq kp) :
    OutKept kq kp (execScrubRead s) := by
  delta execScrubRead
  repeat' first | with_reducible assumption | (intro) | with_reducible apply next_kept | (extract_lets +onlyGivenNames x; clear_value (e : x = _); first | (with_reducible refine let_kept kq kp e ?_ fun _ => ?_) <;> clear e | (with_reducible refine let2_kept kq kp e ?_ fun _ => ?_) <;> clear e | clear e) | (extract_lets +onlyGivenNames x) | with_reducible apply State.scrubLine_kept | with_reducible apply State.scrubPage_kept | with_reducible apply State.setDsm_kept | with_reducible apply State.wr_kept | with_reducible apply State.setCause_kept | with_reducible apply State.wake_kept | split | simp -zeta only [upd_kept]

theorem State.showSpares_kept {s : State} (bank : Nat) (hk : s.Kept kq kp) :
    (State.showSpares s bank).Kept kq kp := by
  delta State.showSpares
  repeat' first | with_reducible assumption | with_reducible apply State.wr_kept | split

theorem State.setSpares_kept {s : State} (l : List SpareUse) (hk : s.Kept kq kp) :
    (State.setSpares s l).Kept kq kp := by
  delta State.setSpares
  repeat' first | with_reducible assumption | (intro) | (extract_lets +onlyGivenNames x; clear_value (e : x = _); first | (with_reducible refine let_kept kq kp e ?_ fun _ => ?_) <;> clear e | (with_reducible refine let2_kept kq kp e ?_ fun _ => ?_) <;> clear e | clear e) | (extract_lets +onlyGivenNames x) | with_reducible apply State.showSpares_kept | with_reducible apply State.setDsm_kept | simp -zeta only [upd_kept] | with_reducible apply foldl_kept | with_reducible apply foldl2_kept

theorem State.persistRepair_kept {s : State} (c : FwCmd) (u : SpareUse) (resp : List Byte) (checked : Bool) (hk : s.Kept kq kp) :
    (State.persistRepair s c u resp checked).Kept kq kp := by
  delta State.persistRepair
  repeat' first | with_reducible assumption | (intro) | (extract_lets +onlyGivenNames x; clear_value (e : x = _); first | (with_reducible refine let_kept kq kp e ?_ fun _ => ?_) <;> clear e | (with_reducible refine let2_kept kq kp e ?_ fun _ => ?_) <;> clear e | clear e) | (extract_lets +onlyGivenNames x) | with_reducible apply State.setNv_kept | with_reducible apply State.waitFor_kept | simp -zeta only [upd_kept]

theorem execDsmRepair_kept (adc : Adc) {s : State} (hk : s.Kept kq kp) :
    OutKept kq kp (execDsmRepair adc s) := by
  delta execDsmRepair
  repeat' first | with_reducible assumption | (intro) | with_reducible apply next_kept | (extract_lets +onlyGivenNames x; clear_value (e : x = _); first | (with_reducible refine let_kept kq kp e ?_ fun _ => ?_) <;> clear e | (with_reducible refine let2_kept kq kp e ?_ fun _ => ?_) <;> clear e | clear e) | (extract_lets +onlyGivenNames x) | with_reducible apply State.serve_kept | with_reducible apply State.fail_kept | with_reducible apply State.waitFor_kept | with_reducible apply State.persistRepair_kept | with_reducible apply State.finish_kept | with_reducible apply State.holdup_kept | with_reducible apply State.take_kept | with_reducible apply State.setDsm_kept | with_reducible apply State.wr_kept | split | simp -zeta only [upd_kept]

theorem State.parityRead_kept {s : State} (p : Nat) (i : Nat) (hk : s.Kept kq kp) :
    (State.parityRead s p i).2.Kept kq kp := by
  delta State.parityRead
  repeat' first | with_reducible assumption | (extract_lets +onlyGivenNames x; clear_value (e : x = _); first | (with_reducible refine let_kept kq kp e ?_ fun _ => ?_) <;> clear e | (with_reducible refine let2_kept kq kp e ?_ fun _ => ?_) <;> clear e | clear e) | (extract_lets +onlyGivenNames x) | with_reducible apply State.count_kept | with_reducible apply State.setCause_kept | with_reducible apply State.report_kept | split | dsimp -zeta only | simp -zeta only [upd_kept]

theorem State.repairRead_kept {s : State} (key : Nat) (hk : s.Kept kq kp) :
    (State.repairRead s key).2.Kept kq kp := by
  delta State.repairRead
  repeat' first | with_reducible assumption | (extract_lets +onlyGivenNames x; clear_value (e : x = _); first | (with_reducible refine let_kept kq kp e ?_ fun _ => ?_) <;> clear e | (with_reducible refine let2_kept kq kp e ?_ fun _ => ?_) <;> clear e | clear e) | (extract_lets +onlyGivenNames x) | with_reducible apply State.dsmRawRead_kept | with_reducible apply State.parityRead_kept | split | dsimp -zeta only

theorem State.injectSpare_kept {s : State} (key : Nat) (hk : s.Kept kq kp) :
    (State.injectSpare s key).Kept kq kp := by
  unfold State.injectSpare
  split
  · exact hk
  · dsimp only
    repeat' split
    all_goals first | exact hk | exact State.wr_kept _ _ (State.setDsm_kept _ hk)

theorem execRepairCopy_kept {s : State} (hk : s.Kept kq kp) :
    OutKept kq kp (execRepairCopy s) := by
  delta execRepairCopy
  repeat' first | with_reducible assumption | (intro) | with_reducible apply next_kept | (extract_lets +onlyGivenNames x; clear_value (e : x = _); first | (with_reducible refine let_kept kq kp e ?_ fun _ => ?_) <;> clear e | (with_reducible refine let2_kept kq kp e ?_ fun _ => ?_) <;> clear e | clear e) | (extract_lets +onlyGivenNames x) | with_reducible apply State.repairRead_kept | with_reducible apply State.dirtyPage_kept | with_reducible apply State.setDsm_kept | with_reducible apply State.injectSpare_kept | split | with_reducible apply getD_kept | simp -zeta only [upd_kept]

theorem State.repairApply_kept {s : State} (j : RepairJob) (hk : s.Kept kq kp) :
    (State.repairApply s j).Kept kq kp := by
  delta State.repairApply
  repeat' first | with_reducible assumption | (intro) | (extract_lets +onlyGivenNames x; clear_value (e : x = _); first | (with_reducible refine let_kept kq kp e ?_ fun _ => ?_) <;> clear e | (with_reducible refine let2_kept kq kp e ?_ fun _ => ?_) <;> clear e | clear e) | (extract_lets +onlyGivenNames x) | with_reducible apply State.setDsm_kept | with_reducible apply State.dsmStore_kept | with_reducible apply State.showSpares_kept | with_reducible apply State.recurClearLine_kept | split | simp -zeta only [upd_kept] | with_reducible apply foldl_kept | with_reducible apply foldl2_kept

theorem State.repairDone_kept {s : State} (j : RepairJob) (hk : s.Kept kq kp) :
    (State.repairDone s j).Kept kq kp := by
  delta State.repairDone
  repeat' first | with_reducible assumption | (intro) | (extract_lets +onlyGivenNames x; clear_value (e : x = _); first | (with_reducible refine let_kept kq kp e ?_ fun _ => ?_) <;> clear e | (with_reducible refine let2_kept kq kp e ?_ fun _ => ?_) <;> clear e | clear e) | (extract_lets +onlyGivenNames x) | with_reducible apply State.persist_kept | with_reducible apply State.persistRepair_kept | with_reducible apply State.wake_kept | split | simp -zeta only [upd_kept] | with_reducible apply foldl_kept | with_reducible apply foldl2_kept

theorem execRepairSwitch_kept {s : State} (hk : s.Kept kq kp) :
    OutKept kq kp (execRepairSwitch s) := by
  delta execRepairSwitch
  repeat' first | with_reducible assumption | with_reducible apply next_kept | (extract_lets +onlyGivenNames x; clear_value (e : x = _); first | (with_reducible refine let_kept kq kp e ?_ fun _ => ?_) <;> clear e | (with_reducible refine let2_kept kq kp e ?_ fun _ => ?_) <;> clear e | clear e) | (extract_lets +onlyGivenNames x) | with_reducible apply State.repairApply_kept | with_reducible apply State.wr_kept | with_reducible apply State.setCause_kept | with_reducible apply State.report_kept | with_reducible apply State.repairDone_kept | split | simp -zeta only [upd_kept]

end Sys2Proof.Machine
end

