-- ==== Sys2Proof/Laws/KeptPower.lean ====
section
/-! SUPPORT. The operations of Machine/Power.lean keep the queue, the part and the canonical form of the sparse stores. -/

namespace Sys2Proof.Machine

set_option linter.unusedTactic false
set_option linter.unreachableTactic false
set_option linter.tactic.unusedName false

variable {kq : List Instr} {kp : Part}

theorem State.setPwr_kept {s : State} (f : Power → Power) (hk : s.Kept kq kp) :
    (State.setPwr s f).Kept kq kp := by
  delta State.setPwr
  repeat' first | with_reducible assumption | (extract_lets +onlyGivenNames x; clear_value (e : x = _); first | (with_reducible refine let_kept kq kp e ?_ fun _ => ?_) <;> clear e | (with_reducible refine let2_kept kq kp e ?_ fun _ => ?_) <;> clear e | clear e) | (extract_lets +onlyGivenNames x) | simp -zeta only [upd_kept]

theorem State.dieReset_kept {s : State} (hk : s.Kept kq kp) :
    (State.dieReset s).Kept kq kp := by
  delta State.dieReset
  extract_lets x u y r n w z
  have hx : x.Kept kq kp := by
    refine foldl_kept hk fun t a ht => ?_
    split
    · exact State.emit_kept _ ht
    · exact ht
  clear_value x
  have hu : u.Kept kq kp := by
    refine foldl_kept hx fun t a ht => ?_
    split
    · exact State.emit_kept _ ht
    · exact ht
  clear_value u
  have hz : z.Kept kq kp := ⟨hu.1, hu.2, Sparse.filter_wf (keptReg u) hu.3, rfl, hu.5, hu.6, rfl⟩
  clear_value z
  split
  · exact State.setReg_kept _ _ hz
  · exact hz

theorem State.mainReset_kept {s : State} (cause : Nat) (hk : s.Kept kq kp) :
    (State.mainReset s cause).Kept kq kp := by
  delta State.mainReset
  repeat' first | with_reducible assumption | with_reducible apply State.dieReset_kept | with_reducible apply State.shroudTakeover_kept

theorem State.factoryRegs_kept {s : State} (hk : s.Kept kq kp) :
    (State.factoryRegs s).Kept kq kp := by
  delta State.factoryRegs
  repeat' first | with_reducible assumption | (intro) | (extract_lets +onlyGivenNames x; clear_value (e : x = _); first | (with_reducible refine let_kept kq kp e ?_ fun _ => ?_) <;> clear e | (with_reducible refine let2_kept kq kp e ?_ fun _ => ?_) <;> clear e | clear e) | (extract_lets +onlyGivenNames x) | with_reducible apply State.wr_kept | split | with_reducible apply foldl_kept | with_reducible apply foldl2_kept

theorem State.firmwareRegions_kept {s : State} (hk : s.Kept kq kp) :
    (State.firmwareRegions s).Kept kq kp := by
  delta State.firmwareRegions
  repeat' first | with_reducible assumption | with_reducible apply State.dsmSetRegion_kept

theorem State.bootStart_kept {s : State} (hk : s.Kept kq kp) :
    (State.bootStart s).Kept kq kp := by
  delta State.bootStart
  repeat' first | with_reducible assumption | with_reducible apply State.factoryRegs_kept | with_reducible apply State.firmwareRegions_kept | with_reducible apply State.wr_kept

theorem State.mainRelease_kept {s : State} (hk : s.Kept kq kp) :
    (State.mainRelease s).Kept kq kp := by
  delta State.mainRelease
  repeat' first | with_reducible assumption | (intro) | (extract_lets +onlyGivenNames x; clear_value (e : x = _); first | (with_reducible refine let_kept kq kp e ?_ fun _ => ?_) <;> clear e | (with_reducible refine let2_kept kq kp e ?_ fun _ => ?_) <;> clear e | clear e) | (extract_lets +onlyGivenNames x) | with_reducible apply State.setPwr_kept | with_reducible apply State.setNv_kept | with_reducible apply State.setSpares_kept | with_reducible apply State.bootStart_kept | split | simp -zeta only [upd_kept]

theorem State.resetEvent_kept {s : State} (cause : Nat) (hk : s.Kept kq kp) :
    (State.resetEvent s cause).Kept kq kp := by
  delta State.resetEvent
  repeat' first | with_reducible assumption | with_reducible apply State.mainReset_kept | with_reducible apply State.shroudTakeover_kept | split

theorem execPorstNAssert_kept {s : State} (hk : s.Kept kq kp) :
    OutKept kq kp (execPorstNAssert s) := by
  delta execPorstNAssert
  repeat' first | with_reducible assumption | (intro) | with_reducible apply next_kept | (extract_lets +onlyGivenNames x; clear_value (e : x = _); first | (with_reducible refine let_kept kq kp e ?_ fun _ => ?_) <;> clear e | (with_reducible refine let2_kept kq kp e ?_ fun _ => ?_) <;> clear e | clear e) | (extract_lets +onlyGivenNames x) | with_reducible apply State.emit_kept | with_reducible apply State.setPwr_kept | with_reducible apply State.resetEvent_kept | split | simp -zeta only [upd_kept]

theorem execPorstNRelease_kept (straps : BitVec 2) {s : State} (hk : s.Kept kq kp) :
    OutKept kq kp (execPorstNRelease straps s) := by
  delta execPorstNRelease
  repeat' first | with_reducible assumption | (intro) | with_reducible apply next_kept | (extract_lets +onlyGivenNames x; clear_value (e : x = _); first | (with_reducible refine let_kept kq kp e ?_ fun _ => ?_) <;> clear e | (with_reducible refine let2_kept kq kp e ?_ fun _ => ?_) <;> clear e | clear e) | (extract_lets +onlyGivenNames x) | with_reducible apply State.setPwr_kept | with_reducible apply State.wr_kept | with_reducible apply State.mainRelease_kept | split | simp -zeta only [upd_kept]

theorem execMainRailFault_kept {s : State} (hk : s.Kept kq kp) :
    OutKept kq kp (execMainRailFault s) := by
  delta execMainRailFault
  repeat' first | with_reducible assumption | (intro) | with_reducible apply next_kept | (extract_lets +onlyGivenNames x; clear_value (e : x = _); first | (with_reducible refine let_kept kq kp e ?_ fun _ => ?_) <;> clear e | (with_reducible refine let2_kept kq kp e ?_ fun _ => ?_) <;> clear e | clear e) | (extract_lets +onlyGivenNames x) | with_reducible apply State.setPwr_kept | with_reducible apply State.resetEvent_kept | simp -zeta only [upd_kept]

theorem execMainRailGood_kept {s : State} (hk : s.Kept kq kp) :
    OutKept kq kp (execMainRailGood s) := by
  delta execMainRailGood
  repeat' first | with_reducible assumption | (intro) | with_reducible apply next_kept | (extract_lets +onlyGivenNames x; clear_value (e : x = _); first | (with_reducible refine let_kept kq kp e ?_ fun _ => ?_) <;> clear e | (with_reducible refine let2_kept kq kp e ?_ fun _ => ?_) <;> clear e | clear e) | (extract_lets +onlyGivenNames x) | with_reducible apply State.setPwr_kept | with_reducible apply State.mainRelease_kept | simp -zeta only [upd_kept]

theorem State.resetMain_kept {s : State} (hk : s.Kept kq kp) :
    (State.resetMain s).Kept kq kp := by
  delta State.resetMain
  repeat' first | with_reducible assumption | with_reducible apply State.mainReset_kept | with_reducible apply State.mainRelease_kept

theorem execDeviceReset_kept {s : State} (hk : s.Kept kq kp) :
    OutKept kq kp (execDeviceReset s) := by
  delta execDeviceReset
  repeat' first | with_reducible assumption | (intro) | with_reducible apply next_kept | (extract_lets +onlyGivenNames x; clear_value (e : x = _); first | (with_reducible refine let_kept kq kp e ?_ fun _ => ?_) <;> clear e | (with_reducible refine let2_kept kq kp e ?_ fun _ => ?_) <;> clear e | clear e) | (extract_lets +onlyGivenNames x) | with_reducible apply State.serve_kept | with_reducible apply State.setPwr_kept | with_reducible apply State.ok_kept | with_reducible apply State.fail_kept | split | with_reducible apply getD_kept | simp -zeta only [upd_kept]

theorem execDeviceResetDelay_kept {s : State} (hk : s.Kept kq kp) :
    OutKept kq kp (execDeviceResetDelay s) := by
  delta execDeviceResetDelay
  repeat' first | with_reducible assumption | with_reducible apply next_kept | (extract_lets +onlyGivenNames x; clear_value (e : x = _); first | (with_reducible refine let_kept kq kp e ?_ fun _ => ?_) <;> clear e | (with_reducible refine let2_kept kq kp e ?_ fun _ => ?_) <;> clear e | clear e) | (extract_lets +onlyGivenNames x) | with_reducible apply State.resetMain_kept | split | simp -zeta only [upd_kept]

theorem State.bootRun_kept {s : State} (slot : Nat) (hk : s.Kept kq kp) :
    (State.bootRun s slot).Kept kq kp := by
  delta State.bootRun
  repeat' first | with_reducible assumption | with_reducible apply State.wr_kept

theorem State.bootRom_kept {s : State} (hk : s.Kept kq kp) :
    (State.bootRom s).Kept kq kp := by
  delta State.bootRom
  repeat' first | with_reducible assumption | (intro) | (extract_lets +onlyGivenNames x; clear_value (e : x = _); first | (with_reducible refine let_kept kq kp e ?_ fun _ => ?_) <;> clear e | (with_reducible refine let2_kept kq kp e ?_ fun _ => ?_) <;> clear e | clear e) | (extract_lets +onlyGivenNames x) | with_reducible apply State.wr_kept | with_reducible apply State.bootRun_kept | with_reducible apply State.setPwr_kept | split | simp -zeta only [upd_kept]

theorem State.dsmZeroFill_kept {s : State} (hk : s.Kept kq kp) :
    (State.dsmZeroFill s).Kept kq kp := by
  refine State.wr_kept _ _ ?_
  exact ⟨hk.1, hk.2, Sparse.filter_wf _ hk.3, hk.4, Sparse.filter_wf _ hk.5, hk.6, hk.7⟩

theorem State.applySoftMap_kept {s : State} (hk : s.Kept kq kp) :
    (State.applySoftMap s).Kept kq kp := by
  delta State.applySoftMap
  repeat' first | with_reducible assumption | (intro) | (extract_lets +onlyGivenNames x; clear_value (e : x = _); first | (with_reducible refine let_kept kq kp e ?_ fun _ => ?_) <;> clear e | (with_reducible refine let2_kept kq kp e ?_ fun _ => ?_) <;> clear e | clear e) | (extract_lets +onlyGivenNames x) | with_reducible apply State.setDsm_kept | with_reducible apply State.wr_kept | with_reducible apply State.setSpares_kept | simp -zeta only [upd_kept]

theorem State.dsmSelfTest_kept {s : State} (fail : Option (Nat × Nat)) (hk : s.Kept kq kp) :
    (State.dsmSelfTest s fail).Kept kq kp := by
  delta State.dsmSelfTest
  repeat' first | with_reducible assumption | (intro) | (extract_lets +onlyGivenNames x; clear_value (e : x = _); first | (with_reducible refine let_kept kq kp e ?_ fun _ => ?_) <;> clear e | (with_reducible refine let2_kept kq kp e ?_ fun _ => ?_) <;> clear e | clear e) | (extract_lets +onlyGivenNames x) | with_reducible apply State.wr_kept | with_reducible apply State.report_kept | split | simp -zeta only [upd_kept] | with_reducible apply foldl_kept | with_reducible apply foldl2_kept

theorem State.bootStage2_kept {s : State} (fail : Option (Nat × Nat)) (hk : s.Kept kq kp) :
    (State.bootStage2 s fail).Kept kq kp := by
  delta State.bootStage2
  repeat' first | with_reducible assumption | (extract_lets +onlyGivenNames x; clear_value (e : x = _); first | (with_reducible refine let_kept kq kp e ?_ fun _ => ?_) <;> clear e | (with_reducible refine let2_kept kq kp e ?_ fun _ => ?_) <;> clear e | clear e) | (extract_lets +onlyGivenNames x) | with_reducible apply State.wr_kept | with_reducible apply State.applySoftMap_kept | with_reducible apply State.dsmSelfTest_kept | with_reducible apply State.dsmZeroFill_kept | with_reducible apply State.firmwareRegions_kept

theorem State.placeMapAreas_kept {s : State} (h : Nat) (hk : s.Kept kq kp) :
    (State.placeMapAreas s h).Kept kq kp := by
  delta State.placeMapAreas
  repeat' first | with_reducible assumption | (intro) | (rename_i e; (with_reducible refine of_opt2 kq kp e ?_ fun _ => ?_) <;> clear e) | with_reducible apply some_kept | with_reducible apply none_kept | with_reducible apply none2_kept | (extract_lets +onlyGivenNames x; clear_value (e : x = _); first | (with_reducible refine let_kept kq kp e ?_ fun _ => ?_) <;> clear e | (with_reducible refine let2_kept kq kp e ?_ fun _ => ?_) <;> clear e | clear e) | (extract_lets +onlyGivenNames x) | with_reducible apply State.dsmNewRegion_kept | with_reducible apply State.setHd_kept | split | simp -zeta only [upd_kept]

theorem State.firmwareStart_kept {s : State} (hk : s.Kept kq kp) :
    (State.firmwareStart s).Kept kq kp := by
  delta State.firmwareStart
  repeat' first | with_reducible assumption | (intro) | (extract_lets +onlyGivenNames x; clear_value (e : x = _); first | (with_reducible refine let_kept kq kp e ?_ fun _ => ?_) <;> clear e | (with_reducible refine let2_kept kq kp e ?_ fun _ => ?_) <;> clear e | clear e) | (extract_lets +onlyGivenNames x) | with_reducible apply State.wr_kept | with_reducible apply State.setDup_kept | with_reducible apply State.setStandby_kept | with_reducible apply State.report_kept | with_reducible apply State.setCause_kept | with_reducible apply State.placeMapAreas_kept | with_reducible apply State.reportTakeover_kept | with_reducible apply State.retime_kept | split | simp -zeta only [upd_kept] | with_reducible apply foldl_kept | with_reducible apply foldl2_kept

theorem State.bootReady_kept {s : State} (hk : s.Kept kq kp) :
    (State.bootReady s).Kept kq kp := by
  delta State.bootReady
  repeat' first | with_reducible assumption | with_reducible apply State.wr_kept | with_reducible apply State.setCause_kept

theorem execBootStageComplete_kept (fail : Option (Nat × Nat)) {s : State} (hk : s.Kept kq kp) :
    OutKept kq kp (execBootStageComplete fail s) := by
  delta execBootStageComplete
  repeat' first | with_reducible assumption | with_reducible apply next_kept | (extract_lets +onlyGivenNames x; clear_value (e : x = _); first | (with_reducible refine let_kept kq kp e ?_ fun _ => ?_) <;> clear e | (with_reducible refine let2_kept kq kp e ?_ fun _ => ?_) <;> clear e | clear e) | (extract_lets +onlyGivenNames x) | with_reducible apply State.bootStart_kept | with_reducible apply State.bootRom_kept | with_reducible apply State.bootStage2_kept | with_reducible apply State.firmwareStart_kept | with_reducible apply State.setStandby_kept | with_reducible apply State.wr_kept | with_reducible apply State.ddrStart_kept | with_reducible apply State.bootReady_kept | split

theorem State.stageLoaded_kept {s : State} (slot : Nat) (hk : s.Kept kq kp) :
    (State.stageLoaded s slot).Kept kq kp := by
  delta State.stageLoaded
  repeat' first | with_reducible assumption | (intro) | (extract_lets +onlyGivenNames x; clear_value (e : x = _); first | (with_reducible refine let_kept kq kp e ?_ fun _ => ?_) <;> clear e | (with_reducible refine let2_kept kq kp e ?_ fun _ => ?_) <;> clear e | clear e) | (extract_lets +onlyGivenNames x) | with_reducible apply State.bootRun_kept | with_reducible apply State.setPwr_kept | split | simp -zeta only [upd_kept]

theorem State.fwStage_kept (c : FwCmd) {s : State} (hk : s.Kept kq kp) :
    (State.fwStage c s).Kept kq kp := by
  delta State.fwStage
  repeat' first | with_reducible assumption | (intro) | (extract_lets +onlyGivenNames x; clear_value (e : x = _); first | (with_reducible refine let_kept kq kp e ?_ fun _ => ?_) <;> clear e | (with_reducible refine let2_kept kq kp e ?_ fun _ => ?_) <;> clear e | clear e) | (extract_lets +onlyGivenNames x) | with_reducible apply State.fail_kept | with_reducible apply State.fwRead_kept | with_reducible apply State.setNv_kept | with_reducible apply State.stageLoaded_kept | with_reducible apply State.finish_kept | with_reducible apply State.nvCommand_kept | split | simp -zeta only [upd_kept]

theorem execFwStage_kept {s : State} (hk : s.Kept kq kp) :
    OutKept kq kp (execFwStage s) := by
  delta execFwStage
  repeat' first | with_reducible assumption | (intro) | with_reducible apply next_kept | (extract_lets +onlyGivenNames x; clear_value (e : x = _); first | (with_reducible refine let_kept kq kp e ?_ fun _ => ?_) <;> clear e | (with_reducible refine let2_kept kq kp e ?_ fun _ => ?_) <;> clear e | clear e) | (extract_lets +onlyGivenNames x) | with_reducible apply State.take_kept | with_reducible apply State.fwStage_kept | with_reducible apply State.finish_kept | with_reducible apply State.serve_kept | split | simp -zeta only [upd_kept]

theorem execFwSwap_kept {s : State} (hk : s.Kept kq kp) :
    OutKept kq kp (execFwSwap s) := by
  delta execFwSwap
  repeat' first | with_reducible assumption | (intro) | with_reducible apply next_kept | (extract_lets +onlyGivenNames x; clear_value (e : x = _); first | (with_reducible refine let_kept kq kp e ?_ fun _ => ?_) <;> clear e | (with_reducible refine let2_kept kq kp e ?_ fun _ => ?_) <;> clear e | clear e) | (extract_lets +onlyGivenNames x) | with_reducible apply State.serve_kept | with_reducible apply State.fail_kept | with_reducible apply State.waitFor_kept | with_reducible apply State.swapCommit_kept | with_reducible apply State.setSwap_kept | with_reducible apply State.setStandby_kept | with_reducible apply State.setDup_kept | split | simp -zeta only [upd_kept]

theorem State.passTicket_kept {s : State} (old : Nat) (new : Nat) (hk : s.Kept kq kp) :
    (State.passTicket s old new).Kept kq kp := by
  delta State.passTicket
  repeat' first | with_reducible assumption | (intro) | (extract_lets +onlyGivenNames x; clear_value (e : x = _); first | (with_reducible refine let_kept kq kp e ?_ fun _ => ?_) <;> clear e | (with_reducible refine let2_kept kq kp e ?_ fun _ => ?_) <;> clear e | clear e) | (extract_lets +onlyGivenNames x) | split | simp -zeta only [upd_kept]

theorem State.nvWake_kept {s : State} (ticket : Nat) (hk : s.Kept kq kp) :
    (State.nvWake s ticket).Kept kq kp := by
  delta State.nvWake
  repeat' first | with_reducible assumption | (intro) | (extract_lets +onlyGivenNames x; clear_value (e : x = _); first | (with_reducible refine let_kept kq kp e ?_ fun _ => ?_) <;> clear e | (with_reducible refine let2_kept kq kp e ?_ fun _ => ?_) <;> clear e | clear e) | (extract_lets +onlyGivenNames x) | with_reducible apply State.wake_kept | split | simp -zeta only [upd_kept]

theorem State.blockWritten_kept {s : State} (c : Commit) (slot : Nat) (i : Image) (hk : s.Kept kq kp) :
    (State.blockWritten s c slot i).Kept kq kp := by
  delta State.blockWritten
  repeat' first | with_reducible assumption | (intro) | (extract_lets +onlyGivenNames x; clear_value (e : x = _); first | (with_reducible refine let_kept kq kp e ?_ fun _ => ?_) <;> clear e | (with_reducible refine let2_kept kq kp e ?_ fun _ => ?_) <;> clear e | clear e) | (extract_lets +onlyGivenNames x) | with_reducible apply State.setNv_kept | with_reducible apply State.nvEnqueue_kept | with_reducible apply State.passTicket_kept | with_reducible apply State.nvWake_kept | with_reducible apply State.stageLoaded_kept | split | simp -zeta only [upd_kept]

theorem State.nvApply_kept {s : State} (c : Commit) (hk : s.Kept kq kp) :
    (State.nvApply s c).Kept kq kp := by
  delta State.nvApply
  repeat' first | with_reducible assumption | (intro) | (extract_lets +onlyGivenNames x; clear_value (e : x = _); first | (with_reducible refine let_kept kq kp e ?_ fun _ => ?_) <;> clear e | (with_reducible refine let2_kept kq kp e ?_ fun _ => ?_) <;> clear e | clear e) | (extract_lets +onlyGivenNames x) | with_reducible apply State.blockWritten_kept | with_reducible apply State.setNv_kept | with_reducible apply State.wr_kept | with_reducible apply State.swapDone_kept | with_reducible apply State.setDsm_kept | with_reducible apply State.nvWake_kept | with_reducible apply State.resilverStart_kept | with_reducible apply State.logWritten_kept | split | simp -zeta only [upd_kept]

theorem execNvCommitDone_kept {s : State} (hk : s.Kept kq kp) :
    OutKept kq kp (execNvCommitDone s) := by
  delta execNvCommitDone
  repeat' first | with_reducible assumption | (intro) | with_reducible apply next_kept | (extract_lets +onlyGivenNames x; clear_value (e : x = _); first | (with_reducible refine let_kept kq kp e ?_ fun _ => ?_) <;> clear e | (with_reducible refine let2_kept kq kp e ?_ fun _ => ?_) <;> clear e | clear e) | (extract_lets +onlyGivenNames x) | with_reducible apply State.setNv_kept | with_reducible apply State.wr_kept | with_reducible apply State.count_kept | with_reducible apply State.nvApply_kept | split | simp -zeta only [upd_kept]

theorem execHoldupSet_kept (adc : Adc) {s : State} (hk : s.Kept kq kp) :
    OutKept kq kp (execHoldupSet adc s) := by
  delta execHoldupSet
  repeat' first | with_reducible assumption | (intro) | with_reducible apply next_kept | (extract_lets +onlyGivenNames x; clear_value (e : x = _); first | (with_reducible refine let_kept kq kp e ?_ fun _ => ?_) <;> clear e | (with_reducible refine let2_kept kq kp e ?_ fun _ => ?_) <;> clear e | clear e) | (extract_lets +onlyGivenNames x) | with_reducible apply State.serve_kept | with_reducible apply State.fail_kept | with_reducible apply State.wr_kept | with_reducible apply State.holdupMeasure_kept | with_reducible apply State.finish_kept | split

theorem execThermalSet_kept {s : State} (hk : s.Kept kq kp) :
    OutKept kq kp (execThermalSet s) := by
  delta execThermalSet
  repeat' first | with_reducible assumption | (intro) | with_reducible apply next_kept | (extract_lets +onlyGivenNames x; clear_value (e : x = _); first | (with_reducible refine let_kept kq kp e ?_ fun _ => ?_) <;> clear e | (with_reducible refine let2_kept kq kp e ?_ fun _ => ?_) <;> clear e | clear e) | (extract_lets +onlyGivenNames x) | with_reducible apply State.serve_kept | with_reducible apply State.fail_kept | with_reducible apply State.wr_kept | with_reducible apply State.ok_kept | split

theorem State.trip_kept {s : State} (hk : s.Kept kq kp) :
    (State.trip s).Kept kq kp := by
  delta State.trip
  repeat' first | with_reducible assumption | (intro) | (extract_lets +onlyGivenNames x; clear_value (e : x = _); first | (with_reducible refine let_kept kq kp e ?_ fun _ => ?_) <;> clear e | (with_reducible refine let2_kept kq kp e ?_ fun _ => ?_) <;> clear e | clear e) | (extract_lets +onlyGivenNames x) | with_reducible apply State.setPwr_kept | with_reducible apply State.emit_kept | with_reducible apply State.resetEvent_kept | simp -zeta only [upd_kept]

theorem execThermalTrip_kept {s : State} (hk : s.Kept kq kp) :
    OutKept kq kp (execThermalTrip s) := by
  delta execThermalTrip
  repeat' first | with_reducible assumption | with_reducible apply next_kept | with_reducible apply State.trip_kept | split

theorem State.thermWarn_kept {s : State} (hk : s.Kept kq kp) :
    (State.thermWarn s).Kept kq kp := by
  delta State.thermWarn
  repeat' first | with_reducible assumption | (extract_lets +onlyGivenNames x; clear_value (e : x = _); first | (with_reducible refine let_kept kq kp e ?_ fun _ => ?_) <;> clear e | (with_reducible refine let2_kept kq kp e ?_ fun _ => ?_) <;> clear e | clear e) | (extract_lets +onlyGivenNames x) | with_reducible apply State.wr_kept | with_reducible apply State.setCause_kept | with_reducible apply State.report_kept | split

theorem execTempSample_kept (q : BitVec 11) {s : State} (hk : s.Kept kq kp) :
    OutKept kq kp (execTempSample q s) := by
  delta execTempSample
  repeat' first | with_reducible assumption | (intro) | with_reducible apply next_kept | (extract_lets +onlyGivenNames x; clear_value (e : x = _); first | (with_reducible refine let_kept kq kp e ?_ fun _ => ?_) <;> clear e | (with_reducible refine let2_kept kq kp e ?_ fun _ => ?_) <;> clear e | clear e) | (extract_lets +onlyGivenNames x) | with_reducible apply State.wr_kept | with_reducible apply State.setPwr_kept | with_reducible apply State.thermWarn_kept | with_reducible apply State.trip_kept | split | simp -zeta only [upd_kept]

end Sys2Proof.Machine
end

