-- ==== Sys2Proof/Laws/KeptRegAccess.lean ====
section
/-! SUPPORT. The operations of Machine/RegAccess.lean keep the queue, the part and the canonical form of the sparse stores. -/

namespace Sys2Proof.Machine

set_option linter.unusedTactic false
set_option linter.unreachableTactic false
set_option linter.tactic.unusedName false

variable {kq : List Instr} {kp : Part}

theorem State.readCaptures_kept {s : State} (off : Nat) (a : RegAt) (hk : s.Kept kq kp) :
    (State.readCaptures s off a).Kept kq kp := by
  exact foldl_kept hk fun t e ht => ⟨ht.1, ht.2, ht.3, ht.4, ht.5, ht.6, Sparse.put_wf ht.7⟩

theorem State.readClears_kept {s : State} (off : Nat) (a : RegAt) (hk : s.Kept kq kp) :
    (State.readClears s off a).Kept kq kp := by
  delta State.readClears
  repeat' first | with_reducible assumption | (intro) | with_reducible apply State.setReg_kept | split

theorem State.readRestarts_kept {s : State} (off : Nat) (a : RegAt) (hk : s.Kept kq kp) :
    (State.readRestarts s off a).Kept kq kp := by
  delta State.readRestarts
  repeat' first | with_reducible assumption | (intro) | (extract_lets +onlyGivenNames x; clear_value (e : x = _); first | (with_reducible refine let_kept kq kp e ?_ fun _ => ?_) <;> clear e | (with_reducible refine let2_kept kq kp e ?_ fun _ => ?_) <;> clear e | clear e) | (extract_lets +onlyGivenNames x) | with_reducible apply State.setChan_kept | split | simp -zeta only [upd_kept]

theorem State.regRead_kept {s : State} (off : Nat) (hk : s.Kept kq kp) :
    (State.regRead s off).2.Kept kq kp := by
  delta State.regRead
  repeat' first | with_reducible assumption | (intro) | (extract_lets +onlyGivenNames x; clear_value (e : x = _); first | (with_reducible refine let_kept kq kp e ?_ fun _ => ?_) <;> clear e | (with_reducible refine let2_kept kq kp e ?_ fun _ => ?_) <;> clear e | clear e) | (extract_lets +onlyGivenNames x) | with_reducible apply State.readCaptures_kept | with_reducible apply State.readClears_kept | with_reducible apply State.readRestarts_kept | split | with_reducible apply getD_kept | dsimp -zeta only | simp -zeta only [upd_kept]

theorem State.writeFields_kept {s : State} (off : Nat) (a : RegAt) (armed : Bool) (val : Word) (hk : s.Kept kq kp) :
    (State.writeFields s off a armed val).Kept kq kp := by
  delta State.writeFields
  repeat' first | with_reducible assumption | (intro) | with_reducible apply State.setReg_kept | with_reducible apply State.clearCauses_kept | with_reducible apply State.setIrqReg_kept | split

theorem State.setArm_kept {s : State} (r : Requester) (on : Bool) (hk : s.Kept kq kp) :
    (State.setArm s r on).Kept kq kp := by
  delta State.setArm
  repeat' first | with_reducible assumption | (extract_lets +onlyGivenNames x; clear_value (e : x = _); first | (with_reducible refine let_kept kq kp e ?_ fun _ => ?_) <;> clear e | (with_reducible refine let2_kept kq kp e ?_ fun _ => ?_) <;> clear e | clear e) | (extract_lets +onlyGivenNames x) | with_reducible apply State.wr_kept | split

theorem State.lutHold_kept {s : State} (t : Nat) (x : LutAccess) (hk : s.Kept kq kp) :
    (State.lutHold s t x).Kept kq kp := by
  delta State.lutHold
  repeat' first | with_reducible assumption | (extract_lets +onlyGivenNames x; clear_value (e : x = _); first | (with_reducible refine let_kept kq kp e ?_ fun _ => ?_) <;> clear e | (with_reducible refine let2_kept kq kp e ?_ fun _ => ?_) <;> clear e | clear e) | (extract_lets +onlyGivenNames x) | simp -zeta only [upd_kept]

theorem State.lutWrite_kept {s : State} (t : Nat) (off : Nat) (a : RegAt) (val : Word) (hk : s.Kept kq kp) :
    (State.lutWrite s t off a val).Kept kq kp := by
  delta State.lutWrite
  repeat' first | with_reducible assumption | (extract_lets +onlyGivenNames x; clear_value (e : x = _); first | (with_reducible refine let_kept kq kp e ?_ fun _ => ?_) <;> clear e | (with_reducible refine let2_kept kq kp e ?_ fun _ => ?_) <;> clear e | clear e) | (extract_lets +onlyGivenNames x) | with_reducible apply State.lutHold_kept | with_reducible apply State.lutStore_kept | split

theorem State.headEffect_kept {s : State} (off : Nat) (a : RegAt) (val : Word) (hk : s.Kept kq kp) :
    (State.headEffect s off a val).Kept kq kp := by
  delta State.headEffect
  repeat' first | with_reducible assumption | (intro) | (extract_lets +onlyGivenNames x; clear_value (e : x = _); first | (with_reducible refine let_kept kq kp e ?_ fun _ => ?_) <;> clear e | (with_reducible refine let2_kept kq kp e ?_ fun _ => ?_) <;> clear e | clear e) | (extract_lets +onlyGivenNames x) | with_reducible apply State.headCtrlWrite_kept | with_reducible apply State.commitWrite_kept | with_reducible apply State.statsClr_kept | with_reducible apply State.writeFields_kept | with_reducible apply State.setHd_kept | with_reducible apply State.lutWrite_kept | split | simp -zeta only [upd_kept]

theorem State.dirtyRegion_kept {s : State} (k : Nat) (hk : s.Kept kq kp) :
    (State.dirtyRegion s k).Kept kq kp := by
  delta State.dirtyRegion
  repeat' first | with_reducible assumption | (intro) | (extract_lets +onlyGivenNames x; clear_value (e : x = _); first | (with_reducible refine let_kept kq kp e ?_ fun _ => ?_) <;> clear e | (with_reducible refine let2_kept kq kp e ?_ fun _ => ?_) <;> clear e | clear e) | (extract_lets +onlyGivenNames x) | with_reducible apply State.setDsm_kept | simp -zeta only [upd_kept]

theorem State.dirtyMoved_kept {s : State} (k : Nat) (old : Nat × Nat) (hk : s.Kept kq kp) :
    (State.dirtyMoved s k old).Kept kq kp := by
  delta State.dirtyMoved
  repeat' first | with_reducible assumption | (intro) | (extract_lets +onlyGivenNames x; clear_value (e : x = _); first | (with_reducible refine let_kept kq kp e ?_ fun _ => ?_) <;> clear e | (with_reducible refine let2_kept kq kp e ?_ fun _ => ?_) <;> clear e | clear e) | (extract_lets +onlyGivenNames x) | with_reducible apply State.setDsm_kept | simp -zeta only [upd_kept]

theorem State.regionEffect_kept {s : State} (off : Nat) (a : RegAt) (req : Requester) (val : Word) (hk : s.Kept kq kp) :
    (State.regionEffect s off a req val).Kept kq kp := by
  delta State.regionEffect
  repeat' first | with_reducible assumption | (intro) | (extract_lets +onlyGivenNames x; clear_value (e : x = _); first | (with_reducible refine let_kept kq kp e ?_ fun _ => ?_) <;> clear e | (with_reducible refine let2_kept kq kp e ?_ fun _ => ?_) <;> clear e | have _f : State → _ := x | clear e) | (extract_lets +onlyGivenNames x) | with_reducible apply State.count_kept | with_reducible apply State.writeFields_kept | with_reducible apply State.uncover_kept | with_reducible apply State.dirtyMoved_kept | with_reducible apply State.dirtyRegion_kept | split | (subst_vars; beta_reduce)

theorem State.recurClr_kept {s : State} (v : Nat) (hk : s.Kept kq kp) :
    (State.recurClr s v).Kept kq kp := by
  delta State.recurClr
  repeat' first | with_reducible assumption | (intro) | with_reducible apply State.recurClear_kept | split | with_reducible apply foldl_kept | with_reducible apply foldl2_kept

theorem State.dsmEffect_kept {s : State} (off : Nat) (a : RegAt) (req : Requester) (val : Word) (armed : Bool) (hk : s.Kept kq kp) :
    (State.dsmEffect s off a req val armed).Kept kq kp := by
  delta State.dsmEffect
  repeat' first | with_reducible assumption | with_reducible apply State.dsmOverride_kept | with_reducible apply State.recurClr_kept | with_reducible apply State.regionEffect_kept | with_reducible apply State.writeFields_kept | split

theorem State.dmcEffect_kept {s : State} (off : Nat) (a : RegAt) (val : Word) (armed : Bool) (hk : s.Kept kq kp) :
    (State.dmcEffect s off a val armed).Kept kq kp := by
  delta State.dmcEffect
  repeat' first | with_reducible assumption | (extract_lets +onlyGivenNames x; clear_value (e : x = _); first | (with_reducible refine let_kept kq kp e ?_ fun _ => ?_) <;> clear e | (with_reducible refine let2_kept kq kp e ?_ fun _ => ?_) <;> clear e | clear e) | (extract_lets +onlyGivenNames x) | with_reducible apply State.slotPower_kept | with_reducible apply State.writeFields_kept | with_reducible apply State.trainGo_kept | with_reducible apply State.initStart_kept | with_reducible apply State.panicUpdate_kept | split | with_reducible apply getD_kept | simp -zeta only [upd_kept]

theorem State.dmaEffect_kept {s : State} (off : Nat) (a : RegAt) (val : Word) (hk : s.Kept kq kp) :
    (State.dmaEffect s off a val).Kept kq kp := by
  delta State.dmaEffect
  repeat' first | with_reducible assumption | (intro) | (extract_lets +onlyGivenNames x; clear_value (e : x = _); first | (with_reducible refine let_kept kq kp e ?_ fun _ => ?_) <;> clear e | (with_reducible refine let2_kept kq kp e ?_ fun _ => ?_) <;> clear e | clear e) | (extract_lets +onlyGivenNames x) | with_reducible apply State.dmaSwreq_kept | with_reducible apply State.dmaRing_kept | with_reducible apply State.wr_kept | with_reducible apply State.dmaEnable_kept | with_reducible apply State.dmaCommand_kept | with_reducible apply State.dmaHead_kept | with_reducible apply State.writeFields_kept | split | with_reducible apply foldl_kept | with_reducible apply foldl2_kept

theorem State.bltEffect_kept {s : State} (off : Nat) (a : RegAt) (val : Word) (hk : s.Kept kq kp) :
    (State.bltEffect s off a val).Kept kq kp := by
  delta State.bltEffect
  repeat' first | with_reducible assumption | (extract_lets +onlyGivenNames x; clear_value (e : x = _); first | (with_reducible refine let_kept kq kp e ?_ fun _ => ?_) <;> clear e | (with_reducible refine let2_kept kq kp e ?_ fun _ => ?_) <;> clear e | clear e) | (extract_lets +onlyGivenNames x) | with_reducible apply State.bltEnable_kept | with_reducible apply State.bltAbort_kept | with_reducible apply State.bltHead_kept | with_reducible apply State.bltRing_kept | with_reducible apply State.writeFields_kept | split

theorem State.streamEffect_kept {s : State} (off : Nat) (a : RegAt) (val : Word) (hk : s.Kept kq kp) :
    (State.streamEffect s off a val).Kept kq kp := by
  delta State.streamEffect
  repeat' first | with_reducible assumption | (extract_lets +onlyGivenNames x; clear_value (e : x = _); first | (with_reducible refine let_kept kq kp e ?_ fun _ => ?_) <;> clear e | (with_reducible refine let2_kept kq kp e ?_ fun _ => ?_) <;> clear e | clear e) | (extract_lets +onlyGivenNames x) | with_reducible apply State.streamEnable_kept | with_reducible apply State.writeFields_kept | with_reducible apply State.settleBucket_kept | with_reducible apply State.storeFields_kept | split

theorem State.hlyPortEffect_kept {s : State} (off : Nat) (a : RegAt) (val : Word) (hk : s.Kept kq kp) :
    (State.hlyPortEffect s off a val).Kept kq kp := by
  delta State.hlyPortEffect
  repeat' first | with_reducible assumption | (intro) | (extract_lets +onlyGivenNames x; clear_value (e : x = _); first | (with_reducible refine let_kept kq kp e ?_ fun _ => ?_) <;> clear e | (with_reducible refine let2_kept kq kp e ?_ fun _ => ?_) <;> clear e | clear e) | (extract_lets +onlyGivenNames x) | with_reducible apply State.writeFields_kept | with_reducible apply State.setRport_kept | with_reducible apply State.gateInstall_kept | with_reducible apply State.wr_kept | with_reducible apply State.gateOff_kept | split | simp -zeta only [upd_kept]

theorem State.polEffect_kept {s : State} (off : Nat) (a : RegAt) (val : Word) (hk : s.Kept kq kp) :
    (State.polEffect s off a val).Kept kq kp := by
  delta State.polEffect
  repeat' first | with_reducible assumption | (intro) | (extract_lets +onlyGivenNames x; clear_value (e : x = _); first | (with_reducible refine let_kept kq kp e ?_ fun _ => ?_) <;> clear e | (with_reducible refine let2_kept kq kp e ?_ fun _ => ?_) <;> clear e | clear e) | (extract_lets +onlyGivenNames x) | with_reducible apply State.writeFields_kept | with_reducible apply State.setRing_kept | split | simp -zeta only [upd_kept]

theorem State.hpllEffect_kept {s : State} (off : Nat) (a : RegAt) (val : Word) (hk : s.Kept kq kp) :
    (State.hpllEffect s off a val).Kept kq kp := by
  delta State.hpllEffect
  repeat' first | with_reducible assumption | (extract_lets +onlyGivenNames x; clear_value (e : x = _); first | (with_reducible refine let_kept kq kp e ?_ fun _ => ?_) <;> clear e | (with_reducible refine let2_kept kq kp e ?_ fun _ => ?_) <;> clear e | clear e) | (extract_lets +onlyGivenNames x) | with_reducible apply State.wr_kept | with_reducible apply State.pllPower_kept | with_reducible apply State.headUnlock_kept | with_reducible apply State.writeFields_kept | with_reducible apply State.pllRelock_kept | with_reducible apply State.pllRamp_kept | split

theorem State.tsyEffect_kept {s : State} (off : Nat) (a : RegAt) (val : Word) (armed : Bool) (hk : s.Kept kq kp) :
    (State.tsyEffect s off a val armed).Kept kq kp := by
  delta State.tsyEffect
  repeat' first | with_reducible assumption | (extract_lets +onlyGivenNames x; clear_value (e : x = _); first | (with_reducible refine let_kept kq kp e ?_ fun _ => ?_) <;> clear e | (with_reducible refine let2_kept kq kp e ?_ fun _ => ?_) <;> clear e | clear e) | (extract_lets +onlyGivenNames x) | with_reducible apply State.writeFields_kept | with_reducible apply State.retime_kept | with_reducible apply State.setGo_kept | with_reducible apply State.genlockWrite_kept | split

theorem State.shdCtrl_kept {s : State} (v : Nat) (hk : s.Kept kq kp) :
    (State.shdCtrl s v).Kept kq kp := by
  delta State.shdCtrl
  repeat' first | with_reducible assumption | (extract_lets +onlyGivenNames x; clear_value (e : x = _); first | (with_reducible refine let_kept kq kp e ?_ fun _ => ?_) <;> clear e | (with_reducible refine let2_kept kq kp e ?_ fun _ => ?_) <;> clear e | clear e) | (extract_lets +onlyGivenNames x) | with_reducible apply State.wr_kept | with_reducible apply State.bypassUpdate_kept | with_reducible apply State.shroudTakeover_kept | split

theorem State.coreCtrl_kept {s : State} (v : Nat) (hk : s.Kept kq kp) :
    (State.coreCtrl s v).Kept kq kp := by
  delta State.coreCtrl
  repeat' first | with_reducible assumption | (extract_lets +onlyGivenNames x; clear_value (e : x = _); first | (with_reducible refine let_kept kq kp e ?_ fun _ => ?_) <;> clear e | (with_reducible refine let2_kept kq kp e ?_ fun _ => ?_) <;> clear e | clear e) | (extract_lets +onlyGivenNames x) | with_reducible apply State.reqSwitch_kept | with_reducible apply State.reqRestart_kept | split

theorem State.miscEffect_kept {s : State} (off : Nat) (a : RegAt) (val : Word) (armed : Bool) (hk : s.Kept kq kp) :
    (State.miscEffect s off a val armed).Kept kq kp := by
  unfold State.miscEffect
  dsimp only
  refine iteInduction (motive := fun t : State => t.Kept kq kp) (fun _ => State.horizonFlags_kept (State.writeFields_kept _ _ _ _ hk)) fun _ => ?_
  refine iteInduction (motive := fun t : State => t.Kept kq kp) (fun _ => State.elect_kept (State.writeFields_kept _ _ _ _ hk)) fun _ => ?_
  refine iteInduction (motive := fun t : State => t.Kept kq kp) (fun _ => State.portSet_kept _ (State.writeFields_kept _ _ _ _ hk) hk) fun _ => ?_
  refine iteInduction (motive := fun t : State => t.Kept kq kp) (fun _ => State.hpllEffect_kept _ _ _ hk) fun _ => ?_
  refine iteInduction (motive := fun t : State => t.Kept kq kp) (fun _ => State.tsyEffect_kept _ _ _ _ hk) fun _ => ?_
  refine iteInduction (motive := fun t : State => t.Kept kq kp) (fun _ => State.ackLog_kept _ hk) fun _ => ?_
  refine iteInduction (motive := fun t : State => t.Kept kq kp) (fun _ => State.fecClear_kept _ hk) fun _ => ?_
  refine iteInduction (motive := fun t : State => t.Kept kq kp) (fun _ => iteInduction (motive := fun t : State => t.Kept kq kp) (fun _ => State.resetMain_kept hk) fun _ => hk) fun _ => ?_
  refine iteInduction (motive := fun t : State => t.Kept kq kp) (fun _ => iteInduction (motive := fun t : State => t.Kept kq kp) (fun _ => State.shdCtrl_kept _ hk) fun _ => hk) fun _ => ?_
  refine iteInduction (motive := fun t : State => t.Kept kq kp) (fun _ => iteInduction (motive := fun t : State => t.Kept kq kp) (fun _ => State.coreCtrl_kept _ hk) fun _ => hk) fun _ => ?_
  exact State.writeFields_kept _ _ _ _ hk

theorem State.sheetCtrl_kept {s : State} (off : Nat) (a : RegAt) (val : Word) (hk : s.Kept kq kp) :
    (State.sheetCtrl s off a val).Kept kq kp := by
  delta State.sheetCtrl
  repeat' first | with_reducible assumption | (extract_lets +onlyGivenNames x; clear_value (e : x = _); first | (with_reducible refine let_kept kq kp e ?_ fun _ => ?_) <;> clear e | (with_reducible refine let2_kept kq kp e ?_ fun _ => ?_) <;> clear e | clear e) | (extract_lets +onlyGivenNames x) | with_reducible apply State.sheetDown_kept | with_reducible apply State.writeFields_kept | split

theorem State.beforeWrite_kept {s : State} (off : Nat) (a : RegAt) (val : Word) (hk : s.Kept kq kp) :
    (State.beforeWrite s off a val).Kept kq kp := by
  delta State.beforeWrite
  repeat' first | with_reducible assumption | (intro) | (extract_lets +onlyGivenNames x; clear_value (e : x = _); first | (with_reducible refine let_kept kq kp e ?_ fun _ => ?_) <;> clear e | (with_reducible refine let2_kept kq kp e ?_ fun _ => ?_) <;> clear e | clear e) | (extract_lets +onlyGivenNames x) | with_reducible apply State.preLatch_kept | with_reducible apply State.serveQueued_kept | split | simp -zeta only [upd_kept]

theorem State.lutReach_kept {s : State} (off : Nat) (hk : s.Kept kq kp) :
    (State.lutReach s off).Kept kq kp := by
  delta State.lutReach
  repeat' first | with_reducible assumption | (extract_lets +onlyGivenNames x; clear_value (e : x = _); first | (with_reducible refine let_kept kq kp e ?_ fun _ => ?_) <;> clear e | (with_reducible refine let2_kept kq kp e ?_ fun _ => ?_) <;> clear e | clear e) | (extract_lets +onlyGivenNames x) | with_reducible apply State.preLatch_kept | with_reducible apply State.serveQueued_kept | split | simp -zeta only [upd_kept]

theorem State.sheetEffect_kept {s : State} (off : Nat) (a : RegAt) (val : Word) (armed : Bool) (hk : s.Kept kq kp) :
    (State.sheetEffect s off a val armed).Kept kq kp := by
  delta State.sheetEffect
  repeat' first | with_reducible assumption | with_reducible apply State.sheetCtrl_kept | with_reducible apply State.setPairMode_kept | with_reducible apply State.writeFields_kept | with_reducible apply State.probesOff_kept | with_reducible apply State.miscEffect_kept | split

theorem State.regEffect_kept {s : State} (off : Nat) (a : RegAt) (req : Requester) (val : Word) (armed : Bool) (hk : s.Kept kq kp) :
    (State.regEffect s off a req val armed).Kept kq kp := by
  delta State.regEffect
  repeat' first | with_reducible assumption | (extract_lets +onlyGivenNames x; clear_value (e : x = _); first | (with_reducible refine let_kept kq kp e ?_ fun _ => ?_) <;> clear e | (with_reducible refine let2_kept kq kp e ?_ fun _ => ?_) <;> clear e | clear e) | (extract_lets +onlyGivenNames x) | with_reducible apply State.beforeWrite_kept | with_reducible apply State.headEffect_kept | with_reducible apply State.lutWrite_kept | with_reducible apply State.writeFields_kept | with_reducible apply State.dsmEffect_kept | with_reducible apply State.dmcEffect_kept | with_reducible apply State.dmaEffect_kept | with_reducible apply State.bltEffect_kept | with_reducible apply State.sheetEffect_kept | with_reducible apply State.streamEffect_kept | with_reducible apply State.hlyPortEffect_kept | with_reducible apply State.polEffect_kept | with_reducible apply State.miscEffect_kept | split | simp -zeta only [upd_kept]

theorem State.poisonWrite_kept {s : State} (off : Nat) (r : Requester) (hk : s.Kept kq kp) :
    (State.poisonWrite s off r).Kept kq kp := by
  delta State.poisonWrite
  repeat' first | with_reducible assumption | with_reducible apply State.count_kept | with_reducible apply State.report_kept

theorem State.arrive_kept {s : State} (off : Nat) (a : RegAt) (w : RegWrite) (armed : Bool) (hk : s.Kept kq kp) :
    (State.arrive s off a w armed).Kept kq kp := by
  delta State.arrive
  repeat' first | with_reducible assumption | (intro) | (extract_lets +onlyGivenNames x; clear_value (e : x = _); first | (with_reducible refine let_kept kq kp e ?_ fun _ => ?_) <;> clear e | (with_reducible refine let2_kept kq kp e ?_ fun _ => ?_) <;> clear e | clear e) | (extract_lets +onlyGivenNames x) | with_reducible apply State.wr_kept | with_reducible apply State.hostTakes_kept | with_reducible apply State.count_kept | split | with_reducible apply foldl_kept | with_reducible apply foldl2_kept

theorem State.regStore_kept {s : State} (off : Nat) (w : RegWrite) (armed : Bool) (hk : s.Kept kq kp) :
    (State.regStore s off w armed).Kept kq kp := by
  delta State.regStore
  repeat' first | with_reducible assumption | (extract_lets +onlyGivenNames x; clear_value (e : x = _); first | (with_reducible refine let_kept kq kp e ?_ fun _ => ?_) <;> clear e | (with_reducible refine let2_kept kq kp e ?_ fun _ => ?_) <;> clear e | clear e) | (extract_lets +onlyGivenNames x) | with_reducible apply State.poisonWrite_kept | with_reducible apply State.arrive_kept | with_reducible apply State.regEffect_kept | split | simp -zeta only [upd_kept]

theorem State.quoinWrite_kept {s : State} (w : RegWrite) (hk : s.Kept kq kp) :
    (State.quoinWrite s w).Kept kq kp := by
  delta State.quoinWrite
  repeat' first | with_reducible assumption | with_reducible apply State.poisonWrite_kept | with_reducible apply State.setArm_kept | split

theorem State.regWrite_kept {s : State} (off : Nat) (w : RegWrite) (hk : s.Kept kq kp) :
    (State.regWrite s off w).Kept kq kp := by
  delta State.regWrite
  repeat' first | with_reducible assumption | (extract_lets +onlyGivenNames x; clear_value (e : x = _); first | (with_reducible refine let_kept kq kp e ?_ fun _ => ?_) <;> clear e | (with_reducible refine let2_kept kq kp e ?_ fun _ => ?_) <;> clear e | clear e) | (extract_lets +onlyGivenNames x) | with_reducible apply State.count_kept | with_reducible apply State.quoinWrite_kept | with_reducible apply State.setArm_kept | with_reducible apply State.regStore_kept | split

theorem State.busWrite_kept {s : State} (off : Nat) (w : RegWrite) (hk : s.Kept kq kp) :
    (State.busWrite s off w).Kept kq kp := by
  delta State.busWrite
  repeat' first | with_reducible assumption | (intro) | with_reducible apply State.when_kept | with_reducible apply State.regWrite_kept

theorem State.busRead_kept {s : State} (off : Nat) (req : Requester) (hk : s.Kept kq kp) :
    (State.busRead s off req).Kept kq kp := by
  delta State.busRead
  repeat' first | with_reducible assumption | (intro) | (extract_lets +onlyGivenNames x; clear_value (e : x = _); first | (with_reducible refine let_kept kq kp e ?_ fun _ => ?_) <;> clear e | (with_reducible refine let2_kept kq kp e ?_ fun _ => ?_) <;> clear e | clear e) | (extract_lets +onlyGivenNames x) | with_reducible apply State.when_kept | with_reducible apply State.lutReach_kept | with_reducible apply State.lutHold_kept | with_reducible apply State.regRead_kept | with_reducible apply State.emit_kept | split | simp -zeta only [upd_kept]

end Sys2Proof.Machine
end

