-- ==== Sys2Proof/Laws/KeptHostPort.lean ====
section
/-! SUPPORT. The operations of Machine/HostPort.lean keep the queue, the part and the canonical form of the sparse stores. -/

namespace Sys2Proof.Machine

set_option linter.unusedTactic false
set_option linter.unreachableTactic false
set_option linter.tactic.unusedName false

variable {kq : List Instr} {kp : Part}

theorem execRegisterWrite_kept (off : Nat) (w : RegWrite) {s : State} (hk : s.Kept kq kp) :
    OutKept kq kp (execRegisterWrite off w s) := by
  delta execRegisterWrite
  repeat' first | with_reducible assumption | with_reducible apply next_kept | with_reducible apply State.busWrite_kept

theorem execRcRead_kept (off : Nat) (req : Requester) {s : State} (hk : s.Kept kq kp) :
    OutKept kq kp (execRcRead off req s) := by
  delta execRcRead
  repeat' first | with_reducible assumption | with_reducible apply next_kept | with_reducible apply State.busRead_kept

theorem execCaptureRead_kept (off : Nat) (req : Requester) {s : State} (hk : s.Kept kq kp) :
    OutKept kq kp (execCaptureRead off req s) := by
  delta execCaptureRead
  repeat' first | with_reducible assumption | with_reducible apply next_kept | with_reducible apply State.busRead_kept

theorem execQuoinWrite_kept (w : RegWrite) {s : State} (hk : s.Kept kq kp) :
    OutKept kq kp (execQuoinWrite w s) := by
  delta execQuoinWrite
  repeat' first | with_reducible assumption | with_reducible apply next_kept | with_reducible apply State.busWrite_kept

theorem execSwitch_kept (w : RegWrite) {s : State} (hk : s.Kept kq kp) :
    OutKept kq kp (execSwitch w s) := by
  delta execSwitch
  repeat' first | with_reducible assumption | with_reducible apply next_kept | with_reducible apply State.busWrite_kept

theorem execRestart_kept (w : RegWrite) {s : State} (hk : s.Kept kq kp) :
    OutKept kq kp (execRestart w s) := by
  delta execRestart
  repeat' first | with_reducible assumption | with_reducible apply next_kept | with_reducible apply State.busWrite_kept

theorem execCauseClear_kept (off : Nat) (w : RegWrite) {s : State} (hk : s.Kept kq kp) :
    OutKept kq kp (execCauseClear off w s) := by
  delta execCauseClear
  repeat' first | with_reducible assumption | with_reducible apply next_kept | with_reducible apply State.busWrite_kept

theorem execDoneClear_kept (w : RegWrite) {s : State} (hk : s.Kept kq kp) :
    OutKept kq kp (execDoneClear w s) := by
  delta execDoneClear
  repeat' first | with_reducible assumption | with_reducible apply next_kept | with_reducible apply State.busWrite_kept

theorem execCommit_kept (h : Fin 4) (w : RegWrite) {s : State} (hk : s.Kept kq kp) :
    OutKept kq kp (execCommit h w s) := by
  delta execCommit
  repeat' first | with_reducible assumption | with_reducible apply next_kept | with_reducible apply State.busWrite_kept

theorem execCommitGroup_kept (h : Fin 4) (w : RegWrite) {s : State} (hk : s.Kept kq kp) :
    OutKept kq kp (execCommitGroup h w s) := by
  delta execCommitGroup
  repeat' first | with_reducible assumption | with_reducible apply next_kept | with_reducible apply State.busWrite_kept

theorem execHeadCtrlEn_kept (h : Fin 4) (w : RegWrite) {s : State} (hk : s.Kept kq kp) :
    OutKept kq kp (execHeadCtrlEn h w s) := by
  delta execHeadCtrlEn
  repeat' first | with_reducible assumption | with_reducible apply next_kept | with_reducible apply State.busWrite_kept

theorem execHeadCtrlReef_kept (h : Fin 4) (w : RegWrite) {s : State} (hk : s.Kept kq kp) :
    OutKept kq kp (execHeadCtrlReef h w s) := by
  delta execHeadCtrlReef
  repeat' first | with_reducible assumption | with_reducible apply next_kept | with_reducible apply State.busWrite_kept

theorem execHeadCtrlHold_kept (h : Fin 4) (w : RegWrite) {s : State} (hk : s.Kept kq kp) :
    OutKept kq kp (execHeadCtrlHold h w s) := by
  delta execHeadCtrlHold
  repeat' first | with_reducible assumption | with_reducible apply next_kept | with_reducible apply State.busWrite_kept

theorem execStatsClr_kept (h : Fin 4) (w : RegWrite) {s : State} (hk : s.Kept kq kp) :
    OutKept kq kp (execStatsClr h w s) := by
  delta execStatsClr
  repeat' first | with_reducible assumption | with_reducible apply next_kept | with_reducible apply State.busWrite_kept

theorem execPairModeWrite_kept (k : Fin 8) (w : RegWrite) {s : State} (hk : s.Kept kq kp) :
    OutKept kq kp (execPairModeWrite k w s) := by
  delta execPairModeWrite
  repeat' first | with_reducible assumption | with_reducible apply next_kept | with_reducible apply State.busWrite_kept

theorem execInstall_kept (p : Fin 2) (w : RegWrite) {s : State} (hk : s.Kept kq kp) :
    OutKept kq kp (execInstall p w s) := by
  delta execInstall
  repeat' first | with_reducible assumption | with_reducible apply next_kept | with_reducible apply State.busWrite_kept

theorem execTakeover_kept (w : RegWrite) {s : State} (hk : s.Kept kq kp) :
    OutKept kq kp (execTakeover w s) := by
  delta execTakeover
  repeat' first | with_reducible assumption | with_reducible apply next_kept | with_reducible apply State.busWrite_kept

theorem execBypass_kept (w : RegWrite) {s : State} (hk : s.Kept kq kp) :
    OutKept kq kp (execBypass w s) := by
  delta execBypass
  repeat' first | with_reducible assumption | with_reducible apply next_kept | with_reducible apply State.busWrite_kept

theorem execRegionRegisterWrite_kept (k : Fin 64) (r : Fin 4) (w : RegWrite) {s : State} (hk : s.Kept kq kp) :
    OutKept kq kp (execRegionRegisterWrite k r w s) := by
  delta execRegionRegisterWrite
  repeat' first | with_reducible assumption | with_reducible apply next_kept | with_reducible apply State.busWrite_kept

theorem execRecurClr_kept (w : RegWrite) {s : State} (hk : s.Kept kq kp) :
    OutKept kq kp (execRecurClr w s) := by
  delta execRecurClr
  repeat' first | with_reducible assumption | with_reducible apply next_kept | with_reducible apply State.busWrite_kept

theorem execOverride_kept (w : RegWrite) {s : State} (hk : s.Kept kq kp) :
    OutKept kq kp (execOverride w s) := by
  delta execOverride
  repeat' first | with_reducible assumption | with_reducible apply next_kept | with_reducible apply State.busWrite_kept

theorem execTrainGo_kept (c : Fin 4) (w : RegWrite) {s : State} (hk : s.Kept kq kp) :
    OutKept kq kp (execTrainGo c w s) := by
  delta execTrainGo
  repeat' first | with_reducible assumption | with_reducible apply next_kept | with_reducible apply State.busWrite_kept

theorem execSlotPwr_kept (c : Fin 4) (w : RegWrite) {s : State} (hk : s.Kept kq kp) :
    OutKept kq kp (execSlotPwr c w s) := by
  delta execSlotPwr
  repeat' first | with_reducible assumption | with_reducible apply next_kept | with_reducible apply State.busWrite_kept

theorem execInitStart_kept (w : RegWrite) {s : State} (hk : s.Kept kq kp) :
    OutKept kq kp (execInitStart w s) := by
  delta execInitStart
  repeat' first | with_reducible assumption | with_reducible apply next_kept | with_reducible apply State.busWrite_kept

theorem execDmaChEn_kept (c : Fin 16) (w : RegWrite) {s : State} (hk : s.Kept kq kp) :
    OutKept kq kp (execDmaChEn c w s) := by
  delta execDmaChEn
  repeat' first | with_reducible assumption | with_reducible apply next_kept | with_reducible apply State.busWrite_kept

theorem execDmaResume_kept (c : Fin 16) (w : RegWrite) {s : State} (hk : s.Kept kq kp) :
    OutKept kq kp (execDmaResume c w s) := by
  delta execDmaResume
  repeat' first | with_reducible assumption | with_reducible apply next_kept | with_reducible apply State.busWrite_kept

theorem execDmaAbort_kept (c : Fin 16) (w : RegWrite) {s : State} (hk : s.Kept kq kp) :
    OutKept kq kp (execDmaAbort c w s) := by
  delta execDmaAbort
  repeat' first | with_reducible assumption | with_reducible apply next_kept | with_reducible apply State.busWrite_kept

theorem execDmaHeadWrite_kept (c : Fin 16) (w : RegWrite) {s : State} (hk : s.Kept kq kp) :
    OutKept kq kp (execDmaHeadWrite c w s) := by
  delta execDmaHeadWrite
  repeat' first | with_reducible assumption | with_reducible apply next_kept | with_reducible apply State.busWrite_kept

theorem execSwreq_kept (w : RegWrite) {s : State} (hk : s.Kept kq kp) :
    OutKept kq kp (execSwreq w s) := by
  delta execSwreq
  repeat' first | with_reducible assumption | with_reducible apply next_kept | with_reducible apply State.busWrite_kept

theorem execBltDoorbell_kept (w : RegWrite) {s : State} (hk : s.Kept kq kp) :
    OutKept kq kp (execBltDoorbell w s) := by
  delta execBltDoorbell
  repeat' first | with_reducible assumption | with_reducible apply next_kept | with_reducible apply State.busWrite_kept

theorem execBltAbort_kept (w : RegWrite) {s : State} (hk : s.Kept kq kp) :
    OutKept kq kp (execBltAbort w s) := by
  delta execBltAbort
  repeat' first | with_reducible assumption | with_reducible apply next_kept | with_reducible apply State.busWrite_kept

theorem execHpllFbWrite_kept (n : Fin 4) (frac : Bool) (w : RegWrite) {s : State} (hk : s.Kept kq kp) :
    OutKept kq kp (execHpllFbWrite n frac w s) := by
  delta execHpllFbWrite
  repeat' first | with_reducible assumption | with_reducible apply next_kept | with_reducible apply State.busWrite_kept | split

theorem execRampGo_kept (n : Fin 4) (w : RegWrite) {s : State} (hk : s.Kept kq kp) :
    OutKept kq kp (execRampGo n w s) := by
  delta execRampGo
  repeat' first | with_reducible assumption | with_reducible apply next_kept | with_reducible apply State.busWrite_kept

theorem execSetGo_kept (w : RegWrite) {s : State} (hk : s.Kept kq kp) :
    OutKept kq kp (execSetGo w s) := by
  delta execSetGo
  repeat' first | with_reducible assumption | with_reducible apply next_kept | with_reducible apply State.busWrite_kept

theorem execResetCtrlMain_kept (w : RegWrite) {s : State} (hk : s.Kept kq kp) :
    OutKept kq kp (execResetCtrlMain w s) := by
  delta execResetCtrlMain
  repeat' first | with_reducible assumption | with_reducible apply next_kept | with_reducible apply State.busWrite_kept

theorem execRdSeqWrite_kept (w : RegWrite) {s : State} (hk : s.Kept kq kp) :
    OutKept kq kp (execRdSeqWrite w s) := by
  delta execRdSeqWrite
  repeat' first | with_reducible assumption | with_reducible apply next_kept | with_reducible apply State.busWrite_kept

theorem execFecClr_kept (w : RegWrite) {s : State} (hk : s.Kept kq kp) :
    OutKept kq kp (execFecClr w s) := by
  delta execFecClr
  repeat' first | with_reducible assumption | with_reducible apply next_kept | with_reducible apply State.busWrite_kept

theorem State.aliasWrite_kept {s : State} (off : Nat) (d : List (Option Byte)) (req : Requester) (poison : Bool) (hk : s.Kept kq kp) :
    (State.aliasWrite s off d req poison).Kept kq kp := by
  delta State.aliasWrite
  repeat' first | with_reducible assumption | (intro) | with_reducible apply State.regWrite_kept | with_reducible apply foldl_kept | with_reducible apply foldl2_kept

theorem State.aliasRead_kept {s : State} (off : Nat) (len : Nat) (hk : s.Kept kq kp) :
    (State.aliasRead s off len).2.Kept kq kp := by
  delta State.aliasRead
  repeat' first | with_reducible assumption | (intro) | (extract_lets +onlyGivenNames x; clear_value (e : x = _); first | (with_reducible refine let_kept kq kp e ?_ fun _ => ?_) <;> clear e | (with_reducible refine let2_kept kq kp e ?_ fun _ => ?_) <;> clear e | clear e) | (extract_lets +onlyGivenNames x) | with_reducible apply State.regRead_kept | dsimp -zeta only | with_reducible apply foldl_kept | with_reducible apply foldl2_kept

theorem State.aliasAnswer_kept {s : State} (off : Nat) (len : Nat) (hk : s.Kept kq kp) :
    (State.aliasAnswer s off len).Kept kq kp := by
  delta State.aliasAnswer
  repeat' first | with_reducible assumption | (intro) | (extract_lets +onlyGivenNames x; clear_value (e : x = _); first | (with_reducible refine let_kept kq kp e ?_ fun _ => ?_) <;> clear e | (with_reducible refine let2_kept kq kp e ?_ fun _ => ?_) <;> clear e | clear e) | (extract_lets +onlyGivenNames x) | with_reducible apply State.lutReach_kept | with_reducible apply State.lutHold_kept | with_reducible apply State.aliasRead_kept | with_reducible apply State.emit_kept | split | simp -zeta only [upd_kept] | with_reducible apply foldl_kept | with_reducible apply foldl2_kept

theorem State.lutPerform_kept {s : State} (a : LutAccess) (hk : s.Kept kq kp) :
    (State.lutPerform s a).Kept kq kp := by
  delta State.lutPerform
  repeat' first | with_reducible assumption | (extract_lets +onlyGivenNames x; clear_value (e : x = _); first | (with_reducible refine let_kept kq kp e ?_ fun _ => ?_) <;> clear e | (with_reducible refine let2_kept kq kp e ?_ fun _ => ?_) <;> clear e | clear e) | (extract_lets +onlyGivenNames x) | with_reducible apply State.busRead_kept | with_reducible apply State.aliasAnswer_kept | with_reducible apply State.lutStore_kept | split | simp -zeta only [upd_kept]

theorem execLutSyncDone_kept (t : Fin 20) {s : State} (hk : s.Kept kq kp) :
    OutKept kq kp (execLutSyncDone t s) := by
  delta execLutSyncDone
  repeat' first | with_reducible assumption | (intro) | with_reducible apply next_kept | (extract_lets +onlyGivenNames x; clear_value (e : x = _); first | (with_reducible refine let_kept kq kp e ?_ fun _ => ?_) <;> clear e | (with_reducible refine let2_kept kq kp e ?_ fun _ => ?_) <;> clear e | clear e) | (extract_lets +onlyGivenNames x) | with_reducible apply State.wr_kept | with_reducible apply State.lutPerform_kept | with_reducible apply State.lutServe_kept | with_reducible apply State.serveQueued_kept | split | simp -zeta only [upd_kept] | with_reducible apply foldl_kept | with_reducible apply foldl2_kept

theorem State.hostWrite_kept {s : State} (addr : Nat) (d : List (Option Byte)) (ep : Bool) (hk : s.Kept kq kp) :
    (State.hostWrite s addr d ep).Kept kq kp := by
  delta State.hostWrite
  repeat' first | with_reducible assumption | (intro) | (extract_lets +onlyGivenNames x; clear_value (e : x = _); first | (with_reducible refine let_kept kq kp e ?_ fun _ => ?_) <;> clear e | (with_reducible refine let2_kept kq kp e ?_ fun _ => ?_) <;> clear e | clear e) | (extract_lets +onlyGivenNames x) | with_reducible apply State.dsmPermErr_kept | with_reducible apply State.lineWrite_kept | split | simp -zeta only [upd_kept] | with_reducible apply foldl_kept | with_reducible apply foldl2_kept

theorem State.hostRead_kept {s : State} (addr : Nat) (n : Nat) (hk : s.Kept kq kp) :
    (State.hostRead s addr n).2.Kept kq kp := by
  delta State.hostRead
  repeat' first | with_reducible assumption | (intro) | (extract_lets +onlyGivenNames x; clear_value (e : x = _); first | (with_reducible refine let_kept kq kp e ?_ fun _ => ?_) <;> clear e | (with_reducible refine let2_kept kq kp e ?_ fun _ => ?_) <;> clear e | clear e) | (extract_lets +onlyGivenNames x) | with_reducible apply State.dsmPermErr_kept | with_reducible apply State.memRead_kept | split | dsimp -zeta only | simp -zeta only [upd_kept]

theorem State.hostErr_kept {s : State} (len : Nat) (hk : s.Kept kq kp) :
    (State.hostErr s len).Kept kq kp := by
  delta State.hostErr
  repeat' first | with_reducible assumption | with_reducible apply State.emit_kept | with_reducible apply State.hostRead_kept

theorem State.hostAnswer_kept {s : State} (a : MemAns) (len : Nat) (hk : s.Kept kq kp) :
    (State.hostAnswer s a len).Kept kq kp := by
  delta State.hostAnswer
  repeat' first | with_reducible assumption | with_reducible apply State.hostErr_kept | with_reducible apply State.emit_kept | with_reducible apply State.hostRead_kept | split

theorem execWindowAccess_kept (off : Nat) (a : HostAcc) {s : State} (hk : s.Kept kq kp) :
    OutKept kq kp (execWindowAccess off a s) := by
  delta execWindowAccess
  repeat' first | with_reducible assumption | with_reducible apply next_kept | (extract_lets +onlyGivenNames x; clear_value (e : x = _); first | (with_reducible refine let_kept kq kp e ?_ fun _ => ?_) <;> clear e | (with_reducible refine let2_kept kq kp e ?_ fun _ => ?_) <;> clear e | clear e) | (extract_lets +onlyGivenNames x) | with_reducible apply State.report_kept | with_reducible apply State.hostErr_kept | with_reducible apply State.aliasAnswer_kept | with_reducible apply State.hostRead_kept | with_reducible apply State.hostAnswer_kept | with_reducible apply State.aliasWrite_kept | with_reducible apply State.hostWrite_kept | split | simp -zeta only [upd_kept]

theorem State.unmask_kept {s : State} (v : Fin 64) (hk : s.Kept kq kp) :
    (State.unmask s v).Kept kq kp := by
  delta State.unmask
  repeat' first | with_reducible assumption | (extract_lets +onlyGivenNames x; clear_value (e : x = _); first | (with_reducible refine let_kept kq kp e ?_ fun _ => ?_) <;> clear e | (with_reducible refine let2_kept kq kp e ?_ fun _ => ?_) <;> clear e | clear e) | (extract_lets +onlyGivenNames x) | with_reducible apply State.emit_kept | split | simp -zeta only [upd_kept]

theorem execMsixUnmask_kept (v : Fin 64) {s : State} (hk : s.Kept kq kp) :
    OutKept kq kp (execMsixUnmask v s) := by
  delta execMsixUnmask
  repeat' first | with_reducible assumption | (intro) | with_reducible apply next_kept | with_reducible apply State.when_kept | with_reducible apply State.unmask_kept

theorem State.setMsix_kept {s : State} (v : Fin 64) (x : MsixEntry) (hk : s.Kept kq kp) :
    (State.setMsix s v x).Kept kq kp := by
  delta State.setMsix
  repeat' first | with_reducible assumption | (extract_lets +onlyGivenNames x; clear_value (e : x = _); first | (with_reducible refine let_kept kq kp e ?_ fun _ => ?_) <;> clear e | (with_reducible refine let2_kept kq kp e ?_ fun _ => ?_) <;> clear e | clear e) | (extract_lets +onlyGivenNames x) | simp -zeta only [upd_kept]

theorem State.msixWrite_kept {s : State} (i : Nat) (l : List (Option Byte)) (hk : s.Kept kq kp) :
    (State.msixWrite s i l).Kept kq kp := by
  delta State.msixWrite
  repeat' first | with_reducible assumption | (intro) | (extract_lets +onlyGivenNames x; clear_value (e : x = _); first | (with_reducible refine let_kept kq kp e ?_ fun _ => ?_) <;> clear e | (with_reducible refine let2_kept kq kp e ?_ fun _ => ?_) <;> clear e | clear e) | (extract_lets +onlyGivenNames x) | with_reducible apply State.setMsix_kept | with_reducible apply State.unmask_kept | split | with_reducible apply getD_kept | simp -zeta only [upd_kept]

theorem State.bar2Store_kept {s : State} (w : Nat) (l : List (Option Byte)) (hk : s.Kept kq kp) :
    (State.bar2Store s w l).Kept kq kp := by
  delta State.bar2Store
  repeat' first | with_reducible assumption | (extract_lets +onlyGivenNames x; clear_value (e : x = _); first | (with_reducible refine let_kept kq kp e ?_ fun _ => ?_) <;> clear e | (with_reducible refine let2_kept kq kp e ?_ fun _ => ?_) <;> clear e | clear e) | (extract_lets +onlyGivenNames x) | with_reducible apply State.mbxDoorbell_kept | with_reducible apply State.ringDoorbell_kept | with_reducible apply State.dmaRing_kept | with_reducible apply State.msixWrite_kept | split

theorem State.bar2Part_kept {s : State} (off : Nat) (n : Nat) (hk : s.Kept kq kp) :
    (State.bar2Part s off n).2.Kept kq kp := by
  delta State.bar2Part
  repeat' first | with_reducible assumption | (intro) | (extract_lets +onlyGivenNames x; clear_value (e : x = _); first | (with_reducible refine let_kept kq kp e ?_ fun _ => ?_) <;> clear e | (with_reducible refine let2_kept kq kp e ?_ fun _ => ?_) <;> clear e | clear e) | (extract_lets +onlyGivenNames x) | with_reducible apply State.hostRead_kept | split | dsimp -zeta only | simp -zeta only [upd_kept]

theorem State.bar2Read_kept {s : State} (off : Nat) (n : Nat) (hk : s.Kept kq kp) :
    (State.bar2Read s off n).Kept kq kp := by
  delta State.bar2Read
  repeat' first | with_reducible assumption | (intro) | (extract_lets +onlyGivenNames x; clear_value (e : x = _); first | (with_reducible refine let_kept kq kp e ?_ fun _ => ?_) <;> clear e | (with_reducible refine let2_kept kq kp e ?_ fun _ => ?_) <;> clear e | clear e) | (extract_lets +onlyGivenNames x) | with_reducible apply State.bar2Part_kept | with_reducible apply State.hostAnswer_kept | with_reducible apply foldl_kept | with_reducible apply foldl2_kept

theorem State.bar2Write_kept {s : State} (off : Nat) (d : List (Option Byte)) (ep : Bool) (hk : s.Kept kq kp) :
    (State.bar2Write s off d ep).Kept kq kp := by
  delta State.bar2Write
  repeat' first | with_reducible assumption | (intro) | (extract_lets +onlyGivenNames x; clear_value (e : x = _); first | (with_reducible refine let_kept kq kp e ?_ fun _ => ?_) <;> clear e | (with_reducible refine let2_kept kq kp e ?_ fun _ => ?_) <;> clear e | clear e) | (extract_lets +onlyGivenNames x) | with_reducible apply State.take_kept | with_reducible apply State.hostWrite_kept | with_reducible apply State.bar2Store_kept | split | simp -zeta only [upd_kept] | with_reducible apply foldl_kept | with_reducible apply foldl2_kept

theorem execBar2Access_kept (off : Nat) (a : HostAcc) {s : State} (hk : s.Kept kq kp) :
    OutKept kq kp (execBar2Access off a s) := by
  delta execBar2Access
  repeat' first | with_reducible assumption | with_reducible apply next_kept | (extract_lets +onlyGivenNames x; clear_value (e : x = _); first | (with_reducible refine let_kept kq kp e ?_ fun _ => ?_) <;> clear e | (with_reducible refine let2_kept kq kp e ?_ fun _ => ?_) <;> clear e | clear e) | (extract_lets +onlyGivenNames x) | with_reducible apply State.bar2Read_kept | with_reducible apply State.bar2Write_kept | split | simp -zeta only [upd_kept]

theorem State.hostReset_kept {s : State} (hk : s.Kept kq kp) :
    (State.hostReset s).Kept kq kp := by
  delta State.hostReset
  repeat' first | with_reducible assumption | (extract_lets +onlyGivenNames x; clear_value (e : x = _); first | (with_reducible refine let_kept kq kp e ?_ fun _ => ?_) <;> clear e | (with_reducible refine let2_kept kq kp e ?_ fun _ => ?_) <;> clear e | clear e) | (extract_lets +onlyGivenNames x) | with_reducible apply State.setReg_kept | with_reducible apply State.setArm_kept | simp -zeta only [upd_kept]

theorem execFunctionLevelReset_kept {s : State} (hk : s.Kept kq kp) :
    OutKept kq kp (execFunctionLevelReset s) := by
  delta execFunctionLevelReset
  repeat' first | with_reducible assumption | (intro) | with_reducible apply next_kept | with_reducible apply State.when_kept | with_reducible apply State.hostReset_kept

theorem execPerstN_kept {s : State} (hk : s.Kept kq kp) :
    OutKept kq kp (execPerstN s) := by
  delta execPerstN
  repeat' first | with_reducible assumption | (intro) | with_reducible apply next_kept | with_reducible apply State.when_kept | with_reducible apply State.hostReset_kept

end Sys2Proof.Machine
end

