-- ==== Sys2Proof/Laws/KeptDmaRun.lean ====
section
/-! SUPPORT. The operations of Machine/DmaRun.lean keep the queue, the part and the canonical form of the sparse stores. -/

namespace Sys2Proof.Machine

set_option linter.unusedTactic false
set_option linter.unreachableTactic false
set_option linter.tactic.unusedName false

variable {kq : List Instr} {kp : Part}

theorem State.dxbRead_kept {s : State} (addr : Nat) (len : Nat) (hk : s.Kept kq kp) :
    (State.dxbRead s addr len).2.Kept kq kp := by
  unfold State.dxbRead
  split
  · exact first_kept (State.aliasRead_kept _ _ hk)
  · exact State.memRead_kept _ _ _ hk

theorem State.dxbWrite_kept {s : State} (addr : Nat) (d : List Byte) (poison : Bool) (hk : s.Kept kq kp) :
    (State.dxbWrite s addr d poison).2.Kept kq kp := by
  delta State.dxbWrite
  repeat' first | with_reducible assumption | with_reducible apply State.aliasWrite_kept | with_reducible apply State.memWrite_kept | split | dsimp -zeta only

theorem State.dmaStop_kept {s : State} (c : Nat) (err : Nat) (cause : Nat) (hk : s.Kept kq kp) :
    (State.dmaStop s c err cause).Kept kq kp := by
  delta State.dmaStop
  repeat' first | with_reducible assumption | (extract_lets +onlyGivenNames x; clear_value (e : x = _); first | (with_reducible refine let_kept kq kp e ?_ fun _ => ?_) <;> clear e | (with_reducible refine let2_kept kq kp e ?_ fun _ => ?_) <;> clear e | clear e) | (extract_lets +onlyGivenNames x) | with_reducible apply State.dmaBack_kept | with_reducible apply State.setCause_kept | with_reducible apply State.dmaTo_kept | split

theorem State.dmaGot_kept {s : State} (c : Nat) (d : List Byte) (hk : s.Kept kq kp) :
    (State.dmaGot s c d).Kept kq kp := by
  delta State.dmaGot
  repeat' first | with_reducible assumption | (intro) | (extract_lets +onlyGivenNames x; clear_value (e : x = _); first | (with_reducible refine let_kept kq kp e ?_ fun _ => ?_) <;> clear e | (with_reducible refine let2_kept kq kp e ?_ fun _ => ?_) <;> clear e | clear e) | (extract_lets +onlyGivenNames x) | with_reducible apply State.setDch_kept | simp -zeta only [upd_kept]

theorem State.dmaStart_kept {s : State} (c : Nat) (d : List Byte) (hk : s.Kept kq kp) :
    (State.dmaStart s c d).Kept kq kp := by
  delta State.dmaStart
  repeat' first | with_reducible assumption | (extract_lets +onlyGivenNames x; clear_value (e : x = _); first | (with_reducible refine let_kept kq kp e ?_ fun _ => ?_) <;> clear e | (with_reducible refine let2_kept kq kp e ?_ fun _ => ?_) <;> clear e | clear e) | (extract_lets +onlyGivenNames x) | with_reducible apply State.dmaGot_kept | with_reducible apply State.wr_kept | with_reducible apply State.dmaTo_kept | with_reducible apply State.dmaStop_kept | split

theorem execDmaDescriptorRead_kept (c : Fin 16) {s : State} (hk : s.Kept kq kp) :
    OutKept kq kp (execDmaDescriptorRead c s) := by
  delta execDmaDescriptorRead
  repeat' first | with_reducible assumption | (intro) | with_reducible apply next_kept | (extract_lets +onlyGivenNames x; clear_value (e : x = _); first | (with_reducible refine let_kept kq kp e ?_ fun _ => ?_) <;> clear e | (with_reducible refine let2_kept kq kp e ?_ fun _ => ?_) <;> clear e | clear e) | (extract_lets +onlyGivenNames x) | with_reducible apply State.when_kept | with_reducible apply State.dxbRead_kept | with_reducible apply State.dmaGot_kept | with_reducible apply State.dmaHalt_kept | with_reducible apply State.dmaStart_kept | with_reducible apply State.dmaPark_kept | split | simp -zeta only [upd_kept]

theorem State.dmaGo_kept {s : State} (p : Nat) (c : Nat) (hk : s.Kept kq kp) :
    (State.dmaGo s p c).Kept kq kp := by
  unfold State.dmaGo
  split
  · exact State.dmaStop_kept _ _ _ hk
  · dsimp only
    refine State.setDch_kept _ _ ?_
    split
    · exact State.wr_kept _ _ (upd_kept.2 hk)
    · exact upd_kept.2 hk

theorem execDmaBurst_kept {s : State} (hk : s.Kept kq kp) :
    OutKept kq kp (execDmaBurst s) := by
  delta execDmaBurst
  repeat' first | with_reducible assumption | (intro) | with_reducible apply next_kept | (extract_lets +onlyGivenNames x; clear_value (e : x = _); first | (with_reducible refine let_kept kq kp e ?_ fun _ => ?_) <;> clear e | (with_reducible refine let2_kept kq kp e ?_ fun _ => ?_) <;> clear e | clear e) | (extract_lets +onlyGivenNames x) | with_reducible apply State.when_kept | with_reducible apply State.dmaGo_kept | split | simp -zeta only [upd_kept]

theorem State.dmaBytes_kept {s : State} (c : Nat) (n : Nat) (hk : s.Kept kq kp) :
    (State.dmaBytes s c n).Kept kq kp := by
  delta State.dmaBytes
  repeat' first | with_reducible assumption | (extract_lets +onlyGivenNames x; clear_value (e : x = _); first | (with_reducible refine let_kept kq kp e ?_ fun _ => ?_) <;> clear e | (with_reducible refine let2_kept kq kp e ?_ fun _ => ?_) <;> clear e | clear e) | (extract_lets +onlyGivenNames x) | with_reducible apply State.wr_kept

theorem State.dmaPoison_kept {s : State} (c : Nat) (p : Bool) (hk : s.Kept kq kp) :
    (State.dmaPoison s c p).Kept kq kp := by
  delta State.dmaPoison
  repeat' first | with_reducible assumption | (intro) | (extract_lets +onlyGivenNames x; clear_value (e : x = _); first | (with_reducible refine let_kept kq kp e ?_ fun _ => ?_) <;> clear e | (with_reducible refine let2_kept kq kp e ?_ fun _ => ?_) <;> clear e | clear e) | (extract_lets +onlyGivenNames x) | with_reducible apply State.setDch_kept | simp -zeta only [upd_kept]

theorem State.dmaPut_kept {s : State} (c : Nat) (a : Nat) (d : List Byte) (poison : Bool) (hk : s.Kept kq kp) :
    (State.dmaPut s c a d poison).2.Kept kq kp := by
  delta State.dmaPut
  repeat' first | with_reducible assumption | (extract_lets +onlyGivenNames x; clear_value (e : x = _); first | (with_reducible refine let_kept kq kp e ?_ fun _ => ?_) <;> clear e | (with_reducible refine let2_kept kq kp e ?_ fun _ => ?_) <;> clear e | clear e) | (extract_lets +onlyGivenNames x) | with_reducible apply State.dxbWrite_kept | with_reducible apply State.dmaHalt_kept | with_reducible apply State.dmaBytes_kept | split | dsimp -zeta only

theorem State.dmaGet_kept {s : State} (c : Nat) (a : Nat) (e : Nat) (hk : s.Kept kq kp) :
    (State.dmaGet s c a e).2.Kept kq kp := by
  delta State.dmaGet
  repeat' first | with_reducible assumption | (extract_lets +onlyGivenNames x; clear_value (e : x = _); first | (with_reducible refine let_kept kq kp e ?_ fun _ => ?_) <;> clear e | (with_reducible refine let2_kept kq kp e ?_ fun _ => ?_) <;> clear e | clear e) | (extract_lets +onlyGivenNames x) | with_reducible apply State.dxbRead_kept | with_reducible apply State.dmaHalt_kept | with_reducible apply State.dmaPoison_kept | split | dsimp -zeta only

theorem State.dmaDiffer_kept {s : State} (a : List Byte) (b : List Byte) (poison : Bool) (e : Nat) (hk : s.Kept kq kp) :
    (State.dmaDiffer s a b poison e).2.Kept kq kp := by
  delta State.dmaDiffer
  repeat' first | with_reducible assumption | (intro) | (extract_lets +onlyGivenNames x; clear_value (e : x = _); first | (with_reducible refine let_kept kq kp e ?_ fun _ => ?_) <;> clear e | (with_reducible refine let2_kept kq kp e ?_ fun _ => ?_) <;> clear e | clear e) | (extract_lets +onlyGivenNames x) | with_reducible apply State.freeNat_kept | split | dsimp -zeta only | simp -zeta only [upd_kept]

theorem State.dmaElement_kept {s : State} (c : Nat) (i0 : Nat) (i1 : Nat) (i2 : Nat) (hk : s.Kept kq kp) :
    (State.dmaElement s c i0 i1 i2).2.Kept kq kp := by
  delta State.dmaElement
  repeat' first | with_reducible assumption | (intro) | (extract_lets +onlyGivenNames x; clear_value (e : x = _); first | (with_reducible refine let_kept kq kp e ?_ fun _ => ?_) <;> clear e | (with_reducible refine let2_kept kq kp e ?_ fun _ => ?_) <;> clear e | clear e) | (extract_lets +onlyGivenNames x) | with_reducible apply State.dmaPut_kept | with_reducible apply State.dmaGet_kept | with_reducible apply State.dmaDiffer_kept | with_reducible apply State.setDch_kept | split | dsimp -zeta only | simp -zeta only [upd_kept]

theorem State.dmaElements_kept {s : State} (c : Nat) (i1 : Nat) (i2 : Nat) (n : Nat) (hk : s.Kept kq kp) :
    (State.dmaElements s c i1 i2 n).2.Kept kq kp := by
  delta State.dmaElements
  repeat' first | with_reducible assumption | (intro) | with_reducible apply State.dmaElement_kept | split | dsimp -zeta only | with_reducible apply foldl_kept | with_reducible apply foldl2_kept

theorem State.dmaFinish_kept {s : State} (c : Nat) (hk : s.Kept kq kp) :
    (State.dmaFinish s c).Kept kq kp := by
  delta State.dmaFinish
  repeat' first | with_reducible assumption | (intro) | (extract_lets +onlyGivenNames x; clear_value (e : x = _); first | (with_reducible refine let_kept kq kp e ?_ fun _ => ?_) <;> clear e | (with_reducible refine let2_kept kq kp e ?_ fun _ => ?_) <;> clear e | clear e) | (extract_lets +onlyGivenNames x) | with_reducible apply State.dmaStop_kept | with_reducible apply State.dmaBack_kept | with_reducible apply State.setDch_kept | with_reducible apply State.setCause_kept | with_reducible apply State.dmaFetch_kept | with_reducible apply State.dmaTo_kept | split | simp -zeta only [upd_kept]

theorem State.dmaBurstEnd_kept {s : State} (c : Nat) (hk : s.Kept kq kp) :
    (State.dmaBurstEnd s c).Kept kq kp := by
  delta State.dmaBurstEnd
  repeat' first | with_reducible assumption | (intro) | (extract_lets +onlyGivenNames x; clear_value (e : x = _); first | (with_reducible refine let_kept kq kp e ?_ fun _ => ?_) <;> clear e | (with_reducible refine let2_kept kq kp e ?_ fun _ => ?_) <;> clear e | clear e) | (extract_lets +onlyGivenNames x) | with_reducible apply State.setDch_kept | with_reducible apply State.dmaFinish_kept | split | simp -zeta only [upd_kept]

theorem State.dxbHeld_kept {s : State} (as : List Nat) (hk : s.Kept kq kp) :
    (State.dxbHeld s as).2.Kept kq kp := by
  delta State.dxbHeld
  repeat' first | with_reducible assumption | (intro) | (extract_lets +onlyGivenNames x; clear_value (e : x = _); first | (with_reducible refine let_kept kq kp e ?_ fun _ => ?_) <;> clear e | (with_reducible refine let2_kept kq kp e ?_ fun _ => ?_) <;> clear e | clear e) | (extract_lets +onlyGivenNames x) | with_reducible apply State.lutReach_kept | dsimp -zeta only | with_reducible apply foldl_kept | with_reducible apply foldl2_kept

theorem execDmaResponse_kept (c : Fin 16) {s : State} (hk : s.Kept kq kp) :
    OutKept kq kp (execDmaResponse c s) := by
  delta execDmaResponse
  repeat' first | with_reducible assumption | (intro) | with_reducible apply next_kept | (extract_lets +onlyGivenNames x; clear_value (e : x = _); first | (with_reducible refine let_kept kq kp e ?_ fun _ => ?_) <;> clear e | (with_reducible refine let2_kept kq kp e ?_ fun _ => ?_) <;> clear e | clear e) | (extract_lets +onlyGivenNames x) | with_reducible apply State.when_kept | with_reducible apply State.dxbHeld_kept | with_reducible apply State.dmaElements_kept | with_reducible apply State.dmaBurstEnd_kept | split | simp -zeta only [upd_kept]

theorem State.dmaLost_kept {s : State} (c : Nat) (i0 : Nat) (j : Nat) (hk : s.Kept kq kp) :
    (State.dmaLost s c i0 j).Kept kq kp := by
  delta State.dmaLost
  repeat' first | with_reducible assumption | (extract_lets +onlyGivenNames x; clear_value (e : x = _); first | (with_reducible refine let_kept kq kp e ?_ fun _ => ?_) <;> clear e | (with_reducible refine let2_kept kq kp e ?_ fun _ => ?_) <;> clear e | clear e) | (extract_lets +onlyGivenNames x) | with_reducible apply State.dmaHalt_kept | with_reducible apply State.freeNat_kept | with_reducible apply State.dmaElement_kept | split

theorem State.dmaBurstLate_kept {s : State} (c : Nat) (hk : s.Kept kq kp) :
    (State.dmaBurstLate s c).Kept kq kp := by
  delta State.dmaBurstLate
  repeat' first | with_reducible assumption | (extract_lets +onlyGivenNames x; clear_value (e : x = _); first | (with_reducible refine let_kept kq kp e ?_ fun _ => ?_) <;> clear e | (with_reducible refine let2_kept kq kp e ?_ fun _ => ?_) <;> clear e | clear e) | (extract_lets +onlyGivenNames x) | with_reducible apply State.freeNat_kept | with_reducible apply State.dmaElements_kept | with_reducible apply State.dmaBurstEnd_kept | with_reducible apply State.dmaHalt_kept | with_reducible apply State.dmaLost_kept | split

theorem execDmaRespTimeout_kept (c : Fin 16) {s : State} (hk : s.Kept kq kp) :
    OutKept kq kp (execDmaRespTimeout c s) := by
  delta execDmaRespTimeout
  repeat' first | with_reducible assumption | (intro) | with_reducible apply next_kept | (extract_lets +onlyGivenNames x; clear_value (e : x = _); first | (with_reducible refine let_kept kq kp e ?_ fun _ => ?_) <;> clear e | (with_reducible refine let2_kept kq kp e ?_ fun _ => ?_) <;> clear e | clear e) | (extract_lets +onlyGivenNames x) | with_reducible apply State.when_kept | with_reducible apply State.freeLine_kept | with_reducible apply State.dmaGot_kept | with_reducible apply State.dmaHalt_kept | with_reducible apply State.dmaBurstLate_kept | split | simp -zeta only [upd_kept]

theorem execDmaDescriptorDone_kept (c : Fin 16) {s : State} (hk : s.Kept kq kp) :
    OutKept kq kp (execDmaDescriptorDone c s) := by
  delta execDmaDescriptorDone
  repeat' first | with_reducible assumption | (intro) | with_reducible apply next_kept | with_reducible apply State.when_kept | with_reducible apply State.dmaFinish_kept

theorem State.bltLines_kept {s : State} (a : Nat) (n : Nat) (hk : s.Kept kq kp) :
    (State.bltLines s a n).2.Kept kq kp := by
  delta State.bltLines
  repeat' first | with_reducible assumption | (intro) | (extract_lets +onlyGivenNames x; clear_value (e : x = _); first | (with_reducible refine let_kept kq kp e ?_ fun _ => ?_) <;> clear e | (with_reducible refine let2_kept kq kp e ?_ fun _ => ?_) <;> clear e | clear e) | (extract_lets +onlyGivenNames x) | with_reducible apply State.dxbRead_kept | split | dsimp -zeta only | with_reducible apply foldl_kept | with_reducible apply foldl2_kept

theorem State.bltPixel_kept {s : State} (a : Nat) (b : Nat) (hk : s.Kept kq kp) :
    (State.bltPixel s a b).2.Kept kq kp := by
  delta State.bltPixel
  repeat' first | with_reducible assumption | (extract_lets +onlyGivenNames x; clear_value (e : x = _); first | (with_reducible refine let_kept kq kp e ?_ fun _ => ?_) <;> clear e | (with_reducible refine let2_kept kq kp e ?_ fun _ => ?_) <;> clear e | clear e) | (extract_lets +onlyGivenNames x) | with_reducible apply State.dxbRead_kept | dsimp -zeta only

theorem State.bltCopySrc_kept {s : State} (d : List Byte) (hk : s.Kept kq kp) :
    (State.bltCopySrc s d).2.Kept kq kp := by
  delta State.bltCopySrc
  repeat' first | with_reducible assumption | (intro) | (extract_lets +onlyGivenNames x; clear_value (e : x = _); first | (with_reducible refine let_kept kq kp e ?_ fun _ => ?_) <;> clear e | (with_reducible refine let2_kept kq kp e ?_ fun _ => ?_) <;> clear e | clear e) | (extract_lets +onlyGivenNames x) | with_reducible apply State.bltPixel_kept | split | dsimp -zeta only | with_reducible apply foldl_kept | with_reducible apply foldl2_kept

theorem State.bltStart_kept {s : State} (d : List Byte) (hk : s.Kept kq kp) :
    (State.bltStart s d).Kept kq kp := by
  delta State.bltStart
  repeat' first | with_reducible assumption | (intro) | (extract_lets +onlyGivenNames x; clear_value (e : x = _); first | (with_reducible refine let_kept kq kp e ?_ fun _ => ?_) <;> clear e | (with_reducible refine let2_kept kq kp e ?_ fun _ => ?_) <;> clear e | clear e) | (extract_lets +onlyGivenNames x) | with_reducible apply State.wr_kept | with_reducible apply State.bltTo_kept | with_reducible apply State.bltLines_kept | with_reducible apply State.setBlt_kept | with_reducible apply State.bltBusErr_kept | with_reducible apply State.bltCopySrc_kept | split | simp -zeta only [upd_kept]

theorem State.bltWait_kept {s : State} (d : List Byte) (hk : s.Kept kq kp) :
    (State.bltWait s d).Kept kq kp := by
  delta State.bltWait
  repeat' first | with_reducible assumption | (intro) | (extract_lets +onlyGivenNames x; clear_value (e : x = _); first | (with_reducible refine let_kept kq kp e ?_ fun _ => ?_) <;> clear e | (with_reducible refine let2_kept kq kp e ?_ fun _ => ?_) <;> clear e | clear e) | (extract_lets +onlyGivenNames x) | with_reducible apply State.bltTo_kept | with_reducible apply State.wr_kept | with_reducible apply State.setBlt_kept | split | simp -zeta only [upd_kept]

theorem State.bltTake_kept {s : State} (d : List Byte) (hk : s.Kept kq kp) :
    (State.bltTake s d).Kept kq kp := by
  delta State.bltTake
  repeat' first | with_reducible assumption | (extract_lets +onlyGivenNames x; clear_value (e : x = _); first | (with_reducible refine let_kept kq kp e ?_ fun _ => ?_) <;> clear e | (with_reducible refine let2_kept kq kp e ?_ fun _ => ?_) <;> clear e | clear e) | (extract_lets +onlyGivenNames x) | with_reducible apply State.bltPark_kept | with_reducible apply State.bltWait_kept | with_reducible apply State.bltStart_kept | with_reducible apply State.bltTo_kept | split

theorem State.bltAnswer_kept {s : State} (a : Nat) (r : List Byte × List Bool × Option Nat) (hk : s.Kept kq kp) :
    (State.bltAnswer s a r).Kept kq kp := by
  delta State.bltAnswer
  repeat' first | with_reducible assumption | (intro) | (extract_lets +onlyGivenNames x; clear_value (e : x = _); first | (with_reducible refine let_kept kq kp e ?_ fun _ => ?_) <;> clear e | (with_reducible refine let2_kept kq kp e ?_ fun _ => ?_) <;> clear e | clear e) | (extract_lets +onlyGivenNames x) | with_reducible apply State.setBlt_kept | with_reducible apply State.bltBusErr_kept | with_reducible apply State.bltTake_kept | split | simp -zeta only [upd_kept]

theorem State.bltFetchLate_kept {s : State} (hk : s.Kept kq kp) :
    (State.bltFetchLate s).Kept kq kp := by
  delta State.bltFetchLate
  repeat' first | with_reducible assumption | (extract_lets +onlyGivenNames x; clear_value (e : x = _); first | (with_reducible refine let_kept kq kp e ?_ fun _ => ?_) <;> clear e | (with_reducible refine let2_kept kq kp e ?_ fun _ => ?_) <;> clear e | clear e) | (extract_lets +onlyGivenNames x) | with_reducible apply State.freeLine_kept | with_reducible apply State.bltAnswer_kept

theorem execBltCommandRead_kept {s : State} (hk : s.Kept kq kp) :
    OutKept kq kp (execBltCommandRead s) := by
  delta execBltCommandRead
  repeat' first | with_reducible assumption | (intro) | with_reducible apply next_kept | (extract_lets +onlyGivenNames x; clear_value (e : x = _); first | (with_reducible refine let_kept kq kp e ?_ fun _ => ?_) <;> clear e | (with_reducible refine let2_kept kq kp e ?_ fun _ => ?_) <;> clear e | clear e) | (extract_lets +onlyGivenNames x) | with_reducible apply State.when_kept | with_reducible apply State.bltFetchLate_kept | with_reducible apply State.bltLines_kept | with_reducible apply State.bltAnswer_kept | split | simp -zeta only [upd_kept]

theorem State.bltPat_kept {s : State} (d : List Byte) (x : Nat) (y : Nat) (hk : s.Kept kq kp) :
    (State.bltPat s d x y).2.Kept kq kp := by
  delta State.bltPat
  repeat' first | with_reducible assumption | (intro) | (extract_lets +onlyGivenNames x; clear_value (e : x = _); first | (with_reducible refine let_kept kq kp e ?_ fun _ => ?_) <;> clear e | (with_reducible refine let2_kept kq kp e ?_ fun _ => ?_) <;> clear e | clear e) | (extract_lets +onlyGivenNames x) | with_reducible apply State.freeNat_kept | split | with_reducible apply getD_kept | dsimp -zeta only | simp -zeta only [upd_kept]

theorem State.bltPut_kept {s : State} (d : List Byte) (x : Nat) (y : Nat) (v : Nat) (poison : Bool) (hk : s.Kept kq kp) :
    (State.bltPut s d x y v poison).2.Kept kq kp := by
  delta State.bltPut
  repeat' first | with_reducible assumption | (intro) | (extract_lets +onlyGivenNames x; clear_value (e : x = _); first | (with_reducible refine let_kept kq kp e ?_ fun _ => ?_) <;> clear e | (with_reducible refine let2_kept kq kp e ?_ fun _ => ?_) <;> clear e | clear e) | (extract_lets +onlyGivenNames x) | with_reducible apply State.dxbWrite_kept | with_reducible apply State.setBlt_kept | split | dsimp -zeta only | simp -zeta only [upd_kept]

theorem State.bltS_kept {s : State} (d : List Byte) (x : Nat) (y : Nat) (hk : s.Kept kq kp) :
    (State.bltS s d x y).2.Kept kq kp := by
  delta State.bltS
  repeat' first | with_reducible assumption | (extract_lets +onlyGivenNames x; clear_value (e : x = _); first | (with_reducible refine let_kept kq kp e ?_ fun _ => ?_) <;> clear e | (with_reducible refine let2_kept kq kp e ?_ fun _ => ?_) <;> clear e | clear e) | (extract_lets +onlyGivenNames x) | with_reducible apply State.bltPixel_kept | split | with_reducible apply getD_kept | dsimp -zeta only

theorem State.bltRopPixel_kept {s : State} (d : List Byte) (x : Nat) (y : Nat) (hk : s.Kept kq kp) :
    (State.bltRopPixel s d x y).2.Kept kq kp := by
  delta State.bltRopPixel
  repeat' first | with_reducible assumption | (extract_lets +onlyGivenNames x; clear_value (e : x = _); first | (with_reducible refine let_kept kq kp e ?_ fun _ => ?_) <;> clear e | (with_reducible refine let2_kept kq kp e ?_ fun _ => ?_) <;> clear e | clear e) | (extract_lets +onlyGivenNames x) | with_reducible apply State.bltS_kept | with_reducible apply State.bltPixel_kept | with_reducible apply State.bltPat_kept | with_reducible apply State.bltPut_kept | split | dsimp -zeta only | simp -zeta only [upd_kept]

theorem State.bltReduce_kept {s : State} (d : List Byte) (x : Nat) (y : Nat) (hk : s.Kept kq kp) :
    (State.bltReduce s d x y).2.Kept kq kp := by
  delta State.bltReduce
  repeat' first | with_reducible assumption | (intro) | (extract_lets +onlyGivenNames x; clear_value (e : x = _); first | (with_reducible refine let_kept kq kp e ?_ fun _ => ?_) <;> clear e | (with_reducible refine let2_kept kq kp e ?_ fun _ => ?_) <;> clear e | clear e) | (extract_lets +onlyGivenNames x) | with_reducible apply State.bltPixel_kept | with_reducible apply State.bltPut_kept | split | dsimp -zeta only | simp -zeta only [upd_kept] | with_reducible apply foldl_kept | with_reducible apply foldl2_kept

theorem State.bltRow_kept {s : State} (d : List Byte) (k : Nat) (n : Nat) (hk : s.Kept kq kp) :
    (State.bltRow s d k n).2.Kept kq kp := by
  delta State.bltRow
  repeat' first | with_reducible assumption | (intro) | (extract_lets +onlyGivenNames x; clear_value (e : x = _); first | (with_reducible refine let_kept kq kp e ?_ fun _ => ?_) <;> clear e | (with_reducible refine let2_kept kq kp e ?_ fun _ => ?_) <;> clear e | clear e) | (extract_lets +onlyGivenNames x) | with_reducible apply State.bltReduce_kept | with_reducible apply State.bltRopPixel_kept | split | dsimp -zeta only | with_reducible apply foldl_kept | with_reducible apply foldl2_kept

theorem State.bltRowLate_kept {s : State} (hk : s.Kept kq kp) :
    (State.bltRowLate s).Kept kq kp := by
  delta State.bltRowLate
  repeat' first | with_reducible assumption | (extract_lets +onlyGivenNames x; clear_value (e : x = _); first | (with_reducible refine let_kept kq kp e ?_ fun _ => ?_) <;> clear e | (with_reducible refine let2_kept kq kp e ?_ fun _ => ?_) <;> clear e | clear e) | (extract_lets +onlyGivenNames x) | with_reducible apply State.freeNat_kept | with_reducible apply State.bltRow_kept | with_reducible apply State.bltBusErr_kept | split | with_reducible apply getD_kept

theorem State.bltLate_kept {s : State} (hk : s.Kept kq kp) :
    (State.bltLate s).Kept kq kp := by
  delta State.bltLate
  repeat' first | with_reducible assumption | (intro) | (extract_lets +onlyGivenNames x; clear_value (e : x = _); first | (with_reducible refine let_kept kq kp e ?_ fun _ => ?_) <;> clear e | (with_reducible refine let2_kept kq kp e ?_ fun _ => ?_) <;> clear e | clear e) | (extract_lets +onlyGivenNames x) | with_reducible apply State.when_kept | with_reducible apply State.bltFetchLate_kept | with_reducible apply State.bltRowLate_kept | split | simp -zeta only [upd_kept]

theorem execBltRowDone_kept {s : State} (hk : s.Kept kq kp) :
    OutKept kq kp (execBltRowDone s) := by
  delta execBltRowDone
  repeat' first | with_reducible assumption | (intro) | with_reducible apply next_kept | (extract_lets +onlyGivenNames x; clear_value (e : x = _); first | (with_reducible refine let_kept kq kp e ?_ fun _ => ?_) <;> clear e | (with_reducible refine let2_kept kq kp e ?_ fun _ => ?_) <;> clear e | clear e) | (extract_lets +onlyGivenNames x) | with_reducible apply State.when_kept | with_reducible apply State.dxbHeld_kept | with_reducible apply State.bltRowLate_kept | with_reducible apply State.bltRow_kept | with_reducible apply State.bltBusErr_kept | with_reducible apply State.bltRowCount_kept | with_reducible apply State.bltTo_kept | split | simp -zeta only [upd_kept]

theorem State.idle_kept {s : State} (hk : s.Kept kq kp) :
    (State.idle s).Kept kq kp := by
  delta State.idle
  repeat' first | with_reducible assumption | with_reducible apply State.tick_kept | with_reducible apply State.bltLate_kept

end Sys2Proof.Machine
end

