-- ==== Sys2Proof/Laws/KeptNet.lean ====
section
/-! SUPPORT. The operations of Machine/Net.lean keep the queue, the part and the canonical form of the sparse stores. -/

namespace Sys2Proof.Machine

set_option linter.unusedTactic false
set_option linter.unreachableTactic false
set_option linter.tactic.unusedName false

variable {kq : List Instr} {kp : Part}

theorem State.arpPacket_kept {s : State} (p : Nat) (f : List Byte) (o : Nat) (hk : s.Kept kq kp) :
    (State.arpPacket s p f o).Kept kq kp := by
  delta State.arpPacket
  repeat' first | with_reducible assumption | (extract_lets +onlyGivenNames x; clear_value (e : x = _); first | (with_reducible refine let_kept kq kp e ?_ fun _ => ?_) <;> clear e | (with_reducible refine let2_kept kq kp e ?_ fun _ => ?_) <;> clear e | clear e) | (extract_lets +onlyGivenNames x) | with_reducible apply State.emit_kept | split

theorem State.icmpPacket_kept {s : State} (p : Nat) (f : List Byte) (o : Nat) (hk : s.Kept kq kp) :
    (State.icmpPacket s p f o).Kept kq kp := by
  delta State.icmpPacket
  repeat' first | with_reducible assumption | (intro) | (extract_lets +onlyGivenNames x; clear_value (e : x = _); first | (with_reducible refine let_kept kq kp e ?_ fun _ => ?_) <;> clear e | (with_reducible refine let2_kept kq kp e ?_ fun _ => ?_) <;> clear e | clear e) | (extract_lets +onlyGivenNames x) | with_reducible apply State.emit_kept | split

theorem State.igmpPacket_kept {s : State} (p : Nat) (ip : Ip) (hk : s.Kept kq kp) :
    (State.igmpPacket s p ip).Kept kq kp := by
  delta State.igmpPacket
  repeat' first | with_reducible assumption | (intro) | (extract_lets +onlyGivenNames x; clear_value (e : x = _); first | (with_reducible refine let_kept kq kp e ?_ fun _ => ?_) <;> clear e | (with_reducible refine let2_kept kq kp e ?_ fun _ => ?_) <;> clear e | clear e) | (extract_lets +onlyGivenNames x) | with_reducible apply State.igmpReport_kept | split | with_reducible apply foldl_kept | with_reducible apply foldl2_kept

theorem State.ptpAnnounce_kept {s : State} (p : Nat) (m : List Byte) (hk : s.Kept kq kp) :
    (State.ptpAnnounce s p m).Kept kq kp := by
  delta State.ptpAnnounce
  repeat' first | with_reducible assumption | (intro) | (extract_lets +onlyGivenNames x; clear_value (e : x = _); first | (with_reducible refine let_kept kq kp e ?_ fun _ => ?_) <;> clear e | (with_reducible refine let2_kept kq kp e ?_ fun _ => ?_) <;> clear e | clear e) | (extract_lets +onlyGivenNames x) | with_reducible apply State.setPtp_kept | with_reducible apply State.ptpElect_kept | simp -zeta only [upd_kept]

theorem State.ptpRequest_kept {s : State} (p : Nat) (f : List Byte) (ip : Ip) (hk : s.Kept kq kp) :
    (State.ptpRequest s p f ip).Kept kq kp := by
  delta State.ptpRequest
  repeat' first | with_reducible assumption | (intro) | (extract_lets +onlyGivenNames x; clear_value (e : x = _); first | (with_reducible refine let_kept kq kp e ?_ fun _ => ?_) <;> clear e | (with_reducible refine let2_kept kq kp e ?_ fun _ => ?_) <;> clear e | clear e) | (extract_lets +onlyGivenNames x) | with_reducible apply State.emit_kept | with_reducible apply State.setPtp_kept | split | simp -zeta only [upd_kept]

theorem State.ptpExchange_kept {s : State} (off : Int) (delay : Int) (hk : s.Kept kq kp) :
    (State.ptpExchange s off delay).Kept kq kp := by
  delta State.ptpExchange
  repeat' first | with_reducible assumption | (intro) | (extract_lets +onlyGivenNames x; clear_value (e : x = _); first | (with_reducible refine let_kept kq kp e ?_ fun _ => ?_) <;> clear e | (with_reducible refine let2_kept kq kp e ?_ fun _ => ?_) <;> clear e | clear e) | (extract_lets +onlyGivenNames x) | with_reducible apply State.wr_kept | with_reducible apply State.setPtp_kept | with_reducible apply State.ptpState_kept | with_reducible apply State.offerOffset_kept | split | simp -zeta only [upd_kept]

theorem State.ptpPacket_kept {s : State} (p : Nat) (f : List Byte) (ip : Ip) (at_ : Nat) (hk : s.Kept kq kp) :
    (State.ptpPacket s p f ip at_).Kept kq kp := by
  delta State.ptpPacket
  repeat' first | with_reducible assumption | (intro) | (extract_lets +onlyGivenNames x; clear_value (e : x = _); first | (with_reducible refine let_kept kq kp e ?_ fun _ => ?_) <;> clear e | (with_reducible refine let2_kept kq kp e ?_ fun _ => ?_) <;> clear e | clear e) | (extract_lets +onlyGivenNames x) | with_reducible apply State.ptpAnnounce_kept | with_reducible apply State.setPtp_kept | with_reducible apply State.ptpRequest_kept | with_reducible apply State.syncSeq_kept | with_reducible apply State.ptpExchange_kept | split | simp -zeta only [upd_kept]

theorem State.ptpTimeout_kept {s : State} (hk : s.Kept kq kp) :
    (State.ptpTimeout s).Kept kq kp := by
  delta State.ptpTimeout
  repeat' first | with_reducible assumption | (intro) | (extract_lets +onlyGivenNames x; clear_value (e : x = _); first | (with_reducible refine let_kept kq kp e ?_ fun _ => ?_) <;> clear e | (with_reducible refine let2_kept kq kp e ?_ fun _ => ?_) <;> clear e | clear e) | (extract_lets +onlyGivenNames x) | with_reducible apply State.setPtp_kept | with_reducible apply State.ptpElect_kept | with_reducible apply State.ptpState_kept | split | simp -zeta only [upd_kept]

theorem execFirmwareNetPacket_kept (p : Fin 4) {s : State} (hk : s.Kept kq kp) :
    OutKept kq kp (execFirmwareNetPacket p s) := by
  delta execFirmwareNetPacket
  repeat' first | with_reducible assumption | with_reducible apply next_kept | (extract_lets +onlyGivenNames x; clear_value (e : x = _); first | (with_reducible refine let_kept kq kp e ?_ fun _ => ?_) <;> clear e | (with_reducible refine let2_kept kq kp e ?_ fun _ => ?_) <;> clear e | clear e) | (extract_lets +onlyGivenNames x) | with_reducible apply State.arpPacket_kept | with_reducible apply State.icmpPacket_kept | with_reducible apply State.igmpPacket_kept | with_reducible apply State.ptpTimeout_kept | with_reducible apply State.ptpPacket_kept | split | simp -zeta only [upd_kept]

theorem execPtpSyncTimeout_kept {s : State} (hk : s.Kept kq kp) :
    OutKept kq kp (execPtpSyncTimeout s) := by
  delta execPtpSyncTimeout
  repeat' first | with_reducible assumption | (intro) | with_reducible apply next_kept | with_reducible apply State.when_kept | with_reducible apply State.ptpTimeout_kept

end Sys2Proof.Machine
end

