-- ==== Sys2Proof/Laws/State.lean ====
section
/-! SUPPORT. One lemma per field and named update of the machine: what the update leaves alone, so that no proof unfolds it. -/

namespace Sys2Proof.Machine

variable (s : State)

/-! ### What leaves `pending` alone -/

@[simp] theorem State.setDsm_pending (f : Densum → Densum) : (s.setDsm f).pending = s.pending := rfl
@[simp] theorem State.setReg_pending (off : Nat) (w : Word) : (s.setReg off w).pending = s.pending := rfl
@[simp] theorem State.setHd_pending (h : Nat) (f : HeadState → HeadState) : (s.setHd h f).pending = s.pending := rfl
@[simp] theorem State.setDdr_pending (f : Ddr → Ddr) : (s.setDdr f).pending = s.pending := rfl
@[simp] theorem State.wr_pending (f : Fld) (v : Nat) : (s.wr f v).pending = s.pending := rfl
@[simp] theorem State.setLay_pending (l : Nat) (f : LayerState → LayerState) : (s.setLay l f).pending = s.pending := rfl
@[simp] theorem State.setBlt_pending (f : Blt → Blt) : (s.setBlt f).pending = s.pending := rfl
@[simp] theorem State.count_pending (f : Fld) (n : Nat) : (s.count f n).pending = s.pending := rfl
@[simp] theorem State.setStrm_pending (k : Nat) (f : Stream → Stream) : (s.setStrm k f).pending = s.pending := rfl
@[simp] theorem State.setDup_pending (f : Duplex → Duplex) : (s.setDup f).pending = s.pending := rfl
@[simp] theorem State.setArm_pending (r : Requester) (b : Bool) : (s.setArm r b).pending = s.pending := rfl
@[simp] theorem State.setSp_pending (p : Nat) (f : SheetPort → SheetPort) : (s.setSp p f).pending = s.pending := rfl
@[simp] theorem State.setRing_pending (f : Ring → Ring) : (s.setRing f).pending = s.pending := rfl
@[simp] theorem State.setLive_pending (off : Nat) (w : Word) : (s.setLive off w).pending = s.pending := rfl
@[simp] theorem State.setChan_pending (c : Nat) (f : DdrChan → DdrChan) : (s.setChan c f).pending = s.pending := rfl
@[simp] theorem State.setClocks_pending (f : Clocks → Clocks) : (s.setClocks f).pending = s.pending := rfl
@[simp] theorem State.setByte_pending (a : Nat) (v : Byte) : (s.setByte a v).pending = s.pending := rfl
@[simp] theorem State.setDch_pending (c : Nat) (f : DmaChan → DmaChan) : (s.setDch c f).pending = s.pending := rfl
@[simp] theorem State.setNv_pending (f : Nv → Nv) : (s.setNv f).pending = s.pending := rfl
@[simp] theorem State.setLinePoison_pending (a : Nat) (p : Bool) : (s.setLinePoison a p).pending = s.pending := rfl
@[simp] theorem State.setRport_pending (p : Nat) (f : RingPort → RingPort) : (s.setRport p f).pending = s.pending := rfl
@[simp] theorem State.setPwr_pending (f : Power → Power) : (s.setPwr f).pending = s.pending := rfl
@[simp] theorem State.setMsix_pending (v : Fin 64) (e : MsixEntry) : (s.setMsix v e).pending = s.pending := rfl
@[simp] theorem State.setPll_pending (n : Nat) (f : Pll → Pll) : (s.setPll n f).pending = s.pending := rfl
@[simp] theorem State.setShroud_pending (f : Shroud → Shroud) : (s.setShroud f).pending = s.pending := rfl
@[simp] theorem State.emit_pending (o : Output) : (s.emit o).pending = s.pending := rfl

/-! ### What leaves `part` alone -/

@[simp] theorem State.setDsm_part (f : Densum → Densum) : (s.setDsm f).part = s.part := rfl
@[simp] theorem State.setReg_part (off : Nat) (w : Word) : (s.setReg off w).part = s.part := rfl
@[simp] theorem State.setHd_part (h : Nat) (f : HeadState → HeadState) : (s.setHd h f).part = s.part := rfl
@[simp] theorem State.setDdr_part (f : Ddr → Ddr) : (s.setDdr f).part = s.part := rfl
@[simp] theorem State.wr_part (f : Fld) (v : Nat) : (s.wr f v).part = s.part := rfl
@[simp] theorem State.setLay_part (l : Nat) (f : LayerState → LayerState) : (s.setLay l f).part = s.part := rfl
@[simp] theorem State.setBlt_part (f : Blt → Blt) : (s.setBlt f).part = s.part := rfl
@[simp] theorem State.count_part (f : Fld) (n : Nat) : (s.count f n).part = s.part := rfl
@[simp] theorem State.setStrm_part (k : Nat) (f : Stream → Stream) : (s.setStrm k f).part = s.part := rfl
@[simp] theorem State.setDup_part (f : Duplex → Duplex) : (s.setDup f).part = s.part := rfl
@[simp] theorem State.setArm_part (r : Requester) (b : Bool) : (s.setArm r b).part = s.part := rfl
@[simp] theorem State.setSp_part (p : Nat) (f : SheetPort → SheetPort) : (s.setSp p f).part = s.part := rfl
@[simp] theorem State.setRing_part (f : Ring → Ring) : (s.setRing f).part = s.part := rfl
@[simp] theorem State.setLive_part (off : Nat) (w : Word) : (s.setLive off w).part = s.part := rfl
@[simp] theorem State.setChan_part (c : Nat) (f : DdrChan → DdrChan) : (s.setChan c f).part = s.part := rfl
@[simp] theorem State.setClocks_part (f : Clocks → Clocks) : (s.setClocks f).part = s.part := rfl
@[simp] theorem State.setByte_part (a : Nat) (v : Byte) : (s.setByte a v).part = s.part := rfl
@[simp] theorem State.setDch_part (c : Nat) (f : DmaChan → DmaChan) : (s.setDch c f).part = s.part := rfl
@[simp] theorem State.setNv_part (f : Nv → Nv) : (s.setNv f).part = s.part := rfl
@[simp] theorem State.setLinePoison_part (a : Nat) (p : Bool) : (s.setLinePoison a p).part = s.part := rfl
@[simp] theorem State.setRport_part (p : Nat) (f : RingPort → RingPort) : (s.setRport p f).part = s.part := rfl
@[simp] theorem State.setPwr_part (f : Power → Power) : (s.setPwr f).part = s.part := rfl
@[simp] theorem State.setMsix_part (v : Fin 64) (e : MsixEntry) : (s.setMsix v e).part = s.part := rfl
@[simp] theorem State.setPll_part (n : Nat) (f : Pll → Pll) : (s.setPll n f).part = s.part := rfl
@[simp] theorem State.setShroud_part (f : Shroud → Shroud) : (s.setShroud f).part = s.part := rfl
@[simp] theorem State.emit_part (o : Output) : (s.emit o).part = s.part := rfl

/-! ### What leaves `fuses` alone -/

@[simp] theorem State.setDsm_fuses (f : Densum → Densum) : (s.setDsm f).fuses = s.fuses := rfl
@[simp] theorem State.setReg_fuses (off : Nat) (w : Word) : (s.setReg off w).fuses = s.fuses := rfl
@[simp] theorem State.setHd_fuses (h : Nat) (f : HeadState → HeadState) : (s.setHd h f).fuses = s.fuses := rfl
@[simp] theorem State.setDdr_fuses (f : Ddr → Ddr) : (s.setDdr f).fuses = s.fuses := rfl
@[simp] theorem State.wr_fuses (f : Fld) (v : Nat) : (s.wr f v).fuses = s.fuses := rfl
@[simp] theorem State.setLay_fuses (l : Nat) (f : LayerState → LayerState) : (s.setLay l f).fuses = s.fuses := rfl
@[simp] theorem State.setBlt_fuses (f : Blt → Blt) : (s.setBlt f).fuses = s.fuses := rfl
@[simp] theorem State.count_fuses (f : Fld) (n : Nat) : (s.count f n).fuses = s.fuses := rfl
@[simp] theorem State.setStrm_fuses (k : Nat) (f : Stream → Stream) : (s.setStrm k f).fuses = s.fuses := rfl
@[simp] theorem State.setDup_fuses (f : Duplex → Duplex) : (s.setDup f).fuses = s.fuses := rfl
@[simp] theorem State.setArm_fuses (r : Requester) (b : Bool) : (s.setArm r b).fuses = s.fuses := rfl
@[simp] theorem State.setSp_fuses (p : Nat) (f : SheetPort → SheetPort) : (s.setSp p f).fuses = s.fuses := rfl
@[simp] theorem State.setRing_fuses (f : Ring → Ring) : (s.setRing f).fuses = s.fuses := rfl
@[simp] theorem State.setLive_fuses (off : Nat) (w : Word) : (s.setLive off w).fuses = s.fuses := rfl
@[simp] theorem State.setChan_fuses (c : Nat) (f : DdrChan → DdrChan) : (s.setChan c f).fuses = s.fuses := rfl
@[simp] theorem State.setClocks_fuses (f : Clocks → Clocks) : (s.setClocks f).fuses = s.fuses := rfl
@[simp] theorem State.setByte_fuses (a : Nat) (v : Byte) : (s.setByte a v).fuses = s.fuses := rfl
@[simp] theorem State.setDch_fuses (c : Nat) (f : DmaChan → DmaChan) : (s.setDch c f).fuses = s.fuses := rfl
@[simp] theorem State.setNv_fuses (f : Nv → Nv) : (s.setNv f).fuses = s.fuses := rfl
@[simp] theorem State.setLinePoison_fuses (a : Nat) (p : Bool) : (s.setLinePoison a p).fuses = s.fuses := rfl
@[simp] theorem State.setRport_fuses (p : Nat) (f : RingPort → RingPort) : (s.setRport p f).fuses = s.fuses := rfl
@[simp] theorem State.setPwr_fuses (f : Power → Power) : (s.setPwr f).fuses = s.fuses := rfl
@[simp] theorem State.setMsix_fuses (v : Fin 64) (e : MsixEntry) : (s.setMsix v e).fuses = s.fuses := rfl
@[simp] theorem State.setPll_fuses (n : Nat) (f : Pll → Pll) : (s.setPll n f).fuses = s.fuses := rfl
@[simp] theorem State.setShroud_fuses (f : Shroud → Shroud) : (s.setShroud f).fuses = s.fuses := rfl
@[simp] theorem State.emit_fuses (o : Output) : (s.emit o).fuses = s.fuses := rfl

/-! ### What leaves `now` alone -/

@[simp] theorem State.setDsm_now (f : Densum → Densum) : (s.setDsm f).now = s.now := rfl
@[simp] theorem State.setReg_now (off : Nat) (w : Word) : (s.setReg off w).now = s.now := rfl
@[simp] theorem State.setHd_now (h : Nat) (f : HeadState → HeadState) : (s.setHd h f).now = s.now := rfl
@[simp] theorem State.setDdr_now (f : Ddr → Ddr) : (s.setDdr f).now = s.now := rfl
@[simp] theorem State.wr_now (f : Fld) (v : Nat) : (s.wr f v).now = s.now := rfl
@[simp] theorem State.setLay_now (l : Nat) (f : LayerState → LayerState) : (s.setLay l f).now = s.now := rfl
@[simp] theorem State.setBlt_now (f : Blt → Blt) : (s.setBlt f).now = s.now := rfl
@[simp] theorem State.count_now (f : Fld) (n : Nat) : (s.count f n).now = s.now := rfl
@[simp] theorem State.setStrm_now (k : Nat) (f : Stream → Stream) : (s.setStrm k f).now = s.now := rfl
@[simp] theorem State.setDup_now (f : Duplex → Duplex) : (s.setDup f).now = s.now := rfl
@[simp] theorem State.setArm_now (r : Requester) (b : Bool) : (s.setArm r b).now = s.now := rfl
@[simp] theorem State.setSp_now (p : Nat) (f : SheetPort → SheetPort) : (s.setSp p f).now = s.now := rfl
@[simp] theorem State.setRing_now (f : Ring → Ring) : (s.setRing f).now = s.now := rfl
@[simp] theorem State.setLive_now (off : Nat) (w : Word) : (s.setLive off w).now = s.now := rfl
@[simp] theorem State.setChan_now (c : Nat) (f : DdrChan → DdrChan) : (s.setChan c f).now = s.now := rfl
@[simp] theorem State.setClocks_now (f : Clocks → Clocks) : (s.setClocks f).now = s.now := rfl
@[simp] theorem State.setByte_now (a : Nat) (v : Byte) : (s.setByte a v).now = s.now := rfl
@[simp] theorem State.setDch_now (c : Nat) (f : DmaChan → DmaChan) : (s.setDch c f).now = s.now := rfl
@[simp] theorem State.setNv_now (f : Nv → Nv) : (s.setNv f).now = s.now := rfl
@[simp] theorem State.setLinePoison_now (a : Nat) (p : Bool) : (s.setLinePoison a p).now = s.now := rfl
@[simp] theorem State.setRport_now (p : Nat) (f : RingPort → RingPort) : (s.setRport p f).now = s.now := rfl
@[simp] theorem State.setPwr_now (f : Power → Power) : (s.setPwr f).now = s.now := rfl
@[simp] theorem State.setMsix_now (v : Fin 64) (e : MsixEntry) : (s.setMsix v e).now = s.now := rfl
@[simp] theorem State.setPll_now (n : Nat) (f : Pll → Pll) : (s.setPll n f).now = s.now := rfl
@[simp] theorem State.setShroud_now (f : Shroud → Shroud) : (s.setShroud f).now = s.now := rfl
@[simp] theorem State.emit_now (o : Output) : (s.emit o).now = s.now := rfl

/-! ### What leaves `freeCtr` alone -/

@[simp] theorem State.setDsm_freeCtr (f : Densum → Densum) : (s.setDsm f).freeCtr = s.freeCtr := rfl
@[simp] theorem State.setReg_freeCtr (off : Nat) (w : Word) : (s.setReg off w).freeCtr = s.freeCtr := rfl
@[simp] theorem State.setHd_freeCtr (h : Nat) (f : HeadState → HeadState) : (s.setHd h f).freeCtr = s.freeCtr := rfl
@[simp] theorem State.setDdr_freeCtr (f : Ddr → Ddr) : (s.setDdr f).freeCtr = s.freeCtr := rfl
@[simp] theorem State.wr_freeCtr (f : Fld) (v : Nat) : (s.wr f v).freeCtr = s.freeCtr := rfl
@[simp] theorem State.setLay_freeCtr (l : Nat) (f : LayerState → LayerState) : (s.setLay l f).freeCtr = s.freeCtr := rfl
@[simp] theorem State.setBlt_freeCtr (f : Blt → Blt) : (s.setBlt f).freeCtr = s.freeCtr := rfl
@[simp] theorem State.count_freeCtr (f : Fld) (n : Nat) : (s.count f n).freeCtr = s.freeCtr := rfl
@[simp] theorem State.setStrm_freeCtr (k : Nat) (f : Stream → Stream) : (s.setStrm k f).freeCtr = s.freeCtr := rfl
@[simp] theorem State.setDup_freeCtr (f : Duplex → Duplex) : (s.setDup f).freeCtr = s.freeCtr := rfl
@[simp] theorem State.setArm_freeCtr (r : Requester) (b : Bool) : (s.setArm r b).freeCtr = s.freeCtr := rfl
@[simp] theorem State.setSp_freeCtr (p : Nat) (f : SheetPort → SheetPort) : (s.setSp p f).freeCtr = s.freeCtr := rfl
@[simp] theorem State.setRing_freeCtr (f : Ring → Ring) : (s.setRing f).freeCtr = s.freeCtr := rfl
@[simp] theorem State.setLive_freeCtr (off : Nat) (w : Word) : (s.setLive off w).freeCtr = s.freeCtr := rfl
@[simp] theorem State.setChan_freeCtr (c : Nat) (f : DdrChan → DdrChan) : (s.setChan c f).freeCtr = s.freeCtr := rfl
@[simp] theorem State.setClocks_freeCtr (f : Clocks → Clocks) : (s.setClocks f).freeCtr = s.freeCtr := rfl
@[simp] theorem State.setByte_freeCtr (a : Nat) (v : Byte) : (s.setByte a v).freeCtr = s.freeCtr := rfl
@[simp] theorem State.setDch_freeCtr (c : Nat) (f : DmaChan → DmaChan) : (s.setDch c f).freeCtr = s.freeCtr := rfl
@[simp] theorem State.setNv_freeCtr (f : Nv → Nv) : (s.setNv f).freeCtr = s.freeCtr := rfl
@[simp] theorem State.setLinePoison_freeCtr (a : Nat) (p : Bool) : (s.setLinePoison a p).freeCtr = s.freeCtr := rfl
@[simp] theorem State.setRport_freeCtr (p : Nat) (f : RingPort → RingPort) : (s.setRport p f).freeCtr = s.freeCtr := rfl
@[simp] theorem State.setPwr_freeCtr (f : Power → Power) : (s.setPwr f).freeCtr = s.freeCtr := rfl
@[simp] theorem State.setMsix_freeCtr (v : Fin 64) (e : MsixEntry) : (s.setMsix v e).freeCtr = s.freeCtr := rfl
@[simp] theorem State.setPll_freeCtr (n : Nat) (f : Pll → Pll) : (s.setPll n f).freeCtr = s.freeCtr := rfl
@[simp] theorem State.setShroud_freeCtr (f : Shroud → Shroud) : (s.setShroud f).freeCtr = s.freeCtr := rfl
@[simp] theorem State.emit_freeCtr (o : Output) : (s.emit o).freeCtr = s.freeCtr := rfl

/-! ### What leaves `regs` alone -/

@[simp] theorem State.setDsm_regs (f : Densum → Densum) : (s.setDsm f).regs = s.regs := rfl
@[simp] theorem State.setHd_regs (h : Nat) (f : HeadState → HeadState) : (s.setHd h f).regs = s.regs := rfl
@[simp] theorem State.setDdr_regs (f : Ddr → Ddr) : (s.setDdr f).regs = s.regs := rfl
@[simp] theorem State.setLay_regs (l : Nat) (f : LayerState → LayerState) : (s.setLay l f).regs = s.regs := rfl
@[simp] theorem State.setBlt_regs (f : Blt → Blt) : (s.setBlt f).regs = s.regs := rfl
@[simp] theorem State.setStrm_regs (k : Nat) (f : Stream → Stream) : (s.setStrm k f).regs = s.regs := rfl
@[simp] theorem State.setDup_regs (f : Duplex → Duplex) : (s.setDup f).regs = s.regs := rfl
@[simp] theorem State.setSp_regs (p : Nat) (f : SheetPort → SheetPort) : (s.setSp p f).regs = s.regs := rfl
@[simp] theorem State.setRing_regs (f : Ring → Ring) : (s.setRing f).regs = s.regs := rfl
@[simp] theorem State.setLive_regs (off : Nat) (w : Word) : (s.setLive off w).regs = s.regs := rfl
@[simp] theorem State.setChan_regs (c : Nat) (f : DdrChan → DdrChan) : (s.setChan c f).regs = s.regs := rfl
@[simp] theorem State.setClocks_regs (f : Clocks → Clocks) : (s.setClocks f).regs = s.regs := rfl
@[simp] theorem State.setByte_regs (a : Nat) (v : Byte) : (s.setByte a v).regs = s.regs := rfl
@[simp] theorem State.setDch_regs (c : Nat) (f : DmaChan → DmaChan) : (s.setDch c f).regs = s.regs := rfl
@[simp] theorem State.setNv_regs (f : Nv → Nv) : (s.setNv f).regs = s.regs := rfl
@[simp] theorem State.setLinePoison_regs (a : Nat) (p : Bool) : (s.setLinePoison a p).regs = s.regs := rfl
@[simp] theorem State.setRport_regs (p : Nat) (f : RingPort → RingPort) : (s.setRport p f).regs = s.regs := rfl
@[simp] theorem State.setPwr_regs (f : Power → Power) : (s.setPwr f).regs = s.regs := rfl
@[simp] theorem State.setMsix_regs (v : Fin 64) (e : MsixEntry) : (s.setMsix v e).regs = s.regs := rfl
@[simp] theorem State.setPll_regs (n : Nat) (f : Pll → Pll) : (s.setPll n f).regs = s.regs := rfl
@[simp] theorem State.setShroud_regs (f : Shroud → Shroud) : (s.setShroud f).regs = s.regs := rfl
@[simp] theorem State.emit_regs (o : Output) : (s.emit o).regs = s.regs := rfl

/-! ### What leaves `live` alone -/

@[simp] theorem State.setDsm_live (f : Densum → Densum) : (s.setDsm f).live = s.live := rfl
@[simp] theorem State.setHd_live (h : Nat) (f : HeadState → HeadState) : (s.setHd h f).live = s.live := rfl
@[simp] theorem State.setDdr_live (f : Ddr → Ddr) : (s.setDdr f).live = s.live := rfl
@[simp] theorem State.setReg_live (off : Nat) (w : Word) : (s.setReg off w).live = s.live := rfl
@[simp] theorem State.setLay_live (l : Nat) (f : LayerState → LayerState) : (s.setLay l f).live = s.live := rfl
@[simp] theorem State.setBlt_live (f : Blt → Blt) : (s.setBlt f).live = s.live := rfl
@[simp] theorem State.wr_live (f : Fld) (v : Nat) : (s.wr f v).live = s.live := rfl
@[simp] theorem State.setStrm_live (k : Nat) (f : Stream → Stream) : (s.setStrm k f).live = s.live := rfl
@[simp] theorem State.setDup_live (f : Duplex → Duplex) : (s.setDup f).live = s.live := rfl
@[simp] theorem State.count_live (f : Fld) (n : Nat) : (s.count f n).live = s.live := rfl
@[simp] theorem State.setSp_live (p : Nat) (f : SheetPort → SheetPort) : (s.setSp p f).live = s.live := rfl
@[simp] theorem State.setRing_live (f : Ring → Ring) : (s.setRing f).live = s.live := rfl
@[simp] theorem State.setArm_live (r : Requester) (b : Bool) : (s.setArm r b).live = s.live := rfl
@[simp] theorem State.setChan_live (c : Nat) (f : DdrChan → DdrChan) : (s.setChan c f).live = s.live := rfl
@[simp] theorem State.setClocks_live (f : Clocks → Clocks) : (s.setClocks f).live = s.live := rfl
@[simp] theorem State.setByte_live (a : Nat) (v : Byte) : (s.setByte a v).live = s.live := rfl
@[simp] theorem State.setDch_live (c : Nat) (f : DmaChan → DmaChan) : (s.setDch c f).live = s.live := rfl
@[simp] theorem State.setNv_live (f : Nv → Nv) : (s.setNv f).live = s.live := rfl
@[simp] theorem State.setLinePoison_live (a : Nat) (p : Bool) : (s.setLinePoison a p).live = s.live := rfl
@[simp] theorem State.setRport_live (p : Nat) (f : RingPort → RingPort) : (s.setRport p f).live = s.live := rfl
@[simp] theorem State.setPwr_live (f : Power → Power) : (s.setPwr f).live = s.live := rfl
@[simp] theorem State.setMsix_live (v : Fin 64) (e : MsixEntry) : (s.setMsix v e).live = s.live := rfl
@[simp] theorem State.setPll_live (n : Nat) (f : Pll → Pll) : (s.setPll n f).live = s.live := rfl
@[simp] theorem State.setShroud_live (f : Shroud → Shroud) : (s.setShroud f).live = s.live := rfl
@[simp] theorem State.emit_live (o : Output) : (s.emit o).live = s.live := rfl

/-! ### What leaves `back` alone -/

@[simp] theorem State.setDsm_back (f : Densum → Densum) : (s.setDsm f).back = s.back := rfl
@[simp] theorem State.setReg_back (off : Nat) (w : Word) : (s.setReg off w).back = s.back := rfl
@[simp] theorem State.setHd_back (h : Nat) (f : HeadState → HeadState) : (s.setHd h f).back = s.back := rfl
@[simp] theorem State.setDdr_back (f : Ddr → Ddr) : (s.setDdr f).back = s.back := rfl
@[simp] theorem State.wr_back (f : Fld) (v : Nat) : (s.wr f v).back = s.back := rfl
@[simp] theorem State.setLay_back (l : Nat) (f : LayerState → LayerState) : (s.setLay l f).back = s.back := rfl
@[simp] theorem State.setBlt_back (f : Blt → Blt) : (s.setBlt f).back = s.back := rfl
@[simp] theorem State.count_back (f : Fld) (n : Nat) : (s.count f n).back = s.back := rfl
@[simp] theorem State.setStrm_back (k : Nat) (f : Stream → Stream) : (s.setStrm k f).back = s.back := rfl
@[simp] theorem State.setDup_back (f : Duplex → Duplex) : (s.setDup f).back = s.back := rfl
@[simp] theorem State.setArm_back (r : Requester) (b : Bool) : (s.setArm r b).back = s.back := rfl
@[simp] theorem State.setSp_back (p : Nat) (f : SheetPort → SheetPort) : (s.setSp p f).back = s.back := rfl
@[simp] theorem State.setRing_back (f : Ring → Ring) : (s.setRing f).back = s.back := rfl
@[simp] theorem State.setLive_back (off : Nat) (w : Word) : (s.setLive off w).back = s.back := rfl
@[simp] theorem State.setChan_back (c : Nat) (f : DdrChan → DdrChan) : (s.setChan c f).back = s.back := rfl
@[simp] theorem State.setClocks_back (f : Clocks → Clocks) : (s.setClocks f).back = s.back := rfl
@[simp] theorem State.setByte_back (a : Nat) (v : Byte) : (s.setByte a v).back = s.back := rfl
@[simp] theorem State.setDch_back (c : Nat) (f : DmaChan → DmaChan) : (s.setDch c f).back = s.back := rfl
@[simp] theorem State.setNv_back (f : Nv → Nv) : (s.setNv f).back = s.back := rfl
@[simp] theorem State.setLinePoison_back (a : Nat) (p : Bool) : (s.setLinePoison a p).back = s.back := rfl
@[simp] theorem State.setRport_back (p : Nat) (f : RingPort → RingPort) : (s.setRport p f).back = s.back := rfl
@[simp] theorem State.setPwr_back (f : Power → Power) : (s.setPwr f).back = s.back := rfl
@[simp] theorem State.setMsix_back (v : Fin 64) (e : MsixEntry) : (s.setMsix v e).back = s.back := rfl
@[simp] theorem State.setPll_back (n : Nat) (f : Pll → Pll) : (s.setPll n f).back = s.back := rfl
@[simp] theorem State.setShroud_back (f : Shroud → Shroud) : (s.setShroud f).back = s.back := rfl
@[simp] theorem State.emit_back (o : Output) : (s.emit o).back = s.back := rfl

/-! ### What leaves `hostRegs` alone -/

@[simp] theorem State.setDsm_hostRegs (f : Densum → Densum) : (s.setDsm f).hostRegs = s.hostRegs := rfl
@[simp] theorem State.setReg_hostRegs (off : Nat) (w : Word) : (s.setReg off w).hostRegs = s.hostRegs := rfl
@[simp] theorem State.setHd_hostRegs (h : Nat) (f : HeadState → HeadState) : (s.setHd h f).hostRegs = s.hostRegs := rfl
@[simp] theorem State.setDdr_hostRegs (f : Ddr → Ddr) : (s.setDdr f).hostRegs = s.hostRegs := rfl
@[simp] theorem State.wr_hostRegs (f : Fld) (v : Nat) : (s.wr f v).hostRegs = s.hostRegs := rfl
@[simp] theorem State.setLay_hostRegs (l : Nat) (f : LayerState → LayerState) : (s.setLay l f).hostRegs = s.hostRegs := rfl
@[simp] theorem State.setBlt_hostRegs (f : Blt → Blt) : (s.setBlt f).hostRegs = s.hostRegs := rfl
@[simp] theorem State.count_hostRegs (f : Fld) (n : Nat) : (s.count f n).hostRegs = s.hostRegs := rfl
@[simp] theorem State.setStrm_hostRegs (k : Nat) (f : Stream → Stream) : (s.setStrm k f).hostRegs = s.hostRegs := rfl
@[simp] theorem State.setDup_hostRegs (f : Duplex → Duplex) : (s.setDup f).hostRegs = s.hostRegs := rfl
@[simp] theorem State.setArm_hostRegs (r : Requester) (b : Bool) : (s.setArm r b).hostRegs = s.hostRegs := rfl
@[simp] theorem State.setSp_hostRegs (p : Nat) (f : SheetPort → SheetPort) : (s.setSp p f).hostRegs = s.hostRegs := rfl
@[simp] theorem State.setRing_hostRegs (f : Ring → Ring) : (s.setRing f).hostRegs = s.hostRegs := rfl
@[simp] theorem State.setLive_hostRegs (off : Nat) (w : Word) : (s.setLive off w).hostRegs = s.hostRegs := rfl
@[simp] theorem State.setChan_hostRegs (c : Nat) (f : DdrChan → DdrChan) : (s.setChan c f).hostRegs = s.hostRegs := rfl
@[simp] theorem State.setClocks_hostRegs (f : Clocks → Clocks) : (s.setClocks f).hostRegs = s.hostRegs := rfl
@[simp] theorem State.setByte_hostRegs (a : Nat) (v : Byte) : (s.setByte a v).hostRegs = s.hostRegs := rfl
@[simp] theorem State.setDch_hostRegs (c : Nat) (f : DmaChan → DmaChan) : (s.setDch c f).hostRegs = s.hostRegs := rfl
@[simp] theorem State.setNv_hostRegs (f : Nv → Nv) : (s.setNv f).hostRegs = s.hostRegs := rfl
@[simp] theorem State.setLinePoison_hostRegs (a : Nat) (p : Bool) : (s.setLinePoison a p).hostRegs = s.hostRegs := rfl
@[simp] theorem State.setRport_hostRegs (p : Nat) (f : RingPort → RingPort) : (s.setRport p f).hostRegs = s.hostRegs := rfl
@[simp] theorem State.setPwr_hostRegs (f : Power → Power) : (s.setPwr f).hostRegs = s.hostRegs := rfl
@[simp] theorem State.setMsix_hostRegs (v : Fin 64) (e : MsixEntry) : (s.setMsix v e).hostRegs = s.hostRegs := rfl
@[simp] theorem State.setPll_hostRegs (n : Nat) (f : Pll → Pll) : (s.setPll n f).hostRegs = s.hostRegs := rfl
@[simp] theorem State.setShroud_hostRegs (f : Shroud → Shroud) : (s.setShroud f).hostRegs = s.hostRegs := rfl
@[simp] theorem State.emit_hostRegs (o : Output) : (s.emit o).hostRegs = s.hostRegs := rfl

/-! ### What leaves `capture` alone -/

@[simp] theorem State.setDsm_capture (f : Densum → Densum) : (s.setDsm f).capture = s.capture := rfl
@[simp] theorem State.setReg_capture (off : Nat) (w : Word) : (s.setReg off w).capture = s.capture := rfl
@[simp] theorem State.setHd_capture (h : Nat) (f : HeadState → HeadState) : (s.setHd h f).capture = s.capture := rfl
@[simp] theorem State.setDdr_capture (f : Ddr → Ddr) : (s.setDdr f).capture = s.capture := rfl
@[simp] theorem State.wr_capture (f : Fld) (v : Nat) : (s.wr f v).capture = s.capture := rfl
@[simp] theorem State.setLay_capture (l : Nat) (f : LayerState → LayerState) : (s.setLay l f).capture = s.capture := rfl
@[simp] theorem State.setBlt_capture (f : Blt → Blt) : (s.setBlt f).capture = s.capture := rfl
@[simp] theorem State.count_capture (f : Fld) (n : Nat) : (s.count f n).capture = s.capture := rfl
@[simp] theorem State.setStrm_capture (k : Nat) (f : Stream → Stream) : (s.setStrm k f).capture = s.capture := rfl
@[simp] theorem State.setDup_capture (f : Duplex → Duplex) : (s.setDup f).capture = s.capture := rfl
@[simp] theorem State.setArm_capture (r : Requester) (b : Bool) : (s.setArm r b).capture = s.capture := rfl
@[simp] theorem State.setSp_capture (p : Nat) (f : SheetPort → SheetPort) : (s.setSp p f).capture = s.capture := rfl
@[simp] theorem State.setRing_capture (f : Ring → Ring) : (s.setRing f).capture = s.capture := rfl
@[simp] theorem State.setLive_capture (off : Nat) (w : Word) : (s.setLive off w).capture = s.capture := rfl
@[simp] theorem State.setChan_capture (c : Nat) (f : DdrChan → DdrChan) : (s.setChan c f).capture = s.capture := rfl
@[simp] theorem State.setClocks_capture (f : Clocks → Clocks) : (s.setClocks f).capture = s.capture := rfl
@[simp] theorem State.setByte_capture (a : Nat) (v : Byte) : (s.setByte a v).capture = s.capture := rfl
@[simp] theorem State.setDch_capture (c : Nat) (f : DmaChan → DmaChan) : (s.setDch c f).capture = s.capture := rfl
@[simp] theorem State.setNv_capture (f : Nv → Nv) : (s.setNv f).capture = s.capture := rfl
@[simp] theorem State.setLinePoison_capture (a : Nat) (p : Bool) : (s.setLinePoison a p).capture = s.capture := rfl
@[simp] theorem State.setRport_capture (p : Nat) (f : RingPort → RingPort) : (s.setRport p f).capture = s.capture := rfl
@[simp] theorem State.setPwr_capture (f : Power → Power) : (s.setPwr f).capture = s.capture := rfl
@[simp] theorem State.setMsix_capture (v : Fin 64) (e : MsixEntry) : (s.setMsix v e).capture = s.capture := rfl
@[simp] theorem State.setPll_capture (n : Nat) (f : Pll → Pll) : (s.setPll n f).capture = s.capture := rfl
@[simp] theorem State.setShroud_capture (f : Shroud → Shroud) : (s.setShroud f).capture = s.capture := rfl
@[simp] theorem State.emit_capture (o : Output) : (s.emit o).capture = s.capture := rfl

/-! ### What leaves `mem` alone -/

@[simp] theorem State.setDsm_mem (f : Densum → Densum) : (s.setDsm f).mem = s.mem := rfl
@[simp] theorem State.setHd_mem (h : Nat) (f : HeadState → HeadState) : (s.setHd h f).mem = s.mem := rfl
@[simp] theorem State.setDdr_mem (f : Ddr → Ddr) : (s.setDdr f).mem = s.mem := rfl
@[simp] theorem State.setReg_mem (off : Nat) (w : Word) : (s.setReg off w).mem = s.mem := rfl
@[simp] theorem State.setLay_mem (l : Nat) (f : LayerState → LayerState) : (s.setLay l f).mem = s.mem := rfl
@[simp] theorem State.setBlt_mem (f : Blt → Blt) : (s.setBlt f).mem = s.mem := rfl
@[simp] theorem State.wr_mem (f : Fld) (v : Nat) : (s.wr f v).mem = s.mem := rfl
@[simp] theorem State.setStrm_mem (k : Nat) (f : Stream → Stream) : (s.setStrm k f).mem = s.mem := rfl
@[simp] theorem State.setDup_mem (f : Duplex → Duplex) : (s.setDup f).mem = s.mem := rfl
@[simp] theorem State.count_mem (f : Fld) (n : Nat) : (s.count f n).mem = s.mem := rfl
@[simp] theorem State.setSp_mem (p : Nat) (f : SheetPort → SheetPort) : (s.setSp p f).mem = s.mem := rfl
@[simp] theorem State.setRing_mem (f : Ring → Ring) : (s.setRing f).mem = s.mem := rfl
@[simp] theorem State.setArm_mem (r : Requester) (b : Bool) : (s.setArm r b).mem = s.mem := rfl
@[simp] theorem State.setChan_mem (c : Nat) (f : DdrChan → DdrChan) : (s.setChan c f).mem = s.mem := rfl
@[simp] theorem State.setClocks_mem (f : Clocks → Clocks) : (s.setClocks f).mem = s.mem := rfl
@[simp] theorem State.setLive_mem (off : Nat) (w : Word) : (s.setLive off w).mem = s.mem := rfl
@[simp] theorem State.setDch_mem (c : Nat) (f : DmaChan → DmaChan) : (s.setDch c f).mem = s.mem := rfl
@[simp] theorem State.setNv_mem (f : Nv → Nv) : (s.setNv f).mem = s.mem := rfl
@[simp] theorem State.setLinePoison_mem (a : Nat) (p : Bool) : (s.setLinePoison a p).mem = s.mem := rfl
@[simp] theorem State.setRport_mem (p : Nat) (f : RingPort → RingPort) : (s.setRport p f).mem = s.mem := rfl
@[simp] theorem State.setPwr_mem (f : Power → Power) : (s.setPwr f).mem = s.mem := rfl
@[simp] theorem State.setMsix_mem (v : Fin 64) (e : MsixEntry) : (s.setMsix v e).mem = s.mem := rfl
@[simp] theorem State.setPll_mem (n : Nat) (f : Pll → Pll) : (s.setPll n f).mem = s.mem := rfl
@[simp] theorem State.setShroud_mem (f : Shroud → Shroud) : (s.setShroud f).mem = s.mem := rfl
@[simp] theorem State.emit_mem (o : Output) : (s.emit o).mem = s.mem := rfl

/-! ### What leaves `poisoned` alone -/

@[simp] theorem State.setDsm_poisoned (f : Densum → Densum) : (s.setDsm f).poisoned = s.poisoned := rfl
@[simp] theorem State.setHd_poisoned (h : Nat) (f : HeadState → HeadState) : (s.setHd h f).poisoned = s.poisoned := rfl
@[simp] theorem State.setDdr_poisoned (f : Ddr → Ddr) : (s.setDdr f).poisoned = s.poisoned := rfl
@[simp] theorem State.setReg_poisoned (off : Nat) (w : Word) : (s.setReg off w).poisoned = s.poisoned := rfl
@[simp] theorem State.setLay_poisoned (l : Nat) (f : LayerState → LayerState) : (s.setLay l f).poisoned = s.poisoned := rfl
@[simp] theorem State.setBlt_poisoned (f : Blt → Blt) : (s.setBlt f).poisoned = s.poisoned := rfl
@[simp] theorem State.wr_poisoned (f : Fld) (v : Nat) : (s.wr f v).poisoned = s.poisoned := rfl
@[simp] theorem State.setStrm_poisoned (k : Nat) (f : Stream → Stream) : (s.setStrm k f).poisoned = s.poisoned := rfl
@[simp] theorem State.setDup_poisoned (f : Duplex → Duplex) : (s.setDup f).poisoned = s.poisoned := rfl
@[simp] theorem State.count_poisoned (f : Fld) (n : Nat) : (s.count f n).poisoned = s.poisoned := rfl
@[simp] theorem State.setSp_poisoned (p : Nat) (f : SheetPort → SheetPort) : (s.setSp p f).poisoned = s.poisoned := rfl
@[simp] theorem State.setRing_poisoned (f : Ring → Ring) : (s.setRing f).poisoned = s.poisoned := rfl
@[simp] theorem State.setArm_poisoned (r : Requester) (b : Bool) : (s.setArm r b).poisoned = s.poisoned := rfl
@[simp] theorem State.setChan_poisoned (c : Nat) (f : DdrChan → DdrChan) : (s.setChan c f).poisoned = s.poisoned := rfl
@[simp] theorem State.setClocks_poisoned (f : Clocks → Clocks) : (s.setClocks f).poisoned = s.poisoned := rfl
@[simp] theorem State.setLive_poisoned (off : Nat) (w : Word) : (s.setLive off w).poisoned = s.poisoned := rfl
@[simp] theorem State.setDch_poisoned (c : Nat) (f : DmaChan → DmaChan) : (s.setDch c f).poisoned = s.poisoned := rfl
@[simp] theorem State.setNv_poisoned (f : Nv → Nv) : (s.setNv f).poisoned = s.poisoned := rfl
@[simp] theorem State.setByte_poisoned (a : Nat) (v : Byte) : (s.setByte a v).poisoned = s.poisoned := rfl
@[simp] theorem State.setRport_poisoned (p : Nat) (f : RingPort → RingPort) : (s.setRport p f).poisoned = s.poisoned := rfl
@[simp] theorem State.setPwr_poisoned (f : Power → Power) : (s.setPwr f).poisoned = s.poisoned := rfl
@[simp] theorem State.setMsix_poisoned (v : Fin 64) (e : MsixEntry) : (s.setMsix v e).poisoned = s.poisoned := rfl
@[simp] theorem State.setPll_poisoned (n : Nat) (f : Pll → Pll) : (s.setPll n f).poisoned = s.poisoned := rfl
@[simp] theorem State.setShroud_poisoned (f : Shroud → Shroud) : (s.setShroud f).poisoned = s.poisoned := rfl
@[simp] theorem State.emit_poisoned (o : Output) : (s.emit o).poisoned = s.poisoned := rfl

/-! ### What leaves `out` alone -/

@[simp] theorem State.setDsm_out (f : Densum → Densum) : (s.setDsm f).out = s.out := rfl
@[simp] theorem State.setReg_out (off : Nat) (w : Word) : (s.setReg off w).out = s.out := rfl
@[simp] theorem State.setHd_out (h : Nat) (f : HeadState → HeadState) : (s.setHd h f).out = s.out := rfl
@[simp] theorem State.setDdr_out (f : Ddr → Ddr) : (s.setDdr f).out = s.out := rfl
@[simp] theorem State.wr_out (f : Fld) (v : Nat) : (s.wr f v).out = s.out := rfl
@[simp] theorem State.setLay_out (l : Nat) (f : LayerState → LayerState) : (s.setLay l f).out = s.out := rfl
@[simp] theorem State.setBlt_out (f : Blt → Blt) : (s.setBlt f).out = s.out := rfl
@[simp] theorem State.count_out (f : Fld) (n : Nat) : (s.count f n).out = s.out := rfl
@[simp] theorem State.setStrm_out (k : Nat) (f : Stream → Stream) : (s.setStrm k f).out = s.out := rfl
@[simp] theorem State.setDup_out (f : Duplex → Duplex) : (s.setDup f).out = s.out := rfl
@[simp] theorem State.setArm_out (r : Requester) (b : Bool) : (s.setArm r b).out = s.out := rfl
@[simp] theorem State.setSp_out (p : Nat) (f : SheetPort → SheetPort) : (s.setSp p f).out = s.out := rfl
@[simp] theorem State.setRing_out (f : Ring → Ring) : (s.setRing f).out = s.out := rfl
@[simp] theorem State.setLive_out (off : Nat) (w : Word) : (s.setLive off w).out = s.out := rfl
@[simp] theorem State.setChan_out (c : Nat) (f : DdrChan → DdrChan) : (s.setChan c f).out = s.out := rfl
@[simp] theorem State.setClocks_out (f : Clocks → Clocks) : (s.setClocks f).out = s.out := rfl
@[simp] theorem State.setByte_out (a : Nat) (v : Byte) : (s.setByte a v).out = s.out := rfl
@[simp] theorem State.setDch_out (c : Nat) (f : DmaChan → DmaChan) : (s.setDch c f).out = s.out := rfl
@[simp] theorem State.setNv_out (f : Nv → Nv) : (s.setNv f).out = s.out := rfl
@[simp] theorem State.setLinePoison_out (a : Nat) (p : Bool) : (s.setLinePoison a p).out = s.out := rfl
@[simp] theorem State.setRport_out (p : Nat) (f : RingPort → RingPort) : (s.setRport p f).out = s.out := rfl
@[simp] theorem State.setPwr_out (f : Power → Power) : (s.setPwr f).out = s.out := rfl
@[simp] theorem State.setMsix_out (v : Fin 64) (e : MsixEntry) : (s.setMsix v e).out = s.out := rfl
@[simp] theorem State.setPll_out (n : Nat) (f : Pll → Pll) : (s.setPll n f).out = s.out := rfl
@[simp] theorem State.setShroud_out (f : Shroud → Shroud) : (s.setShroud f).out = s.out := rfl

/-! ### What leaves `host` alone -/

@[simp] theorem State.setDsm_host (f : Densum → Densum) : (s.setDsm f).host = s.host := rfl
@[simp] theorem State.setHd_host (h : Nat) (f : HeadState → HeadState) : (s.setHd h f).host = s.host := rfl
@[simp] theorem State.setDdr_host (f : Ddr → Ddr) : (s.setDdr f).host = s.host := rfl
@[simp] theorem State.setReg_host (off : Nat) (w : Word) : (s.setReg off w).host = s.host := rfl
@[simp] theorem State.setLay_host (l : Nat) (f : LayerState → LayerState) : (s.setLay l f).host = s.host := rfl
@[simp] theorem State.setBlt_host (f : Blt → Blt) : (s.setBlt f).host = s.host := rfl
@[simp] theorem State.wr_host (f : Fld) (v : Nat) : (s.wr f v).host = s.host := rfl
@[simp] theorem State.setStrm_host (k : Nat) (f : Stream → Stream) : (s.setStrm k f).host = s.host := rfl
@[simp] theorem State.setDup_host (f : Duplex → Duplex) : (s.setDup f).host = s.host := rfl
@[simp] theorem State.count_host (f : Fld) (n : Nat) : (s.count f n).host = s.host := rfl
@[simp] theorem State.setSp_host (p : Nat) (f : SheetPort → SheetPort) : (s.setSp p f).host = s.host := rfl
@[simp] theorem State.setRing_host (f : Ring → Ring) : (s.setRing f).host = s.host := rfl
@[simp] theorem State.setArm_host (r : Requester) (b : Bool) : (s.setArm r b).host = s.host := rfl
@[simp] theorem State.setChan_host (c : Nat) (f : DdrChan → DdrChan) : (s.setChan c f).host = s.host := rfl
@[simp] theorem State.setClocks_host (f : Clocks → Clocks) : (s.setClocks f).host = s.host := rfl
@[simp] theorem State.setLive_host (off : Nat) (w : Word) : (s.setLive off w).host = s.host := rfl
@[simp] theorem State.setDch_host (c : Nat) (f : DmaChan → DmaChan) : (s.setDch c f).host = s.host := rfl
@[simp] theorem State.setNv_host (f : Nv → Nv) : (s.setNv f).host = s.host := rfl
@[simp] theorem State.setByte_host (a : Nat) (v : Byte) : (s.setByte a v).host = s.host := rfl
@[simp] theorem State.setRport_host (p : Nat) (f : RingPort → RingPort) : (s.setRport p f).host = s.host := rfl
@[simp] theorem State.setPwr_host (f : Power → Power) : (s.setPwr f).host = s.host := rfl
@[simp] theorem State.setLinePoison_host (a : Nat) (p : Bool) : (s.setLinePoison a p).host = s.host := rfl
@[simp] theorem State.setPll_host (n : Nat) (f : Pll → Pll) : (s.setPll n f).host = s.host := rfl
@[simp] theorem State.setShroud_host (f : Shroud → Shroud) : (s.setShroud f).host = s.host := rfl
@[simp] theorem State.emit_host (o : Output) : (s.emit o).host = s.host := rfl

/-! ### What leaves `duplex` alone -/

@[simp] theorem State.setReg_duplex (off : Nat) (w : Word) : (s.setReg off w).duplex = s.duplex := rfl
@[simp] theorem State.setHd_duplex (h : Nat) (f : HeadState → HeadState) : (s.setHd h f).duplex = s.duplex := rfl
@[simp] theorem State.setDsm_duplex (f : Densum → Densum) : (s.setDsm f).duplex = s.duplex := rfl
@[simp] theorem State.wr_duplex (f : Fld) (v : Nat) : (s.wr f v).duplex = s.duplex := rfl
@[simp] theorem State.setLay_duplex (l : Nat) (f : LayerState → LayerState) : (s.setLay l f).duplex = s.duplex := rfl
@[simp] theorem State.setDdr_duplex (f : Ddr → Ddr) : (s.setDdr f).duplex = s.duplex := rfl
@[simp] theorem State.count_duplex (f : Fld) (n : Nat) : (s.count f n).duplex = s.duplex := rfl
@[simp] theorem State.setStrm_duplex (k : Nat) (f : Stream → Stream) : (s.setStrm k f).duplex = s.duplex := rfl
@[simp] theorem State.setBlt_duplex (f : Blt → Blt) : (s.setBlt f).duplex = s.duplex := rfl
@[simp] theorem State.setArm_duplex (r : Requester) (b : Bool) : (s.setArm r b).duplex = s.duplex := rfl
@[simp] theorem State.setSp_duplex (p : Nat) (f : SheetPort → SheetPort) : (s.setSp p f).duplex = s.duplex := rfl
@[simp] theorem State.setRing_duplex (f : Ring → Ring) : (s.setRing f).duplex = s.duplex := rfl
@[simp] theorem State.setLive_duplex (off : Nat) (w : Word) : (s.setLive off w).duplex = s.duplex := rfl
@[simp] theorem State.setChan_duplex (c : Nat) (f : DdrChan → DdrChan) : (s.setChan c f).duplex = s.duplex := rfl
@[simp] theorem State.setClocks_duplex (f : Clocks → Clocks) : (s.setClocks f).duplex = s.duplex := rfl
@[simp] theorem State.setByte_duplex (a : Nat) (v : Byte) : (s.setByte a v).duplex = s.duplex := rfl
@[simp] theorem State.setDch_duplex (c : Nat) (f : DmaChan → DmaChan) : (s.setDch c f).duplex = s.duplex := rfl
@[simp] theorem State.setNv_duplex (f : Nv → Nv) : (s.setNv f).duplex = s.duplex := rfl
@[simp] theorem State.setLinePoison_duplex (a : Nat) (p : Bool) : (s.setLinePoison a p).duplex = s.duplex := rfl
@[simp] theorem State.setRport_duplex (p : Nat) (f : RingPort → RingPort) : (s.setRport p f).duplex = s.duplex := rfl
@[simp] theorem State.setPwr_duplex (f : Power → Power) : (s.setPwr f).duplex = s.duplex := rfl
@[simp] theorem State.setMsix_duplex (v : Fin 64) (e : MsixEntry) : (s.setMsix v e).duplex = s.duplex := rfl
@[simp] theorem State.setPll_duplex (n : Nat) (f : Pll → Pll) : (s.setPll n f).duplex = s.duplex := rfl
@[simp] theorem State.setShroud_duplex (f : Shroud → Shroud) : (s.setShroud f).duplex = s.duplex := rfl
@[simp] theorem State.emit_duplex (o : Output) : (s.emit o).duplex = s.duplex := rfl

/-! ### What leaves `fw` alone -/

@[simp] theorem State.setDsm_fw (f : Densum → Densum) : (s.setDsm f).fw = s.fw := rfl
@[simp] theorem State.setReg_fw (off : Nat) (w : Word) : (s.setReg off w).fw = s.fw := rfl
@[simp] theorem State.setHd_fw (h : Nat) (f : HeadState → HeadState) : (s.setHd h f).fw = s.fw := rfl
@[simp] theorem State.setDdr_fw (f : Ddr → Ddr) : (s.setDdr f).fw = s.fw := rfl
@[simp] theorem State.wr_fw (f : Fld) (v : Nat) : (s.wr f v).fw = s.fw := rfl
@[simp] theorem State.setLay_fw (l : Nat) (f : LayerState → LayerState) : (s.setLay l f).fw = s.fw := rfl
@[simp] theorem State.setBlt_fw (f : Blt → Blt) : (s.setBlt f).fw = s.fw := rfl
@[simp] theorem State.count_fw (f : Fld) (n : Nat) : (s.count f n).fw = s.fw := rfl
@[simp] theorem State.setStrm_fw (k : Nat) (f : Stream → Stream) : (s.setStrm k f).fw = s.fw := rfl
@[simp] theorem State.setDup_fw (f : Duplex → Duplex) : (s.setDup f).fw = s.fw := rfl
@[simp] theorem State.setArm_fw (r : Requester) (b : Bool) : (s.setArm r b).fw = s.fw := rfl
@[simp] theorem State.setSp_fw (p : Nat) (f : SheetPort → SheetPort) : (s.setSp p f).fw = s.fw := rfl
@[simp] theorem State.setRing_fw (f : Ring → Ring) : (s.setRing f).fw = s.fw := rfl
@[simp] theorem State.setLive_fw (off : Nat) (w : Word) : (s.setLive off w).fw = s.fw := rfl
@[simp] theorem State.setChan_fw (c : Nat) (f : DdrChan → DdrChan) : (s.setChan c f).fw = s.fw := rfl
@[simp] theorem State.setClocks_fw (f : Clocks → Clocks) : (s.setClocks f).fw = s.fw := rfl
@[simp] theorem State.setByte_fw (a : Nat) (v : Byte) : (s.setByte a v).fw = s.fw := rfl
@[simp] theorem State.setDch_fw (c : Nat) (f : DmaChan → DmaChan) : (s.setDch c f).fw = s.fw := rfl
@[simp] theorem State.setNv_fw (f : Nv → Nv) : (s.setNv f).fw = s.fw := rfl
@[simp] theorem State.setLinePoison_fw (a : Nat) (p : Bool) : (s.setLinePoison a p).fw = s.fw := rfl
@[simp] theorem State.setRport_fw (p : Nat) (f : RingPort → RingPort) : (s.setRport p f).fw = s.fw := rfl
@[simp] theorem State.setPwr_fw (f : Power → Power) : (s.setPwr f).fw = s.fw := rfl
@[simp] theorem State.setMsix_fw (v : Fin 64) (e : MsixEntry) : (s.setMsix v e).fw = s.fw := rfl
@[simp] theorem State.setPll_fw (n : Nat) (f : Pll → Pll) : (s.setPll n f).fw = s.fw := rfl
@[simp] theorem State.setShroud_fw (f : Shroud → Shroud) : (s.setShroud f).fw = s.fw := rfl
@[simp] theorem State.emit_fw (o : Output) : (s.emit o).fw = s.fw := rfl

/-! ### What leaves `log` alone -/

@[simp] theorem State.setDsm_log (f : Densum → Densum) : (s.setDsm f).log = s.log := rfl
@[simp] theorem State.setReg_log (off : Nat) (w : Word) : (s.setReg off w).log = s.log := rfl
@[simp] theorem State.setHd_log (h : Nat) (f : HeadState → HeadState) : (s.setHd h f).log = s.log := rfl
@[simp] theorem State.setDdr_log (f : Ddr → Ddr) : (s.setDdr f).log = s.log := rfl
@[simp] theorem State.wr_log (f : Fld) (v : Nat) : (s.wr f v).log = s.log := rfl
@[simp] theorem State.setLay_log (l : Nat) (f : LayerState → LayerState) : (s.setLay l f).log = s.log := rfl
@[simp] theorem State.setBlt_log (f : Blt → Blt) : (s.setBlt f).log = s.log := rfl
@[simp] theorem State.count_log (f : Fld) (n : Nat) : (s.count f n).log = s.log := rfl
@[simp] theorem State.setStrm_log (k : Nat) (f : Stream → Stream) : (s.setStrm k f).log = s.log := rfl
@[simp] theorem State.setDup_log (f : Duplex → Duplex) : (s.setDup f).log = s.log := rfl
@[simp] theorem State.setArm_log (r : Requester) (b : Bool) : (s.setArm r b).log = s.log := rfl
@[simp] theorem State.setSp_log (p : Nat) (f : SheetPort → SheetPort) : (s.setSp p f).log = s.log := rfl
@[simp] theorem State.setRing_log (f : Ring → Ring) : (s.setRing f).log = s.log := rfl
@[simp] theorem State.setLive_log (off : Nat) (w : Word) : (s.setLive off w).log = s.log := rfl
@[simp] theorem State.setChan_log (c : Nat) (f : DdrChan → DdrChan) : (s.setChan c f).log = s.log := rfl
@[simp] theorem State.setClocks_log (f : Clocks → Clocks) : (s.setClocks f).log = s.log := rfl
@[simp] theorem State.setByte_log (a : Nat) (v : Byte) : (s.setByte a v).log = s.log := rfl
@[simp] theorem State.setDch_log (c : Nat) (f : DmaChan → DmaChan) : (s.setDch c f).log = s.log := rfl
@[simp] theorem State.setNv_log (f : Nv → Nv) : (s.setNv f).log = s.log := rfl
@[simp] theorem State.setLinePoison_log (a : Nat) (p : Bool) : (s.setLinePoison a p).log = s.log := rfl
@[simp] theorem State.setRport_log (p : Nat) (f : RingPort → RingPort) : (s.setRport p f).log = s.log := rfl
@[simp] theorem State.setPwr_log (f : Power → Power) : (s.setPwr f).log = s.log := rfl
@[simp] theorem State.setMsix_log (v : Fin 64) (e : MsixEntry) : (s.setMsix v e).log = s.log := rfl
@[simp] theorem State.setPll_log (n : Nat) (f : Pll → Pll) : (s.setPll n f).log = s.log := rfl
@[simp] theorem State.setShroud_log (f : Shroud → Shroud) : (s.setShroud f).log = s.log := rfl
@[simp] theorem State.emit_log (o : Output) : (s.emit o).log = s.log := rfl

/-! ### What leaves `dsm` alone -/

@[simp] theorem State.setReg_dsm (off : Nat) (w : Word) : (s.setReg off w).dsm = s.dsm := rfl
@[simp] theorem State.setHd_dsm (h : Nat) (f : HeadState → HeadState) : (s.setHd h f).dsm = s.dsm := rfl
@[simp] theorem State.setDdr_dsm (f : Ddr → Ddr) : (s.setDdr f).dsm = s.dsm := rfl
@[simp] theorem State.wr_dsm (f : Fld) (v : Nat) : (s.wr f v).dsm = s.dsm := rfl
@[simp] theorem State.setLay_dsm (l : Nat) (f : LayerState → LayerState) : (s.setLay l f).dsm = s.dsm := rfl
@[simp] theorem State.setBlt_dsm (f : Blt → Blt) : (s.setBlt f).dsm = s.dsm := rfl
@[simp] theorem State.count_dsm (f : Fld) (n : Nat) : (s.count f n).dsm = s.dsm := rfl
@[simp] theorem State.setStrm_dsm (k : Nat) (f : Stream → Stream) : (s.setStrm k f).dsm = s.dsm := rfl
@[simp] theorem State.setDup_dsm (f : Duplex → Duplex) : (s.setDup f).dsm = s.dsm := rfl
@[simp] theorem State.setArm_dsm (r : Requester) (b : Bool) : (s.setArm r b).dsm = s.dsm := rfl
@[simp] theorem State.setSp_dsm (p : Nat) (f : SheetPort → SheetPort) : (s.setSp p f).dsm = s.dsm := rfl
@[simp] theorem State.setRing_dsm (f : Ring → Ring) : (s.setRing f).dsm = s.dsm := rfl
@[simp] theorem State.setLive_dsm (off : Nat) (w : Word) : (s.setLive off w).dsm = s.dsm := rfl
@[simp] theorem State.setChan_dsm (c : Nat) (f : DdrChan → DdrChan) : (s.setChan c f).dsm = s.dsm := rfl
@[simp] theorem State.setClocks_dsm (f : Clocks → Clocks) : (s.setClocks f).dsm = s.dsm := rfl
@[simp] theorem State.setByte_dsm (a : Nat) (v : Byte) : (s.setByte a v).dsm = s.dsm := rfl
@[simp] theorem State.setDch_dsm (c : Nat) (f : DmaChan → DmaChan) : (s.setDch c f).dsm = s.dsm := rfl
@[simp] theorem State.setNv_dsm (f : Nv → Nv) : (s.setNv f).dsm = s.dsm := rfl
@[simp] theorem State.setLinePoison_dsm (a : Nat) (p : Bool) : (s.setLinePoison a p).dsm = s.dsm := rfl
@[simp] theorem State.setRport_dsm (p : Nat) (f : RingPort → RingPort) : (s.setRport p f).dsm = s.dsm := rfl
@[simp] theorem State.setPwr_dsm (f : Power → Power) : (s.setPwr f).dsm = s.dsm := rfl
@[simp] theorem State.setMsix_dsm (v : Fin 64) (e : MsixEntry) : (s.setMsix v e).dsm = s.dsm := rfl
@[simp] theorem State.setPll_dsm (n : Nat) (f : Pll → Pll) : (s.setPll n f).dsm = s.dsm := rfl
@[simp] theorem State.setShroud_dsm (f : Shroud → Shroud) : (s.setShroud f).dsm = s.dsm := rfl
@[simp] theorem State.emit_dsm (o : Output) : (s.emit o).dsm = s.dsm := rfl

/-! ### What leaves `ddr` alone -/

@[simp] theorem State.setReg_ddr (off : Nat) (w : Word) : (s.setReg off w).ddr = s.ddr := rfl
@[simp] theorem State.setDsm_ddr (f : Densum → Densum) : (s.setDsm f).ddr = s.ddr := rfl
@[simp] theorem State.wr_ddr (f : Fld) (v : Nat) : (s.wr f v).ddr = s.ddr := rfl
@[simp] theorem State.setHd_ddr (h : Nat) (f : HeadState → HeadState) : (s.setHd h f).ddr = s.ddr := rfl
@[simp] theorem State.setBlt_ddr (f : Blt → Blt) : (s.setBlt f).ddr = s.ddr := rfl
@[simp] theorem State.count_ddr (f : Fld) (n : Nat) : (s.count f n).ddr = s.ddr := rfl
@[simp] theorem State.setLay_ddr (l : Nat) (f : LayerState → LayerState) : (s.setLay l f).ddr = s.ddr := rfl
@[simp] theorem State.setDup_ddr (f : Duplex → Duplex) : (s.setDup f).ddr = s.ddr := rfl
@[simp] theorem State.setArm_ddr (r : Requester) (b : Bool) : (s.setArm r b).ddr = s.ddr := rfl
@[simp] theorem State.setStrm_ddr (k : Nat) (f : Stream → Stream) : (s.setStrm k f).ddr = s.ddr := rfl
@[simp] theorem State.setRing_ddr (f : Ring → Ring) : (s.setRing f).ddr = s.ddr := rfl
@[simp] theorem State.setLive_ddr (off : Nat) (w : Word) : (s.setLive off w).ddr = s.ddr := rfl
@[simp] theorem State.setSp_ddr (p : Nat) (f : SheetPort → SheetPort) : (s.setSp p f).ddr = s.ddr := rfl
@[simp] theorem State.setClocks_ddr (f : Clocks → Clocks) : (s.setClocks f).ddr = s.ddr := rfl
@[simp] theorem State.setByte_ddr (a : Nat) (v : Byte) : (s.setByte a v).ddr = s.ddr := rfl
@[simp] theorem State.setDch_ddr (c : Nat) (f : DmaChan → DmaChan) : (s.setDch c f).ddr = s.ddr := rfl
@[simp] theorem State.setNv_ddr (f : Nv → Nv) : (s.setNv f).ddr = s.ddr := rfl
@[simp] theorem State.setLinePoison_ddr (a : Nat) (p : Bool) : (s.setLinePoison a p).ddr = s.ddr := rfl
@[simp] theorem State.setRport_ddr (p : Nat) (f : RingPort → RingPort) : (s.setRport p f).ddr = s.ddr := rfl
@[simp] theorem State.setPwr_ddr (f : Power → Power) : (s.setPwr f).ddr = s.ddr := rfl
@[simp] theorem State.setMsix_ddr (v : Fin 64) (e : MsixEntry) : (s.setMsix v e).ddr = s.ddr := rfl
@[simp] theorem State.setPll_ddr (n : Nat) (f : Pll → Pll) : (s.setPll n f).ddr = s.ddr := rfl
@[simp] theorem State.setShroud_ddr (f : Shroud → Shroud) : (s.setShroud f).ddr = s.ddr := rfl
@[simp] theorem State.emit_ddr (o : Output) : (s.emit o).ddr = s.ddr := rfl

/-! ### What leaves `ring` alone -/

@[simp] theorem State.setReg_ring (off : Nat) (w : Word) : (s.setReg off w).ring = s.ring := rfl
@[simp] theorem State.setDsm_ring (f : Densum → Densum) : (s.setDsm f).ring = s.ring := rfl
@[simp] theorem State.wr_ring (f : Fld) (v : Nat) : (s.wr f v).ring = s.ring := rfl
@[simp] theorem State.setHd_ring (h : Nat) (f : HeadState → HeadState) : (s.setHd h f).ring = s.ring := rfl
@[simp] theorem State.setDdr_ring (f : Ddr → Ddr) : (s.setDdr f).ring = s.ring := rfl
@[simp] theorem State.count_ring (f : Fld) (n : Nat) : (s.count f n).ring = s.ring := rfl
@[simp] theorem State.setLay_ring (l : Nat) (f : LayerState → LayerState) : (s.setLay l f).ring = s.ring := rfl
@[simp] theorem State.setBlt_ring (f : Blt → Blt) : (s.setBlt f).ring = s.ring := rfl
@[simp] theorem State.setArm_ring (r : Requester) (b : Bool) : (s.setArm r b).ring = s.ring := rfl
@[simp] theorem State.setStrm_ring (k : Nat) (f : Stream → Stream) : (s.setStrm k f).ring = s.ring := rfl
@[simp] theorem State.setDup_ring (f : Duplex → Duplex) : (s.setDup f).ring = s.ring := rfl
@[simp] theorem State.setLive_ring (off : Nat) (w : Word) : (s.setLive off w).ring = s.ring := rfl
@[simp] theorem State.setSp_ring (p : Nat) (f : SheetPort → SheetPort) : (s.setSp p f).ring = s.ring := rfl
@[simp] theorem State.setClocks_ring (f : Clocks → Clocks) : (s.setClocks f).ring = s.ring := rfl
@[simp] theorem State.setByte_ring (a : Nat) (v : Byte) : (s.setByte a v).ring = s.ring := rfl
@[simp] theorem State.setChan_ring (c : Nat) (f : DdrChan → DdrChan) : (s.setChan c f).ring = s.ring := rfl
@[simp] theorem State.setNv_ring (f : Nv → Nv) : (s.setNv f).ring = s.ring := rfl
@[simp] theorem State.setLinePoison_ring (a : Nat) (p : Bool) : (s.setLinePoison a p).ring = s.ring := rfl
@[simp] theorem State.setDch_ring (c : Nat) (f : DmaChan → DmaChan) : (s.setDch c f).ring = s.ring := rfl
@[simp] theorem State.setPwr_ring (f : Power → Power) : (s.setPwr f).ring = s.ring := rfl
@[simp] theorem State.setMsix_ring (v : Fin 64) (e : MsixEntry) : (s.setMsix v e).ring = s.ring := rfl
@[simp] theorem State.setPll_ring (n : Nat) (f : Pll → Pll) : (s.setPll n f).ring = s.ring := rfl
@[simp] theorem State.setShroud_ring (f : Shroud → Shroud) : (s.setShroud f).ring = s.ring := rfl
@[simp] theorem State.emit_ring (o : Output) : (s.emit o).ring = s.ring := rfl

/-! ### What leaves `shroud` alone -/

@[simp] theorem State.setReg_shroud (off : Nat) (w : Word) : (s.setReg off w).shroud = s.shroud := rfl
@[simp] theorem State.setHd_shroud (h : Nat) (f : HeadState → HeadState) : (s.setHd h f).shroud = s.shroud := rfl
@[simp] theorem State.setDsm_shroud (f : Densum → Densum) : (s.setDsm f).shroud = s.shroud := rfl
@[simp] theorem State.wr_shroud (f : Fld) (v : Nat) : (s.wr f v).shroud = s.shroud := rfl
@[simp] theorem State.setLay_shroud (l : Nat) (f : LayerState → LayerState) : (s.setLay l f).shroud = s.shroud := rfl
@[simp] theorem State.setDdr_shroud (f : Ddr → Ddr) : (s.setDdr f).shroud = s.shroud := rfl
@[simp] theorem State.count_shroud (f : Fld) (n : Nat) : (s.count f n).shroud = s.shroud := rfl
@[simp] theorem State.setStrm_shroud (k : Nat) (f : Stream → Stream) : (s.setStrm k f).shroud = s.shroud := rfl
@[simp] theorem State.setBlt_shroud (f : Blt → Blt) : (s.setBlt f).shroud = s.shroud := rfl
@[simp] theorem State.setArm_shroud (r : Requester) (b : Bool) : (s.setArm r b).shroud = s.shroud := rfl
@[simp] theorem State.setSp_shroud (p : Nat) (f : SheetPort → SheetPort) : (s.setSp p f).shroud = s.shroud := rfl
@[simp] theorem State.setDup_shroud (f : Duplex → Duplex) : (s.setDup f).shroud = s.shroud := rfl
@[simp] theorem State.setLive_shroud (off : Nat) (w : Word) : (s.setLive off w).shroud = s.shroud := rfl
@[simp] theorem State.setChan_shroud (c : Nat) (f : DdrChan → DdrChan) : (s.setChan c f).shroud = s.shroud := rfl
@[simp] theorem State.setRing_shroud (f : Ring → Ring) : (s.setRing f).shroud = s.shroud := rfl
@[simp] theorem State.setByte_shroud (a : Nat) (v : Byte) : (s.setByte a v).shroud = s.shroud := rfl
@[simp] theorem State.setDch_shroud (c : Nat) (f : DmaChan → DmaChan) : (s.setDch c f).shroud = s.shroud := rfl
@[simp] theorem State.setClocks_shroud (f : Clocks → Clocks) : (s.setClocks f).shroud = s.shroud := rfl
@[simp] theorem State.setLinePoison_shroud (a : Nat) (p : Bool) : (s.setLinePoison a p).shroud = s.shroud := rfl
@[simp] theorem State.setRport_shroud (p : Nat) (f : RingPort → RingPort) : (s.setRport p f).shroud = s.shroud := rfl
@[simp] theorem State.setNv_shroud (f : Nv → Nv) : (s.setNv f).shroud = s.shroud := rfl
@[simp] theorem State.setMsix_shroud (v : Fin 64) (e : MsixEntry) : (s.setMsix v e).shroud = s.shroud := rfl
@[simp] theorem State.setPll_shroud (n : Nat) (f : Pll → Pll) : (s.setPll n f).shroud = s.shroud := rfl
@[simp] theorem State.setPwr_shroud (f : Power → Power) : (s.setPwr f).shroud = s.shroud := rfl
@[simp] theorem State.emit_shroud (o : Output) : (s.emit o).shroud = s.shroud := rfl

/-! ### What leaves `nv` alone -/

@[simp] theorem State.setReg_nv (off : Nat) (w : Word) : (s.setReg off w).nv = s.nv := rfl
@[simp] theorem State.setHd_nv (h : Nat) (f : HeadState → HeadState) : (s.setHd h f).nv = s.nv := rfl
@[simp] theorem State.setDsm_nv (f : Densum → Densum) : (s.setDsm f).nv = s.nv := rfl
@[simp] theorem State.wr_nv (f : Fld) (v : Nat) : (s.wr f v).nv = s.nv := rfl
@[simp] theorem State.setLay_nv (l : Nat) (f : LayerState → LayerState) : (s.setLay l f).nv = s.nv := rfl
@[simp] theorem State.setDdr_nv (f : Ddr → Ddr) : (s.setDdr f).nv = s.nv := rfl
@[simp] theorem State.count_nv (f : Fld) (n : Nat) : (s.count f n).nv = s.nv := rfl
@[simp] theorem State.setStrm_nv (k : Nat) (f : Stream → Stream) : (s.setStrm k f).nv = s.nv := rfl
@[simp] theorem State.setBlt_nv (f : Blt → Blt) : (s.setBlt f).nv = s.nv := rfl
@[simp] theorem State.setArm_nv (r : Requester) (b : Bool) : (s.setArm r b).nv = s.nv := rfl
@[simp] theorem State.setSp_nv (p : Nat) (f : SheetPort → SheetPort) : (s.setSp p f).nv = s.nv := rfl
@[simp] theorem State.setDup_nv (f : Duplex → Duplex) : (s.setDup f).nv = s.nv := rfl
@[simp] theorem State.setLive_nv (off : Nat) (w : Word) : (s.setLive off w).nv = s.nv := rfl
@[simp] theorem State.setChan_nv (c : Nat) (f : DdrChan → DdrChan) : (s.setChan c f).nv = s.nv := rfl
@[simp] theorem State.setRing_nv (f : Ring → Ring) : (s.setRing f).nv = s.nv := rfl
@[simp] theorem State.setByte_nv (a : Nat) (v : Byte) : (s.setByte a v).nv = s.nv := rfl
@[simp] theorem State.setDch_nv (c : Nat) (f : DmaChan → DmaChan) : (s.setDch c f).nv = s.nv := rfl
@[simp] theorem State.setClocks_nv (f : Clocks → Clocks) : (s.setClocks f).nv = s.nv := rfl
@[simp] theorem State.setLinePoison_nv (a : Nat) (p : Bool) : (s.setLinePoison a p).nv = s.nv := rfl
@[simp] theorem State.setRport_nv (p : Nat) (f : RingPort → RingPort) : (s.setRport p f).nv = s.nv := rfl
@[simp] theorem State.setPwr_nv (f : Power → Power) : (s.setPwr f).nv = s.nv := rfl
@[simp] theorem State.setMsix_nv (v : Fin 64) (e : MsixEntry) : (s.setMsix v e).nv = s.nv := rfl
@[simp] theorem State.setPll_nv (n : Nat) (f : Pll → Pll) : (s.setPll n f).nv = s.nv := rfl
@[simp] theorem State.setShroud_nv (f : Shroud → Shroud) : (s.setShroud f).nv = s.nv := rfl
@[simp] theorem State.emit_nv (o : Output) : (s.emit o).nv = s.nv := rfl

/-! ### What leaves `power` alone -/

@[simp] theorem State.setReg_power (off : Nat) (w : Word) : (s.setReg off w).power = s.power := rfl
@[simp] theorem State.setHd_power (h : Nat) (f : HeadState → HeadState) : (s.setHd h f).power = s.power := rfl
@[simp] theorem State.setDsm_power (f : Densum → Densum) : (s.setDsm f).power = s.power := rfl
@[simp] theorem State.wr_power (f : Fld) (v : Nat) : (s.wr f v).power = s.power := rfl
@[simp] theorem State.setLay_power (l : Nat) (f : LayerState → LayerState) : (s.setLay l f).power = s.power := rfl
@[simp] theorem State.setDdr_power (f : Ddr → Ddr) : (s.setDdr f).power = s.power := rfl
@[simp] theorem State.count_power (f : Fld) (n : Nat) : (s.count f n).power = s.power := rfl
@[simp] theorem State.setStrm_power (k : Nat) (f : Stream → Stream) : (s.setStrm k f).power = s.power := rfl
@[simp] theorem State.setBlt_power (f : Blt → Blt) : (s.setBlt f).power = s.power := rfl
@[simp] theorem State.setArm_power (r : Requester) (b : Bool) : (s.setArm r b).power = s.power := rfl
@[simp] theorem State.setSp_power (p : Nat) (f : SheetPort → SheetPort) : (s.setSp p f).power = s.power := rfl
@[simp] theorem State.setDup_power (f : Duplex → Duplex) : (s.setDup f).power = s.power := rfl
@[simp] theorem State.setLive_power (off : Nat) (w : Word) : (s.setLive off w).power = s.power := rfl
@[simp] theorem State.setChan_power (c : Nat) (f : DdrChan → DdrChan) : (s.setChan c f).power = s.power := rfl
@[simp] theorem State.setRing_power (f : Ring → Ring) : (s.setRing f).power = s.power := rfl
@[simp] theorem State.setByte_power (a : Nat) (v : Byte) : (s.setByte a v).power = s.power := rfl
@[simp] theorem State.setDch_power (c : Nat) (f : DmaChan → DmaChan) : (s.setDch c f).power = s.power := rfl
@[simp] theorem State.setClocks_power (f : Clocks → Clocks) : (s.setClocks f).power = s.power := rfl
@[simp] theorem State.setLinePoison_power (a : Nat) (p : Bool) : (s.setLinePoison a p).power = s.power := rfl
@[simp] theorem State.setRport_power (p : Nat) (f : RingPort → RingPort) : (s.setRport p f).power = s.power := rfl
@[simp] theorem State.setNv_power (f : Nv → Nv) : (s.setNv f).power = s.power := rfl
@[simp] theorem State.setMsix_power (v : Fin 64) (e : MsixEntry) : (s.setMsix v e).power = s.power := rfl
@[simp] theorem State.setPll_power (n : Nat) (f : Pll → Pll) : (s.setPll n f).power = s.power := rfl
@[simp] theorem State.setShroud_power (f : Shroud → Shroud) : (s.setShroud f).power = s.power := rfl
@[simp] theorem State.emit_power (o : Output) : (s.emit o).power = s.power := rfl

/-! ### What leaves `time` alone -/

@[simp] theorem State.setDsm_time (f : Densum → Densum) : (s.setDsm f).time = s.time := rfl
@[simp] theorem State.setReg_time (off : Nat) (w : Word) : (s.setReg off w).time = s.time := rfl
@[simp] theorem State.setHd_time (h : Nat) (f : HeadState → HeadState) : (s.setHd h f).time = s.time := rfl
@[simp] theorem State.setDdr_time (f : Ddr → Ddr) : (s.setDdr f).time = s.time := rfl
@[simp] theorem State.wr_time (f : Fld) (v : Nat) : (s.wr f v).time = s.time := rfl
@[simp] theorem State.setLay_time (l : Nat) (f : LayerState → LayerState) : (s.setLay l f).time = s.time := rfl
@[simp] theorem State.setBlt_time (f : Blt → Blt) : (s.setBlt f).time = s.time := rfl
@[simp] theorem State.count_time (f : Fld) (n : Nat) : (s.count f n).time = s.time := rfl
@[simp] theorem State.setStrm_time (k : Nat) (f : Stream → Stream) : (s.setStrm k f).time = s.time := rfl
@[simp] theorem State.setDup_time (f : Duplex → Duplex) : (s.setDup f).time = s.time := rfl
@[simp] theorem State.setArm_time (r : Requester) (b : Bool) : (s.setArm r b).time = s.time := rfl
@[simp] theorem State.setSp_time (p : Nat) (f : SheetPort → SheetPort) : (s.setSp p f).time = s.time := rfl
@[simp] theorem State.setRing_time (f : Ring → Ring) : (s.setRing f).time = s.time := rfl
@[simp] theorem State.setLive_time (off : Nat) (w : Word) : (s.setLive off w).time = s.time := rfl
@[simp] theorem State.setChan_time (c : Nat) (f : DdrChan → DdrChan) : (s.setChan c f).time = s.time := rfl
@[simp] theorem State.setClocks_time (f : Clocks → Clocks) : (s.setClocks f).time = s.time := rfl
@[simp] theorem State.setByte_time (a : Nat) (v : Byte) : (s.setByte a v).time = s.time := rfl
@[simp] theorem State.setDch_time (c : Nat) (f : DmaChan → DmaChan) : (s.setDch c f).time = s.time := rfl
@[simp] theorem State.setNv_time (f : Nv → Nv) : (s.setNv f).time = s.time := rfl
@[simp] theorem State.setLinePoison_time (a : Nat) (p : Bool) : (s.setLinePoison a p).time = s.time := rfl
@[simp] theorem State.setRport_time (p : Nat) (f : RingPort → RingPort) : (s.setRport p f).time = s.time := rfl
@[simp] theorem State.setPwr_time (f : Power → Power) : (s.setPwr f).time = s.time := rfl
@[simp] theorem State.setMsix_time (v : Fin 64) (e : MsixEntry) : (s.setMsix v e).time = s.time := rfl
@[simp] theorem State.setPll_time (n : Nat) (f : Pll → Pll) : (s.setPll n f).time = s.time := rfl
@[simp] theorem State.setShroud_time (f : Shroud → Shroud) : (s.setShroud f).time = s.time := rfl
@[simp] theorem State.emit_time (o : Output) : (s.emit o).time = s.time := rfl

/-! ### What leaves `heads` alone -/

@[simp] theorem State.setDsm_heads (f : Densum → Densum) : (s.setDsm f).heads = s.heads := rfl
@[simp] theorem State.setReg_heads (off : Nat) (w : Word) : (s.setReg off w).heads = s.heads := rfl
@[simp] theorem State.setDdr_heads (f : Ddr → Ddr) : (s.setDdr f).heads = s.heads := rfl
@[simp] theorem State.wr_heads (f : Fld) (v : Nat) : (s.wr f v).heads = s.heads := rfl
@[simp] theorem State.setLay_heads (l : Nat) (f : LayerState → LayerState) : (s.setLay l f).heads = s.heads := rfl
@[simp] theorem State.setBlt_heads (f : Blt → Blt) : (s.setBlt f).heads = s.heads := rfl
@[simp] theorem State.count_heads (f : Fld) (n : Nat) : (s.count f n).heads = s.heads := rfl
@[simp] theorem State.setStrm_heads (k : Nat) (f : Stream → Stream) : (s.setStrm k f).heads = s.heads := rfl
@[simp] theorem State.setDup_heads (f : Duplex → Duplex) : (s.setDup f).heads = s.heads := rfl
@[simp] theorem State.setArm_heads (r : Requester) (b : Bool) : (s.setArm r b).heads = s.heads := rfl
@[simp] theorem State.setSp_heads (p : Nat) (f : SheetPort → SheetPort) : (s.setSp p f).heads = s.heads := rfl
@[simp] theorem State.setRing_heads (f : Ring → Ring) : (s.setRing f).heads = s.heads := rfl
@[simp] theorem State.setLive_heads (off : Nat) (w : Word) : (s.setLive off w).heads = s.heads := rfl
@[simp] theorem State.setChan_heads (c : Nat) (f : DdrChan → DdrChan) : (s.setChan c f).heads = s.heads := rfl
@[simp] theorem State.setClocks_heads (f : Clocks → Clocks) : (s.setClocks f).heads = s.heads := rfl
@[simp] theorem State.setByte_heads (a : Nat) (v : Byte) : (s.setByte a v).heads = s.heads := rfl
@[simp] theorem State.setDch_heads (c : Nat) (f : DmaChan → DmaChan) : (s.setDch c f).heads = s.heads := rfl
@[simp] theorem State.setNv_heads (f : Nv → Nv) : (s.setNv f).heads = s.heads := rfl
@[simp] theorem State.setLinePoison_heads (a : Nat) (p : Bool) : (s.setLinePoison a p).heads = s.heads := rfl
@[simp] theorem State.setRport_heads (p : Nat) (f : RingPort → RingPort) : (s.setRport p f).heads = s.heads := rfl
@[simp] theorem State.setPwr_heads (f : Power → Power) : (s.setPwr f).heads = s.heads := rfl
@[simp] theorem State.setMsix_heads (v : Fin 64) (e : MsixEntry) : (s.setMsix v e).heads = s.heads := rfl
@[simp] theorem State.setPll_heads (n : Nat) (f : Pll → Pll) : (s.setPll n f).heads = s.heads := rfl
@[simp] theorem State.setShroud_heads (f : Shroud → Shroud) : (s.setShroud f).heads = s.heads := rfl
@[simp] theorem State.emit_heads (o : Output) : (s.emit o).heads = s.heads := rfl

/-! ### What leaves `layers` alone -/

@[simp] theorem State.setDsm_layers (f : Densum → Densum) : (s.setDsm f).layers = s.layers := rfl
@[simp] theorem State.setReg_layers (off : Nat) (w : Word) : (s.setReg off w).layers = s.layers := rfl
@[simp] theorem State.setDdr_layers (f : Ddr → Ddr) : (s.setDdr f).layers = s.layers := rfl
@[simp] theorem State.wr_layers (f : Fld) (v : Nat) : (s.wr f v).layers = s.layers := rfl
@[simp] theorem State.setHd_layers (h : Nat) (f : HeadState → HeadState) : (s.setHd h f).layers = s.layers := rfl
@[simp] theorem State.setBlt_layers (f : Blt → Blt) : (s.setBlt f).layers = s.layers := rfl
@[simp] theorem State.count_layers (f : Fld) (n : Nat) : (s.count f n).layers = s.layers := rfl
@[simp] theorem State.setStrm_layers (k : Nat) (f : Stream → Stream) : (s.setStrm k f).layers = s.layers := rfl
@[simp] theorem State.setDup_layers (f : Duplex → Duplex) : (s.setDup f).layers = s.layers := rfl
@[simp] theorem State.setArm_layers (r : Requester) (b : Bool) : (s.setArm r b).layers = s.layers := rfl
@[simp] theorem State.setSp_layers (p : Nat) (f : SheetPort → SheetPort) : (s.setSp p f).layers = s.layers := rfl
@[simp] theorem State.setRing_layers (f : Ring → Ring) : (s.setRing f).layers = s.layers := rfl
@[simp] theorem State.setLive_layers (off : Nat) (w : Word) : (s.setLive off w).layers = s.layers := rfl
@[simp] theorem State.setChan_layers (c : Nat) (f : DdrChan → DdrChan) : (s.setChan c f).layers = s.layers := rfl
@[simp] theorem State.setClocks_layers (f : Clocks → Clocks) : (s.setClocks f).layers = s.layers := rfl
@[simp] theorem State.setByte_layers (a : Nat) (v : Byte) : (s.setByte a v).layers = s.layers := rfl
@[simp] theorem State.setDch_layers (c : Nat) (f : DmaChan → DmaChan) : (s.setDch c f).layers = s.layers := rfl
@[simp] theorem State.setNv_layers (f : Nv → Nv) : (s.setNv f).layers = s.layers := rfl
@[simp] theorem State.setLinePoison_layers (a : Nat) (p : Bool) : (s.setLinePoison a p).layers = s.layers := rfl
@[simp] theorem State.setRport_layers (p : Nat) (f : RingPort → RingPort) : (s.setRport p f).layers = s.layers := rfl
@[simp] theorem State.setPwr_layers (f : Power → Power) : (s.setPwr f).layers = s.layers := rfl
@[simp] theorem State.setMsix_layers (v : Fin 64) (e : MsixEntry) : (s.setMsix v e).layers = s.layers := rfl
@[simp] theorem State.setPll_layers (n : Nat) (f : Pll → Pll) : (s.setPll n f).layers = s.layers := rfl
@[simp] theorem State.setShroud_layers (f : Shroud → Shroud) : (s.setShroud f).layers = s.layers := rfl
@[simp] theorem State.emit_layers (o : Output) : (s.emit o).layers = s.layers := rfl

/-! ### What leaves `luts` alone -/

@[simp] theorem State.setDsm_luts (f : Densum → Densum) : (s.setDsm f).luts = s.luts := rfl
@[simp] theorem State.setReg_luts (off : Nat) (w : Word) : (s.setReg off w).luts = s.luts := rfl
@[simp] theorem State.setHd_luts (h : Nat) (f : HeadState → HeadState) : (s.setHd h f).luts = s.luts := rfl
@[simp] theorem State.setDdr_luts (f : Ddr → Ddr) : (s.setDdr f).luts = s.luts := rfl
@[simp] theorem State.wr_luts (f : Fld) (v : Nat) : (s.wr f v).luts = s.luts := rfl
@[simp] theorem State.setLay_luts (l : Nat) (f : LayerState → LayerState) : (s.setLay l f).luts = s.luts := rfl
@[simp] theorem State.setBlt_luts (f : Blt → Blt) : (s.setBlt f).luts = s.luts := rfl
@[simp] theorem State.count_luts (f : Fld) (n : Nat) : (s.count f n).luts = s.luts := rfl
@[simp] theorem State.setStrm_luts (k : Nat) (f : Stream → Stream) : (s.setStrm k f).luts = s.luts := rfl
@[simp] theorem State.setDup_luts (f : Duplex → Duplex) : (s.setDup f).luts = s.luts := rfl
@[simp] theorem State.setArm_luts (r : Requester) (b : Bool) : (s.setArm r b).luts = s.luts := rfl
@[simp] theorem State.setSp_luts (p : Nat) (f : SheetPort → SheetPort) : (s.setSp p f).luts = s.luts := rfl
@[simp] theorem State.setRing_luts (f : Ring → Ring) : (s.setRing f).luts = s.luts := rfl
@[simp] theorem State.setLive_luts (off : Nat) (w : Word) : (s.setLive off w).luts = s.luts := rfl
@[simp] theorem State.setChan_luts (c : Nat) (f : DdrChan → DdrChan) : (s.setChan c f).luts = s.luts := rfl
@[simp] theorem State.setClocks_luts (f : Clocks → Clocks) : (s.setClocks f).luts = s.luts := rfl
@[simp] theorem State.setByte_luts (a : Nat) (v : Byte) : (s.setByte a v).luts = s.luts := rfl
@[simp] theorem State.setDch_luts (c : Nat) (f : DmaChan → DmaChan) : (s.setDch c f).luts = s.luts := rfl
@[simp] theorem State.setNv_luts (f : Nv → Nv) : (s.setNv f).luts = s.luts := rfl
@[simp] theorem State.setLinePoison_luts (a : Nat) (p : Bool) : (s.setLinePoison a p).luts = s.luts := rfl
@[simp] theorem State.setRport_luts (p : Nat) (f : RingPort → RingPort) : (s.setRport p f).luts = s.luts := rfl
@[simp] theorem State.setPwr_luts (f : Power → Power) : (s.setPwr f).luts = s.luts := rfl
@[simp] theorem State.setMsix_luts (v : Fin 64) (e : MsixEntry) : (s.setMsix v e).luts = s.luts := rfl
@[simp] theorem State.setPll_luts (n : Nat) (f : Pll → Pll) : (s.setPll n f).luts = s.luts := rfl
@[simp] theorem State.setShroud_luts (f : Shroud → Shroud) : (s.setShroud f).luts = s.luts := rfl
@[simp] theorem State.emit_luts (o : Output) : (s.emit o).luts = s.luts := rfl

/-! ### What leaves `sheet` alone -/

@[simp] theorem State.setDsm_sheet (f : Densum → Densum) : (s.setDsm f).sheet = s.sheet := rfl
@[simp] theorem State.setReg_sheet (off : Nat) (w : Word) : (s.setReg off w).sheet = s.sheet := rfl
@[simp] theorem State.setDdr_sheet (f : Ddr → Ddr) : (s.setDdr f).sheet = s.sheet := rfl
@[simp] theorem State.wr_sheet (f : Fld) (v : Nat) : (s.wr f v).sheet = s.sheet := rfl
@[simp] theorem State.setHd_sheet (h : Nat) (f : HeadState → HeadState) : (s.setHd h f).sheet = s.sheet := rfl
@[simp] theorem State.setBlt_sheet (f : Blt → Blt) : (s.setBlt f).sheet = s.sheet := rfl
@[simp] theorem State.count_sheet (f : Fld) (n : Nat) : (s.count f n).sheet = s.sheet := rfl
@[simp] theorem State.setLay_sheet (l : Nat) (f : LayerState → LayerState) : (s.setLay l f).sheet = s.sheet := rfl
@[simp] theorem State.setDup_sheet (f : Duplex → Duplex) : (s.setDup f).sheet = s.sheet := rfl
@[simp] theorem State.setArm_sheet (r : Requester) (b : Bool) : (s.setArm r b).sheet = s.sheet := rfl
@[simp] theorem State.setStrm_sheet (k : Nat) (f : Stream → Stream) : (s.setStrm k f).sheet = s.sheet := rfl
@[simp] theorem State.setRing_sheet (f : Ring → Ring) : (s.setRing f).sheet = s.sheet := rfl
@[simp] theorem State.setLive_sheet (off : Nat) (w : Word) : (s.setLive off w).sheet = s.sheet := rfl
@[simp] theorem State.setChan_sheet (c : Nat) (f : DdrChan → DdrChan) : (s.setChan c f).sheet = s.sheet := rfl
@[simp] theorem State.setClocks_sheet (f : Clocks → Clocks) : (s.setClocks f).sheet = s.sheet := rfl
@[simp] theorem State.setByte_sheet (a : Nat) (v : Byte) : (s.setByte a v).sheet = s.sheet := rfl
@[simp] theorem State.setDch_sheet (c : Nat) (f : DmaChan → DmaChan) : (s.setDch c f).sheet = s.sheet := rfl
@[simp] theorem State.setNv_sheet (f : Nv → Nv) : (s.setNv f).sheet = s.sheet := rfl
@[simp] theorem State.setLinePoison_sheet (a : Nat) (p : Bool) : (s.setLinePoison a p).sheet = s.sheet := rfl
@[simp] theorem State.setRport_sheet (p : Nat) (f : RingPort → RingPort) : (s.setRport p f).sheet = s.sheet := rfl
@[simp] theorem State.setPwr_sheet (f : Power → Power) : (s.setPwr f).sheet = s.sheet := rfl
@[simp] theorem State.setMsix_sheet (v : Fin 64) (e : MsixEntry) : (s.setMsix v e).sheet = s.sheet := rfl
@[simp] theorem State.setPll_sheet (n : Nat) (f : Pll → Pll) : (s.setPll n f).sheet = s.sheet := rfl
@[simp] theorem State.setShroud_sheet (f : Shroud → Shroud) : (s.setShroud f).sheet = s.sheet := rfl
@[simp] theorem State.emit_sheet (o : Output) : (s.emit o).sheet = s.sheet := rfl

/-! ### What leaves `ingest` alone -/

@[simp] theorem State.setDsm_ingest (f : Densum → Densum) : (s.setDsm f).ingest = s.ingest := rfl
@[simp] theorem State.setReg_ingest (off : Nat) (w : Word) : (s.setReg off w).ingest = s.ingest := rfl
@[simp] theorem State.setDdr_ingest (f : Ddr → Ddr) : (s.setDdr f).ingest = s.ingest := rfl
@[simp] theorem State.wr_ingest (f : Fld) (v : Nat) : (s.wr f v).ingest = s.ingest := rfl
@[simp] theorem State.setHd_ingest (h : Nat) (f : HeadState → HeadState) : (s.setHd h f).ingest = s.ingest := rfl
@[simp] theorem State.setBlt_ingest (f : Blt → Blt) : (s.setBlt f).ingest = s.ingest := rfl
@[simp] theorem State.count_ingest (f : Fld) (n : Nat) : (s.count f n).ingest = s.ingest := rfl
@[simp] theorem State.setLay_ingest (l : Nat) (f : LayerState → LayerState) : (s.setLay l f).ingest = s.ingest := rfl
@[simp] theorem State.setDup_ingest (f : Duplex → Duplex) : (s.setDup f).ingest = s.ingest := rfl
@[simp] theorem State.setArm_ingest (r : Requester) (b : Bool) : (s.setArm r b).ingest = s.ingest := rfl
@[simp] theorem State.setSp_ingest (p : Nat) (f : SheetPort → SheetPort) : (s.setSp p f).ingest = s.ingest := rfl
@[simp] theorem State.setRing_ingest (f : Ring → Ring) : (s.setRing f).ingest = s.ingest := rfl
@[simp] theorem State.setLive_ingest (off : Nat) (w : Word) : (s.setLive off w).ingest = s.ingest := rfl
@[simp] theorem State.setChan_ingest (c : Nat) (f : DdrChan → DdrChan) : (s.setChan c f).ingest = s.ingest := rfl
@[simp] theorem State.setClocks_ingest (f : Clocks → Clocks) : (s.setClocks f).ingest = s.ingest := rfl
@[simp] theorem State.setByte_ingest (a : Nat) (v : Byte) : (s.setByte a v).ingest = s.ingest := rfl
@[simp] theorem State.setDch_ingest (c : Nat) (f : DmaChan → DmaChan) : (s.setDch c f).ingest = s.ingest := rfl
@[simp] theorem State.setNv_ingest (f : Nv → Nv) : (s.setNv f).ingest = s.ingest := rfl
@[simp] theorem State.setLinePoison_ingest (a : Nat) (p : Bool) : (s.setLinePoison a p).ingest = s.ingest := rfl
@[simp] theorem State.setRport_ingest (p : Nat) (f : RingPort → RingPort) : (s.setRport p f).ingest = s.ingest := rfl
@[simp] theorem State.setPwr_ingest (f : Power → Power) : (s.setPwr f).ingest = s.ingest := rfl
@[simp] theorem State.setMsix_ingest (v : Fin 64) (e : MsixEntry) : (s.setMsix v e).ingest = s.ingest := rfl
@[simp] theorem State.setPll_ingest (n : Nat) (f : Pll → Pll) : (s.setPll n f).ingest = s.ingest := rfl
@[simp] theorem State.setShroud_ingest (f : Shroud → Shroud) : (s.setShroud f).ingest = s.ingest := rfl
@[simp] theorem State.emit_ingest (o : Output) : (s.emit o).ingest = s.ingest := rfl

/-! ### What leaves `clocks` alone -/

@[simp] theorem State.setReg_clocks (off : Nat) (w : Word) : (s.setReg off w).clocks = s.clocks := rfl
@[simp] theorem State.setDsm_clocks (f : Densum → Densum) : (s.setDsm f).clocks = s.clocks := rfl
@[simp] theorem State.wr_clocks (f : Fld) (v : Nat) : (s.wr f v).clocks = s.clocks := rfl
@[simp] theorem State.setHd_clocks (h : Nat) (f : HeadState → HeadState) : (s.setHd h f).clocks = s.clocks := rfl
@[simp] theorem State.setDdr_clocks (f : Ddr → Ddr) : (s.setDdr f).clocks = s.clocks := rfl
@[simp] theorem State.count_clocks (f : Fld) (n : Nat) : (s.count f n).clocks = s.clocks := rfl
@[simp] theorem State.setLay_clocks (l : Nat) (f : LayerState → LayerState) : (s.setLay l f).clocks = s.clocks := rfl
@[simp] theorem State.setBlt_clocks (f : Blt → Blt) : (s.setBlt f).clocks = s.clocks := rfl
@[simp] theorem State.setArm_clocks (r : Requester) (b : Bool) : (s.setArm r b).clocks = s.clocks := rfl
@[simp] theorem State.setStrm_clocks (k : Nat) (f : Stream → Stream) : (s.setStrm k f).clocks = s.clocks := rfl
@[simp] theorem State.setDup_clocks (f : Duplex → Duplex) : (s.setDup f).clocks = s.clocks := rfl
@[simp] theorem State.setLive_clocks (off : Nat) (w : Word) : (s.setLive off w).clocks = s.clocks := rfl
@[simp] theorem State.setSp_clocks (p : Nat) (f : SheetPort → SheetPort) : (s.setSp p f).clocks = s.clocks := rfl
@[simp] theorem State.setRing_clocks (f : Ring → Ring) : (s.setRing f).clocks = s.clocks := rfl
@[simp] theorem State.setByte_clocks (a : Nat) (v : Byte) : (s.setByte a v).clocks = s.clocks := rfl
@[simp] theorem State.setChan_clocks (c : Nat) (f : DdrChan → DdrChan) : (s.setChan c f).clocks = s.clocks := rfl
@[simp] theorem State.setNv_clocks (f : Nv → Nv) : (s.setNv f).clocks = s.clocks := rfl
@[simp] theorem State.setLinePoison_clocks (a : Nat) (p : Bool) : (s.setLinePoison a p).clocks = s.clocks := rfl
@[simp] theorem State.setDch_clocks (c : Nat) (f : DmaChan → DmaChan) : (s.setDch c f).clocks = s.clocks := rfl
@[simp] theorem State.setPwr_clocks (f : Power → Power) : (s.setPwr f).clocks = s.clocks := rfl
@[simp] theorem State.setMsix_clocks (v : Fin 64) (e : MsixEntry) : (s.setMsix v e).clocks = s.clocks := rfl
@[simp] theorem State.setRport_clocks (p : Nat) (f : RingPort → RingPort) : (s.setRport p f).clocks = s.clocks := rfl
@[simp] theorem State.setShroud_clocks (f : Shroud → Shroud) : (s.setShroud f).clocks = s.clocks := rfl
@[simp] theorem State.emit_clocks (o : Output) : (s.emit o).clocks = s.clocks := rfl

/-! ### What leaves `dma` alone -/

@[simp] theorem State.setDsm_dma (f : Densum → Densum) : (s.setDsm f).dma = s.dma := rfl
@[simp] theorem State.setReg_dma (off : Nat) (w : Word) : (s.setReg off w).dma = s.dma := rfl
@[simp] theorem State.setDdr_dma (f : Ddr → Ddr) : (s.setDdr f).dma = s.dma := rfl
@[simp] theorem State.wr_dma (f : Fld) (v : Nat) : (s.wr f v).dma = s.dma := rfl
@[simp] theorem State.setHd_dma (h : Nat) (f : HeadState → HeadState) : (s.setHd h f).dma = s.dma := rfl
@[simp] theorem State.setBlt_dma (f : Blt → Blt) : (s.setBlt f).dma = s.dma := rfl
@[simp] theorem State.count_dma (f : Fld) (n : Nat) : (s.count f n).dma = s.dma := rfl
@[simp] theorem State.setLay_dma (l : Nat) (f : LayerState → LayerState) : (s.setLay l f).dma = s.dma := rfl
@[simp] theorem State.setDup_dma (f : Duplex → Duplex) : (s.setDup f).dma = s.dma := rfl
@[simp] theorem State.setArm_dma (r : Requester) (b : Bool) : (s.setArm r b).dma = s.dma := rfl
@[simp] theorem State.setStrm_dma (k : Nat) (f : Stream → Stream) : (s.setStrm k f).dma = s.dma := rfl
@[simp] theorem State.setRing_dma (f : Ring → Ring) : (s.setRing f).dma = s.dma := rfl
@[simp] theorem State.setLive_dma (off : Nat) (w : Word) : (s.setLive off w).dma = s.dma := rfl
@[simp] theorem State.setSp_dma (p : Nat) (f : SheetPort → SheetPort) : (s.setSp p f).dma = s.dma := rfl
@[simp] theorem State.setClocks_dma (f : Clocks → Clocks) : (s.setClocks f).dma = s.dma := rfl
@[simp] theorem State.setByte_dma (a : Nat) (v : Byte) : (s.setByte a v).dma = s.dma := rfl
@[simp] theorem State.setChan_dma (c : Nat) (f : DdrChan → DdrChan) : (s.setChan c f).dma = s.dma := rfl
@[simp] theorem State.setNv_dma (f : Nv → Nv) : (s.setNv f).dma = s.dma := rfl
@[simp] theorem State.setLinePoison_dma (a : Nat) (p : Bool) : (s.setLinePoison a p).dma = s.dma := rfl
@[simp] theorem State.setRport_dma (p : Nat) (f : RingPort → RingPort) : (s.setRport p f).dma = s.dma := rfl
@[simp] theorem State.setPwr_dma (f : Power → Power) : (s.setPwr f).dma = s.dma := rfl
@[simp] theorem State.setMsix_dma (v : Fin 64) (e : MsixEntry) : (s.setMsix v e).dma = s.dma := rfl
@[simp] theorem State.setPll_dma (n : Nat) (f : Pll → Pll) : (s.setPll n f).dma = s.dma := rfl
@[simp] theorem State.setShroud_dma (f : Shroud → Shroud) : (s.setShroud f).dma = s.dma := rfl
@[simp] theorem State.emit_dma (o : Output) : (s.emit o).dma = s.dma := rfl

/-! ### What leaves `dmaServed` alone -/

@[simp] theorem State.setDsm_dmaServed (f : Densum → Densum) : (s.setDsm f).dmaServed = s.dmaServed := rfl
@[simp] theorem State.setReg_dmaServed (off : Nat) (w : Word) : (s.setReg off w).dmaServed = s.dmaServed := rfl
@[simp] theorem State.setHd_dmaServed (h : Nat) (f : HeadState → HeadState) : (s.setHd h f).dmaServed = s.dmaServed := rfl
@[simp] theorem State.setDdr_dmaServed (f : Ddr → Ddr) : (s.setDdr f).dmaServed = s.dmaServed := rfl
@[simp] theorem State.wr_dmaServed (f : Fld) (v : Nat) : (s.wr f v).dmaServed = s.dmaServed := rfl
@[simp] theorem State.setLay_dmaServed (l : Nat) (f : LayerState → LayerState) : (s.setLay l f).dmaServed = s.dmaServed := rfl
@[simp] theorem State.setBlt_dmaServed (f : Blt → Blt) : (s.setBlt f).dmaServed = s.dmaServed := rfl
@[simp] theorem State.count_dmaServed (f : Fld) (n : Nat) : (s.count f n).dmaServed = s.dmaServed := rfl
@[simp] theorem State.setStrm_dmaServed (k : Nat) (f : Stream → Stream) : (s.setStrm k f).dmaServed = s.dmaServed := rfl
@[simp] theorem State.setDup_dmaServed (f : Duplex → Duplex) : (s.setDup f).dmaServed = s.dmaServed := rfl
@[simp] theorem State.setArm_dmaServed (r : Requester) (b : Bool) : (s.setArm r b).dmaServed = s.dmaServed := rfl
@[simp] theorem State.setSp_dmaServed (p : Nat) (f : SheetPort → SheetPort) : (s.setSp p f).dmaServed = s.dmaServed := rfl
@[simp] theorem State.setRing_dmaServed (f : Ring → Ring) : (s.setRing f).dmaServed = s.dmaServed := rfl
@[simp] theorem State.setLive_dmaServed (off : Nat) (w : Word) : (s.setLive off w).dmaServed = s.dmaServed := rfl
@[simp] theorem State.setChan_dmaServed (c : Nat) (f : DdrChan → DdrChan) : (s.setChan c f).dmaServed = s.dmaServed := rfl
@[simp] theorem State.setClocks_dmaServed (f : Clocks → Clocks) : (s.setClocks f).dmaServed = s.dmaServed := rfl
@[simp] theorem State.setByte_dmaServed (a : Nat) (v : Byte) : (s.setByte a v).dmaServed = s.dmaServed := rfl
@[simp] theorem State.setDch_dmaServed (c : Nat) (f : DmaChan → DmaChan) : (s.setDch c f).dmaServed = s.dmaServed := rfl
@[simp] theorem State.setNv_dmaServed (f : Nv → Nv) : (s.setNv f).dmaServed = s.dmaServed := rfl
@[simp] theorem State.setLinePoison_dmaServed (a : Nat) (p : Bool) : (s.setLinePoison a p).dmaServed = s.dmaServed := rfl
@[simp] theorem State.setRport_dmaServed (p : Nat) (f : RingPort → RingPort) : (s.setRport p f).dmaServed = s.dmaServed := rfl
@[simp] theorem State.setPwr_dmaServed (f : Power → Power) : (s.setPwr f).dmaServed = s.dmaServed := rfl
@[simp] theorem State.setMsix_dmaServed (v : Fin 64) (e : MsixEntry) : (s.setMsix v e).dmaServed = s.dmaServed := rfl
@[simp] theorem State.setPll_dmaServed (n : Nat) (f : Pll → Pll) : (s.setPll n f).dmaServed = s.dmaServed := rfl
@[simp] theorem State.setShroud_dmaServed (f : Shroud → Shroud) : (s.setShroud f).dmaServed = s.dmaServed := rfl
@[simp] theorem State.emit_dmaServed (o : Output) : (s.emit o).dmaServed = s.dmaServed := rfl

/-! ### What leaves `blt` alone -/

@[simp] theorem State.setReg_blt (off : Nat) (w : Word) : (s.setReg off w).blt = s.blt := rfl
@[simp] theorem State.setHd_blt (h : Nat) (f : HeadState → HeadState) : (s.setHd h f).blt = s.blt := rfl
@[simp] theorem State.setDsm_blt (f : Densum → Densum) : (s.setDsm f).blt = s.blt := rfl
@[simp] theorem State.wr_blt (f : Fld) (v : Nat) : (s.wr f v).blt = s.blt := rfl
@[simp] theorem State.setLay_blt (l : Nat) (f : LayerState → LayerState) : (s.setLay l f).blt = s.blt := rfl
@[simp] theorem State.setDdr_blt (f : Ddr → Ddr) : (s.setDdr f).blt = s.blt := rfl
@[simp] theorem State.count_blt (f : Fld) (n : Nat) : (s.count f n).blt = s.blt := rfl
@[simp] theorem State.setStrm_blt (k : Nat) (f : Stream → Stream) : (s.setStrm k f).blt = s.blt := rfl
@[simp] theorem State.setDup_blt (f : Duplex → Duplex) : (s.setDup f).blt = s.blt := rfl
@[simp] theorem State.setArm_blt (r : Requester) (b : Bool) : (s.setArm r b).blt = s.blt := rfl
@[simp] theorem State.setSp_blt (p : Nat) (f : SheetPort → SheetPort) : (s.setSp p f).blt = s.blt := rfl
@[simp] theorem State.setRing_blt (f : Ring → Ring) : (s.setRing f).blt = s.blt := rfl
@[simp] theorem State.setLive_blt (off : Nat) (w : Word) : (s.setLive off w).blt = s.blt := rfl
@[simp] theorem State.setChan_blt (c : Nat) (f : DdrChan → DdrChan) : (s.setChan c f).blt = s.blt := rfl
@[simp] theorem State.setClocks_blt (f : Clocks → Clocks) : (s.setClocks f).blt = s.blt := rfl
@[simp] theorem State.setByte_blt (a : Nat) (v : Byte) : (s.setByte a v).blt = s.blt := rfl
@[simp] theorem State.setDch_blt (c : Nat) (f : DmaChan → DmaChan) : (s.setDch c f).blt = s.blt := rfl
@[simp] theorem State.setNv_blt (f : Nv → Nv) : (s.setNv f).blt = s.blt := rfl
@[simp] theorem State.setLinePoison_blt (a : Nat) (p : Bool) : (s.setLinePoison a p).blt = s.blt := rfl
@[simp] theorem State.setRport_blt (p : Nat) (f : RingPort → RingPort) : (s.setRport p f).blt = s.blt := rfl
@[simp] theorem State.setPwr_blt (f : Power → Power) : (s.setPwr f).blt = s.blt := rfl
@[simp] theorem State.setMsix_blt (v : Fin 64) (e : MsixEntry) : (s.setMsix v e).blt = s.blt := rfl
@[simp] theorem State.setPll_blt (n : Nat) (f : Pll → Pll) : (s.setPll n f).blt = s.blt := rfl
@[simp] theorem State.setShroud_blt (f : Shroud → Shroud) : (s.setShroud f).blt = s.blt := rfl
@[simp] theorem State.emit_blt (o : Output) : (s.emit o).blt = s.blt := rfl

/-! ### What leaves `mainUp` alone -/

@[simp] theorem State.setDsm_mainUp (f : Densum → Densum) : (s.setDsm f).mainUp = s.mainUp := rfl
@[simp] theorem State.setReg_mainUp (off : Nat) (w : Word) : (s.setReg off w).mainUp = s.mainUp := rfl
@[simp] theorem State.setHd_mainUp (h : Nat) (f : HeadState → HeadState) : (s.setHd h f).mainUp = s.mainUp := rfl
@[simp] theorem State.setDdr_mainUp (f : Ddr → Ddr) : (s.setDdr f).mainUp = s.mainUp := rfl
@[simp] theorem State.wr_mainUp (f : Fld) (v : Nat) : (s.wr f v).mainUp = s.mainUp := rfl
@[simp] theorem State.setLay_mainUp (l : Nat) (f : LayerState → LayerState) : (s.setLay l f).mainUp = s.mainUp := rfl
@[simp] theorem State.setBlt_mainUp (f : Blt → Blt) : (s.setBlt f).mainUp = s.mainUp := rfl
@[simp] theorem State.count_mainUp (f : Fld) (n : Nat) : (s.count f n).mainUp = s.mainUp := rfl
@[simp] theorem State.setStrm_mainUp (k : Nat) (f : Stream → Stream) : (s.setStrm k f).mainUp = s.mainUp := rfl
@[simp] theorem State.setDup_mainUp (f : Duplex → Duplex) : (s.setDup f).mainUp = s.mainUp := rfl
@[simp] theorem State.setArm_mainUp (r : Requester) (b : Bool) : (s.setArm r b).mainUp = s.mainUp := rfl
@[simp] theorem State.setSp_mainUp (p : Nat) (f : SheetPort → SheetPort) : (s.setSp p f).mainUp = s.mainUp := rfl
@[simp] theorem State.setRing_mainUp (f : Ring → Ring) : (s.setRing f).mainUp = s.mainUp := rfl
@[simp] theorem State.setLive_mainUp (off : Nat) (w : Word) : (s.setLive off w).mainUp = s.mainUp := rfl
@[simp] theorem State.setChan_mainUp (c : Nat) (f : DdrChan → DdrChan) : (s.setChan c f).mainUp = s.mainUp := rfl
@[simp] theorem State.setClocks_mainUp (f : Clocks → Clocks) : (s.setClocks f).mainUp = s.mainUp := rfl
@[simp] theorem State.setByte_mainUp (a : Nat) (v : Byte) : (s.setByte a v).mainUp = s.mainUp := rfl
@[simp] theorem State.setDch_mainUp (c : Nat) (f : DmaChan → DmaChan) : (s.setDch c f).mainUp = s.mainUp := rfl
@[simp] theorem State.setNv_mainUp (f : Nv → Nv) : (s.setNv f).mainUp = s.mainUp := rfl
@[simp] theorem State.setLinePoison_mainUp (a : Nat) (p : Bool) : (s.setLinePoison a p).mainUp = s.mainUp := rfl
@[simp] theorem State.setRport_mainUp (p : Nat) (f : RingPort → RingPort) : (s.setRport p f).mainUp = s.mainUp := rfl
@[simp] theorem State.setPwr_mainUp (f : Power → Power) : (s.setPwr f).mainUp = s.mainUp := rfl
@[simp] theorem State.setMsix_mainUp (v : Fin 64) (e : MsixEntry) : (s.setMsix v e).mainUp = s.mainUp := rfl
@[simp] theorem State.setPll_mainUp (n : Nat) (f : Pll → Pll) : (s.setPll n f).mainUp = s.mainUp := rfl
@[simp] theorem State.setShroud_mainUp (f : Shroud → Shroud) : (s.setShroud f).mainUp = s.mainUp := rfl
@[simp] theorem State.emit_mainUp (o : Output) : (s.emit o).mainUp = s.mainUp := rfl

/-! ### What leaves `reg` alone -/

@[simp] theorem State.setDsm_reg (f : Densum → Densum) (x : Nat) : (s.setDsm f).reg x = s.reg x := rfl
@[simp] theorem State.setHd_reg (h : Nat) (f : HeadState → HeadState) (x : Nat) : (s.setHd h f).reg x = s.reg x := rfl
@[simp] theorem State.setDdr_reg (f : Ddr → Ddr) (x : Nat) : (s.setDdr f).reg x = s.reg x := rfl
@[simp] theorem State.setLay_reg (l : Nat) (f : LayerState → LayerState) (x : Nat) : (s.setLay l f).reg x = s.reg x := rfl
@[simp] theorem State.setBlt_reg (f : Blt → Blt) (x : Nat) : (s.setBlt f).reg x = s.reg x := rfl
@[simp] theorem State.setStrm_reg (k : Nat) (f : Stream → Stream) (x : Nat) : (s.setStrm k f).reg x = s.reg x := rfl
@[simp] theorem State.setDup_reg (f : Duplex → Duplex) (x : Nat) : (s.setDup f).reg x = s.reg x := rfl
@[simp] theorem State.setSp_reg (p : Nat) (f : SheetPort → SheetPort) (x : Nat) : (s.setSp p f).reg x = s.reg x := rfl
@[simp] theorem State.setRing_reg (f : Ring → Ring) (x : Nat) : (s.setRing f).reg x = s.reg x := rfl
@[simp] theorem State.setLive_reg (off : Nat) (w : Word) (x : Nat) : (s.setLive off w).reg x = s.reg x := rfl
@[simp] theorem State.setChan_reg (c : Nat) (f : DdrChan → DdrChan) (x : Nat) : (s.setChan c f).reg x = s.reg x := rfl
@[simp] theorem State.setClocks_reg (f : Clocks → Clocks) (x : Nat) : (s.setClocks f).reg x = s.reg x := rfl
@[simp] theorem State.setByte_reg (a : Nat) (v : Byte) (x : Nat) : (s.setByte a v).reg x = s.reg x := rfl
@[simp] theorem State.setDch_reg (c : Nat) (f : DmaChan → DmaChan) (x : Nat) : (s.setDch c f).reg x = s.reg x := rfl
@[simp] theorem State.setNv_reg (f : Nv → Nv) (x : Nat) : (s.setNv f).reg x = s.reg x := rfl
@[simp] theorem State.setLinePoison_reg (a : Nat) (p : Bool) (x : Nat) : (s.setLinePoison a p).reg x = s.reg x := rfl
@[simp] theorem State.setRport_reg (p : Nat) (f : RingPort → RingPort) (x : Nat) : (s.setRport p f).reg x = s.reg x := rfl
@[simp] theorem State.setPwr_reg (f : Power → Power) (x : Nat) : (s.setPwr f).reg x = s.reg x := rfl
@[simp] theorem State.setMsix_reg (v : Fin 64) (e : MsixEntry) (x : Nat) : (s.setMsix v e).reg x = s.reg x := rfl
@[simp] theorem State.setPll_reg (n : Nat) (f : Pll → Pll) (x : Nat) : (s.setPll n f).reg x = s.reg x := rfl
@[simp] theorem State.setShroud_reg (f : Shroud → Shroud) (x : Nat) : (s.setShroud f).reg x = s.reg x := rfl
@[simp] theorem State.emit_reg (o : Output) (x : Nat) : (s.emit o).reg x = s.reg x := rfl

/-! ### What leaves `rd` alone -/

@[simp] theorem State.setDsm_rd (f : Densum → Densum) (x : Fld) : (s.setDsm f).rd x = s.rd x := rfl
@[simp] theorem State.setHd_rd (h : Nat) (f : HeadState → HeadState) (x : Fld) : (s.setHd h f).rd x = s.rd x := rfl
@[simp] theorem State.setDdr_rd (f : Ddr → Ddr) (x : Fld) : (s.setDdr f).rd x = s.rd x := rfl
@[simp] theorem State.setLay_rd (l : Nat) (f : LayerState → LayerState) (x : Fld) : (s.setLay l f).rd x = s.rd x := rfl
@[simp] theorem State.setBlt_rd (f : Blt → Blt) (x : Fld) : (s.setBlt f).rd x = s.rd x := rfl
@[simp] theorem State.setStrm_rd (k : Nat) (f : Stream → Stream) (x : Fld) : (s.setStrm k f).rd x = s.rd x := rfl
@[simp] theorem State.setDup_rd (f : Duplex → Duplex) (x : Fld) : (s.setDup f).rd x = s.rd x := rfl
@[simp] theorem State.setSp_rd (p : Nat) (f : SheetPort → SheetPort) (x : Fld) : (s.setSp p f).rd x = s.rd x := rfl
@[simp] theorem State.setRing_rd (f : Ring → Ring) (x : Fld) : (s.setRing f).rd x = s.rd x := rfl
@[simp] theorem State.setLive_rd (off : Nat) (w : Word) (x : Fld) : (s.setLive off w).rd x = s.rd x := rfl
@[simp] theorem State.setChan_rd (c : Nat) (f : DdrChan → DdrChan) (x : Fld) : (s.setChan c f).rd x = s.rd x := rfl
@[simp] theorem State.setClocks_rd (f : Clocks → Clocks) (x : Fld) : (s.setClocks f).rd x = s.rd x := rfl
@[simp] theorem State.setByte_rd (a : Nat) (v : Byte) (x : Fld) : (s.setByte a v).rd x = s.rd x := rfl
@[simp] theorem State.setDch_rd (c : Nat) (f : DmaChan → DmaChan) (x : Fld) : (s.setDch c f).rd x = s.rd x := rfl
@[simp] theorem State.setNv_rd (f : Nv → Nv) (x : Fld) : (s.setNv f).rd x = s.rd x := rfl
@[simp] theorem State.setLinePoison_rd (a : Nat) (p : Bool) (x : Fld) : (s.setLinePoison a p).rd x = s.rd x := rfl
@[simp] theorem State.setRport_rd (p : Nat) (f : RingPort → RingPort) (x : Fld) : (s.setRport p f).rd x = s.rd x := rfl
@[simp] theorem State.setPwr_rd (f : Power → Power) (x : Fld) : (s.setPwr f).rd x = s.rd x := rfl
@[simp] theorem State.setMsix_rd (v : Fin 64) (e : MsixEntry) (x : Fld) : (s.setMsix v e).rd x = s.rd x := rfl
@[simp] theorem State.setPll_rd (n : Nat) (f : Pll → Pll) (x : Fld) : (s.setPll n f).rd x = s.rd x := rfl
@[simp] theorem State.setShroud_rd (f : Shroud → Shroud) (x : Fld) : (s.setShroud f).rd x = s.rd x := rfl
@[simp] theorem State.emit_rd (o : Output) (x : Fld) : (s.emit o).rd x = s.rd x := rfl

/-! ### What leaves `flag` alone -/

@[simp] theorem State.setDsm_flag (f : Densum → Densum) (x : Fld) : (s.setDsm f).flag x = s.flag x := rfl
@[simp] theorem State.setHd_flag (h : Nat) (f : HeadState → HeadState) (x : Fld) : (s.setHd h f).flag x = s.flag x := rfl
@[simp] theorem State.setDdr_flag (f : Ddr → Ddr) (x : Fld) : (s.setDdr f).flag x = s.flag x := rfl
@[simp] theorem State.setLay_flag (l : Nat) (f : LayerState → LayerState) (x : Fld) : (s.setLay l f).flag x = s.flag x := rfl
@[simp] theorem State.setBlt_flag (f : Blt → Blt) (x : Fld) : (s.setBlt f).flag x = s.flag x := rfl
@[simp] theorem State.setStrm_flag (k : Nat) (f : Stream → Stream) (x : Fld) : (s.setStrm k f).flag x = s.flag x := rfl
@[simp] theorem State.setDup_flag (f : Duplex → Duplex) (x : Fld) : (s.setDup f).flag x = s.flag x := rfl
@[simp] theorem State.setSp_flag (p : Nat) (f : SheetPort → SheetPort) (x : Fld) : (s.setSp p f).flag x = s.flag x := rfl
@[simp] theorem State.setRing_flag (f : Ring → Ring) (x : Fld) : (s.setRing f).flag x = s.flag x := rfl
@[simp] theorem State.setLive_flag (off : Nat) (w : Word) (x : Fld) : (s.setLive off w).flag x = s.flag x := rfl
@[simp] theorem State.setChan_flag (c : Nat) (f : DdrChan → DdrChan) (x : Fld) : (s.setChan c f).flag x = s.flag x := rfl
@[simp] theorem State.setClocks_flag (f : Clocks → Clocks) (x : Fld) : (s.setClocks f).flag x = s.flag x := rfl
@[simp] theorem State.setByte_flag (a : Nat) (v : Byte) (x : Fld) : (s.setByte a v).flag x = s.flag x := rfl
@[simp] theorem State.setDch_flag (c : Nat) (f : DmaChan → DmaChan) (x : Fld) : (s.setDch c f).flag x = s.flag x := rfl
@[simp] theorem State.setNv_flag (f : Nv → Nv) (x : Fld) : (s.setNv f).flag x = s.flag x := rfl
@[simp] theorem State.setLinePoison_flag (a : Nat) (p : Bool) (x : Fld) : (s.setLinePoison a p).flag x = s.flag x := rfl
@[simp] theorem State.setRport_flag (p : Nat) (f : RingPort → RingPort) (x : Fld) : (s.setRport p f).flag x = s.flag x := rfl
@[simp] theorem State.setPwr_flag (f : Power → Power) (x : Fld) : (s.setPwr f).flag x = s.flag x := rfl
@[simp] theorem State.setMsix_flag (v : Fin 64) (e : MsixEntry) (x : Fld) : (s.setMsix v e).flag x = s.flag x := rfl
@[simp] theorem State.setPll_flag (n : Nat) (f : Pll → Pll) (x : Fld) : (s.setPll n f).flag x = s.flag x := rfl
@[simp] theorem State.setShroud_flag (f : Shroud → Shroud) (x : Fld) : (s.setShroud f).flag x = s.flag x := rfl
@[simp] theorem State.emit_flag (o : Output) (x : Fld) : (s.emit o).flag x = s.flag x := rfl

/-! ### What leaves `byte` alone -/

@[simp] theorem State.setDsm_byte (f : Densum → Densum) (x : Nat) : (s.setDsm f).byte x = s.byte x := rfl
@[simp] theorem State.setHd_byte (h : Nat) (f : HeadState → HeadState) (x : Nat) : (s.setHd h f).byte x = s.byte x := rfl
@[simp] theorem State.setDdr_byte (f : Ddr → Ddr) (x : Nat) : (s.setDdr f).byte x = s.byte x := rfl
@[simp] theorem State.setReg_byte (off : Nat) (w : Word) (x : Nat) : (s.setReg off w).byte x = s.byte x := rfl
@[simp] theorem State.setLay_byte (l : Nat) (f : LayerState → LayerState) (x : Nat) : (s.setLay l f).byte x = s.byte x := rfl
@[simp] theorem State.setBlt_byte (f : Blt → Blt) (x : Nat) : (s.setBlt f).byte x = s.byte x := rfl
@[simp] theorem State.wr_byte (f : Fld) (v : Nat) (x : Nat) : (s.wr f v).byte x = s.byte x := rfl
@[simp] theorem State.setStrm_byte (k : Nat) (f : Stream → Stream) (x : Nat) : (s.setStrm k f).byte x = s.byte x := rfl
@[simp] theorem State.setDup_byte (f : Duplex → Duplex) (x : Nat) : (s.setDup f).byte x = s.byte x := rfl
@[simp] theorem State.count_byte (f : Fld) (n : Nat) (x : Nat) : (s.count f n).byte x = s.byte x := rfl
@[simp] theorem State.setSp_byte (p : Nat) (f : SheetPort → SheetPort) (x : Nat) : (s.setSp p f).byte x = s.byte x := rfl
@[simp] theorem State.setRing_byte (f : Ring → Ring) (x : Nat) : (s.setRing f).byte x = s.byte x := rfl
@[simp] theorem State.setArm_byte (r : Requester) (b : Bool) (x : Nat) : (s.setArm r b).byte x = s.byte x := rfl
@[simp] theorem State.setChan_byte (c : Nat) (f : DdrChan → DdrChan) (x : Nat) : (s.setChan c f).byte x = s.byte x := rfl
@[simp] theorem State.setClocks_byte (f : Clocks → Clocks) (x : Nat) : (s.setClocks f).byte x = s.byte x := rfl
@[simp] theorem State.setLive_byte (off : Nat) (w : Word) (x : Nat) : (s.setLive off w).byte x = s.byte x := rfl
@[simp] theorem State.setDch_byte (c : Nat) (f : DmaChan → DmaChan) (x : Nat) : (s.setDch c f).byte x = s.byte x := rfl
@[simp] theorem State.setNv_byte (f : Nv → Nv) (x : Nat) : (s.setNv f).byte x = s.byte x := rfl
@[simp] theorem State.setLinePoison_byte (a : Nat) (p : Bool) (x : Nat) : (s.setLinePoison a p).byte x = s.byte x := rfl
@[simp] theorem State.setRport_byte (p : Nat) (f : RingPort → RingPort) (x : Nat) : (s.setRport p f).byte x = s.byte x := rfl
@[simp] theorem State.setPwr_byte (f : Power → Power) (x : Nat) : (s.setPwr f).byte x = s.byte x := rfl
@[simp] theorem State.setMsix_byte (v : Fin 64) (e : MsixEntry) (x : Nat) : (s.setMsix v e).byte x = s.byte x := rfl
@[simp] theorem State.setPll_byte (n : Nat) (f : Pll → Pll) (x : Nat) : (s.setPll n f).byte x = s.byte x := rfl
@[simp] theorem State.setShroud_byte (f : Shroud → Shroud) (x : Nat) : (s.setShroud f).byte x = s.byte x := rfl
@[simp] theorem State.emit_byte (o : Output) (x : Nat) : (s.emit o).byte x = s.byte x := rfl

/-! ### Causes and reports -/

/-- Sending a vector changes the messages and the pending bits only. -/
theorem State.sendVec_eq (v : Nat) : s.sendVec v = { s with out := (s.sendVec v).out, host := (s.sendVec v).host } := by
  unfold State.sendVec
  by_cases h : v < 64
  · by_cases k : s.host.msix[v].masked = true <;> simp [h, k, State.emit]
  · simp [h]

/-- A cause changes registers, and the messages and pending bits of its vector, and nothing else. -/
theorem State.setCause_eq (c : Cause) :
    s.setCause c = { s with regs := (s.setCause c).regs, out := (s.setCause c).out, host := (s.setCause c).host } := by
  unfold State.setCause
  dsimp only
  split
  · rw [State.sendVec_eq]
    rfl
  · rfl

@[simp] theorem State.setCause_byte (c : Cause) (x : Nat) : (s.setCause c).byte x = s.byte x := by rw [State.setCause_eq]; rfl

/-- The registers after a cause: its own bit is set. -/
theorem State.setCause_regs (c : Cause) :
    (s.setCause c).regs = (s.setReg c.off (s.reg c.off ||| BitVec.ofNat 32 (2 ^ c.bit))).regs := by
  unfold State.setCause
  dsimp only
  split
  · rw [State.sendVec_eq]
  · rfl

/-- A report changes the report queue, or the counter of dropped reports and cause DROP. -/
theorem State.report_eq (a b d : Nat) :
    s.report a b d = { s with
      regs := (s.report a b d).regs
      log := (s.report a b d).log
      out := (s.report a b d).out
      host := (s.report a b d).host } := by
  unfold State.report
  split
  · rfl
  · rw [State.setCause_eq]
    rfl

@[simp] theorem State.setCause_pending (c : Cause) : (s.setCause c).pending = s.pending := by rw [State.setCause_eq]
@[simp] theorem State.report_pending (a b d : Nat) : (s.report a b d).pending = s.pending := by rw [s.report_eq a b d]
@[simp] theorem State.setCause_part (c : Cause) : (s.setCause c).part = s.part := by rw [State.setCause_eq]
@[simp] theorem State.report_part (a b d : Nat) : (s.report a b d).part = s.part := by rw [s.report_eq a b d]
@[simp] theorem State.setCause_fuses (c : Cause) : (s.setCause c).fuses = s.fuses := by rw [State.setCause_eq]
@[simp] theorem State.report_fuses (a b d : Nat) : (s.report a b d).fuses = s.fuses := by rw [s.report_eq a b d]
@[simp] theorem State.setCause_now (c : Cause) : (s.setCause c).now = s.now := by rw [State.setCause_eq]
@[simp] theorem State.report_now (a b d : Nat) : (s.report a b d).now = s.now := by rw [s.report_eq a b d]
@[simp] theorem State.setCause_freeCtr (c : Cause) : (s.setCause c).freeCtr = s.freeCtr := by rw [State.setCause_eq]
@[simp] theorem State.report_freeCtr (a b d : Nat) : (s.report a b d).freeCtr = s.freeCtr := by rw [s.report_eq a b d]
@[simp] theorem State.setCause_live (c : Cause) : (s.setCause c).live = s.live := by rw [State.setCause_eq]
@[simp] theorem State.report_live (a b d : Nat) : (s.report a b d).live = s.live := by rw [s.report_eq a b d]
@[simp] theorem State.setCause_back (c : Cause) : (s.setCause c).back = s.back := by rw [State.setCause_eq]
@[simp] theorem State.report_back (a b d : Nat) : (s.report a b d).back = s.back := by rw [s.report_eq a b d]
@[simp] theorem State.setCause_hostRegs (c : Cause) : (s.setCause c).hostRegs = s.hostRegs := by rw [State.setCause_eq]
@[simp] theorem State.report_hostRegs (a b d : Nat) : (s.report a b d).hostRegs = s.hostRegs := by rw [s.report_eq a b d]
@[simp] theorem State.setCause_capture (c : Cause) : (s.setCause c).capture = s.capture := by rw [State.setCause_eq]
@[simp] theorem State.report_capture (a b d : Nat) : (s.report a b d).capture = s.capture := by rw [s.report_eq a b d]
@[simp] theorem State.setCause_mem (c : Cause) : (s.setCause c).mem = s.mem := by rw [State.setCause_eq]
@[simp] theorem State.report_mem (a b d : Nat) : (s.report a b d).mem = s.mem := by rw [s.report_eq a b d]
@[simp] theorem State.setCause_poisoned (c : Cause) : (s.setCause c).poisoned = s.poisoned := by rw [State.setCause_eq]
@[simp] theorem State.report_poisoned (a b d : Nat) : (s.report a b d).poisoned = s.poisoned := by rw [s.report_eq a b d]
@[simp] theorem State.setCause_duplex (c : Cause) : (s.setCause c).duplex = s.duplex := by rw [State.setCause_eq]
@[simp] theorem State.report_duplex (a b d : Nat) : (s.report a b d).duplex = s.duplex := by rw [s.report_eq a b d]
@[simp] theorem State.setCause_fw (c : Cause) : (s.setCause c).fw = s.fw := by rw [State.setCause_eq]
@[simp] theorem State.report_fw (a b d : Nat) : (s.report a b d).fw = s.fw := by rw [s.report_eq a b d]
@[simp] theorem State.setCause_log (c : Cause) : (s.setCause c).log = s.log := by rw [State.setCause_eq]
@[simp] theorem State.setCause_dsm (c : Cause) : (s.setCause c).dsm = s.dsm := by rw [State.setCause_eq]
@[simp] theorem State.report_dsm (a b d : Nat) : (s.report a b d).dsm = s.dsm := by rw [s.report_eq a b d]
@[simp] theorem State.setCause_ddr (c : Cause) : (s.setCause c).ddr = s.ddr := by rw [State.setCause_eq]
@[simp] theorem State.report_ddr (a b d : Nat) : (s.report a b d).ddr = s.ddr := by rw [s.report_eq a b d]
@[simp] theorem State.setCause_ring (c : Cause) : (s.setCause c).ring = s.ring := by rw [State.setCause_eq]
@[simp] theorem State.report_ring (a b d : Nat) : (s.report a b d).ring = s.ring := by rw [s.report_eq a b d]
@[simp] theorem State.setCause_shroud (c : Cause) : (s.setCause c).shroud = s.shroud := by rw [State.setCause_eq]
@[simp] theorem State.report_shroud (a b d : Nat) : (s.report a b d).shroud = s.shroud := by rw [s.report_eq a b d]
@[simp] theorem State.setCause_nv (c : Cause) : (s.setCause c).nv = s.nv := by rw [State.setCause_eq]
@[simp] theorem State.report_nv (a b d : Nat) : (s.report a b d).nv = s.nv := by rw [s.report_eq a b d]
@[simp] theorem State.setCause_power (c : Cause) : (s.setCause c).power = s.power := by rw [State.setCause_eq]
@[simp] theorem State.report_power (a b d : Nat) : (s.report a b d).power = s.power := by rw [s.report_eq a b d]
@[simp] theorem State.setCause_time (c : Cause) : (s.setCause c).time = s.time := by rw [State.setCause_eq]
@[simp] theorem State.report_time (a b d : Nat) : (s.report a b d).time = s.time := by rw [s.report_eq a b d]
@[simp] theorem State.setCause_heads (c : Cause) : (s.setCause c).heads = s.heads := by rw [State.setCause_eq]
@[simp] theorem State.report_heads (a b d : Nat) : (s.report a b d).heads = s.heads := by rw [s.report_eq a b d]
@[simp] theorem State.setCause_layers (c : Cause) : (s.setCause c).layers = s.layers := by rw [State.setCause_eq]
@[simp] theorem State.report_layers (a b d : Nat) : (s.report a b d).layers = s.layers := by rw [s.report_eq a b d]
@[simp] theorem State.setCause_luts (c : Cause) : (s.setCause c).luts = s.luts := by rw [State.setCause_eq]
@[simp] theorem State.report_luts (a b d : Nat) : (s.report a b d).luts = s.luts := by rw [s.report_eq a b d]
@[simp] theorem State.setCause_sheet (c : Cause) : (s.setCause c).sheet = s.sheet := by rw [State.setCause_eq]
@[simp] theorem State.report_sheet (a b d : Nat) : (s.report a b d).sheet = s.sheet := by rw [s.report_eq a b d]
@[simp] theorem State.setCause_ingest (c : Cause) : (s.setCause c).ingest = s.ingest := by rw [State.setCause_eq]
@[simp] theorem State.report_ingest (a b d : Nat) : (s.report a b d).ingest = s.ingest := by rw [s.report_eq a b d]
@[simp] theorem State.setCause_clocks (c : Cause) : (s.setCause c).clocks = s.clocks := by rw [State.setCause_eq]
@[simp] theorem State.report_clocks (a b d : Nat) : (s.report a b d).clocks = s.clocks := by rw [s.report_eq a b d]
@[simp] theorem State.setCause_dma (c : Cause) : (s.setCause c).dma = s.dma := by rw [State.setCause_eq]
@[simp] theorem State.report_dma (a b d : Nat) : (s.report a b d).dma = s.dma := by rw [s.report_eq a b d]
@[simp] theorem State.setCause_dmaServed (c : Cause) : (s.setCause c).dmaServed = s.dmaServed := by rw [State.setCause_eq]
@[simp] theorem State.report_dmaServed (a b d : Nat) : (s.report a b d).dmaServed = s.dmaServed := by rw [s.report_eq a b d]
@[simp] theorem State.setCause_blt (c : Cause) : (s.setCause c).blt = s.blt := by rw [State.setCause_eq]
@[simp] theorem State.report_blt (a b d : Nat) : (s.report a b d).blt = s.blt := by rw [s.report_eq a b d]
@[simp] theorem State.setCause_mainUp (c : Cause) : (s.setCause c).mainUp = s.mainUp := by rw [State.setCause_eq]
@[simp] theorem State.report_mainUp (a b d : Nat) : (s.report a b d).mainUp = s.mainUp := by rw [s.report_eq a b d]
@[simp] theorem State.report_byte (a b d x : Nat) : (s.report a b d).byte x = s.byte x := by rw [State.report_eq]; rfl

/-! ### Reading back -/

@[simp] theorem State.setHd_same (k : Nat) (f : HeadState → HeadState) : (s.setHd k f).hd k = f (s.hd k) := by simp [State.setHd, State.hd]
theorem State.setHd_other (k j : Nat) (f : HeadState → HeadState) (h : Fin.ofNat 4 k ≠ Fin.ofNat 4 j) : (s.setHd k f).hd j = s.hd j := by
  have : k % 4 ≠ j % 4 := fun e => h (Fin.ext e)
  simp [State.setHd, State.hd, this]
@[simp] theorem State.setLay_same (k : Nat) (f : LayerState → LayerState) : (s.setLay k f).lay k = f (s.lay k) := by simp [State.setLay, State.lay]
theorem State.setLay_other (k j : Nat) (f : LayerState → LayerState) (h : Fin.ofNat 64 k ≠ Fin.ofNat 64 j) : (s.setLay k f).lay j = s.lay j := by
  have : k % 64 ≠ j % 64 := fun e => h (Fin.ext e)
  simp [State.setLay, State.lay, this]
@[simp] theorem State.setStrm_same (k : Nat) (f : Stream → Stream) : (s.setStrm k f).strm k = f (s.strm k) := by simp [State.setStrm, State.strm]
theorem State.setStrm_other (k j : Nat) (f : Stream → Stream) (h : Fin.ofNat 48 k ≠ Fin.ofNat 48 j) : (s.setStrm k f).strm j = s.strm j := by
  have : k % 48 ≠ j % 48 := fun e => h (Fin.ext e)
  simp [State.setStrm, State.strm, this]
@[simp] theorem State.setSp_same (k : Nat) (f : SheetPort → SheetPort) : (s.setSp k f).sp k = f (s.sp k) := by simp [State.setSp, State.sp]
theorem State.setSp_other (k j : Nat) (f : SheetPort → SheetPort) (h : Fin.ofNat 16 k ≠ Fin.ofNat 16 j) : (s.setSp k f).sp j = s.sp j := by
  have : k % 16 ≠ j % 16 := fun e => h (Fin.ext e)
  simp [State.setSp, State.sp, this]
@[simp] theorem State.setChan_same (k : Nat) (f : DdrChan → DdrChan) : (s.setChan k f).chan k = f (s.chan k) := by simp [State.setChan, State.chan]
theorem State.setChan_other (k j : Nat) (f : DdrChan → DdrChan) (h : Fin.ofNat 4 k ≠ Fin.ofNat 4 j) : (s.setChan k f).chan j = s.chan j := by
  have : k % 4 ≠ j % 4 := fun e => h (Fin.ext e)
  simp [State.setChan, State.chan, this]
@[simp] theorem State.setDch_same (k : Nat) (f : DmaChan → DmaChan) : (s.setDch k f).dch k = f (s.dch k) := by simp [State.setDch, State.dch]
theorem State.setDch_other (k j : Nat) (f : DmaChan → DmaChan) (h : Fin.ofNat 16 k ≠ Fin.ofNat 16 j) : (s.setDch k f).dch j = s.dch j := by
  have : k % 16 ≠ j % 16 := fun e => h (Fin.ext e)
  simp [State.setDch, State.dch, this]
@[simp] theorem State.setPll_same (k : Nat) (f : Pll → Pll) : (s.setPll k f).pll k = f (s.pll k) := by simp [State.setPll, State.pll]
theorem State.setPll_other (k j : Nat) (f : Pll → Pll) (h : Fin.ofNat 4 k ≠ Fin.ofNat 4 j) : (s.setPll k f).pll j = s.pll j := by
  have : k % 4 ≠ j % 4 := fun e => h (Fin.ext e)
  simp [State.setPll, State.pll, this]
@[simp] theorem State.setRport_same (k : Nat) (f : RingPort → RingPort) : (s.setRport k f).rport k = f (s.rport k) := by simp [State.setRport, State.rport]
theorem State.setRport_other (k j : Nat) (f : RingPort → RingPort) (h : Fin.ofNat 2 k ≠ Fin.ofNat 2 j) : (s.setRport k f).rport j = s.rport j := by
  have : k % 2 ≠ j % 2 := fun e => h (Fin.ext e)
  simp [State.setRport, State.rport, this]

end Sys2Proof.Machine
end

