-- ==== Sys2Proof/Laws/Reg.lean ====
section
/-! SUPPORT. Laws of the named operations over registers and memory bytes: what a write leaves where, once for all commands. -/

namespace Sys2Proof.Machine

/-! ### Fields of a word -/

/-- The bits of a field of a word. -/
theorem Fld.get_eq (f : Fld) (w : Word) : f.get w = w.toNat / 2 ^ f.lsb % 2 ^ f.width := by
  simp [Fld.get, Nat.shiftRight_eq_div_pow]

theorem Fld.get_testBit (f : Fld) (w : Word) (i : Nat) : (f.get w).testBit i = (decide (i < f.width) && w.toNat.testBit (f.lsb + i)) := by
  simp [Fld.get, Nat.testBit_mod_two_pow, Nat.testBit_shiftRight]

theorem Fld.mask_getLsbD (f : Fld) (i : Nat) (h : f.lsb + f.width ≤ 32) :
    f.mask.getLsbD i = decide (f.lsb ≤ i ∧ i < f.lsb + f.width) := by
  simp only [Fld.mask, BitVec.getLsbD_shiftLeft, BitVec.getLsbD_ofNat, Nat.testBit_two_pow_sub_one]
  rw [Bool.eq_iff_iff]
  simp only [Bool.and_eq_true, Bool.not_eq_true', decide_eq_true_eq, decide_eq_false_iff_not]
  omega

theorem Fld.put_getLsbD (f : Fld) (w : Word) (v i : Nat) (h : f.lsb + f.width ≤ 32) :
    (f.put w v).getLsbD i = if f.lsb ≤ i ∧ i < f.lsb + f.width then v.testBit (i - f.lsb) else w.getLsbD i := by
  have hm := Fld.mask_getLsbD f i h
  simp only [Fld.put, BitVec.getLsbD_or, BitVec.getLsbD_and, BitVec.getLsbD_not, hm, BitVec.getLsbD_shiftLeft, BitVec.getLsbD_ofNat]
  by_cases h1 : f.lsb ≤ i ∧ i < f.lsb + f.width
  · have h2 : i < 32 := by omega
    have h3 : ¬ i < f.lsb := by omega
    have h4 : i - f.lsb < 32 := by omega
    simp [h1, h2, h3, h4]
  · by_cases h2 : i < 32
    · simp [h1, h2]
    · have := BitVec.getLsbD_of_ge w i (by omega)
      simp [h1, this]

/-- A field reads back what is put into it, in its width. -/
theorem Fld.get_put_same (f : Fld) (w : Word) (v : Nat) (h : f.lsb + f.width ≤ 32) : f.get (f.put w v) = v % 2 ^ f.width := by
  apply Nat.eq_of_testBit_eq
  intro i
  rw [Fld.get_testBit, Nat.testBit_mod_two_pow, BitVec.testBit_toNat, Fld.put_getLsbD f w v _ h]
  by_cases h1 : i < f.width <;> simp [h1]

/-- A field beside the one that is put reads as before. -/
theorem Fld.get_put_other (f g : Fld) (w : Word) (v : Nat) (h : f.lsb + f.width ≤ 32)
    (hd : g.lsb + g.width ≤ f.lsb ∨ f.lsb + f.width ≤ g.lsb) : g.get (f.put w v) = g.get w := by
  apply Nat.eq_of_testBit_eq
  intro i
  rw [Fld.get_testBit, Fld.get_testBit, BitVec.testBit_toNat, BitVec.testBit_toNat, Fld.put_getLsbD f w v _ h]
  by_cases h1 : i < g.width
  · rw [if_neg (by omega)]
  · simp [h1]

theorem Fld.get_lt (f : Fld) (w : Word) : f.get w < 2 ^ f.width := by
  rw [Fld.get_eq]; exact Nat.mod_lt _ (by positivity)

/-! ### Registers -/

variable {s : State}

theorem State.setReg_reg_same (h : s.Inv) (off : Nat) (w : Word) : (s.setReg off w).reg off = w :=
  Sparse.get_put_same _ _ _ h.regs

theorem State.setReg_reg_other (h : s.Inv) {off o : Nat} (w : Word) (ho : o ≠ off) : (s.setReg off w).reg o = s.reg o := by
  simpa [State.setReg, State.reg] using Sparse.get_put_other s.regs off o w ho h.regs

/-- A field reads back what is written to it, in its width. -/
theorem State.wr_rd_same (hs : s.Inv) (f : Fld) (v : Nat) (h : f.lsb + f.width ≤ 32) : (s.wr f v).rd f = v % 2 ^ f.width := by
  simp [State.wr, State.rd, State.setReg_reg_same hs, Fld.get_put_same f _ v h]

/-- A field of the same register beside the one that is written reads as before. -/
theorem State.wr_rd_beside (hs : s.Inv) (f g : Fld) (v : Nat) (h : f.lsb + f.width ≤ 32) (ho : g.off = f.off)
    (hd : g.lsb + g.width ≤ f.lsb ∨ f.lsb + f.width ≤ g.lsb) : (s.wr f v).rd g = s.rd g := by
  simp [State.wr, State.rd, ho, State.setReg_reg_same hs, Fld.get_put_other f g _ v h hd]

/-- A field of another register reads as before. -/
theorem State.wr_rd_other (hs : s.Inv) (f g : Fld) (v : Nat) (ho : g.off ≠ f.off) : (s.wr f v).rd g = s.rd g := by
  simp [State.wr, State.rd, State.setReg_reg_other hs _ ho]

theorem State.wr_reg_other (hs : s.Inv) (f : Fld) (v : Nat) {o : Nat} (ho : o ≠ f.off) : (s.wr f v).reg o = s.reg o := by
  simp [State.wr, State.setReg_reg_other hs _ ho]

theorem State.rd_lt (f : Fld) : s.rd f < 2 ^ f.width := Fld.get_lt f _

/-- Writing a field changes that register only. -/
theorem State.wr_regsOnly (hs : s.Inv) (f : Fld) (v : Nat) : s.RegsOnly (s.wr f v) [f.off] :=
  ⟨rfl, fun o ho => State.wr_reg_other hs f v (by simpa using ho)⟩

theorem State.setReg_regsOnly (hs : s.Inv) (off : Nat) (w : Word) : s.RegsOnly (s.setReg off w) [off] :=
  ⟨rfl, fun o ho => State.setReg_reg_other hs w (by simpa using ho)⟩

theorem State.RegsOnly.refl (l : List Nat) : s.RegsOnly s l := ⟨rfl, fun _ _ => rfl⟩

theorem State.RegsOnly.trans {t u : State} {l m : List Nat} (h : s.RegsOnly t l) (k : t.RegsOnly u m) : s.RegsOnly u (l ++ m) := by
  refine ⟨?_, fun o ho => ?_⟩
  · rw [k.1, h.1]
  · simp only [List.mem_append, not_or] at ho
    rw [k.2 o ho.2, h.2 o ho.1]

theorem State.RegsOnly.mono {t : State} {l m : List Nat} (h : s.RegsOnly t l) (k : ∀ o ∈ l, o ∈ m) : s.RegsOnly t m :=
  ⟨h.1, fun o ho => h.2 o fun hl => ho (k o hl)⟩

/-- Writes of registers keep a state well kept. -/
theorem State.setReg_inv (h : s.Inv) (off : Nat) (w : Word) : (s.setReg off w).Inv :=
  ⟨h.1, h.2, Sparse.put_wf h.3, h.4, h.5, h.6, h.7⟩

theorem State.wr_inv (h : s.Inv) (f : Fld) (v : Nat) : (s.wr f v).Inv := State.setReg_inv h _ _

theorem State.count_inv (h : s.Inv) (f : Fld) (n : Nat) : (s.count f n).Inv := State.wr_inv h _ _

/-! ### Memory bytes -/

theorem State.setByte_byte_same (h : s.Inv) (a : Nat) (v : Byte) : (s.setByte a v).byte a = v :=
  Sparse.get_put_same _ _ _ h.mem

theorem State.setByte_byte_other (h : s.Inv) {a b : Nat} (v : Byte) (hb : b ≠ a) : (s.setByte a v).byte b = s.byte b := by
  simpa [State.setByte, State.byte] using Sparse.get_put_other s.mem a b v hb h.mem

theorem State.setByte_inv (h : s.Inv) (a : Nat) (v : Byte) : (s.setByte a v).Inv :=
  ⟨h.1, h.2, h.3, h.4, Sparse.put_wf h.5, h.6, h.7⟩

/-! ### Register writes as they reach register space -/


theorem State.absent_part {t : State} (h : t.part = s.part) (a : RegAt) : t.absent a = s.absent a := by
  unfold State.absent State.nHeads State.nVideo State.nGraphic State.nSheet State.nDdr
  rw [h]

/-- An accepted write to a register that is present has the register's own effect on the machine at which it has arrived. -/
theorem State.busWrite_accepts {off : Nat} {w : RegWrite} {a : RegAt} (h : s.Accepts w) (h4 : off % 4 = 0) (hq : off ≠ 0x10)
    (ha : regAt off = some a) (hp : s.absent a = false) :
    s.busWrite off w = (s.arrived off w).regEffect off a w.req w.val (s.armed w.req) := by
  have e : off / 4 * 4 = off := by omega
  simp [State.busWrite, State.when, State.regWrite, State.regStore, State.arrived, e, hq, ha, hp, h.up, h.awake, h.whole, h.clean,
    State.absent_part (s := s) (t := s.setArm w.req false) rfl]

end Sys2Proof.Machine
end

