-- ==== Sys2Proof/Laws/Serve.lean ====
section
/-! SUPPORT. The firmware's command service: what `State.serve` does, said once for every mailbox command. -/

namespace Sys2Proof.Machine

variable {s : State} {code : Nat} {c : FwCmd} {rest : List FwCmd}

/-- Nothing waits: the machine stays. -/
theorem State.serve_empty (body : FwCmd → State → State) (h : s.fw.queue = []) : s.serve code body = s := by
  simp [State.serve, h]

/-- While the firmware is down nothing is served. -/
theorem State.serve_down (body : FwCmd → State → State) (h : s.serving = false) : s.serve code body = s := by
  unfold State.serve
  split
  · rfl
  · simp [h]

/-- A command that begins leaves the queue (and the commands that run again after a takeover) and may take the record of its mailbox; nothing else changes. -/
theorem State.begun_eq : ∃ rs ag, s.begun c rest = { s with fw := { s.fw with queue := rest, records := rs, again := ag } } := by
  unfold State.begun
  dsimp only
  split <;> exact ⟨_, _, rfl⟩

@[simp] theorem State.begun_regs : (s.begun c rest).regs = s.regs := by
  obtain ⟨rs, ag, e⟩ := s.begun_eq (c := c) (rest := rest)
  rw [e]
@[simp] theorem State.begun_part : (s.begun c rest).part = s.part := by
  obtain ⟨rs, ag, e⟩ := s.begun_eq (c := c) (rest := rest)
  rw [e]
@[simp] theorem State.begun_rd (f : Fld) : (s.begun c rest).rd f = s.rd f := by
  obtain ⟨rs, ag, e⟩ := s.begun_eq (c := c) (rest := rest)
  rw [e]; rfl
@[simp] theorem State.begun_joined : (s.begun c rest).joined = s.joined := by
  obtain ⟨rs, ag, e⟩ := s.begun_eq (c := c) (rest := rest)
  rw [e]; rfl
@[simp] theorem State.begun_ringId : (s.begun c rest).ringId = s.ringId := by
  obtain ⟨rs, ag, e⟩ := s.begun_eq (c := c) (rest := rest)
  rw [e]; rfl
@[simp] theorem State.begun_serving : State.serving (s.begun c rest) = s.serving := by
  obtain ⟨rs, ag, e⟩ := s.begun_eq (c := c) (rest := rest)
  rw [e]; rfl

/-- A command that begins is performed on the machine at which it has begun. -/
theorem State.serve_begins (body : FwCmd → State → State) (h : s.Begins code c rest) (hk : (cmdTable.lookup code).isSome = true) :
    s.serve code body = body c (s.begun c rest) := by
  obtain ⟨h1, h2, h3, h4, h5, h6, h7⟩ := h
  subst h3
  have hr : (s.begun c rest).route c body = body c (s.begun c rest) := by
    unfold State.route
    split
    · rename_i n hn
      obtain ⟨a, b, d, e⟩ := h7 n hn
      rw [if_neg (by simp [b, d]), State.begun_joined, e, State.begun_ringId]
      simp [a]
    · rfl
  simp only [State.serve, h2]
  rw [h1, hk, h4, h5]
  simp [Nat.not_lt.mpr h6, hr]

end Sys2Proof.Machine
end

