-- ==== Sys2Proof/WellFormed.lean ====
section
/-! DEFINITION. Which commands are well formed: those that the block's outside can present. `exec` is total all the same. -/

namespace Sys2Proof

/-- An offset of a word of register space (R48, R50). -/
def wfOffset (off : Nat) : Bool := decide (off < 0x200000) && decide (off % 4 = 0)

/-- A host access of 1 to 4,096 bytes that stays inside a BAR of so many bytes (R57, R61). -/
def wfAccess (size off : Nat) : HostAcc → Bool
  | .read len => decide (1 ≤ len) && decide (len ≤ 4096) && decide (off + len ≤ size)
  | .write d _ => !d.isEmpty && decide (d.length ≤ 4096) && decide (off + d.length ≤ size)

/-- An Ethernet frame: at least its addresses and EtherType, at most 9,018 bytes (R303, R327). -/
def wfFrame (f : RxFrame) : Bool := decide (14 ≤ f.bytes.length) && decide (f.bytes.length ≤ 16384)

/-- A write within one 64 B line (R45). -/
def wfLineWrite (off len : Nat) : Bool := decide (1 ≤ len) && decide (off % 64 + len ≤ 64)

/-- What a DRAM access tells: devices 0 to 9 of a subchannel, 31 for none, and 64 bytes of data (R547). -/
def wfQuality : DdrQuality → Bool
  | .clean => true
  | .oneDevice d _ => decide (d < 10)
  | .uncorrectable data d1 d2 _ _ => decide (data.length = 64) && decide (d1 < 10 ∨ d1 = 31) && decide (d2 < 10 ∨ d2 = 31)

/-- Physical upsets of a line: bits 0 to 7 of a byte and 8 to 12 of its check bits; entry 64 names the copies of the poison bit. -/
def wfUpsets (l : List (Nat × Nat)) : Bool := l.all fun u => decide (u.1 ≤ 64) && decide (u.2 < 13)

/-- A request of 1 byte up that stays inside the 48-bit address space (R19, R531). -/
def wfDdrOp (addr : Nat) : DdrOp → Bool
  | .read len => decide (1 ≤ len) && decide (addr + len ≤ 2 ^ 48)
  | .write d _ => !d.isEmpty && decide (addr + d.length ≤ 2 ^ 48)

/-- An SPD within the population rules (R514 to R516). -/
def wfSpd (p : Spd) : Bool := decide (p.ranks = 1 ∨ p.ranks = 2) && decide (p.rate ≤ 2) && decide (1 ≤ p.gib)

/-- Whether a command is well formed. -/
def Instr.wf : Instr → Bool
  | .registerWrite off _ => wfOffset off
  | .rcRead off _ => wfOffset off
  | .captureRead off _ => wfOffset off
  | .causeClear off _ => wfOffset off
  | .windowAccess off a => wfAccess (2 ^ 30) off a
  | .bar2Access off a => wfAccess (2 ^ 20) off a
  | .sheetReceive _ f => wfFrame f
  | .ingestReceive _ f => wfFrame f
  | .dsmRead _ _ u => wfUpsets u
  | .dsmWrite _ a d _ => wfLineWrite a.toNat d.length
  | .ddrScrubRead q => wfQuality q
  | .resilverCopy _ q => wfQuality q
  | .ddrReadReturn _ q => wfQuality q
  | .ddrRequest _ _ a op => wfDdrOp a op
  | .pmicWaitEnd _ (some p) => wfSpd p
  | _ => true

end Sys2Proof
end

