-- ==== Sys2Proof/Tests/Slice0.lean ====
section
/-! SUPPORT. Tests of the model: an ill-formed term for each check, the spec's own numbers, and for each statement with hypotheses a state
that meets them, clause by clause. -/

set_option Elab.async false

namespace Sys2Proof.Tests

open Sys2Proof Sys2Proof.Machine

/-! ### States for the tests -/

/-- Every sparse store of a state in its canonical form, as a computation. -/
def keptB (s : State) : Bool :=
  Sparse.wf resetWord s.regs && Sparse.wf resetWord s.live && Memory.wf s.mem && Sparse.wf (fun _ => false) s.poisoned &&
    Sparse.wf (fun _ => (0 : Word)) s.capture

/-- A state whose stores are canonical is well kept. -/
theorem inv_of {s : State} (h : keptB s = true) : s.Inv := by
  simp only [keptB, Bool.and_eq_true] at h
  exact ⟨rfl, rfl, h.1.1.1.1, h.1.1.1.2, h.1.1.2, h.1.2, h.2⟩

/-- The main die runs and the firmware serves. -/
def up : State := { State.reset with mainUp := true, duplex := { State.reset.duplex with fwUp := true } }

/-- A payload of so many bytes: numbers of so many bytes at offsets, zero elsewhere. -/
def pay (n : Nat) (l : List (Nat × Nat × Nat)) : List Byte :=
  l.foldl (fun p x => p.take x.1 ++ leBytes x.2.1 x.2.2 ++ p.drop (x.1 + x.2.1)) (List.replicate n 0)

/-- A command of host mailbox 0. -/
def cmd (code : Nat) (p : List Byte) : FwCmd := ⟨.host 0, code, 1, p.length, 0, 0, p, false⟩

/-- A state with one copied command waiting. -/
def asked (s : State) (code : Nat) (p : List Byte) : State := { s with fw := { s.fw with queue := [cmd code p] } }

/-- What `Begins` asks, as a computation. -/
def beginsB (s : State) (code : Nat) (p : List Byte) : Bool :=
  s.serving && decide (s.fw.queue = [cmd code p]) && decide (s.replayOf (cmd code p) = none) && lenOk code p.length p && decide (p.length ≤ 504)

/-- The command of the tests begins. -/
theorem begins {s : State} {code : Nat} {p : List Byte} (h : beginsB s code p = true) : s.Begins code (cmd code p) [] := by
  simp only [beginsB, Bool.and_eq_true, decide_eq_true_eq] at h
  exact ⟨h.1.1.1.1, h.1.1.1.2, rfl, h.1.1.2, h.1.2, h.2, fun n k => by cases k⟩

/-- The command is asked for and begins (R71, R74). -/
abbrev Asks (s : State) (code : Nat) (p : List Byte) : Prop := (asked s code p).Begins code (cmd code p) []

theorem asks {s : State} {code : Nat} {p : List Byte} (h : beginsB (asked s code p) code p = true) : Asks s code p := begins h

/-- A write by the host with all byte enables set. -/
def put (v : Nat) : RegWrite := ⟨.host, BitVec.ofNat 32 v, 0xF, false⟩

/-- An accepted write. -/
theorem accepts {s : State} {w : RegWrite} (h : s.mainUp = true ∧ s.heldCore w.req = false ∧ w.be = 0xF ∧ w.poison = false) : s.Accepts w :=
  ⟨h.1, h.2.1, h.2.2.1, h.2.2.2⟩

/-- The offset of a field belongs to a register of the table. -/
def hasReg (off : Nat) : Bool := (regAt off).isSome

/-! ### Witnesses: the machine and register space -/

theorem up_inv : up.Inv := inv_of (by decide +kernel)

theorem wit_StepRunsFront : ({ up with pending := [Instr.heartbeat] }).pending = .heartbeat :: [] := rfl

theorem wit_StepIdleTick : (∀ n : Fin 4, (up.pll n).syncAt = none) ∧ up.blt.phase = .none ∧
    (let s := { (up.setBlt fun b => { b with phase := .fetch 0 }) with now := 10 ^ 9 };
      s.mainUp = true ∧ s.pending = [] ∧ s.blt.phase = .fetch 0 ∧ 0 + ceilDiv (s.rd DMA_RESP_TIMEOUT_CYCLES * 5) 4 ≤ s.now) ∧
    up.pending = [] ∧ up.rd TSY_FREQ_ADJ_PPB = 0 ∧ up.mainUp = true ∧ 0 ≤ up.time.frac ∧ up.time.frac < 1000000000 := by
  decide +kernel

theorem wit_StepKeepsInv : State.reset.Inv ∧ up.Inv := ⟨inv_of (by decide +kernel), up_inv⟩

theorem wit_FieldReadsBack : up.Inv ∧ 0 < (HEAD_CTRL_REEF 0).width ∧ (HEAD_CTRL_REEF 0).lsb + (HEAD_CTRL_REEF 0).width ≤ 32 ∧
    (HEAD_CTRL_EN 0).off = (HEAD_CTRL_REEF 0).off ∧ (HEAD_CTRL_EN 0).lsb + (HEAD_CTRL_EN 0).width ≤ (HEAD_CTRL_REEF 0).lsb ∧
    (HEAD_CTRL_DEEP 0).off = (HEAD_CTRL_REEF 0).off ∧ (HEAD_CTRL_REEF 0).lsb + (HEAD_CTRL_REEF 0).width ≤ (HEAD_CTRL_DEEP 0).lsb :=
  ⟨up_inv, by decide +kernel⟩

theorem wit_PartialWriteIgnored : writeOf (.quoinWrite { put 0x7E3A with be := 0x3 }) = some (0x10, { put 0x7E3A with be := 0x3 }) ∧ up.Inv ∧
    up.mainUp = true ∧ up.heldCore .host = false ∧ ({ put 0x7E3A with be := 0x3 } : RegWrite).be ≠ 0xF :=
  ⟨rfl, up_inv, by decide +kernel⟩

theorem wit_QuoinWriteArms : up.Inv ∧ up.Accepts (put 0x7E3A) ∧ hasReg SHD_CTRL_TAKEOVER.off = true :=
  ⟨up_inv, accepts (by decide +kernel), by decide +kernel⟩

theorem wit_UnarmedGuardedWrite : writeOf (.takeover (put 1)) = some (SHD_CTRL_TAKEOVER.off, put 1) ∧
    writeOf (.slotPwr 3 (put 1)) = some ((DMC_SLOT_PWR_EN 3).off, put 1) ∧ 3 < up.nDdr ∧ up.Inv ∧ up.Accepts (put 1) ∧
    up.armed .host = false :=
  ⟨rfl, rfl, by decide +kernel, up_inv, accepts (by decide +kernel), by decide +kernel⟩

theorem wit_ArmedGuardedWrite : (up.setArm .host true).Accepts (put 1) ∧ (up.setArm .host true).armed .host = true ∧
    (put 1).val.toNat.testBit 0 = true ∧ 3 < (up.setArm .host true).nDdr :=
  ⟨accepts (by decide +kernel), by decide +kernel⟩

theorem wit_RegisterWriteStores : up.Inv ∧ up.Accepts (put 5) ∧ (match regAt PWR_HOLDUP_C_MF.off with
    | some a => !up.absent a && decide (a.base = 0x190000 ∧ a.rel ≠ 0x10 ∧ vecsOf PWR_HOLDUP_C_MF.off = [])
    | none => false) = true ∧ (match regAt (LAY_CTRL_SOURCE 16).off with
    | some a => !up.absent a && decide (a.base = 0xC0000 ∧ vecsOf (LAY_CTRL_SOURCE 16).off = [])
    | none => false) = true :=
  ⟨up_inv, accepts (by decide +kernel), by decide +kernel⟩

/-- The LUT window of head 0 waits for its SYNC. -/
def lutWaits : State := { up with luts := up.luts.set 16 { up.luts[16] with until_ := some 5 } }

theorem wit_RegisterReads : lutWaits.lutBusy 0x24000 = some 16 ∧ up.lutBusy 0x24000 = none ∧ lutWaits.Inv ∧ up.Inv ∧ up.mainUp = true ∧ (match regAt (SP_FCS_ERR_COUNT 0).off with
    | some a => !up.absent a
    | none => false) = true ∧ 3 < up.nHeads :=
  ⟨by decide +kernel, by decide +kernel, inv_of (by decide +kernel), up_inv, by decide +kernel⟩

theorem wit_CauseClearClears : up.Inv ∧ up.Accepts (put 1) ∧ 3 < up.nHeads ∧ 3 < up.nDdr ∧ 15 < up.nSheet :=
  ⟨up_inv, accepts (by decide +kernel), by decide +kernel⟩

/-- Heads 0 and 1 run. -/
def twoRun : State := (up.setHd 0 fun x => { x with gen := true }).setHd 1 fun x => { x with gen := true }

theorem wit_HeadRegisterWrites : up.Accepts (put 0) ∧ up.Accepts (put 1) ∧ 3 < up.nHeads ∧ bits (put 1).val.toNat 7 4 = 0 ∧
    twoRun.Inv ∧ twoRun.Accepts (put 0x31) ∧ bits (put 0x31).val.toNat 7 4 ≠ 0 ∧ (∀ g ∈ headsOf (bits (put 0x31).val.toNat 7 4), g < twoRun.nHeads) ∧
    (∀ g ∈ headsOf (bits (put 0x31).val.toNat 7 4), (twoRun.hd g).gen = true ∧ twoRun.rd (HEAD_STATUS_COMMIT_PENDING g) = 0) ∧
    ¬ (∀ g ∈ headsOf (bits (put 0x31).val.toNat 7 4), (up.hd g).gen = true) :=
  ⟨accepts (by decide +kernel), accepts (by decide +kernel), by decide +kernel, by decide +kernel, inv_of (by decide +kernel),
    accepts (by decide +kernel), by decide +kernel⟩

theorem wit_DmaRegisterWrites : up.Accepts (put 3) := accepts (by decide +kernel)

theorem wit_PllRegisterWrites : up.Inv ∧ up.Accepts (put 3) ∧ 3 < up.nHeads := ⟨up_inv, accepts (by decide +kernel), by decide +kernel⟩

theorem wit_UnitRegisterWrites : up.Inv ∧ up.Accepts (put 3) ∧ 2 * 7 < up.nSheet ∧ 3 < up.nDdr :=
  ⟨up_inv, accepts (by decide +kernel), by decide +kernel⟩

theorem wit_RegionRegistersGuarded : (up.wr (DSM_REG_CTRL_EN 5) 1).Inv ∧ (up.wr (DSM_REG_CTRL_EN 5) 1).Accepts (put 3) ∧
    (put 3).req ≠ .cc0 ∧ (put 3).req ≠ .cc1 ∧ (up.wr (DSM_REG_CTRL_EN 5) 1).rd (DSM_REG_CTRL_EN 5) = 1 ∧
    (up.wr (DSM_REG_CTRL_EN 5) 1).rd (DSM_REG_CTRL_OWNER 5) = 0 ∧ (up.wr (DSM_REG_CTRL_EN 5) 1).rd (DSM_REG_CTRL_EN 6) = 0 :=
  ⟨inv_of (by decide +kernel), accepts (by decide +kernel), by decide +kernel⟩

theorem wit_LogRegisterWrites : up.Inv ∧ up.Accepts (put 0) ∧ ((put 0).val - up.reg EVT_RD_SEQ_SEQ.off).toNat ≤
    (up.reg EVT_WR_SEQ_SEQ.off - up.reg EVT_RD_SEQ_SEQ.off).toNat ∧ (up.reg EVT_WR_SEQ_SEQ.off - up.reg EVT_RD_SEQ_SEQ.off).toNat <
    ((put 1).val - up.reg EVT_RD_SEQ_SEQ.off).toNat :=
  ⟨up_inv, accepts (by decide +kernel), by decide +kernel⟩

/-! ### Witnesses: the host port and the firmware -/

/-- The window on the register space alias, and on Densum with the mailboxes' region. -/
def onAlias : State := up.wr GLB_WIN_BASE_HI_BASE_HI 0x200
def onDensum : State := (up.firmwareRegions).wr GLB_WIN_BASE_HI_BASE_HI 0x100

theorem wit_WindowAccess : up.mainUp = true ∧ up.winCase 0 4 = .error ∧ onDensum.winCase ((onDensum.winBase + 0x1000000) % 2 ^ 48) 4 = .bound ∧
    onDensum.winCase ((onDensum.winBase + 64) % 2 ^ 48) 4 = .performed ∧ inAlias ((onDensum.winBase + 64) % 2 ^ 48) = false ∧
    onAlias.winCase ((onAlias.winBase + 64) % 2 ^ 48) 4 = .performed ∧ inAlias ((onAlias.winBase + 64) % 2 ^ 48) = true := by
  decide +kernel

/-- The logger's cause 0 is enabled; its vector is masked at reset, and unmasked in the second state. -/
def newOn : State := up.setReg 0x180044 1
def newOpen : State := newOn.setMsix 2 ⟨1, 2, false⟩

theorem wit_MessageSignalled : up.mainUp = true ∧ newOn.irq 2 = false ∧
    (newOn.setReg 0x180040 (newOn.reg 0x180040 ||| BitVec.ofNat 32 (2 ^ 0))).irq 2 = true ∧ newOn.host.msix[2].masked = true ∧
    newOpen.irq 2 = false ∧ (newOpen.setReg 0x180040 (newOpen.reg 0x180040 ||| BitVec.ofNat 32 (2 ^ 0))).irq 2 = true ∧
    newOpen.host.msix[2].masked = false := by
  decide +kernel

theorem wit_HostResets : Instr.perstN ∈ [Instr.functionLevelReset, .perstN] ∧ up.Inv ∧ up.mainUp = true :=
  ⟨by decide, up_inv, by decide +kernel⟩

theorem wit_DoorbellCopies : up.mainUp = true ∧ (up.wr MBX_BUSY_HOST 1).rd MBX_BUSY_HOST = 1 ∧ (up.wr MBX_DONE_RING 1).rd MBX_DONE_RING = 1 ∧
    up.rd MBX_BUSY_HOST = 0 ∧ up.rd MBX_DONE_HOST = 0 ∧ up.rd MBX_BUSY_RING = 0 ∧ up.rd MBX_DONE_RING = 0 := by
  decide +kernel

/-- Mailbox 0 holds a DONE record. -/
def answered : State := { up with fw := { up.fw with records := [(.host 0, ⟨0x0102, 1, some (0, []), [], false⟩)] } }

theorem wit_CommandService : codeOf .echo = some 0x0102 ∧ (asked up 0x0102 [1]).serving = true ∧
    (asked up 0x0110 []).fw.queue = cmd 0x0110 [] :: [] ∧ (cmdTable.lookup 0x0110).isSome = true ∧
    (asked answered 0x0102 [1]).seqRec (cmd 0x0102 [1]) = some ⟨0x0102, 1, some (0, []), [], false⟩ ∧
    (asked up 0x0102 []).seqRec (cmd 0x0102 []) = none ∧ lenOk 0x0102 0 [] = false ∧
    (asked up 0x7777 []).seqRec (cmd 0x7777 []) = none ∧ (cmdTable.lookup 0x7777).isSome = false ∧ up.Inv ∧ (cmd 0x0102 []).src = .host 0 :=
  by and_intros <;> first | rfl | exact up_inv

/-- The standby is READY. -/
def ready : State := up.wr GLB_CORE_STATUS_STANDBY_STATE 2
/-- The standby is SYNCING. -/
def syncing : State := up.wr GLB_CORE_STATUS_STANDBY_STATE 1

theorem wit_SystemCommands : Asks up 0x0101 [] ∧ Asks up 0x0102 [1] ∧
    Asks up 0x0902 [] ∧ Asks ready 0x0110 [] ∧
    Asks up 0x0110 [] ∧ Asks ready 0x0111 [] ∧
    Asks up 0x0111 [] ∧ ready.standby = sbREADY ∧ up.standby ≠ sbREADY ∧
    (asked ready 0x0110 []).took (cmd 0x0110 []) = [] :=
  by and_intros <;> first | exact asks (by decide +kernel) | decide +kernel

theorem wit_CoreFailure : ready.Inv ∧ ready.serving = true ∧ ready.standby = sbREADY ∧ up.Inv ∧ up.serving = true ∧ up.standby ≠ sbREADY ∧
    up.coreRuns = true ∧ ready.coreRuns = true ∧ up.duplex.resume ≠ some .simplex ∧ up.now ≤ up.duplex.lastHb + up.hbTimeout ∧
    up.log.reports.length < 64 ∧ ({ up with now := 10 ^ 9 }).duplex.lastHb + up.hbTimeout < 10 ^ 9 :=
  ⟨inv_of (by decide +kernel), by decide +kernel, by decide +kernel, up_inv, by decide +kernel⟩

theorem wit_StandbyReturns : syncing.Inv ∧ syncing.serving = true ∧ syncing.standby = sbSYNCING ∧ syncing.duplex.selftestOk = false ∧
    (syncing.setDup fun d => { d with selftestOk := true }).duplex.selftestOk = true ∧ syncing.power.swap = none ∧ syncing.fw.waiting = [] ∧
    (ready.setDup fun d => { d with handoverReq := true }).standby = sbREADY ∧
    (up.setDup fun d => { d with resume := some .takeover }).mainUp = true ∧ (up.setDup fun d => { d with resume := some .simplex }).power.swap = none :=
  ⟨inv_of (by decide +kernel), by decide +kernel⟩

/-- A frame in a receive queue of port 0. -/
def got (s : State) (cls stream : Nat) (p : List Byte) : State :=
  s.setRport 0 fun y => { y with rx := [⟨⟨cls, 7, 3, stream, 0, p⟩, 100, 0⟩] }

/-- A ring mailbox command that waits for an answer. -/
def waitsAnswer : State := { up with fw := { up.fw with ringWaits := [⟨⟨.ring 1, 0x0102, 2, 1, 7, 5, [1], false⟩, 1, 0, false, []⟩] } }

theorem wit_RingMailboxFrames : ((got up 5 1 (List.replicate 8 0)).takeRx 0 5 1).1.isSome = true ∧
    ((got up 5 2 (List.replicate 16 0)).takeRx 0 5 2).1.isSome = true ∧ (got up 5 2 []).fw.ringWaits = [] ∧
    ((got waitsAnswer 5 2 (beBytes 2 0x0102 ++ beBytes 2 2 ++ beBytes 4 1 ++ [1] ++ List.replicate 7 0)).takeRx 0 5 2).1.isSome = true ∧
    beAt (beBytes 2 0x0102 ++ beBytes 2 2 ++ beBytes 4 1 ++ [1] ++ List.replicate 7 0) 8 1 = 1 ∧
    beAt (beBytes 2 0x0102 ++ beBytes 2 2 ++ beBytes 4 1 ++ [1] ++ List.replicate 7 0) 0 2 = 0x0102 ∧
    beAt (beBytes 2 0x0102 ++ beBytes 2 2 ++ beBytes 4 1 ++ [1] ++ List.replicate 7 0) 2 2 = 2 ∧
    waitsAnswer.serving = true ∧ waitsAnswer.answerWaits ⟨⟨.ring 1, 0x0102, 2, 1, 7, 5, [1], false⟩, 1, 0, false, []⟩ = false ∧
    0 < ({ waitsAnswer with now := 1 }).now := by
  decide +kernel

/-! ### Witnesses: layers and heads -/

/-- 16 GiB of DDR5 are installed, on one channel. -/
def mem : State := { up with ddr := { up.ddr with map := some ⟨1, 8, false, [], 1, 16, 1⟩, set := 1 } }.wr DMC0_INIT_STATUS_DONE 1

/-- LAYER_DEFINE of a layer with 64 x 64 pixels of format 1 at address 0x10000. -/
def defined (l : Nat) : List Byte := pay 64 [(0, 1, l), (1, 1, 1), (4, 8, 0x10000), (20, 4, 256), (28, 2, 64), (30, 2, 64), (36, 2, 64), (38, 2, 64)]

theorem wit_LayerCommands : Asks mem 0x0201 (defined 200) ∧ mem.defineBad (defined 200) = true ∧ Asks mem 0x0201 (defined 20) ∧
    mem.defineBad (defined 20) = false ∧ mem.planesFit 1 0x10000 0 256 0 64 64 = true ∧ Asks mem 0x0201 (defined 3) ∧
    mem.defineBad (defined 3) = false ∧ (((asked mem 0x0201 (defined 3)).begun (cmd 0x0201 (defined 3)) []).newGalley 3 0).isSome = true ∧
    Asks up 0x0202 (pay 36 [(0, 1, 3)]) ∧ Asks up 0x0203 (pay 24 [(0, 1, 3)]) ∧ Asks up 0x0204 (pay 16 [(0, 1, 3)]) ∧
    Asks mem 0x0204 (pay 16 [(0, 1, 3), (8, 8, 0x2000)]) ∧ Asks up 0x0204 (pay 16 [(0, 1, 3), (8, 8, 0x2000)]) ∧ Asks up 0x0205 (pay 16 [(0, 1, 20)]) ∧
    up.hasLayer 3 = true ∧ up.hasLayer 20 = true ∧ initOk 0 = true ∧ mem.bufOk 0x2000 6150 = true ∧ up.bufOk 0x2000 6150 = false ∧
    (∀ k, k < 3 → sext 32 (leAt (pay 36 [(0, 1, 3)]) (24 + 4 * k) 4) = 0) ∧ (up.hd (up.rd (LAY_ROUTE_HEAD 3))).latchDue = false ∧
    up.commitOf 3 = none := by
  and_intros <;> first | exact asks (by decide +kernel) | decide +kernel

theorem wit_LayerScaler : Asks mem 0x0203 (pay 24 [(0, 1, 3), (12, 8, 0x2000)]) ∧ mem.bufOk 0x2000 1792 = true :=
  ⟨asks (by decide +kernel), by decide +kernel⟩

/-- 1920 x 1080 at 60 Hz. -/
def hd1080 : Timing := ⟨1920, 2200, 1080, 1125, 8, 1116, 60, 1⟩
/-- The same as a SET_TIMING payload of head 0. -/
def timing : List Byte := pay 64 [(4, 2, 1920), (6, 2, 2200), (8, 2, 1080), (10, 2, 1125), (12, 4, 60), (16, 4, 1), (20, 1, 8), (26, 1, 1)]
/-- Head 0 has map areas. -/
def areas : State := mem.setHd 0 fun x => { x with mapAreas := some (2, 3) }
/-- A Forme without layers, for a head. -/
def forme (h : Nat) : List Byte := pay 16 [(0, 1, h)]
/-- Two Formes at 0x2000, for heads 0 and 1, which run. -/
def twoFormes : State := ((mem.setBytes 0x2000 (forme 0 ++ forme 1)).setHd 0 fun x => { x with gen := true }).setHd 1 fun x => { x with gen := true }
/-- Layer 3 is live on head 0, at rest. -/
def flipped : State := (mem.setLive (HEAD_FORME_CTRL_ENTRIES 0).off 1).setLive (HEAD_FE_LAYER_LAYER 0 0).off 3

theorem wit_CommitCommands :
    (Asks up 0x0230 (forme 0) ∧ (cmd 0x0230 (forme 0)).len = 16 + 16 * leAt (forme 0) 1 1 ∧ up.formeBad 0 (forme 0) [] = false ∧
      up.modeRuns 0 = false) ∧
    (Asks up 0x0320 (pay 24 [(3, 1, 1)]) ∧ up.wbBad (pay 24 [(3, 1, 1)]) = false ∧ leAt (pay 24 [(3, 1, 1)]) 1 1 = 0) ∧
    (Asks areas 0x0401 (pay 16 [(2, 1, 16)]) ∧ (areas.hd 0).mapAreas.isSome = true ∧ areas.mapFault (pay 16 [(2, 1, 16)]) [] = none) ∧
    (Asks up 0x0240 (pay 16 []) ∧ Asks mem 0x0240 (pay 16 [(1, 1, 3), (8, 8, 0x2000)]) ∧ mem.bufOk 0x2000 24582 = true) ∧
    (Asks twoFormes 0x0231 (pay 16 [(0, 8, 0x2000), (8, 4, 32), (12, 1, 3)]) ∧ headsOf 3 = [0, 1] ∧ twoFormes.bufOk 0x2000 32 = true ∧
      splitFormes [0, 1] (twoFormes.fwRead 0x2000 32).1 = some [(0, forme 0), (1, forme 1)] ∧
      (∀ h ∈ [0, 1], twoFormes.formeBad h (forme h) [0, 1] = false ∧ (twoFormes.hd h).gen = true ∧ twoFormes.modeRuns h = false)) ∧
    Asks up 0x0231 (pay 16 [(12, 1, 1)]) ∧ (headsOf 1).length < 2 :=
  by and_intros <;> first | exact asks (by decide +kernel) | decide +kernel

/-- Head 0 composes and is about to enter Reef mode. -/
def toReef : State := (up.wr (HEAD_CTRL_REEF 0) 1).setHd 0 fun x => { x with composing := true }

theorem wit_SetTiming : Asks up 0x0301 timing ∧ up.reefPending 0 = false ∧ toReef.reefPending 0 = true ∧ up.timingBad timing = false ∧ up.formeOutside 0 (payloadTiming timing) = false := by
  have e : payloadTiming timing = hd1080 := by decide +kernel
  refine ⟨asks (by decide +kernel), by decide +kernel, by decide +kernel, ?_, by decide +kernel⟩
  unfold State.timingBad
  rw [e]
  decide +kernel

theorem wit_LayerFlip : Asks flipped 0x0210 (pay 24 [(0, 1, 3)]) ∧ flipped.hasLayer 3 = true ∧
    (List.range flipped.nHeads).find? (fun g => flipped.inLive g 3) = some 0 ∧ planesBad (flipped.rd (LAY_CTRL_FORMAT 3)) 0 0 = false ∧
    (flipped.wr (LAY_CTRL_SOURCE 3) 1).rd (LAY_CTRL_SOURCE 3) ≠ 0 :=
  ⟨asks (by decide +kernel), by decide +kernel⟩

theorem wit_HeadCommands : Asks up 0x0302 (pay 4 []) ∧ up.rd (HEAD_CTRL_EN 0) = 0 ∧ Asks up 0x0302 (pay 4 [(1, 1, 1)]) ∧
    up.rd (HEAD_STATUS_DSM_BLOCK 0) = 0 ∧ (up.wr (HEAD_STATUS_DSM_BLOCK 0) 1).rd (HEAD_STATUS_DSM_BLOCK 0) = 1 ∧
    (up.wr (HEAD_CTRL_EN 0) 1).rd (HEAD_CTRL_EN 0) = 1 ∧ Asks up 0x0310 (pay 4 []) ∧ Asks up 0x0310 (pay 4 [(1, 1, 1)]) ∧
    up.rd (HEAD_STATUS_REEF 0) = 0 ∧ up.modeRuns 0 = false ∧ (up.wr (HEAD_STATUS_REEF 0) 1).rd (HEAD_STATUS_REEF 0) = 1 :=
  by and_intros <;> first | exact asks (by decide +kernel) | decide +kernel

/-- Head 0 runs at a line of its frame, composing a line of it. -/
def running (line next : Nat) : State := (((up.wr (HPLL_CTRL_EN 0) 1).wr (HPLL_OUT_EN 0 0) 1).wr (HPLL_OUT_EN 0 1) 1).setHd 0 fun x => { x with gen := true, composing := true, tim := hd1080, ctim := hd1080, line := line, nextLine := next }

theorem wit_HeadClock : ({ up with mainUp := false }).headUp 0 = false ∧ (running 5 6).genUp 0 = true ∧ up.genUp 0 = false ∧ ((running 5 6).hd 0).gen = true ∧
    (running 5 6).pllRuns 0 0 = true ∧ up.pllRuns 0 0 = false ∧
    (((running 5 6).setHd 0 fun x => { x with latchDue := true }).hd 0).latchDue = true ∧ (running 1124 1080).lastWindow 0 = true ∧
    (running 1124 1080).deadlineDue 0 = false ∧
    (((running 1124 1080).setHd 0 fun x => { x with stopDue := true, latchDue := false, firstFrame := false }).hd 0).stopDue = true ∧
    (((running 1124 1080).setHd 0 fun x => { x with firstFrame := true }).hd 0).firstFrame = true ∧
    (let s := ((((up.wr (HPLL_CTRL_EN 0) 1).wr (HPLL_OUT_EN 0 1) 1).wr (HPLL_STATUS_LOCKED 0) 1).wr (HEAD_CTRL_EN 0) 1).setHd 0 fun x => { x with restart := some 0 };
      ({ s with now := s.restartPoint 0 0 }).restartReady 0 = true ∧ ({ s with now := s.restartPoint 0 0 }).genUp 0 = true ∧ (s.hd 0).composing = false) ∧
    (up.hd 0).gen = false := by
  decide +kernel

theorem wit_LineRows : (running 5 6).headUp 0 = true ∧ (running 5 6).released 0 = true ∧ (running 5 6).rowWait 0 6 = false ∧
    ((running 5 6).putEntries 0 6 1920 false).1 = true ∧ (running 6 6).deadlineDue 0 = true ∧
    ((running 5 6).setLive (HEAD_CAB_COUNT_COUNT 0).off 4).mapCount 0 = 4 ∧
    ((up.setLay 3 fun x => { x with waiting := some (0, 0) }).lay 3).waiting = some (0, 0) ∧ (up.hd 0).winAt < 1 ∧
    (running 5 6).cutOffPast 0 = false ∧
    (({ up with luts := up.luts.set 3 ⟨some 0, []⟩ }).luts[3]).until_ = some 0 := by
  decide +kernel

/-! ### Witnesses: Sheet and ingest -/

/-- SHEET_PORT_SET of a port. -/
def portSet (p : Nat) : List Byte := pay 28 [(0, 1, p), (1, 1, 4), (3, 1, 3), (4, 2, 0x88B6)]
/-- SHEET_PING on a port, waiting so many µs. -/
def ping (p us : Nat) : List Byte := pay 16 [(0, 1, p), (2, 2, us)]

/-- A ping of port 3, token 0, sent at time 0, has waited 10 µs; STATUS frames have arrived there. -/
def pinging (rx : List (List Byte × Nat)) : State :=
  { up.setSp 3 fun x => { x with rx := rx } with
    time := ⟨10000, 0⟩
    fw := { up.fw with waiting := [⟨cmd 0x0420 (ping 3 100), .ping 3 0 100 (some 0)⟩] } }

theorem wit_SheetCommands : Asks up 0x0410 (portSet 3) ∧ up.rd (SP_CTRL_RATE 3) = leAt (portSet 3) 1 1 / 2 % 2 ∧
    up.rd (SP_CTRL_FEC 3) = leAt (portSet 3) 1 1 / 4 % 2 ∧ 3 < up.nSheet ∧ leAt (portSet 3) 0 1 = 3 ∧ leAt (portSet 3) 4 2 = 0x88B6 ∧
    Asks up 0x0410 (portSet 200) ∧ Asks up 0x0420 (ping 3 100) ∧ Asks up 0x0420 (ping 3 0) ∧ up.serving = true ∧
    (∀ h, h < up.nHeads → up.mapEntries h = []) ∧
    (let u := (asked up 0x0410 (portSet 3)).begun (cmd 0x0410 (portSet 3)) [];
      u.rd (SP_CTRL_RATE 3) = 0 ∧ ((u.wr (SP_CTRL_RATE 3) 1).portLoad 3).le ((u.wr (SP_CTRL_RATE 3) 1).portMax 3) = true) ∧
    (let s := pinging [([], 5)]; s.serving = true ∧ (s.sp 3).rx = [([], 5)] ∧ beAt [] 0 4 = 0 ∧ 5 ≤ 0 + 100 ∧
      s.fw.waiting = [⟨cmd 0x0420 (ping 3 100), .ping 3 0 100 (some 0)⟩]) ∧
    ((pinging []).sp 3).rx = [] ∧ 0 + 100 < (pinging []).time.ns := by
  and_intros <;> first | exact asks (by decide +kernel) | exact inv_of (by decide +kernel) | decide +kernel

/-- Port 2 is enabled, without a link; with one. -/
def portOn : State := up.wr (SP_CTRL_EN 2) 1
def portLinked : State := portOn.wr (SP_STATUS_LINK 2) 1

theorem wit_SheetLinks : portOn.Inv ∧ portOn.mainUp = true ∧ ({ up with part := .sgn7220 }).nSheet ≤ 15 ∧ 2 < portOn.nSheet ∧
    portOn.rd (SP_CTRL_EN 2) = 1 ∧ portOn.rd (SP_STATUS_LINK 2) = 0 ∧ portLinked.Inv ∧ portLinked.rd (SP_STATUS_LINK 2) = 1 ∧ portLinked.pairMode 2 = 0 := by
  and_intros <;> first | exact asks (by decide +kernel) | exact inv_of (by decide +kernel) | decide +kernel

/-- A STATUS frame for a port with this EtherType. -/
def status : List Byte := List.replicate 12 0 ++ beBytes 2 0x88B6 ++ [0xFF, 0xFF, 5] ++ List.replicate 60 0
/-- A port with an EtherType, a pair and a due probe. -/
def paired : State := { (((portLinked.wr (SP_ETHERTYPE_TYPE 2) 0x88B6).wr (SP_PAIR_MODE 2) 1).wr (SP_LOOP_PERIOD 2) 100) with now := 10 ^ 6 }
/-- A slug of head 1. -/
def slug1 : Slug := ⟨1, 0, List.replicate 6 0, List.replicate 20 0, true, 2, none⟩

theorem wit_SheetFrames : (∀ q ∈ (paired.sp 3).probes, q.1 ≠ 7) ∧
    paired.mainUp = true ∧ 2 < paired.nSheet ∧ paired.rd (SP_CTRL_EN 2) = 1 ∧
    beAt status 12 2 = paired.rd (SP_ETHERTYPE_TYPE 2) ∧ beAt status 14 2 = 0xFFFF ∧ beAt status 16 1 = 5 ∧
    beAt status 12 2 ≠ up.rd (SP_ETHERTYPE_TYPE 2) ∧ paired.pairMode 2 ≠ 0 ∧ paired.loopNs 2 ≠ 0 ∧
    (paired.sp 2).lastProbe + paired.loopNs 2 ≤ paired.now ∧
    ((paired.setSp 2 fun x => { x with probes := [(7, 5)] }).sp 2).probes = [(7, 5)] ∧ 5 + paired.loopNs 2 < paired.now ∧
    9216 < (List.replicate 9213 (0 : Byte)).length + 4 ∧ slug1.at_ = none ∧ ({ slug1 with at_ := some dsmBase }).at_ = some dsmBase ∧
    (let x := (paired.setSp 2 fun x => { x with q7 := [⟨1, 0, 1, 1, 0, 8⟩] }).sp 2; x.q7.find? (x.ctrlOk (paired.copiesTo 2)) = some ⟨1, 0, 1, 1, 0, 8⟩) ∧
    (let x := (paired.setSp 2 fun x => { x with q6 := [⟨1, [], false⟩] }).sp 2; x.q7.find? (x.ctrlOk (paired.copiesTo 2)) = none ∧ x.q6 = ⟨1, [], false⟩ :: []) ∧
    (let x := (paired.setSp 2 fun x => { x with qh := x.qh.set 1 [slug1] }).sp 2;
      x.q7.find? (x.ctrlOk (paired.copiesTo 2)) = none ∧ x.q6 = [] ∧ x.nextHead = some 1 ∧ x.qh[Fin.ofNat 4 1] = slug1 :: []) ∧
    (let x := paired.sp 2;
      x.q7.find? (x.ctrlOk (paired.copiesTo 2)) = none ∧ x.q6 = [] ∧ x.nextHead = none) := by
  decide +kernel

/-- STREAM_DEFINE of a relayed stream on a line ring, without buffers; of one with buffers. -/
def relayed : List Byte := pay 64 [(0, 1, 20), (1, 1, 5), (3, 1, 96), (5, 1, 8), (6, 1, 3), (28, 2, 64), (30, 2, 64), (32, 2, 60), (36, 2, 1),
  (48, 4, 65536), (52, 2, 16), (54, 2, 9), (56, 4, 1000), (60, 2, 8), (62, 2, 10)]
def buffered : List Byte := pay 64 [(0, 1, 20), (1, 1, 3), (3, 1, 96), (5, 1, 8), (6, 1, 3), (28, 2, 64), (30, 2, 64), (32, 2, 60), (36, 2, 1),
  (48, 4, 65536), (52, 2, 16), (54, 2, 9), (56, 4, 1000), (60, 2, 8), (62, 2, 10)]
def streams (s : State) (d : List Byte) : State := (asked s 0x0510 d).begun (cmd 0x0510 d) []

theorem wit_IngestCommands : Asks up 0x0501 (pay 16 [(0, 1, 9)]) ∧ Asks up 0x0501 (pay 16 [(0, 1, 1)]) ∧ Asks up 0x0510 (pay 64 []) ∧
    (StreamDef.parse (pay 64 [])).badField = true ∧ Asks up 0x0510 buffered ∧ (StreamDef.parse buffered).badField = false ∧
    (streams up buffered).legsBad (StreamDef.parse buffered) = false ∧ ((streams up buffered).streamRead 20 && (streams up buffered).streamMoves (StreamDef.parse buffered)) = false ∧
    (streams up buffered).buffersBad (StreamDef.parse buffered) = true ∧ Asks mem 0x0510 relayed ∧ (StreamDef.parse relayed).badField = false ∧
    (StreamDef.parse relayed).k = 20 ∧ (StreamDef.parse relayed).on 0 = true ∧ (streams mem relayed).legsBad (StreamDef.parse relayed) = false ∧
    ((streams mem relayed).streamRead 20 && (streams mem relayed).streamMoves (StreamDef.parse relayed)) = false ∧ (streams mem relayed).buffersBad (StreamDef.parse relayed) = false ∧
    (streams mem relayed).sFlag 20 0 = false ∧ (match (streams mem relayed).placeStream (StreamDef.parse relayed) with
      | none => false
      | some t => let v := t.writeStream (StreamDef.parse relayed) relayed
        v.rateFits && (let w := v.streamReset 20 false; decide ((streams mem relayed).mcastLegs 20 = w.mcastLegs 20 ∧
          (streams mem relayed).sFlag 20 5 = w.sFlag 20 5))) = true := by
  and_intros <;> first | exact asks (by decide +kernel) | exact inv_of (by decide +kernel) | decide +kernel

/-- Stream 20 has been receiving; 10 ms are its loss time. -/
def receiving : State := { (((up.wr (INGS_S_STATUS_RECEIVING 20) 1).wr (INGS_S_LOSS_MS 20) 10).wr (INGS_S_STATUS_LEG1_OK 20) 1) with now := 10 ^ 8 }
/-- An ARP frame. -/
def arp : List Byte := List.replicate 12 0 ++ beBytes 2 0x0806 ++ List.replicate 46 0

theorem wit_IngestEvents : (up.wr (INGP_PORT_CTRL_EN 1) 1).rd (INGP_PORT_CTRL_EN 1) = 1 ∧ arp.length + 4 ≤ 9216 ∧ portBytes [⟨arp, true⟩] ≤ 262144 ∧ (up.portUp 1).ingest.rx[1] = [] ∧
    262144 < portBytes (List.replicate 29 ⟨List.replicate 9212 0, true⟩) ∧ up.mainUp = true ∧
    ((got up 6 9 [1]).takeRx 0 6 0).1.isSome = true ∧ receiving.rd (INGS_S_STATUS_RECEIVING 20) = 1 ∧ receiving.lossMs 20 ≠ 0 ∧
    (receiving.strm 20).lastPkt + receiving.lossMs 20 < receiving.now ∧ receiving.rd (INGS_S_STATUS_LEG1_OK 20) = 1 ∧
    (receiving.strm 20).legAt[0] + receiving.lossMs 20 < receiving.now ∧ up.serving = true ∧
    ({ up with ingest := { up.ingest with net := up.ingest.net.set 1 [⟨arp, 5⟩] } }).ingest.net[1] = [⟨arp, 5⟩] ∧ l3At arp = some 14 ∧
    etherType arp = 0x0806 ∧ (up.wr ING_PTP_STATUS_STATE 1).rd ING_PTP_STATUS_STATE ≠ 0 ∧
    (up.wr ING_PTP_STATUS_STATE 1).ingest.ptp.lastAt + 4 * (up.wr ING_PTP_STATUS_STATE 1).ingest.ptp.interval < 10 ^ 12 := by
  decide +kernel

/-! ### Witnesses: the ring -/

/-- A member of a ring, with ring ID 3, that carries it. -/
def member : State := ((((((up.wr HLY_STATUS_JOINED 1).wr HLY_RING_ID_ID 3).wr HLY_CTRL_HW_EN 1).wr HLY_CTRL_HE_EN 1).wr SHD_STATE_STATE 2).setShroud
  fun x => { x with path := 2, vaux := true, vaux18 := true })
/-- The Shroud carries the ring. -/
def through : State := (up.wr SHD_STATE_STATE 1).setShroud fun x => { x with path := 1, vaux := true, vaux18 := true }
/-- A join is under way. -/
def joining (step : JoinStep) : State := { (through.setRing fun r => { r with join := some ⟨step, 1, 3, []⟩ }) with now := 10 ^ 9 }
/-- RING_JOIN under a ring ID. -/
def joinAs (rid : Nat) : List Byte := pay 20 [(0, 2, rid), (3, 1, 6), (4, 2, 100), (6, 2, 300), (8, 4, 1000), (12, 2, 100), (14, 2, 10)]

theorem wit_RingMembershipCommands : member.ring.join = none ∧ (through.setShroud fun x => { x with path := 0 }).shroud.path ≠ 1 ∧
    Asks through 0x0601 (joinAs 0) ∧ joinRange (joinAs 0) = false ∧ Asks member 0x0601 (joinAs 3) ∧
    joinRange (joinAs 3) = true ∧ member.joined = true ∧ leAt (joinAs 3) 0 2 = member.ringId ∧ Asks through 0x0601 (joinAs 3) ∧
    through.joined = false ∧ through.shroud.path = 1 ∧ through.rd SHD_STATE_STATE = 1 ∧ through.ring.join = none ∧ Asks (joining .lock) 0x0601 (joinAs 3) ∧
    (joining .lock).ring.join.isSome = true ∧ (joining .lock).joined = false ∧ Asks member 0x0602 [] ∧ Asks through 0x0602 [] ∧
    Asks (joining .lock) 0x0602 [] ∧ Asks member 0x0603 (pay 16 []) ∧ Asks mem 0x0603 (pay 16 [(0, 8, 0x2000), (8, 4, 64)]) ∧
    mem.bufOk 0x2000 64 = true := by
  and_intros <;> first | exact asks (by decide +kernel) | exact inv_of (by decide +kernel) | decide +kernel

/-- RING_COPY of 64 bytes to ring ID 7; RING_WB_RELAY of head 0; RING_POLICE_SET of policer 5 for stream 9. -/
def copy : List Byte := pay 32 [(0, 2, 7), (2, 1, 1), (4, 2, 10), (8, 8, 0x2000), (24, 4, 64)]
def relay : List Byte := pay 24 [(2, 2, 7), (4, 1, 1), (5, 1, 1)]
def police : List Byte := pay 16 [(0, 1, 5), (1, 1, 1), (4, 2, 9), (6, 2, 64), (8, 4, 100)]
/-- RING_SCHED_SET of port HW, and RING_GATE_SET of it with one entry. -/
def sched : List Byte := pay 84 ([(4, 1, 1), (5, 1, 1), (6, 1, 1), (7, 1, 1), (8, 1, 1)] ++ (List.range 7).flatMap fun q => [(12 + 2 * q, 2, 64), (32 + 8 * q, 2, 33)])
def gates : List Byte := pay 40 [(1, 1, 1), (2, 2, 1), (4, 4, 1000000), (20, 4, 1000), (24, 8, 0x2000)]
/-- One gate entry stands at 0x2000. -/
def gated : State := (asked (mem.setBytes 0x2000 [0x7F, 0x40, 0x42, 0x0F]) 0x0641 gates).begun (cmd 0x0641 gates) []

/-- A member with DDR5. -/
def memberMem : State := { member.wr DMC0_INIT_STATUS_DONE 1 with ddr := mem.ddr }

theorem wit_RingTrafficCommands : (Asks memberMem 0x0620 copy ∧ leAt copy 24 4 ≠ 0 ∧ leAt copy 4 2 ≠ 0 ∧ memberMem.joined = true ∧ memberMem.bufOk 0x2000 64 = true ∧
      leAt copy 0 2 ∉ [0, 0xFFFF, member.ringId] ∧
      (asked memberMem 0x0620 copy).took (cmd 0x0620 copy) = []) ∧
    (Asks (member.wr (HEAD_WB_CTRL_FORMAT 0) 1) 0x0630 relay ∧ (member.wr (HEAD_WB_CTRL_FORMAT 0) 1).rd (HEAD_WB_CTRL_FORMAT (leAt relay 0 1)) ∈ [1, 3, 5]) ∧
    (Asks up 0x0642 police ∧ leAt police 4 2 ≠ 0 ∧ leAt police 4 2 ≤ 4095 ∧ leAt police 8 4 ≤ 1048575) ∧
    (Asks up 0x0640 (pay 84 []) ∧ schedRange (pay 84 []) = false ∧ Asks up 0x0640 sched ∧ schedRange sched = true ∧
      (((asked up 0x0640 sched).begun (cmd 0x0640 sched) []).schedApply sched).isSome = true) ∧
    Asks up 0x0641 (pay 40 []) ∧ gateRange (pay 40 []) = false ∧ Asks (mem.setBytes 0x2000 [0x7F, 0x40, 0x42, 0x0F]) 0x0641 gates ∧
    gateRange gates = true ∧ gated.bufOk 0x2000 4 = true ∧
    (let r := gated.fwRead 0x2000 4
      let g := r.2.gateOf gates r.1;
      (∀ e ∈ g.1.entries, e.2 ≠ 0) ∧ g.1.tooShort = false) := by
  and_intros <;> first | exact asks (by decide +kernel) | exact inv_of (by decide +kernel) | decide +kernel

/-- A frame of a class and stream from ring ID 7 to this device, with a good CRC. -/
def wire (cls stream : Nat) : List Byte := (HFrame.mk cls 7 3 stream 0 [1, 2, 3, 4]).wire false
/-- The same with its last bit inverted. -/
def bent (cls stream : Nat) : List Byte := let w := wire cls stream; w.take (w.length - 1) ++ [w.getD (w.length - 1) 0 ^^^ 1]

theorem wit_RingReception : member.Inv ∧ member.shroud.path = 2 ∧ member.mainUp = true ∧ member.portEn 0 = true ∧ member.joined = true ∧
    ({ through with mainUp := false }).shroud.path = 1 ∧ crcState (wire 5 0) = .good ∧ crcState ((HFrame.mk 5 7 3 0 0 [1]).wire true) = .stomped ∧
    crcState (bent 5 0) = .bad ∧ (HFrame.parse (wire 5 0)).cls = 5 ∧ (HFrame.parse (wire 5 0)).stream = 0 ∧
    (member.wr HLY_STATUS_JOINED 0).joined = false ∧ (member.wr HLY_STATUS_JOINED 0).shroud.path = 2 :=
  ⟨inv_of (by decide +kernel), by decide +kernel⟩

/-- A member late in its run, with links and nothing sent; one that is the time master. -/
def late : State := { ((member.wr HLY_STATUS_HW_LINK 1).wr HLY_BEACON_PERIOD 1000) with now := 10 ^ 9, time := ⟨10 ^ 9, 0⟩ }
def timeMaster : State := (late.wr HLY_TIME_MASTER_ID 3).wr HLY_TIME_CFG_SYNC_PERIOD 1000
/-- A member that knows one other device. -/
def knows : State := late.setRing fun r => { r with members := [⟨9, 1, 2, 0, 0, 1, 0⟩] }
/-- A BEACON of device 5 (serial number), as payload. -/
def beacon5 : List Byte := beBytes 8 5 ++ List.replicate 24 0
/-- A frame from this device itself, received back. -/
def own (p : List Byte) : State := late.setRport 0 fun y => { y with rx := [⟨⟨5, 3, 0xFFFF, 0, 0, p⟩, 100, 100⟩] }
/-- The link delay of port HW has been measured. -/
def measured : State := late.setRport 0 fun y => { y with pdHist := [100], pdOpen := some (7, 50) }

theorem wit_RingControlFrames : late.mainUp = true ∧ late.joined = true ∧ late.ring.leaving = false ∧ late.rd HLY_BEACON_PERIOD ≠ 0 ∧
    late.ring.lastBeacon + late.rd HLY_BEACON_PERIOD * 1000 ≤ late.now ∧ late.rd (linkFld 0) = 1 ∧ (late.rport 0).pdLast + 1000000 ≤ late.now ∧
    timeMaster.rd HLY_TIME_MASTER_ID = timeMaster.ringId ∧ timeMaster.ringId ≠ 0 ∧ timeMaster.rd HLY_TIME_CFG_SYNC_PERIOD ≠ 0 ∧
    timeMaster.ring.lastSync + timeMaster.rd HLY_TIME_CFG_SYNC_PERIOD * 1000 ≤ timeMaster.now ∧
    ((own beacon5).takeRx 0 5 0).1.isSome = true ∧ ((own beacon5).takeRx 0 5 0).2.purgeEnds.ringId = 3 ∧
    ((own beacon5).takeRx 0 5 0).2.purgeEnds.joined = true ∧
    ((got late 5 0 beacon5).takeRx 0 5 0).1.isSome = true ∧
    (((got late 5 0 beacon5).takeRx 0 5 0).2.purgeEnds.beaconEnds 7 (beAt beacon5 12 2)).ring.members = [] ∧ beAt beacon5 8 1 ≠ 1 ∧
    (knows.ring.members.find? fun m => decide (m.rid = (9 : BitVec 16).toNat)) = some ⟨9, 1, 2, 0, 0, 1, 0⟩ ∧ knows.lossNs ≠ 0 ∧ 0 + knows.lossNs < knows.now ∧
    knows.beaconWaits ⟨9, 1, 2, 0, 0, 1, 0⟩ = false ∧
    (∀ m ∈ ((own beacon5).takeRx 0 5 0).2.purgeEnds.ring.members, m.rid = 3 → 100 ≤ m.at_ + (own beacon5).lossNs) ∧
    ((got late 7 1 (beBytes 4 1)).takeRx 0 7 1).1.isSome = true ∧
    ((got measured 7 2 (beBytes 4 7 ++ List.replicate 28 0)).takeRx 0 7 2).1.isSome = true ∧
    (((got measured 7 2 (beBytes 4 7 ++ List.replicate 28 0)).takeRx 0 7 2).2.rport 0).pdOpen = some (7, 50) ∧
    (let s := got (measured.wr HLY_TIME_MASTER_ID 7) 7 0 (List.replicate 32 0)
     let t := (s.takeRx 0 7 0).2;
      (s.takeRx 0 7 0).1.isSome = true ∧ (t.rport 0).delay16.isSome = true ∧ t.rd HLY_TIME_MASTER_ID = 7 ∧ t.ringId ≠ 7 ∧
        t.ring.syncUsed = none ∧ t.timeLate 0 = false) := by
  decide +kernel

theorem wit_RingLinks : late.mainUp = true ∧ late.rd (linkFld 0) = 1 ∧ member.portEn 0 = true ∧ member.rd (linkFld 0) = 0 ∧
    (member.joined && !(member.rport 0).fault && member.faultHits 0 .lock) = false ∧ late.joined = true ∧
    (late.rport 0).lostAt = none ∧ ((late.setRport 0 fun y => { y with lostAt := some 5 }).rport 0).lostAt = some 5 ∧
    5 + max 6 (late.rd HLY_WRAP_CFG_HOLDOFF) * 1000 < late.now ∧ ((late.setRport 0 fun y => { y with uncorr := List.replicate 7 late.now }).rport 0).uncorr.length = 7 ∧
    (let s := late.setRport 0 fun y => { y with fault := true, cleanSince := some 0 };
      s.joined = true ∧ (s.rport 0).fault = true ∧ (s.rport 0).cleanSince = some 0 ∧ s.rd HLY_WRAP_CFG_RESTORE ≠ 0 ∧ 0 + s.rd HLY_WRAP_CFG_RESTORE * 1000000 ≤ s.now ∧
        (s.rport 0).unwrapAt = none ∧ (s.rport 0).hearsRf = false) ∧
    (let s := (late.wr (wrapFld 0) 1).setRport 0 fun y => { y with unwrapAt := some 5 };
      (s.rport 0).unwrapAt = some 5 ∧ s.wrapped 0 = true ∧ 5 ≤ s.time.ns) ∧
    ((got late 5 3 [0, 9, 1, 0]).takeRx 0 5 3).1.isSome = true ∧ beAt [0, 9, 1, 0] 3 1 = 0 := by
  decide +kernel

/-- A window of 64 KiB at 0x10000 in DDR5. -/
def windowed : State := ((mem.wr HLY_WIN_LO_ADDR 1).wr HLY_WIN_SIZE_SIZE 1)
/-- A transfer being sent. -/
def bulk (done : Bool) : BulkTx := ⟨4, 7, 1, 0x2000, 0, 64, 10, 1, some 5, done⟩
def sending (done : Bool) : State := late.setRing fun r => { r with bulkTx := [bulk done] }
/-- A gate list. -/
def list : GateList := ⟨[(0x7F, 1000)], 1000, 0⟩

theorem wit_RingTraffic : (sending false).bulkAckWaits (bulk false) 5 = false ∧
    ((got up 1 4 (List.replicate 40 0)).rport 0).rx.find? (fun x => x.frame.cls < 5) =
      some ⟨⟨1, 7, 3, 4, 0, List.replicate 40 0⟩, 100, 0⟩ ∧ up.bulkWindow = none ∧ windowed.bulkWindow = some (65536, 65536) ∧ (65536 : Nat) < beAt (beBytes 8 65536) 0 8 + 8 ∧
    ((got late 5 4 [0, 4]).rport 0).rx.find? (fun x => decide (x.frame.cls = 5 ∧ x.frame.stream = 4)) = some ⟨⟨5, 7, 3, 4, 0, [0, 4]⟩, 100, 0⟩ ∧
    (∀ q : Fin 2, ∀ y ∈ ((got late 5 4 [0, 4]).rport q).rx, ¬ (y.frame.cls < 5 ∧ y.frame.src = 7 ∧ y.frame.stream = beAt [0, 4] 0 2)) ∧
    (let s := got (sending true) 5 5 [0, 4, 0, 0, 0, 0, 0, 1];
      (s.takeRx 0 5 5).1 = some ⟨⟨5, 7, 3, 5, 0, [0, 4, 0, 0, 0, 0, 0, 1]⟩, 100, 0⟩ ∧ s.ring.bulkTx = [bulk true] ∧
      s.now ≤ late.now ∧ ({ s with now := 5 }).now ≤ 5) ∧ bulkFrames (bulk true).bytes = beAt [0, 4, 0, 0, 0, 0, 0, 1] 4 4 ∧
    bulkFrames (bulk true).bytes ≠ beAt [0, 4, 0, 0, 0, 0, 0, 0] 4 4 ∧ (bulk true).attempts < 3 ∧
    3 ≤ ({ bulk true with attempts := 3 }).attempts ∧
    (bulk true).xfer = beAt [0, 4, 0, 0, 0, 0, 0, 1] 0 2 ∧ (bulk true).dest = 7 ∧ (bulk true).doneSent = true ∧
    (sending false).serving = true ∧ (sending false).ring.bulkTx = [bulk false] ∧ (bulk false).deadline = some 5 ∧ 5 < (sending false).now ∧
    late.mainUp = true ∧ late.shroud.path = 2 ∧
    ((late.wr (HLYQ_GATE_CTRL_EN 0) 1).setRport 0 fun y => { y with oper := some list }).governs 0 = some list ∧
    (let s := late.setRport 0 fun y => { y with pend := some list };
      (s.rport 0).pend = some list ∧ list.start ≤ s.time.ns) ∧ late.time.ns < ({ list with start := 10 ^ 10 }).start := by
  decide +kernel

theorem wit_ShroudEvents : late.Inv ∧ late.mainUp = true ∧ late.shroud.path = 2 ∧
    late.shroud.lastHb + max 5 (late.rd SHD_HB_TIMEOUT) * 100 < late.now ∧ up.mainUp = true ∧ member.shroud.path = 2 ∧
    member.now ≤ member.shroud.lastHb + max 5 (member.rd SHD_HB_TIMEOUT) * 100 ∧ member.mainUp = true ∧ through.Inv ∧ through.rd SHD_STATE_STATE = 1 ∧
    (let s := { (through.wr SHD_STATE_STATE 0) with now := 10 ^ 6 };
      s.auxGood = true ∧ s.rd SHD_STATE_STATE = 0 ∧ s.shroud.goodSince + 1000000 ≤ s.now) ∧
    up.auxGood = false ∧ (up.setShroud fun x => { x with vaux := true, vaux18 := true }).auxGood = true ∧ through.auxGood = true ∧
    ({ through with mainUp := false }).mainUp = false ∧ (through.setShroud fun x => { x with vaux := false, vaux18 := true }).auxGood = false ∧
    late.rd SHD_STATE_STATE = 2 ∧ late.ring.join = none ∧ late.fw.waiting = [] ∧
    (let s := late.setShroud fun x => { x with vaux := true, vaux18 := true };
      s.auxGood = true ∧ s.rd SHD_STATE_STATE = 2 ∧ s.ring.join = none ∧ s.fw.waiting = []) ∧
    (let s := (through.wr SHD_CAUSE_CAUSE 3).setShroud fun x => { x with takenAt := some 0 };
      s.Inv ∧ s.auxGood = true ∧ s.rd SHD_STATE_STATE ≠ 2 ∧ s.rd SHD_STATE_STATE ≠ 3 ∧ s.shroud.takenAt = some s.now ∧
        causeRank 2 < causeRank (s.rd SHD_CAUSE_CAUSE)) := by
  and_intros <;> first | exact inv_of (by decide +kernel) | decide +kernel

theorem wit_HandbackSteps : (joining (.listen 0 true false)).joinSound 0 = true ∧
    ((joining (.listen 0 true false)).setRport 0 fun y => { y with badAt := some 5 }).joinSound 0 = false ∧
    (joining (.listen 0 false true)).ring.join = some ⟨.listen 0 false true, 1, 3, []⟩ ∧
    0 + 2 * (joining (.listen 0 false true)).lossNs ≤ (joining (.listen 0 false true)).now ∧
    (joining (.listen 0 false true)).ring.members = [] ∧
    ((joining (.listen 0 false true)).setRing fun r => { r with members := [⟨3, 77, 2, 0, 0, 1, 0⟩] }).ring.members = [⟨3, 77, 2, 0, 0, 1, 0⟩] ∧
    (77 : Nat) ≠ up.fuses.serial ∧ (joining (.listen 0 true false)).ring.join = some ⟨.listen 0 true false, 1, 3, []⟩ ∧
    0 + 1000000 ≤ (joining (.listen 0 true false)).now ∧
    ((joining .lock).setJoin fun j => { j with tries := 3 }).ring.join = some ⟨.lock, 3, 3, []⟩ ∧
    (joining (.matching true false)).ring.join = some ⟨.matching true false, 1, 3, []⟩ ∧
    (joining (.switching true false)).ring.join = some ⟨.switching true false, 1, 3, []⟩ ∧ (joining .member).ring.join = some ⟨.member, 1, 3, []⟩ ∧
    (joining .member).serving = true ∧
    (let s := ((joining .member).setRport 0 fun y => { y with pdHist := [9] }).setRport 1 fun y => { y with pdHist := [9] };
      (s.rport 0).delay16.isSome = true ∧ (s.rport 1).delay16.isSome = true) ∧
    (joining .lock).Inv ∧ (joining .lock).ring.join = some ⟨.lock, 1, 3, []⟩ ∧
    (let s := late.setRing fun r => { r with leaving := true };
      s.ring.leaving = true ∧ s.shroud.path = 2 ∧ s.rqueue 0 5 = [] ∧ s.rqueue 1 5 = []) := by
  and_intros <;> first | exact inv_of (by decide +kernel) | decide +kernel

/-! ### Witnesses: Densum and DDR5 -/

/-- Region 5 is a SEALED region of the host, pages 128 to 143. -/
def sealedRegion : State := { (up.dsmSetRegion 5 8 1 0x2 0x2 true true) with now := 10 ^ 9 }

theorem wit_DensumLines : up.mainUp = true ∧ (up.firmwareRegions.upset dsmBase []).dsmAllowed 0 0 false = true ∧
    (up.upset dsmBase []).dsmAllowed 0 0 false = false ∧ up.firmwareRegions.dsmAllowed 0 64 true = true ∧ up.dsmAllowed 0 64 true = false ∧
    ({ sealedRegion with now := 0 }).pageSeal 130 = some ⟨false, 0, false⟩ ∧
    0 < 0 + 1000 * max 16 (({ sealedRegion with now := 0 }).rd DSM_SEAL_CTRL_QUIET) ∧ sealedRegion.pageSeal 130 = some ⟨false, 0, false⟩ ∧
    0 + 1000 * max 16 (sealedRegion.rd DSM_SEAL_CTRL_QUIET) < sealedRegion.now ∧
    up.coreHeld 1 = true ∧ up.coreHeld 0 = false := by
  decide +kernel

theorem wit_SealPage : ∀ i, i < 64 → (sealedRegion.innerRead (lineKey 130 i)).bad = false := by
  intro i _
  have hb : ∀ a, sealedRegion.byte a = 0 := fun _ => by rfl
  have hc : ∀ a, sealedRegion.cerrAt a = 0 := fun _ => by rfl
  simp only [State.innerRead, hb, hc]
  decide +kernel

/-- Two upsets in one byte of the first line of page 130. -/
theorem wit_SealFail : let s := sealedRegion.upset (lineKey 130 0) [(0, 0), (0, 1)]
    s.mainUp = true ∧ s.pageSeal 130 = some ⟨false, 0, false⟩ ∧ 0 + 1000 * max 16 (s.rd DSM_SEAL_CTRL_QUIET) < s.now ∧
    (s.innerRead (lineKey 130 0)).bad = true := by
  decide +kernel

/-- DSM_REGION_ALLOC of 64 KiB; SCRUB of a page; DSM_REPAIR of row 7 of bank 3. -/
def alloc : List Byte := pay 16 [(0, 4, 65536), (6, 2, 2), (8, 2, 2)]
def scrubPage : List Byte := pay 16 [(0, 8, dsmBase), (8, 4, 4096)]
def repairRow : List Byte := pay 8 [(0, 1, 3), (2, 2, 7)]
/-- All of Densum is one region. -/
def full : State := up.dsmSetRegion 0 0 2048 0 0 false false
/-- Every spare row of bank 3 is used. -/
def spent : State := up.setDsm fun d => { d with spares := (List.range (64)).map fun n => ⟨3, false, n, n⟩ }
/-- A scrub and a repair under way. -/
def scrubbing : State := up.setDsm fun d => { d with scrub := some ⟨dsmBase, dsmBase + 4096, dsmBase, false, 0, 0, 0, 0, 0, 0, 0, [], false, 0⟩ }
def repairing (l : List Nat) : State := up.setDsm fun d => { d with repair := some ⟨3, false, 7, 0, false, l, [], [], [], false⟩ }

theorem wit_DensumWork : Asks up 0x0702 (pay 8 []) ∧ (Asks up 0x0710 alloc ∧ (asked up 0x0710 alloc).took (cmd 0x0710 alloc) = [] ∧
      (((asked up 0x0710 alloc).begun (cmd 0x0710 alloc) []).dsmNewRegion 1 2 2 false true).isSome = true ∧
      (((asked full 0x0710 alloc).begun (cmd 0x0710 alloc) []).dsmNewRegion 1 2 2 false true).isNone = true ∧ Asks full 0x0710 alloc) ∧
    (Asks up 0x0711 (pay 4 [(0, 1, 5)]) ∧ up.rd (DSM_REG_CTRL_EN 5) = 0 ∧ Asks sealedRegion 0x0711 (pay 4 [(0, 1, 5)]) ∧
      sealedRegion.rd (DSM_REG_CTRL_EN 5) = 1 ∧ sealedRegion.rd (DSM_REG_CTRL_OWNER 5) = 1) ∧
    (Asks up 0x0720 scrubPage ∧ inDsm (leAt scrubPage 0 8) = true ∧ leAt scrubPage 0 8 + leAt scrubPage 8 4 ≤ dsmBase + dsmSize) ∧
    (Asks up 0x0730 repairRow ∧ (asked up 0x0730 repairRow).took (cmd 0x0730 repairRow) = [] ∧
      (((asked up 0x0730 repairRow).begun (cmd 0x0730 repairRow) []).freeSpare 3 false).isSome = true ∧ Asks spent 0x0730 repairRow ∧
      ((asked spent 0x0730 repairRow).begun (cmd 0x0730 repairRow) []).freeSpare 3 false = none ∧
      (asked spent 0x0730 repairRow).took (cmd 0x0730 repairRow) = []) ∧
    up.mainUp = true ∧ scrubbing.dsm.scrub.isSome = true ∧ (∃ j, (repairing [64]).dsm.repair = some j ∧ j.toCopy = 64 :: []) ∧
    (∃ j, (repairing []).dsm.repair = some j ∧ j.toCopy = []) := by
  and_intros <;> first | exact asks (by decide +kernel) | exact ⟨_, rfl, rfl⟩ | decide +kernel

/-- Two mirrored channels of 16 GiB. -/
def mirror : State := { up with ddr := { up.ddr with map := some ⟨0, 8, true, [], 2, 16, 1⟩, set := 2 } }.wr DMC0_INIT_STATUS_DONE 1
/-- Channel 0 is retired; is draining; resilvers from a line. -/
def retired : State := mirror.wr (DMC_STATUS_RETIRED 0) 1
def draining : State := mirror.setChan 0 fun x => { x with retiring := true }
def resilver (next : Nat) : State := mirror.setChan 0 fun x => { x with resilver := some (next, 5) }
/-- MEM_CONFIG of the linear mapping; DDR_SCRUB of 64 KiB. -/
def config : List Byte := pay 84 [(0, 1, 1), (1, 1, 16)]
def scrub64 : List Byte := pay 16 [(8, 4, 65536)]

theorem wit_MemoryWork : retired.rd (DMC_SLOT_PWR_EN 0) = 0 ∧ (retired.chan 0).retiring = false ∧ retired.chanOut (partner 0) = false ∧
    Asks draining 0x0740 (pay 4 []) ∧ (draining.chan 0).retiring = true ∧ draining.chanOut (partner 0) = false ∧
    (let s := mirror.wr (DMC_STATUS_RETIRED 1) 1; s.chanOut (partner 0) = true ∧ s.mirrored = true ∧ Asks s 0x0740 (pay 4 [])) ∧
    (Asks up 0x0701 config ∧ leAt config 0 1 = 1 ∧ leAt config 1 1 = 16 ∧
      (let m : DdrMap := { ((asked up 0x0701 config).begun (cmd 0x0701 config) []).mapRegs with mode := 1, grain := 16, mirror := false, masks := [] };
        m.valid = true ∧ m.mirrorOk = true)) ∧
    (Asks up 0x0721 scrub64 ∧ up.ddrBytes < leAt scrub64 0 8 + leAt scrub64 8 4 ∧ Asks mem 0x0721 scrub64 ∧
      leAt scrub64 0 8 + leAt scrub64 8 4 ≤ mem.ddrBytes) ∧
    (Asks up 0x0740 (pay 4 []) ∧ up.ddr.set ≤ 0 ∧ (asked mirror 0x0740 (pay 4 [])).took (cmd 0x0740 (pay 4 [])) = [] ∧ Asks retired 0x0740 (pay 4 []) ∧ 0 < retired.ddr.set ∧ retired.mirrored = true ∧
      retired.rd (DMC_STATUS_RETIRED 0) = 1 ∧ Asks mirror 0x0740 (pay 4 []) ∧ mirror.rd (DMC_STATUS_RETIRED 0) = 0 ∧
      (mirror.chan 0).retiring = false ∧ mirror.chanOut (partner 0) = false ∧ mirror.rd (DMC_STATUS_RESILVER (partner 0)) = 0 ∧
      (mirror.chan (partner 0)).badSince = false) ∧
    Asks retired 0x0741 (pay 4 []) ∧
    (draining.mainUp = true ∧ draining.serving = true ∧ (draining.chan 0).retiring = true ∧ (draining.chan 0).rdQ = [] ∧
      (draining.chan 0).wrQ = [] ∧ (draining.chan 0).flight = [] ∧ (draining.chan 0).stalled = []) ∧
    (up.setDdr fun d => { d with scrub := some ⟨0, 65536, false, 0, 0, 0, 0, []⟩ }).ddr.scrub.isSome = true ∧
    ((resilver (16 * 2 ^ 30)).chan 0).resilver = some (16 * 2 ^ 30, 5) ∧
    (resilver (16 * 2 ^ 30)).ddrBytes ≤ (resilver (16 * 2 ^ 30)).nextOnPair 0 (16 * 2 ^ 30) ∧ ((resilver 0).chan 0).resilver = some (0, 5) ∧
    (resilver 0).nextOnPair 0 0 < (resilver 0).ddrBytes ∧ (resilver 0).rd DMC0_RESILVER_RATE ≠ 0 ∧
    (resilver (16 * 2 ^ 30)).rd DMC0_RESILVER_RATE ≠ 0 ∧ mem.Inv ∧ (mem.setDdr fun d => { d with fill := some 3 }).Inv ∧
    (mem.setDdr fun d => { d with fill := some 3 }).ddr.fill = some 3 ∧ mem.ddr.fast = false ∧ 3 + 1 < mem.granules := by
  and_intros <;> first | exact asks (by decide +kernel) | exact inv_of (by decide +kernel) | decide +kernel

/-- A read of line 0 by the HST port. -/
def entry : DdrEntry := ⟨1, .be 0, .read, 0, List.replicate 64 none, false, none⟩

/-- Channel 0 runs with one rank, long after reset. -/
def ranked : State :=
  { (((mem.wr (DMC_DIMM_RANKS 0) 1).wr (DMC_CTRL_EN 0) 1).wr (DMC_STATUS_POWERED 0) 1) with now := 2 * 10 ^ 9, time := ⟨10 ^ 9, 0⟩ }

theorem wit_MemoryEvents : mem.mainUp = true ∧ (mem.wr (DMC_STATUS_SELF_REFRESH 0) 1).rd (DMC_STATUS_SELF_REFRESH 0) = 1 ∧
    mem.rd (DMC_STATUS_SELF_REFRESH 0) = 0 ∧
    (((mem.setChan 0 fun x => { x with due := x.due.set 0 1 }).postpone 0).refreshPick 0).isSome = true ∧
    (let t := (ranked.setChan 0 fun x => { x with rdQ := [entry] }).postpone 0;
      t.refreshForced 0 = none ∧ t.owedPick 0 = none ∧ t.refreshPick 0 = none ∧ (t.chan 0).mitigate = [] ∧ t.accessPick 0 = some entry) ∧
    ranked.rd (DMC_STATUS_SELF_REFRESH 0) = 0 ∧
    (let t := (ranked.setChan 0 fun x => { x with mitigate := [(3, 7)] }).postpone 0;
      t.refreshForced 0 = none ∧ t.owedPick 0 = none ∧ t.refreshPick 0 = none ∧
        (t.chan 0).mitigate.find? (fun m => !t.bankTaken 0 m.1) = some (3, 7)) ∧
    mem.now < (mem.chan 0).polledAt + 32000000 ∧ (ranked.chan 0).polledAt + 32000000 ≤ ranked.now ∧ ranked.rd (DMC_STATUS_HOT 0) = 0 ∧
    0 < ranked.nDdr ∧ ranked.rd (DMC_STATUS_POWERED 0) = 1 ∧
    (let t := (ranked.setChan 0 fun x => { x with postponed := x.postponed.set 3 4 }).postpone 0;
      t.refreshForced 0 = some 3 ∧ t.indexTaken 0 3 = false ∧
      (t.setChan 0 fun x => { x with taken := [(12, 10 ^ 10)] }).indexTaken 0 0 = true) ∧
    (let t := (ranked.setChan 0 fun x => { x with rdQ := [entry], beWait := 9 }).postpone 0;
      t.refreshForced 0 = none ∧ t.owedPick 0 = some entry) ∧
    ((mem.setChan 0 fun x => { x with flight := [entry] }).chan 0).flight = entry :: [] ∧ entry.kind ≠ .merge ∧ mem.panic = false ∧
    (0 < ranked.rd (DMC_DIMM_RANKS 0) ∧ (ranked.chan 0).refAt[0] + ranked.tRefi 0 ≤ ranked.now ∧ ranked.panic = false ∧
      (∀ b : Fin 8, b.val / 4 = 0 → (ranked.chan 0).due[b] = 0)) ∧
    mem.rd (DMC_DIMM_RANKS 0) ≤ 0 ∧ ranked.time.ns / 32000000 ≠ ranked.ddr.window ∧ mem.time.ns / 32000000 = mem.ddr.window ∧
    (ranked.duplex.fwUp = true ∧ ranked.rd (DMC_CTRL_EN 0) = 1 ∧
      ((ranked.setChan 0 fun x => { x with drift := [(3, 9, some 0)] }).chan 0).drift = [(3, 9, some 0)] ∧ 0 + 1000000000 < ranked.now ∧
      (ranked.chan 0).oscAt + 100000000 ≤ ranked.now) ∧ mem.now < (mem.chan 0).oscAt + 100000000 ∧
    mem.rd (DMC_STATUS_HOT 0) = 0 ∧ (mem.chan 0).drift = [] ∧ (mem.wr (DMC_TRAIN_CTRL_BUSY 0) 1).Inv ∧
    (mem.wr (DMC_TRAIN_CTRL_BUSY 0) 1).rd (DMC_TRAIN_CTRL_BUSY 0) = 1 ∧ (mem.chan 0).phase = .none ∧
    (let s := { (mem.setChan 0 fun x => { x with phase := .pmic 0 }) with now := 10 ^ 9 };
      s.serving = true ∧ (s.chan 0).phase = .pmic 0 ∧ 0 + 20000000 ≤ s.now ∧ s.ddrBooting = false) := by
  and_intros <;> first | exact asks (by decide +kernel) | exact inv_of (by decide +kernel) | decide +kernel

/-! ### Witnesses: DMA and the raster engine -/

/-- A descriptor or command with this control word. -/
def desc (n c : Nat) : List Byte := pay n [(0, 4, c)]
/-- Channel 2 is ACTIVE in a phase, with a descriptor. -/
def channel (ph : DmaPhase) (d : List Byte) : State := (mem.setDch 2 fun x => { x with phase := ph, desc := d }).wr (DMACH_CH_STATUS_STATE 2) 1
/-- DMA_CHANNEL_SET of channel 2, BLT_QUEUE_SET, with a ring at 0x2000. -/
def dmaSet : List Byte := pay 20 [(0, 1, 2), (4, 8, 0x2000), (12, 2, 16), (14, 2, 1)]
def bltSet : List Byte := pay 16 [(2, 2, 16), (8, 8, 0x2000)]

theorem wit_DmaChannels : ((channel .none []).wr (DMACH_CH_STATUS_STATE 2) 2).rd (DMACH_CH_STATUS_STATE 2) = 2 ∧
    (((channel (.burst 0) (desc 64 1)).dch 2).mismatch = none ∧
      descCnt (desc 64 1) 1 * descCnt (desc 64 1) 2 ≤ ((channel (.burst 0) (desc 64 1)).dch 2).bursts + 1) ∧
    (Asks up 0x0801 dmaSet ∧ up.dmaRingOk 0x2000 1024 = false ∧ Asks mem 0x0801 dmaSet ∧ mem.dmaRingOk 0x2000 1024 = true ∧
      mem.rd (DMACH_CH_STATUS_STATE 2) ≠ 1 ∧ mem.rd (DMACH_CH_STATUS_STATE 2) ≠ 2 ∧ (channel .none []).dmaRingOk 0x2000 1024 = true ∧
      Asks (channel .none []) 0x0801 dmaSet ∧ mem.Inv) ∧
    (Asks up 0x0802 (pay 4 [(0, 1, 16)]) ∧ Asks up 0x0802 (pay 4 [(0, 1, 15), (1, 1, 1)])) ∧
    (Asks up 0x0810 bltSet ∧ up.dmaRingOk 0x2000 2048 = false ∧ Asks mem 0x0810 bltSet ∧ mem.dmaRingOk 0x2000 2048 = true ∧
      mem.rd BLT_STATUS_STATE ≠ 1 ∧ mem.rd BLT_STATUS_STATE ≠ 2 ∧ Asks (mem.wr BLT_STATUS_STATE 2) 0x0810 bltSet ∧
      (mem.wr BLT_STATUS_STATE 2).dmaRingOk 0x2000 2048 = true) ∧
    (channel .ready (desc 64 0x81)).Inv ∧ (channel .ready (desc 64 0x81)).dmaCounts 2 0 = true ∧
    (∀ d : Fin 16, d ≠ 2 → (channel .ready (desc 64 0x81)).dmaCounts d 0 = false) ∧
    (channel .ready (desc 64 0x81)).rd (DMACH_REQ_PEND_COUNT 2) < 255 ∧
    ((channel .ready (desc 64 0x81)).wr (DMACH_REQ_PEND_COUNT 2) 255).rd (DMACH_REQ_PEND_COUNT 2) = 255 ∧
    mem.flag (DMACH_CH_CTRL_EN 2) = false ∧ (mem.wr (DMACH_CH_CTRL_EN 2) 1).flag (DMACH_CH_CTRL_EN 2) = true ∧
    ((mem.wr (DMACH_CH_CTRL_EN 2) 1).wr (DMACH_RING_SIZE_SIZE 2) 0).dmaZero 2 = true ∧ mem.rd (DMACH_CH_STATUS_STATE 2) = 0 ∧
    (let s := ((mem.wr (DMACH_CH_CTRL_EN 2) 1).wr (DMACH_RING_SIZE_SIZE 2) 16).wr (DMACH_BUDGET_COUNT 2) 9;
      s.flag (DMACH_CH_CTRL_EN 2) = true ∧ s.dmaZero 2 = false ∧ s.rd (DMACH_CH_STATUS_STATE 2) = 0) ∧
    mem.dmaLate 0 = false ∧ ({ mem with now := 10 ^ 9 }).dmaLate 0 = true ∧ mem.dmaPick = none ∧
    (let s := (channel (.done 0) (desc 64 1)).wr (DMACH_BUDGET_COUNT 2) 1;
      descInt (s.dch 2).desc = false ∧ s.rd (DMACH_BUDGET_COUNT 2) ≠ 0 ∧ s.rd (DMACH_BUDGET_COUNT 2) ≤ (s.dch 2).unint + 1) ∧
    (let s := (channel (.done 0) (desc 64 1)).wr (DMACH_BUDGET_COUNT 2) 9;
      descInt (s.dch 2).desc = false ∧ (s.dch 2).unint + 1 < s.rd (DMACH_BUDGET_COUNT 2)) ∧
    ((channel (.fetch 0) []).rd (DMACH_CH_STATUS_STATE 2) = 1 ∧ ((channel (.fetch 0) []).dch 2).phase = .fetch 0) ∧
    ((channel .ready (desc 64 1)).dmaBusy = false ∧ (channel .ready (desc 64 1)).dmaPick = some (0, 2)) ∧
    ((channel (.burst 0) (desc 64 1)).dmaBusy = true ∧ ((channel (.burst 0) (desc 64 1)).dch 2).phase = .burst 0) ∧
    (((channel (.done 0) (desc 64 3)).dch 2).phase = .done 0 ∧ descInt ((channel (.done 0) (desc 64 3)).dch 2).desc = true ∧
      ((channel (.done 0) (desc 64 3)).dmaBack 2 0).1 = false) ∧ (desc 64 1).length = 64 := by
  and_intros <;> first | exact asks (by decide +kernel) | exact inv_of (by decide +kernel) | decide +kernel

theorem wit_RasterEngine : mem.Inv ∧ mem.mainUp = true ∧ (mem.setBlt fun b => { b with phase := .fetch 0 }).blt.phase = .fetch 0 ∧
    (∀ since, mem.blt.phase ≠ .fetch since) ∧ mem.dmaLate 0 = false ∧
    (let s := { (mem.setBlt fun b => { b with phase := .fetch 0 }) with now := 10 ^ 9 };
      s.blt.phase = .fetch 0 ∧ s.dmaLate 0 = true) ∧ descOwn (desc 128 9) = true ∧ bltOp (desc 128 9) = 2 ∧
    mem.lrd (HEAD_TIMING_V_V_TOTAL 0) ≤ leAt (pay 128 [(0, 4, 9), (88, 2, 9999)]) 88 2 ∧
    (let s := ((mem.setLive (HEAD_TIMING_V_V_TOTAL 0).off 0x04650465).setHd 0 fun x => { x with gen := true, line := 5 });
      leAt (desc 128 9) 86 1 < s.nHeads ∧ leAt (desc 128 9) 88 2 < s.lrd (HEAD_TIMING_V_V_TOTAL 0) ∧ (s.hd 0).gen = true ∧
        (s.hd 0).line ≠ leAt (desc 128 9) 88 2) ∧ bltOp (desc 128 1) ≠ 2 ∧ descOwn (desc 128 1) = true ∧
    (mem.setBlt fun b => { b with phase := .rows 0 }).blt.phase = .rows 0 ∧ (mem.setBlt fun b => { b with phase := .done 0 }).blt.phase = .done 0 :=
  ⟨inv_of (by decide +kernel), by decide +kernel, by decide +kernel, nofun, by decide +kernel⟩

/-! ### Witnesses: clocks and device time -/

/-- PLL 0 runs, acquires lock, and is in range; it is locked; it ramps. -/
def pllOn : State := ((up.wr (HPLL_CTRL_EN 0) 1).wr (HPLL_FB_FB_INT 0) 38).setPll 0 fun p => { p with lockSince := some 0 }
def ramping (segs : Nat) : State :=
  { ((up.setPll 0 fun p => { p with ramp := some (0, 0, 0) }).wr (HPLL_RAMP_CTRL_SEGS 0) segs) with now := 10 ^ 9 }
/-- Genlock runs at 60 Hz; its first edge has come; the reference is present. -/
def genlock : State := (up.wr TSY_GENLOCK_EN 1).wr TSY_GENLOCK_PERIOD_NS 16666666
def genlocked (at_ : Nat) : State :=
  { ((genlock.wr TSY_GENLOCK_STATUS_PRESENT 1).setClocks fun c => { c with first := false, edge := some (1, at_, 0) }) with time := ⟨16666666, 0⟩ }

theorem wit_ClockRows : ((up.setPll 0 fun p => { p with syncAt := some 0 }).pll 0).syncAt = some up.now ∧
    pllOn.Inv ∧ pllOn.headUp 0 = true ∧ pllOn.rd (HPLL_CTRL_EN 0) = 1 ∧ (pllOn.pll 0).lockSince.isSome = true ∧
    pllOn.pllInRange 0 = true ∧ (pllOn.wr (HPLL_STATUS_LOCKED 0) 1).Inv ∧ (pllOn.wr (HPLL_STATUS_LOCKED 0) 1).rd (HPLL_STATUS_LOCKED 0) = 1 ∧
    (ramping 2).Inv ∧ ((ramping 2).headUp 0 = true ∧ ((ramping 2).pll 0).ramp = some (0, 0, 0) ∧
      0 + (ramping 2).rd (HPLL_RAMP_DUR_US 0 0) * 1000 ≤ (ramping 2).now ∧ 0 < (ramping 2).rd (HPLL_RAMP_CTRL_SEGS 0) ∧
      ((ramping 2).wr (HPLL_RAMP_DUR_US 0 0) 2000000).rd (HPLL_RAMP_DUR_US 0 0) * 1000 > (ramping 2).now ∧
      (ramping 0).rd (HPLL_RAMP_CTRL_SEGS 0) ≤ 0 ∧ (ramping 0).inHold 0 = false) ∧ (ramping 0).Inv ∧
    (up.mainUp = true ∧ 0 < up.nHeads ∧ up.rd TSY_GENLOCK_EN = 0) ∧ genlock.Inv ∧ (genlocked 0).Inv ∧
    (genlock.rd TSY_GENLOCK_EN = 1 ∧ genlock.rd TSY_GENLOCK_PERIOD_NS ≠ 0 ∧ genlock.edgeOk = true ∧ genlock.clocks.first = true ∧
      (genlocked 9000000).edgeOk = false ∧ (genlocked 0).edgeOk = true ∧ (genlocked 0).clocks.first = false ∧
      (genlocked 0).rd TSY_GENLOCK_STATUS_PRESENT = 1 ∧ (genlocked 0).now ≤ 0 + 3 * (genlocked 0).rd TSY_GENLOCK_PERIOD_NS ∧
      0 + 3 * (genlocked 0).rd TSY_GENLOCK_PERIOD_NS < 10 ^ 9 ∧ ({ genlocked 0 with now := 10 ^ 9 }).clocks.edge = some (1, 0, 0)) := by
  and_intros <;> first | exact asks (by decide +kernel) | exact inv_of (by decide +kernel) | decide +kernel

/-- A measured offset of the source in use, 3 (FREE) at reset. -/
def measuredBy (k : Nat) (off : Int) : State := up.setClocks fun c => { c with fresh := some (k, off) }
/-- TIME_CONFIG, GENLOCK_SET and CLOCK_OUT_SET. -/
def timeCfg : List Byte := pay 16 [(0, 1, 1), (2, 2, 100), (4, 4, 1000), (8, 4, 60)]
def genlockSet : List Byte := pay 16 [(0, 1, 1), (2, 1, 1), (3, 1, 2), (4, 1, 4), (5, 1, 8), (6, 4, 60000), (10, 4, 1001)]
def clockOut : List Byte := pay 18 ([(0, 1, 1)] ++ (List.range 8).map fun k => (2 + 2 * k, 2, 1024))

theorem wit_DeviceTime : up.Inv ∧ up.serving = true ∧ (measuredBy 0 5).clocks.fresh = some (0, 5) ∧ (measuredBy 0 5).steersBy 0 = false ∧
    (measuredBy (up.rd TSY_TIME_STATUS_SOURCE) 5).steersBy (up.rd TSY_TIME_STATUS_SOURCE) = true ∧ up.clocks.stepThresh < (5 : Int).natAbs ∧
    (1 : Int).natAbs ≤ up.clocks.stepThresh ∧ 1 ≤ up.clocks.slewMax ∧ -200000 ≤ up.clocks.trackedPpb ∧ up.clocks.trackedPpb ≤ 200000 ∧ TSY_FREQ_ADJ_PPB.off ∉ up.hostRegs ∧
    TSY_FREQ_ADJ_PPB.off ∈ (up.hostTakes TSY_FREQ_ADJ_PPB.off).hostRegs ∧
    (up.wr TSY_TIME_STATUS_SOURCE 2).rd TSY_TIME_STATUS_SOURCE = 2 ∧ up.holding = false ∧
    (late.wr HLY_STATUS_TIME_VALID 1).rd HLY_STATUS_TIME_VALID = 1 ∧
    late.rd HLY_TIME_CFG_SYNC_PERIOD ≠ 0 ∧ late.syncWaits = false ∧ late.ring.syncUsedAt + 4 * (late.rd HLY_TIME_CFG_SYNC_PERIOD * 1000) < late.now ∧
    (Asks up 0x0901 timeCfg ∧ leAt timeCfg 0 1 ≤ 3 ∧ leAt timeCfg 2 2 ≠ 0 ∧ leAt timeCfg 2 2 ≤ 200 ∧ leAt timeCfg 4 4 ≠ 0 ∧ leAt timeCfg 8 4 ≠ 0) ∧
    Asks up 0x0901 (pay 16 []) ∧ Asks up 0x0902 [] ∧ Asks up 0x0910 (pay 16 []) ∧
    (Asks up 0x0910 genlockSet ∧ 23976 * leAt genlockSet 10 4 ≤ leAt genlockSet 6 4 * 1000 ∧ leAt genlockSet 6 4 ≤ 480 * leAt genlockSet 10 4 ∧
      (∀ h : Fin 4, 1 ≤ leAt genlockSet (2 + h) 1 ∧ leAt genlockSet (2 + h) 1 ≤ 8)) ∧
    (Asks up 0x0920 clockOut ∧ leAt clockOut 0 1 < 2 ^ (2 * up.nHeads) ∧
      (∀ k, k < 8 → up.divTooFast (k / 2) (leAt clockOut (2 + 2 * k) 2) = false) ∧ 2 * up.nHeads = 8) ∧
    Asks up 0x0920 (pay 18 []) ∧ up.divTooFast 0 (leAt (pay 18 []) 2 2) = true := by
  and_intros <;> first | exact asks (by decide +kernel) | exact inv_of (by decide +kernel) | decide +kernel

/-! ### Witnesses: power, the store, the event log -/

/-- The boot stands at a stage. -/
def booting (n : Nat) : State := up.wr PWR_BOOT_STATUS_STAGE n

theorem wit_MainDieReset : (up.setPwr fun p => { p with tripped := true }).power.tripped = true ∧
    up.Inv ∧ up.mainUp = true ∧ (up.setPwr fun p => { p with resetDue := some 0 }).power.resetDue = some 0 ∧
    (up.setPwr fun p => { p with porstHigh := false }).power.porstHigh = false ∧
    (up.power.porstHigh = true ∧ up.power.railsGood = true ∧ up.power.tripped = false) ∧ ({ up with mainUp := false }).mainUp = false ∧
    (up.setPwr fun p => { p with porstAt := some 0 }).power.porstAt = some up.now ∧
    (∀ n : Fin 8, (booting n).rd PWR_BOOT_STATUS_STAGE = n) ∧ (booting 1).Inv ∧ (booting 4).Inv ∧ (booting 3).standby ≠ sbSYNCING ∧
    ((booting 3).wr GLB_CORE_STATUS_STANDBY_STATE 1).standby = sbSYNCING ∧ (booting 4).ddrUp = true ∧
    ((booting 4).setChan 0 fun x => { x with phase := .full 0 }).ddrUp = false ∧ (booting 1).imageValid 0 = true ∧
    (booting 1).preferred = 0 ∧ ((booting 1).wr PWR_STRAPS_VALUE 1).rd PWR_STRAPS_VALUE = 1 ∧ (booting 1).rd PWR_STRAPS_VALUE = 0 ∧
    (let s := (booting 1).setNv fun n => { n with images := .replicate 2 none }; s.imageValid 0 = false ∧ s.imageValid 1 = false) := by
  and_intros <;> first | exact asks (by decide +kernel) | exact inv_of (by decide +kernel) | decide +kernel

/-- A commit of a soft map waits; its energy suffices with a full conversion and these settings; it runs. -/
def work : Commit := ⟨2, 0, .softAdd ⟨3, false, 7, 0⟩, false, false⟩
def supplied : State := (((up.wr PWR_HOLDUP_C_MF 10000).wr PWR_HOLDUP_RATIO_RATIO 10000).wr PWR_HOLDUP_P_W 1).setNv fun n => { n with queue := [work] }
def adcMax : Adc := ⟨4095, 4095, 4095, 4095⟩
def busyNv : State := up.setNv fun n => { n with busy := some work }
def deferred : State := { (up.setNv fun n => { n with deferred := [{ work with own := true }] }) with now := 10 ^ 9 }
/-- A configuration record. -/
def memCfg : MemCfg := ⟨1, 8, false, false, 0, []⟩

theorem wit_CommitRows : ({ work with checked := true, what := .softAdd ⟨1, false, 2, 3⟩ }).checked = true ∧
    supplied.Inv ∧ supplied.serving = true ∧ (booting 6).inRecovery = true ∧ supplied.nv.busy = none ∧ supplied.nv.queue = work :: [] ∧ work.checked = false ∧
    supplied.holdupPasses 4095 work.cls = true ∧ supplied.holdupPasses 0 work.cls = false ∧ supplied.rd PWR_STATUS_PWR_FAIL = 0 ∧
    (supplied.wr PWR_STATUS_PWR_FAIL 1).holdupPasses 4095 work.cls = true ∧ (supplied.wr PWR_STATUS_PWR_FAIL 1).rd PWR_STATUS_PWR_FAIL = 1 ∧
    busyNv.mainUp = true ∧ busyNv.nv.busy = some work ∧ up.nv.busy = none ∧ deferred.serving = true ∧ deferred.nv.deferred ≠ [] ∧
    deferred.nv.deferredAt + 100000000 ≤ deferred.now ∧ up.rd PWR_STATUS_PWR_FAIL = 0 ∧ up.Inv ∧
    (⟨.whole 5 memCfg, .whole 6 memCfg⟩ : NvRec MemCfg).current = some (6, memCfg) ∧
    (⟨.whole 4294967295 memCfg, .whole 0 memCfg⟩ : NvRec MemCfg).current = some (0, memCfg) := by
  and_intros <;> first | exact asks (by decide +kernel) | exact inv_of (by decide +kernel) | decide +kernel

/-- HOLDUP_SET; FW_STAGE of 512 bytes at 0x2000; FW_SWAP at no frame start. -/
def holdup : List Byte := pay 16 [(0, 2, 10000), (4, 2, 10000), (6, 1, 16), (8, 2, 10)]
def stage512 : List Byte := pay 16 [(0, 8, 0x2000), (8, 4, 512)]
def swapNow : List Byte := pay 4 [(0, 1, 0xFF)]
/-- An image is staged in slot 1 and the standby is READY; a swap is at its first step. -/
def staged : State := ready.setPwr fun p => { p with staged := some 1 }
def swapping : State := up.setPwr fun p => { p with swap := some ⟨1, 0xFF, false, 0, 1, 1, 0, 0, 0, 0⟩ }

theorem wit_PowerCommands : up.Inv ∧ Asks up 0x0A01 (pay 16 []) ∧
    (Asks up 0x0A01 holdup ∧ leAt holdup 0 2 ≠ 0 ∧ leAt holdup 4 2 ≠ 0 ∧ 16 ≤ leAt holdup 6 1 ∧ leAt holdup 6 1 ≤ 64 ∧ 1 ≤ leAt holdup 8 2 ∧
      leAt holdup 8 2 ≤ 1000) ∧ Asks up 0x0A20 (pay 4 []) ∧ Asks up 0x0A30 (pay 8 []) ∧
    (Asks up 0x0A10 stage512 ∧ up.rd PWR_BOOT_STATUS_STAGE ≠ 6 ∧ leAt stage512 8 4 ≠ 0 ∧ up.bufOk 0x2000 512 = false ∧ Asks mem 0x0A10 stage512 ∧
      mem.bufOk 0x2000 512 = true ∧ mem.power.swap = none ∧ mem.nv.images[1] = none ∧ 1 - mem.rd PWR_STATUS_RUNNING_SLOT = 1 ∧
      (mem.fw.waiting.any fun w => decide (w.cmd.cmd = 0x0A10)) = false) ∧
    (Asks up 0x0A11 swapNow ∧ Asks up 0x0A11 (pay 4 [(0, 1, 9)]) ∧ up.nHeads ≤ 9 ∧ up.power.staged = none ∧ up.power.swap = none ∧
      Asks staged 0x0A11 swapNow ∧ staged.power.swap = none ∧ staged.power.staged = some 1 ∧ staged.standby = sbREADY) ∧
    swapping.serving = true ∧ swapping.power.swap = some ⟨1, 0xFF, false, 0, 1, 1, 0, 0, 0, 0⟩ ∧ swapping.now ≤ 0 + 2000000000 ∧
    0 + 2000000000 < ({ swapping with now := 3 * 10 ^ 9 }).now := by
  and_intros <;> first | exact asks (by decide +kernel) | exact inv_of (by decide +kernel) | decide +kernel

/-- The image check of FW_STAGE rests on two functions that are free values of the model (SHA-384 and the check of a P-384 signature): where
they accept an image of `d`, here one whose header gives sizes 0, it has blocks to write and none written. -/
theorem wit_FwStage (s : State) (d : List Byte) (i : Image) (h : s.imageOf d = some i) : 0 < i.blocks ∧ i.written = 0 := by
  unfold State.imageOf at h
  simp only [Option.ite_none_right_eq_some, Option.some.injEq] at h
  obtain ⟨-, rfl⟩ := h
  exact ⟨by simp [ceilDiv]; omega, rfl⟩

theorem wit_Temperature : up.power.railsGood = true ∧ up.power.tripped = false ∧
    up.mainUp = true ∧ up.Inv ∧ 500 ≤ (500 : BitVec 11).toInt ∧ up.rd PWR_STATUS_THERM_WARN = 0 ∧
    (up.rd PWR_THERM_WARN : Int) ≤ (499 : BitVec 11).toInt ∧ (100 : BitVec 11).toInt < (up.rd PWR_THERM_WARN : Int) - 20 ∧
    (499 : BitVec 11).toInt < 500 ∧ (up.wr PWR_STATUS_THERM_WARN 1).rd PWR_STATUS_THERM_WARN = 1 ∧ (up.wr PWR_STATUS_THERM_WARN 1).Inv := by
  and_intros <;> first | exact asks (by decide +kernel) | exact inv_of (by decide +kernel) | decide +kernel

/-- A report waits; an entry like it, 1 ms old at most, is pending; another, too old. -/
def report1 : Report := ⟨0x0101, 5, 9⟩
def reported (es : List LogEntry) : State := { up with log := { up.log with reports := [report1], entries := es } }
def pendingEntry : LogEntry := ⟨0, 0x0101, 1, 5, 1, 0, 0, 0, 9, 0⟩
/-- An entry waits to be persisted. -/
def toPersist : State := { up with log := { up.log with persistQ := [pendingEntry] } }

theorem wit_EventLogger : (reported []).Inv ∧ (reported []).log.reports = report1 :: [] ∧
    (({ reported [pendingEntry] with log := { (reported [pendingEntry]).log with reports := [] } } : State).fecCapture report1).mergeTarget report1 =
      some pendingEntry ∧
    (({ reported [] with log := { (reported []).log with reports := [] } } : State).fecCapture report1).mergeTarget report1 = none ∧
    (reported []).log.entries.length < 4096 ∧ 4096 ≤ (reported (List.replicate 4096 { pendingEntry with code := 0x0102 })).log.entries.length ∧
    (reported []).rd (EVT_FEC_VALID_VALID (evClass report1.code)) = 0 ∧
    ((reported []).wr (EVT_FEC_VALID_VALID (evClass report1.code)) 1).rd (EVT_FEC_VALID_VALID (evClass report1.code)) = 1 ∧
    Asks up 0x0B01 (pay 4 [(0, 1, 16)]) ∧ Asks up 0x0B01 (pay 4 [(0, 1, 15), (1, 1, 3)]) ∧ Asks up 0x0B10 [] ∧ Asks up 0x0B11 (pay 16 []) ∧
    (Asks up 0x0B11 (pay 16 [(0, 8, 0x2000), (8, 4, 64)]) ∧ up.bufOk 0x2000 64 = false ∧ mem.bufOk 0x2000 64 = true) ∧
    toPersist.serving = true ∧ toPersist.log.persistQ ≠ [] ∧ toPersist.logFlushing = false ∧ toPersist.now < toPersist.log.persistSince + 1000000000 ∧
    toPersist.log.persistSince + 1000000000 ≤ ({ toPersist with now := 10 ^ 9 }).now ∧ toPersist.log.persistQ.length < 256 := by
  have long : ∀ x : LogEntry, 4096 ≤ (List.replicate 4096 x).length := fun _ => Nat.le_of_eq List.length_replicate.symm
  and_intros <;> first | exact asks (by decide +kernel) | exact inv_of (by decide +kernel) | exact long _ | decide +kernel

/-- With any number of other entries pending a report finds none to merge into. -/
theorem wit_EventDrop (n : Nat) : let s := reported (List.replicate n { pendingEntry with code := 0x0102 });
    (({ s with log := { s.log with reports := [] } } : State).fecCapture report1).mergeTarget report1 = none := by
  have e : ∀ u : State, (u.fecCapture report1).log = u.log := by
    intro u
    unfold State.fecCapture
    dsimp only
    split
    · simp only [State.wr_log]
    · simp only [State.setCause_log, State.wr_log]
  show List.find? _ _ = none
  rw [e, List.find?_eq_none]
  intro x hx
  rw [List.eq_of_mem_replicate hx]
  simp [report1, pendingEntry]

/-! ### Ill-formed commands -/

theorem test_wf_offset : (Instr.registerWrite 0x200000 (put 0)).wf = false ∧ (Instr.rcRead 2 .host).wf = false ∧ (Instr.rcRead 0x1FFFFC .host).wf = true := by
  decide

theorem test_wf_access : (Instr.bar2Access 0xFFFFE (.read 4)).wf = false ∧ (Instr.windowAccess 0 (.write [] false)).wf = false ∧
    (Instr.bar2Access 0xFFFFC (.read 4)).wf = true := by decide

theorem test_wf_frame : (Instr.sheetReceive 0 ⟨[1, 2, 3], true⟩).wf = false ∧ (Instr.ingestReceive 0 ⟨arp, true⟩).wf = true := by decide +kernel

theorem test_wf_lineWrite : (Instr.dsmWrite ⟨0, none⟩ 63 [some 1, some 2] false).wf = false ∧ (Instr.dsmWrite ⟨0, none⟩ 63 [some 1] false).wf = true := by decide

theorem test_wf_quality : (Instr.ddrScrubRead (.oneDevice 10 0)).wf = false ∧ (Instr.ddrScrubRead (.uncorrectable [] 1 2 0 false)).wf = false ∧
    (Instr.ddrScrubRead (.oneDevice 9 0)).wf = true := by decide

theorem test_wf_upsets : (Instr.dsmRead 0 0 [(65, 0)]).wf = false ∧ (Instr.dsmRead 0 0 [(0, 13)]).wf = false ∧ (Instr.dsmRead 0 0 [(63, 12)]).wf = true := by
  decide

theorem test_wf_ddrOp : (Instr.ddrRequest true 0 0 (.read 0)).wf = false ∧ (Instr.ddrRequest true 0 (2 ^ 48 - 1) (.read 2)).wf = false ∧
    (Instr.ddrRequest true 0 (2 ^ 48 - 1) (.read 1)).wf = true := by decide

theorem test_wf_spd : (Instr.pmicWaitEnd 0 (some ⟨16, 3, true, 16, 0, true, 40, 295, 190, 46, false, 0, 1⟩)).wf = false ∧
    (Instr.pmicWaitEnd 0 (some ⟨16, 2, true, 16, 0, true, 40, 295, 190, 46, false, 0, 1⟩)).wf = true := by decide

/-- The table gives its rows no bits (log 8). -/
theorem test_decode_none : decodeTableWord 32 0 = none := rfl

/-! ### The spec's own numbers -/

/-- The machine after a command. -/
def after (i : Instr) (s : State) : State := match exec i s with
  | .next t => t
  | _ => s

/-- Register index: HEAD2.TIMING_V.V_TOTAL stands at 0x04_0014, tap 2 of horizontal phase 5 of VL11 at 0x0A_D054. -/
theorem test_register_places : (HEAD_TIMING_V_V_TOTAL 2).off = 0x040014 ∧ (LAY_HCOEF_TAP_EVEN 11 5 1).off = 0x0AD054 ∧
    (LAY_HCOEF_TAP_ODD 11 5 1).off = 0x0AD054 := by decide

/-- R195, the example of three entries. -/
theorem test_blend_three_entries : mul16 49344 65535 = 49344 ∧ blendD 0 49344 65535 32896 4096 = 25781 ∧ blendA 0 49344 65535 = 65535 ∧
    mul16 30000 40000 = 18311 ∧ blendD 1 18311 40000 20000 25781 = 30785 ∧ blendD 2 32768 32768 16448 30785 = 39009 := by decide

/-- R195, the table of edge cases. -/
theorem test_blend_edges : blendD 3 65535 65535 50000 10000 = 50000 ∧ blendA 3 16384 65535 = 16384 ∧ blendD 3 0 65535 0 10000 = 10000 ∧
    blendD 0 0 65535 0 10000 = 10000 ∧ blendD 0 32768 65535 20000 50000 = 35000 ∧ blendA 0 32768 16384 = 40960 ∧
    blendD 1 30000 65535 60000 50000 = 65535 ∧ blendD 2 65535 65535 57568 30785 = 65535 := by decide

/-- R204: the post-blend LUT of the example. -/
theorem test_post_lut : lutInterp 4 (fun i => if i = 2438 then 27310 else if i = 2439 then 27322 else 0) 39009 = 27311 := by decide

/-- R203: the pre-blend LUT of example 1 for Y, Cb and Cr. -/
theorem test_pre_lut : lutInterp 6 (fun i => if i = 502 then 32768 else 0) 32128 = 32768 ∧
    lutInterp 6 (fun i => if i = 410 then 25308 else 25381) 26272 = 25345 ∧ lutInterp 6 (fun i => if i = 610 then 39936 else 40009) 39072 = 39973 := by
  decide

/-- R160, R172, R175: chroma, phases and filters of examples 1 and 2. -/
theorem test_chroma : chromaMean ⟨25600, 38400, false⟩ ⟨26944, 39744, false⟩ = ⟨26272, 39072, false⟩ ∧
    (chromaNear ⟨0, 43520, false⟩ ⟨0, 42496, false⟩).cr = 43264 ∧ (chromaNear ⟨0, 44544, false⟩ ⟨0, 43776, false⟩).cr = 44352 := by decide

theorem test_phase : let h : Axis := ⟨1, 1920, 3840, 0⟩;
    h.step = 524288 ∧ h.n 3 = 1 ∧ h.phase 3 = 16 ∧ (⟨1, 1080, 2160, 0⟩ : Axis).n 0 = -1 ∧ (⟨1, 1080, 2160, 0⟩ : Axis).phase 0 = 48 ∧
      (⟨2, 3840, 1920, 0⟩ : Axis).bypass = true := by decide

/-- A grey pixel. -/
def px (v : Nat) : Px := ⟨65535, v, 0, 0, false⟩

theorem test_filter : (filterPx [(-3, px 43950), (12, px 43950), (-40, px 43950), (900, px 44114), (190, px 44300), (-52, px 44520), (20, px 44610),
      (-3, px 44700)]).c0 = 44141 ∧
    (filterPx [(-10, px 44141), (60, px 44141), (240, px 44141), (820, px 44141), (-90, px 44020), (4, px 43880)]).c0 = 44151 ∧
    (meanPx 2 [px 55145, px 57033]).c0 = 56089 := by decide

/-- The map entry of the example of one lamp. -/
def lampEntry : MapEntry := ⟨0, 9, 1152, 360, 320, 360, 0, 0, 0, [], 0x10000, 1280, [4150, -40, -14, 0, 4096, 0, 0, 0, 4096]⟩

/-- R281 to R292: the lamp of the example. -/
theorem test_lamp : lampEntry.lamp 82 157 = (157, 237) ∧ lampEntry.lamp 0 157 = (157, 319) ∧ lampEntry.dir = 3 ∧
    lampEntry.matrixRow 0 (27311, 30000, 20000) = 27310 ∧ gainOf 27310 530 = 28270 ∧ ditherT 1234 517 2 = 46 ∧ ditherOf 10 true 46 28270 = 442 ∧
    ditherOf 10 false 46 28270 = 441 := by decide

/-- R469: the line at 0x0100_0012_3400. -/
theorem test_densum_place : let a := 0x010000123400 - dsmBase;
    dsmPage a = 291 ∧ dsmLineOf a = 16 ∧ dsmBank a = 51 ∧ dsmRow a = 18 ∧ dsmCol a = 24 ∧ dsmBank (a + 64) = 52 ∧ dsmBank (a + 4096) = 52 := by decide

/-- R527, R528: the example's masks and the line 0x0000_1234_5680. -/
theorem test_ddr_place : let m : DdrMap := ⟨0, 8, false, [0x04040404, 0x08080808, 0x00101001, 0x10000100, 0x00202002, 0x00404010, 0x00808020,
      0x01010040, 0x02020080], 4, 64, 2⟩;
    m.valid = true ∧ m.place 0x12345680 = ⟨0, 1, 1, 7, 1, 145, 640 / 16⟩ ∧ (m.place 0x123456C0).sub = 0 ∧ (m.place 0x12345780).ch = 1 := by
  decide +kernel

/-- R449: S of the example. -/
theorem test_gate_start : gateS (1000 * 10 ^ 9) 50000 10000 (1000 * 10 ^ 9 + 400003250) = (1000 * 10 ^ 9 + 400050000, true) ∧
    gateS (1000 * 10 ^ 9) 50000 10000 (1000 * 10 ^ 9 + 399990001) = (1000 * 10 ^ 9 + 400050000, true) ∧
    gateS (1000 * 10 ^ 9) 50000 10000 (1000 * 10 ^ 9 + 400040001) = (1000 * 10 ^ 9 + 400100000, true) := by decide

/-- R653: the three checks of the example, with C 330 mF, V_min 9,000 mV, RATIO 11.0 and 130 W. -/
def board : State := ((((up.wr PWR_HOLDUP_C_MF 330).wr PWR_HOLDUP_VMIN_MV 9000).wr PWR_HOLDUP_RATIO_RATIO (11 * 256)).wr PWR_HOLDUP_P_W 130).wr
  PWR_HOLDUP_MARGIN_MARGIN 24

theorem test_holdup : board.holdupPasses 3103 2 = true ∧ board.holdupPasses 3103 4 = false ∧ board.holdupPasses 3723 5 = true := by decide +kernel

/-- The head PLL of the example: DIV_1 20, DIV_0 6, feedback 38 + 268,435 / 2²⁴. -/
theorem test_pll_choice : pllChoice ⟨594000000, 1⟩ 1000000 = some ⟨20, 6⟩ ∧ (⟨594000000, 1⟩ : Rate).feedback 20 = 38 * 2 ^ 24 + 268435 ∧
    (⟨594000000000, 1001⟩ : Rate).feedback 20 / 2 ^ 24 = 37 := by decide +kernel

/-- The tile copy of the example: both footprints. -/
def tile : List Byte := pay 64 [(0, 4, 1 + 3 * 32), (8, 8, 0x20781000), (16, 8, 0x010004200000), (24, 2, 16), (26, 2, 64), (28, 2, 1), (32, 4, 64),
  (36, 4, 15360), (44, 4, 64), (48, 4, 1024)]

theorem test_footprints : descE tile = 64 ∧ descFoot tile (descDst tile) (descD tile) = (0x010004200000, 0x010004200000 + 65535) ∧
    descFoot tile (descSrc tile) (descS tile) = (0x20781000, 0x20781000 + 968703) := by decide +kernel

/-- R383: the check value of the Ethernet CRC-32. -/
theorem test_crc32 : crc32 [0x31, 0x32, 0x33, 0x34, 0x35, 0x36, 0x37, 0x38, 0x39] = 0xCBF43926 := by decide +kernel

/-- R594: ROP code 0xCC copies the source, 0xF0 the pattern, 0x5A is pattern XOR destination. -/
theorem test_rop3 : rop3 0xCC 8 0x0F 0x33 0x55 = 0x33 ∧ rop3 0xF0 8 0x0F 0x33 0x55 = 0x0F ∧ rop3 0x5A 8 0x0F 0x33 0x55 = 0x5A := by decide

/-! ### One command each -/

/-- R673: the burst of the example: a second report within 1 ms merges, one at 1.000 ms still does, one at 1.30 ms does not. -/
def burst (t : Nat) : State := { (reported [{ pendingEntry with code := 0x0726, source := 0x0501, seq := 57 }]) with
  now := t
  log := { (reported [{ pendingEntry with code := 0x0726, source := 0x0501, seq := 57 }]).log with reports := [⟨0x0726, 0x0501, 9⟩] } }

theorem test_log_burst : ((after .eventReport (burst 400000)).log.entries.map fun e => (e.seq, e.count, e.lastUs)) = [(57, 2, 400)] ∧
    ((after .eventReport (burst 1000000)).log.entries.map fun e => (e.count, e.lastUs)) = [(2, 1000)] ∧
    (after .eventReport (burst 1300000)).log.entries.length = 2 := by decide +kernel

/-- R53: the arming value arms, and the next register write disarms (R54). -/
theorem test_quoin : (after (.quoinWrite (put 0x7E3A)) up).armed .host = true ∧
    (after (.registerWrite PWR_HOLDUP_C_MF.off (put 5)) (after (.quoinWrite (put 0x7E3A)) up)).armed .host = false := by decide +kernel

/-- R480: a single wrong bit of a byte is corrected and counted; two are not. -/
theorem test_densum_correction : (after (.dsmRead 0 0 [(3, 5)]) (onDensum.dsmRawWrite dsmBase [some 9, some 8, some 7, some 6] false)).out.map (fun o => match o with
      | .dsmRead _ d p _ => (d.take 4, p)
      | _ => ([], false)) = [([9, 8, 7, 6], false)] ∧ (decodeByte 7 3).2 = .bad := by decide +kernel

/-- ECHO answers its payload. -/
theorem test_echo : ((after .echo (asked up 0x0102 [1, 2, 3])).fw.records.map fun r => r.2.done) = [some (stOK, [1, 2, 3])] := by decide +kernel

/-- A temperature of 125 °C trips the main die; the Shroud goes on. -/
theorem test_trip : (after (.tempSample 500) member).mainUp = false ∧ (after (.tempSample 499) member).mainUp = true ∧
    (after (.tempSample 500) member).rd SHD_CAUSE_CAUSE = 4 := by decide +kernel

/-- TEMP_MAX begins anew at its read (R664): a first sample of -1 °C is the highest one, and a colder one leaves it. -/
theorem test_temp_max_negative : (after (.tempSample (-4)) up).rd PWR_TEMP_MAX_QC = 0x7FC ∧
    (after (.tempSample (-8)) (after (.tempSample (-4)) up)).rd PWR_TEMP_MAX_QC = 0x7FC := by decide +kernel

/-- A SYNC edge restarts an armed PLL 51.2 ns later (R621). -/
theorem test_sync_restart : ((after .syncEdge ((((up.wr (HPLL_CTRL_MODE 0) 1).wr (HPLL_CTRL_SYNC_ARM 0) 1).wr (HPLL_STATUS_LOCKED 0) 1))).pll 0).syncAt =
    some 52 := by decide +kernel

/-- GENLOCK_SET: ⌊1,001 × 10⁹ / 60,000⌋ ns. -/
theorem test_genlock_period : (after .genlockSet (asked up 0x0910 genlockSet)).rd TSY_GENLOCK_PERIOD_NS = 16683333 := by decide +kernel

/-- A doorbell at a waiting mailbox is counted as ignored. -/
theorem test_doorbell_ignored : (after (.mbxDoorbell 1) (up.wr MBX_BUSY_HOST 1)).rd MBX_DB_IGNORED_COUNT = 1 := by decide +kernel

end Sys2Proof.Tests
end

/-! ## Control: register writes, the Quoin and MSI-X (R50, R53 to R57, R94) -/

namespace Sys2Proof.Machine

/-! ### Sparse maps, counters and register frames -/

/-- Putting what a key reads already leaves a canonical map from a bound as it is. -/
theorem Sparse.put_get_self_from {α : Type} [DecidableEq α] {d : Nat → α} {l : List (Nat × α)} {lo : Nat} (k : Nat)
    (h : Sparse.wfFrom d lo l = true) : Sparse.put d l k (Sparse.get d l k) = l := by
  induction l generalizing lo with
  | nil => simp [Sparse.put, Sparse.get]
  | cons e t ih =>
    obtain ⟨a, v⟩ := e
    simp only [Sparse.wfFrom, Bool.and_eq_true, decide_eq_true_eq] at h
    obtain ⟨⟨-, hv⟩, ht⟩ := h
    rcases Nat.lt_trichotomy k a with hk | rfl | hk
    · simp [Sparse.put, Sparse.get, hk]
    · simp [Sparse.put, Sparse.get, hv]
    · simp [Sparse.put, Sparse.get, Nat.not_lt.mpr hk.le, hk.ne', ih ht]

/-- Setting a register to the word it holds changes nothing. -/
theorem State.setReg_reg_self {s : State} (hs : s.Inv) (off : Nat) : s.setReg off (s.reg off) = s := by
  have h := Sparse.put_get_self_from off hs.regs
  rw [State.setReg, State.reg, h]

/-- A counter adds and stops at its highest value. -/
theorem State.count_rd_same {s : State} (hs : s.Inv) (f : Fld) (n : Nat) (h : f.lsb + f.width ≤ 32) :
    (s.count f n).rd f = min (s.rd f + n) (2 ^ f.width - 1) := by
  rw [State.count, State.wr_rd_same hs f _ h]
  have := Nat.two_pow_pos f.width
  exact Nat.mod_eq_of_lt (by omega)

/-- A counter changes its own register only. -/
theorem State.count_regsOnly {s : State} (hs : s.Inv) (f : Fld) (n : Nat) : s.RegsOnly (s.count f n) [f.off] :=
  State.wr_regsOnly hs f _

theorem State.RegsOnly.rd_eq {s t : State} {l : List Nat} (h : s.RegsOnly t l) {f : Fld} (hf : f.off ∉ l) : t.rd f = s.rd f := by
  rw [State.rd, State.rd, h.2 _ hf]

/-- A change of other registers than GLB.QUOIN leaves every Quoin arm. -/
theorem State.RegsOnly.armed_eq {s t : State} {l : List Nat} (h : s.RegsOnly t l) (hq : GLB_QUOIN_ARMED.off ∉ l) (r : Requester) :
    t.armed r = s.armed r := by
  rw [State.armed, State.armed, h.rd_eq hq]

/-! ### The arms of the Quoin -/

theorem armBit_lt (r : Requester) : armBit r < 4 := by cases r <;> decide

theorem armBit_inj {q r : Requester} : armBit q = armBit r ↔ q = r := by cases q <;> cases r <;> decide

theorem State.setArm_inv {s : State} (hs : s.Inv) (r : Requester) (on : Bool) : (s.setArm r on).Inv := State.wr_inv hs _ _

theorem State.setArm_regsOnly {s : State} (hs : s.Inv) (r : Requester) (on : Bool) : s.RegsOnly (s.setArm r on) [GLB_QUOIN_KEY.off] :=
  State.wr_regsOnly hs GLB_QUOIN_ARMED _

/-- Setting or clearing an arm sets that requester's arm and no other. -/
theorem State.setArm_armed {s : State} (hs : s.Inv) (r q : Requester) (on : Bool) :
    (s.setArm r on).armed q = if q = r then on else s.armed q := by
  have hq := armBit_lt q
  have h15 : Nat.testBit 15 (armBit q) = true := by simpa [hq] using Nat.testBit_two_pow_sub_one 4 (armBit q)
  have hb : armBit r = armBit q ↔ q = r := by rw [armBit_inj, eq_comm]
  rw [State.armed, State.setArm, State.wr_rd_same hs GLB_QUOIN_ARMED _ (by decide), Nat.testBit_mod_two_pow]
  have hw : armBit q < GLB_QUOIN_ARMED.width := hq
  by_cases h : q = r
  · subst h
    cases on <;> simp [h15, hw]
  · cases on <;> simp [State.armed, h15, hb, hw, h]

/-! ### Rows that write one register -/

/-- A row that writes one register does what the write of that register does. -/
theorem exec_of_writeOf {i : Instr} {off : Nat} {w : RegWrite} (h : writeOf i = some (off, w)) (s : State) :
    exec i s = .next (s.busWrite off w) := by
  cases i <;> simp only [writeOf, Option.some.injEq, Prod.mk.injEq, reduceCtorEq] at h <;> obtain ⟨rfl, rfl⟩ := h <;> rfl

/-- A row that writes one register answers a state of which `P` holds where the write does. -/
theorem runs_of_writeOf {i : Instr} {off : Nat} {w : RegWrite} {s : State} {P : State → Prop} (h : writeOf i = some (off, w))
    (hP : P (s.busWrite off w)) : Runs i s P :=
  ⟨_, exec_of_writeOf h s, hP⟩

/-- A write whose byte enables are not all set is counted, whatever its offset (R50). -/
theorem State.busWrite_partial {s : State} {w : RegWrite} (off : Nat) (hu : s.mainUp = true) (hh : s.heldCore w.req = false)
    (hb : w.be ≠ 0xF) : s.busWrite off w = s.count GLB_ACCESS_ERR_PARTIAL_WRITES 1 := by
  rw [State.busWrite, hu, State.when, if_pos rfl, State.regWrite, hh]
  exact if_pos hb

/-- An accepted write of GLB.QUOIN sets or clears its writer's arm (R53). -/
theorem State.busWrite_quoin {s : State} {w : RegWrite} (h : s.Accepts w) :
    s.busWrite GLB_QUOIN_KEY.off w = s.setArm w.req (decide (w.val.toNat % 65536 = 0x7E3A)) := by
  simp [State.busWrite, State.when, State.regWrite, State.quoinWrite, GLB_QUOIN_KEY, h.up, h.awake, h.whole, h.clean]

/-- Settles O8: the write comes to the one counter of partial writes, whose register is not GLB.QUOIN. -/
theorem partialWriteIgnored : Obligations.PartialWriteIgnored := by
  intro i off w s hi hs hu hh hb
  refine runs_of_writeOf hi ?_
  rw [State.busWrite_partial off hu hh hb]
  have hc := State.count_regsOnly hs GLB_ACCESS_ERR_PARTIAL_WRITES 1
  exact ⟨State.count_rd_same hs _ _ (by decide), hc, hc.armed_eq (by decide)⟩

/-! ### What an accepted write does as it arrives (R33, R34, R55, R57) -/

/-- The heads that a requester's write takes out of the firmware's hands are marked (R34). -/
def State.marksHeads (s : State) (a : RegAt) (r : Requester) : State :=
  if r = .host then (s.expertHeads a).foldl (fun t h => t.wr (HEAD_STATUS_EXPERT h) 1) s else s

/-- The host's write of a register that the firmware rewrites of its own accord is remembered (R33). -/
def State.takesOwn (s : State) (off : Nat) (r : Requester) : State := if r = .host then s.hostTakes off else s

/-- An unarmed write to a key-guarded register is counted (R57). -/
def State.countsMiss (s : State) (a : RegAt) (armed : Bool) : State :=
  if !armed && a.row.fields.any (fun f => f.acc = .kg) then s.count GLB_QUOIN_MISS_COUNT 1 else s

/-- An accepted write to a register arrives in four parts. -/
theorem State.arrived_found {s : State} {off : Nat} {a : RegAt} (w : RegWrite) (ha : regAt off = some a) :
    s.arrived off w = (((s.setArm w.req false).marksHeads a w.req).takesOwn off w.req).countsMiss a (s.armed w.req) := by
  rw [State.arrived, ha]; rfl

/-- An accepted write to a place without a register takes its writer's arm only. -/
theorem State.arrived_missing {s : State} {off : Nat} (w : RegWrite) (ha : regAt off = none) :
    s.arrived off w = s.setArm w.req false := by
  rw [State.arrived, ha]

/-- A register that is found stands on a page of the table, at an index that the page has. -/
theorem findIn_inst {l : List PageRow} {off : Nat} {a : RegAt} (h : findIn l off = some a) : ∃ p ∈ l, p.base = a.base ∧ a.inst < p.count := by
  induction l with
  | nil => simp [findIn] at h
  | cons p t ih =>
    have later (h : findIn t off = some a) : ∃ q ∈ p :: t, q.base = a.base ∧ a.inst < q.count := by
      obtain ⟨q, hq, hi⟩ := ih h
      exact ⟨q, List.mem_cons_of_mem _ hq, hi⟩
    rw [findIn] at h
    split at h
    case isFalse => exact later h
    case isTrue hr =>
      split at h
      case h_1 =>
        cases h
        exact ⟨p, List.mem_cons_self, rfl, Nat.div_lt_of_lt_mul (by rw [Nat.mul_comm]; omega)⟩
      case h_2 => exact later h

/-- The pages of the heads and of the head PLLs come four times each. -/
theorem headPage_count : ∀ p ∈ pageTable, p.base = 0x20000 ∨ p.base = 0x170100 → p.count = 4 := by decide +kernel

theorem regAt_inst_lt {off : Nat} {a : RegAt} (h : regAt off = some a) (hb : a.base = 0x20000 ∨ a.base = 0x170100) : a.inst < 4 := by
  obtain ⟨p, hp, hpb, hi⟩ := findIn_inst h
  have := headPage_count p hp (by rwa [hpb])
  omega

theorem State.nHeads_le (s : State) : s.nHeads ≤ 4 := by
  unfold State.nHeads
  split <;> omega

/-- A host's write marks only heads that exist. -/
theorem State.expertHeads_lt {s : State} {off h : Nat} {a : RegAt} (ha : regAt off = some a) (hh : h ∈ s.expertHeads a) : h < 4 := by
  have hn := s.nHeads_le
  unfold State.expertHeads at hh
  split at hh
  · simp at hh
  split at hh
  case isTrue hb =>
    have := regAt_inst_lt ha (.inl hb)
    split at hh <;> simp_all
  split at hh
  case isTrue hb =>
    have := regAt_inst_lt ha (.inr hb)
    simp_all
  split at hh
  · obtain ⟨-, hf⟩ := List.mem_ite_nil_right.mp hh
    have := List.mem_range.mp (List.mem_filter.mp hf).1
    omega
  · simp at hh

/-- The registers of the EXPERT marks. -/
def expertOffs : List Nat := (List.range 4).map fun h => (HEAD_STATUS_EXPERT h).off

/-- Marking heads changes their EXPERT registers only, and keeps the machine well kept. -/
theorem State.markAll_regsOnly {s : State} (hs : s.Inv) {l : List Nat} (hl : ∀ h ∈ l, h < 4) :
    s.RegsOnly (l.foldl (fun t h => t.wr (HEAD_STATUS_EXPERT h) 1) s) expertOffs ∧
      (l.foldl (fun t h => t.wr (HEAD_STATUS_EXPERT h) 1) s).Inv := by
  induction l generalizing s with
  | nil => exact ⟨.refl _, hs⟩
  | cons h t ih =>
    obtain ⟨hr, hi⟩ := ih (State.wr_inv hs (HEAD_STATUS_EXPERT h) 1) fun k hk => hl k (List.mem_cons_of_mem _ hk)
    refine ⟨((State.wr_regsOnly hs (HEAD_STATUS_EXPERT h) 1).trans hr).mono fun o ho => ?_, hi⟩
    rcases List.mem_append.mp ho with ho | ho
    · rw [List.mem_singleton.mp ho]
      exact List.mem_map.mpr ⟨h, List.mem_range.mpr (hl h List.mem_cons_self), rfl⟩
    · exact ho

theorem State.marksHeads_regsOnly {s : State} (hs : s.Inv) {off : Nat} {a : RegAt} (ha : regAt off = some a) (r : Requester) :
    s.RegsOnly (s.marksHeads a r) expertOffs ∧ (s.marksHeads a r).Inv := by
  unfold State.marksHeads
  split
  · exact State.markAll_regsOnly hs fun h hh => State.expertHeads_lt ha hh
  · exact ⟨.refl _, hs⟩

/-- Remembering the host's write changes the list of the host's registers only. -/
theorem State.takesOwn_eq (s : State) (off : Nat) (r : Requester) :
    s.takesOwn off r = { s with hostRegs := (s.takesOwn off r).hostRegs } := by
  unfold State.takesOwn State.hostTakes
  repeat' split
  all_goals rfl

theorem State.takesOwn_reg (s : State) (off : Nat) (r : Requester) (o : Nat) : (s.takesOwn off r).reg o = s.reg o := by
  rw [State.takesOwn_eq]; rfl

theorem State.takesOwn_rd (s : State) (off : Nat) (r : Requester) (f : Fld) : (s.takesOwn off r).rd f = s.rd f := by
  rw [State.takesOwn_eq]; rfl

theorem State.takesOwn_inv {s : State} (hs : s.Inv) (off : Nat) (r : Requester) : (s.takesOwn off r).Inv := by
  rw [State.takesOwn_eq]; exact ⟨hs.1, hs.2, hs.3, hs.4, hs.5, hs.6, hs.7⟩

theorem State.mem_takesOwn_hostRegs {s : State} {off o : Nat} {r : Requester} :
    o ∈ (s.takesOwn off r).hostRegs ↔ o ∈ s.hostRegs ∨ o = off ∧ r = .host ∧ ownReg off = true := by
  unfold State.takesOwn State.hostTakes
  by_cases hr : r = .host
  · by_cases ho : ownReg off = true
    · by_cases hm : off ∈ s.hostRegs
      · simp only [hr, ho, hm, List.contains_eq_mem, if_true, decide_true, Bool.not_true, Bool.and_false]
        simp only [Bool.false_eq_true, if_false, and_true]
        exact ⟨.inl, fun h => h.elim id fun e => e ▸ hm⟩
      · simp [hr, ho, hm, or_comm]
    · simp [hr, ho]
  · simp [hr]

theorem State.countsMiss_regsOnly {s : State} (hs : s.Inv) (a : RegAt) (armed : Bool) :
    s.RegsOnly (s.countsMiss a armed) [GLB_QUOIN_MISS_COUNT.off] := by
  unfold State.countsMiss
  split
  · exact State.count_regsOnly hs _ _
  · exact .refl _

theorem State.countsMiss_rd {s : State} (hs : s.Inv) (a : RegAt) (armed : Bool) :
    (s.countsMiss a armed).rd GLB_QUOIN_MISS_COUNT =
      if armed = false ∧ a.row.fields.any (fun f => f.acc = .kg) then min (s.rd GLB_QUOIN_MISS_COUNT + 1) 65535
      else s.rd GLB_QUOIN_MISS_COUNT := by
  unfold State.countsMiss
  by_cases h : armed = false ∧ a.row.fields.any (fun f => f.acc = .kg) = true
  · rw [if_pos (by simpa using h), if_pos h]
    exact State.count_rd_same hs _ _ (by decide)
  · rw [if_neg (by simpa using h), if_neg h]

/-- The two states differ in registers and in what is remembered of the host's writes only. -/
def State.SameBesideRegs (s t : State) : Prop := t = { s with regs := t.regs, hostRegs := t.hostRegs }

theorem State.SameBesideRegs.trans {s t u : State} (h : s.SameBesideRegs t) (k : t.SameBesideRegs u) : s.SameBesideRegs u := by
  unfold State.SameBesideRegs at *
  rw [k, h]

theorem State.RegsOnly.sameBesideRegs {s t : State} {l : List Nat} (h : s.RegsOnly t l) : s.SameBesideRegs t := by
  unfold State.SameBesideRegs
  rw [h.1]

theorem State.RegsOnly.hostRegs_eq {s t : State} {l : List Nat} (h : s.RegsOnly t l) : t.hostRegs = s.hostRegs := by rw [h.1]

theorem State.takesOwn_sameBesideRegs (s : State) (off : Nat) (r : Requester) : s.SameBesideRegs (s.takesOwn off r) := by
  unfold State.SameBesideRegs
  rw [State.takesOwn_eq]

theorem State.arrived_sameBesideRegs {s : State} (hs : s.Inv) (off : Nat) (w : RegWrite) : s.SameBesideRegs (s.arrived off w) := by
  have h0 := State.setArm_regsOnly hs w.req false
  cases ha : regAt off with
  | none => rw [State.arrived_missing w ha]; exact h0.sameBesideRegs
  | some a =>
    obtain ⟨h1, hi⟩ := State.marksHeads_regsOnly (State.setArm_inv hs w.req false) ha w.req
    have h3 := State.countsMiss_regsOnly (State.takesOwn_inv hi off w.req) a (s.armed w.req)
    rw [State.arrived_found w ha]
    exact ((h0.sameBesideRegs.trans h1.sameBesideRegs).trans (State.takesOwn_sameBesideRegs _ off w.req)).trans h3.sameBesideRegs

/-- An accepted write changes, as it arrives, no register but GLB.QUOIN, the count of missed key writes and the EXPERT marks. -/
theorem State.arrived_reg {s : State} (hs : s.Inv) (off : Nat) (w : RegWrite) {o : Nat}
    (ho : o ∉ [GLB_QUOIN_KEY.off, GLB_QUOIN_MISS_COUNT.off] ++ expertOffs) : (s.arrived off w).reg o = s.reg o := by
  simp only [List.mem_append, List.mem_cons, List.not_mem_nil, or_false, not_or] at ho
  obtain ⟨⟨hk, hm⟩, he⟩ := ho
  have h0 := (State.setArm_regsOnly hs w.req false).2 o (by simpa using hk)
  cases ha : regAt off with
  | none => rw [State.arrived_missing w ha, h0]
  | some a =>
    obtain ⟨h1, hi⟩ := State.marksHeads_regsOnly (State.setArm_inv hs w.req false) ha w.req
    have h3 := State.countsMiss_regsOnly (State.takesOwn_inv hi off w.req) a (s.armed w.req)
    rw [State.arrived_found w ha, h3.2 o (by simpa using hm), State.takesOwn_reg, h1.2 o he, h0]

/-- The writer's arm is gone, and every other requester keeps its own. -/
theorem State.arrived_armed {s : State} (hs : s.Inv) (off : Nat) (w : RegWrite) (q : Requester) :
    (s.arrived off w).armed q = if q = w.req then false else s.armed q := by
  rw [← State.setArm_armed hs]
  cases ha : regAt off with
  | none => rw [State.arrived_missing w ha]
  | some a =>
    obtain ⟨h1, hi⟩ := State.marksHeads_regsOnly (State.setArm_inv hs w.req false) ha w.req
    have h2 := State.takesOwn_rd ((s.setArm w.req false).marksHeads a w.req) off w.req GLB_QUOIN_ARMED
    have h3 := State.countsMiss_regsOnly (State.takesOwn_inv hi off w.req) a (s.armed w.req)
    rw [State.arrived_found w ha, h3.armed_eq (by decide), State.armed, h2, ← State.armed, h1.armed_eq (by decide)]

/-- The host's write of a register that the firmware rewrites of its own accord is remembered. -/
theorem State.mem_arrived_hostRegs {s : State} (hs : s.Inv) (off : Nat) (w : RegWrite) (o : Nat) :
    o ∈ (s.arrived off w).hostRegs ↔ o ∈ s.hostRegs ∨ o = off ∧ w.req = .host ∧ ownReg off = true ∧ (regAt off).isSome = true := by
  cases ha : regAt off with
  | none => simp [State.arrived_missing w ha]
  | some a =>
    obtain ⟨h1, hi⟩ := State.marksHeads_regsOnly (State.setArm_inv hs w.req false) ha w.req
    have h3 := State.countsMiss_regsOnly (State.takesOwn_inv hi off w.req) a (s.armed w.req)
    simp [State.arrived_found w ha, h3.hostRegs_eq, State.mem_takesOwn_hostRegs, h1.hostRegs_eq]

/-- An unarmed write to a key-guarded register counts once. -/
theorem State.arrived_missCount {s : State} (hs : s.Inv) {off : Nat} {a : RegAt} (w : RegWrite) (ha : regAt off = some a) :
    (s.arrived off w).rd GLB_QUOIN_MISS_COUNT =
      if s.armed w.req = false ∧ a.row.fields.any (fun f => f.acc = .kg) then min (s.rd GLB_QUOIN_MISS_COUNT + 1) 65535
      else s.rd GLB_QUOIN_MISS_COUNT := by
  obtain ⟨h1, hi⟩ := State.marksHeads_regsOnly (State.setArm_inv hs w.req false) ha w.req
  have h0 := State.setArm_regsOnly hs w.req false
  rw [State.arrived_found w ha, State.countsMiss_rd (State.takesOwn_inv hi off w.req), State.takesOwn_rd, h1.rd_eq (by decide),
    h0.rd_eq (by decide)]

/-- Settles O9: the two rules of the arm, and the parts of an accepted write's arrival one by one. -/
theorem quoinWriteArms : Obligations.QuoinWriteArms := by
  refine ⟨fun w s hs hw => ⟨_, exec_of_writeOf rfl s, ?_⟩, fun off w s hs => ?_⟩
  · rw [State.busWrite_quoin hw]
    refine ⟨?_, fun r hr => ?_, State.setArm_regsOnly hs _ _⟩
    · rw [State.setArm_armed hs, if_pos rfl]
    · rw [State.setArm_armed hs, if_neg hr]
  · refine ⟨?_, fun r hr => ?_, State.arrived_sameBesideRegs hs off w, State.mem_arrived_hostRegs hs off w,
      fun o ho => State.arrived_reg hs off w ho, fun a ha => State.arrived_missCount hs w ha⟩
    · rw [State.arrived_armed hs, if_pos rfl]
    · rw [State.arrived_armed hs, if_neg hr]

/-! ### Key-guarded registers (R57) -/

/-- The registers that hold key-guarded fields, by page and offset in the page. -/
@[reducible] def RegAt.AtKeyPlace (a : RegAt) : Prop :=
  a.base = 0 ∧ a.rel ∈ [0x34, 0x38] ∨ a.base = 0x100000 ∧ a.rel ∈ [0x4, 0x50, 0x54] ∨ a.base = 0x110000 ∧ a.rel = 0xC ∨
    a.base = 0x170000 ∧ a.rel ∈ [0x620, 0x624, 0x628, 0x62C] ∨ a.base = 0x190000 ∧ a.rel = 0x10 ∨ a.base = 0x1A0000 ∧ a.rel ∈ [0x4, 0x8]

/-- A register at an offset whose writable fields are all key-guarded, which holds neither causes nor enables and which the firmware
does not rewrite of its own accord. -/
@[reducible] def RegAt.KeyGuarded (off : Nat) (a : RegAt) : Prop :=
  off % 4 = 0 ∧ a.AtKeyPlace ∧ (∀ f ∈ a.row.fields, f.acc = .kg ∨ f.acc = .ro) ∧ a.row.fields.any (fun f => f.acc = .kg) = true ∧
    vecsOf off = [] ∧ ownReg off = false

theorem RegAt.KeyGuarded.aligned {off : Nat} {a : RegAt} (h : a.KeyGuarded off) : off % 4 = 0 := h.1

theorem RegAt.KeyGuarded.place {off : Nat} {a : RegAt} (h : a.KeyGuarded off) : a.AtKeyPlace := h.2.1

/-- GLB.QUOIN holds no key-guarded field. -/
theorem RegAt.KeyGuarded.ne_quoin {off : Nat} {a : RegAt} (h : a.KeyGuarded off) (ha : regAt off = some a) : off ≠ 0x10 := by
  rintro rfl
  cases ha
  revert h
  decide

/-- The offsets of the key-guarded registers that both parts have. -/
def keyOffs : List Nat :=
  [GLB_CORE_CTRL_SWITCH.off, GLB_CORE_HB_HB_TIMEOUT.off, DSM_SELFTEST_OVERRIDE.off, DSM_INJECT_ADDR_LINE.off, DSM_INJECT_CTRL_MODE.off,
    TSY_SET_SEC_LO_SEC.off, TSY_SET_SEC_HI_SEC.off, TSY_SET_NS_NS.off, TSY_SET_GO_GO.off, PWR_RESET_CTRL_MAIN.off, SHD_CTRL_TAKEOVER.off,
    SHD_HB_TIMEOUT.off]

theorem keyOffs_guarded : ∀ off ∈ keyOffs, ∃ a ∈ regAt off, a.KeyGuarded off ∧ a.base ≠ 0x110000 := by decide +kernel

theorem slotPwr_guarded : ∀ c : Fin 4, ∃ a ∈ regAt (DMC_SLOT_PWR_EN c).off, a.KeyGuarded (DMC_SLOT_PWR_EN c).off ∧ a.inst = c := by
  decide +kernel

/-- Without the key a merge leaves the word of key-guarded and read-only fields. -/
theorem mergeWord_locked {fs : List FldRow} (h : ∀ f ∈ fs, f.acc = .kg ∨ f.acc = .ro) (old val : Word) : mergeWord fs false old val = old := by
  induction fs with
  | nil => rfl
  | cons f t ih =>
    have ht := ih fun g hg => h g (List.mem_cons_of_mem _ hg)
    unfold mergeWord at ht ⊢
    rcases h f List.mem_cons_self with hf | hf <;> simpa [hf] using ht

theorem State.writeFields_unarmed {s : State} (hs : s.Inv) {off : Nat} {a : RegAt} (h : a.KeyGuarded off) (val : Word) :
    s.writeFields off a false val = s := by
  obtain ⟨-, -, hf, -, hv, -⟩ := h
  rw [State.writeFields, hv, mergeWord_locked hf]
  exact State.setReg_reg_self hs off

/-- A write to another page than a head's or a layer's waits for no latch. -/
theorem State.beforeWrite_keyPlace {s : State} {a : RegAt} (h : a.AtKeyPlace) (off : Nat) (val : Word) : s.beforeWrite off a val = s := by
  have hl : s.latchHeadOf a = none := by
    unfold State.latchHeadOf
    rw [if_neg (by omega), if_neg (by omega), if_neg (by omega)]
  rw [State.beforeWrite, hl]

section
variable {s : State} {off : Nat} {a : RegAt} {val : Word}

theorem State.dsmEffect_unarmed (hw : s.writeFields off a false val = s) (hr : a.rel ∈ [0x4, 0x50, 0x54]) (r : Requester) :
    s.dsmEffect off a r val false = s := by
  simp only [List.mem_cons, List.not_mem_nil, or_false] at hr
  rcases hr with hr | hr | hr <;> simp [State.dsmEffect, hr, hw]

theorem State.dmcEffect_unarmed (hr : a.rel = 0xC) : s.dmcEffect off a val false = s := by
  simp [State.dmcEffect, hr]

theorem State.tsyEffect_unarmed (hw : s.writeFields off a false val = s) (hr : a.rel ∈ [0x620, 0x624, 0x628, 0x62C]) :
    s.tsyEffect off a val false = s := by
  simp only [List.mem_cons, List.not_mem_nil, or_false] at hr
  rcases hr with hr | hr | hr | hr <;> simp [State.tsyEffect, hr, hw]

/-- Without the key the effect of a write to a key-guarded register is none. -/
theorem State.regEffect_unarmed (hs : s.Inv) (h : a.KeyGuarded off) (r : Requester) : s.regEffect off a r val false = s := by
  have hw := State.writeFields_unarmed hs h val
  rw [State.regEffect, State.beforeWrite_keyPlace h.place]
  rcases h.place with ⟨hb, hr⟩ | ⟨hb, hr⟩ | ⟨hb, hr⟩ | ⟨hb, hr⟩ | ⟨hb, hr⟩ | ⟨hb, hr⟩
  · simp [State.miscEffect, hb, hw]
  · simp [hb, State.dsmEffect_unarmed hw hr]
  · simp [hb, State.dmcEffect_unarmed hr]
  · simp [State.miscEffect, hb, State.tsyEffect_unarmed hw hr]
  · simp [State.miscEffect, hb, hr]
  · simp [State.miscEffect, hb, hw]

end

/-- A write to a key-guarded register marks no head (R34). -/
theorem State.expertHeads_keyPlace {s : State} {a : RegAt} (h : a.AtKeyPlace) : s.expertHeads a = [] := by
  unfold State.expertHeads
  rw [if_neg (show ¬ a.base = 0x20000 by omega), if_neg (show ¬ a.base = 0x170100 by omega),
    if_neg (show ¬ (a.base = 0x80000 ∨ a.base = 0xC0000) by omega), ite_self]

/-- A write to a key-guarded register without the key arrives with its arm gone and counted as missed; nothing else changes. -/
theorem State.arrived_unarmed {s : State} {off : Nat} {a : RegAt} {w : RegWrite} (ha : regAt off = some a) (h : a.KeyGuarded off)
    (hu : s.armed w.req = false) : s.arrived off w = (s.setArm w.req false).count GLB_QUOIN_MISS_COUNT 1 := by
  obtain ⟨-, hp, -, hk, -, ho⟩ := h
  simp [State.arrived_found w ha, State.marksHeads, State.expertHeads_keyPlace hp, State.takesOwn, State.hostTakes, ho, State.countsMiss,
    hu, hk]

/-- An accepted write without the key to a key-guarded register that is present is counted as missed, and no more (R57). -/
theorem State.busWrite_unarmed {s : State} {off : Nat} {a : RegAt} {w : RegWrite} (hs : s.Inv) (hw : s.Accepts w)
    (ha : regAt off = some a) (h : a.KeyGuarded off) (hp : s.absent a = false) (hu : s.armed w.req = false) :
    s.busWrite off w = (s.setArm w.req false).count GLB_QUOIN_MISS_COUNT 1 := by
  have hi := State.count_inv (State.setArm_inv hs w.req false) GLB_QUOIN_MISS_COUNT 1
  rw [State.busWrite_accepts hw h.aligned (h.ne_quoin ha) ha hp, hu, State.arrived_unarmed ha h hu, State.regEffect_unarmed hi h]

/-- Of the pages with key-guarded registers only those of the DDR5 channels can be absent (R714). -/
theorem State.absent_keyPlace {s : State} {a : RegAt} (h : a.AtKeyPlace) : s.absent a = decide (a.base = 0x110000 ∧ s.nDdr ≤ a.inst) := by
  unfold State.absent
  rw [if_neg (by omega), if_neg (by omega), if_neg (by omega)]
  by_cases hb : a.base = 0x110000
  · simp [hb]
  · rw [if_neg hb, if_neg (by omega), if_neg (by omega)]
    simp [hb]

/-- The key-guarded registers of the map are present on the part that has their channel. -/
theorem State.keyGuarded_present {s : State} {off : Nat}
    (h : off ∈ keyOffs ∨ ∃ c : Fin 4, c.val < s.nDdr ∧ off = (DMC_SLOT_PWR_EN c).off) :
    ∃ a, regAt off = some a ∧ a.KeyGuarded off ∧ s.absent a = false := by
  rcases h with h | ⟨c, hc, rfl⟩
  · obtain ⟨a, ha, hk, hb⟩ := keyOffs_guarded off h
    refine ⟨a, ha, hk, ?_⟩
    simp [State.absent_keyPlace hk.place, hb]
  · obtain ⟨a, ha, hk, hi⟩ := slotPwr_guarded c
    refine ⟨a, ha, hk, ?_⟩
    simp [State.absent_keyPlace hk.place, hi, hc]

/-- Settles O10: such a write arrives unarmed and has no effect of its own. -/
theorem unarmedGuardedWrite : Obligations.UnarmedGuardedWrite := by
  intro i off w s hi ho hs hw hu
  obtain ⟨a, ha, hk, hp⟩ := State.keyGuarded_present ho
  refine runs_of_writeOf hi ?_
  rw [State.busWrite_unarmed hs hw ha hk hp hu]
  have h0 := State.setArm_regsOnly hs w.req false
  have h0i := State.setArm_inv hs w.req false
  refine ⟨?_, h0.trans (State.count_regsOnly h0i _ 1)⟩
  rw [State.count_rd_same h0i _ _ (by decide), h0.rd_eq (by decide)]
  rfl

/-! ### MSI-X (R94) -/

section
variable {s : State} {v : Nat} (hv : v < 64)
include hv

/-- An unmasked vector sends its message at once. -/
theorem State.sendVec_unmasked (hm : s.host.msix[v].masked = false) :
    s.sendVec v = s.emit (.msix v s.host.msix[v].addr s.host.msix[v].data) := by
  simp [State.sendVec, hv, hm]

/-- A masked vector sets its pending bit instead. -/
theorem State.sendVec_masked (hm : s.host.msix[v].masked = true) :
    s.sendVec v = { s with host := { s.host with pba := s.host.pba.set v true } } := by
  simp [State.sendVec, hv, hm]

end

/-- A cause that raises its vector's status bit has the vector send. -/
theorem State.setCause_rising {s : State} {c : Cause} (h0 : s.irq c.vec = false)
    (h1 : (s.setReg c.off (s.reg c.off ||| BitVec.ofNat 32 (2 ^ c.bit))).irq c.vec = true) :
    s.setCause c = (s.setReg c.off (s.reg c.off ||| BitVec.ofNat 32 (2 ^ c.bit))).sendVec c.vec := by
  unfold State.setCause
  dsimp only
  rw [h0, h1]
  rfl

/-- Unmasking a vector with a pending message sends it and clears the pending bit. -/
theorem State.unmask_pending {s : State} {v : Fin 64} (hp : s.host.pba[v] = true) :
    s.unmask v = { s with
      host := { s.host with msix := s.host.msix.set v { s.host.msix[v] with masked := false }, pba := s.host.pba.set v false }
      out := s.out ++ [.msix v s.host.msix[v].addr s.host.msix[v].data] } := by
  simp [State.unmask, hp, State.emit]

/-- Unmasking a vector without a pending message clears its mask bit only. -/
theorem State.unmask_idle {s : State} {v : Fin 64} (hp : s.host.pba[v] = false) :
    s.unmask v = { s with host := { s.host with msix := s.host.msix.set v { s.host.msix[v] with masked := false } } } := by
  simp [State.unmask, hp]

/-- Settles O22: by the pending bit of the vector at an unmask, and by its mask bit as a cause rises. -/
theorem messageSignalled : Obligations.MessageSignalled := by
  refine ⟨fun v s hu => ⟨s.unmask v, by simp [exec, execMsixUnmask, State.when, hu], ?_⟩, fun s c h0 hv h1 => ?_⟩
  · have other (u : Fin 64) (hne : u ≠ v) : v.val ≠ u.val := fun e => hne (Fin.ext e.symm)
    cases hp : s.host.pba[v] with
    | true =>
      rw [State.unmask_pending hp]
      refine ⟨by simp, by simp, fun u hne => ?_, rfl, rfl⟩
      simp [Vector.getElem_set_ne, other u hne]
    | false =>
      rw [State.unmask_idle hp]
      refine ⟨by simp, hp, fun u hne => ⟨?_, rfl⟩, rfl, rfl⟩
      simp [Vector.getElem_set_ne, other u hne]
  · intro t
    have ht : t = _ := State.setCause_rising h0 h1
    refine ⟨fun hm => ?_, fun hm => ?_⟩
    · rw [ht, State.sendVec_unmasked (s := s.setReg _ _) hv hm]
      exact ⟨rfl, rfl⟩
    · rw [ht, State.sendVec_masked (s := s.setReg _ _) hv hm]
      exact ⟨by simp, rfl, rfl⟩

end Sys2Proof.Machine

/-! ## Clocks: head PLLs, SYNC and genlock (R614 to R626) -/

namespace Sys2Proof.Machine

/-! ### One-bit fields and causes -/

/-- A one-bit field is a flag that stands where it reads 1. -/
theorem State.flag_iff (s : State) {f : Fld} (hw : f.width = 1) : s.flag f = true ↔ s.rd f = 1 := by
  have h := s.rd_lt f
  rw [hw] at h
  simp only [State.flag, bne_iff_ne]
  omega

/-- A cause changes no register but its own. -/
theorem State.setCause_reg_other {s : State} (hs : s.Inv) {c : Cause} {o : Nat} (ho : o ≠ c.off) : (s.setCause c).reg o = s.reg o := by
  rw [State.reg, State.setCause_regs, ← State.reg, State.setReg_reg_other hs _ ho]

theorem State.setCause_rd_other {s : State} (hs : s.Inv) {c : Cause} {f : Fld} (hf : f.off ≠ c.off) : (s.setCause c).rd f = s.rd f := by
  rw [State.rd, State.setCause_reg_other hs hf, State.rd]

/-! ### Ends of ramps (R615, R618) -/

/-- Both marks of a ramp are cleared, the PLL's and its head's. -/
def State.clearRamping (s : State) (n : Nat) : State := (s.wr (HPLL_STATUS_RAMPING n) 0).wr (HEAD_STATUS_RAMPING n) 0

/-- The PLL's feedback is that of FB_NEXT. -/
def State.takeFbNext (s : State) (n : Nat) : State :=
  (s.wr (HPLL_FB_FB_INT n) (s.rd (HPLL_FB_NEXT_INT_INT n))).wr (HPLL_FRAC_FB_FRAC n) (s.rd (HPLL_FB_NEXT_FRAC_FRAC n))

/-- The marks of a ramp stand in two registers, of which neither holds the feedback. -/
theorem ramping_offs (n : Fin 4) :
    (HPLL_STATUS_RAMPING n).off ≠ (HEAD_STATUS_RAMPING n).off ∧
      (HPLL_FB_FB_INT n).off ∉ [(HPLL_STATUS_RAMPING n).off, (HEAD_STATUS_RAMPING n).off] ∧
      (HPLL_FRAC_FB_FRAC n).off ∉ [(HPLL_STATUS_RAMPING n).off, (HEAD_STATUS_RAMPING n).off] := by
  decide +revert

section
variable {s : State} (hs : s.Inv) (n : Fin 4)
include hs

theorem State.clearRamping_inv : (s.clearRamping n).Inv := State.wr_inv (State.wr_inv hs _ _) _ _

theorem State.clearRamping_regsOnly : s.RegsOnly (s.clearRamping n) [(HPLL_STATUS_RAMPING n).off, (HEAD_STATUS_RAMPING n).off] :=
  (State.wr_regsOnly hs _ _).trans (State.wr_regsOnly (State.wr_inv hs _ _) _ _)

theorem State.clearRamping_headRamping : (s.clearRamping n).rd (HEAD_STATUS_RAMPING n) = 0 :=
  State.wr_rd_same (State.wr_inv hs _ _) (HEAD_STATUS_RAMPING n) 0 (by simp [HEAD_STATUS_RAMPING])

/-- Of the PLL's status only RAMPING is cleared. -/
theorem State.clearRamping_status :
    (s.clearRamping n).rd (HPLL_STATUS_RAMPING n) = 0 ∧ (s.clearRamping n).rd (HPLL_STATUS_LOCKED n) = s.rd (HPLL_STATUS_LOCKED n) := by
  have hoff := (ramping_offs n).1
  have hi := State.wr_inv hs (HPLL_STATUS_RAMPING n) 0
  constructor
  · rw [State.clearRamping, State.wr_rd_other hi _ _ _ hoff, State.wr_rd_same hs _ _ (by simp [HPLL_STATUS_RAMPING])]
    rfl
  · rw [State.clearRamping, State.wr_rd_other hi _ (HPLL_STATUS_LOCKED n) _ hoff,
      State.wr_rd_beside hs (HPLL_STATUS_RAMPING n) (HPLL_STATUS_LOCKED n) _ (by simp [HPLL_STATUS_RAMPING]) rfl
        (by simp [HPLL_STATUS_LOCKED, HPLL_STATUS_RAMPING])]

theorem State.takeFbNext_inv : (s.takeFbNext n).Inv := State.wr_inv (State.wr_inv hs _ _) _ _

theorem State.takeFbNext_regsOnly : s.RegsOnly (s.takeFbNext n) [(HPLL_FB_FB_INT n).off, (HPLL_FRAC_FB_FRAC n).off] :=
  (State.wr_regsOnly hs _ _).trans (State.wr_regsOnly (State.wr_inv hs _ _) _ _)

theorem State.takeFbNext_feedback :
    (s.takeFbNext n).rd (HPLL_FB_FB_INT n) = s.rd (HPLL_FB_NEXT_INT_INT n) ∧
      (s.takeFbNext n).rd (HPLL_FRAC_FB_FRAC n) = s.rd (HPLL_FB_NEXT_FRAC_FRAC n) := by
  have hi := State.wr_inv hs (HPLL_FB_FB_INT n) (s.rd (HPLL_FB_NEXT_INT_INT n))
  have hoff : (HPLL_FB_FB_INT n).off ≠ (HPLL_FRAC_FB_FRAC n).off := by simp [HPLL_FB_FB_INT, HPLL_FRAC_FB_FRAC]
  constructor
  · rw [State.takeFbNext, State.wr_rd_other hi _ _ _ hoff, State.wr_rd_same hs _ _ (by simp [HPLL_FB_FB_INT])]
    exact Nat.mod_eq_of_lt (s.rd_lt (HPLL_FB_NEXT_INT_INT n))
  · rw [State.takeFbNext, State.wr_rd_same hi _ _ (by simp [HPLL_FRAC_FB_FRAC])]
    exact Nat.mod_eq_of_lt (s.rd_lt (HPLL_FB_NEXT_FRAC_FRAC n))

/-- Where lock acquisition starts anew the PLL is neither locked nor ramping, and a powered one counts from now (R614, R615). -/
theorem State.pllRelock_spec :
    (s.pllRelock n).rd (HPLL_STATUS_LOCKED n) = 0 ∧ (s.pllRelock n).rd (HPLL_STATUS_RAMPING n) = 0 ∧
      (s.pllRelock n).rd (HEAD_STATUS_RAMPING n) = 0 ∧ ((s.pllRelock n).pll n).ramp = none ∧
      ((s.pllRelock n).pll n).lockSince = (if s.rd (HPLL_CTRL_EN n) = 1 then some s.now else none) := by
  have hi := State.wr_inv hs (HPLL_STATUS_LOCKED n) 0
  obtain ⟨hramp, hlock⟩ := State.clearRamping_status hi n
  have hrd (f : Fld) : (s.pllRelock n).rd f = ((s.wr (HPLL_STATUS_LOCKED n) 0).clearRamping n).rd f := by
    rw [State.pllRelock, State.setPll_rd, State.clearRamping]
  refine ⟨?_, ?_, ?_, ?_, ?_⟩
  · rw [hrd, hlock, State.wr_rd_same hs _ _ (by simp [HPLL_STATUS_LOCKED]), Nat.zero_mod]
  · rw [hrd, hramp]
  · rw [hrd, State.clearRamping_headRamping hi]
  · rw [State.pllRelock, State.setPll_same]
  · rw [State.pllRelock, State.setPll_same]
    simp only [State.flag_iff s (f := HPLL_CTRL_EN n) rfl]

end

/-! ### Rows of a head PLL (R614, R615, R617, R618) -/

/-- A lock restarts no head but that of a mode change that waits for it. -/
theorem State.modeLock_of_not_inHold {s : State} {h : Nat} (hh : s.inHold h = false) : s.modeLock h = s := by
  rw [State.modeLock, hh]
  rfl

section
variable {n : Fin 4} {s : State}

theorem exec_pllLock (hu : s.headUp n = true) (he : s.rd (HPLL_CTRL_EN n) = 1) (hl : (s.pll n).lockSince.isSome = true)
    (hr : s.pllInRange n = true) :
    exec (.pllLock n) s = .next ((((s.wr (HPLL_STATUS_LOCKED n) 1).setPll n fun p => { p with lockSince := none }).setHd n fun x =>
      { x with restart := x.restart.map fun _ => s.now }).modeLock n) := by
  show execPllLock n s = _
  rw [execPllLock, hu, (State.flag_iff s rfl).mpr he, hl, hr]
  rfl

theorem exec_pllUnlock (hu : s.headUp n = true) (hl : s.rd (HPLL_STATUS_LOCKED n) = 1) :
    exec (.pllUnlock n) s = .next ((s.pllRelock n).headUnlock n) := by
  show execPllUnlock n s = _
  rw [execPllUnlock, hu, (State.flag_iff s rfl).mpr hl]
  rfl

/-- A segment of a ramp goes on to its end; there the next one begins, or the ramp ends (R617, R618). -/
theorem exec_rampSegmentEnd {seg since : Nat} {off : Int} (hu : s.headUp n = true) (hr : (s.pll n).ramp = some (seg, since, off)) :
    exec (.rampSegmentEnd n) s = .next (
      if s.now < since + s.rd (HPLL_RAMP_DUR_US n seg) * 1000 then s
      else if seg < s.rd (HPLL_RAMP_CTRL_SEGS n) then s.setPll n fun p =>
        { p with ramp := some (seg + 1, since + s.rd (HPLL_RAMP_DUR_US n seg) * 1000, s.rampAt n seg since off) }
      else s.rampEnd n) := by
  show execRampSegmentEnd n s = _
  rw [execRampSegmentEnd, hu, if_pos rfl, hr]

/-- The end of a ramp, where no mode change waits for it. -/
theorem State.rampEnd_eq (hh : s.inHold n = false) :
    s.rampEnd n = ((s.takeFbNext n).clearRamping n).setPll n fun p => { p with ramp := none } :=
  State.modeLock_of_not_inHold hh

/-- The end of a ramp takes the next feedback, clears the marks of the ramp, and changes nothing else. -/
theorem State.rampEnd_spec (hs : s.Inv) (hh : s.inHold n = false) :
    let t := s.rampEnd n
    t.rd (HPLL_FB_FB_INT n) = s.rd (HPLL_FB_NEXT_INT_INT n) ∧ t.rd (HPLL_FRAC_FB_FRAC n) = s.rd (HPLL_FB_NEXT_FRAC_FRAC n) ∧
      t.rd (HPLL_STATUS_RAMPING n) = 0 ∧ t.rd (HEAD_STATUS_RAMPING n) = 0 ∧ (t.pll n).ramp = none ∧
      t = { s with regs := t.regs, clocks := t.clocks } ∧
      ∀ o, o ∉ [(HPLL_FB_FB_INT n).off, (HPLL_FRAC_FB_FRAC n).off, (HPLL_STATUS_RAMPING n).off, (HEAD_STATUS_RAMPING n).off] →
        t.reg o = s.reg o := by
  intro t
  have ht : t = ((s.takeFbNext n).clearRamping n).setPll n fun p => { p with ramp := none } := State.rampEnd_eq hh
  have hi := State.takeFbNext_inv hs n
  obtain ⟨hint, hfrac⟩ := State.takeFbNext_feedback hs n
  have hc := State.clearRamping_regsOnly hi n
  obtain ⟨-, hintOff, hfracOff⟩ := ramping_offs n
  have feedback (f : Fld) (hf : f.off ∉ [(HPLL_STATUS_RAMPING n).off, (HEAD_STATUS_RAMPING n).off]) :
      t.rd f = (s.takeFbNext n).rd f := by
    rw [ht, State.setPll_rd, hc.rd_eq hf]
  refine ⟨?_, ?_, ?_, ?_, ?_, ?_, fun o ho => ?_⟩
  · rw [feedback _ hintOff, hint]
  · rw [feedback _ hfracOff, hfrac]
  · rw [ht, State.setPll_rd, (State.clearRamping_status hi n).1]
  · rw [ht, State.setPll_rd, State.clearRamping_headRamping hi]
  · rw [ht, State.setPll_same]
  · rw [ht]
    rfl
  · rw [ht, State.setPll_reg, ((State.takeFbNext_regsOnly hs n).trans hc).2 o ho]

end

/-- A ramp offset lies within ±10,000 ppm (R617). -/
theorem State.rampAt_bounds (s : State) (n seg since : Nat) (off : Int) :
    -160000000 ≤ s.rampAt n seg since off ∧ s.rampAt n seg since off ≤ 160000000 :=
  ⟨le_max_left _ _, max_le (by decide) (min_le_left _ _)⟩

/-! ### SYNC edges (R621) -/

/-- Whether a SYNC edge resets the dividers of a head PLL. -/
def State.syncArmed (s : State) (n : Nat) : Bool :=
  s.flag (HPLL_CTRL_MODE n) && s.flag (HPLL_CTRL_SYNC_ARM n) && (s.pll n).syncAt.isNone && s.flag (HPLL_STATUS_LOCKED n) &&
    !s.flag (HPLL_STATUS_RAMPING n)

/-- The outputs of an armed head PLL stop until 51.2 ns later. -/
def State.syncStop (s : State) (n : Nat) : State :=
  if s.syncArmed n then s.setPll n fun p => { p with syncAt := some (s.now + 52) } else s

theorem State.syncArmed_iff (s : State) (n : Nat) :
    s.syncArmed n = true ↔ s.rd (HPLL_CTRL_MODE n) = 1 ∧ s.rd (HPLL_CTRL_SYNC_ARM n) = 1 ∧ s.rd (HPLL_STATUS_LOCKED n) = 1 ∧
      s.rd (HPLL_STATUS_RAMPING n) = 0 ∧ (s.pll n).syncAt = none := by
  have hramp : s.flag (HPLL_STATUS_RAMPING n) = false ↔ s.rd (HPLL_STATUS_RAMPING n) = 0 := by simp [State.flag]
  simp only [State.syncArmed, Bool.and_eq_true, Bool.not_eq_true', Option.isNone_iff_eq_none, hramp,
    State.flag_iff s (f := HPLL_CTRL_MODE n) rfl, State.flag_iff s (f := HPLL_CTRL_SYNC_ARM n) rfl,
    State.flag_iff s (f := HPLL_STATUS_LOCKED n) rfl]
  tauto

/-- Stopping a PLL's outputs changes the clocks only. -/
theorem State.syncStop_eq (s : State) (n : Nat) : s.syncStop n = { s with clocks := (s.syncStop n).clocks } := by
  unfold State.syncStop
  split <;> rfl

theorem State.syncStop_pll_same (s : State) (n : Nat) :
    (s.syncStop n).pll n = if s.syncArmed n then { s.pll n with syncAt := some (s.now + 52) } else s.pll n := by
  unfold State.syncStop
  split
  · rw [State.setPll_same]
  · rfl

theorem State.syncStop_pll_other {s : State} {n m : Nat} (hn : n < 4) (hm : m < 4) (h : n ≠ m) : (s.syncStop n).pll m = s.pll m := by
  unfold State.syncStop
  split
  · refine State.setPll_other s n m _ fun e => h ?_
    have := congrArg Fin.val e
    simp only [Fin.val_ofNat] at this
    omega
  · rfl

/-- The head PLLs below a number stop where they are armed. -/
def State.syncStops (s : State) (k : Nat) : State := (List.range k).foldl State.syncStop s

theorem State.syncStops_succ (s : State) (k : Nat) : s.syncStops (k + 1) = (s.syncStops k).syncStop k := by
  rw [State.syncStops, List.range_succ, List.foldl_append]
  rfl

theorem State.syncStops_eq (s : State) (k : Nat) : s.syncStops k = { s with clocks := (s.syncStops k).clocks } := by
  induction k with
  | zero => rfl
  | succ k ih =>
    rw [State.syncStops_succ, State.syncStop_eq, ih]

/-- Whether a PLL is armed depends on its registers and its own clock. -/
theorem State.syncArmed_congr {s t : State} {n : Nat} (hr : t.regs = s.regs) (hp : t.pll n = s.pll n) : t.syncArmed n = s.syncArmed n := by
  simp only [State.syncArmed, State.flag, State.rd, State.reg, hr, hp]

/-- Each PLL that the edge reaches is stopped as it alone would be. -/
theorem State.syncStops_pll (s : State) {k n : Nat} (hk : k ≤ 4) (hn : n < 4) :
    (s.syncStops k).pll n = if n < k then (s.syncStop n).pll n else s.pll n := by
  induction k with
  | zero => rfl
  | succ k ih =>
    have ih := ih (by omega)
    rw [State.syncStops_succ]
    rcases Nat.lt_trichotomy n k with h | rfl | h
    · rw [State.syncStop_pll_other (by omega) hn (by omega), ih, if_pos h, if_pos (by omega)]
    · rw [if_neg (lt_irrefl n)] at ih
      have hreg : (s.syncStops n).regs = s.regs := by rw [State.syncStops_eq]
      have hnow : (s.syncStops n).now = s.now := by rw [State.syncStops_eq]
      rw [if_pos (by omega), State.syncStop_pll_same, State.syncStop_pll_same, State.syncArmed_congr hreg ih, ih, hnow]
    · rw [State.syncStop_pll_other (by omega) hn (by omega), ih, if_neg (by omega), if_neg (by omega)]

/-- The SYNC edge is counted and its cause set. -/
def State.countSync (s : State) : State := (s.count TSY_SYNC_EDGES_COUNT 1).setCause (causeTsy 8)

theorem State.countSync_eq (s : State) :
    s.countSync = { s with regs := s.countSync.regs, out := s.countSync.out, host := s.countSync.host } := by
  rw [State.countSync, State.setCause_eq]
  rfl

theorem State.countSync_reg {s : State} (hs : s.Inv) {o : Nat} (hc : o ≠ TSY_SYNC_EDGES_COUNT.off) (hk : o ≠ (causeTsy 8).off) :
    s.countSync.reg o = s.reg o := by
  rw [State.countSync, State.setCause_reg_other (State.count_inv hs _ _) hk, (State.count_regsOnly hs _ 1).2 o (by simpa using hc)]

theorem State.countSync_count {s : State} (hs : s.Inv) :
    s.countSync.rd TSY_SYNC_EDGES_COUNT = min (s.rd TSY_SYNC_EDGES_COUNT + 1) (2 ^ 32 - 1) := by
  rw [State.countSync, State.setCause_rd_other (State.count_inv hs _ _) (by decide), State.count_rd_same hs _ _ (by decide)]
  rfl

/-- Counting an edge leaves the registers of the head PLLs. -/
theorem State.countSync_pllReg {s : State} (hs : s.Inv) (n : Fin 4) {o : Nat} (ho : o < 0x20) :
    s.countSync.reg (0x170100 + n * 0x100 + o) = s.reg (0x170100 + n * 0x100 + o) :=
  State.countSync_reg hs (show _ ≠ 0x170720 by omega) (show _ ≠ 0x170780 by omega)

theorem State.countSync_armed {s : State} (hs : s.Inv) (n : Fin 4) : s.countSync.syncArmed n = s.syncArmed n := by
  have hctrl := State.countSync_pllReg hs n (o := 0) (by decide)
  have hstat := State.countSync_pllReg hs n (o := 0xc) (by decide)
  have hp : s.countSync.pll n = s.pll n := by rw [State.countSync_eq]; rfl
  simp only [State.syncArmed, State.flag, State.rd, hp, HPLL_CTRL_MODE, HPLL_CTRL_SYNC_ARM, HPLL_STATUS_LOCKED, HPLL_STATUS_RAMPING]
  rw [← Nat.add_zero (0x170100 + n.val * 0x100), hctrl, hstat]

/-- A SYNC edge is counted, and then reaches the PLL of every head. -/
theorem exec_syncEdge {s : State} (hu : s.mainUp = true) : exec .syncEdge s = .next (s.countSync.syncStops s.nHeads) := by
  have hn : s.countSync.nHeads = s.nHeads := by rw [State.countSync_eq]; rfl
  show execSyncEdge s = _
  rw [execSyncEdge, hu, if_pos rfl, ← hn]
  rfl

/-- SYNC_ARM clears and SYNCED sets. -/
def State.markSynced (s : State) (n : Nat) : State := (s.wr (HPLL_CTRL_SYNC_ARM n) 0).wr (HPLL_STATUS_SYNCED n) 1

@[simp] theorem State.markSynced_pll (s : State) (n m : Nat) : (s.markSynced n).pll m = s.pll m := rfl

theorem State.markSynced_regsOnly {s : State} (hs : s.Inv) (n : Nat) :
    s.RegsOnly (s.markSynced n) [(HPLL_CTRL_SYNC_ARM n).off, (HPLL_STATUS_SYNCED n).off] :=
  (State.wr_regsOnly hs _ _).trans (State.wr_regsOnly (State.wr_inv hs _ _) _ _)

theorem State.markSynced_marks {s : State} (hs : s.Inv) (n : Nat) :
    (s.markSynced n).rd (HPLL_CTRL_SYNC_ARM n) = 0 ∧ (s.markSynced n).rd (HPLL_STATUS_SYNCED n) = 1 := by
  have hi := State.wr_inv hs (HPLL_CTRL_SYNC_ARM n) 0
  have hoff : (HPLL_CTRL_SYNC_ARM n).off ≠ (HPLL_STATUS_SYNCED n).off := by simp [HPLL_CTRL_SYNC_ARM, HPLL_STATUS_SYNCED]
  constructor
  · rw [State.markSynced, State.wr_rd_other hi _ _ _ hoff, State.wr_rd_same hs _ _ (by simp [HPLL_CTRL_SYNC_ARM])]
    rfl
  · rw [State.markSynced, State.wr_rd_same hi _ _ (by simp [HPLL_STATUS_SYNCED])]
    rfl

/-- The outputs that SYNC has stopped restart when their time has come. -/
theorem State.syncRestart_eq {s : State} {n : Nat} (hn : (s.pll n).syncAt = some s.now) :
    s.syncRestart n = (s.setPll n fun p => { p with syncAt := none }).markSynced n :=
  if_pos hn

theorem State.syncRestart_spec {s : State} (hs : s.Inv) {n : Nat} (hn : (s.pll n).syncAt = some s.now) :
    let t := s.syncRestart n
    t.rd (HPLL_CTRL_SYNC_ARM n) = 0 ∧ t.rd (HPLL_STATUS_SYNCED n) = 1 ∧ (t.pll n).syncAt = none ∧
      ∀ o, o ∉ [(HPLL_CTRL_EN n).off, (HPLL_STATUS_LOCKED n).off] → t.reg o = s.reg o := by
  intro t
  have ht : t = _ := State.syncRestart_eq hn
  have hp : (s.setPll n fun p => { p with syncAt := none }).Inv := State.setPll_kept _ _ hs
  obtain ⟨harm, hsynced⟩ := State.markSynced_marks hp n
  rw [ht]
  exact ⟨harm, hsynced, by simp, (State.markSynced_regsOnly hp n).2⟩

/-! ### Genlock (R624, R626) -/

section
variable {s : State}

/-- The first edge is accepted without the test. -/
theorem State.edgeOk_first (hf : s.clocks.first = true) : s.edgeOk = true := by simp [State.edgeOk, hf]

/-- A later edge is accepted within 1 % of the period after the last one. -/
theorem State.edgeOk_iff {k at_ u : Nat} (hf : s.clocks.first = false) (he : s.clocks.edge = some (k, at_, u)) (ha : at_ ≤ s.time.ns) :
    s.edgeOk = true ↔ 99 * s.rd TSY_GENLOCK_PERIOD_NS ≤ 100 * (s.time.ns - at_) ∧
      100 * (s.time.ns - at_) ≤ 101 * s.rd TSY_GENLOCK_PERIOD_NS := by
  simp only [State.edgeOk, hf, he, Bool.false_eq_true, if_false, decide_eq_true_eq]
  omega

/-- Setting EN makes the next edge the first. -/
theorem State.genlockWrite_first (pol : Nat) (he : s.rd TSY_GENLOCK_EN = 0) : (s.genlockWrite 1 pol).clocks.first = true := by
  simp [State.genlockWrite, he, State.setClocks]

/-- Without an edge overdue the reference is not lost. -/
theorem State.genlockTimeout_of_not_due
    (h : ∀ k at_ u, s.clocks.edge = some (k, at_, u) → s.rd TSY_GENLOCK_STATUS_PRESENT = 1 → s.now ≤ u + 3 * s.rd TSY_GENLOCK_PERIOD_NS) :
    s.genlockTimeout = s := by
  unfold State.genlockTimeout
  split
  case h_1 k at_ u he =>
    refine if_neg fun hc => ?_
    simp only [Bool.and_eq_true, decide_eq_true_eq, State.flag_iff s (f := TSY_GENLOCK_STATUS_PRESENT) rfl] at hc
    have := h k at_ u he hc.1
    omega
  case h_2 => rfl

/-- A present reference whose edge is overdue is lost. -/
theorem State.genlockTimeout_of_due {k at_ u : Nat} (he : s.clocks.edge = some (k, at_, u)) (hp : s.rd TSY_GENLOCK_STATUS_PRESENT = 1)
    (hd : u + 3 * s.rd TSY_GENLOCK_PERIOD_NS < s.now) :
    s.genlockTimeout =
      let t := ((s.wr TSY_GENLOCK_STATUS_PRESENT 0).setCause (causeTsy 6)).report EV_GENLOCK_LOST (src 10 0) 0
      (t.setClocks fun c => { c with first := true }).refLost fun h => t.lrd (HEAD_ALIGN_SRC h) = 2 := by
  simp only [State.genlockTimeout, he, (State.flag_iff s (f := TSY_GENLOCK_STATUS_PRESENT) rfl).mpr hp, decide_eq_true hd, Bool.and_self,
    if_true]

theorem exec_genlockLoss (hu : s.mainUp = true) : exec .genlockLoss s = .next s.genlockTimeout := by
  show execGenlockLoss s = _
  rw [execGenlockLoss, hu]
  rfl

/-- An accepted edge is remembered, with its device time. -/
def State.noteEdge (s : State) : State :=
  let k := match s.clocks.edge with | some (j, _, _) => j + 1 | none => 0
  (s.setClocks fun c => { c with
    edge := some (k, s.time.ns, s.now)
    edges := ((c.edge.map fun e => e.2.1).toList ++ c.edges).take 8
    first := false }).wr TSY_GENLOCK_LAST_NS_NS s.timeNs

/-- An accepted edge makes the reference PRESENT. -/
def State.acceptEdge (s : State) : State :=
  if s.flag TSY_GENLOCK_STATUS_PRESENT then s.noteEdge else (s.noteEdge.wr TSY_GENLOCK_STATUS_PRESENT 1).setCause (causeTsy 7)

theorem exec_genlockEdge_off (he : s.rd TSY_GENLOCK_EN = 0) : exec .genlockEdge s = .next s := by
  show execGenlockEdge s = _
  have hflag : s.flag TSY_GENLOCK_EN = false := by simp [State.flag, he]
  simp [execGenlockEdge, hflag]

/-- While the reference runs an edge is accepted or a glitch. -/
theorem exec_genlockEdge_on (hu : s.mainUp = true) (he : s.rd TSY_GENLOCK_EN = 1) (hp : s.rd TSY_GENLOCK_PERIOD_NS ≠ 0)
    (hd : s.genlockTimeout = s) :
    exec .genlockEdge s = .next (if s.edgeOk then s.acceptEdge else s.count TSY_GLITCHES_COUNT 1) := by
  show execGenlockEdge s = _
  rw [execGenlockEdge, hu, (State.flag_iff s rfl).mpr he, decide_eq_false hp, hd]
  rfl

theorem State.noteEdge_eq (s : State) : s.noteEdge = { s with regs := s.noteEdge.regs, clocks := s.noteEdge.clocks } := rfl

theorem State.noteEdge_inv (hs : s.Inv) : s.noteEdge.Inv := State.wr_inv (State.setClocks_kept _ hs) _ _

theorem State.noteEdge_reg (hs : s.Inv) {o : Nat} (ho : o ≠ TSY_GENLOCK_LAST_NS_NS.off) : s.noteEdge.reg o = s.reg o :=
  State.wr_reg_other (s := s.setClocks _) (State.setClocks_kept _ hs) _ _ ho

theorem State.noteEdge_lastNs (hs : s.Inv) : s.noteEdge.rd TSY_GENLOCK_LAST_NS_NS = s.timeNs := by
  rw [State.noteEdge, State.wr_rd_same (State.setClocks_kept _ hs) _ _ (by decide)]
  refine Nat.mod_eq_of_lt ((Nat.mod_lt _ (by decide)).trans (b := 1000000000) ?_)
  decide

/-- What an accepted edge leaves: the reference PRESENT, the edge and its time remembered, the next one tested. -/
theorem State.acceptEdge_spec (hs : s.Inv) :
    let t := s.acceptEdge
    t.rd TSY_GENLOCK_STATUS_PRESENT = 1 ∧ t.rd TSY_GENLOCK_LAST_NS_NS = s.timeNs ∧ t.clocks = s.noteEdge.clocks ∧
      t = { s with regs := t.regs, clocks := t.clocks, out := t.out, host := t.host } ∧
      ∀ o, o ∉ [TSY_GENLOCK_STATUS_PRESENT.off, TSY_GENLOCK_LAST_NS_NS.off, (causeTsy 7).off] → t.reg o = s.reg o := by
  intro t
  have hi := State.noteEdge_inv hs
  by_cases hp : s.flag TSY_GENLOCK_STATUS_PRESENT = true
  case pos =>
    have ht : t = s.noteEdge := if_pos hp
    rw [ht]
    refine ⟨?_, State.noteEdge_lastNs hs, rfl, s.noteEdge_eq, fun o ho => ?_⟩
    · rw [State.rd, State.noteEdge_reg hs (by decide)]
      exact (State.flag_iff s rfl).mp hp
    · simp only [List.mem_cons, not_or] at ho
      exact State.noteEdge_reg hs ho.2.1
  case neg =>
    have ht : t = (s.noteEdge.wr TSY_GENLOCK_STATUS_PRESENT 1).setCause (causeTsy 7) := if_neg hp
    have hw := State.wr_inv hi TSY_GENLOCK_STATUS_PRESENT 1
    rw [ht]
    refine ⟨?_, ?_, ?_, ?_, fun o ho => ?_⟩
    · rw [State.setCause_rd_other hw (by decide), State.wr_rd_same hi _ _ (by decide)]
      rfl
    · rw [State.setCause_rd_other hw (by decide), State.wr_rd_other hi _ _ _ (by decide), State.noteEdge_lastNs hs]
    · rw [State.setCause_clocks, State.wr_clocks]
    · rw [State.setCause_eq]
      rfl
    · simp only [List.mem_cons, not_or, List.not_mem_nil, not_false_eq_true, and_true] at ho
      obtain ⟨hpr, hl, hc⟩ := ho
      rw [State.setCause_reg_other hw hc, State.wr_reg_other hi _ _ hpr, State.noteEdge_reg hs hl]

end

/-! ### The rows together -/

/-- A SYNC edge is counted, and stops the outputs of a head's PLL where it is armed. -/
theorem runs_syncEdge {s : State} (hs : s.Inv) (hu : s.mainUp = true) {n : Fin 4} (hn : n.val < s.nHeads) :
    Runs .syncEdge s fun t =>
      t = { s with regs := t.regs, clocks := t.clocks, out := t.out, host := t.host } ∧
      (∀ o, o ≠ TSY_SYNC_EDGES_COUNT.off → o ≠ (causeTsy 8).off → t.reg o = s.reg o) ∧
      t.rd TSY_SYNC_EDGES_COUNT = min (s.rd TSY_SYNC_EDGES_COUNT + 1) (2 ^ 32 - 1) ∧
      t.pll n = (s.syncStop n).pll n := by
  refine ⟨_, exec_syncEdge hu, ?_⟩
  have hstop := State.syncStops_eq s.countSync s.nHeads
  have hreg (o : Nat) : (s.countSync.syncStops s.nHeads).reg o = s.countSync.reg o := by rw [hstop]; rfl
  have hnow : s.countSync.now = s.now := by rw [State.countSync_eq]
  have hpll : s.countSync.pll n = s.pll n := by rw [State.countSync_eq]; rfl
  refine ⟨?_, fun o hc hk => ?_, ?_, ?_⟩
  · rw [hstop, State.countSync_eq]
  · rw [hreg, State.countSync_reg hs hc hk]
  · rw [State.rd, hreg, ← State.rd, State.countSync_count hs]
  · rw [State.syncStops_pll _ s.nHeads_le n.isLt, if_pos hn, State.syncStop_pll_same, State.syncStop_pll_same, State.countSync_armed hs,
      hpll, hnow]

/-- Settles O54: the rows of a head PLL and of SYNC one by one, then genlock by whether an edge is overdue and whether it is accepted. -/
theorem clockRows : Obligations.ClockRows := by
  refine ⟨fun n s hs => ⟨exec_pllLock, exec_pllUnlock, State.pllRelock_spec hs n, fun seg since off hu hr => ?_, s.rampAt_bounds n,
      fun hu hn => ?_, State.syncRestart_spec hs⟩,
    fun s hu hs => ⟨exec_genlockEdge_off, fun he hp hd => ?_, State.edgeOk_first, State.genlockWrite_first, fun k at_ u => State.edgeOk_iff,
      fun k at_ u he hp => ⟨fun hd => ?_, fun hd => ?_⟩⟩⟩
  · intro stop
    refine ⟨fun h => ?_, fun h hseg => ?_, fun h hseg hh => ⟨s.rampEnd n, ?_, State.rampEnd_spec hs hh⟩⟩
    · rw [exec_rampSegmentEnd hu hr, if_pos h]
    · rw [exec_rampSegmentEnd hu hr, if_neg (Nat.not_lt.mpr h), if_pos hseg]
    · rw [exec_rampSegmentEnd hu hr, if_neg (Nat.not_lt.mpr h), if_neg (Nat.not_lt.mpr hseg)]
  · obtain ⟨t, hrun, ht, hreg, hcount, hpll⟩ := runs_syncEdge hs hu hn
    refine ⟨t, hrun, ht, hreg, hcount, ?_⟩
    simp only [hpll, State.syncStop_pll_same, State.syncArmed_iff]
  · have hrun := exec_genlockEdge_on hu he hp (State.genlockTimeout_of_not_due hd)
    refine ⟨fun hok => ?_, fun hok => ⟨s.acceptEdge, ?_, ?_⟩⟩
    · rw [hrun, hok]
      rfl
    · rw [hrun, if_pos hok]
    · obtain ⟨hpresent, hlast, hclocks, hframe, hreg⟩ := State.acceptEdge_spec hs
      exact ⟨hpresent, hlast, by rw [hclocks]; rfl, ⟨_, by rw [hclocks]; rfl⟩, hframe, hreg⟩
  · rw [exec_genlockLoss hu, State.genlockTimeout_of_not_due]
    intro _ _ _ he' _
    rw [he] at he'
    cases he'
    exact hd
  · rw [exec_genlockLoss hu, State.genlockTimeout_of_due he hp hd]

end Sys2Proof.Machine

/-! ## Temperature (R664 to R666) -/

namespace Sys2Proof.Machine

/-- The number that a bit vector's word spells in its own width is the bit vector's own. -/
theorem sext_toNat {w : Nat} (q : BitVec w) : sext w q.toNat = q.toInt := by
  have hh : q.toNat < 2 ^ (w - 1) ↔ 2 * q.toNat < 2 ^ w := by
    cases w with
    | zero => simp [BitVec.of_length_zero]
    | succ w => rw [Nat.add_sub_cancel, pow_succ]; omega
  simp only [sext, Nat.mod_eq_of_lt q.isLt, BitVec.toInt_eq_toNat_cond, hh]

/-! ### The warning (R665) -/

section
variable {s : State}

/-- TEMP at WARN or above sets a warning that does not stand. -/
theorem State.thermWarn_rises (hf : s.rd PWR_STATUS_THERM_WARN = 0) (ht : (s.rd PWR_THERM_WARN : Int) ≤ sext 11 (s.rd PWR_TEMP_QC)) :
    s.thermWarn = ((s.wr PWR_STATUS_THERM_WARN 1).setCause (causePwr 8)).report EV_THERMAL_WARN (src 12 0) 0 := by
  simp [State.thermWarn, State.flag, hf, ht]

/-- TEMP more than 5 °C below WARN clears a warning that stands. -/
theorem State.thermWarn_clears (hf : s.rd PWR_STATUS_THERM_WARN = 1) (ht : sext 11 (s.rd PWR_TEMP_QC) < (s.rd PWR_THERM_WARN : Int) - 20) :
    s.thermWarn = (s.wr PWR_STATUS_THERM_WARN 0).setCause (causePwr 9) := by
  simp [State.thermWarn, State.flag, hf, ht]

/-- Below WARN no warning comes. -/
theorem State.thermWarn_stays_off (hf : s.rd PWR_STATUS_THERM_WARN = 0) (ht : sext 11 (s.rd PWR_TEMP_QC) < (s.rd PWR_THERM_WARN : Int)) :
    s.thermWarn = s := by
  simp [State.thermWarn, State.flag, hf, ht]

/-- Down to 5 °C below WARN a warning stays. -/
theorem State.thermWarn_stays_on (hf : s.rd PWR_STATUS_THERM_WARN = 1)
    (ht : (s.rd PWR_THERM_WARN : Int) - 20 ≤ sext 11 (s.rd PWR_TEMP_QC)) : s.thermWarn = s := by
  simp [State.thermWarn, State.flag, hf, Int.not_lt.mpr ht]

@[simp] theorem State.thermWarn_now : s.thermWarn.now = s.now := by
  simp only [State.thermWarn]
  split
  · simp
  split
  · simp
  · rfl

end

/-! ### A sample (R664) -/

/-- The highest sample since TEMP_MAX was last read, this one included. -/
def State.tempTop (s : State) (q : BitVec 11) : Int :=
  if s.power.tempSeen then max (sext 11 (s.rd PWR_TEMP_MAX_QC)) q.toInt else q.toInt

/-- A sample sets TEMP and TEMP_MAX. -/
def State.noteTemp (s : State) (q : BitVec 11) : State :=
  ((s.wr PWR_TEMP_QC q.toNat).wr PWR_TEMP_MAX_QC (wrap 11 (s.tempTop q))).setPwr fun p => { p with tempSeen := true }

section
variable {s : State} {q : BitVec 11}

/-- After a sample TEMP spells it. -/
theorem State.noteTemp_temp (hs : s.Inv) : sext 11 ((s.noteTemp q).rd PWR_TEMP_QC) = q.toInt := by
  have hrd : (s.noteTemp q).rd PWR_TEMP_QC = q.toNat := by
    rw [State.noteTemp, State.setPwr_rd, State.wr_rd_other (State.wr_inv hs _ _) _ _ _ (by decide), State.wr_rd_same hs _ _ (by decide)]
    exact Nat.mod_eq_of_lt q.isLt
  rw [hrd, sext_toNat]

/-- A sample changes no register beside TEMP and TEMP_MAX. -/
theorem State.noteTemp_rd_other (hs : s.Inv) {f : Fld} (ht : f.off ≠ PWR_TEMP_QC.off) (hm : f.off ≠ PWR_TEMP_MAX_QC.off) :
    (s.noteTemp q).rd f = s.rd f := by
  rw [State.noteTemp, State.setPwr_rd, State.wr_rd_other (State.wr_inv hs _ _) _ _ _ hm, State.wr_rd_other hs _ _ _ ht]

@[simp] theorem State.noteTemp_now : (s.noteTemp q).now = s.now := rfl

/-- The state a sample leaves beside a trip: only a running die records it and warns. -/
def State.sampled (s : State) (q : BitVec 11) : State := if s.mainUp then (s.noteTemp q).thermWarn else s

@[simp] theorem State.sampled_now : (s.sampled q).now = s.now := by
  unfold State.sampled
  split
  · rw [State.thermWarn_now, State.noteTemp_now]
  · rfl

theorem exec_tempSample : exec (.tempSample q) s = .next (if 500 ≤ q.toInt ∧ s.canTrip then (s.sampled q).trip else s.sampled q) := rfl

/-- A sample of 125 °C or above trips where a trip is possible, whether or not the main die runs (R666). -/
theorem exec_tempSample_trip (hr : s.power.railsGood = true) (hp : s.power.tripped = false) (hq : 500 ≤ q.toInt) :
    exec (.tempSample q) s = .next
      ((((s.sampled q).setPwr fun p => { p with tripped := true, tripAt := some s.now }).emit (.thermTrip true)).resetEvent 4) := by
  have hc : s.canTrip = true := by simp [State.canTrip, hr, hp]
  rw [exec_tempSample, if_pos ⟨hq, hc⟩, State.trip, State.sampled_now]

/-- A running die records a sample below 125 °C, and the warning follows. -/
theorem exec_tempSample_below (hu : s.mainUp = true) (hq : q.toInt < 500) :
    exec (.tempSample q) s = .next (s.noteTemp q).thermWarn := by
  rw [exec_tempSample, if_neg fun h => absurd hq (Int.not_lt.mpr h.1), State.sampled, if_pos hu]

end

/-- Settles O59: a trip by its threshold; below it the warning by whether it stands and on which side of its limit the sample lies. -/
theorem temperature : Obligations.Temperature := by
  refine fun s q hs => ⟨fun hr hp hq => exec_tempSample_trip hr hp hq, fun hu hq => ?_⟩
  have hflag : (s.noteTemp q).rd PWR_STATUS_THERM_WARN = s.rd PWR_STATUS_THERM_WARN := State.noteTemp_rd_other hs (by decide) (by decide)
  have hwarn : (s.noteTemp q).rd PWR_THERM_WARN = s.rd PWR_THERM_WARN := State.noteTemp_rd_other hs (by decide) (by decide)
  have htemp : sext 11 ((s.noteTemp q).rd PWR_TEMP_QC) = q.toInt := State.noteTemp_temp hs
  rw [exec_tempSample_below hu hq]
  refine ⟨fun hf ht => congrArg _ (State.thermWarn_rises (hflag.trans hf) ?_),
    fun hf ht => congrArg _ (State.thermWarn_clears (hflag.trans hf) ?_),
    fun hf ht => congrArg _ (State.thermWarn_stays_off (hflag.trans hf) ?_),
    fun hf ht => congrArg _ (State.thermWarn_stays_on (hflag.trans hf) ?_)⟩
  all_goals rwa [hwarn, htemp]

end Sys2Proof.Machine

/-! ## The event log: acknowledgement and first-error capture (R675, R678) -/

namespace Sys2Proof.Machine

/-! ### Writes to the registers of the log -/

/-- A state that keeps a queue and a part is well kept. -/
theorem State.Kept.inv {s : State} {q : List Instr} {p : Part} (h : s.Kept q p) : s.Inv := by
  obtain rfl := h.queue
  obtain rfl := h.part
  exact h

/-- A register of the log without key-guarded fields, which the firmware does not rewrite of its own accord. -/
structure RegAt.OfLog (off : Nat) (a : RegAt) : Prop where
  found : regAt off = some a
  aligned : off % 4 = 0
  base : a.base = 0x180000
  unguarded : a.row.fields.any (fun f => f.acc = .kg) = false
  notOwn : ownReg off = false

section
variable {s : State} {off : Nat} {a : RegAt} {w : RegWrite}

/-- An accepted write to a register of the log arrives with its writer's arm gone; nothing else changes. -/
theorem State.arrived_ofLog (h : a.OfLog off) : s.arrived off w = s.setArm w.req false := by
  have hheads (t : State) : t.expertHeads a = [] := by simp [State.expertHeads, h.base]
  simp [State.arrived_found w h.found, State.marksHeads, hheads, State.takesOwn, State.hostTakes, h.notOwn, State.countsMiss, h.unguarded]

/-- An accepted write to a register of the log has that register's own effect, and takes its writer's arm. -/
theorem State.busWrite_ofLog (hw : s.Accepts w) (h : a.OfLog off) :
    s.busWrite off w = (s.setArm w.req false).miscEffect off a w.val (s.armed w.req) := by
  have hbase := h.base
  have hpresent : s.absent a = false := by simp [State.absent, hbase]
  have hquoin : off ≠ 0x10 := by
    rintro rfl
    have ha : regAt 0x10 = some a := h.found
    cases ha
    exact absurd hbase (by decide)
  have hlatch : (s.setArm w.req false).beforeWrite off a w.val = s.setArm w.req false := by
    simp [State.beforeWrite, State.latchHeadOf, hbase]
  rw [State.busWrite_accepts hw h.aligned hquoin h.found hpresent, State.arrived_ofLog h, State.regEffect, hlatch]
  simp [hbase]

end

theorem rdSeq_ofLog : ∃ a : RegAt, a.OfLog EVT_RD_SEQ_SEQ.off ∧ a.rel = 8 :=
  ⟨(regAt EVT_RD_SEQ_SEQ.off).get (by decide), ⟨by simp, by decide, by decide, by decide, by decide⟩, by decide⟩

theorem fecClr_ofLog : ∃ a : RegAt, a.OfLog EVT_FEC_CLR_CLASS.off ∧ a.rel = 0x48 :=
  ⟨(regAt EVT_FEC_CLR_CLASS.off).get (by decide), ⟨by simp, by decide, by decide, by decide, by decide⟩, by decide⟩

theorem State.busWrite_rdSeq {s : State} {w : RegWrite} (hw : s.Accepts w) :
    s.busWrite EVT_RD_SEQ_SEQ.off w = (s.setArm w.req false).ackLog w.val.toNat := by
  obtain ⟨a, ha, hrel⟩ := rdSeq_ofLog
  rw [State.busWrite_ofLog hw ha]
  simp [State.miscEffect, ha.base, hrel]

theorem State.busWrite_fecClr {s : State} {w : RegWrite} (hw : s.Accepts w) :
    s.busWrite EVT_FEC_CLR_CLASS.off w = (s.setArm w.req false).fecClear w.val.toNat := by
  obtain ⟨a, ha, hrel⟩ := fecClr_ofLog
  rw [State.busWrite_ofLog hw ha]
  simp [State.miscEffect, ha.base, hrel]

/-! ### Acknowledgement (R675) -/

/-- A field that is its whole register reads the register's word. -/
theorem State.rd_eq_toNat_reg (s : State) {f : Fld} (hl : f.lsb = 0) (hw : f.width = 32) : s.rd f = (s.reg f.off).toNat := by
  rw [State.rd, Fld.get_eq, hl, hw]
  have := (s.reg f.off).isLt
  omega

/-- A field that is its whole register takes the word that is written to it. -/
theorem State.wr_reg_whole {s : State} (hs : s.Inv) {f : Fld} (hl : f.lsb = 0) (hw : f.width = 32) (v : Word) :
    (s.wr f v.toNat).reg f.off = v := by
  have h := State.wr_rd_same hs f v.toNat (by omega)
  rw [State.rd_eq_toNat_reg _ hl hw, hw, Nat.mod_eq_of_lt v.isLt] at h
  exact BitVec.eq_of_toNat_eq h

section
variable {s : State} {v : Word}

/-- How many entries a written RD_SEQ acknowledges. -/
def State.acked (s : State) (v : Word) : Nat := (v - s.reg EVT_RD_SEQ_SEQ.off).toNat

/-- How many sequence numbers lie between RD_SEQ and WR_SEQ. -/
def State.unacked (s : State) : Nat := (s.reg EVT_WR_SEQ_SEQ.off - s.reg EVT_RD_SEQ_SEQ.off).toNat

theorem State.acked_of_regsOnly {t : State} {l : List Nat} (h : s.RegsOnly t l) (hl : EVT_RD_SEQ_SEQ.off ∉ l) (v : Word) :
    t.acked v = s.acked v := by
  rw [State.acked, h.2 _ hl, State.acked]

theorem State.unacked_of_regsOnly {t : State} {l : List Nat} (h : s.RegsOnly t l) (hr : EVT_RD_SEQ_SEQ.off ∉ l)
    (hw : EVT_WR_SEQ_SEQ.off ∉ l) : t.unacked = s.unacked := by
  rw [State.unacked, h.2 _ hr, h.2 _ hw, State.unacked]

/-- A difference of two words, taken as the model takes it. -/
theorem toNat_sub_word (x y : Word) : (x.toNat + 2 ^ 32 - y.toNat) % 2 ^ 32 = (x - y).toNat := by
  rw [BitVec.toNat_sub]
  have := y.isLt
  congr 1
  omega

theorem State.ackLog_eq (s : State) (v : Word) :
    s.ackLog v.toNat = if s.acked v ≤ s.unacked then
      { s.wr EVT_RD_SEQ_SEQ v.toNat with log := { s.log with entries := s.log.entries.drop (s.acked v) } } else s := by
  simp only [State.ackLog, State.rd_eq_toNat_reg s (f := EVT_RD_SEQ_SEQ) rfl rfl, State.rd_eq_toNat_reg s (f := EVT_WR_SEQ_SEQ) rfl rfl,
    toNat_sub_word, State.acked, State.unacked]
  rfl

/-- An accepted acknowledgement sets RD_SEQ and frees the entries before it. -/
theorem State.ackLog_taken (hs : s.Inv) (h : s.acked v ≤ s.unacked) :
    let t := s.ackLog v.toNat
    t.reg EVT_RD_SEQ_SEQ.off = v ∧ t.log = { s.log with entries := s.log.entries.drop (s.acked v) } ∧
      (∀ o, o ≠ EVT_RD_SEQ_SEQ.off → t.reg o = s.reg o) ∧ t = { s with regs := t.regs, log := t.log } := by
  intro t
  have ht : t = _ := (s.ackLog_eq v).trans (if_pos h)
  rw [ht]
  exact ⟨State.wr_reg_whole hs rfl rfl v, rfl, fun o ho => State.wr_reg_other hs _ _ ho, rfl⟩

theorem State.ackLog_ignored (h : ¬ s.acked v ≤ s.unacked) : s.ackLog v.toNat = s := (s.ackLog_eq v).trans (if_neg h)

end

/-! ### Clearing first-error captures (R678) -/

/-- A write to FEC_CLR at one class: both its marks go where the class's bit is 1. -/
def State.fecClearClass (mask : Nat) (s : State) (c : Nat) : State :=
  if mask.testBit c then (s.wr (EVT_FEC_VALID_VALID c) 0).wr (EVT_FEC_VALID_MORE c) 0 else s

/-- The same at the classes below a number. -/
def State.fecClearBelow (mask : Nat) (s : State) (k : Nat) : State := (List.range k).foldl (State.fecClearClass mask) s

theorem State.fecClearBelow_succ (mask : Nat) (s : State) (k : Nat) :
    s.fecClearBelow mask (k + 1) = (s.fecClearBelow mask k).fecClearClass mask k := by
  rw [State.fecClearBelow, List.range_succ, List.foldl_append]
  rfl

theorem State.fecClear_eq (s : State) (mask : Nat) : s.fecClear mask = s.fecClearBelow mask 4 := rfl

/-- The marks of two classes stand in two registers. -/
theorem fecValid_off_inj {c d : Nat} : (EVT_FEC_VALID_VALID c).off = (EVT_FEC_VALID_VALID d).off ↔ c = d := by
  simp only [EVT_FEC_VALID_VALID]
  omega

section
variable {s : State} (hs : s.Inv) (mask : Nat)
include hs

theorem State.fecClearClass_inv (c : Nat) : (s.fecClearClass mask c).Inv := by
  unfold State.fecClearClass
  split
  · exact State.wr_inv (State.wr_inv hs _ _) _ _
  · exact hs

theorem State.fecClearClass_regsOnly (c : Nat) : s.RegsOnly (s.fecClearClass mask c) [(EVT_FEC_VALID_VALID c).off] := by
  unfold State.fecClearClass
  split
  · refine ((State.wr_regsOnly hs (EVT_FEC_VALID_VALID c) 0).trans (State.wr_regsOnly (State.wr_inv hs _ _) _ 0)).mono fun o ho => ?_
    simpa [EVT_FEC_VALID_VALID, EVT_FEC_VALID_MORE] using ho
  · exact .refl _

theorem State.fecClearClass_marks (c : Nat) :
    (s.fecClearClass mask c).rd (EVT_FEC_VALID_VALID c) = (if mask.testBit c then 0 else s.rd (EVT_FEC_VALID_VALID c)) ∧
      (s.fecClearClass mask c).rd (EVT_FEC_VALID_MORE c) = if mask.testBit c then 0 else s.rd (EVT_FEC_VALID_MORE c) := by
  unfold State.fecClearClass
  split
  · have hi := State.wr_inv hs (EVT_FEC_VALID_VALID c) 0
    constructor
    · rw [State.wr_rd_beside hi (EVT_FEC_VALID_MORE c) (EVT_FEC_VALID_VALID c) 0 (by simp [EVT_FEC_VALID_MORE]) rfl
        (by simp [EVT_FEC_VALID_MORE, EVT_FEC_VALID_VALID]), State.wr_rd_same hs _ _ (by simp [EVT_FEC_VALID_VALID]), Nat.zero_mod]
    · rw [State.wr_rd_same hi _ _ (by simp [EVT_FEC_VALID_MORE]), Nat.zero_mod]
  · exact ⟨rfl, rfl⟩

theorem State.fecClearBelow_inv (k : Nat) : (s.fecClearBelow mask k).Inv := by
  induction k with
  | zero => exact hs
  | succ k ih => rw [State.fecClearBelow_succ]; exact State.fecClearClass_inv ih mask k

theorem State.fecClearBelow_regsOnly (k : Nat) :
    s.RegsOnly (s.fecClearBelow mask k) ((List.range k).map fun c => (EVT_FEC_VALID_VALID c).off) := by
  induction k with
  | zero => exact .refl _
  | succ k ih =>
    rw [State.fecClearBelow_succ, List.range_succ, List.map_append]
    exact ih.trans (State.fecClearClass_regsOnly (State.fecClearBelow_inv hs mask k) mask k)

/-- The marks of each class that the write reaches are those that it alone would leave; later classes keep theirs. -/
theorem State.fecClearBelow_marks {k c : Nat} (hc : c < k) :
    (s.fecClearBelow mask k).rd (EVT_FEC_VALID_VALID c) = (if mask.testBit c then 0 else s.rd (EVT_FEC_VALID_VALID c)) ∧
      (s.fecClearBelow mask k).rd (EVT_FEC_VALID_MORE c) = if mask.testBit c then 0 else s.rd (EVT_FEC_VALID_MORE c) := by
  induction k with
  | zero => omega
  | succ k ih =>
    have hi := State.fecClearBelow_inv hs mask k
    have hbelow := State.fecClearBelow_regsOnly hs mask k
    rw [State.fecClearBelow_succ]
    rcases Nat.lt_succ_iff_lt_or_eq.mp hc with h | rfl
    · have hclass := State.fecClearClass_regsOnly hi mask k
      have hoff : (EVT_FEC_VALID_VALID c).off ∉ [(EVT_FEC_VALID_VALID k).off] := by simp [fecValid_off_inj, h.ne]
      rw [hclass.rd_eq hoff, hclass.rd_eq (f := EVT_FEC_VALID_MORE c) hoff]
      exact ih h
    · have hoff : (EVT_FEC_VALID_VALID c).off ∉ (List.range c).map fun d => (EVT_FEC_VALID_VALID d).off := by
        simp [fecValid_off_inj]
      rw [← hbelow.rd_eq hoff, ← hbelow.rd_eq (f := EVT_FEC_VALID_MORE c) hoff]
      exact State.fecClearClass_marks hi mask c

end

section
variable {s : State} {w : RegWrite} (hs : s.Inv) (hw : s.Accepts w)
include hs hw

/-- An accepted write of RD_SEQ frees the entries that it acknowledges, where it is taken. -/
theorem State.busWrite_rdSeq_taken (hk : s.acked w.val ≤ s.unacked) :
    let t := s.busWrite EVT_RD_SEQ_SEQ.off w
    t.reg EVT_RD_SEQ_SEQ.off = w.val ∧ t.log = { s.log with entries := s.log.entries.drop (s.acked w.val) } ∧
      (∀ o, o ∉ [EVT_RD_SEQ_SEQ.off, GLB_QUOIN_KEY.off] → t.reg o = s.reg o) ∧ t = { s with regs := t.regs, log := t.log } := by
  intro t
  have hr := State.setArm_regsOnly hs w.req false
  have hacked := State.acked_of_regsOnly hr (by decide) w.val
  have hunacked := State.unacked_of_regsOnly hr (by decide) (by decide)
  have ht : t = _ := State.busWrite_rdSeq hw
  obtain ⟨hrd, hlog, hother, hframe⟩ := State.ackLog_taken (State.setArm_inv hs w.req false) (v := w.val) (by rwa [hacked, hunacked])
  rw [ht]
  refine ⟨hrd, ?_, fun o ho => ?_, hframe⟩
  · rw [hlog, hacked, State.setArm_log]
  · simp only [List.mem_cons, List.not_mem_nil, or_false, not_or] at ho
    rw [hother o ho.1, hr.2 o (by simpa using ho.2)]

/-- An accepted write of RD_SEQ that is not taken costs its writer's arm only. -/
theorem State.busWrite_rdSeq_ignored (hk : ¬ s.acked w.val ≤ s.unacked) : s.RegsOnly (s.busWrite EVT_RD_SEQ_SEQ.off w) [GLB_QUOIN_KEY.off] := by
  have hr := State.setArm_regsOnly hs w.req false
  have hacked := State.acked_of_regsOnly hr (by decide) w.val
  have hunacked := State.unacked_of_regsOnly hr (by decide) (by decide)
  rw [State.busWrite_rdSeq hw, State.ackLog_ignored (by rwa [hacked, hunacked])]
  exact hr

/-- An accepted write of FEC_CLR clears the marks of the classes it names. -/
theorem State.busWrite_fecClr_marks {c : Nat} (hc : c < 4) :
    let t := s.busWrite EVT_FEC_CLR_CLASS.off w
    t.rd (EVT_FEC_VALID_VALID c) = (if w.val.toNat.testBit c then 0 else s.rd (EVT_FEC_VALID_VALID c)) ∧
      t.rd (EVT_FEC_VALID_MORE c) = if w.val.toNat.testBit c then 0 else s.rd (EVT_FEC_VALID_MORE c) := by
  have hr := State.setArm_regsOnly hs w.req false
  have hoff : (EVT_FEC_VALID_VALID c).off ∉ [GLB_QUOIN_KEY.off] := by
    simp only [EVT_FEC_VALID_VALID, GLB_QUOIN_KEY, List.mem_singleton]
    omega
  rw [State.busWrite_fecClr hw, State.fecClear_eq, ← hr.rd_eq hoff, ← hr.rd_eq (f := EVT_FEC_VALID_MORE c) hoff]
  exact State.fecClearBelow_marks (State.setArm_inv hs w.req false) w.val.toNat hc

theorem State.busWrite_fecClr_regsOnly :
    s.RegsOnly (s.busWrite EVT_FEC_CLR_CLASS.off w) (GLB_QUOIN_KEY.off :: (List.range 4).map fun c => (EVT_FEC_VALID_VALID c).off) := by
  rw [State.busWrite_fecClr hw, State.fecClear_eq]
  exact (State.setArm_regsOnly hs w.req false).trans (State.fecClearBelow_regsOnly (State.setArm_inv hs w.req false) w.val.toNat 4)

end

/-- Settles O20: by whether the new value lies in the interval; FEC_CLR class by class. -/
theorem logRegisterWrites : Obligations.LogRegisterWrites := by
  refine fun w s hs hw => ⟨runs_of_writeOf rfl ?_, runs_of_writeOf rfl
    ⟨fun c hc => State.busWrite_fecClr_marks hs hw hc, State.busWrite_fecClr_regsOnly hs hw⟩⟩
  intro k
  split
  case isTrue hk => exact State.busWrite_rdSeq_taken hs hw hk
  case isFalse hk => exact State.busWrite_rdSeq_ignored hs hw hk

end Sys2Proof.Machine

/-! ## The event logger and its commands (R671 to R683) -/

namespace Sys2Proof.Machine

/-! ### A write of several fields -/

/-- Write fields one after another. -/
def State.wrAll (s : State) (l : List (Fld × Nat)) : State := l.foldl (fun t x => t.wr x.1 x.2) s

/-- Two fields share no bit. -/
@[reducible] def Fld.Apart (f g : Fld) : Prop := f.off ≠ g.off ∨ f.lsb + f.width ≤ g.lsb ∨ g.lsb + g.width ≤ f.lsb

/-- A field lies within its word. -/
@[reducible] def Fld.Fits (f : Fld) : Prop := f.lsb + f.width ≤ 32

theorem State.wr_rd_apart {s : State} (hs : s.Inv) {f g : Fld} (v : Nat) (hf : f.Fits) (h : f.Apart g) : (s.wr f v).rd g = s.rd g := by
  by_cases ho : g.off = f.off
  · exact State.wr_rd_beside hs f g v hf ho (h.resolve_left fun hne => hne ho.symm).symm
  · exact State.wr_rd_other hs f g v ho

theorem State.wrAll_eq (s : State) (l : List (Fld × Nat)) : s.wrAll l = { s with regs := (s.wrAll l).regs } := by
  induction l generalizing s with
  | nil => rfl
  | cons x t ih => exact ih (s.wr x.1 x.2)

theorem State.wrAll_inv {s : State} (hs : s.Inv) (l : List (Fld × Nat)) : (s.wrAll l).Inv := by
  induction l generalizing s with
  | nil => exact hs
  | cons x t ih => exact ih (State.wr_inv hs x.1 x.2)

/-- A register of which no field is written keeps its word. -/
theorem State.wrAll_reg_other {s : State} (hs : s.Inv) {l : List (Fld × Nat)} {o : Nat} (h : ∀ x ∈ l, o ≠ x.1.off) :
    (s.wrAll l).reg o = s.reg o := by
  induction l generalizing s with
  | nil => rfl
  | cons x t ih =>
    rw [State.wrAll, List.foldl_cons, ← State.wrAll, ih (State.wr_inv hs _ _) fun y hy => h y (List.mem_cons_of_mem _ hy),
      State.wr_reg_other hs _ _ (h x List.mem_cons_self)]

/-- A field that shares no bit with the written ones reads as before. -/
theorem State.wrAll_rd_apart {s : State} (hs : s.Inv) {l : List (Fld × Nat)} {g : Fld} (hfit : ∀ x ∈ l, x.1.Fits)
    (h : ∀ x ∈ l, x.1.Apart g) : (s.wrAll l).rd g = s.rd g := by
  induction l generalizing s with
  | nil => rfl
  | cons x t ih =>
    rw [State.wrAll, List.foldl_cons, ← State.wrAll, ih (State.wr_inv hs _ _) (fun y hy => hfit y (List.mem_cons_of_mem _ hy))
      fun y hy => h y (List.mem_cons_of_mem _ hy), State.wr_rd_apart hs _ (hfit x List.mem_cons_self) (h x List.mem_cons_self)]

/-- Of fields that share no bit each reads back what was written to it, in its width. -/
theorem State.wrAll_rd {s : State} (hs : s.Inv) {l : List (Fld × Nat)} (hfit : ∀ x ∈ l, x.1.Fits)
    (hapart : l.Pairwise fun x y => x.1.Apart y.1) {f : Fld} {v : Nat} (h : (f, v) ∈ l) : (s.wrAll l).rd f = v % 2 ^ f.width := by
  induction l generalizing s with
  | nil => cases h
  | cons x t ih =>
    obtain ⟨hx, ht⟩ := List.pairwise_cons.mp hapart
    have hfitt := fun y hy => hfit y (List.mem_cons_of_mem x hy)
    rw [State.wrAll, List.foldl_cons, ← State.wrAll]
    rcases List.mem_cons.mp h with rfl | h
    · rw [State.wrAll_rd_apart (State.wr_inv hs _ _) hfitt fun y hy => (hx y hy).imp Ne.symm Or.symm,
        State.wr_rd_same hs _ _ (hfit _ List.mem_cons_self)]
    · exact ih (State.wr_inv hs _ _) hfitt ht h

/-! ### First-error capture (R678) -/

section
variable {s : State}

/-- What a capture writes: the report and the time at which it reaches the logger. -/
def State.fecFields (s : State) (r : Report) : List (Fld × Nat) :=
  let c := evClass r.code
  [(EVT_FEC_CODE_CODE c, r.code), (EVT_FEC_CODE_SOURCE c, r.source), (EVT_FEC_SEC_LO_SEC c, s.timeSec % 2 ^ 32),
    (EVT_FEC_SEC_HI_SEC c, s.timeSec / 2 ^ 32), (EVT_FEC_NS_NS c, s.timeNs), (EVT_FEC_DET_LO_DETAIL c, r.detail % 2 ^ 32),
    (EVT_FEC_DET_HI_DETAIL c, r.detail / 2 ^ 32), (EVT_FEC_VALID_VALID c, 1)]

theorem State.fecFields_fit (r : Report) : ∀ x ∈ s.fecFields r, x.1.Fits := by
  simp [State.fecFields, Fld.Fits, EVT_FEC_CODE_CODE, EVT_FEC_CODE_SOURCE, EVT_FEC_SEC_LO_SEC, EVT_FEC_SEC_HI_SEC, EVT_FEC_NS_NS,
    EVT_FEC_DET_LO_DETAIL, EVT_FEC_DET_HI_DETAIL, EVT_FEC_VALID_VALID]

theorem State.fecFields_apart (r : Report) : (s.fecFields r).Pairwise fun x y => x.1.Apart y.1 := by
  simp [State.fecFields, Fld.Apart, EVT_FEC_CODE_CODE, EVT_FEC_CODE_SOURCE, EVT_FEC_SEC_LO_SEC, EVT_FEC_SEC_HI_SEC, EVT_FEC_NS_NS,
    EVT_FEC_DET_LO_DETAIL, EVT_FEC_DET_HI_DETAIL, EVT_FEC_VALID_VALID]

/-- The capture blocks stand behind the other registers of the log. -/
theorem State.fecFields_off (r : Report) {o : Nat} (ho : o < 0x180100) : ∀ x ∈ s.fecFields r, o ≠ x.1.off := by
  simp only [State.fecFields, List.forall_mem_cons, EVT_FEC_CODE_CODE, EVT_FEC_CODE_SOURCE, EVT_FEC_SEC_LO_SEC, EVT_FEC_SEC_HI_SEC,
    EVT_FEC_NS_NS, EVT_FEC_DET_LO_DETAIL, EVT_FEC_DET_HI_DETAIL, EVT_FEC_VALID_VALID, List.not_mem_nil, false_imp_iff, implies_true,
    and_true]
  omega

/-- The first report of its class is captured with its cause. -/
theorem State.fecCapture_first {r : Report} (h : s.rd (EVT_FEC_VALID_VALID (evClass r.code)) = 0) :
    s.fecCapture r = (s.wrAll (s.fecFields r)).setCause (causeEvt 9) := by
  rw [State.fecCapture, State.flag, h]
  rfl

/-- What the capture of a first report leaves: registers of its block only, which hold the report, and its cause. -/
theorem State.fecCapture_first_spec (hs : s.Inv) {r : Report} (h : s.rd (EVT_FEC_VALID_VALID (evClass r.code)) = 0) :
    let c := evClass r.code
    ∃ v : State, s.fecCapture r = v.setCause (causeEvt 9) ∧ v = { s with regs := v.regs } ∧
      v.rd (EVT_FEC_VALID_VALID c) = 1 ∧ v.rd (EVT_FEC_CODE_CODE c) = r.code % 65536 ∧ v.rd (EVT_FEC_CODE_SOURCE c) = r.source % 65536 ∧
      v.rd (EVT_FEC_SEC_LO_SEC c) = s.timeSec % 2 ^ 32 ∧ v.rd (EVT_FEC_SEC_HI_SEC c) = s.timeSec / 2 ^ 32 % 65536 ∧
      v.rd (EVT_FEC_NS_NS c) = s.timeNs % 2 ^ 30 ∧ v.rd (EVT_FEC_DET_LO_DETAIL c) = r.detail % 2 ^ 32 ∧
      v.rd (EVT_FEC_DET_HI_DETAIL c) = r.detail / 2 ^ 32 % 2 ^ 32 := by
  intro c
  have hrd {f : Fld} {v : Nat} (hf : (f, v) ∈ s.fecFields r) := State.wrAll_rd hs (State.fecFields_fit r) (State.fecFields_apart r) hf
  refine ⟨_, State.fecCapture_first h, State.wrAll_eq s _, hrd (v := 1) ?_, hrd ?_, hrd ?_, (hrd ?_).trans (Nat.mod_mod s.timeSec (2 ^ 32)),
    hrd ?_, hrd ?_, (hrd ?_).trans (Nat.mod_mod r.detail (2 ^ 32)), hrd ?_⟩
  all_goals simp [State.fecFields, c]

/-- A later report of its class is marked only. -/
theorem State.fecCapture_later {r : Report} (h : s.rd (EVT_FEC_VALID_VALID (evClass r.code)) ≠ 0) :
    s.fecCapture r = s.wr (EVT_FEC_VALID_MORE (evClass r.code)) 1 := by
  rw [State.fecCapture, State.flag, if_pos (by simpa using h)]

/-- A capture changes registers, messages and pending bits only. -/
theorem State.fecCapture_eq (s : State) (r : Report) :
    s.fecCapture r = { s with regs := (s.fecCapture r).regs, out := (s.fecCapture r).out, host := (s.fecCapture r).host } := by
  by_cases h : s.rd (EVT_FEC_VALID_VALID (evClass r.code)) = 0
  · rw [State.fecCapture_first h, State.setCause_eq, State.wrAll_eq]
  · rw [State.fecCapture_later h]
    rfl

@[simp] theorem State.fecCapture_log (s : State) (r : Report) : (s.fecCapture r).log = s.log := by rw [State.fecCapture_eq]

@[simp] theorem State.fecCapture_now (s : State) (r : Report) : (s.fecCapture r).now = s.now := by rw [State.fecCapture_eq]

end

/-! ### Merging (R673) -/

section
variable {s : State} {r : Report}

/-- A report merges into an entry that is of its CODE and SOURCE and no more than 1 ms old. -/
@[reducible] def LogEntry.Takes (e : LogEntry) (r : Report) (now : Nat) : Prop :=
  e.code = r.code ∧ e.source = r.source ∧ now ≤ e.first + 1000000

theorem State.mergeTarget_some {e : LogEntry} (h : s.mergeTarget r = some e) : e.Takes r s.now := by
  simpa using List.find?_some h

theorem State.mergeTarget_none_iff : s.mergeTarget r = none ↔ ∀ e ∈ s.log.entries, ¬ e.Takes r s.now := by
  simp only [State.mergeTarget, List.find?_eq_none, decide_eq_true_eq]

theorem State.fecCapture_mergeTarget (s : State) (q : Report) : (s.fecCapture q).mergeTarget r = s.mergeTarget r := by
  rw [State.mergeTarget, State.fecCapture_log, State.fecCapture_now, State.mergeTarget]

end

/-! ### The row (R671, R676) -/

/-- The logger has taken the oldest report, and captured it where it is the first of its class. -/
def State.logTaken (s : State) (r : Report) (rest : List Report) : State :=
  ({ s with log := { s.log with reports := rest } } : State).fecCapture r

section
variable {s : State} {r : Report} {rest : List Report} (h : s.log.reports = r :: rest)
include h

theorem exec_eventReport_merges {e : LogEntry} (hm : (s.logTaken r rest).mergeTarget r = some e) :
    exec .eventReport s = .next ((s.logTaken r rest).mergeInto e) := by
  show execEventReport s = _
  rw [execEventReport, h]
  dsimp only
  rw [← State.logTaken, hm]

theorem exec_eventReport_unmerged (hm : (s.logTaken r rest).mergeTarget r = none) :
    exec .eventReport s = .next (if s.log.entries.length < 4096 then (s.logTaken r rest).newEntry r
      else ((s.logTaken r rest).count (EVT_DROPPED_COUNT (evClass r.code)) 1).setCause (causeEvt 10)) := by
  have hlog : (s.logTaken r rest).log.entries = s.log.entries := by rw [State.logTaken, State.fecCapture_log]
  show execEventReport s = _
  rw [execEventReport, h]
  dsimp only
  rw [← State.logTaken, hm, apply_ite Host.Outcome.next, hlog]

end

/-! ### What a write of the logger leaves (R671) -/

/-- The registers in which the log counts its entries and its merges. -/
def logTallies : List Nat := [EVT_WR_SEQ_SEQ.off, EVT_COALESCED_COUNT.off]

theorem notMem_logTallies_iff {o : Nat} : o ∉ logTallies ↔ o ≠ 0x180004 ∧ o ≠ 0x180020 := by
  simp [logTallies, EVT_WR_SEQ_SEQ, EVT_COALESCED_COUNT]

theorem dropped_notMem_logTallies (code : Nat) : (EVT_DROPPED_COUNT (evClass code)).off ∉ logTallies := by
  have hc : evClass code < 4 := by
    unfold evClass
    repeat' split
    all_goals decide
  simp only [notMem_logTallies_iff, EVT_DROPPED_COUNT]
  omega

/-- The entries of the log and the two counts of them stay. -/
structure State.KeepsLog (s t : State) : Prop where
  inv : t.Inv
  entries : t.log.entries = s.log.entries
  reg : ∀ o ∈ logTallies, t.reg o = s.reg o

section
variable {s t u : State}

theorem State.KeepsLog.trans (h : s.KeepsLog t) (k : t.KeepsLog u) : s.KeepsLog u :=
  ⟨k.inv, k.entries.trans h.entries, fun o ho => (k.reg o ho).trans (h.reg o ho)⟩

theorem State.KeepsLog.rd (h : s.KeepsLog t) {f : Fld} (hf : f.off ∈ logTallies) : t.rd f = s.rd f := by
  rw [State.rd, h.reg _ hf, State.rd]

theorem State.KeepsLog.of_regs_eq (hi : t.Inv) (hl : t.log.entries = s.log.entries) (hr : t.regs = s.regs) : s.KeepsLog t :=
  ⟨hi, hl, fun o _ => by rw [State.reg, hr, State.reg]⟩

theorem State.KeepsLog.ite {p : Prop} [Decidable p] (h : s.KeepsLog t) (k : s.KeepsLog u) : s.KeepsLog (if p then t else u) := by
  split
  · exact h
  · exact k

variable (hs : s.Inv)
include hs

theorem State.setLog_inv (l : EventLog) : ({ s with log := l } : State).Inv :=
  ⟨rfl, rfl, hs.regs, hs.live, hs.mem, hs.poisoned, hs.capture⟩

theorem State.keepsLog_refl : s.KeepsLog s := ⟨hs, rfl, fun _ _ => rfl⟩

theorem State.setReg_keepsLog {off : Nat} (w : Word) (h : off ∉ logTallies) : s.KeepsLog (s.setReg off w) :=
  ⟨State.setReg_inv hs off w, rfl, fun _ ho => State.setReg_reg_other hs w (ne_of_mem_of_not_mem ho h)⟩

theorem State.wr_keepsLog {f : Fld} (v : Nat) (h : f.off ∉ logTallies) : s.KeepsLog (s.wr f v) := State.setReg_keepsLog hs _ h

theorem State.count_keepsLog {f : Fld} (n : Nat) (h : f.off ∉ logTallies) : s.KeepsLog (s.count f n) := State.wr_keepsLog hs _ h

theorem State.setCause_keepsLog {c : Cause} (h : c.off ∉ logTallies) : s.KeepsLog (s.setCause c) :=
  ⟨(State.setCause_kept c hs).inv, by rw [State.setCause_log], fun _ ho => State.setCause_reg_other hs (ne_of_mem_of_not_mem ho h)⟩

theorem State.fecCapture_keepsLog (r : Report) : s.KeepsLog (s.fecCapture r) := by
  by_cases h : s.rd (EVT_FEC_VALID_VALID (evClass r.code)) = 0
  · rw [State.fecCapture_first h]
    have hw : s.KeepsLog (s.wrAll (s.fecFields r)) := by
      refine ⟨State.wrAll_inv hs _, by rw [State.wrAll_eq], fun o ho => State.wrAll_reg_other hs (State.fecFields_off r ?_)⟩
      revert o
      decide
    exact hw.trans (State.setCause_keepsLog hw.inv (by decide))
  · rw [State.fecCapture_later h]
    refine State.wr_keepsLog hs 1 ?_
    simp only [notMem_logTallies_iff, EVT_FEC_VALID_MORE]
    omega

theorem State.logTaken_keepsLog (r : Report) (rest : List Report) : s.KeepsLog (s.logTaken r rest) := by
  have htaken : s.KeepsLog { s with log := { s.log with reports := rest } } := .of_regs_eq (State.setLog_inv hs _) rfl rfl
  exact htaken.trans (State.fecCapture_keepsLog htaken.inv r)

theorem State.report_keepsLog (code source detail : Nat) : s.KeepsLog (s.report code source detail) := by
  have hc := State.count_keepsLog hs 1 (dropped_notMem_logTallies code)
  have hqueued (q : List Report) : s.KeepsLog { s with log := { s.log with reports := q } } := .of_regs_eq (State.setLog_inv hs _) rfl rfl
  exact (hqueued _).ite (hc.trans (State.setCause_keepsLog hc.inv (by decide)))

/-! ### Writes of Densum -/

theorem State.dsmStoreAll_keepsLog (a : Nat) (d : List (Option Byte)) : s.KeepsLog (s.dsmStoreAll a d) := by
  induction d generalizing s a with
  | nil => exact State.keepsLog_refl hs
  | cons b t ih =>
    cases b with
    | none => exact ih hs (a + 1)
    | some b =>
      have hb : s.KeepsLog (s.dsmStore a b) := .of_regs_eq (State.dsmStore_kept a b hs).inv rfl rfl
      exact hb.trans (ih hb.inv (a + 1))

theorem State.dirtyPage_keepsLog (p : Nat) : s.KeepsLog (s.dirtyPage p) := by
  have hi := (State.dirtyPage_kept p hs).inv
  unfold State.dirtyPage at hi ⊢
  split at hi <;> exact .of_regs_eq hi rfl rfl

theorem State.recurClearLine_keepsLog (a : Nat) : s.KeepsLog (s.recurClearLine a) := by
  unfold State.recurClearLine
  split
  case h_1 e he =>
    have he : e < 64 := List.mem_range.mp (List.mem_of_find?_eq_some he)
    have haddr : (DSM_RECUR_ADDR_LINE e).off ∉ logTallies := by
      simp only [notMem_logTallies_iff, DSM_RECUR_ADDR_LINE]
      omega
    have hcount : (DSM_RECUR_CNT_COUNT e).off ∉ logTallies := by
      simp only [notMem_logTallies_iff, DSM_RECUR_CNT_COUNT]
      omega
    have h := State.setReg_keepsLog hs 0 haddr
    exact h.trans (State.setReg_keepsLog h.inv 0 hcount)
  case h_2 => exact State.keepsLog_refl hs

theorem State.flipWritten_keepsLog (key bit : Nat) : s.KeepsLog (s.flipWritten key bit) :=
  .of_regs_eq (State.flipWritten_kept key bit hs).inv rfl rfl

theorem State.dsmSetPoison_keepsLog (key : Nat) (p whole : Bool) : s.KeepsLog (s.dsmSetPoison key p whole) :=
  .of_regs_eq (State.dsmSetPoison_kept key p whole hs).inv rfl rfl

theorem State.inject_keepsLog (la : Nat) (enabled : Nat → Bool) : s.KeepsLog (s.inject la enabled) := by
  have disarm {t : State} (h : s.KeepsLog t) : s.KeepsLog (t.wr DSM_INJECT_CTRL_ARM 0) := h.trans (State.wr_keepsLog h.inv 0 (by decide))
  have hflip (bit : Nat) := State.flipWritten_keepsLog hs (la + s.rd DSM_INJECT_CTRL_BYTE) bit
  have hrefl := State.keepsLog_refl hs
  have hone (i : Nat) := disarm (hflip i)
  have htwo (i j : Nat) := disarm ((hflip i).trans (State.flipWritten_keepsLog (hflip i).inv (la + s.rd DSM_INJECT_CTRL_BYTE) j))
  have hpoison := disarm (State.dsmSetPoison_keepsLog hs la true true)
  exact ((hone _).ite ((htwo _ _).ite (hpoison.ite hrefl))).ite hrefl

theorem State.dsmRawWrite_keepsLog (a : Nat) (d : List (Option Byte)) (poison : Bool) : s.KeepsLog (s.dsmRawWrite a d poison) := by
  unfold State.dsmRawWrite
  extract_lets la whole stored dirty cleared
  have hstored : s.KeepsLog stored := by
    have hall := State.dsmStoreAll_keepsLog hs a d
    have hpoison := State.dsmSetPoison_keepsLog hall.inv la poison whole
    exact (hall.trans hpoison).trans (.of_regs_eq (State.dropBack_kept la hpoison.inv).inv rfl rfl)
  have hdirty : s.KeepsLog dirty := hstored.trans (State.dirtyPage_keepsLog hstored.inv _)
  have hcleared : s.KeepsLog cleared := (hdirty.trans (State.recurClearLine_keepsLog hdirty.inv _)).ite hdirty
  exact hcleared.trans (State.inject_keepsLog hcleared.inv _ _)

theorem State.dsmPermErr_keepsLog (req a : Nat) : s.KeepsLog (s.dsmPermErr req a) := by
  have hc := State.count_keepsLog hs (f := DSM_PERM_ERR_COUNT) 1 (by decide)
  have hcause := hc.trans (State.setCause_keepsLog hc.inv (c := causeDsm 4) (by decide))
  exact hcause.trans (State.report_keepsLog hcause.inv _ _ _)

/-- A write of the logger leaves its entries and their counts, also where Densum refuses it. -/
theorem State.logWrite_keepsLog (a : Nat) (d : List Byte) : s.KeepsLog (s.logWrite a d) := by
  unfold State.logWrite State.dsmWriteLine
  split
  · exact State.dsmRawWrite_keepsLog hs a (d.map some) false
  · exact State.dsmPermErr_keepsLog hs 1 (a / 64 * 64)

end

/-! ### Merges and new entries (R673, R674, R679 to R681) -/

section
variable {s : State} (hs : s.Inv)
include hs

/-- A merge is counted, advances nothing, and adds to its entry's COUNT and LAST_US. -/
theorem State.mergeInto_spec (e : LogEntry) :
    let t := s.mergeInto e
    t.rd EVT_COALESCED_COUNT = min (s.rd EVT_COALESCED_COUNT + 1) (2 ^ 32 - 1) ∧ t.rd EVT_WR_SEQ_SEQ = s.rd EVT_WR_SEQ_SEQ ∧
      t.log.entries = s.log.entries.map fun x => if x.seq = e.seq then
        { e with count := min (e.count + 1) 65535, lastUs := min ((s.now - e.first) / 1000) 1000 } else x := by
  unfold State.mergeInto
  extract_lets e' _ merged counted
  have hmerged : merged.Inv := State.setLog_inv hs _
  have hcounted : merged.KeepsLog counted := State.logWrite_keepsLog hmerged _ _
  have hstored := hcounted.trans (State.logWrite_keepsLog hcounted.inv (logAddr e.seq + 22) (leBytes 2 e'.lastUs))
  refine ⟨?_, ?_, ?_⟩
  · rw [State.count_rd_same hstored.inv _ _ (by decide), hstored.rd (by decide)]
    rfl
  · rw [(State.count_regsOnly hstored.inv EVT_COALESCED_COUNT 1).rd_eq (by decide), hstored.rd (by decide)]
    rfl
  · rw [State.count_log, hstored.entries]

theorem State.aerReport_keepsLog (c : Nat) : s.KeepsLog (s.aerReport c) := by
  have hsent : s.KeepsLog (s.emit (.aer (c == 3))) := .of_regs_eq (State.emit_kept _ hs).inv rfl rfl
  exact hsent.ite (State.keepsLog_refl hs)

theorem State.persist_keepsLog (e : LogEntry) : s.KeepsLog (s.persist e) := by
  have hqueued (q : List LogEntry) (since : Nat) : s.KeepsLog { s with log := { s.log with persistQ := q, persistSince := since } } :=
    .of_regs_eq (State.setLog_inv hs _) rfl rfl
  have hlost : s.KeepsLog (s.count EVT_PERSIST_LOST_COUNT 1) := State.count_keepsLog hs 1 (by decide)
  exact ((hqueued _ _).ite hlost).ite (State.keepsLog_refl hs)

/-- A new entry advances WR_SEQ. -/
theorem State.newEntry_wrSeq (r : Report) : (s.newEntry r).rd EVT_WR_SEQ_SEQ = (s.rd EVT_WR_SEQ_SEQ + 1) % 2 ^ 32 := by
  unfold State.newEntry
  extract_lets seq c e stored _ entered advanced raised
  have hstored : s.KeepsLog stored := State.logWrite_keepsLog hs _ _
  have hentered : entered.Inv := State.setLog_inv hstored.inv _
  have hw := State.wr_inv hentered EVT_WR_SEQ_SEQ (seq + 1)
  have hadvanced : (entered.wr EVT_WR_SEQ_SEQ (seq + 1)).KeepsLog advanced := State.setCause_keepsLog hw (by decide)
  have hraised : advanced.KeepsLog raised :=
    (State.setCause_keepsLog hadvanced.inv (by decide)).ite (State.keepsLog_refl hadvanced.inv)
  have haer := State.aerReport_keepsLog hraised.inv c
  rw [(State.persist_keepsLog haer.inv e).rd (by decide), haer.rd (by decide), hraised.rd (by decide), hadvanced.rd (by decide),
    State.wr_rd_same hentered _ _ (by decide)]
  rfl

end

/-! ### The mailbox commands of the log (R681, R683) -/

section
variable {s : State} {c : FwCmd} {rest : List FwCmd}

theorem exec_logConfig (h : s.Begins 0x0B01 c rest) :
    exec .logConfig s = .next (
      let u := s.begun c rest
      let d := c.payload
      if 16 ≤ leAt d 0 1 ∨ 4 ≤ leAt d 1 1 ∨ leAt d 2 2 ≠ 0 then u.fail c stBAD_PARAM
      else (((u.wr EVT_CTRL_PERSIST (leAt d 0 1)).wr EVT_CTRL_AER_CORR (leAt d 1 1 % 2)).wr EVT_CTRL_AER_UNC (leAt d 1 1 / 2)).ok c) :=
  congrArg Host.Outcome.next (State.serve_begins _ h (by decide))

/-- The waiting entries that a flush by command takes: the oldest that no commit in progress or queued by a command writes. -/
def State.flushed (s : State) : List LogEntry := (s.log.persistQ.drop s.inFlush).take 256

theorem exec_logFlush (h : s.Begins 0x0B10 c rest) :
    exec .logFlush s = .next (
      let v := (s.begun c rest).dropOwnFlush
      if v.flushed = [] then v.finish c stOK (leBytes 4 0) else v.nvCommand c 5 (.log v.flushed) (leBytes 4 v.flushed.length)) := by
  have hserve : exec .logFlush s = _ := congrArg Host.Outcome.next (State.serve_begins _ h (by decide))
  rw [hserve]
  simp only [List.isEmpty_iff]
  rfl

theorem State.begun_persisted : (s.begun c rest).persisted = s.persisted := by
  obtain ⟨rs, ag, e⟩ := s.begun_eq (c := c) (rest := rest)
  rw [e]
  rfl

/-- The newest persisted entries that fit in a buffer of a length. -/
def State.newestPersisted (s : State) (len : Nat) : List LogEntry := s.persisted.drop (s.persisted.length - len / 32)

theorem exec_logReadPersisted (h : s.Begins 0x0B11 c rest) :
    exec .logReadPersisted s = .next (
      let u := s.begun c rest
      let buf := leAt c.payload 0 8
      let len := leAt c.payload 8 4
      let es := s.newestPersisted len
      if len ≠ 0 ∧ ¬ u.bufOk buf len then u.fail c stPROT_BOUND
      else (u.fwWrite buf (es.map LogEntry.bytes).flatten).finish c stOK (leBytes 4 es.length)) := by
  have hserve : exec .logReadPersisted s = _ := congrArg Host.Outcome.next (State.serve_begins _ h (by decide))
  rw [hserve]
  simp only [State.begun_persisted]
  rfl

/-- The firmware flushes of its own accord when 256 entries wait, or the oldest has waited for 1 s. -/
theorem exec_persistFlush (hu : s.serving = true) (hq : s.log.persistQ ≠ []) (hf : s.logFlushing = false) :
    exec .persistFlush s = .next (if 256 ≤ s.log.persistQ.length ∨ s.log.persistSince + 1000000000 ≤ s.now then
      (s.nvEnqueue 5 (.log (s.log.persistQ.take 256)) true).2 else s) := by
  have hne : s.log.persistQ.isEmpty = false := by simpa using hq
  show execPersistFlush s = _
  simp [execPersistFlush, hu, hne, hf]

end

/-! ### The rows together -/

/-- A merge into the log as the logger finds it when it has taken a report. -/
theorem State.logTaken_mergeInto_spec {s : State} (hs : s.Inv) (r : Report) (rest : List Report) (e : LogEntry) :
    let t := (s.logTaken r rest).mergeInto e
    t.rd EVT_COALESCED_COUNT = min (s.rd EVT_COALESCED_COUNT + 1) (2 ^ 32 - 1) ∧ t.rd EVT_WR_SEQ_SEQ = s.rd EVT_WR_SEQ_SEQ ∧
      t.log.entries = s.log.entries.map fun x => if x.seq = e.seq then
        { e with count := min (e.count + 1) 65535, lastUs := min ((s.now - e.first) / 1000) 1000 } else x := by
  intro t
  have h := State.logTaken_keepsLog hs r rest
  have hnow : (s.logTaken r rest).now = s.now := State.fecCapture_now _ r
  obtain ⟨hmerged, hseq, hentries⟩ := State.mergeInto_spec h.inv e
  exact ⟨by rw [hmerged, h.rd (by decide)], by rw [hseq, h.rd (by decide)], by rw [hentries, h.entries, hnow]⟩

/-- Settles O60: the report is captured, and then merges or not; the commands one by one. -/
theorem eventLogger : Obligations.EventLogger := by
  refine ⟨fun s r rest hs hr => ?_, fun c rest s hs => ⟨fun h => ?_, fun h => exec_logFlush h, fun h => ?_, fun hu hq hf => ?_⟩⟩
  · intro u t
    have hu : u.Inv := State.setLog_inv hs _
    have ht : s.KeepsLog t := State.logTaken_keepsLog hs r rest
    have htarget : t.mergeTarget r = s.mergeTarget r := State.fecCapture_mergeTarget u r
    refine ⟨fun e he => ⟨exec_eventReport_merges hr he, State.mergeTarget_some (htarget ▸ he)⟩, fun hm hroom => ?_, fun hm hfull => ?_,
      ?_, State.fecCapture_first_spec hu, fun h => State.fecCapture_later (s := u) ?_,
      fun e _ => State.logTaken_mergeInto_spec hs r rest e, ?_⟩
    · exact (exec_eventReport_unmerged hr hm).trans (congrArg _ (if_pos hroom))
    · exact (exec_eventReport_unmerged hr hm).trans (congrArg _ (if_neg (Nat.not_lt.mpr hfull)))
    · rw [htarget]
      exact State.mergeTarget_none_iff
    · exact fun h0 => by cases h.symm.trans h0
    · rw [State.newEntry_wrSeq ht.inv, ht.rd (by decide)]
  · rw [exec_logConfig h]
    refine ⟨fun hbad => congrArg _ (if_pos hbad), fun hper haer hres => congrArg _ (if_neg ?_)⟩
    simp [hper, haer, hres]
  · rw [exec_logReadPersisted h]
    refine ⟨fun hlen hbuf => congrArg _ (if_pos ⟨hlen, by simp [hbuf]⟩), fun hok => congrArg _ (if_neg ?_)⟩
    rintro ⟨hlen, hbuf⟩
    exact hbuf (hok.resolve_left hlen)
  · rw [exec_persistFlush hu hq hf]
    refine ⟨fun hdue => congrArg _ (if_pos hdue), fun hfew hyoung => congrArg _ (if_neg ?_)⟩
    omega

end Sys2Proof.Machine

/-! ## The machine: one step, the passing of time, what every command keeps -/

namespace Sys2Proof.Machine

/-! ### Every command keeps the queue, the part and the stores' form -/

/-- Every command answers a next state that keeps the queue, the part and the canonical form of the stores. -/
theorem exec_kept {kq : List Instr} {kp : Part} {s : State} (hk : s.Kept kq kp) (i : Instr) : OutKept kq kp (exec i s) :=
  match i with
  | .registerWrite off w => execRegisterWrite_kept off w hk
  | .rcRead off req => execRcRead_kept off req hk
  | .captureRead off req => execCaptureRead_kept off req hk
  | .quoinWrite w => execQuoinWrite_kept w hk
  | .switch w => execSwitch_kept w hk
  | .restart w => execRestart_kept w hk
  | .causeClear off w => execCauseClear_kept off w hk
  | .msixUnmask v => execMsixUnmask_kept v hk
  | .windowAccess off a => execWindowAccess_kept off a hk
  | .bar2Access off a => execBar2Access_kept off a hk
  | .functionLevelReset => execFunctionLevelReset_kept hk
  | .perstN => execPerstN_kept hk
  | .mbxDoorbell bits => execMbxDoorbell_kept bits hk
  | .ringDoorbell bits => execRingDoorbell_kept bits hk
  | .doneClear w => execDoneClear_kept w hk
  | .deviceInfo => execDeviceInfo_kept hk
  | .echo => execEcho_kept hk
  | .coreSwitch => execCoreSwitch_kept hk
  | .coreRestart => execCoreRestart_kept hk
  | .heartbeat => execHeartbeat_kept hk
  | .hbTimeout => execHbTimeout_kept hk
  | .coreFault => execCoreFault_kept hk
  | .firmwareResume => execFirmwareResume_kept hk
  | .handover => execHandover_kept hk
  | .standbySelftestDone pass => execStandbySelftestDone_kept pass hk
  | .standbyReady => execStandbyReady_kept hk
  | .ringMbxTimeout m => execRingMbxTimeout_kept m hk
  | .layerDefine => execLayerDefine_kept hk
  | .layerColour => execLayerColour_kept hk
  | .layerScaler => execLayerScaler_kept hk
  | .layerLut => execLayerLut_kept hk
  | .layerKey => execLayerKey_kept hk
  | .layerFlip => execLayerFlip_kept hk
  | .formeCommit => execFormeCommit_kept hk
  | .formeGroupCommit => execFormeGroupCommit_kept hk
  | .headLut => execHeadLut_kept hk
  | .setTiming => execSetTiming_kept hk
  | .headRun => execHeadRun_kept hk
  | .headReef => execHeadReef_kept hk
  | .headWriteback => execHeadWriteback_kept hk
  | .commit h w => execCommit_kept h w hk
  | .commitGroup h w => execCommitGroup_kept h w hk
  | .headCtrlEn h w => execHeadCtrlEn_kept h w hk
  | .headCtrlReef h w => execHeadCtrlReef_kept h w hk
  | .headCtrlHold h w => execHeadCtrlHold_kept h w hk
  | .statsClr h w => execStatsClr_kept h w hk
  | .latch h => execLatch_kept h hk
  | .lineWindowStart h => execLineWindowStart_kept h hk
  | .lineComplete h => execLineComplete_kept h hk
  | .lineDeadline h => execLineDeadline_kept h hk
  | .slugQueue h => execSlugQueue_kept h hk
  | .headStop h => execHeadStop_kept h hk
  | .headRestart h => execHeadRestart_kept h hk
  | .release h => execRelease_kept h hk
  | .waitLinesExpire l => execWaitLinesExpire_kept l hk
  | .wbFrameComplete h => execWbFrameComplete_kept h hk
  | .cabinetMapLoad => execCabinetMapLoad_kept hk
  | .sheetPortSet => execSheetPortSet_kept hk
  | .sheetPing => execSheetPing_kept hk
  | .pingTimeout p => execPingTimeout_kept p hk
  | .pairModeWrite k w => execPairModeWrite_kept k w hk
  | .sheetTransmit p => execSheetTransmit_kept p hk
  | .sheetReceive p f => execSheetReceive_kept p f hk
  | .statusHandoff p => execStatusHandoff_kept p hk
  | .loopProbe p => execLoopProbe_kept p hk
  | .probeMissing p => execProbeMissing_kept p hk
  | .sheetLinkDown p => execSheetLinkDown_kept p hk
  | .sheetLinkUp p => execSheetLinkUp_kept p hk
  | .ingestPortSet => execIngestPortSet_kept hk
  | .streamDefine => execStreamDefine_kept hk
  | .ingestReceive p f => execIngestReceive_kept p f hk
  | .streamLost h => execStreamLost_kept h hk
  | .lineCutoff l => execLineCutoff_kept l hk
  | .firmwareNetPacket p => execFirmwareNetPacket_kept p hk
  | .ptpSyncTimeout => execPtpSyncTimeout_kept hk
  | .ringJoin => execRingJoin_kept hk
  | .ringLeave => execRingLeave_kept hk
  | .ringMembers => execRingMembers_kept hk
  | .ringCopy => execRingCopy_kept hk
  | .ringWbRelay => execRingWbRelay_kept hk
  | .ringSchedSet => execRingSchedSet_kept hk
  | .ringGateSet => execRingGateSet_kept hk
  | .ringPoliceSet => execRingPoliceSet_kept hk
  | .ringReceive p frame => execRingReceive_kept p frame hk
  | .beacon p => execBeacon_kept p hk
  | .beaconSend => execBeaconSend_kept hk
  | .beaconLoss rid => execBeaconLoss_kept rid hk
  | .pdelaySend p => execPdelaySend_kept p hk
  | .pdelayReq p => execPdelayReq_kept p hk
  | .pdelayResp p => execPdelayResp_kept p hk
  | .syncSend => execSyncSend_kept hk
  | .sync p => execSync_kept p hk
  | .mbxCmd p => execMbxCmd_kept p hk
  | .mbxResp p => execMbxResp_kept p hk
  | .wrapNotice p => execWrapNotice_kept p hk
  | .bulk p => execBulk_kept p hk
  | .bulkDone p => execBulkDone_kept p hk
  | .bulkAck p => execBulkAck_kept p hk
  | .bulkAckTimeout => execBulkAckTimeout_kept hk
  | .pixel p => execPixel_kept p hk
  | .ringLockLoss p => execRingLockLoss_kept p hk
  | .ringLockRegain p => execRingLockRegain_kept p hk
  | .ringFault p => execRingFault_kept p hk
  | .portClean p => execPortClean_kept p hk
  | .unwrap p => execUnwrap_kept p hk
  | .ringEgress p => execRingEgress_kept p hk
  | .install p w => execInstall_kept p w hk
  | .gateListStart p => execGateListStart_kept p hk
  | .gateEntryAdvance p => execGateEntryAdvance_kept p hk
  | .shroudHeartbeat => execShroudHeartbeat_kept hk
  | .shroudHbTimeout => execShroudHbTimeout_kept hk
  | .takeover w => execTakeover_kept w hk
  | .bypass w => execBypass_kept w hk
  | .shroudFault => execShroudFault_kept hk
  | .shroudPorEnd => execShroudPorEnd_kept hk
  | .auxRailChange vaux vaux18 => execAuxRailChange_kept vaux vaux18 hk
  | .handbackLock => execHandbackLock_kept hk
  | .handbackListenEnd => execHandbackListenEnd_kept hk
  | .handbackCheckEnd clean => execHandbackCheckEnd_kept clean hk
  | .handbackMatchEnd p => execHandbackMatchEnd_kept p hk
  | .handbackSwitch p => execHandbackSwitch_kept p hk
  | .joinComplete => execJoinComplete_kept hk
  | .leaveSwitch => execLeaveSwitch_kept hk
  | .dsmRead req line upsets => execDsmRead_kept req line upsets hk
  | .dsmWrite req addr data poison => execDsmWrite_kept req addr data poison hk
  | .sealPage page => execSealPage_kept page hk
  | .regionRegisterWrite k r w => execRegionRegisterWrite_kept k r w hk
  | .recurClr w => execRecurClr_kept w hk
  | .override w => execOverride_kept w hk
  | .memConfig => execMemConfig_kept hk
  | .dsmOverride => execDsmOverride_kept hk
  | .dsmRegionAlloc => execDsmRegionAlloc_kept hk
  | .dsmRegionFree => execDsmRegionFree_kept hk
  | .scrub => execScrub_kept hk
  | .scrubRead => execScrubRead_kept hk
  | .dsmRepair adc => execDsmRepair_kept adc hk
  | .repairCopy => execRepairCopy_kept hk
  | .repairSwitch => execRepairSwitch_kept hk
  | .ddrScrub => execDdrScrub_kept hk
  | .ddrScrubRead q => execDdrScrubRead_kept q hk
  | .memSlotRetire => execMemSlotRetire_kept hk
  | .retireDrained c => execRetireDrained_kept c hk
  | .memSlotRestore => execMemSlotRestore_kept hk
  | .resilverCopy c q => execResilverCopy_kept c q hk
  | .ddrRequest realTime r addr op => execDdrRequest_kept realTime r addr op hk
  | .ddrCommandSlot c => execDdrCommandSlot_kept c hk
  | .ddrReadReturn c q => execDdrReadReturn_kept c q hk
  | .refreshDue c rank => execRefreshDue_kept c rank hk
  | .hammerWindow => execHammerWindow_kept hk
  | .refreshStatusPoll c hot => execRefreshStatusPoll_kept c hot hk
  | .selfRefreshEntry c => execSelfRefreshEntry_kept c hk
  | .caParityReport c recurring => execCaParityReport_kept c recurring hk
  | .dqsOscRead c drifts => execDqsOscRead_kept c drifts hk
  | .trainGo c w => execTrainGo_kept c w hk
  | .trainDone c pass errs => execTrainDone_kept c pass errs hk
  | .pmicWaitEnd c spd => execPmicWaitEnd_kept c spd hk
  | .slotPwr c w => execSlotPwr_kept c w hk
  | .initStart w => execInitStart_kept w hk
  | .fillGranule => execFillGranule_kept hk
  | .dmaChannelSet => execDmaChannelSet_kept hk
  | .dmaChannelCtrl => execDmaChannelCtrl_kept hk
  | .bltQueueSet => execBltQueueSet_kept hk
  | .dmaDoorbell c => execDmaDoorbell_kept c hk
  | .dmaChEn c w => execDmaChEn_kept c w hk
  | .dmaResume c w => execDmaResume_kept c w hk
  | .dmaAbort c w => execDmaAbort_kept c w hk
  | .dmaHeadWrite c w => execDmaHeadWrite_kept c w hk
  | .dmaDescriptorRead c => execDmaDescriptorRead_kept c hk
  | .dmaBurst => execDmaBurst_kept hk
  | .dmaResponse c => execDmaResponse_kept c hk
  | .dmaRespTimeout c => execDmaRespTimeout_kept c hk
  | .dmaDescriptorDone c => execDmaDescriptorDone_kept c hk
  | .dreq n => execDreq_kept n hk
  | .swreq w => execSwreq_kept w hk
  | .bltDoorbell w => execBltDoorbell_kept w hk
  | .bltCommandRead => execBltCommandRead_kept hk
  | .bltRowDone => execBltRowDone_kept hk
  | .bltCommandDone => execBltCommandDone_kept hk
  | .bltAbort w => execBltAbort_kept w hk
  | .timeConfig => execTimeConfig_kept hk
  | .timeGet => execTimeGet_kept hk
  | .genlockSet => execGenlockSet_kept hk
  | .clockOutSet => execClockOutSet_kept hk
  | .hpllFbWrite n frac w => execHpllFbWrite_kept n frac w hk
  | .pllLock n => execPllLock_kept n hk
  | .pllUnlock n => execPllUnlock_kept n hk
  | .rampGo n w => execRampGo_kept n w hk
  | .rampSegmentEnd n => execRampSegmentEnd_kept n hk
  | .syncEdge => execSyncEdge_kept hk
  | .genlockEdge => execGenlockEdge_kept hk
  | .genlockLoss => execGenlockLoss_kept hk
  | .setGo w => execSetGo_kept w hk
  | .timeDiscipline => execTimeDiscipline_kept hk
  | .holdoverExpire => execHoldoverExpire_kept hk
  | .holdupSet adc => execHoldupSet_kept adc hk
  | .fwStage => execFwStage_kept hk
  | .fwSwap => execFwSwap_kept hk
  | .swapTimeout => execSwapTimeout_kept hk
  | .thermalSet => execThermalSet_kept hk
  | .deviceReset => execDeviceReset_kept hk
  | .deviceResetDelay => execDeviceResetDelay_kept hk
  | .resetCtrlMain w => execResetCtrlMain_kept w hk
  | .nvCommitStart adc => execNvCommitStart_kept adc hk
  | .nvCommitDone => execNvCommitDone_kept hk
  | .commitRetry adc => execCommitRetry_kept adc hk
  | .flashErase => execFlashErase_kept hk
  | .pwrFailNFall => execPwrFailNFall_kept hk
  | .pwrFailNRise adc => execPwrFailNRise_kept adc hk
  | .porstNAssert => execPorstNAssert_kept hk
  | .porstNRelease straps => execPorstNRelease_kept straps hk
  | .bootStageComplete fail => execBootStageComplete_kept fail hk
  | .mainRailFault => execMainRailFault_kept hk
  | .tempSample q => execTempSample_kept q hk
  | .thermalTrip => execThermalTrip_kept hk
  | .eventReport => execEventReport_kept hk
  | .rdSeqWrite w => execRdSeqWrite_kept w hk
  | .fecClr w => execFecClr_kept w hk
  | .persistFlush => execPersistFlush_kept hk
  | .logConfig => execLogConfig_kept hk
  | .logFlush => execLogFlush_kept hk
  | .logReadPersisted => execLogReadPersisted_kept hk
  | .lutSyncDone t => execLutSyncDone_kept t hk
  | .timeValidLoss => execTimeValidLoss_kept hk
  | .legLost h leg => execLegLost_kept h leg hk
  | .mainRailGood => execMainRailGood_kept hk
  | .boundaryScan on => execBoundaryScan_kept on hk

/-- What keeps a queue and a part has them, and is well kept. -/
theorem State.Kept.spec {s t : State} (h : t.Kept s.pending s.part) : t.Inv ∧ t.pending = s.pending ∧ t.part = s.part :=
  ⟨h.inv, h.queue, h.part⟩

/-- Settles O5: what each command keeps, command by command. -/
theorem execKeepsQueue : Obligations.ExecKeepsQueue := by
  intro c s hs
  obtain ⟨t, ht, hk⟩ := exec_kept hs c
  exact ⟨t, ht, hk.spec⟩

/-! ### One step -/

theorem step_idle {s : State} (h : s.pending = []) : step s = .next s.idle := by
  simp only [step, h]

theorem step_front {c : Instr} {rest : List Instr} {s : State} (h : s.pending = c :: rest) :
    step s = exec c { s with pending := rest } := by
  simp only [step, h]

/-- Settles O1: the step's own equation. -/
theorem stepRunsFront : Obligations.StepRunsFront := fun _ _ _ h => step_front h

/-- Settles O4: on an empty queue time passes, and otherwise the front command runs; both keep the stores' form. -/
theorem stepKeepsInv : Obligations.StepKeepsInv := by
  intro s hs
  cases hp : s.pending with
  | nil => exact ⟨s.idle, step_idle hp, (State.idle_kept hs).inv⟩
  | cons c rest =>
    have hr : ({ s with pending := rest } : State).Kept rest s.part := ⟨rfl, rfl, hs.3, hs.4, hs.5, hs.6, hs.7⟩
    obtain ⟨t, ht, hk⟩ := exec_kept hr c
    exact ⟨t, (step_front hp).trans ht, hk.inv⟩

/-! ### Reset (log 10) -/

/-- Settles O3: no register is listed at reset, so each reads its reset word. -/
theorem resetState : Obligations.ResetState :=
  ⟨⟨fun _ => rfl, fun _ => rfl, fun _ => rfl, rfl, rfl, by decide +kernel⟩, ⟨rfl, rfl, rfl, rfl, rfl, rfl, rfl⟩⟩

/-! ### The passing of time on an ill-kept state -/

/-- A register list out of order: SYNC_ARM of PLL 0 stands before a long RESP_TIMEOUT, which is not read while it does. When the restart of
the PLL clears SYNC_ARM, HPLL0.CTRL holds its reset word, is dropped from the list, and RESP_TIMEOUT reads what stands behind it. -/
def outOfOrder : State := { State.reset with
  regs := [(0x170100, resetWord 0x170100 ||| 4), (0x120800, 0xFFFFFF)]
  now := 1000000
  mainUp := true
  blt := { State.reset.blt with phase := .fetch 0 }
  clocks := { State.reset.clocks with plls := State.reset.clocks.plls.set 0 { State.reset.clocks.plls[0] with syncAt := some 1000001 } } }

/-- A command's read that comes too late leaves the raster engine at a bus error. -/
theorem State.bltFetchLate_phase (s : State) : s.bltFetchLate.blt.phase = .done 5 := rfl

theorem outOfOrder_due : 0 + ceilDiv (outOfOrder.rd DMA_RESP_TIMEOUT_CYCLES * 5) 4 ≤ outOfOrder.now := by decide +kernel

theorem outOfOrder_idle : outOfOrder.idle.blt.phase = .fetch 0 := by decide +kernel

/-- Refutes O2: nothing asks that the state be well kept. On a register list out of order the restart of a PLL in that nanosecond changes
what RESP_TIMEOUT reads, so the read that was due to be late is not. -/
theorem not_stepIdleTick : ¬ Obligations.StepIdleTick := by
  intro h
  have hs := ((h outOfOrder rfl).2 0 rfl outOfOrder_due).1 rfl
  rw [step_idle rfl] at hs
  have hp := outOfOrder_idle
  rw [Host.Outcome.next.inj hs, State.bltFetchLate_phase] at hp
  cases hp

end Sys2Proof.Machine

/-! ## Fields and bytes (R9, R11, R13, R57) -/

namespace Sys2Proof.Machine

/-- Settles O6: the laws of a field's write and of a counter's. -/
theorem fieldReadsBack : Obligations.FieldReadsBack := by
  refine ⟨fun s f v hs _ hw => ⟨State.wr_rd_same hs f v hw, State.wr_regsOnly hs f v, fun g ho hg => ?_⟩,
    fun s f n hs _ hw => ⟨State.count_rd_same hs f n hw, State.count_regsOnly hs f n⟩⟩
  exact State.wr_rd_beside hs f g v hw ho (hg.imp_right And.left)

/-! ### Stored bytes -/

section
variable {s : State}

theorem State.setBytes_inv (hs : s.Inv) (a : Nat) (d : List Byte) : (s.setBytes a d).Inv := by
  induction d generalizing s a with
  | nil => exact hs
  | cons b t ih => exact ih (State.setByte_inv hs a b) (a + 1)

/-- Bytes outside the range that is stored stay. -/
theorem State.setBytes_byte_other (hs : s.Inv) {a k : Nat} {d : List Byte} (hk : k < a ∨ a + d.length ≤ k) :
    (s.setBytes a d).byte k = s.byte k := by
  induction d generalizing s a with
  | nil => rfl
  | cons b t ih =>
    rw [List.length_cons] at hk
    rw [State.setBytes, ih (State.setByte_inv hs a b) (by omega), State.setByte_byte_other hs b (by omega)]

/-- Bytes of the range that is stored read back. -/
theorem State.setBytes_byte_same (hs : s.Inv) {a i : Nat} {d : List Byte} (hi : i < d.length) :
    (s.setBytes a d).byte (a + i) = d[i] := by
  induction d generalizing s a i with
  | nil => simp at hi
  | cons b t ih =>
    have ht := State.setByte_inv hs a b
    cases i with
    | zero => rw [State.setBytes, State.setBytes_byte_other ht (by omega), Nat.add_zero, State.setByte_byte_same hs]; rfl
    | succ i =>
      rw [State.setBytes, show a + (i + 1) = a + 1 + i by omega, ih ht (by simpa using hi)]
      rfl

theorem State.bytes_setBytes (hs : s.Inv) (a : Nat) (d : List Byte) : (s.setBytes a d).bytes a d.length = d := by
  refine List.ext_getElem (by simp [State.bytes]) fun i h _ => ?_
  simp only [State.bytes, List.getElem_map, List.getElem_range]
  exact State.setBytes_byte_same hs _

/-- Storing bytes changes memory only. -/
theorem State.setBytes_eq (s : State) (a : Nat) (d : List Byte) : s.setBytes a d = { s with mem := (s.setBytes a d).mem } := by
  induction d generalizing s a with
  | nil => rfl
  | cons b t ih => rw [State.setBytes, ih]; rfl

end

/-! ### Byte order -/

@[simp] theorem leBytes_length (n v : Nat) : (leBytes n v).length = n := by
  induction n generalizing v with
  | zero => rfl
  | succ n ih => rw [leBytes, List.length_cons, ih]

/-- A number of `n` bytes reads back modulo 256 to the `n`. -/
theorem leNat_leBytes (n v : Nat) : leNat (leBytes n v) = v % 256 ^ n := by
  induction n generalizing v with
  | zero => simp [leBytes, leNat, Nat.mod_one]
  | succ n ih =>
    rw [leBytes, leNat, ih, BitVec.toNat_ofNat, Nat.pow_succ' (m := 256), Nat.mod_mul]

/-- Settles O7: bytes one by one, and numbers byte by byte. -/
theorem bytesReadBack : Obligations.BytesReadBack := by
  refine ⟨fun s a d hs => ⟨State.bytes_setBytes hs a d, fun k hk => State.setBytes_byte_other hs hk, State.setBytes_eq s a d⟩,
    fun n v => ⟨leNat_leBytes n v, ?_, leBytes_length n v, rfl, ?_⟩⟩
  · rw [beNat, beBytes, List.reverse_reverse, leNat_leBytes]
  · rw [beBytes, List.getLast?_reverse]
    rfl

end Sys2Proof.Machine

/-! ## Register writes: where they take effect (R13, R50, R180, R236) -/

namespace Sys2Proof.Machine

/-! ### The latch that comes first -/

section
variable {s : State} {off : Nat} {a : RegAt} {w : RegWrite} {val : Word} {armed : Bool} {r : Requester}

/-- A write to another page than a head's or a layer's waits for no latch. -/
theorem State.beforeWrite_unlatched (hb : a.base ∉ [0x20000, 0x80000, 0xC0000]) : s.beforeWrite off a val = s := by
  simp only [List.mem_cons, List.not_mem_nil, or_false, not_or] at hb
  obtain ⟨h2, h8, hc⟩ := hb
  have hl : s.latchHeadOf a = none := by rw [State.latchHeadOf, if_neg h2, if_neg h8, if_neg hc]
  rw [State.beforeWrite, hl]

/-- An accepted write to a register takes effect after the latch that is due. -/
theorem State.taken_found (ha : regAt off = some a) : s.taken off w = (s.arrived off w).beforeWrite off a w.val := by
  rw [State.taken, ha]

theorem State.taken_unlatched (ha : regAt off = some a) (hb : a.base ∉ [0x20000, 0x80000, 0xC0000]) : s.taken off w = s.arrived off w := by
  rw [State.taken_found ha, State.beforeWrite_unlatched hb]

theorem State.arrived_inv (hs : s.Inv) : (s.arrived off w).Inv := by
  have h0 := State.setArm_inv hs w.req false
  unfold State.arrived
  split
  · exact h0
  · exact (State.arrive_kept off _ w _ h0).inv

theorem State.taken_inv (hs : s.Inv) : (s.taken off w).Inv := by
  have h0 := State.arrived_inv (off := off) (w := w) hs
  unfold State.taken
  split
  · exact h0
  · exact (State.beforeWrite_kept off _ w.val h0).inv

/-! ### The effect, page by page -/

theorem State.regEffect_head (hb : a.base = 0x20000) : s.regEffect off a r val armed = (s.beforeWrite off a val).headEffect off a val := by
  rw [State.regEffect, if_pos hb]

/-- The pages whose writes neither wait for a latch nor have an effect of their own besides that of the ring's, the clocks' and the
other pages together. -/
theorem State.regEffect_misc (hb : a.base ∉ [0x20000, 0x80000, 0x100000, 0x110000, 0x120000, 0x130000, 0x140000, 0x151000, 0x160800, 0x161800]) :
    s.regEffect off a r val armed = (s.beforeWrite off a val).miscEffect off a val armed := by
  simp only [List.mem_cons, List.not_mem_nil, or_false, not_or] at hb
  simp [State.regEffect, hb]

theorem State.regEffect_dsm (hb : a.base = 0x100000) : s.regEffect off a r val armed = s.dsmEffect off a r val armed := by
  simp [State.regEffect, State.beforeWrite_unlatched, hb]

theorem State.regEffect_dmc (hb : a.base = 0x110000) : s.regEffect off a r val armed = s.dmcEffect off a val armed := by
  simp [State.regEffect, State.beforeWrite_unlatched, hb]

theorem State.regEffect_dma (hb : a.base = 0x120000) : s.regEffect off a r val armed = s.dmaEffect off a val := by
  simp [State.regEffect, State.beforeWrite_unlatched, hb]

theorem State.regEffect_blt (hb : a.base = 0x130000) : s.regEffect off a r val armed = s.bltEffect off a val := by
  simp [State.regEffect, State.beforeWrite_unlatched, hb]

theorem State.regEffect_sheet (hb : a.base = 0x140000) : s.regEffect off a r val armed = s.sheetEffect off a val armed := by
  simp [State.regEffect, State.beforeWrite_unlatched, hb]

theorem State.regEffect_hlyPort (hb : a.base = 0x160800) : s.regEffect off a r val armed = s.hlyPortEffect off a val := by
  simp [State.regEffect, State.beforeWrite_unlatched, hb]

theorem State.regEffect_hpll (hb : a.base = 0x170100) : s.regEffect off a r val armed = s.hpllEffect off a val := by
  rw [State.regEffect_misc (by simp [hb]), State.beforeWrite_unlatched (by simp [hb])]
  simp [State.miscEffect, hb]

end

/-! ### Where a register of the map stands -/

/-- A register at an offset stands on a page, at an index of the page and an offset in it. -/
@[reducible] def RegAt.At (off base inst rel : Nat) (a : RegAt) : Prop :=
  off % 4 = 0 ∧ off ≠ 0x10 ∧ a.base = base ∧ a.inst = inst ∧ a.rel = rel

section
variable {off b i r : Nat} {a : RegAt} (h : a.At off b i r)
include h

theorem RegAt.At.base : a.base = b := h.2.2.1

theorem RegAt.At.inst : a.inst = i := h.2.2.2.1

theorem RegAt.At.rel : a.rel = r := h.2.2.2.2

end

/-- An accepted write to a register that is present has the register's effect on the machine at which it has arrived. -/
theorem State.busWrite_at {s : State} {off base inst rel : Nat} {a : RegAt} {w : RegWrite} (hw : s.Accepts w) (ha : regAt off = some a)
    (h : a.At off base inst rel) (hp : s.absent a = false) :
    s.busWrite off w = (s.arrived off w).regEffect off a w.req w.val (s.armed w.req) :=
  State.busWrite_accepts hw h.1 h.2.1 ha hp

/-- Pages that no part lacks. -/
theorem State.absent_common {s : State} {a : RegAt} (hb : a.base ∉ [0x20000, 0x80000, 0xC0000, 0x110000, 0x140000, 0x170100]) :
    s.absent a = false := by
  simp only [List.mem_cons, List.not_mem_nil, or_false, not_or] at hb
  simp [State.absent, hb]

theorem State.absent_head {s : State} {a : RegAt} (hb : a.base = 0x20000 ∨ a.base = 0x170100) : s.absent a = decide (s.nHeads ≤ a.inst) := by
  rcases hb with hb | hb <;> simp [State.absent, hb]

theorem State.absent_dmc {s : State} {a : RegAt} (hb : a.base = 0x110000) : s.absent a = decide (s.nDdr ≤ a.inst) := by
  simp [State.absent, hb]

theorem State.absent_sheet {s : State} {a : RegAt} (hb : a.base = 0x140000) : s.absent a = decide (s.nSheet ≤ a.inst) := by
  simp [State.absent, hb]

/-! ### Armed key-guarded writes (R57) -/

theorem armed_found : (∃ a ∈ regAt GLB_CORE_CTRL_SWITCH.off, a.At GLB_CORE_CTRL_SWITCH.off 0 0 0x34) ∧
    (∃ a ∈ regAt SHD_CTRL_TAKEOVER.off, a.At SHD_CTRL_TAKEOVER.off 0x1A0000 0 4) ∧
    (∃ a ∈ regAt DSM_SELFTEST_OVERRIDE.off, a.At DSM_SELFTEST_OVERRIDE.off 0x100000 0 4) ∧
    (∃ a ∈ regAt TSY_SET_GO_GO.off, a.At TSY_SET_GO_GO.off 0x170000 0 0x62C ∧ a.row.fields = [⟨0, 1, .kg, 0⟩] ∧ vecsOf TSY_SET_GO_GO.off = []) ∧
    (∃ a ∈ regAt PWR_RESET_CTRL_MAIN.off, a.At PWR_RESET_CTRL_MAIN.off 0x190000 0 0x10) ∧
    ∀ c : Fin 4, ∃ a ∈ regAt (DMC_SLOT_PWR_EN c).off, a.At (DMC_SLOT_PWR_EN c).off 0x110000 c 0xC := by decide +kernel

section
variable {s : State} {w : RegWrite} (hw : s.Accepts w) (hk : s.armed w.req = true)
include hw hk

theorem State.busWrite_coreCtrl : s.busWrite GLB_CORE_CTRL_SWITCH.off w = (s.arrived GLB_CORE_CTRL_SWITCH.off w).coreCtrl w.val.toNat := by
  obtain ⟨a, ha, h⟩ := armed_found.1
  have hb := h.base
  have hr := h.rel
  rw [State.busWrite_at hw ha h (State.absent_common (by simp [hb])), State.regEffect_misc (by simp [hb]),
    State.beforeWrite_unlatched (by simp [hb]), hk]
  simp [State.miscEffect, hb, hr]

theorem State.busWrite_shdCtrl : s.busWrite SHD_CTRL_TAKEOVER.off w = (s.arrived SHD_CTRL_TAKEOVER.off w).shdCtrl w.val.toNat := by
  obtain ⟨a, ha, h⟩ := armed_found.2.1
  have hb := h.base
  have hr := h.rel
  rw [State.busWrite_at hw ha h (State.absent_common (by simp [hb])), State.regEffect_misc (by simp [hb]),
    State.beforeWrite_unlatched (by simp [hb]), hk]
  simp [State.miscEffect, hb, hr]

theorem State.busWrite_slotPwr (c : Fin 4) (hc : c.val < s.nDdr) : s.busWrite (DMC_SLOT_PWR_EN c).off w =
    (s.arrived (DMC_SLOT_PWR_EN c).off w).slotPower c (w.val.toNat.testBit 0) := by
  obtain ⟨a, ha, h⟩ := armed_found.2.2.2.2.2 c
  have hb := h.base
  have hi := h.inst
  have hr := h.rel
  rw [State.busWrite_at hw ha h (by simpa [State.absent_dmc hb, hi] using hc), State.regEffect_dmc hb, hk]
  simp [State.dmcEffect, hr, hi]

variable (hv : w.val.toNat.testBit 0 = true)
include hv

theorem State.busWrite_override : s.busWrite DSM_SELFTEST_OVERRIDE.off w = (s.arrived DSM_SELFTEST_OVERRIDE.off w).dsmOverride := by
  obtain ⟨a, ha, h⟩ := armed_found.2.2.1
  have hb := h.base
  have hr := h.rel
  rw [State.busWrite_at hw ha h (State.absent_common (by simp [hb])), State.regEffect_dsm hb, hk]
  simp [State.dsmEffect, hr, hv]

theorem State.busWrite_resetMain : s.busWrite PWR_RESET_CTRL_MAIN.off w = (s.arrived PWR_RESET_CTRL_MAIN.off w).resetMain := by
  obtain ⟨a, ha, h⟩ := armed_found.2.2.2.2.1
  have hb := h.base
  have hr := h.rel
  rw [State.busWrite_at hw ha h (State.absent_common (by simp [hb])), State.regEffect_misc (by simp [hb]),
    State.beforeWrite_unlatched (by simp [hb]), hk]
  simp [State.miscEffect, hb, hr, hv]

theorem State.busWrite_setGo : s.busWrite TSY_SET_GO_GO.off w = ((s.arrived TSY_SET_GO_GO.off w).wr TSY_SET_GO_GO 1).setGo := by
  obtain ⟨a, ha, h, hf, hn⟩ := armed_found.2.2.2.1
  have hb := h.base
  have hr := h.rel
  have hget : Fld.get ⟨0, 0, 1⟩ w.val = 1 := by
    have : w.val.toNat % 2 = 1 := by simpa [Nat.testBit_zero] using hv
    simpa [Fld.get_eq] using this
  have hwrite (u : State) : u.writeFields TSY_SET_GO_GO.off a true w.val = u.wr TSY_SET_GO_GO 1 := by
    rw [State.writeFields, hn, hf]
    simp only [mergeWord, List.foldl, if_true, hget]
    rfl
  rw [State.busWrite_at hw ha h (State.absent_common (by simp [hb])), State.regEffect_misc (by simp [hb]),
    State.beforeWrite_unlatched (by simp [hb]), hk]
  simp [State.miscEffect, State.tsyEffect, hb, hr, hwrite, hv]

end

/-- Settles O11: each key-guarded register's own effect. -/
theorem armedGuardedWrite : Obligations.ArmedGuardedWrite := by
  intro w s hw hk
  have next {i : Instr} {off : Nat} {t : State} (hi : writeOf i = some (off, w)) (h : s.busWrite off w = t) : exec i s = .next t := by
    rw [exec_of_writeOf hi, h]
  exact ⟨next rfl (State.busWrite_coreCtrl hw hk), next rfl (State.busWrite_coreCtrl hw hk), next rfl (State.busWrite_shdCtrl hw hk),
    next rfl (State.busWrite_shdCtrl hw hk),
    fun hv => ⟨next rfl (State.busWrite_override hw hk hv), next rfl (State.busWrite_setGo hw hk hv), next rfl (State.busWrite_resetMain hw hk hv)⟩,
    fun c hc => next rfl (State.busWrite_slotPwr hw hk c hc)⟩

end Sys2Proof.Machine

/-! ## Register writes that store, and writes of ones to causes (R13, R93) -/

namespace Sys2Proof.Machine

/-! ### The fields of a register lie apart -/

/-- Every field lies within the word, and no two share a bit. -/
@[reducible] def FieldsApart (fs : List FldRow) : Prop :=
  (∀ f ∈ fs, f.lsb + f.width ≤ 32) ∧ fs.Pairwise fun f g => f.lsb + f.width ≤ g.lsb ∨ g.lsb + g.width ≤ f.lsb

/-- The fields of each register of the tables lie apart. -/
theorem pageTable_apart : ∀ p ∈ pageTable, ∀ r ∈ p.regs, FieldsApart r.fields := by decide +kernel

theorem findReg_mem {l : List RegRow} {rel : Nat} {r : RegRow × List Nat} (h : findReg l rel = some r) : r.1 ∈ l := by
  induction l with
  | nil => simp [findReg] at h
  | cons x t ih =>
    rw [findReg] at h
    split at h
    · split at h
      · cases h
        exact List.mem_cons_self
      · exact List.mem_cons_of_mem _ (ih h)
    · exact List.mem_cons_of_mem _ (ih h)

/-- A register that is found is a row of a page. -/
theorem findIn_row {l : List PageRow} {off : Nat} {a : RegAt} (h : findIn l off = some a) : ∃ p ∈ l, a.row ∈ p.regs := by
  induction l with
  | nil => simp [findIn] at h
  | cons p t ih =>
    have later (h : findIn t off = some a) : ∃ q ∈ p :: t, a.row ∈ q.regs :=
      (ih h).imp fun _ hq => ⟨List.mem_cons_of_mem _ hq.1, hq.2⟩
    rw [findIn] at h
    split at h
    · split at h
      case h_1 r ix hr =>
        cases h
        exact ⟨p, List.mem_cons_self, findReg_mem hr⟩
      case h_2 => exact later h
    · exact later h

theorem regAt_apart {off : Nat} {a : RegAt} (h : regAt off = some a) : FieldsApart a.row.fields := by
  obtain ⟨p, hp, hr⟩ := findIn_row h
  exact pageTable_apart p hp _ hr

/-! ### What a merge leaves in each field -/

section
variable {armed : Bool} {old val : Word}

theorem mergeWord_cons (f : FldRow) (t : List FldRow) :
    mergeWord (f :: t) armed old val = mergeWord t armed (mergeWord [f] armed old val) val := rfl

/-- Bits of a word that a write of ones to another field clears are not this field's. -/
theorem Fld.get_clear_other {f g : Fld} (w v : Word) (hf : f.lsb + f.width ≤ 32)
    (hd : f.lsb + f.width ≤ g.lsb ∨ g.lsb + g.width ≤ f.lsb) : g.get (w &&& ~~~ (v &&& f.mask)) = g.get w := by
  apply Nat.eq_of_testBit_eq
  intro i
  rw [Fld.get_testBit, Fld.get_testBit, BitVec.testBit_toNat, BitVec.testBit_toNat]
  by_cases hi : i < g.width
  · have hm : f.mask.getLsbD (g.lsb + i) = false := by
      rw [Fld.mask_getLsbD f _ hf]
      exact decide_eq_false (by omega)
    by_cases hw : g.lsb + i < 32
    · rw [BitVec.getLsbD_and, BitVec.getLsbD_not, BitVec.getLsbD_and, hm]
      simp [hw]
    · simp [BitVec.getLsbD_of_ge _ _ (Nat.not_lt.mp hw)]
  · simp [hi]

/-- Merging one field leaves the fields beside it. -/
theorem mergeWord_single_other {f : FldRow} {g : Fld} (hf : f.lsb + f.width ≤ 32)
    (hd : f.lsb + f.width ≤ g.lsb ∨ g.lsb + g.width ≤ f.lsb) : g.get (mergeWord [f] armed old val) = g.get old := by
  have hput (v : Nat) : g.get (Fld.put ⟨0, f.lsb, f.width⟩ old v) = g.get old := Fld.get_put_other _ g old v hf hd.symm
  simp only [mergeWord, List.foldl]
  split
  · exact hput _
  · split
    · exact hput _
    · rfl
  · exact Fld.get_clear_other (f := ⟨0, f.lsb, f.width⟩) old val hf hd
  · exact hput _
  · rfl

theorem mergeWord_other {fs : List FldRow} {g : Fld} (hf : ∀ f ∈ fs, f.lsb + f.width ≤ 32)
    (hd : ∀ f ∈ fs, f.lsb + f.width ≤ g.lsb ∨ g.lsb + g.width ≤ f.lsb) : g.get (mergeWord fs armed old val) = g.get old := by
  induction fs generalizing old with
  | nil => rfl
  | cons f t ih =>
    rw [mergeWord_cons, ih (fun x hx => hf x (List.mem_cons_of_mem _ hx)) fun x hx => hd x (List.mem_cons_of_mem _ hx),
      mergeWord_single_other (hf f List.mem_cons_self) (hd f List.mem_cons_self)]

/-- A merge of fields that lie apart gives each RW field its bits of the value, and leaves each RO and RC field. -/
theorem mergeWord_get {fs : List FldRow} (ha : FieldsApart fs) {f : FldRow} (hf : f ∈ fs) :
    (f.acc = .rw → Fld.get ⟨0, f.lsb, f.width⟩ (mergeWord fs armed old val) = Fld.get ⟨0, f.lsb, f.width⟩ val) ∧
      (f.acc = .ro ∨ f.acc = .rc → Fld.get ⟨0, f.lsb, f.width⟩ (mergeWord fs armed old val) = Fld.get ⟨0, f.lsb, f.width⟩ old) := by
  induction fs generalizing old with
  | nil => simp at hf
  | cons x t ih =>
    obtain ⟨hb, hp⟩ := ha
    obtain ⟨hx, ht⟩ := List.pairwise_cons.mp hp
    have hbt : ∀ y ∈ t, y.lsb + y.width ≤ 32 := fun y hy => hb y (List.mem_cons_of_mem _ hy)
    rw [mergeWord_cons]
    rcases List.mem_cons.mp hf with rfl | hf
    · rw [mergeWord_other hbt fun y hy => (hx y hy).symm]
      refine ⟨fun hacc => ?_, fun hacc => ?_⟩
      · have hin : f.lsb + f.width ≤ 32 := hb f List.mem_cons_self
        simp only [mergeWord, List.foldl, hacc]
        rw [Fld.get_put_same _ _ _ hin]
        exact Nat.mod_eq_of_lt (Fld.get_lt _ val)
      · rcases hacc with hacc | hacc <;> simp only [mergeWord, List.foldl, hacc]
    · obtain ⟨hrw, hro⟩ := ih (old := mergeWord [x] armed old val) ⟨hbt, ht⟩ hf
      exact ⟨hrw, fun hacc => (hro hacc).trans (mergeWord_single_other (hb x List.mem_cons_self) (hx f hf))⟩

end

/-! ### Registers whose writes store, and no more -/

/-- Where the write of a register does nothing but set its fields, by page and offset in the page. -/
@[reducible] def RegAt.PlainPlace (a : RegAt) : Prop :=
  a.base = 0x20000 ∧ a.rel ∉ [0, 8, 0x8C, 0x3C, 0x40] ∧ lutOf a = none ∨ a.base = 0x100000 ∧ a.rel ∉ [4, 0x34] ∧ a.rel < 0x400 ∨
    a.base = 0x110000 ∧ a.rel ∉ [0xC, 0x200, 0x360] ∧ panicPort a = none ∨ a.base = 0x120000 ∧ a.rel ∉ [0x804, 0x808, 0, 0x14] ∨
    a.base = 0x130000 ∧ a.rel ∉ [0, 0x14, 0x18] ∨ a.base = 0x140000 ∧ a.rel ∉ [0, 4, 0x20] ∨
    a.base = 0x170000 ∧ a.rel ∉ [0x600, 0x62C, 0x700, 0x740] ∨
    a.base ∈ [0, 0x10000, 0xC0000, 0x150000, 0x160000, 0x180000, 0x190000] ∧
      (a.base, a.rel) ∉ [(0x160000, 0x18), (0x160000, 0x24), (0x150000, 0), (0x180000, 8), (0x180000, 0x48), (0x190000, 0x10), (0, 0x34)]

/-- The same as a computation. -/
def RegAt.plain (a : RegAt) : Bool := decide a.PlainPlace

section
variable {s : State} {off : Nat} {a : RegAt} {r : Requester} {val : Word} {armed : Bool}

/-- A write at such a place sets the register's fields after the latch that is due. -/
theorem State.regEffect_plain (h : a.PlainPlace) :
    ∃ key, s.regEffect off a r val armed = (s.beforeWrite off a val).writeFields off a key val := by
  rcases h with ⟨hb, hr, hl⟩ | ⟨hb, hr, hl⟩ | ⟨hb, hr, hl⟩ | ⟨hb, hr⟩ | ⟨hb, hr⟩ | ⟨hb, hr⟩ | ⟨hb, hr⟩ | ⟨hb, hr⟩ <;>
    simp only [List.mem_cons, List.not_mem_nil, or_false, not_or, Prod.mk.injEq, not_and] at hr
  · exact ⟨false, by rw [State.regEffect_head hb]; simp [State.headEffect, hr, hl]⟩
  · exact ⟨armed, by rw [State.regEffect_dsm hb, State.beforeWrite_unlatched (by simp [hb])]; simp [State.dsmEffect, hr, Nat.not_le.mpr hl]⟩
  · exact ⟨armed, by rw [State.regEffect_dmc hb, State.beforeWrite_unlatched (by simp [hb])]; simp [State.dmcEffect, hr, hl]⟩
  · exact ⟨false, by rw [State.regEffect_dma hb, State.beforeWrite_unlatched (by simp [hb])]; simp [State.dmaEffect, hr]⟩
  · exact ⟨false, by rw [State.regEffect_blt hb, State.beforeWrite_unlatched (by simp [hb])]; simp [State.bltEffect, hr]⟩
  · exact ⟨armed, by
      rw [State.regEffect_sheet hb, State.beforeWrite_unlatched (by simp [hb])]
      simp [State.sheetEffect, hr, State.miscEffect, hb]⟩
  · exact ⟨armed, by
      rw [State.regEffect_misc (by simp [hb]), State.beforeWrite_unlatched (by simp [hb])]
      simp [State.miscEffect, State.tsyEffect, hr, hb]⟩
  · refine ⟨armed, ?_⟩
    simp only [List.mem_cons, List.not_mem_nil, or_false] at hb
    rw [State.regEffect_misc (by rcases hb with hb | hb | hb | hb | hb | hb | hb <;> simp [hb])]
    rcases hb with hb | hb | hb | hb | hb | hb | hb <;> simp [hb] at hr <;> simp [State.miscEffect, hb, hr]

/-- Without causes or enables a write of fields changes the one register. -/
theorem State.writeFields_plain (hv : vecsOf off = []) : s.writeFields off a armed val = s.setReg off (mergeWord a.row.fields armed (s.reg off) val) := by
  rw [State.writeFields, hv]
  rfl

/-- On a register of causes a write of fields clears those that have a one. -/
theorem State.writeFields_causes (hv : vecsOf off ≠ []) (hf : a.row.fields.all (fun f => f.acc = .w1c) = true) :
    s.writeFields off a armed val = s.clearCauses off (onesOf a.row.fields val) := by
  rw [State.writeFields, if_neg (by simpa [List.isEmpty_iff] using hv), if_pos hf]

end

/-- Settles O12: such a write stores the merged word, in which the fields lie apart. -/
theorem registerWriteStores : Obligations.RegisterWriteStores := by
  intro off a w s hs hw h4 hq ha hp hv hb hr u
  have hplain : a.PlainPlace := by
    simp only [List.mem_cons, List.not_mem_nil, or_false] at hb
    simp only [List.mem_cons, List.not_mem_nil, or_false, not_or, Prod.mk.injEq, not_and] at hr
    rcases hb with hb | hb | hb | hb <;> simp [RegAt.PlainPlace, hb, hr]
  have hui : u.Inv := State.taken_inv hs
  obtain ⟨key, hstore⟩ := State.regEffect_plain (s := s.arrived off w) (off := off) (r := w.req) (val := w.val)
    (armed := s.armed w.req) hplain
  rw [← State.taken_found ha, State.writeFields_plain hv] at hstore
  have hunlatched (hc : a.base ≠ 0xC0000) : u = s.arrived off w := by
    refine State.taken_unlatched ha ?_
    simp only [List.mem_cons, List.not_mem_nil, or_false] at hb
    simp only [List.mem_cons, List.not_mem_nil, or_false]
    omega
  refine ⟨hunlatched, u.setReg off (mergeWord a.row.fields key (u.reg off) w.val), ?_, ?_, State.setReg_regsOnly hui _ _⟩
  · rw [exec_of_writeOf rfl, State.busWrite_accepts hw h4 hq ha hp, hstore]
  · intro f hf
    have hreg := State.setReg_reg_same hui off (mergeWord a.row.fields key (u.reg off) w.val)
    obtain ⟨hrw, hro⟩ := mergeWord_get (armed := key) (old := u.reg off) (val := w.val) (regAt_apart ha) hf
    simp only [State.rd, hreg]
    exact ⟨hrw, hro⟩

/-! ### Writes of ones to causes (R73, R93) -/

/-- The two states differ in registers as the first list says, and in messages and their pending bits. -/
@[reducible] def State.OnlyMessages (s t : State) : Prop := t = { s with host := t.host, out := t.out }

theorem State.settleVec_onlyMessages (s : State) (v : Nat) : s.OnlyMessages (s.settleVec v) := by
  unfold State.settleVec
  repeat' split
  all_goals rfl

theorem State.sendVec_onlyMessages (s : State) (v : Nat) : s.OnlyMessages (s.sendVec v) := State.sendVec_eq s v

theorem State.OnlyMessages.trans {s t u : State} (h : s.OnlyMessages t) (k : t.OnlyMessages u) : s.OnlyMessages u := by
  unfold State.OnlyMessages at *
  rw [k, h]

/-- A fold changes no more than its steps do, in any sense that is kept from step to step. -/
theorem foldl_related {α : Type} {R : State → State → Prop} (hr : ∀ s, R s s) (ht : ∀ s t u, R s t → R t u → R s u)
    {f : State → α → State} (hf : ∀ t x, R t (f t x)) (l : List α) (s : State) : R s (l.foldl f s) := by
  induction l generalizing s with
  | nil => exact hr s
  | cons x t ih => exact ht _ _ _ (hf s x) (ih _)

/-- Clearing causes sets their register, and has messages sent or settled. -/
theorem State.clearCauses_onlyMessages (s : State) (off : Nat) (ones : Word) :
    (s.setReg off (s.reg off &&& ~~~ ones)).OnlyMessages (s.clearCauses off ones) := by
  unfold State.clearCauses
  refine foldl_related (R := State.OnlyMessages) (fun _ => rfl) (fun _ _ _ => State.OnlyMessages.trans) (fun t v => ?_) _ _
  split
  · exact t.sendVec_onlyMessages v
  · exact t.settleVec_onlyMessages v

/-- The registers of causes hold causes only, at a place where a write sets fields. -/
@[reducible] def RegAt.HoldsCauses (off : Nat) (a : RegAt) : Prop :=
  off % 4 = 0 ∧ off ≠ 0x10 ∧ vecsOf off ≠ [] ∧ a.row.fields.all (fun f => f.acc = .w1c) = true ∧ a.plain = true

/-- The registers of causes that every part has. -/
def commonCauses : List Nat := [0x58, 0x10004, 0x100040, 0x130040, 0x150500, 0x160060, 0x170780, 0x180040, 0x190080]

theorem commonCauses_found : ∀ off ∈ commonCauses, ∃ a ∈ regAt off, a.HoldsCauses off ∧
    a.base ∉ [0x20000, 0x80000, 0xC0000, 0x110000, 0x140000, 0x170100] := by decide +kernel

theorem headCauses_found : ∀ h : Fin 4, ∃ a ∈ regAt (0x200A0 + h * 0x10000), a.HoldsCauses (0x200A0 + h * 0x10000) ∧ a.base = 0x20000 ∧ a.inst = h := by
  decide +kernel

theorem dmcCauses_found : ∀ c : Fin 4, ∃ a ∈ regAt (0x110180 + c * 0x4000), a.HoldsCauses (0x110180 + c * 0x4000) ∧ a.base = 0x110000 ∧ a.inst = c := by
  decide +kernel

theorem dmaCauses_found : ∀ c : Fin 16, ∃ a ∈ regAt (0x12003C + c * 0x80), a.HoldsCauses (0x12003C + c * 0x80) ∧ a.base = 0x120000 := by
  decide +kernel

theorem sheetCauses_found : ∀ p : Fin 16, ∃ a ∈ regAt (0x140034 + p * 0x1000), a.HoldsCauses (0x140034 + p * 0x1000) ∧ a.base = 0x140000 ∧ a.inst = p := by
  decide +kernel

theorem State.nDdr_le (s : State) : s.nDdr ≤ 4 := by
  unfold State.nDdr
  split <;> omega

theorem State.nSheet_le (s : State) : s.nSheet ≤ 16 := by
  unfold State.nSheet
  split <;> omega

/-- A register of causes of a part that has it. -/
theorem State.causes_found {s : State} {off : Nat} (h : off ∈ commonCauses ∨
      (∃ h, h < s.nHeads ∧ off = 0x200A0 + h * 0x10000) ∨ (∃ c, c < s.nDdr ∧ off = 0x110180 + c * 0x4000) ∨
      (∃ c, c < 16 ∧ off = 0x12003C + c * 0x80) ∨ ∃ p, p < s.nSheet ∧ off = 0x140034 + p * 0x1000) :
    ∃ a, regAt off = some a ∧ a.HoldsCauses off ∧ s.absent a = false ∧
      ((∀ h, off ≠ 0x200A0 + h * 0x10000) → a.base ∉ [0x20000, 0x80000, 0xC0000]) := by
  rcases h with h | ⟨h, hh, rfl⟩ | ⟨c, hc, rfl⟩ | ⟨c, hc, rfl⟩ | ⟨p, hp, rfl⟩
  · obtain ⟨a, ha, hk, hb⟩ := commonCauses_found off h
    refine ⟨a, ha, hk, State.absent_common hb, fun _ hm => hb ?_⟩
    simp only [List.mem_cons, List.not_mem_nil, or_false] at hm ⊢
    omega
  · obtain ⟨a, ha, hk, hb, hi⟩ := headCauses_found ⟨h, hh.trans_le s.nHeads_le⟩
    exact ⟨a, ha, hk, by simpa [State.absent_head (.inl hb), hi] using hh, fun hne => absurd rfl (hne h)⟩
  · obtain ⟨a, ha, hk, hb, hi⟩ := dmcCauses_found ⟨c, hc.trans_le s.nDdr_le⟩
    exact ⟨a, ha, hk, by simpa [State.absent_dmc hb, hi] using hc, fun _ => by simp [hb]⟩
  · obtain ⟨a, ha, hk, hb⟩ := dmaCauses_found ⟨c, hc⟩
    exact ⟨a, ha, hk, State.absent_common (by simp [hb]), fun _ => by simp [hb]⟩
  · obtain ⟨a, ha, hk, hb, hi⟩ := sheetCauses_found ⟨p, hp.trans_le s.nSheet_le⟩
    exact ⟨a, ha, hk, by simpa [State.absent_sheet hb, hi] using hp, fun _ => by simp [hb]⟩

/-- An accepted write to a register of causes clears, after the latch that is due, those that have a one. -/
theorem State.busWrite_causes {s : State} {off : Nat} {a : RegAt} {w : RegWrite} (hw : s.Accepts w) (ha : regAt off = some a)
    (h : a.HoldsCauses off) (hp : s.absent a = false) :
    s.busWrite off w = (s.taken off w).clearCauses off (onesOf a.row.fields w.val) := by
  obtain ⟨h4, hq, hv, hf, hplain⟩ := h
  obtain ⟨key, hstore⟩ := State.regEffect_plain (s := s.arrived off w) (off := off) (r := w.req) (val := w.val) (armed := s.armed w.req)
    (of_decide_eq_true hplain)
  rw [State.busWrite_accepts hw h4 hq ha hp, hstore, State.writeFields_causes hv hf, State.taken_found ha]

/-- Settles O14: such a write clears the causes that have a one on the machine after the latch. -/
theorem causeClearClears : Obligations.CauseClearClears := by
  intro off w s hs hw ho
  obtain ⟨a, ha, hk, hp, hun⟩ := State.causes_found ho
  have hexec : exec (.causeClear off w) s = .next ((s.taken off w).clearCauses off (onesOf a.row.fields w.val)) := by
    rw [exec_of_writeOf rfl, State.busWrite_causes hw ha hk hp]
  have hui : (s.taken off w).Inv := State.taken_inv hs
  have hmsg := (s.taken off w).clearCauses_onlyMessages off (onesOf a.row.fields w.val)
  have hreg (o : Nat) : ((s.taken off w).clearCauses off (onesOf a.row.fields w.val)).reg o =
      ((s.taken off w).setReg off ((s.taken off w).reg off &&& ~~~ onesOf a.row.fields w.val)).reg o := by
    rw [hmsg]
    rfl
  refine ⟨⟨a, ha, hexec⟩, fun hne => State.taken_unlatched ha (hun hne), rfl, _, hexec, fun b hb => ?_, fun o hn => ?_, ?_⟩
  · obtain rfl : a = b := Option.some.inj (ha.symm.trans hb)
    exact (hreg off).trans (State.setReg_reg_same hui _ _)
  · exact (hreg o).trans (State.setReg_reg_other hui _ fun e => hn (by simp [e]))
  · rw [hmsg]
    rfl

end Sys2Proof.Machine

/-! ## Registers that act when written: the engines, the clocks, the ports (R449, R475, R493, R585 to R590, R614 to R617) -/

namespace Sys2Proof.Machine

/-! ### The DMA engine and the raster engine (R582, R585, R587, R590) -/

theorem dma_found : ∀ c : Fin 16, (∃ a ∈ regAt (DMACH_CH_CTRL_EN c).off, a.At (DMACH_CH_CTRL_EN c).off 0x120000 c 0) ∧
    ∃ a ∈ regAt (DMACH_HEAD_INDEX c).off, a.At (DMACH_HEAD_INDEX c).off 0x120000 c 0x14 := by decide +kernel

theorem swreq_found : ∃ a ∈ regAt DMA_SWREQ_REQ.off, a.At DMA_SWREQ_REQ.off 0x120000 0 0x804 := by decide +kernel

theorem blt_found : (∃ a ∈ regAt BLT_DOORBELL_RING.off, a.At BLT_DOORBELL_RING.off 0x130000 0 0x18) ∧
    ∃ a ∈ regAt BLT_CTRL_ABORT.off, a.At BLT_CTRL_ABORT.off 0x130000 0 0 := by decide +kernel

section
variable {s : State} {w : RegWrite} (hw : s.Accepts w)
include hw

theorem State.busWrite_dmaCtrl (c : Fin 16) : s.busWrite (DMACH_CH_CTRL_EN c).off w =
    (((s.arrived (DMACH_CH_CTRL_EN c).off w).wr (DMACH_CH_CTRL_PRIO c) (bits w.val.toNat 5 4)).dmaEnable c
      (w.val.toNat.testBit 0)).dmaCommand c (w.val.toNat.testBit 1) (w.val.toNat.testBit 2) := by
  obtain ⟨a, ha, h⟩ := (dma_found c).1
  rw [State.busWrite_at hw ha h (State.absent_common (by simp [h.base])), State.regEffect_dma h.base]
  simp [State.dmaEffect, h.rel, h.inst]

theorem State.busWrite_dmaHead (c : Fin 16) : s.busWrite (DMACH_HEAD_INDEX c).off w =
    (s.arrived (DMACH_HEAD_INDEX c).off w).dmaHead c (w.val.toNat % 4096) := by
  obtain ⟨a, ha, h⟩ := (dma_found c).2
  rw [State.busWrite_at hw ha h (State.absent_common (by simp [h.base])), State.regEffect_dma h.base]
  simp [State.dmaEffect, h.rel, h.inst]

theorem State.busWrite_swreq : s.busWrite DMA_SWREQ_REQ.off w = (s.arrived DMA_SWREQ_REQ.off w).dmaSwreq w.val.toNat := by
  obtain ⟨a, ha, h⟩ := swreq_found
  rw [State.busWrite_at hw ha h (State.absent_common (by simp [h.base])), State.regEffect_dma h.base]
  simp [State.dmaEffect, h.rel]

theorem State.busWrite_bltDoorbell : s.busWrite BLT_DOORBELL_RING.off w =
    if w.val.toNat.testBit 0 then (s.arrived BLT_DOORBELL_RING.off w).bltRing else s.arrived BLT_DOORBELL_RING.off w := by
  obtain ⟨a, ha, h⟩ := blt_found.1
  rw [State.busWrite_at hw ha h (State.absent_common (by simp [h.base])), State.regEffect_blt h.base]
  simp [State.bltEffect, h.rel]

theorem State.busWrite_bltCtrl : s.busWrite BLT_CTRL_ABORT.off w =
    let b := (s.arrived BLT_CTRL_ABORT.off w).bltEnable (w.val.toNat.testBit 0)
    if w.val.toNat.testBit 1 then b.bltAbort else b := by
  obtain ⟨a, ha, h⟩ := blt_found.2
  rw [State.busWrite_at hw ha h (State.absent_common (by simp [h.base])), State.regEffect_blt h.base]
  simp [State.bltEffect, h.rel]

end

theorem exec_dmaDoorbell {s : State} (hu : s.mainUp = true) (c : Fin 16) : exec (.dmaDoorbell c) s = .next (s.dmaRing c) := by
  simp [exec, execDmaDoorbell, State.when, hu]

/-- Settles O16: each register's own effect. -/
theorem dmaRegisterWrites : Obligations.DmaRegisterWrites := by
  intro c w s hw v u ctrl hd
  have next {i : Instr} {off : Nat} {t : State} (hi : writeOf i = some (off, w)) (h : s.busWrite off w = t) : exec i s = .next t := by
    rw [exec_of_writeOf hi, h]
  exact ⟨next rfl (State.busWrite_dmaCtrl hw c), next rfl (State.busWrite_dmaCtrl hw c), next rfl (State.busWrite_dmaCtrl hw c),
    next rfl (State.busWrite_dmaHead hw c), next rfl (State.busWrite_swreq hw), exec_dmaDoorbell hw.up c,
    next rfl (State.busWrite_bltDoorbell hw), next rfl (State.busWrite_bltCtrl hw)⟩

/-! ### What a write of fields keeps -/

theorem State.writeFields_inv {s : State} (hs : s.Inv) (off : Nat) (a : RegAt) (key : Bool) (val : Word) : (s.writeFields off a key val).Inv :=
  (State.writeFields_kept off a key val hs).inv

/-- After a write of fields an RW field at a place without causes reads its bits of the value. -/
theorem State.writeFields_rd {s : State} (hs : s.Inv) {off : Nat} {a : RegAt} (ha : regAt off = some a) (hv : vecsOf off = []) {f : FldRow}
    (hf : f ∈ a.row.fields) (hacc : f.acc = .rw) (key : Bool) (val : Word) :
    (s.writeFields off a key val).rd ⟨off, f.lsb, f.width⟩ = Fld.get ⟨off, f.lsb, f.width⟩ val := by
  rw [State.writeFields_plain hv, State.rd, State.setReg_reg_same hs]
  exact (mergeWord_get (regAt_apart ha) hf).1 hacc

/-! ### Head PLLs (R614, R617) -/

theorem hpll_found : ∀ n : Fin 4,
    (∃ a ∈ regAt (HPLL_FB_FB_INT n).off, a.At (HPLL_FB_FB_INT n).off 0x170100 n 4 ∧ vecsOf (HPLL_FB_FB_INT n).off = [] ∧
      ⟨0, 8, .rw, 38⟩ ∈ a.row.fields) ∧
    (∃ a ∈ regAt (HPLL_FRAC_FB_FRAC n).off, a.At (HPLL_FRAC_FB_FRAC n).off 0x170100 n 8 ∧ vecsOf (HPLL_FRAC_FB_FRAC n).off = [] ∧
      ⟨0, 24, .rw, 268435⟩ ∈ a.row.fields) ∧
    ∃ a ∈ regAt (HPLL_RAMP_CTRL_GO n).off, a.At (HPLL_RAMP_CTRL_GO n).off 0x170100 n 0x24 ∧ vecsOf (HPLL_RAMP_CTRL_GO n).off = [] ∧
      ⟨8, 4, .rw, 0⟩ ∈ a.row.fields := by decide +kernel

section
variable {s : State} {n : Fin 4}

/-- A lock acquisition that starts anew leaves the feedback. -/
theorem State.pllRelock_feedback (hs : s.Inv) {f : Fld} (hf : f.off = (HPLL_FB_FB_INT n).off ∨ f.off = (HPLL_FRAC_FB_FRAC n).off) :
    (s.pllRelock n).rd f = s.rd f := by
  obtain ⟨-, hi, hr⟩ := ramping_offs n
  have hne : f.off ≠ (HPLL_STATUS_LOCKED n).off ∧ f.off ≠ (HEAD_STATUS_RAMPING n).off := by
    rcases hf with hf | hf <;> rw [hf]
    · exact ⟨fun e => hi (e ▸ List.mem_cons_self), fun e => hi (e ▸ List.mem_cons_of_mem _ List.mem_cons_self)⟩
    · exact ⟨fun e => hr (e ▸ List.mem_cons_self), fun e => hr (e ▸ List.mem_cons_of_mem _ List.mem_cons_self)⟩
  have h1 := State.wr_inv hs (HPLL_STATUS_LOCKED n) 0
  rw [State.pllRelock, State.setPll_rd, State.wr_rd_other (State.wr_inv h1 _ _) _ _ _ hne.2, State.wr_rd_other h1 _ _ _ (show f.off ≠ (HPLL_STATUS_RAMPING n).off from hne.1),
    State.wr_rd_other hs _ _ _ hne.1]

variable {w : RegWrite} (hw : s.Accepts w) (hn : n.val < s.nHeads)
include hw hn

theorem State.busWrite_feedback {off rel : Nat} {a : RegAt} (ha : regAt off = some a) (h : a.At off 0x170100 n rel) (hr : rel = 4 ∨ rel = 8) :
    s.busWrite off w = (((s.arrived off w).writeFields off a false w.val).pllRelock n).headUnlock n := by
  rw [State.busWrite_at hw ha h (by simpa [State.absent_head (.inr h.base), h.inst] using hn), State.regEffect_hpll h.base]
  have hne : a.rel ≠ 0 := by rw [h.rel]; omega
  rw [State.hpllEffect, if_neg hne, if_pos (by rw [h.rel]; exact hr), h.inst]

/-- A write of a feedback register of a PLL: what it leaves of lock, ramp and the field itself. -/
theorem exec_hpllFbWrite (hs : s.Inv) (frac : Bool) {f : Fld} (hf : f = if frac then HPLL_FRAC_FB_FRAC n else HPLL_FB_FB_INT n) {a : RegAt} {rel rst : Nat}
    (ha : regAt f.off = some a) (h : a.At f.off 0x170100 n rel) (hr : rel = 4 ∨ rel = 8) (hv : vecsOf f.off = [])
    (hrow : ⟨f.lsb, f.width, .rw, rst⟩ ∈ a.row.fields) :
    let u := ((s.arrived f.off w).writeFields f.off a false w.val).pllRelock n
    exec (.hpllFbWrite n frac w) s = .next (u.headUnlock n) ∧ u.rd (HPLL_STATUS_LOCKED n) = 0 ∧ u.rd (HPLL_STATUS_RAMPING n) = 0 ∧
      u.rd f = w.val.toNat / 2 ^ f.lsb % 2 ^ f.width := by
  have hi := State.writeFields_inv (State.arrived_inv (off := f.off) (w := w) hs) f.off a false w.val
  obtain ⟨hl, hra, -⟩ := State.pllRelock_spec hi n
  refine ⟨?_, hl, hra, ?_⟩
  · have hoff : writeOf (.hpllFbWrite n frac w) = some (f.off, w) := by cases frac <;> simp [hf, writeOf]
    rw [exec_of_writeOf hoff, State.busWrite_feedback hw hn ha h hr]
  · rw [State.pllRelock_feedback hi (by cases frac <;> simp [hf]), ← Fld.get_eq]
    exact State.writeFields_rd (State.arrived_inv hs) ha hv hrow rfl false w.val

theorem State.busWrite_rampGo {a : RegAt} (ha : regAt (HPLL_RAMP_CTRL_GO n).off = some a) (h : a.At (HPLL_RAMP_CTRL_GO n).off 0x170100 n 0x24) :
    s.busWrite (HPLL_RAMP_CTRL_GO n).off w =
      let u := (s.arrived (HPLL_RAMP_CTRL_GO n).off w).writeFields (HPLL_RAMP_CTRL_GO n).off a false w.val
      if w.val.toNat.testBit 0 then u.pllRamp n else u := by
  rw [State.busWrite_at hw ha h (by simpa [State.absent_head (.inr h.base), h.inst] using hn), State.regEffect_hpll h.base]
  simp [State.hpllEffect, h.rel, h.inst]

end

/-- Settles O17: the feedback registers, then RAMP_CTRL by whether a segment lasts no time. -/
theorem pllRegisterWrites : Obligations.PllRegisterWrites := by
  intro n frac w s hs hw hn
  obtain ⟨⟨ai, hai, hi, hiv, hirow⟩, ⟨af, haf, hf, hfv, hfrow⟩, a, ha, h, hv, hrow⟩ := hpll_found n
  refine ⟨?_, a, ha, ?_⟩
  · cases frac with
    | false =>
      have hspec := exec_hpllFbWrite hw hn hs false rfl hai hi (.inl rfl) hiv hirow
      exact ⟨ai, hai, by simpa [HPLL_FB_FB_INT] using hspec⟩
    | true =>
      have hspec := exec_hpllFbWrite hw hn hs true rfl haf hf (.inr rfl) hfv hfrow
      exact ⟨af, haf, by simpa [HPLL_FRAC_FB_FRAC] using hspec⟩
  · intro u
    have hsegs : u.rd (HPLL_RAMP_CTRL_SEGS n) = bits w.val.toNat 11 8 :=
      (State.writeFields_rd (State.arrived_inv hs) ha hv hrow rfl false w.val).trans (Fld.get_eq _ _)
    refine ⟨hsegs, ?_⟩
    rw [exec_of_writeOf rfl, State.busWrite_rampGo hw hn ha h]
    have hall : ((List.range (u.rd (HPLL_RAMP_CTRL_SEGS n) + 1)).all fun j => u.rd (HPLL_RAMP_DUR_US n j) ≠ 0) = true ↔
        ∀ j, j ≤ bits w.val.toNat 11 8 → u.rd (HPLL_RAMP_DUR_US n j) ≠ 0 := by
      rw [hsegs]
      simp
    by_cases hgo : w.val.toNat.testBit 0 = true
    · simp only [hgo, true_and, if_true]
      by_cases hd : ∀ j, j ≤ bits w.val.toNat 11 8 → u.rd (HPLL_RAMP_DUR_US n j) ≠ 0
      · rw [if_pos hd, State.pllRamp, if_pos (hall.mpr hd)]
      · rw [if_neg hd, State.pllRamp, if_neg (mt hall.mp hd)]
    · simp only [hgo]
      rfl

end Sys2Proof.Machine

/-! ## Registers that act when written: Densum's regions, the units, the host port (R64, R65, R318, R325, R449, R475, R476, R493, R521, R530) -/

namespace Sys2Proof.Machine

/-! ### Writes that take only their writer's arm -/

section
variable {s : State} {off : Nat} {a : RegAt} {w : RegWrite}

/-- A register outside the pages of heads, head PLLs and layers, without key-guarded fields, which the firmware does not rewrite of its
own accord. -/
@[reducible] def RegAt.Quiet (off : Nat) (a : RegAt) : Prop :=
  a.base ∉ [0x20000, 0x170100, 0x80000, 0xC0000] ∧ ownReg off = false ∧ a.row.fields.any (fun f => f.acc = .kg) = false

/-- An accepted write to such a register arrives with its writer's arm gone; nothing else changes. -/
theorem State.arrived_quiet (ha : regAt off = some a) (h : a.Quiet off) : s.arrived off w = s.setArm w.req false := by
  obtain ⟨hb, ho, hf⟩ := h
  simp only [List.mem_cons, List.not_mem_nil, or_false, not_or] at hb
  have hheads (t : State) : t.expertHeads a = [] := by simp [State.expertHeads, hb]
  simp [State.arrived_found w ha, State.marksHeads, hheads, State.takesOwn, State.hostTakes, ho, State.countsMiss, hf]

end

/-! ### The registers of a Densum region (R473, R475, R476) -/

theorem region_found : ∀ (k : Fin 64) (r : Fin 4), ∃ a ∈ regAt ((DSM_REG_BASE_BASE k).off + 4 * r.val),
    a.At ((DSM_REG_BASE_BASE k).off + 4 * r.val) 0x100000 0 (0x400 + 16 * k + 4 * r) ∧ a.Quiet ((DSM_REG_BASE_BASE k).off + 4 * r.val) ∧
      vecsOf ((DSM_REG_BASE_BASE k).off + 4 * r.val) = [] := by decide +kernel

/-- The two states differ in what Densum keeps beside its registers only. -/
@[reducible] def State.OnlyDsm (s t : State) : Prop := t = { s with dsm := t.dsm }

theorem State.OnlyDsm.trans {s t u : State} (h : s.OnlyDsm t) (k : t.OnlyDsm u) : s.OnlyDsm u := by
  unfold State.OnlyDsm at *
  rw [k, h]

theorem State.OnlyDsm.ite {c : Prop} [Decidable c] {s t u : State} (h : s.OnlyDsm t) (k : s.OnlyDsm u) :
    s.OnlyDsm (if c then t else u) := by
  split
  · exact h
  · exact k

theorem State.uncover_onlyDsm (s : State) (span keep : Nat × Nat) : s.OnlyDsm (s.uncover span keep) := rfl

theorem State.dirtyMoved_onlyDsm (s : State) (k : Nat) (old : Nat × Nat) : s.OnlyDsm (s.dirtyMoved k old) := rfl

theorem State.dirtyRegion_onlyDsm (s : State) (k : Nat) : s.OnlyDsm (s.dirtyRegion k) := rfl

section
variable {s : State} {off : Nat} {a : RegAt} {k : Nat} {r : Requester} {val : Word}

/-- Whether a requester's write to a register of region `k` is guarded. -/
def State.regionGuards (s : State) (k : Nat) (r : Requester) : Prop :=
  s.rd (DSM_REG_CTRL_EN k) = 1 ∧ s.rd (DSM_REG_CTRL_OWNER k) = 0 ∧ r ≠ .cc0 ∧ r ≠ .cc1

theorem State.regionGuards_iff : s.regionGuards k r ↔
    (s.flag (DSM_REG_CTRL_EN k) && !s.flag (DSM_REG_CTRL_OWNER k) && !decide (r = .cc0 ∨ r = .cc1)) = true := by
  have he := s.flag_iff (f := DSM_REG_CTRL_EN k) rfl
  have ho : s.flag (DSM_REG_CTRL_OWNER k) = false ↔ s.rd (DSM_REG_CTRL_OWNER k) = 0 := by simp [State.flag]
  simp only [State.regionGuards, Bool.and_eq_true, Bool.not_eq_true', he, ho, decide_eq_false_iff_not, not_or, and_assoc]

variable (hr : (a.rel - 0x400) / 16 = k)
include hr

theorem State.regionEffect_guarded (hg : s.regionGuards k r) : s.regionEffect off a r val = s.count DSM_REGION_MISS_COUNT 1 := by
  subst hr
  rw [State.regionEffect, if_pos (State.regionGuards_iff.mp hg)]

theorem State.regionEffect_last (hg : ¬ s.regionGuards k r) (hk : k = 63) : s.regionEffect off a r val = s := by
  subst hr
  rw [State.regionEffect, if_neg (mt State.regionGuards_iff.mpr hg), if_pos hk]

/-- A write that is not guarded stores its fields; beside them only Densum's pages change, and those only where the region is on before
or after. -/
theorem State.regionEffect_open (hg : ¬ s.regionGuards k r) (hk : k ≠ 63) :
    let v := s.writeFields off a false val
    v.OnlyDsm (s.regionEffect off a r val) ∧
      (s.rd (DSM_REG_CTRL_EN k) = 0 → v.rd (DSM_REG_CTRL_EN k) = 0 → s.regionEffect off a r val = v) := by
  subst hr
  unfold State.regionEffect
  rw [if_neg (mt State.regionGuards_iff.mpr hg), if_neg hk]
  refine ⟨?_, fun h0 h1 => ?_⟩
  · have hbefore (c : Bool) (span keep : Nat × Nat) : State.OnlyDsm (s.writeFields off a false val)
        (if c then (s.writeFields off a false val).uncover span keep else s.writeFields off a false val) :=
      .ite (State.uncover_onlyDsm _ _ _) (rfl : State.OnlyDsm _ _)
    exact .ite (hbefore _ _ _) (.ite ((hbefore _ _ _).trans (State.dirtyMoved_onlyDsm _ _ _)) ((hbefore _ _ _).trans (State.dirtyRegion_onlyDsm _ _)))
  · have hs : s.flag (DSM_REG_CTRL_EN ((a.rel - 0x400) / 16)) = false := by simp [State.flag, h0]
    have hv : (s.writeFields off a false val).flag (DSM_REG_CTRL_EN ((a.rel - 0x400) / 16)) = false := by simp [State.flag, h1]
    simp [hs, hv]

end

/-- Settles O19: by whether the write is guarded, and by whether it is region 63's. -/
theorem regionRegistersGuarded : Obligations.RegionRegistersGuarded := by
  intro k r w s hs hw off
  obtain ⟨a, ha, h, hq, hv⟩ := region_found k r
  have hui := State.setArm_inv hs w.req false
  have harm := State.setArm_regsOnly hs w.req false
  have hk : (a.rel - 0x400) / 16 = k := by rw [h.rel]; omega
  have hoff : off = 0x100400 + 16 * k + 4 * r := by simp only [off, DSM_REG_BASE_BASE]; omega
  have hrd {f : Fld} (hf : f.off ≠ GLB_QUOIN_KEY.off) : (s.setArm w.req false).rd f = s.rd f := harm.rd_eq (by simpa using hf)
  have hctrl : (DSM_REG_CTRL_EN k).off ≠ GLB_QUOIN_KEY.off := show 0x10040C + k.val * 16 ≠ 0x10 by omega
  have hguard : (s.setArm w.req false).regionGuards k w.req ↔ s.regionGuards k w.req := by
    rw [State.regionGuards, State.regionGuards, hrd hctrl, hrd (f := DSM_REG_CTRL_OWNER k) hctrl]
  have hexec : exec (.regionRegisterWrite k r w) s = .next ((s.setArm w.req false).regionEffect off a w.req w.val) := by
    rw [exec_of_writeOf rfl, State.busWrite_at hw ha h (State.absent_common (by simp [h.base])), State.regEffect_dsm h.base,
      State.arrived_quiet ha hq, State.dsmEffect, h.rel, if_neg (by omega), if_neg (by omega), if_pos (by omega)]
  have hopen (hc : s.rd (DSM_REG_CTRL_EN k) = 0 ∨ w.req = .cc0 ∨ w.req = .cc1 ∨ s.rd (DSM_REG_CTRL_OWNER k) = 1) :
      ¬ (s.setArm w.req false).regionGuards k w.req := by
    rw [hguard]
    rintro ⟨h1, h2, h3, h4⟩
    rcases hc with hc | hc | hc | hc
    · omega
    · exact h3 hc
    · exact h4 hc
    · omega
  refine ⟨fun hne hc => ⟨_, hexec, ?_⟩, fun h3 h4 h1 h2 => ⟨_, hexec, ?_⟩, fun hlast hc => ⟨_, hexec, ?_⟩⟩
  · obtain ⟨heq, hoffd⟩ := State.regionEffect_open (off := off) (val := w.val) hk (hopen hc) hne
    rw [State.writeFields_plain hv] at heq hoffd
    have hreg (o : Nat) : ((s.setArm w.req false).regionEffect off a w.req w.val).reg o =
        ((s.setArm w.req false).setReg off (mergeWord a.row.fields false ((s.setArm w.req false).reg off) w.val)).reg o := by
      rw [heq]; rfl
    have hq0 : off ≠ GLB_QUOIN_KEY.off := by rw [hoff]; exact show _ ≠ 0x10 by omega
    refine ⟨⟨a, ha, ?_⟩, fun o ho => ?_, fun h0 h1 => ?_, ?_⟩
    · rw [hreg, State.setReg_reg_same hui, harm.2 off (by simpa using hq0)]
    · simp only [List.mem_cons, List.not_mem_nil, or_false, not_or] at ho
      rw [hreg, State.setReg_reg_other hui _ ho.1, harm.2 o (by simpa using ho.2)]
    · have hv1 : ((s.setArm w.req false).setReg off (mergeWord a.row.fields false ((s.setArm w.req false).reg off) w.val)).rd
          (DSM_REG_CTRL_EN k) = 0 := by
        rw [State.rd, hreg] at h1
        exact h1
      rw [hoffd (by rw [hrd hctrl]; exact h0) hv1]
      rfl
    · rw [heq]
      rfl
  · rw [State.regionEffect_guarded hk (hguard.mpr ⟨h1, h2, h3, h4⟩)]
    refine ⟨?_, (harm.trans (State.count_regsOnly hui _ 1)).mono fun o ho => by simp at ho ⊢; tauto⟩
    rw [State.count_rd_same hui _ _ (by decide), hrd (by decide)]
    rfl
  · rw [State.regionEffect_last hk (hopen ?_) hlast]
    · exact harm
    · tauto

end Sys2Proof.Machine

namespace Sys2Proof.Machine

/-! ### Sheet ports, ingest ports, gate lists, training, fills, the recurrence table -/

theorem sheet_found : ∀ p : Fin 16,
    (∃ a ∈ regAt (SP_CTRL_EN p).off, a.At (SP_CTRL_EN p).off 0x140000 p 0 ∧ a.Quiet (SP_CTRL_EN p).off) ∧
      ∃ a ∈ regAt (SP_PAIR_MODE p).off, a.At (SP_PAIR_MODE p).off 0x140000 p 4 ∧ a.Quiet (SP_PAIR_MODE p).off := by decide +kernel

theorem ingestPort_found : ∀ p : Fin 4, ∃ a ∈ regAt (INGP_PORT_CTRL_EN p).off, a.At (INGP_PORT_CTRL_EN p).off 0x150000 p 0 := by decide +kernel

theorem gateCtrl_found : ∀ p : Fin 2, ∃ a ∈ regAt (HLYQ_GATE_CTRL_INSTALL p).off, a.At (HLYQ_GATE_CTRL_INSTALL p).off 0x160800 p 0x100 := by
  decide +kernel

theorem trainCtrl_found : ∀ c : Fin 4, ∃ a ∈ regAt (DMC_TRAIN_CTRL_GO c).off, a.At (DMC_TRAIN_CTRL_GO c).off 0x110000 c 0x200 := by decide +kernel

theorem initCtrl_found : ∃ a ∈ regAt DMC0_INIT_CTRL_START.off, a.At DMC0_INIT_CTRL_START.off 0x110000 0 0x360 := by decide +kernel

theorem recurClr_found : ∃ a ∈ regAt DSM_RECUR_CLR_ENTRY.off, a.At DSM_RECUR_CLR_ENTRY.off 0x100000 0 0x34 := by decide +kernel

section
variable {s : State}

/-- The three writes that a new pairing of an even port makes. -/
def State.pairWrites (s : State) (a v : Nat) : State := ((s.wr (SP_PAIR_MODE a) v).wr (SP_STATUS_FAILED_OVER a) 0).wr (SP_STATUS_LOOP_OK a) 0

/-- The two states differ in what the Sheet ports keep beside their registers only. -/
@[reducible] def State.OnlySheet (s t : State) : Prop := t = { s with sheet := t.sheet }

theorem State.OnlySheet.trans {s t u : State} (h : s.OnlySheet t) (k : t.OnlySheet u) : s.OnlySheet u := by
  unfold State.OnlySheet at *
  rw [k, h]

theorem State.OnlySheet.reg_eq {s t : State} (h : s.OnlySheet t) (o : Nat) : t.reg o = s.reg o := by
  rw [h]
  rfl

theorem State.RegsOnly.then_onlySheet {s t u : State} {l : List Nat} (h : s.RegsOnly t l) (k : t.OnlySheet u) :
    u = { s with regs := u.regs, sheet := u.sheet } := by
  rw [k, h.1]

theorem State.setSp_onlySheet (s : State) (p : Nat) (f : SheetPort → SheetPort) : s.OnlySheet (s.setSp p f) := rfl

/-- A new pairing changes, beside its registers, the queues and probes of its ports. -/
theorem State.setPairMode_onlySheet (k v : Nat) : (s.pairWrites (2 * k) v).OnlySheet (s.setPairMode k v) :=
  ((State.setSp_onlySheet _ _ _).trans (State.setSp_onlySheet _ _ _)).trans
    (foldl_related (R := State.OnlySheet) (fun _ => rfl) (fun _ _ _ => State.OnlySheet.trans)
      (fun _ _ => (State.setSp_onlySheet _ _ _).trans (State.setSp_onlySheet _ _ _)) _ _)

theorem State.pairWrites_regsOnly (hs : s.Inv) (a v : Nat) : s.RegsOnly (s.pairWrites a v) [(SP_PAIR_MODE a).off, (SP_STATUS_LINK a).off] :=
  (((State.wr_regsOnly hs (SP_PAIR_MODE a) v).trans (State.wr_regsOnly (State.wr_inv hs _ _) (SP_STATUS_FAILED_OVER a) 0)).trans
    (State.wr_regsOnly (State.wr_inv (State.wr_inv hs _ _) _ _) (SP_STATUS_LOOP_OK a) 0)).mono fun o ho => by
      simp [SP_STATUS_LINK, SP_STATUS_FAILED_OVER, SP_STATUS_LOOP_OK] at ho ⊢
      tauto

/-- The pair has the mode; neither FAILED_OVER nor LOOP_OK stands. -/
theorem State.pairWrites_spec (hs : s.Inv) (a v : Nat) : (s.pairWrites a v).rd (SP_PAIR_MODE a) = v % 4 ∧
    (s.pairWrites a v).rd (SP_STATUS_FAILED_OVER a) = 0 ∧ (s.pairWrites a v).rd (SP_STATUS_LOOP_OK a) = 0 := by
  have h1 := State.wr_inv hs (SP_PAIR_MODE a) v
  have h2 := State.wr_inv h1 (SP_STATUS_FAILED_OVER a) 0
  have hne : (SP_PAIR_MODE a).off ≠ (SP_STATUS_LOOP_OK a).off := show 0x140000 + a * 0x1000 + 4 ≠ 0x140000 + a * 0x1000 + 0x30 by omega
  refine ⟨?_, ?_, ?_⟩
  · rw [State.pairWrites, State.wr_rd_other h2 _ _ _ hne, State.wr_rd_other h1 (SP_STATUS_FAILED_OVER a) _ _ hne,
      State.wr_rd_same hs _ _ (by simp [SP_PAIR_MODE])]
    rfl
  · rw [State.pairWrites, State.wr_rd_beside h2 (SP_STATUS_LOOP_OK a) (SP_STATUS_FAILED_OVER a) _ (by simp [SP_STATUS_LOOP_OK]) rfl
      (.inr (by simp [SP_STATUS_LOOP_OK, SP_STATUS_FAILED_OVER])),
      State.wr_rd_same h1 _ _ (by simp [SP_STATUS_FAILED_OVER]), Nat.zero_mod]
  · rw [State.pairWrites, State.wr_rd_same h2 _ _ (by simp [SP_STATUS_LOOP_OK]), Nat.zero_mod]

variable {w : RegWrite} (hw : s.Accepts w)
include hw

theorem State.busWrite_pair (k : Fin 8) (hk : 2 * k.val < s.nSheet) :
    s.busWrite (SP_PAIR_MODE (2 * k)).off w = (s.setArm w.req false).setPairMode k (w.val.toNat % 4) := by
  obtain ⟨a, ha, h, hq⟩ := (sheet_found ⟨2 * k, by omega⟩).2
  rw [State.busWrite_at hw ha h (by simpa [State.absent_sheet h.base, h.inst] using hk), State.regEffect_sheet h.base, State.arrived_quiet ha hq]
  simp [State.sheetEffect, h.rel, h.inst]

theorem State.busWrite_sheetCtrl (hs : s.Inv) (p : Fin 16) (hp : p.val < s.nSheet) {a : RegAt} (ha : regAt (SP_CTRL_EN p).off = some a) :
    let u := s.arrived (SP_CTRL_EN p).off w
    s.busWrite (SP_CTRL_EN p).off w = (if bits w.val.toNat (SP_CTRL_RATE p).lsb (SP_CTRL_RATE p).lsb ≠ s.rd (SP_CTRL_RATE p) ∨
      bits w.val.toNat (SP_CTRL_FEC p).lsb (SP_CTRL_FEC p).lsb ≠ s.rd (SP_CTRL_FEC p) then u.sheetDown p else u).writeFields
        (SP_CTRL_EN p).off a false w.val := by
  obtain ⟨b, hb, h, hq⟩ := (sheet_found p).1
  obtain rfl : b = a := Option.some.inj (hb.symm.trans ha)
  have hrd {f : Fld} (hf : f.off = (SP_CTRL_EN p).off) : (s.setArm w.req false).rd f = s.rd f :=
    (State.setArm_regsOnly hs w.req false).rd_eq fun hm => by
      rw [hf] at hm
      exact absurd (List.mem_singleton.mp hm) (show 0x140000 + p.val * 0x1000 ≠ 0x10 by omega)
  intro u
  rw [State.busWrite_at hw ha h (by simpa [State.absent_sheet h.base, h.inst] using hp), State.regEffect_sheet h.base, State.sheetEffect,
    if_pos h.rel, State.sheetCtrl, h.inst, State.arrived_quiet ha hq, hrd (f := SP_CTRL_RATE p) rfl, hrd (f := SP_CTRL_FEC p) rfl,
    ← State.arrived_quiet ha hq]
  simp only [decide_eq_true_eq, u]

theorem State.busWrite_portCtrl (p : Fin 4) {a : RegAt} (ha : regAt (INGP_PORT_CTRL_EN p).off = some a) :
    let u := s.arrived (INGP_PORT_CTRL_EN p).off w
    s.busWrite (INGP_PORT_CTRL_EN p).off w = (u.writeFields (INGP_PORT_CTRL_EN p).off a false w.val).portSet u p := by
  obtain ⟨b, hb, h⟩ := ingestPort_found p
  obtain rfl : b = a := Option.some.inj (hb.symm.trans ha)
  rw [State.busWrite_at hw ha h (State.absent_common (by simp [h.base])), State.regEffect_misc (by simp [h.base]),
    State.beforeWrite_unlatched (by simp [h.base])]
  simp [State.miscEffect, h.base, h.rel, h.inst]

theorem State.busWrite_gateCtrl (p : Fin 2) : s.busWrite (HLYQ_GATE_CTRL_INSTALL p).off w =
    let u := s.arrived (HLYQ_GATE_CTRL_INSTALL p).off w
    let u := if w.val.toNat.testBit 1 then u.gateInstall p else u
    if w.val.toNat.testBit 0 then (u.wr (HLYQ_GATE_CTRL_EN p) 1).wr (HLYQ_GATE_STATUS_RUNNING p) (b2n (u.rport p).oper.isSome)
    else u.gateOff p := by
  obtain ⟨a, ha, h⟩ := gateCtrl_found p
  rw [State.busWrite_at hw ha h (State.absent_common (by simp [h.base])), State.regEffect_hlyPort h.base]
  simp [State.hlyPortEffect, h.rel, h.inst]

theorem State.busWrite_trainCtrl (c : Fin 4) (hc : c.val < s.nDdr) {a : RegAt} (ha : regAt (DMC_TRAIN_CTRL_GO c).off = some a)
    (h : a.At (DMC_TRAIN_CTRL_GO c).off 0x110000 c 0x200) : s.busWrite (DMC_TRAIN_CTRL_GO c).off w =
      let u := (s.arrived (DMC_TRAIN_CTRL_GO c).off w).writeFields (DMC_TRAIN_CTRL_GO c).off a false w.val
      if w.val.toNat.testBit 0 then u.trainGo c else u := by
  rw [State.busWrite_at hw ha h (by simpa [State.absent_dmc h.base, h.inst] using hc), State.regEffect_dmc h.base]
  simp [State.dmcEffect, h.rel, h.inst]

theorem State.busWrite_initCtrl {a : RegAt} (ha : regAt DMC0_INIT_CTRL_START.off = some a) (h : a.At DMC0_INIT_CTRL_START.off 0x110000 0 0x360) :
    s.busWrite DMC0_INIT_CTRL_START.off w =
      let u := (s.arrived DMC0_INIT_CTRL_START.off w).writeFields DMC0_INIT_CTRL_START.off a false w.val
      if w.val.toNat.testBit 0 then u.initStart else u := by
  have hn : 0 < s.nDdr := by unfold State.nDdr; split <;> decide
  rw [State.busWrite_at hw ha h (by simpa [State.absent_dmc h.base, h.inst] using hn.ne'), State.regEffect_dmc h.base]
  simp [State.dmcEffect, h.rel]

theorem State.busWrite_recurClr : s.busWrite DSM_RECUR_CLR_ENTRY.off w = (s.arrived DSM_RECUR_CLR_ENTRY.off w).recurClr w.val.toNat := by
  obtain ⟨a, ha, h⟩ := recurClr_found
  rw [State.busWrite_at hw ha h (State.absent_common (by simp [h.base])), State.regEffect_dsm h.base]
  simp [State.dsmEffect, h.rel]

end

/-- A burst of training starts where the channel's EN is 0 and the bursts are not none. -/
theorem State.trainGo_eq (s : State) (c : Nat) : s.trainGo c =
    if s.rd (DMC_CTRL_EN c) = 0 ∧ s.rd (DMC_TRAIN_CTRL_BURSTS c) ≠ 0 then
      (if s.rd (DMC_TRAIN_CTRL_OP c) = 0 then s.trainWrite c else s).wr (DMC_TRAIN_CTRL_BUSY c) 1
    else s := by
  by_cases he : s.rd (DMC_CTRL_EN c) = 0 <;> by_cases hb : s.rd (DMC_TRAIN_CTRL_BURSTS c) = 0 <;> simp [State.trainGo, State.flag, he, hb]

/-- A new pairing keeps the other registers, and everything but the ports' queues and probes. -/
theorem State.setPairMode_spec {s : State} (hs : s.Inv) (k v : Nat) :
    let t := s.setPairMode k v
    t.rd (SP_PAIR_MODE (2 * k)) = v % 4 ∧ t.rd (SP_STATUS_FAILED_OVER (2 * k)) = 0 ∧ t.rd (SP_STATUS_LOOP_OK (2 * k)) = 0 ∧
      (∀ o, o ∉ [(SP_PAIR_MODE (2 * k)).off, (SP_STATUS_LINK (2 * k)).off] → t.reg o = s.reg o) ∧
      t = { s with regs := t.regs, sheet := t.sheet } := by
  obtain ⟨hmode, hover, hloop⟩ := State.pairWrites_spec hs (2 * k) v
  have hregs := State.pairWrites_regsOnly hs (2 * k) v
  have hsheet := State.setPairMode_onlySheet (s := s) k v
  have hreg := hsheet.reg_eq
  have hrd (f : Fld) : (s.setPairMode k v).rd f = (s.pairWrites (2 * k) v).rd f := by rw [State.rd, State.rd, hreg]
  refine ⟨(hrd _).trans hmode, (hrd _).trans hover, (hrd _).trans hloop, fun o ho => (hreg o).trans (hregs.2 o ho),
    hregs.then_onlySheet hsheet⟩

/-- A write of PAIR by its even port. -/
theorem runs_pairModeWrite {s : State} {w : RegWrite} (hs : s.Inv) (hw : s.Accepts w) (k : Fin 8) (hk : 2 * k.val < s.nSheet) :
    Runs (.pairModeWrite k w) s fun t =>
      t.rd (SP_PAIR_MODE (2 * k)) = w.val.toNat % 4 ∧ t.rd (SP_STATUS_FAILED_OVER (2 * k)) = 0 ∧ t.rd (SP_STATUS_LOOP_OK (2 * k)) = 0 ∧
      (∀ o, o ∉ [(SP_PAIR_MODE (2 * k)).off, (SP_STATUS_LINK (2 * k)).off, GLB_QUOIN_KEY.off] → t.reg o = s.reg o) ∧
      t = { s with regs := t.regs, sheet := t.sheet } := by
  have harm := State.setArm_regsOnly hs w.req false
  obtain ⟨hmode, hover, hloop, hreg, heq⟩ := State.setPairMode_spec (State.setArm_inv hs w.req false) k (w.val.toNat % 4)
  refine ⟨_, (exec_of_writeOf rfl s).trans (congrArg _ (State.busWrite_pair hw k hk)), hmode.trans (Nat.mod_mod _ _), hover, hloop,
    fun o ho => ?_, ?_⟩
  · simp only [List.mem_cons, List.not_mem_nil, or_false, not_or] at ho
    exact (hreg o (by simpa using ⟨ho.1, ho.2.1⟩)).trans (harm.2 o (by simpa using ho.2.2))
  · rw [heq, harm.1]

/-- Settles O18: the registers one by one. -/
theorem unitRegisterWrites : Obligations.UnitRegisterWrites := by
  intro w s hs hw v
  have next {i : Instr} {off : Nat} {t : State} (hi : writeOf i = some (off, w)) (h : s.busWrite off w = t) : exec i s = .next t := by
    rw [exec_of_writeOf hi, h]
  refine ⟨fun k hk => runs_pairModeWrite hs hw k hk, fun p a hp ha => next rfl (State.busWrite_sheetCtrl hw hs p hp ha),
    fun p a ha => next rfl (State.busWrite_portCtrl hw p ha), fun p => next rfl (State.busWrite_gateCtrl hw p), fun c hc => ?_, ?_,
    next rfl (State.busWrite_recurClr hw)⟩
  · obtain ⟨a, ha, h⟩ := trainCtrl_found c
    refine ⟨a, ha, next rfl ((State.busWrite_trainCtrl hw c hc ha h).trans ?_)⟩
    simp only [State.trainGo_eq]
    by_cases hgo : w.val.toNat.testBit 0 = true <;> simp [v, hgo]
  · obtain ⟨a, ha, h⟩ := initCtrl_found
    exact ⟨a, ha, next rfl (State.busWrite_initCtrl hw ha h)⟩

/-! ### Resets of the host port (R64, R65) -/

section
variable {s : State} (hs : s.Inv)
include hs

/-- The registers that a reset of the host port sets. -/
theorem State.hostReset_spec : s.hostReset.winBase = 0 ∧ s.hostReset.armed .host = false ∧ s.hostReset.rd MBX_DONE_HOST = 0 ∧
    s.hostReset.rd MBX_DONE_RING = 0 ∧ (∀ r, r ≠ .host → s.hostReset.armed r = s.armed r) ∧
    (∀ o, o ∉ [GLB_WIN_BASE_LO_BASE_LO.off, GLB_WIN_BASE_HI_BASE_HI.off, GLB_QUOIN_KEY.off, MBX_DONE_HOST.off] → s.hostReset.reg o = s.reg o) := by
  let a : State := { s with host := State.reset.host }
  let b := a.setReg GLB_WIN_BASE_LO_BASE_LO.off 0
  let c := b.setReg GLB_WIN_BASE_HI_BASE_HI.off 0
  let d := c.setArm .host false
  have he : s.hostReset = d.setReg MBX_DONE_HOST.off 0 := rfl
  have ha : a.Inv := ⟨hs.1, hs.2, hs.3, hs.4, hs.5, hs.6, hs.7⟩
  have hb : b.Inv := State.setReg_inv ha _ _
  have hc : c.Inv := State.setReg_inv hb _ _
  have hd : d.Inv := State.setArm_inv hc _ _
  have hbc := (State.setReg_regsOnly ha GLB_WIN_BASE_LO_BASE_LO.off 0).trans (State.setReg_regsOnly hb GLB_WIN_BASE_HI_BASE_HI.off 0)
  have hcd := State.setArm_regsOnly hc .host false
  have hde := State.setReg_regsOnly hd MBX_DONE_HOST.off 0
  have hdone : s.hostReset.reg MBX_DONE_HOST.off = 0 := by rw [he, State.setReg_reg_same hd]
  have hhi : s.hostReset.reg GLB_WIN_BASE_HI_BASE_HI.off = 0 := by
    rw [he, hde.2 _ (by decide), hcd.2 _ (by decide), State.setReg_reg_same hb]
  have hlo : s.hostReset.reg GLB_WIN_BASE_LO_BASE_LO.off = 0 := by
    rw [he, hde.2 _ (by decide), hcd.2 _ (by decide), State.setReg_reg_other hb _ (by decide), State.setReg_reg_same ha]
  have harmed (r : Requester) : s.hostReset.armed r = if r = .host then false else s.armed r := by
    rw [he, hde.armed_eq (by decide), State.setArm_armed hc, hbc.armed_eq (by decide)]
    rfl
  refine ⟨?_, by rw [harmed, if_pos rfl], ?_, ?_, fun r hr => by rw [harmed, if_neg hr], fun o ho => ?_⟩
  · rw [State.winBase, State.rd, State.rd, hhi, hlo]
    rfl
  · rw [State.rd, hdone]
    rfl
  · rw [State.rd, show MBX_DONE_RING.off = MBX_DONE_HOST.off from rfl, hdone]
    rfl
  · simp only [List.mem_cons, List.not_mem_nil, or_false, not_or] at ho
    rw [he, hde.2 o (by simpa using ho.2.2.2), hcd.2 o (by simpa using ho.2.2.1), hbc.2 o (by simpa using ⟨ho.1, ho.2.1⟩)]
    rfl

end

/-- Settles O23: both resets are the same reset of the host port. -/
theorem hostResets : Obligations.HostResets := by
  intro i s hi hs hu
  obtain ⟨hwin, harm, hdone, hring, hothers, hregs⟩ := State.hostReset_spec hs
  have hexec : exec i s = .next s.hostReset := by
    simp only [List.mem_cons, List.not_mem_nil, or_false] at hi
    rcases hi with rfl | rfl
    · simp [exec, execFunctionLevelReset, State.when, hu]
    · simp [exec, execPerstN, State.when, hu]
  exact ⟨_, hexec, rfl, hwin, harm, hdone, hring, hothers, hregs, rfl⟩

end Sys2Proof.Machine

/-! ## The head registers that act when written (R239 to R241, R253, R269, R276) -/

namespace Sys2Proof.Machine

theorem head_found : ∀ h : Fin 4, (∃ a ∈ regAt (HEAD_CTRL_EN h).off, a.At (HEAD_CTRL_EN h).off 0x20000 h 0) ∧
    (∃ a ∈ regAt (HEAD_COMMIT_GO h).off, a.At (HEAD_COMMIT_GO h).off 0x20000 h 8) ∧
    ∃ a ∈ regAt (HEAD_STATS_CLR_CLR h).off, a.At (HEAD_STATS_CLR_CLR h).off 0x20000 h 0x8C := by decide +kernel

section
variable {s : State} {w : RegWrite} {h : Fin 4} (hw : s.Accepts w) (hh : h.val < s.nHeads)
include hw hh

/-- A write to a register of a head's page comes after the latch that is due. -/
theorem State.busWrite_head {off rel : Nat} {a : RegAt} (ha : regAt off = some a) (hat : a.At off 0x20000 h rel) :
    s.busWrite off w = (s.taken off w).headEffect off a w.val := by
  rw [State.busWrite_at hw ha hat (by simpa [State.absent_head (.inl hat.base), hat.inst] using hh), State.regEffect_head hat.base,
    State.taken_found ha]

theorem State.busWrite_headCtrl : s.busWrite (HEAD_CTRL_EN h).off w = (s.taken (HEAD_CTRL_EN h).off w).headCtrlWrite h
    (w.val.toNat.testBit 0) (w.val.toNat.testBit 1) (w.val.toNat.testBit 2) (w.val.toNat.testBit 3) := by
  obtain ⟨a, ha, hat⟩ := (head_found h).1
  rw [State.busWrite_head hw hh ha hat]
  simp [State.headEffect, hat.rel, hat.inst]

theorem State.busWrite_commit : s.busWrite (HEAD_COMMIT_GO h).off w =
    (s.taken (HEAD_COMMIT_GO h).off w).commitWrite h (w.val.toNat % 2) (bits w.val.toNat 7 4) := by
  obtain ⟨a, ha, hat⟩ := (head_found h).2.1
  rw [State.busWrite_head hw hh ha hat]
  simp [State.headEffect, hat.rel, hat.inst]

theorem State.busWrite_statsClr : s.busWrite (HEAD_STATS_CLR_CLR h).off w =
    if w.val.toNat.testBit 0 then (s.taken (HEAD_STATS_CLR_CLR h).off w).statsClr h else s.taken (HEAD_STATS_CLR_CLR h).off w := by
  obtain ⟨a, ha, hat⟩ := (head_found h).2.2
  rw [State.busWrite_head hw hh ha hat]
  simp [State.headEffect, hat.rel, hat.inst]

end

/-- No latch comes before a write of COMMIT. -/
theorem State.taken_commit {s : State} (w : RegWrite) (h : Fin 4) :
    s.taken (HEAD_COMMIT_GO h).off w = s.arrived (HEAD_COMMIT_GO h).off w := by
  obtain ⟨a, ha, hat⟩ := (head_found h).2.1
  rw [State.taken_found ha, State.beforeWrite, State.latchHeadOf, if_pos hat.base, if_pos hat.rel]

/-! ### Group commits (R241) -/

/-- A fold whose steps keep `I` and `Q`, and whose step at `g` brings `Q` about, ends with `Q` when it passes `g`. -/
theorem foldl_marks {I Q : State → Prop} {f : State → Nat → State} {g : Nat} (inv : ∀ t x, I t → I (f t x)) (set : ∀ t, I t → Q (f t g))
    (keep : ∀ t x, I t → Q t → Q (f t x)) {l : List Nat} (hg : g ∈ l) {s : State} (hs : I s) : Q (l.foldl f s) := by
  have stay : ∀ (l : List Nat) (t : State), I t → Q t → Q (l.foldl f t) := by
    intro l
    induction l with
    | nil => exact fun _ _ h => h
    | cons x l ih => exact fun t ht hq => ih _ (inv t x ht) (keep t x ht hq)
  induction l generalizing s with
  | nil => simp at hg
  | cons x l ih =>
    rcases List.mem_cons.mp hg with rfl | hg
    · exact stay l _ (inv s g hs) (set s hs)
    · exact ih hg (inv s x hs)

section
variable {s : State}

/-- A commit's pending bit is set in the group's step, and a late latch is noted beside it. -/
theorem State.noteLate_rd (hs : s.Inv) (h g : Nat) : (s.noteLate h).rd (HEAD_STATUS_COMMIT_PENDING g) = s.rd (HEAD_STATUS_COMMIT_PENDING g) := by
  rw [State.noteLate]
  split
  · have hi := State.wr_inv hs (HEAD_STATUS_COMMIT_LATE h) 1
    rw [(State.count_regsOnly hi _ 1).rd_eq (by
      simp only [List.mem_singleton]
      exact show 0x20000 + g * 0x10000 + 4 ≠ 0x20000 + h * 0x10000 + 0x98 by omega)]
    by_cases hg : g = h
    · subst hg
      exact State.wr_rd_beside hs _ _ _ (by simp [HEAD_STATUS_COMMIT_LATE]) rfl
        (.inl (by simp [HEAD_STATUS_COMMIT_LATE, HEAD_STATUS_COMMIT_PENDING]))
    · exact State.wr_rd_other hs _ _ _ (show 0x20000 + g * 0x10000 + 4 ≠ 0x20000 + h * 0x10000 + 4 by omega)
  · rfl

/-- One member's step of a group commit that is admitted. -/
def State.groupMember (n : Nat) (t : State) (h : Nat) : State :=
  ((t.wr (HEAD_STATUS_COMMIT_PENDING h) 1).setHd h fun x => { x with skip := n }).noteLate h

theorem State.groupMember_inv (hs : s.Inv) (n h : Nat) : (s.groupMember n h).Inv :=
  (State.noteLate_kept h (State.setHd_kept h _ (State.wr_kept _ _ hs))).inv

theorem State.groupMember_rd (hs : s.Inv) (n h g : Nat) : (s.groupMember n h).rd (HEAD_STATUS_COMMIT_PENDING g) =
    if g = h then 1 else s.rd (HEAD_STATUS_COMMIT_PENDING g) := by
  rw [State.groupMember, State.noteLate_rd (State.setHd_kept h _ (State.wr_kept _ _ hs)).inv, State.setHd_rd]
  split
  case isTrue hg => rw [hg, State.wr_rd_same hs _ _ (by simp [HEAD_STATUS_COMMIT_PENDING])]; rfl
  case isFalse hg => exact State.wr_rd_other hs _ _ _ (show 0x20000 + g * 0x10000 + 4 ≠ 0x20000 + h * 0x10000 + 4 by omega)

/-- A group that is not refused is pending on every member. -/
theorem State.commitGroup_pending (hs : s.Inv) {hs' : List Nat} (hr : s.groupRefused hs' = false) :
    ∀ g ∈ hs', (s.commitGroup hs').2.rd (HEAD_STATUS_COMMIT_PENDING g) = 1 := by
  intro g hg
  rw [State.commitGroup, if_neg (by simp [hr])]
  have hl : (s.latched hs').Inv := (State.latched_kept hs' hs).inv
  refine foldl_marks (I := State.Inv) (Q := fun t => t.rd (HEAD_STATUS_COMMIT_PENDING g) = 1) (g := g)
    (fun t x ht => State.groupMember_inv ht _ x) (fun t ht => ?_) (fun t x ht hq => ?_) hg hl
  · exact (State.groupMember_rd ht _ g g).trans (if_pos rfl)
  · refine (State.groupMember_rd ht _ x g).trans ?_
    rw [hq, ite_self]

/-- One member's step of a group commit that is refused. -/
def State.refuseMember (s : State) (h : Nat) : State := if h < s.nHeads then s.wr (HEAD_STATUS_GROUP_REFUSED h) 1 else s

theorem State.refuseMember_kept {q : List Instr} {p : Part} (hs : s.Kept q p) (h : Nat) : (s.refuseMember h).Kept q p := by
  rw [State.refuseMember]
  split
  · exact State.wr_kept _ _ hs
  · exact hs

theorem State.refuseMember_pending (hs : s.Inv) (h g : Nat) :
    (s.refuseMember h).rd (HEAD_STATUS_COMMIT_PENDING g) = s.rd (HEAD_STATUS_COMMIT_PENDING g) := by
  rw [State.refuseMember]
  split
  · by_cases hg : g = h
    · subst hg
      exact State.wr_rd_beside hs _ _ _ (by simp [HEAD_STATUS_GROUP_REFUSED]) rfl
        (.inl (by simp [HEAD_STATUS_GROUP_REFUSED, HEAD_STATUS_COMMIT_PENDING]))
    · exact State.wr_rd_other hs _ _ _ (show 0x20000 + g * 0x10000 + 4 ≠ 0x20000 + h * 0x10000 + 4 by omega)
  · rfl

theorem State.refuseMember_refused (hs : s.Inv) {h : Nat} (hh : h < s.nHeads) : (s.refuseMember h).rd (HEAD_STATUS_GROUP_REFUSED h) = 1 := by
  rw [State.refuseMember, if_pos hh, State.wr_rd_same hs _ _ (by simp [HEAD_STATUS_GROUP_REFUSED])]
  rfl

theorem State.refuseMember_refused_stays (hs : s.Inv) {g : Nat} (hg : s.rd (HEAD_STATUS_GROUP_REFUSED g) = 1) (h : Nat) :
    (s.refuseMember h).rd (HEAD_STATUS_GROUP_REFUSED g) = 1 := by
  by_cases hh : h < s.nHeads
  · by_cases he : g = h
    · exact he ▸ State.refuseMember_refused hs (he ▸ hh)
    · rw [State.refuseMember, if_pos hh, State.wr_rd_other hs _ _ _ (show 0x20000 + g * 0x10000 + 4 ≠ 0x20000 + h * 0x10000 + 4 by omega), hg]
  · rw [State.refuseMember, if_neg hh, hg]

theorem State.refuseGroup_pending (hs : s.Inv) (l : List Nat) (g : Nat) :
    (s.refuseGroup l).rd (HEAD_STATUS_COMMIT_PENDING g) = s.rd (HEAD_STATUS_COMMIT_PENDING g) := by
  induction l generalizing s with
  | nil => rfl
  | cons x l ih => exact (ih (State.refuseMember_kept hs x).inv).trans (State.refuseMember_pending hs x g)

/-- A group that is refused sets GROUP_REFUSED on each member and makes nothing pending. -/
theorem State.commitGroup_refused (hs : s.Inv) {hs' : List Nat} (hr : s.groupRefused hs' = true) (hn : ∀ g ∈ hs', g < s.nHeads) :
    ∀ g ∈ hs', (s.commitGroup hs').2.rd (HEAD_STATUS_GROUP_REFUSED g) = 1 ∧
      (s.commitGroup hs').2.rd (HEAD_STATUS_COMMIT_PENDING g) = (s.latched hs').rd (HEAD_STATUS_COMMIT_PENDING g) := by
  intro g hg
  have hl : (s.latched hs').Kept s.pending s.part := State.latched_kept hs' hs
  rw [State.commitGroup, if_pos hr]
  refine ⟨?_, State.refuseGroup_pending hl.inv hs' g⟩
  refine foldl_marks (I := State.Kept s.pending s.part) (Q := fun t => t.rd (HEAD_STATUS_GROUP_REFUSED g) = 1) (g := g)
    (fun t x ht => State.refuseMember_kept ht x) (fun t ht => ?_) (fun t x ht hq => State.refuseMember_refused_stays ht.inv hq x) hg hl
  refine State.refuseMember_refused ht.inv ?_
  rw [State.nHeads, ht.part]
  exact hn g hg

theorem State.groupRefused_false {l : List Nat} :
    s.groupRefused l = false ↔ ∀ g ∈ l, (s.hd g).gen = true ∧ s.rd (HEAD_STATUS_COMMIT_PENDING g) = 0 := by
  simp [State.groupRefused, State.flag]

end

theorem State.arrived_nHeads {s : State} (hs : s.Inv) (off : Nat) (w : RegWrite) : (s.arrived off w).nHeads = s.nHeads := by
  rw [State.nHeads, congrArg State.part (State.arrived_sameBesideRegs hs off w), State.nHeads]

/-- Settles O15: each register's own effect; a group commit by whether it is refused. -/
theorem headRegisterWrites : Obligations.HeadRegisterWrites := by
  constructor
  · intro h w s hw hh v ctrl u
    have next {i : Instr} {off : Nat} {t : State} (hi : writeOf i = some (off, w)) (h : s.busWrite off w = t) : exec i s = .next t := by
      rw [exec_of_writeOf hi, h]
    have hctrl := State.busWrite_headCtrl hw hh
    have hcommit : ∀ i ∈ [Instr.commit h w, .commitGroup h w], exec i s = .next (u.commitWrite h (v % 2) (bits v 7 4)) := by
      simp only [List.mem_cons, List.not_mem_nil, or_false, forall_eq_or_imp, forall_eq]
      exact ⟨next rfl (State.busWrite_commit hw hh), next rfl (State.busWrite_commit hw hh)⟩
    refine ⟨next rfl hctrl, next rfl hctrl, next rfl hctrl, fun i hi => ⟨fun h0 => ?_, fun h1 hg => ?_, fun h1 hg => ?_⟩,
      next rfl (State.busWrite_statsClr hw hh)⟩ <;> rw [hcommit i hi, State.commitWrite]
    · rw [if_pos h0]
    · rw [if_neg (by omega), if_pos hg]
    · rw [if_neg (by omega), if_neg hg]
  · intro h w s hs hw hh hgo hgr hn
    have hi : (s.arrived (HEAD_COMMIT_GROUP h).off w).Inv := State.arrived_inv hs
    refine ⟨((s.arrived (HEAD_COMMIT_GROUP h).off w).commitGroup (headsOf (bits w.val.toNat 7 4))).2, ?_, ?_⟩
    · rw [exec_of_writeOf rfl]
      refine congrArg Host.Outcome.next ((State.busWrite_commit hw hh).trans ?_)
      rw [State.commitWrite, if_neg (by omega), if_neg hgr, State.taken_commit]
      rfl
    · dsimp only
      split
      case isTrue hok => exact State.commitGroup_pending hi (State.groupRefused_false.mpr hok)
      case isFalse hbad =>
        exact State.commitGroup_refused hi (Bool.not_eq_false _ ▸ mt State.groupRefused_false.mp hbad) fun g hg => by
          rw [State.arrived_nHeads hs]
          exact hn g hg

end Sys2Proof.Machine

/-! ## Reads that clear and reads that capture (R13, R49, R208, R245, R627) -/

namespace Sys2Proof.Machine

/-! ### The RC fields of a word -/

theorem clearRc_cons (f : FldRow) (t : List FldRow) (w : Word) : clearRc (f :: t) w = clearRc t (clearRc [f] w) := rfl

theorem clearRc_other {fs : List FldRow} {g : Fld} (w : Word) (hf : ∀ f ∈ fs, f.lsb + f.width ≤ 32)
    (hd : ∀ f ∈ fs, f.lsb + f.width ≤ g.lsb ∨ g.lsb + g.width ≤ f.lsb) : g.get (clearRc fs w) = g.get w := by
  induction fs generalizing w with
  | nil => rfl
  | cons f t ih =>
    rw [clearRc_cons, ih _ (fun x hx => hf x (List.mem_cons_of_mem _ hx)) fun x hx => hd x (List.mem_cons_of_mem _ hx)]
    simp only [clearRc, List.foldl]
    split
    · exact Fld.get_put_other ⟨0, f.lsb, f.width⟩ g w 0 (hf f List.mem_cons_self) (hd f List.mem_cons_self).symm
    · rfl

/-- After a read the RC fields of the word, which lie apart, are clear. -/
theorem clearRc_get {fs : List FldRow} (ha : FieldsApart fs) {f : FldRow} (hf : f ∈ fs) (hacc : f.acc = .rc) (w : Word) :
    Fld.get ⟨0, f.lsb, f.width⟩ (clearRc fs w) = 0 := by
  induction fs generalizing w with
  | nil => simp at hf
  | cons x t ih =>
    obtain ⟨hb, hp⟩ := ha
    obtain ⟨hx, ht⟩ := List.pairwise_cons.mp hp
    have hbt : ∀ y ∈ t, y.lsb + y.width ≤ 32 := fun y hy => hb y (List.mem_cons_of_mem _ hy)
    rw [clearRc_cons]
    rcases List.mem_cons.mp hf with rfl | hf
    · rw [clearRc_other _ hbt fun y hy => (hx y hy).symm]
      simp only [clearRc, List.foldl, hacc, if_true]
      rw [Fld.get_put_same _ _ _ (hb f List.mem_cons_self), Nat.zero_mod]
    · exact ih ⟨hbt, ht⟩ hf _

/-! ### The machine after a read -/

/-- What a read of a register leaves: the words captured, the RC fields clear, what starts anew. -/
def State.afterRead (s : State) (off : Nat) (a : RegAt) : State := ((s.readCaptures off a).readClears off a).readRestarts off a

section
variable {s : State} {off : Nat} {a : RegAt}

theorem foldl_capture (l : List (Nat × Nat)) (s : State) :
    let t := l.foldl (fun t x => { t with capture := Sparse.put (fun _ => (0 : Word)) t.capture x.1 (BitVec.ofNat 32 x.2) }) s
    t = { s with capture := t.capture } := by
  induction l generalizing s with
  | nil => rfl
  | cons x l ih => exact ih _

/-- A read captures words and changes no more by that. -/
theorem State.readCaptures_eq (s : State) (off : Nat) (a : RegAt) : s.readCaptures off a = { s with capture := (s.readCaptures off a).capture } :=
  foldl_capture _ s

theorem State.readClears_eq (s : State) (off : Nat) (a : RegAt) : s.readClears off a = { s with regs := (s.readClears off a).regs } := by
  rw [State.readClears]
  split <;> rfl

theorem State.readRestarts_eq (s : State) (off : Nat) (a : RegAt) : s.readRestarts off a =
    { s with ddr := (s.readRestarts off a).ddr, power := { s.power with tempSeen := (s.readRestarts off a).power.tempSeen } } := by
  rw [State.readRestarts]
  split
  · rfl
  · split <;> rfl

theorem State.readRestarts_reg (s : State) (off : Nat) (a : RegAt) (o : Nat) : (s.readRestarts off a).reg o = s.reg o := by
  rw [State.readRestarts_eq]
  rfl

theorem State.readCaptures_reg (s : State) (off : Nat) (a : RegAt) (o : Nat) : (s.readCaptures off a).reg o = s.reg o := by
  rw [State.readCaptures_eq]
  rfl

theorem State.readCaptures_inv (hs : s.Inv) (off : Nat) (a : RegAt) : (s.readCaptures off a).Inv :=
  (State.readCaptures_kept off a hs).inv

theorem State.afterRead_eq (s : State) (off : Nat) (a : RegAt) : s.afterRead off a =
    let t := s.afterRead off a
    { s with regs := t.regs, capture := t.capture, ddr := t.ddr, power := { s.power with tempSeen := t.power.tempSeen } } := by
  have hc := State.readCaptures_eq s off a
  have hl := State.readClears_eq (s.readCaptures off a) off a
  have hr := State.readRestarts_eq ((s.readCaptures off a).readClears off a) off a
  rw [State.afterRead]
  generalize s.readCaptures off a = t at *
  generalize t.readClears off a = u at *
  generalize u.readRestarts off a = v at *
  rw [hr, hl, hc]

theorem State.afterRead_reg_other (hs : s.Inv) {o : Nat} (ho : o ≠ off) : (s.afterRead off a).reg o = s.reg o := by
  rw [State.afterRead, State.readRestarts_reg, State.readClears]
  split
  · rw [State.setReg_reg_other (State.readCaptures_inv hs off a) _ ho, State.readCaptures_reg]
  · exact State.readCaptures_reg s off a o

/-- After a read each RC field of the register reads 0. -/
theorem State.afterRead_rc (hs : s.Inv) (ha : regAt off = some a) {f : FldRow} (hf : f ∈ a.row.fields) (hacc : f.acc = .rc) :
    (s.afterRead off a).rd ⟨off, f.lsb, f.width⟩ = 0 := by
  rw [State.rd, State.afterRead, State.readRestarts_reg, State.readClears, if_pos (List.any_eq_true.mpr ⟨f, hf, by simp [hacc]⟩),
    State.setReg_reg_same (State.readCaptures_inv hs off a)]
  exact clearRc_get (regAt_apart ha) hf hacc _

theorem State.absent_congr {t : State} (h : t.part = s.part) (a : RegAt) : t.absent a = s.absent a := by
  rw [State.absent, State.nHeads, State.nVideo, State.nGraphic, State.nDdr, State.nSheet, h]
  rfl

theorem State.lutReach_absent (hs : s.Inv) (off : Nat) (a : RegAt) : (s.lutReach off).absent a = s.absent a :=
  State.absent_congr (State.lutReach_kept off hs).part a

theorem State.busRead_held (hu : s.mainUp = true) (req : Requester) {k : Nat} (hb : (s.lutReach off).lutBusy off = some k) :
    s.busRead off req = (s.lutReach off).lutHold k (.read req off) := by
  rw [State.busRead, State.when, if_pos hu]
  simp only [hb]

variable (hoff : off % 4 = 0) (ha : regAt off = some a)
include hoff ha

theorem State.lutReach_plain (hl : lutOf a = none) : s.lutReach off = s := by
  rw [State.lutReach, show off / 4 * 4 = off by omega, ha]
  simp only [hl, ite_self]

theorem State.lutBusy_plain (hl : lutOf a = none) : s.lutBusy off = none := by
  rw [State.lutBusy, show off / 4 * 4 = off by omega, ha]
  simp [hl]

/-- A read with no access held before it answers the register's word. -/
theorem State.regRead_found (hp : s.absent a = false) (hh : ∀ k, lutOf a = some k → (s.luts[Fin.ofNat 20 k]).held = []) :
    s.regRead off = (BitVec.ofNat 32 (s.readWord off a), s.afterRead off a) := by
  have hheld : ((lutOf a).bind fun t => (s.luts[Fin.ofNat 20 t]).held.reverse.findSome? fun x => match x with
      | .write o v _ => if o = off then some v else none
      | _ => none) = none := by
    cases hl : lutOf a with
    | none => rfl
    | some k => rw [Option.bind_some, hh k hl]; rfl
  rw [State.regRead, show off / 4 * 4 = off by omega, ha]
  simp only [hp, Bool.false_eq_true, if_false]
  exact congrArg (fun w : Option Word => (w.getD (BitVec.ofNat 32 (s.readWord off a)), s.afterRead off a)) hheld

/-- A read that no synchronisation holds. -/
theorem State.busRead_found (hu : s.mainUp = true) (req : Requester) (hb : (s.lutReach off).lutBusy off = none)
    (hp : (s.lutReach off).absent a = false) (hh : ∀ k, lutOf a = some k → ((s.lutReach off).luts[Fin.ofNat 20 k]).held = []) :
    let u := s.lutReach off
    s.busRead off req = (u.afterRead off a).emit (.regRead req off (BitVec.ofNat 32 (u.readWord off a))) := by
  rw [State.busRead, State.when, if_pos hu]
  simp only [hb, State.regRead_found hoff ha hp hh]

end

theorem State.afterRead_out (s : State) (off : Nat) (a : RegAt) : (s.afterRead off a).out = s.out := by
  rw [State.afterRead_eq]

/-- The clauses of O13 about a read of any register. -/
theorem exec_rcRead_spec {off : Nat} {a : RegAt} {req : Requester} {s : State} (hs : s.Inv) (hu : s.mainUp = true) (hoff : off % 4 = 0)
    (ha : regAt off = some a) (hp : s.absent a = false) (hb : (s.lutReach off).lutBusy off = none)
    (hh : ∀ k, lutOf a = some k → ((s.lutReach off).luts[Fin.ofNat 20 k]).held = []) :
    let u := s.lutReach off
    Runs (.rcRead off req) s fun t =>
      t.out = u.out ++ [.regRead req off (BitVec.ofNat 32 (u.readWord off a))] ∧
      (∀ f ∈ a.row.fields, f.acc = .rc → t.rd ⟨off, f.lsb, f.width⟩ = 0) ∧ (∀ o, o ≠ off → t.reg o = u.reg o) ∧
      t = { u with regs := t.regs, capture := t.capture, ddr := t.ddr, power := { u.power with tempSeen := t.power.tempSeen }, out := t.out } := by
  have hi : (s.lutReach off).Inv := (State.lutReach_kept off hs).inv
  intro u
  refine ⟨_, congrArg Host.Outcome.next (State.busRead_found hoff ha hu req hb ((State.lutReach_absent hs off a).trans hp) hh), ?_, ?_, ?_, ?_⟩
  · rw [State.emit, State.afterRead_out]
  · exact fun f hf hacc => State.afterRead_rc hi ha hf hacc
  · exact fun o ho => State.afterRead_reg_other hi ho
  · have he := State.afterRead_eq (s.lutReach off) off a
    dsimp only at he
    generalize (s.lutReach off).afterRead off a = v at *
    rw [he]
    rfl

/-! ### Captures (R245, R627) -/

section
variable {s : State}

theorem frame_found : ∀ h : Fin 4,
    (∃ a ∈ regAt (HEAD_FRAME_LO_FRAME h).off, a.At (HEAD_FRAME_LO_FRAME h).off 0x20000 h 0x50 ∧ lutOf a = none) ∧
      ∃ a ∈ regAt (HEAD_FRAME_HI_FRAME h).off, a.At (HEAD_FRAME_HI_FRAME h).off 0x20000 h 0x54 ∧ lutOf a = none := by decide +kernel

theorem time_found : (∃ a ∈ regAt TSY_TIME_NS_NS.off, a.At TSY_TIME_NS_NS.off 0x170000 0 0x610 ∧ lutOf a = none) ∧
    (∃ a ∈ regAt TSY_TIME_SEC_LO_SEC.off, a.At TSY_TIME_SEC_LO_SEC.off 0x170000 0 0x608 ∧ lutOf a = none) ∧
      ∃ a ∈ regAt TSY_TIME_SEC_HI_SEC.off, a.At TSY_TIME_SEC_HI_SEC.off 0x170000 0 0x60C ∧ lutOf a = none := by decide +kernel

theorem State.afterRead_capture (s : State) (off : Nat) (a : RegAt) : (s.afterRead off a).capture = (s.readCaptures off a).capture := by
  rw [State.afterRead, State.readRestarts_eq, State.readClears_eq]

theorem State.afterRead_part (s : State) (off : Nat) (a : RegAt) : (s.afterRead off a).part = s.part := by
  rw [State.afterRead_eq]

/-- A read without a LUT window in its way emits its word. -/
theorem exec_captureRead {off : Nat} {a : RegAt} (hu : s.mainUp = true) (req : Requester) (hoff : off % 4 = 0) (ha : regAt off = some a)
    (hl : lutOf a = none) (hp : s.absent a = false) : exec (.captureRead off req) s =
      .next ((s.afterRead off a).emit (.regRead req off (BitVec.ofNat 32 (s.readWord off a)))) := by
  have hr : s.lutReach off = s := State.lutReach_plain hoff ha hl
  have h := State.busRead_found hoff ha hu req (hr.symm ▸ State.lutBusy_plain hoff ha hl) (hr.symm ▸ hp) (by simp [hl])
  rw [hr] at h
  exact congrArg Host.Outcome.next h

/-- A register of captured words answers the word captured last. -/
theorem State.regRead_captured {off : Nat} {a : RegAt} (hoff : off % 4 = 0) (ha : regAt off = some a) (hl : lutOf a = none)
    (hp : s.absent a = false) (hc : isCaptured a = true) {w : Word} (hw : Sparse.get (fun _ => (0 : Word)) s.capture off = w) :
    (s.regRead off).1 = w := by
  rw [State.regRead_found hoff ha hp (by simp [hl]), State.readWord, if_pos hc, hw, BitVec.ofNat_toNat, BitVec.setWidth_eq]

theorem captureRead_frame (hs : s.Inv) (hu : s.mainUp = true) (req : Requester) (h : Fin 4) (hh : h.val < s.nHeads) :
    Runs (.captureRead (HEAD_FRAME_LO_FRAME h).off req) s fun t =>
      t.out = s.out ++ [.regRead req (HEAD_FRAME_LO_FRAME h).off (BitVec.ofNat 32 ((s.hd h).lastCounted % 2 ^ 32))] ∧
      (t.regRead (HEAD_FRAME_HI_FRAME h).off).1 = BitVec.ofNat 32 ((s.hd h).lastCounted / 2 ^ 32) := by
  obtain ⟨⟨a, ha, hat, hl⟩, b, hb, hbt, hbl⟩ := frame_found h
  have hp : s.absent a = false := by simpa [State.absent_head (.inl hat.base), hat.inst] using hh
  have hword : s.readWord (HEAD_FRAME_LO_FRAME h).off a = (s.hd h).lastCounted % 2 ^ 32 := by
    simp [State.readWord, isCaptured, hat.base, hat.rel, hat.inst]
  have hcap : s.captures (HEAD_FRAME_LO_FRAME h).off a = [((HEAD_FRAME_HI_FRAME h).off, (s.hd h).lastCounted / 2 ^ 32)] := by
    simp [State.captures, hat.base, hat.rel, hat.inst, HEAD_FRAME_LO_FRAME, HEAD_FRAME_HI_FRAME]
  refine ⟨_, exec_captureRead hu req hat.1 ha hl hp, ?_, ?_⟩
  · rw [State.emit, State.afterRead_out, hword]
  · refine State.regRead_captured hbt.1 hb hbl ?_ (by simp [isCaptured, hbt.base, hbt.rel]) ?_
    · refine (State.absent_congr (State.afterRead_part s _ a) b).trans ?_
      simpa [State.absent_head (.inl hbt.base), hbt.inst] using hh
    · rw [State.emit, State.afterRead_capture, State.readCaptures, hcap]
      exact Sparse.get_put_same _ _ _ hs.capture

theorem captureRead_time (hs : s.Inv) (hu : s.mainUp = true) (req : Requester) :
    Runs (.captureRead TSY_TIME_NS_NS.off req) s fun t =>
      t.out = s.out ++ [.regRead req TSY_TIME_NS_NS.off (BitVec.ofNat 32 s.timeNs)] ∧
      (t.regRead TSY_TIME_SEC_LO_SEC.off).1 = BitVec.ofNat 32 (s.timeSec % 2 ^ 32) ∧
      (t.regRead TSY_TIME_SEC_HI_SEC.off).1 = BitVec.ofNat 32 (s.timeSec / 2 ^ 32) := by
  obtain ⟨⟨a, ha, hat, hl⟩, ⟨b, hb, hbt, hbl⟩, c, hc, hct, hcl⟩ := time_found
  have hword : s.readWord TSY_TIME_NS_NS.off a = s.timeNs := by simp [State.readWord, isCaptured, hat.base, hat.rel]
  have hcap : s.captures TSY_TIME_NS_NS.off a =
      [(TSY_TIME_SEC_LO_SEC.off, s.timeSec % 2 ^ 32), (TSY_TIME_SEC_HI_SEC.off, s.timeSec / 2 ^ 32)] := by
    simp [State.captures, hat.base, hat.rel, TSY_TIME_SEC_LO_SEC, TSY_TIME_SEC_HI_SEC]
  refine ⟨_, exec_captureRead hu req hat.1 ha hl (State.absent_common (by simp [hat.base])), ?_, ?_, ?_⟩
  · rw [State.emit, State.afterRead_out, hword]
  · refine State.regRead_captured hbt.1 hb hbl (State.absent_common (by simp [hbt.base])) (by simp [isCaptured, hbt.base, hbt.rel]) ?_
    rw [State.emit, State.afterRead_capture, State.readCaptures, hcap]
    refine (Sparse.get_put_other _ _ _ _ (show TSY_TIME_SEC_LO_SEC.off ≠ TSY_TIME_SEC_HI_SEC.off by decide) (Sparse.put_wf hs.capture)).trans ?_
    exact Sparse.get_put_same _ _ _ hs.capture
  · refine State.regRead_captured hct.1 hc hcl (State.absent_common (by simp [hct.base])) (by simp [isCaptured, hct.base, hct.rel]) ?_
    rw [State.emit, State.afterRead_capture, State.readCaptures, hcap]
    exact Sparse.get_put_same _ _ _ (Sparse.put_wf hs.capture)

end

/-- Settles O13: reads by whether a synchronisation holds them; then the captures. -/
theorem registerReads : Obligations.RegisterReads := by
  refine ⟨?_, fun req s hs hu => ⟨captureRead_frame hs hu req, captureRead_time hs hu req⟩⟩
  intro off a req s hs hu hoff ha hp u
  exact ⟨State.lutReach_plain hoff ha, fun k hk => congrArg Host.Outcome.next (State.busRead_held hu req hk),
    exec_rcRead_spec hs hu hoff ha hp⟩

end Sys2Proof.Machine

/-! ## The command service and the system's commands (R75 to R90) -/

namespace Sys2Proof.Machine

section
variable {s : State} {c : FwCmd} {rest : List FwCmd}

theorem State.seqRec_setRec (s : State) (c : FwCmd) (r : SeqRec) : (s.setRec c r).seqRec c = some r := by
  simp [State.seqRec, State.setRec]

/-- A command that begins keeps what it had taken before. -/
@[simp] theorem State.begun_took : (s.begun c rest).took c = s.took c := by
  rw [State.begun]
  dsimp only
  split
  · rfl
  · rw [State.took, State.seqRec_setRec]
    simp

@[simp] theorem State.begun_standby : (s.begun c rest).standby = s.standby := State.begun_rd _

/-- DEVICE_INFO, ECHO and TIME_GET. -/
theorem exec_deviceInfo (h : s.Begins 0x0101 c rest) : exec .deviceInfo s = .next ((s.begun c rest).finish c stOK
    (leBytes 4 s.deviceId ++ leBytes 4 (s.rd GLB_FW_VERSION_VERSION) ++ leBytes 1 (s.rd PWR_STATUS_RUNNING_SLOT) ++
      leBytes 1 (s.rd GLB_CORE_STATUS_ACTIVE) ++ leBytes 2 s.ringId ++ leBytes 8 s.fuses.serial ++ leBytes 4 (s.ddrBytes / 2 ^ 30))) := by
  rw [exec, execDeviceInfo, State.serve_begins _ h (by decide)]
  obtain ⟨rs, ag, e⟩ := s.begun_eq (c := c) (rest := rest)
  rw [e]
  rfl

theorem exec_timeGet (h : s.Begins 0x0902 c rest) : exec .timeGet s = .next ((s.begun c rest).captureTime.finish c stOK
    (leBytes 8 s.timeSec ++ leBytes 4 s.timeNs ++ leBytes 1 (s.rd TSY_TIME_STATUS_SOURCE) ++ leBytes 1 (s.rd ING_PTP_STATUS_STATE) ++ [0, 0] ++
      leBytes 4 (wrap 32 s.clocks.lastOffset) ++ leBytes 4 (s.rd TSY_FREQ_ADJ_PPB))) := by
  rw [exec, execTimeGet, State.serve_begins _ h (by decide)]
  obtain ⟨rs, ag, e⟩ := s.begun_eq (c := c) (rest := rest)
  rw [e]
  rfl

theorem exec_coreSwitch (h : s.Begins 0x0110 c rest) (ht : s.took c = []) : exec .coreSwitch s = .next
    (if s.standby = sbREADY then
      (((s.begun c rest).take c [1 - s.rd GLB_CORE_STATUS_ACTIVE]).waitFor c .coreSwitch).reqSwitch
    else (s.begun c rest).fail c stBUSY) := by
  rw [exec, execCoreSwitch, State.serve_begins _ h (by decide)]
  simp only [State.begun_took, ht, State.begun_standby, State.begun_rd]

theorem exec_coreRestart (h : s.Begins 0x0111 c rest) : exec .coreRestart s = .next
    (if s.standby = sbREADY then (s.begun c rest).ok c else ((s.begun c rest).waitFor c .coreRestart).reqRestart) := by
  rw [exec, execCoreRestart, State.serve_begins _ h (by decide)]
  simp only [State.begun_standby]

end

/-- Settles O26: each command by what it finds. -/
theorem systemCommands : Obligations.SystemCommands := by
  refine ⟨fun c rest s => ⟨exec_deviceInfo, fun h => ?_, exec_timeGet⟩, fun c rest s => ⟨fun h ht => ⟨fun hr => ?_, fun hr => ?_⟩, fun h => ⟨fun hr => ?_, fun hr => ?_⟩⟩⟩
  · rw [exec, execEcho, State.serve_begins _ h (by decide)]
  · rw [exec_coreSwitch h ht, if_pos hr]
  · rw [exec_coreSwitch h ht, if_neg hr]
  · rw [exec_coreRestart h, if_pos hr]
  · rw [exec_coreRestart h, if_neg hr]

/-! ### Ring mailbox frames (R88 to R90) -/

section
variable {s : State} {x : RxItem}

theorem State.takeRx_fw (s : State) (p cls stream : Nat) : (s.takeRx p cls stream).2.fw = s.fw := by
  rw [State.takeRx]
  split <;> rfl

theorem exec_mbxCmd {p : Fin 2} (h : (s.takeRx p 5 1).1 = some x) : exec (.mbxCmd p) s =
    .next ((s.takeRx p 5 1).2.pushCmd ⟨.remote x.frame.src (beAt x.frame.payload 6 1) (decide (x.frame.dst = 0xFFFF)),
      beAt x.frame.payload 0 2, beAt x.frame.payload 2 2, beAt x.frame.payload 4 2, 0, 0,
      slice x.frame.payload 8 (min 496 (beAt x.frame.payload 4 2)), false⟩) := by
  simp only [exec, execMbxCmd, h]

theorem exec_mbxResp_late {p : Fin 2} (h : (s.takeRx p 5 2).1 = some x) (hw : s.fw.ringWaits.find? (RingWait.answered · x) = none) :
    exec (.mbxResp p) s = .next ((s.takeRx p 5 2).2.count MBX_RING_LATE_COUNT 1) := by
  simp only [exec, execMbxResp, h, State.takeRx_fw, hw]

/-- An answer that completes the one ring mailbox command that waits. -/
theorem exec_mbxResp_answer {p : Fin 2} {w : RingWait} (h : (s.takeRx p 5 2).1 = some x) (hw : s.fw.ringWaits = [w]) (hb : w.bcast = false)
    (ha : w.answered x = true) : exec (.mbxResp p) s = .next (let u := (s.takeRx p 5 2).2
      ({ u with fw := { u.fw with ringWaits := [] } }).finish w.cmd (beAt x.frame.payload 6 2)
        (slice x.frame.payload 16 (min 496 (beAt x.frame.payload 4 2)))) := by
  simp [exec, execMbxResp, h, State.takeRx_fw, hw, ha, hb]

theorem exec_ringMbxTimeout {m : Fin 4} {w : RingWait} (hs : s.serving = true) (hw : s.fw.ringWaits = [w]) (hm : w.mbx = m)
    (hb : w.bcast = false) (hd : w.deadline < s.now) (ha : s.answerWaits w = false) (hn : w.answers = []) :
    exec (.ringMbxTimeout m) s = .next (({ s with fw := { s.fw with ringWaits := [] } }).unheard w.cmd []) := by
  simp [exec, execRingMbxTimeout, hs, hw, hm, hb, hd, ha, hn]

end

/-- Settles O29: a command frame, an answer by whether a command waits for it, a command whose time has passed. -/
theorem ringMailboxFrames : Obligations.RingMailboxFrames := by
  intro p x s
  refine ⟨exec_mbxCmd, fun h => ⟨fun hw => exec_mbxResp_late h (by simp [hw]), fun w hw hb hm hc hq hd => ⟨fun hl => ?_, fun hl => ?_⟩⟩,
    fun m w hs hw hm hb hd ha hn => exec_ringMbxTimeout hs hw hm hb hd ha hn⟩
  · exact exec_mbxResp_late h (by simp [hw, RingWait.answered, hl])
  · exact exec_mbxResp_answer h hw hb (by simp [RingWait.answered, hl, hb, hm, hc, hq, hd])

end Sys2Proof.Machine

/-! ## What an access of memory leaves: the firmware's state and the registers below Densum's -/

namespace Sys2Proof.Machine

/-- A change as an access of Densum or of DDR5 makes it: the firmware's state and the registers below Densum's stay. -/
structure State.MemWork (s t : State) : Prop where
  inv : t.Inv
  fw : t.fw = s.fw
  reg : ∀ o, o < 0x100000 → t.reg o = s.reg o

section
variable {s t u : State}

theorem State.MemWork.trans (h : s.MemWork t) (k : t.MemWork u) : s.MemWork u :=
  ⟨k.inv, k.fw.trans h.fw, fun o ho => (k.reg o ho).trans (h.reg o ho)⟩

theorem State.MemWork.of_regs_eq (hi : t.Inv) (hf : t.fw = s.fw) (hr : t.regs = s.regs) : s.MemWork t :=
  ⟨hi, hf, fun o _ => by rw [State.reg, hr, State.reg]⟩

theorem State.MemWork.ite {p : Prop} [Decidable p] (h : s.MemWork t) (k : s.MemWork u) : s.MemWork (if p then t else u) := by
  split
  · exact h
  · exact k

theorem State.MemWork.rd (h : s.MemWork t) {f : Fld} (hf : f.off < 0x100000) : t.rd f = s.rd f := by
  rw [State.rd, h.reg _ hf, State.rd]

theorem foldl_memWork {α : Type} {f : State → α → State} (hf : ∀ (t : State) x, t.Inv → t.MemWork (f t x)) (l : List α) (hs : s.Inv) :
    s.MemWork (l.foldl f s) := by
  induction l generalizing s with
  | nil => exact ⟨hs, rfl, fun _ _ => rfl⟩
  | cons x l ih => exact (hf s x hs).trans (ih (hf s x hs).inv)

theorem foldl2_memWork {α β : Type} {f : β × State → α → β × State} (hf : ∀ (y : β × State) x, y.2.Inv → y.2.MemWork (f y x).2) (l : List α) {y : β × State}
    (hs : y.2.Inv) : y.2.MemWork (l.foldl f y).2 := by
  induction l generalizing y with
  | nil => exact ⟨hs, rfl, fun _ _ => rfl⟩
  | cons x l ih => exact (hf y x hs).trans (ih (hf y x hs).inv)

variable (hs : s.Inv)
include hs

theorem State.memWork_refl : s.MemWork s := ⟨hs, rfl, fun _ _ => rfl⟩

theorem State.setReg_memWork {off : Nat} (w : Word) (h : 0x100000 ≤ off) : s.MemWork (s.setReg off w) :=
  ⟨State.setReg_inv hs off w, rfl, fun _ ho => State.setReg_reg_other hs w (Nat.ne_of_lt (Nat.lt_of_lt_of_le ho h))⟩

theorem State.wr_memWork {f : Fld} (v : Nat) (h : 0x100000 ≤ f.off) : s.MemWork (s.wr f v) := State.setReg_memWork hs _ h

theorem State.count_memWork {f : Fld} (n : Nat) (h : 0x100000 ≤ f.off) : s.MemWork (s.count f n) := State.wr_memWork hs _ h

theorem State.setCause_memWork {c : Cause} (h : 0x100000 ≤ c.off) : s.MemWork (s.setCause c) :=
  ⟨(State.setCause_kept c hs).inv, by rw [State.setCause_fw], fun _ ho => State.setCause_reg_other hs (Nat.ne_of_lt (Nat.lt_of_lt_of_le ho h))⟩

theorem State.report_memWork (code source detail : Nat) : s.MemWork (s.report code source detail) := by
  have hc := State.count_memWork hs (f := EVT_DROPPED_COUNT (evClass code)) 1 (show 0x100000 ≤ 0x180000 + 0x10 + _ * 4 by omega)
  have hqueued (q : List Report) : s.MemWork { s with log := { s.log with reports := q } } := .of_regs_eq (State.setLog_inv hs _) rfl rfl
  exact (hqueued _).ite (hc.trans (State.setCause_memWork hc.inv (by decide)))

/-! ### Densum -/

theorem State.dsmStoreAll_memWork (a : Nat) (d : List (Option Byte)) : s.MemWork (s.dsmStoreAll a d) := by
  induction d generalizing s a with
  | nil => exact State.memWork_refl hs
  | cons b t ih =>
    cases b with
    | none => exact ih hs (a + 1)
    | some b =>
      have hb : s.MemWork (s.dsmStore a b) := .of_regs_eq (State.dsmStore_kept a b hs).inv rfl rfl
      exact hb.trans (ih hb.inv (a + 1))

theorem State.dirtyPage_memWork (p : Nat) : s.MemWork (s.dirtyPage p) := by
  have hi := (State.dirtyPage_kept p hs).inv
  unfold State.dirtyPage at hi ⊢
  split at hi <;> exact .of_regs_eq hi rfl rfl

theorem State.recurClearLine_memWork (a : Nat) : s.MemWork (s.recurClearLine a) := by
  unfold State.recurClearLine
  split
  case h_1 e _ =>
    have h := State.setReg_memWork hs (off := (DSM_RECUR_ADDR_LINE e).off) 0 (show 0x100000 ≤ 0x100000 + 0x800 + e * 8 by omega)
    exact h.trans (State.setReg_memWork h.inv 0 (show 0x100000 ≤ 0x100000 + 0x804 + e * 8 by omega))
  case h_2 => exact State.memWork_refl hs

theorem State.flipWritten_memWork (key bit : Nat) : s.MemWork (s.flipWritten key bit) :=
  .of_regs_eq (State.flipWritten_kept key bit hs).inv rfl rfl

theorem State.dsmSetPoison_memWork (key : Nat) (p whole : Bool) : s.MemWork (s.dsmSetPoison key p whole) :=
  .of_regs_eq (State.dsmSetPoison_kept key p whole hs).inv rfl rfl

theorem State.inject_memWork (la : Nat) (enabled : Nat → Bool) : s.MemWork (s.inject la enabled) := by
  have disarm {t : State} (h : s.MemWork t) : s.MemWork (t.wr DSM_INJECT_CTRL_ARM 0) := h.trans (State.wr_memWork h.inv 0 (by decide))
  have hflip (bit : Nat) := State.flipWritten_memWork hs (la + s.rd DSM_INJECT_CTRL_BYTE) bit
  have hrefl := State.memWork_refl hs
  have hone (i : Nat) := disarm (hflip i)
  have htwo (i j : Nat) := disarm ((hflip i).trans (State.flipWritten_memWork (hflip i).inv (la + s.rd DSM_INJECT_CTRL_BYTE) j))
  have hpoison := disarm (State.dsmSetPoison_memWork hs la true true)
  exact ((hone _).ite ((htwo _ _).ite (hpoison.ite hrefl))).ite hrefl

theorem State.dsmRawWrite_memWork (a : Nat) (d : List (Option Byte)) (poison : Bool) : s.MemWork (s.dsmRawWrite a d poison) := by
  unfold State.dsmRawWrite
  extract_lets la whole stored dirty cleared
  have hstored : s.MemWork stored := by
    have hall := State.dsmStoreAll_memWork hs a d
    have hpoison := State.dsmSetPoison_memWork hall.inv la poison whole
    exact (hall.trans hpoison).trans (.of_regs_eq (State.dropBack_kept la hpoison.inv).inv rfl rfl)
  have hdirty : s.MemWork dirty := hstored.trans (State.dirtyPage_memWork hstored.inv _)
  have hcleared : s.MemWork cleared := (hdirty.trans (State.recurClearLine_memWork hdirty.inv _)).ite hdirty
  exact hcleared.trans (State.inject_memWork hcleared.inv _ _)

theorem State.dsmPermErr_memWork (req a : Nat) : s.MemWork (s.dsmPermErr req a) := by
  have hc := State.count_memWork hs (f := DSM_PERM_ERR_COUNT) 1 (by decide)
  have hcause := hc.trans (State.setCause_memWork hc.inv (c := causeDsm 4) (Nat.le_add_right 0x100000 0x40))
  exact hcause.trans (State.report_memWork hcause.inv _ _ _)

theorem State.dsmWriteLine_memWork (req a : Nat) (d : List (Option Byte)) (poison : Bool) : s.MemWork (s.dsmWriteLine req a d poison).2 := by
  rw [State.dsmWriteLine]
  split
  · exact State.dsmRawWrite_memWork hs _ _ _
  · exact State.dsmPermErr_memWork hs _ _

/-! ### DDR5 -/

theorem State.setChan_memWork (c : Nat) (f : DdrChan → DdrChan) : s.MemWork (s.setChan c f) :=
  .of_regs_eq (State.setChan_kept c f hs).inv rfl rfl

theorem State.countDmc_memWork {f : Fld} {c r : Nat} (h : f.off = 0x110000 + c * 0x4000 + r) : s.MemWork (s.count f 1) :=
  State.count_memWork hs 1 (by omega)

theorem State.causeDmc_memWork (c b : Nat) : s.MemWork (s.setCause (causeDmc c b)) :=
  State.setCause_memWork hs (show 0x100000 ≤ 0x110180 + c * 0x4000 by omega)

theorem State.ddrTouch_memWork (c : Nat) : s.MemWork (s.ddrTouch c) := by
  have h := State.wr_memWork hs (f := DMC_STATUS_SELF_REFRESH c) 0 (show 0x100000 ≤ 0x110000 + c * 0x4000 + 4 by omega)
  exact h.trans (State.setChan_memWork h.inv _ _)

theorem State.mitigateOwed_memWork (c bank : Nat) : s.MemWork (s.mitigateOwed c bank) := by
  rw [State.mitigateOwed]
  split
  · have h := State.setChan_memWork hs c fun x => { x with
      mitigate := x.mitigate.filter fun m => m.1 ≠ bank
      taken := (bank, s.now + 2 * s.rd (DMC_TRC_NS c)) :: x.taken.filter fun e => e.1 ≠ bank }
    have hc := h.trans (State.countDmc_memWork h.inv (f := DMC_MITIGATIONS_COUNT c) rfl)
    exact hc.trans (.of_regs_eq (State.emit_kept _ hc.inv).inv rfl rfl)
  · exact State.memWork_refl hs

theorem State.beActivate_memWork (c r : Nat) (p : DdrPlace) : s.MemWork (s.beActivate c r p) := by
  unfold State.beActivate
  extract_lets key a hit t t'
  have h : s.MemWork t' := State.setChan_memWork hs _ _
  refine .ite ?_ h
  have hcut := h.trans (State.setChan_memWork h.inv c fun x => { x with cuts := (r, t'.now + 1000000) :: x.cuts.filter fun e => e.1 ≠ r })
  have hcount := hcut.trans (State.countDmc_memWork hcut.inv (f := DMC_BE_CUTS_COUNT c) rfl)
  have hcause := hcount.trans (State.causeDmc_memWork hcount.inv c 3)
  exact hcause.trans (State.report_memWork hcause.inv _ _ _)

theorem State.activate_memWork (c : Nat) (who : DdrWho) (line : Nat) : s.MemWork (s.activate c who line) := by
  unfold State.activate
  extract_lets p owed taken
  have howed : s.MemWork owed := State.mitigateOwed_memWork hs _ _
  have htaken : s.MemWork taken := howed.trans (State.setChan_memWork howed.inv _ _)
  cases who with
  | rt => exact htaken.trans (.of_regs_eq (State.rtActivate_kept _ _ htaken.inv).inv rfl rfl)
  | be r => exact htaken.trans (State.beActivate_memWork htaken.inv _ _ _)

theorem State.setLinePoison_memWork (line : Nat) (p : Bool) : s.MemWork (s.setLinePoison line p) :=
  .of_regs_eq (State.setLinePoison_kept line p hs).inv rfl rfl

theorem State.setBytes_memWork (a : Nat) (d : List Byte) : s.MemWork (s.setBytes a d) :=
  .of_regs_eq (State.setBytes_inv hs a d) (by rw [State.setBytes_eq]) (by rw [State.setBytes_eq])

theorem State.lineStore_memWork (c line : Nat) (d : List Byte) (p : Bool) : s.MemWork (s.lineStore c line d p) := by
  unfold State.lineStore
  extract_lets without good rest
  have hgood : s.MemWork good := State.setChan_memWork hs _ _
  refine .ite ?_ (hgood.trans (State.setChan_memWork hgood.inv _ _))
  have hb := hgood.trans (State.setBytes_memWork hgood.inv line d)
  have hp := hb.trans (State.setLinePoison_memWork hb.inv line p)
  exact hp.trans (foldl_memWork (fun t o ht => State.setChan_memWork ht o _) _ hp.inv)

theorem State.ddrApply_memWork (c : Nat) (e : DdrEntry) : s.MemWork (s.ddrApply c e) := State.lineStore_memWork hs _ _ _ _

theorem State.ddrAhead_memWork (c : Nat) (e : DdrEntry) : s.MemWork (s.ddrAhead c e) := by
  have ha := State.ddrApply_memWork hs c e
  exact .ite (State.setChan_memWork hs _ _) (.ite (State.memWork_refl hs) (ha.trans (State.setChan_memWork ha.inv _ _)))

theorem State.ddrFlush_memWork (line : Nat) : s.MemWork (s.ddrFlush line) :=
  foldl_memWork (fun _ _ ht => foldl_memWork (fun _ _ hu => State.ddrAhead_memWork hu _ _) _ ht) _ hs

theorem State.copiesMeet_memWork (lo hi : Nat) : s.MemWork (s.copiesMeet lo hi) := by
  rw [State.copiesMeet]
  exact foldl_memWork (fun t c ht => State.setChan_memWork ht c _) _ hs

theorem State.poisonGranule_memWork (g : Nat) : s.MemWork (s.poisonGranule g) := by
  unfold State.poisonGranule
  extract_lets gone lines
  have hgone : s.MemWork gone :=
    .of_regs_eq (show gone.Inv from ⟨rfl, rfl, hs.regs, hs.live, Sparse.filter_wf _ hs.mem, hs.poisoned, hs.capture⟩) rfl rfl
  have hmarks := hgone.trans (foldl_memWork (fun t i ht => State.setLinePoison_memWork ht (g * 65536 + i * 64) true) (List.range 1024) hgone.inv)
  have hlines : s.MemWork lines := hmarks.trans (State.copiesMeet_memWork hmarks.inv _ _)
  clear_value lines
  exact hlines.trans (.of_regs_eq (State.setDdr_kept (fun d => { d with filled := g :: d.filled }) hlines.inv).inv rfl rfl)

theorem State.fillFor_memWork (who : DdrWho) (cs : List Nat) (line : Nat) : s.MemWork (s.fillFor who cs line) := by
  refine .ite ?_ (State.memWork_refl hs)
  have h := State.poisonGranule_memWork hs (line / 65536)
  cases who with
  | rt => exact h.trans (foldl_memWork (fun t c ht => State.countDmc_memWork ht (f := DMC_FILL_STALL_COUNT c) rfl) cs h.inv)
  | be => exact h

theorem State.ceDev_memWork (c : Nat) (p : DdrPlace) (i synd : Nat) : s.MemWork (s.ceDev c p i synd) := by
  unfold State.ceDev
  extract_lets d counted th
  have hcounted : s.MemWork counted := by
    have h1 := State.countDmc_memWork hs (f := DMC_CE_LINES_COUNT c) rfl
    have h2 := h1.trans (State.count_memWork h1.inv (f := DMC_CE_DEV_COUNT c d) 1
      (show 0x100000 ≤ 0x110000 + c * 0x4000 + 0x120 + d * 4 by omega))
    exact h2.trans (State.causeDmc_memWork h2.inv c 0)
  refine .ite ?_ hcounted
  have h1 := hcounted.trans (State.setChan_memWork hcounted.inv c fun x => { x with weak := d :: x.weak })
  have h2 := h1.trans (State.causeDmc_memWork h1.inv c 4)
  exact h2.trans (State.report_memWork h2.inv _ _ _)

theorem State.ddrCheck_memWork (c line : Nat) (data : List Byte) (poison : Bool) (q : DdrQuality) :
    s.MemWork (s.ddrCheck c line data poison q).2 := by
  have hpoison := State.countDmc_memWork hs (f := DMC_POISON_RD_COUNT c) rfl
  unfold State.ddrCheck
  cases q with
  | clean =>
    cases poison with
    | false => exact State.memWork_refl hs
    | true => exact hpoison
  | oneDevice i synd =>
    cases poison with
    | false => exact State.ceDev_memWork hs _ _ _ _
    | true => exact hpoison
  | uncorrectable bad d1 d2 synd good =>
    dsimp only
    rw [apply_ite Prod.snd]
    refine .ite ?_ ?_
    · have h1 := State.ddrTouch_memWork hs (partner c)
      have h2 := h1.trans (State.countDmc_memWork h1.inv (f := DMC_MIRROR_FIX_COUNT c) rfl)
      exact h2.trans (State.report_memWork h2.inv _ _ _)
    · have h1 := State.countDmc_memWork hs (f := DMC_UE_LINES_COUNT c) rfl
      have h2 := h1.trans (State.causeDmc_memWork h1.inv c 1)
      have h3 := h2.trans (State.setChan_memWork h2.inv c fun x => { x with badSince := true })
      exact h3.trans (State.report_memWork h3.inv _ _ _)

theorem State.ddrMerge_memWork (c : Nat) (e : DdrEntry) : s.MemWork (s.ddrMerge c e) := by
  unfold State.ddrMerge
  extract_lets opened l k
  have hopened : s.MemWork opened := by
    have h := State.countDmc_memWork hs (f := DMC_MERGES_COUNT c) rfl
    exact h.trans (State.activate_memWork h.inv _ _ _)
  have hk := hopened.trans (State.ddrCheck_memWork hopened.inv c e.line l.1 l.2 (opened.quality c e.line))
  have ha := hk.trans (State.activate_memWork hk.inv c (mergeWho e.who) e.line)
  exact ha.trans (State.lineStore_memWork ha.inv _ _ _ _)

theorem State.ddrWriteLine_memWork (who : DdrWho) (a : Nat) (d : List (Option Byte)) (poison : Bool) :
    s.MemWork (s.ddrWriteLine who a d poison).2 := by
  unfold State.ddrWriteLine
  extract_lets line cs filled whole e
  split
  · exact State.memWork_refl hs
  · have hf := State.ddrFlush_memWork hs line
    have ht := hf.trans (foldl_memWork (fun t c ht => State.ddrTouch_memWork ht c) cs hf.inv)
    have hfilled : s.MemWork filled := ht.trans (State.fillFor_memWork ht.inv who cs line)
    refine hfilled.trans (foldl_memWork (fun t c ht => .ite ?_ (State.ddrMerge_memWork ht c e)) cs hfilled.inv)
    have ha := State.activate_memWork ht c who line
    exact ha.trans (State.ddrApply_memWork ha.inv c e)

/-! ### Writes of bytes -/

theorem State.lineWriteAs_memWork (who : DdrWho) (req a : Nat) (d : List (Option Byte)) (poison : Bool) :
    s.MemWork (s.lineWriteAs who req a d poison).2 := by
  unfold State.lineWriteAs
  split
  · exact State.dsmWriteLine_memWork hs _ _ _ _
  · split
    · have h := State.setBytes_memWork hs a ((List.range d.length).map fun i => (d.getD i none).getD (s.byte (a + i)))
      exact h.trans (State.setLinePoison_memWork h.inv _ _)
    · exact State.ddrWriteLine_memWork hs _ _ _ _

theorem State.memWriteAs_memWork (who : DdrWho) (req a : Nat) (d : List Byte) (poison : Bool) : s.MemWork (s.memWriteAs who req a d poison).2 := by
  rw [State.memWriteAs]
  refine foldl2_memWork (fun y x hy => ?_) _ (y := (false, s)) hs
  exact State.lineWriteAs_memWork hy who req x.1 (x.2.map some) poison

theorem State.fwWrite_memWork (a : Nat) (d : List Byte) : s.MemWork (s.fwWrite a d) := State.memWriteAs_memWork hs _ _ _ _ _

end

end Sys2Proof.Machine

namespace Sys2Proof.Machine

/-! ### The service of a command (R75 to R80) -/

/-- Each row of a mailbox command but FW_STAGE serves its code, which the table has. -/
theorem exec_served {i : Instr} {code : Nat} (hi : codeOf i = some code) (hc : code ≠ 0x0A10) :
    (cmdTable.lookup code).isSome = true ∧ ∃ body, ∀ s, exec i s = .next (s.serve code body) := by
  unfold codeOf at hi
  split at hi <;> cases hi
  case h_48 => exact absurd rfl hc
  all_goals exact ⟨by decide, _, fun _ => rfl⟩

section
variable {s : State} {code : Nat} {c : FwCmd} {rest : List FwCmd} {body : FwCmd → State → State}

/-- A command of the table waits for its own row. -/
theorem State.serve_other (hq : s.fw.queue = c :: rest) (hk : (cmdTable.lookup c.cmd).isSome = true)
    (hc : c.cmd ≠ code) : s.serve code body = s := by
  simp only [State.serve, hq]
  rw [hk, if_pos (by simp [hc])]

variable (hs : s.serving = true) (hq : s.fw.queue = c :: rest)
include hs hq

/-- A command whose record is DONE is answered from it. -/
theorem State.serve_replay (hc : c.cmd = code ∨ (cmdTable.lookup c.cmd).isSome = false) {st : Nat} {resp : List Byte} (hr : s.replayOf c = some (st, resp)) :
    s.serve code body = (({ s with fw := { s.fw with queue := rest } }).count MBX_REPLAYS_COUNT 1).deliver c st resp := by
  have hmine : ((cmdTable.lookup c.cmd).isSome && decide (c.cmd ≠ code)) = false := by
    rcases hc with hc | hc <;> simp [hc]
  simp only [State.serve, hq, hs, hmine, hr, Bool.not_true, Bool.false_or, Bool.false_eq_true, if_false]

theorem State.serve_unknown (hr : s.replayOf c = none) (hk : (cmdTable.lookup c.cmd).isSome = false) :
    s.serve code body = (s.begun c rest).finish c stBAD_COMMAND [] := by
  simp only [State.serve, hq, hs, hk, hr, Bool.not_true, Bool.not_false, Bool.false_and, Bool.or_self, Bool.false_eq_true, if_false, if_true]

theorem State.serve_badLength (hc : c.cmd = code) (hr : s.replayOf c = none) (hk : (cmdTable.lookup c.cmd).isSome = true)
    (hl : lenMax c.src < c.len ∨ lenOk c.cmd c.len c.payload = false) :
    ∃ resp, s.serve code body = (s.begun c rest).finish c stBAD_LENGTH resp := by
  refine ⟨if c.cmd = 0x0231 then [] else zeroResp c.cmd [], ?_⟩
  simp only [State.serve, hq, hs, hk, hr]
  rw [if_neg (by simp [hc]), if_neg (by simp), if_pos (by simpa using hl)]

end

theorem State.replayOf_none {s : State} {c : FwCmd}
    (h : ∀ r, s.seqRec c = some r → r.cmd = c.cmd → r.seq = c.seq → r.done = none ∨ r.unheard = true) : s.replayOf c = none := by
  rw [State.replayOf]
  split
  case h_1 r hr =>
    split
    case isTrue hm =>
      obtain ⟨hcmd, hseq, hheard⟩ := hm
      exact (h r hr hcmd hseq).resolve_right (by simp [hheard])
    case isFalse => rfl
  case h_2 => rfl

/-! ### The completion of a host mailbox's command -/

section
variable {s : State}

theorem State.rd_testBit (s : State) (f : Fld) (i : Nat) : (s.rd f).testBit i = (decide (i < f.width) && (s.reg f.off).getLsbD (f.lsb + i)) := by
  rw [State.rd, Fld.get_testBit, BitVec.testBit_toNat]

theorem State.postHost_fw (hs : s.Inv) (n : Fin 16) (c : FwCmd) (st : Nat) (resp : List Byte) : (s.postHost n c st resp).fw = s.fw := by
  rw [State.postHost]
  simp only [State.setCause_fw, State.wr_fw]
  exact (State.fwWrite_memWork hs _ _).fw

/-- A cause sets its own bit of its register. -/
theorem State.setCause_reg_same (hs : s.Inv) (c : Cause) : (s.setCause c).reg c.off = s.reg c.off ||| BitVec.ofNat 32 (2 ^ c.bit) := by
  rw [State.reg, State.setCause_regs, ← State.reg, State.setReg_reg_same hs]

theorem State.setCause_getLsbD (hs : s.Inv) (c : Cause) {i : Nat} (hi : i < 32) :
    ((s.setCause c).reg c.off).getLsbD i = ((s.reg c.off).getLsbD i || decide (i = c.bit)) := by
  rw [State.setCause_reg_same hs, BitVec.getLsbD_or, BitVec.getLsbD_ofNat, Nat.testBit_two_pow]
  simp [hi, eq_comm]

/-- A completion sets the mailbox's DONE bit and leaves the others. -/
theorem State.postHost_done (hs : s.Inv) (n : Fin 16) (c : FwCmd) (st : Nat) (resp : List Byte) (m : Fin 16) :
    ((s.postHost n c st resp).rd MBX_DONE_HOST).testBit m = ((s.rd MBX_DONE_HOST).testBit m || decide (m = n)) := by
  rw [State.postHost]
  generalize leBytes 2 c.cmd ++ leBytes 2 c.seq ++ leBytes 2 resp.length ++ leBytes 2 st ++ resp = d
  have hw := State.fwWrite_memWork hs (mbxAddr n) d
  have hb := State.wr_inv hw.inv MBX_BUSY_HOST ((s.fwWrite (mbxAddr n) d).rd MBX_BUSY_HOST &&& (0xFFFF ^^^ 2 ^ n.val))
  rw [State.rd_testBit, State.rd_testBit]
  have hbit := State.setCause_getLsbD hb (causeMbx n) (i := MBX_DONE_HOST.lsb + m.val) (show 0 + m.val < 32 by omega)
  rw [show (causeMbx n).off = MBX_DONE_HOST.off from rfl, State.wr_reg_other hw.inv _ _ (by decide), hw.reg _ (by decide)] at hbit
  rw [hbit]
  simp [MBX_DONE_HOST, causeMbx, Fin.ext_iff]

/-- It clears the mailbox's BUSY bit and leaves the others. -/
theorem State.postHost_busy (hs : s.Inv) (n : Fin 16) (c : FwCmd) (st : Nat) (resp : List Byte) (m : Fin 16) :
    ((s.postHost n c st resp).rd MBX_BUSY_HOST).testBit m = ((s.rd MBX_BUSY_HOST).testBit m && decide (m ≠ n)) := by
  rw [State.postHost]
  generalize leBytes 2 c.cmd ++ leBytes 2 c.seq ++ leBytes 2 resp.length ++ leBytes 2 st ++ resp = d
  have hw := State.fwWrite_memWork hs (mbxAddr n) d
  rw [State.setCause_rd_other (State.wr_inv hw.inv _ _) (show MBX_BUSY_HOST.off ≠ 0x10004 by decide),
    State.wr_rd_same hw.inv _ _ (by decide), hw.rd (by decide)]
  have hbit : Nat.testBit 0xFFFF m.val = true := by
    rw [show (0xFFFF : Nat) = 2 ^ 16 - 1 by rfl, Nat.testBit_two_pow_sub_one]
    simp
  rw [Nat.testBit_mod_two_pow, Nat.testBit_and, Nat.testBit_xor, hbit, Nat.testBit_two_pow]
  simp [MBX_BUSY_HOST, Fin.ext_iff, eq_comm]

variable {n : Fin 16} {c : FwCmd} (hs : s.Inv) (hc : c.src = .host n)
include hs hc

/-- What a completion is for a host mailbox's command. -/
theorem State.finish_host (st : Nat) (resp : List Byte) : ∃ u : State, u.Inv ∧ u.regs = s.regs ∧
    u.fw.records = (if s.recOf c then (s.setRec c ⟨c.cmd, c.seq, some (st, resp), s.took c, false⟩).fw.records else s.fw.records) ∧
    s.finish c st resp = u.postHost n c st resp := by
  rw [State.finish, State.deliver, hc]
  have hk : (if s.recOf c = true then s.setRec c ⟨c.cmd, c.seq, some (st, resp), s.took c, false⟩ else s).Inv := by
    split
    · exact (State.setRec_kept _ _ hs).inv
    · exact hs
  refine ⟨_, ?_, ?_, ?_, rfl⟩
  · exact ⟨rfl, rfl, hk.regs, hk.live, hk.mem, hk.poisoned, hk.capture⟩
  · split <;> rfl
  · split <;> rfl

theorem State.finish_host_spec (st : Nat) (resp : List Byte) : let t := s.finish c st resp
    t.seqRec c = (if s.recOf c then some ⟨c.cmd, c.seq, some (st, resp), s.took c, false⟩ else s.seqRec c) ∧
    (t.rd MBX_DONE_HOST).testBit n = true ∧ (t.rd MBX_BUSY_HOST).testBit n = false ∧
    ∀ m : Fin 16, m ≠ n → (t.rd MBX_DONE_HOST).testBit m = (s.rd MBX_DONE_HOST).testBit m ∧
      (t.rd MBX_BUSY_HOST).testBit m = (s.rd MBX_BUSY_HOST).testBit m := by
  obtain ⟨u, hu, hr, hrec, he⟩ := State.finish_host hs hc st resp
  have hrd (f : Fld) : u.rd f = s.rd f := by rw [State.rd, State.reg, hr, ← State.reg, State.rd]
  intro t
  refine ⟨?_, ?_, ?_, fun m hm => ⟨?_, ?_⟩⟩
  · rw [State.seqRec, show t = _ from he, State.postHost_fw hu, hrec]
    split
    · exact State.seqRec_setRec s c _
    · rfl
  · rw [show t = _ from he, State.postHost_done hu]
    simp
  · rw [show t = _ from he, State.postHost_busy hu]
    simp
  · rw [show t = _ from he, State.postHost_done hu, hrd]
    simp [hm]
  · rw [show t = _ from he, State.postHost_busy hu, hrd]
    simp [hm]

end

/-- Settles O25: the service by what the queue's front is; then the completion of a host mailbox's command. -/
theorem commandService : Obligations.CommandService := by
  constructor
  · intro i code c rest s hi hcode hs hq q
    obtain ⟨hknown, body, hexec⟩ := exec_served hi hcode
    refine ⟨fun hk hc => ?_, fun hc => ⟨fun st resp took hr => ?_, fun hr => ⟨fun hk => ?_, fun hcmd hl => ?_⟩⟩⟩
    · rw [hexec, State.serve_other hq hk hc]
    · rw [hexec, State.serve_replay hs hq hc (st := st) (resp := resp) (by simp [State.replayOf, hr])]
    · rw [hexec, State.serve_unknown hs hq (State.replayOf_none hr) hk]
    · obtain ⟨resp, he⟩ := State.serve_badLength (body := body) hs hq hcmd (State.replayOf_none hr) (hcmd ▸ hknown) (hcmd ▸ hl)
      exact ⟨resp, by rw [hexec, he]⟩
  · exact fun n c st resp s hs hc => State.finish_host_spec hs hc st resp

end Sys2Proof.Machine

/-! ## The duplex control cores (R97 to R103) -/

namespace Sys2Proof.Machine

section
variable {s : State}

/-- A change of the standby's state changes registers and sends messages only. -/
theorem State.setStandby_eq (st : Nat) :
    s.setStandby st = { s with regs := (s.setStandby st).regs, out := (s.setStandby st).out, host := (s.setStandby st).host } := by
  rw [State.setStandby]
  split
  · rfl
  · rw [State.setCause_eq]
    rfl

theorem State.setStandby_inv (hs : s.Inv) (st : Nat) : (s.setStandby st).Inv := (State.setStandby_kept st hs).inv

theorem State.setStandby_rd_other (hs : s.Inv) (st : Nat) {f : Fld} (hf : f.off ≠ 0x30) (hc : f.off ≠ 0x58) :
    (s.setStandby st).rd f = s.rd f := by
  have h1 := State.wr_inv hs GLB_CORE_STATUS_STANDBY_STATE st
  have h : ((s.wr GLB_CORE_STATUS_STANDBY_STATE st).wr GLB_CORE_STATUS_DUPLEX (b2n (st = sbREADY))).rd f = s.rd f := by
    rw [State.wr_rd_other h1 _ _ _ hf, State.wr_rd_other hs _ _ _ hf]
  rw [State.setStandby]
  split
  · exact h
  · rw [State.setCause_rd_other (State.wr_inv h1 _ _) hc, h]

/-- The standby's state is set, and DUPLEX is whether it is READY; ACTIVE stays. -/
theorem State.setStandby_spec (hs : s.Inv) {st : Nat} (hst : st < 4) : (s.setStandby st).standby = st ∧
    (s.setStandby st).rd GLB_CORE_STATUS_DUPLEX = b2n (st = sbREADY) ∧
    (s.setStandby st).rd GLB_CORE_STATUS_ACTIVE = s.rd GLB_CORE_STATUS_ACTIVE := by
  have h1 := State.wr_inv hs GLB_CORE_STATUS_STANDBY_STATE st
  have h2 := State.wr_inv h1 GLB_CORE_STATUS_DUPLEX (b2n (st = sbREADY))
  have hrd {f : Fld} (hf : f.off ≠ 0x58) : (s.setStandby st).rd f =
      ((s.wr GLB_CORE_STATUS_STANDBY_STATE st).wr GLB_CORE_STATUS_DUPLEX (b2n (st = sbREADY))).rd f := by
    rw [State.setStandby]
    split
    · rfl
    · exact State.setCause_rd_other h2 hf
  refine ⟨?_, ?_, ?_⟩
  · rw [State.standby, hrd (by decide), State.wr_rd_apart h1 _ (by decide) (by decide), State.wr_rd_same hs _ _ (by decide)]
    exact Nat.mod_eq_of_lt hst
  · rw [hrd (by decide), State.wr_rd_same h1 _ _ (by decide)]
    exact Nat.mod_eq_of_lt (by cases decide (st = sbREADY) <;> simp [b2n, GLB_CORE_STATUS_DUPLEX])
  · rw [hrd (by decide), State.wr_rd_apart h1 _ (by decide) (by decide), State.wr_rd_apart hs _ (by decide) (by decide)]

/-! ### The failure of the active core (R97, R98, R100) -/

/-- What every failure does first. -/
def State.coreStops (s : State) : State := (s.commitStop.wr GLB_CORE_CTRL_SWITCH 0).setDup fun d => { d with lastHb := s.now }

theorem State.coreStops_eq (s : State) : s.coreStops = { s with
    regs := s.coreStops.regs
    nv := { s.nv with busy := none, queue := s.nv.busy.toList ++ s.nv.queue }
    duplex := { s.duplex with lastHb := s.now } } := rfl

theorem State.coreStops_inv (hs : s.Inv) : s.coreStops.Inv :=
  (State.setDup_kept _ (State.wr_kept _ _ (State.commitStop_kept hs))).inv

theorem State.coreStops_rd (hs : s.Inv) : s.coreStops.rd GLB_CORE_CTRL_SWITCH = 0 ∧ s.coreStops.standby = s.standby ∧
    s.coreStops.rd GLB_CORE_STATUS_ACTIVE = s.rd GLB_CORE_STATUS_ACTIVE := by
  have hc : s.commitStop.Inv := (State.commitStop_kept hs).inv
  have hn : ({ s with nv := { s.nv with busy := none, queue := s.nv.busy.toList ++ s.nv.queue } } : State).Inv :=
    ⟨rfl, rfl, hs.regs, hs.live, hs.mem, hs.poisoned, hs.capture⟩
  have hrd {f : Fld} (hf : f.off = 0x30) : s.coreStops.rd f = s.rd f := by
    rw [State.coreStops, State.setDup_rd, State.wr_rd_other hc _ _ _ (by rw [hf]; decide), State.commitStop,
      State.wr_rd_other hn _ _ _ (by rw [hf]; decide)]
    rfl
  exact ⟨State.wr_rd_same hc _ _ (by decide), hrd rfl, hrd rfl⟩

/-- What the failure of the active core leaves beside who takes over. -/
structure State.CoreDown (s t : State) : Prop where
  down : t.duplex.fwUp = false
  lapsed : t.duplex.handoverReq = false
  switch : t.rd GLB_CORE_CTRL_SWITCH = 0
  mem : t.mem = s.mem
  fw : t.fw = s.fw
  hb : t.duplex.lastHb = s.now
  nv : t.nv = { s.nv with busy := none, queue := s.nv.busy.toList ++ s.nv.queue }

/-- With a READY standby it becomes the active core and the failed one is HELD. -/
theorem State.coreFailed_takeover (hs : s.Inv) (hr : s.standby = sbREADY) : s.CoreDown s.coreFailed ∧
    s.coreFailed.rd GLB_CORE_STATUS_ACTIVE = 1 - s.rd GLB_CORE_STATUS_ACTIVE ∧ s.coreFailed.standby = sbHELD ∧
    s.coreFailed.rd GLB_CORE_STATUS_DUPLEX = 0 ∧ s.coreFailed.duplex.resume = some .takeover ∧ s.coreFailed.log = s.log := by
  have hi := State.coreStops_inv hs
  obtain ⟨hswitch, hstandby, hactive⟩ := State.coreStops_rd hs
  have hw := State.wr_inv hi GLB_CORE_STATUS_ACTIVE (1 - s.coreStops.rd GLB_CORE_STATUS_ACTIVE)
  have he : s.coreFailed = ((s.coreStops.wr GLB_CORE_STATUS_ACTIVE (1 - s.coreStops.rd GLB_CORE_STATUS_ACTIVE)).setStandby sbHELD).setDup
      fun d => { d with fwUp := false, resume := some .takeover, handoverReq := false } := by
    rw [State.coreFailed]
    exact if_pos (hstandby.trans hr)
  obtain ⟨hheld, hdup, hact⟩ := State.setStandby_spec hw (st := sbHELD) (by decide)
  have hother : ((s.coreStops.wr GLB_CORE_STATUS_ACTIVE (1 - s.coreStops.rd GLB_CORE_STATUS_ACTIVE)).setStandby sbHELD).rd GLB_CORE_CTRL_SWITCH = 0 := by
    rw [State.setStandby_rd_other hw _ (by decide) (by decide), State.wr_rd_other hi _ _ _ (by decide), hswitch]
  have heq := State.setStandby_eq (s := s.coreStops.wr GLB_CORE_STATUS_ACTIVE (1 - s.coreStops.rd GLB_CORE_STATUS_ACTIVE)) sbHELD
  rw [State.wr_rd_same hi _ _ (by decide)] at hact
  have hmod : (1 - s.coreStops.rd GLB_CORE_STATUS_ACTIVE) % 2 ^ GLB_CORE_STATUS_ACTIVE.width = 1 - s.rd GLB_CORE_STATUS_ACTIVE := by
    rw [hactive]
    exact Nat.mod_eq_of_lt (show 1 - _ < 2 by omega)
  rw [he]
  refine ⟨⟨rfl, rfl, hother, ?_, ?_, ?_, ?_⟩, hact.trans hmod, hheld, hdup, rfl, ?_⟩ <;>
    rw [heq] <;> rfl

/-- Without one the active core restarts alone, which is reported. -/
theorem State.coreFailed_simplex (hs : s.Inv) (hr : s.standby ≠ sbREADY) : s.CoreDown s.coreFailed ∧
    s.coreFailed.rd GLB_CORE_STATUS_ACTIVE = s.rd GLB_CORE_STATUS_ACTIVE ∧ s.coreFailed.duplex.resume = some .simplex ∧
    (s.log.reports.length < 64 → s.coreFailed.log.reports = s.log.reports ++ [⟨EV_SIMPLEX_RESTART, src 1 0, 0⟩]) := by
  have hi := State.coreStops_inv hs
  obtain ⟨hswitch, hstandby, hactive⟩ := State.coreStops_rd hs
  obtain ⟨v, hv, hveq, hvswitch, hvactive, he⟩ : ∃ v : State, v.Inv ∧
      v = { s.coreStops with regs := v.regs, out := v.out, host := v.host } ∧ v.rd GLB_CORE_CTRL_SWITCH = 0 ∧
      v.rd GLB_CORE_STATUS_ACTIVE = s.rd GLB_CORE_STATUS_ACTIVE ∧ s.coreFailed =
        (v.setDup fun d => { d with fwUp := false, resume := some .simplex, handoverReq := false }).report EV_SIMPLEX_RESTART (src 1 0) 0 := by
    have hne : s.coreStops.standby ≠ sbREADY := fun h => hr (hstandby ▸ h)
    by_cases hy : s.coreStops.standby = sbSYNCING
    · obtain ⟨-, -, hact⟩ := State.setStandby_spec hi (st := sbHELD) (by decide)
      refine ⟨s.coreStops.setStandby sbHELD, State.setStandby_inv hi _, State.setStandby_eq _, ?_, hact.trans hactive, ?_⟩
      · rw [State.setStandby_rd_other hi _ (by decide) (by decide), hswitch]
      · rw [State.coreFailed]
        exact (if_neg hne).trans (congrArg (fun v : State => (v.setDup fun d =>
          { d with fwUp := false, resume := some .simplex, handoverReq := false }).report EV_SIMPLEX_RESTART (src 1 0) 0) (if_pos hy))
    · refine ⟨s.coreStops, hi, rfl, hswitch, hactive, ?_⟩
      rw [State.coreFailed]
      exact (if_neg hne).trans (congrArg (fun v : State => (v.setDup fun d =>
          { d with fwUp := false, resume := some .simplex, handoverReq := false }).report EV_SIMPLEX_RESTART (src 1 0) 0) (if_neg hy))
  have hd : (v.setDup fun d => { d with fwUp := false, resume := some .simplex, handoverReq := false }).Inv := (State.setDup_kept _ hv).inv
  have hrep := State.report_memWork hd EV_SIMPLEX_RESTART (src 1 0) 0
  rw [he]
  refine ⟨⟨?_, ?_, ?_, ?_, ?_, ?_, ?_⟩, ?_, ?_, fun hfull => ?_⟩
  · rw [State.report_duplex]; rfl
  · rw [State.report_duplex]; rfl
  · rw [hrep.rd (by decide)]; exact hvswitch
  · rw [State.report_mem, State.setDup_mem, hveq]; rfl
  · rw [State.report_fw, State.setDup_fw, hveq]; rfl
  · rw [State.report_duplex, hveq]; rfl
  · rw [State.report_nv, State.setDup_nv, hveq]; rfl
  · rw [hrep.rd (by decide)]; exact hvactive
  · rw [State.report_duplex]; rfl
  · have hlog : v.log = s.log := by rw [hveq]; rfl
    rw [State.report, if_pos (by rw [State.setDup_log, hlog]; exact hfull), State.setDup_log, hlog]

end

/-- Settles O27: a heartbeat that is in time; a failure by whether the standby is READY. -/
theorem coreFailure : Obligations.CoreFailure := by
  intro s hs hruns
  constructor
  · intro h
    have hover : s.hbOver = false := by
      rcases h with h | h
      · simp [State.hbOver, h]
      · simp [State.hbOver, Nat.not_lt.mpr h]
    simp [exec, execHeartbeat, hover, hruns]
  · intro i hi
    have he : exec i s = .next s.coreFailed := by
      rcases hi with rfl | ⟨hi, hres, hlate⟩
      · simp [exec, execCoreFault, hruns]
      · have hover : s.hbOver = true := by simp [State.hbOver, hruns, hres, hlate]
        rcases hi with rfl | rfl
        · simp [exec, execHbTimeout, hover]
        · simp [exec, execHeartbeat, hover]
    refine ⟨_, he, ?_⟩
    by_cases hr : s.standby = sbREADY
    · obtain ⟨⟨h1, h2, h3, h4, h5, h6, h7⟩, hready⟩ := State.coreFailed_takeover hs hr
      exact ⟨h1, h2, h3, fun _ => hready, fun h => absurd hr h, h4, h5, h6, h7⟩
    · obtain ⟨⟨h1, h2, h3, h4, h5, h6, h7⟩, halone⟩ := State.coreFailed_simplex hs hr
      exact ⟨h1, h2, h3, fun h => absurd h hr, fun _ => halone, h4, h5, h6, h7⟩

/-! ### The standby's way back (R99, R101, R103) -/

section
variable {s : State}

theorem State.wake_none (hw : s.fw.waiting = []) (f : Waiting → Option (Nat × List Byte)) :
    s.wake f = { s with fw := { s.fw with waiting := [] } } := by
  simp [State.wake, hw]

/-- Where nothing waits a wake leaves the registers. -/
theorem State.wake_none_rd (hw : s.fw.waiting = []) (f : Waiting → Option (Nat × List Byte)) (g : Fld) : (s.wake f).rd g = s.rd g := by
  rw [State.wake_none hw]
  rfl

theorem State.setStandby_waiting (st : Nat) : (s.setStandby st).fw = s.fw := by rw [State.setStandby_eq]

theorem State.setSwap_none (h : s.power.swap = none) : s.setSwap none = s := by
  rw [State.setSwap, ← h]

variable (hs : s.Inv) (hv : s.serving = true)
include hs hv

theorem standbySelftestFails (hy : s.standby = sbSYNCING) (hno : s.duplex.selftestOk = false) (hw : s.fw.waiting = []) :
    Runs (.standbySelftestDone false) s fun t => t.standby = sbFAILED ∧ t.rd GLB_CORE_STATUS_DUPLEX = 0 := by
  have hup : s.mainUp = true := (Bool.and_eq_true_iff.mp hv).1
  obtain ⟨hst, hd, -⟩ := State.setStandby_spec hs (st := sbFAILED) (by decide)
  have hw' : (s.setStandby sbFAILED).fw.waiting = [] := by rw [State.setStandby_waiting, hw]
  refine ⟨(s.setStandby sbFAILED).wake fun w => if w.kind = .coreRestart then some (stOK, []) else none, ?_, ?_, ?_⟩
  · simp [exec, execStandbySelftestDone, hup, hy, hno]
  · exact (State.wake_none_rd hw' _ _).trans hst
  · exact (State.wake_none_rd hw' _ _).trans hd

theorem standbyReady_spec (hy : s.standby = sbSYNCING) (hok : s.duplex.selftestOk = true) (hn : s.power.swap = none) (hw : s.fw.waiting = []) :
    Runs .standbyReady s fun t => t.standby = sbREADY ∧ t.rd GLB_CORE_STATUS_DUPLEX = 1 := by
  obtain ⟨hst, hd, -⟩ := State.setStandby_spec hs (st := sbREADY) (by decide)
  have hw' : (s.setStandby sbREADY).fw.waiting = [] := by rw [State.setStandby_waiting, hw]
  have hpow : (s.setStandby sbREADY).power = s.power := by rw [State.setStandby_eq]
  refine ⟨(s.setStandby sbREADY).wake fun w => if w.kind = .coreRestart then some (stOK, []) else none, ?_, ?_, ?_⟩
  · simp [exec, execStandbyReady, State.swapOver, hn, hv, hy, hok, State.wake_none hw', hpow]
  · exact (State.wake_none_rd hw' _ _).trans hst
  · exact (State.wake_none_rd hw' _ _).trans hd

/-- A handover exchanges the roles and sets cause HANDOVER. -/
theorem handover_spec (hr : s.standby = sbREADY) (hq : s.duplex.handoverReq = true) (hn : s.power.swap = none) :
    Runs .handover s fun t => t.rd GLB_CORE_STATUS_ACTIVE = 1 - s.rd GLB_CORE_STATUS_ACTIVE ∧ t.standby = sbSYNCING ∧
      t.duplex.fwUp = false ∧ t.duplex.resume = some .handover ∧ t.duplex.handoverReq = false ∧ (t.reg 0x58).getLsbD 1 = true := by
  have h1 := State.wr_inv hs GLB_CORE_STATUS_ACTIVE (1 - s.rd GLB_CORE_STATUS_ACTIVE)
  obtain ⟨hst, -, hact⟩ := State.setStandby_spec h1 (st := sbSYNCING) (by decide)
  have h2 := State.setStandby_inv h1 sbSYNCING
  have h3 := State.wr_inv h2 GLB_CORE_CTRL_SWITCH 0
  rw [State.wr_rd_same hs _ _ (by decide)] at hact
  have hlt := s.rd_lt GLB_CORE_STATUS_ACTIVE
  have hmod : (1 - s.rd GLB_CORE_STATUS_ACTIVE) % 2 ^ GLB_CORE_STATUS_ACTIVE.width = 1 - s.rd GLB_CORE_STATUS_ACTIVE :=
    Nat.mod_eq_of_lt (show 1 - _ < 2 by omega)
  let u := (((s.wr GLB_CORE_STATUS_ACTIVE (1 - s.rd GLB_CORE_STATUS_ACTIVE)).setStandby sbSYNCING).wr GLB_CORE_CTRL_SWITCH 0).setDup fun d =>
    { d with handoverReq := false, fwUp := false, resume := some .handover, selftestOk := true }
  have hu : u.Inv := (State.setDup_kept _ h3).inv
  have hpow : u.power = s.power := by
    rw [State.setDup_power, State.wr_power, State.setStandby_eq]
    rfl
  have hrd {f : Fld} (hf : f.off = 0x30) : (u.setCause (causeCore 1)).rd f =
      ((s.wr GLB_CORE_STATUS_ACTIVE (1 - s.rd GLB_CORE_STATUS_ACTIVE)).setStandby sbSYNCING).rd f := by
    rw [State.setCause_rd_other hu (by rw [hf]; decide), State.setDup_rd, State.wr_rd_other h2 _ _ _ (by rw [hf]; decide)]
  refine ⟨u.setCause (causeCore 1), ?_, ?_, ?_, ?_, ?_, ?_, ?_⟩
  · have hswap : u.setSwap none = u := State.setSwap_none (by rw [hpow, hn])
    have hvswap : ((s.wr GLB_CORE_STATUS_ACTIVE (1 - s.rd GLB_CORE_STATUS_ACTIVE)).setStandby sbSYNCING).power.swap = none := by
      rw [State.setStandby_eq]
      exact hn
    rw [exec, execHandover, if_pos (by simp [hv, hq, hr])]
    simp only [State.wr_power, State.setDup_power, hvswap, Option.map_none, Bool.not_false]
    exact congrArg (fun v : State => Host.Outcome.next (v.setCause (causeCore 1))) hswap
  · rw [hrd rfl, hact, hmod]
  · exact (hrd rfl).trans hst
  · rw [State.setCause_duplex]; rfl
  · rw [State.setCause_duplex]; rfl
  · rw [State.setCause_duplex]; rfl
  · exact (State.setCause_getLsbD hu (causeCore 1) (i := 1) (by decide)).trans (by simp [causeCore])

end

/-- Settles O28: the self-test, READY, the handover; then the resumption by what it follows. -/
theorem standbyReturns : Obligations.StandbyReturns := by
  constructor
  · intro s hs hv
    have hup : s.mainUp = true := (Bool.and_eq_true_iff.mp hv).1
    refine ⟨fun hy hno => ⟨?_, standbySelftestFails hs hv hy hno⟩, standbyReady_spec hs hv, handover_spec hs hv⟩
    simp [exec, execStandbySelftestDone, hup, hy, hno]
  · intro s hup hn up
    have hkeep : s.swapKeep = s := by
      rw [State.swapKeep, hn]
      exact State.setSwap_none hn
    refine ⟨fun h => ?_, fun h => ?_, fun h => ?_, fun h => ?_⟩ <;>
      simp only [exec, execFirmwareResume, hup, h, hn, hkeep, Bool.not_true, Bool.false_eq_true, if_false, up]

end Sys2Proof.Machine

/-! ## Sheet ports (R301 to R313, R326 to R332) -/

namespace Sys2Proof.Machine

/-! ### Links (R309, R313) -/

section
variable {s : State}

/-- A port that is absent takes no notice. -/
theorem exec_sheetAbsent {p : Fin 16} (hp : s.nSheet ≤ p.val) (f : RxFrame) :
    ∀ i ∈ [Instr.sheetLinkUp p, .sheetLinkDown p, .loopProbe p, .sheetTransmit p, .sheetReceive p f], exec i s = .next s := by
  simp only [List.mem_cons, List.not_mem_nil, or_false, forall_eq_or_imp, forall_eq]
  have hn : ¬ p.val < s.nSheet := Nat.not_lt.mpr hp
  refine ⟨?_, ?_, ?_, ?_, ?_⟩
  · simp [exec, execSheetLinkUp, hn]
  · simp [exec, execSheetLinkDown, hn]
  · simp [exec, execLoopProbe, hn]
  · simp [exec, execSheetTransmit, hp]
  · simp [exec, execSheetReceive, hp]

/-- The registers of a port's status, all at one place. -/
theorem SP_STATUS_apart (p : Nat) : (SP_STATUS_FEC_LOCK p).Apart (SP_STATUS_LINK p) ∧ (SP_STATUS_MODULE p).Apart (SP_STATUS_LINK p) ∧
    (SP_STATUS_MODULE p).Apart (SP_STATUS_FEC_LOCK p) :=
  ⟨.inr (.inr (by simp [SP_STATUS_FEC_LOCK, SP_STATUS_LINK])), .inr (.inr (by simp [SP_STATUS_MODULE, SP_STATUS_LINK])),
    .inr (.inr (by simp [SP_STATUS_MODULE, SP_STATUS_FEC_LOCK]))⟩

theorem SP_STATUS_fits (p : Nat) : (SP_STATUS_LINK p).Fits ∧ (SP_STATUS_FEC_LOCK p).Fits ∧ (SP_STATUS_MODULE p).Fits :=
  ⟨by simp [Fld.Fits, SP_STATUS_LINK], by simp [Fld.Fits, SP_STATUS_FEC_LOCK], by simp [Fld.Fits, SP_STATUS_MODULE]⟩

/-- A cause of a port stands beside its status. -/
theorem causeSp_off_ne (p b : Nat) : (SP_STATUS_LINK p).off ≠ (causeSp p b).off :=
  show 0x140000 + p * 0x1000 + 0x30 ≠ 0x140034 + p * 0x1000 by omega

/-- Registers, then a cause: what is left of the state before. -/
theorem State.RegsOnly.setCause_eq {t : State} {l : List Nat} (h : s.RegsOnly t l) (c : Cause) :
    t.setCause c = { s with regs := (t.setCause c).regs, host := (t.setCause c).host, out := (t.setCause c).out } := by
  rw [State.setCause_eq, h.1]

theorem State.RegsOnly.setCause_reg {t : State} {l : List Nat} (h : s.RegsOnly t l) (ht : t.Inv) (c : Cause) {o : Nat} (ho : o ∉ l ++ [c.off]) :
    (t.setCause c).reg o = s.reg o := by
  rw [List.mem_append, not_or] at ho
  rw [State.setCause_reg_other ht (List.ne_of_not_mem_cons ho.2), h.2 o ho.1]

variable (hs : s.Inv) (hup : s.mainUp = true)
include hs

/-- What a link that comes up writes. -/
def State.linkRegs (s : State) (p fec : Nat) : State := ((s.wr (SP_STATUS_LINK p) 1).wr (SP_STATUS_FEC_LOCK p) fec).wr (SP_STATUS_MODULE p) 1

theorem State.linkRegs_spec (p : Nat) {fec : Nat} (hf : fec < 2) : (s.linkRegs p fec).Inv ∧ s.RegsOnly (s.linkRegs p fec) [(SP_STATUS_LINK p).off] ∧
    (s.linkRegs p fec).rd (SP_STATUS_LINK p) = 1 ∧ (s.linkRegs p fec).rd (SP_STATUS_MODULE p) = 1 ∧
    (s.linkRegs p fec).rd (SP_STATUS_FEC_LOCK p) = fec := by
  have h1 := State.wr_inv hs (SP_STATUS_LINK p) 1
  have h2 := State.wr_inv h1 (SP_STATUS_FEC_LOCK p) fec
  obtain ⟨afl, aml, amf⟩ := SP_STATUS_apart p
  obtain ⟨fl, ff, fm⟩ := SP_STATUS_fits p
  refine ⟨State.wr_inv h2 _ _, ?_, ?_, ?_, ?_⟩
  · exact (((State.wr_regsOnly hs _ _).trans (State.wr_regsOnly h1 _ _)).trans (State.wr_regsOnly h2 _ _)).mono fun o ho => by
      simpa [SP_STATUS_LINK, SP_STATUS_FEC_LOCK, SP_STATUS_MODULE] using ho
  · rw [State.linkRegs, State.wr_rd_apart h2 _ fm aml, State.wr_rd_apart h1 _ ff afl, State.wr_rd_same hs _ _ fl]
    rfl
  · rw [State.linkRegs, State.wr_rd_same h2 _ _ fm]
    rfl
  · rw [State.linkRegs, State.wr_rd_apart h2 _ fm amf, State.wr_rd_same h1 _ _ ff]
    exact Nat.mod_eq_of_lt hf

include hup

theorem sheetLinkUp_spec {p : Fin 16} (hp : p.val < s.nSheet) (hen : s.rd (SP_CTRL_EN p) = 1) (hl : s.rd (SP_STATUS_LINK p) = 0) :
    Runs (.sheetLinkUp p) s fun t =>
      t.rd (SP_STATUS_LINK p) = 1 ∧ t.rd (SP_STATUS_MODULE p) = 1 ∧
      t.rd (SP_STATUS_FEC_LOCK p) = (if s.rd (SP_CTRL_FEC p) = 1 ∧ s.rd (SP_CTRL_RATE p) = 0 then 1 else 0) ∧
      (t.reg (causeSp p 1).off).getLsbD 1 = true ∧
      (∀ o, o ∉ [(SP_STATUS_LINK p).off, (causeSp p 1).off] → t.reg o = s.reg o) ∧
      (s.rd (SP_LOOP_PERIOD p) ≠ 0 → t.sheet = s.sheet) ∧
      t = { s with regs := t.regs, host := t.host, out := t.out, sheet := t.sheet } := by
  have hrate := s.rd_lt (SP_CTRL_RATE p)
  have hfec := s.rd_lt (SP_CTRL_FEC p)
  have hb : b2n (s.flag (SP_CTRL_FEC p) && !s.flag (SP_CTRL_RATE p)) = if s.rd (SP_CTRL_FEC p) = 1 ∧ s.rd (SP_CTRL_RATE p) = 0 then 1 else 0 := by
    simp only [SP_CTRL_RATE, SP_CTRL_FEC] at hrate hfec
    have h1 : s.flag (SP_CTRL_FEC p) = decide (s.rd (SP_CTRL_FEC p) = 1) := by
      rw [Bool.eq_iff_iff, State.flag_iff s rfl, decide_eq_true_eq]
    have h2 : s.flag (SP_CTRL_RATE p) = !decide (s.rd (SP_CTRL_RATE p) = 0) := by simp [State.flag, bne]; rfl
    rw [h1, h2, Bool.not_not, b2n]
    simp only [Bool.and_eq_true, decide_eq_true_eq]
  have hbl : b2n (s.flag (SP_CTRL_FEC p) && !s.flag (SP_CTRL_RATE p)) < 2 := by rw [hb]; split <;> decide
  obtain ⟨hi, hro, hlink, hmod, hlock⟩ := State.linkRegs_spec hs p.val hbl
  have hcond : (s.mainUp && decide (p.val < s.nSheet) && s.flag (SP_CTRL_EN p) && !s.flag (SP_STATUS_LINK p)) = true := by
    simp [hup, hp, State.flag, hen, hl]
  let u := (s.linkRegs p (b2n (s.flag (SP_CTRL_FEC p) && !s.flag (SP_CTRL_RATE p)))).setCause (causeSp p 1)
  have hu : u = _ := hro.setCause_eq (causeSp p 1)
  have hrd {f : Fld} (hf : f.off = (SP_STATUS_LINK p).off) : u.rd f = (s.linkRegs p (b2n (s.flag (SP_CTRL_FEC p) && !s.flag (SP_CTRL_RATE p)))).rd f :=
    State.setCause_rd_other hi (hf ▸ causeSp_off_ne p 1)
  have hper : u.rd (SP_LOOP_PERIOD p) = s.rd (SP_LOOP_PERIOD p) := by
    refine (State.setCause_rd_other hi ?_).trans (hro.rd_eq ?_)
    · exact show 0x140000 + p.val * 0x1000 + 0x20 ≠ 0x140034 + p.val * 0x1000 by omega
    · simp only [List.mem_singleton]
      exact show 0x140000 + p.val * 0x1000 + 0x20 ≠ 0x140000 + p.val * 0x1000 + 0x30 by omega
  refine ⟨if u.rd (SP_LOOP_PERIOD p) = 0 then u.setSp (p / 2 * 2) fun x => { x with broken := none } else u, ?_, ?_⟩
  · rw [exec, execSheetLinkUp, if_pos hcond]
    rfl
  · have hsame : ∀ t : State, t = (if u.rd (SP_LOOP_PERIOD p) = 0 then u.setSp (p / 2 * 2) fun x => { x with broken := none } else u) →
        t = { u with sheet := t.sheet } := by
      rintro t rfl
      split <;> rfl
    generalize ht : (if u.rd (SP_LOOP_PERIOD p) = 0 then u.setSp (p / 2 * 2) fun x => { x with broken := none } else u) = t
    have he := hsame t ht.symm
    have hreg : ∀ o, t.reg o = u.reg o := fun o => by rw [he]; rfl
    have hrdt : ∀ f, t.rd f = u.rd f := fun f => by rw [State.rd, hreg, State.rd]
    refine ⟨?_, ?_, ?_, ?_, fun o ho => ?_, fun hne => ?_, ?_⟩
    · rw [hrdt, hrd rfl, hlink]
    · rw [hrdt, hrd (f := SP_STATUS_MODULE p) rfl, hmod]
    · rw [hrdt, hrd (f := SP_STATUS_FEC_LOCK p) rfl, hlock, hb]
    · rw [hreg, State.setCause_getLsbD hi (causeSp p 1) (i := 1) (by decide)]
      simp [causeSp]
    · rw [hreg, hro.setCause_reg hi (causeSp p 1) ho]
    · rw [← ht, if_neg (hper ▸ hne), hu]
    · rw [he, hu]

theorem sheetLinkDown_spec {p : Fin 16} (hp : p.val < s.nSheet) (hl : s.rd (SP_STATUS_LINK p) = 1) (hm : s.pairMode p = 0) :
    Runs (.sheetLinkDown p) s fun t =>
      t.rd (SP_STATUS_LINK p) = 0 ∧ t.rd (SP_STATUS_FEC_LOCK p) = 0 ∧ (t.reg (causeSp p 0).off).getLsbD 0 = true ∧
      (∀ o, o ∉ [(SP_STATUS_LINK p).off, (causeSp p 0).off] → t.reg o = s.reg o) ∧
      t = { s with regs := t.regs, host := t.host, out := t.out } := by
  have h1 := State.wr_inv hs (SP_STATUS_LINK p) 0
  obtain ⟨afl, -, -⟩ := SP_STATUS_apart p
  obtain ⟨fl, ff, -⟩ := SP_STATUS_fits p
  let v := (s.wr (SP_STATUS_LINK p) 0).wr (SP_STATUS_FEC_LOCK p) 0
  have hi : v.Inv := State.wr_inv h1 _ _
  have hro : s.RegsOnly v [(SP_STATUS_LINK p).off] :=
    ((State.wr_regsOnly hs _ _).trans (State.wr_regsOnly h1 _ _)).mono fun o ho => by
      simpa [SP_STATUS_LINK, SP_STATUS_FEC_LOCK] using ho
  have hmode : (v.setCause (causeSp p 0)).pairMode p = 0 := by
    rw [State.pairMode, State.setCause_rd_other hi, hro.rd_eq, ← State.pairMode, hm]
    · simp only [List.mem_singleton]
      exact show 0x140000 + p.val / 2 * 2 * 0x1000 + 4 ≠ 0x140000 + p.val * 0x1000 + 0x30 by omega
    · exact show 0x140000 + p.val / 2 * 2 * 0x1000 + 4 ≠ 0x140034 + p.val * 0x1000 by omega
  refine ⟨v.setCause (causeSp p 0), ?_, ?_, ?_, ?_, fun o ho => hro.setCause_reg hi _ ho, hro.setCause_eq _⟩
  · rw [exec, execSheetLinkDown, if_pos (by simp [hup, hp]), State.sheetDown, if_pos (by simp [State.flag, hl])]
    exact congrArg Host.Outcome.next (if_neg (by rw [hmode]; simp))
  · rw [State.setCause_rd_other hi (causeSp_off_ne p 0), State.wr_rd_apart h1 _ ff afl, State.wr_rd_same hs _ _ fl, Nat.zero_mod]
  · rw [State.setCause_rd_other hi (show (SP_STATUS_FEC_LOCK p).off ≠ _ from causeSp_off_ne p 0), State.wr_rd_same h1 _ _ ff, Nat.zero_mod]
  · rw [State.setCause_getLsbD hi (causeSp p 0) (i := 0) (by decide)]
    simp [causeSp]

end

/-- Settles O36: an absent port, a link that comes up, a link that goes down. -/
theorem sheetLinks : Obligations.SheetLinks := fun _ _ hs hup =>
  ⟨exec_sheetAbsent, sheetLinkUp_spec hs hup, sheetLinkDown_spec hs hup⟩

/-! ### Frames (R301 to R308, R326 to R332) -/

section
variable {p : Fin 16} {s : State} (hup : s.mainUp = true) (hp : p.val < s.nSheet)
include hup hp

section
variable {f : RxFrame} (hen : s.rd (SP_CTRL_EN p) = 1)
include hen

theorem exec_sheetReceive_bad (hg : f.good = false) : exec (.sheetReceive p f) s = .next (s.count (SP_FCS_ERR_COUNT p) 1) := by
  simp [exec, execSheetReceive, hup, hp, State.flag, hen, hg]

variable (hg : f.good = true)
include hg

theorem exec_sheetReceive_long (hlong : 9216 < f.bytes.length + 4) :
    exec (.sheetReceive p f) s = .next (s.count (SP_RX_DROPPED_COUNT p) 1) := by
  simp [exec, execSheetReceive, hup, hp, State.flag, hen, hg, hlong]

theorem exec_sheetReceive_noControl (h : beAt f.bytes 12 2 ≠ s.rd (SP_ETHERTYPE_TYPE p) ∨ beAt f.bytes 14 2 ≠ 0xFFFF) :
    exec (.sheetReceive p f) s = .next (s.count (SP_RX_DROPPED_COUNT p) 1) := by
  rw [exec, execSheetReceive, if_neg (by simp [hup, hp, State.flag, hen]), if_neg (by simp [hg])]
  dsimp only
  rw [if_pos h, ite_self]

variable (hlong : f.bytes.length + 4 ≤ 9216) (htype : beAt f.bytes 12 2 = s.rd (SP_ETHERTYPE_TYPE p)) (hctl : beAt f.bytes 14 2 = 0xFFFF)
include hlong htype hctl

/-- A PING to the port's own address that answers no probe. -/
theorem exec_sheetReceive_ping (hk : beAt f.bytes 16 1 = 4) (hmac : f.bytes.take 6 = s.spMac p)
    (hprobe : ∀ q ∈ (s.sp (if p.val % 2 = 0 then p.val + 1 else p.val - 1)).probes, q.1 ≠ beAt f.bytes 30 4) :
    exec (.sheetReceive p f) s = .next (s.count (SP_LOOP_RX_COUNT p) 1) := by
  have hnone : ((s.sp (if p.val % 2 = 0 then p.val + 1 else p.val - 1)).probes.any fun x => decide (x.1 = beAt f.bytes 30 4 ∧
      s.now ≤ x.2 + (s.count (SP_LOOP_RX_COUNT p) 1).loopNs (if p.val % 2 = 0 then p.val + 1 else p.val - 1))) = false := by
    simp only [List.any_eq_false, decide_eq_true_eq, not_and]
    exact fun x hx he => absurd he (hprobe x hx)
  rw [exec, execSheetReceive, if_neg (by simp [hup, hp, State.flag, hen]), if_neg (by simp [hg]), if_neg (by omega)]
  dsimp only
  rw [if_neg (by simp [htype, hctl]), if_pos ⟨hk, hmac⟩, State.probeHeard]
  exact congrArg Host.Outcome.next (if_neg (Bool.eq_false_iff.mp hnone))

theorem exec_sheetReceive_status (hk : beAt f.bytes 16 1 = 5) : exec (.sheetReceive p f) s = .next (if (s.sp p).rx.length < 64 then
    ((s.setSp p fun x => { x with rx := x.rx ++ [(slice f.bytes 30 32, s.time.ns)] }).count (SP_RX_STATUS_COUNT p) 1).setCause (causeSp p 4)
    else (s.count (SP_RX_OVERFLOW_COUNT p) 1).setCause (causeSp p 6)) := by
  rw [exec, execSheetReceive, if_neg (by simp [hup, hp, State.flag, hen]), if_neg (by simp [hg]), if_neg (by omega)]
  dsimp only
  rw [if_neg (by simp [htype, hctl]), if_neg (by simp [hk]), if_pos hk]

end

theorem exec_loopProbe_due (hm : s.pairMode p ≠ 0) (hl : s.loopNs p ≠ 0) (hd : (s.sp p).lastProbe + s.loopNs p ≤ s.now) :
    exec (.loopProbe p) s = .next (s.setSp p fun y => { y with
      q6 := y.q6 ++ [⟨(s.sp p).nextToken, s.spMac (if p.val % 2 = 0 then p.val + 1 else p.val - 1), true⟩]
      nextToken := (y.nextToken + 1) % 2 ^ 32
      lastProbe := s.now }) := by
  rw [exec, execLoopProbe, if_pos (by simp [hup, hp, hm, hl, hd])]

section
variable (hctrl : (s.sp p).q7.find? ((s.sp p).ctrlOk (s.copiesTo p)) = none)
include hctrl

theorem exec_sheetTransmit_ping {f : PingFrame} {more : List PingFrame} (hq : (s.sp p).q6 = f :: more) :
    exec (.sheetTransmit p) s = .next ((s.setSp p fun y => { y with q6 := more }).sendPing p f) := by
  rw [exec, execSheetTransmit, if_neg (by simp [hup, hp])]
  simp only [hctrl, hq]

theorem exec_sheetTransmit_slug {h : Nat} {g : Slug} {more : List Slug} (hq : (s.sp p).q6 = []) (hn : (s.sp p).nextHead = some h)
    (hg : (s.sp p).qh[Fin.ofNat 4 h] = g :: more) : exec (.sheetTransmit p) s = .next (
      let t := (s.setSp p fun y => { y with qh := y.qh.set (Fin.ofNat 4 h) more, served := h }).slugSend p g
      if g.pair && s.failedOver p && decide (p.val % 2 = 0) then t.putSlug (p.val + 1) g else t) := by
  rw [exec, execSheetTransmit, if_neg (by simp [hup, hp])]
  simp only [hctrl, hq, hn, hg]
  rfl

theorem exec_sheetTransmit_rest (hq : (s.sp p).q6 = []) (hn : (s.sp p).nextHead = none) : exec (.sheetTransmit p) s = .next s := by
  rw [exec, execSheetTransmit, if_neg (by simp [hup, hp])]
  simp only [hctrl, hq, hn]

end

theorem exec_sheetTransmit_control {k : CtrlFrame} (hk : (s.sp p).q7.find? ((s.sp p).ctrlOk (s.copiesTo p)) = some k) :
    exec (.sheetTransmit p) s = .next (
      let t := s.setSp p fun y => { y with
        q7 := y.q7.erase k
        started := if k.type = 1 then y.started.set (Fin.ofNat 4 k.head) k.tag else y.started }
      t.sheetSend p (macBytes (t.rd (SP_GROUP_HI_ADDR p)) (t.rd (SP_GROUP_LO_ADDR p))) (t.ctrlBytes p k) false) := by
  rw [exec, execSheetTransmit, if_neg (by simp [hup, hp])]
  simp only [hk]

end

/-- A slug that the output queue in Densum holds is read there. -/
theorem State.slugSend_queued (s : State) (p : Nat) {g : Slug} {a : Nat} (ha : g.at_ = some a) : s.slugSend p g =
    let r := s.memRead reqSht a (g.body.length - 16)
    if r.1.poison || r.1.err then
      ((r.2.count (SP_SLUG_POISON_COUNT p) 1).count64 (SP_DROP_BYTES_LO_BYTES p) (SP_DROP_BYTES_HI_BYTES p)
        (r.2.sheetFrame p g.dst g.body).length).setCause (causeSp p 5)
    else r.2.sheetSend p g.dst (g.body.take 16 ++ r.1.data) true := by
  rw [State.slugSend, State.slugBody, ha]
  dsimp only
  cases (s.memRead reqSht a (g.body.length - 16)).1.poison || (s.memRead reqSht a (g.body.length - 16)).1.err <;> rfl

/-- Settles O37: frames that arrive, probes, then what a port sends. -/
theorem sheetFrames : Obligations.SheetFrames := by
  refine ⟨fun p s hup hp => ⟨fun f hen => ⟨exec_sheetReceive_bad hup hp hen, exec_sheetReceive_long hup hp hen,
    exec_sheetReceive_noControl hup hp hen, exec_sheetReceive_ping hup hp hen, exec_sheetReceive_status hup hp hen⟩,
    exec_loopProbe_due hup hp, fun q more hq hd => ?_⟩, fun p s hup hp => ⟨fun k => exec_sheetTransmit_control hup hp,
    fun h f more => exec_sheetTransmit_ping hup hp h, fun h hq g i more => exec_sheetTransmit_slug hup hp h hq, fun g hg => ?_,
    fun g a => State.slugSend_queued s p, exec_sheetTransmit_rest hup hp⟩⟩
  · simp [exec, execProbeMissing, hq, hup, hd]
  · rw [State.slugSend, State.slugBody, hg]

end Sys2Proof.Machine

namespace Sys2Proof.Machine

/-! ### What a command that begins leaves -/

section
variable {s : State} {c : FwCmd} {rest : List FwCmd}

/-- What depends on the firmware's queue, records and commands to run again in no way is as before when a command begins. -/
theorem State.begun_same {α : Type} (f : State → α)
    (hf : ∀ (t : State) q rs ag, f { t with fw := { t.fw with queue := q, records := rs, again := ag } } = f t) : f (s.begun c rest) = f s := by
  obtain ⟨rs, ag, e⟩ := s.begun_eq (c := c) (rest := rest)
  rw [e, hf]

@[simp] theorem State.begun_reg (o : Nat) : (s.begun c rest).reg o = s.reg o := State.begun_same (·.reg o) fun _ _ _ _ => rfl
@[simp] theorem State.begun_flag (f : Fld) : (s.begun c rest).flag f = s.flag f := State.begun_same (·.flag f) fun _ _ _ _ => rfl
@[simp] theorem State.begun_now : (s.begun c rest).now = s.now := State.begun_same (·.now) fun _ _ _ _ => rfl
@[simp] theorem State.begun_fuses : (s.begun c rest).fuses = s.fuses := State.begun_same (·.fuses) fun _ _ _ _ => rfl
@[simp] theorem State.begun_nHeads : (s.begun c rest).nHeads = s.nHeads := State.begun_same State.nHeads fun _ _ _ _ => rfl
@[simp] theorem State.begun_nSheet : (s.begun c rest).nSheet = s.nSheet := State.begun_same State.nSheet fun _ _ _ _ => rfl
@[simp] theorem State.begun_sp (p : Nat) : (s.begun c rest).sp p = s.sp p := State.begun_same (·.sp p) fun _ _ _ _ => rfl
@[simp] theorem State.begun_hd (h : Nat) : (s.begun c rest).hd h = s.hd h := State.begun_same (·.hd h) fun _ _ _ _ => rfl
@[simp] theorem State.begun_chan (k : Nat) : (s.begun c rest).chan k = s.chan k := State.begun_same (·.chan k) fun _ _ _ _ => rfl
@[simp] theorem State.begun_dsm : (s.begun c rest).dsm = s.dsm := State.begun_same (·.dsm) fun _ _ _ _ => rfl
@[simp] theorem State.begun_ddr : (s.begun c rest).ddr = s.ddr := State.begun_same (·.ddr) fun _ _ _ _ => rfl
@[simp] theorem State.begun_ring : (s.begun c rest).ring = s.ring := State.begun_same (·.ring) fun _ _ _ _ => rfl
@[simp] theorem State.begun_shroud : (s.begun c rest).shroud = s.shroud := State.begun_same (·.shroud) fun _ _ _ _ => rfl
@[simp] theorem State.begun_power : (s.begun c rest).power = s.power := State.begun_same (·.power) fun _ _ _ _ => rfl
@[simp] theorem State.begun_nv : (s.begun c rest).nv = s.nv := State.begun_same (·.nv) fun _ _ _ _ => rfl
@[simp] theorem State.begun_clocks : (s.begun c rest).clocks = s.clocks := State.begun_same (·.clocks) fun _ _ _ _ => rfl

/-- A command that begins leaves a well-kept machine. -/
theorem State.begun_inv (hs : s.Inv) : (s.begun c rest).Inv := (State.begun_kept c rest hs).inv

end

/-! ### SHEET_PORT_SET and SHEET_PING (R318, R332) -/

section
variable {s : State} {c : FwCmd} {rest : List FwCmd}

/-- What SHEET_PORT_SET writes once its checks have passed. -/
def State.portSetWrites (u : State) (d : List Byte) : State :=
  let p := leAt d 0 1
  let rate := leAt d 1 1 / 2 % 2
  let fec := leAt d 1 1 / 4 % 2
  let v := if u.rd (SP_CTRL_RATE p) ≠ rate ∨ u.rd (SP_CTRL_FEC p) ≠ fec then u.sheetDown p else u
  let v := ((v.wr (SP_CTRL_EN p) (leAt d 1 1 % 2)).wr (SP_CTRL_RATE p) rate).wr (SP_CTRL_FEC p) fec
  let v := if p % 2 = 0 then v.setPairMode (p / 2) (leAt d 2 1) else v
  let v := (((v.wr (SP_LOOP_MISS p) (leAt d 3 1)).wr (SP_ETHERTYPE_TYPE p) (leAt d 4 2)).wr (SP_LOOP_PERIOD p) (leAt d 6 2)).probesOff p
  let v := (v.wr (SP_MAC_HI_ADDR p) (beAt d 8 2)).wr (SP_MAC_LO_ADDR p) (beAt d 10 4)
  let v := (v.wr (SP_GROUP_HI_ADDR p) (beAt d 16 2)).wr (SP_GROUP_LO_ADDR p) (beAt d 18 4)
  v.wr (SP_SHOW_DELAY_NS p) (leAt d 24 4)

theorem exec_sheetPortSet_bad (h : s.Begins 0x0410 c rest) (hbad : s.nSheet ≤ leAt c.payload 0 1 ∨ 2 < leAt c.payload 2 1 ∨
    (leAt c.payload 0 1 % 2 = 1 ∧ leAt c.payload 2 1 ≠ 0) ∨ leAt c.payload 3 1 = 0 ∨ leAt c.payload 4 2 < 0x600 ∨ 16777215 < leAt c.payload 24 4) :
    exec .sheetPortSet s = .next ((s.begun c rest).fail c stBAD_PARAM) := by
  rw [exec, execSheetPortSet, State.serve_begins _ h (by decide)]
  refine congrArg Host.Outcome.next (if_pos ?_)
  rw [State.begun_nSheet]
  tauto

/-- In range SHEET_PORT_SET is refused by the port's load alone. -/
theorem exec_sheetPortSet_good (h : s.Begins 0x0410 c rest) (hp : leAt c.payload 0 1 < s.nSheet) (hm : leAt c.payload 2 1 ≤ 2)
    (hodd : leAt c.payload 0 1 % 2 = 1 → leAt c.payload 2 1 = 0) (hmiss : leAt c.payload 3 1 ≠ 0) (het : 0x600 ≤ leAt c.payload 4 2)
    (hdelay : leAt c.payload 24 4 ≤ 16777215)
    (hfed : leAt c.payload 0 1 % 2 = 0 → leAt c.payload 2 1 = 0 → ∀ k, k < s.nHeads → ∀ e ∈ (s.begun c rest).mapEntries k, e.pair = true →
      e.port / 2 ≠ leAt c.payload 0 1 / 2) :
    exec .sheetPortSet s = .next (
      let u := s.begun c rest
      let p := leAt c.payload 0 1
      let rate := leAt c.payload 1 1 / 2 % 2
      if decide (u.rd (SP_CTRL_RATE p) ≠ rate) && !((u.wr (SP_CTRL_RATE p) rate).portLoad p).le ((u.wr (SP_CTRL_RATE p) rate).portMax p) then
        u.fail c stREJECTED_SHEET
      else (u.portSetWrites c.payload).ok c) := by
  rw [exec, execSheetPortSet, State.serve_begins _ h (by decide)]
  refine congrArg Host.Outcome.next ((if_neg ?_).trans ?_)
  · rw [State.begun_nSheet, State.begun_nHeads]
    rintro (hb | hb | ⟨hb, hb'⟩ | hb | hb | hb | ⟨hb, hb', hb''⟩)
    · omega
    · omega
    · exact hb' (hodd hb)
    · exact hmiss hb
    · omega
    · omega
    · obtain ⟨k, hk, e, he, hpair⟩ : ∃ k < s.nHeads, ∃ e ∈ (s.begun c rest).mapEntries k, e.pair = true ∧ e.port / 2 = leAt c.payload 0 1 / 2 := by
        simpa using hb''
      exact hfed hb hb' k hk e he hpair.1 hpair.2
  · simp only [State.portSetWrites, decide_eq_true_eq]

theorem exec_sheetPing (h : s.Begins 0x0420 c rest) : exec .sheetPing s = .next (
    let u := s.begun c rest
    let p := leAt c.payload 0 1
    if s.nSheet ≤ p ∨ leAt c.payload 2 2 = 0 then u.fail c stBAD_PARAM
    else (u.setSp p fun y => { y with
      q6 := y.q6 ++ [⟨(s.sp p).nextToken, slice c.payload 4 6, false⟩]
      nextToken := ((s.sp p).nextToken + 1) % 2 ^ 32 }).waitFor c (.ping p (s.sp p).nextToken (leAt c.payload 2 2 * 1000) none)) := by
  rw [exec, execSheetPing, State.serve_begins _ h (by decide)]
  simp only [State.begun_nSheet, State.begun_sp]

end

/-! ### The answers to a ping (R332) -/

/-- Where the ping is the one command that waits, the wake that answers it completes its command and leaves nothing waiting. -/
theorem State.wake_one {s : State} {c : FwCmd} {k : WaitKind} (hw : s.fw.waiting = [⟨c, k⟩]) {f : Waiting → Option (Nat × List Byte)}
    {st : Nat} {resp : List Byte} (hf : f ⟨c, k⟩ = some (st, resp)) :
    s.wake f = ({ s with fw := { s.fw with waiting := [] } } : State).finish c st resp := by
  simp [State.wake, hw, hf]

section
variable {p : Fin 16} {s : State} (hv : s.serving = true)
include hv

theorem exec_statusHandoff {b : List Byte} {t : Nat} {more : List (List Byte × Nat)} (hrx : (s.sp p).rx = (b, t) :: more) :
    exec (.statusHandoff p) s = .next ((s.setSp p fun x => { x with rx := more }).wake fun w => match w.kind with
      | .ping q tok d (some sent) =>
        if q = p.val ∧ tok = beAt b 0 4 ∧ t ≤ sent + d then some (stOK, statusResp ((t - sent) % 2 ^ 32) b) else none
      | _ => none) := by
  simp only [exec, execStatusHandoff, hv, if_true, hrx] <;> rfl

theorem exec_pingTimeout : exec (.pingTimeout p) s = .next (s.wake fun w => match w.kind with
    | .ping q tok d (some sent) =>
      if q = p.val && decide (sent + d < s.time.ns) && !((s.sp p).rx.any fun x => decide (beAt x.1 0 4 = tok ∧ x.2 ≤ sent + d)) then
        some (stOK, pingNone) else none
    | _ => none) := by
  simp only [exec, execPingTimeout, hv, if_true] <;> rfl

/-- With no STATUS that waits, only the time decides. -/
theorem exec_pingTimeout_empty (hrx : (s.sp p).rx = []) : exec (.pingTimeout p) s = .next (s.wake fun w => match w.kind with
    | .ping q _ d (some sent) => if q = p.val ∧ sent + d < s.time.ns then some (stOK, pingNone) else none
    | _ => none) := by
  rw [exec_pingTimeout hv]
  simp only [hrx, List.any_nil, Bool.not_false, Bool.and_true, Bool.and_eq_true, decide_eq_true_eq]

end

/-- Settles O35: SHEET_PORT_SET by its checks, SHEET_PING, then the answers to a ping. -/
theorem sheetCommands : Obligations.SheetCommands := by
  constructor
  · intro c rest s u d p
    refine ⟨fun h => ⟨exec_sheetPortSet_bad h, ?_⟩, fun h => ⟨fun hb => ?_, fun hp ht => ?_⟩⟩
    · intro hp hm hodd hmiss het hdelay hfed rate fec fits
      have hexec := exec_sheetPortSet_good h hp hm hodd hmiss het hdelay hfed
      refine ⟨fun hno => hexec.trans (congrArg Host.Outcome.next (if_pos ?_)), fun hyes =>
        ⟨_, hexec.trans (congrArg Host.Outcome.next (if_neg ?_)), rfl⟩⟩
      · simp only [Bool.and_eq_true, decide_eq_true_eq, Bool.not_eq_true']
        exact ⟨fun e => hno (.inl e), Bool.eq_false_iff.mpr fun e => hno (.inr e)⟩
      · simp only [Bool.and_eq_true, decide_eq_true_eq, Bool.not_eq_true', not_and, Bool.not_eq_false]
        exact fun hne => hyes.resolve_left hne
    · rw [exec_sheetPing h]
      exact congrArg Host.Outcome.next (if_pos hb)
    · exact ⟨_, (exec_sheetPing h).trans (congrArg Host.Outcome.next (if_neg (fun hb => hb.elim (Nat.not_le.mpr hp) ht))), rfl⟩
  · intro p s hv
    refine ⟨fun b t more => exec_statusHandoff hv, fun hrx => ⟨?_, exec_pingTimeout_empty hv hrx⟩, ?_⟩
    · simp [exec, execStatusHandoff, hrx]
    · intro c tok d sent hw u
      refine ⟨fun b t more hrx htok ht => ⟨_, exec_statusHandoff hv hrx, ?_⟩, fun hd hx => ⟨_, exec_pingTimeout hv, ?_⟩⟩
      · refine State.wake_one (s := s.setSp p fun x => { x with rx := more }) (k := .ping p.val tok d (some sent)) hw ?_
        exact if_pos ⟨rfl, htok.symm, ht⟩
      · have hany : ((s.sp p).rx.any fun x => decide (beAt x.1 0 4 = tok ∧ x.2 ≤ sent + d)) = false := by
          simp only [List.any_eq_false, decide_eq_true_eq, not_and, Nat.not_le]
          exact hx
        refine State.wake_one (k := .ping p.val tok d (some sent)) hw ?_
        exact if_pos (by simp only [hany]; simp [hd])

end Sys2Proof.Machine

/-! ## Frames and losses of the ingest (R327, R340 to R375) -/

namespace Sys2Proof.Machine

section
variable {s : State}

theorem State.mainUp_of_serving (h : s.serving = true) : s.mainUp = true := (Bool.and_eq_true_iff.mp h).1

section
variable {p : Fin 4} {f : RxFrame} (hup : s.mainUp = true) (hen : s.rd (INGP_PORT_CTRL_EN p) = 1) (hlen : f.bytes.length + 4 ≤ 9216)
include hup hen hlen

theorem exec_ingestReceive_full (hq : 262144 < portBytes ((s.portUp p).ingest.rx[p] ++ [f])) :
    exec (.ingestReceive p f) s = .next (((s.portUp p).count (INGP_RX_OVERFLOW_COUNT p) 1).setCause (causeIng 2)) := by
  rw [exec, execIngestReceive, if_pos (by simp [hup, State.flag, hen, hlen])]
  exact congrArg Host.Outcome.next (if_pos hq)

/-- The first frame that a port holds is sorted, or counted as an FCS error. -/
theorem exec_ingestReceive_first (he : (s.portUp p).ingest.rx[p] = []) (hq : portBytes ((s.portUp p).ingest.rx[p] ++ [f]) ≤ 262144) :
    exec (.ingestReceive p f) s = .next (let u := s.portUp p
      ({ u.count (INGP_RX_FRAMES_COUNT p) 1 with ingest := { u.ingest with rx := u.ingest.rx.set p [] } }).parseFrame p f) := by
  rw [exec, execIngestReceive, if_pos (by simp [hup, State.flag, hen, hlen])]
  refine congrArg Host.Outcome.next ((if_neg (Nat.not_lt.mpr hq)).trans ?_)
  rw [he]
  rfl

end

theorem exec_pixel {p : Fin 2} {x : RxItem} (h : (s.takeRx p 6 0).1 = some x) : exec (.pixel p) s = .next ((List.range 32).foldl (fun t i =>
    if t.sFlag (16 + i) 0 && decide (t.rd (INGS_S_RING_ID (16 + i)) = x.frame.stream) then
      t.streamPacket (16 + i) 0 x.frame.payload (x.frame.payload.length + 28) else t) (s.takeRx p 6 0).2) := by
  simp only [exec, execPixel, h]

theorem exec_streamLost {k : Fin 48} (hup : s.mainUp = true) (hr : s.rd (INGS_S_STATUS_RECEIVING k) = 1) (hl : s.lossMs k ≠ 0)
    (ht : (s.strm k).lastPkt + s.lossMs k < s.now) : exec (.streamLost k) s =
      .next (((((s.wr (INGS_S_STATUS_RECEIVING k) 0).streamCause k 0).report EV_STREAM_LOST (src 7 k) 0).dropCur k).streamRefLost k) := by
  rw [exec, execStreamLost, State.when, if_pos hup, State.streamTimeout, if_pos (by simp [State.flag, hr, hl, ht])]

theorem exec_legLost {k : Fin 48} {leg : Fin 2} (hup : s.mainUp = true)
    (hr : s.rd (if leg.val = 0 then INGS_S_STATUS_LEG1_OK k else INGS_S_STATUS_LEG2_OK k) = 1) (hl : s.lossMs k ≠ 0)
    (ht : (s.strm k).legAt[leg] + s.lossMs k < s.now) : exec (.legLost k leg) s =
      .next (s.wr (if leg.val = 0 then INGS_S_STATUS_LEG1_OK k else INGS_S_STATUS_LEG2_OK k) 0) := by
  rw [exec, execLegLost]
  exact congrArg Host.Outcome.next (if_pos (by simp only [State.flag, hr, hup]; simpa using ⟨hl, ht⟩))

theorem exec_firmwareNetPacket_arp {p : Fin 4} {x : NetPacket} {more : List NetPacket} {o : Nat} (hv : s.serving = true)
    (hn : s.ingest.net[p] = x :: more) (ho : l3At x.bytes = some o) (ht : etherType x.bytes = 0x0806) : exec (.firmwareNetPacket p) s =
      .next (({ s with ingest := { s.ingest with net := s.ingest.net.set p more } }).arpPacket p x.bytes o) := by
  simp only [exec, execFirmwareNetPacket, hv, if_true, hn, ho, ht]

end

/-- Settles O39: each event's own row. -/
theorem ingestEvents : Obligations.IngestEvents := by
  intro s
  refine ⟨?_, fun p x => exec_pixel, fun k => exec_streamLost, fun k leg => exec_legLost, fun p x more o => exec_firmwareNetPacket_arp, ?_⟩
  · intro p f hup hen hlen u q
    exact ⟨exec_ingestReceive_full hup hen hlen, exec_ingestReceive_first hup hen hlen⟩
  · intro hv hst ht t
    rw [exec, execPtpSyncTimeout, State.when, if_pos hv, State.ptpTimeout, if_pos ⟨hst, ht⟩]

end Sys2Proof.Machine

/-! ## The ring: reception, membership, time (R380 to R420, R461, R627 to R630) -/

namespace Sys2Proof.Machine

/-! ### A frame arrives (R388, R389, R461) -/

section
variable {s : State} {p : Fin 2} {bytes : List Byte}

theorem State.joined_count (hs : s.Inv) {f : Fld} (n : Nat) (hf : f.off ≠ HLY_STATUS_JOINED.off) : (s.count f n).joined = s.joined := by
  rw [State.joined, State.joined, State.flag, State.flag, (State.count_regsOnly hs f n).rd_eq (by simpa using hf.symm)]

/-- A port's counters stand behind the status of the ring. -/
theorem hlyp_off_ne (p r : Nat) : 0x160100 + p * 0x40 + r ≠ HLY_STATUS_JOINED.off := show _ ≠ 0x160000 + 0x8 by omega

/-- What every frame on an enabled port does first. -/
def State.frameCounted (s : State) (p : Nat) : State := (s.count (HLYP_RX_FRAMES_COUNT p) 1).setRport p fun x => { x with hearsRf := false }

variable (hs : s.Inv)
include hs

theorem State.frameCounted_inv (p : Nat) : (s.frameCounted p).Inv := (State.setRport_kept p _ (State.count_kept _ 1 hs)).inv

theorem State.frameCounted_joined (p : Nat) : (s.frameCounted p).joined = s.joined :=
  State.joined_count hs (f := HLYP_RX_FRAMES_COUNT p) 1 (hlyp_off_ne p 0)

variable (hpath : s.shroud.path = 2) (hup : s.mainUp = true) (hen : s.portEn p.val = true)
include hpath hup hen

/-- A frame on an enabled port is counted, by its CRC too, and then handled by whether the device is joined. -/
def State.crcCounted (s : State) (p : Nat) : CrcState → State
  | .good => s.frameCounted p
  | .stomped => (s.frameCounted p).count (HLYP_RX_STOMPED_COUNT p) 1
  | .bad => ((s.frameCounted p).count (HLYP_RX_CRC_ERR_COUNT p) 1).setRport p fun x => { x with badAt := some (s.frameCounted p).now }

omit hpath hup hen in
theorem State.crcCounted_joined (p : Nat) (c : CrcState) : (s.crcCounted p c).joined = s.joined := by
  have hi := State.frameCounted_inv hs p
  have hj := State.frameCounted_joined hs p
  cases c with
  | good => exact hj
  | stomped => exact (State.joined_count hi (f := HLYP_RX_STOMPED_COUNT p) 1 (hlyp_off_ne p 8)).trans hj
  | bad => exact (State.joined_count hi (f := HLYP_RX_CRC_ERR_COUNT p) 1 (hlyp_off_ne p 4)).trans hj

/-- What becomes of a counted frame, by its CRC and by whether the device is joined. -/
theorem exec_ringReceive {b : State} (hb : s.crcCounted p (crcState bytes) = b) : exec (.ringReceive p bytes) s = .next (
    let t := if s.joined then b.purgeEnds.ringHandle p.val (HFrame.parse bytes) (crcState bytes)
      else if crcState bytes ≠ .good then b.rxDrop p.val (HFrame.parse bytes)
      else if (HFrame.parse bytes).cls = 5 ∧ (HFrame.parse bytes).stream = 0 then
        (b.noteBeacon (HFrame.parse bytes)).ringDeliver p.val (HFrame.parse bytes) false
      else b
    if cutShort bytes then b.cutCounted p t bytes.length else t) := by
  have hin : (!s.mainUp || !s.portEn p.val || decide (s.shroud.path = 0)) = false := by simp [hup, hen, hpath]
  have hj := State.crcCounted_joined hs p (crcState bytes)
  rw [hb] at hj
  simp only [exec, execRingReceive, if_neg (show ¬ s.shroud.path = 1 by omega), hin, Bool.false_eq_true, if_false]
  generalize crcState bytes = c at *
  generalize HFrame.parse bytes = f
  generalize cutShort bytes = k
  generalize bytes.length = n
  cases c <;> simp only [State.crcCounted, State.frameCounted] at hb <;> simp only [hb, hj]

end

/-- Settles O42: the through-path; then a frame by its CRC and by whether the device is joined. -/
theorem ringReception : Obligations.RingReception := by
  intro p bytes s hs
  refine ⟨fun hpath hup => ?_, ?_⟩
  · simp [exec, execRingReceive, hpath, State.emit, hup]
  · intro hpath hup hen f t cut
    have hexec := fun b => exec_ringReceive (bytes := bytes) (b := b) hs hpath hup hen
    refine ⟨fun hc hj => ?_, fun hc hj => ?_, fun hc hj => ?_, fun hc hj hcls hstream => ?_⟩
    · simp only [hexec t (congrArg _ hc), hc, hj, if_true]
      rfl
    · simp only [hexec _ (congrArg _ hc), hc, hj, Bool.false_eq_true, if_false, ne_eq, reduceCtorEq, not_false_eq_true, if_true]
      rfl
    · simp only [hexec _ (congrArg _ hc), hc, hj, if_true]
      rfl
    · have hbeacon : (HFrame.parse bytes).cls = 5 ∧ (HFrame.parse bytes).stream = 0 := ⟨hcls, hstream⟩
      simp only [hexec t (congrArg _ hc), hc, hj, Bool.false_eq_true, if_false, ne_eq, not_true, if_pos hbeacon]
      rfl

/-! ### Membership and time (R403 to R412, R627 to R630) -/

section
variable {s : State}

theorem State.splitFlag_ring (s : State) : s.splitFlag.ring = s.ring := by
  rw [State.splitFlag]
  split
  · rw [State.report_ring, State.setCause_ring, State.wr_ring]
  · rfl

theorem State.beaconEnds_members (s : State) (rid mask : Nat) : (s.beaconEnds rid mask).ring.members = s.ring.members := by
  have hstep (t : State) (side : Nat) : (if mask.testBit side then
      (if t.ring.unwraps.any (fun u => decide (u.1 = rid ∧ u.2.1 = side ∧ t.now ≤ u.2.2.2 + t.lossNs)) then t else t.addEnd rid side)
      else t.dropEnd rid side).ring.members = t.ring.members := by
    have hadd : (t.addEnd rid side).ring.members = t.ring.members := by
      rw [State.addEnd]
      split
      · rfl
      · rw [State.splitFlag_ring]; rfl
    have hdrop : (t.dropEnd rid side).ring.members = t.ring.members := by
      rw [State.dropEnd, State.splitFlag_ring]; rfl
    split
    · split
      · rfl
      · exact hadd
    · exact hdrop
  exact foldl_related (R := fun a b => b.ring.members = a.ring.members) (fun _ => rfl) (fun _ _ _ h k => k.trans h) hstep _ s

section
variable (hup : s.mainUp = true) (hj : s.joined = true)
include hup hj

theorem exec_beaconSend (hl : s.ring.leaving = false) (hp : s.rd HLY_BEACON_PERIOD ≠ 0)
    (ht : s.ring.lastBeacon + s.rd HLY_BEACON_PERIOD * 1000 ≤ s.now) :
    exec .beaconSend s = .next ((s.sendBeacon 0).setRing fun r => { r with lastBeacon := s.now }) := by
  rw [exec, execBeaconSend]
  exact congrArg Host.Outcome.next (if_pos (by simp [hup, hj, hl, hp, ht]))

theorem exec_pdelaySend {p : Fin 2} (hl : s.rd (linkFld p) = 1) (ht : (s.rport p).pdLast + 1000000 ≤ s.now) :
    exec (.pdelaySend p) s = .next (let t := s.setRport p fun y => { y with pdId := (y.pdId + 1) % 2 ^ 32, pdLast := s.now }
      t.ringInsert p 7 7 0 1 (beBytes 4 (t.rport p).pdId ++ List.replicate 28 0) false) := by
  rw [exec, execPdelaySend]
  exact congrArg Host.Outcome.next (if_pos (by simp [hup, hj, State.flag, hl, ht]))

theorem exec_syncSend (hm : s.rd HLY_TIME_MASTER_ID = s.ringId) (h0 : s.ringId ≠ 0) (hp : s.rd HLY_TIME_CFG_SYNC_PERIOD ≠ 0)
    (ht : s.ring.lastSync + s.rd HLY_TIME_CFG_SYNC_PERIOD * 1000 ≤ s.now) :
    exec .syncSend s = .next (
      let n := s.syncSeq
      let f : HFrame := ⟨7, s.ringId, 0xFFFF, 0, n.1, List.replicate 19 0 ++ beBytes 1 s.ownRank ++ List.replicate 12 0⟩
      let t := n.2.setRing fun r => { r with lastSync := s.now }
      let put := fun (t : State) (p : Nat) => if t.wrapped p then t else t.offerQ p 7 ⟨f, false, none, none⟩
      put (put t 0) 1) := by
  rw [exec, execSyncSend]
  exact congrArg Host.Outcome.next (if_pos (by simp [hup, hj, hm, h0, hp, ht]))

end

variable {p : Fin 2} {x : RxItem}

section
variable (hx : (s.takeRx p 5 0).1 = some x)
include hx

/-- A BEACON of this device's own ring ID. -/
theorem exec_beacon_own (hid : x.frame.src = (s.takeRx p 5 0).2.purgeEnds.ringId) (hj : (s.takeRx p 5 0).2.purgeEnds.joined = true)
    (hm : ∀ m ∈ (s.takeRx p 5 0).2.purgeEnds.ring.members, m.rid = x.frame.src → (s.takeRx p 5 0).2.purgeEnds.lossNs ≠ 0 →
      x.rxNow ≤ m.at_ + (s.takeRx p 5 0).2.purgeEnds.lossNs) :
    exec (.beacon p) s = .next (let t := (s.takeRx p 5 0).2.purgeEnds
      if beAt x.frame.payload 0 8 = t.fuses.serial then t else t.ridClash (beAt x.frame.payload 0 8)) := by
  simp only [exec, execBeacon, hx]
  generalize (s.takeRx p 5 0).2.purgeEnds = t at *
  have hgone : (t.ring.members.any fun m => decide (m.rid = x.frame.src ∧ t.lossNs ≠ 0 ∧ m.at_ + t.lossNs < x.rxNow)) = false := by
    simp only [List.any_eq_false, decide_eq_true_eq, not_and, Nat.not_lt]
    exact hm
  rw [hgone]
  simp only [Bool.false_eq_true, if_false, if_pos (And.intro hid hj)]

/-- A BEACON of a device that has no entry enters the table. -/
theorem exec_beacon_new (hid : x.frame.src ≠ (s.takeRx p 5 0).2.purgeEnds.ringId ∨ (s.takeRx p 5 0).2.purgeEnds.joined = false)
    (hm : ∀ m ∈ ((s.takeRx p 5 0).2.purgeEnds.beaconEnds x.frame.src (beAt x.frame.payload 12 2)).ring.members, m.rid ≠ x.frame.src)
    (hb : beAt x.frame.payload 8 1 ≠ 1) :
    exec (.beacon p) s = .next (let d := x.frame.payload
      let v := (s.takeRx p 5 0).2.purgeEnds.beaconEnds x.frame.src (beAt d 12 2)
      (v.membersChanged (v.ring.members ++
        [⟨x.frame.src, beAt d 0 8, beAt d 8 1, beAt d 9 1, beAt d 10 1, beAt d 11 1, x.rxNow⟩])).noteOrder) := by
  simp only [exec, execBeacon, hx]
  generalize (s.takeRx p 5 0).2.purgeEnds = t at *
  have hgone : (t.ring.members.any fun m => decide (m.rid = x.frame.src ∧ t.lossNs ≠ 0 ∧ m.at_ + t.lossNs < x.rxNow)) = false := by
    simp only [List.any_eq_false, decide_eq_true_eq, not_and]
    exact fun m hmem he => absurd he (hm m (by rwa [State.beaconEnds_members]))
  have hown : ¬ (x.frame.src = t.ringId ∧ t.joined = true) := fun ⟨h1, h2⟩ => hid.elim (· h1) (by simp [h2])
  rw [hgone]
  simp only [Bool.false_eq_true, if_false, if_neg hown, if_neg hb]
  generalize t.beaconEnds x.frame.src (beAt x.frame.payload 12 2) = v at *
  have hnone : (v.ring.members.find? fun m => decide (m.rid = x.frame.src)) = none := by
    simpa using hm
  have hall : (v.ring.members.filter fun m => decide (m.rid ≠ x.frame.src)) = v.ring.members := by
    simpa using hm
  simp only [hnone, hall, Option.isSome_none, Bool.false_eq_true, if_false]

end

theorem exec_beaconLoss {rid : BitVec 16} {m : Member} (hm : s.ring.members.find? (fun m => decide (m.rid = rid.toNat)) = some m)
    (hup : s.mainUp = true) (hl : s.lossNs ≠ 0) (ht : m.at_ + s.lossNs < s.now) (hw : s.beaconWaits m = false) :
    exec (.beaconLoss rid) s = .next (s.membersChanged (s.ring.members.filter fun m => m.rid ≠ rid.toNat)) := by
  simp only [exec, execBeaconLoss, hm]
  exact congrArg Host.Outcome.next (if_pos (by simp [hup, hl, ht, hw]))

theorem exec_pdelayReq (hx : (s.takeRx p 7 1).1 = some x) : exec (.pdelayReq p) s =
    .next ((s.takeRx p 7 1).2.ringInsert p 7 7 0 2 (slice x.frame.payload 0 4 ++ timeBytes x.at_ ++ List.replicate 18 0) false) := by
  simp only [exec, execPdelayReq, hx]

theorem exec_pdelayResp (hx : (s.takeRx p 7 2).1 = some x) {t1 : Nat}
    (ho : ((s.takeRx p 7 2).2.rport p).pdOpen = some (beAt x.frame.payload 0 4, t1)) :
    let half : Int := ((x.at_ : Int) - t1) - ((timeAt x.frame.payload 14 : Int) - timeAt x.frame.payload 4)
    let t := (s.takeRx p 7 2).2.setRport p fun y => { y with pdOpen := none, pdHist := (y.pdHist ++ [half]).drop (y.pdHist.length + 1 - 8) }
    let v := t.wr (delayFld p) (min (t.linkNs p) 0xFFFE)
    exec (.pdelayResp p) s = .next (if 10 < absDiff (t.linkNs p) v.ring.hzDelays[p] then v.recomputeHorizon else v) := by
  simp only [exec, execPdelayResp, hx, ho, ne_eq, not_true, if_false]

/-- The first usable SYNC of the time master. -/
theorem exec_sync_first (hx : (s.takeRx p 7 0).1 = some x) {dl : Nat} (hd : ((s.takeRx p 7 0).2.rport p).delay16 = some dl)
    (hh : beAt x.frame.payload 18 1 ≠ 255) (hm : x.frame.src = (s.takeRx p 7 0).2.rd HLY_TIME_MASTER_ID) (ho : x.frame.src ≠ (s.takeRx p 7 0).2.ringId)
    (hu : (s.takeRx p 7 0).2.ring.syncUsed = none) (hl : (s.takeRx p 7 0).2.timeLate x.rxNow = false) :
    let d := x.frame.payload
    let t := (s.takeRx p 7 0).2
    let m : Int := (timeAt d 0 : Int) * 65536 + sext 64 (beAt d 10 8) + dl
    let off := ((x.at_ : Int) * 65536 - m) / 65536
    let v := t.setRing fun r => { r with syncUsed := some (x.frame.seq, beAt d 18 1), syncUsedAt := t.now }
    exec (.sync p) s = .next ((((((v.wr HLY_TIME_OFFSET_NS (wrap 32 off)).wr HLY_TIME_MASTER_HOPS (beAt d 18 1)).wr HLY_TIME_MASTER_PATH p.val).wr
      HLY_STATUS_TIME_VALID 1).offerOffset 1 off).retime) := by
  simp only [exec, execSync, hx, hl, Bool.false_eq_true, if_false, hd, hu]
  rw [if_neg (by simp [hh, ← hm, ho])]

end

/-- Settles O43: the frames that are sent, then those that arrive. -/
theorem ringControlFrames : Obligations.RingControlFrames := by
  refine ⟨fun s hup hj => ⟨exec_beaconSend hup hj, fun p => exec_pdelaySend hup hj, exec_syncSend hup hj⟩, ?_⟩
  intro p x s d
  refine ⟨?_, fun rid m hm => exec_beaconLoss hm, exec_pdelayReq, fun hx t1 ho => exec_pdelayResp hx ho, ?_⟩
  · intro hx t
    exact ⟨exec_beacon_own hx, exec_beacon_new hx⟩
  · intro hx t dl hd hh hm ho hu hl
    exact exec_sync_first hx hd hh hm ho hu hl

end Sys2Proof.Machine

/-! ## The Shroud and the way back to the ring (R414 to R418, R461, R711) -/

namespace Sys2Proof.Machine

/-! ### Work of the ring leaves the Shroud, the firmware and the membership alone -/

/-- A change as the ring makes it beside a join or a leave: the Shroud and its registers, the firmware, a join in progress and
the membership registers stay. -/
structure State.RingWork (s t : State) : Prop where
  inv : t.Inv
  shroud : t.shroud = s.shroud
  fw : t.fw = s.fw
  join : t.ring.join = s.ring.join
  mainUp : t.mainUp = s.mainUp
  reg : ∀ o, 0x1A0000 ≤ o → o < 0x1A0020 → t.reg o = s.reg o
  joined : t.joined = s.joined
  ringId : t.ringId = s.ringId

section
variable {s t u : State}

theorem State.RingWork.trans (h : s.RingWork t) (k : t.RingWork u) : s.RingWork u :=
  ⟨k.inv, k.shroud.trans h.shroud, k.fw.trans h.fw, k.join.trans h.join, k.mainUp.trans h.mainUp,
    fun o hlo hhi => (k.reg o hlo hhi).trans (h.reg o hlo hhi), k.joined.trans h.joined, k.ringId.trans h.ringId⟩

theorem State.RingWork.ite {p : Prop} [Decidable p] (h : s.RingWork t) (k : s.RingWork u) : s.RingWork (if p then t else u) := by
  split
  · exact h
  · exact k

theorem foldl_ringWork {α : Type} {f : State → α → State} (hf : ∀ (t : State) x, t.Inv → t.RingWork (f t x)) (l : List α) (hs : s.Inv) :
    s.RingWork (l.foldl f s) := by
  induction l generalizing s with
  | nil => exact ⟨hs, rfl, rfl, rfl, rfl, fun _ _ _ => rfl, rfl, rfl⟩
  | cons x l ih => exact (hf s x hs).trans (ih (hf s x hs).inv)

variable (hs : s.Inv)
include hs

theorem State.ringWork_refl : s.RingWork s := ⟨hs, rfl, rfl, rfl, rfl, fun _ _ _ => rfl, rfl, rfl⟩

/-- A write beside the Shroud's registers and the membership's fields. -/
theorem State.wr_ringWork {f : Fld} (v : Nat) (hf : f.Fits) (hoff : f.off < 0x1A0000 ∨ 0x1A0020 ≤ f.off)
    (hj : f.Apart HLY_STATUS_JOINED) (hr : f.Apart HLY_RING_ID_ID) : s.RingWork (s.wr f v) where
  inv := State.wr_inv hs f v
  shroud := rfl
  fw := rfl
  join := rfl
  mainUp := rfl
  reg o hlo hhi := State.wr_reg_other hs f v (by omega)
  joined := by rw [State.joined, State.flag, State.wr_rd_apart hs v hf hj, State.joined, State.flag]
  ringId := State.wr_rd_apart hs v hf hr

theorem State.setCause_ringWork {c : Cause} (hoff : c.off < 0x1A0000 ∨ 0x1A0020 ≤ c.off) (hj : c.off ≠ HLY_STATUS_JOINED.off)
    (hr : c.off ≠ HLY_RING_ID_ID.off) : s.RingWork (s.setCause c) where
  inv := (State.setCause_kept c hs).inv
  shroud := State.setCause_shroud s c
  fw := State.setCause_fw s c
  join := by rw [State.setCause_ring]
  mainUp := State.setCause_mainUp s c
  reg o hlo hhi := State.setCause_reg_other hs (by omega)
  joined := by rw [State.joined, State.flag, State.setCause_rd_other hs hj.symm, State.joined, State.flag]
  ringId := State.setCause_rd_other hs hr.symm

omit hs in
theorem evClass_lt (code : Nat) : evClass code < 4 := by
  rw [evClass]
  split_ifs <;> decide

theorem State.report_ringWork (code source detail : Nat) : s.RingWork (s.report code source detail) := by
  have hlt := evClass_lt code
  have hd : (EVT_DROPPED_COUNT (evClass code)).off = 0x180010 + evClass code * 4 := rfl
  have hc : s.RingWork (s.count (EVT_DROPPED_COUNT (evClass code)) 1) := State.wr_ringWork hs _ (show 0 + 32 ≤ 32 by decide) (by omega)
    (.inl (show 0x180000 + 0x10 + _ * 4 ≠ 0x160008 by omega)) (.inl (show 0x180000 + 0x10 + _ * 4 ≠ 0x160004 by omega))
  have hqueued (q : List Report) : s.RingWork { s with log := { s.log with reports := q } } :=
    ⟨State.setLog_inv hs _, rfl, rfl, rfl, rfl, fun _ _ _ => rfl, rfl, rfl⟩
  exact (hqueued _).ite (hc.trans (State.setCause_ringWork hc.inv (by decide) (by decide) (by decide)))

theorem State.reported_ringWork {c : Cause} (code source detail : Nat) (hoff : c.off < 0x1A0000 ∨ 0x1A0020 ≤ c.off)
    (hj : c.off ≠ HLY_STATUS_JOINED.off) (hr : c.off ≠ HLY_RING_ID_ID.off) : s.RingWork ((s.setCause c).report code source detail) :=
  have h := State.setCause_ringWork hs hoff hj hr
  h.trans (State.report_ringWork h.inv _ _ _)

/-- A write of a port's queue registers. -/
theorem State.wrQueue_ringWork {f : Fld} {p r : Nat} (v : Nat) (hf : f.Fits) (hoff : f.off = 0x160800 + p * 0x800 + r) (hlo : 0x20 ≤ r)
    (hhi : r < 0x800) : s.RingWork (s.wr f v) :=
  State.wr_ringWork hs v hf (by omega) (.inl (by rw [hoff]; exact show _ ≠ 0x160008 by omega)) (.inl (by rw [hoff]; exact show _ ≠ 0x160004 by omega))

theorem State.rxDrop_ringWork (p : Nat) (f : HFrame) : s.RingWork (s.rxDrop p f) := by
  have hlo (v : Nat) : s.RingWork (s.wr (HLYQ_RX_DROP_BYTES_LO_BYTES p) v) :=
    State.wrQueue_ringWork hs v (show 0 + 32 ≤ 32 by decide) rfl (by decide) (by decide)
  exact (hlo _).trans (State.wrQueue_ringWork (hlo _).inv _ (show 0 + 32 ≤ 32 by decide) rfl (by decide) (by decide))

theorem State.setRing_ringWork {f : Ring → Ring} (hf : (f s.ring).join = s.ring.join) : s.RingWork (s.setRing f) :=
  ⟨(State.setRing_kept f hs).inv, rfl, rfl, hf, rfl, fun _ _ _ => rfl, rfl, rfl⟩

theorem State.sendRf_ringWork (p : Nat) (on : Bool) : s.RingWork (s.sendRf p on) :=
  (State.ringWork_refl hs).ite ⟨(State.setRport_kept p _ (State.emit_kept _ hs)).inv, rfl, rfl, rfl, rfl, fun _ _ _ => rfl, rfl, rfl⟩

theorem State.splitFlag_ringWork : s.RingWork s.splitFlag := by
  have hw := State.wr_ringWork hs (f := HLY_STATUS_SPLIT) (b2n s.isSplit) (by decide) (by decide) (by decide) (by decide)
  exact (hw.trans (State.reported_ringWork hw.inv _ _ _ (by decide) (by decide) (by decide))).ite hw

theorem State.dropEnd_ringWork (rid side : Nat) : s.RingWork (s.dropEnd rid side) := by
  have h := State.setRing_ringWork hs (f := fun r => { r with wrapEnds := r.wrapEnds.filter fun e => e ≠ (rid, side) }) rfl
  exact h.trans (State.splitFlag_ringWork h.inv)

theorem State.setRqueue_ringWork (p : Nat) {q : Nat} (hq : q < 8) (l : List TxItem) : s.RingWork (s.setRqueue p q l) := by
  have h (x : RingPort → RingPort) : s.RingWork (s.setRport p x) :=
    ⟨(State.setRport_kept p x hs).inv, rfl, rfl, rfl, rfl, fun _ _ _ => rfl, rfl, rfl⟩
  exact (h _).trans (State.wrQueue_ringWork (r := 0x80 + q * 4) (h _).inv _ (show 0 + 24 ≤ 32 by decide) (Nat.add_assoc _ _ _) (by omega) (by omega))

theorem State.returnQueues_ringWork : s.RingWork s.returnQueues := by
  have hstep : ∀ q < 7, ∀ t : State, t.Inv → t.RingWork
      ((t.setRqueue 1 q (t.rqueue 1 q ++ (t.rqueue 0 q).filter fun x => !decide (x.frame.cls = 5 ∧ x.frame.stream = 3))).setRqueue 0 q
        ((t.rqueue 0 q).filter fun x => decide (x.frame.cls = 5 ∧ x.frame.stream = 3))) := by
    intro q hq t ht
    have h := State.setRqueue_ringWork ht 1 (q := q) (by omega)
      (t.rqueue 1 q ++ (t.rqueue 0 q).filter fun x => !decide (x.frame.cls = 5 ∧ x.frame.stream = 3))
    exact h.trans (State.setRqueue_ringWork h.inv 0 (by omega) _)
  have hall : ∀ l : List Nat, (∀ q ∈ l, q < 7) → ∀ t : State, t.Inv → t.RingWork (l.foldl (fun t q =>
      (t.setRqueue 1 q (t.rqueue 1 q ++ (t.rqueue 0 q).filter fun x => !decide (x.frame.cls = 5 ∧ x.frame.stream = 3))).setRqueue 0 q
        ((t.rqueue 0 q).filter fun x => decide (x.frame.cls = 5 ∧ x.frame.stream = 3))) t) := by
    intro l
    induction l with
    | nil => exact fun _ t ht => State.ringWork_refl ht
    | cons q l ih =>
      intro hl t ht
      have h := hstep q (hl q List.mem_cons_self) t ht
      exact h.trans (ih (fun x hx => hl x (List.mem_cons_of_mem _ hx)) _ h.inv)
  exact hall _ (fun q hq => List.mem_range.mp hq) s hs

theorem State.setAdj_ringWork (v : Nat) : s.RingWork (s.setAdj v) :=
  (State.ringWork_refl hs).ite (State.wr_ringWork hs _ (by decide) (by decide) (by decide) (by decide))

theorem State.setClocks_ringWork (f : Clocks → Clocks) : s.RingWork (s.setClocks f) :=
  ⟨(State.setClocks_kept f hs).inv, rfl, rfl, rfl, rfl, fun _ _ _ => rfl, rfl, rfl⟩

theorem State.setLastOffset_ringWork (off : Int) : s.RingWork (s.setLastOffset off) :=
  State.setClocks_ringWork hs fun c => { c with lastOffset := off }

theorem State.retime_ringWork : s.RingWork s.retime := by
  have htracked := (State.setClocks_ringWork hs fun c => { c with trackedAt := some s.now }).ite
    (p := s.rd TSY_TIME_STATUS_SOURCE < 2) (State.ringWork_refl hs)
  rw [State.retime]
  extract_lets old c t new u v
  have ht : s.RingWork t := htracked
  have hu : s.RingWork u := ht.trans ((State.setAdj_ringWork ht.inv _).ite ((State.setAdj_ringWork ht.inv _).ite (State.ringWork_refl ht.inv)))
  have hv : s.RingWork v := hu.trans ((State.setLastOffset_ringWork hu.inv _).ite ((State.setLastOffset_ringWork hu.inv _).ite (State.ringWork_refl hu.inv)))
  have hw := hv.trans (State.wr_ringWork hv.inv (f := TSY_TIME_STATUS_SOURCE) new (by decide) (by decide) (by decide) (by decide))
  exact (ht.ite (hw.trans (State.reported_ringWork hw.inv _ _ _ (by decide) (by decide) (by decide)))).ite (State.ringWork_refl hs)

theorem State.elect_ringWork : s.RingWork s.elect := by
  have h1 := State.wr_ringWork hs (f := HLY_TIME_MASTER_ID) s.master (by decide) (by decide) (by decide) (by decide)
  have h2 := h1.trans (State.setCause_ringWork h1.inv (c := causeHly 7) (by decide) (by decide) (by decide))
  have ht := (State.ringWork_refl hs).ite (p := s.master = s.rd HLY_TIME_MASTER_ID)
    (h2.trans (State.setRing_ringWork h2.inv (f := fun r => { r with syncUsed := none }) rfl))
  exact ht.trans (State.retime_ringWork ht.inv)

theorem State.horizonFlag_ringWork {f : Fld} (v : Bool) (hf : f.Fits) (hoff : f.off < 0x1A0000 ∨ 0x1A0020 ≤ f.off)
    (hj : f.Apart HLY_STATUS_JOINED) (hr : f.Apart HLY_RING_ID_ID) : s.RingWork (s.horizonFlag f v) := by
  have hw := State.wr_ringWork hs (f := f) (b2n v) hf hoff hj hr
  exact (hw.trans (State.reported_ringWork hw.inv _ _ _ (by decide) (by decide) (by decide))).ite hw

theorem State.recomputeHorizon_ringWork : s.RingWork s.recomputeHorizon := by
  have h1 := State.setRing_ringWork hs (f := fun x => { x with hzDelays := #v[s.linkNs 0, s.linkNs 1] }) rfl
  have h2 := h1.trans (State.wr_ringWork h1.inv (f := HLY_L_RING_NS) (min s.horizonL.1 0x7FFFFF) (by decide) (by decide) (by decide) (by decide))
  have h3 := h2.trans (State.wr_ringWork h2.inv (f := HLY_L_WRAP_NS) (min s.horizonL.2 0x7FFFFF) (by decide) (by decide) (by decide) (by decide))
  have h4 (v : Bool) := h3.trans (State.horizonFlag_ringWork h3.inv (f := HLY_STATUS_HORIZON_EXCEEDED) v (by decide) (by decide) (by decide) (by decide))
  exact (h4 _).trans (State.horizonFlag_ringWork (h4 _).inv _ (by decide) (by decide) (by decide) (by decide))

/-- What the ring loses by a switch leaves the Shroud as it stands, and the device outside the ring. -/
structure State.LeftRing (s t : State) : Prop where
  inv : t.Inv
  shroud : t.shroud = s.shroud
  mainUp : t.mainUp = s.mainUp
  reg : ∀ o, 0x1A0000 ≤ o → o < 0x1A0020 → t.reg o = s.reg o
  joined : t.joined = false
  ringId : t.ringId = 0

theorem State.dropAll_ringWork (l : List TxItem) : s.RingWork (l.foldl (fun t x => match x.arrived with
    | some (p, _) => t.rxDrop p x.frame
    | none => t) s) := by
  refine foldl_ringWork (fun t x ht => ?_) l hs
  split
  · exact State.rxDrop_ringWork ht _ _
  · exact State.ringWork_refl ht

theorem State.dropNotices_ringWork : s.RingWork s.dropNotices := State.setRqueue_ringWork hs 0 (q := 5) (by decide) _

omit hs in
/-- The membership registers are cleared. -/
theorem State.outside_left (h : s.RingWork t) (f : Ring → Ring) : s.LeftRing (((t.wr HLY_STATUS_JOINED 0).wr HLY_RING_ID_ID 0).setRing f) := by
  have hi := State.wr_inv h.inv HLY_STATUS_JOINED 0
  refine ⟨(State.setRing_kept f (State.wr_inv hi HLY_RING_ID_ID 0)).inv, h.shroud, h.mainUp, fun o hlo hhi => ?_, ?_, ?_⟩
  · rw [State.setRing_reg, State.wr_reg_other hi _ _ (show o ≠ 0x160004 by omega), State.wr_reg_other h.inv _ _ (show o ≠ 0x160008 by omega)]
    exact h.reg o hlo hhi
  · rw [State.joined, State.flag, State.setRing_rd, State.wr_rd_other hi _ _ _ (by decide), State.wr_rd_same h.inv _ _ (by decide)]
    rfl
  · rw [State.ringId, State.setRing_rd, State.wr_rd_same hi _ _ (by decide), Nat.zero_mod]

omit hs in
/-- Where nothing waits a wake changes nothing. -/
theorem State.wake_idle (hw : s.fw.waiting = []) (f : Waiting → Option (Nat × List Byte)) : s.wake f = s := by
  rw [State.wake_none hw, ← hw]

theorem State.ringLost_left (hjoin : s.ring.join = none) (hw : s.fw.waiting = []) : s.LeftRing s.ringLost := by
  delta State.ringLost
  extract_lets s1 drop s2 s3 s4 late s5 s6 s7 s8
  have h1 : s.RingWork s1 := State.dropAll_ringWork hs _
  have h2 : s.RingWork s2 := by
    have ha := h1.trans (State.sendRf_ringWork h1.inv 0 false)
    have hb := ha.trans (State.sendRf_ringWork ha.inv 1 false)
    have hc := hb.trans (State.dropEnd_ringWork hb.inv s1.ringId 0)
    exact hc.trans (State.dropEnd_ringWork hc.inv s1.ringId 1)
  have h3 : s.RingWork s3 := h2.trans ((State.returnQueues_ringWork h2.inv).ite (State.ringWork_refl h2.inv))
  have h4 : s.RingWork s4 := h3.trans (State.dropNotices_ringWork h3.inv)
  have h5 : s.RingWork s5 := h4.trans (State.setRing_ringWork h4.inv rfl)
  have h6 : s.RingWork s6 := by
    have ha := h5.trans (State.wr_ringWork h5.inv (f := HLY_STATUS_HW_WRAP) 0 (by decide) (by decide) (by decide) (by decide))
    exact ha.trans (State.wr_ringWork ha.inv (f := HLY_STATUS_HE_WRAP) 0 (by decide) (by decide) (by decide) (by decide))
  have h7 : s.LeftRing s7 := State.outside_left h6 _
  have h8 : s8 = s7 := by
    have hnone : s7.ring.join = none := h6.join.trans hjoin
    simp only [s8, hnone]
  have hleave : (if s8.shroud.path = 1 then s8.leaveDone else s8) = s7 := by
    rw [h8]
    exact (if_congr Iff.rfl (State.wake_idle ((congrArg (·.waiting) h6.fw).trans hw) _) rfl).trans (ite_self _)
  rw [hleave]
  have hwork := (State.elect_ringWork h7.inv).trans (State.recomputeHorizon_ringWork (State.elect_ringWork h7.inv).inv)
  exact ⟨hwork.inv, hwork.shroud.trans h7.shroud, hwork.mainUp.trans h7.mainUp, fun o hlo hhi => (hwork.reg o hlo hhi).trans (h7.reg o hlo hhi),
    hwork.joined.trans h7.joined, hwork.ringId.trans h7.ringId⟩

/-- A takeover is reported where the main die runs. -/
theorem State.reportTakeover_spec : s.reportTakeover.shroud = { s.shroud with unreported := s.shroud.unreported && !s.mainUp } ∧
    (∀ o, 0x1A0000 ≤ o → o < 0x1A0020 → s.reportTakeover.reg o = s.reg o) ∧ s.reportTakeover.joined = s.joined ∧
    s.reportTakeover.ringId = s.ringId := by
  rw [State.reportTakeover]
  split
  case isTrue h =>
    obtain ⟨hun, hup⟩ := h
    have hi := (State.setShroud_kept (fun x => { x with unreported := false }) hs).inv
    have hw := State.reported_ringWork hi (c := causeHly 8) EV_SHROUD_TAKEOVER (src 11 0) (s.rd SHD_CAUSE_CAUSE) (by decide) (by decide) (by decide)
    refine ⟨hw.shroud.trans ?_, hw.reg, hw.joined, hw.ringId⟩
    rw [hup, Bool.not_true, Bool.and_false]
    rfl
  case isFalse h =>
    refine ⟨?_, fun _ _ _ => rfl, rfl, rfl⟩
    have hun : (s.shroud.unreported && !s.mainUp) = s.shroud.unreported := by
      cases hu : s.shroud.unreported <;> cases hm : s.mainUp <;> simp_all
    rw [hun]

end

/-! ### The Shroud's own registers (R414 to R417, R711) -/

/-- The fields of the Shroud's page are no two of them the same bits. -/
theorem State.shroudTo_spec {s : State} (hs : s.Inv) {st : Nat} (hst : st < 8) (ok : Bool) (path : Nat) :
    let t := s.shroudTo st ok path
    t.Inv ∧ t.rd SHD_STATE_STATE = st ∧ t.rd SHD_STATE_OK_PIN = b2n ok ∧ (∀ o, o ≠ SHD_STATE_STATE.off → t.reg o = s.reg o) ∧
      t = { s with regs := t.regs, shroud := { s.shroud with path := path } } := by
  intro t
  have hi := State.wr_inv hs SHD_STATE_STATE st
  have hj := State.wr_inv hi SHD_STATE_OK_PIN (b2n ok)
  have hrd (f : Fld) : t.rd f = ((s.wr SHD_STATE_STATE st).wr SHD_STATE_OK_PIN (b2n ok)).rd f := rfl
  refine ⟨(State.setShroud_kept _ hj).inv, ?_, ?_, fun o ho => ?_, rfl⟩
  · rw [hrd, State.wr_rd_apart hi _ (by decide) (by decide), State.wr_rd_same hs _ _ (by decide)]
    exact Nat.mod_eq_of_lt hst
  · rw [hrd, State.wr_rd_same hi _ _ (by decide)]
    cases ok <;> rfl
  · exact (State.wr_reg_other hi SHD_STATE_OK_PIN _ ho).trans (State.wr_reg_other hs _ _ ho)

theorem State.switchGap_spec {s : State} (hs : s.Inv) : s.switchGap.Inv ∧ s.switchGap.rd SHD_OUT_GAP_NS ≤ 5000 ∧
    (∀ o, o ≠ SHD_OUT_GAP_NS.off → s.switchGap.reg o = s.reg o) ∧
    s.switchGap = { s with regs := s.switchGap.regs, freeCtr := s.switchGap.freeCtr } := by
  have hfree := (State.freeNat_kept hs).inv
  refine ⟨State.wr_inv hfree _ _, ?_, fun o ho => State.wr_reg_other hfree _ _ ho, rfl⟩
  calc s.switchGap.rd SHD_OUT_GAP_NS = s.freeNat.1 % 5001 % 2 ^ 16 := State.wr_rd_same hfree _ _ (by decide)
    _ ≤ 5000 := by omega

/-- What a takeover leaves of the ring, once the Shroud's registers stand. -/
theorem State.ringLost_reported {s : State} (hs : s.Inv) (hjoin : s.ring.join = none) (hw : s.fw.waiting = []) (a : Option Nat) :
    let t := (s.setShroud fun x => { x with unreported := true, takenAt := a }).ringLost.reportTakeover
    (∀ o, 0x1A0000 ≤ o → o < 0x1A0020 → t.reg o = s.reg o) ∧ t.joined = false ∧ t.ringId = 0 ∧
    t.shroud = { s.shroud with unreported := !s.mainUp, takenAt := a } := by
  have hleft := State.ringLost_left (State.setShroud_kept (fun x => { x with unreported := true, takenAt := a }) hs).inv hjoin hw
  obtain ⟨hshroud, hreg, hj, hr⟩ := State.reportTakeover_spec hleft.inv
  refine ⟨fun o hlo hhi => (hreg o hlo hhi).trans (hleft.reg o hlo hhi), hj.trans hleft.joined, hr.trans hleft.ringId, ?_⟩
  rw [hshroud, hleft.shroud, hleft.mainUp]
  rfl

/-- A takeover: the registers of the Shroud, the through-path and the device outside the ring. -/
theorem State.shroudTakeover_taken {s : State} (hs : s.Inv) {cause : Nat} (hcause : cause < 8) (haux : s.auxGood = true)
    (hst : s.rd SHD_STATE_STATE = 2 ∨ s.rd SHD_STATE_STATE = 3) (hjoin : s.ring.join = none) (hw : s.fw.waiting = []) :
    let t := s.shroudTakeover cause
    t.rd SHD_STATE_STATE = 1 ∧ t.rd SHD_STATE_OK_PIN = 1 ∧ t.rd SHD_CAUSE_CAUSE = cause ∧ t.rd SHD_OUT_GAP_NS ≤ 5000 ∧
    t.rd SHD_TAKEOVERS_COUNT = min (s.rd SHD_TAKEOVERS_COUNT + 1) (2 ^ SHD_TAKEOVERS_COUNT.width - 1) ∧
    t.joined = false ∧ t.ringId = 0 ∧ t.shroud.path = 1 ∧ t.shroud.unreported = !s.mainUp := by
  have hcond : (s.auxGood && decide (s.rd SHD_STATE_STATE = 2 ∨ s.rd SHD_STATE_STATE = 3)) = true := by simp [haux, hst]
  simp only [State.shroudTakeover, hcond, if_true]
  have hnoted := State.wr_inv hs SHD_CAUSE_CAUSE cause
  have hcounted := State.count_inv hnoted SHD_TAKEOVERS_COUNT 1
  have hcause' : ((s.wr SHD_CAUSE_CAUSE cause).count SHD_TAKEOVERS_COUNT 1).rd SHD_CAUSE_CAUSE = cause := by
    rw [(State.count_regsOnly hnoted _ _).rd_eq (by decide), State.wr_rd_same hs _ _ (by decide)]
    exact Nat.mod_eq_of_lt hcause
  have hcount : ((s.wr SHD_CAUSE_CAUSE cause).count SHD_TAKEOVERS_COUNT 1).rd SHD_TAKEOVERS_COUNT =
      min (s.rd SHD_TAKEOVERS_COUNT + 1) (2 ^ SHD_TAKEOVERS_COUNT.width - 1) := by
    rw [State.count_rd_same hnoted _ _ (by decide), State.wr_rd_other hs _ _ _ (by decide)]
  have hcjoin : ((s.wr SHD_CAUSE_CAUSE cause).count SHD_TAKEOVERS_COUNT 1).ring.join = none := hjoin
  have hcwait : ((s.wr SHD_CAUSE_CAUSE cause).count SHD_TAKEOVERS_COUNT 1).fw.waiting = [] := hw
  have hcup : ((s.wr SHD_CAUSE_CAUSE cause).count SHD_TAKEOVERS_COUNT 1).mainUp = s.mainUp := rfl
  generalize (s.wr SHD_CAUSE_CAUSE cause).count SHD_TAKEOVERS_COUNT 1 = c at *
  obtain ⟨hthrough, hstate, hpin, hreg, heq⟩ := State.shroudTo_spec hcounted (st := 1) (by decide) true 1
  generalize c.shroudTo 1 true 1 = v at *
  obtain ⟨hgap, hns, hgreg, hgeq⟩ := State.switchGap_spec hthrough
  generalize v.switchGap = g at *
  have hgjoin : g.ring.join = none := by rw [hgeq, heq]; exact hcjoin
  have hgwait : g.fw.waiting = [] := by rw [hgeq, heq]; exact hcwait
  obtain ⟨hlreg, hjoined, hringId, hshroud⟩ := State.ringLost_reported hgap hgjoin hgwait (some g.now)
  generalize (g.setShroud fun x => { x with unreported := true, takenAt := some g.now }).ringLost.reportTakeover = t at *
  have htg (f : Fld) (h1 : 0x1A0000 ≤ f.off) (h2 : f.off < 0x1A0020) : t.rd f = g.rd f := by rw [State.rd, hlreg _ h1 h2, State.rd]
  have hgv (f : Fld) (h : f.off ≠ SHD_OUT_GAP_NS.off) : g.rd f = v.rd f := by rw [State.rd, hgreg _ h, State.rd]
  have hvc (f : Fld) (h : f.off ≠ SHD_STATE_STATE.off) : v.rd f = c.rd f := by rw [State.rd, hreg _ h, State.rd]
  refine ⟨?_, ?_, ?_, ?_, ?_, hjoined, hringId, ?_, ?_⟩
  · rw [htg _ (by decide) (by decide), hgv _ (by decide), hstate]
  · rw [htg _ (by decide) (by decide), hgv _ (by decide), hpin]
    rfl
  · rw [htg _ (by decide) (by decide), hgv _ (by decide), hvc _ (by decide), hcause']
  · rw [htg _ (by decide) (by decide)]
    exact hns
  · rw [htg _ (by decide) (by decide), hgv _ (by decide), hvc _ (by decide), hcount]
  · rw [hshroud, hgeq, heq]
  · rw [hshroud, hgeq, heq, ← hcup]

/-- A fault of the Shroud opens the path for good. -/
theorem exec_shroudFault {s : State} (hs : s.Inv) (haux : s.auxGood = true) (hst : s.rd SHD_STATE_STATE = 1) :
    Runs .shroudFault s fun t => t.rd SHD_STATE_STATE = 4 ∧ t.rd SHD_STATE_OK_PIN = 0 ∧ t.rd SHD_STATE_LANE_LOCK ≠ 0xFF ∧
      t.shroud = { s.shroud with path := 0, faulted := true } ∧ (∀ o, o ≠ SHD_STATE_STATE.off → t.reg o = s.reg o) ∧
      t = { s with regs := t.regs, shroud := t.shroud, freeCtr := t.freeCtr } := by
  refine ⟨_, congrArg Host.Outcome.next (if_pos (by simp [haux, hst])), ?_⟩
  dsimp only
  obtain ⟨hopen, hstate, hpin, hreg, heq⟩ := State.shroudTo_spec hs (st := 4) (by decide) false 0
  generalize s.shroudTo 4 false 0 = v at *
  have hset := (State.setShroud_kept (fun x => { x with faulted := true }) hopen).inv
  have hfree := (State.freeNat_kept hset).inv
  have hfreg (o : Nat) : (v.setShroud fun x => { x with faulted := true }).freeNat.2.reg o = v.reg o := rfl
  have hfeq : (v.setShroud fun x => { x with faulted := true }).freeNat.2 =
      { s with regs := v.regs, shroud := { s.shroud with path := 0, faulted := true }, freeCtr := v.freeCtr + 1 } := by rw [heq]; rfl
  generalize (v.setShroud fun x => { x with faulted := true }).freeNat.2 = u at *
  generalize (v.setShroud fun x => { x with faulted := true }).freeNat.1 = n
  have hrd (f : Fld) : u.rd f = v.rd f := by rw [State.rd, hfreg, State.rd]
  refine ⟨?_, ?_, ?_, ?_, fun o ho => ?_, ?_⟩
  · rw [State.wr_rd_apart hfree _ (by decide) (by decide), hrd, hstate]
  · rw [State.wr_rd_apart hfree _ (by decide) (by decide), hrd, hpin]
    rfl
  · rw [State.wr_rd_same hfree _ _ (by decide)]
    exact show n % 255 % 2 ^ 8 ≠ 0xFF by omega
  · rw [State.wr_shroud, hfeq]
  · exact (State.wr_reg_other hfree SHD_STATE_LANE_LOCK _ ho).trans ((hfreg o).trans (hreg o ho))
  · rw [hfeq]
    rfl

section
variable {s : State}

theorem exec_shroudHeartbeat (hup : s.mainUp = true) (hpath : s.shroud.path = 2)
    (hin : s.now ≤ s.shroud.lastHb + max 5 (s.rd SHD_HB_TIMEOUT) * 100) :
    exec .shroudHeartbeat s = .next (s.setShroud fun x => { x with lastHb := s.now }) := by
  have hover : s.shroudHbOver = false := by simp [State.shroudHbOver, hin]
  simp only [exec, execShroudHeartbeat, hover, hup, hpath, Bool.false_eq_true, if_false, and_self, if_true]

theorem exec_shroudHbTimeout (hpath : s.shroud.path = 2) (hlate : s.shroud.lastHb + max 5 (s.rd SHD_HB_TIMEOUT) * 100 < s.now) :
    exec .shroudHbTimeout s = .next (s.shroudTakeover 3) := by
  have hover : s.shroudHbOver = true := by simp [State.shroudHbOver, hpath, hlate]
  simp only [exec, execShroudHbTimeout, hover, if_true]

theorem exec_shroudPorEnd (haux : s.auxGood = true) (hst : s.rd SHD_STATE_STATE = 0) (hms : s.shroud.goodSince + 1000000 ≤ s.now) :
    exec .shroudPorEnd s = .next s.shroudThrough.bypassUpdate :=
  congrArg Host.Outcome.next (if_pos (by simp [haux, hst, hms]))

/-- The auxiliary rails: nothing changes, they come, they go. -/
theorem exec_auxRailChange (a b : Bool) : let t := s.setShroud fun x => { x with vaux := a, vaux18 := b }
    (t.auxGood = s.auxGood → exec (.auxRailChange a b) s = .next t) ∧
    (t.auxGood = true → s.auxGood = false → exec (.auxRailChange a b) s = .next (t.shdReset.setShroud fun x =>
      { x with goodSince := s.now, path := 0, faulted := false, lastHb := s.now, unreported := false, takenAt := none })) ∧
    (t.auxGood = false → s.auxGood = true → let u := t.shroudTo (s.rd SHD_STATE_STATE) false 0
      exec (.auxRailChange a b) s = .next (if s.mainUp then u.ringLost else u)) := by
  intro t
  have hexec : exec (.auxRailChange a b) s = .next (if t.auxGood then
      if s.auxGood then t else t.shdReset.setShroud fun x =>
        { x with goodSince := s.now, path := 0, faulted := false, lastHb := s.now, unreported := false, takenAt := none }
    else if s.auxGood then
      if s.mainUp then (t.shroudTo (s.rd SHD_STATE_STATE) false 0).ringLost else t.shroudTo (s.rd SHD_STATE_STATE) false 0
    else t) := rfl
  rw [hexec]
  refine ⟨fun h => ?_, fun hgood hwas => ?_, fun hgone hwas => ?_⟩
  · rw [h]
    cases s.auxGood <;> rfl
  · rw [hgood, hwas]
    rfl
  · rw [hgone, hwas]
    rfl

theorem State.shroudTakeover_other {cause : Nat}
    (h : s.auxGood = false ∨ (s.rd SHD_STATE_STATE ≠ 2 ∧ s.rd SHD_STATE_STATE ≠ 3 ∧ s.shroud.takenAt ≠ some s.now)) :
    s.shroudTakeover cause = s := by
  rcases h with haux | ⟨h2, h3, hat⟩
  · simp [State.shroudTakeover, haux]
  · simp [State.shroudTakeover, h2, h3, hat]

/-- Of two causes in one cycle the one R711 ranks first stands. -/
theorem State.shroudTakeover_again {cause : Nat} (haux : s.auxGood = true) (h2 : s.rd SHD_STATE_STATE ≠ 2) (h3 : s.rd SHD_STATE_STATE ≠ 3)
    (hat : s.shroud.takenAt = some s.now) : s.shroudTakeover cause =
      if causeRank cause < causeRank (s.rd SHD_CAUSE_CAUSE) then s.wr SHD_CAUSE_CAUSE cause else s := by
  simp [State.shroudTakeover, haux, h2, h3, hat]

end

/-- Settles O46: the rows of the Shroud, then the three cases of a takeover. -/
theorem shroudEvents : Obligations.ShroudEvents :=
  ⟨fun _ => ⟨exec_shroudHeartbeat, exec_shroudHbTimeout, exec_shroudFault, exec_shroudPorEnd, exec_auxRailChange, fun _ => rfl⟩,
    fun _ _ hs hcause => ⟨State.shroudTakeover_other, State.shroudTakeover_again, State.shroudTakeover_taken hs hcause⟩⟩

end Sys2Proof.Machine

/-! ## The way back to the ring step by step (R391 to R396, R415) -/

namespace Sys2Proof.Machine

section
variable {s : State} {j : Join} (hj : s.ring.join = some j)

/-- A port that comes up: its link flag, and nothing but registers and messages. -/
theorem State.linkRise_spec (hs : s.Inv) (p : Nat) :
    (s.linkRise p).Inv ∧ (s.portEn p = true → (s.linkRise p).rd (linkFld p) = 1) ∧
    (∀ f : Fld, f.off = HLY_STATUS_JOINED.off → s.rd f = 1 → (linkFld p).Apart f → (s.linkRise p).rd f = 1) ∧
    (∀ q, (s.linkRise p).portEn q = s.portEn q) ∧
    s.linkRise p = { s with regs := (s.linkRise p).regs, out := (s.linkRise p).out, host := (s.linkRise p).host } := by
  have hfits : (linkFld p).Fits := by rw [linkFld]; split <;> decide
  have hwidth : (linkFld p).width = 1 := by rw [linkFld]; split <;> rfl
  have hoff : (linkFld p).off = 0x160008 := by rw [linkFld]; split <;> rfl
  have hi := State.wr_inv hs (linkFld p) 1
  rw [State.linkRise]
  split
  case isTrue h =>
    refine ⟨hs, fun hen => ?_, fun _ _ h1 _ => h1, fun _ => rfl, rfl⟩
    have hflag : s.flag (linkFld p) = true := by simpa [hen] using h
    exact (s.flag_iff hwidth).mp hflag
  case isFalse h =>
    refine ⟨(State.setCause_kept _ hi).inv, fun _ => ?_, fun f hf h1 hap => ?_, fun q => ?_, State.setCause_eq _ _⟩
    · rw [State.setCause_rd_other hi (by rw [hoff]; decide), State.wr_rd_same hs _ _ hfits, hwidth]
      rfl
    · rw [State.setCause_rd_other hi (by rw [hf]; decide), State.wr_rd_apart hs _ hfits hap, h1]
    · have hq : ((if q = 0 then HLY_CTRL_HW_EN else HLY_CTRL_HE_EN) : Fld).off = 0x160000 := by split <;> rfl
      rw [State.portEn, State.flag, State.setCause_rd_other hi (by rw [hq]; decide), State.wr_rd_other hs _ _ _ (by rw [hq, hoff]; decide),
        State.portEn, State.flag]

section
include hj

theorem exec_handbackListenEnd {t : Nat} {c : Bool} (hstep : j.step = .listen t false c) (ht : t + 2 * s.lossNs ≤ s.now) :
    exec .handbackListenEnd s = .next (match s.ring.members.find? fun m => decide (m.rid = j.rid ∧ m.serial ≠ s.fuses.serial) with
      | some m => s.joinFails stBAD_PARAM m.serial
      | none => (s.setJoin fun j => { j with step := .listen t true c }).joinMatch) := by
  simp only [exec, execHandbackListenEnd, hj, hstep, if_pos ht] <;> rfl

/-- The check of the lanes at its end, sound or not. -/
theorem exec_handbackCheckEnd {t : Nat} {h : Bool} (hstep : j.step = .listen t h false) (ht : t + 1000000 ≤ s.now) (clean : Bool) :
    exec (.handbackCheckEnd clean) s = .next (
      if clean && s.joinSound t then (s.setJoin fun j => { j with step := .listen t h true }).joinMatch
      else if j.tries < 3 then s.setJoin fun j => { j with step := .lock, tries := j.tries + 1 }
      else s.joinFails stBUSY 0) := by
  simp only [exec, execHandbackCheckEnd, hj, hstep, if_pos ht]

omit hj in
/-- Both ports have matched, or have switched, once the other one has. -/
theorem both_ports_iff (a b : Bool) (p : Fin 2) :
    (((a || decide (p.val = 0)) && (b || decide (p.val = 1))) = true) ↔ (a = true ∨ p.val = 0) ∧ (b = true ∨ p.val = 1) := by
  simp

theorem exec_handbackMatchEnd {a b : Bool} (hstep : j.step = .matching a b) (p : Fin 2) :
    exec (.handbackMatchEnd p) s = .next (s.setRing fun r => { r with join := some { j with
      step := if (a = true ∨ p.val = 0) ∧ (b = true ∨ p.val = 1) then .switching false false
        else .matching (a || decide (p.val = 0)) (b || decide (p.val = 1)) } }) := by
  simp only [exec, execHandbackMatchEnd, State.setJoin, State.setRing, hj, Option.map_some, hstep, both_ports_iff]

theorem exec_handbackSwitch {a b : Bool} (hstep : j.step = .switching a b) (p : Fin 2) : exec (.handbackSwitch p) s = .next (
    if (a = true ∨ p.val = 0) ∧ (b = true ∨ p.val = 1) then (s.setJoin fun j => { j with step := .member }).becomeMember j.rid
    else s.setJoin fun j => { j with step := .switching (a || decide (p.val = 0)) (b || decide (p.val = 1)) }) := by
  simp only [exec, execHandbackSwitch, hj, hstep, both_ports_iff]

theorem exec_joinComplete (hstep : j.step = .member) (hv : s.serving = true) (h0 : (s.rport 0).delay16.isSome = true)
    (h1 : (s.rport 1).delay16.isSome = true) :
    exec .joinComplete s = .next (s.recomputeHorizon.endJoin stOK s.recomputeHorizon.joinResp) := by
  simp only [exec, execJoinComplete, hj]
  exact congrArg Host.Outcome.next (if_pos (by simp only [hv, hstep, h0, h1, decide_true, Bool.and_self]))

/-- The lock of both ports: the links, the lanes, and the ports as they begin. -/
theorem exec_handbackLock (hs : s.Inv) (hstep : j.step = .lock) :
    Runs .handbackLock s fun t => (∀ p : Fin 2, s.portEn p.val = true → t.rd (linkFld p) = 1) ∧
      t.rd SHD_STATE_LANE_LOCK = 0xFF ∧
      (∀ p : Fin 2, (t.rport p).fault = false ∧ (t.rport p).lostAt = none ∧ (t.rport p).uncorr = [] ∧ (t.rport p).badAt = none) ∧
      t.ring.join = some { j with step := .listen s.now false false } := by
  obtain ⟨hi0, hen0, -, hport0, heq0⟩ := State.linkRise_spec hs 0
  obtain ⟨hi1, hen1, hkeep1, -, heq1⟩ := State.linkRise_spec hi0 1
  have hnow : ((s.linkRise 0).linkRise 1).now = s.now := by rw [heq1, heq0]
  have hjoin : ((s.linkRise 0).linkRise 1).ring.join = some j := by rw [heq1, heq0]; exact hj
  have hlink : ∀ p : Fin 2, s.portEn p.val = true → ((s.linkRise 0).linkRise 1).rd (linkFld p) = 1 := by
    intro p hen
    match p with
    | 0 => exact hkeep1 _ rfl (hen0 hen) (by decide)
    | 1 => exact hen1 ((hport0 1).trans hen)
  have hexec : exec .handbackLock s = .next (
      let s := ([0, 1].foldl State.linkRise s).wr SHD_STATE_LANE_LOCK 0xFF
      let fresh := fun (x : RingPort) => { x with lostAt := none, cleanSince := some s.now, uncorr := [], badAt := none, pdHist := [], pdOpen := none, fault := false }
      let s := ((s.wr HLY_LINK_DELAY_HW 0xFFFF).wr HLY_LINK_DELAY_HE 0xFFFF).setRing fun r => { r with ports := r.ports.map fresh }
      s.setJoin fun j => { j with step := .listen s.now false false }) := by
    simp only [exec, execHandbackLock, hj, hstep, if_true]
  refine ⟨_, hexec, ?_⟩
  simp only [List.foldl_cons, List.foldl_nil]
  generalize (s.linkRise 0).linkRise 1 = u at *
  have hl := State.wr_inv hi1 SHD_STATE_LANE_LOCK 0xFF
  have hd := State.wr_inv hl HLY_LINK_DELAY_HW 0xFFFF
  refine ⟨fun p hen => ?_, ?_, fun p => ?_, ?_⟩
  · have hoff : (linkFld p).off = 0x160008 := by rw [linkFld]; split <;> rfl
    rw [State.setJoin, State.setRing_rd, State.setRing_rd, State.wr_rd_other hd _ _ _ (by rw [hoff]; decide),
      State.wr_rd_other hl _ _ _ (by rw [hoff]; decide), State.wr_rd_other hi1 _ _ _ (by rw [hoff]; decide)]
    exact hlink p hen
  · rw [State.setJoin, State.setRing_rd, State.setRing_rd, State.wr_rd_other hd _ _ _ (by decide),
      State.wr_rd_other hl _ _ _ (by decide), State.wr_rd_same hi1 _ _ (by decide)]
    rfl
  · have hport : ∀ (r : Vector RingPort 2) (g : RingPort → RingPort), (r.map g)[Fin.ofNat 2 p] = g r[Fin.ofNat 2 p] :=
      fun r g => Vector.getElem_map _ _
    simp only [State.rport, State.setJoin, State.setRing, hport, and_self]
  · simp only [State.setJoin, State.setRing, State.wr_ring, State.wr_now, hjoin, hnow, Option.map_some]

end
end

/-- Settles O47: the steps of a join in their order, then the switch back of a leave. -/
theorem handbackSteps : Obligations.HandbackSteps := by
  refine ⟨fun j s hj => ⟨?_, ?_, ?_, fun a b hstep => exec_handbackSwitch hj hstep, exec_joinComplete hj, fun hs => exec_handbackLock hj hs⟩, ?_⟩
  · intro t c hstep ht
    rw [exec_handbackListenEnd hj hstep ht]
    refine ⟨fun hnone => ?_, fun m hm hrid hserial => ?_⟩
    · rw [hnone]
      rfl
    · simp [hm, hrid, hserial]
  · intro t h hstep ht
    refine ⟨fun hsound => ?_, fun clean hbad => ⟨fun htries => ?_, fun htries => ?_⟩⟩ <;> rw [exec_handbackCheckEnd hj hstep ht]
    · rw [hsound]
      rfl
    · rw [hbad]
      exact congrArg Host.Outcome.next (if_pos htries)
    · rw [hbad]
      exact congrArg Host.Outcome.next (if_neg (Nat.not_lt.mpr htries))
  · intro a b hstep p next
    exact ⟨_, exec_handbackMatchEnd hj hstep p, rfl, rfl⟩
  · intro s hl hpath hq
    have hwaits : ∀ p < 2, ((s.rqueue p 5).any fun x => decide (x.frame.stream = 0)) = false := by
      intro p hp
      simpa using hq p hp
    rw [exec, execLeaveSwitch]
    exact congrArg Host.Outcome.next (if_pos (by simp [hl, hpath, hwaits]))

end Sys2Proof.Machine

/-! ## The raster engine (R590 to R606) -/

namespace Sys2Proof.Machine

/-! ### A ternary raster operation, bit by bit (R599) -/

/-- The three operands select a bit of the code. -/
def rop3Bit (code p s d i : Nat) : Bool := code.testBit (4 * b2n (p.testBit i) + 2 * b2n (s.testBit i) + b2n (d.testBit i))

theorem rop3_succ (code n p s d : Nat) : rop3 code (n + 1) p s d =
    if rop3Bit code p s d n then rop3 code n p s d + 2 ^ n else rop3 code n p s d := by
  rw [rop3, List.range_succ, List.foldl_append, ← rop3]
  rfl

theorem rop3_lt (code n p s d : Nat) : rop3 code n p s d < 2 ^ n := by
  induction n with
  | zero => exact Nat.one_pos
  | succ n ih =>
    rw [rop3_succ, Nat.pow_succ]
    split <;> omega

theorem rop3_testBit (code n p s d i : Nat) (hi : i < n) : (rop3 code n p s d).testBit i = rop3Bit code p s d i := by
  induction n with
  | zero => exact absurd hi (Nat.not_lt_zero i)
  | succ n ih =>
    have hlt := rop3_lt code n p s d
    rw [rop3_succ]
    rcases Nat.lt_succ_iff_lt_or_eq.mp hi with hlow | rfl
    · split
      · rw [Nat.add_comm, Nat.testBit_two_pow_add_gt hlow, ih hlow]
      · exact ih hlow
    · split
      case isTrue h => rw [Nat.add_comm, Nat.testBit_two_pow_add_eq, Nat.testBit_lt_two_pow hlt, h, Bool.not_false]
      case isFalse h => rw [Nat.testBit_lt_two_pow hlt, Bool.eq_false_iff.mpr h]

/-! ### The engine's rows -/

section
variable {s : State} (hs : s.Inv)

theorem State.bltTo_phase (st : Nat) (p : BltPhase) : (s.bltTo st p).blt.phase = p := rfl

include hs in
theorem State.bltTo_state {st : Nat} (hst : st < 4) (p : BltPhase) : (s.bltTo st p).rd BLT_STATUS_STATE = st := by
  rw [State.bltTo, State.setBlt_rd, State.wr_rd_same hs _ _ (by decide)]
  exact Nat.mod_eq_of_lt hst

include hs in
/-- A bus error ends the command with error 5. -/
theorem State.bltBusErr_spec (a : Nat) : (s.bltBusErr a).rd BLT_STATUS_STATE = 1 ∧ (s.bltBusErr a).blt.phase = .done 5 :=
  ⟨State.bltTo_state (State.wr_inv (State.wr_inv hs _ _) _ _) (by decide) _, rfl⟩

include hs in
theorem State.bltRowLate_spec : s.bltRowLate.rd BLT_STATUS_STATE = 1 ∧ s.bltRowLate.blt.phase = .done 5 :=
  State.bltBusErr_spec (State.freeNat_kept (State.bltRow_kept _ _ _ (State.freeNat_kept hs))).inv _

section
variable (hup : s.mainUp = true)
include hup

theorem exec_bltCommandRead {since : Nat} (hp : s.blt.phase = .fetch since) :
    exec .bltCommandRead s = .next (if s.dmaLate since then s.bltFetchLate
      else (s.bltLines s.bltCmdAddr 2).2.bltAnswer s.bltCmdAddr (s.bltLines s.bltCmdAddr 2).1) := by
  simp only [exec, execBltCommandRead, hp, State.when, hup, if_true]

omit hup in
theorem exec_bltCommandRead_idle (hp : ∀ since, s.blt.phase ≠ .fetch since) : exec .bltCommandRead s = .next s := by
  rw [exec, execBltCommandRead]
  split
  case h_1 since h => exact absurd h (hp since)
  case h_2 => rfl

theorem exec_bltRowDone {since : Nat} (hp : s.blt.phase = .rows since) : let d := s.blt.cmd
    let k := s.rd BLT_ROWS_DONE_ROWS
    let held := s.dxbHeld (bltRowReads d k)
    let z := held.2.bltRow d k (bltRect d).w
    exec .bltRowDone s = .next (if s.dmaLate since then s.bltRowLate else if held.1 then held.2 else match z.1 with
      | some a => z.2.bltBusErr a
      | none => let t := z.2.bltRowCount
        if (bltRect d).h ≤ k + 1 then t.bltTo 1 (.done 0) else if t.blt.abort then t.bltTo 1 (.done 7) else t.bltTo 1 (.rows t.now)) := by
  simp only [exec, execBltRowDone, hp, State.when, hup, if_true] <;> rfl

theorem exec_bltCommandDone {e : Nat} (hp : s.blt.phase = .done e) : exec .bltCommandDone s = .next (s.bltBack e) := by
  simp only [exec, execBltCommandDone, hp, State.when, hup, if_true]

end

/-! ### A command that waits for a line (R601) -/

variable {d : List Byte} (hown : descOwn d = true)
include hown

theorem State.bltTake_wait (hop : bltOp d = 2) : s.bltTake d = s.bltWait d := by
  simp only [State.bltTake, hown, hop, Bool.not_true, Bool.false_eq_true, if_false, if_true]

theorem State.bltTake_draw (hop : bltOp d ≠ 2) : s.bltTake d =
    if s.bltCheck d = 0 then s.bltStart d else s.bltTo 1 (.done (s.bltCheck d)) := by
  simp only [State.bltTake, hown, hop, Bool.not_true, Bool.false_eq_true, if_false]

omit hown in
include hs in
/-- On a head that runs and stands on another line the engine waits, until the line comes. -/
theorem State.bltWait_waits (hh : leAt d 86 1 < s.nHeads) (hl : leAt d 88 2 < s.lrd (HEAD_TIMING_V_V_TOTAL (leAt d 86 1)))
    (hg : (s.hd (leAt d 86 1)).gen = true) (hne : (s.hd (leAt d 86 1)).line ≠ leAt d 88 2) :
    let t := s.bltWait d
    t.rd BLT_STATUS_STATE = 2 ∧ t.blt.phase = .wait (leAt d 86 1) (leAt d 88 2) ∧
      t.bltLine (leAt d 86 1) (leAt d 88 2) = t.bltTo 1 (.done 0) := by
  have hwait : s.bltWait d = ((s.wr BLT_WATERMARK_ROWS (leAt d 84 2)).wr BLT_ROWS_DONE_ROWS 0).bltTo 2 (.wait (leAt d 86 1) (leAt d 88 2)) := by
    rw [State.bltWait]
    have hin : ¬ (s.nHeads ≤ leAt d 86 1 ∨ s.lrd (HEAD_TIMING_V_V_TOTAL (leAt d 86 1)) ≤ leAt d 88 2) := by omega
    have hhd : ((s.wr BLT_WATERMARK_ROWS (leAt d 84 2)).wr BLT_ROWS_DONE_ROWS 0).hd (leAt d 86 1) = s.hd (leAt d 86 1) := rfl
    simp only [if_neg hin, hhd, hg, hne, Bool.not_true, Bool.false_eq_true, if_false, false_and]
  rw [hwait]
  exact ⟨State.bltTo_state (State.wr_inv (State.wr_inv hs _ _) _ _) (by decide) _, rfl, if_pos rfl⟩

end

/-- Settles O53: the rows of the engine by its phase, what it takes, and the raster operation bit by bit. -/
theorem rasterEngine : Obligations.RasterEngine := by
  intro s hup hs
  refine ⟨fun since hp => ⟨fun hl => ?_, fun hl => ?_⟩, exec_bltCommandRead_idle, fun d hown hop => ⟨fun hbad => ?_, fun hh hl hg hne => ?_⟩,
    fun d hown hop => State.bltTake_draw hown hop, fun since hp => ⟨exec_bltRowDone hup hp, State.bltRowLate_spec hs⟩,
    fun e hp => exec_bltCommandDone hup hp, fun code n p q d i hi => rop3_testBit code n p q d i hi⟩
  · rw [exec_bltCommandRead hup hp, hl, if_neg Bool.false_ne_true]
  · rw [exec_bltCommandRead hup hp, hl, if_pos rfl, State.bltFetchLate]
  · rw [State.bltTake_wait hown hop]
    exact if_pos hbad
  · rw [State.bltTake_wait hown hop]
    exact State.bltWait_waits hs hh hl hg hne

end Sys2Proof.Machine

/-! ## The DMA channels (R560 to R585) -/

namespace Sys2Proof.Machine

/-! ### A channel's registers -/

/-- What a halt notes of the access that failed. -/
def haltNotes (c addr dir index : Nat) (timeout poison : Bool) : List (Fld × Nat) :=
  [(DMACH_ERR_ADDR_LO_ADDR c, addr % 2 ^ 32), (DMACH_ERR_ADDR_HI_ADDR c, addr / 2 ^ 32 % 2 ^ 16), (DMACH_ERR_INFO_DIR c, dir),
    (DMACH_ERR_INFO_TIMEOUT c, b2n timeout), (DMACH_ERR_INFO_POISON c, b2n poison), (DMACH_ERR_INFO_INDEX c, index),
    (DMACH_CH_STATUS_ERR c, 5), (DMACH_CH_STATUS_STATE c, 2)]

theorem haltNotes_fits (c addr dir index : Nat) (timeout poison : Bool) : ∀ x ∈ haltNotes c addr dir index timeout poison, x.1.Fits := by
  simp [haltNotes, Fld.Fits, DMACH_ERR_ADDR_LO_ADDR, DMACH_ERR_ADDR_HI_ADDR, DMACH_ERR_INFO_DIR, DMACH_ERR_INFO_TIMEOUT,
    DMACH_ERR_INFO_POISON, DMACH_ERR_INFO_INDEX, DMACH_CH_STATUS_ERR, DMACH_CH_STATUS_STATE]

theorem haltNotes_apart (c addr dir index : Nat) (timeout poison : Bool) :
    (haltNotes c addr dir index timeout poison).Pairwise fun x y => x.1.Apart y.1 := by
  simp [haltNotes, Fld.Apart, DMACH_ERR_ADDR_LO_ADDR, DMACH_ERR_ADDR_HI_ADDR, DMACH_ERR_INFO_DIR, DMACH_ERR_INFO_TIMEOUT,
    DMACH_ERR_INFO_POISON, DMACH_ERR_INFO_INDEX, DMACH_CH_STATUS_ERR, DMACH_CH_STATUS_STATE]

theorem haltNotes_head (c addr dir index : Nat) (timeout poison : Bool) :
    ∀ x ∈ haltNotes c addr dir index timeout poison, x.1.Apart (DMACH_HEAD_INDEX c) := by
  simp [haltNotes, Fld.Apart, DMACH_ERR_ADDR_LO_ADDR, DMACH_ERR_ADDR_HI_ADDR, DMACH_ERR_INFO_DIR, DMACH_ERR_INFO_TIMEOUT,
    DMACH_ERR_INFO_POISON, DMACH_ERR_INFO_INDEX, DMACH_CH_STATUS_ERR, DMACH_CH_STATUS_STATE, DMACH_HEAD_INDEX]

theorem haltNotes_off (c addr dir index : Nat) (timeout poison : Bool) (b : Nat) :
    (∀ x ∈ haltNotes c addr dir index timeout poison, x.1.off ≠ (causeDma c b).off) ∧ (DMACH_HEAD_INDEX c).off ≠ (causeDma c b).off := by
  simp [haltNotes, causeDma, DMACH_ERR_ADDR_LO_ADDR, DMACH_ERR_ADDR_HI_ADDR, DMACH_ERR_INFO_DIR, DMACH_ERR_INFO_TIMEOUT,
    DMACH_ERR_INFO_POISON, DMACH_ERR_INFO_INDEX, DMACH_CH_STATUS_ERR, DMACH_CH_STATUS_STATE, DMACH_HEAD_INDEX]
  omega

section
variable {s : State} (hs : s.Inv)
include hs

theorem State.dmaHalt_eq (c addr dir : Nat) (timeout poison : Bool) :
    s.dmaHalt c addr dir timeout poison = (s.wrAll (haltNotes c addr dir (s.rd (DMACH_HEAD_INDEX c)) timeout poison)).setCause (causeDma c 2) := by
  have hkeep := State.wrAll_rd_apart hs (l := (haltNotes c addr dir 0 timeout poison).take 5) (g := DMACH_HEAD_INDEX c)
    (fun x hx => haltNotes_fits _ _ _ _ _ _ x (List.mem_of_mem_take hx)) (fun x hx => haltNotes_head _ _ _ _ _ _ x (List.mem_of_mem_take hx))
  rw [State.dmaHalt]
  exact congrArg (fun v => (((((s.wrAll ((haltNotes c addr dir 0 timeout poison).take 5)).wr (DMACH_ERR_INFO_INDEX c) v).wr (DMACH_CH_STATUS_ERR c) 5).wr
    (DMACH_CH_STATUS_STATE c) 2).setCause (causeDma c 2))) hkeep

/-- A halt notes the access and stops the channel; its position in the ring stays. -/
theorem State.dmaHalt_spec (c addr : Nat) {dir : Nat} (hdir : dir < 4) (timeout poison : Bool) :
    let t := s.dmaHalt c addr dir timeout poison
    t.rd (DMACH_CH_STATUS_STATE c) = 2 ∧ t.rd (DMACH_CH_STATUS_ERR c) = 5 ∧ t.rd (DMACH_ERR_INFO_DIR c) = dir ∧
    t.rd (DMACH_ERR_INFO_TIMEOUT c) = b2n timeout ∧ t.rd (DMACH_ERR_INFO_POISON c) = b2n poison ∧
    t.rd (DMACH_ERR_INFO_INDEX c) = s.rd (DMACH_HEAD_INDEX c) ∧ t.rd (DMACH_ERR_ADDR_LO_ADDR c) = addr % 2 ^ 32 ∧
    t.rd (DMACH_ERR_ADDR_HI_ADDR c) = addr / 2 ^ 32 % 2 ^ 16 ∧ t.dma = s.dma ∧ t.mem = s.mem ∧
    t.rd (DMACH_HEAD_INDEX c) = s.rd (DMACH_HEAD_INDEX c) := by
  have hfits := haltNotes_fits c addr dir (s.rd (DMACH_HEAD_INDEX c)) timeout poison
  have hinv : (s.wrAll (haltNotes c addr dir (s.rd (DMACH_HEAD_INDEX c)) timeout poison)).Inv := State.wrAll_inv hs _
  obtain ⟨hoff, hhead⟩ := haltNotes_off c addr dir (s.rd (DMACH_HEAD_INDEX c)) timeout poison 2
  have hrd {f : Fld} {v : Nat} (h : (f, v) ∈ haltNotes c addr dir (s.rd (DMACH_HEAD_INDEX c)) timeout poison) :
      (s.dmaHalt c addr dir timeout poison).rd f = v % 2 ^ f.width := by
    rw [State.dmaHalt_eq hs, State.setCause_rd_other hinv (hoff _ h)]
    exact State.wrAll_rd hs hfits (haltNotes_apart _ _ _ _ _ _) h
  have hb (b : Bool) : b2n b % 2 = b2n b := by cases b <;> rfl
  have hindex : s.rd (DMACH_HEAD_INDEX c) < 2 ^ 12 := s.rd_lt _
  refine ⟨hrd (v := 2) (by simp [haltNotes]), hrd (v := 5) (by simp [haltNotes]), (hrd (v := dir) (by simp [haltNotes])).trans (Nat.mod_eq_of_lt hdir),
    (hrd (v := b2n timeout) (by simp [haltNotes])).trans (hb _), (hrd (v := b2n poison) (by simp [haltNotes])).trans (hb _),
    (hrd (v := s.rd (DMACH_HEAD_INDEX c)) (by simp [haltNotes])).trans (Nat.mod_eq_of_lt hindex),
    (hrd (v := addr % 2 ^ 32) (by simp [haltNotes])).trans (Nat.mod_mod _ _),
    (hrd (v := addr / 2 ^ 32 % 2 ^ 16) (by simp [haltNotes])).trans (Nat.mod_mod _ _), ?_, ?_, ?_⟩
  · rw [State.dmaHalt_eq hs, State.setCause_dma, State.wrAll_eq]
  · rw [State.dmaHalt_eq hs, State.setCause_mem, State.wrAll_eq]
  · rw [State.dmaHalt_eq hs, State.setCause_rd_other hinv hhead, State.wrAll_rd_apart hs hfits (haltNotes_head _ _ _ _ _ _)]

end

/-! ### A descriptor's write-back -/

theorem slice_length (l : List Byte) (off n : Nat) : (slice l off n).length = n := by
  simp only [slice, List.length_append, List.length_replicate]
  have := List.length_take_le n (l.drop off)
  omega

/-- A slice within the list is a part of it. -/
theorem slice_of_le {l : List Byte} {off n : Nat} (h : off + n ≤ l.length) : slice l off n = (l.drop off).take n := by
  have hlen : ((l.drop off).take n).length = n := by simp; omega
  rw [slice, hlen, Nat.sub_self]
  exact List.append_nil _

theorem slice_getElem? {l : List Byte} {off n i : Nat} (h : off + n ≤ l.length) (hi : i < n) : (slice l off n)[i]? = l[off + i]? := by
  rw [slice_of_le h, List.getElem?_take_of_lt hi, List.getElem?_drop]

/-- A part of an append is a part of its half. -/
theorem slice_append_right {a b : List Byte} {n : Nat} (h : a.length + n ≤ (a ++ b).length) :
    slice (a ++ b) a.length n = b.take n := by
  rw [slice_of_le h, List.drop_left]

section
variable (d : List Byte) (mis : Option Nat) (po : Bool) (err : Nat)

/-- The last eight bytes of a write-back: the first mismatch, or what stood there. -/
def mismatchBytes : List Byte := match mis with
  | some n => leBytes 8 n
  | none => slice d 56 8

theorem mismatchBytes_length : (mismatchBytes d mis).length = 8 := by
  cases mis with
  | none => exact slice_length d 56 8
  | some n => exact leBytes_length 8 n

theorem descBack_eq : descBack d mis po err = leBytes 4 (leAt d 0 4 - leAt d 0 4 % 2) ++
    (leBytes 4 (1 + 2 * b2n mis.isSome + 4 * b2n po + err * 16) ++ (slice d 8 48 ++ mismatchBytes d mis)) := by
  cases mis <;> simp only [descBack, mismatchBytes, List.append_assoc]

theorem descBack_length : (descBack d mis po err).length = 64 := by
  simp only [descBack_eq, List.length_append, leBytes_length, slice_length, mismatchBytes_length]

theorem leAt_leBytes_append {n : Nat} (v : Nat) (b : List Byte) : leAt (leBytes n v ++ b) 0 n = v % 256 ^ n := by
  rw [leAt, slice_of_le (by simp [leBytes_length])]
  simp [leBytes_length, leNat_leBytes]

theorem leAt_append {a b : List Byte} {off n : Nat} (ha : a.length = off) (hn : n ≤ b.length) : leAt (a ++ b) off n = leAt b 0 n := by
  subst ha
  rw [leAt, slice_append_right (by simp; omega), leAt, slice_of_le (by omega)]
  rfl

theorem descOwn_descBack : descOwn (descBack d mis po err) = false := by
  rw [descOwn, descBack_eq, leAt_leBytes_append, Nat.testBit_zero, decide_eq_false_iff_not]
  omega

theorem descBack_result (herr : err < 16) :
    leAt (descBack d mis po err) 4 4 = 1 + 2 * b2n (Option.isSome mis) + 4 * b2n po + err * 16 := by
  have hbit (b : Bool) : b2n b ≤ 1 := by cases b <;> decide
  have hmis := hbit (Option.isSome mis)
  have hpo := hbit po
  rw [descBack_eq, leAt_append (leBytes_length 4 _) (by simp [leBytes_length]), leAt_leBytes_append]
  omega

theorem descBack_keeps (hd : d.length = 64) {i : Nat} (hlo : 8 ≤ i) (hhi : i < 56) : (descBack d mis po err)[i]? = d[i]? := by
  have hslice : i - 8 < (slice d 8 48).length := by rw [slice_length]; omega
  rw [descBack_eq, List.getElem?_append_right (by rw [leBytes_length]; omega), List.getElem?_append_right (by simp only [leBytes_length]; omega),
    leBytes_length, leBytes_length, show i - 4 - 4 = i - 8 by omega, List.getElem?_append_left hslice,
    slice_getElem? (by omega) (by omega), show 8 + (i - 8) = i by omega]

theorem descBack_mismatch {n : Nat} (hn : n < 2 ^ 64) : leAt (descBack d (some n) po err) 56 8 = n := by
  have hfront : (leBytes 4 (leAt d 0 4 - leAt d 0 4 % 2) ++ leBytes 4 (1 + 2 * b2n (Option.isSome (some n)) + 4 * b2n po + err * 16) ++
      slice d 8 48).length = 56 := by simp only [List.length_append, leBytes_length, slice_length]
  have hlast : leAt (leBytes 8 n ++ []) 0 8 = n := by
    rw [leAt_leBytes_append]
    exact Nat.mod_eq_of_lt hn
  rw [descBack_eq, ← List.append_assoc, ← List.append_assoc, leAt_append hfront (by simp [mismatchBytes_length]), mismatchBytes]
  rwa [List.append_nil] at hlast

end

/-! ### Requests and doorbells -/

section
variable {s : State} (hup : s.mainUp = true)

/-- A fold whose steps leave the state stays where it began. -/
theorem foldl_stays {α β : Type} {f : β → α → β} {l : List α} {t : β} (h : ∀ x ∈ l, f t x = t) : l.foldl f t = t := by
  induction l with
  | nil => rfl
  | cons x l ih => rw [List.foldl_cons, h x List.mem_cons_self, ih fun y hy => h y (List.mem_cons_of_mem x hy)]

/-- A fold of which one step acts, and leaves the others as idle as they were. -/
theorem foldl_one {α β : Type} {f : β → α → β} {l : List α} {t : β} {x : α} (hx : x ∈ l) (hl : l.Nodup)
    (hbefore : ∀ y ∈ l, y ≠ x → f t y = t) (hafter : ∀ y ∈ l, y ≠ x → f (f t x) y = f t x) : l.foldl f t = f t x := by
  obtain ⟨a, b, rfl⟩ := List.append_of_mem hx
  have hxa : x ∉ a := fun h => (List.nodup_append.mp hl).2.2 x h x List.mem_cons_self rfl
  have hxb : x ∉ b := (List.nodup_cons.mp (List.nodup_append.mp hl).2.1).1
  rw [List.foldl_append, foldl_stays fun y hy => hbefore y (List.mem_append_left _ hy) fun e => hxa (e ▸ hy), List.foldl_cons,
    foldl_stays fun y hy => hafter y (List.mem_append_right _ (List.mem_cons_of_mem x hy)) fun e => hxb (e ▸ hy)]

/-- A request as it counts in one channel. -/
def State.dmaRequestAt (source : Nat) (s : State) (c : Nat) : State :=
  if s.dmaCounts c source then
    if s.rd (DMACH_REQ_PEND_COUNT c) = 255 then (s.wr (DMACH_CH_STATUS_REQ_OVF c) 1).setCause (causeDma c 4)
    else s.count (DMACH_REQ_PEND_COUNT c) 1
  else s

theorem State.dmaRequest_eq (source : Nat) : s.dmaRequest source = (List.range 16).foldl (State.dmaRequestAt source) s := rfl

theorem State.dmaRequestAt_dma (source c : Nat) : (s.dmaRequestAt source c).dma = s.dma := by
  rw [State.dmaRequestAt]
  split_ifs
  · rw [State.setCause_dma, State.wr_dma]
  · rfl
  · rfl

/-- Whether a channel counts a source depends on the channels' state alone. -/
theorem State.dmaCounts_congr {t : State} (h : t.dma = s.dma) (c source : Nat) : t.dmaCounts c source = s.dmaCounts c source := by
  have hdch : t.dch c = s.dch c := by rw [State.dch, h, State.dch]
  rw [State.dmaCounts, hdch, State.dmaCounts]

/-- With one channel that waits for the source, the request counts in that channel. -/
theorem State.dmaRequest_one {c : Fin 16} {source : Nat} (hc : s.dmaCounts c source = true)
    (hd : ∀ d : Fin 16, d ≠ c → s.dmaCounts d source = false) : s.dmaRequest source =
      if s.rd (DMACH_REQ_PEND_COUNT c) = 255 then (s.wr (DMACH_CH_STATUS_REQ_OVF c) 1).setCause (causeDma c 4)
      else s.count (DMACH_REQ_PEND_COUNT c) 1 := by
  have hidle : ∀ k ∈ List.range 16, k ≠ c.val → s.dmaCounts k source = false := fun k hk hne =>
    hd ⟨k, List.mem_range.mp hk⟩ (Fin.ne_of_val_ne hne)
  have hother (t : State) (ht : t.dma = s.dma) : ∀ k ∈ List.range 16, k ≠ c.val → t.dmaRequestAt source k = t := fun k hk hne => by
    rw [State.dmaRequestAt, State.dmaCounts_congr ht, hidle k hk hne]
    rfl
  rw [State.dmaRequest_eq, foldl_one (List.mem_range.mpr c.isLt) List.nodup_range (hother s rfl) (hother _ (State.dmaRequestAt_dma _ _)),
    State.dmaRequestAt, if_pos hc]

/-! ### A doorbell -/

/-- What a doorbell finds when its channel is enabled: the flag is set, the count of descriptors without a message begins again. -/
def State.rung (s : State) (c : Nat) : State := s.setDch c fun x => { x with latch := true, unint := 0 }

theorem State.dmaRing_off {c : Nat} (hen : s.flag (DMACH_CH_CTRL_EN c) = false) : s.dmaRing c = s := by
  rw [State.dmaRing, hen]
  rfl

theorem State.dmaRing_on {c : Nat} (hen : s.flag (DMACH_CH_CTRL_EN c) = true) : s.dmaRing c =
    if s.rd (DMACH_CH_STATUS_STATE c) = 0 ∨ s.rd (DMACH_CH_STATUS_STATE c) = 3 then
      ((s.rung c).setDch c fun x => { x with latch := false }).dmaFetch c
    else s.rung c := by
  rw [State.dmaRing, hen]
  rfl

theorem State.setDch_dch (c : Nat) (f : DmaChan → DmaChan) : (s.setDch c f).dch c = f (s.dch c) := by
  simp [State.setDch, State.dch]

theorem State.wr_dch (f : Fld) (v c : Nat) : (s.wr f v).dch c = s.dch c := rfl

theorem State.setDch_dch_ne {c d : Fin 16} (h : d ≠ c) (f : DmaChan → DmaChan) : (s.setDch c f).dch d = s.dch d := by
  have hne : (Fin.ofNat 16 c.val).val ≠ (Fin.ofNat 16 d.val).val := by
    simpa [Fin.ofNat, Nat.mod_eq_of_lt c.isLt, Nat.mod_eq_of_lt d.isLt, Fin.val_inj] using h.symm
  simp only [State.setDch, State.dch, Fin.getElem_fin]
  exact Vector.getElem_set_ne _ _ hne

section
variable (hs : s.Inv)
include hs

theorem State.dmaTo_state (c : Nat) {st : Nat} (hst : st < 4) (p : DmaPhase) : (s.dmaTo c st p).rd (DMACH_CH_STATUS_STATE c) = st := by
  rw [State.dmaTo, State.setDch_rd, State.wr_rd_same hs _ _ (show 0 + 2 ≤ 32 by decide)]
  exact Nat.mod_eq_of_lt hst

theorem State.rung_unlatched_inv (c : Nat) : ((s.rung c).setDch c fun x => { x with latch := false }).Inv :=
  (State.setDch_kept c (fun x => { x with latch := false }) (State.setDch_kept c (fun x => { x with latch := true, unint := 0 }) hs)).inv

/-- A ring, a budget or a timeout of zero stops the channel with error 1. -/
theorem State.dmaRing_zero {c : Fin 16} (hen : s.flag (DMACH_CH_CTRL_EN c) = true) (hz : s.dmaZero c = true)
    (hst : s.rd (DMACH_CH_STATUS_STATE c) = 0 ∨ s.rd (DMACH_CH_STATUS_STATE c) = 3) :
    (s.dmaRing c).rd (DMACH_CH_STATUS_STATE c) = 3 ∧ (s.dmaRing c).rd (DMACH_CH_STATUS_ERR c) = 1 ∧ ((s.dmaRing c).dch c).phase = .none := by
  have hi := State.rung_unlatched_inv hs c
  have hz' : ((s.rung c).setDch c fun x => { x with latch := false }).dmaZero c = true := hz
  rw [State.dmaRing_on hen, if_pos hst, State.dmaFetch, if_pos hz']
  have he := State.wr_inv hi (DMACH_CH_STATUS_ERR c) 1
  have hc := (State.setCause_kept (causeDma c 1) he).inv
  refine ⟨State.dmaTo_state hc c (by decide) _, ?_, ?_⟩
  · rw [State.dmaTo, State.setDch_rd, State.wr_rd_beside hc (DMACH_CH_STATUS_STATE c) (DMACH_CH_STATUS_ERR c) _ (show 0 + 2 ≤ 32 by decide) rfl (.inr (show 0 + 2 ≤ 4 by decide)),
      State.setCause_rd_other he (show 0x120000 + c.val * 0x80 + 4 ≠ 0x12003C + c.val * 0x80 by omega),
      State.wr_rd_same hi _ _ (show 4 + 4 ≤ 32 by decide)]
    rfl
  · rw [State.dmaTo, State.setDch_dch]

/-- Otherwise an idle or stopped channel fetches a descriptor, and a running one notes the ring. -/
theorem State.dmaRing_rings {c : Fin 16} (hen : s.flag (DMACH_CH_CTRL_EN c) = true) (hz : s.dmaZero c = false) :
    let t := s.dmaRing c
    (t.dch c).unint = 0 ∧ t = { s with regs := t.regs, dma := t.dma } ∧ (∀ o, o ≠ (DMACH_CH_STATUS_STATE c).off → t.reg o = s.reg o) ∧
    (∀ d : Fin 16, d ≠ c → t.dch d = s.dch d) ∧
    if s.rd (DMACH_CH_STATUS_STATE c) = 0 ∨ s.rd (DMACH_CH_STATUS_STATE c) = 3 then
      t.rd (DMACH_CH_STATUS_STATE c) = 1 ∧ (t.dch c).phase = .fetch s.now ∧ (t.dch c).latch = false
    else t.regs = s.regs ∧ (t.dch c).phase = (s.dch c).phase ∧ (t.dch c).latch = true := by
  have hi := State.rung_unlatched_inv hs c
  have hz' : ¬ ((s.rung c).setDch c fun x => { x with latch := false }).dmaZero c = true := fun h =>
    absurd (show s.dmaZero c = true from h) (by simp [hz])
  rw [State.dmaRing_on hen, State.dmaFetch, if_neg hz']
  split
  case isTrue hst =>
    refine ⟨?_, rfl, fun o ho => ?_, fun d hd => ?_, State.dmaTo_state hi c (by decide) _, ?_, ?_⟩
    · simp only [State.dmaTo, State.setDch_dch, State.wr_dch, State.rung]
    · exact State.wr_reg_other hi _ _ ho
    · simp only [State.dmaTo, State.setDch_dch_ne hd, State.wr_dch, State.rung]
    · rw [State.dmaTo, State.setDch_dch]
      rfl
    · simp only [State.dmaTo, State.setDch_dch, State.wr_dch]
  case isFalse hst =>
    refine ⟨?_, rfl, fun _ _ => rfl, fun d hd => State.setDch_dch_ne hd _, rfl, ?_, ?_⟩ <;> simp only [State.rung, State.setDch_dch]

end

end

end Sys2Proof.Machine

/-! ## The DMA channels' commands and rows (R560 to R585) -/

namespace Sys2Proof.Machine

theorem leNat_lt (l : List Byte) : leNat l < 256 ^ l.length := by
  induction l with
  | nil => exact Nat.one_pos
  | cons b t ih =>
    have hb : b.toNat < 256 := b.isLt
    rw [leNat, List.length_cons, Nat.pow_succ]
    omega

theorem leAt_lt (l : List Byte) (off n : Nat) : leAt l off n < 256 ^ n := by
  have h := leNat_lt (slice l off n)
  rwa [slice_length] at h

/-! ### The commands -/

section
variable {c : FwCmd} {rest : List FwCmd} {s : State}

/-- The registers that DMA_CHANNEL_SET sets on a channel that is not busy. -/
def channelFields (n : Nat) (p : List Byte) : List (Fld × Nat) :=
  [(DMACH_RING_LO_ADDR n, leAt p 4 8 / 64 % 2 ^ 26), (DMACH_RING_HI_ADDR n, leAt p 4 8 / 2 ^ 32), (DMACH_RING_SIZE_SIZE n, leAt p 12 2),
    (DMACH_BUDGET_COUNT n, leAt p 14 2), (DMACH_CH_CTRL_PRIO n, leAt p 2 1), (DMACH_HEAD_INDEX n, 0)]

theorem channelFields_fits (n : Nat) (p : List Byte) : ∀ x ∈ channelFields n p, x.1.Fits := by
  simp [channelFields, Fld.Fits, DMACH_RING_LO_ADDR, DMACH_RING_HI_ADDR, DMACH_RING_SIZE_SIZE, DMACH_BUDGET_COUNT, DMACH_CH_CTRL_PRIO, DMACH_HEAD_INDEX]

theorem channelFields_apart (n : Nat) (p : List Byte) : (channelFields n p).Pairwise fun x y => x.1.Apart y.1 := by
  simp [channelFields, Fld.Apart, DMACH_RING_LO_ADDR, DMACH_RING_HI_ADDR, DMACH_RING_SIZE_SIZE, DMACH_BUDGET_COUNT, DMACH_CH_CTRL_PRIO, DMACH_HEAD_INDEX]

theorem channelFields_spec {u : State} (hu : u.Inv) (n : Nat) {p : List Byte} (hprio : leAt p 2 1 ≤ 3) (hsize : leAt p 12 2 ≤ 4096)
    (hring : leAt p 4 8 % 64 = 0) : let v := u.wrAll (channelFields n p)
    v.rd (DMACH_RING_LO_ADDR n) * 64 + v.rd (DMACH_RING_HI_ADDR n) * 2 ^ 32 = leAt p 4 8 % 2 ^ 32 + leAt p 4 8 / 2 ^ 32 % 2 ^ 16 * 2 ^ 32 ∧
    v.rd (DMACH_RING_SIZE_SIZE n) = leAt p 12 2 ∧ v.rd (DMACH_BUDGET_COUNT n) = leAt p 14 2 ∧ v.rd (DMACH_CH_CTRL_PRIO n) = leAt p 2 1 ∧
    v.rd (DMACH_HEAD_INDEX n) = 0 ∧ v = { u with regs := v.regs } := by
  intro v
  have hrd {f : Fld} {w : Nat} (h : (f, w) ∈ channelFields n p) : v.rd f = w % 2 ^ f.width :=
    State.wrAll_rd hu (channelFields_fits n p) (channelFields_apart n p) h
  have hlo : v.rd (DMACH_RING_LO_ADDR n) = leAt p 4 8 / 64 % 2 ^ 26 % 2 ^ 26 := hrd (by simp [channelFields])
  have hhi : v.rd (DMACH_RING_HI_ADDR n) = leAt p 4 8 / 2 ^ 32 % 2 ^ 16 := hrd (by simp [channelFields])
  have hbudget : leAt p 14 2 < 2 ^ 16 := leAt_lt p 14 2
  refine ⟨by rw [hlo, hhi]; omega, (hrd (w := leAt p 12 2) (by simp [channelFields])).trans (Nat.mod_eq_of_lt (by exact show _ < 2 ^ 13 by omega)),
    (hrd (w := leAt p 14 2) (by simp [channelFields])).trans (Nat.mod_eq_of_lt hbudget),
    (hrd (w := leAt p 2 1) (by simp [channelFields])).trans (Nat.mod_eq_of_lt (by exact show _ < 2 ^ 2 by omega)),
    (hrd (w := 0) (by simp [channelFields])).trans (Nat.zero_mod _), State.wrAll_eq _ _⟩

theorem exec_dmaChannelSet (h : s.Begins 0x0801 c rest) (hn : leAt c.payload 0 1 < 16) (hprio : leAt c.payload 2 1 ≤ 3)
    (hlo : 1 ≤ leAt c.payload 12 2) (hhi : leAt c.payload 12 2 ≤ 4096) (hb : leAt c.payload 14 2 ≠ 0) (hring : leAt c.payload 4 8 % 64 = 0) :
    exec .dmaChannelSet s = .next (let u := s.begun c rest
      let n := leAt c.payload 0 1
      if !u.dmaRingOk (leAt c.payload 4 8) (leAt c.payload 12 2 * 64) then u.fail c stPROT_BOUND
      else if s.rd (DMACH_CH_STATUS_STATE n) = 1 ∨ s.rd (DMACH_CH_STATUS_STATE n) = 2 then u.fail c stBUSY
      else ((u.wrAll (channelFields n c.payload)).dmaEnable n ((leAt c.payload 1 1).testBit 0)).ok c) := by
  have hgood : ¬ (16 ≤ leAt c.payload 0 1 ∨ 3 < leAt c.payload 2 1 ∨ leAt c.payload 12 2 = 0 ∨ 4096 < leAt c.payload 12 2 ∨ leAt c.payload 14 2 = 0 ∨
      leAt c.payload 4 8 % 64 ≠ 0) := by omega
  rw [exec, execDmaChannelSet, State.serve_begins _ h (by decide)]
  simp only [if_neg hgood, State.begun_rd]
  rfl

theorem exec_dmaChannelCtrl (h : s.Begins 0x0802 c rest) : exec .dmaChannelCtrl s = .next (let u := s.begun c rest
    let n := leAt c.payload 0 1
    let a := leAt c.payload 1 1
    if 16 ≤ n ∨ 1 < a then u.fail c stBAD_PARAM
    else (u.dmaCommand n (decide (a = 0)) (decide (a = 1))).finish c stOK
      (leBytes 4 (s.rd (DMACH_ERR_ADDR_LO_ADDR n)) ++ leBytes 4 (s.rd (DMACH_ERR_ADDR_HI_ADDR n))
        ++ leBytes 4 (s.reg (DMACH_ERR_INFO_DIR n).off).toNat ++ [0, 0, 0, 0])) := by
  rw [exec, execDmaChannelCtrl, State.serve_begins _ h (by decide)]
  simp only [State.begun_rd, State.begun_reg]

/-- The registers that BLT_QUEUE_SET sets on a queue that is not busy. -/
def queueFields (p : List Byte) : List (Fld × Nat) :=
  [(BLT_Q_LO_ADDR, leAt p 8 8 / 64 % 2 ^ 26), (BLT_Q_HI_ADDR, leAt p 8 8 / 2 ^ 32), (BLT_Q_SIZE_SIZE, leAt p 2 2), (BLT_Q_HEAD_INDEX, 0)]

theorem queueFields_spec {u : State} (hu : u.Inv) {p : List Byte} (hsize : leAt p 2 2 ≤ 1024) : let v := u.wrAll (queueFields p)
    v.rd BLT_Q_SIZE_SIZE = leAt p 2 2 ∧ v.rd BLT_Q_HEAD_INDEX = 0 ∧ v.rd BLT_Q_LO_ADDR = leAt p 8 8 / 64 % 2 ^ 26 ∧ v = { u with regs := v.regs } := by
  intro v
  have hrd {f : Fld} {w : Nat} (h : (f, w) ∈ queueFields p) : v.rd f = w % 2 ^ f.width :=
    State.wrAll_rd hu (by simp [queueFields]; decide) (by simp [queueFields]; decide) h
  exact ⟨(hrd (w := leAt p 2 2) (by simp [queueFields])).trans (Nat.mod_eq_of_lt (by exact show _ < 2 ^ 11 by omega)),
    (hrd (w := 0) (by simp [queueFields])).trans (Nat.zero_mod _),
    (hrd (w := leAt p 8 8 / 64 % 2 ^ 26) (by simp [queueFields])).trans (Nat.mod_mod _ _), State.wrAll_eq _ _⟩

theorem exec_bltQueueSet (h : s.Begins 0x0810 c rest) (hlo : 1 ≤ leAt c.payload 2 2) (hhi : leAt c.payload 2 2 ≤ 1024) (hq : leAt c.payload 8 8 % 64 = 0) :
    exec .bltQueueSet s = .next (let u := s.begun c rest
      if !u.dmaRingOk (leAt c.payload 8 8) (leAt c.payload 2 2 * 128) then u.fail c stPROT_BOUND
      else if s.rd BLT_STATUS_STATE = 1 ∨ s.rd BLT_STATUS_STATE = 2 then u.fail c stBUSY
      else ((u.wrAll (queueFields c.payload)).bltEnable ((leAt c.payload 0 1).testBit 0)).ok c) := by
  have hgood : ¬ (leAt c.payload 2 2 = 0 ∨ 1024 < leAt c.payload 2 2 ∨ leAt c.payload 8 8 % 64 ≠ 0) := by omega
  rw [exec, execBltQueueSet, State.serve_begins _ h (by decide)]
  simp only [if_neg hgood, State.begun_rd]
  rfl

end

/-! ### The rows -/

section
variable {s : State} (hup : s.mainUp = true)

theorem State.dmaLate_iff (t : Nat) : s.dmaLate t = true ↔ t + ceilDiv (s.rd DMA_RESP_TIMEOUT_CYCLES * 5) 4 < s.now := by
  rw [State.dmaLate, decide_eq_true_iff]

theorem State.dmaStart_eq (c : Nat) (d : List Byte) : s.dmaStart c d = (
    let t := (s.setDch c fun x => { x with desc := d, bursts := 0, mismatch := none, poison := false }).wr (DMACH_REQ_PEND_COUNT c) 0
    if t.descCheck d = 0 then t.dmaTo c 1 .ready else t.dmaStop c (t.descCheck d) 1) := rfl

section
include hup

/-- A descriptor that is read in time. -/
theorem exec_dmaDescriptorRead {c : Fin 16} {at_ : Nat} (hst : s.rd (DMACH_CH_STATUS_STATE c) = 1) (hp : (s.dch c).phase = .fetch at_)
    (hl : s.dmaLate at_ = false) {r : MemAns × State} (hr : s.dxbRead (s.dmaDescAddr c) 64 = r) : exec (.dmaDescriptorRead c) s = .next (
      if r.1.err then (r.2.dmaGot c r.1.data).dmaHalt c (s.dmaDescAddr c) 0 false false
      else if r.1.poison then (r.2.dmaGot c r.1.data).dmaHalt c (s.dmaDescAddr c) 0 false true
      else if descOwn r.1.data then r.2.dmaStart c r.1.data
      else r.2.dmaPark c) := by
  have hcond : (s.mainUp && decide (s.rd (DMACH_CH_STATUS_STATE c) = 1)) = true := by simp only [hup, hst, decide_true, Bool.and_self]
  rw [exec, execDmaDescriptorRead, State.when, if_pos hcond]
  dsimp only
  rw [hp]
  dsimp only
  rw [hl, if_neg Bool.false_ne_true, hr]

omit hup in
theorem State.dmaCommand_eq (c : Nat) {a : Nat} (ha : a ≤ 1) :
    s.dmaCommand c (decide (a = 0)) (decide (a = 1)) = if a = 1 then s.dmaAbort c else s.dmaResume c := by
  rcases Nat.le_one_iff_eq_zero_or_eq_one.mp ha with rfl | rfl <;> rfl

omit hup in
/-- Whether the engine takes what it has read hangs on the descriptor's OWN bit. -/
theorem State.dmaTaken_eq {u : State} (c : Nat) (d : List Byte) : (if descOwn d then u.dmaStart c d else u.dmaPark c) =
    if (leAt d 0 4).testBit 0 = false then u.dmaPark c else u.dmaStart c d := by
  cases hown : (leAt d 0 4).testBit 0 with
  | false => rw [descOwn, hown, if_neg Bool.false_ne_true, if_pos rfl]
  | true => rw [descOwn, hown, if_pos rfl, if_neg Bool.true_eq_false.mp]

theorem exec_dmaBurst (hb : s.dmaBusy = false) : exec .dmaBurst s = .next (match s.dmaPick with | some (p, c) => s.dmaGo p c | none => s) := by
  simp only [exec, execDmaBurst, hup, hb, State.when, Bool.not_false, Bool.and_self, if_true] <;> rfl

end

theorem exec_dmaBurst_idle (h : s.dmaPick = none ∨ s.dmaBusy = true) : exec .dmaBurst s = .next s := by
  rw [exec, execDmaBurst, State.when]
  rcases h with hp | hb
  · split
    · rw [hp]
    · rfl
  · rw [hb, Bool.not_true, Bool.and_false]
    rfl

section
variable {c : Fin 16} (hst : s.rd (DMACH_CH_STATUS_STATE c) = 1)
include hup hst

/-- An access in progress answers in time, or waits for a table. -/
theorem exec_dmaResponse {at_ : Nat} (hp : (s.dch c).phase = .burst at_) : exec (.dmaResponse c) s = .next (
    let d := (s.dch c).desc
    let n1 := max 1 (descCnt d 1)
    let held := s.dxbHeld (s.dmaReads c)
    if s.dmaLate at_ || held.1 then held.2
    else (held.2.dmaElements c ((s.dch c).bursts % n1) ((s.dch c).bursts / n1) (descCnt d 0)).2.dmaBurstEnd c) := by
  simp only [exec, execDmaResponse, hup, hst, decide_true, Bool.and_self, State.when, if_true, hp, State.dmaLoop]

theorem exec_dmaRespTimeout : exec (.dmaRespTimeout c) s = .next (match (s.dch c).phase with
    | .fetch t => if s.dmaLate t then (s.freeLine.2.dmaGot c s.freeLine.1).dmaHalt c (s.dmaDescAddr c) 0 true false else s
    | .burst t => if s.dmaLate t then s.dmaBurstLate c else s
    | .done t => if s.dmaLate t then s.dmaHalt c (s.dmaDescAddr c) 3 true false else s
    | _ => s) := by
  simp only [exec, execDmaRespTimeout, hup, hst, decide_true, Bool.and_self, State.when, if_true] <;> rfl

theorem exec_dmaDescriptorDone {since : Nat} (hp : (s.dch c).phase = .done since) : exec (.dmaDescriptorDone c) s = .next (s.dmaFinish c) := by
  have hdone : s.dmaDone c = true := by rw [State.dmaDone, hp]
  simp only [exec, execDmaDescriptorDone, hup, hst, hdone, decide_true, Bool.and_self, State.when, if_true]

omit hup hst in
/-- A descriptor within its budget is written back, and the channel goes on or rests. -/
theorem State.dmaFinish_within (h : descInt (s.dch c).desc = true ∨ (s.dch c).unint + 1 < s.rd (DMACH_BUDGET_COUNT c)) {r : Bool × State}
    (hr : s.dmaBack c 0 = r) : s.dmaFinish c = if r.1 then r.2 else
      let t := r.2.setDch c fun x => { x with unint := if descInt (s.dch c).desc then 0 else (s.dch c).unint + 1 }
      let t := if descInt (s.dch c).desc then t.setCause (causeDma c 0) else t
      if t.flag (DMACH_CH_CTRL_EN c) then t.dmaFetch c else (t.setDch c fun x => { x with latch := false }).dmaTo c 0 .none := by
  have hwithin : ¬ (!descInt (s.dch c).desc && decide (s.rd (DMACH_BUDGET_COUNT c) ≠ 0 ∧ s.rd (DMACH_BUDGET_COUNT c) ≤ (s.dch c).unint + 1)) = true := by
    rcases h with hint | hlt
    · rw [hint]
      exact Bool.false_ne_true
    · simp only [Bool.and_eq_true, decide_eq_true_iff, not_and]
      exact fun _ _ => Nat.not_le.mpr hlt
  simp only [State.dmaFinish, if_neg hwithin, hr]

omit hup in
/-- The last burst of a descriptor ends it. -/
theorem State.dmaBurstEnd_last (hm : (s.dch c).mismatch = none) (hlast : descCnt (s.dch c).desc 1 * descCnt (s.dch c).desc 2 ≤ (s.dch c).bursts + 1) :
    let t := s.setDch c fun y => { y with bursts := y.bursts + 1, phase := .done s.now }
    s.dmaBurstEnd c = if (leAt (s.dch c).desc 0 4).testBit 2 then t else t.dmaFinish c := by
  simp only [State.dmaBurstEnd, hst, ne_eq, not_true, if_false, hm, Option.isSome_none, Bool.false_or, hlast, decide_true, if_true, Bool.true_and, descBarrier]
  cases (leAt (s.dch c).desc 0 4).testBit 2 <;> rfl

end
end

/-- Settles O52: the commands, the requests and doorbells, then the rows of a descriptor from its read to its write-back. -/
theorem dmaChannels : Obligations.DmaChannels := by
  refine ⟨fun c rest s hs => ⟨?_, ?_, ?_⟩, fun s hup hs => ⟨?_, ?_, fun c => ⟨?_, ?_, ?_⟩, ?_, ?_,
    fun hp => exec_dmaBurst_idle (.inl hp), fun hb => exec_dmaBurst_idle (.inr hb), ?_, ?_, ?_, ?_,
    fun c addr dir tmo po hdir => State.dmaHalt_spec hs c addr hdir tmo po, ?_⟩⟩
  · intro h n ring size hn hprio hlo hhi hb hring
    have hexec := exec_dmaChannelSet h hn hprio hlo hhi hb hring
    refine ⟨fun hok => ?_, fun hok hbusy => ?_, fun hok h1 h2 => ⟨_, ?_, _, rfl, channelFields_spec (State.begun_inv hs) n hprio hhi hring⟩⟩ <;> rw [hexec]
    · exact congrArg Host.Outcome.next (if_pos (by rw [hok]; rfl))
    · exact congrArg Host.Outcome.next ((if_neg (by rw [hok]; decide)).trans (if_pos hbusy))
    · exact congrArg Host.Outcome.next ((if_neg (by rw [hok]; decide)).trans (if_neg (not_or.mpr ⟨h1, h2⟩)))
  · intro h n a
    rw [exec_dmaChannelCtrl h]
    refine ⟨fun hbad => congrArg Host.Outcome.next (if_pos hbad), fun hn ha => congrArg Host.Outcome.next ((if_neg (by omega)).trans ?_)⟩
    exact congrArg (fun t : State => t.finish c stOK _) (State.dmaCommand_eq _ ha)
  · intro h size q hlo hhi hq
    have hexec := exec_bltQueueSet h hlo hhi hq
    refine ⟨fun hok => ?_, fun hok hbusy => ?_, fun hok h1 h2 => ⟨_, ?_, _, rfl, queueFields_spec (State.begun_inv hs) hhi⟩⟩ <;> rw [hexec]
    · exact congrArg Host.Outcome.next (if_pos (by rw [hok]; rfl))
    · exact congrArg Host.Outcome.next ((if_neg (by rw [hok]; decide)).trans (if_pos hbusy))
    · exact congrArg Host.Outcome.next ((if_neg (by rw [hok]; decide)).trans (if_neg (not_or.mpr ⟨h1, h2⟩)))
  · intro n
    simp only [exec, execDreq, State.when, hup, if_true]
  · intro c src hc hd
    rw [State.dmaRequest_one hc hd]
    exact ⟨fun hlt => if_neg (Nat.ne_of_lt hlt), fun heq => if_pos heq⟩
  · intro hen
    rw [exec_dmaDoorbell hup, State.dmaRing_off hen]
  · exact fun hen hz hst => ⟨_, exec_dmaDoorbell hup c, State.dmaRing_zero hs hen hz hst⟩
  · exact fun hen hz => ⟨_, exec_dmaDoorbell hup c, State.dmaRing_rings hs hen hz⟩
  · intro c at_ hst hp hl a r
    refine (exec_dmaDescriptorRead hup hst hp hl (r := r) rfl).trans (congrArg Host.Outcome.next ?_)
    rw [State.dmaTaken_eq, State.dmaStart_eq]
    rfl
  · intro hb p c hp
    rw [exec_dmaBurst hup hb, hp]
  · intro c at_ hst hp d n1 i j held
    have hto : exec (.dmaRespTimeout c) s = .next (if s.dmaLate at_ then s.dmaBurstLate c else s) := by
      rw [exec_dmaRespTimeout hup hst, hp]
    refine ⟨fun hl => ⟨?_, ?_⟩, fun hl => ⟨?_, ?_⟩, fun hm hlast => State.dmaBurstEnd_last hst hm hlast⟩
    · rw [hto, hl, if_neg Bool.false_ne_true]
    · rw [exec_dmaResponse hup hst hp, hl]
      exact congrArg Host.Outcome.next (if_congr (by rw [Bool.false_or]) rfl rfl)
    · rw [exec_dmaResponse hup hst hp, hl]
      exact congrArg Host.Outcome.next (if_pos (Bool.true_or _))
    · rw [hto, hl, if_pos rfl]
  · intro c at_ hst late
    refine ⟨fun hp => ?_, fun hp => ?_⟩ <;> rw [exec_dmaRespTimeout hup hst, hp]
    · exact congrArg Host.Outcome.next (if_congr (State.dmaLate_iff _) rfl rfl)
    · exact congrArg Host.Outcome.next (if_congr (State.dmaLate_iff _) rfl rfl)
  · intro c hst
    exact if_pos hst
  · intro c since hst hp r n int
    have hdone := exec_dmaDescriptorDone hup hst hp
    refine ⟨fun hint h0 hn => hdone.trans (congrArg Host.Outcome.next (if_pos ?_)),
      fun hint => hdone.trans (congrArg Host.Outcome.next (State.dmaFinish_within hint rfl))⟩
    rw [show descInt (s.dch c).desc = false from hint]
    exact decide_eq_true ⟨h0, hn⟩
  · intro d mis po err hd herr b
    refine ⟨descBack_length d mis po err, descOwn_descBack d mis po err, descBack_result d mis po err herr,
      fun i hlo hhi => descBack_keeps d mis po err hd hlo hhi, ?_⟩
    rintro n rfl hn
    exact descBack_mismatch d po err hn

end Sys2Proof.Machine

/-! ## Device time and its commands (R614 to R632) -/

namespace Sys2Proof.Machine

/-! ### A number in its two's complement -/

/-- A number that fits a signed word comes back from it. -/
theorem sext_wrap {v : Int} (hlo : -2147483648 ≤ v) (hhi : v < 2147483648) : sext 32 (wrap 32 v) = v := by
  have hw : ((wrap 32 v : Nat) : Int) = v % 4294967296 := Int.toNat_of_nonneg (Int.emod_nonneg _ (by decide))
  have hlt : wrap 32 v < 4294967296 := by omega
  have hmod : wrap 32 v % 2 ^ 32 = wrap 32 v := Nat.mod_eq_of_lt hlt
  rw [sext, hmod]
  split
  case isTrue h =>
    have : wrap 32 v < 2147483648 := h
    omega
  case isFalse h =>
    have : ¬ wrap 32 v < 2147483648 := h
    rw [hw]
    push_cast
    omega

theorem wrap_lt (v : Int) : wrap 32 v < 2 ^ 32 := by
  have hw : ((wrap 32 v : Nat) : Int) = v % 4294967296 := Int.toNat_of_nonneg (Int.emod_nonneg _ (by decide))
  omega

section
variable {s : State}

/-! ### Following the source -/

section
variable {k : Nat} {off : Int} (hv : s.serving = true) (hf : s.clocks.fresh = some (k, off))
include hv hf

theorem exec_timeDiscipline_other (hb : s.steersBy k = false) : exec .timeDiscipline s = .next (s.setClocks fun c => { c with fresh := none }) := by
  have hsteer : (s.setClocks fun c => { c with fresh := none }).steersBy k = false := hb
  rw [exec, execTimeDiscipline, hv, if_pos rfl, hf]
  exact congrArg Host.Outcome.next (if_pos (by rw [hsteer]; rfl))

/-- The clocks once an offset of the source that steers has been taken. -/
def State.offsetTaken (s : State) (used : Bool) (off : Int) : State := s.setClocks fun c => { c with
  fresh := none
  trackedAt := if used then some s.now else c.trackedAt
  trackedPpb := if used ∧ off.natAbs < 1000 then sext 32 (s.rd TSY_FREQ_ADJ_PPB) else c.trackedPpb }

omit hv hf in
theorem State.offsetTaken_eq (used : Bool) (off : Int) :
    (if used = true then (s.setClocks fun c => { c with fresh := none }).setClocks fun c => { c with
        trackedAt := some s.now, trackedPpb := if off.natAbs < 1000 then sext 32 (s.rd TSY_FREQ_ADJ_PPB) else c.trackedPpb }
      else s.setClocks fun c => { c with fresh := none }) = s.offsetTaken used off := by
  cases used with
  | true => simp only [if_true, State.offsetTaken, State.setClocks, true_and]
  | false => simp only [Bool.false_eq_true, if_false, State.offsetTaken, State.setClocks, false_and]

theorem exec_timeDiscipline_steers (hb : s.steersBy k = true) : exec .timeDiscipline s = .next (
    let t := s.offsetTaken (decide (k = s.rd TSY_TIME_STATUS_SOURCE)) off
    if s.clocks.stepThresh < off.natAbs then t.timeStep ((s.time.ns : Int) - off).toNat
    else if k = s.rd TSY_TIME_STATUS_SOURCE then t.slew else t) := by
  have hsteer : (!(s.setClocks fun c => { c with fresh := none }).steersBy k) = false := by
    rw [show (s.setClocks fun c => { c with fresh := none }).steersBy k = true from hb]; rfl
  simp only [exec, execTimeDiscipline, hv, if_true, hf, hsteer, Bool.false_eq_true, if_false, State.setClocks_rd, State.setClocks_now,
    State.offsetTaken_eq, decide_eq_true_eq]
  exact congrArg Host.Outcome.next (if_congr Iff.rfl rfl (if_congr decide_eq_true_iff rfl rfl))

end

/-! ### Slewing -/

/-- A host write of the frequency stands. -/
theorem State.slew_covered (h : TSY_FREQ_ADJ_PPB.off ∈ s.hostRegs) : s.slew.rd TSY_FREQ_ADJ_PPB = s.rd TSY_FREQ_ADJ_PPB := by
  have hc : s.freeNat.2.hostRegs.contains TSY_FREQ_ADJ_PPB.off = true := List.contains_iff_mem.mpr h
  rw [State.slew, State.setAdj, if_pos hc]
  rfl

theorem State.slew_within (hs : s.Inv) (h : TSY_FREQ_ADJ_PPB.off ∉ s.hostRegs) (hm : 1 ≤ s.clocks.slewMax) (hlo : -200000 ≤ s.clocks.trackedPpb)
    (hhi : s.clocks.trackedPpb ≤ 200000) : let f := sext 32 (s.slew.rd TSY_FREQ_ADJ_PPB);
      -200000 ≤ f ∧ f ≤ 200000 ∧ (f - s.clocks.trackedPpb).natAbs ≤ 1000 * s.clocks.slewMax := by
  have hc : ¬ s.freeNat.2.hostRegs.contains TSY_FREQ_ADJ_PPB.off = true := fun hin => h (List.contains_iff_mem.mp hin)
  have hfree := (State.freeNat_kept hs).inv
  obtain ⟨v, hv⟩ : ∃ v : Int, v = max (-200000) (s.clocks.trackedPpb - s.clocks.slewMax * 1000) + (s.freeNat.1 : Int) %
    (min 200000 (s.clocks.trackedPpb + s.clocks.slewMax * 1000) - max (-200000) (s.clocks.trackedPpb - s.clocks.slewMax * 1000) + 1) := ⟨_, rfl⟩
  have hpos : 0 < min 200000 (s.clocks.trackedPpb + s.clocks.slewMax * 1000) - max (-200000) (s.clocks.trackedPpb - (s.clocks.slewMax : Int) * 1000) + 1 := by omega
  have hge := Int.emod_nonneg (s.freeNat.1 : Int) (Int.ne_of_gt hpos)
  have hlt := Int.emod_lt_of_pos (s.freeNat.1 : Int) hpos
  have hslew : s.slew.rd TSY_FREQ_ADJ_PPB = wrap 32 v := by
    rw [State.slew, hv, State.setAdj, if_neg hc, State.wr_rd_same hfree _ _ (by decide)]
    exact Nat.mod_eq_of_lt (wrap_lt _)
  dsimp only
  rw [hslew, sext_wrap (by omega) (by omega)]
  omega

theorem exec_holdoverExpire (hv : s.serving = true) (hsrc : s.rd TSY_TIME_STATUS_SOURCE = 2) (hh : s.holding = false) :
    exec .holdoverExpire s = .next s.retime :=
  congrArg Host.Outcome.next (if_pos (by simp [hv, hsrc, hh]))

theorem exec_timeValidLoss (hup : s.mainUp = true) (hval : s.rd HLY_STATUS_TIME_VALID = 1) (hp : s.rd HLY_TIME_CFG_SYNC_PERIOD ≠ 0)
    (hw : s.syncWaits = false) (hl : s.ring.syncUsedAt + 4 * (s.rd HLY_TIME_CFG_SYNC_PERIOD * 1000) < s.now) :
    exec .timeValidLoss s = .next ((s.wr HLY_STATUS_TIME_VALID 0).setRing fun r => { r with syncUsed := none }).retime := by
  have hflag : s.flag HLY_STATUS_TIME_VALID = true := (s.flag_iff rfl).mpr hval
  exact congrArg Host.Outcome.next (if_pos (by simp [hup, State.timeLate, hflag, hp, hl, hw]))

/-! ### The commands -/

variable {c : FwCmd} {rest : List FwCmd}

theorem exec_timeConfig (h : s.Begins 0x0901 c rest) : exec .timeConfig s = .next (let u := s.begun c rest
    let p := c.payload
    if 3 < leAt p 0 1 ∨ leAt p 2 2 = 0 ∨ 200 < leAt p 2 2 ∨ leAt p 4 4 = 0 ∨ leAt p 8 4 = 0 then u.fail c stBAD_PARAM
    else (((u.commandCovers [TSY_FREQ_ADJ_PPB.off]).wr TSY_TIME_CTRL_MODE (leAt p 0 1)).setClocks fun k =>
      { k with slewMax := leAt p 2 2, stepThresh := leAt p 4 4, holdover := leAt p 8 4 }).retime.ok c) := by
  rw [exec, execTimeConfig, State.serve_begins _ h (by decide)]

/-- The multipliers of the heads as one register word. -/
theorem multipliers_eq (p : List Byte) :
    (List.range 4).foldl (fun a h => a + (((List.range 4).map fun h => leAt p (2 + h) 1).getD h 1) * 16 ^ h) 0 =
      leAt p 2 1 + 16 * leAt p 3 1 + 256 * leAt p 4 1 + 4096 * leAt p 5 1 := by
  simp [List.range_succ]
  omega

theorem multiplier_bad_iff (p : List Byte) :
    ((List.range 4).map fun h => leAt p (2 + h) 1).any (fun m => decide (m = 0 ∨ 8 < m)) = true ↔ ∃ h : Fin 4, leAt p (2 + h) 1 = 0 ∨ 8 < leAt p (2 + h) 1 := by
  simp [List.range_succ, Fin.exists_fin_succ]

/-- GENLOCK_SET writes registers of the clocks only. -/
theorem State.genlockWrite_spec (hs : s.Inv) {en pol : Nat} (hen : en < 2) (hpol : pol < 2) : let t := s.genlockWrite en pol
    t.rd TSY_GENLOCK_EN = en ∧ t.rd TSY_GENLOCK_POL = pol ∧ (∀ f : Fld, f.off ≠ TSY_GENLOCK_EN.off → t.rd f = s.rd f) ∧
    t = { s with regs := t.regs, clocks := t.clocks } := by
  obtain ⟨u, ht, hi, hrd, heq⟩ : ∃ u : State, s.genlockWrite en pol = (u.wr TSY_GENLOCK_EN en).wr TSY_GENLOCK_POL pol ∧
      u.Inv ∧ (∀ f, u.rd f = s.rd f) ∧ u = { s with clocks := u.clocks } := by
    refine ⟨_, rfl, ?_⟩
    split
    · exact ⟨(State.setClocks_kept _ hs).inv, fun _ => rfl, rfl⟩
    · exact ⟨hs, fun _ => rfl, rfl⟩
  intro t
  rw [show t = _ from ht]
  have he := State.wr_inv hi TSY_GENLOCK_EN en
  refine ⟨?_, ?_, fun f hf => ?_, ?_⟩
  · rw [State.wr_rd_apart he _ (by decide) (by decide), State.wr_rd_same hi _ _ (by decide)]
    exact Nat.mod_eq_of_lt hen
  · rw [State.wr_rd_same he _ _ (by decide)]
    exact Nat.mod_eq_of_lt hpol
  · rw [State.wr_rd_other he TSY_GENLOCK_POL _ _ hf, State.wr_rd_other hi _ _ _ hf, hrd]
  · rw [heq]
    rfl

theorem exec_genlockSet (h : s.Begins 0x0910 c rest) : exec .genlockSet s = .next (let u := s.begun c rest
    let p := c.payload
    if leAt p 6 4 = 0 ∨ leAt p 10 4 = 0 ∨ leAt p 6 4 * 1000 < 23976 * leAt p 10 4 ∨ 480 * leAt p 10 4 < leAt p 6 4 ∨
        (∃ h : Fin 4, leAt p (2 + h) 1 = 0 ∨ 8 < leAt p (2 + h) 1) then u.fail c stBAD_PARAM
    else (((u.wr TSY_GENLOCK_PERIOD_NS (leAt p 10 4 * 1000000000 / leAt p 6 4)).wr TSY_GL_MULT_MULT
      (leAt p 2 1 + 16 * leAt p 3 1 + 256 * leAt p 4 1 + 4096 * leAt p 5 1)).genlockWrite (leAt p 0 1 % 2) (leAt p 0 1 / 2 % 2)).ok c) := by
  rw [exec, execGenlockSet, State.serve_begins _ h (by decide)]
  simp only [multiplier_bad_iff, multipliers_eq]

theorem genlock_spec {u : State} (hu : u.Inv) {p : List Byte} {num den : Nat} (hnum : num ≠ 0) (hlo : 23976 * den ≤ num * 1000)
    (hm : ∀ h : Fin 4, 1 ≤ leAt p (2 + h) 1 ∧ leAt p (2 + h) 1 ≤ 8) :
    let v := ((u.wr TSY_GENLOCK_PERIOD_NS (den * 1000000000 / num)).wr TSY_GL_MULT_MULT
      (leAt p 2 1 + 16 * leAt p 3 1 + 256 * leAt p 4 1 + 4096 * leAt p 5 1)).genlockWrite (leAt p 0 1 % 2) (leAt p 0 1 / 2 % 2)
    v.rd TSY_GENLOCK_PERIOD_NS = den * 1000000000 / num ∧ v.rd TSY_GENLOCK_EN = leAt p 0 1 % 2 ∧ v.rd TSY_GENLOCK_POL = leAt p 0 1 / 2 % 2 ∧
      v.rd TSY_GL_MULT_MULT = leAt p 2 1 + 16 * leAt p 3 1 + 256 * leAt p 4 1 + 4096 * leAt p 5 1 ∧
      v = { u with regs := v.regs, clocks := v.clocks } := by
  have hperiod : den * 1000000000 / num < 2 ^ 32 := by
    rw [Nat.div_lt_iff_lt_mul (Nat.pos_of_ne_zero hnum)]
    omega
  have h0 : leAt p 2 1 ≤ 8 := (hm 0).2
  have h1 : leAt p 3 1 ≤ 8 := (hm 1).2
  have h2 : leAt p 4 1 ≤ 8 := (hm 2).2
  have h3 : leAt p 5 1 ≤ 8 := (hm 3).2
  have hmult : leAt p 2 1 + 16 * leAt p 3 1 + 256 * leAt p 4 1 + 4096 * leAt p 5 1 < 2 ^ 16 := by omega
  have hi := State.wr_inv hu TSY_GENLOCK_PERIOD_NS (den * 1000000000 / num)
  obtain ⟨hen, hpol, hrd, heq⟩ := State.genlockWrite_spec
    (State.wr_inv hi TSY_GL_MULT_MULT (leAt p 2 1 + 16 * leAt p 3 1 + 256 * leAt p 4 1 + 4096 * leAt p 5 1))
    (Nat.mod_lt (leAt p 0 1) (by decide : 0 < 2)) (Nat.mod_lt (leAt p 0 1 / 2) (by decide : 0 < 2))
  refine ⟨?_, hen, hpol, ?_, heq⟩
  · rw [hrd _ (by decide), State.wr_rd_other hi _ _ _ (by decide), State.wr_rd_same hu _ _ (by decide)]
    exact Nat.mod_eq_of_lt hperiod
  · rw [hrd _ (by decide), State.wr_rd_same hi _ _ (by decide)]
    exact Nat.mod_eq_of_lt hmult

/-- The settings of an output in range, as CLOCK_OUT_SET writes them. -/
def outFields (p : List Byte) (k : Nat) : List (Fld × Nat) :=
  [(HPLL_OUT_DIV (k / 2) (2 + k % 2), leAt p (2 + 2 * k) 2 - 1), (HPLL_OUT_EN (k / 2) (2 + k % 2), leAt p 0 1 / 2 ^ k % 2)]

theorem outFields_fits (p : List Byte) (k : Nat) : ∀ x ∈ outFields p k, x.1.Fits := by
  simp [outFields, Fld.Fits, HPLL_OUT_DIV, HPLL_OUT_EN]

/-- An output's fields stand in its own register. -/
theorem outFields_off (p : List Byte) (k : Nat) : ∀ x ∈ outFields p k, x.1.off = 0x170100 + k / 2 * 0x100 + 0x10 + (2 + k % 2) * 4 := by
  simp [outFields, HPLL_OUT_DIV, HPLL_OUT_EN]

/-- Two outputs have registers of their own. -/
theorem outFields_apart (p : List Byte) (n : Nat) : ((List.range n).flatMap (outFields p)).Pairwise fun x y => x.1.Apart y.1 := by
  rw [List.pairwise_flatMap]
  refine ⟨fun k _ => ?_, List.pairwise_lt_range.imp fun {j k} hjk x hx y hy => .inl ?_⟩
  · simp [outFields, Fld.Apart, HPLL_OUT_DIV, HPLL_OUT_EN]
  · rw [outFields_off p j x hx, outFields_off p k y hy]
    omega

theorem exec_clockOutSet (h : s.Begins 0x0920 c rest) : exec .clockOutSet s = .next (let u := s.begun c rest
    let p := c.payload
    if 2 ^ (2 * s.nHeads) ≤ leAt p 0 1 ∨ (List.range (2 * s.nHeads)).any (fun k => s.divTooFast (k / 2) (leAt p (2 + 2 * k) 2)) = true then
      u.fail c stBAD_PARAM
    else ((u.wrAll ((List.range (2 * s.nHeads)).flatMap (outFields p))).wr TSY_CLKOUT_EN (leAt p 0 1)).ok c) := by
  have hdiv (h d : Nat) : (s.begun c rest).divTooFast h d = s.divTooFast h d := State.begun_same (·.divTooFast h d) fun _ _ _ _ => rfl
  rw [exec, execClockOutSet, State.serve_begins _ h (by decide)]
  simp only [State.begun_nHeads, hdiv, State.wrAll, List.foldl_flatMap]
  rfl

/-- The outputs in range hold what CLOCK_OUT_SET asks. -/
theorem outputs_spec {u : State} (hu : u.Inv) {p : List Byte} (hn : s.nHeads ≤ 4) (hen : leAt p 0 1 < 2 ^ (2 * s.nHeads))
    (hdiv : ∀ k, k < 2 * s.nHeads → s.divTooFast (k / 2) (leAt p (2 + 2 * k) 2) = false) :
    let v := (u.wrAll ((List.range (2 * s.nHeads)).flatMap (outFields p))).wr TSY_CLKOUT_EN (leAt p 0 1)
    v.rd TSY_CLKOUT_EN = leAt p 0 1 ∧ v = { u with regs := v.regs } ∧
      ∀ k, k < 2 * s.nHeads → v.rd (HPLL_OUT_DIV (k / 2) (2 + k % 2)) = leAt p (2 + 2 * k) 2 - 1 ∧
        v.rd (HPLL_OUT_EN (k / 2) (2 + k % 2)) = leAt p 0 1 / 2 ^ k % 2 := by
  intro v
  have hi := State.wrAll_inv hu ((List.range (2 * s.nHeads)).flatMap (outFields p))
  have hfits : ∀ x ∈ (List.range (2 * s.nHeads)).flatMap (outFields p), x.1.Fits := by
    intro x hx
    obtain ⟨k, -, hk⟩ := List.mem_flatMap.mp hx
    exact outFields_fits p k x hk
  have hrd {k : Nat} (hk : k < 2 * s.nHeads) {f : Fld} {w : Nat} (h : (f, w) ∈ outFields p k) : v.rd f = w % 2 ^ f.width := by
    have hne : f.off ≠ TSY_CLKOUT_EN.off := by
      rw [outFields_off p k _ h]
      exact show _ ≠ 0x170740 by omega
    rw [State.wr_rd_other hi _ _ _ hne]
    exact State.wrAll_rd hu hfits (outFields_apart p _) (List.mem_flatMap.mpr ⟨k, List.mem_range.mpr hk, h⟩)
  refine ⟨?_, ?_, fun k hk => ⟨?_, ?_⟩⟩
  · have hle : (2 : Nat) ^ (2 * s.nHeads) ≤ 2 ^ 8 := Nat.pow_le_pow_right (by decide) (by omega)
    exact (State.wr_rd_same hi TSY_CLKOUT_EN _ (by decide)).trans (Nat.mod_eq_of_lt (Nat.lt_of_lt_of_le hen hle))
  · have heq := State.wrAll_eq u ((List.range (2 * s.nHeads)).flatMap (outFields p))
    generalize hw : u.wrAll ((List.range (2 * s.nHeads)).flatMap (outFields p)) = w at *
    rw [show v = w.wr TSY_CLKOUT_EN (leAt p 0 1) from congrArg (fun t : State => t.wr TSY_CLKOUT_EN (leAt p 0 1)) hw, heq]
    rfl
  · have hd := hdiv k hk
    simp only [State.divTooFast, Bool.or_eq_false_iff, decide_eq_false_iff_not, not_or, Nat.not_lt] at hd
    obtain ⟨⟨h0, h1⟩, -⟩ := hd
    exact (hrd hk (w := leAt p (2 + 2 * k) 2 - 1) (by simp [outFields])).trans (Nat.mod_eq_of_lt (show _ < 2 ^ 10 by omega))
  · exact (hrd hk (w := leAt p 0 1 / 2 ^ k % 2) (by simp [outFields])).trans (Nat.mod_eq_of_lt (Nat.mod_lt _ (by decide)))

end

/-- Settles O55: the offsets and the sources, then the commands. -/
theorem deviceTime : Obligations.DeviceTime := by
  refine ⟨fun s hs => ⟨fun k off hv hf => ⟨exec_timeDiscipline_other hv hf, ?_⟩, State.slew_covered, State.slew_within hs,
    exec_holdoverExpire, exec_timeValidLoss⟩, fun c rest s hs => ⟨?_, exec_timeGet, ?_, ?_⟩⟩
  · intro hb used t
    have hexec := exec_timeDiscipline_steers hv hf hb
    have ht : s.offsetTaken (decide used) off = t := by simp only [State.offsetTaken, decide_eq_true_eq, t]
    rw [show decide (k = s.rd TSY_TIME_STATUS_SOURCE) = decide used from rfl, ht] at hexec
    clear_value t
    exact ⟨fun hstep => hexec.trans (congrArg Host.Outcome.next (if_pos hstep)),
      fun hslew => hexec.trans (congrArg Host.Outcome.next (if_neg (Nat.not_lt.mpr hslew)))⟩
  · intro h
    have hexec := exec_timeConfig h
    exact ⟨fun hbad => hexec.trans (congrArg Host.Outcome.next (if_pos hbad)),
      fun h1 h2 h3 h4 h5 => hexec.trans (congrArg Host.Outcome.next (if_neg (by omega)))⟩
  · intro h num den
    have hexec := exec_genlockSet h
    refine ⟨fun hbad => hexec.trans (congrArg Host.Outcome.next (if_pos hbad)), fun h1 h2 h3 h4 hm => ⟨_, hexec.trans (congrArg Host.Outcome.next (if_neg ?_)), _, rfl, ?_⟩⟩
    · rintro (hbad | hbad | hbad | hbad | ⟨k, hk⟩)
      · exact h1 hbad
      · exact h2 hbad
      · omega
      · omega
      · obtain ⟨hlo, hhi⟩ := hm k
        omega
    · exact genlock_spec (State.begun_inv hs) h1 h3 hm
  · intro h en
    have hexec := exec_clockOutSet h
    refine ⟨fun hbad => hexec.trans (congrArg Host.Outcome.next (if_pos (hbad.imp id ?_))), fun hen hdiv =>
      ⟨_, hexec.trans (congrArg Host.Outcome.next (if_neg ?_)), _, rfl, ?_⟩⟩
    · rintro ⟨k, hk, hfast⟩
      exact List.any_eq_true.mpr ⟨k, List.mem_range.mpr hk, hfast⟩
    · rintro (hbad | hbad)
      · exact absurd hen (Nat.not_lt.mpr hbad)
      · obtain ⟨k, hk, hfast⟩ := List.any_eq_true.mp hbad
        exact absurd (hdiv k (List.mem_range.mp hk)) (by rw [hfast]; decide)
    · exact outputs_spec (State.begun_inv hs) s.nHeads_le hen hdiv

end Sys2Proof.Machine

/-! ## Commits, the hold-up check, records in two copies (R646 to R656) -/

namespace Sys2Proof.Machine

/-! ### Records in two copies (R646, R647) -/

section
variable {α : Type} (r : NvRec α)

theorem NvRec.current_of_inB {b : Bool} (h : r.inB = b) : r.current = bif b then r.b.get else r.a.get := by
  rw [NvRec.current, h]
  cases b <;> rfl

/-- The record in use by which copies hold one. -/
theorem NvRec.current_cases : (r.current = none ∧ r.inB = false ∧ r.a.get = none ∧ r.b.get = none) ∨
    (∃ x, r.current = some x ∧ r.inB = false ∧ r.a.get = some x ∧ ∀ y, r.b.get = some y → seqHigher y.1 x.1 = false) ∨
    (∃ y, r.current = some y ∧ r.inB = true ∧ r.b.get = some y ∧ ∀ x, r.a.get = some x → seqHigher y.1 x.1 = true) := by
  rcases ha : r.a.get with _ | x <;> rcases hb : r.b.get with _ | y
  · have hin : r.inB = false := by rw [NvRec.inB, ha, hb]
    exact .inl ⟨(r.current_of_inB hin).trans ha, hin, rfl, rfl⟩
  · have hin : r.inB = true := by rw [NvRec.inB, ha, hb]
    exact .inr (.inr ⟨y, (r.current_of_inB hin).trans hb, hin, rfl, fun x hx => by cases hx⟩)
  · have hin : r.inB = false := by rw [NvRec.inB, ha, hb]
    exact .inr (.inl ⟨x, (r.current_of_inB hin).trans ha, hin, rfl, fun y hy => by cases hy⟩)
  · have hin : r.inB = seqHigher y.1 x.1 := by rw [NvRec.inB, ha, hb]
    cases hh : seqHigher y.1 x.1 with
    | false =>
      rw [hh] at hin
      exact .inr (.inl ⟨x, (r.current_of_inB hin).trans ha, hin, rfl, fun z hz => by rw [← Option.some.inj hz, hh]⟩)
    | true =>
      rw [hh] at hin
      exact .inr (.inr ⟨y, (r.current_of_inB hin).trans hb, hin, rfl, fun z hz => by rw [← Option.some.inj hz, hh]⟩)

/-- What holds no record leaves the record in use. -/
theorem NvRec.put_current {c : NvCopy α} (hc : c.get = none) : (r.put c).current = r.current := by
  obtain ⟨hcur, hin, ha, hb⟩ | ⟨x, hcur, hin, ha, -⟩ | ⟨y, hcur, hin, hb, -⟩ := r.current_cases <;> rw [hcur, NvRec.put, hcur, hin]
  · simp [NvRec.current, NvRec.inB, hc, hb]
  · simp [NvRec.current, NvRec.inB, hc, ha]
  · simp [NvRec.current, NvRec.inB, hc, hb]

theorem NvRec.erase_current : r.erase.2.current = r.current := r.put_current rfl

/-- What is erased is a copy that held something. -/
theorem NvRec.erase_first : (r.a ≠ .erased → r.b ≠ .erased → r.erase.1 = true) ∧ (r.erase.2.a = .erased ∨ r.erase.2.b = .erased) := by
  have herases : ∀ c : NvCopy α, c ≠ .erased → (match c with | .erased => false | _ => true) = true := fun c hc => by
    cases c with
    | erased => exact absurd rfl hc
    | part => rfl
    | whole => rfl
  cases hc : (r.current.isSome && !r.inB) with
  | true =>
    simp only [NvRec.erase, NvRec.put, hc, if_true, or_true, and_true]
    exact fun _ hb => herases _ hb
  | false =>
    simp only [NvRec.erase, NvRec.put, hc, Bool.false_eq_true, if_false, true_or, and_true]
    exact fun ha _ => herases _ ha

/-- One step of the sequence number is higher, and no number is higher than its successor. -/
theorem seqHigher_succ {n : Nat} (hn : n < 2 ^ 32) : seqHigher ((n + 1) % 2 ^ 32) n = true ∧ seqHigher n ((n + 1) % 2 ^ 32) = false := by
  simp only [seqHigher, decide_eq_true_iff, decide_eq_false_iff_not]
  omega

/-- A new record is the record in use, with its number one higher; the one that was stays in its copy. -/
theorem NvRec.write_spec (v : α) (ha : ∀ x, r.a.get = some x → x.1 < 2 ^ 32) (hb : ∀ x, r.b.get = some x → x.1 < 2 ^ 32) :
    (∃ n, (r.write v).current = some (n, v) ∧ n < 2 ^ 32 ∧ ∀ x, r.current = some x → n = (x.1 + 1) % 2 ^ 32) ∧
    (∀ x, r.current = some x → (r.write v).a.get = some x ∨ (r.write v).b.get = some x) := by
  have hget (n : Nat) : (NvCopy.whole n v).get = some (n, v) := rfl
  obtain ⟨hcur, hin, ha0, hb0⟩ | ⟨x, hcur, hin, ha1, -⟩ | ⟨y, hcur, hin, hb1, -⟩ := r.current_cases <;>
    rw [NvRec.write, NvRec.put, hcur, hin]
  · refine ⟨⟨0, ?_, by decide, fun x hx => by cases hx⟩, fun x hx => by cases hx⟩
    simp [NvRec.current, NvRec.inB, hget, hb0]
  · have hs := (seqHigher_succ (ha x ha1)).1
    refine ⟨⟨(x.1 + 1) % 2 ^ 32, ?_, Nat.mod_lt _ (by decide), fun z hz => by rw [← Option.some.inj hz]⟩, fun z hz => .inl (by rw [← hz]; exact ha1)⟩
    dsimp only
    generalize (x.1 + 1) % 2 ^ 32 = n at *
    simp [NvRec.current, NvRec.inB, hget, ha1, hs]
  · have hs := (seqHigher_succ (hb y hb1)).2
    refine ⟨⟨(y.1 + 1) % 2 ^ 32, ?_, Nat.mod_lt _ (by decide), fun z hz => by rw [← Option.some.inj hz]⟩, fun z hz => .inr (by rw [← hz]; exact hb1)⟩
    dsimp only
    generalize (y.1 + 1) % 2 ^ 32 = n at *
    simp [NvRec.current, NvRec.inB, hget, hb1, hs]

end

section
variable {s : State}

/-! ### The start of a commit (R650 to R653) -/

theorem adcLow_eq (adc : Adc) : adcLow adc = min (min adc.a.toNat adc.b.toNat) (min adc.c.toNat adc.d.toNat) := rfl

section
variable (hs : s.Inv)
include hs

/-- A measurement leaves every register but its own three. -/
theorem State.holdupMeasure_spec (adc : Adc) : (s.holdupMeasure adc).Inv ∧ ∀ f : Fld, f.off ≠ PWR_HOLDUP_ADC_CODE.off →
    f.off ≠ PWR_HOLDUP_MV_MV.off → f.off ≠ PWR_HOLDUP_MJ_MJ.off → (s.holdupMeasure adc).rd f = s.rd f := by
  have h1 (v : Nat) := State.wr_inv hs PWR_HOLDUP_ADC_CODE v
  have h2 (v w : Nat) := State.wr_inv (h1 v) PWR_HOLDUP_MV_MV w
  refine ⟨State.wr_inv (h2 _ _) _ _, fun f ha hm hj => ?_⟩
  rw [State.holdupMeasure, State.wr_rd_other (h2 _ _) _ _ _ hj, State.wr_rd_other (h1 _) _ _ _ hm, State.wr_rd_other hs _ _ _ ha]

/-- The check reads settings that a measurement leaves. -/
theorem State.holdupPasses_measured (adc : Adc) (low cls : Nat) : (s.holdupMeasure adc).holdupPasses low cls = s.holdupPasses low cls := by
  obtain ⟨-, hrd⟩ := State.holdupMeasure_spec hs adc
  have hvolts : (s.holdupMeasure adc).holdupV low = s.holdupV low := by
    rw [State.holdupV, State.holdupV, hrd PWR_HOLDUP_RATIO_RATIO (by decide) (by decide) (by decide)]
  rw [State.holdupPasses, State.holdupPasses, State.holdupE, State.holdupE, hvolts, hrd PWR_HOLDUP_C_MF (by decide) (by decide) (by decide),
    hrd PWR_HOLDUP_MARGIN_MARGIN (by decide) (by decide) (by decide), hrd PWR_HOLDUP_P_W (by decide) (by decide) (by decide),
    hrd PWR_HOLDUP_VMIN_MV (by decide) (by decide) (by decide)]

theorem State.noteDefer_count : s.noteDefer.rd PWR_DEFERRED_COUNT = min (s.rd PWR_DEFERRED_COUNT + 1) (2 ^ 32 - 1) := by
  rw [State.noteDefer, State.setCause_rd_other (State.count_inv hs _ _) (by decide), State.count_rd_same hs _ _ (by decide)]
  rfl

end

section
variable {adc : Adc} {k : Commit} {more : List Commit} (hup : s.serving = true ∨ s.inRecovery = true) (hbusy : s.nv.busy = none)
  (hq : s.nv.queue = k :: more) (hk : k.checked = false)
include hup hbusy hq hk

/-- The first commit of the queue passes the check or is deferred. -/
theorem exec_nvCommitStart : exec (.nvCommitStart adc) s = .next (
    let r := (s.setNv fun n => { n with queue := more }).holdup adc k.cls
    if !r.1 then r.2.nvDefer k
    else if r.2.flag PWR_STATUS_PWR_FAIL then r.2.noteDefer.nvDefer k
    else r.2.nvBegin k) := by
  have hcond : (s.serving || s.inRecovery) = true := by rcases hup with h | h <;> simp [h]
  simp only [exec, execNvCommitStart, hcond, if_true, State.nvStart, hq, hbusy, hk, Bool.false_eq_true, if_false]

variable (hs : s.Inv)
include hs

/-- The outcomes of the check, and of a power failure that comes with it. -/
theorem nvCommitStart_cases : let u := (s.setNv fun n => { n with queue := more }).holdupMeasure adc
    let low := min (min adc.a.toNat adc.b.toNat) (min adc.c.toNat adc.d.toNat)
    (s.holdupPasses low k.cls = false → exec (.nvCommitStart adc) s = .next (((u.wr PWR_LAST_COMMIT_DEFERRED 1).noteDefer).nvDefer k)) ∧
    (s.holdupPasses low k.cls = true → s.rd PWR_STATUS_PWR_FAIL = 0 → exec (.nvCommitStart adc) s = .next ((u.wr PWR_LAST_COMMIT_DEFERRED 0).nvBegin k)) ∧
    (s.holdupPasses low k.cls = true → s.rd PWR_STATUS_PWR_FAIL = 1 →
      exec (.nvCommitStart adc) s = .next ((u.wr PWR_LAST_COMMIT_DEFERRED 0).noteDefer.nvDefer k)) := by
  intro u low
  have hset := (State.setNv_kept (fun n => { n with queue := more }) hs).inv
  obtain ⟨hu, hrd⟩ := State.holdupMeasure_spec hset adc
  have hpass : u.holdupPasses (adcLow adc) k.cls = s.holdupPasses low k.cls := State.holdupPasses_measured hset adc low k.cls
  have hfail : (u.wr PWR_LAST_COMMIT_DEFERRED 0).rd PWR_STATUS_PWR_FAIL = s.rd PWR_STATUS_PWR_FAIL :=
    (State.wr_rd_other hu _ _ _ (by decide)).trans (hrd _ (by decide) (by decide) (by decide))
  have hholdup : (s.setNv fun n => { n with queue := more }).holdup adc k.cls =
      if s.holdupPasses low k.cls then (true, u.wr PWR_LAST_COMMIT_DEFERRED 0) else (false, (u.wr PWR_LAST_COMMIT_DEFERRED 1).noteDefer) :=
    if_congr (Bool.eq_iff_iff.mp hpass) rfl rfl
  have hexec := exec_nvCommitStart (adc := adc) hup hbusy hq hk
  rw [hholdup] at hexec
  clear_value u
  refine ⟨fun hp => ?_, fun hp h0 => ?_, fun hp h1 => ?_⟩ <;> rw [hp] at hexec
  · exact hexec
  · have hflag : (u.wr PWR_LAST_COMMIT_DEFERRED 0).flag PWR_STATUS_PWR_FAIL = false := by rw [State.flag, hfail, h0]; rfl
    exact hexec.trans (congrArg Host.Outcome.next (if_neg (Bool.eq_false_iff.mp hflag)))
  · have hflag : (u.wr PWR_LAST_COMMIT_DEFERRED 0).flag PWR_STATUS_PWR_FAIL = true := by rw [State.flag, hfail, h1]; rfl
    exact hexec.trans (congrArg Host.Outcome.next (if_pos hflag))

end

/-! ### The other rows -/

theorem exec_nvCommitDone {k : Commit} (hup : s.mainUp = true) (hb : s.nv.busy = some k) : exec .nvCommitDone s =
    .next ((((s.setNv fun v => { v with busy := none }).wr PWR_STATUS_COMMIT_BUSY 0).count PWR_COMMITS_COUNT 1).nvApply k) := by
  simp only [exec, execNvCommitDone, hup, if_true, hb]

theorem exec_nvCommitDone_idle (hup : s.mainUp = true) (hb : s.nv.busy = none) : exec .nvCommitDone s = .next s := by
  simp only [exec, execNvCommitDone, hup, if_true, hb]

theorem State.holdupPasses_none {low : Nat} (cls : Nat) (h : low = 0 ∨ s.rd PWR_HOLDUP_C_MF = 0) : s.holdupPasses low cls = false := by
  rw [State.holdupPasses, decide_eq_false_iff_not]
  rintro ⟨h0, hc, -⟩
  exact h.elim h0 hc

section
variable (hv : s.serving = true) (hd : s.nv.deferred ≠ [])
include hv hd

theorem exec_commitRetry (adc : Adc) (hms : s.nv.deferredAt + 100000000 ≤ s.now) : exec (.commitRetry adc) s = .next (s.nvRetry adc) :=
  congrArg Host.Outcome.next (if_pos (by simp [hv, hd, hms]))

theorem exec_pwrFailNRise (adc : Adc) : exec (.pwrFailNRise adc) s = .next ((s.wr PWR_STATUS_PWR_FAIL 0).nvRetry adc) := by
  have hv' : (s.wr PWR_STATUS_PWR_FAIL 0).serving = true := hv
  exact congrArg Host.Outcome.next (if_pos (by simp [hv', hd]))

end

theorem exec_pwrFailNFall (hup : s.mainUp = true) (h0 : s.rd PWR_STATUS_PWR_FAIL = 0) : exec .pwrFailNFall s =
    .next (((s.wr PWR_STATUS_PWR_FAIL 1).setCause (causePwr 0)).report EV_PWR_FAIL (src 12 0) 0) := by
  have hflag : s.flag PWR_STATUS_PWR_FAIL = false := by rw [State.flag, h0]; rfl
  simp only [exec, execPwrFailNFall, hflag, hup, Bool.not_true, Bool.false_eq_true, if_false]

/-- The background erase touches no record in use and no image, and an out-of-use copy of the boot record first. -/
theorem exec_flashErase (hv : s.serving = true) (hb : s.nv.busy = none) : Runs .flashErase s fun t => t = { s with nv := t.nv } ∧
    t.nv.boot.current = s.nv.boot.current ∧ t.nv.config.current = s.nv.config.current ∧ t.nv.softMap.current = s.nv.softMap.current ∧
    t.nv.images = s.nv.images ∧ (s.nv.boot.a ≠ .erased → s.nv.boot.b ≠ .erased → t.nv.boot.a = .erased ∨ t.nv.boot.b = .erased) := by
  have hidle : (!s.serving || s.nv.busy.isSome) = false := by simp [hv, hb]
  refine ⟨_, congrArg Host.Outcome.next (if_neg (by rw [hidle]; decide)), ?_⟩
  obtain ⟨hfirst, herased⟩ := s.nv.boot.erase_first
  dsimp only
  split
  case isTrue hboot => exact ⟨rfl, s.nv.boot.erase_current, rfl, rfl, rfl, fun _ _ => herased⟩
  case isFalse hboot =>
    have hno : s.nv.boot.a ≠ .erased → s.nv.boot.b ≠ .erased → False := fun ha hb => hboot (hfirst ha hb)
    split
    · exact ⟨rfl, rfl, s.nv.config.erase_current, rfl, rfl, fun ha hb => (hno ha hb).elim⟩
    · split
      · exact ⟨rfl, rfl, rfl, s.nv.softMap.erase_current, rfl, fun ha hb => (hno ha hb).elim⟩
      · split
        · exact ⟨rfl, rfl, rfl, rfl, rfl, fun ha hb => (hno ha hb).elim⟩
        · split <;> exact ⟨rfl, rfl, rfl, rfl, rfl, fun ha hb => (hno ha hb).elim⟩

/-- A repair's commit that the check had let begin stays deferred. -/
theorem State.nvDefer_softAdd {k : Commit} (hk : k.checked = true) {u : SpareUse} (hu : k.what = .softAdd u) : s.nvDefer k = s.setNv fun n => { n with
    deferred := n.deferred ++ [{ k with own := true, checked := false }], deferredAt := s.now } := by
  have hown : (k.own && (NvWrite.softAdd u).isSwap) = false := by cases k.own <;> rfl
  simp only [State.nvDefer, hk, Bool.or_true, if_true, hu, hown, Bool.false_eq_true, if_false, List.isEmpty_nil, List.map_cons,
    List.map_nil]

end

/-- Settles O57: the rows of the commits, then the records in two copies. -/
theorem commitRows : Obligations.CommitRows := by
  refine ⟨fun s adc hs => ⟨fun k more hup hb hq hk => ?_, fun k => exec_nvCommitDone, exec_nvCommitDone_idle, State.noteDefer_count hs,
    fun low cls => State.holdupPasses_none cls, fun hv hd => ⟨exec_commitRetry hv hd adc, exec_pwrFailNRise hv hd adc⟩, exec_pwrFailNFall,
    exec_flashErase, fun k u hk hu => State.nvDefer_softAdd hk hu⟩, fun r v ha hb => ?_⟩
  · obtain ⟨hdefer, hbegin, hfail⟩ := nvCommitStart_cases (adc := adc) hup hb hq hk hs
    exact ⟨hdefer, fun hp h0 => hbegin hp h0, hfail⟩
  · obtain ⟨hcur, hkeep⟩ := r.write_spec v ha hb
    exact ⟨hcur, hkeep, r.erase_current, r.put_current rfl⟩

end Sys2Proof.Machine

/-! ## Resets of the main die, and booting (R657 to R672, R694, R711) -/

namespace Sys2Proof.Machine

/-! ### A filtered map -/

/-- A canonical map that is filtered by its keys reads what it held where the filter keeps the key, and its default elsewhere. -/
theorem Sparse.get_filter {α : Type} [DecidableEq α] {d : Nat → α} (p : Nat × α → Bool) {l : List (Nat × α)} (h : Sparse.wf d l = true) {k : Nat} :
    ((∀ v, p (k, v) = true) → Sparse.get d (l.filter p) k = Sparse.get d l k) ∧ ((∀ v, p (k, v) = false) → Sparse.get d (l.filter p) k = d k) := by
  suffices ∀ lo, Sparse.wfFrom d lo l = true →
      ((∀ v, p (k, v) = true) → Sparse.get d (l.filter p) k = Sparse.get d l k) ∧ ((∀ v, p (k, v) = false) → Sparse.get d (l.filter p) k = d k) from this 0 h
  induction l with
  | nil => exact fun _ _ => ⟨fun _ => rfl, fun _ => rfl⟩
  | cons e t ih =>
    intro lo hw
    obtain ⟨a, w⟩ := e
    simp only [Sparse.wfFrom, Bool.and_eq_true, decide_eq_true_eq] at hw
    obtain ⟨hkeep, hdrop⟩ := ih (Sparse.wfFrom_mono hw.2 (Nat.zero_le _)) _ hw.2
    have hfilt := Sparse.filter_wfFrom p hw.2
    rw [List.filter_cons]
    refine ⟨fun hp => ?_, fun hp => ?_⟩
    · by_cases hlt : k < a
      · have htail : Sparse.get d (t.filter p) k = d k := Sparse.get_below hfilt (by omega)
        split <;> simp [Sparse.get, hlt, htail]
      · by_cases heq : k = a
        · subst heq
          simp [Sparse.get, hp w]
        · split <;> simp [Sparse.get, hlt, heq, hkeep hp]
    · by_cases hlt : k < a
      · have htail : Sparse.get d (t.filter p) k = d k := Sparse.get_below hfilt (by omega)
        split <;> simp [Sparse.get, hlt, htail]
      · by_cases heq : k = a
        · subst heq
          simp [hp w, hdrop hp]
        · split <;> simp [Sparse.get, hlt, heq, hdrop hp]

/-! ### The main die after a reset (R694) -/

section
variable {s : State}

/-- What a reset does first: the heads' sync outputs and the modules' power go low. -/
def State.quietPins (s : State) : State :=
  let s := (List.range s.nHeads).foldl (fun t h => if t.fsyncHigh h then t.emit (.fsync h false) else t) s
  (List.range s.nDdr).foldl (fun t c => if t.dimmPwrEn c then t.emit (.dimmPower c false) else t) s

theorem State.quietPins_eq (s : State) : s.quietPins = { s with out := s.quietPins.out } := by
  have hemit (c : Bool) (t : State) (o : Output) : (if c then t.emit o else t) = { t with out := (if c then t.emit o else t).out } := by
    cases c <;> rfl
  have hfold {β : Type} (c : State → β → Bool) (o : β → Output) (l : List β) (u : State) :
      l.foldl (fun t x => if c t x then t.emit (o x) else t) u = { u with out := (l.foldl (fun t x => if c t x then t.emit (o x) else t) u).out } := by
    refine foldl_related (R := fun a b : State => b = { a with out := b.out }) (fun _ => rfl) (fun a b e hab hbe => ?_) (fun t x => hemit _ _ _) l u
    rw [hbe, hab]
  have h1 := hfold (fun t h => t.fsyncHigh h) (fun h => .fsync h false) (List.range s.nHeads) s
  rw [State.quietPins]
  generalize (List.range s.nHeads).foldl (fun t h => if t.fsyncHigh h then t.emit (.fsync h false) else t) s = u at *
  have h2 := hfold (fun t c => t.dimmPwrEn c) (fun c => .dimmPower c false) (List.range u.nDdr) u
  generalize (List.range u.nDdr).foldl (fun t c => if t.dimmPwrEn c then t.emit (.dimmPower c false) else t) u = v at *
  rw [h2, h1]

/-- The non-volatile store after a reset: the write in progress is cut short, and nothing waits. -/
def Nv.reset (n : Nv) : Nv := { (match n.busy with | some c => n.torn c | none => n) with queue := [], busy := none, deferred := [] }

/-- The reset state with what a reset keeps. -/
def State.cleared (s : State) : State := { State.reset with
  pending := s.pending
  part := s.part
  fuses := s.fuses
  now := s.now
  freeCtr := s.freeCtr
  regs := s.regs.filter (keptReg s)
  mem := s.mem
  poisoned := s.poisoned
  out := s.out
  shroud := s.shroud
  nv := s.nv.reset
  power := { s.power with resetDue := none, staged := none, swap := none, fallback := false, tempSeen := false }
  mainUp := false }

/-- A power failure that stands is shown again. -/
def State.failShown (t : State) (pf : Bool) : State := if pf then t.setReg PWR_STATUS_PWR_FAIL.off (PWR_STATUS_PWR_FAIL.put 0 1) else t

theorem State.dieReset_eq (s : State) : s.dieReset = s.quietPins.cleared.failShown (s.flag PWR_STATUS_PWR_FAIL) := by
  have hflag : s.quietPins.flag PWR_STATUS_PWR_FAIL = s.flag PWR_STATUS_PWR_FAIL := by rw [s.quietPins_eq]; rfl
  rw [← hflag]
  rfl

theorem State.failShown_eq (t : State) (pf : Bool) : t.failShown pf = { t with regs := (t.failShown pf).regs } := by
  cases pf <;> rfl

/-- All of a reset's outcome but the registers. -/
theorem State.dieReset_fields (s : State) : ∃ regs out, s.dieReset = { s.cleared with regs := regs, out := out } := by
  refine ⟨s.dieReset.regs, s.quietPins.out, ?_⟩
  have h1 := State.failShown_eq s.quietPins.cleared (s.flag PWR_STATUS_PWR_FAIL)
  rw [← s.dieReset_eq] at h1
  rw [h1, s.quietPins_eq]
  rfl

theorem State.dieReset_reg (hs : s.Inv) {o : Nat} (ho : o ≠ PWR_STATUS_PWR_FAIL.off) : s.dieReset.reg o = Sparse.get resetWord (s.regs.filter (keptReg s)) o := by
  have hreg (t : State) (ht : t.Inv) (pf : Bool) : (t.failShown pf).reg o = t.reg o := by
    cases pf
    · rfl
    · exact State.setReg_reg_other ht _ ho
  have hq : s.quietPins.cleared.regs = s.regs.filter (keptReg s) := by rw [s.quietPins_eq]; rfl
  have hi : s.quietPins.cleared.Inv := by
    rw [s.quietPins_eq]
    exact ⟨rfl, rfl, Sparse.filter_wf _ hs.regs, rfl, hs.mem, hs.poisoned, rfl⟩
  rw [s.dieReset_eq, hreg _ hi, State.reg, hq]

theorem State.dieReset_shroudRegs (hs : s.Inv) {o : Nat} (hlo : 0x1A0000 ≤ o) (hhi : o < 0x1B0000) : s.dieReset.reg o = s.reg o := by
  rw [State.dieReset_reg hs (show o ≠ 0x190000 by omega)]
  exact (Sparse.get_filter (keptReg s) hs.regs).1 fun v => by simp [keptReg, hlo, hhi]

theorem State.dieReset_otherRegs (hs : s.Inv) {o : Nat} (hhi : o < 0x1A0000) (h1 : o ≠ PWR_STRAPS_VALUE.off) (h2 : o ≠ PWR_SVN_MIN_SVN.off)
    (h3 : o ≠ PWR_STATUS_PWR_FAIL.off) : s.dieReset.reg o = resetWord o := by
  rw [State.dieReset_reg hs h3]
  exact (Sparse.get_filter (keptReg s) hs.regs).2 fun v => by simp [keptReg, h1, h2, h3]; omega

/-- The records in use and the images outlast a write that is cut short. -/
theorem Nv.torn_spec (n : Nv) (c : Commit) : (n.torn c).boot.current = n.boot.current ∧ (n.torn c).config.current = n.config.current ∧
    (n.torn c).softMap.current = n.softMap.current ∧ (∀ k : Fin 4, (n.torn c).training[k].current = n.training[k].current) ∧ (n.torn c).images = n.images := by
  have hpart {α : Type} (r : NvRec α) : (r.put .part).current = r.current := r.put_current rfl
  rw [Nv.torn]
  split
  · exact ⟨hpart _, rfl, rfl, fun _ => rfl, rfl⟩
  · exact ⟨rfl, hpart _, rfl, fun _ => rfl, rfl⟩
  · exact ⟨rfl, rfl, hpart _, fun _ => rfl, rfl⟩
  · refine ⟨rfl, rfl, rfl, fun k => ?_, rfl⟩
    rename_i ch r _
    by_cases hk : (Fin.ofNat 4 ch) = k
    · subst hk
      simp only [Fin.getElem_fin, Vector.getElem_set_self]
      exact hpart _
    · have hne : (Fin.ofNat 4 ch).val ≠ k.val := Fin.val_ne_of_ne hk
      simp only [Fin.getElem_fin, Vector.getElem_set_ne _ _ hne]
  · exact ⟨rfl, rfl, rfl, fun _ => rfl, rfl⟩
  · exact ⟨rfl, rfl, rfl, fun _ => rfl, rfl⟩
  · exact ⟨rfl, rfl, rfl, fun _ => rfl, rfl⟩

theorem Nv.reset_spec (n : Nv) : n.reset.boot.current = n.boot.current ∧ n.reset.config.current = n.config.current ∧
    n.reset.softMap.current = n.softMap.current ∧ (∀ k : Fin 4, n.reset.training[k].current = n.training[k].current) ∧ n.reset.images = n.images ∧
    (n.busy = none → n.reset.boot = n.boot ∧ n.reset.config = n.config) := by
  rw [Nv.reset]
  cases hb : n.busy with
  | none => exact ⟨rfl, rfl, rfl, fun _ => rfl, rfl, fun _ => ⟨rfl, rfl⟩⟩
  | some c =>
    obtain ⟨h1, h2, h3, h4, h5⟩ := n.torn_spec c
    exact ⟨h1, h2, h3, h4, h5, fun h => by cases h⟩

/-! ### The release of the die -/

theorem State.mainUp_foldl {β : Type} {f : State → β → State} (hf : ∀ t x, (f t x).mainUp = t.mainUp) (l : List β) (t : State) : (l.foldl f t).mainUp = t.mainUp :=
  foldl_related (R := fun a b : State => b.mainUp = a.mainUp) (fun _ => rfl) (fun _ _ _ h k => k.trans h) hf l t

theorem State.setSpares_mainUp (l : List SpareUse) : (s.setSpares l).mainUp = s.mainUp := by
  refine (State.mainUp_foldl (fun t b => ?_) _ _).trans rfl
  rw [State.showSpares]
  split <;> rfl

theorem State.dsmSetRegion_mainUp (k base units rd wr : Nat) (isSealed host : Bool) :
    (s.dsmSetRegion k base units rd wr isSealed host).mainUp = s.mainUp := by
  simp only [State.dsmSetRegion, State.wr_mainUp]

theorem State.bootStart_mainUp : s.bootStart.mainUp = s.mainUp := by
  have hfactory : s.factoryRegs.mainUp = s.mainUp := by
    rw [State.factoryRegs, State.mainUp_foldl, State.mainUp_foldl, State.wr_mainUp]
    · intro t p
      split <;> rfl
    · exact fun t p => rfl
  rw [State.bootStart, State.wr_mainUp, State.firmwareRegions, State.dsmSetRegion_mainUp, State.dsmSetRegion_mainUp, hfactory]

theorem State.mainRelease_up (hp : s.power.porstHigh = true) (hr : s.power.railsGood = true) (ht : s.power.tripped = false) (hup : s.mainUp = false) :
    s.mainRelease.mainUp = true := by
  rw [State.mainRelease, if_pos (by simp [hp, hr, ht, hup]), State.bootStart_mainUp, State.setSpares_mainUp]
  rfl

theorem State.mainRelease_held (h : s.power.porstHigh = false ∨ s.power.railsGood = false ∨ s.power.tripped = true) : s.mainRelease = s := by
  rw [State.mainRelease, if_neg]
  rcases h with h | h | h <;> simp [h]

/-! ### The stages of booting (R657 to R662) -/

/-- The ROM's choice of an image. -/
theorem State.bootRun_spec (hs : s.Inv) {slot : Nat} (hslot : slot ≤ 1) : (s.bootRun slot).rd PWR_BOOT_STATUS_STAGE = 2 ∧
    (s.bootRun slot).rd PWR_STATUS_RUNNING_SLOT = slot ∧ (s.bootRun slot).rd PWR_STATUS_FALLBACK = b2n (slot ≠ s.preferred) := by
  have h1 := State.wr_inv hs PWR_STATUS_RUNNING_SLOT slot
  have h2 (v : Nat) := State.wr_inv h1 PWR_STATUS_FALLBACK v
  rw [State.bootRun]
  refine ⟨?_, ?_, ?_⟩
  · rw [State.wr_rd_same (h2 _) _ _ (by decide)]
    rfl
  · rw [State.wr_rd_other (h2 _) _ _ _ (by decide), State.wr_rd_apart h1 _ (by decide) (by decide), State.wr_rd_same hs _ _ (by decide)]
    exact Nat.mod_eq_of_lt (show slot < 2 ^ 1 by omega)
  · rw [State.wr_rd_other (h2 _) _ _ _ (by decide), State.wr_rd_same h1 _ _ (by decide)]
    by_cases h : slot ≠ s.preferred <;> simp [h, b2n, PWR_STATUS_FALLBACK]

theorem State.stage_rd (hs : s.Inv) {v : Nat} (hv : v < 8) : (s.wr PWR_BOOT_STATUS_STAGE v).rd PWR_BOOT_STATUS_STAGE = v :=
  (State.wr_rd_same hs _ _ (by decide)).trans (Nat.mod_eq_of_lt hv)

/-- The slot that the ROM tries first. -/
def State.firstSlot (s : State) : Nat := if (s.rd PWR_STRAPS_VALUE).testBit 1 then 1 - s.preferred else s.preferred

theorem State.bootRom_spec (hs : s.Inv) : let g := s.rd PWR_STRAPS_VALUE
    (g.testBit 0 = true → s.bootRom.rd PWR_BOOT_STATUS_STAGE = 6) ∧
    (g.testBit 0 = false → s.imageValid s.firstSlot = true → s.firstSlot ≤ 1 → s.bootRom.rd PWR_BOOT_STATUS_STAGE = 2 ∧
      s.bootRom.rd PWR_STATUS_RUNNING_SLOT = s.firstSlot ∧ s.bootRom.rd PWR_STATUS_FALLBACK = b2n (s.firstSlot ≠ s.preferred)) ∧
    (g.testBit 0 = false → s.imageValid s.firstSlot = false → s.imageValid (1 - s.firstSlot) = false → s.bootRom.rd PWR_BOOT_STATUS_STAGE = 6) := by
  intro g
  have hrom : s.bootRom = if g.testBit 0 then s.wr PWR_BOOT_STATUS_STAGE 6
      else if s.imageValid s.firstSlot then s.bootRun s.firstSlot
      else if s.imageValid (1 - s.firstSlot) then (s.bootRun (1 - s.firstSlot)).setPwr fun p => { p with fallback := true }
      else s.wr PWR_BOOT_STATUS_STAGE 6 := rfl
  rw [hrom]
  refine ⟨fun h => ?_, fun h hv hle => ?_, fun h hv hv' => ?_⟩
  · rw [if_pos h, State.stage_rd hs (by decide)]
  · rw [h, if_neg Bool.false_ne_true, hv, if_pos rfl]
    exact State.bootRun_spec hs hle
  · rw [h, if_neg Bool.false_ne_true, hv, if_neg Bool.false_ne_true, hv', if_neg Bool.false_ne_true, State.stage_rd hs (by decide)]

/-! ### What the second stage leaves -/

/-- A change that leaves one register as it stands. -/
structure State.KeepsReg (o : Nat) (s t : State) : Prop where
  inv : t.Inv
  reg : t.reg o = s.reg o

section
variable {o : Nat} {t u : State}

theorem State.KeepsReg.trans (h : s.KeepsReg o t) (k : t.KeepsReg o u) : s.KeepsReg o u := ⟨k.inv, k.reg.trans h.reg⟩

theorem State.KeepsReg.rd (h : s.KeepsReg o t) {f : Fld} (hf : f.off = o) : t.rd f = s.rd f := by
  rw [State.rd, hf, h.reg, State.rd, hf]

theorem foldl_keepsReg {β : Type} {f : State → β → State} {l : List β} (hf : ∀ (t : State), ∀ x ∈ l, t.Inv → t.KeepsReg o (f t x)) (hs : s.Inv) :
    s.KeepsReg o (l.foldl f s) := by
  induction l generalizing s with
  | nil => exact ⟨hs, rfl⟩
  | cons x l ih =>
    have h := hf s x List.mem_cons_self hs
    exact h.trans (ih (fun t y hy => hf t y (List.mem_cons_of_mem x hy)) h.inv)

variable (hs : s.Inv)
include hs

theorem State.wr_keepsReg {f : Fld} (v : Nat) (h : o ≠ f.off) : s.KeepsReg o (s.wr f v) := ⟨State.wr_inv hs f v, State.wr_reg_other hs f v h⟩

theorem State.showSpares_keepsReg {b : Nat} (h : o ≠ 0x100C00 + b * 4) : s.KeepsReg o (s.showSpares b) := by
  rw [State.showSpares]
  split
  · have h1 (v : Nat) := State.wr_keepsReg hs (f := DSM_SPARE_USE_ROWS b) v h
    exact (h1 _).trans (State.wr_keepsReg (h1 _).inv _ h)
  · exact ⟨hs, rfl⟩

theorem State.setSpares_keepsReg (l : List SpareUse) (h : o < 0x100C00 ∨ 0x100D08 ≤ o) : s.KeepsReg o (s.setSpares l) := by
  have h0 : s.KeepsReg o (s.setDsm fun d => { d with spares := l }) := ⟨(State.setDsm_kept _ hs).inv, rfl⟩
  refine h0.trans (foldl_keepsReg (fun t b hb ht => State.showSpares_keepsReg ht ?_) h0.inv)
  have := List.mem_range.mp hb
  omega

theorem State.report_keepsReg (code source detail : Nat) (h : o < 0x180000) : s.KeepsReg o (s.report code source detail) := by
  rw [State.report]
  split
  · exact ⟨State.setLog_inv hs _, rfl⟩
  · have hc := State.wr_keepsReg hs (f := EVT_DROPPED_COUNT (evClass code)) (o := o) (min (s.rd (EVT_DROPPED_COUNT (evClass code)) + 1) (2 ^ (EVT_DROPPED_COUNT (evClass code)).width - 1))
      (show o ≠ 0x180000 + 0x10 + _ * 4 by omega)
    exact hc.trans ⟨(State.setCause_kept _ hc.inv).inv, State.setCause_reg_other hc.inv (show o ≠ 0x180040 by omega)⟩

theorem State.dsmSetRegion_keepsReg {k : Nat} (base units rd wr : Nat) (isSealed host : Bool) (h : o < 0x100400 + k * 16 ∨ 0x100410 + k * 16 ≤ o) :
    s.KeepsReg o (s.dsmSetRegion k base units rd wr isSealed host) := by
  have hb := State.wr_keepsReg hs (f := DSM_REG_BASE_BASE k) base (show o ≠ 0x100000 + 0x400 + k * 16 by omega)
  have hu := hb.trans (State.wr_keepsReg hb.inv (f := DSM_REG_SIZE_SIZE k) units (show o ≠ 0x100000 + 0x404 + k * 16 by omega))
  have hr := hu.trans (State.wr_keepsReg hu.inv (f := DSM_REG_PERM_READ k) rd (show o ≠ 0x100000 + 0x408 + k * 16 by omega))
  have hw := hr.trans (State.wr_keepsReg hr.inv (f := DSM_REG_PERM_WRITE k) wr (show o ≠ 0x100000 + 0x408 + k * 16 by omega))
  have hc := hw.trans (State.wr_keepsReg hw.inv (f := DSM_REG_CTRL_CLASS k) (b2n isSealed) (show o ≠ 0x100000 + 0x40C + k * 16 by omega))
  have ho := hc.trans (State.wr_keepsReg hc.inv (f := DSM_REG_CTRL_OWNER k) (b2n host) (show o ≠ 0x100000 + 0x40C + k * 16 by omega))
  have he := ho.trans (State.wr_keepsReg ho.inv (f := DSM_REG_CTRL_EN k) 1 (show o ≠ 0x100000 + 0x40C + k * 16 by omega))
  obtain ⟨d, hd⟩ : ∃ d, s.dsmSetRegion k base units rd wr isSealed host = (((((((s.wr (DSM_REG_BASE_BASE k) base).wr (DSM_REG_SIZE_SIZE k) units).wr
    (DSM_REG_PERM_READ k) rd).wr (DSM_REG_PERM_WRITE k) wr).wr (DSM_REG_CTRL_CLASS k) (b2n isSealed)).wr (DSM_REG_CTRL_OWNER k) (b2n host)).wr
    (DSM_REG_CTRL_EN k) 1).setDsm d := ⟨fun _ => _, rfl⟩
  exact ⟨(State.dsmSetRegion_kept k base units rd wr isSealed host hs).inv, by rw [hd, State.setDsm_reg, he.reg]⟩

theorem State.firmwareRegions_keepsReg (h : o < 0x100400 ∨ 0x100420 ≤ o) : s.KeepsReg o s.firmwareRegions := by
  have h0 := State.dsmSetRegion_keepsReg hs (k := 0) (o := o) 0 1 0x003 0x003 true false (by omega)
  exact h0.trans (State.dsmSetRegion_keepsReg h0.inv (k := 1) 1 2 0x003 0x002 true false (by omega))

theorem State.applySoftMap_keepsReg (h : o < 0x100C00 ∨ 0x100D08 ≤ o) : s.KeepsReg o s.applySoftMap := by
  have h0 : s.KeepsReg o (s.setDsm fun d => { d with softMap := s.softMapNow }) := ⟨(State.setDsm_kept _ hs).inv, rfl⟩
  have h1 := h0.trans (State.wr_keepsReg h0.inv (f := DSM_SOFT_MAP_COUNT) s.softMapNow.length (show o ≠ 0x100D00 by omega))
  exact h1.trans (State.setSpares_keepsReg h1.inv _ h)

theorem State.dsmSelfTest_keepsReg (fail : Option (Nat × Nat)) (hlo : 0x100008 ≤ o) (hhi : o < 0x180000) : s.KeepsReg o (s.dsmSelfTest fail) := by
  rcases fail with _ | ⟨bank, step⟩
  · exact State.wr_keepsReg hs _ (show o ≠ 0x100000 by omega)
  · have h1 := State.wr_keepsReg hs (f := DSM_STATUS_SELFTEST_FAIL) 1 (show o ≠ 0x100000 by omega)
    have h2 := h1.trans (State.wr_keepsReg h1.inv (f := DSM_SELFTEST_FAIL_BANK) bank (show o ≠ 0x100004 by omega))
    have h3 := h2.trans (State.wr_keepsReg h2.inv (f := DSM_SELFTEST_FAIL_STEP) step (show o ≠ 0x100004 by omega))
    have h4 := h3.trans (foldl_keepsReg (l := List.range s.nHeads) (f := fun t h => t.wr (HEAD_STATUS_DSM_BLOCK h) 1) (fun t h hh ht => State.wr_keepsReg ht _ (by
      have := List.mem_range.mp hh
      have := s.nHeads_le
      exact show o ≠ 0x20000 + h * 0x10000 + 4 by omega)) h3.inv)
    exact h4.trans (State.report_keepsReg h4.inv _ _ _ hhi)

omit hs in
/-- The fill marks Densum done on a state whose registers beyond the tallies stand. -/
theorem State.dsmZeroFill_split (hs : s.Inv) : ∃ z : State, s.dsmZeroFill = z.wr DSM_STATUS_INIT_DONE 1 ∧ z.Inv ∧ ∀ o, 0x100A00 ≤ o → z.reg o = s.reg o := by
  refine ⟨_, rfl, ⟨rfl, rfl, ?_, hs.live, ?_, hs.poisoned, hs.capture⟩, fun o ho => ?_⟩
  · exact Sparse.filter_wf _ hs.regs
  · exact Sparse.filter_wf _ hs.mem
  · exact (Sparse.get_filter _ hs.regs).1 fun v => by simp; omega

theorem State.dsmZeroFill_keepsReg (hlo : 0x100A00 ≤ o) : s.KeepsReg o s.dsmZeroFill := by
  obtain ⟨z, hz, hi, hreg⟩ := State.dsmZeroFill_split hs
  exact ⟨(State.dsmZeroFill_kept hs).inv, by rw [hz, State.wr_reg_other hi _ _ (show o ≠ 0x100000 by omega), hreg o hlo]⟩

theorem State.dsmZeroFill_done : s.dsmZeroFill.rd DSM_STATUS_INIT_DONE = 1 := by
  obtain ⟨z, hz, hi, -⟩ := State.dsmZeroFill_split hs
  rw [hz, State.wr_rd_same hi _ _ (by decide)]
  rfl

end

theorem State.firmwareRegions_mem : s.firmwareRegions.mem = s.mem := by
  simp only [State.firmwareRegions, State.dsmSetRegion, State.wr_mem]

theorem State.dsmZeroFill_byte (hs : s.Inv) {a : Nat} (ha : inDsm a = true) : s.dsmZeroFill.byte a = 0 :=
  (Sparse.get_filter (fun e : Nat × Byte => !(inDsm e.1 || decide (parityBase ≤ e.1))) hs.mem).2 fun v => by simp [ha]

/-- The second stage: the clocks are locked, Densum is up and filled. -/
theorem State.bootStage2_spec (hs : s.Inv) (fail : Option (Nat × Nat)) : let t := s.bootStage2 fail
    t.rd TSY_SYS_STATUS_SYS_LOCK = 1 ∧ t.rd TSY_SYS_STATUS_DDR_LOCK = 1 ∧ t.rd TSY_SYS_STATUS_SERDES_LOCK = 1 ∧ t.rd DSM_STATUS_INIT_DONE = 1 ∧
    (∀ a, dsmBase + 0x30000 ≤ a → inDsm a = true → t.byte a = 0) := by
  have h1 := State.wr_inv hs TSY_SYS_STATUS_SYS_LOCK 1
  have h2 := State.wr_inv h1 TSY_SYS_STATUS_DDR_LOCK 1
  have h3 := State.wr_inv h2 TSY_SYS_STATUS_SERDES_LOCK 1
  have hmap := State.applySoftMap_keepsReg h3 (o := 0x170000) (by omega)
  have htest := hmap.trans (State.dsmSelfTest_keepsReg hmap.inv fail (by decide) (by decide))
  have hfill := htest.trans (State.dsmZeroFill_keepsReg htest.inv (by decide))
  have hall := hfill.trans (State.firmwareRegions_keepsReg hfill.inv (by omega))
  have hdone := State.firmwareRegions_keepsReg hfill.inv (o := 0x100000) (by omega)
  have hstage : s.bootStage2 fail = ((((((s.wr TSY_SYS_STATUS_SYS_LOCK 1).wr TSY_SYS_STATUS_DDR_LOCK 1).wr TSY_SYS_STATUS_SERDES_LOCK 1).applySoftMap.dsmSelfTest
    fail).dsmZeroFill).firmwareRegions) := rfl
  rw [hstage]
  refine ⟨?_, ?_, ?_, ?_, fun a _ ha => ?_⟩
  · rw [hall.rd rfl, State.wr_rd_apart h2 _ (by decide) (by decide), State.wr_rd_apart h1 _ (by decide) (by decide), State.wr_rd_same hs _ _ (by decide)]
    rfl
  · rw [hall.rd rfl, State.wr_rd_apart h2 _ (by decide) (by decide), State.wr_rd_same h1 _ _ (by decide)]
    rfl
  · rw [hall.rd rfl, State.wr_rd_same h2 _ _ (by decide)]
    rfl
  · rw [hdone.rd rfl, State.dsmZeroFill_done htest.inv]
  · rw [State.byte, State.firmwareRegions_mem]
    exact State.dsmZeroFill_byte htest.inv ha

/-! ### The rows -/

theorem exec_porstNAssert (hp : s.power.porstHigh = true) : exec .porstNAssert s = .next (
    let stands := s.power.tripped && decide (s.power.tripAt = some s.now)
    let u := if s.power.tripped && !stands then s.emit (.thermTrip false) else s
    (u.setPwr fun p => { p with porstHigh := false, porstAt := some s.now, tripped := stands }).resetEvent 1) := by
  have hnow (c : Bool) (o : Output) : (if c = true then s.emit o else s).now = s.now := by cases c <;> rfl
  simp only [exec, execPorstNAssert, hp, if_true, hnow]

theorem exec_thermalTrip (hr : s.power.railsGood = true) (ht : s.power.tripped = false) : exec .thermalTrip s =
    .next (((s.setPwr fun p => { p with tripped := true, tripAt := some s.now }).emit (.thermTrip true)).resetEvent 4) := by
  have hcan : s.canTrip = true := by simp [State.canTrip, hr, ht]
  rw [exec, execThermalTrip, hcan, if_pos rfl, State.trip]

theorem exec_thermalTrip_held (h : s.power.railsGood = false ∨ s.power.tripped = true) : exec .thermalTrip s = .next s := by
  have hcan : s.canTrip = false := by rcases h with h | h <;> simp [State.canTrip, h]
  rw [exec, execThermalTrip, hcan, if_neg Bool.false_ne_true]

theorem exec_deviceResetDelay {at_ : Nat} (hup : s.mainUp = true) (hd : s.power.resetDue = some at_) (ht : at_ ≤ s.now) :
    exec .deviceResetDelay s = .next (s.mainReset 1).mainRelease := by
  simp only [exec, execDeviceResetDelay, hd, hup, ht, and_self, if_true, State.resetMain]

theorem exec_porstNRelease (g : BitVec 2) (hp : s.power.porstHigh = false) : exec (.porstNRelease g) s =
    .next ((s.setPwr fun p => { p with porstHigh := true }).wr PWR_STRAPS_VALUE g.toNat).mainRelease := by
  rw [exec, execPorstNRelease, hp, if_neg Bool.false_ne_true]

section
variable (hup : s.mainUp = true) (fail : Option (Nat × Nat))
include hup

/-- The stages follow each other. -/
theorem exec_bootStageComplete : exec (.bootStageComplete fail) s = .next (
    let st := s.rd PWR_BOOT_STATUS_STAGE
    if st = 0 then s.bootStart.bootRom
    else if st = 1 then s.bootRom
    else if st = 2 then (s.bootStage2 fail).firmwareStart
    else if st = 3 then ((if s.standby = sbSYNCING then s.setStandby sbREADY else s).wr PWR_BOOT_STATUS_STAGE 4).ddrStart
    else if st = 4 ∧ s.ddrUp then s.bootReady
    else s) := by
  simp only [exec, execBootStageComplete, hup, Bool.not_true, Bool.false_eq_true, if_false]

theorem bootStages (hs : s.Inv) : let st := s.rd PWR_BOOT_STATUS_STAGE
    (st = 0 → exec (.bootStageComplete fail) s = .next s.bootStart.bootRom) ∧
    (st = 1 → exec (.bootStageComplete fail) s = .next s.bootRom) ∧
    (st = 2 → exec (.bootStageComplete fail) s = .next (s.bootStage2 fail).firmwareStart) ∧
    (st = 3 → Runs (.bootStageComplete fail) s fun t => ∃ v : State, t = (v.wr PWR_BOOT_STATUS_STAGE 4).ddrStart ∧
      (s.standby = sbSYNCING → v.standby = sbREADY) ∧ (s.standby ≠ sbSYNCING → v = s)) ∧
    (st = 4 → s.ddrUp = true → exec (.bootStageComplete fail) s = .next s.bootReady) ∧
    (st = 4 → s.ddrUp = false → exec (.bootStageComplete fail) s = .next s) ∧
    (4 < st → exec (.bootStageComplete fail) s = .next s) := by
  intro st
  have hexec := exec_bootStageComplete hup fail
  have hst : s.rd PWR_BOOT_STATUS_STAGE = st := rfl
  rw [hst] at hexec
  clear_value st
  refine ⟨fun h => ?_, fun h => ?_, fun h => ?_, fun h => ⟨_, ?_, if s.standby = sbSYNCING then s.setStandby sbREADY else s, rfl, fun hb => ?_, fun hb => if_neg hb⟩, fun h hd => ?_, fun h hd => ?_, fun h => ?_⟩
  · exact hexec.trans (congrArg Host.Outcome.next (if_pos h))
  · exact hexec.trans (congrArg Host.Outcome.next ((if_neg (by omega)).trans (if_pos h)))
  · exact hexec.trans (congrArg Host.Outcome.next ((if_neg (by omega)).trans ((if_neg (by omega)).trans (if_pos h))))
  · exact hexec.trans (congrArg Host.Outcome.next ((if_neg (by omega)).trans ((if_neg (by omega)).trans ((if_neg (by omega)).trans (if_pos h)))))
  · rw [if_pos hb]
    exact (State.setStandby_spec hs (by decide)).1
  · refine hexec.trans (congrArg Host.Outcome.next ?_)
    rw [if_neg (by omega), if_neg (by omega), if_neg (by omega), if_neg (by omega), if_pos ⟨h, hd⟩]
  · refine hexec.trans (congrArg Host.Outcome.next ?_)
    rw [if_neg (by omega), if_neg (by omega), if_neg (by omega), if_neg (by omega), if_neg (fun hc => absurd hc.2 (by rw [hd]; decide))]
  · refine hexec.trans (congrArg Host.Outcome.next ?_)
    rw [if_neg (by omega), if_neg (by omega), if_neg (by omega), if_neg (by omega), if_neg (by omega)]

end

/-- What a reset of the main die leaves. -/
theorem State.dieReset_spec (hs : s.Inv) : let t := s.dieReset
    (∀ n, t.gpioInput n = true ∧ t.gpioClock n = none) ∧ t.qspiCsHigh = true ∧ (∀ p, t.sheetIdle p = true ∧ t.ingestIdle p = true) ∧
    t.thermTripLow = s.power.tripped ∧ t.mainUp = false ∧ t.mem = s.mem ∧ t.fuses = s.fuses ∧ t.nv.boot.current = s.nv.boot.current ∧
    t.nv.config.current = s.nv.config.current ∧ t.nv.softMap.current = s.nv.softMap.current ∧ (∀ c, t.trainRec c = s.trainRec c) ∧
    (s.nv.busy = none → t.nv.boot = s.nv.boot ∧ t.nv.config = s.nv.config) ∧ t.nv.images = s.nv.images ∧
    t.nv.queue = [] ∧ t.nv.busy = none ∧ t.shroud = s.shroud ∧ t.fw.queue = [] ∧ t.log.entries = [] ∧ t.pending = s.pending ∧
    (∀ off, 0x1A0000 ≤ off → off < 0x1B0000 → t.reg off = s.reg off) ∧
    (∀ f : Fld, f.off < 0x1A0000 → f.off ≠ PWR_STRAPS_VALUE.off → f.off ≠ PWR_SVN_MIN_SVN.off → f.off ≠ PWR_STATUS_PWR_FAIL.off →
      t.reg f.off = resetWord f.off) := by
  have hshroud := fun o => State.dieReset_shroudRegs hs (o := o)
  have hother := fun o => State.dieReset_otherRegs hs (o := o)
  obtain ⟨hboot, hconfig, hsoft, htrain, himages, hidle⟩ := s.nv.reset_spec
  obtain ⟨regs, out, ht⟩ := s.dieReset_fields
  intro t
  have hup : t.mainUp = false := by rw [show t = _ from ht]; rfl
  have hnv : t.nv = s.nv.reset := by rw [show t = _ from ht]; rfl
  have hpower : t.power.tripped = s.power.tripped := by rw [show t = _ from ht]; rfl
  have hrest : t.mem = s.mem ∧ t.fuses = s.fuses ∧ t.shroud = s.shroud ∧ t.fw.queue = [] ∧ t.log.entries = [] ∧ t.pending = s.pending := by
    rw [show t = _ from ht]
    exact ⟨rfl, rfl, rfl, rfl, rfl, rfl⟩
  obtain ⟨hmem, hfuses, hshd, hqueue, hlog, hpending⟩ := hrest
  have hq : s.nv.reset.queue = [] ∧ s.nv.reset.busy = none := ⟨rfl, rfl⟩
  rw [← hnv] at hboot hconfig hsoft htrain himages hidle hq
  refine ⟨fun n => ⟨by rw [State.gpioInput, hup]; rfl, by rw [State.gpioClock, hup]; rfl⟩, by rw [State.qspiCsHigh, hup]; rfl,
    fun p => ⟨by rw [State.sheetIdle, hup]; rfl, by rw [State.ingestIdle, hup]; rfl⟩, hpower, hup, hmem, hfuses, hboot, hconfig, hsoft,
    fun c => ?_, hidle, himages, hq.1, hq.2, hshd, hqueue, hlog, hpending, fun o hlo hhi => hshroud o hlo hhi, fun f => hother f.off⟩
  exact congrArg (Option.map Prod.snd) (htrain (Fin.ofNat 4 c))

end

/-- Settles O56: the resets and what they leave, then the stages of booting. -/
theorem mainDieReset : Obligations.MainDieReset := by
  refine ⟨fun s hs => ⟨⟨exec_porstNAssert, fun hp => ?_, rfl, exec_thermalTrip, exec_thermalTrip_held⟩, fun hup at_ => exec_deviceResetDelay hup, fun _ => rfl,
    State.dieReset_spec hs, fun g => exec_porstNRelease g, rfl, State.mainRelease_up, State.mainRelease_held⟩, fun s fail hup hs => ?_⟩
  · rw [exec, execPorstNAssert, hp, if_neg Bool.false_ne_true]
  · obtain ⟨h0, h1, h2, h3, h4, h4', h5⟩ := bootStages hup fail hs
    exact ⟨h0, h1, h2, h3, h4, h4', h5, State.bootRom_spec hs, State.bootStage2_spec hs fail⟩

end Sys2Proof.Machine

namespace Sys2Proof.Machine
/-! ## Accesses through BAR4 -/

section
variable {s : State} (hup : s.mainUp = true) (off : Nat)
include hup

theorem exec_windowAccess (a : HostAcc) : exec (.windowAccess off a) s =
    let addr := (s.winBase + off % 2 ^ 30) % 2 ^ 48
    let len := match a with | .read n => n | .write d _ => d.length
    .next (match s.winCase addr len, a with
    | .bound, .read n => (s.report EV_PROT_BOUND (src 0 0) (detailAddr addr reqHst 0)).hostErr n
    | .bound, .write _ _ => s.report EV_PROT_BOUND (src 0 0) (detailAddr addr reqHst 0)
    | .error, .read n => (s.report EV_WINDOW_ERR (src 0 0) (detailAddr addr reqHst 0)).hostErr n
    | .error, .write _ _ => s.report EV_WINDOW_ERR (src 0 0) (detailAddr addr reqHst 0)
    | .performed, .read n =>
      if inAlias addr then s.aliasAnswer (addr - aliasBase) n
      else let r := s.hostRead addr n; r.2.hostAnswer r.1 n
    | .performed, .write d ep =>
      if inAlias addr then s.aliasWrite (addr - aliasBase) d .host ep else s.hostWrite addr d ep) := by
  simp only [exec, execWindowAccess, hup, Bool.not_true, Bool.false_eq_true, if_false] <;> rfl

/-- A read of a window that is not performed is logged, and answers bytes of 0xFF. -/
theorem exec_windowRead_refused (n : Nat) : let addr := (s.winBase + off % 2 ^ 30) % 2 ^ 48
    s.winCase addr n ≠ .performed → ∃ code ∈ [EV_PROT_BOUND, EV_WINDOW_ERR], (code = EV_PROT_BOUND ↔ s.winCase addr n = .bound) ∧
      exec (.windowAccess off (.read n)) s = .next ((s.report code 0 (detailAddr addr reqHst 0)).emit
        (.hostRead (List.replicate n 0xFF) true)) := by
  intro addr hcase
  have hexec := exec_windowAccess hup off (.read n)
  cases hc : s.winCase addr n with
  | performed => exact absurd hc hcase
  | bound =>
    refine ⟨EV_PROT_BOUND, by simp, by simp, ?_⟩
    simp only [show s.winCase ((s.winBase + off % 2 ^ 30) % 2 ^ 48) n = .bound from hc] at hexec
    exact hexec
  | error =>
    refine ⟨EV_WINDOW_ERR, by simp, by simp [EV_WINDOW_ERR, EV_PROT_BOUND], ?_⟩
    simp only [show s.winCase ((s.winBase + off % 2 ^ 30) % 2 ^ 48) n = .error from hc] at hexec
    exact hexec

theorem exec_windowWrite_refused (d : List (Option Byte)) (ep : Bool) : let addr := (s.winBase + off % 2 ^ 30) % 2 ^ 48
    s.winCase addr d.length ≠ .performed → ∃ code ∈ [EV_PROT_BOUND, EV_WINDOW_ERR],
      (code = EV_PROT_BOUND ↔ s.winCase addr d.length = .bound) ∧
      exec (.windowAccess off (.write d ep)) s = .next (s.report code 0 (detailAddr addr reqHst 0)) := by
  intro addr hcase
  have hexec := exec_windowAccess hup off (.write d ep)
  cases hc : s.winCase addr d.length with
  | performed => exact absurd hc hcase
  | bound =>
    refine ⟨EV_PROT_BOUND, by simp, by simp, ?_⟩
    simp only [show s.winCase ((s.winBase + off % 2 ^ 30) % 2 ^ 48) d.length = .bound from hc] at hexec
    exact hexec
  | error =>
    refine ⟨EV_WINDOW_ERR, by simp, by simp [EV_WINDOW_ERR, EV_PROT_BOUND], ?_⟩
    simp only [show s.winCase ((s.winBase + off % 2 ^ 30) % 2 ^ 48) d.length = .error from hc] at hexec
    exact hexec

variable {off}

theorem exec_windowRead_performed {n : Nat} (hcase : s.winCase ((s.winBase + off % 2 ^ 30) % 2 ^ 48) n = .performed) :
    let addr := (s.winBase + off % 2 ^ 30) % 2 ^ 48
    exec (.windowAccess off (.read n)) s = .next (if inAlias addr then s.aliasAnswer (addr - aliasBase) n
      else (s.hostRead addr n).2.hostAnswer (s.hostRead addr n).1 n) := by
  intro addr
  have hexec := exec_windowAccess hup off (.read n)
  simp only [hcase] at hexec
  exact hexec

theorem exec_windowWrite_performed {d : List (Option Byte)} (ep : Bool)
    (hcase : s.winCase ((s.winBase + off % 2 ^ 30) % 2 ^ 48) d.length = .performed) :
    let addr := (s.winBase + off % 2 ^ 30) % 2 ^ 48
    exec (.windowAccess off (.write d ep)) s = .next (if inAlias addr then s.aliasWrite (addr - aliasBase) d .host ep
      else s.hostWrite addr d ep) := by
  intro addr
  have hexec := exec_windowAccess hup off (.write d ep)
  simp only [hcase] at hexec
  exact hexec

end

/-- The register words that a read of `n` bytes at `off` touches. -/
def aliasWords (off n : Nat) : List Nat :=
  (List.range ((off + n + 3) / 4 - off / 4)).map fun i => (off / 4 + i) * 4

/-- A read of registers through the window, over the words it touches. -/
theorem State.aliasAnswer_eq (s : State) (off n : Nat) : s.aliasAnswer off n =
    let u := (aliasWords off n).foldl State.lutReach s
    match (aliasWords off n).findSome? u.lutBusy with
    | some k => u.lutHold k (.window off n)
    | none => (u.aliasRead off n).2.emit (.hostRead (u.aliasRead off n).1 false) := by
  simp only [State.aliasAnswer, aliasWords, List.foldl_map, List.findSome?_map] <;> rfl

theorem State.aliasAnswer_free {s : State} {off n : Nat} :
    let u := (aliasWords off n).foldl State.lutReach s
    (∀ x ∈ aliasWords off n, u.lutBusy x = none) →
    s.aliasAnswer off n = (u.aliasRead off n).2.emit (.hostRead (u.aliasRead off n).1 false) := by
  intro u hfree
  rw [State.aliasAnswer_eq]
  show (match (aliasWords off n).findSome? u.lutBusy with | some k => _ | none => _) = _
  rw [List.findSome?_eq_none_iff.mpr hfree]

theorem State.lutBusy_aligned (s : State) (off : Nat) : s.lutBusy (off / 4 * 4) = s.lutBusy off := by
  simp only [State.lutBusy, show off / 4 * 4 / 4 = off / 4 by omega]

/-- The first word of a read decides when its table is synchronised. -/
theorem State.aliasAnswer_held {s : State} {off n k : Nat} (hn : 0 < n) :
    let u := (aliasWords off n).foldl State.lutReach s
    u.lutBusy off = some k → s.aliasAnswer off n = u.lutHold k (.window off n) := by
  intro u hbusy
  rw [State.aliasAnswer_eq]
  have hfirst : (aliasWords off n).findSome? u.lutBusy = some k := by
    obtain ⟨m, hm⟩ : ∃ m, (off + n + 3) / 4 - off / 4 = m + 1 := ⟨(off + n + 3) / 4 - off / 4 - 1, by omega⟩
    rw [aliasWords, hm, List.range_succ_eq_map, List.map_cons, List.findSome?_cons, Nat.add_zero, State.lutBusy_aligned, hbusy]
  show (match (aliasWords off n).findSome? u.lutBusy with | some k => _ | none => _) = _
  rw [hfirst]

/-! ## Accesses through BAR2 -/

theorem bar2Parts_mailboxes {off n : Nat} (hn : 0 < n) (h : off + n ≤ 0x2800) : bar2Parts off n = [(off, n)] := by
  simp only [bar2Parts, List.filterMap_cons, List.filterMap_nil]
  rw [if_pos (by omega), if_neg (by omega), if_neg (by omega), if_neg (by omega)]
  simp only [List.cons.injEq, Prod.mk.injEq, and_true]
  omega

theorem bar2Parts_between {off n : Nat} (hn : 0 < n) (hlo : 0x2800 ≤ off) (h : off + n ≤ 0x20000) : bar2Parts off n = [(off, n)] := by
  simp only [bar2Parts, List.filterMap_cons, List.filterMap_nil]
  rw [if_neg (by omega), if_pos (by omega), if_neg (by omega), if_neg (by omega)]
  simp only [List.cons.injEq, Prod.mk.injEq, and_true]
  omega

theorem bar2Parts_log {off n : Nat} (hn : 0 < n) (hlo : 0x20000 ≤ off) (h : off + n ≤ 0x40000) : bar2Parts off n = [(off, n)] := by
  simp only [bar2Parts, List.filterMap_cons, List.filterMap_nil]
  rw [if_neg (by omega), if_neg (by omega), if_pos (by omega), if_neg (by omega)]
  simp only [List.cons.injEq, Prod.mk.injEq, and_true]
  omega

theorem bar2Parts_above {off n : Nat} (hn : 0 < n) (hlo : 0x40000 ≤ off) : bar2Parts off n = [(off, n)] := by
  simp only [bar2Parts, List.filterMap_cons, List.filterMap_nil]
  rw [if_neg (by omega), if_neg (by omega), if_neg (by omega), if_pos (by omega)]
  simp only [List.cons.injEq, Prod.mk.injEq, and_true]
  omega

theorem bar2Parts_crossing {off n : Nat} (hlo : off < 0x2800) (hhi : 0x2800 < off + n) (h : off + n ≤ 0x3000) :
    bar2Parts off n = [(off, 0x2800 - off), (0x2800, off + n - 0x2800)] := by
  simp only [bar2Parts, List.filterMap_cons, List.filterMap_nil]
  rw [if_pos (by omega), if_pos (by omega), if_neg (by omega), if_neg (by omega)]
  simp only [List.cons.injEq, Prod.mk.injEq, and_true]
  omega

/-- A read of one part answers that part. -/
theorem State.bar2Read_part {off n : Nat} (s : State) (hpart : bar2Parts off n = [(off, n)]) :
    s.bar2Read off n = (s.bar2Part off n).2.hostAnswer (s.bar2Part off n).1 n := by
  simp only [State.bar2Read, hpart, List.foldl_cons, List.foldl_nil, List.nil_append, Bool.false_or]

theorem State.bar2Write_part {off : Nat} {d : List (Option Byte)} (s : State) (ep : Bool) (hpart : bar2Parts off d.length = [(off, d.length)]) :
    s.bar2Write off d ep = match bar2Mem off with
      | some a => s.hostWrite a d ep
      | none => (wordsOf off d).foldl (fun t y => t.bar2Store y.1 y.2) s := by
  simp only [State.bar2Write, hpart, List.foldl_cons, List.foldl_nil, Nat.sub_self, List.drop_zero, List.take_length] <;> rfl

/-- Below the doorbells no word of BAR2 outside Densum keeps what is written. -/
theorem State.bar2Store_ignored (s : State) {w : Nat} (l : List (Option Byte)) (h : w < 0x3000) : s.bar2Store w l = s := by
  rw [State.bar2Store, if_neg (by omega), if_neg (by omega), if_neg (by omega), if_neg (by omega)]

theorem wordsOf_below {off : Nat} {d : List (Option Byte)} {top : Nat} (h : off + d.length ≤ top) (htop : top % 4 = 0) {x : Nat × List (Option Byte)}
    (hx : x ∈ wordsOf off d) : x.1 < top := by
  simp only [wordsOf, List.mem_map, List.mem_range] at hx
  obtain ⟨i, hi, rfl⟩ := hx
  dsimp only
  omega

/-- A write to BAR2 that touches memory first and words outside Densum behind it. -/
theorem State.bar2Write_parts {off : Nat} {d : List (Option Byte)} (s : State) (ep : Bool) {p q : Nat × Nat} (hparts : bar2Parts off d.length = [p, q])
    {a : Nat} (hp : bar2Mem p.1 = some a) (hq : bar2Mem q.1 = none) :
    s.bar2Write off d ep = (wordsOf q.1 ((d.drop (q.1 - off)).take q.2)).foldl (fun t y => t.bar2Store y.1 y.2)
      (s.hostWrite a ((d.drop (p.1 - off)).take p.2) ep) := by
  simp only [State.bar2Write, hparts, List.foldl_cons, List.foldl_nil, hp, hq]

theorem State.bar2Write_crossing {off : Nat} {d : List (Option Byte)} (s : State) (ep : Bool) (hlo : off < 0x2800) (hhi : 0x2800 < off + d.length)
    (h : off + d.length ≤ 0x3000) : s.bar2Write off d ep = s.hostWrite (dsmBase + off) (d.take (0x2800 - off)) ep := by
  have hmem : bar2Mem off = some (dsmBase + off) := by rw [bar2Mem, if_pos hlo]
  have hnone : bar2Mem 0x2800 = none := by rw [bar2Mem, if_neg (by omega), if_neg (by omega)]
  rw [State.bar2Write_parts s ep (bar2Parts_crossing hlo hhi h) hmem hnone, Nat.sub_self, List.drop_zero]
  exact foldl_stays fun x hx => State.bar2Store_ignored _ x.2
    (wordsOf_below (by rw [List.length_take, List.length_drop]; omega) (by decide) hx)

/-- A write of a whole aligned word is the one word. -/
theorem wordsOf_word {off : Nat} (halign : off % 4 = 0) (v : Nat) :
    wordsOf off ((leBytes 4 v).map some) = [(off, (leBytes 4 v).map some)] := by
  simp only [wordsOf, List.length_map, leBytes_length, show (off + 4 + 3) / 4 - off / 4 = 1 by omega]
  simp only [List.range_succ, List.range_zero, List.nil_append, List.map_cons, List.map_nil, List.cons_append, Nat.add_zero,
    show off / 4 * 4 = off by omega, Nat.le_refl, Nat.le_add_right, if_true, Nat.sub_self, Nat.add_sub_cancel_left]
  rfl

theorem wordVal_leBytes {v : Nat} (hv : v < 2 ^ 32) : wordVal ((leBytes 4 v).map some) = v := by
  rw [wordVal, List.map_map, show (fun x : Option Byte => x.getD 0) ∘ some = id from rfl, List.map_id, leNat_leBytes]
  omega

/-- A whole word written between the mailboxes and the log is one store. -/
theorem State.bar2Write_word (s : State) {off v : Nat} (ep : Bool) (halign : off % 4 = 0) (hlo : 0x2800 ≤ off) (hhi : off + 4 ≤ 0x20000) :
    s.bar2Write off ((leBytes 4 v).map some) ep = s.bar2Store off ((leBytes 4 v).map some) := by
  have hlen : ((leBytes 4 v).map some).length = 4 := by rw [List.length_map, leBytes_length]
  have hnone : bar2Mem off = none := by rw [bar2Mem, if_neg (by omega), if_neg (by omega)]
  rw [State.bar2Write_part s ep (by rw [hlen]; exact bar2Parts_between (by decide) hlo hhi), hnone, wordsOf_word halign]
  rfl

theorem State.bar2Part_word (s : State) {off : Nat} (halign : off % 4 = 0) (hmem : bar2Mem off = none) :
    s.bar2Part off 4 = (⟨leBytes 4 (s.bar2Word off), false, false⟩, s) := by
  rw [State.bar2Part, hmem, show (off + 4 + 3) / 4 - off / 4 = 1 by omega]
  simp only [List.range_succ, List.range_zero, List.nil_append, List.map_cons, List.map_nil, Nat.add_zero, show off / 4 * 4 = off by omega,
    List.flatten_cons, List.flatten_nil, List.append_nil, halign]
  rw [slice_of_le (by rw [leBytes_length])]
  rw [List.drop_zero, List.take_of_length_le (by rw [leBytes_length])]

section
variable {s : State} (hup : s.mainUp = true) {off : Nat} (hoff : off < 0x100000)
include hup hoff

theorem exec_bar2Read (n : Nat) : exec (.bar2Access off (.read n)) s = .next (s.bar2Read off n) := by
  simp only [exec, execBar2Access, hup, Bool.not_true, Bool.false_eq_true, if_false, Nat.mod_eq_of_lt hoff]

theorem exec_bar2Write (d : List (Option Byte)) (ep : Bool) :
    exec (.bar2Access off (.write d ep)) s = .next (s.bar2Write off d ep) := by
  simp only [exec, execBar2Access, hup, Bool.not_true, Bool.false_eq_true, if_false, Nat.mod_eq_of_lt hoff]

end

/-- Settles O21: the window by the three outcomes of its check, BAR2 by the part of it that an access reaches. -/
theorem windowAccess : Obligations.WindowAccess := by
  unfold Obligations.WindowAccess
  refine ⟨fun off a s hup => ⟨fun n ha => ?_, fun d ep ha => ?_⟩, fun off s hup hoff => ?_⟩
  · subst ha
    refine ⟨exec_windowRead_refused hup off n, fun hcase hplain => ?_, fun la hcase hplain hrefused => ?_, ?_⟩
    · exact (exec_windowRead_performed hup hcase).trans (congrArg Host.Outcome.next ((if_neg (by rw [hplain]; decide)).trans
        (apply_ite (State.emit _) _ _ _).symm))
    · refine (exec_windowRead_performed hup hcase).trans (congrArg Host.Outcome.next ((if_neg (by rw [hplain]; decide)).trans ?_))
      rw [State.hostRead, hrefused]
      rfl
    · intro x0 words u
      refine ⟨fun hcase halias hfree => ?_, fun k hcase halias hn hbusy => ?_⟩
      · exact (exec_windowRead_performed hup hcase).trans (congrArg Host.Outcome.next ((if_pos halias).trans (State.aliasAnswer_free hfree)))
      · exact (exec_windowRead_performed hup hcase).trans (congrArg Host.Outcome.next ((if_pos halias).trans (State.aliasAnswer_held hn hbusy)))
  · subst ha
    exact ⟨exec_windowWrite_refused hup off d ep, exec_windowWrite_performed hup ep⟩
  · refine ⟨fun n hn h => ?_, fun d ep hd h => ?_, fun d ep hlo hhi h => ?_, fun d ep hd hlo h => ?_, fun hlo hlog halign => ?_, ?_⟩
    · rw [exec_bar2Read hup hoff, State.bar2Read_part s (bar2Parts_mailboxes hn h), State.bar2Part, bar2Mem, if_pos (by omega)]
      exact congrArg Host.Outcome.next (apply_ite (State.emit _) _ _ _).symm
    · rw [exec_bar2Write hup hoff, State.bar2Write_part s ep (bar2Parts_mailboxes (List.length_pos_iff.mpr hd) h), bar2Mem, 
        if_pos (by have := List.length_pos_iff.mpr hd; omega)]
    · rw [exec_bar2Write hup hoff, State.bar2Write_crossing s ep hlo hhi h]
    · have hpos := List.length_pos_iff.mpr hd
      rw [exec_bar2Write hup hoff, State.bar2Write_part s ep (bar2Parts_log hpos hlo h), bar2Mem, if_neg (by omega), if_pos (by omega)]
    · have hmem : bar2Mem off = none := by rw [bar2Mem, if_neg (by omega), if_neg hlog]
      have hpart : bar2Parts off 4 = [(off, 4)] := by
        rcases Nat.lt_or_ge off 0x20000 with h | h
        · exact bar2Parts_between (by decide) hlo (by omega)
        · exact bar2Parts_above (by decide) (by omega)
      rw [exec_bar2Read hup hoff, State.bar2Read_part s hpart, State.bar2Part_word s halign hmem]
      rfl
    · intro v ep d
      refine ⟨?_, ?_, fun c => ?_⟩
      · rw [exec_bar2Write hup (by decide), State.bar2Write_word s ep (by decide) (by decide) (by decide), State.bar2Store, if_pos rfl,
          wordVal_leBytes v.isLt, exec, execMbxDoorbell, hup]
        rfl
      · rw [exec_bar2Write hup (by decide), State.bar2Write_word s ep (by decide) (by decide) (by decide), State.bar2Store, if_neg (by decide),
          if_pos rfl, wordVal_leBytes v.isLt, exec, execRingDoorbell, hup]
        rfl
      · have hc := c.isLt
        rw [exec_bar2Write hup (by omega), State.bar2Write_word s ep (by omega) (by omega) (by omega), State.bar2Store, if_neg (by omega),
          if_neg (by omega), if_pos (by omega), show (0x3100 + 4 * c.val - 0x3100) / 4 = c.val by omega, if_pos, exec, execDmaDoorbell, hup]
        · rfl
        · rfl

end Sys2Proof.Machine

namespace Sys2Proof.Machine
/-! ## The layer commands -/

theorem State.withFsync_same {s : State} {h : Nat} {f : State → State} (hf : f s = s) : s.withFsync h f = s := by
  rw [State.withFsync, hf]
  exact if_pos rfl

theorem State.preLatch_unlatched {s : State} {h : Nat} (hl : (s.hd h).latchDue = false) : s.preLatch h = s :=
  State.withFsync_same (by rw [State.latchIfDue, hl]; rfl)

/-- With no latch due and no commit pending a layer's registers are written at once. -/
theorem State.writeLayer_plain {s : State} {l : Nat} (f : State → State) (hl : (s.hd (s.rd (LAY_ROUTE_HEAD l))).latchDue = false)
    (hc : s.commitOf l = none) : s.writeLayer l f = f s := by
  rw [State.writeLayer, State.preLatch_unlatched hl, hc, State.writeBehind]
  exact if_neg Bool.false_ne_true

section
variable {c : FwCmd} {rest : List FwCmd} {s : State}

@[simp] theorem State.begun_hasLayer (l : Nat) : (s.begun c rest).hasLayer l = s.hasLayer l :=
  State.begun_same (·.hasLayer l) fun _ _ _ _ => rfl

theorem exec_layerDefine (h : s.Begins 0x0201 c rest) : let u := s.begun c rest
    let p := c.payload
    let l := leAt p 0 1
    exec .layerDefine s = .next (if u.defineBad p then u.fail c stBAD_PARAM
      else if leAt p 2 1 = 0 && !u.planesFit (leAt p 1 1) (leAt p 4 8) (leAt p 12 8) (leAt p 20 4) (leAt p 24 4) (leAt p 28 2) (leAt p 30 2) then
        u.fail c stPROT_BOUND
      else if l < 16 then
        match (u.preLatch (u.rd (LAY_ROUTE_HEAD l))).newGalley l (leAt p 60 2) with
        | some _ => (u.writeLayer l fun v => ((v.newGalley l (leAt p 60 2)).getD v).writeDefine p).ok c
        | none => u.fail c stREJECTED_DENSUM
      else (u.writeLayer l fun v => v.writeDefine p).ok c) := by
  rw [exec, execLayerDefine, State.serve_begins _ h (by decide)] <;> rfl

theorem layerDefine_checks (h : s.Begins 0x0201 c rest) : let u := s.begun c rest
    let p := c.payload
    let l := leAt p 0 1
    (u.defineBad p = true → exec .layerDefine s = .next (u.fail c stBAD_PARAM)) ∧
    (u.defineBad p = false → 16 ≤ l → leAt p 2 1 ≠ 0 ∨ u.planesFit (leAt p 1 1) (leAt p 4 8) (leAt p 12 8) (leAt p 20 4)
        (leAt p 24 4) (leAt p 28 2) (leAt p 30 2) = true →
        exec .layerDefine s = .next ((u.writeLayer l fun v => v.writeDefine p).ok c)) ∧
    (u.defineBad p = false → l < 16 → leAt p 2 1 ≠ 0 ∨ u.planesFit (leAt p 1 1) (leAt p 4 8) (leAt p 12 8) (leAt p 20 4)
        (leAt p 24 4) (leAt p 28 2) (leAt p 30 2) = true →
      exec .layerDefine s = .next (match (u.preLatch (u.rd (LAY_ROUTE_HEAD l))).newGalley l (leAt p 60 2) with
        | some _ => (u.writeLayer l fun v => ((v.newGalley l (leAt p 60 2)).getD v).writeDefine p).ok c
        | none => u.fail c stREJECTED_DENSUM)) := by
  intro u p l
  have hexec := exec_layerDefine h
  have hfits : (leAt p 2 1 ≠ 0 ∨ u.planesFit (leAt p 1 1) (leAt p 4 8) (leAt p 12 8) (leAt p 20 4) (leAt p 24 4) (leAt p 28 2) (leAt p 30 2) = true) →
      ¬ (decide (leAt p 2 1 = 0) &&
        !u.planesFit (leAt p 1 1) (leAt p 4 8) (leAt p 12 8) (leAt p 20 4) (leAt p 24 4) (leAt p 28 2) (leAt p 30 2)) = true := by
    intro hf hbad
    rw [Bool.and_eq_true, decide_eq_true_eq, Bool.not_eq_true'] at hbad
    exact hf.elim (fun h0 => h0 hbad.1) (fun hfit => by rw [hfit] at hbad; exact Bool.noConfusion hbad.2)
  refine ⟨fun hbad => ?_, fun hgood hl hf => ?_, fun hgood hl hf => ?_⟩
  · exact hexec.trans (congrArg Host.Outcome.next (if_pos hbad))
  · exact hexec.trans (congrArg Host.Outcome.next ((if_neg (by rw [show (s.begun c rest).defineBad c.payload = false from hgood]; decide)).trans
      ((if_neg (hfits hf)).trans (if_neg (show ¬ l < 16 by omega)))))
  · exact hexec.trans (congrArg Host.Outcome.next ((if_neg (by rw [show (s.begun c rest).defineBad c.payload = false from hgood]; decide)).trans
      ((if_neg (hfits hf)).trans (if_pos hl))))

theorem exec_layerColour_good (h : s.Begins 0x0202 c rest) (hl : leAt c.payload 0 1 < 16) (hhas : s.hasLayer (leAt c.payload 0 1) = true)
    (hoffs : ∀ k, k < 3 → -65536 ≤ sext 32 (leAt c.payload (24 + 4 * k) 4) ∧ sext 32 (leAt c.payload (24 + 4 * k) 4) ≤ 65535) :
    let u := s.begun c rest
    let p := c.payload
    let l := leAt p 0 1
    let f := leAt p 1 1
    exec .layerColour s = .next ((u.writeLayer l fun v =>
      let v := ((v.wr (LAY_COLOUR_CTRL_MATRIX_EN l) (f % 2)).wr (LAY_COLOUR_CTRL_CHROMA_H l) (f / 2 % 2)).wr (LAY_COLOUR_CTRL_CHROMA_V l) (f / 4 % 2)
      let v := (List.range 9).foldl (fun s k => s.wr (LAY_MTX_C_COEF l k) (leAt p (4 + 2 * k) 2)) v
      (List.range 3).foldl (fun s k => s.wr (LAY_MTX_OFF_OFF l k) (leAt p (24 + 4 * k) 4 % 2 ^ 17)) v).ok c) := by
  intro u p l f
  rw [exec, execLayerColour, State.serve_begins _ h (by decide)]
  refine congrArg Host.Outcome.next (if_neg ?_)
  have hany : (((List.range 3).map fun k => sext 32 (leAt c.payload (24 + 4 * k) 4)).any fun o => decide (o < -65536 ∨ 65535 < o)) = false := by
    rw [List.any_eq_false]
    intro o ho
    obtain ⟨k, hk, rfl⟩ := List.mem_map.mp ho
    have := hoffs k (List.mem_range.mp hk)
    simp only [decide_eq_true_eq]
    omega
  rw [State.begun_hasLayer, hhas, hany]
  simp only [Bool.not_true, Bool.or_false, decide_eq_true_eq]
  omega

theorem exec_layerScaler (h : s.Begins 0x0203 c rest) : let p := c.payload
    let l := leAt p 0 1
    let set := fun (v : State) => (((v.wr (LAY_SCALE_CTRL_DECIM_H l) (leAt p 1 1 % 4)).wr (LAY_SCALE_CTRL_DECIM_V l) (leAt p 1 1 / 4 % 4)).wr
      (LAY_H_INIT_INIT l) (leAt p 4 4 % 2 ^ 24)).wr (LAY_V_INIT_INIT l) (leAt p 8 4 % 2 ^ 24)
    let u := s.begun c rest
    let r := if leAt p 12 8 = 0 then ([], u) else u.fwRead (leAt p 12 8) 1792
    exec .layerScaler s = .next (
      if 16 ≤ l || !u.hasLayer l || leAt p 1 1 % 4 == 3 || leAt p 1 1 / 4 % 4 == 3 || !initOk (leAt p 4 4) || !initOk (leAt p 8 4) then
        u.fail c stBAD_PARAM
      else if leAt p 12 8 ≠ 0 && !u.bufOk (leAt p 12 8) 1792 then u.fail c stPROT_BOUND
      else if leAt p 12 8 ≠ 0 && !coefsOk r.1 then r.2.fail c stBAD_PARAM
      else (r.2.writeLayer l fun v => if leAt p 12 8 = 0 then set v else (set v).writeCoefs l r.1).ok c) := by
  rw [exec, execLayerScaler, State.serve_begins _ h (by decide)]

theorem layerScaler_good (h : s.Begins 0x0203 c rest) : let p := c.payload
    let l := leAt p 0 1
    let u := s.begun c rest
    l < 16 → s.hasLayer l = true → leAt p 1 1 % 4 ≠ 3 → leAt p 1 1 / 4 % 4 ≠ 3 → initOk (leAt p 4 4) = true → initOk (leAt p 8 4) = true →
    let set := fun (v : State) => (((v.wr (LAY_SCALE_CTRL_DECIM_H l) (leAt p 1 1 % 4)).wr (LAY_SCALE_CTRL_DECIM_V l) (leAt p 1 1 / 4 % 4)).wr
      (LAY_H_INIT_INIT l) (leAt p 4 4 % 2 ^ 24)).wr (LAY_V_INIT_INIT l) (leAt p 8 4 % 2 ^ 24)
    let r := u.fwRead (leAt p 12 8) 1792
    (leAt p 12 8 = 0 → exec .layerScaler s = .next ((u.writeLayer l set).ok c)) ∧
    (leAt p 12 8 ≠ 0 → u.bufOk (leAt p 12 8) 1792 = true → exec .layerScaler s =
      .next (if coefsOk r.1 then (r.2.writeLayer l fun v => (set v).writeCoefs l r.1).ok c else r.2.fail c stBAD_PARAM)) := by
  intro p l u hl hhas hh hv hi0 hi1 set r
  have hexec := exec_layerScaler h
  have hgood : ¬ (decide (16 ≤ l) || !u.hasLayer l || leAt p 1 1 % 4 == 3 || leAt p 1 1 / 4 % 4 == 3 || !initOk (leAt p 4 4) ||
      !initOk (leAt p 8 4)) = true := by
    rw [show u.hasLayer l = s.hasLayer l from State.begun_hasLayer l, hhas, hi0, hi1]
    simp only [Bool.not_true, Bool.or_false, Bool.or_eq_true, decide_eq_true_eq, beq_iff_eq]
    omega
  refine ⟨fun h0 => ?_, fun h0 hbuf => ?_⟩
  · refine hexec.trans (congrArg Host.Outcome.next ((if_neg hgood).trans ?_))
    simp only [show leAt c.payload 12 8 = 0 from h0, ne_eq, not_true_eq_false, decide_false, Bool.false_and, Bool.false_eq_true, if_false, if_true]
    rfl
  · refine hexec.trans (congrArg Host.Outcome.next ((if_neg hgood).trans ?_))
    simp only [show ¬ leAt c.payload 12 8 = 0 from h0, show (s.begun c rest).bufOk (leAt c.payload 12 8) 1792 = true from hbuf, ne_eq, not_false_eq_true,
      decide_true, Bool.true_and, Bool.not_true, Bool.false_eq_true, if_false]
    cases hok : coefsOk ((s.begun c rest).fwRead (leAt c.payload 12 8) 1792).1 with
    | true => exact (if_neg Bool.false_ne_true).trans (if_pos rfl).symm
    | false => exact (if_pos rfl).trans (if_neg Bool.false_ne_true).symm

theorem exec_layerLut (h : s.Begins 0x0204 c rest) : let u := s.begun c rest
    let p := c.payload
    let l := leAt p 0 1
    let a := leAt p 8 8
    exec .layerLut s = .next (if 16 ≤ l || !u.hasLayer l || decide (1 < leAt p 1 1) then u.fail c stBAD_PARAM
      else if a ≠ 0 && !u.bufOk a 6150 then u.fail c stPROT_BOUND
      else if a = 0 then u.layerLutWrite c []
      else
        let r := (u.preLatch (u.rd (LAY_ROUTE_HEAD l))).fwRead a 6150
        if r.2.lutSyncing l then r.2.waitFor c (.lut l [] false [] r.1) else r.2.layerLutWrite c r.1) := by
  rw [exec, execLayerLut, State.serve_begins _ h (by decide)]

theorem State.layerLutWrite_eq (u : State) (d : List Byte) : let p := c.payload
    let l := leAt p 0 1
    let t := u.writeLayer l fun v => v.wr (LAY_LUT_CTRL_EN l) (leAt p 1 1)
    u.layerLutWrite c d = (if d = [] then t else t.writeLut (LAY_PRE_LUT_ENTRY_EVEN l) 1025 (t.commitOf l).isSome d).ok c := by
  intro p l t
  cases d with
  | nil => rfl
  | cons b d => rw [if_neg (List.cons_ne_nil b d)]; rfl

theorem layerLut_good (h : s.Begins 0x0204 c rest) : let u := s.begun c rest
    let p := c.payload
    let l := leAt p 0 1
    l < 16 → s.hasLayer l = true → leAt p 1 1 ≤ 1 →
    let set := u.writeLayer l fun v => v.wr (LAY_LUT_CTRL_EN l) (leAt p 1 1)
    (leAt p 8 8 = 0 → exec .layerLut s = .next (set.ok c)) ∧
    (leAt p 8 8 ≠ 0 → u.bufOk (leAt p 8 8) 6150 = true →
      let r := (u.preLatch (u.rd (LAY_ROUTE_HEAD l))).fwRead (leAt p 8 8) 6150
      let t := r.2.writeLayer l fun v => v.wr (LAY_LUT_CTRL_EN l) (leAt p 1 1)
      exec .layerLut s = .next (if r.2.lutSyncing l then r.2.waitFor c (.lut l [] false [] r.1)
        else (if r.1 = [] then t else t.writeLut (LAY_PRE_LUT_ENTRY_EVEN l) 1025 (t.commitOf l).isSome r.1).ok c)) ∧
    (leAt p 8 8 ≠ 0 → u.bufOk (leAt p 8 8) 6150 = false → exec .layerLut s = .next (u.fail c stPROT_BOUND)) := by
  intro u p l hl hhas hen set
  have hexec := exec_layerLut h
  have hgood : ¬ (decide (16 ≤ l) || !u.hasLayer l || decide (1 < leAt p 1 1)) = true := by
    rw [show u.hasLayer l = s.hasLayer l from State.begun_hasLayer l, hhas]
    simp only [Bool.not_true, Bool.or_false, Bool.or_eq_true, decide_eq_true_eq]
    omega
  have hplaced : ∀ ok, (leAt p 8 8 = 0 ∨ ok = true) → ¬ (decide (leAt p 8 8 ≠ 0) && !ok) = true := by
    intro ok hor hbad
    rw [Bool.and_eq_true, decide_eq_true_eq, Bool.not_eq_true'] at hbad
    exact hor.elim hbad.1 (fun hok => by rw [hok] at hbad; exact Bool.noConfusion hbad.2)
  refine ⟨fun h0 => ?_, fun h0 hbuf => ?_, fun h0 hbuf => ?_⟩
  · exact hexec.trans (congrArg Host.Outcome.next ((if_neg hgood).trans ((if_neg (hplaced _ (.inl h0))).trans (if_pos h0))))
  · intro r t
    refine hexec.trans (congrArg Host.Outcome.next ((if_neg hgood).trans ((if_neg (hplaced _ (.inr hbuf))).trans ((if_neg h0).trans ?_))))
    exact congrArg (ite _ _) (State.layerLutWrite_eq r.2 r.1)
  · exact hexec.trans (congrArg Host.Outcome.next ((if_neg hgood).trans (if_pos (by rw [Bool.and_eq_true, decide_eq_true_eq, Bool.not_eq_true']; exact ⟨h0, hbuf⟩))))

theorem exec_layerKey_good (h : s.Begins 0x0205 c rest) (hhas : s.hasLayer (leAt c.payload 0 1) = true) (hen : leAt c.payload 1 1 ≤ 1)
    (hr : leAt c.payload 2 2 ≤ leAt c.payload 4 2) (hg : leAt c.payload 6 2 ≤ leAt c.payload 8 2) (hb : leAt c.payload 10 2 ≤ leAt c.payload 12 2) :
    let u := s.begun c rest
    let p := c.payload
    let l := leAt p 0 1
    exec .layerKey s = .next ((u.writeLayer l fun v =>
      let v := (v.wr (LAY_KEY_CTRL_EN l) (leAt p 1 1)).wr (LAY_KEY_R_MIN l) (leAt p 2 2)
      let v := ((v.wr (LAY_KEY_R_MAX l) (leAt p 4 2)).wr (LAY_KEY_G_MIN l) (leAt p 6 2)).wr (LAY_KEY_G_MAX l) (leAt p 8 2)
      (v.wr (LAY_KEY_B_MIN l) (leAt p 10 2)).wr (LAY_KEY_B_MAX l) (leAt p 12 2)).ok c) := by
  intro u p l
  rw [exec, execLayerKey, State.serve_begins _ h (by decide)]
  refine congrArg Host.Outcome.next (if_neg ?_)
  rw [State.begun_hasLayer, hhas]
  simp only [Bool.not_true, Bool.false_or, decide_eq_true_eq, Nat.reduceMul, Nat.reduceAdd]
  omega

end

/-- Settles O30: each command by its checks, the tables by their address and by the synchronisation of their window. -/
theorem layerCommands : Obligations.LayerCommands := by
  unfold Obligations.LayerCommands
  intro c rest s u p l
  exact ⟨fun f hl hc => State.writeLayer_plain f hl hc, layerDefine_checks, exec_layerColour_good, layerScaler_good, layerLut_good, exec_layerKey_good⟩

/-! ## HEAD_RUN and HEAD_REEF -/

section
variable {c : FwCmd} {rest : List FwCmd} {s : State}

theorem exec_headRun (h : s.Begins 0x0302 c rest) (hh : leAt c.payload 0 1 < s.nHeads) (hrun : leAt c.payload 1 1 ≤ 1) :
    let u := s.begun c rest
    let h := leAt c.payload 0 1
    let run := leAt c.payload 1 1
    exec .headRun s = .next (if u.rd (HEAD_CTRL_EN h) = run then u.ok c
      else if run = 1 then
        if u.flag (HEAD_STATUS_DSM_BLOCK h) then u.fail c stBUSY
        else if u.flag (HEAD_STATUS_REEF h) && (u.hd h).deepIn then (u.headStart h).ok c else (u.headStart h).waitFor c (.headReleased h)
      else if (u.hd h).composing then (u.headOff h).waitFor c (.headStopped h) else (u.headOff h).ok c) := by
  rw [exec, execHeadRun, State.serve_begins _ h (by decide)]
  exact congrArg Host.Outcome.next (if_neg (by rw [State.begun_nHeads]; omega))

theorem exec_headReef (h : s.Begins 0x0310 c rest) (hh : leAt c.payload 0 1 < s.nHeads) (hact : leAt c.payload 1 1 ≤ 1) :
    let u := s.begun c rest
    let h := leAt c.payload 0 1
    exec .headReef s = .next (if leAt c.payload 1 1 = 0 then
        if u.flag (HEAD_STATUS_REEF h) then u.ok c
        else if u.modeRuns h then u.waitFor c (.reef h ((leAt c.payload 2 1).testBit 0))
        else u.goReef c h ((leAt c.payload 2 1).testBit 0)
      else if u.flag (HEAD_STATUS_REEF h) && !(u.reefExit h).kept h then (u.reefExit h).waitFor c (.headReleased h) else (u.reefExit h).ok c) := by
  rw [exec, execHeadReef, State.serve_begins _ h (by decide)]
  exact congrArg Host.Outcome.next (if_neg (by rw [State.begun_nHeads]; omega))

theorem State.flag_of_zero {t : State} {f : Fld} (h0 : t.rd f = 0) : ¬ t.flag f = true := by simp [State.flag, h0]

theorem State.flag_of_one {t : State} {f : Fld} (h1 : t.rd f = 1) : t.flag f = true := by simp [State.flag, h1]

theorem headRun_cases (h : s.Begins 0x0302 c rest) : let u := s.begun c rest
    let h := leAt c.payload 0 1
    h < s.nHeads →
    (leAt c.payload 1 1 ≤ 1 → u.rd (HEAD_CTRL_EN h) = leAt c.payload 1 1 → exec .headRun s = .next (u.ok c)) ∧
    (leAt c.payload 1 1 = 1 → u.rd (HEAD_CTRL_EN h) = 0 → u.rd (HEAD_STATUS_DSM_BLOCK h) = 1 → exec .headRun s = .next (u.fail c stBUSY)) ∧
    (leAt c.payload 1 1 = 1 → u.rd (HEAD_CTRL_EN h) = 0 → u.rd (HEAD_STATUS_DSM_BLOCK h) = 0 →
      exec .headRun s = .next (if u.rd (HEAD_STATUS_REEF h) = 1 ∧ (u.hd h).deepIn = true then (u.headStart h).ok c
        else (u.headStart h).waitFor c (.headReleased h))) ∧
    (leAt c.payload 1 1 = 0 → u.rd (HEAD_CTRL_EN h) = 1 → exec .headRun s = .next (let v := u.headOff h
      if (u.hd h).composing then v.waitFor c (.headStopped h) else v.ok c)) := by
  intro u h' hh
  have hexec := exec_headRun h hh
  refine ⟨fun hrun hen => ?_, fun hrun hen hb => ?_, fun hrun hen hb => ?_, fun hrun hen => ?_⟩
  · exact (hexec hrun).trans (congrArg Host.Outcome.next (if_pos hen))
  · exact (hexec (by omega)).trans (congrArg Host.Outcome.next ((if_neg (fun e => by rw [e] at hen; omega)).trans
      ((if_pos hrun).trans (if_pos (State.flag_of_one hb)))))
  · refine (hexec (by omega)).trans (congrArg Host.Outcome.next ((if_neg (fun e => by rw [e] at hen; omega)).trans
      ((if_pos hrun).trans ((if_neg (State.flag_of_zero hb)).trans ?_))))
    refine if_congr ?_ rfl rfl
    rw [Bool.and_eq_true, State.flag_iff _ rfl]
  · exact (hexec (by omega)).trans (congrArg Host.Outcome.next ((if_neg (fun e => by rw [e] at hen; omega)).trans (if_neg (by omega))))

theorem headReef_cases (h : s.Begins 0x0310 c rest) : let u := s.begun c rest
    let h := leAt c.payload 0 1
    h < s.nHeads →
    (leAt c.payload 1 1 = 0 → u.rd (HEAD_STATUS_REEF h) = 1 → exec .headReef s = .next (u.ok c)) ∧
    (leAt c.payload 1 1 = 0 → u.rd (HEAD_STATUS_REEF h) = 0 → u.modeRuns h = true →
      exec .headReef s = .next (u.waitFor c (.reef h ((leAt c.payload 2 1).testBit 0)))) ∧
    (leAt c.payload 1 1 = 0 → u.rd (HEAD_STATUS_REEF h) = 0 → u.modeRuns h = false →
      exec .headReef s = .next (let v := u.reefEnter h ((leAt c.payload 2 1).testBit 0)
        if (u.hd h).composing then v.waitFor c (.headStopped h) else v.ok c)) ∧
    (leAt c.payload 1 1 = 1 → u.rd (HEAD_STATUS_REEF h) = 1 → exec .headReef s = .next (let v := u.reefExit h
      if v.kept h then v.ok c else v.waitFor c (.headReleased h))) ∧
    (leAt c.payload 1 1 = 1 → u.rd (HEAD_STATUS_REEF h) = 0 → exec .headReef s = .next ((u.reefExit h).ok c)) := by
  intro u h' hh
  have hexec := exec_headReef h hh
  refine ⟨fun hact hr => ?_, fun hact hr hm => ?_, fun hact hr hm => ?_, fun hact hr => ?_, fun hact hr => ?_⟩
  · exact (hexec (by omega)).trans (congrArg Host.Outcome.next ((if_pos hact).trans (if_pos (State.flag_of_one hr))))
  · exact (hexec (by omega)).trans (congrArg Host.Outcome.next ((if_pos hact).trans ((if_neg (State.flag_of_zero hr)).trans (if_pos hm))))
  · exact (hexec (by omega)).trans (congrArg Host.Outcome.next ((if_pos hact).trans ((if_neg (State.flag_of_zero hr)).trans
      (if_neg (by rw [show (s.begun c rest).modeRuns (leAt c.payload 0 1) = false from hm]; decide)))))
  · refine (hexec (by omega)).trans (congrArg Host.Outcome.next ((if_neg (by omega)).trans ?_))
    rw [State.flag_of_one hr, Bool.true_and]
    cases hk : ((s.begun c rest).reefExit (leAt c.payload 0 1)).kept (leAt c.payload 0 1) with
    | true => exact (if_neg Bool.false_ne_true).trans (if_pos hk).symm
    | false => exact (if_pos rfl).trans (if_neg (by rw [hk]; decide)).symm
  · exact (hexec (by omega)).trans (congrArg Host.Outcome.next ((if_neg (by omega)).trans
      (if_neg fun e => State.flag_of_zero hr (Bool.and_eq_true_iff.mp e).1)))

end

/-- Settles O32: HEAD_RUN by EN, the self-test and what runs; HEAD_REEF by STATUS.REEF and the mode change. -/
theorem headCommands : Obligations.HeadCommands := by
  unfold Obligations.HeadCommands
  intro c rest s u h hh
  exact ⟨fun hb => headRun_cases hb hh, fun hb => headReef_cases hb hh⟩

end Sys2Proof.Machine

namespace Sys2Proof.Machine
/-! ## The commands that commit heads -/

/-- A refusal that only a nonzero address can meet. -/
theorem placed_iff {a : Nat} {ok : Bool} : ¬ (decide (a ≠ 0) && !ok) = true ↔ a = 0 ∨ ok = true := by
  rw [Bool.and_eq_true, decide_eq_true_eq, Bool.not_eq_true']
  cases ok <;> simp

theorem State.ownMode_of_idle {s : State} {h : Nat} {c : FwCmd} (hm : s.modeRuns h = false) : s.ownMode h c = none := by
  rw [State.ownMode]
  cases hmode : (s.hd h).mode with
  | none => rfl
  | some m => simp [State.modeRuns, hmode] at hm

section
variable {c : FwCmd} {rest : List FwCmd} {s : State}

theorem exec_formeCommit_good (h : s.Begins 0x0230 c rest) : let u := s.begun c rest
    let p := c.payload
    let h := leAt p 0 1
    let v := u.formeView h p
    let a := (v.admitHead h v.othersBytes).1
    c.len = 16 + 16 * leAt p 1 1 → u.formeBad h p [] = false → u.modeRuns h = false →
    exec .formeCommit s = .next (if a.status ≠ stOK ∨ leAt p 2 2 % 2 = 1 then u.finish c a.status (a.resp 0) else u.submit c [h] (a.resp 0) []) := by
  intro u p h' v a hlen hgood hidle
  rw [exec, execFormeCommit, State.serve_begins _ h (by decide)]
  exact congrArg Host.Outcome.next ((if_neg (fun e => e hlen)).trans ((if_neg (Bool.eq_false_iff.mp hgood)).trans (if_neg (Bool.eq_false_iff.mp hidle))))

theorem exec_setTiming_own (h : s.Begins 0x0301 c rest) : let u := s.begun c rest
    let h := leAt c.payload 0 1
    ∀ resp, u.ownMode h c = some resp → exec .setTiming s = .next (u.waitFor c (.timing h resp)) := by
  intro u h' resp hown
  rw [exec, execSetTiming, State.serve_begins _ h (by decide)]
  simp only [show (s.begun c rest).ownMode (leAt c.payload 0 1) c = some resp from hown]
  rfl

theorem exec_setTiming_good (h : s.Begins 0x0301 c rest) : let u := s.begun c rest
    let p := c.payload
    let h := leAt p 0 1
    let full := fun (a : Admission) => a.resp 0 ++ List.replicate 8 (0 : Byte)
    let v := u.timingView p
    let a := (v.admitHead h v.othersBytes).1
    u.timingBad p = false → u.formeOutside h (payloadTiming p) = false → u.modeRuns h = false →
    exec .setTiming s = .next (if a.status ≠ stOK ∨ leAt p 1 1 % 2 = 1 then u.finish c a.status (full a)
      else if u.reefPending h then u.waitFor c (.afterReef h (full a)) else u.submit c [h] (full a) []) := by
  intro u p h' full v a ht hf hidle
  rw [exec, execSetTiming, State.serve_begins _ h (by decide)]
  simp only [show (s.begun c rest).ownMode (leAt c.payload 0 1) c = none from State.ownMode_of_idle hidle]
  exact congrArg Host.Outcome.next ((if_neg (by rw [show (s.begun c rest).timingBad c.payload = false from ht,
    show (s.begun c rest).formeOutside (leAt c.payload 0 1) (payloadTiming c.payload) = false from hf]; decide)).trans (if_neg (Bool.eq_false_iff.mp hidle)))

theorem exec_headWriteback_good (h : s.Begins 0x0320 c rest) : let u := s.begun c rest
    let p := c.payload
    let h := leAt p 0 1
    u.wbBad p = false → u.modeRuns h = false → leAt p 1 1 = 0 ∨ u.wbFits (leAt p 8 8) (leAt p 4 4)
        (leAt p 16 4) (leAt p 3 1) (u.liveTiming h).vActive (wbLineBytes (leAt p 1 1) (u.liveTiming h).hActive) = true →
    let a := ((u.wbView p).admitHead h (u.wbView p).othersBytes).1
    let t := u.liveTiming h
    let fill := u.fillRange (leAt p 8 8) (leAt p 8 8 + (leAt p 3 1 - 1) * leAt p 16 4 + (t.vActive - 1) * leAt p 4 4 +
      wbLineBytes (leAt p 1 1) t.hActive - 1)
    exec .headWriteback s = .next (if a.status ≠ stOK then u.finish c a.status (a.resp 0)
      else (if leAt p 1 1 ≠ 0 ∧ u.inDdr (leAt p 8 8) = true then fill else u).submit c [h] (a.resp 0) []) := by
  intro u p h' hgood hidle hfits a t fill
  rw [exec, execHeadWriteback, State.serve_begins _ h (by decide)]
  refine congrArg Host.Outcome.next ((if_neg (Bool.eq_false_iff.mp hgood)).trans ((if_neg (placed_iff.mpr hfits)).trans
    ((if_neg (Bool.eq_false_iff.mp hidle)).trans ?_)))
  refine congrArg (ite _ _) (congrArg (fun v : State => v.submit c [h'] (a.resp 0) []) ?_)
  exact if_congr (by rw [Bool.and_eq_true, decide_eq_true_eq]) rfl rfl

theorem exec_cabinetMapLoad_good (h : s.Begins 0x0401 c rest) : let u := s.begun c rest
    let p := c.payload
    let h := leAt p 0 1
    h < s.nHeads → 8 ≤ leAt p 2 1 → leAt p 2 1 ≤ 16 → leAt p 4 2 ≤ 4096 →
    leAt p 4 2 = 0 ∨ u.bufOk (leAt p 8 8) (leAt p 4 2 * 64) = true → let r := u.fwRead (leAt p 8 8) (leAt p 4 2 * 64)
    (r.2.hd h).mapAreas.isSome = true → r.2.mapFault p r.1 = none →
    let v := r.2.mapView p r.1
    let a := (v.admitHead h v.othersBytes).1
    exec .cabinetMapLoad s = .next (if a.status ≠ stOK ∨ leAt p 1 1 % 2 = 1 then r.2.finish c a.status (a.resp 0)
      else r.2.submit c [h] (a.resp 0) r.1) := by
  intro u p h' hh hlo hhi hn hbuf r hareas hfault v a
  have hrange : ¬ (u.nHeads ≤ h' ∨ leAt p 2 1 < 8 ∨ 16 < leAt p 2 1 ∨ 4096 < leAt p 4 2) := by
    rw [show u.nHeads = s.nHeads from State.begun_nHeads]
    omega
  rw [exec, execCabinetMapLoad, State.serve_begins _ h (by decide)]
  refine congrArg Host.Outcome.next ((if_neg hrange).trans ((if_neg (placed_iff.mpr hbuf)).trans ?_))
  simp only [show ((s.begun c rest).fwRead (leAt c.payload 8 8) (leAt c.payload 4 2 * 64)).2.mapFault c.payload
    ((s.begun c rest).fwRead (leAt c.payload 8 8) (leAt c.payload 4 2 * 64)).1 = none from hfault]
  exact if_neg (by rw [Option.isNone_iff_eq_none]; exact Option.isSome_iff_ne_none.mp hareas)

theorem exec_headLut_good (h : s.Begins 0x0240 c rest) : let u := s.begun c rest
    let p := c.payload
    let h := leAt p 0 1
    h < s.nHeads → leAt p 1 1 ≤ 3 → leAt p 8 8 = 0 ∨ u.bufOk (leAt p 8 8) 24582 = true → u.modeRuns h = false →
    let r := if leAt p 8 8 = 0 then (([] : List Byte), u) else u.fwRead (leAt p 8 8) 24582
    let v := r.2.preLatch h
    exec .headLut s = .next (if (leAt p 1 1).testBit 1 then r.2.submit c [h] (leBytes 4 0) r.1
      else if leAt p 8 8 ≠ 0 ∧ v.lutSyncing (16 + h) = true then v.waitFor c (.lut (16 + h) [] false (leBytes 4 0) r.1)
      else (v.applyHeadLut p r.1 (decide (v.rd (HEAD_STATUS_COMMIT_PENDING h) = 1))).finish c stOK (leBytes 4 0)) := by
  intro u p h' hh hen hbuf hidle r v
  have hrange : ¬ (u.nHeads ≤ h' ∨ 3 < leAt p 1 1) := by
    rw [show u.nHeads = s.nHeads from State.begun_nHeads]
    omega
  rw [exec, execHeadLut, State.serve_begins _ h (by decide)]
  refine congrArg Host.Outcome.next ((if_neg hrange).trans ((if_neg (placed_iff.mpr hbuf)).trans
    ((if_neg (Bool.eq_false_iff.mp hidle)).trans ?_)))
  refine congrArg (ite _ _) ?_
  have hbehind : v.flag (HEAD_STATUS_COMMIT_PENDING h') = decide (v.rd (HEAD_STATUS_COMMIT_PENDING h') = 1) := by
    rw [Bool.eq_iff_iff, State.flag_iff _ rfl, decide_eq_true_eq]
  rw [← hbehind]
  exact if_congr (by rw [Bool.and_eq_true, decide_eq_true_eq]) rfl rfl

theorem exec_layerFlip_good (h : s.Begins 0x0210 c rest) : let u := s.begun c rest
    let p := c.payload
    let h := leAt p 0 1
    ∀ g, u.hasLayer h = true → (List.range u.nHeads).find? (fun g => u.inLive g h) = some g →
    planesBad (u.rd (LAY_CTRL_FORMAT h)) (leAt p 8 8) (leAt p 16 8) = false →
    u.rd (LAY_CTRL_SOURCE h) ≠ 0 ∨ u.planesFit (u.rd (LAY_CTRL_FORMAT h)) (leAt p 8 8) (leAt p 16 8) (u.rd (LAY_PITCH0_PITCH h) * 64)
      (u.rd (LAY_PITCH1_PITCH h) * 64) (u.rd (LAY_SRC_SIZE_W h)) (u.rd (LAY_SRC_SIZE_H h)) = true →
    exec .layerFlip s = .next (u.submit c [g] ((noAdmission stOK).resp 0) []) := by
  intro u p h' g hhas hfind hplanes hfits
  rw [exec, execLayerFlip, State.serve_begins _ h (by decide)]
  simp only [show (s.begun c rest).hasLayer (leAt c.payload 0 1) = true from hhas, if_true,
    show (List.range (s.begun c rest).nHeads).find? (fun g => (s.begun c rest).inLive g (leAt c.payload 0 1)) = some g from hfind]
  refine congrArg Host.Outcome.next ((if_neg (Bool.eq_false_iff.mp hplanes)).trans (if_neg fun hbad => ?_))
  rw [Bool.and_eq_true, decide_eq_true_eq, Bool.not_eq_true'] at hbad
  exact hfits.elim (fun hsrc => hsrc hbad.1) (fun hfit => Bool.eq_false_iff.mp hbad.2 hfit)

theorem exec_formeGroupCommit_bad (h : s.Begins 0x0231 c rest) : let hs := headsOf (leAt c.payload 12 1)
    hs.length < 2 ∨ 16 ≤ leAt c.payload 12 1 ∨ (∃ h ∈ hs, s.nHeads ≤ h) →
    exec .formeGroupCommit s = .next ((s.begun c rest).fail c stBAD_PARAM) := by
  intro hs hbad
  rw [exec, execFormeGroupCommit, State.serve_begins _ h (by decide)]
  refine congrArg Host.Outcome.next (if_pos ?_)
  rw [State.begun_nHeads, List.any_eq_true]
  simpa only [decide_eq_true_eq] using hbad

theorem exec_formeGroupCommit_good (h : s.Begins 0x0231 c rest) : let u := s.begun c rest
    let p := c.payload
    let hs := headsOf (leAt p 12 1)
    2 ≤ hs.length → leAt p 12 1 < 16 → (∀ h ∈ hs, h < s.nHeads) → u.bufOk (leAt p 0 8) (leAt p 8 4) = true → ∀ fs,
    let r := u.fwRead (leAt p 0 8) (leAt p 8 4)
    splitFormes hs r.1 = some fs →
    let v := r.2
    let only := fs.map fun f => leAt f.2 2 2 % 2
    (∀ f ∈ fs, leAt f.2 0 1 = f.1 ∧ v.formeBad f.1 f.2 hs = false) → (fs.flatMap fun f => formeLayers f.2).Nodup →
    (∀ o ∈ only, o = 0) → (∀ h ∈ hs, (v.hd h).gen = true ∧ v.modeRuns h = false) →
    let as := (v.groupView fs).admitGroup fs
    let resp := (as.map fun a => a.resp 0).flatten
    let worst := as.foldl (fun w a => if budgetRank a.status < budgetRank w then a.status else w) stOK
    fs ≠ [] → exec .formeGroupCommit s = .next (if worst = stOK then v.submit c hs resp r.1 else v.finish c worst resp) := by
  intro u p hs hlen hmask hpresent hbuf fs r hsplit v only hgood hnodup hzero hidle as resp worst hne
  rw [exec, execFormeGroupCommit, State.serve_begins _ h (by decide)]
  have hhead : ¬ (hs.length < 2 ∨ 16 ≤ leAt p 12 1 ∨ hs.any (fun h => decide (u.nHeads ≤ h)) = true) := by
    rw [show u.nHeads = s.nHeads from State.begun_nHeads, List.any_eq_true]
    simp only [decide_eq_true_eq, not_or, not_exists, not_and, Nat.not_le]
    exact ⟨by omega, hmask, hpresent⟩
  have hformes : ¬ fs.any (fun f => decide (leAt f.2 0 1 ≠ f.1) || v.formeBad f.1 f.2 hs) = true := by
    rw [List.any_eq_true]
    rintro ⟨f, hf, hbad⟩
    obtain ⟨hh, hok⟩ := hgood f hf
    rw [hok, Bool.or_false, decide_eq_true_eq] at hbad
    exact hbad hh
  have hlayers : ¬ (!decide (fs.flatMap fun f => formeLayers f.2).Nodup) = true := by
    rw [decide_eq_true hnodup]
    decide
  have hnone : only.any (fun o => decide (o = 1)) = false := by
    rw [List.any_eq_false]
    intro o ho
    rw [hzero o ho]
    decide
  have hnotall : ¬ only.all (fun o => decide (o = 1)) = true := by
    obtain ⟨f, fs', rfl⟩ := List.exists_cons_of_ne_nil hne
    intro hall
    have hone := List.all_eq_true.mp hall (leAt f.2 2 2 % 2) List.mem_cons_self
    rw [show leAt f.2 2 2 % 2 = 0 from hzero _ List.mem_cons_self] at hone
    exact absurd hone (by decide)
  have hruns : ¬ hs.any (fun h => !(v.hd h).gen || v.modeRuns h) = true := by
    rw [List.any_eq_true]
    rintro ⟨g, hg, hbad⟩
    obtain ⟨hgen, hmode⟩ := hidle g hg
    rw [hgen, hmode] at hbad
    exact absurd hbad (by decide)
  refine congrArg Host.Outcome.next ((if_neg hhead).trans ((if_neg (by rw [show (s.begun c rest).bufOk (leAt c.payload 0 8) (leAt c.payload 8 4) = true from hbuf]; decide)).trans ?_))
  simp only [show splitFormes (headsOf (leAt c.payload 12 1)) ((s.begun c rest).fwRead (leAt c.payload 0 8) (leAt c.payload 8 4)).1 = some fs from hsplit]
  refine (if_neg hformes).trans ((if_neg hlayers).trans ((if_neg (by rw [show (fs.map fun f => leAt f.2 2 2 % 2).any (fun o => decide (o = 1)) = false from hnone, Bool.false_and]; decide)).trans
    ((if_neg hruns).trans ?_)))
  rcases Decidable.em (worst = stOK) with hw | hw
  · exact (if_neg (fun e => e.elim (fun hn => hn hw) hnotall)).trans (if_pos hw).symm
  · exact (if_pos (.inl hw)).trans (if_neg hw).symm

end

/-- Settles O31: each command, its checks passed, by the decision of admission. -/
theorem commitCommands : Obligations.CommitCommands := by
  unfold Obligations.CommitCommands
  refine ⟨fun c rest s => ?_, fun c rest s hb => ⟨exec_formeGroupCommit_bad hb, exec_formeGroupCommit_good hb⟩⟩
  intro u p h dec full
  refine ⟨fun hb hlen hgood hidle => ?_, exec_setTiming_own, fun hb ht hf hidle => ⟨fun hr => ?_, ?_⟩, exec_headWriteback_good,
    fun hb hh hlo hhi hn hbuf hareas hfault => ?_, exec_headLut_good, exec_layerFlip_good⟩
  · refine (exec_formeCommit_good hb hlen hgood hidle).trans (congrArg Host.Outcome.next (if_congr ?_ rfl rfl))
    rw [decide_eq_true_eq]
  · refine (exec_setTiming_good hb ht hf hidle).trans (congrArg Host.Outcome.next ?_)
    refine if_congr ?_ rfl (if_neg (Bool.eq_false_iff.mp hr))
    rw [decide_eq_true_eq]
  · intro a hr hstatus honly
    exact (exec_setTiming_good hb ht hf hidle).trans (congrArg Host.Outcome.next ((if_neg (fun e => e.elim (fun hn => hn hstatus) (fun h1 => by rw [honly] at h1; exact absurd h1 (by decide)))).trans (if_pos hr)))
  · refine (exec_cabinetMapLoad_good hb hh hlo hhi hn hbuf hareas hfault).trans (congrArg Host.Outcome.next (if_congr ?_ rfl rfl))
    rw [decide_eq_true_eq]

end Sys2Proof.Machine

namespace Sys2Proof.Machine
/-! ## The rows of a head's clock -/

theorem State.when_yes {s : State} {c : Bool} {f : State → State} (hc : c = true) : s.when c f = f s := if_pos hc

theorem State.when_no {s : State} {c : Bool} {f : State → State} (hc : c = false) : s.when c f = s := if_neg (Bool.eq_false_iff.mp hc)

/-- Where no deadline is due none is missed. -/
theorem State.deadlines_none {s : State} {h : Nat} (hd : s.deadlineDue h = false) : s.deadlines h = s :=
  foldl_stays fun _ _ => if_neg (Bool.eq_false_iff.mp hd)

theorem State.preLatch_due {s : State} {h : Nat} (hl : (s.hd h).latchDue = true) :
    s.preLatch h = s.withFsync h fun t => t.latchHead h (t.hd h).latchTakes (t.nextStart h) := by
  have hf : s.latchIfDue h = s.latchHead h (s.hd h).latchTakes (s.nextStart h) := if_pos hl
  simp only [State.preLatch, State.withFsync, hf]

section
variable {h : Fin 4} {s : State}

/-- The rows of a head's clock on a head whose timing generator does not run. -/
theorem exec_clockRow_idle (hg : s.genUp h = false) :
    ∀ i ∈ [Instr.latch h, .lineWindowStart h, .headStop h, .headRestart h, .release h], exec i s = .next s := by
  intro i hi
  simp only [List.mem_cons, List.not_mem_nil, or_false] at hi
  rcases hi with rfl | rfl | rfl | rfl | rfl
  · exact congrArg Host.Outcome.next (State.when_no (by rw [hg, Bool.false_and]))
  · exact congrArg Host.Outcome.next (State.when_no (by rw [hg, Bool.false_and]))
  · exact congrArg Host.Outcome.next (State.when_no (by rw [hg, Bool.false_and, Bool.false_and]))
  · exact congrArg Host.Outcome.next (State.when_no (by rw [hg, Bool.false_and, Bool.false_and]))
  · exact congrArg Host.Outcome.next (State.when_no (by rw [hg, Bool.false_and, Bool.false_and]))

/-- The rows of a head's lines on a head that is absent or down. -/
theorem exec_lineRow_down (hup : s.headUp h = false) :
    ∀ i ∈ [Instr.lineComplete h, .lineDeadline h, .slugQueue h, .wbFrameComplete h], exec i s = .next s := by
  intro i hi
  simp only [List.mem_cons, List.not_mem_nil, or_false] at hi
  rcases hi with rfl | rfl | rfl | rfl
  · exact congrArg Host.Outcome.next (State.when_no (by rw [hup, Bool.false_and]))
  · exact congrArg Host.Outcome.next (State.when_no (by rw [hup, Bool.false_and]))
  · exact congrArg Host.Outcome.next (State.when_no (by rw [hup, Bool.false_and]))
  · exact congrArg Host.Outcome.next (State.when_no hup)

theorem exec_headStop_plain (hg : s.genUp h = true) (hw : s.lastWindow h = true) (hs : (s.hd h).stopDue = true)
    (hl : (s.hd h).latchDue = false) (hf : (s.hd h).firstFrame = false) (hd : s.deadlineDue h = false) :
    exec (.headStop h) s = .next (s.withFsync h fun t => t.headStop h).serveQueued := by
  refine congrArg Host.Outcome.next ((State.when_yes (by rw [hg, hw, hs]; rfl)).trans ?_)
  have hlatch : s.latchIfDue h = s := if_neg (Bool.eq_false_iff.mp hl)
  simp only [hlatch, State.deadlines_none hd, hf, Bool.false_eq_true, if_false]

theorem exec_release_plain (hg : s.genUp h = true) (hw : s.lastWindow h = true) (hf : (s.hd h).firstFrame = true)
    (hd : s.deadlineDue h = false) : exec (.release h) s = .next (s.headRelease h).serveQueued := by
  refine congrArg Host.Outcome.next ((State.when_yes (by rw [hg, hw, hf]; rfl)).trans ?_)
  rw [State.deadlines_none hd]

end

/-- Settles O33: each row by its guard; the work of a latch, a stop and a release where nothing else is due. -/
theorem headClock : Obligations.HeadClock := by
  unfold Obligations.HeadClock
  refine fun h s => ⟨fun hup i hi => ?_, exec_clockRow_idle, fun hg => ⟨fun hgen hl => ?_, fun hgen => ?_, exec_headStop_plain hg, fun hr hc => ?_,
    exec_release_plain hg⟩⟩
  · rw [show ([Instr.latch h, .lineWindowStart h, .headStop h, .headRestart h, .release h, .lineComplete h, .lineDeadline h, .slugQueue h,
      .wbFrameComplete h] : List Instr) = [.latch h, .lineWindowStart h, .headStop h, .headRestart h, .release h] ++
        [.lineComplete h, .lineDeadline h, .slugQueue h, .wbFrameComplete h] from rfl, List.mem_append] at hi
    exact hi.elim (exec_clockRow_idle (by rw [State.genUp, hup, Bool.false_and]) i) (exec_lineRow_down hup i)
  · refine congrArg Host.Outcome.next ((State.when_yes (by rw [hg, hgen]; rfl)).trans ?_)
    rw [State.preLatch_due hl]
  · exact congrArg Host.Outcome.next (State.when_yes (by rw [hg, hgen]; rfl))
  · exact congrArg Host.Outcome.next (State.when_yes (by rw [hg, hr, hc]; rfl))

/-! ## The rows of a head's lines and of its layers -/

section
variable {h : Fin 4} {s : State}

theorem State.cutOffs_early (hc : s.cutOffPast h = false) : s.cutOffs h = s := if_neg (Bool.eq_false_iff.mp hc)

theorem exec_lineComplete_released (hup : s.headUp h = true) (hpll : s.pllRuns h 0 = true) : let d := s.cutOffs h
    let y := d.hd h
    d.released h = true → d.rowWait h y.nextLine = false →
    exec (.lineComplete h) s = .next (
      let r := ((if y.mapIdx = 0 then d.loadStaged h else d).fillGalleys h y.nextLine).putEntries h y.nextLine y.ctim.hActive false
      if r.1 then r.2.finishLine h y.nextLine y.ctim.hActive (r.2.slackNow h y.nextLine) else r.2) := by
  intro d y hr hw
  refine congrArg Host.Outcome.next ((State.when_yes (by rw [hup, hpll]; rfl)).trans ?_)
  exact if_pos (by rw [show (s.cutOffs h).released h = true from hr, show (s.cutOffs h).rowWait h ((s.cutOffs h).hd h).nextLine = false from hw]; rfl)

theorem exec_slugQueue_released (hup : s.headUp h = true) : let x := s.hd h
    let d := s.cutOffs h
    s.released h = true → d.rowWait h x.nextLine = false → x.mapIdx < d.mapCount h →
    exec (.slugQueue h) s = .next (((if x.mapIdx = 0 then d.loadStaged h else d).fillGalleys h x.nextLine).putEntry h x.mapIdx x.nextLine
      x.ctim.hActive false).2 := by
  intro x d hr hw hm
  refine congrArg Host.Outcome.next ((State.when_yes (by rw [hup, hr]; rfl)).trans (State.when_yes ?_))
  rw [show (s.cutOffs h).rowWait h (s.hd h).nextLine = false from hw, Bool.not_false, Bool.true_and, decide_eq_true_eq]
  exact hm

end

theorem State.setLay_lay (s : State) (l : Nat) (f : LayerState → LayerState) : (s.setLay l f).lay l = f (s.lay l) :=
  Vector.getElem_set_self _

/-- A wait whose last line is over ends with the last frame again, and what the lines ahead read of it. -/
theorem exec_waitLinesExpire_over {s : State} {l : Fin 64} {h : Nat} (hup : s.mainUp = true) (hw : (s.lay l).waiting = some (h, 0))
    (hat : (s.hd h).winAt < s.now) : exec (.waitLinesExpire l) s =
      .next (((s.repeatFrame l (s.lrd (LAY_CTRL_STREAM l))).setLay l fun x => { x with waiting := none }).fetchLate h l) := by
  have hover : s.waitOver l = true := by rw [State.waitOver, hw]; exact decide_eq_true hat
  have hline : s.waitLine h l = (s.repeatFrame l (s.lrd (LAY_CTRL_STREAM l))).setLay l fun x => { x with waiting := none } := by
    rw [State.waitLine, hw]
    exact (if_pos rfl).trans (if_pos rfl)
  rw [exec, execWaitLinesExpire, hw]
  refine congrArg Host.Outcome.next ((State.when_yes (by rw [hup, hover]; rfl)).trans ?_)
  rw [State.waitStep, hline, hw, State.setLay_lay]
  rfl

theorem exec_lineCutoff_due {s : State} {l : Fin 64} {h : Nat} {hs : List Nat} (hup : s.mainUp = true) :
    (List.range s.nHeads).filter (fun h => s.released h && decide ((s.hd h).nextLine < (s.hd h).line ∨ s.cutoffAt h < s.now) &&
      (s.ringEntries h (s.hd h).nextLine).any fun e => decide (e.layer = l.val)) = h :: hs →
    exec (.lineCutoff l) s = .next ((s.setLay l fun x => { x with cut := some (s.hd h).nextLine }).readDue h) := by
  intro hfirst
  simp only [exec, execLineCutoff, State.cutOffPast, hfirst]
  exact congrArg Host.Outcome.next (State.when_yes hup)

theorem exec_lutSyncDone_due {s : State} {t : Fin 20} {u : Nat} (hu : s.luts[t].until_ = some u) (hnow : u ≤ s.now) :
    exec (.lutSyncDone t) s = .next ((s.luts[t].held.foldl State.lutPerform
      { s.wr (if t.val < 16 then LAY_LUT_CTRL_SYNC t else HEAD_POST_LUT_CTRL_SYNC (t.val - 16)) 0 with
        luts := s.luts.set t ⟨none, []⟩ }).lutServe t).serveQueued := by
  simp only [exec, execLutSyncDone, hu, hnow, if_true]

/-- Settles O34: each row by the moment it waits for. -/
theorem lineRows : Obligations.LineRows := by
  unfold Obligations.LineRows
  refine ⟨fun h s hup => ?_, fun s hup => ⟨fun l h => exec_waitLinesExpire_over hup, fun l h hs => exec_lineCutoff_due hup,
    fun t u => exec_lutSyncDone_due⟩⟩
  intro x d y
  refine ⟨State.cutOffs_early, fun hpll => ?_, exec_lineComplete_released hup, fun hd => ?_, exec_slugQueue_released hup, ?_⟩
  · exact congrArg Host.Outcome.next (State.when_no (by rw [hpll, Bool.and_false]))
  · exact congrArg Host.Outcome.next (State.when_yes (by rw [hup, hd]; rfl))
  · exact congrArg Host.Outcome.next (State.when_yes hup)

end Sys2Proof.Machine

namespace Sys2Proof.Machine
/-! ## RING_JOIN, RING_LEAVE and RING_MEMBERS -/

section
variable {c : FwCmd} {rest : List FwCmd} {s : State}

theorem exec_ringJoin (h : s.Begins 0x0601 c rest) : let u := s.begun c rest
    let d := c.payload
    exec .ringJoin s = .next (if !joinRange d then u.fail c stBAD_PARAM
      else if s.joined then
        if leAt d 0 2 = s.ringId then (u.joinParams d).finish c stOK (u.joinParams d).joinResp else u.fail c stBAD_PARAM
      else if s.ring.join.isSome ∧ s.took c ≠ [] then u.waitFor c .join
      else if s.rd SHD_STATE_STATE ≠ 1 ∨ s.shroud.path ≠ 1 ∨ s.ring.join.isSome then u.fail c stBUSY
      else ((((((u.take c [leAt d 0 2]).joinParams d).wr HLY_CTRL_HW_EN 1).wr HLY_CTRL_HE_EN 1).wr SHD_STATE_STATE 3).setRing fun r =>
          { r with join := some ⟨.lock, 0, leAt d 0 2, u.joinSaves⟩ }).waitFor c .join) := by
  intro u d
  rw [exec, execRingJoin, State.serve_begins _ h (by decide)]
  simp only [State.begun_joined, State.begun_ringId, State.begun_ring, State.begun_took, State.begun_rd, State.begun_shroud] <;> rfl

theorem ringJoin_cases (h : s.Begins 0x0601 c rest) : let u := s.begun c rest
    let d := c.payload
    (joinRange d = false → exec .ringJoin s = .next (u.fail c stBAD_PARAM)) ∧
    (joinRange d = true → s.joined = true → leAt d 0 2 = s.ringId →
      exec .ringJoin s = .next ((u.joinParams d).finish c stOK (u.joinParams d).joinResp)) ∧
    (joinRange d = true → s.joined = false → s.ring.join.isSome = true → s.took c ≠ [] →
      exec .ringJoin s = .next (u.waitFor c .join)) ∧
    (joinRange d = true → s.joined = false → s.ring.join = none ∨ s.took c = [] →
      s.rd SHD_STATE_STATE ≠ 1 ∨ s.shroud.path ≠ 1 ∨ s.ring.join.isSome = true →
      exec .ringJoin s = .next (u.fail c stBUSY)) ∧
    (joinRange d = true → s.joined = false → s.rd SHD_STATE_STATE = 1 → s.shroud.path = 1 → s.ring.join = none →
      exec .ringJoin s = .next ((((((((u.take c [leAt d 0 2]).joinParams d).wr HLY_CTRL_HW_EN 1).wr HLY_CTRL_HE_EN 1).wr SHD_STATE_STATE 3)).setRing fun r =>
        { r with join := some ⟨.lock, 0, leAt d 0 2, u.joinSaves⟩ }).waitFor c .join)) := by
  intro u d
  have hexec := exec_ringJoin h
  have hgood : joinRange c.payload = true → ¬ (!joinRange c.payload) = true := fun hr => by rw [hr]; decide
  refine ⟨fun hr => ?_, fun hr hj hid => ?_, fun hr hj hrun htook => ?_, fun hr hj hnew hbusy => ?_, fun hr hj hst hpath hfree => ?_⟩
  · exact hexec.trans (congrArg Host.Outcome.next (if_pos (by rw [show joinRange c.payload = false from hr]; rfl)))
  · exact hexec.trans (congrArg Host.Outcome.next ((if_neg (hgood hr)).trans ((if_pos hj).trans (if_pos hid))))
  · exact hexec.trans (congrArg Host.Outcome.next ((if_neg (hgood hr)).trans ((if_neg (Bool.eq_false_iff.mp hj)).trans (if_pos ⟨hrun, htook⟩))))
  · exact hexec.trans (congrArg Host.Outcome.next ((if_neg (hgood hr)).trans ((if_neg (Bool.eq_false_iff.mp hj)).trans
      ((if_neg (fun e => hnew.elim (fun hn => by rw [hn] at e; exact Bool.noConfusion e.1) e.2)).trans (if_pos hbusy)))))
  · exact hexec.trans (congrArg Host.Outcome.next ((if_neg (hgood hr)).trans ((if_neg (Bool.eq_false_iff.mp hj)).trans
      ((if_neg (fun e => by rw [hfree] at e; exact Bool.noConfusion e.1)).trans (if_neg (by rw [hst, hpath, hfree]; decide))))))

theorem exec_ringLeave (h : s.Begins 0x0602 c rest) : let u := s.begun c rest
    exec .ringLeave s = .next (if s.joined then (if s.ring.leaving then u else u.startLeave).waitFor c .leave
      else if s.ring.join.isSome then u.fail c stBUSY
      else if s.shroud.path = 1 then u.ok c
      else u.waitFor c .leave) := by
  intro u
  rw [exec, execRingLeave, State.serve_begins _ h (by decide)]
  simp only [State.begun_joined, State.begun_ring, State.begun_shroud] <;> rfl

theorem ringLeave_cases (h : s.Begins 0x0602 c rest) : let u := s.begun c rest
    (s.joined = true → exec .ringLeave s = .next ((if s.ring.leaving then u else u.startLeave).waitFor c .leave)) ∧
    (s.joined = false → s.ring.join = none → exec .ringLeave s = .next (if s.shroud.path = 1 then u.ok c else u.waitFor c .leave)) ∧
    (s.joined = false → s.ring.join.isSome = true → exec .ringLeave s = .next (u.fail c stBUSY)) := by
  intro u
  have hexec := exec_ringLeave h
  refine ⟨fun hj => ?_, fun hj hfree => ?_, fun hj hrun => ?_⟩
  · exact hexec.trans (congrArg Host.Outcome.next (if_pos hj))
  · exact hexec.trans (congrArg Host.Outcome.next ((if_neg (Bool.eq_false_iff.mp hj)).trans (if_neg (by rw [hfree]; decide))))
  · exact hexec.trans (congrArg Host.Outcome.next ((if_neg (Bool.eq_false_iff.mp hj)).trans (if_pos hrun)))

theorem exec_ringMembers_good (h : s.Begins 0x0603 c rest) : let u := s.begun c rest
    let d := c.payload
    leAt d 8 4 = 0 ∨ u.bufOk (leAt d 0 8) (leAt d 8 4) = true →
    exec .ringMembers s = .next (let es := u.byHops.take (leAt d 8 4 / 16)
      (u.fwWrite (leAt d 0 8) (es.map Member.entry).flatten).finish c stOK (leBytes 4 s.ring.members.length ++ leBytes 4 es.length)) := by
  intro u d hbuf
  rw [exec, execRingMembers, State.serve_begins _ h (by decide), State.begun_ring]
  exact congrArg Host.Outcome.next (if_neg fun e => hbuf.elim e.1 e.2)

end

/-- Settles O40: each command by its range, then by what runs on the ring. -/
theorem ringMembershipCommands : Obligations.RingMembershipCommands := by
  unfold Obligations.RingMembershipCommands
  exact fun c rest s => ⟨ringJoin_cases, ringLeave_cases, exec_ringMembers_good⟩

/-! ## The ring traffic commands -/

section
variable {c : FwCmd} {rest : List FwCmd} {s : State}

theorem exec_ringCopy_new (h : s.Begins 0x0620 c rest) : let u := s.begun c rest
    let d := c.payload
    leAt d 0 2 ∉ [0, 0xFFFF, s.ringId] → leAt d 2 1 ≤ 4 → leAt d 8 8 % 64 = 0 → leAt d 16 8 % 64 = 0 →
    leAt d 24 4 ≠ 0 → leAt d 4 2 ≠ 0 → u.bufOk (leAt d 8 8) (leAt d 24 4) = true → s.joined = true → s.took c = [] →
    exec .ringCopy s = .next (let x := s.ring.nextXfer
      (((u.setRing fun r => { r with nextXfer := r.nextXfer % 4095 + 1 }).take c [x]).bulkSend
        ⟨x, leAt d 0 2, leAt d 2 1, leAt d 8 8, leAt d 16 8, leAt d 24 4, leAt d 4 2, 0, none, false⟩).waitFor c (.ringCopy x)) := by
  intro u d hdest hcls hsrc hoff hn hwin hbuf hjoined htook
  simp only [List.mem_cons, List.not_mem_nil, or_false, not_or] at hdest
  obtain ⟨hzero, hall, hself⟩ := hdest
  have hgood : ¬ (leAt d 0 2 = 0 ∨ leAt d 0 2 = 0xFFFF ∨ leAt d 0 2 = u.ringId ∨ 4 < leAt d 2 1 ∨ leAt d 8 8 % 64 ≠ 0 ∨ leAt d 16 8 % 64 ≠ 0 ∨
      leAt d 24 4 = 0 ∨ leAt d 4 2 = 0) := by
    rw [show u.ringId = s.ringId from State.begun_ringId]
    omega
  rw [exec, execRingCopy, State.serve_begins _ h (by decide)]
  simp only [State.begun_took, htook]
  refine congrArg Host.Outcome.next ((if_neg hgood).trans ((if_neg (by rw [show (s.begun c rest).bufOk (leAt c.payload 8 8) (leAt c.payload 24 4) = true from hbuf]; decide)).trans
    ((if_neg (by rw [State.begun_joined, hjoined]; decide)).trans ?_)))
  rw [State.begun_ring]

theorem exec_ringWbRelay_good (h : s.Begins 0x0630 c rest) : let u := s.begun c rest
    let d := c.payload
    leAt d 0 1 < s.nHeads → leAt d 1 1 ≤ 4 → leAt d 2 2 ≠ 0 → leAt d 4 1 ≠ 0 → leAt d 4 1 ≤ 4 →
    leAt d 16 4 % 64 = 0 → s.rd (HEAD_WB_CTRL_FORMAT (leAt d 0 1)) ∈ [1, 3, 5] → s.joined = true →
    exec .ringWbRelay s = .next (
      let last := s.ring.relays[Fin.ofNat 4 (leAt d 0 1)].bind Relay.xfer
      let r : Relay := ⟨leAt d 1 1, leAt d 2 2, leAt d 4 1, leAt d 8 8, leAt d 16 4, last, (leAt d 5 1).testBit 0⟩
      (u.setRing fun x => { x with relays := x.relays.set (Fin.ofNat 4 (leAt d 0 1)) (some r) }).ok c) := by
  intro u d hh hcls hstr hb0 hb hpitch hfmt hjoined
  have hgood : ¬ (u.nHeads ≤ leAt d 0 1 ∨ 4 < leAt d 1 1 ∨ leAt d 2 2 = 0 ∨ leAt d 4 1 = 0 ∨ 4 < leAt d 4 1 ∨ leAt d 16 4 % 64 ≠ 0 ∨
      u.rd (HEAD_WB_CTRL_FORMAT (leAt d 0 1)) ∉ [1, 3, 5]) := by
    rw [show u.nHeads = s.nHeads from State.begun_nHeads, show u.rd (HEAD_WB_CTRL_FORMAT (leAt d 0 1)) = s.rd _ from State.begun_rd _]
    simp only [not_or, not_not]
    exact ⟨by omega, by omega, hstr, hb0, by omega, hpitch, hfmt⟩
  rw [exec, execRingWbRelay, State.serve_begins _ h (by decide)]
  refine congrArg Host.Outcome.next ((if_neg hgood).trans ((if_neg (by rw [State.begun_joined, hjoined]; decide)).trans ?_))
  rw [State.begun_ring]

theorem exec_ringPoliceSet_good (h : s.Begins 0x0642 c rest) : let u := s.begun c rest
    let d := c.payload
    let i := leAt d 0 1
    let fl := leAt d 1 1
    i < 64 → leAt d 4 2 ≤ 4095 → leAt d 8 4 ≤ 1048575 → leAt d 2 1 ≤ 7 → leAt d 2 1 ≠ 5 → leAt d 2 1 ≠ 7 →
    leAt d 4 2 ≠ 0 ∨ fl.testBit 2 = true → leAt d 6 2 ≠ 0 →
    exec .ringPoliceSet s = .next (
      let v := ((u.wr (POL_CTRL_EN i) (b2n (fl.testBit 0))).wr (POL_CTRL_POINT i) (b2n (fl.testBit 1))).wr (POL_CTRL_ANY_STREAM i) (b2n (fl.testBit 2))
      let v := ((v.wr (POL_CTRL_CLASS i) (leAt d 2 1)).wr (POL_CTRL_STREAM i) (leAt d 4 2)).wr (POL_RATE_RATE i) (leAt d 8 4)
      ((v.wr (POL_BURST_BURST i) (leAt d 6 2)).setRing fun r =>
        { r with policers := r.policers.set (Fin.ofNat 64 i) ⟨bucketSize (leAt d 6 2), s.now⟩ }).ok c) := by
  intro u d i fl hi hst hrate hcls h5 h7 hany hburst
  have hgood : ¬ (64 ≤ i ∨ leAt d 6 2 = 0 ∨ 4095 < leAt d 4 2 ∨ 1048575 < leAt d 8 4 ∨ 7 < leAt d 2 1 ∨ leAt d 2 1 = 5 ∨ leAt d 2 1 = 7 ∨
      (leAt d 4 2 = 0 ∧ ¬ fl.testBit 2 = true)) := by
    simp only [not_or, not_and, not_not]
    exact ⟨by omega, hburst, by omega, by omega, by omega, h5, h7, fun hz => hany.elim (absurd hz) id⟩
  rw [exec, execRingPoliceSet, State.serve_begins _ h (by decide)]
  refine congrArg Host.Outcome.next ((if_neg hgood).trans ?_)
  simp only [State.wr_now, State.begun_now] <;> rfl

theorem exec_ringSchedSet (h : s.Begins 0x0640 c rest) : let u := s.begun c rest
    exec .ringSchedSet s = .next (if !schedRange c.payload then u.fail c stBAD_PARAM
      else if (u.schedApply c.payload).isNone then u.fail c stREJECTED_DENSUM
      else if u.resizedEmpty c.payload then u.schedFinish c
      else u.waitFor c (.sched (s.now + 1000000))) := by
  intro u
  rw [exec, execRingSchedSet, State.serve_begins _ h (by decide), State.begun_now]

theorem exec_ringGateSet_good (h : s.Begins 0x0641 c rest) : let u := s.begun c rest
    let d := c.payload
    gateRange d = true → u.bufOk (leAt d 24 8) (leAt d 2 2 * 4) = true →
    let r := u.fwRead (leAt d 24 8) (leAt d 2 2 * 4)
    let g := r.2.gateOf d r.1
    (∀ e ∈ g.1.entries, e.2 ≠ 0) → g.1.tooShort = false → (leAt d 1 1).testBit 1 = false → (leAt d 1 1).testBit 0 = true →
    exec .ringGateSet s = .next (((portList (leAt d 0 1)).foldl (fun t p => t.gateWrite p d g.1) r.2).finish c stOK
      (leBytes 8 (g.1.start / 1000000000) ++ leBytes 4 (g.1.start % 1000000000) ++ leBytes 4 g.1.wGate ++ leBytes 4 (b2n g.2) ++ leBytes 4 0)) := by
  intro u d hrange hbuf r g hentries hlong hquery hset
  have hgood : ¬ ((g.1.entries.any fun e => decide (e.2 = 0)) || g.1.tooShort) = true := by
    rw [hlong, Bool.or_false, List.any_eq_true]
    rintro ⟨e, he, hzero⟩
    exact hentries e he (of_decide_eq_true hzero)
  rw [exec, execRingGateSet, State.serve_begins _ h (by decide)]
  refine congrArg Host.Outcome.next ((if_neg (by rw [show gateRange c.payload = true from hrange]; decide)).trans
    ((if_neg (by rw [show (s.begun c rest).bufOk (leAt c.payload 24 8) (leAt c.payload 2 2 * 4) = true from hbuf]; decide)).trans ((if_neg hgood).trans ?_)))
  simp only [show (leAt c.payload 1 1).testBit 1 = false from hquery, show (leAt c.payload 1 1).testBit 0 = true from hset,
    Bool.false_eq_true, if_false, if_true]
  rfl

end

/-- Settles O41: each command on parameters in range; RING_SCHED_SET and RING_GATE_SET also out of range. -/
theorem ringTrafficCommands : Obligations.RingTrafficCommands := by
  unfold Obligations.RingTrafficCommands
  intro c rest s u d
  refine ⟨exec_ringCopy_new, exec_ringWbRelay_good, exec_ringPoliceSet_good, fun hb => ⟨fun hr => ?_, fun hr v hv => ?_⟩,
    fun hb => ⟨fun hr => ?_, exec_ringGateSet_good hb⟩⟩
  · exact (exec_ringSchedSet hb).trans (congrArg Host.Outcome.next (if_pos (by rw [show schedRange c.payload = false from hr]; rfl)))
  · exact (exec_ringSchedSet hb).trans (congrArg Host.Outcome.next ((if_neg (by rw [show schedRange c.payload = true from hr]; decide)).trans
      (if_neg (by rw [show (s.begun c rest).schedApply c.payload = some v from hv, Option.isNone_some]; decide))))
  · rw [exec, execRingGateSet, State.serve_begins _ hb (by decide)]
    exact congrArg Host.Outcome.next (if_pos (by rw [show gateRange c.payload = false from hr]; rfl))

end Sys2Proof.Machine

namespace Sys2Proof.Machine
/-! ## A register write that stores something other than the reset word

The rules of the earlier layers ask for stores in canonical form.  A statement that assumes none of
that needs these: an entry that is stored, not deleted, hides nothing and uncovers nothing. -/

section
variable {α : Type} [DecidableEq α] {d : Nat → α}

theorem Sparse.get_put_stored {k : Nat} {v : α} (hv : v ≠ d k) (l : List (Nat × α)) (j : Nat) :
    Sparse.get d (Sparse.put d l k v) j = if j = k then v else Sparse.get d l j := by
  induction l with
  | nil =>
    simp only [Sparse.put, hv, if_false, Sparse.get]
    grind
  | cons e t ih =>
    obtain ⟨a, w⟩ := e
    simp only [Sparse.put, hv, if_false]
    rcases Nat.lt_trichotomy k a with hlt | rfl | hgt
    · rw [if_pos hlt]
      simp only [Sparse.get]
      grind
    · rw [if_neg (Nat.lt_irrefl k), if_pos rfl]
      simp only [Sparse.get]
      grind
    · rw [if_neg (by omega), if_neg (by omega)]
      simp only [Sparse.get, ih]
      grind

end

section
variable {s : State} {f : Fld}

theorem State.wr_reg_stored {v : Nat} (hv : f.put (s.reg f.off) v ≠ resetWord f.off) {o : Nat} (ho : o ≠ f.off) : (s.wr f v).reg o = s.reg o :=
  (Sparse.get_put_stored hv s.regs o).trans (if_neg ho)

theorem State.wr_rd_stored {v : Nat} (hv : f.put (s.reg f.off) v ≠ resetWord f.off) (hfits : f.lsb + f.width ≤ 32) :
    (s.wr f v).rd f = v % 2 ^ f.width := by
  have hreg : (s.wr f v).reg f.off = f.put (s.reg f.off) v := (Sparse.get_put_stored hv s.regs f.off).trans (if_pos rfl)
  rw [State.rd, hreg, Fld.get_put_same f _ v hfits]

/-- A field that becomes nonzero makes its word other than 0. -/
theorem Fld.put_ne_zero (hfits : f.lsb + f.width ≤ 32) {w : Word} {v : Nat} (hv : v % 2 ^ f.width ≠ 0) : f.put w v ≠ 0 := by
  intro h0
  have hget := Fld.get_put_same f w v hfits
  rw [h0, Fld.get_eq] at hget
  simp at hget
  omega

/-- A counter that counts leaves every other register alone. -/
theorem State.count_reg_stored (hz : resetWord f.off = 0) (hw : 0 < f.width) (hfits : f.lsb + f.width ≤ 32) {n : Nat} (hn : 0 < n) {o : Nat}
    (ho : o ≠ f.off) : (s.count f n).reg o = s.reg o := by
  have hpow : 2 ≤ 2 ^ f.width := Nat.le_trans (by decide : 2 ≤ 2 ^ 1) (Nat.pow_le_pow_right (by decide) hw)
  refine State.wr_reg_stored ?_ ho
  rw [hz]
  refine Fld.put_ne_zero hfits ?_
  rw [Nat.mod_eq_of_lt (by omega)]
  omega

end

/-! ## Ring links, wraps and unwraps -/

section
variable {p : Fin 2} {s : State}

theorem exec_ringLockLoss_linked (hup : s.mainUp = true) (hl : s.rd (linkFld p) = 1) : exec (.ringLockLoss p) s =
    .next ((((s.wr (linkFld p) 0).count (HLYP_LOCK_LOSS_COUNT p.val) 1).setCause (causeHly 0)).setRport p fun x =>
      { x with lostAt := some s.now, cleanSince := none, unwrapAt := if x.fault then none else x.unwrapAt }) := by
  refine congrArg Host.Outcome.next ((if_pos (by rw [hup, State.flag_of_one hl]; rfl)).trans ?_)
  simp only [State.setCause_now, State.count_now, State.wr_now]

theorem exec_ringLockRegain_lost (hup : s.mainUp = true) (hen : s.portEn p.val = true) (hl : s.rd (linkFld p) = 0)
    (hno : (s.joined && !(s.rport p).fault && s.faultHits p .lock) = false) : exec (.ringLockRegain p) s =
    .next ((((s.wr (linkFld p) 1).wr (delayFld p) 0xFFFF).setCause (causeHly 1)).setRport p fun x =>
      { x with lostAt := none, cleanSince := some s.now, pdHist := [], pdOpen := none }) := by
  refine congrArg Host.Outcome.next ((if_pos (by rw [hup, hen, Bool.eq_false_iff.mpr (State.flag_of_zero hl)]; rfl)).trans ?_)
  rw [if_neg (Bool.eq_false_iff.mp hno)]
  simp only [State.setCause_now, State.wr_now]

/-- What a port notes of a fault before the fault is judged. -/
def State.faultNoted (s : State) (p : Nat) : RingFault → State
  | .lock => s
  | .codeword => s.codeword p
  | .remote => s.setRport p fun y => { y with hearsRf := true }

/-- The register of a port's uncorrectable codewords starts from 0. -/
theorem resetWord_fecUncorr (p : Fin 2) : resetWord (HLYP_FEC_UNCORR_COUNT p.val).off = 0 := by
  revert p
  decide +kernel

theorem State.faultNoted_joined (why : RingFault) : (s.faultNoted p why).joined = s.joined := by
  cases why with
  | lock => rfl
  | remote => rfl
  | codeword =>
    have hne : HLY_STATUS_JOINED.off ≠ (HLYP_FEC_UNCORR_COUNT p.val).off := (hlyp_off_ne p.val 0x2c).symm
    have hreg : (s.count (HLYP_FEC_UNCORR_COUNT p.val) 1).reg HLY_STATUS_JOINED.off = s.reg HLY_STATUS_JOINED.off :=
      State.count_reg_stored (resetWord_fecUncorr p) (show 0 < 32 by decide) (show 0 + 32 ≤ 32 by decide) (by decide) hne
    exact congrArg (fun w => HLY_STATUS_JOINED.get w != 0) hreg

theorem exec_ringFault (hup : s.mainUp = true) (why : RingFault) : exec (.ringFault ⟨p, why⟩) s = .next (
    let u := s.faultNoted p why
    if s.joined && u.faultHits p why then u.portFaults p (decide (why ≠ .remote)) else u) := by
  rw [← State.faultNoted_joined (p := p) why, exec, execRingFault, hup]
  cases why <;> rfl

/-- A fault that hits: the port faults and sends Remote Fault unless that was its cause, and wraps where it has not. -/
theorem State.portFaults_why (u : State) (p : Nat) (why : RingFault) : u.portFaults p (decide (why ≠ .remote)) =
    (let t := u.setRport p fun y => { y with fault := true, unwrapAt := none, cleanSince := if u.flag (linkFld p) then some u.now else none }
    let t := if why = .remote then t else t.sendRf p true
    if t.wrapped p then t
    else
      let t := ((t.wr (wrapFld p) 1).turnQueues p).setCause (causeHly 2)
      let t := (t.report EV_RING_WRAP (src 8 p) 0).addEnd t.ringId p
      t.ringInsert (otherPort p) 5 5 0xFFFF 3 (noticeBytes t.ringId p 0 0) false) := by
  cases why <;> rfl

theorem State.faultHits_lock : s.faultHits p .lock = true ↔
    ∃ a, (s.rport p).lostAt = some a ∧ a + max 6 (s.rd HLY_WRAP_CFG_HOLDOFF) * 1000 < s.now := by
  rw [State.faultHits]
  cases (s.rport p).lostAt with
  | none => simp
  | some a => simp

theorem exec_portClean_due (hup : s.mainUp = true) : ∀ since, s.joined = true → (s.rport p).fault = true → (s.rport p).cleanSince = some since →
    s.rd HLY_WRAP_CFG_RESTORE ≠ 0 → since + s.rd HLY_WRAP_CFG_RESTORE * 1000000 ≤ s.now →
    ((s.rport p).unwrapAt ≠ none ∨ (s.rport p).hearsRf = true → exec (.portClean p) s = .next (s.sendRf p.val false)) ∧
    ((s.rport p).unwrapAt = none → (s.rport p).hearsRf = false → exec (.portClean p) s = .next (
      let t := (s.sendRf p.val false).setRport p fun y => { y with fault := false }
      if p.val = 1 then
        (t.ringInsert 1 5 5 0 3 (noticeBytes t.ringId 1 1 (t.time.ns + 1000000)) false).announceUnwrap 1 (t.time.ns + 1000000)
      else t)) := by
  intro since hj hfault hclean hrestore hdue
  have hexec : exec (.portClean p) s = .next (
      if (s.rport p).unwrapAt.isSome || (s.rport p).hearsRf then s.sendRf p.val false
      else
        let t := (s.sendRf p.val false).setRport p fun y => { y with fault := false }
        if p.val = 1 then
          (t.ringInsert 1 5 5 0 3 (noticeBytes t.ringId 1 1 (t.time.ns + 1000000)) false).announceUnwrap 1 (t.time.ns + 1000000)
        else t) := by
    simp only [exec, execPortClean, hclean]
    exact congrArg Host.Outcome.next (if_pos (by rw [hup, hj, hfault, decide_eq_true ⟨hrestore, hdue⟩]; rfl))
  refine ⟨fun hmore => ?_, fun hnone hquiet => ?_⟩
  · refine hexec.trans (congrArg Host.Outcome.next (if_pos ?_))
    rw [Bool.or_eq_true, Option.isSome_iff_ne_none]
    exact hmore
  · exact hexec.trans (congrArg Host.Outcome.next (if_neg (by rw [hnone, hquiet]; decide)))

theorem exec_unwrap_due (hup : s.mainUp = true) : ∀ u, (s.rport p).unwrapAt = some u → s.wrapped p = true → u ≤ s.time.ns →
    exec (.unwrap p) s = .next (
      let t := ((s.setRport p fun y => { y with unwrapAt := none, fault := false }).sendRf p.val false).wr (wrapFld p) 0
      let t := if p.val = 1 then t.returnQueues else t
      ((t.dropEnd t.ringId p.val).setCause (causeHly 3)).report EV_RING_UNWRAP (src 8 p.val) 0) := by
  intro u hu hw hdue
  simp only [exec, execUnwrap, hu]
  exact congrArg Host.Outcome.next (if_pos (by rw [hup, hw, decide_eq_true hdue]; rfl))

theorem exec_wrapNotice_wrap : ∀ x : RxItem, (s.takeRx p 5 3).1 = some x → let d := x.frame.payload
    let t := (s.takeRx p 5 3).2.purgeEnds
    beAt d 3 1 = 0 → exec (.wrapNotice p) s = .next ((t.setRing fun r => { r with
      unwraps := r.unwraps.filter fun u => ¬ (u.1 = beAt d 0 2 ∧ u.2.1 = beAt d 2 1) }).addEnd (beAt d 0 2) (beAt d 2 1)) := by
  intro x hx d t hkind
  simp only [exec, execWrapNotice, hx]
  exact congrArg Host.Outcome.next (if_pos hkind)

end

/-- Settles O44: the lock's two rows by the link flag, a fault by what the port has noted of it, the unwrap by its times. -/
theorem ringLinks : Obligations.RingLinks := by
  unfold Obligations.RingLinks
  refine fun p s hup => ⟨exec_ringLockLoss_linked hup, exec_ringLockRegain_lost hup, fun why => ?_, exec_portClean_due hup, exec_unwrap_due hup,
    exec_wrapNotice_wrap⟩
  intro u due
  have hnoted : u = s.faultNoted p why := by cases why <;> rfl
  have hdue : (s.faultNoted p why).faultHits p why = true ↔ due := by
    cases why with
    | lock => exact State.faultHits_lock
    | codeword => exact decide_eq_true_iff
    | remote => exact iff_of_true rfl trivial
  have hexec := exec_ringFault (p := p) hup why
  rw [hnoted]
  refine ⟨fun hj hd => ?_, fun hno => ?_⟩
  · exact hexec.trans (congrArg Host.Outcome.next ((if_pos (by rw [hj, hdue.mpr hd]; rfl)).trans (State.portFaults_why _ p why)))
  · refine hexec.trans (congrArg Host.Outcome.next (if_neg fun hits => ?_))
    obtain ⟨hj, hd⟩ := Bool.and_eq_true_iff.mp hits
    exact hno.elim (fun hn => Bool.eq_false_iff.mp hn hj) (fun hn => hn (hdue.mp hd))

end Sys2Proof.Machine

namespace Sys2Proof.Machine
/-! ## What the work of a gate leaves of the port's own gate registers and lists -/

theorem State.setRport_rport (s : State) (p : Nat) (f : RingPort → RingPort) : (s.setRport p f).rport p = f (s.rport p) :=
  Vector.getElem_set_self _

/-- `t` has the control and status registers of port `p`'s gate, and its lists, as `s` has them. -/
structure State.KeepsGate (p : Nat) (s t : State) : Prop where
  inv : t.Inv
  reg : ∀ o, 0x160900 + p * 0x800 ≤ o → o < 0x160920 + p * 0x800 → t.reg o = s.reg o
  oper : (t.rport p).oper = (s.rport p).oper
  pend : (t.rport p).pend = (s.rport p).pend

section
variable {s t u : State} {p : Nat}

theorem State.KeepsGate.refl (hs : s.Inv) : s.KeepsGate p s := ⟨hs, fun _ _ _ => rfl, rfl, rfl⟩

theorem State.KeepsGate.trans (h : s.KeepsGate p t) (k : t.KeepsGate p u) : s.KeepsGate p u :=
  ⟨k.inv, fun o hlo hhi => (k.reg o hlo hhi).trans (h.reg o hlo hhi), k.oper.trans h.oper, k.pend.trans h.pend⟩

theorem State.KeepsGate.rd (h : s.KeepsGate p t) {f : Fld} (hlo : 0x160900 + p * 0x800 ≤ f.off) (hhi : f.off < 0x160920 + p * 0x800) :
    t.rd f = s.rd f := by
  rw [State.rd, State.rd, h.reg f.off hlo hhi]

theorem foldl_keepsGate {β : Type} {f : State → β → State} {l : List β}
    (hf : ∀ (t : State), ∀ x ∈ l, t.Inv → t.KeepsGate p (f t x)) (hs : s.Inv) : s.KeepsGate p (l.foldl f s) := by
  induction l generalizing s with
  | nil => exact State.KeepsGate.refl hs
  | cons x l ih =>
    have h := hf s x List.mem_cons_self hs
    exact h.trans (ih (fun t y hy => hf t y (List.mem_cons_of_mem x hy)) h.inv)

section
variable (hs : s.Inv)
include hs

theorem State.wr_keepsGate {f : Fld} (v : Nat) (hf : f.off < 0x160900 + p * 0x800 ∨ 0x160920 + p * 0x800 ≤ f.off) : s.KeepsGate p (s.wr f v) :=
  ⟨State.wr_inv hs f v, fun _ hlo hhi => State.wr_reg_other hs f v (by omega), rfl, rfl⟩

theorem State.setRing_keepsGate {f : Ring → Ring} (hf : (f s.ring).ports = s.ring.ports) : s.KeepsGate p (s.setRing f) := by
  have hport : (s.setRing f).rport p = s.rport p := congrArg (fun v : Vector RingPort 2 => v[Fin.ofNat 2 p]) hf
  exact ⟨(State.setRing_kept f hs).inv, fun _ _ _ => rfl, by rw [hport], by rw [hport]⟩

theorem State.setRqueue_keepsGate {q : Nat} (hq : q < 8) (l : List TxItem) : s.KeepsGate p (s.setRqueue p q l) := by
  have hport (f : RingPort → RingPort) (ho : ∀ x, (f x).oper = x.oper) (hp : ∀ x, (f x).pend = x.pend) : s.KeepsGate p (s.setRport p f) :=
    ⟨(State.setRport_kept p f hs).inv, fun _ _ _ => rfl, by rw [State.setRport_rport, ho], by rw [State.setRport_rport, hp]⟩
  have h1 := hport (fun x => { x with
    queues := x.queues.set (Fin.ofNat 8 q) l
    deficit := if q < 5 ∧ l = [] then x.deficit.set (Fin.ofNat 5 q) 0 else x.deficit }) (fun _ => rfl) (fun _ => rfl)
  exact h1.trans (State.wr_keepsGate h1.inv _ (.inl (show 0x160800 + p * 0x800 + 0x80 + q * 4 < 0x160900 + p * 0x800 by omega)))

theorem State.dropQ_keepsGate (q : Nat) (f : HFrame) : s.KeepsGate p (s.dropQ p q f) := by
  have h1 := State.wr_keepsGate hs (p := p) (f := HLYQ_DROP_FRAMES_COUNT p q)
    (min (s.rd (HLYQ_DROP_FRAMES_COUNT p q) + 1) (2 ^ (HLYQ_DROP_FRAMES_COUNT p q).width - 1)) (.inr (show _ ≤ 0x160800 + p * 0x800 + 0x60c + q * 0x20 by omega))
  have h2 (v : Nat) := h1.trans (State.wr_keepsGate h1.inv (f := HLYQ_DROP_BYTES_LO_BYTES p q) v (.inr (show _ ≤ 0x160800 + p * 0x800 + 0x610 + q * 0x20 by omega)))
  exact (h2 _).trans (State.wr_keepsGate (h2 _).inv _ (.inr (show _ ≤ 0x160800 + p * 0x800 + 0x614 + q * 0x20 by omega)))

theorem State.bulkDoneGone_keepsGate (f : HFrame) : s.KeepsGate p (s.bulkDoneGone f) := by
  rw [State.bulkDoneGone]
  split
  · exact State.setRing_keepsGate hs rfl
  · exact State.KeepsGate.refl hs

theorem State.dropLong_keepsGate : s.KeepsGate p (s.dropLong p) := by
  rw [State.dropLong]
  split
  · exact State.KeepsGate.refl hs
  · refine foldl_keepsGate (fun t q hq ht => ?_) hs
    have hq7 := List.mem_range.mp hq
    dsimp only
    split
    · exact State.KeepsGate.refl ht
    · split
      · exact State.KeepsGate.refl ht
      · have hdrops (l : List TxItem) := foldl_keepsGate (p := p) (l := l) (f := fun (t : State) (x : TxItem) => (t.dropQ p q x.frame).bulkDoneGone x.frame)
          (fun t x _ ht => (State.dropQ_keepsGate ht q x.frame).trans (State.bulkDoneGone_keepsGate (State.dropQ_keepsGate (p := p) ht q x.frame).inv x.frame)) ht
        exact (hdrops _).trans (State.setRqueue_keepsGate (hdrops _).inv (by omega) _)

theorem State.reported_keepsGate (hp : p < 2) {c : Cause} (hc : c.off < 0x160900) (code source detail : Nat) :
    s.KeepsGate p ((s.setCause c).report code source detail) := by
  have hi : (s.setCause c).Inv := (State.setCause_kept c hs).inv
  have hring : ((s.setCause c).report code source detail).ring = s.ring := by rw [State.report_ring, State.setCause_ring]
  have hport : ((s.setCause c).report code source detail).rport p = s.rport p := congrArg (fun r : Ring => r.ports[Fin.ofNat 2 p]) hring
  exact ⟨(State.report_kept code source detail hi).inv,
    fun o hlo hhi => (State.report_keepsReg hi code source detail (by omega)).reg.trans (State.setCause_reg_other hs (by omega)),
    by rw [hport], by rw [hport]⟩

theorem State.horizonFlag_keepsGate (hp : p < 2) {f : Fld} (hf : f.off < 0x160900) (v : Bool) : s.KeepsGate p (s.horizonFlag f v) := by
  have h := State.wr_keepsGate hs (p := p) (f := f) (b2n v) (.inl (by omega))
  rw [State.horizonFlag]
  split
  · exact h.trans (State.reported_keepsGate h.inv hp (by decide) _ _ _)
  · exact h

theorem State.recomputeHorizon_keepsGate (hp : p < 2) : s.KeepsGate p s.recomputeHorizon := by
  have h1 := State.setRing_keepsGate hs (p := p) (f := fun x => { x with hzDelays := #v[s.linkNs 0, s.linkNs 1] }) rfl
  have h2 := h1.trans (State.wr_keepsGate h1.inv (f := HLY_L_RING_NS) (min s.horizonL.1 0x7FFFFF) (.inl (show 0x16001c < _ by omega)))
  have h3 := h2.trans (State.wr_keepsGate h2.inv (f := HLY_L_WRAP_NS) (min s.horizonL.2 0x7FFFFF) (.inl (show 0x160020 < _ by omega)))
  have h4 (v : Bool) := h3.trans (State.horizonFlag_keepsGate h3.inv hp (f := HLY_STATUS_HORIZON_EXCEEDED) (by decide) v)
  exact (h4 _).trans (State.horizonFlag_keepsGate (h4 _).inv hp (by decide) _)

theorem State.gateStart_keepsGate (n : Nat) : s.KeepsGate p (s.gateStart p n) := by
  have h1 := State.wr_keepsGate hs (p := p) (f := HLYQ_GATE_START_SEC_LO_SEC p) (n / 1000000000 % 2 ^ 32) (.inr (show _ ≤ 0x160800 + p * 0x800 + 0x120 by omega))
  have h2 := h1.trans (State.wr_keepsGate h1.inv (f := HLYQ_GATE_START_SEC_HI_SEC p) (n / 1000000000 / 2 ^ 32) (.inr (show _ ≤ 0x160800 + p * 0x800 + 0x124 by omega)))
  exact h2.trans (State.wr_keepsGate h2.inv _ (.inr (show _ ≤ 0x160800 + p * 0x800 + 0x128 by omega)))

end

theorem State.operEntries_keepsGate (hs : s.Inv) (g : GateList) : s.KeepsGate p ((List.range g.entries.length).foldl (fun t e =>
    t.wr (HLYQ_GATE_OPER_ENTRY p e) ((g.entries.getD e (0, 0)).1 + (g.entries.getD e (0, 0)).2 * 256)) s) :=
  foldl_keepsGate (fun _ e _ ht => State.wr_keepsGate ht _ (.inr (show _ ≤ 0x160800 + p * 0x800 + 0x400 + e * 4 by omega))) hs

/-- The three fields of a gate's status, written one after the other. -/
theorem State.gateStatus_spec (hs : s.Inv) (p n : Nat) :
    let t := ((s.wr (HLYQ_GATE_STATUS_PENDING p) 0).wr (HLYQ_GATE_STATUS_RUNNING p) (s.rd (HLYQ_GATE_CTRL_EN p))).wr (HLYQ_GATE_STATUS_ENTRY p) n
    t.Inv ∧ t.rd (HLYQ_GATE_STATUS_PENDING p) = 0 ∧ t.rd (HLYQ_GATE_STATUS_RUNNING p) = s.rd (HLYQ_GATE_CTRL_EN p) ∧ t.rport p = s.rport p := by
  intro t
  have h1 := State.wr_inv hs (HLYQ_GATE_STATUS_PENDING p) 0
  have h2 := State.wr_inv h1 (HLYQ_GATE_STATUS_RUNNING p) (s.rd (HLYQ_GATE_CTRL_EN p))
  refine ⟨State.wr_inv h2 _ _, ?_, ?_, rfl⟩
  · have hentry := State.wr_rd_beside h2 (HLYQ_GATE_STATUS_ENTRY p) (HLYQ_GATE_STATUS_PENDING p) n (show 8 + 7 ≤ 32 by decide) rfl
      (.inl (show 0 + 1 ≤ 8 by decide))
    have hrunning := State.wr_rd_beside h1 (HLYQ_GATE_STATUS_RUNNING p) (HLYQ_GATE_STATUS_PENDING p) (s.rd (HLYQ_GATE_CTRL_EN p))
      (show 3 + 1 ≤ 32 by decide) rfl (.inl (show 0 + 1 ≤ 3 by decide))
    exact hentry.trans (hrunning.trans (State.wr_rd_same hs (HLYQ_GATE_STATUS_PENDING p) 0 (show 0 + 1 ≤ 32 by decide)))
  · have hentry := State.wr_rd_beside h2 (HLYQ_GATE_STATUS_ENTRY p) (HLYQ_GATE_STATUS_RUNNING p) n (show 8 + 7 ≤ 32 by decide) rfl
      (.inl (show 3 + 1 ≤ 8 by decide))
    have hset := State.wr_rd_same h1 (HLYQ_GATE_STATUS_RUNNING p) (s.rd (HLYQ_GATE_CTRL_EN p)) (show 3 + 1 ≤ 32 by decide)
    exact hentry.trans (hset.trans (Nat.mod_eq_of_lt (s.rd_lt _)))

/-- A pending gate list whose time has come: it is in force, nothing is pending, and RUNNING is the gate's EN. -/
theorem State.gateOperate_spec (hs : s.Inv) (hp : p < 2) {g : GateList} (hpend : (s.rport p).pend = some g) (hstart : g.start ≤ s.time.ns) :
    let t := s.gateOperate p
    (t.rport p).oper = some g ∧ (t.rport p).pend = none ∧ t.rd (HLYQ_GATE_STATUS_PENDING p) = 0 ∧
    t.rd (HLYQ_GATE_STATUS_RUNNING p) = s.rd (HLYQ_GATE_CTRL_EN p) := by
  rw [State.gateOperate, hpend]
  simp only [show ¬ s.time.ns < g.start by omega, if_false]
  generalize ha : s.setRport p (fun x => { x with oper := some g, pend := none }) = a
  have hai : a.Inv := by rw [← ha]; exact (State.setRport_kept p _ hs).inv
  have hport : a.rport p = { s.rport p with oper := some g, pend := none } := by rw [← ha, State.setRport_rport]
  have hlist := State.operEntries_keepsGate hai (p := p) g
  generalize hb : (List.range g.entries.length).foldl (fun t e =>
      t.wr (HLYQ_GATE_OPER_ENTRY p e) ((g.entries.getD e (0, 0)).1 + (g.entries.getD e (0, 0)).2 * 256)) a = b at hlist ⊢
  have hen : b.rd (HLYQ_GATE_CTRL_EN p) = s.rd (HLYQ_GATE_CTRL_EN p) := by
    rw [hlist.rd (show 0x160900 + p * 0x800 ≤ 0x160800 + p * 0x800 + 0x100 by omega) (show 0x160800 + p * 0x800 + 0x100 < _ by omega), ← ha,
      State.setRport_rd]
  obtain ⟨hdi, hd0, hd1, hdport⟩ := State.gateStatus_spec hlist.inv p (g.entryAt b.time.ns)
  generalize hd : ((b.wr (HLYQ_GATE_STATUS_PENDING p) 0).wr (HLYQ_GATE_STATUS_RUNNING p) (b.rd (HLYQ_GATE_CTRL_EN p))).wr
    (HLYQ_GATE_STATUS_ENTRY p) (g.entryAt b.time.ns) = d at hdi hd0 hd1 hdport ⊢
  have hwork (w : Nat) : d.KeepsGate p (((d.gateStart p g.start).wr HLY_GATE_WAIT_NS w).dropLong p) := by
    have h1 := State.gateStart_keepsGate hdi (p := p) g.start
    have h2 := h1.trans (State.wr_keepsGate h1.inv (f := HLY_GATE_WAIT_NS) w (.inl (show 0x160034 < _ by omega)))
    exact h2.trans (State.dropLong_keepsGate h2.inv)
  have hdone (w : Nat) (c : Prop) [Decidable c] : d.KeepsGate p (if c then ((d.gateStart p g.start).wr HLY_GATE_WAIT_NS w).dropLong p
      else (((d.gateStart p g.start).wr HLY_GATE_WAIT_NS w).dropLong p).recomputeHorizon) := by
    split
    · exact hwork w
    · exact (hwork w).trans (State.recomputeHorizon_keepsGate (hwork w).inv hp)
  have hspec (e : State) (h : d.KeepsGate p e) : (e.rport p).oper = some g ∧ (e.rport p).pend = none ∧
      e.rd (HLYQ_GATE_STATUS_PENDING p) = 0 ∧ e.rd (HLYQ_GATE_STATUS_RUNNING p) = s.rd (HLYQ_GATE_CTRL_EN p) := by
    have hlo : 0x160900 + p * 0x800 ≤ 0x160800 + p * 0x800 + 0x11c := by omega
    have hhi : 0x160800 + p * 0x800 + 0x11c < 0x160920 + p * 0x800 := by omega
    exact ⟨by rw [h.oper, hdport, hlist.oper, hport], by rw [h.pend, hdport, hlist.pend, hport], (h.rd hlo hhi).trans hd0,
      (h.rd hlo hhi).trans (hd1.trans hen)⟩
  exact hspec _ (hdone _ _)

end

/-! ## Bulk transfers, egress and gates -/

section
variable {p : Fin 2} {s : State}

theorem exec_bulk {x : RxItem} (hx : (s.rport p).rx.find? (fun x => x.frame.cls < 5) = some x) :
    let t := s.setRport p fun y => { y with rx := y.rx.eraseP fun z => decide (z.frame.cls < 5) }
    let off := beAt x.frame.payload 0 8
    let data := x.frame.payload.drop 8
    (t.bulkWindow = none ∨ (∃ b n, t.bulkWindow = some (b, n) ∧ n < off + data.length) → exec (.bulk p) s = .next ((((t.count (HLYP_WIN_BOUND_COUNT p.val) 1).rxDrop p.val x.frame).setCause
      (causeHly 10)).report EV_PROT_BOUND (src 8 0) (detailAddr (t.rd HLY_WIN_LO_ADDR * 2 ^ 16 + t.rd HLY_WIN_HI_ADDR * 2 ^ 32 + off) reqHly 0))) ∧
    (∀ b n, t.bulkWindow = some (b, n) → off + data.length ≤ n → exec (.bulk p) s = .next (
      let v := (t.memWrite reqHly (b + off) data false).2
      let key := (x.frame.src, x.frame.stream)
      v.setRing fun r => { r with bulkRx := (key, (v.ring.bulkRx.lookup key).getD 0 + 1) :: r.bulkRx.filter fun e => e.1 ≠ key })) := by
  intro t off data
  have hexec : exec (.bulk p) s = .next (match (match t.bulkWindow with
      | some (b, n) => if off + data.length ≤ n then some (b + off) else none
      | none => none) with
    | none =>
      (((t.count (HLYP_WIN_BOUND_COUNT p.val) 1).rxDrop p.val x.frame).setCause (causeHly 10)).report EV_PROT_BOUND (src 8 0)
        (detailAddr (t.rd HLY_WIN_LO_ADDR * 2 ^ 16 + t.rd HLY_WIN_HI_ADDR * 2 ^ 32 + off) reqHly 0)
    | some a =>
      let v := (t.memWrite reqHly a data false).2
      let key := (x.frame.src, x.frame.stream)
      v.setRing fun r => { r with bulkRx := (key, (v.ring.bulkRx.lookup key).getD 0 + 1) :: r.bulkRx.filter fun e => e.1 ≠ key }) := by
    rw [exec, execBulk, hx] <;> rfl
  refine ⟨fun hout => hexec.trans (congrArg Host.Outcome.next ?_), fun b n hwin hfits => hexec.trans (congrArg Host.Outcome.next ?_)⟩
  · rcases hout with hnone | ⟨b, n, hwin, hbeyond⟩
    · rw [hnone]
    · rw [hwin]
      simp only [if_neg (show ¬ off + data.length ≤ n by omega)]
  · rw [hwin]
    simp only [if_pos hfits]

theorem exec_bulkDone_ready {x : RxItem} (hx : (s.rport p).rx.find? (fun x => decide (x.frame.cls = 5 ∧ x.frame.stream = 4)) = some x)
    (hquiet : ∀ q : Fin 2, ∀ y ∈ (s.rport q).rx, ¬ (y.frame.cls < 5 ∧ y.frame.src = x.frame.src ∧ y.frame.stream = beAt x.frame.payload 0 2)) :
    exec (.bulkDone p) s = .next (let t := (s.takeRx p 5 4).2
      let key := (x.frame.src, beAt x.frame.payload 0 2)
      (t.setRing fun r => { r with bulkRx := r.bulkRx.filter fun e => e.1 ≠ key }).ringControl x.frame.src 5
        (beBytes 2 (beAt x.frame.payload 0 2) ++ [0, 0] ++ beBytes 4 ((t.ring.bulkRx.lookup key).getD 0))) := by
  have hidle (q : Fin 2) : (s.rport q).rx.any (fun y => decide (y.frame.cls < 5 ∧ y.frame.src = x.frame.src ∧
      y.frame.stream = beAt x.frame.payload 0 2)) = false := by
    rw [List.any_eq_false]
    intro y hy
    rw [decide_eq_true_eq]
    exact hquiet q y hy
  rw [exec, execBulkDone, hx]
  refine if_neg (fun hwaits => ?_)
  rw [Bool.or_eq_true] at hwaits
  exact hwaits.elim (Bool.eq_false_iff.mp (hidle 0)) (Bool.eq_false_iff.mp (hidle 1))

theorem State.takeRx_bulkTx (s : State) (p cls stream : Nat) : (s.takeRx p cls stream).2.ring.bulkTx = s.ring.bulkTx := by
  rw [State.takeRx]
  split <;> rfl

/-- An acknowledgement of the transfer at the head of the list that arrives in time ends it, or repeats it. -/
theorem exec_bulkAck_first {x : RxItem} {b : BulkTx} {more : List BulkTx} (hx : (s.takeRx p 5 5).1 = some x) (htx : s.ring.bulkTx = b :: more)
    (hxfer : b.xfer = beAt x.frame.payload 0 2) (hdest : b.dest = x.frame.src) (hdone : b.doneSent = true)
    (htime : ∀ e, b.deadline = some e → x.rxNow ≤ e) : let t := (s.takeRx p 5 5).2
    exec (.bulkAck p) s = .next (if beAt x.frame.payload 4 4 = bulkFrames b.bytes then t.bulkEnd b.xfer stOK else t.bulkRetry b) := by
  intro t
  have hintime : b.deadline.all (fun e => decide (x.rxNow ≤ e)) = true := by
    cases hb : b.deadline with
    | none => rfl
    | some e => exact decide_eq_true (htime e hb)
  have hfind : t.ring.bulkTx.find? (fun b => decide (b.xfer = beAt x.frame.payload 0 2 ∧ b.dest = x.frame.src ∧ b.doneSent) &&
      b.deadline.all (fun t => decide (x.rxNow ≤ t))) = some b := by
    rw [show t.ring.bulkTx = s.ring.bulkTx from s.takeRx_bulkTx p 5 5, htx]
    exact List.find?_cons_of_pos (by rw [decide_eq_true ⟨hxfer, hdest, hdone⟩, hintime]; rfl)
  simp only [exec, execBulkAck, hx, show (s.takeRx p 5 5).2.ring.bulkTx.find? _ = some b from hfind] <;> rfl

theorem exec_bulkAckTimeout_first {b : BulkTx} {more : List BulkTx} {t : Nat} (hserving : s.serving = true) (htx : s.ring.bulkTx = b :: more)
    (hdeadline : b.deadline = some t) (hlate : t < s.now) (hwaits : s.bulkAckWaits b t = false) :
    exec .bulkAckTimeout s = .next (if b.attempts < 3 then s.bulkSend b else s.bulkEnd b.xfer stREMOTE_TIMEOUT) := by
  simp only [exec, execBulkAckTimeout, htx]
  rw [List.find?_cons_of_pos (by simp only [hdeadline, hwaits, hlate, decide_true, Bool.not_false, Bool.and_self])]
  exact congrArg Host.Outcome.next (if_pos hserving)

theorem exec_gateListStart : exec (.gateListStart p) s = .next (s.gateOperate p.val) := rfl

end

/-- Settles O45: a frame by the window, a transfer by its acknowledgement and its time, the gate rows by the list that pends. -/
theorem ringTraffic : Obligations.RingTraffic := by
  unfold Obligations.RingTraffic
  refine fun p s => ⟨fun x => exec_bulk, fun x => exec_bulkDone_ready, fun x b more hx htx hxfer hdest hdone htime => ?_,
    fun b more t => exec_bulkAckTimeout_first, fun hup => ?_, fun g hg => ?_, fun g hpend => ⟨fun hearly => ?_, fun hs hdue => ?_⟩⟩
  · have hexec := exec_bulkAck_first hx htx hxfer hdest hdone htime
    exact ⟨fun hall => hexec.trans (congrArg Host.Outcome.next (if_pos hall)),
      fun hnot hmore => hexec.trans (congrArg Host.Outcome.next ((if_neg hnot).trans (if_pos hmore))),
      fun hnot hlast => hexec.trans (congrArg Host.Outcome.next ((if_neg hnot).trans (if_neg (by omega))))⟩
  · exact congrArg Host.Outcome.next (State.when_yes hup)
  · simp only [exec, execGateEntryAdvance, hg]
  · rw [exec_gateListStart, State.gateOperate, hpend]
    exact congrArg Host.Outcome.next (if_pos hearly)
  · exact ⟨_, exec_gateListStart, rfl, State.gateOperate_spec hs p.isLt hpend hdue⟩

end Sys2Proof.Machine

namespace Sys2Proof.Machine
/-! ## Densum lines -/

section
variable {s : State} (hup : s.mainUp = true)
include hup

theorem exec_dsmRead (r : Fin 9) (line : BitVec 21) (ups : List (Nat × Nat)) : let la := dsmBase + line.toNat * 64
    let t := s.upset la ups
    (t.dsmAllowed r.val (la - dsmBase) false = true → exec (.dsmRead r line ups) s = .next (let a := t.dsmRawRead la
      a.2.emit (.dsmRead r.val a.1.data a.1.poison a.1.err))) ∧
    (t.dsmAllowed r.val (la - dsmBase) false = false → exec (.dsmRead r line ups) s = .next (
      let v := (t.dsmPermErr r.val la).freeLine
      v.2.emit (.dsmRead r.val v.1 true true))) := by
  intro la t
  have hexec : exec (.dsmRead r line ups) s = .next ((t.dsmReadLine r.val la).2.emit (.dsmRead r.val (t.dsmReadLine r.val la).1.data
      (t.dsmReadLine r.val la).1.poison (t.dsmReadLine r.val la).1.err)) := congrArg Host.Outcome.next (State.when_yes hup)
  refine ⟨fun hok => ?_, fun hno => ?_⟩
  · have hline : t.dsmReadLine r.val la = t.dsmRawRead la := if_pos hok
    rw [hexec, hline]
  · have hline : t.dsmReadLine r.val la = (⟨(t.dsmPermErr r.val la).freeLine.1, true, true, 0, 0⟩, (t.dsmPermErr r.val la).freeLine.2) :=
      if_neg (Bool.eq_false_iff.mp hno)
    rw [hexec, hline]

theorem exec_dsmWrite_held {r : Fin 9} {k : Fin 2} (hk : s.coreHeld k = true) (addr : BitVec 27) (data : List (Option Byte)) (pois : Bool) :
    exec (.dsmWrite ⟨r, some k⟩ addr data pois) s = .next s :=
  congrArg Host.Outcome.next (State.when_no (by rw [hup, Option.any_some, hk]; rfl))

theorem exec_dsmWrite_free {r : Fin 9} {core : Option (Fin 2)} (hcore : ∀ k, core = some k → s.coreHeld k = false) (addr : BitVec 27)
    (data : List (Option Byte)) (pois : Bool) : let a := dsmBase + addr.toNat
    exec (.dsmWrite ⟨r, core⟩ addr data pois) s = .next (if s.dsmAllowed r.val addr.toNat true then
      s.dsmRawWrite a (data.take (64 - addr.toNat % 64)) pois else (s.dsmPermErr r.val (a / 64 * 64)).emit (.dsmWriteErr r.val addr.toNat)) := by
  intro a
  have hnone : core.any (fun k => s.coreHeld k) = false := by
    cases hc : core with
    | none => rfl
    | some k => exact hcore k hc
  refine congrArg Host.Outcome.next ((State.when_yes (by rw [hup, Bool.true_and, Bool.not_eq_true']; exact hnone)).trans ?_)
  simp only [State.dsmWriteLine, Nat.add_sub_cancel_left]
  split <;> rfl

end

section
variable {s : State} {page : BitVec 15} {x : PageSeal} (hx : s.pageSeal page.toNat = some x)
include hx

theorem exec_sealPage_early (hnot : x.isSealed = true ∨ x.failed = true ∨ s.now ≤ x.lastWrite + 1000 * max 16 (s.rd DSM_SEAL_CTRL_QUIET)) :
    exec (.sealPage page) s = .next s := by
  simp only [exec, execSealPage, hx]
  refine if_pos ?_
  rw [Bool.or_eq_true, Bool.or_eq_true, decide_eq_true_eq, or_assoc]
  exact hnot

variable (hopen : x.isSealed = false) (hgood : x.failed = false) (hquiet : x.lastWrite + 1000 * max 16 (s.rd DSM_SEAL_CTRL_QUIET) < s.now)
include hopen hgood hquiet

/-- A page that has been quiet is read line by line: its first bad line fails it, none seals it. -/
theorem exec_sealPage_quiet : exec (.sealPage page) s =
    match (List.range 64).find? fun i => (s.innerRead (lineKey page.toNat i)).bad with
    | some i => .next (
        let t := (List.range (i + 1)).foldl (fun t j => t.sealRead (lineKey page.toNat j)) s
        (((t.setPage page.toNat ⟨x.isSealed, x.lastWrite, true⟩).count DSM_SEAL_FAIL_COUNT 1).setCause (causeDsm 3)).report EV_SEAL_FAIL (src 2 0)
          (detailAddr (lineKey page.toNat i) 0xFF 0))
    | none => .next (
        let ls := (List.range 64).map fun i => (i, (s.innerRead (lineKey page.toNat i)).data)
        let t := (List.range 64).foldl (fun t j => t.sealRead (lineKey page.toNat j)) s
        (t.writeParity page.toNat ls).setPage page.toNat ⟨true, x.lastWrite, false⟩) := by
  simp only [exec, execSealPage, hx]
  refine (if_neg ?_).trans ?_
  · rw [hopen, hgood, Bool.false_or, Bool.false_or, decide_eq_true_eq]
    omega
  · cases (List.range 64).find? fun i => (s.innerRead (lineKey page.toNat i)).bad <;> rfl

theorem exec_sealPage_seals (hall : ∀ i, i < 64 → (s.innerRead (lineKey page.toNat i)).bad = false) : exec (.sealPage page) s = .next (
    let ls := (List.range 64).map fun i => (i, (s.innerRead (lineKey page.toNat i)).data)
    let t := (List.range 64).foldl (fun t j => t.sealRead (lineKey page.toNat j)) s
    (t.writeParity page.toNat ls).setPage page.toNat ⟨true, x.lastWrite, false⟩) := by
  have hfind : (List.range 64).find? (fun i => (s.innerRead (lineKey page.toNat i)).bad) = none :=
    List.find?_range_eq_none.mpr fun i hi => by rw [hall i hi]; rfl
  rw [exec_sealPage_quiet hx hopen hgood hquiet, hfind]

theorem exec_sealPage_fails {i : Nat} (hi : i < 64) (hbad : (s.innerRead (lineKey page.toNat i)).bad = true)
    (hfirst : ∀ j, j < i → (s.innerRead (lineKey page.toNat j)).bad = false) : exec (.sealPage page) s = .next (
    let t := (List.range (i + 1)).foldl (fun t j => t.sealRead (lineKey page.toNat j)) s
    (((t.setPage page.toNat ⟨x.isSealed, x.lastWrite, true⟩).count DSM_SEAL_FAIL_COUNT 1).setCause (causeDsm 3)).report EV_SEAL_FAIL (src 2 0)
      (detailAddr (lineKey page.toNat i) 0xFF 0)) := by
  have hfind : (List.range 64).find? (fun i => (s.innerRead (lineKey page.toNat i)).bad) = some i :=
    List.find?_range_eq_some.mpr ⟨hbad, List.mem_range.mpr hi, fun j hj => by rw [hfirst j hj]; rfl⟩
  rw [exec_sealPage_quiet hx hopen hgood hquiet, hfind]

end

/-- Settles O48: accesses by the region check and the core that writes, a page by its quiet time and its first bad line. -/
theorem densumLines : Obligations.DensumLines := by
  unfold Obligations.DensumLines
  refine fun s hup => ⟨exec_dsmRead hup, fun r core addr data pois => ⟨fun k hk hheld => ?_, fun hcore => exec_dsmWrite_free hup hcore addr data pois⟩,
    fun page x hx => ⟨exec_sealPage_early hx, exec_sealPage_seals hx, fun hopen hgood hquiet i => exec_sealPage_fails hx hopen hgood hquiet⟩⟩
  subst hk
  exact exec_dsmWrite_held hup hheld addr data pois

end Sys2Proof.Machine

namespace Sys2Proof.Machine
/-! ## The commands of Densum -/

section
variable {c : FwCmd} {rest : List FwCmd} {s : State}

theorem exec_dsmOverride (h : s.Begins 0x0702 c rest) : let u := s.begun c rest
    exec .dsmOverride s = .next (if leAt c.payload 0 8 = s.fuses.serial then u.dsmOverride.ok c else u.fail c stBAD_PARAM) := by
  rw [exec, execDsmOverride, State.serve_begins _ h (by decide), State.begun_fuses]

theorem exec_dsmRegionAlloc_new (h : s.Begins 0x0710 c rest) : let u := s.begun c rest
    let d := c.payload
    leAt d 0 4 ≠ 0 → leAt d 0 4 % 65536 = 0 → leAt d 4 1 ≤ 1 → leAt d 6 2 < 512 → leAt d 8 2 < 512 → s.took c = [] →
    let r := u.dsmNewRegion (leAt d 0 4 / 65536) (leAt d 6 2) (leAt d 8 2) (decide (leAt d 4 1 = 1)) true
    (r = none → exec .dsmRegionAlloc s = .next (u.fail c stREJECTED_DENSUM)) ∧
    (∀ k t, r = some (k, t) → exec .dsmRegionAlloc s = .next ((t.take c [k]).finish c stOK (t.allocResp k))) := by
  intro u d hn hsize hcls hrd hwr htook r
  have hgood : ¬ (leAt d 0 4 = 0 ∨ leAt d 0 4 % 65536 ≠ 0 ∨ 1 < leAt d 4 1 ∨ 512 ≤ leAt d 6 2 ∨ 512 ≤ leAt d 8 2) := by omega
  have hexec : exec .dsmRegionAlloc s = .next (match r with
      | none => u.fail c stREJECTED_DENSUM
      | some r => (r.2.take c [r.1]).finish c stOK (r.2.allocResp r.1)) := by
    rw [exec, execDsmRegionAlloc, State.serve_begins _ h (by decide)]
    refine congrArg Host.Outcome.next ((if_neg hgood).trans ?_)
    simp only [State.begun_took, htook]
    rfl
  exact ⟨fun hr => by rw [hexec, hr], fun k t hr => by rw [hexec, hr]⟩

theorem exec_dsmRegionFree (h : s.Begins 0x0711 c rest) : let u := s.begun c rest
    let k := leAt c.payload 0 1
    (63 < k ∨ s.rd (DSM_REG_CTRL_EN k) = 0 ∨ s.rd (DSM_REG_CTRL_OWNER k) = 0 → exec .dsmRegionFree s = .next (u.fail c stBAD_PARAM)) ∧
    (k ≤ 63 → s.rd (DSM_REG_CTRL_EN k) = 1 → s.rd (DSM_REG_CTRL_OWNER k) = 1 →
      let lo := dsmBase + (u.regionSpan k).1
      let hi := dsmBase + (u.regionSpan k).2
      exec .dsmRegionFree s = .next (if u.usedSpans.any fun x => decide (x.2 ≠ 0 ∧ x.1 < hi ∧ lo < x.1 + x.2) then u.fail c stBUSY
        else (u.dsmFreeRegion k).ok c)) := by
  intro u k
  have hclear (f : Fld) (h0 : u.rd f = 0) : (!u.flag f) = true := by
    rw [Bool.not_eq_true', Bool.eq_false_iff]
    exact State.flag_of_zero h0
  have hset (f : Fld) (h1 : u.rd f = 1) : ¬ (!u.flag f) = true := by rw [State.flag_of_one h1]; decide
  have hrd (f : Fld) : u.rd f = s.rd f := State.begun_rd f
  rw [exec, execDsmRegionFree, State.serve_begins _ h (by decide)]
  refine ⟨fun hbad => congrArg Host.Outcome.next (if_pos ?_), fun hk hen hown => congrArg Host.Outcome.next (if_neg ?_)⟩
  · exact hbad.imp id (Or.imp (fun h0 => hclear _ ((hrd _).trans h0)) (fun h0 => hclear _ ((hrd _).trans h0)))
  · exact fun e => e.elim (fun hlt => absurd hk (by omega)) (fun e => e.elim (hset _ ((hrd _).trans hen)) (hset _ ((hrd _).trans hown)))

theorem exec_scrub_good (h : s.Begins 0x0720 c rest) : let u := s.begun c rest
    let d := c.payload
    leAt d 0 8 % 4096 = 0 → leAt d 8 4 % 4096 = 0 → leAt d 8 4 ≠ 0 → inDsm (leAt d 0 8) = true →
    leAt d 0 8 + leAt d 8 4 ≤ dsmBase + dsmSize → exec .scrub s = .next (if s.dsm.scrub.isSome then u.fail c stBUSY
      else
        let job : ScrubJob := ⟨leAt d 0 8, leAt d 0 8 + leAt d 8 4, leAt d 0 8, (leAt d 12 1).testBit 0, 0, 0, 0, 0, 0, 0, 0, [], false, 0⟩
        ((u.setDsm fun x => { x with scrub := some job }).wr DSM_STATUS_SCRUB_BUSY 1).waitFor c .scrub) := by
  intro u d hbase hlen hn hdsm hend
  have hspan : ¬ (!inDsm (leAt d 0 8) || decide (dsmBase + dsmSize < leAt d 0 8 + leAt d 8 4)) = true := by
    rw [hdsm, decide_eq_false (Nat.not_lt.mpr hend)]
    decide
  rw [exec, execScrub, State.serve_begins _ h (by decide), State.begun_dsm]
  exact congrArg Host.Outcome.next ((if_neg (show ¬ (leAt d 0 8 % 4096 ≠ 0 ∨ leAt d 8 4 % 4096 ≠ 0 ∨ leAt d 8 4 = 0) by omega)).trans (if_neg hspan))

theorem exec_dsmRepair_new (h : s.Begins 0x0730 c rest) : let u := s.begun c rest
    let d := c.payload
    ∀ adc, leAt d 0 1 ≤ 65 → leAt d 1 1 ≤ 1 → leAt d 2 2 ≤ (if leAt d 1 1 = 1 then 127 else 2047) → s.took c = [] →
    let col := decide (leAt d 1 1 = 1)
    (leAt d 4 1).testBit 0 = false →
    (u.freeSpare (leAt d 0 1) col = none → exec (.dsmRepair adc) s = .next (u.fail c stBAD_PARAM)) ∧
    ∀ sp, u.freeSpare (leAt d 0 1) col = some sp → exec (.dsmRepair adc) s = .next (if s.dsm.repair.isSome then u.fail c stBUSY
      else
        let lines := (repairLines (leAt d 0 1) col (leAt d 2 2)).map fun x => lineKey x.1 x.2
        let job : RepairJob := ⟨leAt d 0 1, col, leAt d 2 2, sp, false, lines, [], [], [], false⟩
        (((u.take c [sp, leAt d 0 1, leAt d 1 1, leAt d 2 2]).setDsm fun x => { x with repair := some job }).wr DSM_STATUS_REPAIR_BUSY 1).waitFor c .repair) := by
  intro u d adc hbank hkind hidx htook col hper
  have hgood : ¬ (65 < leAt d 0 1 ∨ 1 < leAt d 1 1 ∨ (if col = true then 127 else 2047) < leAt d 2 2) := by
    rw [show (if col = true then 127 else 2047) = if leAt d 1 1 = 1 then 127 else 2047 from if_congr decide_eq_true_iff rfl rfl]
    omega
  rw [exec, execDsmRepair, State.serve_begins _ h (by decide)]
  refine ⟨fun hfree => congrArg Host.Outcome.next ((if_neg hgood).trans ?_), fun sp hfree => congrArg Host.Outcome.next ((if_neg hgood).trans ?_)⟩
  · simp only [State.begun_took, htook, show (s.begun c rest).freeSpare (leAt c.payload 0 1) (decide (leAt c.payload 1 1 = 1)) = none from hfree]
    rfl
  · simp only [State.begun_took, htook, show (s.begun c rest).freeSpare (leAt c.payload 0 1) (decide (leAt c.payload 1 1 = 1)) = some sp from hfree,
      show (leAt c.payload 4 1).testBit 0 = false from hper, Bool.false_eq_true, false_and, if_false, Bool.not_true, State.begun_dsm]
    rfl

end

/-! ## The background work of Densum -/

theorem exec_scrubRead {s : State} (hup : s.mainUp = true) : ∀ j, s.dsm.scrub = some j → let r := s.scrubLine j
    let r := if r.1.next % 4096 = 0 then r.2.scrubPage r.1 (dsmPage (j.next - dsmBase)) else r
    exec .scrubRead s = .next (if r.1.next < r.1.stop then r.2.setDsm fun d => { d with scrub := some r.1 }
      else (((r.2.setDsm fun d => { d with scrub := none }).wr DSM_STATUS_SCRUB_BUSY 0).setCause (causeDsm 5)).wake fun w =>
        if w.kind = .scrub then some (stOK, r.1.resp) else none) := by
  intro j hj r0 r
  simp only [exec, execScrubRead, hup, if_true, hj]
  rfl

/-- `k` repairs what `j` repairs, and has as much left to copy. -/
structure RepairJob.Same (j k : RepairJob) : Prop where
  toCopy : k.toCopy = j.toCopy
  bank : k.bank = j.bank
  column : k.column = j.column
  index : k.index = j.index
  spare : k.spare = j.spare

theorem RepairJob.flipSpare_same {j k : RepairJob} (h : j.Same k) (key bit : Nat) : j.Same (k.flipSpare key bit) := by
  rw [RepairJob.flipSpare]
  split
  · exact h
  · exact ⟨h.toCopy, h.bank, h.column, h.index, h.spare⟩

/-- An injected error may flip bits of the spare; the repair stays the same. -/
theorem State.injectSpare_same {s : State} {j : RepairJob} (hj : s.dsm.repair = some j) (key : Nat) :
    ∃ k, (s.injectSpare key).dsm.repair = some k ∧ j.Same k := by
  have hself : j.Same j := ⟨rfl, rfl, rfl, rfl, rfl⟩
  simp only [State.injectSpare, hj]
  split
  · split
    · exact ⟨_, rfl, RepairJob.flipSpare_same hself _ _⟩
    · split
      · exact ⟨_, rfl, RepairJob.flipSpare_same (RepairJob.flipSpare_same hself _ _) _ _⟩
      · split
        · exact ⟨_, rfl, ⟨rfl, rfl, rfl, rfl, rfl⟩⟩
        · exact ⟨j, hj, hself⟩
  · exact ⟨j, hj, hself⟩

theorem exec_repairCopy {s : State} {j : RepairJob} {key : Nat} {more : List Nat} (hup : s.mainUp = true) (hj : s.dsm.repair = some j)
    (hcopy : j.toCopy = key :: more) : Runs .repairCopy s fun t =>
      ∃ k, t.dsm.repair = some k ∧ k.toCopy = more ∧ k.bank = j.bank ∧ k.column = j.column ∧ k.index = j.index ∧ k.spare = j.spare := by
  rw [Runs]
  simp only [exec, execRepairCopy, hup, if_true, hj, hcopy]
  refine ⟨_, rfl, ?_⟩
  generalize hstored : State.setDsm _ _ = t
  obtain ⟨i, hi, hcopied⟩ : ∃ i, t.dsm.repair = some i ∧ { j with toCopy := more }.Same i :=
    ⟨_, congrArg (fun t : State => t.dsm.repair) hstored.symm, ⟨rfl, rfl, rfl, rfl, rfl⟩⟩
  obtain ⟨k, hk, hsame⟩ := State.injectSpare_same hi key
  exact ⟨k, hk, hsame.toCopy.trans hcopied.toCopy, hsame.bank.trans hcopied.bank, hsame.column.trans hcopied.column,
    hsame.index.trans hcopied.index, hsame.spare.trans hcopied.spare⟩

theorem exec_repairSwitch_done {s : State} {j : RepairJob} (hup : s.mainUp = true) (hj : s.dsm.repair = some j) (hdone : j.toCopy = []) :
    exec .repairSwitch s =
      .next (((((s.repairApply j).wr DSM_STATUS_REPAIR_BUSY 0).setCause (causeDsm 6)).report EV_DSM_REPAIR (src 2 0) 0).repairDone j) := by
  simp only [exec, execRepairSwitch, hup, if_true, hj, hdone, List.isEmpty_nil, Bool.not_true, Bool.false_eq_true, if_false]

/-- Settles O49: the commands on parameters in range, then one step of a scrub, of a repair's copy and of its switch. -/
theorem densumWork : Obligations.DensumWork := by
  unfold Obligations.DensumWork
  refine ⟨fun c rest s => ⟨exec_dsmOverride, exec_dsmRegionAlloc_new, exec_dsmRegionFree, exec_scrub_good, exec_dsmRepair_new⟩,
    fun s hup => ⟨exec_scrubRead hup, fun j key more => exec_repairCopy hup, fun j => exec_repairSwitch_done hup⟩⟩

end Sys2Proof.Machine

namespace Sys2Proof.Machine
/-! ## HOLDUP_SET, THERMAL_SET and DEVICE_RESET -/

/-- What HOLDUP_SET writes. -/
def holdupFields (d : List Byte) : List (Fld × Nat) :=
  [(PWR_HOLDUP_C_MF, leAt d 0 2), (PWR_HOLDUP_VMIN_MV, leAt d 2 2), (PWR_HOLDUP_RATIO_RATIO, leAt d 4 2),
    (PWR_HOLDUP_MARGIN_MARGIN, leAt d 6 1), (PWR_HOLDUP_P_W, leAt d 8 2)]

theorem holdupFields_apart (d : List Byte) : (holdupFields d).Pairwise fun x y => x.1.Apart y.1 := by
  simp [holdupFields, Fld.Apart, PWR_HOLDUP_C_MF, PWR_HOLDUP_VMIN_MV, PWR_HOLDUP_RATIO_RATIO, PWR_HOLDUP_MARGIN_MARGIN, PWR_HOLDUP_P_W]

theorem holdupFields_fits (d : List Byte) : ∀ x ∈ holdupFields d, x.1.Fits := by
  simp [holdupFields, Fld.Fits, PWR_HOLDUP_C_MF, PWR_HOLDUP_VMIN_MV, PWR_HOLDUP_RATIO_RATIO, PWR_HOLDUP_MARGIN_MARGIN, PWR_HOLDUP_P_W]

/-- The settings of the hold-up, written and then measured. -/
theorem State.holdupSettings_spec {u : State} (hu : u.Inv) (d : List Byte) (adc : Adc) (hmargin : leAt d 6 1 ≤ 64) (hp : leAt d 8 2 ≤ 1000) :
    let v := (u.wrAll (holdupFields d)).holdupMeasure adc
    v = { u with regs := v.regs } ∧ v.rd PWR_HOLDUP_C_MF = leAt d 0 2 ∧ v.rd PWR_HOLDUP_VMIN_MV = leAt d 2 2 ∧
      v.rd PWR_HOLDUP_RATIO_RATIO = leAt d 4 2 ∧ v.rd PWR_HOLDUP_MARGIN_MARGIN = leAt d 6 1 ∧ v.rd PWR_HOLDUP_P_W = leAt d 8 2 := by
  intro v
  obtain ⟨_, hkeeps⟩ := State.holdupMeasure_spec (State.wrAll_inv hu (holdupFields d)) adc
  have hregs : v = { u with regs := v.regs } := by
    have hmeasure (w : State) : w.holdupMeasure adc = { w with regs := (w.holdupMeasure adc).regs } := rfl
    rw [show v = (u.wrAll (holdupFields d)).holdupMeasure adc from rfl, hmeasure, State.wrAll_eq]
  have hrd {f : Fld} {n : Nat} (hf : (f, n) ∈ holdupFields d) (ha : f.off ≠ PWR_HOLDUP_ADC_CODE.off) (hm : f.off ≠ PWR_HOLDUP_MV_MV.off)
      (hj : f.off ≠ PWR_HOLDUP_MJ_MJ.off) : v.rd f = n % 2 ^ f.width :=
    (hkeeps f ha hm hj).trans (State.wrAll_rd hu (holdupFields_fits d) (holdupFields_apart d) hf)
  clear_value v
  have hmf : leAt d 0 2 < 2 ^ 16 := leAt_lt d 0 2
  have hvmin : leAt d 2 2 < 2 ^ 16 := leAt_lt d 2 2
  have hratio : leAt d 4 2 < 2 ^ 16 := leAt_lt d 4 2
  refine ⟨hregs, ?_, ?_, ?_, ?_, ?_⟩
  · exact (hrd (n := leAt d 0 2) (by simp [holdupFields]) (by decide) (by decide) (by decide)).trans (Nat.mod_eq_of_lt hmf)
  · exact (hrd (n := leAt d 2 2) (by simp [holdupFields]) (by decide) (by decide) (by decide)).trans (Nat.mod_eq_of_lt hvmin)
  · exact (hrd (n := leAt d 4 2) (by simp [holdupFields]) (by decide) (by decide) (by decide)).trans (Nat.mod_eq_of_lt hratio)
  · exact (hrd (n := leAt d 6 1) (by simp [holdupFields]) (by decide) (by decide) (by decide)).trans
      (Nat.mod_eq_of_lt (show _ < 2 ^ 7 by omega))
  · exact (hrd (n := leAt d 8 2) (by simp [holdupFields]) (by decide) (by decide) (by decide)).trans
      (Nat.mod_eq_of_lt (show _ < 2 ^ 10 by omega))

section
variable {c : FwCmd} {rest : List FwCmd} {s : State}

theorem exec_holdupSet (h : s.Begins 0x0A01 c rest) (adc : Adc) : let u := s.begun c rest
    let d := c.payload
    exec (.holdupSet adc) s = .next (
      if leAt d 0 2 = 0 ∨ leAt d 4 2 = 0 ∨ leAt d 6 1 < 16 ∨ 64 < leAt d 6 1 ∨ leAt d 8 2 < 1 ∨ 1000 < leAt d 8 2 then u.fail c stBAD_PARAM
      else
        let v := (u.wrAll (holdupFields d)).holdupMeasure adc
        v.finish c stOK (leBytes 4 (v.holdupV (adcLow adc) / 2 ^ 20) ++ leBytes 4 (v.rd PWR_HOLDUP_MJ_MJ))) := by
  rw [exec, execHoldupSet, State.serve_begins _ h (by decide)]
  rfl

theorem holdupSet_cases (hs : s.Inv) (h : s.Begins 0x0A01 c rest) : let u := s.begun c rest
    let d := c.payload
    ∀ adc : Adc,
      (leAt d 0 2 = 0 ∨ leAt d 4 2 = 0 ∨ leAt d 6 1 < 16 ∨ 64 < leAt d 6 1 ∨ leAt d 8 2 < 1 ∨ 1000 < leAt d 8 2 →
        exec (.holdupSet adc) s = .next (u.fail c stBAD_PARAM)) ∧
      (leAt d 0 2 ≠ 0 → leAt d 4 2 ≠ 0 → 16 ≤ leAt d 6 1 → leAt d 6 1 ≤ 64 → 1 ≤ leAt d 8 2 → leAt d 8 2 ≤ 1000 →
        Runs (.holdupSet adc) s fun t => ∃ v : State, v = { u with regs := v.regs } ∧ v.rd PWR_HOLDUP_C_MF = leAt d 0 2 ∧
          v.rd PWR_HOLDUP_VMIN_MV = leAt d 2 2 ∧ v.rd PWR_HOLDUP_RATIO_RATIO = leAt d 4 2 ∧ v.rd PWR_HOLDUP_MARGIN_MARGIN = leAt d 6 1 ∧
          v.rd PWR_HOLDUP_P_W = leAt d 8 2 ∧
          t = v.finish c stOK (leBytes 4 (v.holdupV (adcLow adc) / 2 ^ 20) ++ leBytes 4 (v.rd PWR_HOLDUP_MJ_MJ))) := by
  intro u d adc
  have hexec := exec_holdupSet h adc
  refine ⟨fun hbad => hexec.trans (congrArg Host.Outcome.next (if_pos hbad)), fun hmf hratio hlo hhi hp1 hp2 => ?_⟩
  have hgood : ¬ (leAt d 0 2 = 0 ∨ leAt d 4 2 = 0 ∨ leAt d 6 1 < 16 ∨ 64 < leAt d 6 1 ∨ leAt d 8 2 < 1 ∨ 1000 < leAt d 8 2) := by omega
  obtain ⟨hregs, h1, h2, h3, h4, h5⟩ := State.holdupSettings_spec (State.begun_inv (c := c) (rest := rest) hs) d adc hhi hp2
  exact ⟨_, hexec.trans (congrArg Host.Outcome.next (if_neg hgood)), _, hregs, h1, h2, h3, h4, h5, rfl⟩

theorem exec_thermalSet (h : s.Begins 0x0A20 c rest) : let u := s.begun c rest
    let d := c.payload
    exec .thermalSet s = .next (if 480 < leAt d 0 2 then u.fail c stBAD_PARAM else (u.wr PWR_THERM_WARN (leAt d 0 2)).ok c) := by
  rw [exec, execThermalSet, State.serve_begins _ h (by decide)]

theorem exec_deviceReset (h : s.Begins 0x0A30 c rest) : let u := s.begun c rest
    let d := c.payload
    exec .deviceReset s = .next (if leAt d 0 8 = s.fuses.serial then
      (u.setPwr fun p => { p with resetDue := some (s.power.resetDue.getD (s.now + 1000000)) }).ok c else u.fail c stBAD_PARAM) := by
  rw [exec, execDeviceReset, State.serve_begins _ h (by decide)]
  simp only [State.setPwr, State.begun_power, State.begun_now, State.begun_fuses]

/-! ## FW_STAGE and FW_SWAP -/

theorem exec_fwStage (h : s.Begins 0x0A10 c rest) (hstage : s.rd PWR_BOOT_STATUS_STAGE ≠ 6) :
    exec .fwStage s = .next ((s.begun c rest).fwStage c) := by
  have hrec : s.inRecovery = false := by rw [State.inRecovery, decide_eq_false hstage, Bool.and_false]
  rw [exec, execFwStage, hrec, State.serve_begins _ h (by decide)]
  rfl

theorem State.fwStage_bound {u : State} (hn : leAt c.payload 8 4 ≠ 0) (hbuf : u.bufOk (leAt c.payload 0 8) (leAt c.payload 8 4) = false) :
    u.fwStage c = u.fail c stPROT_BOUND :=
  (if_neg hn).trans (if_pos (by rw [hbuf]; rfl))

/-- A staged image by what its check finds, and by whether it is all written. -/
theorem State.fwStage_read {u : State} (hn : leAt c.payload 8 4 ≠ 0) (hbuf : u.bufOk (leAt c.payload 0 8) (leAt c.payload 8 4) = true) :
    let r := u.fwRead (leAt c.payload 0 8) (leAt c.payload 8 4)
    (r.2.imageOf r.1 = none → u.fwStage c = r.2.fail c stBAD_PARAM) ∧
    (∀ i slot, r.2.imageOf r.1 = some i → r.2.power.swap = none → (r.2.fw.waiting.any fun w => decide (w.cmd.cmd = 0x0A10)) = false →
      slot = 1 - u.rd PWR_STATUS_RUNNING_SLOT → r.2.nv.images[Fin.ofNat 2 slot] = none → 0 < i.blocks → i.written = 0 →
      u.fwStage c = r.2.nvCommand c 1 (.imageBlock slot i) (stageResp i slot)) := by
  intro r
  have hread : ¬ (!u.bufOk (leAt c.payload 0 8) (leAt c.payload 8 4)) = true := by rw [hbuf]; decide
  refine ⟨fun himg => ?_, fun i slot himg hswap hwait hslot hempty hblocks hwritten => ?_⟩
  · refine (if_neg hn).trans ((if_neg hread).trans ?_)
    simp only [show (u.fwRead (leAt c.payload 0 8) (leAt c.payload 8 4)).2.imageOf (u.fwRead (leAt c.payload 0 8) (leAt c.payload 8 4)).1 = none from himg]
    rfl
  · subst hslot
    refine (if_neg hn).trans ((if_neg hread).trans ?_)
    simp only [show (u.fwRead (leAt c.payload 0 8) (leAt c.payload 8 4)).2.imageOf (u.fwRead (leAt c.payload 0 8) (leAt c.payload 8 4)).1 = some i from himg]
    refine (if_neg (by rw [show r.2.power.swap = none from hswap, hwait]; decide)).trans ?_
    simp only [show (u.fwRead (leAt c.payload 0 8) (leAt c.payload 8 4)).2.nv.images[Fin.ofNat 2 (1 - u.rd PWR_STATUS_RUNNING_SLOT)] = none from hempty]
    exact if_neg (by omega)

theorem exec_fwSwap_first (h : s.Begins 0x0A11 c rest) (hswap : s.power.swap = none) : let u := s.begun c rest
    let h := leAt c.payload 0 1
    exec .fwSwap s = .next (if h ≠ 0xFF ∧ s.nHeads ≤ h then u.fail c stBAD_PARAM
      else match s.power.staged with
        | none => u.fail c stBUSY
        | some slot =>
          if s.standby ≠ sbREADY then u.fail c stBUSY
          else
            let x : Swap := ⟨1, if h = 0xFF then u.firstRunning else h, (leAt c.payload 1 1).testBit 0, s.now, u.rd GLB_FW_VERSION_VERSION, slot,
              s.power.stagedIs.1, s.power.stagedIs.2, 0, 0⟩
            (((u.setSwap (some x)).setStandby sbSYNCING).setDup fun d => { d with selftestOk := false }).waitFor c .swap) := by
  rw [exec, execFwSwap, State.serve_begins _ h (by decide)]
  simp only [State.begun_power, State.begun_nHeads, State.begun_standby, State.begun_now, hswap, Option.isSome_none, Bool.false_eq_true, or_false]
    <;> rfl

theorem fwSwap_cases (hs : s.Inv) (h : s.Begins 0x0A11 c rest) (hswap : s.power.swap = none) : let u := s.begun c rest
    let h := leAt c.payload 0 1
    (h ≠ 0xFF ∧ s.nHeads ≤ h → exec .fwSwap s = .next (u.fail c stBAD_PARAM)) ∧
    (h = 0xFF ∨ h < s.nHeads → s.power.staged = none ∨ s.standby ≠ sbREADY → exec .fwSwap s = .next (u.fail c stBUSY)) ∧
    (∀ slot, h = 0xFF ∨ h < s.nHeads → s.power.staged = some slot → s.standby = sbREADY → Runs .fwSwap s fun t =>
      t.standby = sbSYNCING ∧ ∃ x, t.power.swap = some x ∧ x.step = 1 ∧ x.slot = slot ∧ x.since = s.now ∧
        x.raiseSvn = (leAt c.payload 1 1).testBit 0) := by
  intro u h'
  have hexec := exec_fwSwap_first h hswap
  have hhead : (h' = 0xFF ∨ h' < s.nHeads) → ¬ (h' ≠ 0xFF ∧ s.nHeads ≤ h') := by omega
  refine ⟨fun hbad => ?_, fun hgood hbusy => ?_, fun slot hgood hstaged hready => ?_⟩
  · exact hexec.trans (congrArg Host.Outcome.next (if_pos hbad))
  · refine hexec.trans (congrArg Host.Outcome.next ((if_neg (hhead hgood)).trans ?_))
    cases hst : s.power.staged with
    | none => rfl
    | some slot => exact if_pos (hbusy.resolve_left (by rw [hst]; exact Option.some_ne_none slot))
  · let x : Swap := ⟨1, if h' = 0xFF then u.firstRunning else h', (leAt c.payload 1 1).testBit 0, s.now, u.rd GLB_FW_VERSION_VERSION, slot,
      s.power.stagedIs.1, s.power.stagedIs.2, 0, 0⟩
    have hgo : exec .fwSwap s = .next ((((u.setSwap (some x)).setStandby sbSYNCING).setDup fun d => { d with selftestOk := false }).waitFor c .swap) := by
      refine hexec.trans (congrArg Host.Outcome.next ((if_neg (hhead hgood)).trans ?_))
      rw [hstaged]
      exact if_neg (fun hne => hne hready)
    have hu : (u.setSwap (some x)).Inv := (State.setSwap_kept _ (State.begun_inv hs)).inv
    refine ⟨_, hgo, (State.setStandby_spec hu (by decide)).1, x, ?_, rfl, rfl, rfl, rfl⟩
    show ((u.setSwap (some x)).setStandby sbSYNCING).power.swap = some x
    rw [State.setStandby_eq]
    rfl

end

/-- Settles O58: each command by its range; an image by its check, a swap by what is staged, the standby and its time. -/
theorem powerCommands : Obligations.PowerCommands := by
  unfold Obligations.PowerCommands
  refine fun c rest s hs => ⟨holdupSet_cases hs, exec_thermalSet, exec_deviceReset, fun hb hstage hn => ⟨fun hbuf => ?_, fun hbuf => ?_⟩,
    fwSwap_cases hs, fun x hserving hx hstep hlate => ?_, fun x hserving hx hstep hearly => ?_⟩
  · rw [exec_fwStage hb hstage, State.fwStage_bound hn hbuf]
  · obtain ⟨hnone, hnew⟩ := State.fwStage_read hn hbuf
    refine ⟨fun himg => (exec_fwStage hb hstage).trans (congrArg Host.Outcome.next (hnone himg)), fun i slot himg hswap hwait hslot hempty hblocks hwritten => ?_⟩
    exact (exec_fwStage hb hstage).trans (congrArg Host.Outcome.next
      (hnew i slot himg hswap hwait (hslot.trans (by rw [State.begun_rd])) hempty hblocks hwritten))
  · have hover : s.swapOver = true := by rw [State.swapOver, hx, hserving]; exact decide_eq_true ⟨hstep, hlate⟩
    exact congrArg Host.Outcome.next (if_pos hover)
  · have hover : s.swapOver = false := by rw [State.swapOver, hx, hserving]; exact decide_eq_false (by omega)
    exact congrArg Host.Outcome.next (if_neg (by rw [hover]; decide))

end Sys2Proof.Machine

namespace Sys2Proof.Machine
/-! ## MEM_SLOT_RETIRE of a channel that the rates do not let go

The model tries the state that the retirement would make and refuses on the state before it, so the
channel does not go on draining.  The statement refuses on the state that was tried. -/

/-- MEM_SLOT_RETIRE of channel 0, from host mailbox 0. -/
def retireCmd : FwCmd := ⟨.host 0, 0x0740, 1, 4, 0, 0, [0, 0, 0, 0], false⟩

/-- A mirrored pair of channels of which neither takes accesses, a head whose timing generator runs, and a stream that is stored:
no retirement fits, and the command is the firmware's next. -/
def overloaded : State :=
  ({ State.reset with
    mainUp := true
    duplex := { State.reset.duplex with fwUp := true }
    ddr := { State.reset.ddr with map := some ⟨0, 8, true, [], 2, 16, 1⟩, set := 2 }
    fw := { State.reset.fw with queue := [retireCmd] } }.setHd 0 fun x => { x with gen := true }).wrAll
    [(INGS_S_CTRL_FLAGS 0, 3), (INGS_S_GEOM_H 0, 1), (INGS_S_FMT_PITCH 0, 1), (INGS_S_RATE_NUM_NUM 0, 1)]

theorem overloaded_begins : overloaded.Begins 0x0740 retireCmd [] where
  serving := by decide +kernel
  queue := by decide +kernel
  code := rfl
  fresh := by decide +kernel
  len := by decide +kernel
  room := by decide +kernel
  mine := fun n hn => by cases hn

/-- Whether channel 0 drains in the state of an outcome. -/
def channelDrains : Host.Outcome State Fault Refusal → Bool
  | .next t => (t.chan 0).retiring
  | _ => false

/-- The state that the retirement would make. -/
def overloadedTried : State :=
  (((overloaded.begun retireCmd []).restoreEnd 0).take retireCmd [0]).setChan 0 fun x => { x with retiring := true }

theorem overloadedTried_unfit : overloadedTried.rateFits = false := by decide +kernel

theorem overloadedTried_drains : channelDrains (.next (overloadedTried.fail retireCmd stREJECTED_BANDWIDTH)) = true := by decide +kernel

theorem exec_overloaded_drains : channelDrains (exec .memSlotRetire overloaded) = false := by decide +kernel

/-- Refutes O50: MEM_SLOT_RETIRE answers REJECTED_BANDWIDTH on the state before the channel began to drain, and the statement
wants the channel of the refused command to be draining; `overloaded` is such a machine. -/
theorem not_memoryWork : ¬ Obligations.MemoryWork := by
  unfold Obligations.MemoryWork
  intro h
  obtain ⟨_, _, hretire, _⟩ := h.1 retireCmd [] overloaded
  obtain ⟨_, _, hsound⟩ := hretire overloaded_begins (by decide +kernel)
  obtain ⟨_, _, hgo⟩ := hsound (by decide +kernel) (by decide +kernel) ⟨by decide +kernel, by decide +kernel, by decide +kernel⟩
  have hexec := (hgo (by decide +kernel) (by decide +kernel)).trans (congrArg Host.Outcome.next
    (if_neg (show ¬ overloadedTried.rateFits = true by rw [overloadedTried_unfit]; decide)))
  have hdrains := congrArg channelDrains hexec
  rw [exec_overloaded_drains] at hdrains
  exact Bool.noConfusion (hdrains.trans overloadedTried_drains)

end Sys2Proof.Machine

namespace Sys2Proof.Machine
/-! ## A register write below the register that is read -/

/-- An entry below the key that is read neither hides nor uncovers it, in any list. -/
theorem Sparse.get_put_above {α : Type} [DecidableEq α] {d : Nat → α} {k j : Nat} (hkj : k < j) (v : α) (l : List (Nat × α)) :
    Sparse.get d (Sparse.put d l k v) j = Sparse.get d l j := by
  induction l with
  | nil =>
    simp only [Sparse.put, Sparse.get]
    grind [Sparse.get]
  | cons e t ih =>
    obtain ⟨a, w⟩ := e
    simp only [Sparse.put]
    grind [Sparse.get]

theorem State.wr_rd_above (s : State) {f g : Fld} (v : Nat) (h : f.off < g.off) : (s.wr f v).rd g = s.rd g :=
  congrArg g.get (Sparse.get_put_above h _ s.regs)

/-! ## What a command slot chooses -/

theorem State.setChan_chan (s : State) (c : Nat) (f : DdrChan → DdrChan) : (s.setChan c f).chan c = f (s.chan c) := Vector.getElem_set_self _

section
variable {s : State} {c : Nat} {e : DdrEntry}

/-- `e` may be issued: its channel takes accesses, and nothing occupies its bank. -/
def State.MayIssue (s : State) (c : Nat) (e : DdrEntry) : Prop := s.rd (DMC_CTRL_EN c) = 1 ∧ s.bankTaken c (s.placeOf e.line).bank = false

theorem State.issuable_mayIssue {l : List DdrEntry} (he : e ∈ s.issuable c l) : s.MayIssue c e := by
  rw [State.issuable] at he
  split at he
  · next hen =>
    have hok := (List.mem_filter.mp he).2
    simp only [Bool.and_eq_true, Bool.not_eq_true'] at hok
    exact ⟨(State.flag_iff s rfl).mp hen, hok.1.2⟩
  · cases he

theorem State.issueOrder_mayIssue {l : List DdrEntry} (hl : l ∈ s.issueOrder c) (he : e ∈ l) : s.MayIssue c e := by
  have hmem : l ∈ [s.issuable c (s.chan c).rdQ, s.issuable c (s.chan c).wrQ] := by
    rw [State.issueOrder] at hl
    split at hl
    · exact List.mem_reverse.mp hl
    · exact hl
  simp only [List.mem_cons, List.not_mem_nil, or_false] at hmem
  rcases hmem with rfl | rfl
  · exact State.issuable_mayIssue he
  · exact State.issuable_mayIssue he

theorem State.bePick_mem {l : List DdrEntry} (he : s.bePick c l = some e) : e ∈ l := by
  rw [State.bePick, Option.bind_eq_some_iff] at he
  obtain ⟨k, _, hk⟩ := he
  exact (List.mem_filter.mp (List.mem_of_find?_eq_some hk)).1

theorem State.bePicked_mayIssue (he : (s.issueOrder c).findSome? (s.bePick c) = some e) : s.MayIssue c e := by
  obtain ⟨l, hl, hpick⟩ := List.exists_of_findSome?_eq_some he
  exact State.issueOrder_mayIssue hl (State.bePick_mem hpick)

theorem State.owedPick_mayIssue (he : s.owedPick c = some e) : s.MayIssue c e := by
  rw [State.owedPick] at he
  split at he
  · exact State.bePicked_mayIssue he
  · cases he

theorem State.accessPick_mayIssue (he : s.accessPick c = some e) : s.MayIssue c e := by
  obtain ⟨o, ho, rfl⟩ := List.exists_of_findSome?_eq_some he
  simp only [List.mem_cons, List.not_mem_nil, or_false] at ho
  rcases ho with hpanic | hreal | hbest
  · split at hpanic
    · exact (List.mem_append.mp (List.mem_of_find?_eq_some hpanic.symm)).elim State.issuable_mayIssue State.issuable_mayIssue
    · cases hpanic
  · obtain ⟨l, hl, hpick⟩ := List.exists_of_findSome?_eq_some hreal.symm
    exact State.issueOrder_mayIssue hl (List.mem_of_find?_eq_some hpick)
  · exact State.bePicked_mayIssue hbest.symm

theorem State.refreshPick_free {i : Nat} {post : Bool} (hi : s.refreshPick c = some (i, post)) : s.panic = false ∧ s.indexTaken c i = false := by
  have hfree {p : Nat → Bool} {k : Nat} (hk : ((List.range 8).filter fun i => !s.indexTaken c i).find? p = some k) : s.indexTaken c k = false :=
    Bool.not_eq_true' _ |>.mp (List.mem_filter.mp (List.mem_of_find?_eq_some hk)).2
  rw [State.refreshPick] at hi
  dsimp only at hi
  split at hi
  · cases hi
  · next hpanic =>
    refine ⟨Bool.eq_false_iff.mpr hpanic, ?_⟩
    split at hi
    · next k hk =>
      cases hi
      exact hfree hk
    · split at hi
      · next k hk =>
        cases hi
        exact hfree hk
      · obtain ⟨k, hk, he⟩ := Option.map_eq_some_iff.mp hi
        cases he
        exact hfree hk

end

/-- A command slot outside self-refresh: a forced refresh comes first, then what the channel serves. -/
theorem exec_ddrCommandSlot {s : State} {c : Fin 4} (hawake : s.rd (DMC_STATUS_SELF_REFRESH c) = 0) : let t := s.postpone c
    exec (.ddrCommandSlot c) s = .next (match t.refreshForced c with
      | some i => if t.indexTaken c i then t.setChan c DdrChan.passed else t.refreshIssue c i true
      | none => t.slotServe c) := by
  simp only [exec, execDdrCommandSlot]
  refine (if_neg (State.flag_of_zero hawake)).trans ?_
  cases (s.postpone c).refreshForced c <;> rfl

theorem ddrCommandSlot_cases {s : State} {c : Fin 4} (hawake : s.rd (DMC_STATUS_SELF_REFRESH c) = 0) : let t := s.postpone c
    let free := (t.chan c).mitigate.find? fun m => !t.bankTaken c m.1
    let pass := fun (v : State) => v.setChan c fun x => { x with beWait := x.beWait + 1 }
    (∀ i, t.refreshForced c = some i →
      exec (.ddrCommandSlot c) s = .next (if t.indexTaken c i then pass t else t.refreshIssue c i true)) ∧
    (t.refreshForced c = none →
      (∀ e, t.owedPick c = some e → exec (.ddrCommandSlot c) s = .next (t.accessIssue c e)) ∧
      (∀ i post, t.owedPick c = none → t.refreshPick c = some (i, post) → exec (.ddrCommandSlot c) s = .next (t.refreshIssue c i post)) ∧
      (∀ m, t.owedPick c = none → t.refreshPick c = none → free = some m →
        exec (.ddrCommandSlot c) s = .next (pass (t.mitigate c m.1 m.2))) ∧
      (∀ e, t.owedPick c = none → t.refreshPick c = none → free = none → t.accessPick c = some e →
        exec (.ddrCommandSlot c) s = .next (t.accessIssue c e))) := by
  intro t free pass
  have hexec := exec_ddrCommandSlot hawake
  refine ⟨fun i hi => ?_, fun hnone => ?_⟩
  · simp only [show (s.postpone c).refreshForced c = some i from hi] at hexec
    exact hexec
  · simp only [show (s.postpone c).refreshForced c = none from hnone] at hexec
    refine ⟨fun e he => ?_, fun i post howed hi => ?_, fun m howed href hm => ?_, fun e howed href hm he => ?_⟩
    · refine hexec.trans (congrArg Host.Outcome.next ?_)
      rw [State.slotServe, show (s.postpone c).owedPick c = some e from he]
    · refine hexec.trans (congrArg Host.Outcome.next ?_)
      rw [State.slotServe, show (s.postpone c).owedPick c = none from howed, show (s.postpone c).refreshPick c = some (i, post) from hi]
    · refine hexec.trans (congrArg Host.Outcome.next ?_)
      rw [State.slotServe, show (s.postpone c).owedPick c = none from howed, show (s.postpone c).refreshPick c = none from href,
        show ((s.postpone c).chan c).mitigate.find? (fun m => !(s.postpone c).bankTaken c m.1) = some m from hm]
      rfl
    · refine hexec.trans (congrArg Host.Outcome.next ?_)
      rw [State.slotServe, show (s.postpone c).owedPick c = none from howed, show (s.postpone c).refreshPick c = none from href,
        show ((s.postpone c).chan c).mitigate.find? (fun m => !(s.postpone c).bankTaken c m.1) = none from hm,
        show (s.postpone c).accessPick c = some e from he]

/-! ## Refreshes and the hammer window -/

/-- One more refresh due on each of the first `n` bank indices of a rank. -/
def refreshAdd (rank n : Nat) (v : Vector Nat 8) : Vector Nat 8 :=
  (List.range n).foldl (fun v b => v.set (Fin.ofNat 8 (rank * 4 + b)) (v[Fin.ofNat 8 (rank * 4 + b)] + 1)) v

theorem refreshAdd_get {rank n : Nat} (hr : rank < 2) (hn : n ≤ 4) (v : Vector Nat 8) (b : Fin 8) :
    (refreshAdd rank n v)[b] = v[b] + if rank * 4 ≤ b.val ∧ b.val < rank * 4 + n then 1 else 0 := by
  induction n with
  | zero => rw [if_neg (by omega)]; rfl
  | succ n ih =>
    have hidx : (Fin.ofNat 8 (rank * 4 + n)).val = rank * 4 + n := Nat.mod_eq_of_lt (by omega)
    rw [refreshAdd, List.range_succ, List.foldl_append, ← refreshAdd]
    simp only [List.foldl_cons, List.foldl_nil, Fin.getElem_fin, Vector.getElem_set, hidx]
    have hih := ih (by omega)
    rw [Fin.getElem_fin, Fin.getElem_fin] at hih
    split
    · next heq =>
      have hcopy : (refreshAdd rank n v)[rank * 4 + n]'(by omega) = (refreshAdd rank n v)[b.val] := by congr 1
      rw [hcopy, hih, if_neg (by omega), if_pos (by omega)]
    · next hne =>
      rw [hih]
      congr 1
      exact if_congr (by omega) rfl rfl

theorem exec_refreshDue_due {s : State} {c : Fin 4} {rank : Fin 2} (hup : s.mainUp = true) (hranks : rank.val < s.rd (DMC_DIMM_RANKS c))
    (hat : (s.chan c).refAt[rank] + s.tRefi c ≤ s.now) (hnone : ∀ b : Fin 8, b.val / 4 = rank.val → (s.chan c).due[b] = 0) :
    Runs (.refreshDue c rank) s fun t =>
      ∃ v : State, t = v.postpone c ∧ (s.panic = false → t = v) ∧ v = { s with ddr := v.ddr } ∧ (v.chan c).refAt[rank] = s.now ∧
        (∀ b : Fin 8, (v.chan c).due[b] = (s.chan c).due[b] + if b.val / 4 = rank.val then 1 else 0) := by
  let v := s.setChan c fun x => { x with due := refreshAdd rank.val 4 x.due, refAt := x.refAt.set rank s.now }
  have hfold : (List.range 4).foldl (fun t b =>
      if 0 < (t.chan c).due[Fin.ofNat 8 (rank.val * 4 + b)] then t.refreshIssue c (rank.val * 4 + b) false else t) s = s := by
    refine foldl_stays fun b hb => if_neg ?_
    have hb4 := List.mem_range.mp hb
    have hr := rank.isLt
    rw [hnone (Fin.ofNat 8 (rank.val * 4 + b)) (by show (rank.val * 4 + b) % 8 / 4 = rank.val; omega)]
    exact Nat.lt_irrefl 0
  refine ⟨v.postpone c, congrArg Host.Outcome.next ((State.when_yes (by rw [hup, decide_eq_true ⟨hranks, hat⟩]; rfl)).trans ?_), v, rfl, fun hp => ?_, rfl,
    ?_, fun b => ?_⟩
  · simp only [hfold]
    rfl
  · have hpanic : v.panic = false := by rw [State.panic, State.setChan_rd]; exact hp
    exact if_neg (Bool.eq_false_iff.mp hpanic)
  · show (State.chan (State.setChan _ _ _) _).refAt[rank] = s.now
    rw [State.setChan_chan]
    exact Vector.getElem_set_self _
  · show (State.chan (State.setChan _ _ _) _).due[b] = _
    rw [State.setChan_chan, refreshAdd_get rank.isLt (by decide)]
    have hr := rank.isLt
    have hb := b.isLt
    exact congrArg ((s.chan c).due[b] + ·) (if_congr (by omega) rfl rfl)

theorem exec_refreshDue_early {s : State} {c : Fin 4} {rank : Fin 2}
    (hno : s.rd (DMC_DIMM_RANKS c) ≤ rank.val ∨ s.now < (s.chan c).refAt[rank] + s.tRefi c) : exec (.refreshDue c rank) s = .next s :=
  congrArg Host.Outcome.next (State.when_no (by rw [decide_eq_false (by omega), Bool.and_false]))

/-- One change made to the first `n` channels. -/
theorem State.eachChan_chan (s : State) (f : DdrChan → DdrChan) {n : Nat} (hn : n ≤ 4) (k : Nat) :
    ((List.range n).foldl (fun t c => t.setChan c f) s).chan k = if k % 4 < n then f (s.chan k) else s.chan k := by
  induction n with
  | zero => rw [if_neg (by omega)]; rfl
  | succ n ih =>
    rw [List.range_succ, List.foldl_append, List.foldl_cons, List.foldl_nil]
    have hih := ih (by omega)
    generalize (List.range n).foldl (fun t c => t.setChan c f) s = t at hih ⊢
    have hget : (t.setChan n f).chan k = if n % 4 = k % 4 then f (t.chan n) else t.chan k :=
      Vector.getElem_set (Nat.mod_lt n (by decide)) (Nat.mod_lt k (by decide))
    rw [hget]
    split
    · next heq =>
      have hsame : t.chan n = t.chan k := by
        have hidx : Fin.ofNat 4 n = Fin.ofNat 4 k := Fin.ext heq
        simp only [State.chan, hidx]
      rw [hsame, hih, if_neg (by omega), if_pos (by omega)]
    · next hne =>
      rw [hih]
      exact if_congr (by omega) rfl rfl

theorem State.eachChan_ddr (s : State) (f : DdrChan → DdrChan) (l : List Nat) : let t := l.foldl (fun t c => t.setChan c f) s
    t = { s with ddr := t.ddr } ∧ t.ddr.window = s.ddr.window := by
  induction l generalizing s with
  | nil => exact ⟨rfl, rfl⟩
  | cons c l ih =>
    obtain ⟨hddr, hwindow⟩ := ih (s.setChan c f)
    exact ⟨hddr, hwindow⟩

theorem exec_hammerWindow_new {s : State} (hup : s.mainUp = true) (hnew : s.time.ns / 32000000 ≠ s.ddr.window) :
    Runs .hammerWindow s fun t => (∀ k : Nat, (t.chan k).acts = []) ∧ t.ddr.window = s.time.ns / 32000000 ∧ t = { s with ddr := t.ddr } := by
  let w : State := { s with ddr := { s.ddr with window := s.time.ns / 32000000 } }
  obtain ⟨hddr, hwindow⟩ := w.eachChan_ddr (fun x => { x with acts := [] }) (List.range 4)
  refine ⟨_, congrArg Host.Outcome.next (State.when_yes (by rw [hup, decide_eq_true hnew]; rfl)), fun k => ?_, hwindow, hddr⟩
  have hchan := w.eachChan_chan (fun x => { x with acts := [] }) (n := 4) (Nat.le_refl 4) k
  rw [if_pos (Nat.mod_lt k (by decide))] at hchan
  exact congrArg DdrChan.acts hchan

end Sys2Proof.Machine

namespace Sys2Proof.Machine
/-! ## Reads, polls, training and the PMIC of a channel -/

section
variable {c : Fin 4} {s : State}

theorem exec_ddrReadReturn_read {e : DdrEntry} {more : List DdrEntry} (q : DdrQuality) (hf : (s.chan c).flight = e :: more) (hk : e.kind ≠ .merge) :
    let t := s.setChan c fun x => { x with flight := more }
    let k := t.ddrCheck c e.line (e.data.map fun x => x.getD 0) e.poison q
    let v := if k.2.chanLine c e.line = (e.data.map fun x => x.getD 0, e.poison) then k.2.noteQuality c e.line q else k.2
    exec (.ddrReadReturn c q) s = .next (v.ddrDeliver e k.1.data k.1.poison false).panicUpdate := by
  intro t k v
  simp only [exec, execDdrReadReturn, hf, if_neg hk]
  rfl

theorem exec_refreshStatusPoll_early (hno : s.nDdr ≤ c.val ∨ s.rd (DMC_STATUS_POWERED c) = 0 ∨ s.now < (s.chan c).polledAt + 32000000)
    (hot : Bool) : exec (.refreshStatusPoll c hot) s = .next s := by
  refine congrArg Host.Outcome.next (State.when_no (Bool.eq_false_iff.mpr fun hdue => ?_))
  simp only [Bool.and_eq_true, decide_eq_true_eq] at hdue
  obtain ⟨⟨⟨_, hpresent⟩, hpowered⟩, hat⟩ := hdue
  rcases hno with h | h | h
  · omega
  · exact State.flag_of_zero h hpowered
  · omega

theorem exec_refreshStatusPoll_due (hup : s.mainUp = true) (hc : c.val < s.nDdr) (hp : s.rd (DMC_STATUS_POWERED c) = 1)
    (hat : (s.chan c).polledAt + 32000000 ≤ s.now) : let t := s.setChan c fun x => { x with polledAt := s.now }
    (s.rd (DMC_STATUS_HOT c) = 0 → exec (.refreshStatusPoll c true) s =
      .next (((t.wr (DMC_STATUS_HOT c) 1).setCause (causeDmc c 5)).report EV_DDR_HOT (src 5 c) 0)) ∧
    exec (.refreshStatusPoll c false) s = .next (t.wr (DMC_STATUS_HOT c) 0) := by
  intro t
  have hdue : (s.mainUp && decide (c.val < s.nDdr) && s.flag (DMC_STATUS_POWERED c) && decide ((s.chan c).polledAt + 32000000 ≤ s.now)) = true := by
    rw [hup, decide_eq_true hc, State.flag_of_one hp, decide_eq_true hat]
    rfl
  refine ⟨fun hcold => congrArg Host.Outcome.next ((State.when_yes hdue).trans (if_pos ?_)),
    congrArg Host.Outcome.next ((State.when_yes hdue).trans (if_neg Bool.false_ne_true))⟩
  rw [show t.flag (DMC_STATUS_HOT c) = false from Bool.eq_false_iff.mpr (State.flag_of_zero hcold)]
  rfl

theorem exec_dqsOscRead_early (hat : s.now < (s.chan c).oscAt + 100000000) (drifts : List (Nat × Int)) :
    exec (.dqsOscRead c drifts) s = .next s :=
  congrArg Host.Outcome.next (State.when_no (by rw [decide_eq_false (by omega), Bool.and_false]))

section
variable (hup : s.mainUp = true) (hfw : s.duplex.fwUp = true) (hen : s.rd (DMC_CTRL_EN c) = 1) (hat : (s.chan c).oscAt + 100000000 ≤ s.now)
include hup hfw hen hat

theorem dqsOscRead_guard : (s.mainUp && s.duplex.fwUp && s.flag (DMC_CTRL_EN c) && decide ((s.chan c).oscAt + 100000000 ≤ s.now)) = true := by
  rw [hup, hfw, State.flag_of_one hen, decide_eq_true hat]
  rfl

theorem exec_dqsOscRead_first (hold : (s.chan c).drift = []) (drifts : List (Nat × Int)) :
    exec (.dqsOscRead c drifts) s = .next (s.setChan c fun x => { x with
      oscAt := s.now
      drift := ((drifts.map fun d => (d.1, d.2 - (((s.chan c).oscBase.lookup d.1).getD 0))).filter fun d => decide (4 < d.2.natAbs)).map
        fun d => (d.1, d.2, some s.now) }) := by
  refine congrArg Host.Outcome.next ((State.when_yes (dqsOscRead_guard hup hfw hen hat)).trans ?_)
  simp only [hold, List.any_nil, Bool.false_eq_true, if_false, Bool.not_false, Bool.and_true, List.map_nil, List.nil_append]

theorem exec_dqsOscRead_late {k : Nat} {n : Int} {since : Nat} (hold : (s.chan c).drift = [(k, n, some since)]) (hlate : since + 1000000000 < s.now) :
    exec (.dqsOscRead c []) s =
      .next (((s.setCause (causeDmc c 7)).report EV_DDR_DRIFT (src 5 c) 0).setChan c fun x => { x with oscAt := s.now, drift := [(k, n, none)] }) := by
  refine congrArg Host.Outcome.next ((State.when_yes (dqsOscRead_guard hup hfw hen hat)).trans ?_)
  simp only [hold, List.any_cons, List.any_nil, decide_eq_true hlate, Bool.or_false, if_true, List.map_nil, List.filter_nil, List.map_cons, List.append_nil,
    State.report_now, State.setCause_now]

end

/-- What a training run leaves in the channel's registers. -/
def trainFields (c : Nat) (pass : BitVec 40) (errs : BitVec 32) : List (Fld × Nat) :=
  [(DMC_TRAIN_PASS_LO_LANES c, pass.toNat % 2 ^ 32), (DMC_TRAIN_PASS_HI_LANES c, pass.toNat / 2 ^ 32), (DMC_TRAIN_ERRS_COUNT c, errs.toNat),
    (DMC_TRAIN_CTRL_BUSY c, 0)]

theorem exec_trainDone_host (pass : BitVec 40) (errs : BitVec 32) (hup : s.mainUp = true) (hbusy : s.rd (DMC_TRAIN_CTRL_BUSY c) = 1)
    (hphase : (s.chan c).phase = .none) : exec (.trainDone c pass errs) s = .next (s.wrAll (trainFields c pass errs)) := by
  have hnone : s.trainAt c = none := by rw [State.trainAt, hphase]
  refine congrArg Host.Outcome.next ((if_neg ?_).trans ?_)
  · rw [hup, State.flag_of_one hbusy, Bool.or_true]
    decide
  · rw [hnone, Option.isSome_none, Bool.and_false]
    rfl

theorem trainDone_host (pass : BitVec 40) (errs : BitVec 32) (hup : s.mainUp = true) (hs : s.Inv) (hbusy : s.rd (DMC_TRAIN_CTRL_BUSY c) = 1)
    (hphase : (s.chan c).phase = .none) : Runs (.trainDone c pass errs) s fun t => t.rd (DMC_TRAIN_CTRL_BUSY c) = 0 ∧
      t.rd (DMC_TRAIN_ERRS_COUNT c) = errs.toNat ∧ t.rd (DMC_TRAIN_PASS_LO_LANES c) = pass.toNat % 2 ^ 32 ∧
      t.rd (DMC_TRAIN_PASS_HI_LANES c) = pass.toNat / 2 ^ 32 := by
  have hfits : ∀ x ∈ trainFields c pass errs, x.1.Fits := by
    simp [trainFields, Fld.Fits, DMC_TRAIN_PASS_LO_LANES, DMC_TRAIN_PASS_HI_LANES, DMC_TRAIN_ERRS_COUNT, DMC_TRAIN_CTRL_BUSY]
  have hapart : (trainFields c pass errs).Pairwise fun x y => x.1.Apart y.1 := by
    simp [trainFields, Fld.Apart, DMC_TRAIN_PASS_LO_LANES, DMC_TRAIN_PASS_HI_LANES, DMC_TRAIN_ERRS_COUNT, DMC_TRAIN_CTRL_BUSY]
  have hrd {f : Fld} {v : Nat} (hf : (f, v) ∈ trainFields c pass errs) : (s.wrAll (trainFields c pass errs)).rd f = v % 2 ^ f.width :=
    State.wrAll_rd hs hfits hapart hf
  have hpass := pass.isLt
  refine ⟨_, exec_trainDone_host pass errs hup hbusy hphase, (hrd (v := 0) (by simp [trainFields])).trans (Nat.zero_mod _),
    (hrd (v := errs.toNat) (by simp [trainFields])).trans (Nat.mod_eq_of_lt errs.isLt),
    (hrd (v := pass.toNat % 2 ^ 32) (by simp [trainFields])).trans (Nat.mod_eq_of_lt (Nat.mod_lt _ (Nat.two_pow_pos 32))),
    (hrd (v := pass.toNat / 2 ^ 32) (by simp [trainFields])).trans (Nat.mod_eq_of_lt (show _ < 2 ^ 8 by omega))⟩

theorem exec_pmicWaitEnd_due (spd : Option Spd) {since : Nat} (hserving : s.serving = true) (hphase : (s.chan c).phase = .pmic since)
    (hat : since + 20000000 ≤ s.now) (hboot : s.ddrBooting = false) :
    let t := (s.wr (DMC_STATUS_POWERED c) (b2n spd.isSome)).setChan c fun x => { x with phase := .none, spd := spd }
    exec (.pmicWaitEnd c spd) s = .next (if t.restoring c then t.restoreSpd c else t) := by
  intro t
  have hc := c.isLt
  have hstage : t.rd PWR_BOOT_STATUS_STAGE = s.rd PWR_BOOT_STATUS_STAGE :=
    State.wr_rd_above s _ (show 0x110000 + c.val * 0x4000 + 0x4 < 0x190000 + 0x4 by omega)
  have htboot : t.ddrBooting = false := by
    rw [State.ddrBooting, hstage]
    exact hboot
  simp only [exec, execPmicWaitEnd, hphase, hserving, decide_eq_true hat, Bool.not_true, Bool.or_self, Bool.false_eq_true, if_false]
  refine congrArg Host.Outcome.next (congrArg (ite _ _) (if_neg ?_))
  rw [show State.ddrBooting (State.setChan _ _ _) = false from htboot, Bool.false_and]
  exact Bool.false_ne_true

end

/-- Settles O51: requests line by line, a slot by its order of choice, and the channel's other rows by their times. -/
theorem memoryEvents : Obligations.MemoryEvents := by
  unfold Obligations.MemoryEvents
  refine fun c s hup => ⟨fun rt r addr len => ?_, fun rt r addr data pois => ?_, fun hsr => ?_, ddrCommandSlot_cases,
    fun e he => he.elim State.accessPick_mayIssue State.owedPick_mayIssue, fun i post => State.refreshPick_free,
    fun e more q => exec_ddrReadReturn_read q, fun rank => ⟨exec_refreshDue_due hup, exec_refreshDue_early⟩, exec_hammerWindow_new hup, fun hold => ?_,
    exec_refreshStatusPoll_early, exec_refreshStatusPoll_due hup, rfl, fun again => ?_, fun hfw hen hat => exec_dqsOscRead_early hat,
    fun hfw hen hat => ⟨exec_dqsOscRead_first hup hfw hen hat, fun k n since => exec_dqsOscRead_late hup hfw hen hat⟩,
    fun pass errs => trainDone_host pass errs hup, fun spd since => exec_pmicWaitEnd_due spd⟩
  · exact congrArg Host.Outcome.next (State.when_yes hup)
  · exact congrArg Host.Outcome.next (State.when_yes hup)
  · exact if_pos (State.flag_of_one hsr)
  · exact congrArg Host.Outcome.next (State.when_no (by rw [decide_eq_false (fun hne => hne hold), Bool.and_false]))
  · exact congrArg Host.Outcome.next (State.when_yes hup)

end Sys2Proof.Machine

namespace Sys2Proof.Machine
/-! ## INGEST_PORT_SET on registers that stand twice

The statement compares FEC and EN with the command's flags; the model reads them back from the port's
control register once it has written them.  The two agree on stores in canonical form, which the
statement does not ask for: where the register stands twice in the list, clearing EN makes it the reset word, deletes the first
entry, and the second one, with EN set, comes to light. -/

/-- INGEST_PORT_SET of port 0, from host mailbox 0: everything off. -/
def portOffCmd : FwCmd := ⟨.host 0, 0x0501, 1, 16, 0, 0, List.replicate 16 0, false⟩

/-- Port 0 of the ingest is on and linked, and its control register stands twice; the command is the firmware's next. -/
def twice : State :=
  { State.reset with
    mainUp := true
    duplex := { State.reset.duplex with fwUp := true }
    regs := [(0x150000, 0x7F01), (0x150000, 1), (0x150010, 1)]
    fw := { State.reset.fw with queue := [portOffCmd] } }

theorem twice_begins : twice.Begins 0x0501 portOffCmd [] where
  serving := by decide +kernel
  queue := rfl
  code := rfl
  fresh := by decide +kernel
  len := by decide +kernel
  room := by decide +kernel
  mine := fun n hn => by cases hn

/-- Whether port 0 of the ingest is linked in the state of an outcome. -/
def portLinked : Host.Outcome State Fault Refusal → Bool
  | .next t => t.flag (INGP_PORT_STATUS_LINK 0)
  | _ => false

/-- The port's settings as INGEST_PORT_SET with everything off writes them. -/
def twiceWritten : State :=
  (((((((twice.begun portOffCmd []).wr (INGP_PORT_CTRL_EN 0) 0).wr (INGP_PORT_CTRL_FEC 0) 0).wr (INGP_PORT_CTRL_PTP_EN 0) 0).wr
    (INGP_PORT_CTRL_PTP_DOMAIN 0) 0).wr (INGP_PORT_IP_ADDR 0) 0).wr (INGP_PORT_MAC_LO_ADDR 0) 0).wr (INGP_PORT_MAC_HI_ADDR 0) 0

/-- The link goes where the flags of the command decide. -/
theorem twiceWritten_unlinked :
    portLinked (.next ((((twiceWritten.wr (INGP_PORT_STATUS_LINK 0) 0).wr (INGP_PORT_STATUS_FEC_LOCK 0) 0).ptpElect).ok portOffCmd)) = false := by
  decide +kernel

/-- The link stays where the control register is read back. -/
theorem exec_twice_linked : portLinked (exec .ingestPortSet twice) = true := by decide +kernel

/-- Refutes O38: `twice` keeps its link although the command turns the port off. -/
theorem not_ingestCommands : ¬ Obligations.IngestCommands := by
  unfold Obligations.IngestCommands
  intro h
  obtain ⟨_, hgood⟩ := (h portOffCmd [] twice).1 twice_begins
  have hexec := hgood (by decide +kernel)
  have hlinked := congrArg portLinked hexec
  rw [exec_twice_linked] at hlinked
  have hwritten : portLinked (.next ((((twiceWritten.wr (INGP_PORT_STATUS_LINK 0) 0).wr (INGP_PORT_STATUS_FEC_LOCK 0) 0).ptpElect).ok portOffCmd)) = true :=
    hlinked.symm
  rw [twiceWritten_unlinked] at hwritten
  exact Bool.noConfusion hwritten

end Sys2Proof.Machine

namespace Sys2Proof.Machine
/-! ## What the mailboxes' busy bits cannot reach

The doorbell reads the copied command before it sets the mailbox's busy bit, and the poison of the
payload after it.  The registers of Densum and of the event log lie above the busy bits, and a list of
registers, in canonical form or not, is read and written above an offset whatever stands below it. -/

/-- The entries above the mailboxes' busy bits. -/
def regsAbove (l : List (Nat × Word)) : List (Nat × Word) := l.filter fun e => decide (0x10000 < e.1)

theorem regsAbove_cons (a : Nat) (w : Word) (l : List (Nat × Word)) :
    regsAbove ((a, w) :: l) = if 0x10000 < a then (a, w) :: regsAbove l else regsAbove l := by
  simp only [regsAbove, List.filter_cons, decide_eq_true_eq]

theorem get_regsAbove {j : Nat} (hj : 0x10000 < j) (l : List (Nat × Word)) :
    Sparse.get resetWord (regsAbove l) j = Sparse.get resetWord l j := by
  induction l with
  | nil => rfl
  | cons e l ih =>
    obtain ⟨a, w⟩ := e
    rw [regsAbove_cons]
    split
    · simp only [Sparse.get, ih]
    · next ha => rw [ih, Sparse.get, if_neg (by omega), if_neg (by omega)]

theorem regsAbove_put_above {k : Nat} (hk : 0x10000 < k) (v : Word) (l : List (Nat × Word)) :
    regsAbove (Sparse.put resetWord l k v) = Sparse.put resetWord (regsAbove l) k v := by
  induction l with
  | nil =>
    simp only [Sparse.put, show regsAbove [] = [] from rfl]
    split
    · rfl
    · rw [regsAbove_cons, if_pos hk]
      rfl
  | cons e l ih =>
    obtain ⟨a, w⟩ := e
    rcases Nat.lt_or_ge 0x10000 a with ha | ha
    · simp only [Sparse.put, regsAbove_cons, if_pos ha]
      split_ifs <;> simp only [regsAbove_cons, if_pos ha, if_pos hk, ih]
    · simp only [Sparse.put, regsAbove_cons, if_neg (show ¬ 0x10000 < a by omega), if_neg (show ¬ k < a by omega), if_neg (show k ≠ a by omega), ih]

theorem regsAbove_put_below {k : Nat} (hk : k ≤ 0x10000) (v : Word) (l : List (Nat × Word)) :
    regsAbove (Sparse.put resetWord l k v) = regsAbove l := by
  have hnot : ¬ 0x10000 < k := by omega
  induction l with
  | nil =>
    simp only [Sparse.put]
    split
    · rfl
    · rw [regsAbove_cons, if_neg hnot]
  | cons e l ih =>
    obtain ⟨a, w⟩ := e
    rcases Nat.lt_trichotomy k a with hlt | rfl | hgt
    · simp only [Sparse.put, if_pos hlt]
      split
      · rfl
      · rw [regsAbove_cons, if_neg hnot]
    · simp only [Sparse.put, Nat.lt_irrefl, if_false, if_true]
      split
      · rw [regsAbove_cons, if_neg hnot]
      · rw [regsAbove_cons, regsAbove_cons, if_neg hnot, if_neg hnot]
    · simp only [Sparse.put, if_neg (show ¬ k < a by omega), if_neg (show k ≠ a by omega), regsAbove_cons, ih]

/-- `t` is `s` but for its registers at and below the busy bits, and for the messages to the host. -/
def State.SameAbove (s t : State) : Prop :=
  ∃ r o h, t = { s with regs := r, out := o, host := h } ∧ regsAbove r = regsAbove s.regs

section
variable {s t : State}

theorem State.SameAbove.refl (s : State) : s.SameAbove s := ⟨s.regs, s.out, s.host, rfl, rfl⟩

theorem State.wr_below {f : Fld} (v : Nat) (hf : f.off ≤ 0x10000) : s.SameAbove (s.wr f v) :=
  ⟨_, s.out, s.host, rfl, regsAbove_put_below hf _ s.regs⟩

variable (h : s.SameAbove t)
include h

theorem State.SameAbove.reg {o : Nat} (ho : 0x10000 < o) : t.reg o = s.reg o := by
  obtain ⟨r, out, host, rfl, hr⟩ := h
  exact (get_regsAbove ho r).symm.trans ((congrArg (Sparse.get resetWord · o) hr).trans (get_regsAbove ho s.regs))

theorem State.SameAbove.rd {f : Fld} (hf : 0x10000 < f.off) : t.rd f = s.rd f := congrArg f.get (h.reg hf)

theorem State.SameAbove.flag {f : Fld} (hf : 0x10000 < f.off) : t.flag f = s.flag f := by rw [State.flag, State.flag, h.rd hf]

theorem State.SameAbove.setReg {o : Nat} (ho : 0x10000 < o) (w : Word) : (s.setReg o w).SameAbove (t.setReg o w) := by
  obtain ⟨r, out, host, rfl, hr⟩ := h
  exact ⟨_, out, host, rfl, (regsAbove_put_above ho w r).trans ((congrArg (Sparse.put resetWord · o w) hr).trans (regsAbove_put_above ho w s.regs).symm)⟩

theorem State.SameAbove.wr {f : Fld} (hf : 0x10000 < f.off) (v : Nat) : (s.wr f v).SameAbove (t.wr f v) := by
  rw [State.wr, State.wr, h.reg hf]
  exact h.setReg hf _

theorem State.SameAbove.count {f : Fld} (hf : 0x10000 < f.off) (n : Nat) : (s.count f n).SameAbove (t.count f n) := by
  rw [State.count, State.count, h.rd hf]
  exact h.wr hf _

theorem State.SameAbove.setCause {c : Cause} (hc : 0x10000 < c.off) : (s.setCause c).SameAbove (t.setCause c) := by
  have hset := h.setReg hc (s.reg c.off ||| BitVec.ofNat 32 (2 ^ c.bit))
  have hreg := h.reg hc
  have hfields : { t with regs := (t.setCause c).regs, out := (t.setCause c).out, host := (t.setCause c).host } =
      { s with regs := (t.setCause c).regs, out := (t.setCause c).out, host := (t.setCause c).host } := by
    obtain ⟨r, out, host, he, _⟩ := h
    rw [he]
  refine ⟨(t.setCause c).regs, (t.setCause c).out, (t.setCause c).host, ?_, ?_⟩
  · refine ((State.setCause_eq (s := t) c).trans hfields).trans ?_
    rw [State.setCause_eq (s := s) c]
  · obtain ⟨r, out, host, he, hr⟩ := hset
    rw [State.setCause_regs, State.setCause_regs, hreg, he]
    exact hr

theorem State.SameAbove.setLog (l : EventLog) : State.SameAbove { s with log := l } { t with log := l } := by
  obtain ⟨r, out, host, rfl, hr⟩ := h
  exact ⟨r, out, host, rfl, hr⟩

theorem State.SameAbove.report (code source detail : Nat) : (s.report code source detail).SameAbove (t.report code source detail) := by
  have hlog : t.log = s.log := by obtain ⟨r, out, host, rfl, _⟩ := h; rfl
  rw [State.report, State.report, hlog]
  split
  · exact h.setLog _
  · exact (h.count (show 0x10000 < 0x180000 + 0x10 + _ * 4 by omega) 1).setCause (show 0x10000 < 0x180040 by decide)

end

/-! ## Reads of Densum, whatever the busy bits are -/

section
variable {s t : State} (h : s.SameAbove t)
include h

theorem State.SameAbove.dsmRegion (a : Nat) : t.dsmRegion a = s.dsmRegion a := by
  have hp (k : Nat) : (t.flag (DSM_REG_CTRL_EN k) && decide (t.rd (DSM_REG_BASE_BASE k) * 65536 ≤ a ∧
        a < t.rd (DSM_REG_BASE_BASE k) * 65536 + t.rd (DSM_REG_SIZE_SIZE k) * 65536)) =
      (s.flag (DSM_REG_CTRL_EN k) && decide (s.rd (DSM_REG_BASE_BASE k) * 65536 ≤ a ∧
        a < s.rd (DSM_REG_BASE_BASE k) * 65536 + s.rd (DSM_REG_SIZE_SIZE k) * 65536)) := by
    rw [h.flag (show 0x10000 < 0x100000 + 0x40c + k * 16 by omega), h.rd (f := DSM_REG_BASE_BASE k) (show 0x10000 < 0x100000 + 0x400 + k * 16 by omega),
      h.rd (f := DSM_REG_SIZE_SIZE k) (show 0x10000 < 0x100000 + 0x404 + k * 16 by omega)]
  simp only [State.dsmRegion, hp]

theorem State.SameAbove.dsmAllowed (req a : Nat) : t.dsmAllowed req a false = s.dsmAllowed req a false := by
  rw [State.dsmAllowed, State.dsmAllowed, h.dsmRegion]
  cases s.dsmRegion a with
  | none => rfl
  | some k => exact congrArg (Nat.testBit · req) (h.rd (f := DSM_REG_PERM_READ k) (show 0x10000 < 0x100000 + 0x408 + k * 16 by omega))

theorem State.SameAbove.dsm : t.dsm = s.dsm := by
  obtain ⟨r, out, host, rfl, _⟩ := h
  rfl

theorem State.SameAbove.innerRead (key : Nat) : t.innerRead key = s.innerRead key := by
  obtain ⟨r, out, host, rfl, _⟩ := h
  rfl

theorem State.SameAbove.rebuild (p x : Nat) : t.rebuild p x = s.rebuild p x := by
  have hlost : t.lostLines p = s.lostLines p := by simp only [State.lostLines, h.innerRead]
  simp only [State.rebuild, hlost, h.innerRead]

theorem State.SameAbove.pageSeal (p : Nat) : t.pageSeal p = s.pageSeal p := by
  rw [State.pageSeal, State.pageSeal, h.dsmRegion, h.dsm]
  cases s.dsmRegion (p * 4096) with
  | none => rfl
  | some k => exact if_congr (by rw [h.flag (show 0x10000 < 0x100000 + 0x40c + k * 16 by omega)]) rfl rfl

theorem State.SameAbove.dsmPermErr (req addr : Nat) : (s.dsmPermErr req addr).SameAbove (t.dsmPermErr req addr) :=
  ((h.count (f := DSM_PERM_ERR_COUNT) (by decide) 1).setCause (by decide)).report _ _ _

theorem State.SameAbove.recurFind (line : Nat) : t.recurFind line = s.recurFind line := by
  have hp (e : Nat) : (t.flag (DSM_RECUR_CNT_VALID e) && decide (t.rd (DSM_RECUR_ADDR_LINE e) = line)) =
      (s.flag (DSM_RECUR_CNT_VALID e) && decide (s.rd (DSM_RECUR_ADDR_LINE e) = line)) := by
    rw [h.flag (show 0x10000 < 0x100000 + 0x804 + e * 8 by omega), h.rd (f := DSM_RECUR_ADDR_LINE e) (show 0x10000 < 0x100000 + 0x800 + e * 8 by omega)]
  simp only [State.recurFind, hp]

theorem State.SameAbove.recurTake : t.recurTake = s.recurTake := by
  have hvalid (e : Nat) : t.flag (DSM_RECUR_CNT_VALID e) = s.flag (DSM_RECUR_CNT_VALID e) := h.flag (show 0x10000 < 0x100000 + 0x804 + e * 8 by omega)
  have hraised (e : Nat) : t.flag (DSM_RECUR_CNT_RAISED e) = s.flag (DSM_RECUR_CNT_RAISED e) := h.flag (show 0x10000 < 0x100000 + 0x804 + e * 8 by omega)
  have hcount (e : Nat) : t.rd (DSM_RECUR_CNT_COUNT e) = s.rd (DSM_RECUR_CNT_COUNT e) := h.rd (show 0x10000 < 0x100000 + 0x804 + e * 8 by omega)
  simp only [State.recurTake, hvalid, hraised, hcount]

end

/-- One more correction of the line that entry `e` follows. -/
def State.recurBump (s : State) (addr e n : Nat) : State :=
  let s := s.wr (DSM_RECUR_CNT_COUNT e) (min n 255)
  if decide (max 1 (s.rd DSM_RECUR_CTRL_THRESH) ≤ min n 255) && !s.flag (DSM_RECUR_CNT_RAISED e) then
    ((s.wr (DSM_RECUR_CNT_RAISED e) 1).setCause (causeDsm 2)).report EV_LINE_WEAK (src 2 0) (detailAddr (dsmBase + addr) 0xFF (min n 255))
  else s

theorem State.recurHit_eq (s : State) (addr : Nat) : s.recurHit addr = match s.recurFind (bits addr 26 6) with
    | some e => s.recurBump addr e (s.rd (DSM_RECUR_CNT_COUNT e) + 1)
    | none => match s.recurTake with
      | some e => (((s.wr (DSM_RECUR_ADDR_LINE e) (bits addr 26 6)).wr (DSM_RECUR_CNT_VALID e) 1).wr (DSM_RECUR_CNT_RAISED e) 0).recurBump addr e 1
      | none => s.count DSM_RECUR_FULL_COUNT 1 := rfl

section
variable {s t : State} (h : s.SameAbove t)
include h

theorem State.SameAbove.recurBump (addr e n : Nat) : (s.recurBump addr e n).SameAbove (t.recurBump addr e n) := by
  have hcnt : 0x10000 < 0x100000 + 0x804 + e * 8 := by omega
  have hw := h.wr (f := DSM_RECUR_CNT_COUNT e) hcnt (min n 255)
  simp only [State.recurBump, hw.rd (f := DSM_RECUR_CTRL_THRESH) (by decide), hw.flag (f := DSM_RECUR_CNT_RAISED e) hcnt]
  split
  · exact ((hw.wr (f := DSM_RECUR_CNT_RAISED e) hcnt 1).setCause (by decide)).report _ _ _
  · exact hw

theorem State.SameAbove.recurHit (addr : Nat) : (s.recurHit addr).SameAbove (t.recurHit addr) := by
  rw [State.recurHit_eq, State.recurHit_eq, h.recurFind]
  cases s.recurFind (bits addr 26 6) with
  | some e =>
    dsimp only
    rw [h.rd (f := DSM_RECUR_CNT_COUNT e) (show 0x10000 < 0x100000 + 0x804 + e * 8 by omega)]
    exact h.recurBump addr e _
  | none =>
    dsimp only
    rw [h.recurTake]
    cases s.recurTake with
    | some e =>
      have hcnt : 0x10000 < 0x100000 + 0x804 + e * 8 := by omega
      have haddr := h.wr (f := DSM_RECUR_ADDR_LINE e) (show 0x10000 < 0x100000 + 0x800 + e * 8 by omega) (bits addr 26 6)
      exact ((haddr.wr (f := DSM_RECUR_CNT_VALID e) hcnt 1).wr (f := DSM_RECUR_CNT_RAISED e) hcnt 0).recurBump addr e 1
    | none => exact h.count (f := DSM_RECUR_FULL_COUNT) (by decide) 1

/-- A line read of Densum answers the same, and keeps what is the same. -/
theorem State.SameAbove.dsmRawRead (la : Nat) : (t.dsmRawRead la).1 = (s.dsmRawRead la).1 ∧ (s.dsmRawRead la).2.SameAbove (t.dsmRawRead la).2 := by
  simp only [State.dsmRawRead, h.innerRead, h.pageSeal, h.rebuild]
  split
  · split
    · exact ⟨rfl, (((h.count (f := DSM_REBUILT_COUNT) (by decide) 1).setCause (by decide)).report _ _ _).recurHit _⟩
    · exact ⟨rfl, ((h.count (f := DSM_UE_LINES_COUNT) (by decide) 1).setCause (by decide)).report _ _ _⟩
  · split
    · exact ⟨rfl, (h.count (f := DSM_CE_LINES_COUNT) (by decide) 1).recurHit _⟩
    · split
      · exact ⟨rfl, h.count (f := DSM_POISON_RD_COUNT) (by decide) 1⟩
      · exact ⟨rfl, h⟩

theorem State.SameAbove.freeLine : t.freeLine.1 = s.freeLine.1 ∧ s.freeLine.2.SameAbove t.freeLine.2 := by
  obtain ⟨r, out, host, rfl, hr⟩ := h
  exact ⟨rfl, r, out, host, rfl, hr⟩

theorem State.SameAbove.lineRead {req la : Nat} (hla : inDsm la = true) :
    (t.lineRead req la).1 = (s.lineRead req la).1 ∧ (s.lineRead req la).2.SameAbove (t.lineRead req la).2 := by
  have hread (u : State) : u.lineRead req la = (⟨(u.dsmReadLine req la).1.data, (u.dsmReadLine req la).1.poison, (u.dsmReadLine req la).1.err⟩,
      (u.dsmReadLine req la).2) := if_pos hla
  have hline : (t.dsmReadLine req la).1 = (s.dsmReadLine req la).1 ∧ (s.dsmReadLine req la).2.SameAbove (t.dsmReadLine req la).2 := by
    simp only [State.dsmReadLine, h.dsmAllowed]
    split
    · exact h.dsmRawRead la
    · obtain ⟨hdata, hsame⟩ := (h.dsmPermErr req la).freeLine
      exact ⟨by rw [hdata], hsame⟩
  obtain ⟨hans, hsame⟩ := hline
  exact ⟨by rw [hread, hread, hans], by rw [hread, hread]; exact hsame⟩

end

/-- Reads of lines of Densum, one after the other, answer the same. -/
theorem foldl_lineRead_same {req base : Nat} {l : List Nat} (hl : ∀ i ∈ l, inDsm ((base + i) * 64) = true) {x y : MemAns × State} (hans : y.1 = x.1)
    (h : x.2.SameAbove y.2) :
    let read := fun (x : MemAns × State) (i : Nat) =>
      let y := x.2.lineRead req ((base + i) * 64)
      ((⟨x.1.data ++ y.1.data, x.1.poison || y.1.poison, x.1.err || y.1.err⟩ : MemAns), y.2)
    (l.foldl read y).1 = (l.foldl read x).1 := by
  induction l generalizing x y with
  | nil => exact hans
  | cons i l ih =>
    obtain ⟨hline, hsame⟩ := h.lineRead (req := req) (hl i List.mem_cons_self)
    exact ih (fun j hj => hl j (List.mem_cons_of_mem i hj)) (by simp only [hline, hans]) hsame

/-- A read that stays in Densum answers the same whatever the busy bits are. -/
theorem State.SameAbove.memRead {s t : State} (h : s.SameAbove t) (req : Nat) {addr len : Nat} (hlo : dsmBase ≤ addr)
    (hhi : addr + len ≤ dsmBase + dsmSize) : (t.memRead req addr len).1 = (s.memRead req addr len).1 := by
  rw [State.memRead, State.memRead]
  split
  · rfl
  · next hlen =>
    have hlines : ∀ i ∈ List.range ((addr + len - 1) / 64 + 1 - addr / 64), inDsm ((addr / 64 + i) * 64) = true := by
      intro i hi
      have hi' := List.mem_range.mp hi
      rw [inDsm, decide_eq_true_eq]
      simp only [dsmBase, dsmSize] at hlo hhi ⊢
      omega
    have hfold := foldl_lineRead_same (req := req) hlines (x := (⟨[], false, false⟩, s)) (y := (⟨[], false, false⟩, t)) rfl h
    simp only [hfold]

end Sys2Proof.Machine

namespace Sys2Proof.Machine
/-! ## Doorbells copy mailboxes into the command queue -/

/-- A doorbell word with one bit set. -/
theorem oneBit_testBit {w n : Nat} (hn : n < w) (m : Nat) : (BitVec.ofNat w (2 ^ n)).toNat.testBit m = decide (n = m) := by
  rw [BitVec.toNat_ofNat, Nat.mod_eq_of_lt (Nat.pow_lt_pow_right (by decide) hn), Nat.testBit_two_pow]

theorem exec_mbxDoorbell_one {s : State} (hup : s.mainUp = true) (n : Fin 16) :
    exec (.mbxDoorbell (BitVec.ofNat 16 (2 ^ n.val))) s = .next (s.ringHostMbx n) := by
  have hbit (m : Fin 16) : (BitVec.ofNat 16 (2 ^ n.val)).toNat.testBit m.val = decide (n.val = m.val) := oneBit_testBit n.isLt m.val
  have hskip (t : State) (m : Fin 16) (hm : m ≠ n) :
      (if (BitVec.ofNat 16 (2 ^ n.val)).toNat.testBit m.val then t.ringHostMbx m else t) = t :=
    if_neg (by rw [hbit, decide_eq_true_eq]; exact fun e => hm (Fin.ext e.symm))
  refine congrArg Host.Outcome.next ((State.when_yes hup).trans ((foldl_one (List.mem_finRange n) (List.nodup_finRange 16)
    (fun m _ hm => hskip s m hm) (fun m _ hm => hskip _ m hm)).trans (if_pos ?_)))
  rw [hbit, decide_eq_true_eq]

theorem exec_ringDoorbell_one {s : State} (hup : s.mainUp = true) (n : Fin 4) :
    exec (.ringDoorbell (BitVec.ofNat 4 (2 ^ n.val))) s = .next (s.ringRingMbx n) := by
  have hbit (m : Fin 4) : (BitVec.ofNat 4 (2 ^ n.val)).toNat.testBit m.val = decide (n.val = m.val) := oneBit_testBit n.isLt m.val
  have hskip (t : State) (m : Fin 4) (hm : m ≠ n) :
      (if (BitVec.ofNat 4 (2 ^ n.val)).toNat.testBit m.val then t.ringRingMbx m else t) = t :=
    if_neg (by rw [hbit, decide_eq_true_eq]; exact fun e => hm (Fin.ext e.symm))
  refine congrArg Host.Outcome.next ((State.when_yes hup).trans ((foldl_one (List.mem_finRange n) (List.nodup_finRange 4)
    (fun m _ hm => hskip s m hm) (fun m _ hm => hskip _ m hm)).trans (if_pos ?_)))
  rw [hbit, decide_eq_true_eq]

/-- A ring mailbox that is free: its copy is the firmware's next command, with the poison of the copied payload. -/
theorem State.ringRingMbx_free {s : State} {n : Fin 4} (hfree : ¬ ((s.rd MBX_BUSY_RING).testBit n ∨ (s.rd MBX_DONE_RING).testBit n)) :
    let r := (s.copyMbx (dsmBase + 0x2000 + n * 512) (16 + n)).fwRead (copyAddr (16 + n)) 512
    let bad := (r.2.memRead reqCtl (copyAddr (16 + n) + 16) (min 496 (leAt r.1 4 2))).1.poison
    s.ringRingMbx n = (r.2.wr MBX_BUSY_RING (s.rd MBX_BUSY_RING + 2 ^ n.val)).pushCmd
      ⟨.ring n, leAt r.1 0 2, leAt r.1 2 2, leAt r.1 4 2, leAt r.1 8 2, leAt r.1 10 2, slice r.1 16 (min 496 (leAt r.1 4 2)), bad⟩ := by
  intro r bad
  have hn := n.isLt
  have hpoison : ((r.2.wr MBX_BUSY_RING (s.rd MBX_BUSY_RING + 2 ^ n.val)).memRead reqCtl (copyAddr (16 + n) + 16) (min 496 (leAt r.1 4 2))).1.poison = bad := by
    have hsame := State.wr_below (s := r.2) (f := MBX_BUSY_RING) (s.rd MBX_BUSY_RING + 2 ^ n.val) (by decide)
    refine congrArg MemAns.poison (hsame.memRead reqCtl ?_ ?_)
    · simp only [copyAddr]
      omega
    · simp only [copyAddr, dsmSize]
      omega
  rw [← hpoison]
  refine if_neg ?_
  rw [Bool.or_eq_true]
  exact hfree

/-- Settles O24: one bit rings one mailbox; a ring mailbox's poison is read beside the busy bit. -/
theorem doorbellCopies : Obligations.DoorbellCopies := by
  unfold Obligations.DoorbellCopies
  refine ⟨fun n s hup => ?_, fun n s hup => ?_⟩
  · refine ⟨fun hbusy => (exec_mbxDoorbell_one hup n).trans (congrArg Host.Outcome.next (if_pos ?_)),
      fun hfree => (exec_mbxDoorbell_one hup n).trans (congrArg Host.Outcome.next (if_neg ?_))⟩
    · rw [Bool.or_eq_true]
      exact hbusy
    · rw [Bool.or_eq_true]
      exact hfree
  · refine ⟨fun hbusy => (exec_ringDoorbell_one hup n).trans (congrArg Host.Outcome.next (if_pos ?_)),
      fun hfree => (exec_ringDoorbell_one hup n).trans (congrArg Host.Outcome.next (State.ringRingMbx_free hfree))⟩
    rw [Bool.or_eq_true]
    exact hbusy

end Sys2Proof.Machine
